-- ==== Sys2Proof/Word.lean ====
section
/-! DEFINITION. The word types of the G9 (R2): a dword register holds 64 bits, a byte 8. -/

namespace Sys2Proof

/-- A 64-bit register, address or dword. -/
abbrev Word := BitVec 64

/-- A byte of memory. -/
abbrev Byte := BitVec 8

/-- A 256-byte vector register: lane i is bits 32i + 31 to 32i. -/
abbrev Vec := BitVec 2048

end Sys2Proof
end

