-- ==== Sys2Proof/Syntax.lean ====
section
/-! DEFINITION. The instruction set of the Golgon 9 as data: one constructor for each row of the opcode table.
The first 275 constructors are the instruction words (spec 03 and 06 to 22); the 96 after them are the events, the
steps the part takes without an instruction word of its own and so without fields (what an event carries stands in State.ev). A constructor
names its rule of spec/. The order is the table's but for two things: the rows with fields that the compiler numbers first come
first, and majors 0x69, 0x6C, 0x6D and 0x7F come last. -/

namespace Sys2Proof

/-- Element types by the 4-bit code of R32. -/
inductive ElemTy where
  | f32 | bf16 | f16 | e4m3 | e5m2 | e2m1 | bpn | f64 | i8 | i16 | i32 | i64 | n8 | n16 | n32 | n64
  deriving DecidableEq, Repr

/-- Scalar float type, the FMT bit of R131 and R136. -/
inductive FT where
  | f32 | f64
  deriving DecidableEq, Repr

/-- Vector float type, the TY field of R276. -/
inductive VF where
  | f32 | bf16 | f16 | f64
  deriving DecidableEq, Repr

/-- Reduction type, R286. -/
inductive RF where
  | f32 | bf16 | f16
  deriving DecidableEq, Repr

/-- Float type of an atomic or a cell operation, R164. -/
inductive AF where
  | f32 | f64 | bf16 | f16
  deriving DecidableEq, Repr

/-- Rounding field, R55; dyn is the mode in frm. -/
inductive RM where
  | rne | rtz | rdn | rup | sr | dyn
  deriving DecidableEq, Repr

/-- Types of FCVT, R134. -/
inductive XT where
  | f64 | f32 | bf16 | f16 | i32 | n32 | i64 | n64
  deriving DecidableEq, Repr

/-- Scopes in the order of R6. -/
inductive Scope where
  | fi | co | fr | die | pkg | dom | sys
  deriving DecidableEq, Repr

/-- Types of LD, R145. -/
inductive LdTy where
  | i8 | i16 | i32 | n64 | n8 | n16 | n32
  deriving DecidableEq, Repr

/-- Sizes of ST, R146. -/
inductive StSz where
  | b | h | w | d
  deriving DecidableEq, Repr

/-- Modes of LDFE, R148. -/
inductive LdMode where
  | wf | wfe
  deriving DecidableEq, Repr

/-- Modes of STFE, R148. -/
inductive StMode where
  | we | sf
  deriving DecidableEq, Repr

/-- Integer element width, the W field of R280. -/
inductive IW where
  | w32 | w16 | w8 | w64
  deriving DecidableEq, Repr

/-- Predicates of VCMP, R282. -/
inductive VPred where
  | eq | ne | lt | le | gt | ge
  deriving DecidableEq, Repr

/-- Types of VCMP, R282. -/
inductive CmpTy where
  | f32 | i32 | n32 | f64 | i64 | n64
  deriving DecidableEq, Repr

/-- Predicates of OCMP, R313. -/
inductive OPred where
  | eq | ne | lt | le | gt | ge | klt | kgt
  deriving DecidableEq, Repr

/-- Types of OCMP, R313. -/
inductive OcTy where
  | f32 | bf16 | f16 | i32 | n32
  deriving DecidableEq, Repr

/-- Width of a spore variate, R332. -/
inductive SpTy where
  | w32 | w64
  deriving DecidableEq, Repr

/-- Gang size, R30. -/
inductive GangN where
  | n2 | n4 | n8
  deriving DecidableEq, Repr

/-- Modes of LDT, R220. -/
inductive LdtMode where
  | plain | wf | wfe
  deriving DecidableEq, Repr

/-- Modes of STT, R220. -/
inductive SttMode where
  | plain | we | sf
  deriving DecidableEq, Repr

/-- Size of an integer atomic, R163. -/
inductive SZ where
  | w | d
  deriving DecidableEq, Repr

/-- One constructor for each row of the opcode table. -/
inductive Instr where
  /-- ADD, R124. -/
  | add (d : BitVec 6) (a : BitVec 6) (b : BitVec 6)
  /-- SUB, R124. -/
  | sub (d : BitVec 6) (a : BitVec 6) (b : BitVec 6)
  /-- AND, R124. -/
  | and (d : BitVec 6) (a : BitVec 6) (b : BitVec 6)
  /-- OR, R124. -/
  | or (d : BitVec 6) (a : BitVec 6) (b : BitVec 6)
  /-- XOR, R124. -/
  | xor (d : BitVec 6) (a : BitVec 6) (b : BitVec 6)
  /-- ANDN, R124. -/
  | andn (d : BitVec 6) (a : BitVec 6) (b : BitVec 6)
  /-- SLL, R124. -/
  | sll (d : BitVec 6) (a : BitVec 6) (b : BitVec 6)
  /-- SRL, R124. -/
  | srl (d : BitVec 6) (a : BitVec 6) (b : BitVec 6)
  /-- SRA, R124. -/
  | sra (d : BitVec 6) (a : BitVec 6) (b : BitVec 6)
  /-- SLT, R124. -/
  | slt (d : BitVec 6) (a : BitVec 6) (b : BitVec 6)
  /-- SLTU, R124. -/
  | sltu (d : BitVec 6) (a : BitVec 6) (b : BitVec 6)
  /-- MIN, R124. -/
  | min (d : BitVec 6) (a : BitVec 6) (b : BitVec 6)
  /-- MAX, R124. -/
  | max (d : BitVec 6) (a : BitVec 6) (b : BitVec 6)
  /-- MINU, R124. -/
  | minu (d : BitVec 6) (a : BitVec 6) (b : BitVec 6)
  /-- MAXU, R124. -/
  | maxu (d : BitVec 6) (a : BitVec 6) (b : BitVec 6)
  /-- CLZ, R124. -/
  | clz (d : BitVec 6) (a : BitVec 6)
  /-- CTZ, R124. -/
  | ctz (d : BitVec 6) (a : BitVec 6)
  /-- POPC, R124. -/
  | popc (d : BitVec 6) (a : BitVec 6)
  /-- ROL, R124. -/
  | rol (d : BitVec 6) (a : BitVec 6) (b : BitVec 6)
  /-- ROR, R124. -/
  | ror (d : BitVec 6) (a : BitVec 6) (b : BitVec 6)
  /-- ADDI, R125. -/
  | addi (d : BitVec 6) (a : BitVec 6) (i : BitVec 13)
  /-- ANDI, R126. -/
  | andi (d : BitVec 6) (a : BitVec 6) (i : BitVec 10)
  /-- ORI, R126. -/
  | ori (d : BitVec 6) (a : BitVec 6) (i : BitVec 10)
  /-- XORI, R126. -/
  | xori (d : BitVec 6) (a : BitVec 6) (i : BitVec 10)
  /-- SLLI, R126. -/
  | slli (d : BitVec 6) (a : BitVec 6) (s : BitVec 6)
  /-- SRLI, R126. -/
  | srli (d : BitVec 6) (a : BitVec 6) (s : BitVec 6)
  /-- SRAI, R126. -/
  | srai (d : BitVec 6) (a : BitVec 6) (s : BitVec 6)
  /-- SLTI, R126. -/
  | slti (d : BitVec 6) (a : BitVec 6) (i : BitVec 10)
  /-- SLTIU, R126. -/
  | sltiu (d : BitVec 6) (a : BitVec 6) (i : BitVec 10)
  /-- LUI, R127. -/
  | lui (d : BitVec 6) (i : BitVec 19)
  /-- ADRP, R127. -/
  | adrp (d : BitVec 6) (i : BitVec 19)
  /-- MUL, R128. -/
  | mul (d : BitVec 6) (a : BitVec 6) (b : BitVec 6)
  /-- MULH, R128. -/
  | mulh (d : BitVec 6) (a : BitVec 6) (b : BitVec 6)
  /-- MULHU, R128. -/
  | mulhu (d : BitVec 6) (a : BitVec 6) (b : BitVec 6)
  /-- MULHSU, R128. -/
  | mulhsu (d : BitVec 6) (a : BitVec 6) (b : BitVec 6)
  /-- DIV, R128. -/
  | div (d : BitVec 6) (a : BitVec 6) (b : BitVec 6)
  /-- DIVU, R128. -/
  | divu (d : BitVec 6) (a : BitVec 6) (b : BitVec 6)
  /-- REM, R128. -/
  | rem (d : BitVec 6) (a : BitVec 6) (b : BitVec 6)
  /-- REMU, R128. -/
  | remu (d : BitVec 6) (a : BitVec 6) (b : BitVec 6)
  /-- MOVX_READ, R129. -/
  | movxRead (d : BitVec 6) (a : BitVec 6) (i : BitVec 10)
  /-- MOVX_WRITE, R129. -/
  | movxWrite (a : BitVec 6) (i : BitVec 10) (s : BitVec 6)
  /-- FADD, R132. -/
  | fadd (t : FT) (m : RM) (d : BitVec 6) (a : BitVec 6) (b : BitVec 6)
  /-- FSUB, R132. -/
  | fsub (t : FT) (m : RM) (d : BitVec 6) (a : BitVec 6) (b : BitVec 6)
  /-- FMUL, R132. -/
  | fmul (t : FT) (m : RM) (d : BitVec 6) (a : BitVec 6) (b : BitVec 6)
  /-- FDIV, R132. -/
  | fdiv (t : FT) (m : RM) (d : BitVec 6) (a : BitVec 6) (b : BitVec 6)
  /-- FSQRT, R132. -/
  | fsqrt (t : FT) (m : RM) (d : BitVec 6) (a : BitVec 6)
  /-- FCVT, R134. -/
  | fcvt (m : RM) (s : Bool) (d : BitVec 6) (a : BitVec 6) (t : XT) (u : XT)
  /-- FMIN, R133. -/
  | fmin (t : FT) (d : BitVec 6) (a : BitVec 6) (b : BitVec 6)
  /-- FMAX, R133. -/
  | fmax (t : FT) (d : BitVec 6) (a : BitVec 6) (b : BitVec 6)
  /-- FSGNJ, R133. -/
  | fsgnj (t : FT) (d : BitVec 6) (a : BitVec 6) (b : BitVec 6)
  /-- FSGNJN, R133. -/
  | fsgnjn (t : FT) (d : BitVec 6) (a : BitVec 6) (b : BitVec 6)
  /-- FSGNJX, R133. -/
  | fsgnjx (t : FT) (d : BitVec 6) (a : BitVec 6) (b : BitVec 6)
  /-- FEQ, R133. -/
  | feq (t : FT) (d : BitVec 6) (a : BitVec 6) (b : BitVec 6)
  /-- FLT, R133. -/
  | flt (t : FT) (d : BitVec 6) (a : BitVec 6) (b : BitVec 6)
  /-- FLE, R133. -/
  | fle (t : FT) (d : BitVec 6) (a : BitVec 6) (b : BitVec 6)
  /-- FCLASS, R135. -/
  | fclass (t : FT) (d : BitVec 6) (a : BitVec 6)
  /-- FMADD, R136. -/
  | fmadd (t : FT) (m : RM) (d : BitVec 6) (a : BitVec 6) (b : BitVec 6)
  /-- FMSUB, R136. -/
  | fmsub (t : FT) (m : RM) (d : BitVec 6) (a : BitVec 6) (b : BitVec 6)
  /-- FNMADD, R136. -/
  | fnmadd (t : FT) (m : RM) (d : BitVec 6) (a : BitVec 6) (b : BitVec 6)
  /-- FNMSUB, R136. -/
  | fnmsub (t : FT) (m : RM) (d : BitVec 6) (a : BitVec 6) (b : BitVec 6)
  /-- SEL, R137. -/
  | sel (d : BitVec 6) (a : BitVec 6) (b : BitVec 6) (c : BitVec 6)
  /-- BEQ, R99. -/
  | beq (a : BitVec 6) (b : BitVec 6) (o : BitVec 10)
  /-- BNE, R99. -/
  | bne (a : BitVec 6) (b : BitVec 6) (o : BitVec 10)
  /-- BLT, R99. -/
  | blt (a : BitVec 6) (b : BitVec 6) (o : BitVec 10)
  /-- BGE, R99. -/
  | bge (a : BitVec 6) (b : BitVec 6) (o : BitVec 10)
  /-- BLTU, R99. -/
  | bltu (a : BitVec 6) (b : BitVec 6) (o : BitVec 10)
  /-- BGEU, R99. -/
  | bgeu (a : BitVec 6) (b : BitVec 6) (o : BitVec 10)
  /-- BEQZ, R100. -/
  | beqz (a : BitVec 6) (o : BitVec 18)
  /-- BNEZ, R100. -/
  | bnez (a : BitVec 6) (o : BitVec 18)
  /-- JAL, R102. -/
  | jal (d : BitVec 6) (o : BitVec 19)
  /-- JALR, R103. -/
  | jalr (d : BitVec 6) (a : BitVec 6) (i : BitVec 13)
  /-- LOOPN, R101. -/
  | loopn (a : BitVec 6) (o : BitVec 18)
  /-- REP, R104. -/
  | rep (l : BitVec 4) (c : BitVec 6) (m : BitVec 4) (s : BitVec 4)
  /-- GANG, R106. -/
  | gang (n : GangN)
  /-- LAUNCH, R112. -/
  | launch (d : BitVec 6) (a : BitVec 6) (b : BitVec 6)
  /-- JOIN, R114. -/
  | join (d : BitVec 6) (a : BitVec 6)
  /-- LEAVE, R114. -/
  | leave (a : BitVec 6)
  /-- PHASE, R116. -/
  | phase (a : BitVec 6)
  /-- GBAR, R117. -/
  | gbar (a : BitVec 6)
  /-- SGET, R119. -/
  | sget (d : BitVec 6)
  /-- HSWAIT, R121. -/
  | hswait (d : BitVec 6) (n : BitVec 4) (b : BitVec 6)
  /-- HSTRY, R121. -/
  | hstry (d : BitVec 6) (n : BitVec 4) (b : BitVec 6)
  /-- HSPOST, R121. -/
  | hspost (n : BitVec 4) (b : BitVec 6)
  /-- HSSET, R121. -/
  | hsset (n : BitVec 4) (b : BitVec 6)
  /-- HSRD, R121. -/
  | hsrd (d : BitVec 6) (n : BitVec 4)
  /-- LD, R145. -/
  | ld (t : LdTy) (d : BitVec 6) (a : BitVec 6) (i : BitVec 10)
  /-- ST, R146. -/
  | st (t : StSz) (a : BitVec 6) (i : BitVec 10) (b : BitVec 6)
  /-- LDFE, R148. -/
  | ldfe (m : LdMode) (d : BitVec 6) (a : BitVec 6) (i : BitVec 10)
  /-- STFE, R148. -/
  | stfe (m : StMode) (a : BitVec 6) (i : BitVec 10) (b : BitVec 6)
  /-- VLD, R152. -/
  | vld (t : ElemTy) (d : BitVec 5) (x : BitVec 6) (k : BitVec 3)
  /-- VLDS, R152. -/
  | vlds (t : ElemTy) (d : BitVec 5) (x : BitVec 6) (s : BitVec 5) (k : BitVec 3)
  /-- VST, R152. -/
  | vst (t : ElemTy) (x : BitVec 6) (d : BitVec 5) (k : BitVec 3)
  /-- VSTS, R152. -/
  | vsts (t : ElemTy) (x : BitVec 6) (d : BitVec 5) (s : BitVec 5) (k : BitVec 3)
  /-- VLDX, R154. -/
  | vldx (t : ElemTy) (d : BitVec 5) (b : BitVec 5) (i : BitVec 5) (k : BitVec 3)
  /-- VSTX, R154. -/
  | vstx (t : ElemTy) (b : BitVec 5) (i : BitVec 5) (d : BitVec 5) (k : BitVec 3)
  /-- LDT, R221. -/
  | ldt (m : LdtMode) (t : ElemTy) (d : BitVec 6) (a : BitVec 6) (b : BitVec 6)
  /-- VLDT, R222. -/
  | vldt (t : ElemTy) (d : BitVec 5) (a : BitVec 6) (b : BitVec 5) (k : BitVec 2)
  /-- STT, R221. -/
  | stt (m : SttMode) (t : ElemTy) (a : BitVec 6) (b : BitVec 6) (d : BitVec 6)
  /-- VSTT, R222. -/
  | vstt (t : ElemTy) (a : BitVec 6) (b : BitVec 5) (d : BitVec 5) (k : BitVec 2)
  /-- SHINV, R229. -/
  | shinv (s : Scope) (a : BitVec 6)
  /-- SHLOC, R231. -/
  | shloc (d : BitVec 6) (a : BitVec 6) (b : BitVec 6)
  /-- REL, R248. -/
  | rel (s : Scope)
  /-- ACQ, R249. -/
  | acq (s : Scope)
  /-- FENCE, R250. -/
  | fence (s : Scope)
  /-- AMOADD, R163. -/
  | amoadd (z : SZ) (d : BitVec 6) (a : BitVec 6) (b : BitVec 6)
  /-- AMOAND, R163. -/
  | amoand (z : SZ) (d : BitVec 6) (a : BitVec 6) (b : BitVec 6)
  /-- AMOOR, R163. -/
  | amoor (z : SZ) (d : BitVec 6) (a : BitVec 6) (b : BitVec 6)
  /-- AMOXOR, R163. -/
  | amoxor (z : SZ) (d : BitVec 6) (a : BitVec 6) (b : BitVec 6)
  /-- AMOMIN, R163. -/
  | amomin (z : SZ) (d : BitVec 6) (a : BitVec 6) (b : BitVec 6)
  /-- AMOMAX, R163. -/
  | amomax (z : SZ) (d : BitVec 6) (a : BitVec 6) (b : BitVec 6)
  /-- AMOMINU, R163. -/
  | amominu (z : SZ) (d : BitVec 6) (a : BitVec 6) (b : BitVec 6)
  /-- AMOMAXU, R163. -/
  | amomaxu (z : SZ) (d : BitVec 6) (a : BitVec 6) (b : BitVec 6)
  /-- AMOSWP, R163. -/
  | amoswp (z : SZ) (d : BitVec 6) (a : BitVec 6) (b : BitVec 6)
  /-- AMOCAS, R163. -/
  | amocas (z : SZ) (d : BitVec 6) (a : BitVec 6) (b : BitVec 6)
  /-- AMOFADD, R164. -/
  | amofadd (t : AF) (d : BitVec 6) (a : BitVec 6) (b : BitVec 6)
  /-- AMOFMIN, R164. -/
  | amofmin (t : AF) (d : BitVec 6) (a : BitVec 6) (b : BitVec 6)
  /-- AMOFMAX, R164. -/
  | amofmax (t : AF) (d : BitVec 6) (a : BitVec 6) (b : BitVec 6)
  /-- XCADD, R68. -/
  | xcadd (t : AF) (a : BitVec 6) (b : BitVec 6)
  /-- XCRD, R69. -/
  | xcrd (t : AF) (d : BitVec 6) (a : BitVec 6)
  /-- XCCLR, R165. -/
  | xcclr (a : BitVec 6)
  /-- XCRDCLR, R69. -/
  | xcrdclr (t : AF) (d : BitVec 6) (a : BitVec 6)
  /-- VAMOADD, R166. -/
  | vamoadd (t : ElemTy) (b : BitVec 5) (i : BitVec 5) (d : BitVec 5) (k : BitVec 3)
  /-- VAMOMIN, R166. -/
  | vamomin (t : ElemTy) (b : BitVec 5) (i : BitVec 5) (d : BitVec 5) (k : BitVec 3)
  /-- VAMOMAX, R166. -/
  | vamomax (t : ElemTy) (b : BitVec 5) (i : BitVec 5) (d : BitVec 5) (k : BitVec 3)
  /-- VXCADD, R166. -/
  | vxcadd (t : ElemTy) (b : BitVec 5) (i : BitVec 5) (d : BitVec 5) (k : BitVec 3)
  /-- VBSUM, R168. -/
  | vbsum (t : ElemTy) (b : BitVec 5) (d : BitVec 5) (k : BitVec 3)
  /-- QGET, R175. -/
  | qget (d : BitVec 6) (n : BitVec 4)
  /-- QPUT, R175. -/
  | qput (n : BitVec 4) (b : BitVec 6)
  /-- VQGET, R175. -/
  | vqget (d : BitVec 5) (n : BitVec 4)
  /-- VQPUT, R175. -/
  | vqput (n : BitVec 4) (b : BitVec 5)
  /-- QCNT, R175. -/
  | qcnt (d : BitVec 6) (n : BitVec 4)
  /-- SEND, R179. -/
  | send (a : BitVec 6) (b : BitVec 6) (p : BitVec 6)
  /-- SENDV, R179. -/
  | sendv (a : BitVec 5) (b : BitVec 6) (p : BitVec 6)
  /-- CWR, R184. -/
  | cwr (s : BitVec 3) (a : BitVec 6)
  /-- CGO, R185. -/
  | cgo (d : BitVec 6)
  /-- CWP, R187. -/
  | cwp (d : BitVec 6) (a : BitVec 6)
  /-- CRD, R184. -/
  | crd (s : BitVec 3) (d : BitVec 6)
  /-- TXINIT, R189. -/
  | txinit (a : BitVec 6) (b : BitVec 6)
  /-- TXARR, R189. -/
  | txarr (d : BitVec 6) (a : BitVec 6)
  /-- TXEXP, R189. -/
  | txexp (a : BitVec 6) (b : BitVec 6)
  /-- TXWAIT, R189. -/
  | txwait (a : BitVec 6) (b : BitVec 6)
  /-- TXTRY, R189. -/
  | txtry (d : BitVec 6) (a : BitVec 6) (b : BitVec 6)
  /-- DQPUSH, R192. -/
  | dqpush (d : BitVec 6) (b : BitVec 6)
  /-- DQPOP, R192. -/
  | dqpop (d : BitVec 6)
  /-- DQSTEAL, R192. -/
  | dqsteal (d : BitVec 6) (a : BitVec 6)
  /-- VADD, R276. -/
  | vadd (y : VF) (d : BitVec 5) (a : BitVec 5) (b : BitVec 5) (k : BitVec 3)
  /-- VSUB, R276. -/
  | vsub (y : VF) (d : BitVec 5) (a : BitVec 5) (b : BitVec 5) (k : BitVec 3)
  /-- VMUL, R276. -/
  | vmul (y : VF) (d : BitVec 5) (a : BitVec 5) (b : BitVec 5) (k : BitVec 3)
  /-- VDIV, R276. -/
  | vdiv (y : VF) (d : BitVec 5) (a : BitVec 5) (b : BitVec 5) (k : BitVec 3)
  /-- VMIN, R276. -/
  | vmin (y : VF) (d : BitVec 5) (a : BitVec 5) (b : BitVec 5) (k : BitVec 3)
  /-- VMAX, R276. -/
  | vmax (y : VF) (d : BitVec 5) (a : BitVec 5) (b : BitVec 5) (k : BitVec 3)
  /-- VABS, R276. -/
  | vabs (y : VF) (d : BitVec 5) (a : BitVec 5) (k : BitVec 3)
  /-- VNEG, R276. -/
  | vneg (y : VF) (d : BitVec 5) (a : BitVec 5) (k : BitVec 3)
  /-- VSGNJ, R276. -/
  | vsgnj (y : VF) (d : BitVec 5) (a : BitVec 5) (b : BitVec 5) (k : BitVec 3)
  /-- VFMADD, R277. -/
  | vfmadd (d : BitVec 5) (a : BitVec 5) (b : BitVec 5) (c : BitVec 5) (k : BitVec 3)
  /-- VFMSUB, R277. -/
  | vfmsub (d : BitVec 5) (a : BitVec 5) (b : BitVec 5) (c : BitVec 5) (k : BitVec 3)
  /-- VFNMADD, R277. -/
  | vfnmadd (d : BitVec 5) (a : BitVec 5) (b : BitVec 5) (c : BitVec 5) (k : BitVec 3)
  /-- VFNMSUB, R277. -/
  | vfnmsub (d : BitVec 5) (a : BitVec 5) (b : BitVec 5) (c : BitVec 5) (k : BitVec 3)
  /-- VADDX, R278. -/
  | vaddx (y : VF) (d : BitVec 5) (b : BitVec 5) (x : BitVec 6) (k : BitVec 3)
  /-- VSUBX, R278. -/
  | vsubx (y : VF) (d : BitVec 5) (b : BitVec 5) (x : BitVec 6) (k : BitVec 3)
  /-- VMULX, R278. -/
  | vmulx (y : VF) (d : BitVec 5) (b : BitVec 5) (x : BitVec 6) (k : BitVec 3)
  /-- VDIVX, R278. -/
  | vdivx (y : VF) (d : BitVec 5) (b : BitVec 5) (x : BitVec 6) (k : BitVec 3)
  /-- VMINX, R278. -/
  | vminx (y : VF) (d : BitVec 5) (b : BitVec 5) (x : BitVec 6) (k : BitVec 3)
  /-- VMAXX, R278. -/
  | vmaxx (y : VF) (d : BitVec 5) (b : BitVec 5) (x : BitVec 6) (k : BitVec 3)
  /-- VEXP, R279. -/
  | vexp (d : BitVec 5) (a : BitVec 5) (k : BitVec 3)
  /-- VLOG, R279. -/
  | vlog (d : BitVec 5) (a : BitVec 5) (k : BitVec 3)
  /-- VRCP, R279. -/
  | vrcp (d : BitVec 5) (a : BitVec 5) (k : BitVec 3)
  /-- VRSQRT, R279. -/
  | vrsqrt (d : BitVec 5) (a : BitVec 5) (k : BitVec 3)
  /-- VTANH, R279. -/
  | vtanh (d : BitVec 5) (a : BitVec 5) (k : BitVec 3)
  /-- VSQRT, R279. -/
  | vsqrt (d : BitVec 5) (a : BitVec 5) (k : BitVec 3)
  /-- VREDSUM, R286. -/
  | vredsum (y : RF) (d : BitVec 5) (a : BitVec 5) (k : BitVec 3)
  /-- VREDMAX, R286. -/
  | vredmax (y : RF) (d : BitVec 5) (a : BitVec 5) (k : BitVec 3)
  /-- VREDMIN, R286. -/
  | vredmin (y : RF) (d : BitVec 5) (a : BitVec 5) (k : BitVec 3)
  /-- VREDQ, R287. -/
  | vredq (y : RF) (d : BitVec 5) (n : BitVec 4) (c : BitVec 6) (k : BitVec 3)
  /-- VIADD, R280. -/
  | viadd (w : IW) (u : Bool) (d : BitVec 5) (a : BitVec 5) (b : BitVec 5) (k : BitVec 3)
  /-- VISUB, R280. -/
  | visub (w : IW) (u : Bool) (d : BitVec 5) (a : BitVec 5) (b : BitVec 5) (k : BitVec 3)
  /-- VIMUL, R280. -/
  | vimul (w : IW) (u : Bool) (d : BitVec 5) (a : BitVec 5) (b : BitVec 5) (k : BitVec 3)
  /-- VIMULH, R280. -/
  | vimulh (w : IW) (u : Bool) (d : BitVec 5) (a : BitVec 5) (b : BitVec 5) (k : BitVec 3)
  /-- VIAND, R280. -/
  | viand (w : IW) (u : Bool) (d : BitVec 5) (a : BitVec 5) (b : BitVec 5) (k : BitVec 3)
  /-- VIOR, R280. -/
  | vior (w : IW) (u : Bool) (d : BitVec 5) (a : BitVec 5) (b : BitVec 5) (k : BitVec 3)
  /-- VIXOR, R280. -/
  | vixor (w : IW) (u : Bool) (d : BitVec 5) (a : BitVec 5) (b : BitVec 5) (k : BitVec 3)
  /-- VISLL, R280. -/
  | visll (w : IW) (u : Bool) (d : BitVec 5) (a : BitVec 5) (b : BitVec 5) (k : BitVec 3)
  /-- VISRL, R280. -/
  | visrl (w : IW) (u : Bool) (d : BitVec 5) (a : BitVec 5) (b : BitVec 5) (k : BitVec 3)
  /-- VISRA, R280. -/
  | visra (w : IW) (u : Bool) (d : BitVec 5) (a : BitVec 5) (b : BitVec 5) (k : BitVec 3)
  /-- VIMIN, R280. -/
  | vimin (w : IW) (u : Bool) (d : BitVec 5) (a : BitVec 5) (b : BitVec 5) (k : BitVec 3)
  /-- VIMAX, R280. -/
  | vimax (w : IW) (u : Bool) (d : BitVec 5) (a : BitVec 5) (b : BitVec 5) (k : BitVec 3)
  /-- VIPOPC, R280. -/
  | vipopc (w : IW) (u : Bool) (d : BitVec 5) (a : BitVec 5) (k : BitVec 3)
  /-- VIADD_SAT, R280. -/
  | viaddSat (w : IW) (u : Bool) (d : BitVec 5) (a : BitVec 5) (b : BitVec 5) (k : BitVec 3)
  /-- VISUB_SAT, R280. -/
  | visubSat (w : IW) (u : Bool) (d : BitVec 5) (a : BitVec 5) (b : BitVec 5) (k : BitVec 3)
  /-- VIADDX, R281. -/
  | viaddx (w : IW) (d : BitVec 5) (b : BitVec 5) (x : BitVec 6) (k : BitVec 3)
  /-- VISUBX, R281. -/
  | visubx (w : IW) (d : BitVec 5) (b : BitVec 5) (x : BitVec 6) (k : BitVec 3)
  /-- VIMULX, R281. -/
  | vimulx (w : IW) (d : BitVec 5) (b : BitVec 5) (x : BitVec 6) (k : BitVec 3)
  /-- VIANDX, R281. -/
  | viandx (w : IW) (d : BitVec 5) (b : BitVec 5) (x : BitVec 6) (k : BitVec 3)
  /-- VIORX, R281. -/
  | viorx (w : IW) (d : BitVec 5) (b : BitVec 5) (x : BitVec 6) (k : BitVec 3)
  /-- VIXORX, R281. -/
  | vixorx (w : IW) (d : BitVec 5) (b : BitVec 5) (x : BitVec 6) (k : BitVec 3)
  /-- VISLLX, R281. -/
  | visllx (w : IW) (d : BitVec 5) (b : BitVec 5) (x : BitVec 6) (k : BitVec 3)
  /-- VISRLX, R281. -/
  | visrlx (w : IW) (d : BitVec 5) (b : BitVec 5) (x : BitVec 6) (k : BitVec 3)
  /-- VISRAX, R281. -/
  | visrax (w : IW) (d : BitVec 5) (b : BitVec 5) (x : BitVec 6) (k : BitVec 3)
  /-- VCMP, R282. -/
  | vcmp (p : VPred) (t : CmpTy) (d : BitVec 3) (a : BitVec 5) (b : BitVec 5) (k : BitVec 3)
  /-- KAND, R283. -/
  | kand (d : BitVec 3) (a : BitVec 3) (b : BitVec 3)
  /-- KOR, R283. -/
  | kor (d : BitVec 3) (a : BitVec 3) (b : BitVec 3)
  /-- KXOR, R283. -/
  | kxor (d : BitVec 3) (a : BitVec 3) (b : BitVec 3)
  /-- KNOT, R283. -/
  | knot (d : BitVec 3) (a : BitVec 3)
  /-- KMOV, R283. -/
  | kmov (d : BitVec 3) (a : BitVec 3)
  /-- VPERM, R284. -/
  | vperm (d : BitVec 5) (a : BitVec 5) (b : BitVec 5) (k : BitVec 3)
  /-- VSLIDEUP, R284. -/
  | vslideup (d : BitVec 5) (a : BitVec 5) (n : BitVec 6) (k : BitVec 3)
  /-- VSLIDEDN, R284. -/
  | vslidedn (d : BitVec 5) (a : BitVec 5) (n : BitVec 6) (k : BitVec 3)
  /-- VCOMPRESS, R284. -/
  | vcompress (d : BitVec 5) (a : BitVec 5) (k : BitVec 3)
  /-- VMOV, R284. -/
  | vmov (d : BitVec 5) (a : BitVec 5) (k : BitVec 3)
  /-- VBCAST, R285. -/
  | vbcast (w : IW) (d : BitVec 5) (x : BitVec 6) (k : BitVec 3)
  /-- VINS, R285. -/
  | vins (w : IW) (d : BitVec 5) (x : BitVec 6) (j : BitVec 5)
  /-- VEXT, R285. -/
  | vext (w : IW) (u : Bool) (d : BitVec 6) (s : BitVec 5) (j : BitVec 5)
  /-- KSET, R285. -/
  | kset (d : BitVec 3) (x : BitVec 6)
  /-- KPOPC, R285. -/
  | kpopc (d : BitVec 6) (s : BitVec 3)
  /-- VCVT, R289. -/
  | vcvt (m : RM) (s : Bool) (h : Bool) (d : BitVec 5) (a : BitVec 5) (k : BitVec 3)
  /-- VCVTO, R290. -/
  | vcvto (m : RM) (s : Bool) (d : BitVec 5) (q : BitVec 3) (a : BitVec 5) (k : BitVec 3)
  /-- VPLANE, R291. -/
  | vplane (d : BitVec 5) (a : BitVec 5)
  /-- VUNPLANE, R291. -/
  | vunplane (d : BitVec 5) (a : BitVec 5)
  /-- FMT, R31. -/
  | fmt (a : ElemTy) (b : ElemTy) (s : Bool) (x : BitVec 6) (p : BitVec 3) (c : Bool)
  /-- VSPDRAW, R333. -/
  | vspdraw (y : SpTy) (d : BitVec 5) (x : BitVec 6) (k : BitVec 3)
  /-- VSPUNI, R333. -/
  | vspuni (y : SpTy) (d : BitVec 5) (x : BitVec 6) (k : BitVec 3)
  /-- VSPEXP, R333. -/
  | vspexp (y : SpTy) (d : BitVec 5) (x : BitVec 6) (k : BitVec 3)
  /-- VGUMB, R333. -/
  | vgumb (d : BitVec 5) (s : BitVec 5) (x : BitVec 6) (k : BitVec 3)
  /-- SPDRAW, R333. -/
  | spdraw (y : SpTy) (d : BitVec 6) (a : BitVec 6) (b : BitVec 6)
  /-- SPUNI, R333. -/
  | spuni (y : SpTy) (d : BitVec 6) (a : BitVec 6) (b : BitVec 6)
  /-- SPEXP, R333. -/
  | spexp (y : SpTy) (d : BitVec 6) (a : BitVec 6) (b : BitVec 6)
  /-- DIGEST, R336. -/
  | digest (a : BitVec 6) (b : BitVec 6)
  /-- DIGESTM, R336. -/
  | digestm (a : BitVec 6) (b : BitVec 6) (n : BitVec 6)
  /-- MMA, R299. -/
  | mma (t : Bool) (c : Bool) (a : BitVec 2) (s : Bool) (r : BitVec 5) (u : Bool) (v : BitVec 5) (k : BitVec 6)
  /-- ACCRD, R303. -/
  | accrd (v : BitVec 5) (x : BitVec 6) (a : BitVec 2) (r : BitVec 6)
  /-- ACCZERO, R304. -/
  | acczero (d : BitVec 2)
  /-- ACCLD, R304. -/
  | accld (d : BitVec 2) (s : BitVec 6)
  /-- ACCST, R304. -/
  | accst (s : BitVec 6) (a : BitVec 2)
  /-- ACCSTAT, R304. -/
  | accstat (x : BitVec 6) (a : BitVec 2) (c : Bool)
  /-- ACCSWP, R304. -/
  | accswp (d : BitVec 2) (a : BitVec 2)
  /-- TLD, R309. -/
  | tld (d : BitVec 3) (s : BitVec 6) (p : BitVec 5) (c : Bool)
  /-- TST, R309. -/
  | tst (s : BitVec 6) (d : BitVec 3) (p : BitVec 5) (c : Bool)
  /-- TZERO, R309. -/
  | tzero (d : BitVec 3)
  /-- TMOV, R309. -/
  | tmov (d : BitVec 3) (s : BitVec 3)
  /-- OCMP, R314. -/
  | ocmp (p : OPred) (t : OcTy) (d : BitVec 3) (a : BitVec 5) (b : BitVec 5) (k : BitVec 3)
  /-- TRAP, R208. -/
  | trap (a : BitVec 6)
  /-- CSRW, R210. -/
  | csrw (d : BitVec 6) (c : BitVec 11) (a : BitVec 6)
  /-- CSRS, R210. -/
  | csrs (d : BitVec 6) (c : BitVec 11) (a : BitVec 6)
  /-- CSRC, R210. -/
  | csrc (d : BitVec 6) (c : BitVec 11) (a : BitVec 6)
  /-- GANGEND, R108. -/
  | gangend
  /-- RETIRE, R75. -/
  | retire
  /-- SPUT, R119. -/
  | sput
  /-- TRET, R208. -/
  | tret
  /-- HALT, R208. -/
  | halt
  /-- LOAD_DATA_RETURN, an event of R157. -/
  | loadDataReturn
  /-- GATHER_LANE_RETURN, an event of R154. -/
  | gatherLaneReturn
  /-- HOST_LQTAIL_WRITE, an event of R86. -/
  | hostLqtailWrite
  /-- LQCFG_WRITE, an event of R86. -/
  | lqcfgWrite
  /-- LAUNCH_RECORD_READ, an event of R89. -/
  | launchRecordRead
  /-- DEPENDENCES_MET, an event of R85. -/
  | dependencesMet
  /-- FIRING_PLACE, an event of R90. -/
  | firingPlace
  /-- TEAM_COMPLETE, an event of R84. -/
  | teamComplete
  /-- CHECK_SECOND_RUN, an event of R342. -/
  | checkSecondRun
  /-- ACTOR_FIRE, an event of R82. -/
  | actorFire
  /-- MESSAGE_DISPATCH, an event of R81. -/
  | messageDispatch
  /-- MESSAGE_REFUSAL_RETURN, an event of R180. -/
  | messageRefusalReturn
  /-- PRIORITY_AGE, an event of R97. -/
  | priorityAge
  /-- QSTALL_EXPIRY, an event of R98. -/
  | qstallExpiry
  /-- FEWAIT_EXPIRY, an event of R150. -/
  | fewaitExpiry
  /-- FE_WITHDRAWAL, an event of R150. -/
  | feWithdrawal
  /-- FE_RESEND, an event of R149. -/
  | feResend
  /-- BANK_OP_ARRIVE, an event of R162. -/
  | bankOpArrive
  /-- BANK_OP_RESEND, an event of R161. -/
  | bankOpResend
  /-- BANK_OP_COPY_DROP, an event of R161. -/
  | bankOpCopyDrop
  /-- LINK_ERROR_REPLAY, an event of R387. -/
  | linkErrorReplay
  /-- REMOTE_ACCESS_ARRIVE, an event of R143. -/
  | remoteAccessArrive
  /-- STORE_MESSAGE_PERFORM, an event of R181. -/
  | storeMessagePerform
  /-- REMOTE_REQUEST_PERFORM, an event of R224. -/
  | remoteRequestPerform
  /-- REMOTE_WRITE_ACK, an event of R225. -/
  | remoteWriteAck
  /-- RANGELOCK_REGISTER, an event of R190. -/
  | rangelockRegister
  /-- COPY_SECTOR, an event of R183. -/
  | copySector
  /-- COPY_FAULT, an event of R185. -/
  | copyFault
  /-- COPY_COMPLETE, an event of R186. -/
  | copyComplete
  /-- MMA_STEP, an event of R299. -/
  | mmaStep
  /-- VECTOR_BANK_LANE_FAULT, an event of R167. -/
  | vectorBankLaneFault
  /-- ASYNC_REPORT_TAKE, an event of R199. -/
  | asyncReportTake
  /-- TRAP_RECORD_APPEND, an event of R198. -/
  | trapRecordAppend
  /-- ERROR_LOG_APPEND, an event of R401. -/
  | errorLogAppend
  /-- TRHEAD_WRITE, an event of R374. -/
  | trheadWrite
  /-- FCMD_RESUME_PC, an event of R198. -/
  | fcmdResumePc
  /-- FCMD_RESUME_UTVEC, an event of R198. -/
  | fcmdResumeUtvec
  /-- FCMD_SAVE, an event of R198. -/
  | fcmdSave
  /-- FCMD_DISCARD, an event of R198. -/
  | fcmdDiscard
  /-- FCMD_KILL, an event of R198. -/
  | fcmdKill
  /-- PREEMPT_REQUEST, an event of R202. -/
  | preemptRequest
  /-- RESUME_REQUEST, an event of R205. -/
  | resumeRequest
  /-- PREEMPT_DEADLINE, an event of R203. -/
  | preemptDeadline
  /-- PREEMPT_END, an event of R204. -/
  | preemptEnd
  /-- DQSTEAL_SERVE, an event of R192. -/
  | dqstealServe
  /-- PAGE_WALK, an event of R371. -/
  | pageWalk
  /-- TLBINV_WRITE, an event of R373. -/
  | tlbinvWrite
  /-- TLBINV_COMPLETE, an event of R373. -/
  | tlbinvComplete
  /-- PINT_WRITE, an event of R375. -/
  | pintWrite
  /-- MSCCFG_WRITE, an event of R376. -/
  | msccfgWrite
  /-- MSC_CHANGE_COMPLETE, an event of R376. -/
  | mscChangeComplete
  /-- LOG_REGISTER_WRITE, an event of R340. -/
  | logRegisterWrite
  /-- REGISTER_WRITE, an event of R4. -/
  | registerWrite
  /-- DECISION_ARRIVE, an event of R357. -/
  | decisionArrive
  /-- CREDIT_RETURN, an event of R357. -/
  | creditReturn
  /-- PRESENCE_DROP, an event of R389. -/
  | presenceDrop
  /-- PORT_DOWN_TIMEOUT, an event of R389. -/
  | portDownTimeout
  /-- PEER_LOST_DECLARE, an event of R389. -/
  | peerLostDeclare
  /-- REMOTE_POISON_COMPLETE, an event of R389. -/
  | remotePoisonComplete
  /-- LANE_FAIL, an event of R383. -/
  | laneFail
  /-- RETRAIN_COMPLETE, an event of R385. -/
  | retrainComplete
  /-- ALCTL_WRITE, an event of R386. -/
  | alctlWrite
  /-- ALKEYGO_WRITE, an event of R388. -/
  | alkeygoWrite
  /-- KEY_SWITCH, an event of R388. -/
  | keySwitch
  /-- KEYWARN, an event of R387. -/
  | keywarn
  /-- KEYSTARVED, an event of R388. -/
  | keystarved
  /-- HOST_LINK_LOSS, an event of R390. -/
  | hostLinkLoss
  /-- HOST_LINK_RETURN, an event of R390. -/
  | hostLinkReturn
  /-- HOST_BAR2_WRITE, an event of R381. -/
  | hostBar2Write
  /-- HOST_BAR4_WRITE, an event of R381. -/
  | hostBar4Write
  /-- CXL_POISON, an event of R382. -/
  | cxlPoison
  /-- CXL_DEVICE_LOSS, an event of R382. -/
  | cxlDeviceLoss
  /-- POWER_GOOD, an event of R391. -/
  | powerGood
  /-- FULL_ENTER, an event of R391. -/
  | fullEnter
  /-- IDENT, an event of R393. -/
  | ident
  /-- HEALTH, an event of R393. -/
  | health
  /-- THERMAL, an event of R393. -/
  | thermal
  /-- RESYNC, an event of R396. -/
  | resync
  /-- FWLOAD, an event of R393. -/
  | fwload
  /-- KEYLOAD, an event of R395. -/
  | keyload
  /-- RESET, an event of R393. -/
  | reset
  /-- THERMAL_TRIP, an event of R397. -/
  | thermalTrip
  /-- HBM_DIE_LOSS, an event of R397. -/
  | hbmDieLoss
  /-- LOCKSTEP_MISMATCH, an event of R378. -/
  | lockstepMismatch
  /-- READOPTION_TIMEOUT, an event of R378. -/
  | readoptionTimeout
  /-- READOPTION_COMPLETE, an event of R378. -/
  | readoptionComplete
  /-- UNCORRECTABLE_ERROR, an event of R379. -/
  | uncorrectableError
  /-- POWER_CAP_BREACH, an event of R394. -/
  | powerCapBreach
  /-- MARKER_ACKNOWLEDGED, an event of R223. -/
  | markerAcknowledged
  /-- SHINV_COMPLETE, an event of R229. -/
  | shinvComplete
  /-- BANK_OP_RESPONSE_ARRIVE, an event of R160. -/
  | bankOpResponseArrive
  /-- BANK_TAG_FREE, an event of R161. -/
  | bankTagFree
  /-- OWNER_ANSWER_ARRIVE, an event of R143. -/
  | ownerAnswerArrive
  /-- COMMAND_COMPLETE, an event of R393. -/
  | commandComplete
  /-- MODULE_INSERTION, an event of R389. -/
  | moduleInsertion
  /-- POWER_LOSS, an event of R391. -/
  | powerLoss
  /-- BTPOPR, R318. -/
  | btpopr (d : BitVec 5) (s : BitVec 3)
  /-- BTPOPC, R318. -/
  | btpopc (d : BitVec 5) (s : BitVec 3)
  /-- BTCLO, R319. -/
  | btclo (d : BitVec 3) (s : BitVec 3) (r : Bool)
  /-- BTCOMP, R319. -/
  | btcomp (d : BitVec 3) (a : BitVec 3) (b : BitVec 3)
  /-- BTTR, R319. -/
  | bttr (d : BitVec 3) (s : BitVec 3)
  /-- BTAND, R320. -/
  | btand (d : BitVec 3) (a : BitVec 3) (b : BitVec 3)
  /-- BTOR, R320. -/
  | btor (d : BitVec 3) (a : BitVec 3) (b : BitVec 3)
  /-- BTXOR, R320. -/
  | btxor (d : BitVec 3) (a : BitVec 3) (b : BitVec 3)
  /-- BTANDN, R320. -/
  | btandn (d : BitVec 3) (a : BitVec 3) (b : BitVec 3)
  /-- BTNOT, R320. -/
  | btnot (d : BitVec 3) (s : BitVec 3)
  /-- BTROWK, R317. -/
  | btrowk (d : BitVec 3) (s : BitVec 3) (i : BitVec 6)
  /-- BTCOLK, R317. -/
  | btcolk (d : BitVec 3) (s : BitVec 3) (i : BitVec 6)
  /-- BTKROW, R321. -/
  | btkrow (d : BitVec 3) (s : BitVec 3) (i : BitVec 6)
  /-- BTKCOL, R321. -/
  | btkcol (d : BitVec 3) (s : BitVec 3) (i : BitVec 6)
  /-- BTLD, R322. -/
  | btld (d : BitVec 3) (s : BitVec 6)
  /-- BTST, R322. -/
  | btst (s : BitVec 6) (b : BitVec 3)
  /-- SINIT, R350. -/
  | sinit (a : BitVec 6)
  /-- RATE, R351. -/
  | rate (a : BitVec 6) (b : BitVec 6)
  /-- RATEA, R351. -/
  | ratea (a : BitVec 6) (b : BitVec 6)
  /-- NEXTEV, R353. -/
  | nextev (d : BitVec 6) (a : BitVec 6)
  /-- SWRD, R362. -/
  | swrd (d : BitVec 6) (a : BitVec 6) (s : BitVec 6)
  /-- SCLK, R362. -/
  | sclk (d : BitVec 6)
  /-- BINIT, R354. -/
  | binit (a : BitVec 6)
  /-- BDEC, R356. -/
  | bdec (d : BitVec 6) (a : BitVec 6)
  /-- BRECV, R358. -/
  | brecv (d : BitVec 6) (a : BitVec 6)
  /-- HINT, R38. -/
  | hint (h : BitVec 25)
  deriving DecidableEq, Repr

end Sys2Proof
end

