-- ==== Sys2Proof/Decode.lean ====
section
/-! DEFINITION. Decoding and encoding. decode reads one 32-bit word (R23, R25 to R38) and is total: a word that is no instruction is
rejected by a name that says why (R37). encode writes the word of an instruction from the same tables of spec 03 and 06 to 22. -/

namespace Sys2Proof

/-- Bits lo to lo + len - 1 of an instruction word (R2). -/
def fld (w : BitVec 32) (lo len : Nat) : BitVec len := w.extractLsb' lo len

/-- The code of a ElemTy in its field. -/
def ElemTy.code : ElemTy → BitVec 4
  | .f32 => 0#4
  | .bf16 => 1#4
  | .f16 => 2#4
  | .e4m3 => 3#4
  | .e5m2 => 4#4
  | .e2m1 => 5#4
  | .bpn => 6#4
  | .f64 => 7#4
  | .i8 => 8#4
  | .i16 => 9#4
  | .i32 => 10#4
  | .i64 => 11#4
  | .n8 => 12#4
  | .n16 => 13#4
  | .n32 => 14#4
  | .n64 => 15#4
/-- The ElemTy a field value names, if it names one. -/
def ElemTy.ofCode (c : BitVec 4) : Option ElemTy :=
  if c = 0#4 then some .f32 else
  if c = 1#4 then some .bf16 else
  if c = 2#4 then some .f16 else
  if c = 3#4 then some .e4m3 else
  if c = 4#4 then some .e5m2 else
  if c = 5#4 then some .e2m1 else
  if c = 6#4 then some .bpn else
  if c = 7#4 then some .f64 else
  if c = 8#4 then some .i8 else
  if c = 9#4 then some .i16 else
  if c = 10#4 then some .i32 else
  if c = 11#4 then some .i64 else
  if c = 12#4 then some .n8 else
  if c = 13#4 then some .n16 else
  if c = 14#4 then some .n32 else
  if c = 15#4 then some .n64 else
  none

/-- The code of a FT in its field. -/
def FT.code : FT → BitVec 1
  | .f32 => 0#1
  | .f64 => 1#1
/-- The FT a field value names, if it names one. -/
def FT.ofCode (c : BitVec 1) : Option FT :=
  if c = 0#1 then some .f32 else
  if c = 1#1 then some .f64 else
  none

/-- The code of a VF in its field. -/
def VF.code : VF → BitVec 2
  | .f32 => 0#2
  | .bf16 => 1#2
  | .f16 => 2#2
  | .f64 => 3#2
/-- The VF a field value names, if it names one. -/
def VF.ofCode (c : BitVec 2) : Option VF :=
  if c = 0#2 then some .f32 else
  if c = 1#2 then some .bf16 else
  if c = 2#2 then some .f16 else
  if c = 3#2 then some .f64 else
  none

/-- The code of a RF in its field. -/
def RF.code : RF → BitVec 2
  | .f32 => 0#2
  | .bf16 => 1#2
  | .f16 => 2#2
/-- The RF a field value names, if it names one. -/
def RF.ofCode (c : BitVec 2) : Option RF :=
  if c = 0#2 then some .f32 else
  if c = 1#2 then some .bf16 else
  if c = 2#2 then some .f16 else
  none

/-- The code of a AF in its field. -/
def AF.code : AF → BitVec 3
  | .f32 => 0#3
  | .f64 => 1#3
  | .bf16 => 2#3
  | .f16 => 3#3
/-- The AF a field value names, if it names one. -/
def AF.ofCode (c : BitVec 3) : Option AF :=
  if c = 0#3 then some .f32 else
  if c = 1#3 then some .f64 else
  if c = 2#3 then some .bf16 else
  if c = 3#3 then some .f16 else
  none

/-- The code of a RM in its field. -/
def RM.code : RM → BitVec 3
  | .rne => 0#3
  | .rtz => 1#3
  | .rdn => 2#3
  | .rup => 3#3
  | .sr => 4#3
  | .dyn => 7#3
/-- The RM a field value names, if it names one. -/
def RM.ofCode (c : BitVec 3) : Option RM :=
  if c = 0#3 then some .rne else
  if c = 1#3 then some .rtz else
  if c = 2#3 then some .rdn else
  if c = 3#3 then some .rup else
  if c = 4#3 then some .sr else
  if c = 7#3 then some .dyn else
  none

/-- The code of a XT in its field. -/
def XT.code : XT → BitVec 3
  | .f64 => 0#3
  | .f32 => 1#3
  | .bf16 => 2#3
  | .f16 => 3#3
  | .i32 => 4#3
  | .n32 => 5#3
  | .i64 => 6#3
  | .n64 => 7#3
/-- The XT a field value names, if it names one. -/
def XT.ofCode (c : BitVec 3) : Option XT :=
  if c = 0#3 then some .f64 else
  if c = 1#3 then some .f32 else
  if c = 2#3 then some .bf16 else
  if c = 3#3 then some .f16 else
  if c = 4#3 then some .i32 else
  if c = 5#3 then some .n32 else
  if c = 6#3 then some .i64 else
  if c = 7#3 then some .n64 else
  none

/-- The code of a Scope in its field. -/
def Scope.code : Scope → BitVec 3
  | .fi => 0#3
  | .co => 1#3
  | .fr => 2#3
  | .die => 3#3
  | .pkg => 4#3
  | .dom => 5#3
  | .sys => 6#3
/-- The Scope a field value names, if it names one. -/
def Scope.ofCode (c : BitVec 3) : Option Scope :=
  if c = 0#3 then some .fi else
  if c = 1#3 then some .co else
  if c = 2#3 then some .fr else
  if c = 3#3 then some .die else
  if c = 4#3 then some .pkg else
  if c = 5#3 then some .dom else
  if c = 6#3 then some .sys else
  none

/-- The code of a LdTy in its field. -/
def LdTy.code : LdTy → BitVec 3
  | .i8 => 0#3
  | .i16 => 1#3
  | .i32 => 2#3
  | .n64 => 3#3
  | .n8 => 4#3
  | .n16 => 5#3
  | .n32 => 6#3
/-- The LdTy a field value names, if it names one. -/
def LdTy.ofCode (c : BitVec 3) : Option LdTy :=
  if c = 0#3 then some .i8 else
  if c = 1#3 then some .i16 else
  if c = 2#3 then some .i32 else
  if c = 3#3 then some .n64 else
  if c = 4#3 then some .n8 else
  if c = 5#3 then some .n16 else
  if c = 6#3 then some .n32 else
  none

/-- The code of a StSz in its field. -/
def StSz.code : StSz → BitVec 2
  | .b => 0#2
  | .h => 1#2
  | .w => 2#2
  | .d => 3#2
/-- The StSz a field value names, if it names one. -/
def StSz.ofCode (c : BitVec 2) : Option StSz :=
  if c = 0#2 then some .b else
  if c = 1#2 then some .h else
  if c = 2#2 then some .w else
  if c = 3#2 then some .d else
  none

/-- The code of a LdMode in its field. -/
def LdMode.code : LdMode → BitVec 1
  | .wf => 0#1
  | .wfe => 1#1
/-- The LdMode a field value names, if it names one. -/
def LdMode.ofCode (c : BitVec 1) : Option LdMode :=
  if c = 0#1 then some .wf else
  if c = 1#1 then some .wfe else
  none

/-- The code of a StMode in its field. -/
def StMode.code : StMode → BitVec 1
  | .we => 0#1
  | .sf => 1#1
/-- The StMode a field value names, if it names one. -/
def StMode.ofCode (c : BitVec 1) : Option StMode :=
  if c = 0#1 then some .we else
  if c = 1#1 then some .sf else
  none

/-- The code of a IW in its field. -/
def IW.code : IW → BitVec 2
  | .w32 => 0#2
  | .w16 => 1#2
  | .w8 => 2#2
  | .w64 => 3#2
/-- The IW a field value names, if it names one. -/
def IW.ofCode (c : BitVec 2) : Option IW :=
  if c = 0#2 then some .w32 else
  if c = 1#2 then some .w16 else
  if c = 2#2 then some .w8 else
  if c = 3#2 then some .w64 else
  none

/-- The code of a VPred in its field. -/
def VPred.code : VPred → BitVec 3
  | .eq => 0#3
  | .ne => 1#3
  | .lt => 2#3
  | .le => 3#3
  | .gt => 4#3
  | .ge => 5#3
/-- The VPred a field value names, if it names one. -/
def VPred.ofCode (c : BitVec 3) : Option VPred :=
  if c = 0#3 then some .eq else
  if c = 1#3 then some .ne else
  if c = 2#3 then some .lt else
  if c = 3#3 then some .le else
  if c = 4#3 then some .gt else
  if c = 5#3 then some .ge else
  none

/-- The code of a CmpTy in its field. -/
def CmpTy.code : CmpTy → BitVec 3
  | .f32 => 0#3
  | .i32 => 1#3
  | .n32 => 2#3
  | .f64 => 3#3
  | .i64 => 4#3
  | .n64 => 5#3
/-- The CmpTy a field value names, if it names one. -/
def CmpTy.ofCode (c : BitVec 3) : Option CmpTy :=
  if c = 0#3 then some .f32 else
  if c = 1#3 then some .i32 else
  if c = 2#3 then some .n32 else
  if c = 3#3 then some .f64 else
  if c = 4#3 then some .i64 else
  if c = 5#3 then some .n64 else
  none

/-- The code of a OPred in its field. -/
def OPred.code : OPred → BitVec 4
  | .eq => 0#4
  | .ne => 1#4
  | .lt => 2#4
  | .le => 3#4
  | .gt => 4#4
  | .ge => 5#4
  | .klt => 6#4
  | .kgt => 7#4
/-- The OPred a field value names, if it names one. -/
def OPred.ofCode (c : BitVec 4) : Option OPred :=
  if c = 0#4 then some .eq else
  if c = 1#4 then some .ne else
  if c = 2#4 then some .lt else
  if c = 3#4 then some .le else
  if c = 4#4 then some .gt else
  if c = 5#4 then some .ge else
  if c = 6#4 then some .klt else
  if c = 7#4 then some .kgt else
  none

/-- The code of a OcTy in its field. -/
def OcTy.code : OcTy → BitVec 3
  | .f32 => 0#3
  | .bf16 => 1#3
  | .f16 => 2#3
  | .i32 => 3#3
  | .n32 => 4#3
/-- The OcTy a field value names, if it names one. -/
def OcTy.ofCode (c : BitVec 3) : Option OcTy :=
  if c = 0#3 then some .f32 else
  if c = 1#3 then some .bf16 else
  if c = 2#3 then some .f16 else
  if c = 3#3 then some .i32 else
  if c = 4#3 then some .n32 else
  none

/-- The code of a SpTy in its field. -/
def SpTy.code : SpTy → BitVec 2
  | .w32 => 0#2
  | .w64 => 3#2
/-- The SpTy a field value names, if it names one. -/
def SpTy.ofCode (c : BitVec 2) : Option SpTy :=
  if c = 0#2 then some .w32 else
  if c = 3#2 then some .w64 else
  none

/-- The code of a GangN in its field. -/
def GangN.code : GangN → BitVec 2
  | .n2 => 1#2
  | .n4 => 2#2
  | .n8 => 3#2
/-- The GangN a field value names, if it names one. -/
def GangN.ofCode (c : BitVec 2) : Option GangN :=
  if c = 1#2 then some .n2 else
  if c = 2#2 then some .n4 else
  if c = 3#2 then some .n8 else
  none

/-- The code of a LdtMode in its field. -/
def LdtMode.code : LdtMode → BitVec 2
  | .plain => 0#2
  | .wf => 1#2
  | .wfe => 2#2
/-- The LdtMode a field value names, if it names one. -/
def LdtMode.ofCode (c : BitVec 2) : Option LdtMode :=
  if c = 0#2 then some .plain else
  if c = 1#2 then some .wf else
  if c = 2#2 then some .wfe else
  none

/-- The code of a SttMode in its field. -/
def SttMode.code : SttMode → BitVec 2
  | .plain => 0#2
  | .we => 1#2
  | .sf => 2#2
/-- The SttMode a field value names, if it names one. -/
def SttMode.ofCode (c : BitVec 2) : Option SttMode :=
  if c = 0#2 then some .plain else
  if c = 1#2 then some .we else
  if c = 2#2 then some .sf else
  none

/-- The code of a SZ in its field. -/
def SZ.code : SZ → BitVec 1
  | .w => 0#1
  | .d => 1#1
/-- The SZ a field value names, if it names one. -/
def SZ.ofCode (c : BitVec 1) : Option SZ :=
  if c = 0#1 then some .w else
  if c = 1#1 then some .d else
  none

/-- Why a word is no instruction (R37). -/
inductive Reject where
  /-- The major opcode is not assigned. -/
  | noMajor
  /-- The minor value is not assigned under its major. -/
  | noMinor
  /-- A field the instruction does not use is nonzero, or a field value is ruled illegal. -/
  | badField
  /-- The word is all ones. -/
  | allOnes
  deriving DecidableEq, Repr

/-- What a word decodes to. -/
inductive Decoded where
  | ok (i : Instr)
  | bad (r : Reject)
  deriving DecidableEq, Repr

/-- Continue with a field value that names something. -/
def Decoded.on {α : Type} (o : Option α) (k : α → Decoded) : Decoded :=
  match o with
  | some a => k a
  | none => .bad .badField

/-- Continue if the fields that must be zero are zero. -/
def Decoded.need (b : Bool) (k : Decoded) : Decoded := bif b then k else .bad .badField

/-- Major 0x01: R124. -/
def dec01 (iw : BitVec 32) : Decoded :=
  bif fld iw 25 7 == 0#7 then .ok (.add (fld iw 7 6) (fld iw 13 6) (fld iw 19 6)) else
  bif fld iw 25 7 == 1#7 then .ok (.sub (fld iw 7 6) (fld iw 13 6) (fld iw 19 6)) else
  bif fld iw 25 7 == 2#7 then .ok (.and (fld iw 7 6) (fld iw 13 6) (fld iw 19 6)) else
  bif fld iw 25 7 == 3#7 then .ok (.or (fld iw 7 6) (fld iw 13 6) (fld iw 19 6)) else
  bif fld iw 25 7 == 4#7 then .ok (.xor (fld iw 7 6) (fld iw 13 6) (fld iw 19 6)) else
  bif fld iw 25 7 == 5#7 then .ok (.andn (fld iw 7 6) (fld iw 13 6) (fld iw 19 6)) else
  bif fld iw 25 7 == 6#7 then .ok (.sll (fld iw 7 6) (fld iw 13 6) (fld iw 19 6)) else
  bif fld iw 25 7 == 7#7 then .ok (.srl (fld iw 7 6) (fld iw 13 6) (fld iw 19 6)) else
  bif fld iw 25 7 == 8#7 then .ok (.sra (fld iw 7 6) (fld iw 13 6) (fld iw 19 6)) else
  bif fld iw 25 7 == 9#7 then .ok (.slt (fld iw 7 6) (fld iw 13 6) (fld iw 19 6)) else
  bif fld iw 25 7 == 10#7 then .ok (.sltu (fld iw 7 6) (fld iw 13 6) (fld iw 19 6)) else
  bif fld iw 25 7 == 11#7 then .ok (.min (fld iw 7 6) (fld iw 13 6) (fld iw 19 6)) else
  bif fld iw 25 7 == 12#7 then .ok (.max (fld iw 7 6) (fld iw 13 6) (fld iw 19 6)) else
  bif fld iw 25 7 == 13#7 then .ok (.minu (fld iw 7 6) (fld iw 13 6) (fld iw 19 6)) else
  bif fld iw 25 7 == 14#7 then .ok (.maxu (fld iw 7 6) (fld iw 13 6) (fld iw 19 6)) else
  bif fld iw 25 7 == 15#7 then .need (fld iw 19 6 == 0#6) <| .ok (.clz (fld iw 7 6) (fld iw 13 6)) else
  bif fld iw 25 7 == 16#7 then .need (fld iw 19 6 == 0#6) <| .ok (.ctz (fld iw 7 6) (fld iw 13 6)) else
  bif fld iw 25 7 == 17#7 then .need (fld iw 19 6 == 0#6) <| .ok (.popc (fld iw 7 6) (fld iw 13 6)) else
  bif fld iw 25 7 == 18#7 then .ok (.rol (fld iw 7 6) (fld iw 13 6) (fld iw 19 6)) else
  bif fld iw 25 7 == 19#7 then .ok (.ror (fld iw 7 6) (fld iw 13 6) (fld iw 19 6)) else
  .bad .noMinor

/-- Major 0x02: R125. -/
def dec02 (iw : BitVec 32) : Decoded :=
  .ok (.addi (fld iw 7 6) (fld iw 13 6) (fld iw 19 13))

/-- Major 0x03: R126. -/
def dec03 (iw : BitVec 32) : Decoded :=
  bif fld iw 29 3 == 0#3 then .ok (.andi (fld iw 7 6) (fld iw 13 6) (fld iw 19 10)) else
  bif fld iw 29 3 == 1#3 then .ok (.ori (fld iw 7 6) (fld iw 13 6) (fld iw 19 10)) else
  bif fld iw 29 3 == 2#3 then .ok (.xori (fld iw 7 6) (fld iw 13 6) (fld iw 19 10)) else
  bif fld iw 29 3 == 3#3 then .need (fld iw 25 4 == 0#4) <| .ok (.slli (fld iw 7 6) (fld iw 13 6) (fld iw 19 6)) else
  bif fld iw 29 3 == 4#3 then .need (fld iw 25 4 == 0#4) <| .ok (.srli (fld iw 7 6) (fld iw 13 6) (fld iw 19 6)) else
  bif fld iw 29 3 == 5#3 then .need (fld iw 25 4 == 0#4) <| .ok (.srai (fld iw 7 6) (fld iw 13 6) (fld iw 19 6)) else
  bif fld iw 29 3 == 6#3 then .ok (.slti (fld iw 7 6) (fld iw 13 6) (fld iw 19 10)) else
  bif fld iw 29 3 == 7#3 then .ok (.sltiu (fld iw 7 6) (fld iw 13 6) (fld iw 19 10)) else
  .bad .noMinor

/-- Major 0x04: R127. -/
def dec04 (iw : BitVec 32) : Decoded :=
  .ok (.lui (fld iw 7 6) (fld iw 13 19))

/-- Major 0x05: R127. -/
def dec05 (iw : BitVec 32) : Decoded :=
  .ok (.adrp (fld iw 7 6) (fld iw 13 19))

/-- Major 0x06: R128. -/
def dec06 (iw : BitVec 32) : Decoded :=
  bif fld iw 25 7 == 0#7 then .ok (.mul (fld iw 7 6) (fld iw 13 6) (fld iw 19 6)) else
  bif fld iw 25 7 == 1#7 then .ok (.mulh (fld iw 7 6) (fld iw 13 6) (fld iw 19 6)) else
  bif fld iw 25 7 == 2#7 then .ok (.mulhu (fld iw 7 6) (fld iw 13 6) (fld iw 19 6)) else
  bif fld iw 25 7 == 3#7 then .ok (.mulhsu (fld iw 7 6) (fld iw 13 6) (fld iw 19 6)) else
  bif fld iw 25 7 == 4#7 then .ok (.div (fld iw 7 6) (fld iw 13 6) (fld iw 19 6)) else
  bif fld iw 25 7 == 5#7 then .ok (.divu (fld iw 7 6) (fld iw 13 6) (fld iw 19 6)) else
  bif fld iw 25 7 == 6#7 then .ok (.rem (fld iw 7 6) (fld iw 13 6) (fld iw 19 6)) else
  bif fld iw 25 7 == 7#7 then .ok (.remu (fld iw 7 6) (fld iw 13 6) (fld iw 19 6)) else
  .bad .noMinor

/-- Major 0x07: R129. -/
def dec07 (iw : BitVec 32) : Decoded :=
  bif fld iw 29 3 == 0#3 then .ok (.movxRead (fld iw 7 6) (fld iw 13 6) (fld iw 19 10)) else
  bif fld iw 29 3 == 1#3 then .ok (.movxWrite (fld iw 13 6) (fld iw 19 10) (fld iw 7 6)) else
  .bad .noMinor

/-- Major 0x08: R132, R133, R134, R135. -/
def dec08 (iw : BitVec 32) : Decoded :=
  bif fld iw 25 3 == 0#3 then .on (FT.ofCode (fld iw 28 1)) fun t => .on (RM.ofCode (fld iw 29 3)) fun m => .ok (.fadd t m (fld iw 7 6) (fld iw 13 6) (fld iw 19 6)) else
  bif fld iw 25 3 == 1#3 then .on (FT.ofCode (fld iw 28 1)) fun t => .on (RM.ofCode (fld iw 29 3)) fun m => .ok (.fsub t m (fld iw 7 6) (fld iw 13 6) (fld iw 19 6)) else
  bif fld iw 25 3 == 2#3 then .on (FT.ofCode (fld iw 28 1)) fun t => .on (RM.ofCode (fld iw 29 3)) fun m => .ok (.fmul t m (fld iw 7 6) (fld iw 13 6) (fld iw 19 6)) else
  bif fld iw 25 3 == 3#3 then .on (FT.ofCode (fld iw 28 1)) fun t => .on (RM.ofCode (fld iw 29 3)) fun m => .ok (.fdiv t m (fld iw 7 6) (fld iw 13 6) (fld iw 19 6)) else
  bif fld iw 25 3 == 4#3 then .need (fld iw 19 6 == 0#6) <| .on (FT.ofCode (fld iw 28 1)) fun t => .on (RM.ofCode (fld iw 29 3)) fun m => .ok (.fsqrt t m (fld iw 7 6) (fld iw 13 6)) else
  bif fld iw 25 3 == 5#3 then .on (RM.ofCode (fld iw 29 3)) fun m => .on (XT.ofCode (fld iw 22 3)) fun t => .on (XT.ofCode (fld iw 19 3)) fun u => .ok (.fcvt m (fld iw 28 1 == 1#1) (fld iw 7 6) (fld iw 13 6) t u) else
  bif fld iw 29 3 == 0#3 && fld iw 25 3 == 6#3 then .on (FT.ofCode (fld iw 28 1)) fun t => .ok (.fmin t (fld iw 7 6) (fld iw 13 6) (fld iw 19 6)) else
  bif fld iw 29 3 == 1#3 && fld iw 25 3 == 6#3 then .on (FT.ofCode (fld iw 28 1)) fun t => .ok (.fmax t (fld iw 7 6) (fld iw 13 6) (fld iw 19 6)) else
  bif fld iw 29 3 == 2#3 && fld iw 25 3 == 6#3 then .on (FT.ofCode (fld iw 28 1)) fun t => .ok (.fsgnj t (fld iw 7 6) (fld iw 13 6) (fld iw 19 6)) else
  bif fld iw 29 3 == 3#3 && fld iw 25 3 == 6#3 then .on (FT.ofCode (fld iw 28 1)) fun t => .ok (.fsgnjn t (fld iw 7 6) (fld iw 13 6) (fld iw 19 6)) else
  bif fld iw 29 3 == 4#3 && fld iw 25 3 == 6#3 then .on (FT.ofCode (fld iw 28 1)) fun t => .ok (.fsgnjx t (fld iw 7 6) (fld iw 13 6) (fld iw 19 6)) else
  bif fld iw 29 3 == 5#3 && fld iw 25 3 == 6#3 then .on (FT.ofCode (fld iw 28 1)) fun t => .ok (.feq t (fld iw 7 6) (fld iw 13 6) (fld iw 19 6)) else
  bif fld iw 29 3 == 6#3 && fld iw 25 3 == 6#3 then .on (FT.ofCode (fld iw 28 1)) fun t => .ok (.flt t (fld iw 7 6) (fld iw 13 6) (fld iw 19 6)) else
  bif fld iw 29 3 == 7#3 && fld iw 25 3 == 6#3 then .on (FT.ofCode (fld iw 28 1)) fun t => .ok (.fle t (fld iw 7 6) (fld iw 13 6) (fld iw 19 6)) else
  bif fld iw 29 3 == 0#3 && fld iw 25 3 == 7#3 then .need (fld iw 19 6 == 0#6) <| .on (FT.ofCode (fld iw 28 1)) fun t => .ok (.fclass t (fld iw 7 6) (fld iw 13 6)) else
  .bad .noMinor

/-- Major 0x09: R136. -/
def dec09 (iw : BitVec 32) : Decoded :=
  bif fld iw 26 2 == 0#2 then .need (fld iw 25 1 == 0#1) <| .on (FT.ofCode (fld iw 31 1)) fun t => .on (RM.ofCode (fld iw 28 3)) fun m => .ok (.fmadd t m (fld iw 7 6) (fld iw 13 6) (fld iw 19 6)) else
  bif fld iw 26 2 == 1#2 then .need (fld iw 25 1 == 0#1) <| .on (FT.ofCode (fld iw 31 1)) fun t => .on (RM.ofCode (fld iw 28 3)) fun m => .ok (.fmsub t m (fld iw 7 6) (fld iw 13 6) (fld iw 19 6)) else
  bif fld iw 26 2 == 2#2 then .need (fld iw 25 1 == 0#1) <| .on (FT.ofCode (fld iw 31 1)) fun t => .on (RM.ofCode (fld iw 28 3)) fun m => .ok (.fnmadd t m (fld iw 7 6) (fld iw 13 6) (fld iw 19 6)) else
  bif fld iw 26 2 == 3#2 then .need (fld iw 25 1 == 0#1) <| .on (FT.ofCode (fld iw 31 1)) fun t => .on (RM.ofCode (fld iw 28 3)) fun m => .ok (.fnmsub t m (fld iw 7 6) (fld iw 13 6) (fld iw 19 6)) else
  .bad .noMinor

/-- Major 0x0A: R137. -/
def dec0A (iw : BitVec 32) : Decoded :=
  .need (fld iw 31 1 == 0#1) <| .ok (.sel (fld iw 7 6) (fld iw 13 6) (fld iw 19 6) (fld iw 25 6))

/-- Major 0x10: R99. -/
def dec10 (iw : BitVec 32) : Decoded :=
  bif fld iw 29 3 == 0#3 then .ok (.beq (fld iw 17 6) (fld iw 23 6) (fld iw 7 10)) else
  bif fld iw 29 3 == 1#3 then .ok (.bne (fld iw 17 6) (fld iw 23 6) (fld iw 7 10)) else
  bif fld iw 29 3 == 2#3 then .ok (.blt (fld iw 17 6) (fld iw 23 6) (fld iw 7 10)) else
  bif fld iw 29 3 == 3#3 then .ok (.bge (fld iw 17 6) (fld iw 23 6) (fld iw 7 10)) else
  bif fld iw 29 3 == 4#3 then .ok (.bltu (fld iw 17 6) (fld iw 23 6) (fld iw 7 10)) else
  bif fld iw 29 3 == 5#3 then .ok (.bgeu (fld iw 17 6) (fld iw 23 6) (fld iw 7 10)) else
  .bad .noMinor

/-- Major 0x11: R100. -/
def dec11 (iw : BitVec 32) : Decoded :=
  bif fld iw 31 1 == 0#1 then .ok (.beqz (fld iw 7 6) (fld iw 13 18)) else
  bif fld iw 31 1 == 1#1 then .ok (.bnez (fld iw 7 6) (fld iw 13 18)) else
  .bad .noMinor

/-- Major 0x12: R102. -/
def dec12 (iw : BitVec 32) : Decoded :=
  .ok (.jal (fld iw 7 6) (fld iw 13 19))

/-- Major 0x13: R103. -/
def dec13 (iw : BitVec 32) : Decoded :=
  .ok (.jalr (fld iw 7 6) (fld iw 13 6) (fld iw 19 13))

/-- Major 0x14: R101. -/
def dec14 (iw : BitVec 32) : Decoded :=
  .need (fld iw 31 1 == 0#1) <| .ok (.loopn (fld iw 7 6) (fld iw 13 18))

/-- Major 0x15: R104. -/
def dec15 (iw : BitVec 32) : Decoded :=
  .need (fld iw 7 7 == 0#7) <| .ok (.rep (fld iw 28 4) (fld iw 22 6) (fld iw 18 4) (fld iw 14 4))

/-- Major 0x16: R106, R108. -/
def dec16 (iw : BitVec 32) : Decoded :=
  bif fld iw 29 3 == 0#3 then .need (fld iw 7 20 == 0#20) <| .on (GangN.ofCode (fld iw 27 2)) fun n => .ok (.gang n) else
  bif fld iw 29 3 == 1#3 then .need (fld iw 27 2 == 0#2 && fld iw 7 20 == 0#20) <| .ok .gangend else
  .bad .noMinor

/-- Major 0x17: R75, R112, R114, R116, R117, R119. -/
def dec17 (iw : BitVec 32) : Decoded :=
  bif fld iw 25 7 == 0#7 then .need (fld iw 19 6 == 0#6 && fld iw 13 6 == 0#6 && fld iw 7 6 == 0#6) <| .ok .retire else
  bif fld iw 25 7 == 1#7 then .ok (.launch (fld iw 7 6) (fld iw 13 6) (fld iw 19 6)) else
  bif fld iw 25 7 == 2#7 then .need (fld iw 19 6 == 0#6) <| .ok (.join (fld iw 7 6) (fld iw 13 6)) else
  bif fld iw 25 7 == 3#7 then .need (fld iw 19 6 == 0#6 && fld iw 7 6 == 0#6) <| .ok (.leave (fld iw 13 6)) else
  bif fld iw 25 7 == 4#7 then .need (fld iw 19 6 == 0#6 && fld iw 7 6 == 0#6) <| .ok (.phase (fld iw 13 6)) else
  bif fld iw 25 7 == 5#7 then .need (fld iw 19 6 == 0#6 && fld iw 7 6 == 0#6) <| .ok (.gbar (fld iw 13 6)) else
  bif fld iw 25 7 == 6#7 then .need (fld iw 19 6 == 0#6 && fld iw 13 6 == 0#6) <| .ok (.sget (fld iw 7 6)) else
  bif fld iw 25 7 == 7#7 then .need (fld iw 19 6 == 0#6 && fld iw 13 6 == 0#6 && fld iw 7 6 == 0#6) <| .ok .sput else
  .bad .noMinor

/-- Major 0x18: R121. -/
def dec18 (iw : BitVec 32) : Decoded :=
  bif fld iw 25 7 == 0#7 then .need (fld iw 17 2 == 0#2) <| .ok (.hswait (fld iw 7 6) (fld iw 13 4) (fld iw 19 6)) else
  bif fld iw 25 7 == 1#7 then .need (fld iw 17 2 == 0#2) <| .ok (.hstry (fld iw 7 6) (fld iw 13 4) (fld iw 19 6)) else
  bif fld iw 25 7 == 2#7 then .need (fld iw 17 2 == 0#2 && fld iw 7 6 == 0#6) <| .ok (.hspost (fld iw 13 4) (fld iw 19 6)) else
  bif fld iw 25 7 == 3#7 then .need (fld iw 17 2 == 0#2 && fld iw 7 6 == 0#6) <| .ok (.hsset (fld iw 13 4) (fld iw 19 6)) else
  bif fld iw 25 7 == 4#7 then .need (fld iw 19 6 == 0#6 && fld iw 17 2 == 0#2) <| .ok (.hsrd (fld iw 7 6) (fld iw 13 4)) else
  .bad .noMinor

/-- Major 0x20: R145. -/
def dec20 (iw : BitVec 32) : Decoded :=
  .on (LdTy.ofCode (fld iw 29 3)) fun t => .ok (.ld t (fld iw 7 6) (fld iw 13 6) (fld iw 19 10))

/-- Major 0x21: R146. -/
def dec21 (iw : BitVec 32) : Decoded :=
  .need (fld iw 31 1 == 0#1) <| .on (StSz.ofCode (fld iw 29 2)) fun t => .ok (.st t (fld iw 13 6) (fld iw 25 4 ++ fld iw 7 6) (fld iw 19 6))

/-- Major 0x22: R148. -/
def dec22 (iw : BitVec 32) : Decoded :=
  .need (fld iw 30 2 == 0#2) <| .on (LdMode.ofCode (fld iw 29 1)) fun m => .ok (.ldfe m (fld iw 7 6) (fld iw 13 6) (fld iw 19 10))

/-- Major 0x23: R148. -/
def dec23 (iw : BitVec 32) : Decoded :=
  .need (fld iw 30 2 == 0#2) <| .on (StMode.ofCode (fld iw 29 1)) fun m => .ok (.stfe m (fld iw 13 6) (fld iw 25 4 ++ fld iw 7 6) (fld iw 19 6))

/-- Major 0x24: R152. -/
def dec24 (iw : BitVec 32) : Decoded :=
  bif fld iw 31 1 == 0#1 then .need (fld iw 26 1 == 0#1 && fld iw 12 5 == 0#5) <| .on (ElemTy.ofCode (fld iw 27 4)) fun t => .ok (.vld t (fld iw 7 5) (fld iw 17 6) (fld iw 23 3)) else
  bif fld iw 31 1 == 1#1 then .need (fld iw 26 1 == 0#1) <| .on (ElemTy.ofCode (fld iw 27 4)) fun t => .ok (.vlds t (fld iw 7 5) (fld iw 17 6) (fld iw 12 5) (fld iw 23 3)) else
  .bad .noMinor

/-- Major 0x25: R152. -/
def dec25 (iw : BitVec 32) : Decoded :=
  bif fld iw 31 1 == 0#1 then .need (fld iw 26 1 == 0#1 && fld iw 12 5 == 0#5) <| .on (ElemTy.ofCode (fld iw 27 4)) fun t => .ok (.vst t (fld iw 17 6) (fld iw 7 5) (fld iw 23 3)) else
  bif fld iw 31 1 == 1#1 then .need (fld iw 26 1 == 0#1) <| .on (ElemTy.ofCode (fld iw 27 4)) fun t => .ok (.vsts t (fld iw 17 6) (fld iw 7 5) (fld iw 12 5) (fld iw 23 3)) else
  .bad .noMinor

/-- Major 0x26: R154. -/
def dec26 (iw : BitVec 32) : Decoded :=
  .need (fld iw 25 3 == 0#3) <| .on (ElemTy.ofCode (fld iw 28 4)) fun t => .ok (.vldx t (fld iw 7 5) (fld iw 12 5) (fld iw 17 5) (fld iw 22 3))

/-- Major 0x27: R154. -/
def dec27 (iw : BitVec 32) : Decoded :=
  .need (fld iw 25 3 == 0#3) <| .on (ElemTy.ofCode (fld iw 28 4)) fun t => .ok (.vstx t (fld iw 12 5) (fld iw 17 5) (fld iw 7 5) (fld iw 22 3))

/-- Major 0x28: R221, R222. -/
def dec28 (iw : BitVec 32) : Decoded :=
  bif fld iw 31 1 == 0#1 then .on (LdtMode.ofCode (fld iw 25 2)) fun m => .on (ElemTy.ofCode (fld iw 27 4)) fun t => .ok (.ldt m t (fld iw 7 6) (fld iw 13 6) (fld iw 19 6)) else
  bif fld iw 31 1 == 1#1 then .need (fld iw 24 1 == 0#1 && fld iw 12 1 == 0#1) <| .on (ElemTy.ofCode (fld iw 27 4)) fun t => .ok (.vldt t (fld iw 7 5) (fld iw 13 6) (fld iw 19 5) (fld iw 25 2)) else
  .bad .noMinor

/-- Major 0x29: R221, R222. -/
def dec29 (iw : BitVec 32) : Decoded :=
  bif fld iw 31 1 == 0#1 then .on (SttMode.ofCode (fld iw 25 2)) fun m => .on (ElemTy.ofCode (fld iw 27 4)) fun t => .ok (.stt m t (fld iw 13 6) (fld iw 19 6) (fld iw 7 6)) else
  bif fld iw 31 1 == 1#1 then .need (fld iw 24 1 == 0#1 && fld iw 12 1 == 0#1) <| .on (ElemTy.ofCode (fld iw 27 4)) fun t => .ok (.vstt t (fld iw 13 6) (fld iw 19 5) (fld iw 7 5) (fld iw 25 2)) else
  .bad .noMinor

/-- Major 0x2A: R229, R231. -/
def dec2A (iw : BitVec 32) : Decoded :=
  bif fld iw 28 4 == 0#4 then .need (fld iw 19 6 == 0#6 && fld iw 7 6 == 0#6) <| .on (Scope.ofCode (fld iw 25 3)) fun s => .ok (.shinv s (fld iw 13 6)) else
  bif fld iw 28 4 == 1#4 then .need (fld iw 25 3 == 0#3) <| .ok (.shloc (fld iw 7 6) (fld iw 13 6) (fld iw 19 6)) else
  .bad .noMinor

/-- Major 0x2B: R248, R249, R250. -/
def dec2B (iw : BitVec 32) : Decoded :=
  bif fld iw 28 4 == 0#4 then .need (fld iw 7 18 == 0#18) <| .on (Scope.ofCode (fld iw 25 3)) fun s => .ok (.rel s) else
  bif fld iw 28 4 == 1#4 then .need (fld iw 7 18 == 0#18) <| .on (Scope.ofCode (fld iw 25 3)) fun s => .ok (.acq s) else
  bif fld iw 28 4 == 2#4 then .need (fld iw 7 18 == 0#18) <| .on (Scope.ofCode (fld iw 25 3)) fun s => .ok (.fence s) else
  .bad .noMinor

/-- Major 0x30: R163. -/
def dec30 (iw : BitVec 32) : Decoded :=
  bif fld iw 28 4 == 0#4 then .need (fld iw 25 2 == 0#2) <| .on (SZ.ofCode (fld iw 27 1)) fun z => .ok (.amoadd z (fld iw 7 6) (fld iw 13 6) (fld iw 19 6)) else
  bif fld iw 28 4 == 1#4 then .need (fld iw 25 2 == 0#2) <| .on (SZ.ofCode (fld iw 27 1)) fun z => .ok (.amoand z (fld iw 7 6) (fld iw 13 6) (fld iw 19 6)) else
  bif fld iw 28 4 == 2#4 then .need (fld iw 25 2 == 0#2) <| .on (SZ.ofCode (fld iw 27 1)) fun z => .ok (.amoor z (fld iw 7 6) (fld iw 13 6) (fld iw 19 6)) else
  bif fld iw 28 4 == 3#4 then .need (fld iw 25 2 == 0#2) <| .on (SZ.ofCode (fld iw 27 1)) fun z => .ok (.amoxor z (fld iw 7 6) (fld iw 13 6) (fld iw 19 6)) else
  bif fld iw 28 4 == 4#4 then .need (fld iw 25 2 == 0#2) <| .on (SZ.ofCode (fld iw 27 1)) fun z => .ok (.amomin z (fld iw 7 6) (fld iw 13 6) (fld iw 19 6)) else
  bif fld iw 28 4 == 5#4 then .need (fld iw 25 2 == 0#2) <| .on (SZ.ofCode (fld iw 27 1)) fun z => .ok (.amomax z (fld iw 7 6) (fld iw 13 6) (fld iw 19 6)) else
  bif fld iw 28 4 == 6#4 then .need (fld iw 25 2 == 0#2) <| .on (SZ.ofCode (fld iw 27 1)) fun z => .ok (.amominu z (fld iw 7 6) (fld iw 13 6) (fld iw 19 6)) else
  bif fld iw 28 4 == 7#4 then .need (fld iw 25 2 == 0#2) <| .on (SZ.ofCode (fld iw 27 1)) fun z => .ok (.amomaxu z (fld iw 7 6) (fld iw 13 6) (fld iw 19 6)) else
  bif fld iw 28 4 == 8#4 then .need (fld iw 25 2 == 0#2) <| .on (SZ.ofCode (fld iw 27 1)) fun z => .ok (.amoswp z (fld iw 7 6) (fld iw 13 6) (fld iw 19 6)) else
  bif fld iw 28 4 == 9#4 then .need (fld iw 25 2 == 0#2) <| .on (SZ.ofCode (fld iw 27 1)) fun z => .ok (.amocas z (fld iw 7 6) (fld iw 13 6) (fld iw 19 6)) else
  .bad .noMinor

/-- Major 0x31: R164. -/
def dec31 (iw : BitVec 32) : Decoded :=
  bif fld iw 28 4 == 0#4 then .on (AF.ofCode (fld iw 25 3)) fun t => .ok (.amofadd t (fld iw 7 6) (fld iw 13 6) (fld iw 19 6)) else
  bif fld iw 28 4 == 1#4 then .on (AF.ofCode (fld iw 25 3)) fun t => .ok (.amofmin t (fld iw 7 6) (fld iw 13 6) (fld iw 19 6)) else
  bif fld iw 28 4 == 2#4 then .on (AF.ofCode (fld iw 25 3)) fun t => .ok (.amofmax t (fld iw 7 6) (fld iw 13 6) (fld iw 19 6)) else
  .bad .noMinor

/-- Major 0x32: R68, R69, R165. -/
def dec32 (iw : BitVec 32) : Decoded :=
  bif fld iw 28 4 == 0#4 then .need (fld iw 7 6 == 0#6) <| .on (AF.ofCode (fld iw 25 3)) fun t => .ok (.xcadd t (fld iw 13 6) (fld iw 19 6)) else
  bif fld iw 28 4 == 1#4 then .need (fld iw 19 6 == 0#6) <| .on (AF.ofCode (fld iw 25 3)) fun t => .ok (.xcrd t (fld iw 7 6) (fld iw 13 6)) else
  bif fld iw 28 4 == 2#4 then .need (fld iw 25 3 == 0#3 && fld iw 19 6 == 0#6 && fld iw 7 6 == 0#6) <| .ok (.xcclr (fld iw 13 6)) else
  bif fld iw 28 4 == 3#4 then .need (fld iw 19 6 == 0#6) <| .on (AF.ofCode (fld iw 25 3)) fun t => .ok (.xcrdclr t (fld iw 7 6) (fld iw 13 6)) else
  .bad .noMinor

/-- Major 0x33: R166, R168. -/
def dec33 (iw : BitVec 32) : Decoded :=
  bif fld iw 29 3 == 0#3 then .on (ElemTy.ofCode (fld iw 25 4)) fun t => .ok (.vamoadd t (fld iw 12 5) (fld iw 17 5) (fld iw 7 5) (fld iw 22 3)) else
  bif fld iw 29 3 == 1#3 then .on (ElemTy.ofCode (fld iw 25 4)) fun t => .ok (.vamomin t (fld iw 12 5) (fld iw 17 5) (fld iw 7 5) (fld iw 22 3)) else
  bif fld iw 29 3 == 2#3 then .on (ElemTy.ofCode (fld iw 25 4)) fun t => .ok (.vamomax t (fld iw 12 5) (fld iw 17 5) (fld iw 7 5) (fld iw 22 3)) else
  bif fld iw 29 3 == 3#3 then .on (ElemTy.ofCode (fld iw 25 4)) fun t => .ok (.vxcadd t (fld iw 12 5) (fld iw 17 5) (fld iw 7 5) (fld iw 22 3)) else
  bif fld iw 29 3 == 4#3 then .need (fld iw 17 5 == 0#5) <| .on (ElemTy.ofCode (fld iw 25 4)) fun t => .ok (.vbsum t (fld iw 12 5) (fld iw 7 5) (fld iw 22 3)) else
  .bad .noMinor

/-- Major 0x38: R175. -/
def dec38 (iw : BitVec 32) : Decoded :=
  bif fld iw 25 7 == 0#7 then .need (fld iw 19 6 == 0#6 && fld iw 17 2 == 0#2) <| .ok (.qget (fld iw 7 6) (fld iw 13 4)) else
  bif fld iw 25 7 == 1#7 then .need (fld iw 17 2 == 0#2 && fld iw 7 6 == 0#6) <| .ok (.qput (fld iw 13 4) (fld iw 19 6)) else
  bif fld iw 25 7 == 2#7 then .need (fld iw 19 6 == 0#6 && fld iw 17 2 == 0#2 && fld iw 12 1 == 0#1) <| .ok (.vqget (fld iw 7 5) (fld iw 13 4)) else
  bif fld iw 25 7 == 3#7 then .need (fld iw 24 1 == 0#1 && fld iw 17 2 == 0#2 && fld iw 7 6 == 0#6) <| .ok (.vqput (fld iw 13 4) (fld iw 19 5)) else
  bif fld iw 25 7 == 4#7 then .need (fld iw 19 6 == 0#6 && fld iw 17 2 == 0#2) <| .ok (.qcnt (fld iw 7 6) (fld iw 13 4)) else
  .bad .noMinor

/-- Major 0x39: R179. -/
def dec39 (iw : BitVec 32) : Decoded :=
  bif fld iw 25 7 == 0#7 then .ok (.send (fld iw 13 6) (fld iw 19 6) (fld iw 7 6)) else
  bif fld iw 25 7 == 1#7 then .need (fld iw 18 1 == 0#1) <| .ok (.sendv (fld iw 13 5) (fld iw 19 6) (fld iw 7 6)) else
  .bad .noMinor

/-- Major 0x3A: R184, R185, R187. -/
def dec3A (iw : BitVec 32) : Decoded :=
  bif fld iw 28 4 == 0#4 then .need (fld iw 19 6 == 0#6 && fld iw 7 6 == 0#6) <| .ok (.cwr (fld iw 25 3) (fld iw 13 6)) else
  bif fld iw 25 7 == 16#7 then .need (fld iw 19 6 == 0#6 && fld iw 13 6 == 0#6) <| .ok (.cgo (fld iw 7 6)) else
  bif fld iw 25 7 == 17#7 then .need (fld iw 19 6 == 0#6) <| .ok (.cwp (fld iw 7 6) (fld iw 13 6)) else
  bif fld iw 28 4 == 3#4 then .need (fld iw 19 6 == 0#6 && fld iw 13 6 == 0#6) <| .ok (.crd (fld iw 25 3) (fld iw 7 6)) else
  .bad .noMinor

/-- Major 0x3B: R189. -/
def dec3B (iw : BitVec 32) : Decoded :=
  bif fld iw 25 7 == 0#7 then .need (fld iw 7 6 == 0#6) <| .ok (.txinit (fld iw 13 6) (fld iw 19 6)) else
  bif fld iw 25 7 == 1#7 then .need (fld iw 19 6 == 0#6) <| .ok (.txarr (fld iw 7 6) (fld iw 13 6)) else
  bif fld iw 25 7 == 2#7 then .need (fld iw 7 6 == 0#6) <| .ok (.txexp (fld iw 13 6) (fld iw 19 6)) else
  bif fld iw 25 7 == 3#7 then .need (fld iw 7 6 == 0#6) <| .ok (.txwait (fld iw 13 6) (fld iw 19 6)) else
  bif fld iw 25 7 == 4#7 then .ok (.txtry (fld iw 7 6) (fld iw 13 6) (fld iw 19 6)) else
  .bad .noMinor

/-- Major 0x3C: R192. -/
def dec3C (iw : BitVec 32) : Decoded :=
  bif fld iw 25 7 == 0#7 then .need (fld iw 13 6 == 0#6) <| .ok (.dqpush (fld iw 7 6) (fld iw 19 6)) else
  bif fld iw 25 7 == 1#7 then .need (fld iw 19 6 == 0#6 && fld iw 13 6 == 0#6) <| .ok (.dqpop (fld iw 7 6)) else
  bif fld iw 25 7 == 2#7 then .need (fld iw 19 6 == 0#6) <| .ok (.dqsteal (fld iw 7 6) (fld iw 13 6)) else
  .bad .noMinor

/-- Major 0x40: R276. -/
def dec40 (iw : BitVec 32) : Decoded :=
  bif fld iw 28 4 == 0#4 then .need (fld iw 25 1 == 0#1) <| .on (VF.ofCode (fld iw 26 2)) fun y => .ok (.vadd y (fld iw 7 5) (fld iw 12 5) (fld iw 17 5) (fld iw 22 3)) else
  bif fld iw 28 4 == 1#4 then .need (fld iw 25 1 == 0#1) <| .on (VF.ofCode (fld iw 26 2)) fun y => .ok (.vsub y (fld iw 7 5) (fld iw 12 5) (fld iw 17 5) (fld iw 22 3)) else
  bif fld iw 28 4 == 2#4 then .need (fld iw 25 1 == 0#1) <| .on (VF.ofCode (fld iw 26 2)) fun y => .ok (.vmul y (fld iw 7 5) (fld iw 12 5) (fld iw 17 5) (fld iw 22 3)) else
  bif fld iw 28 4 == 3#4 then .need (fld iw 25 1 == 0#1) <| .on (VF.ofCode (fld iw 26 2)) fun y => .ok (.vdiv y (fld iw 7 5) (fld iw 12 5) (fld iw 17 5) (fld iw 22 3)) else
  bif fld iw 28 4 == 4#4 then .need (fld iw 25 1 == 0#1) <| .on (VF.ofCode (fld iw 26 2)) fun y => .ok (.vmin y (fld iw 7 5) (fld iw 12 5) (fld iw 17 5) (fld iw 22 3)) else
  bif fld iw 28 4 == 5#4 then .need (fld iw 25 1 == 0#1) <| .on (VF.ofCode (fld iw 26 2)) fun y => .ok (.vmax y (fld iw 7 5) (fld iw 12 5) (fld iw 17 5) (fld iw 22 3)) else
  bif fld iw 28 4 == 6#4 then .need (fld iw 25 1 == 0#1 && fld iw 17 5 == 0#5) <| .on (VF.ofCode (fld iw 26 2)) fun y => .ok (.vabs y (fld iw 7 5) (fld iw 12 5) (fld iw 22 3)) else
  bif fld iw 28 4 == 7#4 then .need (fld iw 25 1 == 0#1 && fld iw 17 5 == 0#5) <| .on (VF.ofCode (fld iw 26 2)) fun y => .ok (.vneg y (fld iw 7 5) (fld iw 12 5) (fld iw 22 3)) else
  bif fld iw 28 4 == 8#4 then .need (fld iw 25 1 == 0#1) <| .on (VF.ofCode (fld iw 26 2)) fun y => .ok (.vsgnj y (fld iw 7 5) (fld iw 12 5) (fld iw 17 5) (fld iw 22 3)) else
  .bad .noMinor

/-- Major 0x41: R277. -/
def dec41 (iw : BitVec 32) : Decoded :=
  bif fld iw 30 2 == 0#2 then .ok (.vfmadd (fld iw 7 5) (fld iw 12 5) (fld iw 17 5) (fld iw 22 5) (fld iw 27 3)) else
  bif fld iw 30 2 == 1#2 then .ok (.vfmsub (fld iw 7 5) (fld iw 12 5) (fld iw 17 5) (fld iw 22 5) (fld iw 27 3)) else
  bif fld iw 30 2 == 2#2 then .ok (.vfnmadd (fld iw 7 5) (fld iw 12 5) (fld iw 17 5) (fld iw 22 5) (fld iw 27 3)) else
  bif fld iw 30 2 == 3#2 then .ok (.vfnmsub (fld iw 7 5) (fld iw 12 5) (fld iw 17 5) (fld iw 22 5) (fld iw 27 3)) else
  .bad .noMinor

/-- Major 0x42: R278. -/
def dec42 (iw : BitVec 32) : Decoded :=
  bif fld iw 29 3 == 0#3 then .need (fld iw 26 1 == 0#1) <| .on (VF.ofCode (fld iw 27 2)) fun y => .ok (.vaddx y (fld iw 7 5) (fld iw 12 5) (fld iw 17 6) (fld iw 23 3)) else
  bif fld iw 29 3 == 1#3 then .need (fld iw 26 1 == 0#1) <| .on (VF.ofCode (fld iw 27 2)) fun y => .ok (.vsubx y (fld iw 7 5) (fld iw 12 5) (fld iw 17 6) (fld iw 23 3)) else
  bif fld iw 29 3 == 2#3 then .need (fld iw 26 1 == 0#1) <| .on (VF.ofCode (fld iw 27 2)) fun y => .ok (.vmulx y (fld iw 7 5) (fld iw 12 5) (fld iw 17 6) (fld iw 23 3)) else
  bif fld iw 29 3 == 3#3 then .need (fld iw 26 1 == 0#1) <| .on (VF.ofCode (fld iw 27 2)) fun y => .ok (.vdivx y (fld iw 7 5) (fld iw 12 5) (fld iw 17 6) (fld iw 23 3)) else
  bif fld iw 29 3 == 4#3 then .need (fld iw 26 1 == 0#1) <| .on (VF.ofCode (fld iw 27 2)) fun y => .ok (.vminx y (fld iw 7 5) (fld iw 12 5) (fld iw 17 6) (fld iw 23 3)) else
  bif fld iw 29 3 == 5#3 then .need (fld iw 26 1 == 0#1) <| .on (VF.ofCode (fld iw 27 2)) fun y => .ok (.vmaxx y (fld iw 7 5) (fld iw 12 5) (fld iw 17 6) (fld iw 23 3)) else
  .bad .noMinor

/-- Major 0x43: R279. -/
def dec43 (iw : BitVec 32) : Decoded :=
  bif fld iw 28 4 == 0#4 then .need (fld iw 25 3 == 0#3 && fld iw 17 5 == 0#5) <| .ok (.vexp (fld iw 7 5) (fld iw 12 5) (fld iw 22 3)) else
  bif fld iw 28 4 == 1#4 then .need (fld iw 25 3 == 0#3 && fld iw 17 5 == 0#5) <| .ok (.vlog (fld iw 7 5) (fld iw 12 5) (fld iw 22 3)) else
  bif fld iw 28 4 == 2#4 then .need (fld iw 25 3 == 0#3 && fld iw 17 5 == 0#5) <| .ok (.vrcp (fld iw 7 5) (fld iw 12 5) (fld iw 22 3)) else
  bif fld iw 28 4 == 3#4 then .need (fld iw 25 3 == 0#3 && fld iw 17 5 == 0#5) <| .ok (.vrsqrt (fld iw 7 5) (fld iw 12 5) (fld iw 22 3)) else
  bif fld iw 28 4 == 4#4 then .need (fld iw 25 3 == 0#3 && fld iw 17 5 == 0#5) <| .ok (.vtanh (fld iw 7 5) (fld iw 12 5) (fld iw 22 3)) else
  bif fld iw 28 4 == 5#4 then .need (fld iw 25 3 == 0#3 && fld iw 17 5 == 0#5) <| .ok (.vsqrt (fld iw 7 5) (fld iw 12 5) (fld iw 22 3)) else
  .bad .noMinor

/-- Major 0x44: R286, R287. -/
def dec44 (iw : BitVec 32) : Decoded :=
  bif fld iw 28 4 == 0#4 then .need (fld iw 25 1 == 0#1 && fld iw 17 5 == 0#5) <| .on (RF.ofCode (fld iw 26 2)) fun y => .ok (.vredsum y (fld iw 7 5) (fld iw 12 5) (fld iw 22 3)) else
  bif fld iw 28 4 == 1#4 then .need (fld iw 25 1 == 0#1 && fld iw 17 5 == 0#5) <| .on (RF.ofCode (fld iw 26 2)) fun y => .ok (.vredmax y (fld iw 7 5) (fld iw 12 5) (fld iw 22 3)) else
  bif fld iw 28 4 == 2#4 then .need (fld iw 25 1 == 0#1 && fld iw 17 5 == 0#5) <| .on (RF.ofCode (fld iw 26 2)) fun y => .ok (.vredmin y (fld iw 7 5) (fld iw 12 5) (fld iw 22 3)) else
  bif fld iw 28 4 == 8#4 then .need (fld iw 16 1 == 0#1) <| .on (RF.ofCode (fld iw 26 2)) fun y => .ok (.vredq y (fld iw 7 5) (fld iw 12 4) (fld iw 17 6) (fld iw 23 3)) else
  .bad .noMinor

/-- Major 0x48: R280. -/
def dec48 (iw : BitVec 32) : Decoded :=
  bif fld iw 28 4 == 0#4 then .on (IW.ofCode (fld iw 26 2)) fun w => .ok (.viadd w (fld iw 25 1 == 1#1) (fld iw 7 5) (fld iw 12 5) (fld iw 17 5) (fld iw 22 3)) else
  bif fld iw 28 4 == 1#4 then .on (IW.ofCode (fld iw 26 2)) fun w => .ok (.visub w (fld iw 25 1 == 1#1) (fld iw 7 5) (fld iw 12 5) (fld iw 17 5) (fld iw 22 3)) else
  bif fld iw 28 4 == 2#4 then .on (IW.ofCode (fld iw 26 2)) fun w => .ok (.vimul w (fld iw 25 1 == 1#1) (fld iw 7 5) (fld iw 12 5) (fld iw 17 5) (fld iw 22 3)) else
  bif fld iw 28 4 == 3#4 then .on (IW.ofCode (fld iw 26 2)) fun w => .ok (.vimulh w (fld iw 25 1 == 1#1) (fld iw 7 5) (fld iw 12 5) (fld iw 17 5) (fld iw 22 3)) else
  bif fld iw 28 4 == 4#4 then .on (IW.ofCode (fld iw 26 2)) fun w => .ok (.viand w (fld iw 25 1 == 1#1) (fld iw 7 5) (fld iw 12 5) (fld iw 17 5) (fld iw 22 3)) else
  bif fld iw 28 4 == 5#4 then .on (IW.ofCode (fld iw 26 2)) fun w => .ok (.vior w (fld iw 25 1 == 1#1) (fld iw 7 5) (fld iw 12 5) (fld iw 17 5) (fld iw 22 3)) else
  bif fld iw 28 4 == 6#4 then .on (IW.ofCode (fld iw 26 2)) fun w => .ok (.vixor w (fld iw 25 1 == 1#1) (fld iw 7 5) (fld iw 12 5) (fld iw 17 5) (fld iw 22 3)) else
  bif fld iw 28 4 == 7#4 then .on (IW.ofCode (fld iw 26 2)) fun w => .ok (.visll w (fld iw 25 1 == 1#1) (fld iw 7 5) (fld iw 12 5) (fld iw 17 5) (fld iw 22 3)) else
  bif fld iw 28 4 == 8#4 then .on (IW.ofCode (fld iw 26 2)) fun w => .ok (.visrl w (fld iw 25 1 == 1#1) (fld iw 7 5) (fld iw 12 5) (fld iw 17 5) (fld iw 22 3)) else
  bif fld iw 28 4 == 9#4 then .on (IW.ofCode (fld iw 26 2)) fun w => .ok (.visra w (fld iw 25 1 == 1#1) (fld iw 7 5) (fld iw 12 5) (fld iw 17 5) (fld iw 22 3)) else
  bif fld iw 28 4 == 10#4 then .on (IW.ofCode (fld iw 26 2)) fun w => .ok (.vimin w (fld iw 25 1 == 1#1) (fld iw 7 5) (fld iw 12 5) (fld iw 17 5) (fld iw 22 3)) else
  bif fld iw 28 4 == 11#4 then .on (IW.ofCode (fld iw 26 2)) fun w => .ok (.vimax w (fld iw 25 1 == 1#1) (fld iw 7 5) (fld iw 12 5) (fld iw 17 5) (fld iw 22 3)) else
  bif fld iw 28 4 == 12#4 then .need (fld iw 17 5 == 0#5) <| .on (IW.ofCode (fld iw 26 2)) fun w => .ok (.vipopc w (fld iw 25 1 == 1#1) (fld iw 7 5) (fld iw 12 5) (fld iw 22 3)) else
  bif fld iw 28 4 == 13#4 then .on (IW.ofCode (fld iw 26 2)) fun w => .ok (.viaddSat w (fld iw 25 1 == 1#1) (fld iw 7 5) (fld iw 12 5) (fld iw 17 5) (fld iw 22 3)) else
  bif fld iw 28 4 == 14#4 then .on (IW.ofCode (fld iw 26 2)) fun w => .ok (.visubSat w (fld iw 25 1 == 1#1) (fld iw 7 5) (fld iw 12 5) (fld iw 17 5) (fld iw 22 3)) else
  .bad .noMinor

/-- Major 0x49: R281. -/
def dec49 (iw : BitVec 32) : Decoded :=
  bif fld iw 28 4 == 0#4 then .on (IW.ofCode (fld iw 26 2)) fun w => .ok (.viaddx w (fld iw 7 5) (fld iw 12 5) (fld iw 17 6) (fld iw 23 3)) else
  bif fld iw 28 4 == 1#4 then .on (IW.ofCode (fld iw 26 2)) fun w => .ok (.visubx w (fld iw 7 5) (fld iw 12 5) (fld iw 17 6) (fld iw 23 3)) else
  bif fld iw 28 4 == 2#4 then .on (IW.ofCode (fld iw 26 2)) fun w => .ok (.vimulx w (fld iw 7 5) (fld iw 12 5) (fld iw 17 6) (fld iw 23 3)) else
  bif fld iw 28 4 == 3#4 then .on (IW.ofCode (fld iw 26 2)) fun w => .ok (.viandx w (fld iw 7 5) (fld iw 12 5) (fld iw 17 6) (fld iw 23 3)) else
  bif fld iw 28 4 == 4#4 then .on (IW.ofCode (fld iw 26 2)) fun w => .ok (.viorx w (fld iw 7 5) (fld iw 12 5) (fld iw 17 6) (fld iw 23 3)) else
  bif fld iw 28 4 == 5#4 then .on (IW.ofCode (fld iw 26 2)) fun w => .ok (.vixorx w (fld iw 7 5) (fld iw 12 5) (fld iw 17 6) (fld iw 23 3)) else
  bif fld iw 28 4 == 6#4 then .on (IW.ofCode (fld iw 26 2)) fun w => .ok (.visllx w (fld iw 7 5) (fld iw 12 5) (fld iw 17 6) (fld iw 23 3)) else
  bif fld iw 28 4 == 7#4 then .on (IW.ofCode (fld iw 26 2)) fun w => .ok (.visrlx w (fld iw 7 5) (fld iw 12 5) (fld iw 17 6) (fld iw 23 3)) else
  bif fld iw 28 4 == 8#4 then .on (IW.ofCode (fld iw 26 2)) fun w => .ok (.visrax w (fld iw 7 5) (fld iw 12 5) (fld iw 17 6) (fld iw 23 3)) else
  .bad .noMinor

/-- Major 0x4A: R282, R283. -/
def dec4A (iw : BitVec 32) : Decoded :=
  bif fld iw 31 1 == 0#1 then .need (fld iw 10 2 == 0#2) <| .on (VPred.ofCode (fld iw 28 3)) fun p => .on (CmpTy.ofCode (fld iw 25 3)) fun t => .ok (.vcmp p t (fld iw 7 3) (fld iw 12 5) (fld iw 17 5) (fld iw 22 3)) else
  bif fld iw 28 4 == 8#4 then .need (fld iw 25 3 == 0#3 && fld iw 22 3 == 0#3 && fld iw 20 2 == 0#2 && fld iw 15 2 == 0#2 && fld iw 10 2 == 0#2) <| .ok (.kand (fld iw 7 3) (fld iw 12 3) (fld iw 17 3)) else
  bif fld iw 28 4 == 9#4 then .need (fld iw 25 3 == 0#3 && fld iw 22 3 == 0#3 && fld iw 20 2 == 0#2 && fld iw 15 2 == 0#2 && fld iw 10 2 == 0#2) <| .ok (.kor (fld iw 7 3) (fld iw 12 3) (fld iw 17 3)) else
  bif fld iw 28 4 == 10#4 then .need (fld iw 25 3 == 0#3 && fld iw 22 3 == 0#3 && fld iw 20 2 == 0#2 && fld iw 15 2 == 0#2 && fld iw 10 2 == 0#2) <| .ok (.kxor (fld iw 7 3) (fld iw 12 3) (fld iw 17 3)) else
  bif fld iw 28 4 == 11#4 then .need (fld iw 25 3 == 0#3 && fld iw 22 3 == 0#3 && fld iw 17 5 == 0#5 && fld iw 15 2 == 0#2 && fld iw 10 2 == 0#2) <| .ok (.knot (fld iw 7 3) (fld iw 12 3)) else
  bif fld iw 28 4 == 12#4 then .need (fld iw 25 3 == 0#3 && fld iw 22 3 == 0#3 && fld iw 17 5 == 0#5 && fld iw 15 2 == 0#2 && fld iw 10 2 == 0#2) <| .ok (.kmov (fld iw 7 3) (fld iw 12 3)) else
  .bad .noMinor

/-- Major 0x4B: R284, R285. -/
def dec4B (iw : BitVec 32) : Decoded :=
  bif fld iw 28 4 == 0#4 then .need (fld iw 26 2 == 0#2 && fld iw 25 1 == 0#1) <| .ok (.vperm (fld iw 7 5) (fld iw 12 5) (fld iw 17 5) (fld iw 22 3)) else
  bif fld iw 28 4 == 1#4 then .need (fld iw 26 2 == 0#2) <| .ok (.vslideup (fld iw 7 5) (fld iw 12 5) (fld iw 25 1 ++ fld iw 17 5) (fld iw 22 3)) else
  bif fld iw 28 4 == 2#4 then .need (fld iw 26 2 == 0#2) <| .ok (.vslidedn (fld iw 7 5) (fld iw 12 5) (fld iw 25 1 ++ fld iw 17 5) (fld iw 22 3)) else
  bif fld iw 28 4 == 3#4 then .need (fld iw 26 2 == 0#2 && fld iw 25 1 == 0#1 && fld iw 17 5 == 0#5) <| .ok (.vcompress (fld iw 7 5) (fld iw 12 5) (fld iw 22 3)) else
  bif fld iw 28 4 == 4#4 then .need (fld iw 26 2 == 0#2 && fld iw 25 1 == 0#1 && fld iw 17 5 == 0#5) <| .ok (.vmov (fld iw 7 5) (fld iw 12 5) (fld iw 22 3)) else
  bif fld iw 28 4 == 8#4 then .need (fld iw 12 5 == 0#5) <| .on (IW.ofCode (fld iw 26 2)) fun w => .ok (.vbcast w (fld iw 7 5) (fld iw 17 6) (fld iw 23 3)) else
  bif fld iw 28 4 == 9#4 then .need (fld iw 23 3 == 0#3) <| .on (IW.ofCode (fld iw 26 2)) fun w => .ok (.vins w (fld iw 7 5) (fld iw 17 6) (fld iw 12 5)) else
  bif fld iw 28 4 == 10#4 then .need (fld iw 24 2 == 0#2) <| .on (IW.ofCode (fld iw 26 2)) fun w => .ok (.vext w (fld iw 23 1 == 1#1) (fld iw 17 6) (fld iw 12 5) (fld iw 7 5)) else
  bif fld iw 28 4 == 11#4 then .need (fld iw 26 2 == 0#2 && fld iw 23 3 == 0#3 && fld iw 12 5 == 0#5 && fld iw 10 2 == 0#2) <| .ok (.kset (fld iw 7 3) (fld iw 17 6)) else
  bif fld iw 28 4 == 12#4 then .need (fld iw 26 2 == 0#2 && fld iw 23 3 == 0#3 && fld iw 15 2 == 0#2 && fld iw 7 5 == 0#5) <| .ok (.kpopc (fld iw 17 6) (fld iw 12 3)) else
  .bad .noMinor

/-- Major 0x50: R289, R290, R291. -/
def dec50 (iw : BitVec 32) : Decoded :=
  bif fld iw 30 2 == 0#2 then .need (fld iw 17 5 == 0#5) <| .on (RM.ofCode (fld iw 27 3)) fun m => .ok (.vcvt m (fld iw 26 1 == 1#1) (fld iw 25 1 == 1#1) (fld iw 7 5) (fld iw 12 5) (fld iw 22 3)) else
  bif fld iw 30 2 == 1#2 then .need (fld iw 25 1 == 0#1 && fld iw 20 2 == 0#2) <| .on (RM.ofCode (fld iw 27 3)) fun m => .ok (.vcvto m (fld iw 26 1 == 1#1) (fld iw 7 5) (fld iw 17 3) (fld iw 12 5) (fld iw 22 3)) else
  bif fld iw 30 2 == 2#2 then .need (fld iw 27 3 == 0#3 && fld iw 26 1 == 0#1 && fld iw 25 1 == 0#1 && fld iw 22 3 == 0#3 && fld iw 17 5 == 0#5) <| .ok (.vplane (fld iw 7 5) (fld iw 12 5)) else
  bif fld iw 30 2 == 3#2 then .need (fld iw 27 3 == 0#3 && fld iw 26 1 == 0#1 && fld iw 25 1 == 0#1 && fld iw 22 3 == 0#3 && fld iw 17 5 == 0#5) <| .ok (.vunplane (fld iw 7 5) (fld iw 12 5)) else
  .bad .noMinor

/-- Major 0x51: R31. -/
def dec51 (iw : BitVec 32) : Decoded :=
  .need (fld iw 7 6 == 0#6) <| .on (ElemTy.ofCode (fld iw 28 4)) fun a => .on (ElemTy.ofCode (fld iw 24 4)) fun b => .ok (.fmt a b (fld iw 23 1 == 1#1) (fld iw 17 6) (fld iw 14 3) (fld iw 13 1 == 1#1))

/-- Major 0x52: R333. -/
def dec52 (iw : BitVec 32) : Decoded :=
  bif fld iw 28 4 == 0#4 then .need (fld iw 12 5 == 0#5) <| .on (SpTy.ofCode (fld iw 26 2)) fun y => .ok (.vspdraw y (fld iw 7 5) (fld iw 17 6) (fld iw 23 3)) else
  bif fld iw 28 4 == 1#4 then .need (fld iw 12 5 == 0#5) <| .on (SpTy.ofCode (fld iw 26 2)) fun y => .ok (.vspuni y (fld iw 7 5) (fld iw 17 6) (fld iw 23 3)) else
  bif fld iw 28 4 == 2#4 then .need (fld iw 12 5 == 0#5) <| .on (SpTy.ofCode (fld iw 26 2)) fun y => .ok (.vspexp y (fld iw 7 5) (fld iw 17 6) (fld iw 23 3)) else
  bif fld iw 28 4 == 3#4 then .need (fld iw 26 2 == 0#2) <| .ok (.vgumb (fld iw 7 5) (fld iw 12 5) (fld iw 17 6) (fld iw 23 3)) else
  bif fld iw 28 4 == 8#4 then .need (fld iw 25 1 == 0#1) <| .on (SpTy.ofCode (fld iw 26 2)) fun y => .ok (.spdraw y (fld iw 7 6) (fld iw 13 6) (fld iw 19 6)) else
  bif fld iw 28 4 == 9#4 then .need (fld iw 25 1 == 0#1) <| .on (SpTy.ofCode (fld iw 26 2)) fun y => .ok (.spuni y (fld iw 7 6) (fld iw 13 6) (fld iw 19 6)) else
  bif fld iw 28 4 == 10#4 then .need (fld iw 25 1 == 0#1) <| .on (SpTy.ofCode (fld iw 26 2)) fun y => .ok (.spexp y (fld iw 7 6) (fld iw 13 6) (fld iw 19 6)) else
  .bad .noMinor

/-- Major 0x53: R336. -/
def dec53 (iw : BitVec 32) : Decoded :=
  bif fld iw 25 7 == 0#7 then .need (fld iw 7 6 == 0#6) <| .ok (.digest (fld iw 13 6) (fld iw 19 6)) else
  bif fld iw 25 7 == 1#7 then .ok (.digestm (fld iw 13 6) (fld iw 19 6) (fld iw 7 6)) else
  .bad .noMinor

/-- Major 0x60: R299. -/
def dec60 (iw : BitVec 32) : Decoded :=
  .need (fld iw 27 3 == 0#3) <| .ok (.mma (fld iw 31 1 == 1#1) (fld iw 30 1 == 1#1) (fld iw 25 2) (fld iw 24 1 == 1#1) (fld iw 19 5) (fld iw 18 1 == 1#1) (fld iw 13 5) (fld iw 7 6))

/-- Major 0x61: R303, R304. -/
def dec61 (iw : BitVec 32) : Decoded :=
  bif fld iw 28 4 == 0#4 then .need (fld iw 7 2 == 0#2) <| .ok (.accrd (fld iw 9 5) (fld iw 14 6) (fld iw 26 2) (fld iw 20 6)) else
  bif fld iw 25 7 == 64#7 then .need (fld iw 19 6 == 0#6 && fld iw 14 5 == 0#5 && fld iw 11 3 == 0#3 && fld iw 7 2 == 0#2) <| .ok (.acczero (fld iw 9 2)) else
  bif fld iw 25 7 == 65#7 then .need (fld iw 14 5 == 0#5 && fld iw 11 3 == 0#3 && fld iw 7 2 == 0#2) <| .ok (.accld (fld iw 9 2) (fld iw 19 6)) else
  bif fld iw 25 7 == 66#7 then .need (fld iw 16 3 == 0#3 && fld iw 9 5 == 0#5 && fld iw 7 2 == 0#2) <| .ok (.accst (fld iw 19 6) (fld iw 14 2)) else
  bif fld iw 25 7 == 67#7 then .need (fld iw 16 3 == 0#3 && fld iw 9 5 == 0#5 && fld iw 8 1 == 0#1) <| .ok (.accstat (fld iw 19 6) (fld iw 14 2) (fld iw 7 1 == 1#1)) else
  bif fld iw 25 7 == 68#7 then .need (fld iw 19 6 == 0#6 && fld iw 16 3 == 0#3 && fld iw 11 3 == 0#3 && fld iw 7 2 == 0#2) <| .ok (.accswp (fld iw 9 2) (fld iw 14 2)) else
  .bad .noMinor

/-- Major 0x62: R309. -/
def dec62 (iw : BitVec 32) : Decoded :=
  bif fld iw 25 7 == 0#7 then .need (fld iw 12 2 == 0#2 && fld iw 8 1 == 0#1) <| .ok (.tld (fld iw 9 3) (fld iw 19 6) (fld iw 14 5) (fld iw 7 1 == 1#1)) else
  bif fld iw 25 7 == 1#7 then .need (fld iw 12 2 == 0#2 && fld iw 8 1 == 0#1) <| .ok (.tst (fld iw 19 6) (fld iw 9 3) (fld iw 14 5) (fld iw 7 1 == 1#1)) else
  bif fld iw 25 7 == 2#7 then .need (fld iw 19 6 == 0#6 && fld iw 14 5 == 0#5 && fld iw 12 2 == 0#2 && fld iw 7 2 == 0#2) <| .ok (.tzero (fld iw 9 3)) else
  bif fld iw 25 7 == 3#7 then .need (fld iw 19 6 == 0#6 && fld iw 17 2 == 0#2 && fld iw 12 2 == 0#2 && fld iw 7 2 == 0#2) <| .ok (.tmov (fld iw 9 3) (fld iw 14 3)) else
  .bad .noMinor

/-- Major 0x68: R314. -/
def dec68 (iw : BitVec 32) : Decoded :=
  .need (fld iw 10 2 == 0#2) <| .on (OPred.ofCode (fld iw 28 4)) fun p => .on (OcTy.ofCode (fld iw 25 3)) fun t => .ok (.ocmp p t (fld iw 7 3) (fld iw 12 5) (fld iw 17 5) (fld iw 22 3))

/-- Major 0x69: R317, R318, R319, R320, R321, R322. -/
noncomputable def dec69 (iw : BitVec 32) : Decoded :=
  bif fld iw 25 7 == 0#7 then .need (fld iw 19 6 == 0#6 && fld iw 17 2 == 0#2 && fld iw 7 2 == 0#2) <| .ok (.btpopr (fld iw 9 5) (fld iw 14 3)) else
  bif fld iw 25 7 == 1#7 then .need (fld iw 19 6 == 0#6 && fld iw 17 2 == 0#2 && fld iw 7 2 == 0#2) <| .ok (.btpopc (fld iw 9 5) (fld iw 14 3)) else
  bif fld iw 25 7 == 2#7 then .need (fld iw 19 6 == 0#6 && fld iw 17 2 == 0#2 && fld iw 12 2 == 0#2 && fld iw 8 1 == 0#1) <| .ok (.btclo (fld iw 9 3) (fld iw 14 3) (fld iw 7 1 == 1#1)) else
  bif fld iw 25 7 == 3#7 then .need (fld iw 22 3 == 0#3 && fld iw 17 2 == 0#2 && fld iw 12 2 == 0#2 && fld iw 7 2 == 0#2) <| .ok (.btcomp (fld iw 9 3) (fld iw 14 3) (fld iw 19 3)) else
  bif fld iw 25 7 == 4#7 then .need (fld iw 19 6 == 0#6 && fld iw 17 2 == 0#2 && fld iw 12 2 == 0#2 && fld iw 7 2 == 0#2) <| .ok (.bttr (fld iw 9 3) (fld iw 14 3)) else
  bif fld iw 25 7 == 5#7 then .need (fld iw 22 3 == 0#3 && fld iw 17 2 == 0#2 && fld iw 12 2 == 0#2 && fld iw 7 2 == 0#2) <| .ok (.btand (fld iw 9 3) (fld iw 14 3) (fld iw 19 3)) else
  bif fld iw 25 7 == 6#7 then .need (fld iw 22 3 == 0#3 && fld iw 17 2 == 0#2 && fld iw 12 2 == 0#2 && fld iw 7 2 == 0#2) <| .ok (.btor (fld iw 9 3) (fld iw 14 3) (fld iw 19 3)) else
  bif fld iw 25 7 == 7#7 then .need (fld iw 22 3 == 0#3 && fld iw 17 2 == 0#2 && fld iw 12 2 == 0#2 && fld iw 7 2 == 0#2) <| .ok (.btxor (fld iw 9 3) (fld iw 14 3) (fld iw 19 3)) else
  bif fld iw 25 7 == 8#7 then .need (fld iw 22 3 == 0#3 && fld iw 17 2 == 0#2 && fld iw 12 2 == 0#2 && fld iw 7 2 == 0#2) <| .ok (.btandn (fld iw 9 3) (fld iw 14 3) (fld iw 19 3)) else
  bif fld iw 25 7 == 9#7 then .need (fld iw 19 6 == 0#6 && fld iw 17 2 == 0#2 && fld iw 12 2 == 0#2 && fld iw 7 2 == 0#2) <| .ok (.btnot (fld iw 9 3) (fld iw 14 3)) else
  bif fld iw 25 7 == 10#7 then .need (fld iw 17 2 == 0#2 && fld iw 12 2 == 0#2 && fld iw 7 2 == 0#2) <| .ok (.btrowk (fld iw 9 3) (fld iw 14 3) (fld iw 19 6)) else
  bif fld iw 25 7 == 11#7 then .need (fld iw 17 2 == 0#2 && fld iw 12 2 == 0#2 && fld iw 7 2 == 0#2) <| .ok (.btcolk (fld iw 9 3) (fld iw 14 3) (fld iw 19 6)) else
  bif fld iw 25 7 == 12#7 then .need (fld iw 17 2 == 0#2 && fld iw 12 2 == 0#2 && fld iw 7 2 == 0#2) <| .ok (.btkrow (fld iw 9 3) (fld iw 14 3) (fld iw 19 6)) else
  bif fld iw 25 7 == 13#7 then .need (fld iw 17 2 == 0#2 && fld iw 12 2 == 0#2 && fld iw 7 2 == 0#2) <| .ok (.btkcol (fld iw 9 3) (fld iw 14 3) (fld iw 19 6)) else
  bif fld iw 25 7 == 14#7 then .need (fld iw 14 5 == 0#5 && fld iw 12 2 == 0#2 && fld iw 7 2 == 0#2) <| .ok (.btld (fld iw 9 3) (fld iw 19 6)) else
  bif fld iw 25 7 == 15#7 then .need (fld iw 17 2 == 0#2 && fld iw 9 5 == 0#5 && fld iw 7 2 == 0#2) <| .ok (.btst (fld iw 19 6) (fld iw 14 3)) else
  .bad .noMinor

/-- Major 0x6C: R350, R351, R353, R362. -/
noncomputable def dec6C (iw : BitVec 32) : Decoded :=
  bif fld iw 25 7 == 0#7 then .need (fld iw 19 6 == 0#6 && fld iw 7 6 == 0#6) <| .ok (.sinit (fld iw 13 6)) else
  bif fld iw 25 7 == 1#7 then .need (fld iw 7 6 == 0#6) <| .ok (.rate (fld iw 13 6) (fld iw 19 6)) else
  bif fld iw 25 7 == 2#7 then .need (fld iw 7 6 == 0#6) <| .ok (.ratea (fld iw 13 6) (fld iw 19 6)) else
  bif fld iw 25 7 == 3#7 then .need (fld iw 19 6 == 0#6) <| .ok (.nextev (fld iw 7 6) (fld iw 13 6)) else
  bif fld iw 25 7 == 4#7 then .ok (.swrd (fld iw 7 6) (fld iw 13 6) (fld iw 19 6)) else
  bif fld iw 25 7 == 5#7 then .need (fld iw 19 6 == 0#6 && fld iw 13 6 == 0#6) <| .ok (.sclk (fld iw 7 6)) else
  .bad .noMinor

/-- Major 0x6D: R354, R356, R358. -/
noncomputable def dec6D (iw : BitVec 32) : Decoded :=
  bif fld iw 25 7 == 0#7 then .need (fld iw 19 6 == 0#6 && fld iw 7 6 == 0#6) <| .ok (.binit (fld iw 13 6)) else
  bif fld iw 25 7 == 1#7 then .need (fld iw 19 6 == 0#6) <| .ok (.bdec (fld iw 7 6) (fld iw 13 6)) else
  bif fld iw 25 7 == 2#7 then .need (fld iw 19 6 == 0#6) <| .ok (.brecv (fld iw 7 6) (fld iw 13 6)) else
  .bad .noMinor

/-- Major 0x70: R208. -/
def dec70 (iw : BitVec 32) : Decoded :=
  bif fld iw 25 7 == 0#7 then .need (fld iw 19 6 == 0#6 && fld iw 7 6 == 0#6) <| .ok (.trap (fld iw 13 6)) else
  bif fld iw 25 7 == 1#7 then .need (fld iw 19 6 == 0#6 && fld iw 13 6 == 0#6 && fld iw 7 6 == 0#6) <| .ok .tret else
  bif fld iw 25 7 == 2#7 then .need (fld iw 19 6 == 0#6 && fld iw 13 6 == 0#6 && fld iw 7 6 == 0#6) <| .ok .halt else
  .bad .noMinor

/-- Major 0x71: R210. -/
def dec71 (iw : BitVec 32) : Decoded :=
  bif fld iw 30 2 == 0#2 then .ok (.csrw (fld iw 7 6) (fld iw 19 11) (fld iw 13 6)) else
  bif fld iw 30 2 == 1#2 then .ok (.csrs (fld iw 7 6) (fld iw 19 11) (fld iw 13 6)) else
  bif fld iw 30 2 == 2#2 then .ok (.csrc (fld iw 7 6) (fld iw 19 11) (fld iw 13 6)) else
  .bad .noMinor

/-- Major 0x7F: R38. -/
noncomputable def dec7F (iw : BitVec 32) : Decoded :=
  bif fld iw 7 25 == 0x1FFFFFF#25 then .bad .allOnes else .ok (.hint (fld iw 7 25))

/-- The instruction a word is, or why it is none (R36, R37). -/
noncomputable def decode (w : BitVec 32) : Decoded :=
  match (fld w 0 7).toNat with
  | 0x01 => dec01 w
  | 0x02 => dec02 w
  | 0x03 => dec03 w
  | 0x04 => dec04 w
  | 0x05 => dec05 w
  | 0x06 => dec06 w
  | 0x07 => dec07 w
  | 0x08 => dec08 w
  | 0x09 => dec09 w
  | 0x0A => dec0A w
  | 0x10 => dec10 w
  | 0x11 => dec11 w
  | 0x12 => dec12 w
  | 0x13 => dec13 w
  | 0x14 => dec14 w
  | 0x15 => dec15 w
  | 0x16 => dec16 w
  | 0x17 => dec17 w
  | 0x18 => dec18 w
  | 0x20 => dec20 w
  | 0x21 => dec21 w
  | 0x22 => dec22 w
  | 0x23 => dec23 w
  | 0x24 => dec24 w
  | 0x25 => dec25 w
  | 0x26 => dec26 w
  | 0x27 => dec27 w
  | 0x28 => dec28 w
  | 0x29 => dec29 w
  | 0x2A => dec2A w
  | 0x2B => dec2B w
  | 0x30 => dec30 w
  | 0x31 => dec31 w
  | 0x32 => dec32 w
  | 0x33 => dec33 w
  | 0x38 => dec38 w
  | 0x39 => dec39 w
  | 0x3A => dec3A w
  | 0x3B => dec3B w
  | 0x3C => dec3C w
  | 0x40 => dec40 w
  | 0x41 => dec41 w
  | 0x42 => dec42 w
  | 0x43 => dec43 w
  | 0x44 => dec44 w
  | 0x48 => dec48 w
  | 0x49 => dec49 w
  | 0x4A => dec4A w
  | 0x4B => dec4B w
  | 0x50 => dec50 w
  | 0x51 => dec51 w
  | 0x52 => dec52 w
  | 0x53 => dec53 w
  | 0x60 => dec60 w
  | 0x61 => dec61 w
  | 0x62 => dec62 w
  | 0x68 => dec68 w
  | 0x69 => dec69 w
  | 0x6C => dec6C w
  | 0x6D => dec6D w
  | 0x70 => dec70 w
  | 0x71 => dec71 w
  | 0x7F => dec7F w
  | _ => .bad .noMajor

/-- The word of BTPOPR (R318). -/
def wordBtpopr (d : BitVec 5) (s : BitVec 3) : BitVec 32 := 0#7 ++ 0#6 ++ 0#2 ++ s ++ d ++ 0#2 ++ 105#7

/-- The word of BTPOPC (R318). -/
def wordBtpopc (d : BitVec 5) (s : BitVec 3) : BitVec 32 := 1#7 ++ 0#6 ++ 0#2 ++ s ++ d ++ 0#2 ++ 105#7

/-- The word of BTCLO (R319). -/
def wordBtclo (d : BitVec 3) (s : BitVec 3) (r : Bool) : BitVec 32 := 2#7 ++ 0#6 ++ 0#2 ++ s ++ 0#2 ++ d ++ 0#1 ++ BitVec.ofBool r ++ 105#7

/-- The word of BTCOMP (R319). -/
def wordBtcomp (d : BitVec 3) (a : BitVec 3) (b : BitVec 3) : BitVec 32 := 3#7 ++ 0#3 ++ b ++ 0#2 ++ a ++ 0#2 ++ d ++ 0#2 ++ 105#7

/-- The word of BTTR (R319). -/
def wordBttr (d : BitVec 3) (s : BitVec 3) : BitVec 32 := 4#7 ++ 0#6 ++ 0#2 ++ s ++ 0#2 ++ d ++ 0#2 ++ 105#7

/-- The word of BTAND (R320). -/
def wordBtand (d : BitVec 3) (a : BitVec 3) (b : BitVec 3) : BitVec 32 := 5#7 ++ 0#3 ++ b ++ 0#2 ++ a ++ 0#2 ++ d ++ 0#2 ++ 105#7

/-- The word of BTOR (R320). -/
def wordBtor (d : BitVec 3) (a : BitVec 3) (b : BitVec 3) : BitVec 32 := 6#7 ++ 0#3 ++ b ++ 0#2 ++ a ++ 0#2 ++ d ++ 0#2 ++ 105#7

/-- The word of BTXOR (R320). -/
def wordBtxor (d : BitVec 3) (a : BitVec 3) (b : BitVec 3) : BitVec 32 := 7#7 ++ 0#3 ++ b ++ 0#2 ++ a ++ 0#2 ++ d ++ 0#2 ++ 105#7

/-- The word of BTANDN (R320). -/
def wordBtandn (d : BitVec 3) (a : BitVec 3) (b : BitVec 3) : BitVec 32 := 8#7 ++ 0#3 ++ b ++ 0#2 ++ a ++ 0#2 ++ d ++ 0#2 ++ 105#7

/-- The word of BTNOT (R320). -/
def wordBtnot (d : BitVec 3) (s : BitVec 3) : BitVec 32 := 9#7 ++ 0#6 ++ 0#2 ++ s ++ 0#2 ++ d ++ 0#2 ++ 105#7

/-- The word of BTROWK (R317). -/
def wordBtrowk (d : BitVec 3) (s : BitVec 3) (i : BitVec 6) : BitVec 32 := 10#7 ++ i ++ 0#2 ++ s ++ 0#2 ++ d ++ 0#2 ++ 105#7

/-- The word of BTCOLK (R317). -/
def wordBtcolk (d : BitVec 3) (s : BitVec 3) (i : BitVec 6) : BitVec 32 := 11#7 ++ i ++ 0#2 ++ s ++ 0#2 ++ d ++ 0#2 ++ 105#7

/-- The word of BTKROW (R321). -/
def wordBtkrow (d : BitVec 3) (s : BitVec 3) (i : BitVec 6) : BitVec 32 := 12#7 ++ i ++ 0#2 ++ s ++ 0#2 ++ d ++ 0#2 ++ 105#7

/-- The word of BTKCOL (R321). -/
def wordBtkcol (d : BitVec 3) (s : BitVec 3) (i : BitVec 6) : BitVec 32 := 13#7 ++ i ++ 0#2 ++ s ++ 0#2 ++ d ++ 0#2 ++ 105#7

/-- The word of BTLD (R322). -/
def wordBtld (d : BitVec 3) (s : BitVec 6) : BitVec 32 := 14#7 ++ s ++ 0#5 ++ 0#2 ++ d ++ 0#2 ++ 105#7

/-- The word of BTST (R322). -/
def wordBtst (s : BitVec 6) (b : BitVec 3) : BitVec 32 := 15#7 ++ s ++ 0#2 ++ b ++ 0#5 ++ 0#2 ++ 105#7

/-- The word of SINIT (R350). -/
def wordSinit (a : BitVec 6) : BitVec 32 := 0#7 ++ 0#6 ++ a ++ 0#6 ++ 108#7

/-- The word of RATE (R351). -/
def wordRate (a : BitVec 6) (b : BitVec 6) : BitVec 32 := 1#7 ++ b ++ a ++ 0#6 ++ 108#7

/-- The word of RATEA (R351). -/
def wordRatea (a : BitVec 6) (b : BitVec 6) : BitVec 32 := 2#7 ++ b ++ a ++ 0#6 ++ 108#7

/-- The word of NEXTEV (R353). -/
def wordNextev (d : BitVec 6) (a : BitVec 6) : BitVec 32 := 3#7 ++ 0#6 ++ a ++ d ++ 108#7

/-- The word of SWRD (R362). -/
def wordSwrd (d : BitVec 6) (a : BitVec 6) (s : BitVec 6) : BitVec 32 := 4#7 ++ s ++ a ++ d ++ 108#7

/-- The word of SCLK (R362). -/
def wordSclk (d : BitVec 6) : BitVec 32 := 5#7 ++ 0#6 ++ 0#6 ++ d ++ 108#7

/-- The word of BINIT (R354). -/
def wordBinit (a : BitVec 6) : BitVec 32 := 0#7 ++ 0#6 ++ a ++ 0#6 ++ 109#7

/-- The word of BDEC (R356). -/
def wordBdec (d : BitVec 6) (a : BitVec 6) : BitVec 32 := 1#7 ++ 0#6 ++ a ++ d ++ 109#7

/-- The word of BRECV (R358). -/
def wordBrecv (d : BitVec 6) (a : BitVec 6) : BitVec 32 := 2#7 ++ 0#6 ++ a ++ d ++ 109#7

/-- The word of HINT (R38). -/
def wordHint (h : BitVec 25) : BitVec 32 := h ++ 127#7

/-- The word of an instruction, from the format tables of R25 and the field tables of each chapter; an event has no word and reads 0. -/
def encode : Instr → BitVec 32
  | .add d a b => 0#7 ++ b ++ a ++ d ++ 1#7
  | .sub d a b => 1#7 ++ b ++ a ++ d ++ 1#7
  | .and d a b => 2#7 ++ b ++ a ++ d ++ 1#7
  | .or d a b => 3#7 ++ b ++ a ++ d ++ 1#7
  | .xor d a b => 4#7 ++ b ++ a ++ d ++ 1#7
  | .andn d a b => 5#7 ++ b ++ a ++ d ++ 1#7
  | .sll d a b => 6#7 ++ b ++ a ++ d ++ 1#7
  | .srl d a b => 7#7 ++ b ++ a ++ d ++ 1#7
  | .sra d a b => 8#7 ++ b ++ a ++ d ++ 1#7
  | .slt d a b => 9#7 ++ b ++ a ++ d ++ 1#7
  | .sltu d a b => 10#7 ++ b ++ a ++ d ++ 1#7
  | .min d a b => 11#7 ++ b ++ a ++ d ++ 1#7
  | .max d a b => 12#7 ++ b ++ a ++ d ++ 1#7
  | .minu d a b => 13#7 ++ b ++ a ++ d ++ 1#7
  | .maxu d a b => 14#7 ++ b ++ a ++ d ++ 1#7
  | .clz d a => 15#7 ++ 0#6 ++ a ++ d ++ 1#7
  | .ctz d a => 16#7 ++ 0#6 ++ a ++ d ++ 1#7
  | .popc d a => 17#7 ++ 0#6 ++ a ++ d ++ 1#7
  | .rol d a b => 18#7 ++ b ++ a ++ d ++ 1#7
  | .ror d a b => 19#7 ++ b ++ a ++ d ++ 1#7
  | .addi d a i => i ++ a ++ d ++ 2#7
  | .andi d a i => 0#3 ++ i ++ a ++ d ++ 3#7
  | .ori d a i => 1#3 ++ i ++ a ++ d ++ 3#7
  | .xori d a i => 2#3 ++ i ++ a ++ d ++ 3#7
  | .slli d a s => 3#3 ++ 0#4 ++ s ++ a ++ d ++ 3#7
  | .srli d a s => 4#3 ++ 0#4 ++ s ++ a ++ d ++ 3#7
  | .srai d a s => 5#3 ++ 0#4 ++ s ++ a ++ d ++ 3#7
  | .slti d a i => 6#3 ++ i ++ a ++ d ++ 3#7
  | .sltiu d a i => 7#3 ++ i ++ a ++ d ++ 3#7
  | .lui d i => i ++ d ++ 4#7
  | .adrp d i => i ++ d ++ 5#7
  | .mul d a b => 0#7 ++ b ++ a ++ d ++ 6#7
  | .mulh d a b => 1#7 ++ b ++ a ++ d ++ 6#7
  | .mulhu d a b => 2#7 ++ b ++ a ++ d ++ 6#7
  | .mulhsu d a b => 3#7 ++ b ++ a ++ d ++ 6#7
  | .div d a b => 4#7 ++ b ++ a ++ d ++ 6#7
  | .divu d a b => 5#7 ++ b ++ a ++ d ++ 6#7
  | .rem d a b => 6#7 ++ b ++ a ++ d ++ 6#7
  | .remu d a b => 7#7 ++ b ++ a ++ d ++ 6#7
  | .movxRead d a i => 0#3 ++ i ++ a ++ d ++ 7#7
  | .movxWrite a i s => 1#3 ++ i ++ a ++ s ++ 7#7
  | .fadd t m d a b => m.code ++ t.code ++ 0#3 ++ b ++ a ++ d ++ 8#7
  | .fsub t m d a b => m.code ++ t.code ++ 1#3 ++ b ++ a ++ d ++ 8#7
  | .fmul t m d a b => m.code ++ t.code ++ 2#3 ++ b ++ a ++ d ++ 8#7
  | .fdiv t m d a b => m.code ++ t.code ++ 3#3 ++ b ++ a ++ d ++ 8#7
  | .fsqrt t m d a => m.code ++ t.code ++ 4#3 ++ 0#6 ++ a ++ d ++ 8#7
  | .fcvt m s d a t u => m.code ++ BitVec.ofBool s ++ 5#3 ++ t.code ++ u.code ++ a ++ d ++ 8#7
  | .fmin t d a b => 0#3 ++ t.code ++ 6#3 ++ b ++ a ++ d ++ 8#7
  | .fmax t d a b => 1#3 ++ t.code ++ 6#3 ++ b ++ a ++ d ++ 8#7
  | .fsgnj t d a b => 2#3 ++ t.code ++ 6#3 ++ b ++ a ++ d ++ 8#7
  | .fsgnjn t d a b => 3#3 ++ t.code ++ 6#3 ++ b ++ a ++ d ++ 8#7
  | .fsgnjx t d a b => 4#3 ++ t.code ++ 6#3 ++ b ++ a ++ d ++ 8#7
  | .feq t d a b => 5#3 ++ t.code ++ 6#3 ++ b ++ a ++ d ++ 8#7
  | .flt t d a b => 6#3 ++ t.code ++ 6#3 ++ b ++ a ++ d ++ 8#7
  | .fle t d a b => 7#3 ++ t.code ++ 6#3 ++ b ++ a ++ d ++ 8#7
  | .fclass t d a => 0#3 ++ t.code ++ 7#3 ++ 0#6 ++ a ++ d ++ 8#7
  | .fmadd t m d a b => t.code ++ m.code ++ 0#2 ++ 0#1 ++ b ++ a ++ d ++ 9#7
  | .fmsub t m d a b => t.code ++ m.code ++ 1#2 ++ 0#1 ++ b ++ a ++ d ++ 9#7
  | .fnmadd t m d a b => t.code ++ m.code ++ 2#2 ++ 0#1 ++ b ++ a ++ d ++ 9#7
  | .fnmsub t m d a b => t.code ++ m.code ++ 3#2 ++ 0#1 ++ b ++ a ++ d ++ 9#7
  | .sel d a b c => 0#1 ++ c ++ b ++ a ++ d ++ 10#7
  | .beq a b o => 0#3 ++ b ++ a ++ o ++ 16#7
  | .bne a b o => 1#3 ++ b ++ a ++ o ++ 16#7
  | .blt a b o => 2#3 ++ b ++ a ++ o ++ 16#7
  | .bge a b o => 3#3 ++ b ++ a ++ o ++ 16#7
  | .bltu a b o => 4#3 ++ b ++ a ++ o ++ 16#7
  | .bgeu a b o => 5#3 ++ b ++ a ++ o ++ 16#7
  | .beqz a o => 0#1 ++ o ++ a ++ 17#7
  | .bnez a o => 1#1 ++ o ++ a ++ 17#7
  | .jal d o => o ++ d ++ 18#7
  | .jalr d a i => i ++ a ++ d ++ 19#7
  | .loopn a o => 0#1 ++ o ++ a ++ 20#7
  | .rep l c m s => l ++ c ++ m ++ s ++ 0#7 ++ 21#7
  | .gang n => 0#3 ++ n.code ++ 0#20 ++ 22#7
  | .gangend => 1#3 ++ 0#2 ++ 0#20 ++ 22#7
  | .retire => 0#7 ++ 0#6 ++ 0#6 ++ 0#6 ++ 23#7
  | .launch d a b => 1#7 ++ b ++ a ++ d ++ 23#7
  | .join d a => 2#7 ++ 0#6 ++ a ++ d ++ 23#7
  | .leave a => 3#7 ++ 0#6 ++ a ++ 0#6 ++ 23#7
  | .phase a => 4#7 ++ 0#6 ++ a ++ 0#6 ++ 23#7
  | .gbar a => 5#7 ++ 0#6 ++ a ++ 0#6 ++ 23#7
  | .sget d => 6#7 ++ 0#6 ++ 0#6 ++ d ++ 23#7
  | .sput => 7#7 ++ 0#6 ++ 0#6 ++ 0#6 ++ 23#7
  | .hswait d n b => 0#7 ++ b ++ 0#2 ++ n ++ d ++ 24#7
  | .hstry d n b => 1#7 ++ b ++ 0#2 ++ n ++ d ++ 24#7
  | .hspost n b => 2#7 ++ b ++ 0#2 ++ n ++ 0#6 ++ 24#7
  | .hsset n b => 3#7 ++ b ++ 0#2 ++ n ++ 0#6 ++ 24#7
  | .hsrd d n => 4#7 ++ 0#6 ++ 0#2 ++ n ++ d ++ 24#7
  | .ld t d a i => t.code ++ i ++ a ++ d ++ 32#7
  | .st t a i b => 0#1 ++ t.code ++ i.extractLsb' 6 4 ++ b ++ a ++ i.extractLsb' 0 6 ++ 33#7
  | .ldfe m d a i => 0#2 ++ m.code ++ i ++ a ++ d ++ 34#7
  | .stfe m a i b => 0#2 ++ m.code ++ i.extractLsb' 6 4 ++ b ++ a ++ i.extractLsb' 0 6 ++ 35#7
  | .vld t d x k => 0#1 ++ t.code ++ 0#1 ++ k ++ x ++ 0#5 ++ d ++ 36#7
  | .vlds t d x s k => 1#1 ++ t.code ++ 0#1 ++ k ++ x ++ s ++ d ++ 36#7
  | .vst t x d k => 0#1 ++ t.code ++ 0#1 ++ k ++ x ++ 0#5 ++ d ++ 37#7
  | .vsts t x d s k => 1#1 ++ t.code ++ 0#1 ++ k ++ x ++ s ++ d ++ 37#7
  | .vldx t d b i k => t.code ++ 0#3 ++ k ++ i ++ b ++ d ++ 38#7
  | .vstx t b i d k => t.code ++ 0#3 ++ k ++ i ++ b ++ d ++ 39#7
  | .ldt m t d a b => 0#1 ++ t.code ++ m.code ++ b ++ a ++ d ++ 40#7
  | .vldt t d a b k => 1#1 ++ t.code ++ k ++ 0#1 ++ b ++ a ++ 0#1 ++ d ++ 40#7
  | .stt m t a b d => 0#1 ++ t.code ++ m.code ++ b ++ a ++ d ++ 41#7
  | .vstt t a b d k => 1#1 ++ t.code ++ k ++ 0#1 ++ b ++ a ++ 0#1 ++ d ++ 41#7
  | .shinv s a => 0#4 ++ s.code ++ 0#6 ++ a ++ 0#6 ++ 42#7
  | .shloc d a b => 1#4 ++ 0#3 ++ b ++ a ++ d ++ 42#7
  | .rel s => 0#4 ++ s.code ++ 0#18 ++ 43#7
  | .acq s => 1#4 ++ s.code ++ 0#18 ++ 43#7
  | .fence s => 2#4 ++ s.code ++ 0#18 ++ 43#7
  | .amoadd z d a b => 0#4 ++ z.code ++ 0#2 ++ b ++ a ++ d ++ 48#7
  | .amoand z d a b => 1#4 ++ z.code ++ 0#2 ++ b ++ a ++ d ++ 48#7
  | .amoor z d a b => 2#4 ++ z.code ++ 0#2 ++ b ++ a ++ d ++ 48#7
  | .amoxor z d a b => 3#4 ++ z.code ++ 0#2 ++ b ++ a ++ d ++ 48#7
  | .amomin z d a b => 4#4 ++ z.code ++ 0#2 ++ b ++ a ++ d ++ 48#7
  | .amomax z d a b => 5#4 ++ z.code ++ 0#2 ++ b ++ a ++ d ++ 48#7
  | .amominu z d a b => 6#4 ++ z.code ++ 0#2 ++ b ++ a ++ d ++ 48#7
  | .amomaxu z d a b => 7#4 ++ z.code ++ 0#2 ++ b ++ a ++ d ++ 48#7
  | .amoswp z d a b => 8#4 ++ z.code ++ 0#2 ++ b ++ a ++ d ++ 48#7
  | .amocas z d a b => 9#4 ++ z.code ++ 0#2 ++ b ++ a ++ d ++ 48#7
  | .amofadd t d a b => 0#4 ++ t.code ++ b ++ a ++ d ++ 49#7
  | .amofmin t d a b => 1#4 ++ t.code ++ b ++ a ++ d ++ 49#7
  | .amofmax t d a b => 2#4 ++ t.code ++ b ++ a ++ d ++ 49#7
  | .xcadd t a b => 0#4 ++ t.code ++ b ++ a ++ 0#6 ++ 50#7
  | .xcrd t d a => 1#4 ++ t.code ++ 0#6 ++ a ++ d ++ 50#7
  | .xcclr a => 2#4 ++ 0#3 ++ 0#6 ++ a ++ 0#6 ++ 50#7
  | .xcrdclr t d a => 3#4 ++ t.code ++ 0#6 ++ a ++ d ++ 50#7
  | .vamoadd t b i d k => 0#3 ++ t.code ++ k ++ i ++ b ++ d ++ 51#7
  | .vamomin t b i d k => 1#3 ++ t.code ++ k ++ i ++ b ++ d ++ 51#7
  | .vamomax t b i d k => 2#3 ++ t.code ++ k ++ i ++ b ++ d ++ 51#7
  | .vxcadd t b i d k => 3#3 ++ t.code ++ k ++ i ++ b ++ d ++ 51#7
  | .vbsum t b d k => 4#3 ++ t.code ++ k ++ 0#5 ++ b ++ d ++ 51#7
  | .qget d n => 0#7 ++ 0#6 ++ 0#2 ++ n ++ d ++ 56#7
  | .qput n b => 1#7 ++ b ++ 0#2 ++ n ++ 0#6 ++ 56#7
  | .vqget d n => 2#7 ++ 0#6 ++ 0#2 ++ n ++ 0#1 ++ d ++ 56#7
  | .vqput n b => 3#7 ++ 0#1 ++ b ++ 0#2 ++ n ++ 0#6 ++ 56#7
  | .qcnt d n => 4#7 ++ 0#6 ++ 0#2 ++ n ++ d ++ 56#7
  | .send a b p => 0#7 ++ b ++ a ++ p ++ 57#7
  | .sendv a b p => 1#7 ++ b ++ 0#1 ++ a ++ p ++ 57#7
  | .cwr s a => 0#4 ++ s ++ 0#6 ++ a ++ 0#6 ++ 58#7
  | .cgo d => 16#7 ++ 0#6 ++ 0#6 ++ d ++ 58#7
  | .cwp d a => 17#7 ++ 0#6 ++ a ++ d ++ 58#7
  | .crd s d => 3#4 ++ s ++ 0#6 ++ 0#6 ++ d ++ 58#7
  | .txinit a b => 0#7 ++ b ++ a ++ 0#6 ++ 59#7
  | .txarr d a => 1#7 ++ 0#6 ++ a ++ d ++ 59#7
  | .txexp a b => 2#7 ++ b ++ a ++ 0#6 ++ 59#7
  | .txwait a b => 3#7 ++ b ++ a ++ 0#6 ++ 59#7
  | .txtry d a b => 4#7 ++ b ++ a ++ d ++ 59#7
  | .dqpush d b => 0#7 ++ b ++ 0#6 ++ d ++ 60#7
  | .dqpop d => 1#7 ++ 0#6 ++ 0#6 ++ d ++ 60#7
  | .dqsteal d a => 2#7 ++ 0#6 ++ a ++ d ++ 60#7
  | .vadd y d a b k => 0#4 ++ y.code ++ 0#1 ++ k ++ b ++ a ++ d ++ 64#7
  | .vsub y d a b k => 1#4 ++ y.code ++ 0#1 ++ k ++ b ++ a ++ d ++ 64#7
  | .vmul y d a b k => 2#4 ++ y.code ++ 0#1 ++ k ++ b ++ a ++ d ++ 64#7
  | .vdiv y d a b k => 3#4 ++ y.code ++ 0#1 ++ k ++ b ++ a ++ d ++ 64#7
  | .vmin y d a b k => 4#4 ++ y.code ++ 0#1 ++ k ++ b ++ a ++ d ++ 64#7
  | .vmax y d a b k => 5#4 ++ y.code ++ 0#1 ++ k ++ b ++ a ++ d ++ 64#7
  | .vabs y d a k => 6#4 ++ y.code ++ 0#1 ++ k ++ 0#5 ++ a ++ d ++ 64#7
  | .vneg y d a k => 7#4 ++ y.code ++ 0#1 ++ k ++ 0#5 ++ a ++ d ++ 64#7
  | .vsgnj y d a b k => 8#4 ++ y.code ++ 0#1 ++ k ++ b ++ a ++ d ++ 64#7
  | .vfmadd d a b c k => 0#2 ++ k ++ c ++ b ++ a ++ d ++ 65#7
  | .vfmsub d a b c k => 1#2 ++ k ++ c ++ b ++ a ++ d ++ 65#7
  | .vfnmadd d a b c k => 2#2 ++ k ++ c ++ b ++ a ++ d ++ 65#7
  | .vfnmsub d a b c k => 3#2 ++ k ++ c ++ b ++ a ++ d ++ 65#7
  | .vaddx y d b x k => 0#3 ++ y.code ++ 0#1 ++ k ++ x ++ b ++ d ++ 66#7
  | .vsubx y d b x k => 1#3 ++ y.code ++ 0#1 ++ k ++ x ++ b ++ d ++ 66#7
  | .vmulx y d b x k => 2#3 ++ y.code ++ 0#1 ++ k ++ x ++ b ++ d ++ 66#7
  | .vdivx y d b x k => 3#3 ++ y.code ++ 0#1 ++ k ++ x ++ b ++ d ++ 66#7
  | .vminx y d b x k => 4#3 ++ y.code ++ 0#1 ++ k ++ x ++ b ++ d ++ 66#7
  | .vmaxx y d b x k => 5#3 ++ y.code ++ 0#1 ++ k ++ x ++ b ++ d ++ 66#7
  | .vexp d a k => 0#4 ++ 0#3 ++ k ++ 0#5 ++ a ++ d ++ 67#7
  | .vlog d a k => 1#4 ++ 0#3 ++ k ++ 0#5 ++ a ++ d ++ 67#7
  | .vrcp d a k => 2#4 ++ 0#3 ++ k ++ 0#5 ++ a ++ d ++ 67#7
  | .vrsqrt d a k => 3#4 ++ 0#3 ++ k ++ 0#5 ++ a ++ d ++ 67#7
  | .vtanh d a k => 4#4 ++ 0#3 ++ k ++ 0#5 ++ a ++ d ++ 67#7
  | .vsqrt d a k => 5#4 ++ 0#3 ++ k ++ 0#5 ++ a ++ d ++ 67#7
  | .vredsum y d a k => 0#4 ++ y.code ++ 0#1 ++ k ++ 0#5 ++ a ++ d ++ 68#7
  | .vredmax y d a k => 1#4 ++ y.code ++ 0#1 ++ k ++ 0#5 ++ a ++ d ++ 68#7
  | .vredmin y d a k => 2#4 ++ y.code ++ 0#1 ++ k ++ 0#5 ++ a ++ d ++ 68#7
  | .vredq y d n c k => 8#4 ++ y.code ++ k ++ c ++ 0#1 ++ n ++ d ++ 68#7
  | .viadd w u d a b k => 0#4 ++ w.code ++ BitVec.ofBool u ++ k ++ b ++ a ++ d ++ 72#7
  | .visub w u d a b k => 1#4 ++ w.code ++ BitVec.ofBool u ++ k ++ b ++ a ++ d ++ 72#7
  | .vimul w u d a b k => 2#4 ++ w.code ++ BitVec.ofBool u ++ k ++ b ++ a ++ d ++ 72#7
  | .vimulh w u d a b k => 3#4 ++ w.code ++ BitVec.ofBool u ++ k ++ b ++ a ++ d ++ 72#7
  | .viand w u d a b k => 4#4 ++ w.code ++ BitVec.ofBool u ++ k ++ b ++ a ++ d ++ 72#7
  | .vior w u d a b k => 5#4 ++ w.code ++ BitVec.ofBool u ++ k ++ b ++ a ++ d ++ 72#7
  | .vixor w u d a b k => 6#4 ++ w.code ++ BitVec.ofBool u ++ k ++ b ++ a ++ d ++ 72#7
  | .visll w u d a b k => 7#4 ++ w.code ++ BitVec.ofBool u ++ k ++ b ++ a ++ d ++ 72#7
  | .visrl w u d a b k => 8#4 ++ w.code ++ BitVec.ofBool u ++ k ++ b ++ a ++ d ++ 72#7
  | .visra w u d a b k => 9#4 ++ w.code ++ BitVec.ofBool u ++ k ++ b ++ a ++ d ++ 72#7
  | .vimin w u d a b k => 10#4 ++ w.code ++ BitVec.ofBool u ++ k ++ b ++ a ++ d ++ 72#7
  | .vimax w u d a b k => 11#4 ++ w.code ++ BitVec.ofBool u ++ k ++ b ++ a ++ d ++ 72#7
  | .vipopc w u d a k => 12#4 ++ w.code ++ BitVec.ofBool u ++ k ++ 0#5 ++ a ++ d ++ 72#7
  | .viaddSat w u d a b k => 13#4 ++ w.code ++ BitVec.ofBool u ++ k ++ b ++ a ++ d ++ 72#7
  | .visubSat w u d a b k => 14#4 ++ w.code ++ BitVec.ofBool u ++ k ++ b ++ a ++ d ++ 72#7
  | .viaddx w d b x k => 0#4 ++ w.code ++ k ++ x ++ b ++ d ++ 73#7
  | .visubx w d b x k => 1#4 ++ w.code ++ k ++ x ++ b ++ d ++ 73#7
  | .vimulx w d b x k => 2#4 ++ w.code ++ k ++ x ++ b ++ d ++ 73#7
  | .viandx w d b x k => 3#4 ++ w.code ++ k ++ x ++ b ++ d ++ 73#7
  | .viorx w d b x k => 4#4 ++ w.code ++ k ++ x ++ b ++ d ++ 73#7
  | .vixorx w d b x k => 5#4 ++ w.code ++ k ++ x ++ b ++ d ++ 73#7
  | .visllx w d b x k => 6#4 ++ w.code ++ k ++ x ++ b ++ d ++ 73#7
  | .visrlx w d b x k => 7#4 ++ w.code ++ k ++ x ++ b ++ d ++ 73#7
  | .visrax w d b x k => 8#4 ++ w.code ++ k ++ x ++ b ++ d ++ 73#7
  | .vcmp p t d a b k => 0#1 ++ p.code ++ t.code ++ k ++ b ++ a ++ 0#2 ++ d ++ 74#7
  | .kand d a b => 8#4 ++ 0#3 ++ 0#3 ++ 0#2 ++ b ++ 0#2 ++ a ++ 0#2 ++ d ++ 74#7
  | .kor d a b => 9#4 ++ 0#3 ++ 0#3 ++ 0#2 ++ b ++ 0#2 ++ a ++ 0#2 ++ d ++ 74#7
  | .kxor d a b => 10#4 ++ 0#3 ++ 0#3 ++ 0#2 ++ b ++ 0#2 ++ a ++ 0#2 ++ d ++ 74#7
  | .knot d a => 11#4 ++ 0#3 ++ 0#3 ++ 0#5 ++ 0#2 ++ a ++ 0#2 ++ d ++ 74#7
  | .kmov d a => 12#4 ++ 0#3 ++ 0#3 ++ 0#5 ++ 0#2 ++ a ++ 0#2 ++ d ++ 74#7
  | .vperm d a b k => 0#4 ++ 0#2 ++ 0#1 ++ k ++ b ++ a ++ d ++ 75#7
  | .vslideup d a n k => 1#4 ++ 0#2 ++ n.extractLsb' 5 1 ++ k ++ n.extractLsb' 0 5 ++ a ++ d ++ 75#7
  | .vslidedn d a n k => 2#4 ++ 0#2 ++ n.extractLsb' 5 1 ++ k ++ n.extractLsb' 0 5 ++ a ++ d ++ 75#7
  | .vcompress d a k => 3#4 ++ 0#2 ++ 0#1 ++ k ++ 0#5 ++ a ++ d ++ 75#7
  | .vmov d a k => 4#4 ++ 0#2 ++ 0#1 ++ k ++ 0#5 ++ a ++ d ++ 75#7
  | .vbcast w d x k => 8#4 ++ w.code ++ k ++ x ++ 0#5 ++ d ++ 75#7
  | .vins w d x j => 9#4 ++ w.code ++ 0#3 ++ x ++ j ++ d ++ 75#7
  | .vext w u d s j => 10#4 ++ w.code ++ 0#2 ++ BitVec.ofBool u ++ d ++ s ++ j ++ 75#7
  | .kset d x => 11#4 ++ 0#2 ++ 0#3 ++ x ++ 0#5 ++ 0#2 ++ d ++ 75#7
  | .kpopc d s => 12#4 ++ 0#2 ++ 0#3 ++ d ++ 0#2 ++ s ++ 0#5 ++ 75#7
  | .vcvt m s h d a k => 0#2 ++ m.code ++ BitVec.ofBool s ++ BitVec.ofBool h ++ k ++ 0#5 ++ a ++ d ++ 80#7
  | .vcvto m s d q a k => 1#2 ++ m.code ++ BitVec.ofBool s ++ 0#1 ++ k ++ 0#2 ++ q ++ a ++ d ++ 80#7
  | .vplane d a => 2#2 ++ 0#3 ++ 0#1 ++ 0#1 ++ 0#3 ++ 0#5 ++ a ++ d ++ 80#7
  | .vunplane d a => 3#2 ++ 0#3 ++ 0#1 ++ 0#1 ++ 0#3 ++ 0#5 ++ a ++ d ++ 80#7
  | .fmt a b s x p c => a.code ++ b.code ++ BitVec.ofBool s ++ x ++ p ++ BitVec.ofBool c ++ 0#6 ++ 81#7
  | .vspdraw y d x k => 0#4 ++ y.code ++ k ++ x ++ 0#5 ++ d ++ 82#7
  | .vspuni y d x k => 1#4 ++ y.code ++ k ++ x ++ 0#5 ++ d ++ 82#7
  | .vspexp y d x k => 2#4 ++ y.code ++ k ++ x ++ 0#5 ++ d ++ 82#7
  | .vgumb d s x k => 3#4 ++ 0#2 ++ k ++ x ++ s ++ d ++ 82#7
  | .spdraw y d a b => 8#4 ++ y.code ++ 0#1 ++ b ++ a ++ d ++ 82#7
  | .spuni y d a b => 9#4 ++ y.code ++ 0#1 ++ b ++ a ++ d ++ 82#7
  | .spexp y d a b => 10#4 ++ y.code ++ 0#1 ++ b ++ a ++ d ++ 82#7
  | .digest a b => 0#7 ++ b ++ a ++ 0#6 ++ 83#7
  | .digestm a b n => 1#7 ++ b ++ a ++ n ++ 83#7
  | .mma t c a s r u v k => BitVec.ofBool t ++ BitVec.ofBool c ++ 0#3 ++ a ++ BitVec.ofBool s ++ r ++ BitVec.ofBool u ++ v ++ k ++ 96#7
  | .accrd v x a r => 0#4 ++ a ++ r ++ x ++ v ++ 0#2 ++ 97#7
  | .acczero d => 64#7 ++ 0#6 ++ 0#5 ++ 0#3 ++ d ++ 0#2 ++ 97#7
  | .accld d s => 65#7 ++ s ++ 0#5 ++ 0#3 ++ d ++ 0#2 ++ 97#7
  | .accst s a => 66#7 ++ s ++ 0#3 ++ a ++ 0#5 ++ 0#2 ++ 97#7
  | .accstat x a c => 67#7 ++ x ++ 0#3 ++ a ++ 0#5 ++ 0#1 ++ BitVec.ofBool c ++ 97#7
  | .accswp d a => 68#7 ++ 0#6 ++ 0#3 ++ a ++ 0#3 ++ d ++ 0#2 ++ 97#7
  | .tld d s p c => 0#7 ++ s ++ p ++ 0#2 ++ d ++ 0#1 ++ BitVec.ofBool c ++ 98#7
  | .tst s d p c => 1#7 ++ s ++ p ++ 0#2 ++ d ++ 0#1 ++ BitVec.ofBool c ++ 98#7
  | .tzero d => 2#7 ++ 0#6 ++ 0#5 ++ 0#2 ++ d ++ 0#2 ++ 98#7
  | .tmov d s => 3#7 ++ 0#6 ++ 0#2 ++ s ++ 0#2 ++ d ++ 0#2 ++ 98#7
  | .ocmp p t d a b k => p.code ++ t.code ++ k ++ b ++ a ++ 0#2 ++ d ++ 104#7
  | .btpopr d s => wordBtpopr d s
  | .btpopc d s => wordBtpopc d s
  | .btclo d s r => wordBtclo d s r
  | .btcomp d a b => wordBtcomp d a b
  | .bttr d s => wordBttr d s
  | .btand d a b => wordBtand d a b
  | .btor d a b => wordBtor d a b
  | .btxor d a b => wordBtxor d a b
  | .btandn d a b => wordBtandn d a b
  | .btnot d s => wordBtnot d s
  | .btrowk d s i => wordBtrowk d s i
  | .btcolk d s i => wordBtcolk d s i
  | .btkrow d s i => wordBtkrow d s i
  | .btkcol d s i => wordBtkcol d s i
  | .btld d s => wordBtld d s
  | .btst s b => wordBtst s b
  | .sinit a => wordSinit a
  | .rate a b => wordRate a b
  | .ratea a b => wordRatea a b
  | .nextev d a => wordNextev d a
  | .swrd d a s => wordSwrd d a s
  | .sclk d => wordSclk d
  | .binit a => wordBinit a
  | .bdec d a => wordBdec d a
  | .brecv d a => wordBrecv d a
  | .trap a => 0#7 ++ 0#6 ++ a ++ 0#6 ++ 112#7
  | .tret => 1#7 ++ 0#6 ++ 0#6 ++ 0#6 ++ 112#7
  | .halt => 2#7 ++ 0#6 ++ 0#6 ++ 0#6 ++ 112#7
  | .csrw d c a => 0#2 ++ c ++ a ++ d ++ 113#7
  | .csrs d c a => 1#2 ++ c ++ a ++ d ++ 113#7
  | .csrc d c a => 2#2 ++ c ++ a ++ d ++ 113#7
  | .hint h => wordHint h
  | .loadDataReturn => 0#32
  | .gatherLaneReturn => 0#32
  | .hostLqtailWrite => 0#32
  | .lqcfgWrite => 0#32
  | .launchRecordRead => 0#32
  | .dependencesMet => 0#32
  | .firingPlace => 0#32
  | .teamComplete => 0#32
  | .checkSecondRun => 0#32
  | .actorFire => 0#32
  | .messageDispatch => 0#32
  | .messageRefusalReturn => 0#32
  | .priorityAge => 0#32
  | .qstallExpiry => 0#32
  | .fewaitExpiry => 0#32
  | .feWithdrawal => 0#32
  | .feResend => 0#32
  | .bankOpArrive => 0#32
  | .bankOpResend => 0#32
  | .bankOpCopyDrop => 0#32
  | .linkErrorReplay => 0#32
  | .remoteAccessArrive => 0#32
  | .storeMessagePerform => 0#32
  | .remoteRequestPerform => 0#32
  | .remoteWriteAck => 0#32
  | .rangelockRegister => 0#32
  | .copySector => 0#32
  | .copyFault => 0#32
  | .copyComplete => 0#32
  | .mmaStep => 0#32
  | .vectorBankLaneFault => 0#32
  | .asyncReportTake => 0#32
  | .trapRecordAppend => 0#32
  | .errorLogAppend => 0#32
  | .trheadWrite => 0#32
  | .fcmdResumePc => 0#32
  | .fcmdResumeUtvec => 0#32
  | .fcmdSave => 0#32
  | .fcmdDiscard => 0#32
  | .fcmdKill => 0#32
  | .preemptRequest => 0#32
  | .resumeRequest => 0#32
  | .preemptDeadline => 0#32
  | .preemptEnd => 0#32
  | .dqstealServe => 0#32
  | .pageWalk => 0#32
  | .tlbinvWrite => 0#32
  | .tlbinvComplete => 0#32
  | .pintWrite => 0#32
  | .msccfgWrite => 0#32
  | .mscChangeComplete => 0#32
  | .logRegisterWrite => 0#32
  | .registerWrite => 0#32
  | .decisionArrive => 0#32
  | .creditReturn => 0#32
  | .presenceDrop => 0#32
  | .portDownTimeout => 0#32
  | .peerLostDeclare => 0#32
  | .remotePoisonComplete => 0#32
  | .laneFail => 0#32
  | .retrainComplete => 0#32
  | .alctlWrite => 0#32
  | .alkeygoWrite => 0#32
  | .keySwitch => 0#32
  | .keywarn => 0#32
  | .keystarved => 0#32
  | .hostLinkLoss => 0#32
  | .hostLinkReturn => 0#32
  | .hostBar2Write => 0#32
  | .hostBar4Write => 0#32
  | .cxlPoison => 0#32
  | .cxlDeviceLoss => 0#32
  | .powerGood => 0#32
  | .fullEnter => 0#32
  | .ident => 0#32
  | .health => 0#32
  | .thermal => 0#32
  | .resync => 0#32
  | .fwload => 0#32
  | .keyload => 0#32
  | .reset => 0#32
  | .thermalTrip => 0#32
  | .hbmDieLoss => 0#32
  | .lockstepMismatch => 0#32
  | .readoptionTimeout => 0#32
  | .readoptionComplete => 0#32
  | .uncorrectableError => 0#32
  | .powerCapBreach => 0#32
  | .markerAcknowledged => 0#32
  | .shinvComplete => 0#32
  | .bankOpResponseArrive => 0#32
  | .bankTagFree => 0#32
  | .ownerAnswerArrive => 0#32
  | .commandComplete => 0#32
  | .moduleInsertion => 0#32
  | .powerLoss => 0#32

/-- The four bytes of a word as memory holds them, lowest address first (R23). -/
def wordBytes (w : BitVec 32) : List Byte :=
  [w.extractLsb' 0 8, w.extractLsb' 8 8, w.extractLsb' 16 8, w.extractLsb' 24 8]

/-- The word four bytes hold, lowest address first (R23). -/
def wordOfBytes (b0 b1 b2 b3 : Byte) : BitVec 32 := b3 ++ b2 ++ b1 ++ b0

/-- The instruction the decoder reads from an instruction whose bits are w. Bit 0 is the least significant bit of the word; every
instruction is one word, so the bits above nbits are zero and nothing lies above bit 31. -/
noncomputable def decodeTableWord (nbits w : Nat) : Option Instr :=
  match wordBytes (BitVec.ofNat 32 (w % 2 ^ nbits)) with
  | [b0, b1, b2, b3] => match decode (wordOfBytes b0 b1 b2 b3) with
    | .ok i => some i
    | .bad _ => none
  | _ => none

end Sys2Proof
end

