-- ==== Sys2Proof/Config.lean ====
section
/-! DEFINITION. What the spec leaves free. Each constant is opaque: nothing in Lean can say which value it has, so a statement
holds whatever it is. A step that uses one applies it to State.free and raises that counter, so that no two uses are tied. -/

namespace Sys2Proof.Config

/-- Which of several enabled moves the machine makes next: which core's request is first (R14), when an engine works, when a die's
answer comes back (log 5). The step reads it modulo the number of moves it may choose from. -/
opaque choice : Nat → Nat

/-- Elapsed clk, as the status words and the cost estimator report them (R202, R204); the model counts no clk (log 6). -/
opaque clk : Nat → Nat

/-- A dword whose contents the spec does not lay down (log 6). -/
opaque dword : Nat → Word

/-- The public key that an image is signed under, as bytes (R392; log 6). -/
opaque publicKey : List Byte → List Byte

/-- Whether the ML-DSA-87 signature that an image carries checks over a digest under that key (R392; log 6). -/
opaque signed : List Byte → BitVec 512 → Bool

/-- The version of an image (R392; log 6). -/
opaque version : List Byte → BitVec 32

/-- What IDENT, HEALTH or THERMAL leaves in the 64 KiB buffer, whose contents the spec does not lay down (R393; log 6). -/
opaque report : Nat → BitVec 524288

/-- The key a wrapped key unwraps to under the fused key-encryption key, if it unwraps (R395; log 6). -/
opaque unwrapped : List Byte → Option (BitVec 256)

/-- Messages that the path to a core holds for one tenant class before it takes no more (R81, log 18). -/
opaque pathRoom : Nat

/-- A real function value that interval arithmetic at the model's precision could not round (log 9); never reached in practice. -/
opaque roundingTie : Nat → Bool

end Sys2Proof.Config
end

