-- ==== Sys2Proof/Machine/State.lean ====
section
/-! DEFINITION. The state of one G9-P package as plain data: every register, table, queue and unit that spec/ names, the firings in
flight, and the model's own bookkeeping (log 3). INVENTORY.md lists each piece with its rule and its reset value. -/

namespace Sys2Proof.Machine

/-- No behaviour of the G9 stops the machine: every trap of spec/ 11 is a next state. -/
inductive Fault where
  deriving DecidableEq, Repr

/-- Why an instruction has no meaning. -/
inductive Refusal where
  /-- Raised by an arm of exec whose instruction has no meaning yet. Safe: the machine stops. -/
  | notModelled (mnemonic : String)
  deriving DecidableEq, Repr

/-- Bytes by address key in rising order; no entry holds 0, which is what an unlisted address reads as (R391, log 4). -/
abbrev Mem := List Host.Cell

/-- The causes of R193 by name. -/
inductive Cause where
  | ill | regrange | align | page | prot | winrefuse | rangelock | fewait | qstall | tilecfg | fmtmis | shard | remerr
  | boundrate | gangbreak | engfault | swtrap | priv | logfull | preempt | machine
  deriving DecidableEq, Repr

/-- A trap: cause, subcode and tval (R193, R194). -/
structure Trap where
  c : Cause
  sub : Nat
  val : Word
  deriving DecidableEq, Repr

/-- What one bank operation does (R163 to R166): an integer atomic by its OP and size in bytes, a float atomic by its OP and type, an
exact-cell operation. -/
inductive BankOp where
  | amo (op n : Nat)
  | famo (op : Nat) (t : AF)
  | xcadd (t : AF)
  | xcrd (t : AF)
  | xcclr
  | xcrdclr (t : AF)
  deriving DecidableEq, Repr

/-- What a request to another package asks its owner to do (R224, R226). -/
inductive Req where
  | load
  | store
  /-- A write of the bytes of one aligned dword that a mask names (R234). -/
  | storeMasked (mask : BitVec 8)
  | ldfe (m : LdMode)
  | stfe (m : StMode)
  /-- Withdrawal of a full-empty wait (R226). -/
  | withdraw
  | bank (op : BankOp)
  deriving DecidableEq, Repr

/-- The register demand of a firing, its allocation (R76 D2, R81). -/
structure Demand where
  xregs : Nat
  vregs : Nat
  tiles : Nat
  accs : Nat
  btiles : Nat
  spad : Nat
  deriving DecidableEq, Repr

/-- What a firing is blocked in (R72), or what it waits for when it is not ready. -/
inductive Wait where
  /-- A queue operation on queue n, popping or pushing. -/
  | queue (n : Nat) (push : Bool)
  /-- HSWAIT on semaphore n. -/
  | sem (n : Nat)
  /-- A full-empty access waiting in its home's retry list. -/
  | fullEmpty
  /-- A full-empty access its home refused because its list was full; sent again later (R149). -/
  | resend
  /-- TXWAIT on the barrier at a key, for a phase other than ph to begin. -/
  | barrier (key ph : Nat)
  /-- A TXWAIT that such a phase has released (R188). -/
  | released
  /-- SEND awaiting the path to a core whose buffer is full (R81). -/
  | path (core : Nat)
  /-- PHASE or GBAR at the group record at a key (0 is group 0), arrived at phase ph. -/
  | group (key ph : Nat)
  /-- JOIN, into register rd, while a boundary of the group at a key is open: it is admitted as that completes (R93). -/
  | join (key : Nat) (rd : BitVec 6)
  /-- RETIRE or PHASE awaiting the firing's engine operations. -/
  | engines
  /-- GANG n awaiting the other firings of the block. -/
  | gang (n : Nat)
  /-- Free range-lock entries (R190). -/
  | table
  /-- The matrix array or an accumulator or tile it uses (R300, R302, R309). -/
  | array
  /-- An answer from another frond or another package. -/
  | answer
  /-- Markers down the paths used (R223). -/
  | markers
  /-- Acknowledgements of remote writes (R225). -/
  | acks
  /-- Posted bank operations not yet performed (R160). -/
  | posted
  /-- Room for a load or a gather lane among the 64 its core holds (R157). -/
  | loads
  /-- Room for a number of requests to a bank (R161). -/
  | tags (bank need : Nat)
  /-- SHINV awaiting its dies (R229). -/
  | shinv
  /-- A credit of outgoing channel c (R356). -/
  | credit (c : Nat)
  /-- A decision on incoming channel c (R358). -/
  | decision (c : Nat)
  /-- An operation held at its site by the order log (R340, R341). -/
  | held
  deriving DecidableEq, Repr

/-- What an outstanding remote access writes when its data returns. -/
inductive Reply where
  /-- A scalar register, from the low n bytes, sign-extended or not. -/
  | scalar (d : BitVec 6) (n : Nat) (signed : Bool)
  /-- An exact-cell read: the data, and flags to fflags (R165). -/
  | cell (d : BitVec 6) (n : Nat)
  /-- Lane i of a vector, n bytes wide, sign-extended or not in its lane or lanes. -/
  | lane (d : BitVec 5) (i n : Nat) (signed : Bool)
  /-- Element e of a packed vector, w bits wide. -/
  | elem (d : BitVec 5) (e w : Nat)
  /-- Dword i of those that the instruction takes together; poison is marked in the second half of the firing's data. -/
  | buf (i : Nat)
  /-- A steal: the result pair (R192). -/
  | steal (d : BitVec 6)
  /-- A write that is held until its owner answers (R219). -/
  | none
  deriving DecidableEq, Repr

/-- One outstanding access of a firing to another package; the firing waits for all of them. -/
structure Pend where
  pkg : Nat
  seq : Nat
  reply : Reply
  /-- A full-empty access whose withdrawal has not been sent. -/
  fe : Bool
  /-- The tag of a full-empty access (R161, R226). -/
  tag : Option Nat
  /-- Its package was declared lost while it was outstanding: it completes with poison, and no answer to it counts any more (R389). -/
  dead : Bool
  /-- The address FEWAIT reports, and the low bits of what SHARD 0x07 reports (R219). -/
  addr : Word
  tv : Word
  /-- A shard-addressed access (R229). -/
  shard : Bool
  deriving DecidableEq, Repr

/-- A pending asynchronous report (R199): tcause, tval, and whether the operation that failed was issued by a utvec handler. -/
structure Report where
  tc : Word
  val : Word
  own : Bool
  deriving DecidableEq, Repr

/-- An arrival at a boundary that is kept (R115, R118): the group record's key (0 for group 0), the phase it was made at, and the group's
scope then. -/
structure Arrival where
  key : Nat
  ph : Nat
  sc : Scope
  deriving DecidableEq, Repr

/-- Whether a firing runs (R71, R198). -/
inductive Run where
  | running
  /-- Stopped by a supervisor-delivered trap; the record's number in the ring once it is appended, and the record (R198). -/
  | stopped (seq : Option Nat) (recd : List Word)
  deriving DecidableEq, Repr

/-- A firing: the unit that owns a program counter (R71), with its context (R206, R211). -/
structure Firing where
  live : Bool
  /-- Admission number, the model's name of the firing; smaller is older (R97). -/
  adm : Nat
  core : Fin 2048
  part : Fin 16
  tid : Word
  fid : Word
  fcnt : Word
  fparm : Word
  dem : Demand
  spbase : Word
  prio : Nat
  /-- Effective priority raised to 8 (R97). -/
  aged : Bool
  /-- Header of the message that made a handler firing (R180, R203). -/
  msg : Option Word
  pc : Word
  x : Vector Word 64
  v : Vector Vec 32
  k : Vector Word 8
  m : Vector (BitVec 32768) 8
  acc : Vector (BitVec 131072) 4
  accf : Vector Word 4
  b : Vector (BitVec 4096) 8
  fstat : Word
  fflags : Word
  frm : Word
  srix : Word
  utvec : Word
  tcause : Word
  tval : Word
  tpc : Word
  tstat : Word
  trepw : Word
  trepf : Word
  tfmt : Word
  qlim : Word
  fewlim : Word
  seedlo : Word
  seedhi : Word
  sstream : Word
  tshape : Vector Word 8
  /-- The held prefix word (R31). -/
  pfx : BitVec 32
  /-- The REP word and F of an active frame (R104). -/
  repw : BitVec 32
  repf : Word
  /-- The words of an active frame fetched so far, with their addresses (R104). -/
  repbuf : List (Word × BitVec 32)
  /-- Device memory as it was released to the firing's frond when the firing was created: the words its instruction cache may still give it
  (R24). -/
  code : Mem
  /-- Copy control registers (R182). -/
  cr : Vector Word 8
  q12 : List Word
  q12lost : Bool
  q13 : List Word
  /-- MMAs issued so far (R301). -/
  mmas : Nat
  /-- Pending asynchronous reports, oldest first, at most 16, and whether one was dropped since the last delivery (R199). -/
  reports : List Report
  replost : Bool
  wait : Option Wait
  /-- A group arrival that is kept (R118). -/
  arrived : Option Arrival
  pends : List Pend
  /-- A trap that is taken when the last answer has come (R155, R219, R222). -/
  late : Option Trap
  /-- Dwords read from another package for the instruction that asked, then for each a 1 where it came as poison; or the number of the write
that was held for its answer (log 3). -/
  data : List Word
  /-- Groups joined, as record keys (R93). -/
  groups : List Nat
  /-- The pair-queue set of a member of a pair (R172). -/
  pairset : Option (Fin 8)
  /-- Physical tile registers held, in order (R310). -/
  tphys : List Nat
  /-- Paths used since the last release (R223). -/
  paths : List Nat
  /-- Operations so far of each order-log kind (R339). -/
  opn : Vector Nat 6
  /-- An order-log position already granted to the operation at pc. -/
  granted : Bool
  run : Run
  deriving DecidableEq, Repr

/-- An entry of q0 to q7 (R172). -/
inductive QEntry where
  | word (w : Word)
  | vec (v : Vec)
  deriving DecidableEq, Repr

/-- A pair-queue set (R172). -/
structure PairSet where
  used : Bool
  q : Vector (List QEntry) 8
  deriving DecidableEq, Repr

/-- An operation that holds range-lock entries (R190). -/
inductive LockOwner where
  | copy (id : Nat)
  | mma (adm n : Nat)
  | gather (adm n : Nat)
  | vbsum (adm n : Nat)
  deriving DecidableEq, Repr

/-- A range-lock entry: the effective addresses lo to hi - 1. -/
structure Lock where
  lo : Nat
  hi : Nat
  dst : Bool
  own : LockOwner
  deriving DecidableEq, Repr

/-- A copy in a channel (R183, R185): the registers at its CGO, and the shard snapshots of a sharded side. Until it is live the channel
is only taken. -/
structure Copy where
  adm : Nat
  tid : Word
  part : Fin 16
  id : Nat
  cr : Vector Word 8
  bytes : Nat
  srcDesc : List Word
  dstDesc : List Word
  /-- Placement entries as they stood at the CGO, by shard (R229). -/
  srcPlace : List (Nat × Word × Word)
  dstPlace : List (Nat × Word × Word)
  /-- The sector under way: 0 not begun, 1 awaits source bytes, 2 awaits writes at another package. -/
  phase : Nat
  buf : List Nat
  /-- Outstanding requests to other packages: package, sequence number, byte of the sector. -/
  pends : List (Nat × Nat × Nat)
  /-- The trap code an owner answered with, 0 for none. -/
  bad : Nat
  /-- Issued by a utvec handler (R199). -/
  hand : Bool
  live : Bool
  deriving DecidableEq, Repr

/-- A waiter on a semaphore (R121). -/
structure SemWait where
  n : Nat
  amt : Nat
  rd : BitVec 6
  adm : Nat
  deriving DecidableEq, Repr

/-- A boundary channel of a sorus region (R354 to R358). -/
structure Chan where
  act : Bool
  tab : Bool
  log2b : Nat
  fl : Nat
  cid : BitVec 32
  lambda : Word
  tau0 : Word
  tbl : Nat
  tn : Nat
  pkg : Nat
  pch : Nat
  frond : Nat
  k : Word
  tau : Word
  due : Bool
  credits : Nat
  refused : Bool
  queue : List Word
  deriving DecidableEq, Repr

/-- A frond's sorus and its region (R345). Weights are listed by rising leaf, none of them 0. -/
structure Sorus where
  init : Bool
  log2l : Nat
  sexp : Int
  ws : List (Nat × BitVec 48)
  t : Word
  n : Word
  rid : BitVec 32
  seedlo : Word
  seedhi : Word
  outc : Vector Chan 8
  inc : Vector Chan 8
  holder : Option Nat
  /-- A saved holder the sorus stays reserved for, by tid and fid (R363). -/
  parked : Option (Word × Word)
  deriving DecidableEq, Repr

/-- A frond (R11). -/
structure Frond where
  hs : Vector (BitVec 16) 16
  hsq : List SemWait
  swin : Vector Word 8
  /-- Bytes the L1 holds (R144), by device-memory key. -/
  held : List (Nat × Byte)
  /-- The frond's snapshot of device memory (R238). -/
  snap : Mem
  locks : List Lock
  chans : Vector (Option Copy) 4
  nextId : Nat
  /-- Incoming neighbour entries from N, E, S, W (R172, R173). -/
  nq : Vector (List Vec) 4
  pairs : Vector PairSet 8
  sorus : Sorus
  tested : Bool
  deriving DecidableEq, Repr

/-- An accepted MMA (R299, R305): its word and prefix, what it read at issue, and the steps done. -/
structure MmaJob where
  adm : Nat
  word : BitVec 32
  pfx : BitVec 32
  topx : Bool
  a0 : Word
  a1 : Word
  b0 : Word
  b1 : Word
  xs : Word
  clr : Bool
  done : Nat
  num : Nat
  deriving DecidableEq, Repr

/-- A message in flight or in a core's inbound buffer (R177 to R181). -/
structure Message where
  srcPkg : Nat
  srcCore : Nat
  srcPart : Nat
  adm : Nat
  core : Nat
  header : Word
  payload : List Word
  /-- What the order log knows the send by (R338, R339), and whether the sender was told of a full log. -/
  team : Option Nat
  me : Word
  told : Bool
  /-- Sent by a utvec handler (R199). -/
  hand : Bool
  deriving DecidableEq, Repr

/-- A tile register tagged with its slot (R207): physical number, slot address, partition, owner's tid and fid, data. -/
structure LazyTile where
  phys : Nat
  slot : Word
  part : Fin 16
  tid : Word
  fid : Word
  data : BitVec 32768
  deriving DecidableEq, Repr

/-- Where a bank operation of another package goes: package, partition there, tenant class, sequence number, address there (R224, R226), and
whether it was posted. -/
structure FarReq where
  pkg : Nat
  part : Nat
  cls : Nat
  seq : Nat
  addr : Nat
  posted : Bool
  deriving DecidableEq, Repr

/-- A bank-operation request under its tag (R161, R162): what it does, to which key, its operand and compare value, whether it has been
applied, for one of another package as its owner has answered, and what the order log knows it by (R339). -/
structure BankReq where
  tag : Nat
  key : Nat
  op : BankOp
  val : Word
  cmp : Word
  copies : Nat
  answered : Bool
  resp : Word
  adm : Nat
  applied : Bool
  team : Option Nat
  me : Word
  /-- Its firing was told that the order log is full (R340). -/
  told : Bool
  /-- The number of the vector bank operation it is a lane of, 0 for a scalar one (R167, R168). -/
  lock : Nat
  /-- The owner of a page of another package (R226); its key is then 0. -/
  peer : Option FarReq
  /-- The partition that issued it. -/
  part : Fin 16
  deriving DecidableEq, Repr

/-- A core (R10). -/
structure CoreSt where
  dqbase : Word
  mmas : List MmaJob
  /-- The 64-message buffer, and the messages that wait in the fabric for room in it (R81). -/
  inbound : List Message
  onway : List Message
  nextTag : BitVec 16
  busy : List BankReq
  lazyTiles : List LazyTile
  deriving DecidableEq, Repr

/-- A TLB entry: partition, page base and size in bytes, and the leaf as it was read (R371). -/
structure Tlb where
  part : Fin 16
  va : Nat
  size : Nat
  pte : Word
  pteKey : Nat
  deriving DecidableEq, Repr

/-- A cached shard descriptor with the placement entries read so far (R229). -/
structure ShardCache where
  part : Fin 16
  handle : Nat
  desc : List Word
  place : List (Nat × Word × Word)
  deriving DecidableEq, Repr

/-- A die. -/
structure Die where
  msccfg : Word
  /-- The size a change under way leaves (R376). -/
  mscOld : Nat
  tlb : List Tlb
  shards : List ShardCache
  frozen : Bool
  /-- A first re-adoption failure is still counted (R378). -/
  failed : Bool
  deriving DecidableEq, Repr

/-- A launch queue (R86), the record taken from its head and whether its dependences are met (R85, R89). -/
structure LQueue where
  lqbase : Word
  lqcfg : Word
  lqhead : Word
  lqtail : Word
  lqerr : Word
  team : Option Nat
  deriving DecidableEq, Repr

/-- A pre-emption or resume request in progress (R201 to R205). -/
structure Preempt where
  resume : Bool
  tid : Word
  action : Nat
  w : Nat
  sbase : Word
  slen : Nat
  staddr : Word
  nfir : Nat
  esc : Bool
  missed : Bool
  result : Nat
  /-- The handler firings of an entry (R201 P0). -/
  handlers : Bool
  /-- Addresses of contexts still to restore (R205). -/
  left : List Nat
  deriving DecidableEq, Repr

/-- A partition's register block (R374) and what its launch unit holds. -/
structure Part where
  pint : Word
  pcfg : Word
  ptbr : Word
  etbase : Word
  shtbase : Word
  shtlen : Word
  peerbase : Word
  peerlen : Word
  trbase : Word
  trlog2 : Word
  trhead : Word
  trtail : Word
  qlimdef : Word
  fewlimdef : Word
  stealseed : Word
  xpseed : Word
  tlbinv : Word
  tlbstat : Word
  shmbase : Word
  shmlen : Word
  fcmd : Word
  dropcnt : Word
  lostpkg : Word
  elost : Word
  p0 : Word
  p1 : Word
  p2 : Word
  p3 : Word
  p4 : Word
  p5 : Word
  req : Option Preempt
  lq : Vector LQueue 32
  logbase : Vector Word 4
  loglen : Vector Word 4
  logpos : Vector Word 4
  /-- Queue served last at each priority (R88). -/
  last : Vector Nat 8
  /-- Error-log records held on a full ring, at most 64 (R401), and MACHINE records held there (R379). -/
  errs : List (List Word)
  machs : List (List Word)
  deriving DecidableEq, Repr

/-- A team (R76, R84, R90): the record taken, and how far it is. -/
structure Team where
  id : Nat
  tid : Word
  part : Fin 16
  queue : Nat
  recd : List Word
  seq : Word
  /-- Dependences met. -/
  ready : Bool
  placed : Nat
  retired : Nat
  /-- Group 0: boundaries completed mod 16, and members waiting (R92). -/
  phase0 : Nat
  arrived0 : Nat
  lastOff : Option Nat
  /-- Every frond a firing of the team has been placed on (R115). -/
  fronds : List Nat
  /-- fids to place again after a discard (R203). -/
  again : List Nat
  /-- Its next placement is held on a full order log; the die it was reported for last (R340). -/
  held : Bool
  heldDie : Option Nat
  saved : Nat
  draining : Bool
  /-- Actor: next sequence number to fire, next to commit, retired but not committed (R82). -/
  fireNext : Nat
  commitNext : Nat
  uncommitted : List Nat
  cons0 : List Nat
  prod0 : List Nat
  /-- CHECK: run in progress 0 or 1, and the per-block digests of the first run (R342, R343). -/
  checkRun : Nat
  blocks1 : List (BitVec 512)
  /-- Order-log counts by site, as kind, die, site and count (R339). -/
  seqs : List (Nat × Nat × Nat × Nat)
  /-- Retired firings some of whose remote writes were not acknowledged then (R84, R225). -/
  owed : List Nat
  deriving DecidableEq, Repr

/-- An access of another package that waits in a retry list here: its package, issuing core, tag, stream and sequence number, and the partition
here (R161, R224, R226). -/
structure FarWait where
  pkg : Nat
  core : Nat
  tag : Nat
  stream : Nat
  seq : Nat
  part : Nat
  deriving DecidableEq, Repr

/-- A waiter in a retry list (R149): the dword's key, the access, the waiting firing. -/
structure FeWait where
  key : Nat
  load : Bool
  /-- LDFE.wfe, or STFE. -/
  sets : Bool
  val : Word
  rd : BitVec 6
  adm : Nat
  addr : Word
  /-- The number of a shard-addressed access, else 0 (R229). -/
  shard : Nat
  /-- For an access of another package: what names it. -/
  peer : Option FarWait
  deriving DecidableEq, Repr

/-- A remote store sent and not acknowledged (R225): its firing, where it went, whether it is a lane of a scatter (R75) or shard-addressed (R229),
and the die and partition it came from. -/
structure Unack where
  adm : Nat
  pkg : Nat
  seq : Nat
  lane : Bool
  shard : Bool
  die : Fin 4
  part : Fin 16
  deriving DecidableEq, Repr

/-- A completion filter entry (R162): source, bank, tag, stored response with the flags of a cell read (R165). -/
structure Filt where
  src : Nat
  bank : Nat
  tag : Nat
  resp : Word
  flags : Nat
  deriving DecidableEq, Repr

/-- An Absan Link port (R383 to R388). -/
structure Port where
  en : Bool
  split : Nat
  retrains : Nat
  healthy : Nat
  actout : Nat
  actin : Nat
  spareOut : Bool
  spareIn : Bool
  keywarn : Bool
  state : Nat
  peer : Option Nat
  staging : Vector Word 4
  staged : Option (BitVec 256 × BitVec 48)
  key : BitVec 256
  salt : BitVec 48
  ctr : Nat
  /-- Has trained since reset: until then ALSTAT shows no lanes (R386). -/
  trained : Bool
  deriving DecidableEq, Repr

/-- The device block and the limits (R391 to R395). -/
structure Device where
  stage : Nat
  fault : Nat
  fwver : BitVec 32
  cmdRun : Option (Nat × Nat)
  cmdres : Word
  resyncs : Nat
  stored : List Byte
  /-- The package id of 22 bits and the domain-local id, 0 to 575 (R15). -/
  pkgId : Fin 4194304
  domId : Fin 576
  /-- The caps in force, in watts, of package and module (R394). -/
  powerCap : Nat
  moduleCap : Nat
  /-- The fused mask over the Absan ports, and over Ethernet, CXL ports and host VFs with what is enabled of each (R394). -/
  portMask : Word
  ethMask : BitVec 8
  cxlMask : BitVec 2
  vfMask : BitVec 16
  ethEn : BitVec 8
  cxlEn : BitVec 2
  vfEn : BitVec 16
  /-- Fused: SHA3-512 of the public key, and the anti-rollback counter (R392). -/
  keyDigest : BitVec 512
  rollback : BitVec 32
  /-- The image the ROM verified last and started (R392, R378). -/
  image : List Byte
  /-- Ranges of device memory that FWALL names: first byte, one past the last (R394). -/
  fwall : List (Nat × Nat)
  stretched : Bool
  /-- CXL lines of 64 B whose device returns poison (R382), by address div 64. -/
  cxlPoison : List Nat
  /-- CXL ports lost (R382). -/
  cxlDown : List Nat
  hostUp : Bool
  deriving DecidableEq, Repr

/-- The package id as a number. -/
def Device.pkg (d : Device) : Nat := d.pkgId.val

/-- CXL ports that the fused mask allows and firmware has left enabled (R394). -/
def Device.cxlOn (d : Device) : BitVec 2 := d.cxlMask &&& d.cxlEn

/-- What the package has sent to the outside, newest last. -/
inductive Sent where
  | msix (vec : Nat)
  | message (pkg : Nat) (m : Message)
  /-- A request on the stream of an issuing core and class to a package (R224): partition there, sequence number, the tag of a bank operation or
  full-empty access (R161, R226), what it asks. -/
  | request (core cls pkg part seq tag : Nat) (req : Req) (addr n : Nat) (v w : Word)
  | answer (pkg stream seq code : Nat) (v : Word) (flags : Nat)
  /-- A boundary decision to a channel of another package, with the frond and channel it comes from (R356). -/
  | decision (pkg frond ch srcFrond srcCh : Nat) (w : Word)
  /-- A credit given back to an outgoing channel of another package, with a refusal or without (R357). -/
  | creditBack (pkg frond ch : Nat) (refused : Bool)
  /-- A refusal returned to a sender at another package: its core and firing, the subcode, the header (R180). -/
  | refusal (pkg core adm sub : Nat) (header : Word)
  /-- SHINV of a handle of a partition there, or of every handle, at a peer (R229). -/
  | shinv (pkg part adm : Nat) (handle : Option Nat)
  /-- The completion of a peer's SHINV on this package (R229). -/
  | shinvDone (pkg adm : Nat)
  /-- TLBINV of partition p, asked of a peer for the remote pages it names (R373). -/
  | tlbinv (pkg part : Nat) (w : Word)
  /-- The completion of a peer's TLBINV on this package (R373). -/
  | tlbinvDone (pkg part : Nat)
  /-- The data of a host read, and the completion of one that is no supported request (R381). -/
  | hostData (n v : Nat)
  | unsupported
  deriving DecidableEq, Repr

/-- A request of another package, waiting in the reorder buffer of its stream (R224). Package and issuing core are its source, which with its tag
names a bank operation or full-empty access (R161). -/
structure InReq where
  stream : Nat
  seq : Nat
  pkg : Nat
  core : Nat
  tag : Nat
  part : Nat
  req : Req
  addr : Nat
  n : Nat
  v : Word
  w : Word
  /-- A full-empty access that a full retry list refused: its stream has gone on, and it is sent again later (R149, R226). -/
  again : Bool
  deriving DecidableEq, Repr

/-- An event with what it carries: numbers and words in the order the meaning of op names them. -/
structure Ev where
  op : Instr
  a : Nat
  b : Nat
  c : Nat
  v : Word
  l : List Word
  deriving DecidableEq, Repr

/-- A window through which the host reaches the device (R381): the control space of the physical function, memory, memory with full-empty access,
and the control space of virtual function p. -/
inductive Window where
  | bar0
  | bar2
  | bar4
  | vf (p : Fin 16)
  deriving DecidableEq, Repr

/-- What the outside and the free choices of the part do between two steps. -/
inductive Input where
  /-- An event from outside. -/
  | event (e : Ev)
  /-- A request of another package reaches the reorder buffer (R224). -/
  | request (r : InReq)
  /-- SHINV of firing adm of another package, of a handle of partition part here or of all (R229). -/
  | shinv (pkg adm part : Nat) (handle : Option Nat)
  /-- TLBINV of another package, for the pages of partition part here that it reaches as remote pages (R373). -/
  | tlbinv (pkg part : Nat) (w : Word)
  /-- A message of another package reaches a core (R177). -/
  | message (m : Message)
  /-- The L1 of frond h, evicting a line, writes the held bytes of one of its dwords home (R144, R234). -/
  | evict (h dword : Nat)
  /-- A host read of n bytes at an offset of a window (R381). -/
  | hostRead (w : Window) (off n : Nat)
  /-- A host write of v at an offset of virtual function p's BAR0 (R381). -/
  | vfWrite (p : Fin 16) (off : Nat) (v : Word)
  /-- The host writes the FWALL registers (R394). -/
  | fwall (ranges : List (Nat × Nat))
  /-- Firmware sets lower power caps, in watts, of package and module, and clears enables of Ethernet, CXL ports and VFs (R394). -/
  | limits (package modul : Nat) (eth : BitVec 8) (cxl : BitVec 2) (vf : BitVec 16)
  /-- Firmware on a monitor core writes n bytes of device memory (R394). -/
  | firmware (key n v : Nat)
  /-- Die d drops the TLB entries for partition p at an address (capacity, R371). -/
  | tlbDrop (d p va : Nat)
  /-- Die d drops cached descriptors (capacity, R229). -/
  | shardDrop (d handle : Nat)
  deriving DecidableEq, Repr

/-- An effect that a member of a gang had at an instruction others still wait in, to be taken back if the gang breaks there (R109): an amount
taken from semaphore n of frond h, or the value and bit of a full-empty word before it was served. -/
inductive Undo where
  | sem (h : Fin 1024) (n : Fin 16) (amt : Nat)
  | word (key val : Nat) (full : Bool)
  deriving DecidableEq, Repr

/-- Bytes of a dword of device memory written home and not yet released to the whole package (R24, R238, R241): by which frond, at what scope it
has released them so far, whether a publication wrote them, the dword's key, which bytes, and the dword before; then the fronds that have taken
them into their snapshots or read them at home, and the dies a release by one of those fronds has reached (R248). -/
structure Late where
  frond : Fin 1024
  sc : Scope
  pub : Bool
  key : Nat
  mask : BitVec 8
  old : Word
  fronds : List Nat
  dies : List Nat
  deriving DecidableEq, Repr

/-- A gang (R94, R106): members by lane, the leader first, and where the instruction is that some members have done and others wait in:
its address and its position and pass in a REP frame, the members as they stood before it, and what its members have done of it since. -/
structure Gang where
  members : List Nat
  pc : Word
  i : Nat
  j : Nat
  before : List Firing
  undo : List Undo
  /-- The instruction is a VREDQ, whose steps stand (R287). -/
  steps : Bool
  deriving DecidableEq, Repr

/-- What the device keeps of a saved firing beside its context in memory (R118, R205, R206, log 27). -/
structure Saved where
  part : Fin 16
  tid : Word
  fid : Word
  core : Fin 2048
  groups : List Nat
  arrived : Option Arrival
  opn : Vector Nat 6
  mmas : Nat
  q12lost : Bool
  paired : Bool
  adm : Nat
  /-- Masks, MMAs, and which pending reports are of operations that its handler issued: the layout of R206 has no place for them. -/
  k : Vector Word 8
  jobs : List MmaJob
  owns : List Bool
  /-- Where its scratchpad reservation lay (R205), the paths it used since its last release (R223), and its copies with their shard
  snapshots (R229). -/
  spbase : Word
  paths : List Nat
  copies : List Copy
  deriving DecidableEq, Repr

/-- The machine. -/
structure State where
  /-- The firing that acts: the one exec runs. -/
  fir : Firing
  others : List Firing
  fronds : Vector Frond 1024
  cores : Vector CoreSt 2048
  dies : Vector Die 4
  parts : Vector Part 16
  teams : List Team
  saved : List Saved
  gangs : List Gang
  mem : Mem
  /-- Home writes not yet released to the whole package, newest first. -/
  late : List Late
  /-- Full dwords, as key div 8 in rising order (R147). -/
  full : List Nat
  retry : List FeWait
  filt : List Filt
  ports : Vector Port 18
  dev : Device
  /-- Lost peers (R389). -/
  lost : List Nat
  /-- Next sequence number of each outgoing stream, as core, package, class (R224). -/
  streams : List (Nat × Nat × Nat × Nat)
  /-- Remote stores sent and not acknowledged (R225). -/
  unacked : List Unack
  /-- Reorder buffers and the next number each incoming stream expects (R224). -/
  inreqs : List InReq
  expect : List (Nat × Nat)
  sent : List Sent
  /-- Inputs not yet taken, oldest first. -/
  inbox : List Input
  /-- Work an engine or unit has still to do. -/
  agenda : List Ev
  /-- What the event being executed carries. -/
  ev : Ev
  /-- Uses of free values so far. -/
  free : Nat
  /-- Traps taken so far. -/
  traps : Nat
  /-- Next admission number, team number, MMA and tag number. -/
  next : Nat
  deriving DecidableEq, Repr

/-- A demand of nothing but the least scalar registers (R76). -/
def Demand.none : Demand := { xregs := 0, vregs := 0, tiles := 0, accs := 0, btiles := 0, spad := 0 }

/-- A firing at creation, before the trigger writes it (R73). -/
def Firing.blank : Firing :=
  { live := false, adm := 0, core := 0, part := 0, tid := 0, fid := 0, fcnt := 0, fparm := 0, dem := Demand.none, spbase := 0,
    prio := 0, aged := false, msg := none, pc := 0, x := Vector.replicate 64 0, v := Vector.replicate 32 0,
    k := Vector.replicate 8 0, m := Vector.replicate 8 0, acc := Vector.replicate 4 0, accf := Vector.replicate 4 0,
    b := Vector.replicate 8 0, fstat := 0, fflags := 0, frm := 0, srix := 0, utvec := 0, tcause := 0, tval := 0, tpc := 0,
    tstat := 0, trepw := 0, trepf := 0, tfmt := 0, qlim := 0, fewlim := 0, seedlo := 0, seedhi := 0, sstream := 0,
    tshape := Vector.replicate 8 0, pfx := 0, repw := 0, repf := 0, repbuf := [], code := [], cr := Vector.replicate 8 0, q12 := [], q12lost := false,
    q13 := [], mmas := 0, reports := [], replost := false, wait := none, arrived := none, pends := [], late := none, data := [], groups := [],
    pairset := none, tphys := [], paths := [], opn := Vector.replicate 6 0, granted := false, run := .running }

/-- A closed channel. -/
def Chan.closed : Chan :=
  { act := false, tab := false, log2b := 0, fl := 0, cid := 0, lambda := 0, tau0 := 0, tbl := 0, tn := 0, pkg := 0, pch := 0,
    frond := 0, k := 0, tau := 0, due := false, credits := 0, refused := false, queue := [] }

/-- An uninitialised sorus (R345). -/
def Sorus.blank : Sorus :=
  { init := false, log2l := 0, sexp := 0, ws := [], t := 0, n := 0, rid := 0, seedlo := 0, seedhi := 0,
    outc := Vector.replicate 8 Chan.closed, inc := Vector.replicate 8 Chan.closed, holder := none, parked := none }

/-- A free pair-queue set. -/
def PairSet.free : PairSet := { used := false, q := Vector.replicate 8 [] }

/-- A frond at reset. -/
def Frond.reset : Frond :=
  { hs := Vector.replicate 16 0, hsq := [], swin := Vector.replicate 8 0, held := [], snap := [], locks := [],
    chans := Vector.replicate 4 none, nextId := 1, nq := Vector.replicate 4 [], pairs := Vector.replicate 8 PairSet.free,
    sorus := Sorus.blank, tested := true }

/-- A core at reset. -/
def CoreSt.reset : CoreSt :=
  { dqbase := 0, mmas := [], inbound := [], onway := [], nextTag := 0, busy := [], lazyTiles := [] }

/-- A die at reset. -/
def Die.reset : Die := { msccfg := 0, mscOld := 0, tlb := [], shards := [], frozen := false, failed := false }

/-- A launch queue at reset (R86). -/
def LQueue.reset : LQueue := { lqbase := 0, lqcfg := 0, lqhead := 0, lqtail := 0, lqerr := 0, team := none }

/-- A partition at reset (R212, R374). -/
def Part.reset : Part :=
  { pint := 0, pcfg := 0, ptbr := 0, etbase := 0, shtbase := 0, shtlen := 0, peerbase := 0, peerlen := 0, trbase := 0,
    trlog2 := 0, trhead := 0, trtail := 0, qlimdef := 0x1000000, fewlimdef := 0x1000000, stealseed := 0, xpseed := 0,
    tlbinv := 0, tlbstat := 0, shmbase := 0, shmlen := 0, fcmd := 0, dropcnt := 0, lostpkg := 0, elost := 0, p0 := 0, p1 := 0,
    p2 := 0, p3 := 0, p4 := 0, p5 := 0, req := none, lq := Vector.replicate 32 LQueue.reset, logbase := Vector.replicate 4 0,
    loglen := Vector.replicate 4 0, logpos := Vector.replicate 4 0, last := Vector.replicate 8 0, errs := [], machs := [] }

/-- A port at reset (R383, R386). -/
def Port.reset : Port :=
  { en := false, split := 0, retrains := 0, healthy := 10, actout := 4, actin := 4, spareOut := true, spareIn := true,
    keywarn := false, state := 0, peer := none, staging := Vector.replicate 4 0, staged := none, key := 0, salt := 0, ctr := 0, trained := false }

/-- The fused power cap of the package, in watts (R394). -/
def packageCap : Nat := 2600

/-- The fused power cap of the module, in watts (R394). -/
def moduleCapMax : Nat := 2800

/-- The device block at reset (R393; log 2 for what the spec gives no value). -/
def Device.reset : Device :=
  { stage := 0, fault := 0, fwver := 0, cmdRun := none, cmdres := 0, resyncs := 0, stored := [], pkgId := 0, domId := 0,
    powerCap := packageCap, moduleCap := moduleCapMax, portMask := BitVec.allOnes 64, ethMask := BitVec.allOnes 8,
    cxlMask := BitVec.allOnes 2, vfMask := BitVec.allOnes 16, ethEn := BitVec.allOnes 8, cxlEn := BitVec.allOnes 2,
    vfEn := BitVec.allOnes 16, keyDigest := 0, rollback := 0, image := [], fwall := [], stretched := false, cxlPoison := [], cxlDown := [], hostUp := true }

/-- An event that carries nothing. -/
def Ev.blank : Ev := { op := .powerGood, a := 0, b := 0, c := 0, v := 0, l := [] }

/-- The machine right after reset: ROM stage, no firing, every register at its reset value (R391; INVENTORY.md). -/
def State.reset : State :=
  { fir := Firing.blank, others := [], fronds := Vector.replicate 1024 Frond.reset, cores := Vector.replicate 2048 CoreSt.reset,
    dies := Vector.replicate 4 Die.reset, parts := Vector.replicate 16 Part.reset, teams := [], saved := [], gangs := [], mem := [], late := [], full := [],
    retry := [], filt := [], ports := Vector.replicate 18 Port.reset, dev := Device.reset, lost := [], streams := [],
    unacked := [], inreqs := [], expect := [], sent := [], inbox := [], agenda := [], ev := Ev.blank, free := 0, traps := 0,
    next := 1 }

end Sys2Proof.Machine
end

