-- ==== Sys2Proof/Machine/Ops.lean ====
section
/-! DEFINITION. The named operations every meaning is built from: bit fields, registers, memory, translation and checks (R139 to R144,
R369 to R373), publication and renewal (R237, R238), traps and their return (R193 to R200, R208), and the order in which an instruction
is checked (R39). -/

namespace Sys2Proof.Machine

/-! ## Bit fields -/

/-- Bits hi to lo of a dword as a number (R7). -/
def bits (w : Word) (hi lo : Nat) : Nat := (w.toNat / 2 ^ lo) % 2 ^ (hi + 1 - lo)

/-- One bit. -/
def bit (w : Word) (i : Nat) : Bool := w.getLsbD i

/-- A dword with bits hi to lo replaced. -/
def setBits (w : Word) (hi lo v : Nat) : Word :=
  let m : Word := BitVec.ofNat 64 ((2 ^ (hi + 1 - lo) - 1) * 2 ^ lo)
  (w &&& ~~~m) ||| (BitVec.ofNat 64 (v % 2 ^ (hi + 1 - lo) * 2 ^ lo))

/-- A dword with one bit replaced. -/
def setBit (w : Word) (i : Nat) (b : Bool) : Word := setBits w i i b.toNat

/-- The number a dword holds in two's complement. -/
def sInt (w : Word) : Int := w.toInt

/-- A number as a dword, modulo 2^64. -/
def ofInt (i : Int) : Word := BitVec.ofInt 64 i

/-- The low n bytes of a number, sign-extended or zero-extended to a dword (R7). -/
def extend (signed : Bool) (n v : Nat) : Word :=
  let u := v % 2 ^ (8 * n)
  if signed && decide (2 ^ (8 * n - 1) ≤ u) then ofInt ((u : Int) - 2 ^ (8 * n)) else BitVec.ofNat 64 u

/-- Element e of width w in a packed register, numbered from the low end (R52). -/
def elem {m : Nat} (r : BitVec m) (w e : Nat) : Nat := (r.toNat / 2 ^ (w * e)) % 2 ^ w

/-- A packed register with element e of width w replaced. -/
def setElem {m : Nat} (r : BitVec m) (w e v : Nat) : BitVec m :=
  BitVec.ofNat m (r.toNat - elem r w e * 2 ^ (w * e) + v % 2 ^ w * 2 ^ (w * e))

/-- A packed register made of elements of width w, the first at the low end. -/
def packNat (w : Nat) : List Nat → Nat
  | [] => 0
  | v :: vs => v % 2 ^ w + 2 ^ w * packNat w vs

/-- A packed register made of elements of width w. -/
def pack (m w : Nat) (vs : List Nat) : BitVec m := BitVec.ofNat m (packNat w vs)

/-- The n elements of width w of a packed register, in order. -/
def unpack {m : Nat} (r : BitVec m) (w : Nat) (n : Nat) : List Nat := (List.range n).map (elem r w)

/-! ## Lists kept in order -/

/-- The byte at a key; an unlisted key reads 0 (R391, log 4). -/
def Mem.get : Mem → Nat → Byte
  | [], _ => 0
  | (k, b) :: m, a => if a < k then 0 else if a = k then b else Mem.get m a

/-- Memory with one byte stored, in its one form: keys rising, no entry 0. -/
def Mem.set : Mem → Nat → Byte → Mem
  | [], a, b => if b = 0 then [] else [(a, b)]
  | (k, c) :: m, a, b =>
    if a < k then (if b = 0 then (k, c) :: m else (a, b) :: (k, c) :: m)
    else if a = k then (if b = 0 then m else (a, b) :: m)
    else (k, c) :: Mem.set m a b

/-- The keys of a list rise and start above a bound. -/
def Mem.above : Nat → Mem → Bool
  | _, [] => true
  | lo, (k, b) :: m => decide (lo ≤ k) && (b != 0) && Mem.above (k + 1) m

/-- The one form of a memory: keys rising, no entry equal to what an unlisted key reads as. -/
def Mem.wf (m : Mem) : Bool := Mem.above 0 m

/-- The n bytes from a key on, little-endian (R2). -/
def Mem.read (m : Mem) (a : Nat) : Nat → Nat
  | 0 => 0
  | n + 1 => (m.get a).toNat + 256 * Mem.read m (a + 1) n

/-- Memory with n bytes stored from a key on, little-endian (R2). -/
def Mem.write (m : Mem) (a : Nat) : Nat → Nat → Mem
  | 0, _ => m
  | n + 1, v => Mem.write (m.set a (BitVec.ofNat 8 v)) (a + 1) n (v / 256)

/-- Bytes of a dword stored by a mask (R234). -/
def Mem.writeMasked (m : Mem) (key : Nat) (mask : BitVec 8) (v : Word) : Mem :=
  (List.range 8).foldl (fun m i => if mask.getLsbD i then m.set (key + i) (BitVec.ofNat 8 (v.toNat / 2 ^ (8 * i))) else m) m

/-- The byte an L1 holds for a key, if it holds one (R144). -/
def heldGet : List (Nat × Byte) → Nat → Option Byte
  | [], _ => none
  | (k, b) :: m, a => if a < k then none else if a = k then some b else heldGet m a

/-- The held bytes with one entered (R144). -/
def heldSet : List (Nat × Byte) → Nat → Byte → List (Nat × Byte)
  | [], a, b => [(a, b)]
  | (k, c) :: m, a, b =>
    if a < k then (a, b) :: (k, c) :: m else if a = k then (a, b) :: m else (k, c) :: heldSet m a b

/-- The held bytes with n entered from a key on. -/
def heldWrite (m : List (Nat × Byte)) (a : Nat) : Nat → Nat → List (Nat × Byte)
  | 0, _ => m
  | n + 1, v => heldWrite (heldSet m a (BitVec.ofNat 8 v)) (a + 1) n (v / 256)

/-- Memory after a list of bytes has gone home. -/
def Mem.putAll (m : Mem) : List (Nat × Byte) → Mem
  | [] => m
  | (a, b) :: h => Mem.putAll (m.set a b) h

/-- A number put into a rising list. -/
def insertNat : List Nat → Nat → List Nat
  | [], a => [a]
  | b :: m, a => if a < b then a :: b :: m else if a = b then b :: m else b :: insertNat m a

/-! ## Address keys

One rising space of keys holds every byte of the package: HBM at its physical address, then the CXL tier, shared memory, the scratchpads
and the mailbox buffer. -/

/-- Bytes of HBM, 768 GiB (R399). -/
def hbmEnd : Nat := 768 * 2 ^ 30

/-- Key of a CXL-tier address. -/
def cxlKey (a : Nat) : Nat := 2 ^ 52 + a

/-- Key of a package shared-memory offset. -/
def shmKey (o : Nat) : Nat := 2 ^ 54 + o

/-- Key of offset o of frond h's scratchpad. -/
def spadKey (h o : Nat) : Nat := 2 ^ 55 + h * 2 ^ 20 + o

/-- Key of an offset of the 64 KiB mailbox buffer (R393). -/
def bufKey (o : Nat) : Nat := 2 ^ 56 + o

/-! ## The acting firing and its registers -/

/-- The state with the acting firing changed. -/
def State.upd (s : State) (g : Firing → Firing) : State := { s with fir := g s.fir }

/-- The frond a firing runs on (R10). -/
def Firing.frond (f : Firing) : Fin 1024 := ⟨f.core.val / 2, by have := f.core.isLt; omega⟩

/-- The die a firing runs on (R9). -/
def Firing.die (f : Firing) : Fin 4 := ⟨f.frond.val / 256, by have := f.frond.isLt; omega⟩

/-- A firing on a stage core (R10). -/
def Firing.stage (f : Firing) : Bool := f.core.val % 2 == 0

/-- Scalar register n; x0 reads 0 (R7). -/
def Firing.rx (f : Firing) (n : BitVec 6) : Word := if n = 0 then 0 else f.x[n.toNat]

/-- Scalar register n written; a write to x0 is discarded (R7). -/
def Firing.wx (f : Firing) (n : BitVec 6) (w : Word) : Firing := if n = 0 then f else { f with x := f.x.set n.toNat w }

/-- Scalar register by number, 0 to 63. -/
def Firing.rxn (f : Firing) (n : Nat) : Word := f.rx (BitVec.ofNat 6 n)

/-- Vector register n. -/
def Firing.rv (f : Firing) (n : BitVec 5) : Vec := f.v[n.toNat]

/-- Vector register n written. -/
def Firing.wv (f : Firing) (n : BitVec 5) (w : Vec) : Firing := { f with v := f.v.set n.toNat w }

/-- Mask register n; k0 reads all ones (R7). -/
def Firing.rk (f : Firing) (n : BitVec 3) : Word := if n = 0 then BitVec.allOnes 64 else f.k[n.toNat]

/-- Mask register n written; a write to k0 is discarded (R7). -/
def Firing.wk (f : Firing) (n : BitVec 3) (w : Word) : Firing := if n = 0 then f else { f with k := f.k.set n.toNat w }

/-- Tile register n. -/
def Firing.rm (f : Firing) (n : BitVec 3) : BitVec 32768 := f.m[n.toNat]

/-- Tile register n written. -/
def Firing.wm (f : Firing) (n : BitVec 3) (w : BitVec 32768) : Firing := { f with m := f.m.set n.toNat w }

/-- Bit tile n. -/
def Firing.rb (f : Firing) (n : BitVec 3) : BitVec 4096 := f.b[n.toNat]

/-- Bit tile n written. -/
def Firing.wb (f : Firing) (n : BitVec 3) (w : BitVec 4096) : Firing := { f with b := f.b.set n.toNat w }

/-- Accumulator n. -/
def Firing.ra (f : Firing) (n : BitVec 2) : BitVec 131072 := f.acc[n.toNat]

/-- Accumulator n written. -/
def Firing.wa (f : Firing) (n : BitVec 2) (w : BitVec 131072) : Firing := { f with acc := f.acc.set n.toNat w }

/-- Scalar register n of the acting firing. -/
def State.rx (s : State) (n : BitVec 6) : Word := s.fir.rx n

/-- A scalar register of the acting firing written. -/
def State.wx (s : State) (n : BitVec 6) (w : Word) : State := s.upd fun f => f.wx n w

/-- A vector register of the acting firing written. -/
def State.wv (s : State) (n : BitVec 5) (w : Vec) : State := s.upd fun f => f.wv n w

/-- A mask register of the acting firing written. -/
def State.wk (s : State) (n : BitVec 3) (w : Word) : State := s.upd fun f => f.wk n w

/-- A bit tile of the acting firing written. -/
def State.wb (s : State) (n : BitVec 3) (w : BitVec 4096) : State := s.upd fun f => f.wb n w

/-! ## fstat (R196) -/

/-- FPEND: a format prefix is pending. -/
def Firing.fpend (f : Firing) : Bool := bit f.fstat 0

/-- TOPX: the reading of the FP8 top code (R49). -/
def Firing.topx (f : Firing) : Bool := bit f.fstat 1

/-- INTRAP: a utvec handler is running. -/
def Firing.intrap (f : Firing) : Bool := bit f.fstat 4

/-- SUP: a supervisor firing (R209). -/
def Firing.sup (f : Firing) : Bool := bit f.fstat 5

/-- REPACT: a REP frame is active. -/
def Firing.repact (f : Firing) : Bool := bit f.fstat 23

/-- REPJ: the pass counter. -/
def Firing.repj (f : Firing) : Nat := bits f.fstat 18 13

/-- REPI: the position counter. -/
def Firing.repi (f : Firing) : Nat := bits f.fstat 22 19

/-- GSIZE: 0 when in no gang. -/
def Firing.gsize (f : Firing) : Nat := bits f.fstat 25 24

/-- fstat with FPEND cleared. -/
def Firing.clrPfx (f : Firing) : Firing := { f with fstat := setBit f.fstat 0 false }

/-- fstat with the REP fields cleared (R104). -/
def Firing.clrRep (f : Firing) : Firing := { f with fstat := setBits f.fstat 23 13 0, repbuf := [] }

/-- fstat with the gang fields cleared (R108, R109). -/
def Firing.clrGang (f : Firing) : Firing := { f with fstat := setBits f.fstat 28 24 0 }

/-- fflags with flags set (R60). -/
def Firing.orFlags (f : Firing) (fl : Word) : Firing := { f with fflags := f.fflags ||| fl }

/-! ## Stops inside an instruction -/

/-- Why an instruction does not go on to its end: a trap that leaves no effect, a trap after a part the rule lets stand, a wait. -/
inductive Stop where
  | trap (t : Trap)
  | trapIn (s : State) (t : Trap)
  | wait (s : State) (w : Wait)

/-- How an instruction ends: at the next instruction, at an address, or with the state as it is. -/
inductive Done where
  | done (s : State)
  | jump (s : State) (pc : Word)
  | stay (s : State)
  /-- At the next instruction, with a trap before it. -/
  | after (s : State) (t : Trap)

/-- A trap with no subcode. -/
def raise {α : Type} (c : Cause) (val : Word) : Except Stop α := .error (.trap { c := c, sub := 0, val := val })

/-- A trap with a subcode. -/
def raiseSub {α : Type} (c : Cause) (sub : Nat) (val : Word) : Except Stop α := .error (.trap { c := c, sub := sub, val := val })

/-- A wait. -/
def block {α : Type} (s : State) (w : Wait) : Except Stop α := .error (.wait s w)

/-- Go on if a condition holds, or trap. -/
def check (b : Bool) (c : Cause) (val : Word) : Except Stop Unit := bif b then .ok () else raise c val

/-- An operation after a part of its instruction that stands, as s has it, when it traps (R39). -/
def standing {α : Type} (s : State) : Except Stop α → Except Stop α
  | .error (.trap t) => .error (.trapIn s t)
  | r => r

/-! ## Firings by admission number -/

/-- The firing with an admission number, if it is live. -/
def State.firing? (s : State) (n : Nat) : Option Firing :=
  if s.fir.live && s.fir.adm == n then some s.fir else s.others.find? fun f => f.live && f.adm == n

/-- Every live firing. -/
def State.firings (s : State) : List Firing := (if s.fir.live then [s.fir] else []) ++ s.others

/-- A firing changed in place. -/
def State.onFiring (s : State) (n : Nat) (g : Firing → Firing) : State :=
  if s.fir.live && s.fir.adm == n then { s with fir := g s.fir }
  else { s with others := s.others.map fun f => if f.adm == n then g f else f }

/-- The firing with an admission number made the acting one. -/
def State.focus (s : State) (n : Nat) : State :=
  if s.fir.live && s.fir.adm == n then s
  else match s.others.find? fun f => f.adm == n with
    | none => s
    | some f =>
      let rest := s.others.filter fun g => g.adm != n
      { s with fir := f, others := if s.fir.live then s.fir :: rest else rest }

/-- A change made with another firing as the acting one. -/
def State.asFiring (s : State) (n : Nat) (g : State → State) : State := ((g (s.focus n)).focus s.fir.adm)

/-! ## Units by number -/

/-- The acting firing's frond. -/
def State.fr (s : State) : Frond := s.fronds[s.fir.frond]

/-- A frond changed. -/
def State.onFrond (s : State) (h : Fin 1024) (g : Frond → Frond) : State := { s with fronds := s.fronds.set h (g s.fronds[h]) }

/-- A core changed. -/
def State.onCore (s : State) (c : Fin 2048) (g : CoreSt → CoreSt) : State := { s with cores := s.cores.set c (g s.cores[c]) }

/-- A die changed. -/
def State.onDie (s : State) (d : Fin 4) (g : Die → Die) : State := { s with dies := s.dies.set d (g s.dies[d]) }

/-- A partition changed. -/
def State.onPart (s : State) (p : Fin 16) (g : Part → Part) : State := { s with parts := s.parts.set p (g s.parts[p]) }

/-- A port changed. -/
def State.onPort (s : State) (p : Fin 18) (g : Port → Port) : State := { s with ports := s.ports.set p (g s.ports[p]) }

/-- A team changed. -/
def State.onTeam (s : State) (id : Nat) (g : Team → Team) : State :=
  { s with teams := s.teams.map fun t => if t.id == id then g t else t }

/-- The acting firing's partition. -/
def State.part (s : State) : Part := s.parts[s.fir.part]

/-- The first frond of a partition (R374). -/
def Part.start (p : Part) : Nat := bits p.pint 9 0

/-- The number of fronds of a partition. -/
def Part.len (p : Part) : Nat := bits p.pint 42 32

/-- A frond of a partition. -/
def Part.hasFrond (p : Part) (h : Nat) : Bool := decide (p.start ≤ h) && decide (h < p.start + p.len)

/-- The team of a firing: the live team of its partition with its tid. -/
def State.team? (s : State) (f : Firing) : Option Team := s.teams.find? fun t => t.tid == f.tid && t.part == f.part

/-- Work added for an engine or unit. -/
def State.push (s : State) (op : Instr) (a b c : Nat) (v : Word) : State :=
  { s with agenda := s.agenda ++ [{ op := op, a := a, b := b, c := c, v := v, l := [] }] }

/-- Something sent to the outside. -/
def State.send (s : State) (x : Sent) : State := { s with sent := s.sent ++ [x] }

/-- The next use of a free value. -/
def State.nextFree (s : State) : Nat × State := (s.free, { s with free := s.free + 1 })

/-! ## Where an access goes (R139) -/

/-- The home an access reaches. -/
inductive Place where
  /-- A scratchpad. -/
  | spad (h : Fin 1024) (off : Nat)
  | shm (off : Nat)
  /-- Device memory through the frond's L1, by key. -/
  | dev (key : Nat)
  /-- An uncached page. -/
  | unc (key : Nat)
  /-- Control space. -/
  | ctl (off : Nat)
  /-- Another package: its id, partition there, address there. -/
  | far (pkg part addr : Nat)
  deriving DecidableEq, Repr

/-- What an access does, as its checks need it (R140 step 4, R158). -/
structure Acc where
  rd : Bool
  wr : Bool
  /-- A synchronising access. -/
  sync : Bool
  /-- LDFE or STFE. -/
  fe : Bool
  /-- An exact-cell or vector bank operation, which apertures 0 and 1 do not take. -/
  cell : Bool
  deriving DecidableEq, Repr

/-- An ordinary read. -/
def Acc.load : Acc := { rd := true, wr := false, sync := false, fe := false, cell := false }
/-- An ordinary write. -/
def Acc.store : Acc := { rd := false, wr := true, sync := false, fe := false, cell := false }
/-- A scalar bank operation. -/
def Acc.bank : Acc := { rd := true, wr := true, sync := true, fe := false, cell := false }
/-- An exact-cell or vector bank operation. -/
def Acc.cells : Acc := { rd := true, wr := true, sync := true, fe := false, cell := true }
/-- A synchronising access to an engine object in scratchpad or shared memory. -/
def Acc.obj : Acc := { rd := true, wr := true, sync := true, fe := false, cell := false }

/-! ## Home writes and who is known to have them (R24, R236 to R241, R248) -/

/-- The n keys from one on. -/
def keysFrom (key n : Nat) : List Nat := (List.range n).map (key + ·)

/-- Rising keys of device memory by dword: each dword with a mask of the bytes named. -/
def dwordMasks : List Nat → List (Nat × BitVec 8)
  | [] => []
  | k :: ks =>
    let b : BitVec 8 := BitVec.ofNat 8 (2 ^ (k % 8))
    if shmKey 0 ≤ k then dwordMasks ks
    else match dwordMasks ks with
      | (d, m) :: ds => if d = k / 8 * 8 then (d, m ||| b) :: ds else (k / 8 * 8, b) :: (d, m) :: ds
      | [] => [(k / 8 * 8, b)]

/-- The bytes of a dword that a list of masks names. -/
def maskAt (ds : List (Nat × BitVec 8)) (key : Nat) : BitVec 8 :=
  ds.foldl (fun m d => if d.1 = key then m ||| d.2 else m) 0

/-- Home writes after later ones that everyone sees: the bytes those cover are no longer noted. -/
def hideLate (ds : List (Nat × BitVec 8)) (ls : List Late) : List Late :=
  (ls.map fun l => { l with mask := l.mask &&& ~~~maskAt ds l.key }).filter fun l => l.mask != 0

/-- Memory after a write at home of some bytes that everyone sees at once. -/
def State.homeDone (s : State) (keys : List Nat) (m : Mem) : State := { s with mem := m, late := hideLate (dwordMasks keys) s.late }

/-! ## Page tables (R369 to R371) -/

/-- A leaf found by a walk: the entry, its key, the page's first address and its size. -/
structure Leaf where
  pte : Word
  key : Nat
  va : Nat
  size : Nat
  deriving DecidableEq, Repr

/-- Reserved bits of a PTE: 15:13 and 7. -/
def pteRsv (e : Word) : Bool := bits e 15 13 != 0 || bit e 7

/-- A leaf entry: V = 1 and any of R, W, X. -/
def pteLeaf (e : Word) : Bool := bits e 3 1 != 0

/-- Page size of a leaf at a level, 4 KiB at level 0 (or 64 KiB for a C group). -/
def leafSize (level : Nat) (c : Bool) : Nat := if level = 0 then (if c then 65536 else 4096) else 4096 * 512 ^ level

/-- The comparison of a C group: everything but PPN bits 19:16, A and D (R370). -/
def groupPart (e : Word) : Word := setBits (setBits e 19 16 0) 6 5 0

/-- A C group keeps its rule: 16 aligned entries equal but for PPN bits 19:16, A and D, and those bits run 0 to 15. -/
def groupOk (m : Mem) (key : Nat) : Bool :=
  let first := key / 128 * 128
  let e0 := BitVec.ofNat 64 (m.read first 8)
  (List.range 16).all fun i =>
    let e := BitVec.ofNat 64 (m.read (first + 8 * i) 8)
    groupPart e == groupPart e0 && bits e 19 16 == i

/-- A leaf that R369 lets stand at its level. -/
def leafOk (m : Mem) (level key : Nat) (e : Word) : Bool :=
  let c := bit e 12
  let ppn := bits e 55 16
  let size := leafSize level c
  let mt := bits e 11 10
  decide (level ≤ 2) && !(c && level != 0) && (!c || groupOk m key)
    && ((c && level == 0) || (ppn * 4096) % size == 0)
    && (mt == 1 || mt == 2 || decide (ppn * 4096 / size * size + size ≤ hbmEnd))

/-- The walk from a table at a level; none is PAGE (R369). -/
def walkFrom (m : Mem) (va : Nat) : Nat → Nat → Option Leaf
  | 0, table =>
    let key := table + 8 * (va / 4096 % 512)
    let e := BitVec.ofNat 64 (m.read key 8)
    if bit e 0 && !pteRsv e && pteLeaf e && leafOk m 0 key e then
      let size := leafSize 0 (bit e 12)
      some { pte := e, key := key, va := va / size * size, size := size }
    else none
  | level + 1, table =>
    let key := table + 8 * (va / (4096 * 512 ^ (level + 1)) % 512)
    let e := BitVec.ofNat 64 (m.read key 8)
    if !bit e 0 || pteRsv e then none
    else if pteLeaf e then
      (if leafOk m (level + 1) key e then
        let size := leafSize (level + 1) false
        some { pte := e, key := key, va := va / size * size, size := size }
       else none)
    else if bit e 12 then none
    else walkFrom m va level (bits e 55 16 * 4096)

/-- The entries of a leaf that A and D updates reach: one, or the 16 of its group (R371). -/
def leafKeys (l : Leaf) : List Nat :=
  if bit l.pte 12 then (List.range 16).map fun i => l.key / 128 * 128 + 8 * i else [l.key]

/-- Bits ORed into entries in ascending order (R371). -/
def orKeys (m : Mem) (v : Nat) : List Nat → Mem
  | [] => m
  | k :: ks => orKeys (m.write k 8 (m.read k 8 ||| v)) v ks

/-- Translate for partition p on die d: a TLB entry if one serves, else a walk that sets A, sets D for a write, and enters the leaf
(R371). -/
def State.translate (s : State) (p : Fin 16) (d : Fin 4) (va : Nat) (wr : Bool) : Option (State × Leaf) :=
  let hit := s.dies[d].tlb.find? fun t => t.part == p && decide (t.va ≤ va) && decide (va < t.va + t.size)
  match hit with
  | some t =>
    if !wr || bit t.pte 6 then some (s, { pte := t.pte, key := t.pteKey, va := t.va, size := t.size })
    else match walkFrom s.mem va 4 (bits s.parts[p].ptbr 51 12 * 4096) with
      | none => none
      | some l => some (enter s l)
  | none => match walkFrom s.mem va 4 (bits s.parts[p].ptbr 51 12 * 4096) with
    | none => none
    | some l => some (enter s l)
where
  enter (s : State) (l : Leaf) : State × Leaf :=
    let v := if wr then 0x60 else 0x20
    let l' := { l with pte := l.pte ||| BitVec.ofNat 64 v }
    let t : Tlb := { part := p, va := l'.va, size := l'.size, pte := l'.pte, pteKey := l'.key }
    let keep := s.dies[d].tlb.filter fun u => !(u.part == p && u.va == l.va)
    ((s.homeDone (leafKeys l) (orKeys s.mem v (leafKeys l))).onDie d fun x => { x with tlb := t :: keep }, l')

/-- The physical address a leaf gives. -/
def Leaf.pa (l : Leaf) (va : Nat) : Nat := bits l.pte 55 16 * 4096 / l.size * l.size + va % l.size

/-- The peer-table entry i of a partition (R372). -/
def State.peer (s : State) (p : Fin 16) (i : Nat) : Word × Word :=
  let b := s.parts[p].peerbase.toNat
  (BitVec.ofNat 64 (s.mem.read (b + 16 * i) 8), BitVec.ofNat 64 (s.mem.read (b + 16 * i + 8) 8))

/-- The first valid peer-table entry of a partition that names a package (R219, R372). -/
def State.peerFor (s : State) (p : Fin 16) (pkg : Nat) : Option Word :=
  ((List.range (min s.parts[p].peerlen.toNat 256)).map fun i => (s.peer p i).1).find? fun w => bit w 63 && bits w 21 0 == pkg

/-- A package the peer table places in the domain (R225, R372). -/
def State.inDomain (s : State) (p : Fin 16) (pkg : Nat) : Bool := match s.peerFor p pkg with
  | some w => !bit w 62
  | none => true

/-- Where a leaf sends an address. -/
def State.leafPlace (s : State) (p : Fin 16) (l : Leaf) (va : Nat) : Except Stop Place :=
  match bits l.pte 11 10 with
  | 0 => .ok (.dev (l.pa va))
  | 1 => .ok (.dev (cxlKey (l.pa va)))
  | 3 => .ok (.unc (l.pa va))
  | _ =>
    let i := bits l.pte 55 48
    let (w0, w1) := s.peer p i
    if decide (s.parts[p].peerlen.toNat ≤ i) || !bit w0 63 then raiseSub .shard 4 (BitVec.ofNat 64 va)
    else if bit w0 62 then raiseSub .shard 6 (BitVec.ofNat 64 va)
    else .ok (.far (bits w0 21 0) (bits w0 25 22)
      (bits w1 56 12 * 4096 + (bits l.pte 47 16 * 4096 / l.size * l.size + va % l.size)))

/-! ## Checks of an access (R140) -/

/-- The offsets of shared memory taken by a die's memory-side cache; while a change is under way both boundaries count (R13, R376). -/
def State.inCache (s : State) (o : Nat) : Bool :=
  let d := s.dies[o / 2 ^ 27 % 4]'(by omega)
  let size := max (bits d.msccfg 2 0) (if bit d.msccfg 63 then d.mscOld else 0)
  decide (2 ^ 27 - size * 2 ^ 24 ≤ o % 2 ^ 27) && size != 0

/-- A shared-memory range a partition may reach. -/
def State.shmOk (s : State) (p : Fin 16) (o n : Nat) : Bool :=
  let q := s.parts[p]
  decide (q.shmbase.toNat ≤ o) && decide (o + n ≤ q.shmbase.toNat + q.shmlen.toNat) && decide (o + n ≤ 2 ^ 29) && !s.inCache o
    && !s.inCache (o + n - 1)

/-- Steps 2 to 4 of R140 for an aligned element at a valid address. -/
def State.resolve (s : State) (ac : Acc) (a n : Nat) : Except Stop (State × Place) :=
  let v := BitVec.ofNat 64 a
  let f := s.fir
  if a / 2 ^ 48 = 0x1FF then
    match a / 2 ^ 44 % 16 with
    | 0 =>
      if a / 2 ^ 20 % 2 ^ 24 != 0 || ac.fe || ac.cell || decide (2 ^ 20 < a % 2 ^ 20 + n) then raise .prot v
      else .ok (s, .spad f.frond (a % 2 ^ 20))
    | 1 =>
      let h : Fin 1024 := ⟨a / 2 ^ 20 % 1024, by omega⟩
      if a / 2 ^ 30 % 2 ^ 14 != 0 || ac.fe || ac.cell || decide (2 ^ 20 < a % 2 ^ 20 + n) then raise .prot v
      else if h != f.frond && !s.part.hasFrond h.val then raise .prot v
      else .ok (s, .spad h (a % 2 ^ 20))
    | 2 =>
      if a / 2 ^ 29 % 2 ^ 15 != 0 || !s.shmOk f.part (a % 2 ^ 29) n then raise .prot v
      else .ok (s, .shm (a % 2 ^ 29))
    | 3 =>
      let o := a % 2 ^ 44
      if f.sup && !ac.sync && decide (0x1000000 + f.part.val * 0x100000 ≤ o)
          && decide (o + n ≤ 0x1000000 + f.part.val * 0x100000 + 0x100000) then .ok (s, .ctl o)
      else raise .prot v
    | _ => raise .prot v
  else match s.translate f.part f.die a ac.wr with
    | none => raise .page v
    | some (s', l) =>
      let e := l.pte
      let mt := bits e 11 10
      if (ac.rd && !bit e 1) || (ac.wr && !bit e 2) || bits e 63 56 != bits s.part.pcfg 39 32
          || (ac.sync && (!bit e 9 || mt == 1)) || (ac.fe && (mt == 0 || mt == 3) && !bit e 8) then raise .prot v
      else (s.leafPlace f.part l a).map fun pl => (s', pl)

/-- The effective address the range locks compare, an aperture-1 address of the own frond taken as aperture 0 (R139, R190). -/
def lockAddr (h : Fin 1024) (a : Nat) : Nat :=
  if a / 2 ^ 44 = 0x1FF1 && a / 2 ^ 20 % 1024 == h.val then a - 2 ^ 44 - h.val * 2 ^ 20 else a

/-- A range-lock hit: a locked destination for any access, a locked source for a write (R156); an entry that covers no byte hits nothing. -/
def lockHit (ls : List Lock) (ac : Acc) (a n : Nat) : Bool :=
  ls.any fun l => (l.dst || ac.wr) && decide (l.lo < l.hi) && decide (l.lo < a + n) && decide (a < l.hi)

/-- A window of the owner that permits a remote access (R143). -/
def winOk (w : Word) (ac : Acc) (tid : Word) (o n : Nat) : Bool :=
  bit w 63 && (!ac.rd || bit w 61) && (!ac.wr || bit w 62) && (!bit w 60 || bits w 47 32 == bits tid 15 0)
    && decide (bits w 19 8 * 256 ≤ o) && decide (o + n ≤ bits w 19 8 * 256 + (bits w 31 20 + 1) * 256)

/-- Steps 1 to 4 of R140 for an element of n bytes aligned to al at an exact address: all that an engine's access is checked by (R168, R190). -/
def State.reach (s : State) (ac : Acc) (a : Int) (n al : Nat) : Except Stop (State × Place) := do
  if a < 0 || a ≥ 2 ^ 57 || a % al != 0 then raise .align (ofInt a)
  s.resolve ac a.toNat n

/-- Steps 1 to 5 of R140. -/
def State.access (s : State) (ac : Acc) (a : Int) (n al : Nat) : Except Stop (State × Place) := do
  let (s, pl) ← s.reach ac a n al
  if lockHit s.fr.locks ac (lockAddr s.fir.frond a.toNat) n then raise .rangelock (BitVec.ofNat 64 a.toNat)
  .ok (s, pl)

/-- Whether a place is another frond's scratchpad. -/
def State.remoteSpad (s : State) : Place → Bool
  | .spad h _ => h != s.fir.frond
  | _ => false

/-- Step 6 of R140, at the owner's port (R143). -/
def State.window (s : State) (ac : Acc) (pl : Place) (n : Nat) (val : Word) : Except Stop Unit :=
  match pl with
  | .spad h o =>
    if h == s.fir.frond || s.fronds[h].swin.toList.any fun w => winOk w ac s.fir.tid o n then .ok () else raise .winrefuse val
  | _ => .ok ()

/-- The CXL port of a key: 4 KiB granules interleave the two ports (R380). -/
def cxlPort (key : Nat) : Nat := key / 4096 % 2

/-- The path to the home of a device-memory key: the die of an HBM stack, or 4 and 5 for the CXL ports (R223, R399). -/
def devPath (key : Nat) : Nat := if cxlKey 0 ≤ key then 4 + cxlPort key else key / (192 * 2 ^ 30)

/-- The paths an access adds to those used since the last release: the way to its home (R223). -/
def placePath : Place → List Nat
  | .spad h _ => [h.val / 256]
  | .shm o => [o / 2 ^ 27]
  | .dev k => [devPath k]
  | .unc k => [devPath k]
  | _ => []

/-- A path noted. -/
def State.usePath (s : State) (pl : Place) : State :=
  s.upd fun f => { f with paths := (placePath pl).foldl insertNat f.paths }

/-! ## Data at a place -/

/-- The byte an ordinary read of device memory by frond h returns (R238). -/
def Frond.devByte (fr : Frond) (key : Nat) : Byte := (heldGet fr.held key).getD (fr.snap.get key)

/-- n bytes through the L1 (R238). -/
def Frond.devRead (fr : Frond) (key : Nat) : Nat → Nat
  | 0 => 0
  | n + 1 => (fr.devByte key).toNat + 256 * fr.devRead (key + 1) n

/-- The key of a place performed at home. -/
def Place.key : Place → Nat
  | .spad h o => spadKey h.val o
  | .shm o => shmKey o
  | .dev k => k
  | .unc k => k
  | .ctl _ => 0
  | .far _ _ _ => 0

/-- An ordinary read of n bytes at a place (R144, R239). -/
def State.readAt (s : State) (pl : Place) (n : Nat) : Nat :=
  match pl with
  | .dev k => s.fr.devRead k n
  | _ => s.mem.read pl.key n

/-- Memory after a write at home of some bytes by frond h, noted until its release reaches the whole package (R24, R238, R241). -/
def State.homePut (s : State) (h : Fin 1024) (sc : Scope) (pub : Bool) (keys : List Nat) (m : Mem) : State :=
  let note (d : Nat × BitVec 8) : Late :=
    { frond := h, sc := sc, pub := pub, key := d.1, mask := d.2, old := BitVec.ofNat 64 (s.mem.read d.1 8), fronds := [h.val], dies := [] }
  if 4 ≤ sc.code.toNat then s.homeDone keys m else { s with mem := m, late := (dwordMasks keys).map note ++ s.late }

/-- A read at home by frond h of n bytes: what was written there is before whatever h does next (rf of R245). -/
def State.seenBy (s : State) (h : Fin 1024) (key n : Nat) : State :=
  let ds := dwordMasks (keysFrom key n)
  { s with late := s.late.map fun l => if l.mask &&& maskAt ds l.key != 0 then { l with fronds := insertNat l.fronds h.val } else l }

/-- An ordinary write of n bytes at a place: held for device memory, performed at home elsewhere (R144, R146). -/
def State.writeAt (s : State) (pl : Place) (n v : Nat) : State :=
  match pl with
  | .dev k => s.onFrond s.fir.frond fun fr => { fr with held := heldWrite fr.held k n v }
  | .unc k => s.homePut s.fir.frond .fi false (keysFrom k n) (s.mem.write k n v)
  | .ctl _ => s
  | .far _ _ _ => s
  | _ => { s with mem := s.mem.write pl.key n v }

/-! ## Publication and renewal (R237, R238) -/

/-- A key of the CXL tier whose port is lost, or not enabled so that it never trains (R382, R394). -/
def State.cxlLost (s : State) (key : Nat) : Bool :=
  decide (cxlKey 0 ≤ key) && decide (key < shmKey 0) && (s.dev.cxlDown.contains (cxlPort key) || !s.dev.cxlOn.getLsbD (cxlPort key))

/-- Writes dropped, counted in a partition's DROPCNT, which saturates (R389). -/
def State.dropped (s : State) (p : Fin 16) (n : Nat) : State :=
  s.onPart p fun x => { x with dropcnt := BitVec.ofNat 64 (min (x.dropcnt.toNat + n) (2 ^ 64 - 1)) }

/-- Held bytes for a lost CXL device leave the L1 and are counted, one for each line (R382). -/
def State.dropHeld (s : State) (h : Fin 1024) : State :=
  let lines := ((s.fronds[h].held.filter fun x => s.cxlLost x.1).map fun x => x.1 / 128).eraseDups
  (s.dropped s.fir.part lines.length).onFrond h fun x => { x with held := x.held.filter fun y => !s.cxlLost y.1 }

/-- A frond lies in the scope instance of a home write's release (R6, R241). -/
def Late.reaches (l : Late) (g : Fin 1024) : Bool := if l.sc.code.toNat = 3 then g.val / 256 == l.frond.val / 256 else g == l.frond

/-- The wider of two scopes. -/
def widest (a b : Scope) : Scope := if a.code.toNat < b.code.toNat then b else a

/-- A home write under a release at a scope by a frond that has it and did not write it: the release is cumulative (R248). -/
def Late.passOn (l : Late) (h : Fin 1024) (sc : Scope) : Late :=
  if !l.fronds.contains h.val then l
  else if 4 ≤ sc.code.toNat then { l with dies := [0, 1, 2, 3] }
  else if sc.code.toNat = 3 then { l with dies := insertNat l.dies (h.val / 256) }
  else l

/-- Home writes, newest first, under a release by frond h: its own are released at least so far, and one released to the whole package is noted
no more, nor what it wrote over. -/
def widenLate (h : Fin 1024) (sc : Scope) : List Late → List Late
  | [] => []
  | l :: ls =>
    let r := widenLate h sc ls
    if l.frond = h then
      let w := widest l.sc sc
      if 4 ≤ w.code.toNat then hideLate [(l.key, l.mask)] r else { l with sc := w } :: r
    else l.passOn h sc :: r

/-- A release by frond h at a scope reaches its earlier home writes too, and those of others that it has read (R248). -/
def State.widen (s : State) (h : Fin 1024) (sc : Scope) : State := { s with late := widenLate h sc s.late }

/-- Frond h writes every held byte home in a release at a scope and reads its own writes from then on (R144, R237, R238). -/
def State.publish (s : State) (h : Fin 1024) (sc : Scope) : State :=
  let s := if s.dev.cxlDown.isEmpty && s.dev.cxlOn == 3#2 then s else s.dropHeld h
  let fr := s.fronds[h]
  ((s.widen h sc).homePut h sc true (fr.held.map Prod.fst) (s.mem.putAll fr.held)).onFrond h fun x =>
    { x with held := [], snap := x.snap.putAll x.held }

/-- A home write that a renewal of frond g takes: it was no publication, it is released to g, g has it or has read it, or a release by a frond
that had it has reached g's die (R238, R241, R248). -/
def Late.known (l : Late) (g : Fin 1024) : Bool :=
  !l.pub || l.reaches g || l.fronds.contains g.val || l.dies.contains (g.val / 256)

/-- Memory as it was before a home write, but for bytes that a later one has settled. -/
def Late.back (l : Late) (fx : List (Nat × BitVec 8)) (m : Mem) : Mem := m.writeMasked l.key (l.mask &&& ~~~maskAt fx l.key) l.old

/-- A renewal of frond g goes through the home writes, newest first (R238): n is the next free value, fx the bytes settled so far, m the snapshot
so far. One that g need not have is missed or taken, with all that stood in its dword, by a free choice. The home writes, those taken noted
for g; the next free value; the snapshot. -/
def renewLate (g : Fin 1024) : List Late → Nat → List (Nat × BitVec 8) → Mem → List Late × Nat × Mem
  | [], n, _, m => ([], n, m)
  | l :: ls, n, fx, m =>
    if l.known g then
      let (r, n, m) := renewLate g ls n ((l.key, l.mask) :: fx) m
      ({ l with fronds := insertNat l.fronds g.val } :: r, n, m)
    else if maskAt fx l.key ≠ BitVec.allOnes 8 && Config.choice n % 2 = 1 then
      let (r, n, m) := renewLate g ls (n + 1) fx (l.back fx m)
      (l :: r, n, m)
    else
      let (r, n, m) := renewLate g ls (n + 1) ((l.key, BitVec.allOnes 8) :: fx) m
      ({ l with fronds := insertNat l.fronds g.val } :: r, n, m)

/-- Frond h's snapshot is renewed (R238). -/
def State.renew (s : State) (h : Fin 1024) : State :=
  let (late, n, m) := renewLate h s.late s.free [] s.mem
  { s with late := late, free := n }.onFrond h fun x => { x with snap := m }

/-- Memory before the home writes, newest first, that have not been released to frond g (R24). -/
def releasedLate (g : Fin 1024) : List Late → List (Nat × BitVec 8) → Mem → Mem
  | [], _, m => m
  | l :: ls, fx, m =>
    if l.reaches g then releasedLate g ls ((l.key, l.mask) :: fx) m else releasedLate g ls fx (l.back fx m)

/-- Device memory as it has been released to frond g (R24). -/
def State.released (s : State) (g : Fin 1024) : Mem := releasedLate g s.late [] s.mem

/-- Some held bytes of frond h written home early, their lines kept or not: a publication of those bytes that no release has made (R144, R159,
R237). -/
def State.writeHome (s : State) (h : Fin 1024) (mine : Nat → Bool) : State :=
  let out := s.fronds[h].held.filter fun x => mine x.1
  (s.homePut h .fi false (out.map Prod.fst) (s.mem.putAll out)).onFrond h fun x =>
    { x with held := x.held.filter fun y => !mine y.1, snap := x.snap.putAll out }

/-- The held bytes of one 128 B line go home and the line is discarded, before a bank operation on it (R159). -/
def State.flushLine (s : State) (h : Fin 1024) (key : Nat) : State := s.writeHome h fun k => k / 128 == key / 128

/-- An acquire at a scope (R240): the snapshot is renewed when the scope is wider than frond. -/
def State.acquire (s : State) (sc : Scope) : State := if sc.code.toNat > 2 then s.renew s.fir.frond else s

/-- A bank operation of a firing has not been performed (R160). -/
def State.posting (s : State) (f : Firing) : Bool := s.cores[f.core].busy.any fun r => r.adm == f.adm && !r.applied

/-- A release at a scope (R248): markers down the used paths from die scope on, acknowledgements from domain scope on, and of posted bank
operations at any scope (R160), then publication. -/
def State.release (s : State) (sc : Scope) : Except Stop State :=
  if decide (3 ≤ sc.code.toNat) && !s.fir.paths.isEmpty then
    .error (.wait (if s.fir.wait = some .markers then s
      else s.fir.paths.foldl (fun s p => s.push .markerAcknowledged s.fir.adm p 0 0) s) .markers)
  else if s.unacked.any fun u => u.adm == s.fir.adm && (decide (6 ≤ sc.code.toNat)
      || (decide (5 ≤ sc.code.toNat) && s.inDomain s.fir.part u.pkg)) then block s .acks
  else if s.posting s.fir then block s .posted
  else .ok (s.publish s.fir.frond sc)

/-- The least scope that holds two dies, from frond scope on (R6). -/
def dieScope (d e : Nat) : Scope := if d = e then .die else .pkg

/-- The least scope that holds the acting frond and the home of a place (R189). -/
def State.homeScope (s : State) : Place → Scope
  | .spad h _ => if h = s.fir.frond then .fr else dieScope s.fir.die.val (h.val / 256)
  | .shm o => dieScope s.fir.die.val (o / 2 ^ 27)
  | _ => .pkg

/-! ## The trap ring (R198, R374) -/

/-- The ring of a partition is full. -/
def Part.ringFull (p : Part) : Bool := bits (p.trtail - p.trhead) 31 0 == 2 ^ p.trlog2.toNat

/-- A record of eight dwords written at the tail. -/
def writeDwords (m : Mem) (a : Nat) : List Word → Mem
  | [] => m
  | w :: ws => writeDwords (m.write a 8 w.toNat) (a + 8) ws

/-- A record appended to partition p's ring; the ring must not be full. -/
def State.ringPut (s : State) (p : Fin 16) (recd : List Word) : State :=
  let q := s.parts[p]
  let slot := q.trbase.toNat + 64 * (bits q.trtail 31 0 % 2 ^ q.trlog2.toNat)
  (s.homeDone (keysFrom slot (8 * recd.length)) (writeDwords s.mem slot recd)).onPart p fun x =>
    { x with trtail := BitVec.ofNat 64 ((bits x.trtail 31 0 + 1) % 2 ^ 32) }

/-- The records a partition's store holds, in the order they go: error-log records, then MACHINE records (R379, R401). -/
def Part.held (p : Part) : List (List Word) := p.errs ++ p.machs

/-- An error-log record (R401): appended, kept while the ring is full, or dropped when the store is full too. -/
def State.errorLog (s : State) (p : Fin 16) (kind code : Nat) (tid tval : Word) : State :=
  let recd : List Word := [tid, BitVec.allOnes 64, BitVec.ofNat 64 (kind * 256 + code), tval, 0, 0, 0, 0]
  let q := s.parts[p]
  if !q.ringFull && q.held.isEmpty then s.ringPut p recd
  else if q.errs.length < 64 then (s.onPart p fun x => { x with errs := x.errs ++ [recd] }).push .errorLogAppend p.val 0 0 0
  else s.onPart p fun x => { x with elost := if x.elost = BitVec.allOnes 64 then x.elost else x.elost + 1 }

/-! ## Translated accesses of the units (R400) -/

/-- Where a unit of partition p, working on die d, reaches n bytes at a virtual address: the partition's tables and key, R to read and W
to write; package shared memory through aperture 2 where shm allows it. Bypasses every L1. -/
def State.unitPlace (s : State) (p : Fin 16) (d : Fin 4) (shm : Bool) (va n : Nat) (wr : Bool) : Option (State × Nat) :=
  if 2 ^ 57 ≤ va then none
  else if va / 2 ^ 48 = 0x1FF then
    if shm && va / 2 ^ 29 == 0x1FF2 * 2 ^ 15 && s.shmOk p (va % 2 ^ 29) n then some (s, shmKey (va % 2 ^ 29)) else none
  else match s.translate p d va wr with
    | none => none
    | some (s', l) =>
      if bits l.pte 63 56 != bits s.parts[p].pcfg 39 32 || (if wr then !bit l.pte 2 else !bit l.pte 1) then none
      else match s'.leafPlace p l va with
        | .ok (.dev k) => some (s', k)
        | .ok (.unc k) => some (s', k)
        | _ => none

/-- Poison in n bytes from an address or key on: 0x7FFFFBAD in each 32-bit lane (R382, R389). -/
def poisonAt (a n : Nat) : Nat := packNat 8 ((keysFrom a n).map fun k => 0x7FFFFBAD / 2 ^ (8 * (k % 4)) % 256)

/-- n bytes from a key on as they stand at home; of the CXL tier, poison in the lanes of a line that returns it or whose device is lost (R382). -/
def State.homeRead (s : State) (key n : Nat) : Nat :=
  let bad (k : Nat) : Bool := s.cxlLost k || s.dev.cxlPoison.contains ((k - cxlKey 0) / 64)
  let byte (k : Nat) : Nat := if bad k then poisonAt k 1 else (s.mem.get k).toNat
  if key < cxlKey 0 || shmKey 0 ≤ key then s.mem.read key n else packNat 8 ((keysFrom key n).map byte)

/-- Memory after a write of n bytes at home by a unit of partition p; for a lost CXL device it is dropped and counted (R382). -/
def State.homeStore (s : State) (p : Fin 16) (key n : Nat) (m : Mem) : State :=
  if s.cxlLost key then s.dropped p 1 else s.homeDone (keysFrom key n) m

/-- n bytes read by a unit, at most two pages of them. -/
def State.unitRead (s : State) (p : Fin 16) (d : Fin 4) (va n : Nat) : Option (State × Nat) :=
  let one (s : State) (va n : Nat) : Option (State × Nat) := (s.unitPlace p d false va n false).map fun x => (x.1, x.1.homeRead x.2 n)
  let k := 4096 - va % 4096
  if n ≤ k then one s va n
  else match one s va k with
    | none => none
    | some (s, lo) => (one s (va + k) (n - k)).map fun x => (x.1, lo + x.2 * 2 ^ (8 * k))

/-- n bytes written by a unit. -/
def State.unitWrite (s : State) (p : Fin 16) (d : Fin 4) (va n v : Nat) : Option State :=
  let one (s : State) (va n v : Nat) : Option State :=
    (s.unitPlace p d false va n true).map fun x => x.1.homeStore p x.2 n (x.1.mem.write x.2 n v)
  let k := 4096 - va % 4096
  if n ≤ k then one s va n v
  else match one s va k v with
    | none => none
    | some s => one s (va + k) (n - k) (v / 2 ^ (8 * k))

/-- The walks a unit of partition p on die d makes for n bytes it only looks at: A is set and the leaves are entered (R371). -/
def State.touch (s : State) (p : Fin 16) (d : Fin 4) (va n : Nat) : State :=
  let one (s : State) (va : Nat) : State :=
    if 2 ^ 57 ≤ va || va / 2 ^ 48 == 0x1FF then s else match s.translate p d va false with
      | some (t, _) => t
      | none => s
  if va / 4096 = (va + n - 1) / 4096 then one s va else one (one s va) (va + n - 1)

/-- The die whose walker a partition's units use: that of its first frond. -/
def Part.die (p : Part) : Fin 4 := ⟨p.start / 256 % 4, by omega⟩

/-! ## Asynchronous reports (R199) -/

/-- tcause as R194 lays it out. -/
def tcauseOf (async : Bool) (sub code : Nat) : Word := BitVec.ofNat 64 (async.toNat * 2 ^ 63 + sub % 256 * 256 + code)

/-- A report pending for a firing; a seventeenth is dropped and noted. -/
def Firing.report (f : Firing) (c : Nat) (val : Word) (own : Bool) : Firing :=
  if f.reports.length < 16 then { f with reports := f.reports ++ [{ tc := tcauseOf true 0 c, val := val, own := own }] }
  else { f with replost := true }

/-- The oldest report the firing may take now: any while INTRAP is 0, only the handler's own engine faults while it is 1 (R199), also at a RETIRE
or PHASE (log 73). -/
def Firing.reportDue (f : Firing) : Option Report := if f.intrap then f.reports.find? fun r => r.own else f.reports.head?

/-- A remote access completed with poison: REMERR is set, and with REMEN a report follows when it was clear (R196, R199, R389). -/
def Firing.poisoned (f : Firing) (pkg : Nat) : Firing :=
  if bit f.fstat 2 then f
  else
    let g := { f with fstat := setBit f.fstat 2 true }
    if bit f.fstat 3 then g.report 13 (BitVec.ofNat 64 pkg) false else g

/-- The poison word in each 32-bit lane of n bytes (R389). -/
def poison (n : Nat) : Nat := 0x7FFFFBAD7FFFFBAD % 2 ^ (8 * n)

/-! ## Taking a trap and returning from one (R193 to R198, R208) -/

/-- Code of a cause (R193). -/
def Cause.code : Cause → Nat
  | .ill => 1 | .regrange => 2 | .align => 3 | .page => 4 | .prot => 5 | .winrefuse => 6 | .rangelock => 7 | .fewait => 8
  | .qstall => 9 | .tilecfg => 10 | .fmtmis => 11 | .shard => 12 | .remerr => 13 | .boundrate => 14 | .gangbreak => 15
  | .engfault => 16 | .swtrap => 17 | .priv => 18 | .logfull => 19 | .preempt => 20 | .machine => 21

/-- The causes delivered to a firing's own handler (R193). -/
def Cause.user : Cause → Bool
  | .page | .priv | .logfull | .preempt | .machine => false
  | _ => true

/-- Range-lock entries of an owner released (R190). -/
def State.unlock (s : State) (h : Fin 1024) (o : LockOwner) : State :=
  s.onFrond h fun x => { x with locks := x.locks.filter fun l => l.own != o }

/-- An address of 57 bits (R24). -/
def pc57 (w : Word) : Word := (w.setWidth 57).setWidth 64

/-- The pc after an instruction ends at the next one: inside a REP frame the frame decides (R104). -/
def Firing.advance (f : Firing) : Firing :=
  let g := { f with wait := none, granted := false, aged := false }
  if f.repact then
    let i := f.repi
    let j := f.repj
    let len := (f.repw.extractLsb' 28 4).toNat
    let count := (f.repw.extractLsb' 22 6).toNat
    if i < len then { g with fstat := setBits f.fstat 22 19 (i + 1), pc := pc57 (f.repf + BitVec.ofNat 64 (4 * (i + 1))) }
    else if j < count then { g with fstat := setBits (setBits f.fstat 22 19 0) 18 13 (j + 1), pc := f.repf }
    else { g.clrRep with pc := pc57 (f.repf + BitVec.ofNat 64 (4 * (len + 1))) }
  else { g with pc := f.pc + 4 }

/-- What a member of a gang has done at an instruction others still wait in, noted for the gang's break (R109). -/
def State.noteUndo (s : State) (n : Nat) (u : Undo) : State :=
  { s with gangs := s.gangs.map fun g => if g.members.contains n then { g with undo := u :: g.undo } else g }

/-- The waiters of semaphore n of frond h served in arrival order while the oldest can be (R121). -/
def State.serveSem (s : State) (h : Fin 1024) (n : Fin 16) : Nat → State
  | 0 => s
  | k + 1 =>
    match s.fronds[h].hsq.find? fun w => w.n == n.val with
    | none => s
    | some w =>
      let c := s.fronds[h].hs[n].toNat
      if w.amt ≤ c then
        let s := s.onFrond h fun f => { f with hs := f.hs.set n (BitVec.ofNat 16 (c - w.amt)), hsq := f.hsq.erase w }
        ((s.noteUndo w.adm (.sem h n w.amt)).onFiring w.adm fun f => (f.wx w.rd (BitVec.ofNat 64 (c - w.amt))).advance).serveSem h n k
      else s

/-- The semaphore waiters of a frond served, after one of them has left its queue (R121). -/
def State.serveSems (s : State) (h : Fin 1024) : State :=
  (List.finRange 16).foldl (fun s n => s.serveSem h n s.fronds[h].hsq.length) s

/-- An event that a wait of firing n asked for and that is idle once the wait is given up: markers, a resend, a turn at the range-lock table. -/
def Ev.waitOf (e : Ev) (n : Nat) : Bool := e.a == n && (e.op == .markerAcknowledged || e.op == .feResend || e.op == .rangelockRegister)

/-- A firing's waits withdrawn: its places in a retry list and at a semaphore, whose next waiters are served, and a channel only taken, given
up (R121, R150, R198). -/
def State.withdraw (s : State) (n : Nat) : State :=
  match s.firing? n with
  | none => s
  | some f =>
    let waits := s.fronds[f.frond].hsq.any fun w => w.adm == n
    let t := (({ s.unlock f.frond (.gather n 0) with
        retry := s.retry.filter fun w => w.adm != n, agenda := s.agenda.filter fun e => !e.waitOf n }).onFrond f.frond fun x =>
      { x with
        hsq := x.hsq.filter fun w => w.adm != n
        chans := x.chans.map fun (c : Option Copy) => match c with
          | some y => if y.adm == n && !y.live then none else some y
          | none => none }).onFiring n fun g =>
      { g with wait := none, granted := false, aged := false, pends := [], late := none, data := [], repbuf := [] }
    if waits then t.serveSems f.frond else t

/-- Entry to the handler at utvec (R197), with tcause given whole. -/
def Firing.enterHandler (f : Firing) (tc val tpc : Word) : Firing :=
  { f with
    tcause := tc, tval := val, tpc := tpc, tstat := f.fstat
    trepw := if f.repact then BitVec.setWidth 64 f.repw else 0
    trepf := if f.repact then f.repf else 0
    tfmt := if f.fpend then BitVec.setWidth 64 f.pfx else 0
    fstat := setBit (setBits (setBit f.fstat 0 false) 23 13 0) 4 true
    pc := f.utvec &&& ~~~3#64 }

/-- The trap record of a supervisor-delivered trap (R198). -/
def Firing.trapRecord (f : Firing) (tc val tpc : Word) : List Word :=
  [f.tid, f.fid, BitVec.ofNat 64 (f.intrap.toNat * 2 ^ 63 + f.core.val * 65536 + bits tc 15 0), val, tpc, f.fstat, 0, 0]

/-- A firing stopped for the supervisor (R198): its record is appended, or it waits for a slot of a full ring. -/
def State.stopFor (s : State) (tc val tpc : Word) : State :=
  let f := s.fir
  let recd := f.trapRecord tc val tpc
  let g : Firing := if f.intrap then f else { f with tcause := tc, tval := val, tpc := tpc }
  if s.part.ringFull || !s.part.held.isEmpty then
    { s with fir := { g with pc := tpc, run := .stopped none recd } }.push .trapRecordAppend f.adm 0 0 0
  else
    let seq := bits s.part.trtail 31 0
    let s' := s.ringPut f.part recd
    { s' with fir := { g with pc := tpc, run := .stopped (some seq) recd } }

/-- A trap delivered to the acting firing, tcause given whole: to its handler, or to the supervisor (R193). -/
def State.deliver (s : State) (user : Bool) (tc val tpc : Word) : State :=
  let s := s.withdraw s.fir.adm
  let s := { s with traps := s.traps + 1 }
  if user && s.fir.utvec != 0 && !s.fir.intrap then s.upd fun f => f.enterHandler tc val tpc
  else s.stopFor tc val tpc

/-- A trap taken by the acting firing (R193). A trap raised by TRET goes to the supervisor. -/
def State.takeTrap (s : State) (async fromTret : Bool) (t : Trap) (tpc : Word) : State :=
  s.deliver (t.c.user && !fromTret) (tcauseOf async t.sub t.c.code) t.val tpc

/-- The return from a trap, after its checks (R208). F is an instruction address, as the pc is (R23; log 11). -/
def Firing.tretTo (f : Firing) : Firing :=
  { f with
    fstat := setBit (setBits (setBits f.fstat 1 0 (bits f.tstat 1 0)) 23 13 (bits f.tstat 23 13)) 4 false
    repw := f.trepw.setWidth 32, repf := f.trepf &&& 0x01FFFFFFFFFFFFFC, repbuf := [], pfx := f.tfmt.setWidth 32
    pc := f.tpc &&& ~~~3#64 }

/-! ## Operands and the order of checks (R33 to R39) -/

/-- Kinds of registers that have an allocation, and masks, which have none. -/
inductive RegKind where
  | x | v | k | m | a | b
  deriving DecidableEq, Repr

/-- A register operand: kind, first number, how many registers the group holds, whether it is a destination (R35). -/
structure Opnd where
  kind : RegKind
  n : Nat
  len : Nat
  dst : Bool
  deriving DecidableEq, Repr

/-- What the checks need of an instruction: its word, its operands with the destination first and the sources in assembly order,
and whether the word keeps the rules that depend on the word alone. -/
structure Desc where
  word : BitVec 32
  ops : List Opnd
  ok : Bool
  deriving DecidableEq, Repr

/-- The size of a firing's allocation of a kind (R76); all eight masks exist. -/
def Firing.limit (f : Firing) : RegKind → Nat
  | .x => f.dem.xregs
  | .v => f.dem.vregs
  | .k => 8
  | .m => f.dem.tiles
  | .a => f.dem.accs
  | .b => f.dem.btiles

/-- The first register number outside the allocation, in field order (R33, R39 item 3). -/
def Firing.outside (f : Firing) : List Opnd → Option Nat
  | [] => none
  | o :: os =>
    if o.n + o.len ≤ f.limit o.kind then f.outside os else some (max o.n (f.limit o.kind))

/-- An accumulator or bit tile named on a stage core (R33). -/
def stageIll (f : Firing) (ops : List Opnd) : Bool := f.stage && ops.any fun o => o.kind == .a || o.kind == .b

/-- A trap taken at the acting firing's instruction. An ILL of the capture rule cancels the frame before this (R104). -/
def State.trapHere (s : State) (t : Trap) : State := s.takeTrap false false t s.fir.pc

/-- The end of an instruction: its effect on the state s it began in. -/
def finish (s : State) : Except Stop Done → Host.Outcome State Fault Refusal
  | .ok (.done t) => .next (t.upd Firing.advance)
  | .ok (.jump t pc) => .next (t.upd fun f => { f with pc := pc, wait := none, granted := false, aged := false })
  | .ok (.stay t) => .next t
  | .ok (.after t tr) => let u := t.upd Firing.advance; .next (u.takeTrap false false tr u.fir.pc)
  | .error (.trap t) => .next (s.trapHere t)
  | .error (.trapIn s' t) => .next (s'.trapHere t)
  | .error (.wait s' w) => .next (s'.upd fun f => { f with wait := some w, aged := false })

/-- A firing that can execute: live and not stopped for the supervisor (R71, R198). -/
def Firing.active (f : Firing) : Bool := f.live && f.run == .running

/-- The checks of R39 in their order, then the instruction's own part. pfx: the instruction takes a format prefix. ill: the ILL
conditions that depend on the firing. priv: the PRIV condition. With no firing to execute it nothing happens. -/
def issue (d : Desc) (pfx : Bool) (ill priv : State → Bool) (body : State → Except Stop Done) (s : State) :
    Host.Outcome State Fault Refusal :=
  if !s.fir.active then .next s
  else if !d.ok || (s.fir.fpend && !pfx) || stageIll s.fir d.ops || ill s then
    .next (s.trapHere { c := .ill, sub := 0, val := BitVec.setWidth 64 d.word })
  else if priv s then .next (s.trapHere { c := .priv, sub := 0, val := BitVec.setWidth 64 d.word })
  else match s.fir.outside d.ops with
    | some n => .next (s.trapHere { c := .regrange, sub := 0, val := BitVec.ofNat 64 n })
    | none => finish s (body s)

/-- A condition that never holds. -/
def never (_ : State) : Bool := false

/-- An instruction with no conditions of its own before its operands. -/
def plain (d : Desc) (body : State → Except Stop Done) (s : State) : Host.Outcome State Fault Refusal :=
  issue d false never never body s

/-- An ILL that depends on the contents of a register, or a trap of the word (R39 item 4). -/
def Desc.illWord {α : Type} (d : Desc) : Except Stop α := raise .ill (BitVec.setWidth 64 d.word)

end Sys2Proof.Machine
end

