-- ==== Sys2Proof/Machine/Operands.lean ====
section
/-! DEFINITION. What each instruction word names: its register operands, the rules its fields must keep whatever the firing (R33, R35,
R37 and the chapter of the instruction), and how a REP frame renumbers it (R29). -/

namespace Sys2Proof.Machine

/-- Integer types of FCVT (R134). -/
def isIntXT : XT → Bool
  | .i32 | .n32 | .i64 | .n64 => true
  | _ => false

/-- 64-bit element types (R220). -/
def is64 : ElemTy → Bool
  | .i64 | .n64 | .f64 => true
  | _ => false

/-- An even register number (R35). -/
def evenReg (d : BitVec 6) : Bool := d.toNat % 2 == 0

/-- A CSR number that is assigned, or a supervisor number (R210, R211). -/
def csrKnown (c : BitVec 11) : Bool :=
  let n := c.toNat
  decide (n ≤ 6) || (decide (8 ≤ n) && decide (n ≤ 0xB)) || (decide (0x10 ≤ n) && decide (n ≤ 0x19))
    || (decide (0x20 ≤ n) && decide (n ≤ 0x27)) || (decide (0x30 ≤ n) && decide (n ≤ 0x32)) || n == 0x40
    || (decide (0x48 ≤ n) && decide (n ≤ 0x4F)) || decide (0x400 ≤ n)

/-- The read-only CSRs (R211). -/
def csrRo (c : BitVec 11) : Bool := decide (c.toNat ≤ 6)

/-- A register group of R35: any vector, tile, accumulator or bit tile, and a pair of scalars; a lone scalar and a mask are none. -/
def Opnd.isGroup (o : Opnd) : Bool := match o.kind with
  | .x => decide (2 ≤ o.len)
  | .k => false
  | _ => true

/-- Two groups share a register. -/
def Opnd.meets (o p : Opnd) : Bool :=
  o.kind == p.kind && o.isGroup && p.isGroup && decide (o.n < p.n + p.len) && decide (p.n < o.n + o.len)

/-- Two groups are the same. -/
def Opnd.same (o p : Opnd) : Bool := o.kind == p.kind && o.n == p.n && o.len == p.len

/-- The overlap rule (R35): destinations apart from each other; a destination and a source apart, or the same in an element-wise
instruction. -/
def overlapOk (elementwise : Bool) (ops : List Opnd) : Bool :=
  let dst := ops.filter (·.dst)
  let src := ops.filter fun o => !o.dst
  (dst.all fun d => src.all fun s => !d.meets s || (elementwise && d.same s)) && apart dst
where
  apart : List Opnd → Bool
    | [] => true
    | d :: ds => (ds.all fun e => !d.meets e) && apart ds

/-- What the checks need of BTPOPR (R318). -/
def descBtpopr (d : BitVec 5) (s : BitVec 3) : Desc :=
  let ops : List Opnd := [⟨.v, d.toNat, 1, true⟩, ⟨.b, s.toNat, 1, false⟩]
  { word := wordBtpopr d s, ops := ops, ok := true && overlapOk false ops }

/-- What the checks need of BTPOPC (R318). -/
def descBtpopc (d : BitVec 5) (s : BitVec 3) : Desc :=
  let ops : List Opnd := [⟨.v, d.toNat, 1, true⟩, ⟨.b, s.toNat, 1, false⟩]
  { word := wordBtpopc d s, ops := ops, ok := true && overlapOk false ops }

/-- What the checks need of BTCLO (R319). -/
def descBtclo (d : BitVec 3) (s : BitVec 3) (r : Bool) : Desc :=
  let ops : List Opnd := [⟨.b, d.toNat, 1, true⟩, ⟨.b, s.toNat, 1, false⟩]
  { word := wordBtclo d s r, ops := ops, ok := true && overlapOk false ops }

/-- What the checks need of BTCOMP (R319). -/
def descBtcomp (d : BitVec 3) (a : BitVec 3) (b : BitVec 3) : Desc :=
  let ops : List Opnd := [⟨.b, d.toNat, 1, true⟩, ⟨.b, a.toNat, 1, false⟩, ⟨.b, b.toNat, 1, false⟩]
  { word := wordBtcomp d a b, ops := ops, ok := true && overlapOk false ops }

/-- What the checks need of BTTR (R319). -/
def descBttr (d : BitVec 3) (s : BitVec 3) : Desc :=
  let ops : List Opnd := [⟨.b, d.toNat, 1, true⟩, ⟨.b, s.toNat, 1, false⟩]
  { word := wordBttr d s, ops := ops, ok := true && overlapOk false ops }

/-- What the checks need of BTAND (R320). -/
def descBtand (d : BitVec 3) (a : BitVec 3) (b : BitVec 3) : Desc :=
  let ops : List Opnd := [⟨.b, d.toNat, 1, true⟩, ⟨.b, a.toNat, 1, false⟩, ⟨.b, b.toNat, 1, false⟩]
  { word := wordBtand d a b, ops := ops, ok := true && overlapOk true ops }

/-- What the checks need of BTOR (R320). -/
def descBtor (d : BitVec 3) (a : BitVec 3) (b : BitVec 3) : Desc :=
  let ops : List Opnd := [⟨.b, d.toNat, 1, true⟩, ⟨.b, a.toNat, 1, false⟩, ⟨.b, b.toNat, 1, false⟩]
  { word := wordBtor d a b, ops := ops, ok := true && overlapOk true ops }

/-- What the checks need of BTXOR (R320). -/
def descBtxor (d : BitVec 3) (a : BitVec 3) (b : BitVec 3) : Desc :=
  let ops : List Opnd := [⟨.b, d.toNat, 1, true⟩, ⟨.b, a.toNat, 1, false⟩, ⟨.b, b.toNat, 1, false⟩]
  { word := wordBtxor d a b, ops := ops, ok := true && overlapOk true ops }

/-- What the checks need of BTANDN (R320). -/
def descBtandn (d : BitVec 3) (a : BitVec 3) (b : BitVec 3) : Desc :=
  let ops : List Opnd := [⟨.b, d.toNat, 1, true⟩, ⟨.b, a.toNat, 1, false⟩, ⟨.b, b.toNat, 1, false⟩]
  { word := wordBtandn d a b, ops := ops, ok := true && overlapOk true ops }

/-- What the checks need of BTNOT (R320). -/
def descBtnot (d : BitVec 3) (s : BitVec 3) : Desc :=
  let ops : List Opnd := [⟨.b, d.toNat, 1, true⟩, ⟨.b, s.toNat, 1, false⟩]
  { word := wordBtnot d s, ops := ops, ok := true && overlapOk true ops }

/-- What the checks need of BTROWK (R317). -/
def descBtrowk (d : BitVec 3) (s : BitVec 3) (i : BitVec 6) : Desc :=
  let ops : List Opnd := [⟨.k, d.toNat, 1, true⟩, ⟨.b, s.toNat, 1, false⟩, ⟨.x, i.toNat, 1, false⟩]
  { word := wordBtrowk d s i, ops := ops, ok := true && overlapOk false ops }

/-- What the checks need of BTCOLK (R317). -/
def descBtcolk (d : BitVec 3) (s : BitVec 3) (i : BitVec 6) : Desc :=
  let ops : List Opnd := [⟨.k, d.toNat, 1, true⟩, ⟨.b, s.toNat, 1, false⟩, ⟨.x, i.toNat, 1, false⟩]
  { word := wordBtcolk d s i, ops := ops, ok := true && overlapOk false ops }

/-- What the checks need of BTKROW (R321). -/
def descBtkrow (d : BitVec 3) (s : BitVec 3) (i : BitVec 6) : Desc :=
  let ops : List Opnd := [⟨.b, d.toNat, 1, true⟩, ⟨.k, s.toNat, 1, false⟩, ⟨.x, i.toNat, 1, false⟩]
  { word := wordBtkrow d s i, ops := ops, ok := true && overlapOk false ops }

/-- What the checks need of BTKCOL (R321). -/
def descBtkcol (d : BitVec 3) (s : BitVec 3) (i : BitVec 6) : Desc :=
  let ops : List Opnd := [⟨.b, d.toNat, 1, true⟩, ⟨.k, s.toNat, 1, false⟩, ⟨.x, i.toNat, 1, false⟩]
  { word := wordBtkcol d s i, ops := ops, ok := true && overlapOk false ops }

/-- What the checks need of BTLD (R322). -/
def descBtld (d : BitVec 3) (s : BitVec 6) : Desc :=
  let ops : List Opnd := [⟨.b, d.toNat, 1, true⟩, ⟨.x, s.toNat, 1, false⟩]
  { word := wordBtld d s, ops := ops, ok := true && overlapOk false ops }

/-- What the checks need of BTST (R322). -/
def descBtst (s : BitVec 6) (b : BitVec 3) : Desc :=
  let ops : List Opnd := [⟨.x, s.toNat, 1, false⟩, ⟨.b, b.toNat, 1, false⟩]
  { word := wordBtst s b, ops := ops, ok := true && overlapOk false ops }

/-- What the checks need of SINIT (R350). -/
def descSinit (a : BitVec 6) : Desc :=
  let ops : List Opnd := [⟨.x, a.toNat, 1, false⟩]
  { word := wordSinit a, ops := ops, ok := true && overlapOk false ops }

/-- What the checks need of RATE (R351). -/
def descRate (a : BitVec 6) (b : BitVec 6) : Desc :=
  let ops : List Opnd := [⟨.x, a.toNat, 1, false⟩, ⟨.x, b.toNat, 1, false⟩]
  { word := wordRate a b, ops := ops, ok := true && overlapOk false ops }

/-- What the checks need of RATEA (R351). -/
def descRatea (a : BitVec 6) (b : BitVec 6) : Desc :=
  let ops : List Opnd := [⟨.x, a.toNat, 1, false⟩, ⟨.x, b.toNat, 1, false⟩]
  { word := wordRatea a b, ops := ops, ok := true && overlapOk false ops }

/-- What the checks need of NEXTEV (R353). -/
def descNextev (d : BitVec 6) (a : BitVec 6) : Desc :=
  let ops : List Opnd := [⟨.x, d.toNat, 2, true⟩, ⟨.x, a.toNat, (if a = 0 then 1 else 2), false⟩]
  { word := wordNextev d a, ops := ops, ok := evenReg d && a != 63 && overlapOk false ops }

/-- What the checks need of SWRD (R362). -/
def descSwrd (d : BitVec 6) (a : BitVec 6) (s : BitVec 6) : Desc :=
  let ops : List Opnd := [⟨.x, d.toNat, 1, true⟩, ⟨.x, a.toNat, 1, false⟩]
  { word := wordSwrd d a s, ops := ops, ok := decide (s.toNat ≤ 8) && overlapOk false ops }

/-- What the checks need of SCLK (R362). -/
def descSclk (d : BitVec 6) : Desc :=
  let ops : List Opnd := [⟨.x, d.toNat, 2, true⟩]
  { word := wordSclk d, ops := ops, ok := evenReg d && overlapOk false ops }

/-- What the checks need of BINIT (R354). -/
def descBinit (a : BitVec 6) : Desc :=
  let ops : List Opnd := [⟨.x, a.toNat, 1, false⟩]
  { word := wordBinit a, ops := ops, ok := true && overlapOk false ops }

/-- What the checks need of BDEC (R356). -/
def descBdec (d : BitVec 6) (a : BitVec 6) : Desc :=
  let ops : List Opnd := [⟨.x, d.toNat, 1, true⟩, ⟨.x, a.toNat, 1, false⟩]
  { word := wordBdec d a, ops := ops, ok := true && overlapOk false ops }

/-- What the checks need of BRECV (R358). -/
def descBrecv (d : BitVec 6) (a : BitVec 6) : Desc :=
  let ops : List Opnd := [⟨.x, d.toNat, 1, true⟩, ⟨.x, a.toNat, 1, false⟩]
  { word := wordBrecv d a, ops := ops, ok := true && overlapOk false ops }

/-- What the checks need of HINT (R38). -/
def descHint (h : BitVec 25) : Desc :=
  let ops : List Opnd := []
  { word := wordHint h, ops := ops, ok := h != BitVec.allOnes 25 && overlapOk false ops }

/-- The register operands, destinations first, then the sources in assembly order (R33). -/
def opsOf : Instr → List Opnd
  | .add d a b => [⟨.x, d.toNat, 1, true⟩, ⟨.x, a.toNat, 1, false⟩, ⟨.x, b.toNat, 1, false⟩]
  | .sub d a b => [⟨.x, d.toNat, 1, true⟩, ⟨.x, a.toNat, 1, false⟩, ⟨.x, b.toNat, 1, false⟩]
  | .and d a b => [⟨.x, d.toNat, 1, true⟩, ⟨.x, a.toNat, 1, false⟩, ⟨.x, b.toNat, 1, false⟩]
  | .or d a b => [⟨.x, d.toNat, 1, true⟩, ⟨.x, a.toNat, 1, false⟩, ⟨.x, b.toNat, 1, false⟩]
  | .xor d a b => [⟨.x, d.toNat, 1, true⟩, ⟨.x, a.toNat, 1, false⟩, ⟨.x, b.toNat, 1, false⟩]
  | .andn d a b => [⟨.x, d.toNat, 1, true⟩, ⟨.x, a.toNat, 1, false⟩, ⟨.x, b.toNat, 1, false⟩]
  | .sll d a b => [⟨.x, d.toNat, 1, true⟩, ⟨.x, a.toNat, 1, false⟩, ⟨.x, b.toNat, 1, false⟩]
  | .srl d a b => [⟨.x, d.toNat, 1, true⟩, ⟨.x, a.toNat, 1, false⟩, ⟨.x, b.toNat, 1, false⟩]
  | .sra d a b => [⟨.x, d.toNat, 1, true⟩, ⟨.x, a.toNat, 1, false⟩, ⟨.x, b.toNat, 1, false⟩]
  | .slt d a b => [⟨.x, d.toNat, 1, true⟩, ⟨.x, a.toNat, 1, false⟩, ⟨.x, b.toNat, 1, false⟩]
  | .sltu d a b => [⟨.x, d.toNat, 1, true⟩, ⟨.x, a.toNat, 1, false⟩, ⟨.x, b.toNat, 1, false⟩]
  | .min d a b => [⟨.x, d.toNat, 1, true⟩, ⟨.x, a.toNat, 1, false⟩, ⟨.x, b.toNat, 1, false⟩]
  | .max d a b => [⟨.x, d.toNat, 1, true⟩, ⟨.x, a.toNat, 1, false⟩, ⟨.x, b.toNat, 1, false⟩]
  | .minu d a b => [⟨.x, d.toNat, 1, true⟩, ⟨.x, a.toNat, 1, false⟩, ⟨.x, b.toNat, 1, false⟩]
  | .maxu d a b => [⟨.x, d.toNat, 1, true⟩, ⟨.x, a.toNat, 1, false⟩, ⟨.x, b.toNat, 1, false⟩]
  | .clz d a => [⟨.x, d.toNat, 1, true⟩, ⟨.x, a.toNat, 1, false⟩]
  | .ctz d a => [⟨.x, d.toNat, 1, true⟩, ⟨.x, a.toNat, 1, false⟩]
  | .popc d a => [⟨.x, d.toNat, 1, true⟩, ⟨.x, a.toNat, 1, false⟩]
  | .rol d a b => [⟨.x, d.toNat, 1, true⟩, ⟨.x, a.toNat, 1, false⟩, ⟨.x, b.toNat, 1, false⟩]
  | .ror d a b => [⟨.x, d.toNat, 1, true⟩, ⟨.x, a.toNat, 1, false⟩, ⟨.x, b.toNat, 1, false⟩]
  | .addi d a _ => [⟨.x, d.toNat, 1, true⟩, ⟨.x, a.toNat, 1, false⟩]
  | .andi d a _ => [⟨.x, d.toNat, 1, true⟩, ⟨.x, a.toNat, 1, false⟩]
  | .ori d a _ => [⟨.x, d.toNat, 1, true⟩, ⟨.x, a.toNat, 1, false⟩]
  | .xori d a _ => [⟨.x, d.toNat, 1, true⟩, ⟨.x, a.toNat, 1, false⟩]
  | .slli d a _ => [⟨.x, d.toNat, 1, true⟩, ⟨.x, a.toNat, 1, false⟩]
  | .srli d a _ => [⟨.x, d.toNat, 1, true⟩, ⟨.x, a.toNat, 1, false⟩]
  | .srai d a _ => [⟨.x, d.toNat, 1, true⟩, ⟨.x, a.toNat, 1, false⟩]
  | .slti d a _ => [⟨.x, d.toNat, 1, true⟩, ⟨.x, a.toNat, 1, false⟩]
  | .sltiu d a _ => [⟨.x, d.toNat, 1, true⟩, ⟨.x, a.toNat, 1, false⟩]
  | .lui d _ => [⟨.x, d.toNat, 1, true⟩]
  | .adrp d _ => [⟨.x, d.toNat, 1, true⟩]
  | .mul d a b => [⟨.x, d.toNat, 1, true⟩, ⟨.x, a.toNat, 1, false⟩, ⟨.x, b.toNat, 1, false⟩]
  | .mulh d a b => [⟨.x, d.toNat, 1, true⟩, ⟨.x, a.toNat, 1, false⟩, ⟨.x, b.toNat, 1, false⟩]
  | .mulhu d a b => [⟨.x, d.toNat, 1, true⟩, ⟨.x, a.toNat, 1, false⟩, ⟨.x, b.toNat, 1, false⟩]
  | .mulhsu d a b => [⟨.x, d.toNat, 1, true⟩, ⟨.x, a.toNat, 1, false⟩, ⟨.x, b.toNat, 1, false⟩]
  | .div d a b => [⟨.x, d.toNat, 1, true⟩, ⟨.x, a.toNat, 1, false⟩, ⟨.x, b.toNat, 1, false⟩]
  | .divu d a b => [⟨.x, d.toNat, 1, true⟩, ⟨.x, a.toNat, 1, false⟩, ⟨.x, b.toNat, 1, false⟩]
  | .rem d a b => [⟨.x, d.toNat, 1, true⟩, ⟨.x, a.toNat, 1, false⟩, ⟨.x, b.toNat, 1, false⟩]
  | .remu d a b => [⟨.x, d.toNat, 1, true⟩, ⟨.x, a.toNat, 1, false⟩, ⟨.x, b.toNat, 1, false⟩]
  | .movxRead d a _ => [⟨.x, d.toNat, 1, true⟩, ⟨.x, a.toNat, 1, false⟩]
  | .movxWrite a _ s => [⟨.x, a.toNat, 1, false⟩, ⟨.x, s.toNat, 1, false⟩]
  | .fadd _ _ d a b => [⟨.x, d.toNat, 1, true⟩, ⟨.x, a.toNat, 1, false⟩, ⟨.x, b.toNat, 1, false⟩]
  | .fsub _ _ d a b => [⟨.x, d.toNat, 1, true⟩, ⟨.x, a.toNat, 1, false⟩, ⟨.x, b.toNat, 1, false⟩]
  | .fmul _ _ d a b => [⟨.x, d.toNat, 1, true⟩, ⟨.x, a.toNat, 1, false⟩, ⟨.x, b.toNat, 1, false⟩]
  | .fdiv _ _ d a b => [⟨.x, d.toNat, 1, true⟩, ⟨.x, a.toNat, 1, false⟩, ⟨.x, b.toNat, 1, false⟩]
  | .fsqrt _ _ d a => [⟨.x, d.toNat, 1, true⟩, ⟨.x, a.toNat, 1, false⟩]
  | .fcvt _ _ d a _ _ => [⟨.x, d.toNat, 1, true⟩, ⟨.x, a.toNat, 1, false⟩]
  | .fmin _ d a b => [⟨.x, d.toNat, 1, true⟩, ⟨.x, a.toNat, 1, false⟩, ⟨.x, b.toNat, 1, false⟩]
  | .fmax _ d a b => [⟨.x, d.toNat, 1, true⟩, ⟨.x, a.toNat, 1, false⟩, ⟨.x, b.toNat, 1, false⟩]
  | .fsgnj _ d a b => [⟨.x, d.toNat, 1, true⟩, ⟨.x, a.toNat, 1, false⟩, ⟨.x, b.toNat, 1, false⟩]
  | .fsgnjn _ d a b => [⟨.x, d.toNat, 1, true⟩, ⟨.x, a.toNat, 1, false⟩, ⟨.x, b.toNat, 1, false⟩]
  | .fsgnjx _ d a b => [⟨.x, d.toNat, 1, true⟩, ⟨.x, a.toNat, 1, false⟩, ⟨.x, b.toNat, 1, false⟩]
  | .feq _ d a b => [⟨.x, d.toNat, 1, true⟩, ⟨.x, a.toNat, 1, false⟩, ⟨.x, b.toNat, 1, false⟩]
  | .flt _ d a b => [⟨.x, d.toNat, 1, true⟩, ⟨.x, a.toNat, 1, false⟩, ⟨.x, b.toNat, 1, false⟩]
  | .fle _ d a b => [⟨.x, d.toNat, 1, true⟩, ⟨.x, a.toNat, 1, false⟩, ⟨.x, b.toNat, 1, false⟩]
  | .fclass _ d a => [⟨.x, d.toNat, 1, true⟩, ⟨.x, a.toNat, 1, false⟩]
  | .fmadd _ _ d a b => [⟨.x, d.toNat, 1, true⟩, ⟨.x, a.toNat, 1, false⟩, ⟨.x, b.toNat, 1, false⟩]
  | .fmsub _ _ d a b => [⟨.x, d.toNat, 1, true⟩, ⟨.x, a.toNat, 1, false⟩, ⟨.x, b.toNat, 1, false⟩]
  | .fnmadd _ _ d a b => [⟨.x, d.toNat, 1, true⟩, ⟨.x, a.toNat, 1, false⟩, ⟨.x, b.toNat, 1, false⟩]
  | .fnmsub _ _ d a b => [⟨.x, d.toNat, 1, true⟩, ⟨.x, a.toNat, 1, false⟩, ⟨.x, b.toNat, 1, false⟩]
  | .sel d a b c => [⟨.x, d.toNat, 1, true⟩, ⟨.x, a.toNat, 1, false⟩, ⟨.x, b.toNat, 1, false⟩, ⟨.x, c.toNat, 1, false⟩]
  | .beq a b _ => [⟨.x, a.toNat, 1, false⟩, ⟨.x, b.toNat, 1, false⟩]
  | .bne a b _ => [⟨.x, a.toNat, 1, false⟩, ⟨.x, b.toNat, 1, false⟩]
  | .blt a b _ => [⟨.x, a.toNat, 1, false⟩, ⟨.x, b.toNat, 1, false⟩]
  | .bge a b _ => [⟨.x, a.toNat, 1, false⟩, ⟨.x, b.toNat, 1, false⟩]
  | .bltu a b _ => [⟨.x, a.toNat, 1, false⟩, ⟨.x, b.toNat, 1, false⟩]
  | .bgeu a b _ => [⟨.x, a.toNat, 1, false⟩, ⟨.x, b.toNat, 1, false⟩]
  | .beqz a _ => [⟨.x, a.toNat, 1, false⟩]
  | .bnez a _ => [⟨.x, a.toNat, 1, false⟩]
  | .jal d _ => [⟨.x, d.toNat, 1, true⟩]
  | .jalr d a _ => [⟨.x, d.toNat, 1, true⟩, ⟨.x, a.toNat, 1, false⟩]
  | .loopn a _ => [⟨.x, a.toNat, 1, true⟩]
  | .rep _ _ _ _ => []
  | .gang _ => []
  | .gangend => []
  | .retire => []
  | .launch d a b => [⟨.x, d.toNat, 1, true⟩, ⟨.x, a.toNat, 1, false⟩, ⟨.x, b.toNat, 1, false⟩]
  | .join d a => [⟨.x, d.toNat, 1, true⟩, ⟨.x, a.toNat, 1, false⟩]
  | .leave a => [⟨.x, a.toNat, 1, false⟩]
  | .phase a => [⟨.x, a.toNat, 1, false⟩]
  | .gbar a => [⟨.x, a.toNat, 1, false⟩]
  | .sget d => [⟨.x, d.toNat, 1, true⟩]
  | .sput => []
  | .hswait d _ b => [⟨.x, d.toNat, 1, true⟩, ⟨.x, b.toNat, 1, false⟩]
  | .hstry d _ b => [⟨.x, d.toNat, 1, true⟩, ⟨.x, b.toNat, 1, false⟩]
  | .hspost _ b => [⟨.x, b.toNat, 1, false⟩]
  | .hsset _ b => [⟨.x, b.toNat, 1, false⟩]
  | .hsrd d _ => [⟨.x, d.toNat, 1, true⟩]
  | .ld _ d a _ => [⟨.x, d.toNat, 1, true⟩, ⟨.x, a.toNat, 1, false⟩]
  | .st _ a _ b => [⟨.x, a.toNat, 1, false⟩, ⟨.x, b.toNat, 1, false⟩]
  | .ldfe _ d a _ => [⟨.x, d.toNat, 1, true⟩, ⟨.x, a.toNat, 1, false⟩]
  | .stfe _ a _ b => [⟨.x, a.toNat, 1, false⟩, ⟨.x, b.toNat, 1, false⟩]
  | .vld _ d x _ => [⟨.v, d.toNat, 1, true⟩, ⟨.x, x.toNat, 1, false⟩]
  | .vlds _ d x s _ => [⟨.v, d.toNat, 1, true⟩, ⟨.x, x.toNat, 1, false⟩, ⟨.x, s.toNat, 1, false⟩]
  | .vst _ x d _ => [⟨.x, x.toNat, 1, false⟩, ⟨.v, d.toNat, 1, false⟩]
  | .vsts _ x d s _ => [⟨.x, x.toNat, 1, false⟩, ⟨.v, d.toNat, 1, false⟩, ⟨.x, s.toNat, 1, false⟩]
  | .vldx _ d b i _ => [⟨.v, d.toNat, 1, true⟩, ⟨.x, b.toNat, 1, false⟩, ⟨.v, i.toNat, 1, false⟩]
  | .vstx _ b i d _ => [⟨.x, b.toNat, 1, false⟩, ⟨.v, i.toNat, 1, false⟩, ⟨.v, d.toNat, 1, false⟩]
  | .ldt _ _ d a b => [⟨.x, d.toNat, 1, true⟩, ⟨.x, a.toNat, 1, false⟩, ⟨.x, b.toNat, 1, false⟩]
  | .vldt _ d a b _ => [⟨.v, d.toNat, 1, true⟩, ⟨.x, a.toNat, 1, false⟩, ⟨.v, b.toNat, 1, false⟩]
  | .stt _ _ a b d => [⟨.x, a.toNat, 1, false⟩, ⟨.x, b.toNat, 1, false⟩, ⟨.x, d.toNat, 1, false⟩]
  | .vstt _ a b d _ => [⟨.x, a.toNat, 1, false⟩, ⟨.v, b.toNat, 1, false⟩, ⟨.v, d.toNat, 1, false⟩]
  | .shinv _ a => [⟨.x, a.toNat, 1, false⟩]
  | .shloc d a b => [⟨.x, d.toNat, 2, true⟩, ⟨.x, a.toNat, 1, false⟩, ⟨.x, b.toNat, 1, false⟩]
  | .rel _ => []
  | .acq _ => []
  | .fence _ => []
  | .amoadd _ d a b => [⟨.x, d.toNat, 1, true⟩, ⟨.x, a.toNat, 1, false⟩, ⟨.x, b.toNat, 1, false⟩]
  | .amoand _ d a b => [⟨.x, d.toNat, 1, true⟩, ⟨.x, a.toNat, 1, false⟩, ⟨.x, b.toNat, 1, false⟩]
  | .amoor _ d a b => [⟨.x, d.toNat, 1, true⟩, ⟨.x, a.toNat, 1, false⟩, ⟨.x, b.toNat, 1, false⟩]
  | .amoxor _ d a b => [⟨.x, d.toNat, 1, true⟩, ⟨.x, a.toNat, 1, false⟩, ⟨.x, b.toNat, 1, false⟩]
  | .amomin _ d a b => [⟨.x, d.toNat, 1, true⟩, ⟨.x, a.toNat, 1, false⟩, ⟨.x, b.toNat, 1, false⟩]
  | .amomax _ d a b => [⟨.x, d.toNat, 1, true⟩, ⟨.x, a.toNat, 1, false⟩, ⟨.x, b.toNat, 1, false⟩]
  | .amominu _ d a b => [⟨.x, d.toNat, 1, true⟩, ⟨.x, a.toNat, 1, false⟩, ⟨.x, b.toNat, 1, false⟩]
  | .amomaxu _ d a b => [⟨.x, d.toNat, 1, true⟩, ⟨.x, a.toNat, 1, false⟩, ⟨.x, b.toNat, 1, false⟩]
  | .amoswp _ d a b => [⟨.x, d.toNat, 1, true⟩, ⟨.x, a.toNat, 1, false⟩, ⟨.x, b.toNat, 1, false⟩]
  | .amocas _ d a b => [⟨.x, d.toNat, 1, true⟩, ⟨.x, a.toNat, 1, false⟩, ⟨.x, b.toNat, 1, false⟩]
  | .amofadd _ d a b => [⟨.x, d.toNat, 1, true⟩, ⟨.x, a.toNat, 1, false⟩, ⟨.x, b.toNat, 1, false⟩]
  | .amofmin _ d a b => [⟨.x, d.toNat, 1, true⟩, ⟨.x, a.toNat, 1, false⟩, ⟨.x, b.toNat, 1, false⟩]
  | .amofmax _ d a b => [⟨.x, d.toNat, 1, true⟩, ⟨.x, a.toNat, 1, false⟩, ⟨.x, b.toNat, 1, false⟩]
  | .xcadd _ a b => [⟨.x, a.toNat, 1, false⟩, ⟨.x, b.toNat, 1, false⟩]
  | .xcrd _ d a => [⟨.x, d.toNat, 1, true⟩, ⟨.x, a.toNat, 1, false⟩]
  | .xcclr a => [⟨.x, a.toNat, 1, false⟩]
  | .xcrdclr _ d a => [⟨.x, d.toNat, 1, true⟩, ⟨.x, a.toNat, 1, false⟩]
  | .vamoadd _ b i d _ => [⟨.x, b.toNat, 1, false⟩, ⟨.v, i.toNat, 1, false⟩, ⟨.v, d.toNat, 1, false⟩]
  | .vamomin _ b i d _ => [⟨.x, b.toNat, 1, false⟩, ⟨.v, i.toNat, 1, false⟩, ⟨.v, d.toNat, 1, false⟩]
  | .vamomax _ b i d _ => [⟨.x, b.toNat, 1, false⟩, ⟨.v, i.toNat, 1, false⟩, ⟨.v, d.toNat, 1, false⟩]
  | .vxcadd _ b i d _ => [⟨.x, b.toNat, 1, false⟩, ⟨.v, i.toNat, 1, false⟩, ⟨.v, d.toNat, 1, false⟩]
  | .vbsum _ b d _ => [⟨.x, b.toNat, 1, false⟩, ⟨.v, d.toNat, 1, false⟩]
  | .qget d _ => [⟨.x, d.toNat, 1, true⟩]
  | .qput _ b => [⟨.x, b.toNat, 1, false⟩]
  | .vqget d _ => [⟨.v, d.toNat, 1, true⟩]
  | .vqput _ b => [⟨.v, b.toNat, 1, false⟩]
  | .qcnt d _ => [⟨.x, d.toNat, 1, true⟩]
  | .send a b p => [⟨.x, a.toNat, 1, false⟩, ⟨.x, b.toNat, 1, false⟩, ⟨.x, p.toNat, 1, false⟩]
  | .sendv a b p => [⟨.v, a.toNat, 1, false⟩, ⟨.x, b.toNat, 1, false⟩, ⟨.x, p.toNat, 1, false⟩]
  | .cwr _ a => [⟨.x, a.toNat, 1, false⟩]
  | .cgo d => [⟨.x, d.toNat, 1, true⟩]
  | .cwp d a => [⟨.x, d.toNat, 1, true⟩, ⟨.x, a.toNat, 1, false⟩]
  | .crd _ d => [⟨.x, d.toNat, 1, true⟩]
  | .txinit a b => [⟨.x, a.toNat, 1, false⟩, ⟨.x, b.toNat, 1, false⟩]
  | .txarr d a => [⟨.x, d.toNat, 1, true⟩, ⟨.x, a.toNat, 1, false⟩]
  | .txexp a b => [⟨.x, a.toNat, 1, false⟩, ⟨.x, b.toNat, 1, false⟩]
  | .txwait a b => [⟨.x, a.toNat, 1, false⟩, ⟨.x, b.toNat, 1, false⟩]
  | .txtry d a b => [⟨.x, d.toNat, 1, true⟩, ⟨.x, a.toNat, 1, false⟩, ⟨.x, b.toNat, 1, false⟩]
  | .dqpush d b => [⟨.x, d.toNat, 1, true⟩, ⟨.x, b.toNat, 1, false⟩]
  | .dqpop d => [⟨.x, d.toNat, 2, true⟩]
  | .dqsteal d a => [⟨.x, d.toNat, 2, true⟩, ⟨.x, a.toNat, 1, false⟩]
  | .vadd _ d a b _ => [⟨.v, d.toNat, 1, true⟩, ⟨.v, a.toNat, 1, false⟩, ⟨.v, b.toNat, 1, false⟩]
  | .vsub _ d a b _ => [⟨.v, d.toNat, 1, true⟩, ⟨.v, a.toNat, 1, false⟩, ⟨.v, b.toNat, 1, false⟩]
  | .vmul _ d a b _ => [⟨.v, d.toNat, 1, true⟩, ⟨.v, a.toNat, 1, false⟩, ⟨.v, b.toNat, 1, false⟩]
  | .vdiv _ d a b _ => [⟨.v, d.toNat, 1, true⟩, ⟨.v, a.toNat, 1, false⟩, ⟨.v, b.toNat, 1, false⟩]
  | .vmin _ d a b _ => [⟨.v, d.toNat, 1, true⟩, ⟨.v, a.toNat, 1, false⟩, ⟨.v, b.toNat, 1, false⟩]
  | .vmax _ d a b _ => [⟨.v, d.toNat, 1, true⟩, ⟨.v, a.toNat, 1, false⟩, ⟨.v, b.toNat, 1, false⟩]
  | .vabs _ d a _ => [⟨.v, d.toNat, 1, true⟩, ⟨.v, a.toNat, 1, false⟩]
  | .vneg _ d a _ => [⟨.v, d.toNat, 1, true⟩, ⟨.v, a.toNat, 1, false⟩]
  | .vsgnj _ d a b _ => [⟨.v, d.toNat, 1, true⟩, ⟨.v, a.toNat, 1, false⟩, ⟨.v, b.toNat, 1, false⟩]
  | .vfmadd d a b c _ => [⟨.v, d.toNat, 1, true⟩, ⟨.v, a.toNat, 1, false⟩, ⟨.v, b.toNat, 1, false⟩, ⟨.v, c.toNat, 1, false⟩]
  | .vfmsub d a b c _ => [⟨.v, d.toNat, 1, true⟩, ⟨.v, a.toNat, 1, false⟩, ⟨.v, b.toNat, 1, false⟩, ⟨.v, c.toNat, 1, false⟩]
  | .vfnmadd d a b c _ => [⟨.v, d.toNat, 1, true⟩, ⟨.v, a.toNat, 1, false⟩, ⟨.v, b.toNat, 1, false⟩, ⟨.v, c.toNat, 1, false⟩]
  | .vfnmsub d a b c _ => [⟨.v, d.toNat, 1, true⟩, ⟨.v, a.toNat, 1, false⟩, ⟨.v, b.toNat, 1, false⟩, ⟨.v, c.toNat, 1, false⟩]
  | .vaddx _ d b x _ => [⟨.v, d.toNat, 1, true⟩, ⟨.v, b.toNat, 1, false⟩, ⟨.x, x.toNat, 1, false⟩]
  | .vsubx _ d b x _ => [⟨.v, d.toNat, 1, true⟩, ⟨.v, b.toNat, 1, false⟩, ⟨.x, x.toNat, 1, false⟩]
  | .vmulx _ d b x _ => [⟨.v, d.toNat, 1, true⟩, ⟨.v, b.toNat, 1, false⟩, ⟨.x, x.toNat, 1, false⟩]
  | .vdivx _ d b x _ => [⟨.v, d.toNat, 1, true⟩, ⟨.v, b.toNat, 1, false⟩, ⟨.x, x.toNat, 1, false⟩]
  | .vminx _ d b x _ => [⟨.v, d.toNat, 1, true⟩, ⟨.v, b.toNat, 1, false⟩, ⟨.x, x.toNat, 1, false⟩]
  | .vmaxx _ d b x _ => [⟨.v, d.toNat, 1, true⟩, ⟨.v, b.toNat, 1, false⟩, ⟨.x, x.toNat, 1, false⟩]
  | .vexp d a _ => [⟨.v, d.toNat, 1, true⟩, ⟨.v, a.toNat, 1, false⟩]
  | .vlog d a _ => [⟨.v, d.toNat, 1, true⟩, ⟨.v, a.toNat, 1, false⟩]
  | .vrcp d a _ => [⟨.v, d.toNat, 1, true⟩, ⟨.v, a.toNat, 1, false⟩]
  | .vrsqrt d a _ => [⟨.v, d.toNat, 1, true⟩, ⟨.v, a.toNat, 1, false⟩]
  | .vtanh d a _ => [⟨.v, d.toNat, 1, true⟩, ⟨.v, a.toNat, 1, false⟩]
  | .vsqrt d a _ => [⟨.v, d.toNat, 1, true⟩, ⟨.v, a.toNat, 1, false⟩]
  | .vredsum _ d a _ => [⟨.v, d.toNat, 1, true⟩, ⟨.v, a.toNat, 1, false⟩]
  | .vredmax _ d a _ => [⟨.v, d.toNat, 1, true⟩, ⟨.v, a.toNat, 1, false⟩]
  | .vredmin _ d a _ => [⟨.v, d.toNat, 1, true⟩, ⟨.v, a.toNat, 1, false⟩]
  | .vredq _ d _ c _ => [⟨.v, d.toNat, 1, true⟩, ⟨.x, c.toNat, 1, false⟩]
  | .viadd _ _ d a b _ => [⟨.v, d.toNat, 1, true⟩, ⟨.v, a.toNat, 1, false⟩, ⟨.v, b.toNat, 1, false⟩]
  | .visub _ _ d a b _ => [⟨.v, d.toNat, 1, true⟩, ⟨.v, a.toNat, 1, false⟩, ⟨.v, b.toNat, 1, false⟩]
  | .vimul _ _ d a b _ => [⟨.v, d.toNat, 1, true⟩, ⟨.v, a.toNat, 1, false⟩, ⟨.v, b.toNat, 1, false⟩]
  | .vimulh _ _ d a b _ => [⟨.v, d.toNat, 1, true⟩, ⟨.v, a.toNat, 1, false⟩, ⟨.v, b.toNat, 1, false⟩]
  | .viand _ _ d a b _ => [⟨.v, d.toNat, 1, true⟩, ⟨.v, a.toNat, 1, false⟩, ⟨.v, b.toNat, 1, false⟩]
  | .vior _ _ d a b _ => [⟨.v, d.toNat, 1, true⟩, ⟨.v, a.toNat, 1, false⟩, ⟨.v, b.toNat, 1, false⟩]
  | .vixor _ _ d a b _ => [⟨.v, d.toNat, 1, true⟩, ⟨.v, a.toNat, 1, false⟩, ⟨.v, b.toNat, 1, false⟩]
  | .visll _ _ d a b _ => [⟨.v, d.toNat, 1, true⟩, ⟨.v, a.toNat, 1, false⟩, ⟨.v, b.toNat, 1, false⟩]
  | .visrl _ _ d a b _ => [⟨.v, d.toNat, 1, true⟩, ⟨.v, a.toNat, 1, false⟩, ⟨.v, b.toNat, 1, false⟩]
  | .visra _ _ d a b _ => [⟨.v, d.toNat, 1, true⟩, ⟨.v, a.toNat, 1, false⟩, ⟨.v, b.toNat, 1, false⟩]
  | .vimin _ _ d a b _ => [⟨.v, d.toNat, 1, true⟩, ⟨.v, a.toNat, 1, false⟩, ⟨.v, b.toNat, 1, false⟩]
  | .vimax _ _ d a b _ => [⟨.v, d.toNat, 1, true⟩, ⟨.v, a.toNat, 1, false⟩, ⟨.v, b.toNat, 1, false⟩]
  | .vipopc _ _ d a _ => [⟨.v, d.toNat, 1, true⟩, ⟨.v, a.toNat, 1, false⟩]
  | .viaddSat _ _ d a b _ => [⟨.v, d.toNat, 1, true⟩, ⟨.v, a.toNat, 1, false⟩, ⟨.v, b.toNat, 1, false⟩]
  | .visubSat _ _ d a b _ => [⟨.v, d.toNat, 1, true⟩, ⟨.v, a.toNat, 1, false⟩, ⟨.v, b.toNat, 1, false⟩]
  | .viaddx _ d b x _ => [⟨.v, d.toNat, 1, true⟩, ⟨.v, b.toNat, 1, false⟩, ⟨.x, x.toNat, 1, false⟩]
  | .visubx _ d b x _ => [⟨.v, d.toNat, 1, true⟩, ⟨.v, b.toNat, 1, false⟩, ⟨.x, x.toNat, 1, false⟩]
  | .vimulx _ d b x _ => [⟨.v, d.toNat, 1, true⟩, ⟨.v, b.toNat, 1, false⟩, ⟨.x, x.toNat, 1, false⟩]
  | .viandx _ d b x _ => [⟨.v, d.toNat, 1, true⟩, ⟨.v, b.toNat, 1, false⟩, ⟨.x, x.toNat, 1, false⟩]
  | .viorx _ d b x _ => [⟨.v, d.toNat, 1, true⟩, ⟨.v, b.toNat, 1, false⟩, ⟨.x, x.toNat, 1, false⟩]
  | .vixorx _ d b x _ => [⟨.v, d.toNat, 1, true⟩, ⟨.v, b.toNat, 1, false⟩, ⟨.x, x.toNat, 1, false⟩]
  | .visllx _ d b x _ => [⟨.v, d.toNat, 1, true⟩, ⟨.v, b.toNat, 1, false⟩, ⟨.x, x.toNat, 1, false⟩]
  | .visrlx _ d b x _ => [⟨.v, d.toNat, 1, true⟩, ⟨.v, b.toNat, 1, false⟩, ⟨.x, x.toNat, 1, false⟩]
  | .visrax _ d b x _ => [⟨.v, d.toNat, 1, true⟩, ⟨.v, b.toNat, 1, false⟩, ⟨.x, x.toNat, 1, false⟩]
  | .vcmp _ _ d a b _ => [⟨.k, d.toNat, 1, true⟩, ⟨.v, a.toNat, 1, false⟩, ⟨.v, b.toNat, 1, false⟩]
  | .kand d a b => [⟨.k, d.toNat, 1, true⟩, ⟨.k, a.toNat, 1, false⟩, ⟨.k, b.toNat, 1, false⟩]
  | .kor d a b => [⟨.k, d.toNat, 1, true⟩, ⟨.k, a.toNat, 1, false⟩, ⟨.k, b.toNat, 1, false⟩]
  | .kxor d a b => [⟨.k, d.toNat, 1, true⟩, ⟨.k, a.toNat, 1, false⟩, ⟨.k, b.toNat, 1, false⟩]
  | .knot d a => [⟨.k, d.toNat, 1, true⟩, ⟨.k, a.toNat, 1, false⟩]
  | .kmov d a => [⟨.k, d.toNat, 1, true⟩, ⟨.k, a.toNat, 1, false⟩]
  | .vperm d a b _ => [⟨.v, d.toNat, 1, true⟩, ⟨.v, a.toNat, 1, false⟩, ⟨.v, b.toNat, 1, false⟩]
  | .vslideup d a _ _ => [⟨.v, d.toNat, 1, true⟩, ⟨.v, a.toNat, 1, false⟩]
  | .vslidedn d a _ _ => [⟨.v, d.toNat, 1, true⟩, ⟨.v, a.toNat, 1, false⟩]
  | .vcompress d a _ => [⟨.v, d.toNat, 1, true⟩, ⟨.v, a.toNat, 1, false⟩]
  | .vmov d a _ => [⟨.v, d.toNat, 1, true⟩, ⟨.v, a.toNat, 1, false⟩]
  | .vbcast _ d x _ => [⟨.v, d.toNat, 1, true⟩, ⟨.x, x.toNat, 1, false⟩]
  | .vins _ d x _ => [⟨.v, d.toNat, 1, true⟩, ⟨.x, x.toNat, 1, false⟩]
  | .vext _ _ d s _ => [⟨.x, d.toNat, 1, true⟩, ⟨.v, s.toNat, 1, false⟩]
  | .kset d x => [⟨.k, d.toNat, 1, true⟩, ⟨.x, x.toNat, 1, false⟩]
  | .kpopc d s => [⟨.x, d.toNat, 1, true⟩, ⟨.k, s.toNat, 1, false⟩]
  | .vcvt _ _ _ d a _ => [⟨.v, d.toNat, 1, true⟩, ⟨.v, a.toNat, 1, false⟩]
  | .vcvto _ _ d q a _ => [⟨.v, d.toNat, 2, true⟩, ⟨.k, q.toNat, 1, false⟩, ⟨.v, a.toNat, 1, false⟩]
  | .vplane d a => [⟨.v, d.toNat, 1, true⟩, ⟨.v, a.toNat, 1, false⟩]
  | .vunplane d a => [⟨.v, d.toNat, 1, true⟩, ⟨.v, a.toNat, 1, false⟩]
  | .fmt _ _ _ x _ _ => [⟨.x, x.toNat, 1, false⟩]
  | .vspdraw _ d x _ => [⟨.v, d.toNat, 1, true⟩, ⟨.x, x.toNat, 1, false⟩]
  | .vspuni _ d x _ => [⟨.v, d.toNat, 1, true⟩, ⟨.x, x.toNat, 1, false⟩]
  | .vspexp _ d x _ => [⟨.v, d.toNat, 1, true⟩, ⟨.x, x.toNat, 1, false⟩]
  | .vgumb d s x _ => [⟨.v, d.toNat, 1, true⟩, ⟨.v, s.toNat, 1, false⟩, ⟨.x, x.toNat, 1, false⟩]
  | .spdraw _ d a b => [⟨.x, d.toNat, 1, true⟩, ⟨.x, a.toNat, 1, false⟩, ⟨.x, b.toNat, 1, false⟩]
  | .spuni _ d a b => [⟨.x, d.toNat, 1, true⟩, ⟨.x, a.toNat, 1, false⟩, ⟨.x, b.toNat, 1, false⟩]
  | .spexp _ d a b => [⟨.x, d.toNat, 1, true⟩, ⟨.x, a.toNat, 1, false⟩, ⟨.x, b.toNat, 1, false⟩]
  | .digest a b => [⟨.x, a.toNat, 1, false⟩, ⟨.x, b.toNat, 1, false⟩]
  | .digestm a b n => [⟨.x, n.toNat, 1, true⟩, ⟨.x, a.toNat, 1, false⟩, ⟨.x, b.toNat, 1, false⟩]
  | .mma _ _ a s r u v _ => [⟨.a, a.toNat, 1, true⟩, (if s then ⟨.x, 2 * r.toNat, 2, false⟩ else ⟨.m, r.toNat, 1, false⟩), (if u then ⟨.x, 2 * v.toNat, 2, false⟩ else ⟨.m, v.toNat, 1, false⟩)]
  | .accrd v x a r => [⟨.v, v.toNat, 1, true⟩, ⟨.x, x.toNat, 1, true⟩, ⟨.a, a.toNat, 1, false⟩, ⟨.x, r.toNat, 1, false⟩]
  | .acczero d => [⟨.a, d.toNat, 1, true⟩]
  | .accld d s => [⟨.a, d.toNat, 1, true⟩, ⟨.x, s.toNat, 1, false⟩]
  | .accst s a => [⟨.x, s.toNat, 1, false⟩, ⟨.a, a.toNat, 1, false⟩]
  | .accstat x a _ => [⟨.x, x.toNat, 1, true⟩, ⟨.a, a.toNat, 1, false⟩]
  | .accswp d a => [⟨.a, d.toNat, 1, true⟩, ⟨.a, a.toNat, 1, false⟩]
  | .tld d s p _ => [⟨.m, d.toNat, 1, true⟩, ⟨.x, s.toNat, 1, false⟩, ⟨.x, p.toNat, 1, false⟩]
  | .tst s d p _ => [⟨.x, s.toNat, 1, false⟩, ⟨.m, d.toNat, 1, false⟩, ⟨.x, p.toNat, 1, false⟩]
  | .tzero d => [⟨.m, d.toNat, 1, true⟩]
  | .tmov d s => [⟨.m, d.toNat, 1, true⟩, ⟨.m, s.toNat, 1, false⟩]
  | .ocmp p _ d a b _ => [⟨.b, d.toNat, 1, true⟩, ⟨.v, a.toNat, (if p = .klt || p = .kgt then 2 else 1), false⟩, ⟨.v, b.toNat, (if p = .klt || p = .kgt then 2 else 1), false⟩]
  | .btpopr d s => (descBtpopr d s).ops
  | .btpopc d s => (descBtpopc d s).ops
  | .btclo d s r => (descBtclo d s r).ops
  | .btcomp d a b => (descBtcomp d a b).ops
  | .bttr d s => (descBttr d s).ops
  | .btand d a b => (descBtand d a b).ops
  | .btor d a b => (descBtor d a b).ops
  | .btxor d a b => (descBtxor d a b).ops
  | .btandn d a b => (descBtandn d a b).ops
  | .btnot d s => (descBtnot d s).ops
  | .btrowk d s i => (descBtrowk d s i).ops
  | .btcolk d s i => (descBtcolk d s i).ops
  | .btkrow d s i => (descBtkrow d s i).ops
  | .btkcol d s i => (descBtkcol d s i).ops
  | .btld d s => (descBtld d s).ops
  | .btst s b => (descBtst s b).ops
  | .sinit a => (descSinit a).ops
  | .rate a b => (descRate a b).ops
  | .ratea a b => (descRatea a b).ops
  | .nextev d a => (descNextev d a).ops
  | .swrd d a s => (descSwrd d a s).ops
  | .sclk d => (descSclk d).ops
  | .binit a => (descBinit a).ops
  | .bdec d a => (descBdec d a).ops
  | .brecv d a => (descBrecv d a).ops
  | .trap a => [⟨.x, a.toNat, 1, false⟩]
  | .tret => []
  | .halt => []
  | .csrw d _ a => [⟨.x, d.toNat, 1, true⟩, ⟨.x, a.toNat, 1, false⟩]
  | .csrs d _ a => [⟨.x, d.toNat, 1, true⟩, ⟨.x, a.toNat, 1, false⟩]
  | .csrc d _ a => [⟨.x, d.toNat, 1, true⟩, ⟨.x, a.toNat, 1, false⟩]
  | .hint h => (descHint h).ops
  | .loadDataReturn => []
  | .gatherLaneReturn => []
  | .hostLqtailWrite => []
  | .lqcfgWrite => []
  | .launchRecordRead => []
  | .dependencesMet => []
  | .firingPlace => []
  | .teamComplete => []
  | .checkSecondRun => []
  | .actorFire => []
  | .messageDispatch => []
  | .messageRefusalReturn => []
  | .priorityAge => []
  | .qstallExpiry => []
  | .fewaitExpiry => []
  | .feWithdrawal => []
  | .feResend => []
  | .bankOpArrive => []
  | .bankOpResend => []
  | .bankOpCopyDrop => []
  | .linkErrorReplay => []
  | .remoteAccessArrive => []
  | .storeMessagePerform => []
  | .remoteRequestPerform => []
  | .remoteWriteAck => []
  | .rangelockRegister => []
  | .copySector => []
  | .copyFault => []
  | .copyComplete => []
  | .mmaStep => []
  | .vectorBankLaneFault => []
  | .asyncReportTake => []
  | .trapRecordAppend => []
  | .errorLogAppend => []
  | .trheadWrite => []
  | .fcmdResumePc => []
  | .fcmdResumeUtvec => []
  | .fcmdSave => []
  | .fcmdDiscard => []
  | .fcmdKill => []
  | .preemptRequest => []
  | .resumeRequest => []
  | .preemptDeadline => []
  | .preemptEnd => []
  | .dqstealServe => []
  | .pageWalk => []
  | .tlbinvWrite => []
  | .tlbinvComplete => []
  | .pintWrite => []
  | .msccfgWrite => []
  | .mscChangeComplete => []
  | .logRegisterWrite => []
  | .registerWrite => []
  | .decisionArrive => []
  | .creditReturn => []
  | .presenceDrop => []
  | .portDownTimeout => []
  | .peerLostDeclare => []
  | .remotePoisonComplete => []
  | .laneFail => []
  | .retrainComplete => []
  | .alctlWrite => []
  | .alkeygoWrite => []
  | .keySwitch => []
  | .keywarn => []
  | .keystarved => []
  | .hostLinkLoss => []
  | .hostLinkReturn => []
  | .hostBar2Write => []
  | .hostBar4Write => []
  | .cxlPoison => []
  | .cxlDeviceLoss => []
  | .powerGood => []
  | .fullEnter => []
  | .ident => []
  | .health => []
  | .thermal => []
  | .resync => []
  | .fwload => []
  | .keyload => []
  | .reset => []
  | .thermalTrip => []
  | .hbmDieLoss => []
  | .lockstepMismatch => []
  | .readoptionTimeout => []
  | .readoptionComplete => []
  | .uncorrectableError => []
  | .powerCapBreach => []
  | .markerAcknowledged => []
  | .shinvComplete => []
  | .bankOpResponseArrive => []
  | .bankTagFree => []
  | .ownerAnswerArrive => []
  | .commandComplete => []
  | .moduleInsertion => []
  | .powerLoss => []

/-- The rules on the fields of the word, but for the overlap rule (R37). -/
def fieldsOk : Instr → Bool
  | .add _ _ _ => true
  | .sub _ _ _ => true
  | .and _ _ _ => true
  | .or _ _ _ => true
  | .xor _ _ _ => true
  | .andn _ _ _ => true
  | .sll _ _ _ => true
  | .srl _ _ _ => true
  | .sra _ _ _ => true
  | .slt _ _ _ => true
  | .sltu _ _ _ => true
  | .min _ _ _ => true
  | .max _ _ _ => true
  | .minu _ _ _ => true
  | .maxu _ _ _ => true
  | .clz _ _ => true
  | .ctz _ _ => true
  | .popc _ _ => true
  | .rol _ _ _ => true
  | .ror _ _ _ => true
  | .addi _ _ _ => true
  | .andi _ _ _ => true
  | .ori _ _ _ => true
  | .xori _ _ _ => true
  | .slli _ _ _ => true
  | .srli _ _ _ => true
  | .srai _ _ _ => true
  | .slti _ _ _ => true
  | .sltiu _ _ _ => true
  | .lui _ _ => true
  | .adrp _ _ => true
  | .mul _ _ _ => true
  | .mulh _ _ _ => true
  | .mulhu _ _ _ => true
  | .mulhsu _ _ _ => true
  | .div _ _ _ => true
  | .divu _ _ _ => true
  | .rem _ _ _ => true
  | .remu _ _ _ => true
  | .movxRead _ _ _ => true
  | .movxWrite _ _ _ => true
  | .fadd _ _ _ _ _ => true
  | .fsub _ _ _ _ _ => true
  | .fmul _ _ _ _ _ => true
  | .fdiv _ _ _ _ _ => true
  | .fsqrt _ _ _ _ => true
  | .fcvt _ _ _ _ t u => t != u && !(isIntXT t && isIntXT u)
  | .fmin _ _ _ _ => true
  | .fmax _ _ _ _ => true
  | .fsgnj _ _ _ _ => true
  | .fsgnjn _ _ _ _ => true
  | .fsgnjx _ _ _ _ => true
  | .feq _ _ _ _ => true
  | .flt _ _ _ _ => true
  | .fle _ _ _ _ => true
  | .fclass _ _ _ => true
  | .fmadd _ _ _ _ _ => true
  | .fmsub _ _ _ _ _ => true
  | .fnmadd _ _ _ _ _ => true
  | .fnmsub _ _ _ _ _ => true
  | .sel _ _ _ _ => true
  | .beq _ _ _ => true
  | .bne _ _ _ => true
  | .blt _ _ _ => true
  | .bge _ _ _ => true
  | .bltu _ _ _ => true
  | .bgeu _ _ _ => true
  | .beqz _ _ => true
  | .bnez _ _ => true
  | .jal _ _ => true
  | .jalr _ _ _ => true
  | .loopn a _ => a != 0
  | .rep _ _ _ _ => true
  | .gang _ => true
  | .gangend => true
  | .retire => true
  | .launch _ _ _ => true
  | .join _ _ => true
  | .leave _ => true
  | .phase _ => true
  | .gbar _ => true
  | .sget _ => true
  | .sput => true
  | .hswait _ _ _ => true
  | .hstry _ _ _ => true
  | .hspost _ _ => true
  | .hsset _ _ => true
  | .hsrd _ _ => true
  | .ld _ _ _ _ => true
  | .st _ _ _ _ => true
  | .ldfe _ _ _ _ => true
  | .stfe _ _ _ _ => true
  | .vld t _ _ _ => t != .bpn
  | .vlds t _ _ _ _ => t != .bpn && t != .e2m1
  | .vst t _ _ _ => t != .bpn
  | .vsts t _ _ _ _ => t != .bpn && t != .e2m1
  | .vldx t _ _ _ _ => t != .bpn && t != .e2m1
  | .vstx t _ _ _ _ => t != .bpn && t != .e2m1
  | .ldt m t _ _ _ => t != .bpn && t != .e2m1 && (m == .plain || is64 t)
  | .vldt t _ _ _ _ => t != .bpn && t != .e2m1
  | .stt m t _ _ _ => t != .bpn && t != .e2m1 && (m == .plain || is64 t)
  | .vstt t _ _ _ _ => t != .bpn && t != .e2m1
  | .shinv s _ => decide (3 ≤ s.code.toNat)
  | .shloc d _ _ => evenReg d
  | .rel _ => true
  | .acq _ => true
  | .fence _ => true
  | .amoadd _ _ _ _ => true
  | .amoand _ _ _ _ => true
  | .amoor _ _ _ _ => true
  | .amoxor _ _ _ _ => true
  | .amomin _ _ _ _ => true
  | .amomax _ _ _ _ => true
  | .amominu _ _ _ _ => true
  | .amomaxu _ _ _ _ => true
  | .amoswp _ _ _ _ => true
  | .amocas _ _ _ _ => true
  | .amofadd _ _ _ _ => true
  | .amofmin _ _ _ _ => true
  | .amofmax _ _ _ _ => true
  | .xcadd t _ _ => t != .f64
  | .xcrd t _ _ => t == .f32 || t == .f64
  | .xcclr _ => true
  | .xcrdclr t _ _ => t == .f32 || t == .f64
  | .vamoadd t _ _ _ _ => t == .i32 || t == .n32 || t == .f32
  | .vamomin t _ _ _ _ => t == .i32 || t == .n32 || t == .f32
  | .vamomax t _ _ _ _ => t == .i32 || t == .n32 || t == .f32
  | .vxcadd t _ _ _ _ => t == .f32
  | .vbsum t _ _ _ => t == .f32
  | .qget _ n => n.toNat != 14 && !(decide (8 ≤ n.toNat) && decide (n.toNat < 12))
  | .qput n _ => decide (n.toNat < 8)
  | .vqget _ n => decide (n.toNat < 12)
  | .vqput n _ => decide (n.toNat < 12)
  | .qcnt _ n => n.toNat != 14
  | .send _ _ _ => true
  | .sendv _ _ _ => true
  | .cwr _ _ => true
  | .cgo _ => true
  | .cwp _ _ => true
  | .crd _ _ => true
  | .txinit _ _ => true
  | .txarr _ _ => true
  | .txexp _ _ => true
  | .txwait _ _ => true
  | .txtry _ _ _ => true
  | .dqpush _ _ => true
  | .dqpop d => evenReg d
  | .dqsteal d _ => evenReg d
  | .vadd _ _ _ _ _ => true
  | .vsub _ _ _ _ _ => true
  | .vmul _ _ _ _ _ => true
  | .vdiv _ _ _ _ _ => true
  | .vmin _ _ _ _ _ => true
  | .vmax _ _ _ _ _ => true
  | .vabs _ _ _ _ => true
  | .vneg _ _ _ _ => true
  | .vsgnj _ _ _ _ _ => true
  | .vfmadd _ _ _ _ _ => true
  | .vfmsub _ _ _ _ _ => true
  | .vfnmadd _ _ _ _ _ => true
  | .vfnmsub _ _ _ _ _ => true
  | .vaddx _ _ _ _ _ => true
  | .vsubx _ _ _ _ _ => true
  | .vmulx _ _ _ _ _ => true
  | .vdivx _ _ _ _ _ => true
  | .vminx _ _ _ _ _ => true
  | .vmaxx _ _ _ _ _ => true
  | .vexp _ _ _ => true
  | .vlog _ _ _ => true
  | .vrcp _ _ _ => true
  | .vrsqrt _ _ _ => true
  | .vtanh _ _ _ => true
  | .vsqrt _ _ _ => true
  | .vredsum _ _ _ _ => true
  | .vredmax _ _ _ _ => true
  | .vredmin _ _ _ _ => true
  | .vredq _ _ n c _ => decide (n.toNat < 12) && c != 0
  | .viadd _ _ _ _ _ _ => true
  | .visub _ _ _ _ _ _ => true
  | .vimul _ _ _ _ _ _ => true
  | .vimulh _ _ _ _ _ _ => true
  | .viand _ _ _ _ _ _ => true
  | .vior _ _ _ _ _ _ => true
  | .vixor _ _ _ _ _ _ => true
  | .visll _ _ _ _ _ _ => true
  | .visrl _ _ _ _ _ _ => true
  | .visra _ _ _ _ _ _ => true
  | .vimin _ _ _ _ _ _ => true
  | .vimax _ _ _ _ _ _ => true
  | .vipopc _ _ _ _ _ => true
  | .viaddSat _ _ _ _ _ _ => true
  | .visubSat _ _ _ _ _ _ => true
  | .viaddx _ _ _ _ _ => true
  | .visubx _ _ _ _ _ => true
  | .vimulx _ _ _ _ _ => true
  | .viandx _ _ _ _ _ => true
  | .viorx _ _ _ _ _ => true
  | .vixorx _ _ _ _ _ => true
  | .visllx _ _ _ _ _ => true
  | .visrlx _ _ _ _ _ => true
  | .visrax _ _ _ _ _ => true
  | .vcmp _ _ _ _ _ _ => true
  | .kand _ _ _ => true
  | .kor _ _ _ => true
  | .kxor _ _ _ => true
  | .knot _ _ => true
  | .kmov _ _ => true
  | .vperm _ _ _ _ => true
  | .vslideup _ _ _ _ => true
  | .vslidedn _ _ _ _ => true
  | .vcompress _ _ _ => true
  | .vmov _ _ _ => true
  | .vbcast _ _ _ _ => true
  | .vins _ _ _ _ => true
  | .vext _ _ _ _ _ => true
  | .kset _ _ => true
  | .kpopc _ _ => true
  | .vcvt _ _ _ _ _ _ => true
  | .vcvto _ _ d _ _ _ => d != 31
  | .vplane _ _ => true
  | .vunplane _ _ => true
  | .fmt a b s x p c => (s || x == 0) && (if a == .bpn || b == .bpn then p != 0 else p == 0 && !c)
  | .vspdraw _ _ _ _ => true
  | .vspuni _ _ _ _ => true
  | .vspexp _ _ _ _ => true
  | .vgumb _ _ _ _ => true
  | .spdraw _ _ _ _ => true
  | .spuni _ _ _ _ => true
  | .spexp _ _ _ _ => true
  | .digest _ _ => true
  | .digestm _ b n => n != b && n != 0 && b != 0
  | .mma _ _ _ s r u v _ => (if s then r != 0 else decide (r.toNat < 8)) && (if u then v != 0 else decide (v.toNat < 8))
  | .accrd _ _ _ _ => true
  | .acczero _ => true
  | .accld _ _ => true
  | .accst _ _ => true
  | .accstat _ _ _ => true
  | .accswp _ _ => true
  | .tld _ _ _ _ => true
  | .tst _ _ _ _ => true
  | .tzero _ => true
  | .tmov _ _ => true
  | .ocmp p _ _ a b _ => !(p == .klt || p == .kgt) || (a != 31 && b != 31)
  | .btpopr d s => (descBtpopr d s).ok
  | .btpopc d s => (descBtpopc d s).ok
  | .btclo d s r => (descBtclo d s r).ok
  | .btcomp d a b => (descBtcomp d a b).ok
  | .bttr d s => (descBttr d s).ok
  | .btand d a b => (descBtand d a b).ok
  | .btor d a b => (descBtor d a b).ok
  | .btxor d a b => (descBtxor d a b).ok
  | .btandn d a b => (descBtandn d a b).ok
  | .btnot d s => (descBtnot d s).ok
  | .btrowk d s i => (descBtrowk d s i).ok
  | .btcolk d s i => (descBtcolk d s i).ok
  | .btkrow d s i => (descBtkrow d s i).ok
  | .btkcol d s i => (descBtkcol d s i).ok
  | .btld d s => (descBtld d s).ok
  | .btst s b => (descBtst s b).ok
  | .sinit a => (descSinit a).ok
  | .rate a b => (descRate a b).ok
  | .ratea a b => (descRatea a b).ok
  | .nextev d a => (descNextev d a).ok
  | .swrd d a s => (descSwrd d a s).ok
  | .sclk d => (descSclk d).ok
  | .binit a => (descBinit a).ok
  | .bdec d a => (descBdec d a).ok
  | .brecv d a => (descBrecv d a).ok
  | .trap _ => true
  | .tret => true
  | .halt => true
  | .csrw _ c _ => csrKnown c && !csrRo c
  | .csrs _ c a => csrKnown c && (!csrRo c || a == 0)
  | .csrc _ c a => csrKnown c && (!csrRo c || a == 0)
  | .hint h => (descHint h).ok
  | .loadDataReturn => true
  | .gatherLaneReturn => true
  | .hostLqtailWrite => true
  | .lqcfgWrite => true
  | .launchRecordRead => true
  | .dependencesMet => true
  | .firingPlace => true
  | .teamComplete => true
  | .checkSecondRun => true
  | .actorFire => true
  | .messageDispatch => true
  | .messageRefusalReturn => true
  | .priorityAge => true
  | .qstallExpiry => true
  | .fewaitExpiry => true
  | .feWithdrawal => true
  | .feResend => true
  | .bankOpArrive => true
  | .bankOpResend => true
  | .bankOpCopyDrop => true
  | .linkErrorReplay => true
  | .remoteAccessArrive => true
  | .storeMessagePerform => true
  | .remoteRequestPerform => true
  | .remoteWriteAck => true
  | .rangelockRegister => true
  | .copySector => true
  | .copyFault => true
  | .copyComplete => true
  | .mmaStep => true
  | .vectorBankLaneFault => true
  | .asyncReportTake => true
  | .trapRecordAppend => true
  | .errorLogAppend => true
  | .trheadWrite => true
  | .fcmdResumePc => true
  | .fcmdResumeUtvec => true
  | .fcmdSave => true
  | .fcmdDiscard => true
  | .fcmdKill => true
  | .preemptRequest => true
  | .resumeRequest => true
  | .preemptDeadline => true
  | .preemptEnd => true
  | .dqstealServe => true
  | .pageWalk => true
  | .tlbinvWrite => true
  | .tlbinvComplete => true
  | .pintWrite => true
  | .msccfgWrite => true
  | .mscChangeComplete => true
  | .logRegisterWrite => true
  | .registerWrite => true
  | .decisionArrive => true
  | .creditReturn => true
  | .presenceDrop => true
  | .portDownTimeout => true
  | .peerLostDeclare => true
  | .remotePoisonComplete => true
  | .laneFail => true
  | .retrainComplete => true
  | .alctlWrite => true
  | .alkeygoWrite => true
  | .keySwitch => true
  | .keywarn => true
  | .keystarved => true
  | .hostLinkLoss => true
  | .hostLinkReturn => true
  | .hostBar2Write => true
  | .hostBar4Write => true
  | .cxlPoison => true
  | .cxlDeviceLoss => true
  | .powerGood => true
  | .fullEnter => true
  | .ident => true
  | .health => true
  | .thermal => true
  | .resync => true
  | .fwload => true
  | .keyload => true
  | .reset => true
  | .thermalTrip => true
  | .hbmDieLoss => true
  | .lockstepMismatch => true
  | .readoptionTimeout => true
  | .readoptionComplete => true
  | .uncorrectableError => true
  | .powerCapBreach => true
  | .markerAcknowledged => true
  | .shinvComplete => true
  | .bankOpResponseArrive => true
  | .bankTagFree => true
  | .ownerAnswerArrive => true
  | .commandComplete => true
  | .moduleInsertion => true
  | .powerLoss => true

/-- Element-wise instructions (R35, R273, R312, R332); VCVT is one when its counts agree, which its own part checks (R289). -/
def elementwise : Instr → Bool
  | .vadd _ _ _ _ _ => true
  | .vsub _ _ _ _ _ => true
  | .vmul _ _ _ _ _ => true
  | .vdiv _ _ _ _ _ => true
  | .vmin _ _ _ _ _ => true
  | .vmax _ _ _ _ _ => true
  | .vabs _ _ _ _ => true
  | .vneg _ _ _ _ => true
  | .vsgnj _ _ _ _ _ => true
  | .vfmadd _ _ _ _ _ => true
  | .vfmsub _ _ _ _ _ => true
  | .vfnmadd _ _ _ _ _ => true
  | .vfnmsub _ _ _ _ _ => true
  | .vaddx _ _ _ _ _ => true
  | .vsubx _ _ _ _ _ => true
  | .vmulx _ _ _ _ _ => true
  | .vdivx _ _ _ _ _ => true
  | .vminx _ _ _ _ _ => true
  | .vmaxx _ _ _ _ _ => true
  | .vexp _ _ _ => true
  | .vlog _ _ _ => true
  | .vrcp _ _ _ => true
  | .vrsqrt _ _ _ => true
  | .vtanh _ _ _ => true
  | .vsqrt _ _ _ => true
  | .viadd _ _ _ _ _ _ => true
  | .visub _ _ _ _ _ _ => true
  | .vimul _ _ _ _ _ _ => true
  | .vimulh _ _ _ _ _ _ => true
  | .viand _ _ _ _ _ _ => true
  | .vior _ _ _ _ _ _ => true
  | .vixor _ _ _ _ _ _ => true
  | .visll _ _ _ _ _ _ => true
  | .visrl _ _ _ _ _ _ => true
  | .visra _ _ _ _ _ _ => true
  | .vimin _ _ _ _ _ _ => true
  | .vimax _ _ _ _ _ _ => true
  | .vipopc _ _ _ _ _ => true
  | .viaddSat _ _ _ _ _ _ => true
  | .visubSat _ _ _ _ _ _ => true
  | .viaddx _ _ _ _ _ => true
  | .visubx _ _ _ _ _ => true
  | .vimulx _ _ _ _ _ => true
  | .viandx _ _ _ _ _ => true
  | .viorx _ _ _ _ _ => true
  | .vixorx _ _ _ _ _ => true
  | .visllx _ _ _ _ _ => true
  | .visrlx _ _ _ _ _ => true
  | .visrax _ _ _ _ _ => true
  | .vcmp _ _ _ _ _ _ => true
  | .kand _ _ _ => true
  | .kor _ _ _ => true
  | .kxor _ _ _ => true
  | .knot _ _ => true
  | .kmov _ _ => true
  | .vmov _ _ _ => true
  | .vcvt _ _ _ _ _ _ => true
  | .vgumb _ _ _ _ => true
  | .btand _ _ _ => true
  | .btor _ _ _ => true
  | .btxor _ _ _ => true
  | .btandn _ _ _ => true
  | .btnot _ _ => true
  | _ => false

/-- Every rule on the word alone (R37). -/
def legal (i : Instr) : Bool := fieldsOk i && overlapOk (elementwise i) (opsOf i)

/-- What the checks need of an instruction. -/
def descOf (i : Instr) : Desc := { word := encode i, ops := opsOf i, ok := legal i }

/-- MMA and the instructions of major 0x50, which take a format prefix (R31). -/
def takesPrefix (i : Instr) : Bool := let m := (fld (encode i) 0 7).toNat; m == 0x50 || m == 0x60

/-- The majors a REP frame may capture (R36). -/
def capturable (w : BitVec 32) : Bool := match (fld w 0 7).toNat with
  | 0x01 | 0x02 | 0x03 | 0x04 | 0x06 | 0x08 | 0x09 | 0x0A | 0x40 | 0x41 | 0x42 | 0x43 | 0x48 | 0x49 | 0x4A => true
  | _ => false

/-- A captured instruction with each register field renumbered: g takes the position of the operand (0 the destination, 1 to 3 the
sources in assembly order) and its number (R29). -/
def renumber (g : Nat → Nat → Nat) : Instr → Instr
  | .add d a b => .add (BitVec.ofNat 6 (g 0 d.toNat)) (BitVec.ofNat 6 (g 1 a.toNat)) (BitVec.ofNat 6 (g 2 b.toNat))
  | .sub d a b => .sub (BitVec.ofNat 6 (g 0 d.toNat)) (BitVec.ofNat 6 (g 1 a.toNat)) (BitVec.ofNat 6 (g 2 b.toNat))
  | .and d a b => .and (BitVec.ofNat 6 (g 0 d.toNat)) (BitVec.ofNat 6 (g 1 a.toNat)) (BitVec.ofNat 6 (g 2 b.toNat))
  | .or d a b => .or (BitVec.ofNat 6 (g 0 d.toNat)) (BitVec.ofNat 6 (g 1 a.toNat)) (BitVec.ofNat 6 (g 2 b.toNat))
  | .xor d a b => .xor (BitVec.ofNat 6 (g 0 d.toNat)) (BitVec.ofNat 6 (g 1 a.toNat)) (BitVec.ofNat 6 (g 2 b.toNat))
  | .andn d a b => .andn (BitVec.ofNat 6 (g 0 d.toNat)) (BitVec.ofNat 6 (g 1 a.toNat)) (BitVec.ofNat 6 (g 2 b.toNat))
  | .sll d a b => .sll (BitVec.ofNat 6 (g 0 d.toNat)) (BitVec.ofNat 6 (g 1 a.toNat)) (BitVec.ofNat 6 (g 2 b.toNat))
  | .srl d a b => .srl (BitVec.ofNat 6 (g 0 d.toNat)) (BitVec.ofNat 6 (g 1 a.toNat)) (BitVec.ofNat 6 (g 2 b.toNat))
  | .sra d a b => .sra (BitVec.ofNat 6 (g 0 d.toNat)) (BitVec.ofNat 6 (g 1 a.toNat)) (BitVec.ofNat 6 (g 2 b.toNat))
  | .slt d a b => .slt (BitVec.ofNat 6 (g 0 d.toNat)) (BitVec.ofNat 6 (g 1 a.toNat)) (BitVec.ofNat 6 (g 2 b.toNat))
  | .sltu d a b => .sltu (BitVec.ofNat 6 (g 0 d.toNat)) (BitVec.ofNat 6 (g 1 a.toNat)) (BitVec.ofNat 6 (g 2 b.toNat))
  | .min d a b => .min (BitVec.ofNat 6 (g 0 d.toNat)) (BitVec.ofNat 6 (g 1 a.toNat)) (BitVec.ofNat 6 (g 2 b.toNat))
  | .max d a b => .max (BitVec.ofNat 6 (g 0 d.toNat)) (BitVec.ofNat 6 (g 1 a.toNat)) (BitVec.ofNat 6 (g 2 b.toNat))
  | .minu d a b => .minu (BitVec.ofNat 6 (g 0 d.toNat)) (BitVec.ofNat 6 (g 1 a.toNat)) (BitVec.ofNat 6 (g 2 b.toNat))
  | .maxu d a b => .maxu (BitVec.ofNat 6 (g 0 d.toNat)) (BitVec.ofNat 6 (g 1 a.toNat)) (BitVec.ofNat 6 (g 2 b.toNat))
  | .clz d a => .clz (BitVec.ofNat 6 (g 0 d.toNat)) (BitVec.ofNat 6 (g 1 a.toNat))
  | .ctz d a => .ctz (BitVec.ofNat 6 (g 0 d.toNat)) (BitVec.ofNat 6 (g 1 a.toNat))
  | .popc d a => .popc (BitVec.ofNat 6 (g 0 d.toNat)) (BitVec.ofNat 6 (g 1 a.toNat))
  | .rol d a b => .rol (BitVec.ofNat 6 (g 0 d.toNat)) (BitVec.ofNat 6 (g 1 a.toNat)) (BitVec.ofNat 6 (g 2 b.toNat))
  | .ror d a b => .ror (BitVec.ofNat 6 (g 0 d.toNat)) (BitVec.ofNat 6 (g 1 a.toNat)) (BitVec.ofNat 6 (g 2 b.toNat))
  | .addi d a i => .addi (BitVec.ofNat 6 (g 0 d.toNat)) (BitVec.ofNat 6 (g 1 a.toNat)) i
  | .andi d a i => .andi (BitVec.ofNat 6 (g 0 d.toNat)) (BitVec.ofNat 6 (g 1 a.toNat)) i
  | .ori d a i => .ori (BitVec.ofNat 6 (g 0 d.toNat)) (BitVec.ofNat 6 (g 1 a.toNat)) i
  | .xori d a i => .xori (BitVec.ofNat 6 (g 0 d.toNat)) (BitVec.ofNat 6 (g 1 a.toNat)) i
  | .slli d a s => .slli (BitVec.ofNat 6 (g 0 d.toNat)) (BitVec.ofNat 6 (g 1 a.toNat)) s
  | .srli d a s => .srli (BitVec.ofNat 6 (g 0 d.toNat)) (BitVec.ofNat 6 (g 1 a.toNat)) s
  | .srai d a s => .srai (BitVec.ofNat 6 (g 0 d.toNat)) (BitVec.ofNat 6 (g 1 a.toNat)) s
  | .slti d a i => .slti (BitVec.ofNat 6 (g 0 d.toNat)) (BitVec.ofNat 6 (g 1 a.toNat)) i
  | .sltiu d a i => .sltiu (BitVec.ofNat 6 (g 0 d.toNat)) (BitVec.ofNat 6 (g 1 a.toNat)) i
  | .lui d i => .lui (BitVec.ofNat 6 (g 0 d.toNat)) i
  | .mul d a b => .mul (BitVec.ofNat 6 (g 0 d.toNat)) (BitVec.ofNat 6 (g 1 a.toNat)) (BitVec.ofNat 6 (g 2 b.toNat))
  | .mulh d a b => .mulh (BitVec.ofNat 6 (g 0 d.toNat)) (BitVec.ofNat 6 (g 1 a.toNat)) (BitVec.ofNat 6 (g 2 b.toNat))
  | .mulhu d a b => .mulhu (BitVec.ofNat 6 (g 0 d.toNat)) (BitVec.ofNat 6 (g 1 a.toNat)) (BitVec.ofNat 6 (g 2 b.toNat))
  | .mulhsu d a b => .mulhsu (BitVec.ofNat 6 (g 0 d.toNat)) (BitVec.ofNat 6 (g 1 a.toNat)) (BitVec.ofNat 6 (g 2 b.toNat))
  | .div d a b => .div (BitVec.ofNat 6 (g 0 d.toNat)) (BitVec.ofNat 6 (g 1 a.toNat)) (BitVec.ofNat 6 (g 2 b.toNat))
  | .divu d a b => .divu (BitVec.ofNat 6 (g 0 d.toNat)) (BitVec.ofNat 6 (g 1 a.toNat)) (BitVec.ofNat 6 (g 2 b.toNat))
  | .rem d a b => .rem (BitVec.ofNat 6 (g 0 d.toNat)) (BitVec.ofNat 6 (g 1 a.toNat)) (BitVec.ofNat 6 (g 2 b.toNat))
  | .remu d a b => .remu (BitVec.ofNat 6 (g 0 d.toNat)) (BitVec.ofNat 6 (g 1 a.toNat)) (BitVec.ofNat 6 (g 2 b.toNat))
  | .fadd t m d a b => .fadd t m (BitVec.ofNat 6 (g 0 d.toNat)) (BitVec.ofNat 6 (g 1 a.toNat)) (BitVec.ofNat 6 (g 2 b.toNat))
  | .fsub t m d a b => .fsub t m (BitVec.ofNat 6 (g 0 d.toNat)) (BitVec.ofNat 6 (g 1 a.toNat)) (BitVec.ofNat 6 (g 2 b.toNat))
  | .fmul t m d a b => .fmul t m (BitVec.ofNat 6 (g 0 d.toNat)) (BitVec.ofNat 6 (g 1 a.toNat)) (BitVec.ofNat 6 (g 2 b.toNat))
  | .fdiv t m d a b => .fdiv t m (BitVec.ofNat 6 (g 0 d.toNat)) (BitVec.ofNat 6 (g 1 a.toNat)) (BitVec.ofNat 6 (g 2 b.toNat))
  | .fsqrt t m d a => .fsqrt t m (BitVec.ofNat 6 (g 0 d.toNat)) (BitVec.ofNat 6 (g 1 a.toNat))
  | .fcvt m s d a t u => .fcvt m s (BitVec.ofNat 6 (g 0 d.toNat)) (BitVec.ofNat 6 (g 1 a.toNat)) t u
  | .fmin t d a b => .fmin t (BitVec.ofNat 6 (g 0 d.toNat)) (BitVec.ofNat 6 (g 1 a.toNat)) (BitVec.ofNat 6 (g 2 b.toNat))
  | .fmax t d a b => .fmax t (BitVec.ofNat 6 (g 0 d.toNat)) (BitVec.ofNat 6 (g 1 a.toNat)) (BitVec.ofNat 6 (g 2 b.toNat))
  | .fsgnj t d a b => .fsgnj t (BitVec.ofNat 6 (g 0 d.toNat)) (BitVec.ofNat 6 (g 1 a.toNat)) (BitVec.ofNat 6 (g 2 b.toNat))
  | .fsgnjn t d a b => .fsgnjn t (BitVec.ofNat 6 (g 0 d.toNat)) (BitVec.ofNat 6 (g 1 a.toNat)) (BitVec.ofNat 6 (g 2 b.toNat))
  | .fsgnjx t d a b => .fsgnjx t (BitVec.ofNat 6 (g 0 d.toNat)) (BitVec.ofNat 6 (g 1 a.toNat)) (BitVec.ofNat 6 (g 2 b.toNat))
  | .feq t d a b => .feq t (BitVec.ofNat 6 (g 0 d.toNat)) (BitVec.ofNat 6 (g 1 a.toNat)) (BitVec.ofNat 6 (g 2 b.toNat))
  | .flt t d a b => .flt t (BitVec.ofNat 6 (g 0 d.toNat)) (BitVec.ofNat 6 (g 1 a.toNat)) (BitVec.ofNat 6 (g 2 b.toNat))
  | .fle t d a b => .fle t (BitVec.ofNat 6 (g 0 d.toNat)) (BitVec.ofNat 6 (g 1 a.toNat)) (BitVec.ofNat 6 (g 2 b.toNat))
  | .fclass t d a => .fclass t (BitVec.ofNat 6 (g 0 d.toNat)) (BitVec.ofNat 6 (g 1 a.toNat))
  | .fmadd t m d a b => .fmadd t m (BitVec.ofNat 6 (g 0 d.toNat)) (BitVec.ofNat 6 (g 1 a.toNat)) (BitVec.ofNat 6 (g 2 b.toNat))
  | .fmsub t m d a b => .fmsub t m (BitVec.ofNat 6 (g 0 d.toNat)) (BitVec.ofNat 6 (g 1 a.toNat)) (BitVec.ofNat 6 (g 2 b.toNat))
  | .fnmadd t m d a b => .fnmadd t m (BitVec.ofNat 6 (g 0 d.toNat)) (BitVec.ofNat 6 (g 1 a.toNat)) (BitVec.ofNat 6 (g 2 b.toNat))
  | .fnmsub t m d a b => .fnmsub t m (BitVec.ofNat 6 (g 0 d.toNat)) (BitVec.ofNat 6 (g 1 a.toNat)) (BitVec.ofNat 6 (g 2 b.toNat))
  | .sel d a b c => .sel (BitVec.ofNat 6 (g 0 d.toNat)) (BitVec.ofNat 6 (g 1 a.toNat)) (BitVec.ofNat 6 (g 2 b.toNat)) (BitVec.ofNat 6 (g 3 c.toNat))
  | .vadd y d a b k => .vadd y (BitVec.ofNat 5 (g 0 d.toNat)) (BitVec.ofNat 5 (g 1 a.toNat)) (BitVec.ofNat 5 (g 2 b.toNat)) k
  | .vsub y d a b k => .vsub y (BitVec.ofNat 5 (g 0 d.toNat)) (BitVec.ofNat 5 (g 1 a.toNat)) (BitVec.ofNat 5 (g 2 b.toNat)) k
  | .vmul y d a b k => .vmul y (BitVec.ofNat 5 (g 0 d.toNat)) (BitVec.ofNat 5 (g 1 a.toNat)) (BitVec.ofNat 5 (g 2 b.toNat)) k
  | .vdiv y d a b k => .vdiv y (BitVec.ofNat 5 (g 0 d.toNat)) (BitVec.ofNat 5 (g 1 a.toNat)) (BitVec.ofNat 5 (g 2 b.toNat)) k
  | .vmin y d a b k => .vmin y (BitVec.ofNat 5 (g 0 d.toNat)) (BitVec.ofNat 5 (g 1 a.toNat)) (BitVec.ofNat 5 (g 2 b.toNat)) k
  | .vmax y d a b k => .vmax y (BitVec.ofNat 5 (g 0 d.toNat)) (BitVec.ofNat 5 (g 1 a.toNat)) (BitVec.ofNat 5 (g 2 b.toNat)) k
  | .vabs y d a k => .vabs y (BitVec.ofNat 5 (g 0 d.toNat)) (BitVec.ofNat 5 (g 1 a.toNat)) k
  | .vneg y d a k => .vneg y (BitVec.ofNat 5 (g 0 d.toNat)) (BitVec.ofNat 5 (g 1 a.toNat)) k
  | .vsgnj y d a b k => .vsgnj y (BitVec.ofNat 5 (g 0 d.toNat)) (BitVec.ofNat 5 (g 1 a.toNat)) (BitVec.ofNat 5 (g 2 b.toNat)) k
  | .vfmadd d a b c k => .vfmadd (BitVec.ofNat 5 (g 0 d.toNat)) (BitVec.ofNat 5 (g 1 a.toNat)) (BitVec.ofNat 5 (g 2 b.toNat)) (BitVec.ofNat 5 (g 3 c.toNat)) k
  | .vfmsub d a b c k => .vfmsub (BitVec.ofNat 5 (g 0 d.toNat)) (BitVec.ofNat 5 (g 1 a.toNat)) (BitVec.ofNat 5 (g 2 b.toNat)) (BitVec.ofNat 5 (g 3 c.toNat)) k
  | .vfnmadd d a b c k => .vfnmadd (BitVec.ofNat 5 (g 0 d.toNat)) (BitVec.ofNat 5 (g 1 a.toNat)) (BitVec.ofNat 5 (g 2 b.toNat)) (BitVec.ofNat 5 (g 3 c.toNat)) k
  | .vfnmsub d a b c k => .vfnmsub (BitVec.ofNat 5 (g 0 d.toNat)) (BitVec.ofNat 5 (g 1 a.toNat)) (BitVec.ofNat 5 (g 2 b.toNat)) (BitVec.ofNat 5 (g 3 c.toNat)) k
  | .vaddx y d b x k => .vaddx y (BitVec.ofNat 5 (g 0 d.toNat)) (BitVec.ofNat 5 (g 1 b.toNat)) (BitVec.ofNat 6 (g 2 x.toNat)) k
  | .vsubx y d b x k => .vsubx y (BitVec.ofNat 5 (g 0 d.toNat)) (BitVec.ofNat 5 (g 1 b.toNat)) (BitVec.ofNat 6 (g 2 x.toNat)) k
  | .vmulx y d b x k => .vmulx y (BitVec.ofNat 5 (g 0 d.toNat)) (BitVec.ofNat 5 (g 1 b.toNat)) (BitVec.ofNat 6 (g 2 x.toNat)) k
  | .vdivx y d b x k => .vdivx y (BitVec.ofNat 5 (g 0 d.toNat)) (BitVec.ofNat 5 (g 1 b.toNat)) (BitVec.ofNat 6 (g 2 x.toNat)) k
  | .vminx y d b x k => .vminx y (BitVec.ofNat 5 (g 0 d.toNat)) (BitVec.ofNat 5 (g 1 b.toNat)) (BitVec.ofNat 6 (g 2 x.toNat)) k
  | .vmaxx y d b x k => .vmaxx y (BitVec.ofNat 5 (g 0 d.toNat)) (BitVec.ofNat 5 (g 1 b.toNat)) (BitVec.ofNat 6 (g 2 x.toNat)) k
  | .vexp d a k => .vexp (BitVec.ofNat 5 (g 0 d.toNat)) (BitVec.ofNat 5 (g 1 a.toNat)) k
  | .vlog d a k => .vlog (BitVec.ofNat 5 (g 0 d.toNat)) (BitVec.ofNat 5 (g 1 a.toNat)) k
  | .vrcp d a k => .vrcp (BitVec.ofNat 5 (g 0 d.toNat)) (BitVec.ofNat 5 (g 1 a.toNat)) k
  | .vrsqrt d a k => .vrsqrt (BitVec.ofNat 5 (g 0 d.toNat)) (BitVec.ofNat 5 (g 1 a.toNat)) k
  | .vtanh d a k => .vtanh (BitVec.ofNat 5 (g 0 d.toNat)) (BitVec.ofNat 5 (g 1 a.toNat)) k
  | .vsqrt d a k => .vsqrt (BitVec.ofNat 5 (g 0 d.toNat)) (BitVec.ofNat 5 (g 1 a.toNat)) k
  | .viadd w u d a b k => .viadd w u (BitVec.ofNat 5 (g 0 d.toNat)) (BitVec.ofNat 5 (g 1 a.toNat)) (BitVec.ofNat 5 (g 2 b.toNat)) k
  | .visub w u d a b k => .visub w u (BitVec.ofNat 5 (g 0 d.toNat)) (BitVec.ofNat 5 (g 1 a.toNat)) (BitVec.ofNat 5 (g 2 b.toNat)) k
  | .vimul w u d a b k => .vimul w u (BitVec.ofNat 5 (g 0 d.toNat)) (BitVec.ofNat 5 (g 1 a.toNat)) (BitVec.ofNat 5 (g 2 b.toNat)) k
  | .vimulh w u d a b k => .vimulh w u (BitVec.ofNat 5 (g 0 d.toNat)) (BitVec.ofNat 5 (g 1 a.toNat)) (BitVec.ofNat 5 (g 2 b.toNat)) k
  | .viand w u d a b k => .viand w u (BitVec.ofNat 5 (g 0 d.toNat)) (BitVec.ofNat 5 (g 1 a.toNat)) (BitVec.ofNat 5 (g 2 b.toNat)) k
  | .vior w u d a b k => .vior w u (BitVec.ofNat 5 (g 0 d.toNat)) (BitVec.ofNat 5 (g 1 a.toNat)) (BitVec.ofNat 5 (g 2 b.toNat)) k
  | .vixor w u d a b k => .vixor w u (BitVec.ofNat 5 (g 0 d.toNat)) (BitVec.ofNat 5 (g 1 a.toNat)) (BitVec.ofNat 5 (g 2 b.toNat)) k
  | .visll w u d a b k => .visll w u (BitVec.ofNat 5 (g 0 d.toNat)) (BitVec.ofNat 5 (g 1 a.toNat)) (BitVec.ofNat 5 (g 2 b.toNat)) k
  | .visrl w u d a b k => .visrl w u (BitVec.ofNat 5 (g 0 d.toNat)) (BitVec.ofNat 5 (g 1 a.toNat)) (BitVec.ofNat 5 (g 2 b.toNat)) k
  | .visra w u d a b k => .visra w u (BitVec.ofNat 5 (g 0 d.toNat)) (BitVec.ofNat 5 (g 1 a.toNat)) (BitVec.ofNat 5 (g 2 b.toNat)) k
  | .vimin w u d a b k => .vimin w u (BitVec.ofNat 5 (g 0 d.toNat)) (BitVec.ofNat 5 (g 1 a.toNat)) (BitVec.ofNat 5 (g 2 b.toNat)) k
  | .vimax w u d a b k => .vimax w u (BitVec.ofNat 5 (g 0 d.toNat)) (BitVec.ofNat 5 (g 1 a.toNat)) (BitVec.ofNat 5 (g 2 b.toNat)) k
  | .vipopc w u d a k => .vipopc w u (BitVec.ofNat 5 (g 0 d.toNat)) (BitVec.ofNat 5 (g 1 a.toNat)) k
  | .viaddSat w u d a b k => .viaddSat w u (BitVec.ofNat 5 (g 0 d.toNat)) (BitVec.ofNat 5 (g 1 a.toNat)) (BitVec.ofNat 5 (g 2 b.toNat)) k
  | .visubSat w u d a b k => .visubSat w u (BitVec.ofNat 5 (g 0 d.toNat)) (BitVec.ofNat 5 (g 1 a.toNat)) (BitVec.ofNat 5 (g 2 b.toNat)) k
  | .viaddx w d b x k => .viaddx w (BitVec.ofNat 5 (g 0 d.toNat)) (BitVec.ofNat 5 (g 1 b.toNat)) (BitVec.ofNat 6 (g 2 x.toNat)) k
  | .visubx w d b x k => .visubx w (BitVec.ofNat 5 (g 0 d.toNat)) (BitVec.ofNat 5 (g 1 b.toNat)) (BitVec.ofNat 6 (g 2 x.toNat)) k
  | .vimulx w d b x k => .vimulx w (BitVec.ofNat 5 (g 0 d.toNat)) (BitVec.ofNat 5 (g 1 b.toNat)) (BitVec.ofNat 6 (g 2 x.toNat)) k
  | .viandx w d b x k => .viandx w (BitVec.ofNat 5 (g 0 d.toNat)) (BitVec.ofNat 5 (g 1 b.toNat)) (BitVec.ofNat 6 (g 2 x.toNat)) k
  | .viorx w d b x k => .viorx w (BitVec.ofNat 5 (g 0 d.toNat)) (BitVec.ofNat 5 (g 1 b.toNat)) (BitVec.ofNat 6 (g 2 x.toNat)) k
  | .vixorx w d b x k => .vixorx w (BitVec.ofNat 5 (g 0 d.toNat)) (BitVec.ofNat 5 (g 1 b.toNat)) (BitVec.ofNat 6 (g 2 x.toNat)) k
  | .visllx w d b x k => .visllx w (BitVec.ofNat 5 (g 0 d.toNat)) (BitVec.ofNat 5 (g 1 b.toNat)) (BitVec.ofNat 6 (g 2 x.toNat)) k
  | .visrlx w d b x k => .visrlx w (BitVec.ofNat 5 (g 0 d.toNat)) (BitVec.ofNat 5 (g 1 b.toNat)) (BitVec.ofNat 6 (g 2 x.toNat)) k
  | .visrax w d b x k => .visrax w (BitVec.ofNat 5 (g 0 d.toNat)) (BitVec.ofNat 5 (g 1 b.toNat)) (BitVec.ofNat 6 (g 2 x.toNat)) k
  | .vcmp p t d a b k => .vcmp p t (BitVec.ofNat 3 (g 0 d.toNat)) (BitVec.ofNat 5 (g 1 a.toNat)) (BitVec.ofNat 5 (g 2 b.toNat)) k
  | .kand d a b => .kand (BitVec.ofNat 3 (g 0 d.toNat)) (BitVec.ofNat 3 (g 1 a.toNat)) (BitVec.ofNat 3 (g 2 b.toNat))
  | .kor d a b => .kor (BitVec.ofNat 3 (g 0 d.toNat)) (BitVec.ofNat 3 (g 1 a.toNat)) (BitVec.ofNat 3 (g 2 b.toNat))
  | .kxor d a b => .kxor (BitVec.ofNat 3 (g 0 d.toNat)) (BitVec.ofNat 3 (g 1 a.toNat)) (BitVec.ofNat 3 (g 2 b.toNat))
  | .knot d a => .knot (BitVec.ofNat 3 (g 0 d.toNat)) (BitVec.ofNat 3 (g 1 a.toNat))
  | .kmov d a => .kmov (BitVec.ofNat 3 (g 0 d.toNat)) (BitVec.ofNat 3 (g 1 a.toNat))
  | i => i

end Sys2Proof.Machine
end

