-- ==== Sys2Proof/Machine/Registers.lean ====
section
/-! DEFINITION. Control space: the registers of the dies, partitions, device block and Absan Link ports, read and written at their offsets
(R4, R374 to R376, R381, R386, R393). A write acts on the bits its mask names; a register's action beyond its bits goes to the agenda. -/

namespace Sys2Proof.Machine

/-- RW bits: those in the mask and in the field set take the written value. -/
def rwBits (old mask v field : Word) : Word := (old &&& ~~~(mask &&& field)) ||| (v &&& mask &&& field)

/-- W1C bits: a written 1 clears. -/
def w1cBits (old mask v field : Word) : Word := old &&& ~~~(v &&& mask &&& field)

/-- Bits hi to lo set. -/
def maskBits (hi lo : Nat) : Word := BitVec.ofNat 64 ((2 ^ (hi + 1 - lo) - 1) * 2 ^ lo)

/-- The partition control error bit set (R375, R376, R400). -/
def Part.cerr (p : Part) : Part := { p with pcfg := setBit p.pcfg 1 true }

/-- A wait-limit register after a write: bits 31 to 0, at least 64 (R212). -/
def limitWrite (old mask v : Word) : Word :=
  let w := rwBits old mask v (maskBits 31 0)
  if bits w 31 0 < 64 then 64 else w

/-! ## Partition block (R374) -/

/-- A partition's live firings. -/
def State.residents (s : State) (p : Fin 16) : List Firing := s.firings.filter fun f => f.part == p

/-- An enabled queue with records (R375). -/
def LQueue.busy (q : LQueue) : Bool := bit q.lqcfg 16 && bits q.lqhead 31 0 != bits q.lqtail 31 0

/-- A PINT value the partition may take (R375, R391). -/
def State.pintOk (s : State) (p : Fin 16) (v : Word) : Bool :=
  let start := bits v 9 0
  let len := bits v 42 32
  decide (start + len ≤ 1024)
    && ((List.range 16).all fun j =>
      let q := (s.parts.toList.drop j).headD Part.reset
      j == p.val || q.len == 0 || len == 0 || decide (start + len ≤ q.start) || decide (q.start + q.len ≤ start))
    && (s.residents p).isEmpty && !(s.parts[p].lq.toList.any LQueue.busy)
    && ((List.range 1024).all fun h => !(decide (start ≤ h) && decide (h < start + len)) ||
      ((s.fronds.toList.drop h).headD Frond.reset).tested)

/-- A frond given to a partition (R120, R142, R345). -/
def Frond.assign (f : Frond) : Frond :=
  { f with hs := Vector.replicate 16 0, swin := Vector.replicate 8 0, sorus := Sorus.blank }

/-- The fronds of an interval given to a partition, with their cores' deques (R191, R375). -/
def State.assign (s : State) (start len : Nat) : State :=
  { s with
    fronds := s.fronds.mapIdx fun h f => if start ≤ h && h < start + len then f.assign else f
    cores := s.cores.mapIdx fun c x => if start ≤ c / 2 && c / 2 < start + len then { x with dqbase := 0 } else x }

/-- A PINT write (R375). -/
def State.writePint (s : State) (p : Fin 16) (v : Word) : State :=
  if s.pintOk p v then (s.assign (bits v 9 0) (bits v 42 32)).onPart p fun x => { x with pint := v &&& (maskBits 9 0 ||| maskBits 42 32) }
  else s.onPart p Part.cerr

/-- A table of n bytes in HBM below 768 GiB, aligned (R400). -/
def inHbm (a n al : Nat) : Bool := decide (a + n ≤ hbmEnd) && a % al == 0

/-- Work added for a unit, with dwords. -/
def State.pushWith (s : State) (op : Instr) (a b c : Nat) (v : Word) (l : List Word) : State :=
  { s with agenda := s.agenda ++ [{ op := op, a := a, b := b, c := c, v := v, l := l }] }

/-- A TLB entry an invalidation names. -/
def tlbNamed (p : Fin 16) (v : Word) (t : Tlb) : Bool :=
  let a := bits v 56 12 * 4096
  t.part == p && !(bit v 62 && bit t.pte 4) && (bit v 63 || (decide (t.va < a + 4096) && decide (a < t.va + t.size)))

/-- The peers of a partition that are not lost: package and partition there (R219, R372, R389). -/
def State.livePeers (s : State) (p : Fin 16) : List (Nat × Nat) :=
  ((List.range (min s.parts[p].peerlen.toNat 256)).filterMap fun i =>
    let w0 := (s.peer p i).1
    if bit w0 63 && !s.lost.contains (bits w0 21 0) then some (bits w0 21 0, bits w0 25 22) else none).eraseDups

/-- The remote pages an invalidation of one page names, as far as some die still holds their translation: package, partition there, and the page
in its window, or every page for one larger than 4 KiB. -/
def State.heldPages (s : State) (p : Fin 16) (v : Word) : List (Nat × Nat × Word) :=
  let ts := (s.dies.toList.flatMap Die.tlb).filter fun t => tlbNamed p v t && bits t.pte 11 10 == 2
  (ts.map fun t =>
    let (w0, w1) := s.peer p (bits t.pte 55 48)
    let page : Word :=
      if t.size = 4096 then BitVec.ofNat 64 ((bits w1 56 12 + bits t.pte 47 16) % 2 ^ 45 * 4096) else BitVec.ofNat 64 (2 ^ 63)
    (bits w0 21 0, bits w0 25 22, page)).eraseDups

/-- What an invalidation asks of every peer that is not lost (R373): the remote pages of it that are named; every page where ALL is set, or where
no die holds a translation that tells which one the name had (log 16). -/
def State.peerPages (s : State) (p : Fin 16) (v : Word) : List (Nat × Nat × Word) :=
  let held := if bit v 63 then [] else s.heldPages p v
  (s.livePeers p).flatMap fun q => match held.filter fun h => h.1 == q.1 && h.2.1 == q.2 with
    | [] => [(q.1, q.2, BitVec.ofNat 64 (2 ^ 63))]
    | hs => hs

/-- A TLBINV write: an invalidation starts here and at the peers it concerns, or the write waits for the one under way (R373). Its completion
awaits a report of each, marked 2^62 and package. -/
def State.writeTlbinv (s : State) (p : Fin 16) (v : Word) : State :=
  if bit s.parts[p].tlbstat 0 then s.push .tlbinvWrite p.val 1 0 v
  else
    let ps := s.peerPages p v
    let marks := ps.flatMap fun q => [BitVec.ofNat 64 (2 ^ 62), BitVec.ofNat 64 q.1]
    let t := (s.onPart p fun x => { x with tlbinv := v, tlbstat := 1 }).pushWith .tlbinvComplete p.val 0 0 0 marks
    ps.foldl (fun s q => s.send (.tlbinv q.1 q.2.1 q.2.2)) t

/-- A supervisor action asked for by FCMD (R198, R374). -/
def State.writeFcmd (s : State) (p : Fin 16) (v : Word) : State :=
  let s := s.onPart p fun x => { x with fcmd := v }
  let n := bits v 31 0
  match bits v 63 61 with
  | 1 => s.push .fcmdResumePc p.val n 0 0
  | 2 => s.push .fcmdResumeUtvec p.val n 0 0
  | 3 => s.pushWith .fcmdSave p.val n 0 0 [s.parts[p].p2, s.parts[p].p3]
  | 4 => s.push .fcmdDiscard p.val n 0 0
  | 5 => s.push .fcmdKill p.val n 0 0
  | _ => s

/-- A pre-emption or resume request started by a P4 or P5 write: P0 to P3 as they stand, and whether another request is active (R201). -/
def State.askPreempt (s : State) (op : Instr) (p : Fin 16) (addr : Word) : State :=
  let x := s.parts[p]
  let open_ (e : Ev) : Bool := (e.op == .preemptRequest || (e.op == .resumeRequest && e.c == 0)) && e.a == p.val
  let busy := x.req.isSome || s.agenda.any open_
  s.pushWith op p.val 0 0 addr [x.p0, x.p1, x.p2, x.p3, if busy then 1 else 0]

/-- A launch queue changed. -/
def State.onQueue (s : State) (p : Fin 16) (q : Fin 32) (g : LQueue → LQueue) : State :=
  s.onPart p fun x => { x with lq := x.lq.set q (g x.lq[q]) }

/-- LOG2N of a queue. -/
def LQueue.log2n (q : LQueue) : Nat := bits q.lqcfg 4 0

/-- An error report latched unless one stands (R78, R86). -/
def LQueue.latch (q : LQueue) (code seq : Nat) : LQueue :=
  if bit q.lqerr 8 then q else { q with lqerr := BitVec.ofNat 64 (seq % 2 ^ 32 * 2 ^ 32 + 256 + code) }

/-- An LQCFG write (R86). -/
def LQueue.writeCfg (q : LQueue) (mask v : Word) : LQueue :=
  let n := bits v 4 0
  let c := rwBits q.lqcfg mask v (setBit (maskBits 18 16) 17 false ||| maskBits 11 8)
  let c := w1cBits c mask v (maskBits 17 17)
  let c := if bit mask 0 && 1 ≤ n && n ≤ 16 then setBits c 4 0 n else c
  { q with lqcfg := if bits c 4 0 = 0 then setBit c 16 false else c }

/-- A host LQTAIL write (R86): ignored without a ring or on a queue fed by LAUNCH; an overrun halts the queue. -/
def LQueue.writeTail (q : LQueue) (v : Word) : LQueue :=
  if q.log2n = 0 || bit q.lqcfg 18 then q
  else
    let t := bits v 31 0
    let q' := { q with lqtail := BitVec.ofNat 64 t }
    let hd := bits q.lqhead 31 0
    if (t + 2 ^ 32 - hd) % 2 ^ 32 ≤ 2 ^ q.log2n then q'
    else { q'.latch 0x3E (hd + 2 ^ q.log2n) with lqcfg := setBit q.lqcfg 17 true }

/-- The launch unit looks at a queue (R87). -/
def State.pokeQueue (s : State) (p : Fin 16) (q : Fin 32) : State := s.push .launchRecordRead p.val q.val 0 0

/-- A queue whose LQCFG was written goes on where it stood: its head record's dependences, its placements (R86, R87). -/
def State.rekindle (s : State) (p : Fin 16) (q : Fin 32) : State :=
  match s.parts[p].lq[q].team with
  | none => s
  | some _ => (s.push .dependencesMet p.val q.val 0 0).push .firingPlace p.val 0 0 0

/-- A launch-queue register written. -/
def State.writeQueue (s : State) (p : Fin 16) (q : Fin 32) (r : Nat) (mask v : Word) : State :=
  match r with
  | 0 => s.onQueue p q fun x => { x with lqbase := rwBits x.lqbase mask v (maskBits 56 7) }
  | 1 => ((s.onQueue p q fun x => x.writeCfg mask v).pokeQueue p q).rekindle p q
  | 3 => (s.onQueue p q fun x => x.writeTail (rwBits x.lqtail mask v (maskBits 31 0))).pokeQueue p q
  | 4 => s.onQueue p q fun x => { x with lqerr := w1cBits x.lqerr mask v (maskBits 8 8) }
  | _ => s

/-- An order-log register of die d written (R339). -/
def Part.writeLog (x : Part) (d : Fin 4) (r : Nat) (mask v : Word) : Part :=
  match r with
  | 0 => { x with logbase := x.logbase.set d (rwBits x.logbase[d] mask v (maskBits 56 4)) }
  | 1 => { x with loglen := x.loglen.set d (rwBits x.loglen[d] mask v (maskBits 31 0)) }
  | 2 => { x with logpos := x.logpos.set d (rwBits x.logpos[d] mask v (maskBits 31 0)) }
  | _ => x

/-- The log buffer of a die has room (R340). -/
def Part.logRoom (x : Part) (d : Fin 4) : Bool := bits x.logpos[d] 31 0 != bits x.loglen[d] 31 0

/-- Placements held on the full order log of a die are tried again once a write to its registers leaves room (R340). -/
def State.unholdPlacements (s : State) (p : Fin 16) (d : Fin 4) : State :=
  let mine (t : Team) : Bool := t.part == p && t.held && t.heldDie == some d.val
  if s.parts[p].logRoom d && s.teams.any mine then
    ({ s with teams := s.teams.map fun t => if mine t then { t with held := false } else t }).push .firingPlace p.val 0 0 0
  else s

/-- A register of a partition block written, o the dword's offset in the block. -/
def State.writePart (s : State) (p : Fin 16) (o : Nat) (mask v : Word) : State :=
  let x := s.parts[p]
  let whole := maskBits 63 0
  match o with
  | 0x000 => s.writePint p (rwBits x.pint mask v whole)
  | 0x008 =>
      let w := rwBits x.pcfg mask v (maskBits 39 32 ||| maskBits 10 8 ||| maskBits 4 4 ||| maskBits 0 0)
      s.onPart p fun x => { x with pcfg := w1cBits w mask v (maskBits 1 1) }
  | 0x010 =>
      let w := rwBits x.ptbr mask v (maskBits 51 12)
      if inHbm w.toNat 4096 4096 then s.onPart p fun x => { x with ptbr := w } else s.onPart p Part.cerr
  | 0x018 => s.onPart p fun x => { x with etbase := rwBits x.etbase mask v (maskBits 56 5) }
  | 0x020 => s.onPart p fun x => { x with shtbase := rwBits x.shtbase mask v (maskBits 56 0) }
  | 0x028 => s.onPart p fun x => { x with shtlen := rwBits x.shtlen mask v whole }
  | 0x030 =>
      let w := rwBits x.peerbase mask v whole
      if inHbm w.toNat (16 * x.peerlen.toNat) 16 then s.onPart p fun x => { x with peerbase := w } else s.onPart p Part.cerr
  | 0x038 =>
      let w := rwBits x.peerlen mask v whole
      if w.toNat ≤ 256 && inHbm x.peerbase.toNat (16 * w.toNat) 16 then s.onPart p fun x => { x with peerlen := w }
      else s.onPart p Part.cerr
  | 0x040 =>
      let w := rwBits x.trbase mask v whole
      if inHbm w.toNat (64 * 2 ^ x.trlog2.toNat) 64 then s.onPart p fun x => { x with trbase := w } else s.onPart p Part.cerr
  | 0x048 =>
      let w := rwBits x.trlog2 mask v whole
      if w.toNat ≤ 31 && inHbm x.trbase.toNat (64 * 2 ^ w.toNat) 64 then s.onPart p fun x => { x with trlog2 := w }
      else s.onPart p Part.cerr
  | 0x050 => s.onPart p fun x => { x with trhead := rwBits x.trhead mask v (maskBits 31 0) }
  | 0x060 => s.onPart p fun x => { x with qlimdef := limitWrite x.qlimdef mask v }
  | 0x068 => s.onPart p fun x => { x with fewlimdef := limitWrite x.fewlimdef mask v }
  | 0x070 => s.onPart p fun x => { x with stealseed := rwBits x.stealseed mask v whole }
  | 0x078 => s.onPart p fun x => { x with xpseed := rwBits x.xpseed mask v whole }
  | 0x080 => s.writeTlbinv p (rwBits 0 mask v (maskBits 63 62 ||| maskBits 56 12))
  | 0x090 => s.onPart p fun x => { x with shmbase := rwBits x.shmbase mask v (maskBits 63 16) }
  | 0x098 => s.onPart p fun x => { x with shmlen := rwBits x.shmlen mask v (maskBits 63 16) }
  | 0x0A0 => s.writeFcmd p (rwBits 0 mask v (maskBits 63 61 ||| maskBits 31 0))
  | 0x100 => s.onPart p fun x => { x with p0 := rwBits x.p0 mask v whole }
  | 0x108 => s.onPart p fun x => { x with p1 := rwBits x.p1 mask v (maskBits 63 62 ||| maskBits 39 0) }
  | 0x110 => s.onPart p fun x => { x with p2 := rwBits x.p2 mask v whole }
  | 0x118 => s.onPart p fun x => { x with p3 := rwBits x.p3 mask v (maskBits 39 0) }
  | 0x120 => (s.onPart p fun x => { x with p4 := rwBits 0 mask v whole }).askPreempt .preemptRequest p (rwBits 0 mask v whole)
  | 0x128 => (s.onPart p fun x => { x with p5 := rwBits 0 mask v whole }).askPreempt .resumeRequest p (rwBits 0 mask v whole)
  | _ =>
    if h : 0x1000 ≤ o ∧ o < 0x1800 then
      s.writeQueue p ⟨(o - 0x1000) / 64, by omega⟩ ((o - 0x1000) % 64 / 8) mask v
    else if h : 0x2000 ≤ o ∧ o < 0x2080 then
      (s.onPart p fun x => x.writeLog ⟨(o - 0x2000) / 32, by omega⟩ ((o - 0x2000) % 32 / 8) mask v).unholdPlacements p ⟨(o - 0x2000) / 32, by omega⟩
    else s

/-- A register of a partition block read; write-only and unnamed registers read zero (R4, R374). -/
def Part.read (x : Part) (o : Nat) : Word :=
  match o with
  | 0x000 => x.pint | 0x008 => x.pcfg | 0x010 => x.ptbr | 0x018 => x.etbase | 0x020 => x.shtbase | 0x028 => x.shtlen
  | 0x030 => x.peerbase | 0x038 => x.peerlen | 0x040 => x.trbase | 0x048 => x.trlog2 | 0x050 => x.trhead | 0x058 => x.trtail
  | 0x060 => x.qlimdef | 0x068 => x.fewlimdef | 0x070 => x.stealseed | 0x078 => x.xpseed | 0x080 => x.tlbinv | 0x088 => x.tlbstat
  | 0x090 => x.shmbase | 0x098 => x.shmlen | 0x0A0 => x.fcmd | 0x0C0 => x.dropcnt | 0x0C8 => x.lostpkg | 0x0D0 => x.elost
  | 0x100 => x.p0 | 0x108 => x.p1 | 0x110 => x.p2 | 0x118 => x.p3
  | _ =>
    if h : 0x1000 ≤ o ∧ o < 0x1800 then
      let q := x.lq[(o - 0x1000) / 64]'(by omega)
      match (o - 0x1000) % 64 / 8 with
      | 0 => q.lqbase | 1 => q.lqcfg | 2 => q.lqhead | 3 => q.lqtail | 4 => q.lqerr
      | _ => 0
    else if h : 0x2000 ≤ o ∧ o < 0x2080 then
      let d := (o - 0x2000) / 32
      match (o - 0x2000) % 32 / 8 with
      | 0 => x.logbase[d]'(by omega) | 1 => x.loglen[d]'(by omega) | 2 => x.logpos[d]'(by omega)
      | _ => 0
    else 0

/-! ## Dies, ports, device block -/

/-- An MSCCFG write (R376). -/
def State.writeMsc (s : State) (d : Fin 4) (mask v : Word) : State :=
  if !bit mask 0 then s
  else if bit s.dies[d].msccfg 63 then { s with parts := s.parts.map Part.cerr }
  else (s.onDie d fun x =>
    { x with mscOld := bits x.msccfg 2 0, msccfg := setBit (BitVec.ofNat 64 (bits v 2 0)) 63 true }).push .mscChangeComplete d.val 0 0 0

/-- ALSTAT of a port (R386); it shows lanes once the port has trained. -/
def Port.alstat (p : Port) : Word :=
  let lanes := if p.trained then p.healthy * 2 ^ 12 + p.actout * 2 ^ 9 + p.actin * 2 ^ 6 else 0
  BitVec.ofNat 64 (min p.retrains 65535 * 2 ^ 32 + lanes + p.keywarn.toNat * 2 ^ 5 + p.state)

/-- Active lanes outbound and inbound from the healthy ones (R384): a fixed SPLIT, or turned round below 8, the larger share outbound at
the package with the lower id. -/
def Port.lanes (p : Port) (low : Bool) : Nat × Nat :=
  let n := p.healthy
  if p.split ≠ 0 then let o := min (min p.split 4) n; (o, min 4 (n - o))
  else if n < 8 then
    let big := min 4 ((n + 1) / 2)
    let small := min 4 (n - big)
    if low then (big, small) else (small, big)
  else (4, 4)

/-- A port's lanes assigned anew; the healthy lanes left over are spares, the first of them outbound (R383, R384; log 48). -/
def Port.assign (p : Port) (low : Bool) : Port :=
  let (o, i) := p.lanes low
  { p with actout := o, actin := i, spareOut := decide (o + i < p.healthy), spareIn := decide (o + i + 1 < p.healthy) }

/-- This package has the lower id of the two a port joins (R384). -/
def State.lower (s : State) (p : Port) : Bool := p.peer.any fun q => decide (s.dev.pkg < q)

/-- An ALCTL write: EN stays 0 where the fused mask disables the port; enabling trains it, disabling drops it, a changed SPLIT retrains
it (R384, R386, R394). A lost peer is lost no more once each port toward it that the mask allows has been disabled and enabled again (R389). -/
def State.writeAlctl (s : State) (p : Fin 18) (mask v : Word) : State :=
  let x := s.ports[p]
  let en := (if bit mask 63 then bit v 63 else x.en) && bit s.dev.portMask p.val
  let split := if bit mask 0 then bits v 2 0 else x.split
  let y : Port := { x with en := en, split := split, state := if en then (if x.en then x.state else 1) else 0 }
  let y : Port := if x.split != split || (en && !x.en && decide (y.healthy < 8)) then y.assign (s.lower y) else y
  let moved := (x.actout, x.actin) != (y.actout, y.actin)
  let y : Port := if en && x.en && moved && y.state != 4 then { y with state := 1 } else y
  let s := s.onPort p fun _ => y
  let cleared (z : Port × Nat) : Bool := z.1.peer != x.peer || !bit s.dev.portMask z.2 || (z.1.en && z.1.state != 4)
  let back := en && !x.en && s.ports.toList.zipIdx.all cleared
  let s : State := match x.peer with
    | some q => if back then { s with lost := s.lost.filter fun r => r != q } else s
    | none => s
  if y.state = 1 && (moved || !x.en) then s.push .retrainComplete p.val x.en.toNat 0 0 else s

/-- The staging registers as one key. -/
def Port.stagingKey (p : Port) : BitVec 256 := p.staging[3] ++ p.staging[2] ++ p.staging[1] ++ p.staging[0]

/-- A key staged for a port (R386, R388). -/
def State.stageKey (s : State) (p : Fin 18) (key : BitVec 256) (salt : BitVec 48) : State :=
  (s.onPort p fun x => { x with staged := some (key, salt) }).push .keySwitch p.val 0 0 0

/-- A port register written. -/
def State.writePort (s : State) (p : Fin 18) (r : Nat) (mask v : Word) : State :=
  match r with
  | 0 => s.writeAlctl p mask v
  | 1 => s.onPort p fun x => { x with keywarn := x.keywarn && !(bit mask 5 && bit v 5) }
  | 6 => s.stageKey p s.ports[p].stagingKey (v.extractLsb' 0 48)
  | _ => if h : 2 ≤ r ∧ r < 6 then
      s.onPort p fun x => { x with staging := x.staging.set (r - 2) (rwBits (x.staging[r - 2]'(by omega)) mask v (maskBits 63 0)) }
    else s

/-- A port register read. -/
def Port.read (p : Port) (r : Nat) : Word :=
  match r with
  | 0 => BitVec.ofNat 64 (p.en.toNat * 2 ^ 63 + p.split)
  | 1 => p.alstat
  | _ => 0

/-- CMDRES with DONE set and a status, and its MSI-X (R393). -/
def State.cmdDone (s : State) (st : Nat) : State :=
  ({ s with dev := { s.dev with cmdres := BitVec.ofNat 64 (2 ^ 63 + st) } }).send (.msix 0)

/-- A command allowed in a stage (R391). -/
def cmdAllowed (stage op : Nat) : Bool :=
  match stage with
  | 1 => op == 1 || op == 5 || op == 7
  | 2 | 3 => true
  | 4 => op == 1 || op == 2 || op == 4 || op == 7
  | _ => false

/-- A CMD write (R393). -/
def State.writeCmd (s : State) (v : Word) : State :=
  let op := bits v 7 0
  let go (e : Instr) : State := ({ s with dev := { s.dev with cmdRun := some (op, bits v 63 8) } }).push e 0 0 0 v
  if s.dev.cmdRun.isSome then s.cmdDone 1
  else if op = 0 || 7 < op then s.cmdDone 4
  else if !cmdAllowed s.dev.stage op then s.cmdDone 2
  else match op with
    | 1 => go .ident
    | 2 => go .health
    | 3 => go .thermal
    | 4 => go .resync
    | 5 => go .fwload
    | 6 => go .keyload
    | _ => go .reset

/-- A device-block register written. -/
def State.writeDev (s : State) (r : Nat) (mask v : Word) : State :=
  match r with
  | 1 => s.writeCmd (rwBits 0 mask v (maskBits 63 0))
  | 2 => { s with dev := { s.dev with cmdres := w1cBits s.dev.cmdres mask v (maskBits 63 63) } }
  | _ => s

/-- A device-block register read. -/
def Device.read (d : Device) (r : Nat) : Word :=
  match r with
  | 0 => BitVec.ofNat 64 (d.fwver.toNat * 2 ^ 32 + d.fault % 256 * 2 ^ 8 + d.stage)
  | 2 => d.cmdres
  | _ => 0

/-! ## The whole of control space -/

/-- A dword of control space read. -/
def State.ctlRead (s : State) (o : Nat) : Word :=
  if h : o < 0x4000 then (if o % 0x1000 = 0 then (s.dies[o / 0x1000]'(by omega)).msccfg else 0)
  else if h : 0x1000000 ≤ o ∧ o < 0x2000000 then (s.parts[(o - 0x1000000) / 0x100000]'(by omega)).read ((o - 0x1000000) % 0x100000)
  else if 0x3000000 ≤ o ∧ o < 0x3000018 then s.dev.read ((o - 0x3000000) / 8)
  else if 0x3010000 ≤ o ∧ o < 0x3020000 then BitVec.ofNat 64 (s.mem.read (bufKey (o - 0x3010000)) 8)
  else if h : 0x4000000 ≤ o ∧ o < 0x4012000 then (s.ports[(o - 0x4000000) / 0x1000]'(by omega)).read (o % 0x1000 / 8)
  else 0

/-- A dword of control space written; before FULL only the device block takes writes (R391). -/
def State.ctlWrite (s : State) (o : Nat) (mask v : Word) : State :=
  if 0x3000000 ≤ o ∧ o < 0x3000018 then (if s.dev.stage = 0 then s else s.writeDev ((o - 0x3000000) / 8) mask v)
  else if 0x3010000 ≤ o ∧ o < 0x3020000 then
    let k := bufKey (o - 0x3010000)
    let w := rwBits (BitVec.ofNat 64 (s.mem.read k 8)) mask v (maskBits 63 0)
    if s.dev.stage = 0 then s else { s with mem := s.mem.write k 8 w.toNat }
  else if s.dev.stage ≠ 3 then s
  else if h : o < 0x4000 then (if o % 0x1000 = 0 then s.writeMsc ⟨o / 0x1000, by omega⟩ mask v else s)
  else if h : 0x1000000 ≤ o ∧ o < 0x2000000 then
    s.writePart ⟨(o - 0x1000000) / 0x100000, by omega⟩ ((o - 0x1000000) % 0x100000) mask v
  else if h : 0x4000000 ≤ o ∧ o < 0x4012000 then s.writePort ⟨(o - 0x4000000) / 0x1000, by omega⟩ (o % 0x1000 / 8) mask v
  else s

/-- n bytes of control space read, inside one dword. -/
def State.ctlLoad (s : State) (o n : Nat) : Nat := ((s.ctlRead (o / 8 * 8)).toNat / 2 ^ (8 * (o % 8))) % 2 ^ (8 * n)

/-- n bytes of control space written, inside one dword. -/
def State.ctlStore (s : State) (o n v : Nat) : State :=
  s.ctlWrite (o / 8 * 8) (BitVec.ofNat 64 ((2 ^ (8 * n) - 1) * 2 ^ (8 * (o % 8)))) (BitVec.ofNat 64 (v % 2 ^ (8 * n) * 2 ^ (8 * (o % 8))))

end Sys2Proof.Machine
end

