-- ==== Sys2Proof/Machine/Flags.lean ====
section
/-! DEFINITION. Float formats, the one rounding every float result goes through, and the flags it sets (R48 to R61). A flag set is a
number with the bits of fflags (R60). -/

namespace Sys2Proof.Machine

/-- NV. -/
def fNV : Nat := 16
/-- DZ. -/
def fDZ : Nat := 8
/-- OF. -/
def fOF : Nat := 4
/-- UF. -/
def fUF : Nat := 2
/-- NX. -/
def fNX : Nat := 1

/-- What the top exponent code of a format means (R48 to R50). -/
inductive Top where
  /-- Infinity and NaNs, quiet and signalling (R48). -/
  | ieee
  /-- Infinity and quiet NaNs: the FP8 formats with TOPX = 0 (R49). -/
  | fp8inf
  /-- Finite but for the all-ones fraction, a NaN: the FP8 formats with TOPX = 1 (R49). -/
  | fp8fin
  /-- Finite throughout: e2m1 (R50). -/
  | finite
  deriving DecidableEq, Repr

/-- A float format: exponent width, fraction width, bias, top code. -/
structure Fmt where
  ew : Nat
  fw : Nat
  bias : Nat
  top : Top
  deriving DecidableEq, Repr

/-- FP64 (R48). -/
def f64 : Fmt := { ew := 11, fw := 52, bias := 1023, top := .ieee }
/-- FP32 (R48). -/
def f32 : Fmt := { ew := 8, fw := 23, bias := 127, top := .ieee }
/-- BF16 (R48). -/
def bf16 : Fmt := { ew := 8, fw := 7, bias := 127, top := .ieee }
/-- FP16 (R48). -/
def f16 : Fmt := { ew := 5, fw := 10, bias := 15, top := .ieee }
/-- E4M3 under a reading of TOPX (R49). -/
def e4m3 (topx : Bool) : Fmt := { ew := 4, fw := 3, bias := 7, top := if topx then .fp8fin else .fp8inf }
/-- E5M2 under a reading of TOPX (R49). -/
def e5m2 (topx : Bool) : Fmt := { ew := 5, fw := 2, bias := 15, top := if topx then .fp8fin else .fp8inf }
/-- E2M1 (R50). -/
def e2m1 : Fmt := { ew := 2, fw := 1, bias := 1, top := .finite }

/-- Width in bits. -/
def Fmt.width (F : Fmt) : Nat := 1 + F.ew + F.fw

/-- Bits of the largest finite magnitude. -/
def Fmt.maxBits (F : Fmt) : Nat :=
  match F.top with
  | .ieee | .fp8inf => (2 ^ F.ew - 1) * 2 ^ F.fw - 1
  | .fp8fin => 2 ^ (F.ew + F.fw) - 2
  | .finite => 2 ^ (F.ew + F.fw) - 1

/-- Bits of infinity, for a format that has one. -/
def Fmt.infBits (F : Fmt) : Nat := (2 ^ F.ew - 1) * 2 ^ F.fw

/-- A format with infinities. -/
def Fmt.hasInf (F : Fmt) : Bool := F.top == .ieee || F.top == .fp8inf

/-- The canonical NaN (R61); e2m1 has none and reads 0. -/
def Fmt.canon (F : Fmt) : Nat :=
  match F.top with
  | .ieee => F.infBits + 2 ^ (F.fw - 1)
  | .fp8inf | .fp8fin => 0x7F
  | .finite => 0

/-- Bits with a sign put on a magnitude. -/
def Fmt.signed (F : Fmt) (neg : Bool) (mag : Nat) : Nat := (if neg then 2 ^ (F.ew + F.fw) else 0) + mag

/-- A float value: NaN with its sign and fraction, infinity, or sign, integer and power of two. -/
inductive FV where
  | nan (neg : Bool) (frac : Nat)
  | inf (neg : Bool)
  | fin (neg : Bool) (m : Nat) (e : Int)
  deriving DecidableEq, Repr

/-- The value of a bit pattern (R48 to R50). -/
def Fmt.value (F : Fmt) (w : Nat) : FV :=
  let w := w % 2 ^ F.width
  let neg := decide (2 ^ (F.ew + F.fw) ≤ w)
  let mag := w % 2 ^ (F.ew + F.fw)
  let ex := mag / 2 ^ F.fw
  let fr := mag % 2 ^ F.fw
  let special := match F.top with
    | .ieee | .fp8inf => ex == 2 ^ F.ew - 1
    | .fp8fin => mag == 2 ^ (F.ew + F.fw) - 1
    | .finite => false
  if special then (if F.hasInf && fr == 0 then .inf neg else .nan neg fr)
  else if ex = 0 then .fin neg fr (1 - (F.bias : Int) - F.fw)
  else .fin neg (2 ^ F.fw + fr) ((ex : Int) - F.bias - F.fw)

/-- A NaN value is signalling: IEEE formats only (R48, R49). -/
def Fmt.snan (F : Fmt) (w : Nat) : Bool :=
  match F.value w with
  | .nan _ fr => F.top == .ieee && decide (fr < 2 ^ (F.fw - 1))
  | _ => false

/-- A NaN pattern. -/
def Fmt.isNan (F : Fmt) (w : Nat) : Bool := match F.value w with | .nan _ _ => true | _ => false

/-- A NaN of the format quieted, its sign and payload kept (R61). -/
def Fmt.quiet (F : Fmt) (w : Nat) : Nat :=
  let w := w % 2 ^ F.width
  if F.top == .ieee && decide (F.isNan w) && decide (w / 2 ^ (F.fw - 1) % 2 = 0) then w + 2 ^ (F.fw - 1) else w

/-- The five rounding modes (R54). -/
inductive Mode where
  | rne | rtz | rdn | rup | sr
  deriving DecidableEq, Repr

/-- Number of bits of a number. -/
def bitLen (m : Nat) : Nat := if m = 0 then 0 else m.log2 + 1

/-- Whether a magnitude n + rem / 2^sh, with something more below when sticky, is rounded up. draw is the D of R57. -/
def roundUp (mode : Mode) (neg : Bool) (n rem sh : Nat) (sticky : Bool) (draw : Nat) : Bool :=
  let inexact := rem != 0 || sticky
  match mode with
  | .rne => decide (2 ^ sh < 2 * rem) || (2 * rem == 2 ^ sh && (sticky || n % 2 == 1))
  | .rtz => false
  | .rdn => neg && inexact
  | .rup => !neg && inexact
  | .sr => inexact && decide (draw < rem * 65536 / 2 ^ sh)

/-- A magnitude cut at the power q: whole units, the rest, and the number of bits cut. -/
def cutAt (m : Nat) (e q : Int) : Nat × Nat × Nat :=
  if q ≤ e then (m * 2 ^ (e - q).toNat, 0, 0)
  else let sh := (q - e).toNat; (m / 2 ^ sh, m % 2 ^ sh, sh)

/-- What an overflow delivers (R58). -/
def overflow (F : Fmt) (mode : Mode) (sat neg : Bool) : Nat :=
  let toMax := sat || F.top == .finite || (match mode with
    | .rtz => true
    | .rdn => !neg
    | .rup => neg
    | _ => false)
  if toMax then F.signed neg F.maxBits else if F.hasInf then F.signed neg F.infBits else F.signed neg 0x7F

/-- The exact real (-1)^neg times m times 2^e, or one just above that magnitude when sticky, rounded once (R54 to R58): bits and
flags. -/
def roundTo (F : Fmt) (mode : Mode) (sat neg : Bool) (m : Nat) (e : Int) (sticky : Bool) (draw : Nat) : Nat × Nat :=
  if m = 0 && !sticky then (F.signed neg 0, 0) else
  let emin : Int := 1 - F.bias
  let qmin : Int := emin - F.fw
  let top : Int := e + bitLen m - 1
  let q : Int := max (top - F.fw) qmin
  let (n, rem, sh) := cutAt m e q
  let up := roundUp mode neg n rem sh sticky draw
  let inexact := rem != 0 || sticky
  let n' := n + up.toNat
  let mag := if q = qmin then n' else (q - qmin).toNat * 2 ^ F.fw + n'
  if F.maxBits < mag then (overflow F mode sat neg, fOF + fNX) else
  let qu : Int := top - F.fw
  let (nu, ru, su) := cutAt m e qu
  let upu := match mode with
    | .sr => (ru != 0 || sticky) && up
    | _ => roundUp mode neg nu ru su sticky draw
  let tiny := decide (top < emin) && !(nu + upu.toNat == 2 ^ (F.fw + 1) && top + 1 == emin)
  (F.signed neg mag, (if inexact then fNX else 0) + (if inexact && tiny then fUF else 0))

/-- The NaN result of an operation whose operands, in priority order, hold a NaN (R61). -/
def nanOf (F : Fmt) : List Nat → Option Nat
  | [] => none
  | w :: ws => if F.isNan w then some (F.quiet w) else nanOf F ws

/-- NV when any operand is a signalling NaN. -/
def snanFlag (F : Fmt) (ws : List Nat) : Nat := if ws.any F.snan then fNV else 0

/-- Flags joined. -/
def orF (a b : Nat) : Nat := a ||| b

end Sys2Proof.Machine
end

