-- ==== Sys2Proof/Machine/Float.lean ====
section
/-! DEFINITION. Float operations on bit patterns: arithmetic, comparison, conversion and the special functions (R54 to R66). Each is
exact up to its one rounding. The special functions bound the real value between two fractions and round both; where the bounds do not
agree at the model's widest precision the result is a free choice of the two (log 9). -/

namespace Sys2Proof.Machine

/-- How a float operation rounds: mode, .sat, and the draw D of stochastic rounding (R57). -/
structure Rnd where
  mode : Mode
  sat : Bool
  draw : Nat
  deriving DecidableEq, Repr

/-- Round to nearest even. -/
def Rnd.rne : Rnd := { mode := .rne, sat := false, draw := 0 }

/-- An exact sum of two finite values, as an integer and a power of two. -/
def sumFin (n1 : Bool) (m1 : Nat) (e1 : Int) (n2 : Bool) (m2 : Nat) (e2 : Int) : Int × Int :=
  let e := min e1 e2
  let a : Int := (m1 * 2 ^ (e1 - e).toNat : Nat)
  let b : Int := (m2 * 2 ^ (e2 - e).toNat : Nat)
  ((if n1 then -a else a) + (if n2 then -b else b), e)

/-- A rounded sum of two finite values; an exact zero sum of unlike signs is +0, or -0 under RDN (R132). -/
def roundSum (F : Fmt) (r : Rnd) (n1 : Bool) (m1 : Nat) (e1 : Int) (n2 : Bool) (m2 : Nat) (e2 : Int) : Nat × Nat :=
  let (s, e) := sumFin n1 m1 e1 n2 m2 e2
  if s = 0 then (F.signed (if n1 == n2 then n1 else r.mode == .rdn) 0, 0)
  else roundTo F r.mode r.sat (decide (s < 0)) s.natAbs e false r.draw

/-- a + b (R132). -/
def fAdd (F : Fmt) (r : Rnd) (a b : Nat) : Nat × Nat :=
  match nanOf F [a, b] with
  | some n => (n, snanFlag F [a, b])
  | none => match F.value a, F.value b with
    | .inf na, .inf nb => if na == nb then (F.signed na F.infBits, 0) else (F.canon, fNV)
    | .inf na, _ => (F.signed na F.infBits, 0)
    | _, .inf nb => (F.signed nb F.infBits, 0)
    | .fin na ma ea, .fin nb mb eb => roundSum F r na ma ea nb mb eb
    | _, _ => (F.canon, fNV)

/-- The sign bit inverted. -/
def fNeg (F : Fmt) (a : Nat) : Nat :=
  let h := 2 ^ (F.ew + F.fw)
  if a / h % 2 = 0 then a + h else a - h

/-- a - b; a NaN b keeps its sign (R61, R132). -/
def fSub (F : Fmt) (r : Rnd) (a b : Nat) : Nat × Nat := if F.isNan b then fAdd F r a b else fAdd F r a (fNeg F b)

/-- a × b (R132). -/
def fMul (F : Fmt) (r : Rnd) (a b : Nat) : Nat × Nat :=
  match nanOf F [a, b] with
  | some n => (n, snanFlag F [a, b])
  | none => match F.value a, F.value b with
    | .inf na, .inf nb => (F.signed (na != nb) F.infBits, 0)
    | .inf na, .fin nb mb _ => if mb = 0 then (F.canon, fNV) else (F.signed (na != nb) F.infBits, 0)
    | .fin na ma _, .inf nb => if ma = 0 then (F.canon, fNV) else (F.signed (na != nb) F.infBits, 0)
    | .fin na ma ea, .fin nb mb eb => roundTo F r.mode r.sat (na != nb) (ma * mb) (ea + eb) false r.draw
    | _, _ => (F.canon, fNV)

/-- A quotient of two positive integers with 100 bits below the last kept one, and whether anything is left. -/
def quotient (num den : Nat) (e : Int) : Nat × Int × Bool :=
  let k := 200 + bitLen den
  (num * 2 ^ k / den, e - k, num * 2 ^ k % den != 0)

/-- a ÷ b (R132). -/
def fDiv (F : Fmt) (r : Rnd) (a b : Nat) : Nat × Nat :=
  match nanOf F [a, b] with
  | some n => (n, snanFlag F [a, b])
  | none => match F.value a, F.value b with
    | .inf _, .inf _ => (F.canon, fNV)
    | .inf na, .fin nb _ _ => (F.signed (na != nb) F.infBits, 0)
    | .fin na _ _, .inf nb => (F.signed (na != nb) 0, 0)
    | .fin na ma ea, .fin nb mb eb =>
      if mb = 0 then (if ma = 0 then (F.canon, fNV) else (F.signed (na != nb) F.infBits, fDZ))
      else
        let (q, e, st) := quotient ma mb (ea - eb)
        roundTo F r.mode r.sat (na != nb) q e st r.draw
    | _, _ => (F.canon, fNV)

/-- One step of the integer square root, from the highest bit down. -/
def isqrtFrom (n : Nat) : Nat → Nat → Nat
  | 0, r => r
  | k + 1, r => let t := r + 2 ^ k; isqrtFrom n k (if t * t ≤ n then t else r)

/-- The integer square root. -/
def isqrt (n : Nat) : Nat := isqrtFrom n (bitLen n / 2 + 1) 0

/-- A square root of m times 2^e with 100 bits to spare. -/
def rootOf (m : Nat) (e : Int) : Nat × Int × Bool :=
  let k : Nat := 400 + (e % 2).toNat
  let n := m * 2 ^ k
  let r := isqrt n
  (r, (e - k) / 2, r * r != n)

/-- √a (R65, R132). -/
def fSqrt (F : Fmt) (r : Rnd) (a : Nat) : Nat × Nat :=
  match nanOf F [a] with
  | some n => (n, snanFlag F [a])
  | none => match F.value a with
    | .inf neg => if neg then (F.canon, fNV) else (F.infBits, 0)
    | .fin neg m e =>
      if m = 0 then (F.signed neg 0, 0) else if neg then (F.canon, fNV)
      else let (q, e', st) := rootOf m e; roundTo F r.mode r.sat false q e' st r.draw
    | _ => (F.canon, fNV)

/-- ±(a × b) ± c, rounded once; NaN priority c, a, b (R61, R136). np negates the product, nc the addend. -/
def fFma (F : Fmt) (r : Rnd) (np nc : Bool) (a b c : Nat) : Nat × Nat :=
  let zeroInf := match F.value a, F.value b with
    | .inf _, .fin _ m _ => m == 0
    | .fin _ m _, .inf _ => m == 0
    | _, _ => false
  match nanOf F [c, a, b] with
  | some n => (n, orF (snanFlag F [c, a, b]) (if zeroInf then fNV else 0))
  | none =>
    if zeroInf then (F.canon, fNV) else
    let sg (n : Bool) := n != np
    match F.value a, F.value b, F.value c with
    | .fin na ma ea, .fin nb mb eb, .fin n m e => roundSum F r (sg (na != nb)) (ma * mb) (ea + eb) (n != nc) m e
    | .fin _ _ _, .fin _ _ _, .inf n => (F.signed (n != nc) F.infBits, 0)
    | va, vb, vc =>
      let sign (v : FV) := match v with | .nan n _ => n | .inf n => n | .fin n _ _ => n
      let np' := sg (sign va != sign vb)
      match vc with
      | .inf n => if np' == (n != nc) then (F.signed np' F.infBits, 0) else (F.canon, fNV)
      | _ => (F.signed np' F.infBits, 0)

/-- Order of two values that are no NaNs: less, with -0 equal to +0. -/
def fvLt : FV → FV → Bool
  | .inf a, .inf b => a && !b
  | .inf a, _ => a
  | _, .inf b => !b
  | .fin na ma ea, .fin nb mb eb =>
    let (s, _) := sumFin na ma ea (!nb) mb eb
    decide (s < 0)
  | _, _ => false

/-- Equality of two values that are no NaNs, with -0 equal to +0. -/
def fvEq : FV → FV → Bool
  | .inf a, .inf b => a == b
  | .fin na ma ea, .fin nb mb eb => let (s, _) := sumFin na ma ea (!nb) mb eb; decide (s = 0)
  | _, _ => false

/-- Comparisons, false on a NaN; NV for a signalling NaN (R62). -/
def fLt (F : Fmt) (a b : Nat) : Bool := !F.isNan a && !F.isNan b && fvLt (F.value a) (F.value b)
/-- Equality (R62). -/
def fEq (F : Fmt) (a b : Nat) : Bool := !F.isNan a && !F.isNan b && fvEq (F.value a) (F.value b)

/-- The smaller or larger, -0 below +0; one NaN gives the other operand (R62). -/
def fMinMax (F : Fmt) (max : Bool) (a b : Nat) : Nat × Nat :=
  let fl := snanFlag F [a, b]
  if F.isNan a && F.isNan b then (F.quiet a, fl)
  else if F.isNan a then (b % 2 ^ F.width, fl)
  else if F.isNan b then (a % 2 ^ F.width, fl)
  else
    let neg (w : Nat) := decide (w / 2 ^ (F.ew + F.fw) % 2 = 1)
    let less := fLt F a b || (fEq F a b && neg a && !neg b)
    ((if less != max then a else b) % 2 ^ F.width, fl)

/-- The one-hot class (R135). -/
def fClass (F : Fmt) (a : Nat) : Nat :=
  match F.value a with
  | .inf n => if n then 1 else 128
  | .nan _ _ => if F.snan a then 256 else 512
  | .fin n m _ =>
    if m = 0 then (if n then 8 else 16)
    else if m < 2 ^ F.fw then (if n then 4 else 32) else (if n then 2 else 64)

/-! ## Conversions (R58, R59) -/

/-- A NaN of one format in another (R59). Between bf16 and f16, of one width, the payload keeps its place at the top of the fraction (log 64). -/
def nanTo (F G : Fmt) (neg : Bool) (frac : Nat) : Nat × Nat :=
  match G.top with
  | .finite => (0, fNV)
  | .fp8inf | .fp8fin => (G.signed neg 0x7F, 0)
  | .ieee =>
    let fr := if F.fw ≤ G.fw then frac * 2 ^ (G.fw - F.fw) else frac / 2 ^ (F.fw - G.fw)
    let q := 2 ^ (G.fw - 1)
    (G.signed neg (G.infBits + (if fr / q % 2 = 1 then fr else fr + q)), 0)

/-- An infinity of one format in another (R58, R59). -/
def infTo (G : Fmt) (sat neg : Bool) : Nat × Nat :=
  match G.top with
  | .finite => (G.signed neg G.maxBits, fNV)
  | .fp8fin => (G.signed neg (if sat then G.maxBits else 0x7F), fNV)
  | _ => (G.signed neg G.infBits, 0)

/-- Float to float, the exact value times 2^sc (R51, R58, R59). -/
def cvtFF (F G : Fmt) (r : Rnd) (a : Nat) (sc : Int) : Nat × Nat :=
  match F.value a with
  | .nan neg fr => let (w, fl) := nanTo F G neg fr; (w, orF fl (if F.snan a then fNV else 0))
  | .inf neg => infTo G r.sat neg
  | .fin neg m e => roundTo G r.mode r.sat neg m (e + sc) false r.draw

/-- An integer, times 2^sc, to a float (R59). -/
def cvtIF (G : Fmt) (r : Rnd) (i : Int) (sc : Int) : Nat × Nat :=
  if i = 0 then (0, 0) else roundTo G r.mode r.sat (decide (i < 0)) i.natAbs sc false r.draw

/-- The least and greatest value of an integer type of n bits. -/
def intMin (signed : Bool) (n : Nat) : Int := if signed then -(2 ^ (n - 1) : Int) else 0
/-- The greatest value. -/
def intMax (signed : Bool) (n : Nat) : Int := if signed then 2 ^ (n - 1) - 1 else 2 ^ n - 1

/-- An exact finite value rounded to an integer (R54). -/
def roundInt (r : Rnd) (neg : Bool) (m : Nat) (e : Int) : Int × Bool :=
  let (n, rem, sh) := cutAt m e 0
  let n' : Int := (n + (roundUp r.mode neg n rem sh false r.draw).toNat : Nat)
  (if neg then -n' else n', rem != 0)

/-- Float, times 2^sc, to an integer of n bits: rounded, then clamped (R59). -/
def cvtFI (F : Fmt) (r : Rnd) (signed : Bool) (n a : Nat) (sc : Int) : Int × Nat :=
  match F.value a with
  | .nan _ _ => (0, fNV)
  | .inf neg => (if neg then intMin signed n else intMax signed n, fNV)
  | .fin neg m e =>
    let (i, inex) := roundInt r neg m (e + sc)
    if i < intMin signed n then (intMin signed n, fNV)
    else if intMax signed n < i then (intMax signed n, fNV)
    else (i, if inex then fNX else 0)

/-! ## Exact bounds of ln, exp and tanh -/

/-- A real between lo and hi, both over 2^p. -/
structure Bound where
  lo : Int
  hi : Int
  deriving DecidableEq, Repr

/-- A sum of odd powers of z, 2(z + z^3/3 + z^5/5 ...), in units of 2^-p; z is in the same units and at most a third. -/
def atanhSum (p z2 : Nat) : Nat → Nat → Nat → Nat
  | 0, _, _ => 0
  | k + 1, t, n => t / n + atanhSum p z2 k (t * z2 / 2 ^ p) (n + 2)

/-- 2·atanh(num/den) between bounds, for 0 ≤ num/den ≤ 1/3. -/
def atanh2 (p num den : Nat) : Bound :=
  let z := num * 2 ^ p / den
  let s := 2 * atanhSum p (z * z / 2 ^ p) (p / 3 + 4) z 1
  { lo := s, hi := s + 4 * p + 16 }

/-- ln 2 between bounds: 2·atanh(1/3). -/
def ln2Bound (p : Nat) : Bound := atanh2 p 1 3

/-- ln of m times 2^e, m positive, between bounds in units of 2^-p. -/
def lnBound (p m : Nat) (e : Int) : Bound :=
  let l := bitLen m
  let two := 2 ^ l
  let up := decide (3 * m < 2 * two)
  let k : Int := e + l - (if up then 1 else 0)
  let y := if up then 2 * m else m
  let neg := decide (y < two)
  let a := if neg then atanh2 p (two - y) (y + two) else atanh2 p (y - two) (y + two)
  let b : Bound := if neg then { lo := -a.hi, hi := -a.lo } else a
  let c := ln2Bound p
  if 0 ≤ k then { lo := b.lo + k * c.lo, hi := b.hi + k * c.hi } else { lo := b.lo + k * c.hi, hi := b.hi + k * c.lo }

/-- Terms of the exponential series of r in units of 2^-p, r at most one half. -/
def expSum (p r : Nat) : Nat → Nat → Nat → Nat
  | 0, _, _ => 0
  | k + 1, t, n => t + expSum p r k (t * r / 2 ^ p / n) (n + 1)

/-- exp of (-1)^neg m 2^e between bounds: integer bounds in units of 2^-p, and a power of two. For a magnitude below 256. -/
def expBound (p : Nat) (neg : Bool) (m : Nat) (e : Int) : Bound × Int :=
  let q : Nat := p + 20
  let xs : Nat := if 0 ≤ e + q then m * 2 ^ (e + q).toNat else m / 2 ^ (-(e + q)).toNat
  let x : Int := if neg then -(xs : Int) - 1 else xs
  let c := ln2Bound q
  let k : Int := x / c.lo
  let r0 : Int := x - k * c.hi
  let r1 : Int := x + 1 - k * c.lo
  let rlo : Int := min r0 (x - k * c.lo)
  let rhi : Int := max r1 (x + 1 - k * c.hi)
  let lo := expSum q rlo.toNat (p / 2 + 8) (2 ^ q) 1
  let hi := expSum q rhi.toNat (p / 2 + 8) (2 ^ q) 1
  ({ lo := (lo : Int) / 2 ^ 20 - 2, hi := (hi : Int) / 2 ^ 20 + 2 }, k)

/-- A real known between two bounds of one sign, rounded: both ends must give one result. fall says which end a tie of bounds takes. -/
def roundBound (F : Fmt) (r : Rnd) (b : Bound) (e : Int) (fall : Bool) : Option (Nat × Nat) × (Nat × Nat) :=
  let neg := decide (b.hi ≤ 0)
  let lo := if neg then (-b.hi).toNat else b.lo.toNat
  let hi := if neg then (-b.lo).toNat else b.hi.toNat
  let x := roundTo F r.mode r.sat neg lo e true r.draw
  let y := roundTo F r.mode r.sat neg (hi - 1) e true r.draw
  let straddles := decide (b.lo < 0) && decide (0 < b.hi)
  (if x = y && !straddles then some x else none, if fall then y else x)

/-- -ln of a fraction m times 2^e in (0, 1], rounded (R331): exactly +0 for 1. -/
def negLn (F : Fmt) (m : Nat) (e : Int) : Nat × Nat :=
  if e ≤ 0 && m = 2 ^ (-e).toNat then (0, 0) else
  let at_ (p : Nat) := let b := lnBound p m e; roundBound F Rnd.rne { lo := -b.hi, hi := -b.lo } (-(p : Int)) (Config.roundingTie m)
  match (at_ 220).1 with
  | some x => x
  | none => match (at_ 600).1 with
    | some x => x
    | none => (at_ 600).2

/-- -ln(-ln V) for V = m times 2^e strictly between 0 and 1, rounded (R331). -/
def gumbelOf (F : Fmt) (m : Nat) (e : Int) : Nat × Nat :=
  let at_ (p : Nat) :=
    let b := lnBound p m e
    let l := lnBound p (-b.hi).toNat (-(p : Int))
    let h := lnBound p (-b.lo).toNat (-(p : Int))
    roundBound F Rnd.rne { lo := -h.hi, hi := -l.lo } (-(p : Int)) (Config.roundingTie m)
  match (at_ 220).1 with
  | some x => x
  | none => match (at_ 600).1 with
    | some x => x
    | none => (at_ 600).2

/-- A special function of a finite nonzero value: bounds at two precisions, then a free choice (R65, log 9). -/
def special (F : Fmt) (w : Nat) (bound : Nat → Bound × Int) : Nat × Nat :=
  let at_ (p : Nat) := let (b, k) := bound p; roundBound F Rnd.rne b (k - (p : Int)) (Config.roundingTie w)
  match (at_ 220).1 with
  | some x => x
  | none => match (at_ 600).1 with
    | some x => x
    | none => (at_ 600).2

/-- e^a (R65). -/
def fExp (F : Fmt) (a : Nat) : Nat × Nat :=
  match F.value a with
  | .nan _ _ => (F.quiet a, snanFlag F [a])
  | .inf neg => (if neg then 0 else F.infBits, 0)
  | .fin neg m e =>
    if m = 0 then (F.signed false (F.bias * 2 ^ F.fw), 0)
    else if e + bitLen m > 8 then
      (if neg then roundTo F .rne false false 1 (-2000) true 0 else roundTo F .rne false false 1 2000 true 0)
    else special F a fun p => expBound p neg m e

/-- ln a (R65). -/
def fLog (F : Fmt) (a : Nat) : Nat × Nat :=
  match F.value a with
  | .nan _ _ => (F.quiet a, snanFlag F [a])
  | .inf neg => if neg then (F.canon, fNV) else (F.infBits, 0)
  | .fin neg m e =>
    if m = 0 then (F.signed true F.infBits, fDZ)
    else if neg then (F.canon, fNV)
    else if a % 2 ^ F.width = F.bias * 2 ^ F.fw then (0, 0)
    else special F a fun p => (lnBound p m e, 0)

/-- 1/a (R65). -/
def fRcp (F : Fmt) (a : Nat) : Nat × Nat := fDiv F Rnd.rne (F.bias * 2 ^ F.fw) a

/-- 1/√a (R65). -/
def fRsqrt (F : Fmt) (a : Nat) : Nat × Nat :=
  match F.value a with
  | .nan _ _ => (F.quiet a, snanFlag F [a])
  | .inf neg => if neg then (F.canon, fNV) else (0, 0)
  | .fin neg m e =>
    if m = 0 then (F.signed neg F.infBits, fDZ)
    else if neg then (F.canon, fNV)
    else
      let k : Nat := 800 + ((-e) % 2).toNat
      let n := 2 ^ k / m
      let q := isqrt n
      roundTo F .rne false false q ((-e - k) / 2) (q * q * m != 2 ^ k) 0

/-- tanh between bounds, from the bounds of e^(2x). -/
def tanhBound (p : Nat) (neg : Bool) (m : Nat) (e : Int) : Bound × Int :=
  let (b, k) := expBound (p + 60) false m (e + 1)
  let one : Int := 2 ^ (p + 60)
  let lo : Int := b.lo * 2 ^ k.toNat
  let hi : Int := b.hi * 2 ^ k.toNat
  let tl : Int := (lo - one) * 2 ^ p / (lo + one) - 1
  let th : Int := (hi - one) * 2 ^ p / (hi + one) + 1
  (if neg then { lo := -th, hi := -tl } else { lo := tl, hi := th }, 0)

/-- tanh a (R65). A magnitude below 2^-40 rounds from just below itself, one from 32 on from just below 1. -/
def fTanh (F : Fmt) (a : Nat) : Nat × Nat :=
  match F.value a with
  | .nan _ _ => (F.quiet a, snanFlag F [a])
  | .inf neg => (F.signed neg (F.bias * 2 ^ F.fw), 0)
  | .fin neg m e =>
    if m = 0 then (F.signed neg 0, 0)
    else if e + bitLen m < -40 then roundTo F .rne false neg (m * 2 ^ 70 - 1) (e - 70) true 0
    else if e + bitLen m > 5 then roundTo F .rne false neg (2 ^ 80 - 1) (-80) true 0
    else special F a fun p => tanhBound p neg m e

/-! ## The exact accumulation cell (R67 to R69) -/

/-- The 320-bit sum of a cell as an integer. -/
def cellSum (c : Nat) : Int :=
  let s : Nat := c % 2 ^ 320
  if s < 2 ^ 319 then (s : Int) else (s : Int) - 2 ^ 320

/-- A flag bit of a cell. -/
def cellBit (c i : Nat) : Bool := c / 2 ^ i % 2 == 1

/-- A cell laid out, its reserved bits zero (R67). -/
def cellPack (sum : Int) (count : Nat) (nan pinf ninf ovf csat : Bool) : Nat :=
  (sum % 2 ^ 320).toNat + count * 2 ^ 320 + nan.toNat * 2 ^ 352 + pinf.toNat * 2 ^ 353 + ninf.toNat * 2 ^ 354
    + ovf.toNat * 2 ^ 355 + csat.toNat * 2 ^ 356

/-- One exact-cell add (R68). -/
def cellAdd (F : Fmt) (c a : Nat) : Nat :=
  let count := c / 2 ^ 320 % 2 ^ 32
  let full := count == 2 ^ 32 - 1
  let count' := if full then count else count + 1
  let csat := cellBit c 356 || full
  let nan := cellBit c 352
  let pinf := cellBit c 353
  let ninf := cellBit c 354
  let ovf := cellBit c 355
  match F.value a with
  | .nan _ _ => cellPack (cellSum c) count' true pinf ninf ovf csat
  | .inf neg => cellPack (cellSum c) count' nan (pinf || !neg) (ninf || neg) ovf csat
  | .fin neg m e =>
    let u : Int := (m * 2 ^ (e + 149).toNat : Nat)
    let s := cellSum c + (if neg then -u else u)
    cellPack s count' nan pinf ninf (ovf || decide (s < -(2 ^ 319 : Int)) || decide (2 ^ 319 ≤ s)) csat

/-- One exact-cell read (R69): bits and flags. -/
def cellRead (F : Fmt) (c : Nat) : Nat × Nat :=
  if cellBit c 352 || cellBit c 355 || (cellBit c 353 && cellBit c 354) then (F.canon, fNV)
  else if cellBit c 353 then (F.infBits, 0)
  else if cellBit c 354 then (F.signed true F.infBits, 0)
  else
    let s := cellSum c
    if s = 0 then (0, 0) else roundTo F .rne false (decide (s < 0)) s.natAbs (-149) false 0

end Sys2Proof.Machine
end

