-- ==== Sys2Proof/Machine/Spore.lean ====
section
/-! DEFINITION. SPORE-10 and the variates (R328 to R331), and how an instruction of the acting firing rounds (R54 to R57). -/

namespace Sys2Proof.Machine

/-- The four state words of SPORE-10. -/
structure SporeSt where
  s0 : BitVec 32
  s1 : BitVec 32
  s2 : BitVec 32
  s3 : BitVec 32
  deriving DecidableEq, Repr

/-- One round under its round key (R328). -/
def sporeRound (k : BitVec 32) (s : SporeSt) : SporeSt :=
  let a0 := s.s0 + k
  let a3 := (s.s3 ^^^ a0).rotateLeft 16
  let a2 := s.s2 + a3
  let a1 := (s.s1 ^^^ a2).rotateLeft 12
  let b0 := a0 + a1
  let b3 := (a3 ^^^ b0).rotateLeft 8
  let b2 := a2 + b3
  let b1 := (a1 ^^^ b2).rotateLeft 7
  { s0 := b1, s1 := b2, s2 := b3, s3 := b0 }

/-- Rounds r to 9 with the key words as a list of four. -/
def sporeRounds (k : Nat → BitVec 32) : Nat → Nat → SporeSt → SporeSt
  | 0, _, s => s
  | n + 1, r, s => sporeRounds k n (r + 1) (sporeRound (k (r % 4) + BitVec.ofNat 32 (r * 0x9E3779B9)) s)

/-- A 32-bit word of a pair of dwords, low dword first (R329). -/
def pairWord (lo hi : Word) (i : Nat) : BitVec 32 :=
  if i < 2 then lo.extractLsb' (32 * i) 32 else hi.extractLsb' (32 * (i - 2)) 32

/-- The 128 output bits for a key and a counter (R328). -/
def spore (keyLo keyHi index stream : Word) : BitVec 128 :=
  let c := pairWord index stream
  let s := sporeRounds (pairWord keyLo keyHi) 10 0 { s0 := c 0, s1 := c 1, s2 := c 2, s3 := c 3 }
  (s.s3 + c 3) ++ (s.s2 + c 2) ++ (s.s1 + c 1) ++ (s.s0 + c 0)

/-- A draw: bits 63 to 0 (R328). -/
def drawOf (keyLo keyHi index stream : Word) : Word := (spore keyLo keyHi index stream).extractLsb' 0 64

/-- A draw under the firing's key (R329). -/
def Firing.draw (f : Firing) (stream index : Word) : Word := drawOf f.seedlo f.seedhi index stream

/-- The f32 uniform of a draw (R331). -/
def uni32 (d : Word) : Nat := (roundTo f32 .rne false false (bits d 63 40 + 1) (-24) false 0).1
/-- The f64 uniform. -/
def uni64 (d : Word) : Nat := (roundTo f64 .rne false false (bits d 63 11 + 1) (-53) false 0).1
/-- The exponential in a format. -/
def expVar (F : Fmt) (d : Word) : Nat := (negLn F (bits d 63 11 + 1) (-53)).1
/-- The Gumbel variate, f32. -/
def gumbelVar (d : Word) : Nat := (gumbelOf f32 (2 * bits d 63 11 + 1) (-54)).1

/-! ## How an instruction rounds -/

/-- The mode in frm (R56). -/
def frmMode (frm : Word) : Mode :=
  match bits frm 2 0 with
  | 1 => .rtz
  | 2 => .rdn
  | 3 => .rup
  | 4 => .sr
  | _ => .rne

/-- The mode of a rounding field (R55). -/
def Firing.mode (f : Firing) : RM → Mode
  | .rne => .rne
  | .rtz => .rtz
  | .rdn => .rdn
  | .rup => .rup
  | .sr => .sr
  | .dyn => frmMode f.frm

/-- The draw of stochastic rounding at rounding index srix + e (R57). -/
def Firing.srDraw (f : Firing) (e : Nat) : Nat := (f.draw f.sstream (f.srix + BitVec.ofNat 64 e)).toNat % 65536

/-- How element e of an instruction rounds. -/
def Firing.rnd (f : Firing) (m : RM) (sat : Bool) (e : Nat) : Rnd :=
  let md := f.mode m
  { mode := md, sat := sat, draw := if md = .sr then f.srDraw e else 0 }

/-- The format of a scalar float type. -/
def ftFmt : FT → Fmt
  | .f32 => f32
  | .f64 => f64

/-- The format of a vector float type. -/
def vfFmt : VF → Fmt
  | .f32 => f32
  | .bf16 => bf16
  | .f16 => f16
  | .f64 => f64

/-- The format of a reduction type. -/
def rfFmt : RF → Fmt
  | .f32 => f32
  | .bf16 => bf16
  | .f16 => f16

/-- The format of an atomic's type. -/
def afFmt : AF → Fmt
  | .f32 => f32
  | .f64 => f64
  | .bf16 => bf16
  | .f16 => f16

/-- A type as numbers: a float format, or an integer's sign and width. -/
inductive NumTy where
  | flt (F : Fmt)
  | int (signed : Bool) (n : Nat)
  deriving DecidableEq, Repr

/-- The type of an FCVT operand (R134). -/
def xtNum : XT → NumTy
  | .f64 => .flt Sys2Proof.Machine.f64
  | .f32 => .flt Sys2Proof.Machine.f32
  | .bf16 => .flt Sys2Proof.Machine.bf16
  | .f16 => .flt Sys2Proof.Machine.f16
  | .i32 => .int true 32
  | .n32 => .int false 32
  | .i64 => .int true 64
  | .n64 => .int false 64

/-- The number a pattern of an integer type of n bits holds; higher bits of it count for nothing (for FCVT log 64). -/
def intOf (signed : Bool) (n v : Nat) : Int :=
  let u := v % 2 ^ n
  if signed && decide (2 ^ (n - 1) ≤ u) then (u : Int) - 2 ^ n else u

/-- A number put into n bits. -/
def toBits (n : Nat) (i : Int) : Nat := (i % 2 ^ n).toNat

/-- A number clamped to an integer type (R52). -/
def clampInt (signed : Bool) (n : Nat) (i : Int) : Int := max (intMin signed n) (min (intMax signed n) i)

/-- One conversion of a pattern between two types, the exact value times 2^sc (R58, R59); e2m1 and integers included. An integer to a wider one
is extended, .sat or not; one of the same width, which R59 does not name, is taken as to a narrower one (log 64). -/
def convert (t u : NumTy) (r : Rnd) (w : Nat) (sc : Int) : Nat × Nat :=
  match u, t with
  | .flt F, .flt G => cvtFF F G r w sc
  | .flt F, .int sg n => let (i, fl) := cvtFI F r sg n w sc; (toBits n i, fl)
  | .int sg n, .flt G => cvtIF G r (intOf sg n w) sc
  | .int sg n, .int sg' n' =>
    let i := intOf sg n w
    (toBits n' (if r.sat && decide (n' ≤ n) then clampInt sg' n' i else i), 0)

end Sys2Proof.Machine
end

