-- ==== Sys2Proof/Machine/Access.lean ====
section
/-! DEFINITION. What an access does once it has passed its checks: reads and writes at a place, the order log (R338 to R341), full-empty
words and their retry lists (R147 to R150), bank operations with their tags and filters (R158 to R165), and accesses to other packages
(R223 to R227). -/

namespace Sys2Proof.Machine

/-! ## Homes -/

/-- The die and the site number of a home unit by key (R12, R399, R402). -/
def homeSite (key : Nat) : Nat × Nat :=
  if 2 ^ 55 ≤ key then let h := (key - 2 ^ 55) / 2 ^ 20; (h / 256, 0x200 + h % 256)
  else if 2 ^ 54 ≤ key then let o := key - 2 ^ 54; (o / 2 ^ 27, o / 64 % 256)
  else
    let d := key / (192 * 2 ^ 30)
    let o := key % (192 * 2 ^ 30)
    (d, 0x100 + 64 * (o / 4096 % 3) + key / 64 % 64)

/-- A home unit as one number. -/
def homeUnit (key : Nat) : Nat := (homeSite key).1 * 2 ^ 12 + (homeSite key).2

/-- The path to a home by its key (R223). -/
def keyPath (key : Nat) : Nat := if key < shmKey 0 then devPath key else (homeSite key).1

/-- The path to a home noted (R223). -/
def State.useKey (s : State) (key : Nat) : State := s.upd fun f => { f with paths := insertNat f.paths (keyPath key) }

/-! ## Stream headers (R82, R83) -/

/-- A flag of a team's record (R76). -/
def Team.flag (t : Team) (i : Nat) : Bool := bit (t.recd.getD 3 0) i

/-- A stream slot of a record: V, CNT and the key of its header. -/
structure Slot where
  v : Bool
  cnt : Nat
  key : Nat
  deriving DecidableEq, Repr

/-- The offset of slot i's header in package shared memory. -/
def slotOff (recd : List Word) (i : Nat) : Nat := bits (recd.getD (12 + i / 2) 0) (32 * (i % 2) + 22) (32 * (i % 2)) * 64

/-- Slot i of a record (R82). -/
def slotOf (recd : List Word) (i : Nat) : Slot :=
  let w := recd.getD (12 + i / 2) 0
  { v := bit w (32 * (i % 2) + 31), cnt := bits w (32 * (i % 2) + 30) (32 * (i % 2) + 23), key := shmKey (slotOff recd i) }

/-- The keys of the stream headers that placed actors declare: a line counts as one from its team's placement to its end (log 72). -/
def State.headers (s : State) : List Nat :=
  s.teams.flatMap fun t => if t.flag 30 && t.ready then ((List.range 8).map (slotOf t.recd)).filterMap fun x => if x.v then some x.key else none
    else []

/-- A stream header after a write that reached it: the counters no store writes stay, and CLOSED stays set (R4, R83). -/
def keepHeader (old new : Mem) (h : Nat) : Mem :=
  let ro := (new.write (h + 8) 8 (old.read (h + 8) 8)).write (h + 24) 16 (old.read (h + 24) 16)
  let closed := ro.write (h + 40) 8 ((new.read (h + 40) 8 ||| old.read (h + 40) 8) % 2)
  (closed.write h 8 (new.read h 8 &&& 0xFFFF1FFFFFFF)).write (h + 48) 16 0

/-- Memory after a write of n bytes at a key that made it from old: the stream headers it touched keep what R83 keeps. -/
def State.keepHeaders (s : State) (old : Mem) (key n : Nat) : State :=
  match s.headers.filter fun h => decide (h < key + n) && decide (key < h + 64) with
  | [] => s
  | hs => { s with mem := hs.foldl (keepHeader old) s.mem }

/-! ## Ordinary reads and writes at a place -/

/-- A read of n CXL bytes that returns poison: the line is poisoned or its port lost, and the L1 does not hold every byte (R382). -/
def State.cxlPoisoned (s : State) (key n : Nat) : Bool :=
  decide (cxlKey 0 ≤ key) && decide (key < shmKey 0) && (s.cxlLost key || s.dev.cxlPoison.contains ((key - cxlKey 0) / 64))
    && (List.range n).any fun i => (heldGet s.fr.held (key + i)).isNone

/-- An ordinary read of n bytes: the value and the state after it. Poisoned data fill each 32-bit lane (R382). -/
def State.loadAt (s : State) (pl : Place) (n : Nat) : State × Nat :=
  match pl with
  | .ctl o => (s, s.ctlLoad o n)
  | .dev k =>
    if s.cxlPoisoned k n then ((s.usePath pl).upd fun f => f.poisoned s.dev.pkg, poison 8 / 2 ^ (8 * (k % 4)) % 2 ^ (8 * n))
    else (s.usePath pl, s.readAt pl n)
  | .unc k => ((s.usePath pl).seenBy s.fir.frond k n, s.readAt pl n)
  | _ => (s.usePath pl, s.readAt pl n)

/-- An ordinary write of n bytes. -/
def State.storeAt (s : State) (pl : Place) (n v : Nat) : State :=
  match pl with
  | .ctl o => s.ctlStore o n v
  | .shm o => ((s.usePath pl).writeAt pl n v).keepHeaders s.mem (shmKey o) n
  | _ => (s.usePath pl).writeAt pl n v

/-! ## The order log -/

/-- What the order log answers to an operation at its site. -/
inductive LogRes where
  | ok (s : State)
  | held
  | full (sub die : Nat)

/-- How many operations of a kind a site has served for a team. -/
def Team.count (t : Team) (k : Nat × Nat × Nat) : Nat :=
  match t.seqs.find? fun x => (x.1, x.2.1, x.2.2.1) == k with
  | some x => x.2.2.2
  | none => 0

/-- One more operation served at a site. -/
def Team.counted (t : Team) (k : Nat × Nat × Nat) : Team :=
  { t with seqs := (k.1, k.2.1, k.2.2, t.count k + 1) :: t.seqs.filter fun x => (x.1, x.2.1, x.2.2.1) != k }

/-- Entry j of a die's log buffer, if it can be read. -/
def State.logEntry (s : State) (p : Fin 16) (d : Fin 4) (j : Nat) : Option (State × Word × Word) :=
  (s.unitRead p d ((s.parts[p].logbase[d]).toNat + 16 * j) 16).map fun x =>
    (x.1, BitVec.ofNat 64 x.2, BitVec.ofNat 64 (x.2 / 2 ^ 64))

/-- What a replay finds for an operation: next at its site, later, nowhere, or an entry that cannot be read. -/
inductive Found where
  | next | later | nowhere | unreadable
  deriving DecidableEq, Repr

/-- Search a replay buffer from entry j for the site's entry numbered seq, and for the operation. -/
def State.logSearch (s : State) (p : Fin 16) (d : Fin 4) (k : Nat × Nat × Nat) (seq : Nat) (me : Word) : Nat → Nat → State × Found
  | 0, _ => (s, .nowhere)
  | n + 1, j =>
    match s.logEntry p d j with
    | none => (s, .unreadable)
    | some (s, w0, w1) =>
      if bits w0 63 60 = k.1 && bits w0 59 32 = k.2.2 && bits w0 31 0 ≥ seq then
        (if w1 = me then (s, if bits w0 31 0 = seq then .next else .later) else s.logSearch p d k seq me n (j + 1))
      else s.logSearch p d k seq me n (j + 1)

/-- The first entry from j on that its site has not served (R339: POS under REPLAY). -/
def State.logUnread (s : State) (p : Fin 16) (d : Fin 4) (t : Team) : Nat → Nat → State × Nat
  | 0, j => (s, j)
  | n + 1, j =>
    match s.logEntry p d j with
    | none => (s, j)
    | some (s, w0, _) => if bits w0 31 0 < t.count (bits w0 63 60, d.val, bits w0 59 32) then s.logUnread p d t n (j + 1) else (s, j)

/-- An operation of kind k at a site of die d, by (fid, opn) me, for team t (R340, R341). -/
def State.logOp (s : State) (t : Team) (kind : Nat) (d : Fin 4) (site : Nat) (me : Word) : LogRes :=
  let p := t.part
  let key := (kind, d.val, site)
  let pos := bits (s.parts[p].logpos[d]) 31 0
  let len := bits (s.parts[p].loglen[d]) 31 0
  let base := (s.parts[p].logbase[d]).toNat
  if t.flag 26 then
    if pos = len then .full 0 d.val
    else
      let w0 : Nat := kind * 2 ^ 60 + site * 2 ^ 32 + t.count key % 2 ^ 32
      match s.unitWrite p d (base + 16 * pos) 16 (w0 + me.toNat * 2 ^ 64) with
      | none => .full 2 d.val
      | some s' => .ok ((s'.onPart p fun x => { x with logpos := x.logpos.set d (BitVec.ofNat 64 (pos + 1)) }).onTeam t.id
          fun t => t.counted key)
  else if t.flag 27 then
    match s.logSearch p d key (t.count key) me (len - pos) pos with
    | (_, .nowhere) => .full 1 d.val
    | (_, .unreadable) => .full 2 d.val
    | (_, .later) => .held
    | (s, .next) =>
      let t' := t.counted key
      let (s, pos') := s.logUnread p d t' (len - pos) pos
      .ok ((s.onPart p fun x => { x with logpos := x.logpos.set d (BitVec.ofNat 64 pos') }).onTeam t.id fun _ => t')
  else .ok s

/-- An operation of firing f logged, held or refused; the firing's count of the kind rises (R339). -/
def State.logFor (s : State) (f : Firing) (kind : Nat) (d : Fin 4) (site : Nat) : LogRes :=
  match s.team? f with
  | none => .ok s
  | some t =>
    if !(t.flag 26 || t.flag 27) then .ok s
    else
      let n := (f.opn.toList.getD kind 0)
      match s.logOp t kind d site (BitVec.ofNat 64 (bits f.fid 31 0 * 2 ^ 32 + n % 2 ^ 32)) with
      | .ok s' => .ok (s'.onFiring f.adm fun g => { g with opn := g.opn.mapIdx fun i x => if i = kind then x + 1 else x })
      | r => r

/-- The acting firing's operation at a site: it goes on, is held, or takes LOGFULL (R340, R341). -/
def State.logged (s : State) (kind : Nat) (die site : Nat) : Except Stop State :=
  match s.logFor s.fir kind ⟨die % 4, by omega⟩ site with
  | .ok s' => .ok s'
  | .held => block s .held
  | .full sub d => raiseSub .logfull sub (BitVec.ofNat 64 d)

/-- Bytes of a float type. -/
def afBytes : AF → Nat
  | .f32 => 4
  | .f64 => 8
  | .bf16 | .f16 => 2

/-- Bytes a bank operation works on. -/
def BankOp.size : BankOp → Nat
  | .amo _ n => n
  | .famo _ t => afBytes t
  | _ => 64

/-- The team of a firing when its choices are logged or replayed (R338). -/
def State.loggedTeam (s : State) (f : Firing) : Option Team := (s.team? f).filter fun t => t.flag 26 || t.flag 27

/-! ## Full-empty words (R147 to R150) -/

/-- A dword is full. -/
def State.isFull (s : State) (key : Nat) : Bool := s.full.contains (key / 8)

/-- A dword set full or empty. -/
def State.setFull (s : State) (key : Nat) (b : Bool) : State :=
  { s with full := if b then insertNat s.full (key / 8) else s.full.filter (· != key / 8) }

/-- The condition of a full-empty access (R148): a load waits for full, a store for empty unless it is .sf. -/
def State.feHolds (s : State) (key : Nat) (load sets : Bool) : Bool := if load then s.isFull key else sets || !s.isFull key

/-- Memory as an operation that bypasses the L1 leaves it at n bytes from a key: noted as a home write of its frond, when one of this package
issued it, and stream headers kept as R83 keeps them. -/
def State.homeWrite (s : State) (h : Option (Fin 1024)) (key n : Nat) (m : Mem) : State :=
  (match h with
    | some h => (s.seenBy h key n).homePut h .fi false (keysFrom key n) m
    | none => s.homeDone (keysFrom key n) m).keepHeaders s.mem key n

/-- A full-empty access performed for a firing of frond h, or for a unit or another package: the word read, and the state (R148). -/
def State.feApply (s : State) (h : Option (Fin 1024)) (key : Nat) (load sets : Bool) (v : Word) : Word × State :=
  let seen := match h with
    | some h => s.seenBy h key 8
    | none => s
  if load then (BitVec.ofNat 64 (s.mem.read key 8), if sets then seen.setFull key false else seen)
  else (0, (s.homeWrite h key 8 (s.mem.write key 8 v.toNat)).setFull key true)

/-- The filter of a bank with one more response of a source; it keeps 64 (R162). -/
def filtAdd (fs : List Filt) (x : Filt) : List Filt :=
  let mine := fs.filter fun f => f.src == x.src && f.bank == x.bank
  let fs := if 64 ≤ mine.length then (match mine.head? with
    | some o => fs.erase o
    | none => fs) else fs
  fs ++ [x]

/-- The filter's entry for a request (R162). -/
def State.filtered (s : State) (src key tag : Nat) : Option Filt :=
  s.filt.find? fun f => f.src == src && f.bank == homeUnit key && f.tag == tag

/-- The source id of core c of another package: the core id extended with the package id (R161). Cores of this package are 0 to 2,047. -/
def peerSource (pkg c : Nat) : Nat := 2048 * (pkg + 1) + c

/-- A full-empty access of another package performed at a key: its answer, which the filter there keeps (R162, R226). -/
def State.peerDone (s : State) (w : FarWait) (key : Nat) (v : Word) : State :=
  let x : Filt := { src := peerSource w.pkg w.core, bank := homeUnit key, tag := w.tag, resp := v, flags := 0 }
  { s with filt := filtAdd s.filt x }.send (.answer w.pkg w.stream w.seq 0 v 0)

/-- What a served waiter gets: its register and the next instruction, or an answer sent to its package. -/
def State.feServed (s : State) (w : FeWait) (v : Word) : State :=
  match w.peer with
  | some p => s.peerDone p w.key v
  | none => s.onFiring w.adm fun f => (if w.load then f.wx w.rd v else f).advance

/-- What an access reports: its address, what a refusal by its owner reports in the low bits of tval (R219), and whether it is shard-addressed. -/
structure Ref where
  va : Word
  tv : Word
  shard : Bool
  deriving DecidableEq, Repr

/-- An access through the pointer at its address. -/
def Ref.at (va : Word) : Ref := { va := va, tv := va, shard := false }

/-- What the order log answers to the service of firing f's access to a word (R338, R339). -/
def State.logServe (s : State) (f : Firing) (key : Nat) : LogRes :=
  s.logFor f 5 ⟨(homeSite key).1 % 4, by omega⟩ (homeSite key).2

/-- LOGFULL of an operation held at its site (R340, R341). -/
def logFull (sub die : Nat) : Trap := { c := .logfull, sub := sub, val := BitVec.ofNat 64 die }

/-- One waiter served, if its log position allows it. When the log is full the access stays in the list and its instruction goes on, to take
LOGFULL (R340). -/
def State.serveOne (s : State) (w : FeWait) : State :=
  let go (s : State) (h : Option (Fin 1024)) : State :=
    let (v, t) := { s with retry := s.retry.erase w }.feApply h w.key w.load w.sets w.val
    t.feServed w v
  match w.peer, s.firing? w.adm with
  | none, some f =>
    match s.logServe f w.key with
    | .ok t => go (t.noteUndo f.adm (.word w.key (s.mem.read w.key 8) (s.isFull w.key))) (some f.frond)
    | .held => s
    | .full _ _ => s.onFiring f.adm fun f => { f with wait := some .held }
  | none, none => { s with retry := s.retry.erase w }
  | some _, _ => go s none

/-- Whether a waiter can be served now: its condition holds, its firing waits for it, and the log does not hold it. -/
def State.canServe (s : State) (w : FeWait) : Bool :=
  s.feHolds w.key w.load w.sets && (match w.peer, s.firing? w.adm with
    | none, some f => f.active && f.wait == some .fullEmpty && (match s.logServe f w.key with
      | .held => false
      | _ => true)
    | none, none => false
    | some _, _ => true)

/-- A waiter of a team that replays a log: its turn may come by another service at its site (R341). -/
def State.replayed (s : State) (w : FeWait) : Bool :=
  w.peer.isNone && (s.firing? w.adm).any fun f => (s.team? f).any fun t => t.flag 27

/-- The waiters of a word served in arrival order until none can be (R149), and those of its home that a replay held until now (R341). The
list is looked through from its head after each service (log 69). -/
def State.serve (s : State) (key : Nat) : Nat → State
  | 0 => s
  | n + 1 =>
    match s.retry.find? fun w => (w.key / 8 == key / 8 || (homeUnit w.key == homeUnit key && s.replayed w)) && s.canServe w with
    | none => s
    | some w => (s.serveOne w).serve key n

/-- A change of a word's bit serves its waiters. -/
def State.serveAll (s : State) (key : Nat) : State := s.serve key s.retry.length

/-! ## Requests to other packages (R224, R226) -/

/-- The next sequence number of the stream of core c and a class to a package, and the state with it used (R224). -/
def State.streamNext (s : State) (c pkg cls : Nat) : Nat × State :=
  let is (x : Nat × Nat × Nat × Nat) : Bool := x.1 == c && x.2.1 == pkg && x.2.2.1 == cls
  let n := match s.streams.find? is with
    | some x => x.2.2.2
    | none => 0
  (n, { s with streams := (c, pkg, cls, (n + 1) % 2 ^ 24) :: s.streams.filter fun x => !is x })

/-- The next sequence number of the acting firing's stream to a package. -/
def State.streamSeq (s : State) (pkg : Nat) : Nat × State := s.streamNext s.fir.core.val pkg (bits s.part.pcfg 10 8)

/-- A request of the acting firing on its stream (R224). -/
def State.ask (s : State) (pkg part seq tag : Nat) (req : Req) (addr n : Nat) (v w : Word) : State :=
  s.send (.request s.fir.core.val (bits s.part.pcfg 10 8) pkg part seq tag req addr n v w)

/-- The withdrawal of a wait at another package, sent once (R226). -/
def State.withdrawFar (s : State) (n : Nat) : State :=
  match s.firing? n with
  | none => s
  | some f =>
    match f.pends.find? fun p => p.fe with
    | none => s
    | some p => s.asFiring n fun s =>
      let (q, s) := s.streamSeq p.pkg
      (s.ask p.pkg 0 q 0 .withdraw p.seq 8 0 0).upd fun f =>
        { f with pends := f.pends.map fun r => if r.seq == p.seq && r.pkg == p.pkg then { r with fe := false } else r }

/-! ## Traps of a firing and of its gang (R94, R106 to R109) -/

/-- A trap of a firing with its delivery's parts. -/
structure Pending where
  user : Bool
  tc : Word
  val : Word
  deriving DecidableEq, Repr

/-- A trap as it is delivered. -/
def Trap.pending (t : Trap) : Pending := { user := t.c.user, tc := tcauseOf false t.sub t.c.code, val := t.val }

/-- GANGBREAK, reporting the lowest faulting lane. -/
def gangBreak (lane : Nat) : Pending := Trap.pending { c := .gangbreak, sub := 0, val := BitVec.ofNat 64 lane }

/-- The gang of a firing. -/
def State.gangOf (s : State) (n : Nat) : Option Gang := s.gangs.find? fun g => g.members.contains n

/-- Where a firing stands: its address, and its position and pass in a frame. -/
def Firing.place (f : Firing) : Word × Nat × Nat := (f.pc, f.repi, f.repj)

/-- The members of a gang that have not done the instruction it is at, and where that is. -/
def State.gangAt (s : State) (g : Gang) : (Word × Nat × Nat) × List Nat :=
  let fs := g.members.filterMap s.firing?
  match fs with
  | [] => ((g.pc, g.i, g.j), [])
  | f :: rest =>
    if rest.all fun h => h.place == f.place then (f.place, fs.map (·.adm))
    else ((g.pc, g.i, g.j), (fs.filter fun h => h.place == (g.pc, g.i, g.j)).map (·.adm))

/-- A gang changed. -/
def State.onGang (s : State) (g : Gang) (k : Gang → Gang) : State :=
  { s with gangs := s.gangs.map fun h => if h.members == g.members then k h else h }

/-- A gang at an instruction: its place, and its members as they stand before it, kept while any of them is at it (R109). -/
def State.gangPut (s : State) (g : Gang) (p : Word × Nat × Nat) : State :=
  s.onGang g fun h =>
    if !h.before.isEmpty && (h.pc, h.i, h.j) == p then h
    else { h with pc := p.1, i := p.2.1, j := p.2.2, before := g.members.filterMap s.firing?, undo := [] }

/-- A member as it stood before an instruction that it has done and others wait in: what its engines have delivered since stays, the number of
its logged operations, and, where steps says so, the sum and the count of a VREDQ (R109, R200, R287). -/
def Firing.undone (now : Firing) (steps : Bool) (old : Firing) : Firing :=
  let f : Firing :=
    { old with acc := now.acc, accf := now.accf, q12 := now.q12, q12lost := now.q12lost, q13 := now.q13, reports := now.reports,
               replost := now.replost, run := now.run, aged := now.aged, opn := now.opn }
  if steps then { f with x := now.x, v := now.v, fflags := now.fflags } else f

/-- One effect of such an instruction taken back (R109); who waited for what it had taken is served. -/
def State.takeBack (s : State) (u : Undo) : State :=
  match u with
  | .sem h n amt =>
    (s.onFrond h fun f => { f with hs := f.hs.set n (BitVec.ofNat 16 (min (f.hs[n].toNat + amt) 65535)) }).serveSems h
  | .word key val full => ((s.homeDone (keysFrom key 8) (s.mem.write key 8 val)).setFull key full).serveAll key

/-- The instruction a gang is at undone in the members that have done it (R109). -/
def State.undoGang (s : State) (g : Gang) : State :=
  match s.gangs.find? fun h => h.members == g.members with
  | none => s
  | some h =>
    let todo := (s.gangAt h).2
    let back (s : State) (old : Firing) : State :=
      if todo.contains old.adm then s else s.onFiring old.adm fun f => f.undone h.steps old
    if todo.length = (h.members.filterMap s.firing?).length then s
    else h.before.foldl back ((h.undo.foldl State.takeBack (s.onGang h fun x => { x with undo := [] })))

/-- A gang broken before the instruction it is at (R109): what its members have done of it is undone, each faulting member takes its own trap and
every other one GANGBREAK. TRAP reports that instruction's own address here, not the one after it (log 67). An access held on a full log stays at its home (R340), and one that waits at another package is withdrawn (R150). -/
def State.breakGang (s : State) (g : Gang) (faults : List (Nat × Pending)) : State :=
  let pc := (s.gangAt g).1.1
  let s := s.undoGang g
  let s := { s with gangs := s.gangs.filter fun h => h.members != g.members }
  let lane (n : Nat) : Nat := g.members.idxOf n
  let low := (faults.map fun x => lane x.1).min?.getD 0
  let stays (w : FeWait) : Bool := w.peer.isNone && faults.any fun x => x.1 == w.adm && bits x.2.tc 7 0 == Cause.logfull.code
  let t := g.members.foldl (fun s n =>
    let t := match faults.find? fun x => x.1 == n with
      | some x => x.2
      | none => gangBreak low
    (s.withdrawFar n).asFiring n fun s => (s.upd fun f => { f.clrGang with pc := pc }).deliver t.user t.tc t.val pc) s
  { t with retry := s.retry.filter fun w => stays w || t.retry.contains w }

/-- A trap of firing n at the boundary before its instruction; its gang breaks. -/
def State.trapFiring (s : State) (n : Nat) (t : Pending) : State :=
  match s.firing? n with
  | none => s
  | some _ =>
    match s.gangOf n with
    | some g => s.breakGang g [(n, t)]
    | none => s.asFiring n fun s => s.deliver t.user t.tc t.val s.fir.pc

/-! ## One full-empty access (R148 to R150) -/

/-- A .sf synchronising store by a unit (R84, R204). -/
def State.feStore (s : State) (key : Nat) (v : Word) : State := (s.feApply none key false true v).2.serveAll key

/-- A word's list has no room for another access (R149). -/
def State.listFull (s : State) (key : Nat) : Bool := decide (256 ≤ (s.retry.filter fun w => homeUnit w.key == homeUnit key).length)

/-- An earlier operation of a firing on one of n bytes at a key is still held at its bank (R160). -/
def bankBehind (busy : List BankReq) (adm key n : Nat) : Bool :=
  busy.any fun r => !r.applied && r.peer.isNone && r.adm == adm && decide (r.key < key + n) && decide (key < r.key + r.op.size)

/-- A full-empty access of the acting firing at its home (R148, R149). In a team that is recorded or replayed each goes the log's way as it takes
effect, at once or after a wait (log 69): it waits while the log holds it, and takes LOGFULL, staying at its home, on a full log, or at its
arrival where a replay knows it nowhere (R340, R341). -/
def State.feOp (s : State) (load sets : Bool) (key : Nat) (v : Word) (d : BitVec 6) (ref : Ref) : Except Stop Done :=
  let s := s.useKey key
  let holds := s.feHolds key load sets
  let w : FeWait :=
    { key := key, load := load, sets := sets, val := v, rd := d, adm := s.fir.adm, addr := ref.va, shard := if ref.shard then s.next else 0, peer := none }
  let go (s : State) (all : Bool) : Except Stop Done :=
    let s := s.noteUndo s.fir.adm (.word key (s.mem.read key 8) (s.isFull key))
    let (old, t) := s.feApply (some s.fir.frond) key load sets v
    let t := if all then t.serveAll key else t
    .ok (.done (if load then t.wx d old else t))
  let join (s : State) : State := { s with retry := s.retry ++ [w], next := s.next + 1 }
  let wait (s : State) : Except Stop Done :=
    if s.listFull key then block (s.push .feResend s.fir.adm 0 0 ref.va) .resend else block (join s) .fullEmpty
  let full (s : State) (sub die : Nat) : Except Stop Done := .ok (.stay { s.trapHere (logFull sub die) with retry := s.retry })
  if bankBehind s.cores[s.fir.core].busy s.fir.adm key 8 then block s .posted
  else match s.retry.find? fun w => w.adm == s.fir.adm && w.peer.isNone with
    | some w =>
      if !holds then block s .fullEmpty
      else match s.logServe s.fir key with
        | .held => block s .fullEmpty
        | .full sub die => full s sub die
        | .ok t => go { t with retry := t.retry.erase w } true
    | none => match s.loggedTeam s.fir with
      | none => if holds then go s (!load || sets) else wait s
      | some t => match s.logServe s.fir key with
        | .held => wait s
        | .full sub die => if holds || t.flag 27 then full (if s.listFull key then s else join s) sub die else wait s
        | .ok u => if holds then go u true else wait s

/-! ## Bank operations (R158 to R165) -/

/-- The new value of an integer atomic (R163): old, operand and compare value of n bytes. -/
def amoNew (op n old b c : Nat) : Nat :=
  let w := 8 * n
  match op with
  | 0 => (old + b) % 2 ^ w
  | 1 => old &&& b
  | 2 => old ||| b
  | 3 => old ^^^ b
  | 4 => if intOf true w b < intOf true w old then b else old
  | 5 => if intOf true w old < intOf true w b then b else old
  | 6 => min old b
  | 7 => max old b
  | 8 => b
  | _ => if old = c then b else old

/-- The new value of a float atomic (R164). -/
def famoNew (op : Nat) (t : AF) (old b : Nat) : Nat :=
  let F := afFmt t
  if F.isNan old || F.isNan b then F.canon
  else if op = 0 then (fAdd F Rnd.rne old b).1
  else (fMinMax F (op == 2) old b).1

/-- One bank operation on memory at a key: memory after, the response, and the flags a cell read raises. -/
def bankApply (op : BankOp) (m : Mem) (key : Nat) (v w : Word) : Mem × Word × Nat :=
  match op with
  | .amo o n =>
    let old := m.read key n
    (m.write key n (amoNew o n old (v.toNat % 2 ^ (8 * n)) (w.toNat % 2 ^ (8 * n))), extend true n old, 0)
  | .famo o t =>
    let n := afBytes t
    let old := m.read key n
    (m.write key n (famoNew o t old (v.toNat % 2 ^ (8 * n))), BitVec.ofNat 64 old, 0)
  | .xcadd t => (m.write key 64 (cellAdd (afFmt t) (m.read key 64) v.toNat), 0, 0)
  | .xcrd t => let r := cellRead (afFmt t) (m.read key 64); (m, BitVec.ofNat 64 r.1, r.2)
  | .xcclr => (m.write key 64 0, 0, 0)
  | .xcrdclr t => let r := cellRead (afFmt t) (m.read key 64); (m.write key 64 0, BitVec.ofNat 64 r.1, r.2)

/-- A bank operation whose effect or answer depends on its place in the order (R169). -/
def BankOp.ordered (op : BankOp) (posted : Bool) : Bool :=
  match op with
  | .amo o _ => decide (8 ≤ o) || !posted
  | .famo _ _ => true
  | _ => false

/-- The tags of a core that are busy: of its bank operations, and of its firings' full-empty accesses at other packages (R161, R226). -/
def State.busyTags (s : State) (c : Fin 2048) : List Nat :=
  (s.cores[c].busy.map fun r => r.tag) ++ (s.firings.filter fun f => f.core == c).flatMap fun f => f.pends.filterMap fun p => p.tag

/-- The next tag that is not busy (R161). -/
def freeTag (busy : List Nat) (t : BitVec 16) : Nat → BitVec 16
  | 0 => t
  | n + 1 => if busy.contains t.toNat then freeTag busy (t + 1) n else t

/-- The next tag of the acting core that is not busy. -/
def State.newTag (s : State) : Nat :=
  let busy := s.busyTags s.fir.core
  (freeTag busy s.cores[s.fir.core].nextTag (busy.length + 1)).toNat

/-- A request under a source and tag at its bank (R162): a filter that knows it gives the stored response, else it is applied, for a firing of
frond h or for another package, and its response kept. -/
def State.bankAt (s : State) (h : Option (Fin 1024)) (src tag : Nat) (op : BankOp) (key : Nat) (v w : Word) : State × Word × Nat :=
  match s.filtered src key tag with
  | some f => (s, f.resp, f.flags)
  | none =>
    let (m, resp, fl) := bankApply op s.mem key v w
    let x : Filt := { src := src, bank := homeUnit key, tag := tag, resp := resp, flags := fl }
    ({ s.homeWrite h key op.size m with filt := filtAdd s.filt x }, resp, fl)

/-- A request of a core at its bank, noted as applied. -/
def State.bankDo (s : State) (core : Fin 2048) (q : BankReq) : State × Word × Nat :=
  let (s, resp, fl) := s.bankAt (some ⟨core.val / 2, by have := core.isLt; omega⟩) core.val q.tag q.op q.key q.val q.cmp
  let done (r : BankReq) : BankReq := if r.tag == q.tag then { r with applied := true, resp := resp } else r
  (s.onCore core fun c => { c with busy := c.busy.map done }, resp, fl)

/-- The bank a request goes to, for the limit of R161: its home unit, or the other package (log 70). -/
def BankReq.bank (r : BankReq) : Nat := match r.peer with
  | some p => 2 ^ 16 + p.pkg
  | none => homeUnit r.key

/-- What the log knows an operation of kind k by: fid and the count of earlier ones (R339). -/
def Firing.opName (f : Firing) (k : Nat) : Word := BitVec.ofNat 64 (bits f.fid 31 0 * 2 ^ 32 + f.opn.toList.getD k 0 % 2 ^ 32)

/-- A request of the acting firing, with the next free tag. -/
def State.bankReq (s : State) (op : BankOp) (key : Nat) (v w : Word) (posted : Bool) (lock : Nat) : BankReq :=
  { tag := s.newTag, key := key, op := op, val := v, cmp := w, copies := 1,
    answered := false, resp := 0, adm := s.fir.adm, applied := false,
    team := if op.ordered posted then (s.loggedTeam s.fir).map Team.id else none, me := s.fir.opName 1, told := false, lock := lock,
    peer := none, part := s.fir.part }

/-- A request entered under its tag (R161). -/
def State.bankEnter (s : State) (q : BankReq) : State :=
  s.onCore s.fir.core fun c => { c with nextTag := BitVec.ofNat 16 q.tag + 1, busy := c.busy ++ [q] }

/-- What the log answers to a request at its bank. -/
def State.bankLog (s : State) (q : BankReq) : LogRes :=
  match q.team.bind fun id => s.teams.find? fun t => t.id == id with
  | none => .ok s
  | some t => let (d, site) := homeSite q.key; s.logOp t 1 ⟨d % 4, by omega⟩ site q.me

/-- The count of the acting firing's logged operations of a kind raised. -/
def State.countOp (s : State) (k : Nat) : State :=
  s.upd fun g => { g with opn := g.opn.mapIdx fun i x => if i = k then x + 1 else x }

/-- The line of a target in device memory leaves the L1 before the request does (R159). -/
def State.bankFlush (s : State) (key : Nat) : State := if key < shmKey 0 then s.flushLine s.fir.frond key else s

/-- Room under the tags for some requests of the acting firing, given their banks (R161). -/
def State.tagRoom (s : State) (banks : List Nat) : Except Stop Unit :=
  let need (b : Nat) : Nat := (banks.filter (· == b)).length
  match banks.find? fun b => decide (64 < (s.cores[s.fir.core].busy.filter fun r => r.bank == b).length + need b) with
  | none => .ok ()
  | some b => block s (.tags b (need b))

/-- A blocking bank operation of the acting firing, sent to its home and applied there (R158 to R162): the response and flags. -/
def State.bankSend (s : State) (op : BankOp) (key : Nat) (v w : Word) : Except Stop (State × Word × Nat) := do
  s.tagRoom [homeUnit key]
  if bankBehind s.cores[s.fir.core].busy s.fir.adm key op.size then block s .held
  let s := s.bankFlush key
  let q := s.bankReq op key v w false 0
  let s ← if (s.filtered s.fir.core.val key q.tag).isSome then Except.ok s else match s.bankLog q with
    | .ok s => Except.ok s
    | .held => block s .held
    | .full sub d => .error (.trap (logFull sub d))
  let s := if q.team.isSome then s.countOp 1 else s
  let (s, resp, fl) := ((s.bankEnter q).useKey key).bankDo s.fir.core q
  .ok (s.push .bankOpResponseArrive s.fir.core.val q.tag 0 0, resp, fl)

/-- A request whose firing has been told of a full log. -/
def State.bankTold (s : State) (c : Fin 2048) (tag : Nat) : State :=
  let told (r : BankReq) : BankReq := if r.tag == tag then { r with told := true } else r
  s.onCore c fun x => { x with busy := x.busy.map told }

/-- A posted bank operation of the acting firing, alone (lock 0) or a lane of vector bank operation number lock: sent to its bank, where it
is applied when it arrives (R160, R167, R168). -/
def State.bankPost (s : State) (op : BankOp) (key : Nat) (v w : Word) (lock : Nat) : State :=
  let s := s.bankFlush key
  let q := s.bankReq op key v w true lock
  let s := (s.bankEnter q).useKey key
  (if q.team.isSome then s.countOp 1 else s).push .bankOpArrive s.fir.core.val q.tag 0 0

/-- The entry of VBSUM n released when its last lane has been applied (R168). -/
def State.vbsumDone (s : State) (core : Fin 2048) (adm n : Nat) : State :=
  if s.cores[core].busy.any fun r => r.lock == n && !r.applied then s
  else s.unlock ⟨core.val / 2, by have := core.isLt; omega⟩ (.vbsum adm n)

/-- A bank operation on bytes of a place that the acting firing posted and that an access of n bytes must follow (po-loc of R235). Ordinary
reads of device memory need not (R246). -/
def State.postedAt (s : State) (wr : Bool) (pl : Place) (n : Nat) : Bool :=
  match pl with
  | .ctl _ => false
  | .far _ _ _ => false
  | .dev k => wr && bankBehind s.cores[s.fir.core].busy s.fir.adm k n
  | pl => bankBehind s.cores[s.fir.core].busy s.fir.adm pl.key n

/-- Accesses of n bytes each wait for what the firing posted on those bytes. -/
def State.afterPosted (s : State) (wr : Bool) (pls : List Place) (n : Nat) : Except Stop Unit :=
  if pls.any fun pl => s.postedAt wr pl n then block s .posted else .ok ()

/-- Earlier accesses of the acting firing that its engine operation must follow (R242): its posted bank operations, lanes of vector ones among
them (R160, R167), and its remote writes not yet acknowledged, lanes of scatters among them. -/
def State.earlier (s : State) : Bool :=
  (s.cores[s.fir.core].busy.any fun r => r.adm == s.fir.adm && !r.applied) || s.unacked.any fun u => u.adm == s.fir.adm

/-- An engine operation waits for the firing's earlier accesses (R242). -/
def State.afterEarlier (s : State) : Except Stop Unit := if s.earlier then block s .posted else .ok ()

/-! ## Answers and outstanding accesses (R157, R225 to R227, R389) -/

/-- A register written by an answer. -/
def Firing.reply (f : Firing) (r : Reply) (v : Word) (fl : Nat) : Firing :=
  match r with
  | .scalar d n sg => f.wx d (extend sg n v.toNat)
  | .cell d n => if d = 0 then f else (f.wx d (extend false n v.toNat)).orFlags (BitVec.ofNat 64 fl)
  | .lane d i n sg =>
    if n = 8 then f.wv d (setElem (f.rv d) 64 i v.toNat)
    else f.wv d (setElem (f.rv d) 32 i (extend sg n v.toNat).toNat)
  | .elem d e w => f.wv d (setElem (f.rv d) w e v.toNat)
  | .buf i => { f with data := f.data.set i v }
  | .steal d => (f.wx d (if fl = 0 then 0 else 1)).wx (d + 1) (if fl = 0 then 0 else v)
  | .none => f

/-- A register written with poison: 0x7FFFFBAD in every 32-bit lane of the result (R227, R382, R389). -/
def Firing.replyPoison (f : Firing) (r : Reply) : Firing :=
  let p := BitVec.ofNat 64 (poison 8)
  match r with
  | .scalar d _ _ => f.wx d p
  | .cell d _ => f.wx d p
  | .lane d i n _ => f.reply (.lane d i (if n = 8 then 8 else 4) false) p 0
  | .elem d e w => f.reply (.elem d e w) (BitVec.ofNat 64 (poison 8 / 2 ^ (w * e % 32))) 0
  | .buf i => { f with data := (f.data.set i p).set (f.data.length / 2 + i) 1 }
  | r => f.reply r p 0

/-- Loads and gather lanes of a core that are outstanding (R157): those asked of other packages, and those of a gather whose data are
returning. -/
def State.loadsOut (s : State) (c : Fin 2048) : Nat :=
  let fs := s.firings.filter fun f => f.core == c
  let asked (f : Firing) : Nat := (f.pends.filter fun p => p.reply != .none && !p.fe).length
  let lanes (e : Ev) : Nat := if e.op == .gatherLaneReturn && fs.any fun f => f.adm == e.a then (e.l.headD 0).toNat else 0
  (fs.map asked).sum + (s.agenda.map lanes).sum

/-- An access of the acting firing that loads n parts finds free entries, all 64 of them for more, or is not ready (R157). -/
def State.loadRoom (s : State) (n : Nat) : Except Stop Unit := if 64 < s.loadsOut s.fir.core + min n 64 then block s .loads else .ok ()

/-- An outstanding access of the acting firing noted. -/
def State.pended (s : State) (pkg seq : Nat) (r : Reply) (tag : Option Nat) (ref : Ref) : State :=
  let p : Pend :=
    { pkg := pkg, seq := seq, reply := r, fe := tag.isSome, tag := tag, dead := false, addr := ref.va, tv := ref.tv, shard := ref.shard }
  s.upd fun f => { f with pends := f.pends ++ [p] }

/-- An access to a lost package completes at once: a load with poison, a write dropped and counted (R227, R389). -/
def State.lostAccess (s : State) (pkg : Nat) (r : Reply) : State :=
  if r = .none then s.dropped s.fir.part 1 else s.upd fun f => (f.replyPoison r).poisoned pkg

/-- A request to another package whose answer the firing will wait for (R225, R226); a full-empty access takes a tag. -/
def State.farAsk (s : State) (pkg part : Nat) (req : Req) (addr n : Nat) (v w : Word) (r : Reply) (fe : Bool) (ref : Ref) : State :=
  if s.lost.contains pkg then s.lostAccess pkg r
  else
    let (seq, s) := s.streamSeq pkg
    if fe then
      let tag := s.newTag
      let s := s.onCore s.fir.core fun c => { c with nextTag := BitVec.ofNat 16 tag + 1 }
      (s.ask pkg part seq tag req addr n v w).pended pkg seq r (some tag) ref
    else (s.ask pkg part seq 0 req addr n v w).pended pkg seq r none ref

/-- A posted write to another package: sent, or dropped and counted when the package is lost (R225, R389). lane: a lane of a scatter. -/
def State.farPost (s : State) (lane shard : Bool) (pkg part : Nat) (req : Req) (addr n : Nat) (v : Word) : State :=
  if s.lost.contains pkg then s.dropped s.fir.part 1
  else
    let (seq, s) := s.streamSeq pkg
    let u : Unack := { adm := s.fir.adm, pkg := pkg, seq := seq, lane := lane, shard := shard, die := s.fir.die, part := s.fir.part }
    { s.ask pkg part seq 0 req addr n v 0 with unacked := s.unacked ++ [u] }

/-- A bank operation sent to another package under a tag (R161, R226): its answer awaited as r, or with none posted; lock as in bankPost. -/
def State.bankFar (s : State) (op : BankOp) (pkg part addr : Nat) (v w : Word) (r : Option Reply) (lock : Nat) (ref : Ref) : State :=
  if s.lost.contains pkg then s.lostAccess pkg (r.getD .none)
  else
    let (seq, s) := s.streamSeq pkg
    let q : BankReq :=
      { s.bankReq op 0 v w r.isNone lock with
        team := none, peer := some { pkg := pkg, part := part, cls := bits s.part.pcfg 10 8, seq := seq, addr := addr, posted := r.isNone } }
    let s := (s.ask pkg part seq q.tag (.bank op) addr op.size v w).bankEnter q
    match r with
    | some r => s.pended pkg seq r none ref
    | none => s

/-- Whether the next posted write is one whose owner refuses it, which holds the firing until the answer (R219): a free choice, made
before the answer is known (log 5). -/
def State.foretold (s : State) : Bool × State := let (n, s) := s.nextFree; (Config.choice n % 2 == 1, s)

/-- A remote write of the acting firing: posted, or held for an answer that refuses it. -/
def State.farWrite (s : State) (lane : Bool) (pkg part : Nat) (addr n : Nat) (v : Word) (ref : Ref) : State :=
  if s.lost.contains pkg then s.farPost lane ref.shard pkg part .store addr n v
  else
    let (held, s) := s.foretold
    if held then s.farAsk pkg part .store addr n v 0 .none false ref else s.farPost lane ref.shard pkg part .store addr n v

/-- The end of an instruction that may have asked other packages: it waits while an answer is outstanding. t is a trap that comes first
when all have answered. -/
def State.settle (s : State) (t : Option Trap) : Except Stop Done :=
  if s.fir.pends.isEmpty then
    (match t with
    | some t => .error (.trapIn s t)
    | none => .ok (.done s))
  else .error (.wait (s.upd fun f => { f with late := t }) .answer)

/-- The trap of an owner's refusal (R219): SHARD 0x07 with the owner's code. -/
def shard7 (code : Nat) (tv : Word) : Trap := { c := .shard, sub := 7, val := BitVec.ofNat 64 (code * 2 ^ 56 + tv.toNat % 2 ^ 56) }

/-- Of two late traps the one at the lower lane (R155, R222). -/
def lateMin (a : Option Trap) (t : Trap) : Option Trap :=
  match a with
  | none => some t
  | some u => if bits t.val 55 0 < bits u.val 55 0 then some t else some u

/-- The last answer of an instruction: it ends, or takes the trap that is due, which breaks its gang (R109); a gather's range-lock entry goes (R190). -/
def State.settled (s : State) (n : Nat) : State :=
  match s.firing? n with
  | none => s
  | some f =>
    if !f.pends.isEmpty then s
    else
      let s := s.unlock f.frond (.gather n 0)
      match f.late with
      | some t => s.trapFiring n t.pending
      | none => s.onFiring n fun f => if f.data.isEmpty then f.advance else { f with wait := none }

/-- Both are members of one pair. -/
def Firing.pairs (f g : Firing) : Bool := f.pairset.isSome && f.frond == g.frond && f.pairset == g.pairset

/-- A firing that the supervisor's save of a stopped firing takes, itself or its twin, once it may be saved (R198, R203). -/
def State.saveDue (s : State) (f : Firing) : Bool :=
  let stopped (g : Firing) (n : Nat) : Bool := match g.run with
    | .stopped (some k) _ => k == n
    | _ => false
  s.agenda.any fun e => e.op == .fcmdSave && e.a % 16 == f.part.val
    && s.firings.any fun g => g.part == f.part && stopped g e.b && (g.adm == f.adm || f.pairs g)

/-- A firing that is stopped at its next boundary (R203): its team, or its entry's handlers, under SAVE or DISCARD, or a save by the supervisor. -/
def State.halting (s : State) (f : Firing) : Bool :=
  (match s.parts[f.part].req with
    | some r => !r.resume && r.action != 0 && f.tid == r.tid
    | none => false) || s.saveDue f

/-- The core that holds a request to another package: that of its firing, or where it is found when the firing has gone. -/
def State.coreOf (s : State) (adm pkg seq : Nat) : Option (Fin 2048) :=
  let has (c : Fin 2048) : Bool := s.cores[c].busy.any fun r => r.adm == adm && r.peer.any fun p => p.pkg == pkg && p.seq == seq
  match s.firing? adm with
  | some f => if has f.core then some f.core else none
  | none => (List.finRange 2048).find? has

/-- The answer of its owner to a bank operation on a page of another package: performed there, its tag free in time (R161, R225). -/
def State.bankAnswered (s : State) (adm pkg seq : Nat) : State :=
  match s.coreOf adm pkg seq with
  | none => s
  | some c =>
    match s.cores[c].busy.find? fun r => r.adm == adm && r.peer.any fun p => p.pkg == pkg && p.seq == seq with
    | none => s
    | some q =>
      let mark (r : BankReq) : BankReq := if r.tag == q.tag then { r with applied := true, answered := true } else r
      ((s.onCore c fun x => { x with busy := x.busy.map mark }).push .bankTagFree c.val q.tag 0 0).vbsumDone c adm q.lock

/-- An answer to one outstanding access of firing n (R143, R219, R226): code 0 with data, 0xFF for a withdrawn wait, else the owner's
trap code. A wait withdrawn for a report or a pre-emption leaves its instruction to run again. An answer to nothing outstanding changes
nothing, and one to an access that was outstanding when its package was declared lost is discarded (R389). -/
def State.answer (s : State) (n pkg seq code : Nat) (v : Word) (fl : Nat) : State :=
  match s.firing? n with
  | none => s
  | some f =>
    match f.pends.find? fun p => p.pkg == pkg && p.seq == seq with
    | none => s
    | some p =>
      if s.lost.contains pkg || p.dead then s
      else if code = 0xFF && (f.reportDue.isSome || s.halting f) then
        s.onFiring n fun f => { f with pends := f.pends.erase p, wait := none }
      else
        let g (f : Firing) : Firing :=
          let f := { f with pends := f.pends.erase p }
          if code = 0 then f.reply p.reply v fl
          else if code = 0xFF then { f with late := some { c := .fewait, sub := 0, val := p.addr } }
          else { f with late := lateMin f.late (shard7 code p.tv) }
        ((s.bankAnswered n pkg seq).onFiring n g).settled n

/-! ## The own scratchpad -/

/-- An address in the own scratchpad's aperture, or in aperture 1 naming the frond itself (R139). -/
def State.inOwn (s : State) (a : Word) : Bool :=
  a.toNat / 2 ^ 44 == 0x1FF0 || (a.toNat / 2 ^ 44 == 0x1FF1 && bits a 29 20 == s.fir.frond.val)

/-- n bytes in the own scratchpad, aligned to al: ALIGN, then PROT outside it, then the checks of R140; tval is the address. -/
def State.ownSpad (s : State) (ac : Acc) (a : Word) (n al : Nat) : Except Stop (State × Place) := do
  check (bits a 63 57 == 0 && a.toNat % al == 0) .align a
  check (s.inOwn a) .prot a
  s.access ac a.toNat n al

/-! ## Another frond's scratchpad (R143) -/

/-- An access to another frond's scratchpad must first arrive at the owner's port. -/
def State.needsPort (s : State) (pls : List Place) : Bool := !s.fir.granted && pls.any s.remoteSpad

/-- The wait for the arrival. -/
def State.toPort {α : Type} (s : State) : Except Stop α :=
  block (if s.fir.wait = some .answer then s else s.push .remoteAccessArrive s.fir.adm 0 0 0) .answer

/-! ## Parts of a vector or of a block (R140, R152, R234) -/

/-- Parts checked in ascending order up to the first that fails: the places of those that pass, and the trap. -/
def State.upTo (s : State) (check : State → Nat → Except Stop (State × Place)) :
    List Nat → Except Stop (State × List (Nat × Place) × Option Trap)
  | [] => .ok (s, [], none)
  | i :: is =>
    match check s i with
    | .error (.trap t) => .ok (s, [], some t)
    | .error e => .error e
    | .ok (s, pl) => do
      let (s, pls, t) ← s.upTo check is
      .ok (s, (i, pl) :: pls, t)

/-- Every part checked before any moves, the lowest that fails reported by its address, an owner's window by the owner's port (R140, R143). -/
def State.allOf (s : State) (ac : Acc) (n : Nat) (va : Nat → Word) (check : State → Nat → Except Stop (State × Place)) (es : List Nat) :
    Except Stop (State × List (Nat × Place)) := do
  let (s, pls, t) ← s.upTo check es
  if s.needsPort (pls.map Prod.snd) then s.toPort
  pls.foldlM (fun _ x => s.window ac x.2 n (va x.1)) ()
  match t with
  | some t => .error (.trap t)
  | none => .ok (s, pls)

/-- The places of some elements of n bytes. -/
def State.elemPlaces (s : State) (ac : Acc) (n : Nat) (at_ : Nat → Int) (es : List Nat) : Except Stop (State × List (Nat × Place)) :=
  s.allOf ac n (fun e => ofInt (at_ e)) (fun s e => s.access ac (at_ e) n n) es

/-- The lowest byte of a range-locked part, which a block reports. -/
def State.lockedByte (s : State) (ac : Acc) (a : Int) (n : Nat) : Word :=
  ofInt (a + (((List.range n).find? fun (i : Nat) => lockHit s.fr.locks ac (lockAddr s.fir.frond (a + i).toNat) 1).getD 0 : Nat))

/-- The check of one part of a block, whose trap names the lowest failing byte. -/
def State.blockAccess (s : State) (ac : Acc) (a : Int) (n : Nat) : Except Stop (State × Place) :=
  match s.access ac a n n with
  | .error (.trap t) => .error (.trap (if t.c = .rangelock then { t with val := s.lockedByte ac a n } else t))
  | r => r

/-- The places of the parts of a block, n bytes each. -/
def State.blockPlaces (s : State) (ac : Acc) (n : Nat) (at_ : Nat → Int) (es : List Nat) : Except Stop (State × List (Nat × Place)) :=
  s.allOf ac n (fun e => ofInt (at_ e)) (fun s e => s.blockAccess ac (at_ e) n) es

/-- The places of n dwords from an address on. -/
def State.placesFrom (s : State) (ac : Acc) (a : Int) (n : Nat) : Except Stop (State × List Place) :=
  (s.blockPlaces ac 8 (fun i => a + 8 * (i : Nat)) (List.range n)).map fun x => (x.1, x.2.map Prod.snd)

/-- The aligned dword of another package that a part lies in: package, partition there, address. -/
def farDword : Place → Option (Nat × Nat × Nat)
  | .far pkg part addr => some (pkg, part, addr / 8 * 8)
  | _ => none

/-- The aligned dwords of other packages that some parts lie in, each once, with the number of the first part in it (R234). -/
def farDwords (pls : List Place) : List ((Nat × Nat × Nat) × Nat) :=
  (pls.zipIdx).foldl (fun ds x => match farDword x.1 with
    | some k => if ds.any fun d => d.1 == k then ds else ds ++ [(k, x.2)]
    | none => ds) []

/-- The dwords of other packages that some parts lie in, asked for and awaited once: the instruction runs again with all of them in the
firing's data (R219, R234). ref i is what part i reports. -/
def State.farFetch (s : State) (pls : List Place) (ref : Nat → Ref) : Except Stop State :=
  let ds := farDwords pls
  if ds.isEmpty || s.fir.data.length == 2 * ds.length then .ok s
  else do
    s.loadRoom ds.length
    let ask (s : State) (x : ((Nat × Nat × Nat) × Nat) × Nat) : State :=
      s.farAsk x.1.1.1 x.1.1.2.1 .load x.1.1.2.2 8 0 0 (.buf x.2) false (ref x.1.2)
    let s := (ds.zipIdx).foldl ask (s.upd fun f => { f with data := List.replicate (2 * ds.length) 0 })
    if s.fir.pends.isEmpty then .ok s else .error (.wait (s.upd fun f => { f with late := none }) .answer)

/-- What was fetched for a part of n bytes at another package, none where it came as poison. -/
def farPart (ds : List ((Nat × Nat × Nat) × Nat)) (data : List Word) (n : Nat) (pl : Place) : Option Nat :=
  match pl with
  | .far pkg part addr =>
    let i := ds.findIdx fun d => d.1 == (pkg, part, addr / 8 * 8)
    if data.getD (ds.length + i) 0 = 0 then some ((data.getD i 0).toNat / 2 ^ (8 * (addr % 8)) % 2 ^ (8 * n)) else none
  | _ => none

/-- A load of n bytes delivered as an answer to r; poisoned CXL data gives poison (R382). -/
def State.loadInto (s : State) (pl : Place) (n : Nat) (r : Reply) : State :=
  match pl with
  | .dev k =>
    if s.cxlPoisoned k n then (s.usePath pl).upd fun f => (f.replyPoison r).poisoned s.dev.pkg
    else (s.usePath pl).upd fun f => f.reply r (BitVec.ofNat 64 (s.readAt pl n)) 0
  | _ => let (s, v) := s.loadAt pl n; s.upd fun f => f.reply r (BitVec.ofNat 64 v) 0

/-- Parts of n bytes read in order into the replies their numbers name, after farFetch. -/
def State.loadParts (s : State) (n : Nat) (pls : List (Nat × Place)) (r : Nat → Reply) : State :=
  let ds := farDwords (pls.map Prod.snd)
  let data := s.fir.data
  let one (s : State) (x : Nat × Place) : State := match x.2 with
    | .far _ _ _ => s.upd fun f => match farPart ds data n x.2 with
      | some v => f.reply (r x.1) (BitVec.ofNat 64 v) 0
      | none => f.replyPoison (r x.1)
    | pl => s.loadInto pl n (r x.1)
  pls.foldl one (s.upd fun f => { f with data := [] })

/-- The parts of a block, n bytes and one place each, read in order as words. -/
def State.readParts (s : State) (n : Nat) (pls : List Place) (va : Nat → Word) : Except Stop (State × List Word) := do
  s.afterPosted false pls n
  let s ← s.farFetch pls fun i => .at (va i)
  let ds := farDwords pls
  let data := s.fir.data
  let one (a : State × List Word) (pl : Place) : State × List Word := match pl with
    | .far _ _ addr => (a.1, BitVec.ofNat 64 ((farPart ds data n pl).getD (poison 8 / 2 ^ (8 * (addr % 4)) % 2 ^ (8 * n))) :: a.2)
    | pl => let (s, v) := a.1.loadAt pl n; (s, BitVec.ofNat 64 v :: a.2)
  let (s, ws) := pls.foldl one (s.upd fun f => { f with data := [] }, [])
  .ok (s, ws.reverse)

/-- The dwords of a block read in order. -/
def State.readWords (s : State) (pls : List Place) (va : Nat → Word) : Except Stop (State × List Word) := s.readParts 8 pls va

/-- A write of some bytes of one aligned dword of another package. -/
structure FarPut where
  pkg : Nat
  part : Nat
  addr : Nat
  mask : BitVec 8
  val : Word
  /-- The first part in it. -/
  idx : Nat
  deriving DecidableEq, Repr

/-- The writes that parts of n bytes make at other packages, one for each aligned dword; of two parts on a byte the later counts (R234). -/
def farPuts (n : Nat) (xs : List (Place × Nat)) : List FarPut :=
  let put (d : (Nat × Nat × Nat) × Nat) : FarPut :=
    let fill (a : BitVec 8 × Word) (x : Place × Nat) : BitVec 8 × Word := match x.1 with
      | .far pkg part addr =>
        if (pkg, part, addr / 8 * 8) == d.1 then
          let o := addr % 8
          (a.1 ||| BitVec.ofNat 8 ((2 ^ n - 1) * 2 ^ o), setBits a.2 (8 * (o + n) - 1) (8 * o) x.2)
        else a
      | _ => a
    let (m, v) := xs.foldl fill (0, 0)
    { pkg := d.1.1, part := d.1.2.1, addr := d.1.2.2, mask := m, val := v, idx := d.2 }
  (farDwords (xs.map Prod.fst)).map put

/-- The writes of one instruction to other packages: all posted; or, where an owner refuses one, only that one is sent and the firing held for
its answer, so that nothing is written (R152, R219). Which is a free choice, made before the answer is known (log 5); an answer that
refuses nothing lets the others go. One to a lost package is dropped and counted for each aligned dword (log 53). -/
def State.farStores (s : State) (n : Nat) (xs : List (Place × Nat)) (ref : Nat → Ref) : Except Stop State :=
  let ps := farPuts n xs
  let sent := (s.fir.data.headD 0).toNat
  let post (s : State) (x : FarPut × Nat) : State :=
    if x.2 + 1 = sent then s else s.farPost false false x.1.pkg x.1.part (.storeMasked x.1.mask) x.1.addr 8 x.1.val
  let all (s : State) : State := (ps.zipIdx).foldl post (s.upd fun f => { f with data := [] })
  if ps.all fun p => s.lost.contains p.pkg then .ok (all s)
  else if sent ≠ 0 then .ok (all s)
  else
    let (c, s) := s.nextFree
    let k := Config.choice c % (ps.length + 1)
    match ps[k]? with
    | none => .ok (all s)
    | some p =>
      if s.lost.contains p.pkg then .ok (all s)
      else
        let s := s.farAsk p.pkg p.part (.storeMasked p.mask) p.addr 8 p.val 0 .none false (ref p.idx)
        .error (.wait (s.upd fun f => { f with data := [BitVec.ofNat 64 (k + 1)], late := none }) .answer)

/-- Parts of n bytes written in order, those of other packages as remote writes. -/
def State.storeParts (s : State) (n : Nat) (xs : List (Place × Nat)) (ref : Nat → Ref) : Except Stop State := do
  s.afterPosted true (xs.map Prod.fst) n
  let s ← s.farStores n xs ref
  let one (s : State) (x : Place × Nat) : State := match x.1 with
    | .far _ _ _ => s
    | pl => s.storeAt pl n x.2
  .ok (xs.foldl one s)

/-- The parts of a block written in order, n bytes each. -/
def State.writeParts (s : State) (n : Nat) (pls : List Place) (ws : List Word) (va : Nat → Word) : Except Stop State :=
  s.storeParts n (pls.zip (ws.map BitVec.toNat)) fun i => .at (va i)

/-- The dwords of a block written in order. -/
def State.writeWords (s : State) (pls : List Place) (ws : List Word) (va : Nat → Word) : Except Stop State := s.writeParts 8 pls ws va

/-! ## One scalar access -/

/-- A scalar load of n bytes. -/
def State.scalarLoad (s : State) (pl : Place) (n : Nat) (d : BitVec 6) (sg : Bool) (ref : Ref) : Except Stop Done := do
  s.loadRoom 1
  match pl with
  | .far pkg part addr => (s.farAsk pkg part .load addr n 0 0 (.scalar d n sg) false ref).settle none
  | _ =>
    if s.needsPort [pl] then s.toPort
    s.window .load pl n ref.va
    s.afterPosted false [pl] n
    .ok (.done (s.loadInto pl n (.scalar d n sg)))

/-- A scalar store of n bytes. -/
def State.scalarStore (s : State) (pl : Place) (n : Nat) (v : Word) (ref : Ref) : Except Stop Done := do
  match pl with
  | .far pkg part addr => (s.farWrite false pkg part addr n v ref).settle none
  | _ =>
    if s.needsPort [pl] then s.toPort
    s.window .store pl n ref.va
    s.afterPosted true [pl] n
    .ok (.done (s.storeAt pl n (v.toNat % 2 ^ (8 * n))))

/-- A full-empty access at a place. -/
def State.scalarFe (s : State) (pl : Place) (load sets : Bool) (v : Word) (d : BitVec 6) (ref : Ref) : Except Stop Done :=
  match pl with
  | .far pkg part addr =>
    let req : Req := if load then .ldfe (if sets then .wfe else .wf) else .stfe (if sets then .sf else .we)
    (s.farAsk pkg part req addr 8 v 0 (if load then .scalar d 8 false else .none) true ref).settle none
  | _ => s.feOp load sets pl.key v d ref

end Sys2Proof.Machine
end

