-- ==== Sys2Proof/Machine/Firings.lean ====
section
/-! DEFINITION. Firings as units: engine operations in flight, groups (R92, R93, R115), semaphores served (R121), claims and the end of a
firing (R75, R191), and the gang's leader (R107). -/

namespace Sys2Proof.Machine

/-! ## Engines in flight -/

/-- A range-lock entry of a gather or a VBSUM of a firing (R190). -/
def Lock.laneOf (l : Lock) (adm : Nat) : Bool :=
  match l.own with
  | .gather a _ => a == adm
  | .vbsum a _ => a == adm
  | _ => false

/-- A firing has an engine operation that RETIRE and PHASE must await (R75): an MMA, a gather, a lane of a vector bank operation not yet
performed or one that failed and is not yet reported, a lane of a scatter not yet acknowledged, or a copy. -/
def State.engineBusy (s : State) (f : Firing) : Bool :=
  (s.cores[f.core].mmas.any fun j => j.adm == f.adm) || (s.fronds[f.frond].locks.any fun l => l.laneOf f.adm)
    || (s.cores[f.core].busy.any fun r => r.adm == f.adm && r.lock != 0 && !r.applied) || (s.unacked.any fun u => u.adm == f.adm && u.lane)
    || (s.agenda.any fun e => e.op == .vectorBankLaneFault && e.a == f.adm) || (s.fronds[f.frond].chans.toList.any fun c => match c with
      | some x => x.adm == f.adm && x.live
      | none => false)

/-! ## Gangs -/

/-- The firing whose stream the acting firing follows: its gang's leader, or itself (R107). -/
def State.lead (s : State) : Firing :=
  if s.fir.gsize = 0 then s.fir
  else match s.gangs.find? fun g => g.members.contains s.fir.adm with
    | none => s.fir
    | some g => match g.members.head? with
      | none => s.fir
      | some m => (s.firing? m).getD s.fir

/-! ## Groups (R92, R93, R115) -/

/-- PHASE, ARRIVED and MEMBERS of a group record. -/
structure GroupRec where
  phase : Nat
  arrived : Nat
  members : Nat
  deriving DecidableEq, Repr

/-- The record at a key. -/
def State.groupAt (s : State) (key : Nat) : GroupRec :=
  let w := BitVec.ofNat 64 (s.mem.read key 8)
  { phase := bits w 51 48, arrived := bits w 47 24, members := bits w 23 0 }

/-- The record at a key written. -/
def State.putGroup (s : State) (key : Nat) (g : GroupRec) : State :=
  { s with mem := s.mem.write key 8 (g.phase % 16 * 2 ^ 48 + g.arrived % 2 ^ 24 * 2 ^ 24 + g.members % 2 ^ 24) }

/-- A boundary completes when every member has arrived (R116). -/
def GroupRec.settle (g : GroupRec) : GroupRec :=
  if g.arrived = g.members && g.members != 0 then { g with phase := (g.phase + 1) % 16, arrived := 0 } else g

/-- The resident firings of a team. -/
def State.liveOf (s : State) (t : Team) : List Firing := s.firings.filter fun f => f.tid == t.tid && f.part == t.part

/-- Group 0 of a team as a record: its members are the team's firings that have not retired, resident or saved (R92). -/
def State.group0 (s : State) (t : Team) : GroupRec :=
  { phase := t.phase0, arrived := t.arrived0, members := (s.liveOf t).length + t.saved }

/-- Group 0 of a team written. -/
def State.putGroup0 (s : State) (t : Team) (g : GroupRec) : State :=
  s.onTeam t.id fun t => { t with phase0 := g.phase, arrived0 := g.arrived }

/-- One more JOIN in the record at a key (R93). -/
def State.putJoin (s : State) (key : Nat) : State :=
  let g := s.groupAt key
  let t := s.putGroup key { g with members := g.members + 1 }
  { t with mem := t.mem.write (key + 8) 3 ((s.mem.read (key + 8) 3 + 1) % 2 ^ 24) }

/-- A firing as a member of the group at a key, its member index in a register (R93, R114). -/
def Firing.joined (f : Firing) (key : Nat) (d : BitVec 6) (index : Nat) : Firing :=
  { f with groups := f.groups ++ [key] }.wx d (BitVec.ofNat 64 index)

/-- The JOINs that wait at the record at a key admitted, oldest firing first (R93, log 71): no boundary is open there. -/
def State.admitJoins (s : State) (key : Nat) : State :=
  let reg (f : Firing) : Option (BitVec 6) := match f.wait with
    | some (.join k d) => if k = key then some d else none
    | _ => none
  let one (s : State) (f : Firing) : State := match reg f with
    | some d => (s.putJoin key).onFiring f.adm fun g => (g.joined key d (s.mem.read (key + 8) 3)).advance
    | none => s
  ((s.firings.filter fun f => (reg f).isSome).mergeSort fun f g => decide (f.adm ≤ g.adm)).foldl one s

/-- The record at a key after an arrival or a departure: a boundary that all have reached completes, and where none is open the JOINs that wait
are admitted (R93, R116). -/
def State.settleGroup (s : State) (key : Nat) (g : GroupRec) : State :=
  let t := s.putGroup key g.settle
  if g.settle.arrived = 0 then t.admitJoins key else t

/-- A member removed from the group at a key (R93). -/
def State.leaveGroup (s : State) (key : Nat) : State :=
  let g := s.groupAt key
  s.settleGroup key { g with members := g.members - 1 }

/-- The least scope, from frond on, that holds a set of fronds and the dies in a second list (R6, R115). -/
def scopeOver (fronds dies : List Nat) : Scope :=
  match fronds with
  | [] => if dies.eraseDups.length ≤ 1 then .die else .pkg
  | h :: hs =>
    if dies.isEmpty && hs.all (· == h) then .fr
    else if (hs.all fun x => x / 256 == h / 256) && dies.all (· == h / 256) then .die
    else .pkg

/-- The fronds on which the members of the group at a key reside; a saved one is restored where it was (R205). -/
def State.groupFronds (s : State) (key : Nat) : List Nat :=
  ((s.firings.filter fun f => f.groups.contains key).map fun f => f.frond.val)
    ++ (s.saved.filter fun x => x.groups.contains key).map fun x => x.core.val / 2

/-- The scope of a group whose record is at a place (R115). -/
def State.groupScope (s : State) (pl : Place) : Scope :=
  let hs := s.fir.frond.val :: s.groupFronds pl.key
  match pl with
  | .spad h _ => scopeOver (h.val :: hs) []
  | .shm o => scopeOver hs [o / 2 ^ 27]
  | _ => scopeOver hs []

/-- The scope of a team's group 0, over every frond the team has been placed on (R115). -/
def State.teamScope (s : State) (t : Team) : Scope := scopeOver (s.fir.frond.val :: t.fronds) []

/-! ## Semaphores (R120, R121) -/

/-- A count set and its waiters served. -/
def State.setSem (s : State) (h : Fin 1024) (n : Fin 16) (c : Nat) : State :=
  let s := s.onFrond h fun f => { f with hs := f.hs.set n (BitVec.ofNat 16 c) }
  s.serveSem h n s.fronds[h].hsq.length

/-! ## The end of a firing (R75, R191) -/

/-- A sorus that loses its holder keeps its region (R119, R345). -/
def Sorus.release (x : Sorus) (n : Nat) : Sorus := if x.holder = some n then { x with holder := none } else x

/-- Claims of firing n given up: the sorus, waits, gang membership, tags of lazily saved tiles stay (R75). -/
def State.dropClaims (s : State) (f : Firing) : State :=
  let s := s.withdraw f.adm
  s.onFrond f.frond fun x => { x with sorus := x.sorus.release f.adm }

/-- A pair-queue set is flushed when no member holds it any more (R80, R172). -/
def State.freePair (s : State) (f : Firing) : State :=
  match f.pairset with
  | none => s
  | some i =>
    if s.firings.any fun g => g.adm != f.adm && g.frond == f.frond && g.pairset == some i then s
    else s.onFrond f.frond fun x => { x with pairs := x.pairs.set i PairSet.free }

/-- dqbase clears when a core is left with no resident firing (R191). -/
def State.idleCore (s : State) (c : Fin 2048) : State :=
  if s.firings.any fun f => f.core == c then s else s.onCore c fun x => { x with dqbase := 0 }

/-- A firing taken out of the machine. -/
def State.removeFiring (s : State) (n : Nat) : State :=
  if s.fir.live && s.fir.adm == n then { s with fir := { s.fir with live := false } }
  else { s with others := s.others.filter fun f => f.adm != n }

/-- Group 0 of its team after a firing has gone: a boundary that every remaining member has reached completes (R93). -/
def State.settle0 (s : State) (f : Firing) : State :=
  match s.team? f with
  | none => s
  | some t => s.putGroup0 t (s.group0 t).settle

/-- Steps 3 to 5 of R75 for firing f: groups, claims, registers and slot. -/
def State.endFiring (s : State) (f : Firing) : State :=
  let s := f.groups.foldl (fun s k => s.leaveGroup k) s
  let s := (s.dropClaims f).freePair f
  ((s.removeFiring f.adm).idleCore f.core).settle0 f

/-! ## Actors (R82, R83) -/

/-- A counter of a stream header raised, as one bank operation (R83). -/
def Mem.bump (m : Mem) (key n : Nat) : Mem := m.write key 8 (m.read key 8 + n)

/-- One firing of an actor committed: its tokens consumed, its outputs produced. -/
def commitOne (recd : List Word) (m : Mem) : Mem :=
  (List.range 8).foldl (fun m i =>
    let x := slotOf recd i
    if x.v then m.bump (x.key + (if i < 4 then 8 else 16)) x.cnt else m) m

/-- The retired firings of an actor committed in sequence order (R82). -/
def State.commitActor (s : State) (id : Nat) : Nat → State
  | 0 => s
  | n + 1 =>
    match s.teams.find? fun t => t.id == id with
    | none => s
    | some t =>
      if t.uncommitted.contains t.commitNext then
        ({ s with mem := commitOne t.recd s.mem }.onTeam id fun t =>
          { t with commitNext := t.commitNext + 1, uncommitted := t.uncommitted.erase t.commitNext }).commitActor id n
      else s

/-- The launch unit's view of a retirement (R82, R84). -/
def State.retiredOf (s : State) (f : Firing) : State :=
  match s.team? f with
  | none => s
  | some t =>
    let k := bits f.fid 31 0
    let owes := s.unacked.any fun u => u.adm == f.adm
    let s := s.onTeam t.id fun t =>
      { t with
        retired := t.retired + 1
        owed := if owes then f.adm :: t.owed else t.owed
        uncommitted := if t.flag 30 then insertNat t.uncommitted k else [] }
    if t.flag 30 then s.commitActor t.id (t.uncommitted.length + 1) else s

end Sys2Proof.Machine
end

