-- ==== Sys2Proof/Machine/Memory.lean ====
section
/-! DEFINITION. Loads and stores, full-empty accesses, vector loads and stores, gathers and scatters (R139 to R157). -/

namespace Sys2Proof.Machine

/-! ## Scalar (R145 to R148) -/

/-- The bytes of an LD type and whether it is sign-extended (R145). -/
def ldSize : LdTy → Nat × Bool
  | .i8 => (1, true)
  | .i16 => (2, true)
  | .i32 => (4, true)
  | .n64 => (8, false)
  | .n8 => (1, false)
  | .n16 => (2, false)
  | .n32 => (4, false)

/-- The bytes of an ST size (R146). -/
def stSize : StSz → Nat
  | .b => 1
  | .h => 2
  | .w => 4
  | .d => 8

/-- The exact effective address of a base register and an offset (R139). -/
def State.ea (s : State) (a : BitVec 6) (i : BitVec 10) : Int := ((s.rx a).toNat : Int) + i.toInt

/-- LD (R145). -/
def execLd (t : LdTy) (d a : BitVec 6) (i : BitVec 10) (s : State) : Host.Outcome State Fault Refusal :=
  plain (descOf (.ld t d a i)) (fun s => do
    let va := s.ea a i
    let (s, pl) ← s.access .load va (ldSize t).1 (ldSize t).1
    s.scalarLoad pl (ldSize t).1 d (ldSize t).2 (.at (ofInt va))) s

/-- ST (R146). -/
def execSt (t : StSz) (a : BitVec 6) (i : BitVec 10) (b : BitVec 6) (s : State) : Host.Outcome State Fault Refusal :=
  plain (descOf (.st t a i b)) (fun s => do
    let va := s.ea a i
    let (s, pl) ← s.access .store va (stSize t) (stSize t)
    s.scalarStore pl (stSize t) (s.rx b).toNat (.at (ofInt va))) s

/-- What an LDFE needs of its page: R, and W when it empties (R140 step 4). -/
def ldfeAcc (sets : Bool) : Acc := { rd := true, wr := sets, sync := true, fe := true, cell := false }

/-- What an STFE needs of its page: W (R140 step 4). -/
def stfeAcc : Acc := { rd := false, wr := true, sync := true, fe := true, cell := false }

/-- LDFE (R148). -/
def execLdfe (m : LdMode) (d a : BitVec 6) (i : BitVec 10) (s : State) : Host.Outcome State Fault Refusal :=
  plain (descOf (.ldfe m d a i)) (fun s => do
    let va := s.ea a i
    let sets := m == .wfe
    let (s, pl) ← s.access (ldfeAcc sets) va 8 8
    s.scalarFe pl true sets 0 d (.at (ofInt va))) s

/-- STFE (R148). -/
def execStfe (m : StMode) (a : BitVec 6) (i : BitVec 10) (b : BitVec 6) (s : State) : Host.Outcome State Fault Refusal :=
  plain (descOf (.stfe m a i b)) (fun s => do
    let va := s.ea a i
    let (s, pl) ← s.access stfeAcc va 8 8
    s.scalarFe pl false (m == .sf) (s.rx b) 0 (.at (ofInt va))) s

/-! ## Elements of a vector (R151, R153) -/

/-- Bytes of an element in memory; e2m1 moves by pairs, which no mask splits. -/
def esize : ElemTy → Nat
  | .f64 | .i64 | .n64 => 8
  | .f32 | .i32 | .n32 => 4
  | .bf16 | .f16 | .i16 | .n16 => 2
  | _ => 1

/-- Types whose narrow elements are sign-extended into a lane or register (R153, R221). -/
def signedTy : ElemTy → Bool
  | .i8 | .i16 | .i32 | .i64 => true
  | _ => false

/-- The active elements of n bytes of a vector under a mask: the mask bit of the (first) lane that holds one (R151). -/
def activeElems (k : Word) (n : Nat) : List Nat := (List.range (256 / n)).filter fun e => bit k (e * n / 4)

/-- The lane an element of a lane-wise form uses: its own, or the even lane of a 64-bit element (R153). -/
def laneOf (n i : Nat) : Nat := if n = 8 then 2 * i else i

/-- The active elements of a lane-wise form (R153). -/
def activeLanes (k : Word) (n : Nat) : List Nat := (List.range (if n = 8 then 32 else 64)).filter fun i => bit k (laneOf n i)

/-- The data of element i of a lane-wise form, n bytes. -/
def laneData (v : Vec) (n i : Nat) : Nat := if n = 8 then elem v 64 i else elem v 32 i % 2 ^ (8 * n)

/-- One lane read: at once, or asked of another package. -/
def State.laneLoad (s : State) (pl : Place) (n : Nat) (r : Reply) (ref : Ref) : State :=
  match pl with
  | .far pkg part addr => s.farAsk pkg part .load addr n 0 0 r false ref
  | _ => s.loadInto pl n r

/-- One lane written: at once, or posted to another package as a lane of a scatter. -/
def State.laneStore (s : State) (pl : Place) (n v : Nat) (ref : Ref) : State :=
  match pl with
  | .far pkg part addr => s.farWrite true pkg part addr n (BitVec.ofNat 64 v) ref
  | _ => s.storeAt pl n v

/-- The exact address of element e from a base and a stride. -/
def strideAt (b : Word) (st : Int) (e : Nat) : Int := (b.toNat : Int) + e * st

/-- What element e of n bytes at an address reports: an owner's refusal names the lane it begins in (R219). -/
def elemRef (n e : Nat) (a : Int) : Ref := { va := ofInt a, tv := BitVec.ofNat 64 (e * n / 4), shard := false }

/-- What a lane of an indexed or sharded access reports. -/
def laneRef (shard : Bool) (lane : Nat) : Ref := { va := BitVec.ofNat 64 lane, tv := BitVec.ofNat 64 lane, shard := shard }

/-- A unit-stride or strided load (R152): all checks, the owner's windows among them, then all elements. Elements at another package are
awaited before any register changes. strided: each element is a load of its own (R157). -/
def vecLoad (i : Instr) (t : ElemTy) (strided : Bool) (d : BitVec 5) (k : BitVec 3) (base : State → Word) (st : State → Int) (s : State) :
    Host.Outcome State Fault Refusal :=
  plain (descOf i) (fun s => do
    let n := esize t
    let at_ := strideAt (base s) (st s)
    let es := activeElems (s.fir.rk k) n
    s.loadRoom (if strided then es.length else 1)
    let (s, pls) ← s.elemPlaces .load n at_ es
    s.afterPosted false (pls.map Prod.snd) n
    let s ← s.farFetch (pls.map Prod.snd) fun j => elemRef n (es.getD j 0) (at_ (es.getD j 0))
    .ok (.done (s.loadParts n pls fun e => .elem d e (8 * n)))) s

/-- A unit-stride or strided store (R152): all checks, the owner's windows among them, then all elements in order. -/
def vecStore (i : Instr) (t : ElemTy) (d : BitVec 5) (k : BitVec 3) (base : State → Word) (st : State → Int) (s : State) :
    Host.Outcome State Fault Refusal :=
  plain (descOf i) (fun s => do
    let n := esize t
    let at_ := strideAt (base s) (st s)
    let es := activeElems (s.fir.rk k) n
    let (s, pls) ← s.elemPlaces .store n at_ es
    let s ← s.storeParts n (pls.map fun x => (x.2, elem (s.fir.rv d) (8 * n) x.1)) fun j => elemRef n (es.getD j 0) (at_ (es.getD j 0))
    .ok (.done s)) s

/-- VLD (R152). -/
def execVld (t : ElemTy) (d : BitVec 5) (x : BitVec 6) (k : BitVec 3) (s : State) : Host.Outcome State Fault Refusal :=
  vecLoad (.vld t d x k) t false d k (fun s => s.rx x) (fun _ => (esize t : Int)) s

/-- VLDS (R152). -/
def execVlds (t : ElemTy) (d : BitVec 5) (x : BitVec 6) (y : BitVec 5) (k : BitVec 3) (s : State) : Host.Outcome State Fault Refusal :=
  vecLoad (.vlds t d x y k) t true d k (fun s => s.rx x) (fun s => sInt (s.fir.rxn y.toNat)) s

/-- VST (R152). -/
def execVst (t : ElemTy) (x : BitVec 6) (d : BitVec 5) (k : BitVec 3) (s : State) : Host.Outcome State Fault Refusal :=
  vecStore (.vst t x d k) t d k (fun s => s.rx x) (fun _ => (esize t : Int)) s

/-- VSTS (R152). -/
def execVsts (t : ElemTy) (x : BitVec 6) (d : BitVec 5) (y : BitVec 5) (k : BitVec 3) (s : State) : Host.Outcome State Fault Refusal :=
  vecStore (.vsts t x d y k) t d k (fun s => s.rx x) (fun s => sInt (s.fir.rxn y.toNat)) s

/-! ## Lanes, each at an address of its own (R153 to R155) -/

/-- A trap of a lane, which reports the lane. -/
def laneTrap (lane : Nat) (t : Trap) : Trap := { t with val := BitVec.ofNat 64 lane }

/-- Active elements of n bytes checked in ascending order up to the first that fails: the places of those that pass, and the trap with its
lane (R155, R222). -/
def State.lanePlaces (s : State) (n : Nat) (check : State → Nat → Except Stop (State × Place)) (is : List Nat) :
    Except Stop (State × List (Nat × Place) × Option Trap) := do
  let (s, pls, t) ← s.upTo check is
  .ok (s, pls, t.map (laneTrap (laneOf n (is.getD pls.length 0))))

/-- Lanes acted on in ascending order up to the first an owner's window refuses (R155). -/
def State.laneActs (s : State) (ac : Acc) (n : Nat) (act : State → Nat → Place → Nat → State) : List (Nat × Place) → State × Option Trap
  | [] => (s, none)
  | (i, pl) :: pls =>
    match s.window ac pl n (BitVec.ofNat 64 (laneOf n i)) with
    | .error (.trap t) => (s, some t)
    | _ => (act s i pl (laneOf n i)).laneActs ac n act pls

/-- A gather, scatter or sharded vector access after its lanes' checks: the lanes below the first that traps complete (R155, R222), after the
firing's earlier accesses (R242). -/
def State.laneRun (s : State) (ac : Acc) (n : Nat) (pls : List (Nat × Place)) (t : Option Trap) (act : State → Nat → Place → Nat → State) :
    Except Stop Done := do
  if s.needsPort (pls.map Prod.snd) then s.toPort
  s.afterEarlier
  let (s', w) := s.laneActs ac n act pls
  s'.settle (w.orElse fun _ => t)

/-- The exact address of lane i of an indexed form: base + index × unit (R153). -/
def State.laneAt (s : State) (b i : BitVec 5) (u lane : Nat) : Int :=
  ((s.fir.rxn b.toNat).toNat : Int) + intOf true 32 (elem (s.fir.rv i) 32 lane) * u

/-- The range-lock interval of a gather: from the lowest to one past the highest active lane's bytes (R190). -/
def gatherLock (h : Fin 1024) (adm n : Nat) (addrs : List Int) : Option Lock :=
  match addrs.map fun a => lockAddr h a.toNat with
  | [] => none
  | a :: as => some { lo := as.foldl min a, hi := as.foldl max a + n, dst := false, own := .gather adm 0 }

/-- Free range-lock entries for an operation (R190): it waits its turn when the table lacks them. -/
def State.lockRoom (s : State) (need : Nat) : Except Stop Unit :=
  let mine (f : Firing) : Bool := f.adm != s.fir.adm && f.frond == s.fir.frond && (f.granted || f.wait == some .table)
  if decide (s.fr.locks.length + need ≤ 32) && (s.fir.granted || !s.others.any mine) then .ok ()
  else block (if s.fir.wait = some .table then s else s.push .rangelockRegister s.fir.adm need 0 0) .table

/-- A gather all of whose lanes were issued and read: its entry stands until its last lane's data has returned (R154, R190), and its lanes count
among the loads of its core (R157). -/
def State.gatherOut (s : State) (lanes : Nat) : Option Lock → State
  | none => s
  | some l =>
    let e : Ev := { op := .gatherLaneReturn, a := s.fir.adm, b := s.fir.frond.val, c := s.next, v := 0, l := [BitVec.ofNat 64 lanes] }
    ({ s with next := s.next + 1, agenda := s.agenda ++ [e] }).onFrond s.fir.frond fun x =>
      { x with locks := x.locks ++ [{ l with own := .gather s.fir.adm s.next }] }

/-- VLDX (R153 to R155). -/
def execVldx (t : ElemTy) (d b i : BitVec 5) (k : BitVec 3) (s : State) : Host.Outcome State Fault Refusal :=
  plain (descOf (.vldx t d b i k)) (fun s => do
    let n := esize t
    let lanes := activeLanes (s.fir.rk k) n
    let addr (i' : Nat) : Int := s.laneAt b i n (laneOf n i')
    let lock := gatherLock s.fir.frond s.fir.adm n (lanes.map addr)
    s.loadRoom lanes.length
    if lock.isSome then s.lockRoom 1
    let (s, pls, tr) ← s.lanePlaces n (fun s i' => s.access .load (addr i') n n) lanes
    match s.laneRun .load n pls tr fun s i' pl lane => s.laneLoad pl n (.lane d i' n (signedTy t)) (laneRef false lane) with
    | .error (.wait s .answer) =>
      if s.fir.pends.isEmpty then block s .answer
      else block (s.onFrond s.fir.frond fun x => { x with locks := x.locks ++ lock.toList }) .answer
    | .ok (.done s) => .ok (.done (s.gatherOut lanes.length lock))
    | r => r) s

/-- VSTX (R153 to R155). -/
def execVstx (t : ElemTy) (b i d : BitVec 5) (k : BitVec 3) (s : State) : Host.Outcome State Fault Refusal :=
  plain (descOf (.vstx t b i d k)) (fun s => do
    let n := esize t
    let addr (i' : Nat) : Int := s.laneAt b i n (laneOf n i')
    let (s, pls, tr) ← s.lanePlaces n (fun s i' => s.access .store (addr i') n n) (activeLanes (s.fir.rk k) n)
    s.laneRun .store n pls tr fun s i' pl lane => s.laneStore pl n (laneData (s.fir.rv d) n i') (laneRef false lane)) s

end Sys2Proof.Machine
end

