-- ==== Sys2Proof/Machine/Atomic.lean ====
section
/-! DEFINITION. Bank operations: integer and float atomics, exact cells, vector forms (R158 to R170). -/

namespace Sys2Proof.Machine

/-! ## Scalar forms -/

/-- A bank operation at the address in a, with its operand and compare value; blocking, and answered to r, or posted. -/
def State.bankOne (s : State) (ac : Acc) (op : BankOp) (a : BitVec 6) (v w : Word) (posted : Bool) (r : Reply) : Except Stop Done := do
  let va := s.rx a
  let n := op.size
  let (s, pl) ← s.access ac va.toNat n n
  match pl with
  | .far pkg part addr =>
    s.tagRoom [2 ^ 16 + pkg]
    let (held, s) := if posted && !s.lost.contains pkg then s.foretold else (false, s)
    (s.bankFar op pkg part addr v w (if !posted then some r else if held then some .none else none) 0 (.at va)).settle none
  | _ =>
    if s.needsPort [pl] then s.toPort
    s.window ac pl n va
    if posted then do
      s.tagRoom [homeUnit pl.key]
      .ok (.done (s.bankPost op pl.key v w 0))
    else do
      let (s, resp, fl) ← s.bankSend op pl.key v w
      .ok (.done (s.upd fun f => f.reply r resp fl))

/-- Bytes of an integer atomic. -/
def szBytes : SZ → Nat
  | .w => 4
  | .d => 8

/-- An integer atomic (R163): the compare value is xd's; with rd = x0 it is posted. -/
def amoOp (i : Instr) (op : Nat) (z : SZ) (d a b : BitVec 6) (s : State) : Host.Outcome State Fault Refusal :=
  plain (descOf i) (fun s =>
    s.bankOne .bank (.amo op (szBytes z)) a (s.rx b) (s.rx d) (d == 0) (.scalar d (szBytes z) true)) s

/-- A rounding float atomic (R164). -/
def famoOp (i : Instr) (op : Nat) (t : AF) (d a b : BitVec 6) (s : State) : Host.Outcome State Fault Refusal :=
  plain (descOf i) (fun s => s.bankOne .bank (.famo op t) a (s.rx b) 0 (d == 0) (.scalar d (afBytes t) false)) s

/-- AMOADD (R163). -/
def execAmoadd (z : SZ) (d a b : BitVec 6) (s : State) : Host.Outcome State Fault Refusal := amoOp (.amoadd z d a b) 0 z d a b s

/-- AMOAND (R163). -/
def execAmoand (z : SZ) (d a b : BitVec 6) (s : State) : Host.Outcome State Fault Refusal := amoOp (.amoand z d a b) 1 z d a b s

/-- AMOOR (R163). -/
def execAmoor (z : SZ) (d a b : BitVec 6) (s : State) : Host.Outcome State Fault Refusal := amoOp (.amoor z d a b) 2 z d a b s

/-- AMOXOR (R163). -/
def execAmoxor (z : SZ) (d a b : BitVec 6) (s : State) : Host.Outcome State Fault Refusal := amoOp (.amoxor z d a b) 3 z d a b s

/-- AMOMIN (R163). -/
def execAmomin (z : SZ) (d a b : BitVec 6) (s : State) : Host.Outcome State Fault Refusal := amoOp (.amomin z d a b) 4 z d a b s

/-- AMOMAX (R163). -/
def execAmomax (z : SZ) (d a b : BitVec 6) (s : State) : Host.Outcome State Fault Refusal := amoOp (.amomax z d a b) 5 z d a b s

/-- AMOMINU (R163). -/
def execAmominu (z : SZ) (d a b : BitVec 6) (s : State) : Host.Outcome State Fault Refusal := amoOp (.amominu z d a b) 6 z d a b s

/-- AMOMAXU (R163). -/
def execAmomaxu (z : SZ) (d a b : BitVec 6) (s : State) : Host.Outcome State Fault Refusal := amoOp (.amomaxu z d a b) 7 z d a b s

/-- AMOSWP (R163). -/
def execAmoswp (z : SZ) (d a b : BitVec 6) (s : State) : Host.Outcome State Fault Refusal := amoOp (.amoswp z d a b) 8 z d a b s

/-- AMOCAS (R163). -/
def execAmocas (z : SZ) (d a b : BitVec 6) (s : State) : Host.Outcome State Fault Refusal := amoOp (.amocas z d a b) 9 z d a b s

/-- AMOFADD (R164). -/
def execAmofadd (t : AF) (d a b : BitVec 6) (s : State) : Host.Outcome State Fault Refusal := famoOp (.amofadd t d a b) 0 t d a b s

/-- AMOFMIN (R164). -/
def execAmofmin (t : AF) (d a b : BitVec 6) (s : State) : Host.Outcome State Fault Refusal := famoOp (.amofmin t d a b) 1 t d a b s

/-- AMOFMAX (R164). -/
def execAmofmax (t : AF) (d a b : BitVec 6) (s : State) : Host.Outcome State Fault Refusal := famoOp (.amofmax t d a b) 2 t d a b s

/-- XCADD (R68, R165): posted. -/
def execXcadd (t : AF) (a b : BitVec 6) (s : State) : Host.Outcome State Fault Refusal :=
  plain (descOf (.xcadd t a b)) (fun s => s.bankOne .cells (.xcadd t) a (s.rx b) 0 true .none) s

/-- XCRD (R69, R165): with x0 the cell is read and no flag set. -/
def execXcrd (t : AF) (d a : BitVec 6) (s : State) : Host.Outcome State Fault Refusal :=
  plain (descOf (.xcrd t d a)) (fun s => s.bankOne .cells (.xcrd t) a 0 0 false (.cell d (afBytes t))) s

/-- XCCLR (R165): posted. -/
def execXcclr (a : BitVec 6) (s : State) : Host.Outcome State Fault Refusal :=
  plain (descOf (.xcclr a)) (fun s => s.bankOne .cells .xcclr a 0 0 true .none) s

/-- XCRDCLR (R69, R165): read and clear as one operation. -/
def execXcrdclr (t : AF) (d a : BitVec 6) (s : State) : Host.Outcome State Fault Refusal :=
  plain (descOf (.xcrdclr t d a)) (fun s => s.bankOne .cells (.xcrdclr t) a 0 0 false (.cell d (afBytes t))) s

/-! ## Vector forms (R166 to R168) -/

/-- The operation of a lane of VAMOADD (0), VAMOMIN (1) or VAMOMAX (2) for a type (R166). -/
def vamoKind (op : Nat) (t : ElemTy) : BankOp :=
  match t, op with
  | .f32, _ => .famo op .f32
  | _, 0 => .amo 0 4
  | .n32, 1 => .amo 6 4
  | .n32, _ => .amo 7 4
  | _, 1 => .amo 4 4
  | _, _ => .amo 5 4

/-- Lanes of vector bank operation number n posted in ascending order (R167). -/
def State.postLanes (s : State) (op : BankOp) (d : BitVec 5) (n : Nat) (pls : List (Nat × Place)) : State :=
  let one (s : State) (x : Nat × Place) : State :=
    let v := BitVec.ofNat 64 (elem (s.fir.rv d) 32 x.1)
    match x.2 with
    | .far pkg part addr => s.bankFar op pkg part addr v 0 none n (laneRef false x.1)
    | pl => s.bankPost op pl.key v 0 n
  pls.foldl one { s with next := s.next + 1 }

/-- The banks of lanes. -/
def laneBanks (pls : List (Nat × Place)) : List Nat := pls.map fun x => match x.2 with
  | .far pkg _ _ => 2 ^ 16 + pkg
  | pl => homeUnit pl.key

/-- An indexed vector bank operation (R166, R167): lanes below the first that fails its checks are performed, later ones not issued. -/
def vamoOp (i : Instr) (op : BankOp) (u : Nat) (b idx d : BitVec 5) (k : BitVec 3) (s : State) : Host.Outcome State Fault Refusal :=
  plain (descOf i) (fun s => do
    let (s', pls, tr) ← s.lanePlaces 4 (fun s l => s.access .cells (s.laneAt b idx u l) op.size op.size) (activeLanes (s.fir.rk k) 4)
    s.afterEarlier
    s.tagRoom (laneBanks pls)
    let s' := s'.postLanes op d s.next pls
    match tr with
    | some t => .error (.trapIn s' t)
    | none => .ok (.done s')) s

/-- VAMOADD (R166). -/
def execVamoadd (t : ElemTy) (b i d : BitVec 5) (k : BitVec 3) (s : State) : Host.Outcome State Fault Refusal :=
  vamoOp (.vamoadd t b i d k) (vamoKind 0 t) 4 b i d k s

/-- VAMOMIN (R166). -/
def execVamomin (t : ElemTy) (b i d : BitVec 5) (k : BitVec 3) (s : State) : Host.Outcome State Fault Refusal :=
  vamoOp (.vamomin t b i d k) (vamoKind 1 t) 4 b i d k s

/-- VAMOMAX (R166). -/
def execVamomax (t : ElemTy) (b i d : BitVec 5) (k : BitVec 3) (s : State) : Host.Outcome State Fault Refusal :=
  vamoOp (.vamomax t b i d k) (vamoKind 2 t) 4 b i d k s

/-- VXCADD (R166). -/
def execVxcadd (t : ElemTy) (b i d : BitVec 5) (k : BitVec 3) (s : State) : Host.Outcome State Fault Refusal :=
  vamoOp (.vxcadd t b i d k) (.xcadd .f32) 64 b i d k s

/-- VBSUM (R168): every active cell is checked, but not against the entries of other engines, before any is added to; its range-lock entry is
free when it issues and is released once every lane is applied. -/
def execVbsum (t : ElemTy) (b d : BitVec 5) (k : BitVec 3) (s : State) : Host.Outcome State Fault Refusal :=
  plain (descOf (.vbsum t b d k)) (fun s => do
    s.afterEarlier
    s.lockRoom 1
    let base := (s.fir.rxn b.toNat).toNat
    let (s', pls, tr) ← s.lanePlaces 4 (fun s l => s.reach .cells ((base + 64 * l : Nat) : Int) 64 64) (activeLanes (s.fir.rk k) 4)
    match tr with
    | some t => .error (.trap t)
    | none =>
      s.tagRoom (laneBanks pls)
      let l : Lock := { lo := base, hi := base + 4096, dst := true, own := .vbsum s.fir.adm s.next }
      let s' := (s'.postLanes (.xcadd .f32) d s.next pls).onFrond s.fir.frond fun x => { x with locks := x.locks ++ [l] }
      .ok (.done (s'.vbsumDone s.fir.core s.fir.adm s.next))) s

end Sys2Proof.Machine
end

