-- ==== Sys2Proof/Machine/Control.lean ====
section
/-! DEFINITION. Branches, jumps and REP frames (R99 to R105). -/

namespace Sys2Proof.Machine

/-- An address a number of instructions away; the pc has 57 bits (R24, R100; log 11). -/
def pcTo (pc : Word) (off : Int) : Word := BitVec.setWidth 64 (BitVec.ofInt 57 ((pc.toNat : Int) + 4 * off))

/-- A branch: its outcome from the leader's registers in a gang (R100, R107). -/
def branchOp (i : Instr) (taken : Firing → Bool) (off : Int) (s : State) : Host.Outcome State Fault Refusal :=
  plain (descOf i) (fun s => if taken s.lead then .ok (.jump s (pcTo s.fir.pc off)) else .ok (.done s)) s

/-- BEQ (R99): taken when equal. -/
def execBeq (a b : BitVec 6) (o : BitVec 10) (s : State) : Host.Outcome State Fault Refusal :=
  branchOp (.beq a b o) (fun f => f.rx a == f.rx b) o.toInt s

/-- BNE (R99): taken when not equal. -/
def execBne (a b : BitVec 6) (o : BitVec 10) (s : State) : Host.Outcome State Fault Refusal :=
  branchOp (.bne a b o) (fun f => f.rx a != f.rx b) o.toInt s

/-- BLT (R99): taken when less, signed. -/
def execBlt (a b : BitVec 6) (o : BitVec 10) (s : State) : Host.Outcome State Fault Refusal :=
  branchOp (.blt a b o) (fun f => (f.rx a).slt (f.rx b)) o.toInt s

/-- BGE (R99): taken when not less, signed. -/
def execBge (a b : BitVec 6) (o : BitVec 10) (s : State) : Host.Outcome State Fault Refusal :=
  branchOp (.bge a b o) (fun f => !(f.rx a).slt (f.rx b)) o.toInt s

/-- BLTU (R99): taken when less, unsigned. -/
def execBltu (a b : BitVec 6) (o : BitVec 10) (s : State) : Host.Outcome State Fault Refusal :=
  branchOp (.bltu a b o) (fun f => (f.rx a).ult (f.rx b)) o.toInt s

/-- BGEU (R99): taken when not less, unsigned. -/
def execBgeu (a b : BitVec 6) (o : BitVec 10) (s : State) : Host.Outcome State Fault Refusal :=
  branchOp (.bgeu a b o) (fun f => !(f.rx a).ult (f.rx b)) o.toInt s

/-- BEQZ (R100): taken when zero. -/
def execBeqz (a : BitVec 6) (o : BitVec 18) (s : State) : Host.Outcome State Fault Refusal :=
  branchOp (.beqz a o) (fun f => f.rx a == 0) o.toInt s

/-- BNEZ (R100): taken when not zero. -/
def execBnez (a : BitVec 6) (o : BitVec 18) (s : State) : Host.Outcome State Fault Refusal :=
  branchOp (.bnez a o) (fun f => f.rx a != 0) o.toInt s

/-- JAL (R102). -/
def execJal (d : BitVec 6) (o : BitVec 19) (s : State) : Host.Outcome State Fault Refusal :=
  plain (descOf (.jal d o)) (fun s => .ok (.jump (s.wx d (s.fir.pc + 4)) (pcTo s.fir.pc o.toInt))) s

/-- JALR (R103): the target checked before anything is written. -/
def execJalr (d a : BitVec 6) (i : BitVec 13) (s : State) : Host.Outcome State Fault Refusal :=
  plain (descOf (.jalr d a i)) (fun s => do
    let t := s.lead.rx a + i.signExtend 64
    check (bits t 63 57 == 0 && bits t 1 0 == 0) .align t
    .ok (.jump (s.wx d (s.fir.pc + 4)) t)) s

/-- LOOPN (R101): the count goes down; taken while the leader's is not zero. -/
def execLoopn (a : BitVec 6) (o : BitVec 18) (s : State) : Host.Outcome State Fault Refusal :=
  plain (descOf (.loopn a o)) (fun s =>
    let t := s.wx a (s.rx a - 1)
    if s.lead.rx a - 1 ≠ 0 then .ok (.jump t (pcTo s.fir.pc o.toInt)) else .ok (.done t)) s

/-- REP (R104): the frame opens at pass 0, position 0, with F the address after the REP. -/
def execRep (l : BitVec 4) (c : BitVec 6) (m st : BitVec 4) (s : State) : Host.Outcome State Fault Refusal :=
  plain (descOf (.rep l c m st)) (fun s =>
    .ok (.jump (s.upd fun f =>
      { f with fstat := setBits f.fstat 23 13 (2 ^ 10), repw := (descOf (.rep l c m st)).word, repf := f.pc + 4, repbuf := [] }) (s.fir.pc + 4))) s

end Sys2Proof.Machine
end

