-- ==== Sys2Proof/Machine/Shard.lean ====
section
/-! DEFINITION. Sharded access: descriptors, the translation of a global linear index, LDT, STT, VLDT, VSTT, SHINV and SHLOC (R215 to
R233). -/

namespace Sys2Proof.Machine

/-! ## Descriptors (R216, R217) -/

/-- Dword i of a descriptor. -/
def dword (d : List Word) (i : Nat) : Word := d.getD i 0

/-- A dimension: extent, block, grid count, pitch, and CYC. -/
structure Dim where
  shape : Nat
  blk : Nat
  grid : Nat
  pitch : Nat
  cyc : Bool
  deriving DecidableEq, Repr

/-- Dimension k of a descriptor. -/
def dimOf (d : List Word) (k : Nat) : Dim :=
  let a := dword d (4 + 3 * k)
  let b := dword d (5 + 3 * k)
  { shape := bits a 39 0, blk := bits b 39 0, grid := bits b 55 40, pitch := bits (dword d (6 + 3 * k)) 47 0, cyc := bit a 40 }

/-- RANK. -/
def rankOf (d : List Word) : Nat := bits (dword d 0) 2 0

/-- The dimensions of a descriptor, in order. -/
def dimsOf (d : List Word) : List Dim := (List.range (rankOf d)).map (dimOf d)

/-- The product of a list. -/
def product : List Nat → Nat
  | [] => 1
  | n :: ns => n * product ns

/-- The number of elements. -/
def elemsOf (d : List Word) : Nat := product ((dimsOf d).map Dim.shape)

/-- RSV bits of a descriptor are zero (R216). -/
def descRsvOk (d : List Word) : Bool :=
  bits (dword d 0) 62 6 == 0 && !bit (dword d 0) 3 && bits (dword d 1) 63 57 == 0 && bits (dword d 2) 63 24 == 0 && dword d 3 == 0
    && ((List.range 6).all fun k =>
      let a := dword d (4 + 3 * k)
      let b := dword d (5 + 3 * k)
      let c := dword d (6 + 3 * k)
      if k < rankOf d then bits a 63 41 == 0 && bits b 63 56 == 0 && bits c 63 48 == 0 else a == 0 && b == 0 && c == 0)
    && ((List.range 10).all fun k => dword d (22 + k) == 0)

/-- A descriptor that is not malformed (R216). -/
def descOk (d : List Word) : Bool :=
  let ds := dimsOf d
  descRsvOk d && decide (1 ≤ rankOf d) && decide (rankOf d ≤ 6)
    && (ds.all fun x => x.shape != 0 && x.blk != 0 && x.grid != 0 && (x.cyc || decide (x.shape ≤ x.blk * x.grid)))
    && bits (dword d 2) 23 0 == product (ds.map Dim.grid) && decide (elemsOf d < 2 ^ 64)

/-- The shard number and in-shard byte offset of a global linear index (R218). -/
def shardOf (d : List Word) (l : Nat) : Nat × Nat :=
  let coord : List (Dim × Nat) :=
    ((dimsOf d).reverse.foldl (fun (a : List (Dim × Nat) × Nat) x => ((x, a.2 % x.shape) :: a.1, a.2 / x.shape)) ([], l)).1
  coord.foldl (fun (a : Nat × Nat) (x : Dim × Nat) =>
    let sk := (x.2 / x.1.blk) % x.1.grid
    let ink := (x.2 / (x.1.blk * x.1.grid)) * x.1.blk + x.2 % x.1.blk
    (a.1 * x.1.grid + sk, a.2 + ink * x.1.pitch)) (0, 0)

/-- n dwords out of a number. -/
def wordsOf (n v : Nat) : List Word := (List.range n).map fun i => BitVec.ofNat 64 (v / 2 ^ (64 * i))

/-- The cached descriptor of a handle on a die (R229). -/
def State.shardCache (s : State) (p : Fin 16) (d : Fin 4) (h : Nat) : Option ShardCache :=
  s.dies[d].shards.find? fun c => c.part == p && c.handle == h

/-- A SHARD trap. -/
def shardTrap {α : Type} (sub val : Nat) : Except Stop α := raiseSub .shard sub (BitVec.ofNat 64 val)

/-- The descriptor of a handle: the die's copy, or read from the table and kept (R219 subcodes 1 and 2, R229), at most 1,024 of them (R233). -/
def State.descriptor (s : State) (h : Nat) : Except Stop (State × List Word) := do
  let p := s.fir.part
  let d := s.fir.die
  if s.parts[p].shtlen.toNat ≤ h then shardTrap 1 h
  match s.shardCache p d h with
  | some c => .ok (s, c.desc)
  | none =>
    match s.unitRead p d (s.parts[p].shtbase.toNat + 256 * h) 256 with
    | none => shardTrap 1 h
    | some (s, v) =>
      let ws := wordsOf 32 v
      if !bit (dword ws 0) 63 then shardTrap 1 h
      if !descOk ws then shardTrap 2 h
      .ok (s.onDie d fun x => { x with shards := ({ part := p, handle := h, desc := ws, place := [] } :: x.shards).take 1024 }, ws)

/-- Placement entry k of a handle: the die's copy, or read from the array and kept (R217, R219). -/
def State.placement (s : State) (h : Nat) (ws : List Word) (k : Nat) : Except Stop (State × Word × Word) := do
  let p := s.fir.part
  let d := s.fir.die
  let known := (s.shardCache p d h).bind fun c => c.place.find? fun x => x.1 == k
  let (s, w0, w1) ← match known with
    | some (_, w0, w1) => Except.ok (s, w0, w1)
    | none => match s.unitRead p d (bits (dword ws 1) 56 0 + 16 * k) 16 with
      | none => shardTrap 2 h
      | some (s, v) => .ok (s, BitVec.ofNat 64 v, BitVec.ofNat 64 (v / 2 ^ 64))
  if bits w0 63 22 ≠ 0 ∨ bits w1 63 57 ≠ 0 then shardTrap 2 h
  let keep (c : ShardCache) : ShardCache :=
    if c.part == p && c.handle == h && (c.place.find? fun x => x.1 == k).isNone then { c with place := (k, w0, w1) :: c.place } else c
  .ok (s.onDie d fun x => { x with shards := x.shards.map keep }, w0, w1)

/-- Where an element lies: global linear index, owner, address in the owner's space, shard number. -/
structure Elem where
  lin : Nat
  owner : Nat
  addr : Nat
  shard : Nat
  deriving DecidableEq, Repr

/-- R218 with the checks of R219 up to the placement entry. esz is the instruction's element size in bytes, 0 for SHLOC. -/
def State.locate (s : State) (hr : Word) (i esz : Nat) : Except Stop (State × Elem) := do
  let h := bits hr 15 0
  let (s, ws) ← s.descriptor h
  if esz ≠ 0 ∧ esz ≠ 2 ^ bits (dword ws 0) 5 4 then shardTrap 8 h
  let l := bits hr 63 16 + i
  if elemsOf ws ≤ l then shardTrap 3 l
  let (k, off) := shardOf ws l
  let (s, w0, w1) ← s.placement h ws k
  .ok (s, { lin := l, owner := bits w0 21 0, addr := (bits w1 56 0 + off) % 2 ^ 57, shard := k })

/-- The place of an element (R219 subcodes 4 to 6): checked as an access of the local package, whose SHARD reports the index, or at its owner. -/
def State.elemPlace (s : State) (ac : Acc) (fe : Bool) (n : Nat) (e : Elem) : Except Stop (State × Place) :=
  if e.owner = s.dev.pkg then
    match s.access ac e.addr n n with
    | .error (.trap t) => .error (.trap (if t.c = .shard then { t with val := BitVec.ofNat 64 e.lin } else t))
    | r => r
  else match s.peerFor s.fir.part e.owner with
    | none => shardTrap 4 e.lin
    | some w => if fe && bit w 62 then shardTrap 5 e.lin else .ok (s, .far e.owner (bits w 25 22) e.addr)

/-! ## LDT and STT (R220, R221) -/

/-- LDT (R221). -/
def execLdt (m : LdtMode) (t : ElemTy) (d a b : BitVec 6) (s : State) : Host.Outcome State Fault Refusal :=
  plain (descOf (.ldt m t d a b)) (fun s => do
    let n := esize t
    let (s, e) ← s.locate (s.rx a) (s.rx b).toNat n
    let ref : Ref := { va := BitVec.ofNat 64 e.addr, tv := BitVec.ofNat 64 e.lin, shard := true }
    match m with
    | .plain =>
      let (s, pl) ← s.elemPlace .load false n e
      s.scalarLoad pl n d (signedTy t) ref
    | .wf =>
      let (s, pl) ← s.elemPlace (ldfeAcc false) true n e
      s.scalarFe pl true false 0 d ref
    | .wfe =>
      let (s, pl) ← s.elemPlace (ldfeAcc true) true n e
      s.scalarFe pl true true 0 d ref) s

/-- STT (R221). -/
def execStt (m : SttMode) (t : ElemTy) (a b d : BitVec 6) (s : State) : Host.Outcome State Fault Refusal :=
  plain (descOf (.stt m t a b d)) (fun s => do
    let n := esize t
    let (s, e) ← s.locate (s.rx a) (s.rx b).toNat n
    let ref : Ref := { va := BitVec.ofNat 64 e.addr, tv := BitVec.ofNat 64 e.lin, shard := true }
    match m with
    | .plain =>
      let (s, pl) ← s.elemPlace .store false n e
      s.scalarStore pl n (s.rx d).toNat ref
    | _ =>
      let (s, pl) ← s.elemPlace stfeAcc true n e
      s.scalarFe pl false (m == .sf) (s.rx d) 0 ref) s

/-! ## VLDT and VSTT (R222) -/

/-- The check of one lane of a sharded vector access. -/
def State.laneElem (s : State) (ac : Acc) (n : Nat) (a : BitVec 6) (b : BitVec 5) (i : Nat) : Except Stop (State × Place) := do
  let (s, e) ← s.locate (s.rx a) (elem (s.fir.rv b) 32 (laneOf n i)) n
  s.elemPlace ac false n e

/-- VLDT (R222). -/
def execVldt (t : ElemTy) (d : BitVec 5) (a : BitVec 6) (b : BitVec 5) (k : BitVec 2) (s : State) : Host.Outcome State Fault Refusal :=
  plain (descOf (.vldt t d a b k)) (fun s => do
    let n := esize t
    s.loadRoom (activeLanes (s.fir.rk (k.setWidth 3)) n).length
    let (s, pls, tr) ← s.lanePlaces n (fun s i => s.laneElem .load n a b i) (activeLanes (s.fir.rk (k.setWidth 3)) n)
    s.laneRun .load n pls tr fun s i pl lane => s.laneLoad pl n (.lane d i n (signedTy t)) (laneRef true lane)) s

/-- VSTT (R222). -/
def execVstt (t : ElemTy) (a : BitVec 6) (b d : BitVec 5) (k : BitVec 2) (s : State) : Host.Outcome State Fault Refusal :=
  plain (descOf (.vstt t a b d k)) (fun s => do
    let n := esize t
    let (s, pls, tr) ← s.lanePlaces n (fun s i => s.laneElem .store n a b i) (activeLanes (s.fir.rk (k.setWidth 3)) n)
    s.laneRun .store n pls tr fun s i pl lane => s.laneStore pl n (laneData (s.fir.rv d) n i) (laneRef true lane)) s

/-! ## SHINV and SHLOC (R228 to R231) -/

/-- The dies of the local package in a scope of SHINV. -/
def State.diesOf (s : State) (sc : Scope) : List Nat := if sc == .die then [s.fir.die.val] else [0, 1, 2, 3]

/-- Cached descriptors of a handle, or of all, dropped on some dies (R229). -/
def State.dropShards (s : State) (dies : List Nat) (p : Fin 16) (h : Option Nat) : State :=
  { s with dies := s.dies.mapIdx fun d x =>
      if dies.contains d then
        { x with shards := x.shards.filter fun c => c.part != p || (match h with
          | some h => c.handle != h
          | none => false) }
      else x }

/-- Marks of what a SHINV awaits, as pairs of dwords: an outstanding access (firing, then package and number), a waiting full-empty access (2^61,
then its number), a peer's report (2^62, then package), a copy (2^63 + frond, then id). -/
def shinvMark (a b : Nat) : List Word := [BitVec.ofNat 64 a, BitVec.ofNat 64 b]

/-- A copy with a sharded side. -/
def Copy.sharded (c : Copy) : Bool := bits c.cr[7] 63 62 != 0

/-- The shard-addressed accesses outstanding on some dies when their cached entries are dropped, and the copies there, those of saved firings among
them (R229). -/
def State.shinvOpen (s : State) (dies : List Nat) : List Word :=
  let fs := s.firings.filter fun f => dies.contains f.die.val
  let loads := fs.flatMap fun f => (f.pends.filter Pend.shard).flatMap fun p => shinvMark f.adm (p.pkg * 2 ^ 24 + p.seq)
  let writes := (s.unacked.filter fun u => u.shard && dies.contains u.die.val).flatMap fun u => shinvMark u.adm (u.pkg * 2 ^ 24 + u.seq)
  let waits := (s.retry.filter fun w => w.shard != 0 && fs.any fun f => f.adm == w.adm).flatMap fun w => shinvMark (2 ^ 61) w.shard
  let copies := (s.fronds.toList.zipIdx.filter fun x => dies.contains (x.2 / 256)).flatMap fun x =>
    x.1.chans.toList.flatMap fun c => match c with
      | some c => if c.live && c.sharded then shinvMark (2 ^ 63 + x.2) c.id else []
      | none => []
  let kept := (s.saved.filter fun x => dies.contains (x.core.val / 512)).flatMap fun x =>
    (x.copies.filter Copy.sharded).flatMap fun c => shinvMark (2 ^ 63 + x.core.val / 2) c.id
  loads ++ writes ++ waits ++ copies ++ kept

/-- The live peers in a scope, each with the partition the peer table gives there (R229, R372). -/
def State.shinvPeers (s : State) (sc : Scope) : List (Nat × Nat) :=
  if sc.code.toNat < 5 then []
  else
    let ws := (List.range (min s.part.peerlen.toNat 256)).map fun i => (s.peer s.fir.part i).1
    let ok (w : Word) : Bool := bit w 63 && (sc == .sys || !bit w 62) && !s.lost.contains (bits w 21 0) && bits w 21 0 != s.dev.pkg
    ((ws.filter ok).map fun w => (bits w 21 0, bits w 25 22)).eraseDups

/-- SHINV of firing adm of package pkg arrives for partition p: the drops on every die, then a wait, then the report (R229). -/
def State.peerShinv (s : State) (pkg adm : Nat) (p : Fin 16) (h : Option Nat) : State :=
  let dies := [0, 1, 2, 3]
  let e : Ev := { op := .shinvComplete, a := adm, b := 2, c := pkg, v := 0, l := s.shinvOpen dies }
  let t := s.dropShards dies p h
  { t with agenda := t.agenda ++ [e] }

/-- SHINV (R229): the release, the drops, then a wait for every die and peer of the scope. -/
def execShinv (sc : Scope) (a : BitVec 6) (s : State) : Host.Outcome State Fault Refusal :=
  plain (descOf (.shinv sc a)) (fun s => do
    let s ← s.release sc
    let h : Option Nat := if a = 0 then none else some (bits (s.rx a) 15 0)
    let dies := s.diesOf sc
    let peers := s.shinvPeers sc
    let l := s.shinvOpen dies ++ peers.flatMap fun q => shinvMark (2 ^ 62) q.1
    let s := s.dropShards dies s.fir.part h
    let s := peers.foldl (fun s q => s.send (.shinv q.1 q.2 s.fir.adm h)) s
    let e : Ev := { op := .shinvComplete, a := s.fir.adm, b := 0, c := 0, v := 0, l := l }
    block { s with agenda := (s.agenda.filter fun x => !(x.op == .shinvComplete && x.b == 0 && x.a == s.fir.adm)) ++ [e] } .shinv) s

/-- Route of an owner (R231). -/
def State.route (s : State) (owner : Nat) : Nat :=
  if owner = s.dev.pkg then 0
  else match s.peerFor s.fir.part owner with
    | none => 3
    | some w => if s.lost.contains owner then 3 else if bit w 62 then 2 else 1

/-- SHLOC (R231). -/
def execShloc (d a b : BitVec 6) (s : State) : Host.Outcome State Fault Refusal :=
  plain (descOf (.shloc d a b)) (fun s => do
    let (s, e) ← s.locate (s.rx a) (s.rx b).toNat 0
    let r : Nat := e.owner * 2 ^ 32 + s.route e.owner * 2 ^ 24 + e.shard % 2 ^ 24
    .ok (.done ((s.wx d (BitVec.ofNat 64 r)).wx (d + 1) (BitVec.ofNat 64 e.addr)))) s

end Sys2Proof.Machine
end

