-- ==== Sys2Proof/Machine/Team.lean ====
section
/-! DEFINITION. Gangs, firing and group operations, the sorus claim and hardware semaphores (R75, R106 to R122). -/

namespace Sys2Proof.Machine

/-! ## Gangs (R106 to R108) -/

/-- The number of firings a gang holds. -/
def gangSize : GangN → Nat
  | .n2 => 2
  | .n4 => 4
  | .n8 => 8

/-- A firing's team has a record flag set; a handler firing has no team. -/
def State.teamFlag (s : State) (f : Firing) (i : Nat) : Bool := match s.team? f with
  | some t => t.flag i
  | none => false

/-- GANG raises ILL on a stage core, inside a gang and without COSCHED (R106). -/
def gangIll (s : State) : Bool := s.fir.stage || s.fir.gsize != 0 || !s.teamFlag s.fir 31

/-- Another firing of the core is in a gang or waits at a GANG (R106). -/
def State.gangTaken (s : State) : Bool :=
  s.others.any fun f => f.live && f.core == s.fir.core && (f.gsize != 0 || (match f.wait with
    | some (.gang n) => n != 0
    | _ => false))

/-- The other firings that wait at GANG n in the acting firing's block, by rising frond. -/
def State.gangPeers (s : State) (n : Nat) : List Firing :=
  let ok (f : Firing) : Bool := f.live && f.tid == s.fir.tid && f.part == s.fir.part && f.frond.val / n == s.fir.frond.val / n
    && f.wait == some (.gang n)
  (List.range n).filterMap fun lane => s.others.find? fun f => ok f && f.frond.val % n == lane

/-- A member as the gang forms: its lane (R106); the stream it follows is the leader's (R107). -/
def Firing.joinGang (f : Firing) (n : Nat) : Firing :=
  { f with
    fstat := setBits (setBits f.fstat 25 24 (bitLen n - 1)) 28 26 (f.frond.val % n)
    wait := none, granted := false }

/-- GANG (R106): the firing waits; the last of n to arrive forms the gang. -/
def execGang (n : GangN) (s : State) : Host.Outcome State Fault Refusal :=
  issue (descOf (.gang n)) false gangIll never (fun s =>
    let k := gangSize n
    if s.gangTaken then block s (.gang 0)
    else
      let peers := s.gangPeers k
      if peers.length + 1 < k then block s (.gang k)
      else
        let me := s.fir.frond.val % k
        let ids := (peers.filter fun f => decide (f.frond.val % k < me)).map (·.adm) ++ [s.fir.adm]
          ++ (peers.filter fun f => decide (me < f.frond.val % k)).map (·.adm)
        let start := match (ids.head?.bind s.firing?) with
          | some f => f.pc + 4
          | none => s.fir.pc + 4
        let t := ids.foldl (fun s a => s.onFiring a fun f => { f.joinGang k with pc := start }) s
        .ok (.stay { t with gangs := t.gangs ++ [{ members := ids, pc := start, i := 0, j := 0, before := [], undo := [], steps := false }] })) s

/-- GANGEND (R108): each member leaves the gang; outside one nothing changes. -/
def execGangend (s : State) : Host.Outcome State Fault Refusal :=
  plain (descOf .gangend) (fun s =>
    .ok (.done ({ s with gangs := s.gangs.filter fun g => !g.members.contains s.fir.adm }.upd Firing.clrGang))) s

/-- Inside a gang. -/
def inGang (s : State) : Bool := s.fir.gsize != 0

/-! ## RETIRE and LAUNCH -/

/-- RETIRE (R75, R111): engine operations first, then publication, groups, claims, registers. Inside a handler a report that waits for TRET is lost
with the firing (log 73). -/
def execRetire (s : State) : Host.Outcome State Fault Refusal :=
  issue (descOf .retire) false inGang never (fun s =>
    if s.engineBusy s.fir then block s .engines
    else do
      let s ← s.release .fr
      .ok (.stay ((s.retiredOf s.fir).endFiring s.fir))) s

/-- The least scope that holds every frond of a partition. -/
def Part.scope (p : Part) : Scope :=
  if p.len ≤ 1 then .fr else dieScope (p.start / 256) ((p.start + p.len - 1) / 256)

/-- The scope a number of a record names, 0 firing to 6 system (R76); 7 is no scope and counts as the widest. -/
def scopeOfCode (n : Nat) : Scope :=
  match n with
  | 0 => .fi | 1 => .co | 2 => .fr | 3 => .die | 4 => .pkg | 5 => .dom | _ => .sys

/-- The least scope that holds a completion word and every frond of the partition: its die for shared memory, else the package (R84, log 75). -/
def doneScope (p : Part) (done : Nat) : Scope :=
  if done / 2 ^ 44 = 0x1FF2 then scopeOver ((List.range p.len).map (· + p.start)) [done % 2 ^ 29 / 2 ^ 27] else .pkg

/-- The scope S of a team launched with a record, over the whole partition (R84, R112). -/
def launchScope (p : Part) (recd : List Word) : Scope :=
  widest (scopeOfCode (bits (recd.getD 3 0) 14 12)) (widest p.scope (doneScope p (recd.getD 8 0).toNat))

/-- The scope LAUNCH releases at, before it reads the record at an address: that of the record where its words can be had at once, of the whole
partition where they cannot be read, the widest where another package holds them (log 65). -/
def State.launchAt (s : State) (a : Word) : Scope :=
  let near (pl : Place) : Bool := match pl with
    | .far _ _ _ => false
    | .ctl _ => false
    | _ => true
  match s.upTo (fun s i => s.access .load (a.toNat + 8 * (i : Nat)) 8 8) (List.range 16) with
  | .ok (s', pls, none) =>
    if pls.all fun x => near x.2 then launchScope s.part (pls.map fun x => BitVec.ofNat 64 (s'.readAt x.2 8)) else .sys
  | _ => s.part.scope

/-- LAUNCH (R112): the release, which stands when the record traps (R39), then the record. One whose slot of the ring cannot be written is lost
(log 65). -/
def execLaunch (d a b : BitVec 6) (s : State) : Host.Outcome State Fault Refusal :=
  issue (descOf (.launch d a b)) false inGang never (fun s => do
    let addr := s.rx a
    let q := s.rx b
    check (bits addr 6 0 == 0 && bits addr 63 57 == 0) .align addr
    if h : 31 < q.toNat then raise .prot q
    else
      let qn : Fin 32 := ⟨q.toNat, by omega⟩
      check (bit (s.part.lq[qn]).lqcfg 18 && (s.part.lq[qn]).log2n != 0) .prot q
      let s1 ← s.release (s.launchAt addr)
      let (s2, pls) ← standing s1 (s1.placesFrom .load addr.toNat 16)
      let (s3, recd) ← standing s1 (s2.readWords pls fun i => addr + BitVec.ofNat 64 (8 * i))
      let x := s3.part.lq[qn]
      let head := bits x.lqhead 31 0
      let tail := bits x.lqtail 31 0
      if (tail + 2 ^ 32 - head) % 2 ^ 32 = 2 ^ x.log2n then .ok (.done (s3.wx d (BitVec.allOnes 64)))
      else
        let slot := x.lqbase.toNat + tail % 2 ^ x.log2n * 128
        let s4 := match s3.unitPlace s.fir.part s.fir.die false slot 128 true with
          | some (t, key) => t.homeStore s.fir.part key 128 (writeDwords t.mem key recd)
          | none => s3
        let s5 := s4.onQueue s.fir.part qn fun y => { y with lqtail := BitVec.ofNat 64 ((tail + 1) % 2 ^ 32) }
        .ok (.done ((s5.pokeQueue s.fir.part qn).wx d (BitVec.ofNat 64 tail)))) s

/-! ## Groups (R113 to R118) -/

/-- The place of an engine object in apertures 0 to 2: aligned, then inside them (R113, R188), then R140; a remote one is reached through its
owner's port. Its path counts as used from its own access on, after a release of the same instruction (R223). -/
def State.objNear (s : State) (a : Word) (n : Nat) : Except Stop (State × Place) := do
  check (a.toNat % n == 0) .align a
  check (a.toNat / 2 ^ 48 == 0x1FF && decide (bits a 47 44 ≤ 2)) .prot a
  let (s, pl) ← s.access .obj a.toNat n n
  if s.needsPort [pl] then s.toPort
  s.window .obj pl n a
  .ok (s, pl)

/-- The place of an engine object an instruction accesses without a release. -/
def State.objAt (s : State) (a : Word) (n : Nat) : Except Stop (State × Place) := do
  let (s, pl) ← s.objNear a n
  .ok (s.usePath pl, pl)

/-- JOIN (R93, R113, R114). While a boundary is open it waits: as that completes it is admitted, before any member can arrive at the next. -/
def execJoin (d a : BitVec 6) (s : State) : Host.Outcome State Fault Refusal :=
  plain (descOf (.join d a)) (fun s => do
    let h := s.rx a
    if h = 0 then (descOf (.join d a)).illWord
    let (s, pl) ← s.objAt h 64
    check (!s.fir.groups.contains pl.key && decide (s.fir.groups.length < 8)) .prot h
    let g := s.groupAt pl.key
    if g.arrived ≠ 0 then block s (.join pl.key d)
    .ok (.done ((s.putJoin pl.key).upd fun f => f.joined pl.key d (s.mem.read (pl.key + 8) 3)))) s

/-- LEAVE (R93, R114). -/
def execLeave (a : BitVec 6) (s : State) : Host.Outcome State Fault Refusal :=
  plain (descOf (.leave a)) (fun s => do
    let h := s.rx a
    if h = 0 then (descOf (.leave a)).illWord
    let (s, pl) ← s.objAt h 64
    check (s.fir.groups.contains pl.key) .prot h
    .ok (.done ((s.leaveGroup pl.key).upd fun f => { f with groups := f.groups.erase pl.key }))) s

/-- The record, key and scope a PHASE or GBAR meets at; handle 0 needs a COSCHED team (R91, R113), and a firing of no team takes ILL too (log 76). -/
def State.boundary (s : State) (d : Desc) (h : Word) : Except Stop (State × Nat × Scope) :=
  if h = 0 then
    match s.team? s.fir with
    | none => d.illWord
    | some t => if t.flag 31 then .ok (s, 0, s.teamScope t) else d.illWord
  else do
    let (s, pl) ← s.objNear h 64
    check (s.fir.groups.contains pl.key) .prot h
    .ok (s, pl.key, s.groupScope pl)

/-- The record at a boundary key, 0 for the team's group 0. -/
def State.meeting (s : State) (key : Nat) : GroupRec :=
  if key = 0 then (match s.team? s.fir with
    | some t => s.group0 t
    | none => { phase := 0, arrived := 0, members := 0 })
  else s.groupAt key

/-- That record written. -/
def State.putMeeting (s : State) (key : Nat) (g : GroupRec) : State :=
  if key = 0 then (match s.team? s.fir with
    | some t => s.putGroup0 t g
    | none => s)
  else s.putGroup key g

/-- An arrival at a boundary of the acting firing's group, at scope sc: the scope holds those that wait there too (R115, R243). -/
def Arrival.widened (a : Arrival) (sc : Scope) : Arrival := { a with sc := widest a.sc sc }

/-- An arrival of a team, kept at the boundary at a key that is at phase ph. -/
def waitsAt (key ph : Nat) (own : Bool) (a : Option Arrival) : Bool := a.any fun a => a.key == key && a.ph == ph && (key != 0 || own)

/-- The scope of a boundary that the acting firing reaches is that of the members who wait there, resident or saved: what they have published
reaches as far, and they will acquire at it (R115, R240, R243). -/
def State.widenWaiting (s : State) (key : Nat) (sc : Scope) : State :=
  let ph := (s.meeting key).phase
  let team (p : Fin 16) (tid : Word) : Bool := p == s.fir.part && tid == s.fir.tid
  let at_ (f : Firing) : Bool := waitsAt key ph (team f.part f.tid) f.arrived
  let away (x : Saved) : Bool := waitsAt key ph (team x.part x.tid) x.arrived
  let hs := ((s.firings.filter at_).map fun f => f.core.val / 2) ++ (s.saved.filter away).map fun x => x.core.val / 2
  let s := ((s.firings.filter at_).map Firing.adm).foldl (fun s n =>
    s.onFiring n fun f => { f with arrived := f.arrived.map fun a => a.widened sc }) s
  let s : State := { s with saved := s.saved.map fun x => if away x then { x with arrived := x.arrived.map fun a => a.widened sc } else x }
  hs.foldl (fun s h => s.widen ⟨h % 1024, by omega⟩ sc) s

/-- That record after an arrival of the acting firing. -/
def State.settleMeeting (s : State) (key : Nat) (g : GroupRec) : State :=
  if key = 0 then s.putMeeting 0 g.settle else s.settleGroup key g

/-- Steps 1 to 4 of R116; GBAR leaves out step 1 (R117). An arrival is kept through a trap, with the scope the group had then (R115, R118). -/
def meetOp (i : Instr) (a : BitVec 6) (engines : Bool) (s : State) : Host.Outcome State Fault Refusal :=
  plain (descOf i) (fun s => do
    let (s, key, sc) ← s.boundary (descOf i) (s.rx a)
    match s.fir.arrived with
    | some a =>
      if a.key = key then
        if (s.meeting key).phase = a.ph then block s (.group key a.ph) else through s a.sc
      else arrive s key sc
    | none => arrive s key sc) s
where
  through (s : State) (sc : Scope) : Except Stop Done := .ok (.done ((s.acquire sc).upd fun f => { f with arrived := none }))
  arrive (s : State) (key : Nat) (sc : Scope) : Except Stop Done := do
    if engines && s.engineBusy s.fir then block s .engines
    let s ← s.release sc
    let s := if key = 0 then s else s.useKey key
    let g := s.meeting key
    let g' := { g with arrived := g.arrived + 1 }
    let s := (s.widenWaiting key sc).settleMeeting key g'
    if g'.settle.phase ≠ g.phase then through s sc
    else block (s.upd fun f => { f with arrived := some { key := key, ph := g.phase, sc := sc } }) (.group key g.phase)

/-- PHASE (R116). -/
def execPhase (a : BitVec 6) (s : State) : Host.Outcome State Fault Refusal := meetOp (.phase a) a true s

/-- GBAR (R117). -/
def execGbar (a : BitVec 6) (s : State) : Host.Outcome State Fault Refusal := meetOp (.gbar a) a false s

/-! ## The sorus claim (R119) -/

/-- SGET (R119): granted to the holder or when there is none; a sorus parked for a saved holder is not free (R363). -/
def execSget (d : BitVec 6) (s : State) : Host.Outcome State Fault Refusal :=
  plain (descOf (.sget d)) (fun s =>
    let x := s.fr.sorus
    if x.holder = some s.fir.adm || (x.holder.isNone && x.parked.isNone) then
      .ok (.done ((s.onFrond s.fir.frond fun f => { f with sorus := { f.sorus with holder := some s.fir.adm } }).wx d 1))
    else .ok (.done (s.wx d 0))) s

/-- SPUT (R119): PROT with subcode 1 from any firing but the holder. -/
def execSput (s : State) : Host.Outcome State Fault Refusal :=
  plain (descOf .sput) (fun s =>
    if s.fr.sorus.holder = some s.fir.adm then
      .ok (.done (s.onFrond s.fir.frond fun f => { f with sorus := { f.sorus with holder := none } }))
    else raiseSub .prot 1 0) s

/-! ## Hardware semaphores (R120 to R122) -/

/-- An amount or count: PROT above 65,535 (R120). -/
def State.amount (s : State) (b : BitVec 6) : Except Stop Nat := do
  check (decide ((s.rx b).toNat ≤ 65535)) .prot (s.rx b)
  .ok (s.rx b).toNat

/-- The count of semaphore n of the acting frond. -/
def State.sem (s : State) (n : BitVec 4) : Nat := (s.fr.hs[n.toNat]).toNat

/-- HSWAIT (R121): served in arrival order. -/
def execHswait (d : BitVec 6) (n : BitVec 4) (b : BitVec 6) (s : State) : Host.Outcome State Fault Refusal :=
  plain (descOf (.hswait d n b)) (fun s => do
    let amt ← s.amount b
    let c := s.sem n
    if amt = 0 then .ok (.done (s.wx d (BitVec.ofNat 64 c)))
    else
      let q := s.fr.hsq.filter fun w => w.n == n.toNat
      if q.isEmpty && decide (amt ≤ c) then
        let s := s.onFrond s.fir.frond fun f => { f with hs := f.hs.set n.toNat (BitVec.ofNat 16 (c - amt)) }
        .ok (.done ((s.acquire .fr).wx d (BitVec.ofNat 64 (c - amt))))
      else if q.any fun w => w.adm == s.fir.adm then block s (.sem n.toNat)
      else
        let w : SemWait := { n := n.toNat, amt := amt, rd := d, adm := s.fir.adm }
        block (s.onFrond s.fir.frond fun f => { f with hsq := f.hsq ++ [w] }) (.sem n.toNat)) s

/-- HSTRY (R121): taken at once or not at all. -/
def execHstry (d : BitVec 6) (n : BitVec 4) (b : BitVec 6) (s : State) : Host.Outcome State Fault Refusal :=
  plain (descOf (.hstry d n b)) (fun s => do
    let amt ← s.amount b
    let c := s.sem n
    if amt = 0 || (!(s.fr.hsq.any fun w => w.n == n.toNat) && decide (amt ≤ c)) then
      let s := s.onFrond s.fir.frond fun f => { f with hs := f.hs.set n.toNat (BitVec.ofNat 16 (c - amt)) }
      .ok (.done ((s.acquire .fr).wx d 1))
    else .ok (.done (s.wx d 0))) s

/-- HSPOST (R121): a release at frond scope, then the count rises to at most 65,535. -/
def execHspost (n : BitVec 4) (b : BitVec 6) (s : State) : Host.Outcome State Fault Refusal :=
  plain (descOf (.hspost n b)) (fun s => do
    let amt ← s.amount b
    let s ← s.release .fr
    .ok (.done (s.setSem s.fir.frond ⟨n.toNat, n.isLt⟩ (min (s.sem n + amt) 65535)))) s

/-- HSSET (R121): a release at frond scope, then a new count. -/
def execHsset (n : BitVec 4) (b : BitVec 6) (s : State) : Host.Outcome State Fault Refusal :=
  plain (descOf (.hsset n b)) (fun s => do
    let v ← s.amount b
    let s ← s.release .fr
    .ok (.done (s.setSem s.fir.frond ⟨n.toNat, n.isLt⟩ v))) s

/-- HSRD (R121). -/
def execHsrd (d : BitVec 6) (n : BitVec 4) (s : State) : Host.Outcome State Fault Refusal :=
  plain (descOf (.hsrd d n)) (fun s => .ok (.done (s.wx d (BitVec.ofNat 64 (s.sem n))))) s

end Sys2Proof.Machine
end

