-- ==== Sys2Proof/Machine/Engine.lean ====
section
/-! DEFINITION. Queues, messages, copy control, transaction barriers and task deques (R172 to R192). -/

namespace Sys2Proof.Machine

/-! ## The grid (R9) -/

/-- The grid position of a frond: steps of HilbertXY from scale q on, with the rest t of the frond number. -/
def hilbertFrom : Nat → Nat → Nat → Nat → Nat → Nat × Nat
  | 0, _, _, x, y => (x, y)
  | n + 1, q, t, x, y =>
    let rx := t / 2 % 2
    let ry := (t + rx) % 2
    let (x, y) := if ry = 0 then (if rx = 1 then (q - 1 - y, q - 1 - x) else (y, x)) else (x, y)
    hilbertFrom n (2 * q) (t / 4) (x + q * rx) (y + q * ry)

/-- HilbertXY (R9). -/
def hilbertXY (h : Nat) : Nat × Nat := hilbertFrom 5 1 h 0 0

/-- Steps of the inverse, from scale q down. -/
def hilbertNum : Nat → Nat → Nat → Nat → Nat → Nat
  | 0, _, _, _, d => d
  | n + 1, q, x, y, d =>
    let rx := x / q % 2
    let ry := y / q % 2
    let d := d + q * q * (if rx = 1 then 3 - ry else ry)
    let (x, y) := if ry = 0 then (if rx = 1 then (31 - y, 31 - x) else (y, x)) else (x, y)
    hilbertNum n (q / 2) x y d

/-- The frond at a grid position. -/
def frondAt (x y : Nat) : Nat := hilbertNum 5 16 x y 0

/-- The neighbour of a frond to the north (0), east (1), south (2) or west (3), if the grid has one (R173). -/
def neighbour (h dir : Nat) : Option Nat :=
  let (x, y) := hilbertXY h
  match dir with
  | 0 => if y < 31 then some (frondAt x (y + 1)) else none
  | 1 => if x < 31 then some (frondAt (x + 1) y) else none
  | 2 => if 0 < y then some (frondAt x (y - 1)) else none
  | _ => if 0 < x then some (frondAt (x - 1) y) else none

/-! ## Queues (R172 to R175) -/

/-- The neighbour a queue q8 to q11 leads to, in the firing's partition. -/
def State.linked (s : State) (n : Nat) : Option (Fin 1024) :=
  match neighbour s.fir.frond.val (n - 8) with
  | none => none
  | some h => if s.part.hasFrond h then some ⟨h % 1024, by omega⟩ else none

/-- The entries of q0 to q7 of the acting firing's pair. -/
def State.pairQ (s : State) (n : Nat) : Option (Fin 8 × List QEntry) :=
  s.fir.pairset.map fun i => (i, ((s.fr.pairs[i]).q.toList.getD n []))

/-- Those entries replaced. -/
def State.setPairQ (s : State) (i : Fin 8) (n : Nat) (q : List QEntry) : State :=
  s.onFrond s.fir.frond fun x =>
    let p := x.pairs[i]
    { x with pairs := x.pairs.set i { p with q := p.q.mapIdx fun j e => if j = n then q else e } }

/-- The incoming entries from a direction. -/
def Frond.incoming (x : Frond) (dir : Nat) : List Vec := x.nq.toList.getD dir []

/-- The incoming entries from a direction of a frond replaced. -/
def State.setIncoming (s : State) (h : Fin 1024) (dir : Nat) (q : List Vec) : State :=
  s.onFrond h fun x => { x with nq := x.nq.mapIdx fun j e => if j = dir then q else e }

/-- The least scope that holds two fronds (R6). -/
def frondScope (h g : Fin 1024) : Scope := if h = g then .fr else dieScope (h.val / 256) (g.val / 256)

/-- A trap of a queue operation. -/
def queueTrap {α : Type} (n : Nat) : Except Stop α := raise .prot (BitVec.ofNat 64 n)

/-- A pop of queue n expecting a vector or a word (R175): the entry, or a wait. -/
def State.popQ (s : State) (n : Nat) (vec : Bool) : Except Stop (State × QEntry) :=
  if n < 8 then
    match s.pairQ n with
    | none => queueTrap n
    | some (_, []) => block s (.queue n false)
    | some (i, e :: q) =>
      let isVec := match e with
        | .vec _ => true
        | .word _ => false
      if isVec != vec then queueTrap n else .ok (s.setPairQ i n q, e)
  else if n < 12 then
    match s.linked n with
    | none => queueTrap n
    | some g => match s.fr.incoming (n - 8) with
      | [] => block s (.queue n false)
      | v :: q => .ok ((s.setIncoming s.fir.frond (n - 8) q).acquire (frondScope s.fir.frond g), .vec v)
  else if n = 12 then
    match s.fir.q12 with
    | [] => block s (.queue n false)
    | w :: q => .ok (s.upd fun f => { f with q12 := q }, .word w)
  else
    match s.fir.q13 with
    | [] => block s (.queue n false)
    | w :: q => .ok (s.upd fun f => { f with q13 := q }, .word w)

/-- A push to queue n (R175): the release, then the entry, or a wait. -/
def State.pushQ (s : State) (n : Nat) (e : QEntry) : Except Stop State :=
  if n < 8 then
    match s.pairQ n with
    | none => queueTrap n
    | some (i, q) =>
      if 8 ≤ q.length then block s (.queue n true)
      else do
        let s ← s.release .fr
        .ok (s.setPairQ i n (q ++ [e]))
  else match s.linked n, e with
    | some g, .vec v =>
      let dir := (n - 8 + 2) % 4
      if 4 ≤ (s.fronds[g].incoming dir).length then block s (.queue n true)
      else do
        let s ← s.release (frondScope s.fir.frond g)
        .ok (s.setIncoming g dir (s.fronds[g].incoming dir ++ [v]))
    | _, _ => queueTrap n

/-- ILL of a pop by its core (R34). -/
def popIll (n : BitVec 4) (s : State) : Bool := if s.fir.stage then decide (n.toNat < 4) else decide (4 ≤ n.toNat) && decide (n.toNat < 8)

/-- ILL of a push by its core (R34). -/
def pushIll (n : BitVec 4) (s : State) : Bool := if s.fir.stage then decide (4 ≤ n.toNat) && decide (n.toNat < 8) else decide (n.toNat < 4)

/-- QGET (R175, R334): q15 gives a draw and steps sstream. -/
def execQget (d : BitVec 6) (n : BitVec 4) (s : State) : Host.Outcome State Fault Refusal :=
  issue (descOf (.qget d n)) false (popIll n) never (fun s =>
    if n.toNat = 15 then
      .ok (.done (s.upd fun f => { f.wx d (f.draw f.sstream (BitVec.allOnes 64)) with sstream := f.sstream + 1 }))
    else do
      let (s, e) ← s.popQ n.toNat false
      match e with
      | .word w => .ok (.done (s.wx d w))
      | .vec _ => .ok (.done s)) s

/-- VQGET (R175). -/
def execVqget (d : BitVec 5) (n : BitVec 4) (s : State) : Host.Outcome State Fault Refusal :=
  issue (descOf (.vqget d n)) false (popIll n) never (fun s => do
    let (s, e) ← s.popQ n.toNat true
    match e with
    | .vec v => .ok (.done (s.wv d v))
    | .word _ => .ok (.done s)) s

/-- QPUT (R175). -/
def execQput (n : BitVec 4) (b : BitVec 6) (s : State) : Host.Outcome State Fault Refusal :=
  issue (descOf (.qput n b)) false (pushIll n) never (fun s => do
    let t ← s.pushQ n.toNat (.word (s.rx b))
    .ok (.done t)) s

/-- VQPUT (R175). -/
def execVqput (n : BitVec 4) (b : BitVec 5) (s : State) : Host.Outcome State Fault Refusal :=
  issue (descOf (.vqput n b)) false (pushIll n) never (fun s => do
    let t ← s.pushQ n.toNat (.vec (s.fir.rv b))
    .ok (.done t)) s

/-- QCNT (R175): what could be popped, or the free room on the pushing side; the LOST of q12 is cleared. -/
def execQcnt (d : BitVec 6) (n : BitVec 4) (s : State) : Host.Outcome State Fault Refusal :=
  plain (descOf (.qcnt d n)) (fun s =>
    let k := n.toNat
    let put (s : State) (v : Nat) : Except Stop Done := .ok (.done (s.wx d (BitVec.ofNat 64 v)))
    if k < 8 then
      match s.pairQ k with
      | none => queueTrap k
      | some (_, q) => put s (if s.fir.stage == decide (k < 4) then 8 - q.length else q.length)
    else if k < 12 then
      match s.linked k with
      | none => put s 0
      | some g => put s ((s.fr.incoming (k - 8)).length + 256 * (4 - (s.fronds[g].incoming ((k - 8 + 2) % 4)).length))
    else if k = 12 then put (s.upd fun f => { f with q12lost := false }) (s.fir.q12.length + 256 * s.fir.q12lost.toNat)
    else if k = 13 then put s s.fir.q13.length
    else put s 1) s

/-! ## Messages (R177 to R179) -/

/-- The payload registers exist (R179). -/
def State.payload (s : State) (p : BitVec 6) (c : Nat) : Except Stop (List Word) :=
  let last := p.toNat + c - 1
  if decide (0 < c) && (decide (63 < last) || decide (s.fir.dem.xregs ≤ last)) then raise .regrange (BitVec.ofNat 64 last)
  else .ok ((List.range c).map fun i => s.fir.rxn (p.toNat + i))

/-- The header as it travels: bit 8 is the sender's TOPX (R178). -/
def Firing.header (f : Firing) (h : Word) : Word := setBit h 8 f.topx

/-- The sender of a refused message as one number: core, partition, and whether a utvec handler sent it. -/
def senderName (core part : Nat) (hand : Bool) : Nat := core + 2 ^ 11 * part + 2 ^ 15 * hand.toNat

/-- A message for a core of this package: into its buffer of 64, or on its way behind those that wait for room there (R81). -/
def CoreSt.take (x : CoreSt) (m : Message) : CoreSt :=
  if x.inbound.length < 64 && x.onway.isEmpty then { x with inbound := x.inbound ++ [m] } else { x with onway := x.onway ++ [m] }

/-- A message out of the buffer; the first on its way takes its room. -/
def CoreSt.drop (x : CoreSt) (m : Message) : CoreSt :=
  let y := { x with inbound := x.inbound.erase m }
  match y.onway with
  | [] => y
  | n :: ns => if y.inbound.length < 64 then { y with inbound := y.inbound ++ [n], onway := ns } else y

/-- The tenant class of a partition. -/
def State.classOf (s : State) (p : Nat) : Nat := bits (s.parts[p % 16]).pcfg 10 8

/-- The path to a core of this package takes no more messages of the acting firing's tenant class: its buffer is full, and so many of that
class wait before it as the path holds (R81, log 18). -/
def State.pathFull (s : State) (core : Nat) : Bool :=
  let c : Fin 2048 := ⟨core % 2048, by omega⟩
  decide (Config.pathRoom < (s.cores[c].onway.filter fun m => s.classOf m.srcPart == s.classOf s.fir.part.val).length)

/-- A message sent: to a core of this package, to another, or refused for want of a way there (R180 subcode 4). -/
def State.transmit (s : State) (pkg core : Nat) (h : Word) (ws : List Word) : State :=
  let m : Message :=
    { srcPkg := s.dev.pkg, srcCore := s.fir.core.val, srcPart := s.fir.part.val, adm := s.fir.adm, core := core, header := h,
      payload := ws, team := (s.loggedTeam s.fir).map Team.id, me := s.fir.opName 3, told := false, hand := s.fir.intrap }
  if pkg = s.dev.pkg then
    let c : Fin 2048 := ⟨core % 2048, by omega⟩
    ((s.onCore c fun x => x.take m).countOp 3).push .messageDispatch c.val 0 0 0
  else if (s.peerFor s.fir.part pkg).isNone || s.lost.contains pkg then
    s.push .messageRefusalReturn s.fir.adm 4 (senderName s.fir.core.val s.fir.part.val s.fir.intrap) h
  else s.send (.message pkg m)

/-- SEND (R179). -/
def execSend (a b p : BitVec 6) (s : State) : Host.Outcome State Fault Refusal :=
  plain (descOf (.send a b p)) (fun s => do
    let h := s.rx b
    let ws ← s.payload p (bits h 11 9)
    let w := s.rx a
    check (bits w 63 54 == 0 && bits w 31 11 == 0) .prot w
    if bits w 53 32 == s.dev.pkg && s.pathFull (bits w 10 0) then block s (.path (bits w 10 0))
    .ok (.done (s.transmit (bits w 53 32) (bits w 10 0) (s.fir.header h) ws))) s

/-- The lanes of SENDV in ascending order up to one whose reserved bits are not zero. -/
def State.sendLanes (s : State) (v : Vec) (h : Word) (ws : List Word) : List Nat → State × Option Trap
  | [] => (s, none)
  | i :: is =>
    let l := BitVec.ofNat 64 (elem v 32 i)
    if bit l 31 then s.sendLanes v h ws is
    else if bits l 30 11 ≠ 0 then (s, some { c := .prot, sub := 0, val := BitVec.ofNat 64 i })
    else (s.transmit s.dev.pkg (bits l 10 0) h ws).sendLanes v h ws is

/-- SENDV (R179): the lanes below one that traps have been sent. It begins when every path those lanes name takes a message. -/
def execSendv (a : BitVec 5) (b p : BitVec 6) (s : State) : Host.Outcome State Fault Refusal :=
  plain (descOf (.sendv a b p)) (fun s => do
    let h := s.rx b
    let ws ← s.payload p (bits h 11 9)
    let lanes := (List.range 64).map fun i => BitVec.ofNat 64 (elem (s.fir.rv a) 32 i)
    match (lanes.takeWhile fun l => bit l 31 || bits l 30 11 == 0).find? fun l => !bit l 31 && s.pathFull (bits l 10 0) with
    | some l => block s (.path (bits l 10 0))
    | none => .ok ()
    match s.sendLanes (s.fir.rv a) (s.fir.header h) ws (List.range 64) with
    | (t, none) => .ok (.done t)
    | (t, some tr) => .error (.trapIn t tr)) s

/-! ## Copies (R182 to R187, R190) -/

/-- CWR (R184). -/
def execCwr (sel : BitVec 3) (a : BitVec 6) (s : State) : Host.Outcome State Fault Refusal :=
  plain (descOf (.cwr sel a)) (fun s => .ok (.done (s.upd fun f => { f with cr := f.cr.set sel.toNat (f.rx a) }))) s

/-- CRD (R184). -/
def execCrd (sel : BitVec 3) (d : BitVec 6) (s : State) : Host.Outcome State Fault Refusal :=
  plain (descOf (.crd sel d)) (fun s => .ok (.done (s.wx d (s.fir.cr[sel.toNat])))) s

/-- The length L of a copy. -/
def copyLen (cr : Vector Word 8) : Nat := bits cr[2] 47 0

/-- SHS and SHD. -/
def copyShs (cr : Vector Word 8) : Bool := bit cr[7] 63
/-- SHD. -/
def copyShd (cr : Vector Word 8) : Bool := bit cr[7] 62

/-- The digits of a source byte number, outermost first: pitch and the bytes one step covers (R183). -/
def copyDigits (cr : Vector Word 8) : List (Int × Nat) :=
  let f := cr[7]
  let row := if bits f 19 0 = 0 then copyLen cr else bits f 19 0
  let nr := bits f 35 20
  let np := if bits f 51 36 = 0 then 1 else bits f 51 36
  if nr = 0 then [(sInt cr[3], row), (1, 1)]
  else [(sInt cr[5], np * nr * row), (sInt cr[4], nr * row), (sInt cr[3], row), (1, 1)]

/-- The offset of source byte b from the source address (R183). -/
def digitOff : List (Int × Nat) → Nat → Int
  | [], _ => 0
  | (st, n) :: ds, b => (b / n : Nat) * st + digitOff ds (b % n)

/-- The least and greatest offset of bytes 0 to l - 1, l positive. -/
def digitSpan : List (Int × Nat) → Nat → Int × Int
  | [], _ => (0, 0)
  | (st, n) :: ds, l =>
    let full := l / n
    let rem := l % n
    let w := digitSpan ds n
    let a : Int × Int := (min 0 ((full - 1 : Int) * st) + w.1, max 0 ((full - 1 : Int) * st) + w.2)
    let p := digitSpan ds rem
    let b : Int × Int := (full * st + p.1, full * st + p.2)
    if rem = 0 then a else if full = 0 then b else (min a.1 b.1, max a.2 b.2)

/-- The range-lock entries of a copy: its source interval and its destination; a sharded side has none (R190). -/
def copyLocks (h : Fin 1024) (cr : Vector Word 8) (id : Nat) : List Lock :=
  let (lo, hi) := digitSpan (copyDigits cr) (copyLen cr)
  let a := lockAddr h (((cr[0]).toNat : Int) + lo).toNat
  let d := lockAddr h (cr[1]).toNat
  (if copyShs cr then [] else [{ lo := a, hi := a + (hi - lo).toNat + 1, dst := false, own := .copy id }])
    ++ (if copyShd cr then [] else [{ lo := d, hi := d + copyLen cr, dst := true, own := .copy id }])

/-- The first copy control register that breaks R182. -/
def copyBad (cr : Vector Word 8) : Option Nat :=
  if copyLen cr = 0 || bits cr[2] 63 48 != 0 then some 2
  else if bits cr[7] 60 52 != 0 || ((copyShs cr || copyShd cr) && bits cr[7] 51 0 != 0) then some 7
  else none

/-- The placement entries of a descriptor that can be read (R229), in order of their shards. -/
def State.placements (s : State) (ws : List Word) : State × List (Nat × Word × Word) :=
  let one (a : State × List (Nat × Word × Word)) (k : Nat) : State × List (Nat × Word × Word) :=
    match a.1.unitRead s.fir.part s.fir.die (bits (dword ws 1) 56 0 + 16 * k) 16 with
    | some (t, v) => (t, (k, BitVec.ofNat 64 v, BitVec.ofNat 64 (v / 2 ^ 64)) :: a.2)
    | none => a
  let (t, l) := (List.range (bits (dword ws 2) 23 0)).foldl one (s, [])
  (t, l.reverse)

/-- The snapshot of a sharded side (R182, R229): the descriptor of the handle in its address register, and its placement. -/
def State.copySide (s : State) (sharded : Bool) (w : Word) : Except Stop (State × List Word × List (Nat × Word × Word)) :=
  if sharded then do
    let (s, ws) ← s.descriptor (bits w 15 0)
    let (s, pl) := s.placements ws
    .ok (s, ws, pl)
  else .ok (s, [], [])

/-- The number of a channel that satisfies a condition. -/
def State.channel (s : State) (ok : Option Copy → Bool) : Option (Fin 4) :=
  match (s.fr.chans.toList.zipIdx).find? fun x => ok x.1 with
  | some (_, i) => some ⟨i % 4, by omega⟩
  | none => none

/-- A channel of the acting frond written. -/
def State.setChannel (s : State) (c : Fin 4) (x : Option Copy) : State :=
  s.onFrond s.fir.frond fun f => { f with chans := f.chans.set c x }

/-- A transfer id from n on that no active copy of the frond has (R187). -/
def freeId (used : List Nat) : Nat → Nat → Nat
  | 0, n => n
  | k + 1, n => if used.contains n then freeId used k (n % 65535 + 1) else n

/-- The ids of a frond's active copies. -/
def Frond.ids (f : Frond) : List Nat := f.chans.toList.filterMap fun c => match c with
  | some x => if x.live then some x.id else none
  | none => none

/-- A nonzero .tb at CGO (R185, R188). -/
def State.checkTb (s : State) (tb : Word) : Except Stop Unit :=
  if tb = 0 then .ok ()
  else do
    check (bits tb 3 0 == 0) .align tb
    check (tb.toNat / 2 ^ 48 == 0x1FF && decide (bits tb 47 44 ≤ 2)) .prot tb
    match s.resolve .obj tb.toNat 16 with
    | .ok _ => .ok ()
    | .error e => .error e

/-- CGO (R185). -/
def execCgo (d : BitVec 6) (s : State) : Host.Outcome State Fault Refusal :=
  plain (descOf (.cgo d)) (fun s => do
    let cr := s.fir.cr
    match copyBad cr with
    | some k => raise .prot (BitVec.ofNat 64 k)
    | none => .ok ()
    s.afterEarlier
    let (s, sd, sp) ← s.copySide (copyShs cr) cr[0]
    let (s, dd, dp) ← s.copySide (copyShd cr) cr[1]
    if (copyShs cr && copyShd cr && bits (dword sd 0) 5 4 != bits (dword dd 0) 5 4) = true then
      let (n, s) := s.nextFree
      .error (.trapIn s { c := .prot, sub := 0, val := Config.dword n })
    s.checkTb cr[6]
    let taken (c : Option Copy) : Bool := match c with
      | some x => x.adm == s.fir.adm && !x.live
      | none => false
    match (s.channel taken).orElse fun _ => s.channel Option.isNone with
    | none => .ok (.done (s.wx d 0))
    | some c =>
      let copy : Copy :=
        { adm := s.fir.adm, tid := s.fir.tid, part := s.fir.part, id := 0, cr := cr, bytes := 0, srcDesc := sd, dstDesc := dd,
          srcPlace := sp, dstPlace := dp, phase := 0, buf := [], pends := [], bad := 0, hand := s.fir.intrap, live := false }
      let held := s.setChannel c (some copy)
      match s.lockRoom (copyLocks s.fir.frond cr 0).length with
      | .error (.wait t w) => block { held with agenda := t.agenda } w
      | .error e => .error e
      | .ok _ =>
        let id := freeId s.fr.ids 5 s.fr.nextId
        let s := s.setChannel c (some { copy with id := id, live := true })
        let s := s.onFrond s.fir.frond fun f =>
          { f with nextId := id % 65535 + 1, locks := f.locks ++ copyLocks s.fir.frond cr id }
        .ok (.done ((s.push .copySector s.fir.frond.val c.val 0 0).wx d (BitVec.ofNat 64 id)))) s

/-- CWP (R187). -/
def execCwp (d a : BitVec 6) (s : State) : Host.Outcome State Fault Refusal :=
  plain (descOf (.cwp d a)) (fun s =>
    let mine := s.fr.chans.toList.findSome? fun c => match c with
      | some x => if x.live && x.adm == s.fir.adm && BitVec.ofNat 64 x.id == s.rx a then some x.bytes else none
      | none => none
    .ok (.done (s.wx d (match mine with
      | some n => BitVec.ofNat 64 n
      | none => BitVec.allOnes 64)))) s

/-! ## Transaction barriers (R188, R189) -/

/-- INIT, PEND, PHASE and SECT. -/
structure Barrier where
  init : Nat
  pend : Nat
  phase : Nat
  sect : Int
  deriving DecidableEq, Repr

/-- The barrier at a key. -/
def State.barrierAt (s : State) (key : Nat) : Barrier :=
  let w := BitVec.ofNat 64 (s.mem.read key 8)
  { init := bits w 51 28, pend := bits w 27 4, phase := bits w 3 0, sect := intOf true 48 (s.mem.read (key + 8) 8) }

/-- The barrier at a key written. -/
def State.putBarrier (s : State) (key : Nat) (b : Barrier) : State :=
  let w := b.init % 2 ^ 24 * 2 ^ 28 + b.pend % 2 ^ 24 * 2 ^ 4 + b.phase % 16
  { s with mem := (s.mem.write key 8 w).write (key + 8) 8 (toBits 48 b.sect) }

/-- A phase completes when nothing is awaited any more (R188). -/
def Barrier.settle (b : Barrier) : Barrier :=
  if b.pend = 0 && toBits 48 b.sect = 0 then { b with phase := (b.phase + 1) % 16, pend := b.init } else b

/-- A barrier updated: a phase that completes releases every waiter with another phase argument (R188). -/
def State.updateBarrier (s : State) (key : Nat) (b : Barrier) : State :=
  let b' := b.settle
  let s := s.putBarrier key b'
  let free (f : Firing) : Firing := match f.wait with
    | some (.barrier k ph) => if k = key && ph != b'.phase then { f with wait := some .released } else f
    | _ => f
  if b'.phase = b.phase then s else { s with fir := free s.fir, others := s.others.map free }

/-- TXINIT (R189): no waiter is released. -/
def execTxinit (a b : BitVec 6) (s : State) : Host.Outcome State Fault Refusal :=
  plain (descOf (.txinit a b)) (fun s => do
    let (s, pl) ← s.objAt (s.rx a) 16
    let v := s.rx b
    check (decide (1 ≤ v.toNat) && decide (v.toNat < 2 ^ 24)) .prot v
    .ok (.done (s.putBarrier pl.key { init := v.toNat, pend := v.toNat, phase := 0, sect := 0 }))) s

/-- TXARR (R189): the release stands when the arrival traps (R39). -/
def execTxarr (d a : BitVec 6) (s : State) : Host.Outcome State Fault Refusal :=
  plain (descOf (.txarr d a)) (fun s => do
    let (s, pl) ← s.objNear (s.rx a) 16
    let s ← s.release (s.homeScope pl)
    let s := s.usePath pl
    let b := s.barrierAt pl.key
    if b.pend = 0 then .error (.trapIn s { c := .prot, sub := 0, val := s.rx a })
    else .ok (.done ((s.updateBarrier pl.key { b with pend := b.pend - 1 }).wx d (BitVec.ofNat 64 b.phase)))) s

/-- TXEXP (R189). -/
def execTxexp (a b : BitVec 6) (s : State) : Host.Outcome State Fault Refusal :=
  plain (descOf (.txexp a b)) (fun s => do
    let (s, pl) ← s.objAt (s.rx a) 16
    let v := s.rx b
    check (decide (v.toNat < 2 ^ 47)) .prot v
    let x := s.barrierAt pl.key
    .ok (.done (s.updateBarrier pl.key { x with sect := x.sect + v.toNat }))) s

/-- TXWAIT (R189): without limit (R98), until a completed phase releases it (R188). -/
def execTxwait (a b : BitVec 6) (s : State) : Host.Outcome State Fault Refusal :=
  plain (descOf (.txwait a b)) (fun s => do
    let (s, pl) ← s.objAt (s.rx a) 16
    let ph := bits (s.rx b) 3 0
    if s.fir.wait ≠ some .released ∧ (s.barrierAt pl.key).phase = ph then block s (.barrier pl.key ph)
    else .ok (.done (s.acquire (s.homeScope pl)))) s

/-- TXTRY (R189). -/
def execTxtry (d a b : BitVec 6) (s : State) : Host.Outcome State Fault Refusal :=
  plain (descOf (.txtry d a b)) (fun s => do
    let (s, pl) ← s.objAt (s.rx a) 16
    if (s.barrierAt pl.key).phase = bits (s.rx b) 3 0 then .ok (.done (s.wx d 0))
    else .ok (.done ((s.acquire (s.homeScope pl)).wx d 1))) s

/-! ## Task deques (R191, R192) -/

/-- A deque in use: its header's key, capacity, HEAD and TAIL. -/
structure Deque where
  key : Nat
  cap : Nat
  head : Nat
  tail : Nat
  deriving DecidableEq, Repr

/-- The deque of a core, if it has one in use (R191). -/
def State.deque (s : State) (c : Fin 2048) : Option Deque :=
  let w := s.cores[c].dqbase
  if !bit w 63 then none
  else
    let off := bits w 19 6 * 64
    let key := spadKey (c.val / 2) off
    let w0 := BitVec.ofNat 64 (s.mem.read key 8)
    let lg := bits w0 4 0
    if bit w0 63 && decide (1 ≤ lg) && decide (lg ≤ 16) && decide (off + 64 + 8 * 2 ^ lg ≤ 2 ^ 20) then
      some { key := key, cap := 2 ^ lg, head := s.mem.read (key + 8) 4, tail := s.mem.read (key + 16) 4 }
    else none

/-- The key of a task's slot. -/
def Deque.slot (q : Deque) (i : Nat) : Nat := q.key + 64 + 8 * (i % q.cap)

/-- The tasks a deque holds. -/
def Deque.count (q : Deque) : Nat := (q.head + 2 ^ 32 - q.tail) % 2 ^ 32

/-- The order-log site of a core (R402). -/
def coreSite (c : Nat) : Nat := 0x300 + c % 512

/-- DQPUSH (R192). -/
def execDqpush (d b : BitVec 6) (s : State) : Host.Outcome State Fault Refusal :=
  plain (descOf (.dqpush d b)) (fun s => do
    let s ← s.logged 2 s.fir.die.val (coreSite s.fir.core.val)
    match s.deque s.fir.core with
    | none => .ok (.done (s.wx d 0))
    | some q =>
      if q.count < q.cap then
        let m := (s.mem.write (q.slot q.head) 8 (s.rx b).toNat).write (q.key + 8) 4 ((q.head + 1) % 2 ^ 32)
        .ok (.done ({ s with mem := m }.wx d 1))
      else .ok (.done (s.wx d 0))) s

/-- A result pair. -/
def State.pair (s : State) (d : BitVec 6) (a b : Word) : State := (s.wx d a).wx (d + 1) b

/-- DQPOP (R192). -/
def execDqpop (d : BitVec 6) (s : State) : Host.Outcome State Fault Refusal :=
  plain (descOf (.dqpop d)) (fun s => do
    let s ← s.logged 2 s.fir.die.val (coreSite s.fir.core.val)
    match s.deque s.fir.core with
    | none => .ok (.done (s.pair d 0 0))
    | some q =>
      if q.head = q.tail then .ok (.done (s.pair d 0 0))
      else
        let i := (q.head + 2 ^ 32 - 1) % 2 ^ 32
        let s := { s with mem := s.mem.write (q.key + 8) 4 i }
        .ok (.done (s.pair d 1 (BitVec.ofNat 64 (s.mem.read (q.slot i) 8))))) s

/-- The victim of attempt n by the acting firing's core (R192); the second CHECK run has a seed of its own (R342). -/
def State.victim (s : State) (n : Word) : Nat :=
  let p := s.part
  let second := match s.team? s.fir with
    | some t => t.flag 28 && t.checkRun == 1
    | none => false
  let seed := if second then p.stealseed ^^^ 0x9E3779B97F4A7C15 else p.stealseed
  let draw := drawOf seed (BitVec.ofNat 64 s.fir.part.val) n (BitVec.ofNat 64 s.fir.core.val)
  2 * p.start + draw.toNat * (2 * p.len) / 2 ^ 64

/-- The victim a replayed log names for the acting firing's next steal (R96). -/
def State.loggedVictim (s : State) : Option Nat :=
  let me := s.fir.opName 2
  (List.range 4).findSome? fun d =>
    let d' : Fin 4 := ⟨d % 4, by omega⟩
    let pos := bits (s.part.logpos[d']) 31 0
    (List.range (bits (s.part.loglen[d']) 31 0 - pos)).findSome? fun j =>
      match s.logEntry s.fir.part d' (pos + j) with
      | some (_, w0, w1) => if bits w0 63 60 = 2 && w1 = me then some (d * 512 + bits w0 59 32 % 512) else none
      | none => none

/-- DQSTEAL (R192): a victim's engine answers later; the stealer itself answers empty at once. -/
def execDqsteal (d a : BitVec 6) (s : State) : Host.Outcome State Fault Refusal :=
  plain (descOf (.dqsteal d a)) (fun s => do
    let v := s.victim (s.rx a)
    let v := if s.teamFlag s.fir 27 then s.loggedVictim.getD v else v
    if v = s.fir.core.val then
      let s ← s.logged 2 s.fir.die.val (coreSite v)
      .ok (.done (s.pair d 0 0))
    else block (s.push .dqstealServe s.fir.adm v d.toNat 0) .answer) s

end Sys2Proof.Machine
end

