-- ==== Sys2Proof/Machine/Scalar.lean ====
section
/-! DEFINITION. Scalar integer, address and float instructions (R123 to R137). -/

namespace Sys2Proof.Machine

/-- An integer instruction: its result goes to a scalar register (R123). -/
def intOp (i : Instr) (d : BitVec 6) (g : State → Word) (s : State) : Host.Outcome State Fault Refusal :=
  plain (descOf i) (fun s => .ok (.done (s.wx d (g s)))) s

/-- A float instruction: its result goes zero-extended to a scalar register, its flags to fflags (R123). -/
def floatOp (i : Instr) (d : BitVec 6) (g : State → Nat × Nat) (s : State) : Host.Outcome State Fault Refusal :=
  plain (descOf i)
    (fun s => let r := g s; .ok (.done ((s.wx d (BitVec.ofNat 64 r.1)).upd fun f => f.orFlags (BitVec.ofNat 64 r.2)))) s

/-- A condition as a result. -/
def flag (b : Bool) : Word := if b then 1 else 0

/-- Leading zero bits (R124). -/
def clz64 (a : Word) : Nat := 64 - bitLen a.toNat

/-- Trailing zero bits (R124). -/
def ctz64 (a : Word) : Nat := if a = 0 then 64 else (a &&& -a).toNat.log2

/-- One bits of the n low bits of a number. -/
def popBits : Nat → Nat → Nat
  | 0, _ => 0
  | n + 1, v => v % 2 + popBits n (v / 2)

/-- Rotation left (R124). -/
def rotl64 (a : Word) (n : Nat) : Word := (a <<< n) ||| (a >>> (64 - n))

/-- A shift amount: bits 5 to 0 (R124). -/
def sh6 (b : Word) : Nat := bits b 5 0

/-! ## Major 0x01 -/

/-- ADD (R124): the sum. -/
def execAdd (d a b : BitVec 6) (s : State) : Host.Outcome State Fault Refusal :=
  intOp (.add d a b) d (fun s => let a := s.rx a; let b := s.rx b; a + b) s

/-- SUB (R124): the difference. -/
def execSub (d a b : BitVec 6) (s : State) : Host.Outcome State Fault Refusal :=
  intOp (.sub d a b) d (fun s => let a := s.rx a; let b := s.rx b; a - b) s

/-- AND (R124): AND. -/
def execAnd (d a b : BitVec 6) (s : State) : Host.Outcome State Fault Refusal :=
  intOp (.and d a b) d (fun s => let a := s.rx a; let b := s.rx b; a &&& b) s

/-- OR (R124): OR. -/
def execOr (d a b : BitVec 6) (s : State) : Host.Outcome State Fault Refusal :=
  intOp (.or d a b) d (fun s => let a := s.rx a; let b := s.rx b; a ||| b) s

/-- XOR (R124): XOR. -/
def execXor (d a b : BitVec 6) (s : State) : Host.Outcome State Fault Refusal :=
  intOp (.xor d a b) d (fun s => let a := s.rx a; let b := s.rx b; a ^^^ b) s

/-- ANDN (R124): AND NOT. -/
def execAndn (d a b : BitVec 6) (s : State) : Host.Outcome State Fault Refusal :=
  intOp (.andn d a b) d (fun s => let a := s.rx a; let b := s.rx b; a &&& ~~~b) s

/-- SLL (R124): shift left. -/
def execSll (d a b : BitVec 6) (s : State) : Host.Outcome State Fault Refusal :=
  intOp (.sll d a b) d (fun s => let a := s.rx a; let b := s.rx b; a <<< sh6 b) s

/-- SRL (R124): shift right, zeros in. -/
def execSrl (d a b : BitVec 6) (s : State) : Host.Outcome State Fault Refusal :=
  intOp (.srl d a b) d (fun s => let a := s.rx a; let b := s.rx b; a >>> sh6 b) s

/-- SRA (R124): shift right, copies of bit 63 in. -/
def execSra (d a b : BitVec 6) (s : State) : Host.Outcome State Fault Refusal :=
  intOp (.sra d a b) d (fun s => let a := s.rx a; let b := s.rx b; a.sshiftRight (sh6 b)) s

/-- SLT (R124): 1 if less, signed. -/
def execSlt (d a b : BitVec 6) (s : State) : Host.Outcome State Fault Refusal :=
  intOp (.slt d a b) d (fun s => let a := s.rx a; let b := s.rx b; flag (a.slt b)) s

/-- SLTU (R124): 1 if less, unsigned. -/
def execSltu (d a b : BitVec 6) (s : State) : Host.Outcome State Fault Refusal :=
  intOp (.sltu d a b) d (fun s => let a := s.rx a; let b := s.rx b; flag (a.ult b)) s

/-- MIN (R124): the smaller, signed. -/
def execMin (d a b : BitVec 6) (s : State) : Host.Outcome State Fault Refusal :=
  intOp (.min d a b) d (fun s => let a := s.rx a; let b := s.rx b; if a.slt b then a else b) s

/-- MAX (R124): the larger, signed. -/
def execMax (d a b : BitVec 6) (s : State) : Host.Outcome State Fault Refusal :=
  intOp (.max d a b) d (fun s => let a := s.rx a; let b := s.rx b; if a.slt b then b else a) s

/-- MINU (R124): the smaller, unsigned. -/
def execMinu (d a b : BitVec 6) (s : State) : Host.Outcome State Fault Refusal :=
  intOp (.minu d a b) d (fun s => let a := s.rx a; let b := s.rx b; if a.ult b then a else b) s

/-- MAXU (R124): the larger, unsigned. -/
def execMaxu (d a b : BitVec 6) (s : State) : Host.Outcome State Fault Refusal :=
  intOp (.maxu d a b) d (fun s => let a := s.rx a; let b := s.rx b; if a.ult b then b else a) s

/-- CLZ (R124): leading zero bits. -/
def execClz (d a : BitVec 6) (s : State) : Host.Outcome State Fault Refusal :=
  intOp (.clz d a) d (fun s => let a := s.rx a; BitVec.ofNat 64 (clz64 a)) s

/-- CTZ (R124): trailing zero bits. -/
def execCtz (d a : BitVec 6) (s : State) : Host.Outcome State Fault Refusal :=
  intOp (.ctz d a) d (fun s => let a := s.rx a; BitVec.ofNat 64 (ctz64 a)) s

/-- POPC (R124): one bits. -/
def execPopc (d a : BitVec 6) (s : State) : Host.Outcome State Fault Refusal :=
  intOp (.popc d a) d (fun s => let a := s.rx a; BitVec.ofNat 64 (popBits 64 a.toNat)) s

/-- ROL (R124): rotated left. -/
def execRol (d a b : BitVec 6) (s : State) : Host.Outcome State Fault Refusal :=
  intOp (.rol d a b) d (fun s => let a := s.rx a; let b := s.rx b; rotl64 a (sh6 b)) s

/-- ROR (R124): rotated right. -/
def execRor (d a b : BitVec 6) (s : State) : Host.Outcome State Fault Refusal :=
  intOp (.ror d a b) d (fun s => let a := s.rx a; let b := s.rx b; rotl64 a ((64 - sh6 b) % 64)) s

/-! ## Majors 0x02 to 0x05 -/

/-- ADDI (R125): the sum with a sign-extended immediate. -/
def execAddi (d a : BitVec 6) (i : BitVec 13) (s : State) : Host.Outcome State Fault Refusal :=
  intOp (.addi d a i) d (fun s => s.rx a + i.signExtend 64) s

/-- ANDI (R126): AND with a sign-extended immediate. -/
def execAndi (d a : BitVec 6) (i : BitVec 10) (s : State) : Host.Outcome State Fault Refusal :=
  intOp (.andi d a i) d (fun s => s.rx a &&& i.signExtend 64) s

/-- ORI (R126): OR with a sign-extended immediate. -/
def execOri (d a : BitVec 6) (i : BitVec 10) (s : State) : Host.Outcome State Fault Refusal :=
  intOp (.ori d a i) d (fun s => s.rx a ||| i.signExtend 64) s

/-- XORI (R126): XOR with a sign-extended immediate. -/
def execXori (d a : BitVec 6) (i : BitVec 10) (s : State) : Host.Outcome State Fault Refusal :=
  intOp (.xori d a i) d (fun s => s.rx a ^^^ i.signExtend 64) s

/-- SLLI (R126): shift left by an amount. -/
def execSlli (d a n : BitVec 6) (s : State) : Host.Outcome State Fault Refusal :=
  intOp (.slli d a n) d (fun s => s.rx a <<< n.toNat) s

/-- SRLI (R126): logical shift right by an amount. -/
def execSrli (d a n : BitVec 6) (s : State) : Host.Outcome State Fault Refusal :=
  intOp (.srli d a n) d (fun s => s.rx a >>> n.toNat) s

/-- SRAI (R126): arithmetic shift right by an amount. -/
def execSrai (d a n : BitVec 6) (s : State) : Host.Outcome State Fault Refusal :=
  intOp (.srai d a n) d (fun s => (s.rx a).sshiftRight n.toNat) s

/-- SLTI (R126): 1 if less, signed. -/
def execSlti (d a : BitVec 6) (i : BitVec 10) (s : State) : Host.Outcome State Fault Refusal :=
  intOp (.slti d a i) d (fun s => flag ((s.rx a).slt (i.signExtend 64))) s

/-- SLTIU (R126): 1 if less, unsigned. -/
def execSltiu (d a : BitVec 6) (i : BitVec 10) (s : State) : Host.Outcome State Fault Refusal :=
  intOp (.sltiu d a i) d (fun s => flag ((s.rx a).ult (i.signExtend 64))) s

/-- LUI (R26, R127): the immediate times 2^13. -/
def execLui (d : BitVec 6) (i : BitVec 19) (s : State) : Host.Outcome State Fault Refusal :=
  intOp (.lui d i) d (fun _ => i.signExtend 64 <<< 13) s

/-- ADRP (R26, R127): the 8 KiB page of the pc plus the immediate times 2^13. -/
def execAdrp (d : BitVec 6) (i : BitVec 19) (s : State) : Host.Outcome State Fault Refusal :=
  intOp (.adrp d i) d (fun s => setBits s.fir.pc 12 0 0 + i.signExtend 64 <<< 13) s

/-! ## Multiply and divide -/

/-- MUL (R128): low 64 bits of the product. -/
def execMul (d a b : BitVec 6) (s : State) : Host.Outcome State Fault Refusal :=
  intOp (.mul d a b) d (fun s => let a := s.rx a; let b := s.rx b; a * b) s

/-- MULH (R128): high 64 bits, signed. -/
def execMulh (d a b : BitVec 6) (s : State) : Host.Outcome State Fault Refusal :=
  intOp (.mulh d a b) d (fun s => let a := s.rx a; let b := s.rx b; ofInt (sInt a * sInt b / 2 ^ 64)) s

/-- MULHU (R128): high 64 bits, unsigned. -/
def execMulhu (d a b : BitVec 6) (s : State) : Host.Outcome State Fault Refusal :=
  intOp (.mulhu d a b) d (fun s => let a := s.rx a; let b := s.rx b; BitVec.ofNat 64 (a.toNat * b.toNat / 2 ^ 64)) s

/-- MULHSU (R128): high 64 bits, signed by unsigned. -/
def execMulhsu (d a b : BitVec 6) (s : State) : Host.Outcome State Fault Refusal :=
  intOp (.mulhsu d a b) d (fun s => let a := s.rx a; let b := s.rx b; ofInt (sInt a * (b.toNat : Int) / 2 ^ 64)) s

/-- DIV (R128): signed quotient toward zero; -1 by zero. -/
def execDiv (d a b : BitVec 6) (s : State) : Host.Outcome State Fault Refusal :=
  intOp (.div d a b) d (fun s => let a := s.rx a; let b := s.rx b; if b = 0 then BitVec.allOnes 64 else ofInt ((sInt a).tdiv (sInt b))) s

/-- DIVU (R128): unsigned quotient; all ones by zero. -/
def execDivu (d a b : BitVec 6) (s : State) : Host.Outcome State Fault Refusal :=
  intOp (.divu d a b) d (fun s => let a := s.rx a; let b := s.rx b; if b = 0 then BitVec.allOnes 64 else BitVec.ofNat 64 (a.toNat / b.toNat)) s

/-- REM (R128): signed remainder; the dividend by zero. -/
def execRem (d a b : BitVec 6) (s : State) : Host.Outcome State Fault Refusal :=
  intOp (.rem d a b) d (fun s => let a := s.rx a; let b := s.rx b; if b = 0 then a else ofInt ((sInt a).tmod (sInt b))) s

/-- REMU (R128): unsigned remainder; the dividend by zero. -/
def execRemu (d a b : BitVec 6) (s : State) : Host.Outcome State Fault Refusal :=
  intOp (.remu d a b) d (fun s => let a := s.rx a; let b := s.rx b; if b = 0 then a else BitVec.ofNat 64 (a.toNat % b.toNat)) s

/-! ## MOVX -/

/-- The register index of a MOVX, or REGRANGE with the signed index (R129). -/
def movxIdx (s : State) (a : BitVec 6) (i : BitVec 10) : Except Stop Nat :=
  let idx := sInt (s.rx a) + i.toInt
  if idx < 0 || (s.fir.dem.xregs : Int) ≤ idx then raise .regrange (ofInt idx) else .ok idx.toNat

/-- MOVX_READ (R129): the register at an index. -/
def execMovxRead (d a : BitVec 6) (i : BitVec 10) (s : State) : Host.Outcome State Fault Refusal :=
  plain (descOf (.movxRead d a i)) (fun s => do
    let n ← movxIdx s a i
    .ok (.done (s.wx d (s.fir.rxn n)))) s

/-- MOVX_WRITE (R129): the register at an index written. -/
def execMovxWrite (a : BitVec 6) (i : BitVec 10) (b : BitVec 6) (s : State) : Host.Outcome State Fault Refusal :=
  plain (descOf (.movxWrite a i b)) (fun s => do
    let n ← movxIdx s a i
    .ok (.done (s.wx (BitVec.ofNat 6 n) (s.rx b)))) s

/-! ## Scalar float -/

/-- FADD (R132): the exact result rounded once. -/
def execFadd (t : FT) (m : RM) (d a b : BitVec 6) (s : State) : Host.Outcome State Fault Refusal :=
  floatOp (.fadd t m d a b) d (fun s => fAdd (ftFmt t) (s.fir.rnd m false 0) (s.rx a).toNat (s.rx b).toNat) s

/-- FSUB (R132): the exact result rounded once. -/
def execFsub (t : FT) (m : RM) (d a b : BitVec 6) (s : State) : Host.Outcome State Fault Refusal :=
  floatOp (.fsub t m d a b) d (fun s => fSub (ftFmt t) (s.fir.rnd m false 0) (s.rx a).toNat (s.rx b).toNat) s

/-- FMUL (R132): the exact result rounded once. -/
def execFmul (t : FT) (m : RM) (d a b : BitVec 6) (s : State) : Host.Outcome State Fault Refusal :=
  floatOp (.fmul t m d a b) d (fun s => fMul (ftFmt t) (s.fir.rnd m false 0) (s.rx a).toNat (s.rx b).toNat) s

/-- FDIV (R132): the exact result rounded once. -/
def execFdiv (t : FT) (m : RM) (d a b : BitVec 6) (s : State) : Host.Outcome State Fault Refusal :=
  floatOp (.fdiv t m d a b) d (fun s => fDiv (ftFmt t) (s.fir.rnd m false 0) (s.rx a).toNat (s.rx b).toNat) s

/-- FSQRT (R65, R132): the square root rounded once. -/
def execFsqrt (t : FT) (m : RM) (d a : BitVec 6) (s : State) : Host.Outcome State Fault Refusal :=
  floatOp (.fsqrt t m d a) d (fun s => fSqrt (ftFmt t) (s.fir.rnd m false 0) (s.rx a).toNat) s

/-- A converted value as FCVT writes it: i32 sign-extended (R134). -/
def fcvtWrite (t : XT) (v : Nat) : Nat := if t = .i32 then (extend true 4 v).toNat else v

/-- FCVT (R134): one conversion. -/
def execFcvt (m : RM) (z : Bool) (d a : BitVec 6) (t u : XT) (s : State) : Host.Outcome State Fault Refusal :=
  floatOp (.fcvt m z d a t u) d (fun s =>
    let r := convert (xtNum t) (xtNum u) (s.fir.rnd m z 0) (s.rx a).toNat 0
    (fcvtWrite t r.1, r.2)) s

/-- FMIN (R62, R133). -/
def execFmin (t : FT) (d a b : BitVec 6) (s : State) : Host.Outcome State Fault Refusal :=
  floatOp (.fmin t d a b) d (fun s => fMinMax (ftFmt t) false (s.rx a).toNat (s.rx b).toNat) s

/-- FMAX (R62, R133). -/
def execFmax (t : FT) (d a b : BitVec 6) (s : State) : Host.Outcome State Fault Refusal :=
  floatOp (.fmax t d a b) d (fun s => fMinMax (ftFmt t) true (s.rx a).toNat (s.rx b).toNat) s

/-- The sign bit of a pattern. -/
def signOf (F : Fmt) (w : Nat) : Bool := w / 2 ^ (F.ew + F.fw) % 2 == 1

/-- A magnitude with a given sign. -/
def withSign (F : Fmt) (w : Nat) (neg : Bool) : Nat := F.signed neg (w % 2 ^ (F.ew + F.fw))

/-- FSGNJ (R133): the magnitude with the sign of the second. -/
def execFsgnj (t : FT) (d a b : BitVec 6) (s : State) : Host.Outcome State Fault Refusal :=
  floatOp (.fsgnj t d a b) d (fun s =>
    let x := (s.rx a).toNat; let y := (s.rx b).toNat; (withSign (ftFmt t) x (signOf (ftFmt t) y), 0)) s

/-- FSGNJN (R133): the magnitude with the inverted sign of the second. -/
def execFsgnjn (t : FT) (d a b : BitVec 6) (s : State) : Host.Outcome State Fault Refusal :=
  floatOp (.fsgnjn t d a b) d (fun s =>
    let x := (s.rx a).toNat; let y := (s.rx b).toNat; (withSign (ftFmt t) x (!signOf (ftFmt t) y), 0)) s

/-- FSGNJX (R133): the magnitude with the XOR of the signs. -/
def execFsgnjx (t : FT) (d a b : BitVec 6) (s : State) : Host.Outcome State Fault Refusal :=
  floatOp (.fsgnjx t d a b) d (fun s =>
    let x := (s.rx a).toNat; let y := (s.rx b).toNat; (withSign (ftFmt t) x (signOf (ftFmt t) x != signOf (ftFmt t) y), 0)) s

/-- FEQ (R62, R133). -/
def execFeq (t : FT) (d a b : BitVec 6) (s : State) : Host.Outcome State Fault Refusal :=
  floatOp (.feq t d a b) d (fun s =>
    let x := (s.rx a).toNat; let y := (s.rx b).toNat; ((fEq (ftFmt t) x y).toNat, snanFlag (ftFmt t) [x, y])) s

/-- FLT (R62, R133). -/
def execFlt (t : FT) (d a b : BitVec 6) (s : State) : Host.Outcome State Fault Refusal :=
  floatOp (.flt t d a b) d (fun s =>
    let x := (s.rx a).toNat; let y := (s.rx b).toNat; ((fLt (ftFmt t) x y).toNat, snanFlag (ftFmt t) [x, y])) s

/-- FLE (R62, R133). -/
def execFle (t : FT) (d a b : BitVec 6) (s : State) : Host.Outcome State Fault Refusal :=
  floatOp (.fle t d a b) d (fun s =>
    let x := (s.rx a).toNat; let y := (s.rx b).toNat; ((fLt (ftFmt t) x y || fEq (ftFmt t) x y).toNat, snanFlag (ftFmt t) [x, y])) s

/-- FCLASS (R135). -/
def execFclass (t : FT) (d a : BitVec 6) (s : State) : Host.Outcome State Fault Refusal :=
  floatOp (.fclass t d a) d (fun s => (fClass (ftFmt t) (s.rx a).toNat, 0)) s

/-- FMADD (R136): the addend is the destination. -/
def execFmadd (t : FT) (m : RM) (d a b : BitVec 6) (s : State) : Host.Outcome State Fault Refusal :=
  floatOp (.fmadd t m d a b) d (fun s =>
    fFma (ftFmt t) (s.fir.rnd m false 0) false false (s.rx a).toNat (s.rx b).toNat (s.rx d).toNat) s

/-- FMSUB (R136): the addend is the destination. -/
def execFmsub (t : FT) (m : RM) (d a b : BitVec 6) (s : State) : Host.Outcome State Fault Refusal :=
  floatOp (.fmsub t m d a b) d (fun s =>
    fFma (ftFmt t) (s.fir.rnd m false 0) false true (s.rx a).toNat (s.rx b).toNat (s.rx d).toNat) s

/-- FNMADD (R136): the addend is the destination. -/
def execFnmadd (t : FT) (m : RM) (d a b : BitVec 6) (s : State) : Host.Outcome State Fault Refusal :=
  floatOp (.fnmadd t m d a b) d (fun s =>
    fFma (ftFmt t) (s.fir.rnd m false 0) true true (s.rx a).toNat (s.rx b).toNat (s.rx d).toNat) s

/-- FNMSUB (R136): the addend is the destination. -/
def execFnmsub (t : FT) (m : RM) (d a b : BitVec 6) (s : State) : Host.Outcome State Fault Refusal :=
  floatOp (.fnmsub t m d a b) d (fun s =>
    fFma (ftFmt t) (s.fir.rnd m false 0) true false (s.rx a).toNat (s.rx b).toNat (s.rx d).toNat) s

/-- SEL (R137): the second source if the first is not 0, else the third. -/
def execSel (d a b c : BitVec 6) (s : State) : Host.Outcome State Fault Refusal :=
  intOp (.sel d a b c) d (fun s => if s.rx a ≠ 0 then s.rx b else s.rx c) s

end Sys2Proof.Machine
end

