-- ==== Sys2Proof/Machine/Vector.lean ====
section
/-! DEFINITION. Vector instructions and the format prefix (R273 to R292). -/

namespace Sys2Proof.Machine

/-! ## Elements under a mask -/

/-- Every element of width w: an active one becomes g of its number, an inactive one stays (R21, R273); flags of all that take part. -/
def vmap (w : Nat) (k : Word) (old : Vec) (g : Nat → Nat × Nat) : Vec × Nat :=
  let rs := (List.range (2048 / w)).map fun e => if bit k (e * w / 32) then g e else (elem old w e, 0)
  (pack 2048 w (rs.map (·.1)), rs.foldl (fun a r => orF a r.2) 0)

/-- A vector register written with an instruction's result, and its flags to fflags. -/
def State.vres (s : State) (d : BitVec 5) (r : Vec × Nat) : State := (s.wv d r.1).upd fun f => f.orFlags (BitVec.ofNat 64 r.2)

/-- An element-wise instruction: element e of vd becomes g of the state and e. -/
def vecOp (i : Instr) (w : Nat) (d : BitVec 5) (k : BitVec 3) (g : State → Nat → Nat × Nat) (s : State) :
    Host.Outcome State Fault Refusal :=
  plain (descOf i) (fun s => .ok (.done (s.vres d (vmap w (s.fir.rk k) (s.fir.rv d) (g s))))) s

/-- Element e of a vector register. -/
def State.ve (s : State) (w : Nat) (n : BitVec 5) (e : Nat) : Nat := elem (s.fir.rv n) w e

/-- How element e of a vector instruction without a rounding field rounds (R274). -/
def State.vr (s : State) (e : Nat) : Rnd := s.fir.rnd .dyn false e

/-! ## Float arithmetic (R276 to R279) -/

/-- VADD (R276): the sum. -/
def execVadd (y : VF) (d a b : BitVec 5) (k : BitVec 3) (s : State) : Host.Outcome State Fault Refusal :=
  let F := vfFmt y
  vecOp (.vadd y d a b k) F.width d k (fun s e => let x := s.ve F.width a e; let y := s.ve F.width b e; fAdd F (s.vr e) x y) s

/-- VSUB (R276): the difference. -/
def execVsub (y : VF) (d a b : BitVec 5) (k : BitVec 3) (s : State) : Host.Outcome State Fault Refusal :=
  let F := vfFmt y
  vecOp (.vsub y d a b k) F.width d k (fun s e => let x := s.ve F.width a e; let y := s.ve F.width b e; fSub F (s.vr e) x y) s

/-- VMUL (R276): the product. -/
def execVmul (y : VF) (d a b : BitVec 5) (k : BitVec 3) (s : State) : Host.Outcome State Fault Refusal :=
  let F := vfFmt y
  vecOp (.vmul y d a b k) F.width d k (fun s e => let x := s.ve F.width a e; let y := s.ve F.width b e; fMul F (s.vr e) x y) s

/-- VDIV (R276): the quotient. -/
def execVdiv (y : VF) (d a b : BitVec 5) (k : BitVec 3) (s : State) : Host.Outcome State Fault Refusal :=
  let F := vfFmt y
  vecOp (.vdiv y d a b k) F.width d k (fun s e => let x := s.ve F.width a e; let y := s.ve F.width b e; fDiv F (s.vr e) x y) s

/-- VMIN (R276): the smaller (R62). -/
def execVmin (y : VF) (d a b : BitVec 5) (k : BitVec 3) (s : State) : Host.Outcome State Fault Refusal :=
  let F := vfFmt y
  vecOp (.vmin y d a b k) F.width d k (fun s e => let x := s.ve F.width a e; let y := s.ve F.width b e; fMinMax F false x y) s

/-- VMAX (R276): the larger (R62). -/
def execVmax (y : VF) (d a b : BitVec 5) (k : BitVec 3) (s : State) : Host.Outcome State Fault Refusal :=
  let F := vfFmt y
  vecOp (.vmax y d a b k) F.width d k (fun s e => let x := s.ve F.width a e; let y := s.ve F.width b e; fMinMax F true x y) s

/-- VABS (R276): the sign bit cleared. -/
def execVabs (y : VF) (d a : BitVec 5) (k : BitVec 3) (s : State) : Host.Outcome State Fault Refusal :=
  let F := vfFmt y
  vecOp (.vabs y d a k) F.width d k (fun s e => let x := s.ve F.width a e; (x % 2 ^ (F.width - 1), 0)) s

/-- VNEG (R276): the sign bit inverted. -/
def execVneg (y : VF) (d a : BitVec 5) (k : BitVec 3) (s : State) : Host.Outcome State Fault Refusal :=
  let F := vfFmt y
  vecOp (.vneg y d a k) F.width d k (fun s e => let x := s.ve F.width a e; (fNeg F x, 0)) s

/-- VSGNJ (R276): the magnitude of the first with the sign of the second. -/
def execVsgnj (y : VF) (d a b : BitVec 5) (k : BitVec 3) (s : State) : Host.Outcome State Fault Refusal :=
  let F := vfFmt y
  vecOp (.vsgnj y d a b k) F.width d k (fun s e => let x := s.ve F.width a e; let y := s.ve F.width b e; (withSign F x (signOf F y), 0)) s

/-- VFMADD (R277): a × b + c, rounded once. -/
def execVfmadd (d a b c : BitVec 5) (k : BitVec 3) (s : State) : Host.Outcome State Fault Refusal :=
  vecOp (.vfmadd d a b c k) 32 d k (fun s e => fFma f32 (s.vr e) false false (s.ve 32 a e) (s.ve 32 b e) (s.ve 32 c e)) s

/-- VFMSUB (R277): a × b − c, rounded once. -/
def execVfmsub (d a b c : BitVec 5) (k : BitVec 3) (s : State) : Host.Outcome State Fault Refusal :=
  vecOp (.vfmsub d a b c k) 32 d k (fun s e => fFma f32 (s.vr e) false true (s.ve 32 a e) (s.ve 32 b e) (s.ve 32 c e)) s

/-- VFNMADD (R277): −(a × b) − c, rounded once. -/
def execVfnmadd (d a b c : BitVec 5) (k : BitVec 3) (s : State) : Host.Outcome State Fault Refusal :=
  vecOp (.vfnmadd d a b c k) 32 d k (fun s e => fFma f32 (s.vr e) true true (s.ve 32 a e) (s.ve 32 b e) (s.ve 32 c e)) s

/-- VFNMSUB (R277): −(a × b) + c, rounded once. -/
def execVfnmsub (d a b c : BitVec 5) (k : BitVec 3) (s : State) : Host.Outcome State Fault Refusal :=
  vecOp (.vfnmsub d a b c k) 32 d k (fun s e => fFma f32 (s.vr e) true false (s.ve 32 a e) (s.ve 32 b e) (s.ve 32 c e)) s

/-- VADDX (R278): the sum of the element and the low bits of a scalar register. -/
def execVaddx (y : VF) (d b : BitVec 5) (x : BitVec 6) (k : BitVec 3) (s : State) : Host.Outcome State Fault Refusal :=
  let F := vfFmt y
  vecOp (.vaddx y d b x k) F.width d k (fun s e => let v := s.ve F.width b e; let x := (s.rx x).toNat % 2 ^ F.width; fAdd F (s.vr e) v x) s

/-- VSUBX (R278): the difference of the element and the low bits of a scalar register. -/
def execVsubx (y : VF) (d b : BitVec 5) (x : BitVec 6) (k : BitVec 3) (s : State) : Host.Outcome State Fault Refusal :=
  let F := vfFmt y
  vecOp (.vsubx y d b x k) F.width d k (fun s e => let v := s.ve F.width b e; let x := (s.rx x).toNat % 2 ^ F.width; fSub F (s.vr e) v x) s

/-- VMULX (R278): the product of the element and the low bits of a scalar register. -/
def execVmulx (y : VF) (d b : BitVec 5) (x : BitVec 6) (k : BitVec 3) (s : State) : Host.Outcome State Fault Refusal :=
  let F := vfFmt y
  vecOp (.vmulx y d b x k) F.width d k (fun s e => let v := s.ve F.width b e; let x := (s.rx x).toNat % 2 ^ F.width; fMul F (s.vr e) v x) s

/-- VDIVX (R278): the quotient of the element and the low bits of a scalar register. -/
def execVdivx (y : VF) (d b : BitVec 5) (x : BitVec 6) (k : BitVec 3) (s : State) : Host.Outcome State Fault Refusal :=
  let F := vfFmt y
  vecOp (.vdivx y d b x k) F.width d k (fun s e => let v := s.ve F.width b e; let x := (s.rx x).toNat % 2 ^ F.width; fDiv F (s.vr e) v x) s

/-- VMINX (R278): the smaller of the element and the low bits of a scalar register. -/
def execVminx (y : VF) (d b : BitVec 5) (x : BitVec 6) (k : BitVec 3) (s : State) : Host.Outcome State Fault Refusal :=
  let F := vfFmt y
  vecOp (.vminx y d b x k) F.width d k (fun s e => let v := s.ve F.width b e; let x := (s.rx x).toNat % 2 ^ F.width; fMinMax F false v x) s

/-- VMAXX (R278): the larger of the element and the low bits of a scalar register. -/
def execVmaxx (y : VF) (d b : BitVec 5) (x : BitVec 6) (k : BitVec 3) (s : State) : Host.Outcome State Fault Refusal :=
  let F := vfFmt y
  vecOp (.vmaxx y d b x k) F.width d k (fun s e => let v := s.ve F.width b e; let x := (s.rx x).toNat % 2 ^ F.width; fMinMax F true v x) s

/-- VEXP (R65, R279): e^a. -/
def execVexp (d a : BitVec 5) (k : BitVec 3) (s : State) : Host.Outcome State Fault Refusal :=
  vecOp (.vexp d a k) 32 d k (fun s e => fExp f32 (s.ve 32 a e)) s

/-- VLOG (R65, R279): ln a. -/
def execVlog (d a : BitVec 5) (k : BitVec 3) (s : State) : Host.Outcome State Fault Refusal :=
  vecOp (.vlog d a k) 32 d k (fun s e => fLog f32 (s.ve 32 a e)) s

/-- VRCP (R65, R279): 1/a. -/
def execVrcp (d a : BitVec 5) (k : BitVec 3) (s : State) : Host.Outcome State Fault Refusal :=
  vecOp (.vrcp d a k) 32 d k (fun s e => fRcp f32 (s.ve 32 a e)) s

/-- VRSQRT (R65, R279): 1/√a. -/
def execVrsqrt (d a : BitVec 5) (k : BitVec 3) (s : State) : Host.Outcome State Fault Refusal :=
  vecOp (.vrsqrt d a k) 32 d k (fun s e => fRsqrt f32 (s.ve 32 a e)) s

/-- VTANH (R65, R279): tanh a. -/
def execVtanh (d a : BitVec 5) (k : BitVec 3) (s : State) : Host.Outcome State Fault Refusal :=
  vecOp (.vtanh d a k) 32 d k (fun s e => fTanh f32 (s.ve 32 a e)) s

/-- VSQRT (R65, R279): √a, in the mode of frm. -/
def execVsqrt (d a : BitVec 5) (k : BitVec 3) (s : State) : Host.Outcome State Fault Refusal :=
  vecOp (.vsqrt d a k) 32 d k (fun s e => fSqrt f32 (s.vr e) (s.ve 32 a e)) s

/-! ## Integer arithmetic (R280, R281) -/

/-- Bits of an element width. -/
def iwBits : IW → Nat
  | .w32 => 32
  | .w16 => 16
  | .w8 => 8
  | .w64 => 64

/-- Element e of vs1 and vs2 combined; integer operations set no flag (R52). -/
def vint3 (i : Instr) (w : IW) (d a b : BitVec 5) (k : BitVec 3) (g : Nat → Nat → Nat → Nat) (s : State) :
    Host.Outcome State Fault Refusal :=
  let n := iwBits w
  vecOp i n d k (fun s e => (g n (s.ve n a e) (s.ve n b e), 0)) s

/-- Element e of vs and the low n bits of xs combined (R281). -/
def vintx (i : Instr) (w : IW) (d b : BitVec 5) (x : BitVec 6) (k : BitVec 3) (g : Nat → Nat → Nat → Nat) (s : State) :
    Host.Outcome State Fault Refusal :=
  let n := iwBits w
  vecOp i n d k (fun s e => (g n (s.ve n b e) ((s.rx x).toNat % 2 ^ n), 0)) s

/-- Sum mod 2^n. -/
def iAdd (n a b : Nat) : Nat := (a + b) % 2 ^ n
/-- Difference mod 2^n. -/
def iSub (n a b : Nat) : Nat := toBits n ((a : Int) - b)
/-- Low n bits of the product. -/
def iMul (n a b : Nat) : Nat := a * b % 2 ^ n
/-- High n bits of the product, signed or not. -/
def iMulh (sg : Bool) (n a b : Nat) : Nat := toBits n (intOf sg n a * intOf sg n b / 2 ^ n)
/-- Left shift. -/
def iSll (n a b : Nat) : Nat := a * 2 ^ (b % n) % 2 ^ n
/-- Logical right shift. -/
def iSrl (n a b : Nat) : Nat := a / 2 ^ (b % n)
/-- Arithmetic right shift. -/
def iSra (n a b : Nat) : Nat := toBits n (intOf true n a / 2 ^ (b % n))
/-- The smaller. -/
def iMin (sg : Bool) (n a b : Nat) : Nat := if intOf sg n b < intOf sg n a then b else a
/-- The larger. -/
def iMax (sg : Bool) (n a b : Nat) : Nat := if intOf sg n a < intOf sg n b then b else a
/-- Sum clamped to the type's range. -/
def iAddSat (sg : Bool) (n a b : Nat) : Nat := toBits n (clampInt sg n (intOf sg n a + intOf sg n b))
/-- Difference clamped to the type's range. -/
def iSubSat (sg : Bool) (n a b : Nat) : Nat := toBits n (clampInt sg n (intOf sg n a - intOf sg n b))

/-- VIADD (R280): the sum. -/
def execViadd (w : IW) (u : Bool) (d a b : BitVec 5) (k : BitVec 3) (s : State) : Host.Outcome State Fault Refusal :=
  vint3 (.viadd w u d a b k) w d a b k iAdd s

/-- VISUB (R280): the difference. -/
def execVisub (w : IW) (u : Bool) (d a b : BitVec 5) (k : BitVec 3) (s : State) : Host.Outcome State Fault Refusal :=
  vint3 (.visub w u d a b k) w d a b k iSub s

/-- VIMUL (R280): low bits of the product. -/
def execVimul (w : IW) (u : Bool) (d a b : BitVec 5) (k : BitVec 3) (s : State) : Host.Outcome State Fault Refusal :=
  vint3 (.vimul w u d a b k) w d a b k iMul s

/-- VIMULH (R280): high bits of the product. -/
def execVimulh (w : IW) (u : Bool) (d a b : BitVec 5) (k : BitVec 3) (s : State) : Host.Outcome State Fault Refusal :=
  vint3 (.vimulh w u d a b k) w d a b k (iMulh (!u)) s

/-- VIAND (R280): AND. -/
def execViand (w : IW) (u : Bool) (d a b : BitVec 5) (k : BitVec 3) (s : State) : Host.Outcome State Fault Refusal :=
  vint3 (.viand w u d a b k) w d a b k (fun _ a b => a &&& b) s

/-- VIOR (R280): OR. -/
def execVior (w : IW) (u : Bool) (d a b : BitVec 5) (k : BitVec 3) (s : State) : Host.Outcome State Fault Refusal :=
  vint3 (.vior w u d a b k) w d a b k (fun _ a b => a ||| b) s

/-- VIXOR (R280): XOR. -/
def execVixor (w : IW) (u : Bool) (d a b : BitVec 5) (k : BitVec 3) (s : State) : Host.Outcome State Fault Refusal :=
  vint3 (.vixor w u d a b k) w d a b k (fun _ a b => a ^^^ b) s

/-- VISLL (R280): left shift. -/
def execVisll (w : IW) (u : Bool) (d a b : BitVec 5) (k : BitVec 3) (s : State) : Host.Outcome State Fault Refusal :=
  vint3 (.visll w u d a b k) w d a b k iSll s

/-- VISRL (R280): logical right shift. -/
def execVisrl (w : IW) (u : Bool) (d a b : BitVec 5) (k : BitVec 3) (s : State) : Host.Outcome State Fault Refusal :=
  vint3 (.visrl w u d a b k) w d a b k iSrl s

/-- VISRA (R280): arithmetic right shift. -/
def execVisra (w : IW) (u : Bool) (d a b : BitVec 5) (k : BitVec 3) (s : State) : Host.Outcome State Fault Refusal :=
  vint3 (.visra w u d a b k) w d a b k iSra s

/-- VIMIN (R280): the smaller. -/
def execVimin (w : IW) (u : Bool) (d a b : BitVec 5) (k : BitVec 3) (s : State) : Host.Outcome State Fault Refusal :=
  vint3 (.vimin w u d a b k) w d a b k (iMin (!u)) s

/-- VIMAX (R280): the larger. -/
def execVimax (w : IW) (u : Bool) (d a b : BitVec 5) (k : BitVec 3) (s : State) : Host.Outcome State Fault Refusal :=
  vint3 (.vimax w u d a b k) w d a b k (iMax (!u)) s

/-- VIADD.SAT (R280): the sum clamped. -/
def execViaddSat (w : IW) (u : Bool) (d a b : BitVec 5) (k : BitVec 3) (s : State) : Host.Outcome State Fault Refusal :=
  vint3 (.viaddSat w u d a b k) w d a b k (iAddSat (!u)) s

/-- VISUB.SAT (R280): the difference clamped. -/
def execVisubSat (w : IW) (u : Bool) (d a b : BitVec 5) (k : BitVec 3) (s : State) : Host.Outcome State Fault Refusal :=
  vint3 (.visubSat w u d a b k) w d a b k (iSubSat (!u)) s

/-- VIPOPC (R280): one bits. -/
def execVipopc (w : IW) (u : Bool) (d a : BitVec 5) (k : BitVec 3) (s : State) : Host.Outcome State Fault Refusal :=
  let n := iwBits w
  vecOp (.vipopc w u d a k) n d k (fun s e => (popBits n (s.ve n a e), 0)) s

/-- VIADDX (R281): the sum. -/
def execViaddx (w : IW) (d b : BitVec 5) (x : BitVec 6) (k : BitVec 3) (s : State) : Host.Outcome State Fault Refusal :=
  vintx (.viaddx w d b x k) w d b x k iAdd s

/-- VISUBX (R281): the difference. -/
def execVisubx (w : IW) (d b : BitVec 5) (x : BitVec 6) (k : BitVec 3) (s : State) : Host.Outcome State Fault Refusal :=
  vintx (.visubx w d b x k) w d b x k iSub s

/-- VIMULX (R281): low bits of the product. -/
def execVimulx (w : IW) (d b : BitVec 5) (x : BitVec 6) (k : BitVec 3) (s : State) : Host.Outcome State Fault Refusal :=
  vintx (.vimulx w d b x k) w d b x k iMul s

/-- VIANDX (R281): AND. -/
def execViandx (w : IW) (d b : BitVec 5) (x : BitVec 6) (k : BitVec 3) (s : State) : Host.Outcome State Fault Refusal :=
  vintx (.viandx w d b x k) w d b x k (fun _ a b => a &&& b) s

/-- VIORX (R281): OR. -/
def execViorx (w : IW) (d b : BitVec 5) (x : BitVec 6) (k : BitVec 3) (s : State) : Host.Outcome State Fault Refusal :=
  vintx (.viorx w d b x k) w d b x k (fun _ a b => a ||| b) s

/-- VIXORX (R281): XOR. -/
def execVixorx (w : IW) (d b : BitVec 5) (x : BitVec 6) (k : BitVec 3) (s : State) : Host.Outcome State Fault Refusal :=
  vintx (.vixorx w d b x k) w d b x k (fun _ a b => a ^^^ b) s

/-- VISLLX (R281): left shift. -/
def execVisllx (w : IW) (d b : BitVec 5) (x : BitVec 6) (k : BitVec 3) (s : State) : Host.Outcome State Fault Refusal :=
  vintx (.visllx w d b x k) w d b x k iSll s

/-- VISRLX (R281): logical right shift. -/
def execVisrlx (w : IW) (d b : BitVec 5) (x : BitVec 6) (k : BitVec 3) (s : State) : Host.Outcome State Fault Refusal :=
  vintx (.visrlx w d b x k) w d b x k iSrl s

/-- VISRAX (R281): arithmetic right shift. -/
def execVisrax (w : IW) (d b : BitVec 5) (x : BitVec 6) (k : BitVec 3) (s : State) : Host.Outcome State Fault Refusal :=
  vintx (.visrax w d b x k) w d b x k iSra s

/-! ## Compares and masks (R282, R283) -/

/-- A predicate of two integers. -/
def intPred (p : VPred) (a b : Int) : Bool :=
  match p with
  | .eq => a == b
  | .ne => a != b
  | .lt => decide (a < b)
  | .le => decide (a ≤ b)
  | .gt => decide (b < a)
  | .ge => decide (b ≤ a)

/-- A predicate of two floats: NE holds on a NaN, the others do not (R62, R282). -/
def fltPred (F : Fmt) (p : VPred) (a b : Nat) : Bool :=
  match p with
  | .eq => fEq F a b
  | .ne => !fEq F a b
  | .lt => fLt F a b
  | .le => fLt F a b || fEq F a b
  | .gt => fLt F b a
  | .ge => fLt F b a || fEq F a b

/-- Width and kind of a VCMP type: the bits, and a float format or the sign of an integer. -/
def cmpNum : CmpTy → Nat × NumTy
  | .f32 => (32, .flt Sys2Proof.Machine.f32)
  | .i32 => (32, .int true 32)
  | .n32 => (32, .int false 32)
  | .f64 => (64, .flt Sys2Proof.Machine.f64)
  | .i64 => (64, .int true 64)
  | .n64 => (64, .int false 64)

/-- A compare of two patterns: outcome and flags. -/
def numPred (t : NumTy) (p : VPred) (a b : Nat) : Bool × Nat :=
  match t with
  | .flt F => (fltPred F p a b, snanFlag F [a, b])
  | .int sg n => (intPred p (intOf sg n a) (intOf sg n b), 0)

/-- A mask of 64 bits from their values. -/
def maskOf (g : Nat → Bool) : Word := BitVec.ofNat 64 (packNat 1 ((List.range 64).map fun i => (g i).toNat))

/-- VCMP (R282): inactive elements keep their old bits of kd. -/
def execVcmp (p : VPred) (t : CmpTy) (d : BitVec 3) (a b : BitVec 5) (k : BitVec 3) (s : State) : Host.Outcome State Fault Refusal :=
  plain (descOf (.vcmp p t d a b k)) (fun s =>
    let (w, ty) := cmpNum t
    let m := s.fir.rk k
    let old := s.fir.rk d
    let active (i : Nat) : Bool := bit m (i * 32 / w * w / 32)
    let res (i : Nat) : Bool × Nat := numPred ty p (s.ve w a (i * 32 / w)) (s.ve w b (i * 32 / w))
    let fl := (List.range 64).foldl (fun x i => if active i then orF x (res i).2 else x) 0
    .ok (.done ((s.wk d (maskOf fun i => if active i then (res i).1 else bit old i)).upd fun f =>
      f.orFlags (BitVec.ofNat 64 fl)))) s

/-- A mask operation (R283). -/
def maskOp (i : Instr) (d : BitVec 3) (g : Firing → Word) (s : State) : Host.Outcome State Fault Refusal :=
  plain (descOf i) (fun s => .ok (.done (s.wk d (g s.fir)))) s

/-- KAND (R283). -/
def execKand (d a b : BitVec 3) (s : State) : Host.Outcome State Fault Refusal := maskOp (.kand d a b) d (fun f => f.rk a &&& f.rk b) s

/-- KOR (R283). -/
def execKor (d a b : BitVec 3) (s : State) : Host.Outcome State Fault Refusal := maskOp (.kor d a b) d (fun f => f.rk a ||| f.rk b) s

/-- KXOR (R283). -/
def execKxor (d a b : BitVec 3) (s : State) : Host.Outcome State Fault Refusal := maskOp (.kxor d a b) d (fun f => f.rk a ^^^ f.rk b) s

/-- KNOT (R283). -/
def execKnot (d a : BitVec 3) (s : State) : Host.Outcome State Fault Refusal := maskOp (.knot d a) d (fun f => ~~~f.rk a) s

/-- KMOV (R283). -/
def execKmov (d a : BitVec 3) (s : State) : Host.Outcome State Fault Refusal := maskOp (.kmov d a) d (fun f => f.rk a) s

/-! ## Permutes, slides and moves (R284, R285) -/

/-- VPERM (R284): an index of 64 or more gives 0. -/
def execVperm (d a b : BitVec 5) (k : BitVec 3) (s : State) : Host.Outcome State Fault Refusal :=
  vecOp (.vperm d a b k) 32 d k (fun s i => let j := s.ve 32 b i; (if j < 64 then s.ve 32 a j else 0, 0)) s

/-- VSLIDEUP (R284): lanes below n are unchanged. -/
def execVslideup (d a : BitVec 5) (n : BitVec 6) (k : BitVec 3) (s : State) : Host.Outcome State Fault Refusal :=
  vecOp (.vslideup d a n k) 32 d k (fun s i => (if n.toNat ≤ i then s.ve 32 a (i - n.toNat) else s.ve 32 d i, 0)) s

/-- VSLIDEDN (R284): lanes without a source become 0. -/
def execVslidedn (d a : BitVec 5) (n : BitVec 6) (k : BitVec 3) (s : State) : Host.Outcome State Fault Refusal :=
  vecOp (.vslidedn d a n k) 32 d k (fun s i => (if i + n.toNat < 64 then s.ve 32 a (i + n.toNat) else 0, 0)) s

/-- VCOMPRESS (R284): the active lanes in order, then zeros. -/
def execVcompress (d a : BitVec 5) (k : BitVec 3) (s : State) : Host.Outcome State Fault Refusal :=
  plain (descOf (.vcompress d a k)) (fun s =>
    let m := s.fir.rk k
    .ok (.done (s.wv d (pack 2048 32 (((List.range 64).filter (bit m)).map (s.ve 32 a)))))) s

/-- VMOV (R284). -/
def execVmov (d a : BitVec 5) (k : BitVec 3) (s : State) : Host.Outcome State Fault Refusal :=
  vecOp (.vmov d a k) 32 d k (fun s i => (s.ve 32 a i, 0)) s

/-- VBCAST (R285). -/
def execVbcast (w : IW) (d : BitVec 5) (x : BitVec 6) (k : BitVec 3) (s : State) : Host.Outcome State Fault Refusal :=
  vecOp (.vbcast w d x k) (iwBits w) d k (fun s _ => ((s.rx x).toNat, 0)) s

/-- VINS (R285). -/
def execVins (w : IW) (d : BitVec 5) (x : BitVec 6) (j : BitVec 5) (s : State) : Host.Outcome State Fault Refusal :=
  plain (descOf (.vins w d x j)) (fun s => .ok (.done (s.wv d (setElem (s.fir.rv d) (iwBits w) j.toNat (s.rx x).toNat)))) s

/-- VEXT (R285): sign-extended with U = 1. -/
def execVext (w : IW) (u : Bool) (d : BitVec 6) (v j : BitVec 5) (s : State) : Host.Outcome State Fault Refusal :=
  plain (descOf (.vext w u d v j)) (fun s => .ok (.done (s.wx d (extend u (iwBits w / 8) (s.ve (iwBits w) v j.toNat))))) s

/-- KSET (R285): the low min(X, 64) bits set. -/
def execKset (d : BitVec 3) (x : BitVec 6) (s : State) : Host.Outcome State Fault Refusal :=
  plain (descOf (.kset d x)) (fun s => .ok (.done (s.wk d (BitVec.ofNat 64 (2 ^ (Nat.min (s.rx x).toNat 64) - 1))))) s

/-- KPOPC (R285): the number of one bits. -/
def execKpopc (d : BitVec 6) (q : BitVec 3) (s : State) : Host.Outcome State Fault Refusal :=
  plain (descOf (.kpopc d q)) (fun s => .ok (.done (s.wx d (BitVec.ofNat 64 (popBits 64 (s.fir.rk q).toNat))))) s

/-! ## Reductions (R286, R287) -/

/-- One level of the tree of R64: element i with element i + n / 2, the lower first. -/
def treeLevel (op : Nat → Nat → Nat × Nat) (t : List Nat × Nat) : List Nat × Nat :=
  let h := t.1.length / 2
  let rs := (t.1.take h).zipWith op (t.1.drop h)
  (rs.map (·.1), rs.foldl (fun a r => orF a r.2) t.2)

/-- The tree of R64 over 2^n elements: result and flags. -/
def treeOf (op : Nat → Nat → Nat × Nat) : Nat → List Nat × Nat → Nat × Nat
  | 0, t => (t.1.headD 0, t.2)
  | n + 1, t => treeOf op n (treeLevel op t)

/-- A reduction of a vector under a mask: 0 sum, 1 maximum, 2 minimum, with the identities of R64. -/
def reduce (F : Fmt) (op : Nat) (k : Word) (v : Vec) : Nat × Nat :=
  let w := F.width
  let id := match op with
    | 0 => F.signed true 0
    | 1 => F.signed true F.infBits
    | _ => F.infBits
  let g (a b : Nat) : Nat × Nat := match op with
    | 0 => fAdd F Rnd.rne a b
    | 1 => fMinMax F true a b
    | _ => fMinMax F false a b
  let ts := (List.range (2048 / w)).map fun e => if bit k (e * w / 32) then elem v w e else id
  treeOf g (if w = 32 then 6 else 7) (ts, 0)

/-- A reduction instruction: element 0 of vd, the others unchanged. -/
def redOp (i : Instr) (y : RF) (op : Nat) (d a : BitVec 5) (k : BitVec 3) (s : State) : Host.Outcome State Fault Refusal :=
  let F := rfFmt y
  plain (descOf i) (fun s =>
    let (r, fl) := reduce F op (s.fir.rk k) (s.fir.rv a)
    .ok (.done (s.vres d (setElem (s.fir.rv d) F.width 0 r, fl)))) s

/-- VREDSUM (R286). -/
def execVredsum (y : RF) (d a : BitVec 5) (k : BitVec 3) (s : State) : Host.Outcome State Fault Refusal :=
  redOp (.vredsum y d a k) y 0 d a k s

/-- VREDMAX (R286). -/
def execVredmax (y : RF) (d a : BitVec 5) (k : BitVec 3) (s : State) : Host.Outcome State Fault Refusal :=
  redOp (.vredmax y d a k) y 1 d a k s

/-- VREDMIN (R286). -/
def execVredmin (y : RF) (d a : BitVec 5) (k : BitVec 3) (s : State) : Host.Outcome State Fault Refusal :=
  redOp (.vredmin y d a k) y 2 d a k s

/-- VREDQ (R287): one pop is one step; the instruction stays until xc is 0. -/
def execVredq (y : RF) (d : BitVec 5) (n : BitVec 4) (c : BitVec 6) (k : BitVec 3) (s : State) : Host.Outcome State Fault Refusal :=
  let F := rfFmt y
  issue (descOf (.vredq y d n c k)) false (popIll n) never (fun s =>
    if s.rx c = 0 then .ok (.done s)
    else do
      let (s, e) ← s.popQ n.toNat true
      let v : Vec := match e with
        | .vec v => v
        | .word _ => 0
      let (t, fl) := reduce F 0 (s.fir.rk k) v
      let (r, fl') := fAdd F Rnd.rne (s.ve F.width d 0) t
      let s := (s.vres d (setElem (s.fir.rv d) F.width 0 r, orF fl fl')).wx c (s.rx c - 1)
      if s.rx c = 0 then .ok (.done s)
      else .ok (.stay (s.upd fun f => { f with wait := none, granted := false, aged := false }))) s

/-! ## Conversions (R288 to R292) -/

/-- An element type as numbers, under a reading of TOPX (R32, R49). -/
def etNum (topx : Bool) : ElemTy → NumTy
  | .f32 => .flt Sys2Proof.Machine.f32
  | .bf16 => .flt Sys2Proof.Machine.bf16
  | .f16 => .flt Sys2Proof.Machine.f16
  | .e4m3 => .flt (Sys2Proof.Machine.e4m3 topx)
  | .e5m2 => .flt (Sys2Proof.Machine.e5m2 topx)
  | .e2m1 => .flt Sys2Proof.Machine.e2m1
  | .bpn => .int true 8
  | .f64 => .flt Sys2Proof.Machine.f64
  | .i8 => .int true 8
  | .i16 => .int true 16
  | .i32 => .int true 32
  | .i64 => .int true 64
  | .n8 => .int false 8
  | .n16 => .int false 16
  | .n32 => .int false 32
  | .n64 => .int false 64

/-- Width of a type in bits. -/
def NumTy.width : NumTy → Nat
  | .flt F => F.width
  | .int _ n => n

/-- The narrow floats, which block scales go with (R51, R289). -/
def narrow : ElemTy → Bool
  | .e4m3 | .e5m2 | .e2m1 => true
  | _ => false

/-- The types VCVT takes (R288). -/
def vcvtType : ElemTy → Bool
  | .bpn | .f64 | .i64 | .n64 => false
  | _ => true

/-- The fields of the held prefix (R31). -/
structure Prefx where
  fa : ElemTy
  fb : ElemTy
  sc : Bool
  xs : BitVec 6
  pl : Nat
  ctr : Bool
  deriving DecidableEq, Repr

/-- A prefix word read (R31). -/
def prefxOf (w : BitVec 32) : Prefx :=
  { fa := (ElemTy.ofCode (w.extractLsb' 28 4)).getD .f32, fb := (ElemTy.ofCode (w.extractLsb' 24 4)).getD .f32, sc := w.getLsbD 23,
    xs := w.extractLsb' 17 6, pl := (w.extractLsb' 14 3).toNat, ctr := w.getLsbD 13 }

/-- The held prefix read. -/
def Firing.fmt (f : Firing) : Prefx := prefxOf f.pfx

/-- The prefix suits a VCVT (R288, R289): listed types, nothing in p and ctr, sc with one narrow side, HI and vd = vs1 only where allowed. -/
def Prefx.vcvtOk (p : Prefx) (h same : Bool) : Bool :=
  let differ := (etNum false p.fa).width != (etNum false p.fb).width
  vcvtType p.fa && vcvtType p.fb && p.fa != p.fb && p.pl == 0 && !p.ctr && (!p.sc || narrow p.fa != narrow p.fb)
    && (differ || !h) && (!differ || !same)

/-- An instruction that takes the prefix: FPEND must be set and the prefix must suit it; FPEND is clear after it (R288). -/
def prefixed (i : Instr) (ok : Prefx → Bool) (body : State → Except Stop State) (s : State) : Host.Outcome State Fault Refusal :=
  issue (descOf i) true (fun s => !s.fir.fpend || !ok s.fir.fmt) never (fun s => do
    let s ← body s
    .ok (.done (s.upd Firing.clrPfx))) s

/-- The NaN that a NaN scale makes of an element, in a destination type, with its flags. -/
def nanElem (t : NumTy) : Nat × Nat :=
  match t with
  | .flt F => (F.canon, if F.top = .finite then fNV else 0)
  | .int _ _ => (0, fNV)

/-- A signalling NaN source raises NV (R59). -/
def snanOf (t : NumTy) (w : Nat) : Nat := match t with
  | .flt F => snanFlag F [w]
  | .int _ _ => 0

/-- One element converted with a scale byte: it multiplies a narrow source, and divides for a narrow destination (R51, R289). -/
def convertScaled (t u : NumTy) (r : Rnd) (w scale : Nat) (toNarrow : Bool) : Nat × Nat :=
  if scale = 255 then let (v, fl) := nanElem t; (v, orF fl (snanOf u w))
  else convert t u r w (if toNarrow then 127 - (scale : Int) else (scale : Int) - 127)

/-- VCVT (R289). -/
def execVcvt (m : RM) (z h : Bool) (d a : BitVec 5) (k : BitVec 3) (s : State) : Host.Outcome State Fault Refusal :=
  prefixed (.vcvt m z h d a k) (fun p => p.vcvtOk h (d == a)) (fun s =>
    let p := s.fir.fmt
    let t := etNum s.fir.topx p.fa
    let u := etNum s.fir.topx p.fb
    let wd := t.width
    let ws := u.width
    let n := Nat.min (2048 / wd) (2048 / ws)
    let off := if h then n else 0
    let mask := s.fir.rk k
    let old := s.fir.rv d
    let one (i : Nat) : Nat × Nat :=
      let e := if wd < ws then i - off else i
      let src := if ws < wd then e + off else e
      if i < (if wd < ws then off else 0) || n ≤ e || !bit mask (src * ws / 32) then (elem old wd i, 0)
      else
        let r := s.fir.rnd m z i
        if p.sc then convertScaled t u r (s.ve ws a src) (bits (s.rx p.xs) (8 * (e / 64) + 7) (8 * (e / 64))) (narrow p.fa)
        else convert t u r (s.ve ws a src) 0
    let rs := (List.range (2048 / wd)).map one
    .ok (s.vres d (pack 2048 wd (rs.map (·.1)), rs.foldl (fun x r => orF x r.2) 0))) s

/-- The prefix suits a VCVTO (R288). -/
def Prefx.vcvtoOk (p : Prefx) : Bool := (p.fa == .i8 || p.fa == .e4m3) && p.fb == .f32 && p.sc && p.pl == 0 && !p.ctr

/-- VCVTO (R290): elements to vd, outliers to the side list in v(d + 1), and which they are to kd. A signalling NaN T is an operand of every
comparison (R60, R62). -/
def execVcvto (m : RM) (z : Bool) (d : BitVec 5) (q : BitVec 3) (a : BitVec 5) (k : BitVec 3) (s : State) :
    Host.Outcome State Fault Refusal :=
  prefixed (.vcvto m z d q a k) Prefx.vcvtoOk (fun s =>
    let p := s.fir.fmt
    let t := etNum s.fir.topx p.fa
    let limit := (s.rx p.xs).toNat % 2 ^ 32
    let mask := s.fir.rk k
    let x (e : Nat) : Nat := s.ve 32 a e
    let out (e : Nat) : Bool := f32.isNan (x e) || fLt f32 limit (x e % 2 ^ 31)
    let one (i : Nat) : Nat × Nat :=
      if 64 ≤ i || !bit mask i then (elem (s.fir.rv d) 8 i, 0)
      else if out i then (0, 0)
      else convert t (.flt f32) (s.fir.rnd m z i) (x i) 0
    let rs := (List.range 256).map one
    let side := ((List.range 64).filter fun e => bit mask e && out e).map fun e =>
      convert (.flt f16) (.flt f32) (s.fir.rnd m z e) (x e) 0
    let limNV : Nat := if f32.snan limit && (List.range 64).any (fun e => bit mask e) then fNV else 0
    let fl := (rs ++ side).foldl (fun y r => orF y r.2) limNV
    let old := s.fir.rk q
    let s := s.wk q (maskOf fun e => if bit mask e then out e else bit old e)
    .ok ((s.wv d (pack 2048 8 (rs.map (·.1)))).vres (d + 1) (pack 2048 16 (side.map (·.1)), fl))) s

/-- The prefix suits VPLANE or VUNPLANE: p is 2 to 8 (R288). -/
def Prefx.planeOk (p : Prefx) (un : Bool) : Bool :=
  !p.sc && decide (1 ≤ p.pl) && (if un then p.fa == .i8 && p.fb == .bpn else p.fa == .bpn && p.fb == .i8 && !p.ctr)

/-- VPLANE (R53, R291): plane k of block j is dword 8j + k. -/
def execVplane (d a : BitVec 5) (s : State) : Host.Outcome State Fault Refusal :=
  prefixed (.vplane d a) (fun p => p.planeOk false) (fun s =>
    let v := s.fir.rv a
    let p := s.fir.fmt.pl + 1
    let plane (i : Nat) : Nat :=
      if i % 8 < p then packNat 1 ((List.range 64).map fun e => elem v 8 (64 * (i / 8) + e) / 2 ^ (7 - i % 8) % 2) else 0
    .ok (s.wv d (pack 2048 64 ((List.range 32).map plane)))) s

/-- The integer that p planes of an element give (R53): top holds its top p bits. -/
def planeValue (p : Nat) (ctr : Bool) (top : Nat) : Int :=
  intOf true p top * 2 ^ (8 - p) + (if ctr && decide (p ≤ 7) then 2 ^ (7 - p) else 0)

/-- VUNPLANE (R53, R291). -/
def execVunplane (d a : BitVec 5) (s : State) : Host.Outcome State Fault Refusal :=
  prefixed (.vunplane d a) (fun p => p.planeOk true) (fun s =>
    let v := s.fir.rv a
    let p := s.fir.fmt.pl + 1
    let top (i : Nat) : Nat := packNat 1 (((List.range p).map fun k => elem v 64 (8 * (i / 64) + k) / 2 ^ (i % 64) % 2).reverse)
    .ok (s.wv d (pack 2048 8 ((List.range 256).map fun i => toBits 8 (planeValue p s.fir.fmt.ctr (top i)))))) s

/-- FMT (R31, R292): the prefix is held and FPEND set. -/
def execFmt (t u : ElemTy) (c : Bool) (x : BitVec 6) (p : BitVec 3) (z : Bool) (s : State) : Host.Outcome State Fault Refusal :=
  plain (descOf (.fmt t u c x p z)) (fun s =>
    .ok (.done (s.upd fun f => { f with pfx := (descOf (.fmt t u c x p z)).word, fstat := setBit f.fstat 0 true }))) s

end Sys2Proof.Machine
end

