-- ==== Sys2Proof/Machine/Random.lean ====
section
/-! DEFINITION. Spore instructions, and DIGEST and DIGESTM with SHA3-512 (R328 to R337; log 24 for the hash). -/

namespace Sys2Proof.Machine

/-! ## Spore instructions (R332, R333) -/

/-- Width of a spore variate. -/
def spBits : SpTy → Nat
  | .w32 => 32
  | .w64 => 64

/-- The stream a field names: field 0 selects sstream. -/
def State.stream (s : State) (x : BitVec 6) : Word := if x = 0 then s.fir.sstream else s.rx x

/-- The draw of element e of a vector form, at index srix + e. -/
def State.vdraw (s : State) (x : BitVec 6) (e : Nat) : Word := s.fir.draw (s.stream x) (s.fir.srix + BitVec.ofNat 64 e)

/-- A uniform variate of a width. -/
def uniVar (y : SpTy) (d : Word) : Nat := match y with
  | .w32 => uni32 d
  | .w64 => uni64 d

/-- An exponential variate of a width. -/
def expOf (y : SpTy) (d : Word) : Nat := match y with
  | .w32 => expVar f32 d
  | .w64 => expVar f64 d

/-- VSPDRAW (R333): bits of the draw. -/
def execVspdraw (y : SpTy) (d : BitVec 5) (x : BitVec 6) (k : BitVec 3) (s : State) : Host.Outcome State Fault Refusal :=
  vecOp (.vspdraw y d x k) (spBits y) d k (fun s e => let d := s.vdraw x e; (d.toNat % 2 ^ spBits y, 0)) s

/-- VSPUNI (R333): the uniform variate. -/
def execVspuni (y : SpTy) (d : BitVec 5) (x : BitVec 6) (k : BitVec 3) (s : State) : Host.Outcome State Fault Refusal :=
  vecOp (.vspuni y d x k) (spBits y) d k (fun s e => let d := s.vdraw x e; (uniVar y d, 0)) s

/-- VSPEXP (R333): the exponential variate. -/
def execVspexp (y : SpTy) (d : BitVec 5) (x : BitVec 6) (k : BitVec 3) (s : State) : Host.Outcome State Fault Refusal :=
  vecOp (.vspexp y d x k) (spBits y) d k (fun s e => let d := s.vdraw x e; (expOf y d, 0)) s

/-- VGUMB (R333): a Gumbel variate added to the element. -/
def execVgumb (d v : BitVec 5) (x : BitVec 6) (k : BitVec 3) (s : State) : Host.Outcome State Fault Refusal :=
  vecOp (.vgumb d v x k) 32 d k (fun s e => fAdd f32 Rnd.rne (s.ve 32 v e) (gumbelVar (s.vdraw x e))) s

/-- SPDRAW (R333): bits of the draw, zero-extended. -/
def execSpdraw (y : SpTy) (d a b : BitVec 6) (s : State) : Host.Outcome State Fault Refusal :=
  plain (descOf (.spdraw y d a b)) (fun s =>
    let r := s.fir.draw (s.stream a) (s.rx b)
    .ok (.done (s.wx d (BitVec.ofNat 64 (r.toNat % 2 ^ spBits y))))) s

/-- SPUNI (R333): the uniform variate, zero-extended. -/
def execSpuni (y : SpTy) (d a b : BitVec 6) (s : State) : Host.Outcome State Fault Refusal :=
  plain (descOf (.spuni y d a b)) (fun s =>
    let r := s.fir.draw (s.stream a) (s.rx b)
    .ok (.done (s.wx d (BitVec.ofNat 64 (uniVar y r))))) s

/-- SPEXP (R333): the exponential variate, zero-extended. -/
def execSpexp (y : SpTy) (d a b : BitVec 6) (s : State) : Host.Outcome State Fault Refusal :=
  plain (descOf (.spexp y d a b)) (fun s =>
    let r := s.fir.draw (s.stream a) (s.rx b)
    .ok (.done (s.wx d (BitVec.ofNat 64 (expOf y r))))) s

/-! ## SHA3-512 -/

/-- Round constants of Keccak-f[1600]. -/
def keccakRC : List Word :=
  [0x0000000000000001, 0x0000000000008082, 0x800000000000808A, 0x8000000080008000, 0x000000000000808B, 0x0000000080000001,
   0x8000000080008081, 0x8000000000008009, 0x000000000000008A, 0x0000000000000088, 0x0000000080008009, 0x000000008000000A]
  ++ [0x000000008000808B, 0x800000000000008B, 0x8000000000008089, 0x8000000000008003, 0x8000000000008002, 0x8000000000000080,
   0x000000000000800A, 0x800000008000000A, 0x8000000080008081, 0x8000000000008080, 0x0000000080000001, 0x8000000080008008]

/-- Rotation of lane x + 5y. -/
def keccakRot : List Nat :=
  [0, 1, 62, 28, 27, 36, 44, 6, 55, 20, 3, 10, 43, 25, 39, 41, 45, 15, 21, 8, 18, 2, 61, 56, 14]

/-- One round on 25 lanes, lane (x, y) at x + 5y. -/
def keccakRound (a : List Word) (rc : Word) : List Word :=
  let at_ (l : List Word) (i : Nat) : Word := l.getD i 0
  let c := (List.range 5).map fun x => at_ a x ^^^ at_ a (x + 5) ^^^ at_ a (x + 10) ^^^ at_ a (x + 15) ^^^ at_ a (x + 20)
  let t := (List.range 25).map fun i => at_ a i ^^^ at_ c ((i + 4) % 5) ^^^ (at_ c ((i + 1) % 5)).rotateLeft 1
  let b := (List.range 25).map fun i =>
    let j := (i % 5 + 3 * (i / 5)) % 5 + 5 * (i % 5)
    (at_ t j).rotateLeft (keccakRot.getD j 0)
  (List.range 25).map fun i =>
    let y := i / 5 * 5
    let v := at_ b i ^^^ (~~~(at_ b ((i + 1) % 5 + y)) &&& at_ b ((i + 2) % 5 + y))
    if i = 0 then v ^^^ rc else v

/-- The permutation. -/
def keccakF (a : List Word) : List Word := keccakRC.foldl keccakRound a

/-- One block of 72 bytes absorbed, the i-th of a padded message. -/
def sha3Block (m : Nat) (a : List Word) (i : Nat) : List Word :=
  keccakF (a.mapIdx fun j w => if j < 9 then w ^^^ BitVec.ofNat 64 (m / 2 ^ (576 * i + 64 * j)) else w)

/-- SHA3-512 of n bytes, given and answered as little-endian numbers. -/
def sha3 (m n : Nat) : Nat :=
  let blocks := n / 72 + 1
  let padded := m + 6 * 2 ^ (8 * n) + 128 * 2 ^ (8 * (72 * blocks - 1))
  packNat 64 (((List.range blocks).foldl (sha3Block padded) (List.replicate 25 0)).take 8 |>.map BitVec.toNat)

/-- A digest of n bytes folded in (R336): SHA3-512 of D and the bytes. -/
def digestOf (d m n : Nat) : Nat := sha3 (d + m * 2 ^ 512) (64 + n)

/-! ## DIGEST and DIGESTM (R336, R337) -/

/-- The context named by a register: 64 B-aligned, in the own scratchpad. -/
def State.context (s : State) (a : BitVec 6) : Except Stop (State × Place) := s.ownSpad .obj (s.rx a) 64 64

/-- DIGEST (R336). -/
def execDigest (a b : BitVec 6) (s : State) : Host.Outcome State Fault Refusal :=
  plain (descOf (.digest a b)) (fun s => do
    let (s, pl) ← s.context a
    let d := digestOf (s.mem.read pl.key 64) (s.rx b).toNat 8
    .ok (.done { s.usePath pl with mem := s.mem.write pl.key 64 d })) s

/-- One step of a DIGESTM, to the next 4 KiB boundary. -/
def State.digestStep (s : State) (ctx : Place) (b n : BitVec 6) : Except Stop Done :=
  if s.rx n = 0 then .ok (.done s)
  else do
    let from_ := s.rx b
    let c := Nat.min (s.rx n).toNat (4096 - from_.toNat % 4096)
    let va (i : Nat) : Word := from_ + BitVec.ofNat 64 i
    let (s, pls) ← s.elemPlaces .load 1 (fun i => ((from_.toNat + i : Nat) : Int)) (List.range c)
    let (s, bs) ← s.readParts 1 (pls.map Prod.snd) va
    let d := digestOf (s.mem.read ctx.key 64) (packNat 8 (bs.map BitVec.toNat)) c
    let s : State := { s.usePath ctx with mem := s.mem.write ctx.key 64 d }
    let s := (s.wx b (va c)).wx n (s.rx n - BitVec.ofNat 64 c)
    if s.rx n = 0 then .ok (.done s)
    else .ok (.stay (s.upd fun f => { f with wait := none, granted := false, aged := false }))

/-- DIGESTM (R336, R337): each step ends at the next 4 KiB boundary; a stop between steps leaves the rest of the range in xa and xn. -/
def execDigestm (a b n : BitVec 6) (s : State) : Host.Outcome State Fault Refusal :=
  plain (descOf (.digestm a b n)) (fun s => do
    let (s, ctx) ← s.context a
    s.digestStep ctx b n) s

end Sys2Proof.Machine
end

