-- ==== Sys2Proof/Machine/Launch.lean ====
section
/-! DEFINITION. The launch unit and the actor unit: records, checks, dependences, placement, completion, CHECK (R76 to R91, R340 to R343,
R402). Each event names its partition, queue or team in a and b. -/

namespace Sys2Proof.Machine

/-! ## Words the unit reads and writes (R78, R84, R85, R400) -/

/-- The key of a full-empty word at an address of partition p: 8 B-aligned, in shared memory or on a page with full-empty enabled. None, which
code 0x0A reports, also on a page of another memory type or PKEY, or without the permission (log 74). -/
def State.unitWord (s : State) (p : Fin 16) (va : Nat) (wr : Bool) : Option (State × Nat) :=
  let d := s.parts[p].die
  if va % 8 ≠ 0 then none
  else match s.unitPlace p d true va 8 wr with
    | none => none
    | some (s, k) =>
      if va / 2 ^ 48 = 0x1FF then some (s, k)
      else match s.translate p d va wr with
        | none => none
        | some (s, l) => if bit l.pte 8 && (bits l.pte 11 10 == 0 || bits l.pte 11 10 == 3) then some (s, k) else none

/-- A word written as a .sf synchronising store (R84, R204); an address that takes none is left alone. -/
def State.wordTo (s : State) (p : Fin 16) (va : Word) (v : Word) : Option State :=
  (s.unitWord p va.toNat true).map fun x => x.1.feStore x.2 v

/-- A completion word (R84). -/
def doneWord (retired code status : Nat) : Word := BitVec.ofNat 64 (retired % 2 ^ 32 * 2 ^ 32 + code * 256 + status)

/-! ## Records (R76, R77) -/

/-- The firings a record creates: CX·CY·CZ. -/
def recTotal (r : List Word) : Nat := let w := dword r 1; bits w 20 0 * bits w 41 21 * bits w 62 42

/-- A flag of D3. -/
def recFlag (r : List Word) (i : Nat) : Bool := bit (dword r 3) i

/-- The demand in bits 27:0 and 44:32 of a dword (R76 D2, R81 W1). -/
def demandOf (w : Word) : Demand :=
  { xregs := bits w 7 0, vregs := bits w 15 8, tiles := bits w 19 16, accs := bits w 22 20, btiles := bits w 27 24, spad := bits w 44 32 }

/-- Codes 0x03 to 0x05 of R77 that a demand earns; 0 is none. -/
def demandCode (d : Demand) (pair : Bool) : Nat :=
  if d.xregs < 8 || 64 < d.xregs || d.xregs % 8 != 0 || decide (32 < d.vregs) || d.vregs % 4 != 0 then 3
  else if 8 < d.tiles || 4 < d.accs || 8 < d.btiles then 4
  else if 4096 < d.spad || (pair && decide (4096 < 2 * d.spad)) then 5
  else 0

/-- RSV fields of a record (R76). -/
def recRsvOk (r : List Word) : Bool :=
  let z (i hi lo : Nat) : Bool := bits (dword r i) hi lo == 0
  z 0 63 57 && z 0 1 0 && z 1 63 63 && z 2 63 45 && z 2 31 28 && z 2 23 23 && z 3 63 42 && z 3 23 19 && z 3 15 15 && z 3 11 11
    && z 3 7 7 && z 3 3 2

/-- A CHECK list that can be read has an N the record is rejected for (R343); one that cannot be read has none (log 33). -/
def State.checkBad (s : State) (p : Fin 16) (a : Word) : Bool :=
  match s.unitRead p s.parts[p].die a.toNat 8 with
  | some (_, v) => v % 128 == 0 || decide (64 < v % 128)
  | none => false

/-- Code 0x01 (R77, R343). -/
def State.recBad (s : State) (p : Fin 16) (r : List Word) : Bool :=
  !recRsvOk r || (dword r 10 != 0 && !recFlag r 29) || (dword r 11 != 0 && !recFlag r 28)
    || (!recFlag r 30 && (List.range 4).any fun i => dword r (12 + i) != 0)
    || (recFlag r 28 && s.checkBad p (dword r 11))

/-- Code 0x09: a stream declaration invalid (R83). -/
def State.streamsBad (s : State) (p : Fin 16) (r : List Word) : Bool :=
  let used := (List.range 8).filter fun i => (slotOf r i).v
  let bad (i : Nat) : Bool :=
    let x := slotOf r i
    let cap := bits (BitVec.ofNat 64 (s.mem.read x.key 8)) 47 32
    !s.shmOk p (slotOff r i) 64 || cap == 0 || x.cnt == 0 || decide (cap < x.cnt)
  used.any bad || ((used.map (slotOff r)).eraseDups.length != used.length)

/-- Code 0x0A: an address that cannot be used. -/
def State.recAddrBad (s : State) (p : Fin 16) (r : List Word) : Bool :=
  ((List.range (bits (dword r 3) 18 16)).any fun i => (s.unitWord p (dword r (4 + i)).toNat false).isNone)
    || (s.unitWord p (dword r 8).toNat true).isNone

/-! ## Placement (R80, R90, R141, R340) -/

/-- A demand fits a core's pools beside the firings resident there (R11, R90); a stage core has no accumulators and no bit tiles (R10). -/
def poolsHold (stage : Bool) (fs : List Firing) (d : Demand) : Bool :=
  let sum (g : Demand → Nat) : Nat := fs.foldl (fun n f => n + g f.dem) (g d)
  decide (fs.length < 8) && decide (sum Demand.xregs ≤ 2048) && decide (sum Demand.vregs ≤ 64) && decide (sum Demand.tiles ≤ 8)
    && decide (sum Demand.accs ≤ if stage then 0 else 4) && decide (sum Demand.btiles ≤ if stage then 0 else 8)

/-- A reservation of n bytes at an offset of the scratchpad is free of others. -/
def spadFree (taken : List (Nat × Nat)) (n o : Nat) : Bool :=
  decide (o + n ≤ 2 ^ 20) && taken.all fun t => decide (o + n ≤ t.1) || decide (t.1 + t.2 ≤ o)

/-- The lowest offset at which a reservation of n bytes is free of others (R141); 0 for none. -/
def spadGap (taken : List (Nat × Nat)) (n : Nat) : Option Nat :=
  if n = 0 then some 0 else ((0 :: taken.map fun t => t.1 + t.2).filter (spadFree taken n)).min?

/-- The reservations on a core's frond: offset and bytes. -/
def State.reserved (s : State) (c : Fin 2048) : List (Nat × Nat) :=
  (s.firings.filter fun f => f.core.val / 2 == c.val / 2 && f.dem.spad != 0).map fun f => (f.spbase.toNat, 256 * f.dem.spad)

/-- Whether a core admits a demand, and where its reservation would begin: at a given offset, for a firing restored in place (R205), or the
lowest that is free. -/
def State.admits (s : State) (c : Fin 2048) (d : Demand) (place : Option Nat) : Option Nat :=
  if poolsHold (c.val % 2 == 0) (s.firings.filter fun f => f.core == c) d then
    match place with
    | none => spadGap (s.reserved c) (256 * d.spad)
    | some o => if d.spad = 0 || spadFree (s.reserved c) (256 * d.spad) o then some o else none
  else none

/-- The tile registers of a core no resident firing holds, in order; the lowest are given (log 26). -/
def State.freeTiles (s : State) (c : Fin 2048) : List Nat :=
  (List.range 8).filter fun n => !(s.firings.any fun f => f.core == c && f.tphys.contains n)

/-- A new firing admitted to a core (R73, R74, R90), its reservation where place says: its start acquires at system scope (R240). -/
def State.spawnAt (s : State) (c : Fin 2048) (f : Firing) (place : Option Nat) : Option State :=
  (s.admits c f.dem place).map fun sp =>
    let p := s.parts[f.part]
    let g : Firing :=
      { f with
        live := true, adm := s.next, core := c, spbase := BitVec.ofNat 64 sp, qlim := p.qlimdef, fewlim := p.fewlimdef
        fstat := setBit f.fstat 1 (bit p.pcfg 0), tphys := (s.freeTiles c).take f.dem.tiles
        code := s.released ⟨c.val / 2, by have := c.isLt; omega⟩ }
    ({ s with others := s.others ++ [g], next := s.next + 1 }).renew g.frond

/-- A new firing admitted to a core at the lowest free reservation. -/
def State.spawn (s : State) (c : Fin 2048) (f : Firing) : Option State := s.spawnAt c f none

/-- What an attempt at a placement comes to. -/
inductive Placed where
  | ok (s : State)
  | no
  /-- Held: the log buffer of a die is full (R340). -/
  | full (s : State) (die : Nat)

/-- A team by its number. -/
def State.teamOf (s : State) (id : Nat) : Option Team := s.teams.find? fun t => t.id == id

/-- A core by its number. -/
def coreNo (c : Nat) : Fin 2048 := ⟨c % 2048, by omega⟩

/-- A frond by its number. -/
def frondNo (h : Nat) : Fin 1024 := ⟨h % 1024, by omega⟩

/-- A team's queue. -/
def State.queueOf (s : State) (t : Team) : LQueue := s.parts[t.part].lq[t.queue % 32]'(by omega)

/-- Firing fid of a team as its trigger makes it (R73, R74). -/
def State.teamFiring (s : State) (t : Team) (fid : Nat) (d : Demand) (pc : Word) : Firing :=
  { Firing.blank with
    part := t.part, tid := t.tid, fid := BitVec.ofNat 64 fid, fcnt := if t.flag 30 then 0 else BitVec.ofNat 64 (recTotal t.recd)
    fparm := dword t.recd 9, dem := d, prio := bits (dword t.recd 3) 6 4, pc := pc &&& 0x01FFFFFFFFFFFFFC
    fstat := setBit 0 5 (bit (s.queueOf t).lqcfg 11) }

/-- Placements logged on cores, in order, as operations of kind 4 (R338 to R341). -/
def State.logPlaces (s : State) (id fid : Nat) : List (Fin 2048) → Placed
  | [] => .ok s
  | c :: cs =>
    match s.teamOf id with
    | none => .ok s
    | some t =>
      if !(t.flag 26 || t.flag 27) then .ok s
      else match s.logOp t 4 ⟨c.val / 512, by have := c.isLt; omega⟩ (0x300 + c.val % 512) (BitVec.ofNat 64 (fid % 2 ^ 32 * 2 ^ 32)) with
        | .ok s => s.logPlaces id fid cs
        | .held => .no
        | .full _ d => .full s d

/-- The cores of a frond a record allows, in the order they are tried (R90). -/
def State.coresFor (s : State) (r : List Word) (h : Nat) : List (Fin 2048) :=
  let st := coreNo (2 * h)
  let cp := coreNo (2 * h + 1)
  let n (c : Fin 2048) : Nat := (s.firings.filter fun f => f.core == c).length
  match bits (dword r 3) 1 0 with
  | 1 => [st]
  | 2 => [cp]
  | _ => if n st ≤ n cp then [st, cp] else [cp, st]

/-- A firing, or a pair (R80), of a team placed on frond h; only names the cores a replay allows. -/
def State.placeAt (s : State) (t : Team) (fid h : Nat) (only : Option (List Nat)) : Placed :=
  let d := demandOf (dword t.recd 2)
  let may (c : Fin 2048) : Bool := match only with
    | none => true
    | some l => l.contains c.val
  if t.flag 29 then
    let st := coreNo (2 * h)
    let cp := coreNo (2 * h + 1)
    let fr := s.fronds[frondNo h]
    match fr.pairs.toList.findIdx? fun p => !p.used with
    | none => .no
    | some i =>
      let set : Fin 8 := ⟨i % 8, by omega⟩
      let member (f : Firing) : Firing := { f with pairset := some set }
      let one := s.spawn st (member (s.teamFiring t fid { d with accs := 0, btiles := 0 } (dword t.recd 0)))
      match one.bind fun s => s.spawn cp (member (s.teamFiring t fid d (dword t.recd 10))) with
      | none => .no
      | some s =>
        if may st && may cp then
          (s.onFrond (frondNo h) fun x => { x with pairs := x.pairs.set set { PairSet.free with used := true } }).logPlaces t.id fid [st, cp]
        else .no
  else
    let try_ (c : Fin 2048) : Option (State × Fin 2048) :=
      if may c then (s.spawn c (s.teamFiring t fid d (dword t.recd 0))).map fun s => (s, c) else none
    match (s.coresFor t.recd h).findSome? try_ with
    | none => .no
    | some (s, c) => s.logPlaces t.id fid [c]

/-- The cores the logs name for firing fid of a team (R90 REPLAY). -/
def State.loggedCores (s : State) (t : Team) (fid : Nat) : List Nat :=
  let me := BitVec.ofNat 64 (fid % 2 ^ 32 * 2 ^ 32)
  (List.range 4).flatMap fun d =>
    let d' : Fin 4 := ⟨d % 4, by omega⟩
    let q := s.parts[t.part]
    let pos := bits (q.logpos[d']) 31 0
    (List.range (bits (q.loglen[d']) 31 0 - pos)).filterMap fun j =>
      match s.logEntry t.part d' (pos + j) with
      | some (_, w0, w1) => if bits w0 63 60 = 4 && w1 = me then some (d * 512 + bits w0 59 32 % 512) else none
      | none => none

/-- The first die some of whose replay entries cannot be read (R341). -/
def State.unreadableDie (s : State) (p : Fin 16) : Option Nat :=
  (List.range 4).find? fun d =>
    let d' : Fin 4 := ⟨d % 4, by omega⟩
    let q := s.parts[p]
    let pos := bits (q.logpos[d']) 31 0
    (List.range (bits (q.loglen[d']) 31 0 - pos)).any fun j => (s.logEntry p d' (pos + j)).isNone

/-- The offsets at which firing fid of a team is tried, in order (R90). -/
def Team.offsets (t : Team) (fid len : Nat) : List Nat :=
  let place := bits (dword t.recd 3) 41 32
  if t.flag 25 then [(place + fid) % len]
  else
    let first := match t.lastOff with
      | none => place
      | some o => o + 1
    (List.range len).map fun i => (first + i) % len

/-- The first placement along a list of offsets. -/
def State.placeAlong (s : State) (t : Team) (fid start : Nat) (only : Option (List Nat)) : List Nat → Placed
  | [] => .no
  | o :: os =>
    match s.placeAt t fid (start + o) only with
    | .no => s.placeAlong t fid start only os
    | .ok s => .ok (s.onTeam t.id fun t => { t with lastOff := some o, fronds := insertNat t.fronds (start + o) })
    | r => r

/-- Firing fid of a team placed by its mode (R90). Under REPLAY one that no log names waits at the first die's, or at one that cannot be read
(log 78). -/
def State.placeFid (s : State) (t : Team) (fid : Nat) : Placed :=
  let p := s.parts[t.part]
  if t.flag 27 then
    match s.loggedCores t fid with
    | [] => .full s ((s.unreadableDie t.part).getD p.die.val)
    | c :: cs => s.placeAlong t fid p.start (some (c :: cs)) [c / 2 - p.start]
  else s.placeAlong t fid p.start none (t.offsets fid p.len)

/-- The next firing of a team to place, if one is unplaced: one given back by a discard, or the next in order. -/
def Team.nextFid (t : Team) : Option Nat :=
  match t.again with
  | k :: _ => some k
  | [] => if !t.flag 30 && decide (t.placed < recTotal t.recd) then some t.placed else none

/-- A placement noted. -/
def Team.placedOne (t : Team) : Team := match t.again with
  | _ :: ks => { t with again := ks }
  | [] => { t with placed := t.placed + 1 }

/-- n firings of a team placed one after another, all or none (R90 COSCHED). -/
def State.placeMany (s : State) (id : Nat) : Nat → Placed
  | 0 => .ok s
  | n + 1 =>
    match s.teamOf id with
    | none => .no
    | some t => match t.nextFid with
      | none => .ok s
      | some k => match s.placeFid t k with
        | .ok s => (s.onTeam id Team.placedOne).placeMany id n
        | r => r

/-- How many firings a placement of a team takes in one step. -/
def Team.batch (t : Team) : Nat := if t.flag 31 then t.again.length + (recTotal t.recd - t.placed) else 1

/-- The next placement of a team; a full log leaves the state as it was. -/
def State.placeTeam (s : State) (t : Team) : Placed :=
  match s.placeMany t.id t.batch with
  | .full _ d => .full s d
  | r => r

/-- A partition with no firing in it. -/
def State.emptied (s : State) (p : Fin 16) : State :=
  { s with
    fir := if s.fir.part = p then { s.fir with live := false } else s.fir
    others := s.others.filter fun f => f.part != p
    fronds := s.fronds.mapIdx fun h x => if s.parts[p].hasFrond h then { x with pairs := Vector.replicate 8 PairSet.free } else x }

/-- A team as its record begins it. -/
def newTeam (id : Nat) (p : Fin 16) (q : Nat) (seq : Nat) (r : List Word) : Team :=
  { id := id, tid := BitVec.ofNat 64 (q * 2 ^ 32 + seq % 2 ^ 32), part := p, queue := q, recd := r, seq := BitVec.ofNat 64 seq, ready := false,
    placed := 0, retired := 0, phase0 := 0, arrived0 := 0, lastOff := none, fronds := [], again := [], held := false, heldDie := none, saved := 0, draining := false,
    fireNext := 0, commitNext := 0, uncommitted := [], cons0 := [], prod0 := [], checkRun := 0, blocks1 := [], seqs := [], owed := [] }

/-- Code 0x0B: a COSCHED team that the empty partition cannot hold at once; its log flags play no part. -/
def State.coschedBad (s : State) (p : Fin 16) (r : List Word) : Bool :=
  let n := recTotal r
  let r' := r.mapIdx fun i w => if i = 3 then setBits w 28 26 0 else w
  let t := newTeam s.next p 0 0 r'
  recFlag r 31 && (decide (16 * s.parts[p].len < n) || (match ({ s.emptied p with teams := [t] }).placeMany t.id n with
    | .ok _ => false
    | _ => true))

/-- The rejection code of a record, 0 for none (R77). -/
def State.recCode (s : State) (p : Fin 16) (r : List Word) : Nat :=
  let w := dword r 3
  let d := demandOf (dword r 2)
  if s.recBad p r then 1
  else if bits w 1 0 = 3 || (bit w 29 && bits w 1 0 != 0) || (bits w 1 0 == 1 && (d.accs != 0 || d.btiles != 0)) then 2
  else if demandCode d (bit w 29) ≠ 0 then demandCode d (bit w 29)
  else if bits w 14 12 = 7 || decide (4 < bits w 18 16) then 6
  else if (bit w 26 && bit w 27) || (bit w 28 && (bit w 26 || bit w 27)) then 7
  else if bit w 30 && (bit w 29 || bit w 31 || dword r 1 != 0x40000200001) then 8
  else if bit w 30 && s.streamsBad p r then 9
  else if s.recAddrBad p r then 10
  else if s.coschedBad p r then 11
  else if s.parts[p].len ≤ bits w 41 32 then 12
  else 0

/-! ## Taking a record (R78, R86, R87, R89) -/

/-- The queues of a partition freeze while a kernel of one of its dies is being re-adopted (R378). -/
def State.frozen (s : State) (p : Fin 16) : Bool :=
  let q := s.parts[p]
  (s.dies.toList.zipIdx).any fun x => x.1.frozen && decide (q.len ≠ 0) && decide (q.start / 256 ≤ x.2)
    && decide (x.2 ≤ (q.start + q.len - 1) / 256)

/-- A queue that is served (R86, R87). -/
def LQueue.served (q : LQueue) : Bool := bit q.lqcfg 16 && !bit q.lqcfg 17 && q.log2n != 0

/-- A rejected record (R78): LQERR, the completion word, and the error log when that cannot be written under code 0x0A; under another code such
a word is only not written (log 65). -/
def State.reject (s : State) (p : Fin 16) (q : Fin 32) (seq code : Nat) (r : List Word) : State :=
  let s := s.onQueue p q fun x => x.latch code seq
  match s.wordTo p (dword r 8) (doneWord 0 code 1) with
  | some s => s
  | none => if code = 10 then s.errorLog p 1 10 (BitVec.ofNat 64 (q.val * 2 ^ 32 + seq % 2 ^ 32)) (dword r 8) else s

/-- The walks the checks of a record make: its dependence words, its completion word, its CHECK list (R371). -/
def State.touchRecord (s : State) (p : Fin 16) (r : List Word) : State :=
  let as := ((List.range (bits (dword r 3) 18 16)).map fun i => dword r (4 + i)) ++ [dword r 8] ++ (if recFlag r 28 then [dword r 11] else [])
  as.foldl (fun s a => s.touch p s.parts[p].die a.toNat 8) s

/-- The head record of a queue that is served read, checked and taken, or rejected, or unreadable. -/
def State.takeRecord (s : State) (p : Fin 16) (q : Fin 32) : State :=
  let x := s.parts[p].lq[q]
  let seq := bits x.lqhead 31 0
  let slot := x.lqbase.toNat + seq % 2 ^ x.log2n * 128
  match s.unitPlace p s.parts[p].die false slot 128 false with
  | none => s.onQueue p q fun y => { y.latch 0x3F seq with lqcfg := setBit y.lqcfg 17 true }
  | some (s, key) =>
    let r := wordsOf 16 (s.homeRead key 128)
    let s := s.onQueue p q fun y => { y with lqhead := BitVec.ofNat 64 ((seq + 1) % 2 ^ 32) }
    let code := s.recCode p r
    let s := s.touchRecord p r
    if code ≠ 0 then (s.reject p q seq code r).pokeQueue p q
    else
      let t := newTeam s.next p q.val seq r
      let s : State := { s with teams := s.teams ++ [t], next := s.next + 1 }
      (s.onQueue p q fun y => { y with team := some t.id }).push .dependencesMet p.val q.val 0 0

/-- A partition by its number. -/
def partNo (n : Nat) : Fin 16 := ⟨n % 16, by omega⟩

/-- A queue by its number. -/
def queueNo (n : Nat) : Fin 32 := ⟨n % 32, by omega⟩

/-- LAUNCH_RECORD_READ (R89): queue b of partition a, unless it is not served, has a head already or is empty. -/
def execLaunchRecordRead (s : State) : Host.Outcome State Fault Refusal :=
  let p := partNo s.ev.a
  let q := queueNo s.ev.b
  let x := s.parts[p].lq[q]
  if x.served && !s.frozen p && x.team.isNone && bits x.lqhead 31 0 != bits x.lqtail 31 0 then .next (s.takeRecord p q) else .next s

/-! ## Dependences (R79, R85) -/

/-- What a record's dependence words say: still one empty, a status other than OK, or all full with OK. -/
inductive Deps where
  | waiting | failed | met
  deriving DecidableEq, Repr

/-- The dependence words of a team as they stand. -/
def State.deps (s : State) (t : Team) : Deps :=
  let keys := (List.range (bits (dword t.recd 3) 18 16)).map fun i => (s.unitWord t.part (dword t.recd (4 + i)).toNat false).map (·.2)
  let full (k : Option Nat) : Bool := match k with
    | some k => s.isFull k
    | none => false
  let ok (k : Option Nat) : Bool := match k with
    | some k => s.mem.read k 1 == 0
    | none => false
  if keys.any fun k => full k && !ok k then .failed else if keys.all full then .met else .waiting

/-- The team at the head of a queue. -/
def State.headTeam (s : State) (p : Fin 16) (q : Fin 32) : Option Team := (s.parts[p].lq[q]).team.bind s.teamOf

/-- A queue's head given up, so that the next record is read (R87). -/
def State.nextHead (s : State) (t : Team) : State :=
  let q := queueNo t.queue
  if (s.parts[t.part].lq[q]).team = some t.id then (s.onQueue t.part q fun x => { x with team := none }).pokeQueue t.part q else s

/-- A team taken out of the machine. -/
def State.dropTeam (s : State) (t : Team) : State := ({ s with teams := s.teams.filter fun u => u.id != t.id }).nextHead t

/-- The counters of an actor as it is placed, written into its headers (R82). -/
def State.startActor (s : State) (t : Team) : State :=
  let put (s : State) (i : Nat) : State :=
    let x := slotOf t.recd i
    if x.v then
      let m := s.mem
      { s with mem := (m.write (x.key + 24) 8 (m.read (x.key + 8) 8)).write (x.key + 32) 8 (m.read (x.key + 16) 8) }
    else s
  let s := (List.range 8).foldl put s
  let at_ (o : Nat) : List Nat := (List.range 8).map fun i => s.mem.read ((slotOf t.recd i).key + o) 8
  (s.onTeam t.id fun t => { t with ready := true, cons0 := at_ 8, prod0 := at_ 16 }).push .actorFire t.id 0 0 0

/-! ## FIRING_PLACE (R87, R88, R90) -/

/-- The teams of a partition with a firing to place. -/
def State.placing (s : State) (p : Fin 16) : List Team :=
  s.teams.filter fun t => t.part == p && t.ready && !t.draining && !t.held && t.nextFid.isSome && (s.queueOf t).served

/-- Those teams in the order they are served: by queue priority, then in turn after the queue served last (R88). -/
def State.servedOrder (s : State) (p : Fin 16) : List Team :=
  let ts := s.placing p
  (List.range 8).reverse.flatMap fun pr =>
    let last := s.parts[p].last.toList.getD pr 0
    (List.range 32).flatMap fun i => ts.filter fun t => bits (s.queueOf t).lqcfg 10 8 == pr && t.queue == (last + 1 + i) % 32

/-- The first placement that succeeds or finds its log full. -/
def State.firstPlaced (s : State) : List Team → Option (Team × Placed)
  | [] => none
  | t :: ts => match s.placeTeam t with
    | .no => s.firstPlaced ts
    | r => some (t, r)

/-- A queue noted as the one served last at its priority. -/
def State.servedNow (s : State) (t : Team) : State :=
  let pr := bits (s.queueOf t).lqcfg 10 8
  s.onPart t.part fun x => { x with last := x.last.mapIdx fun i n => if i = pr then t.queue else n }

/-- A team all of whose firings are placed leaves its queue's head. -/
def State.afterPlacing (s : State) (t : Team) : State := match s.teamOf t.id with
  | some u => if u.nextFid.isNone then s.nextHead t else s
  | none => s

/-- A team whose next placement is held on the full log of die d: one record says so for each die it is held at (R340). -/
def State.holdTeam (s : State) (t : Team) (d : Nat) : State :=
  (if t.heldDie = some d then s else s.errorLog t.part 4 0 t.tid (BitVec.ofNat 64 d)).onTeam t.id fun t => { t with held := true, heldDie := some d }

/-- FIRING_PLACE (R88, R90): the next firing, pair or COSCHED team of partition a is placed; one whose log is full is held and reported
once (R340). -/
def execFiringPlace (s : State) : Host.Outcome State Fault Refusal :=
  let p := partNo s.ev.a
  let again (s : State) : State := if (s.placing p).isEmpty then s else s.push .firingPlace p.val 0 0 0
  if s.frozen p then .next s
  else match s.firstPlaced (s.servedOrder p) with
    | some (t, .ok s) => .next (again (((s.onTeam t.id fun t => { t with heldDie := none }).servedNow t).afterPlacing t))
    | some (t, .full s d) => .next (again (s.holdTeam t d))
    | _ => .next s

/-! ## Completion (R84) and CHECK (R342, R343) -/

/-- The firings a team creates: two for each pair. -/
def Team.firings (t : Team) : Nat := recTotal t.recd * (if t.flag 29 then 2 else 1)

/-- Tokens of input i not claimed, and room of output i not claimed (R82). -/
def State.unclaimed (s : State) (t : Team) (i : Nat) : Nat :=
  let x := slotOf t.recd i
  s.mem.read (x.key + 16) 8 - (t.cons0.getD i 0 + t.fireNext * x.cnt)

/-- An actor that will fire no more: every input CLOSED and short of tokens, no firing uncommitted (R82). -/
def State.actorEnded (s : State) (t : Team) : Bool :=
  t.fireNext == t.commitNext && t.again.isEmpty && (List.range 4).all fun i =>
    let x := slotOf t.recd i
    !x.v || (bit (BitVec.ofNat 64 (s.mem.read (x.key + 40) 8)) 0 && decide (s.unclaimed t i < x.cnt))

/-- Every firing of a run of a team has retired. -/
def State.runEnded (s : State) (t : Team) : Bool :=
  t.ready && t.saved == 0 && (s.liveOf t).isEmpty
    && (if t.flag 30 then s.actorEnded t else t.again.isEmpty && decide (t.placed = recTotal t.recd) && decide (t.retired = t.firings))

/-- The remote writes that a completion's release must see acknowledged (R84, R225). -/
def State.owing (s : State) (t : Team) : Bool :=
  let sc := bits (dword t.recd 3) 14 12
  s.unacked.any fun u => t.owed.contains u.adm && (decide (6 ≤ sc) || (decide (5 ≤ sc) && s.inDomain t.part u.pkg))

/-- A range of a CHECK list: BASE, OUT, RST, LEN, SHADOW. -/
structure CheckRange where
  base : Nat
  out : Bool
  rst : Bool
  len : Nat
  shadow : Nat
  deriving DecidableEq, Repr

/-- A range as an entry of four dwords gives it (R343). -/
def checkRange (w : List Word) : CheckRange :=
  { base := (dword w 0).toNat, out := bit (dword w 1) 63, rst := bit (dword w 1) 62, len := bits (dword w 1) 47 0, shadow := (dword w 2).toNat }

/-- The ranges of a CHECK list, as far as they can be read (R343); a list whose N cannot be read has none. -/
def State.checkRanges (s : State) (t : Team) : State × List CheckRange :=
  let a := (dword t.recd 11).toNat
  let get (s : State) (a n : Nat) : State × Option Nat := match s.unitRead t.part s.parts[t.part].die a n with
    | some (u, v) => (u, some v)
    | none => (s, none)
  let (s, n) := get s a 8
  let one (x : State × List CheckRange) (i : Nat) : State × List CheckRange :=
    let (s, v) := get x.1 (a + 256 + 32 * i) 32
    (s, x.2 ++ v.toList.map fun v => checkRange (wordsOf 4 v))
  (List.range (n.getD 0 % 128)).foldl one (s, [])

/-- The blocks of a range from address a, n bytes: each ends at a 4 KiB boundary; fuel bounds their number. -/
def blocksFrom : Nat → Nat → Nat → List (Nat × Nat)
  | 0, _, _ => []
  | k + 1, a, n => if n = 0 then [] else
    let c := min n (4096 - a % 4096)
    (a, c) :: blocksFrom k (a + c) (n - c)

/-- The OUT blocks of a list, each with its range and number. -/
def outBlocks (rs : List CheckRange) : List (Nat × Nat × Nat × Nat) :=
  (rs.zipIdx).flatMap fun r =>
    if r.1.out then ((blocksFrom (r.1.len / 4096 + 2) r.1.base r.1.len).zipIdx).map fun b => (r.2, b.2, b.1.1, b.1.2) else []

/-- Where a unit of partition p reaches another package through a remote page: package, partition there, address there (R226, R400). -/
def State.unitFar (s : State) (p : Fin 16) (va : Nat) (wr : Bool) : Option (State × Nat × Nat × Nat) :=
  if 2 ^ 57 ≤ va || va / 2 ^ 48 == 0x1FF then none
  else match s.translate p s.parts[p].die va wr with
    | none => none
    | some (t, l) =>
      if bits l.pte 63 56 != bits s.parts[p].pcfg 39 32 || (if wr then !bit l.pte 2 else !bit l.pte 1) then none
      else match t.leafPlace p l va with
        | .ok (.far pkg part addr) => some (t, pkg, part, addr)
        | _ => none

/-- n bytes of a CHECK range, inside one page, as DIGESTM would read them at home (R342, R343): in device memory, in package shared memory, or at
another package, whose data are free, or poison when it is lost (log 6). -/
def State.rangeRead (s : State) (p : Fin 16) (a n : Nat) : Option (State × Nat) :=
  match s.unitPlace p s.parts[p].die true a n false with
  | some (t, k) => some (t, t.homeRead k n)
  | none => (s.unitFar p a false).map fun x =>
    if x.1.lost.contains x.2.1 then (x.1, poisonAt a n)
    else
      let k := (n + 7) / 8
      ({ x.1 with free := x.1.free + k }, packNat 64 ((List.range k).map fun i => (Config.dword (x.1.free + i)).toNat) % 2 ^ (8 * n))

/-- A byte of a CHECK range written at home; for another package it goes out on the stream of the partition's first core, or is dropped and counted
when that is lost (R389, log 33). -/
def State.rangeWrite (s : State) (p : Fin 16) (a v : Nat) : State :=
  match s.unitPlace p s.parts[p].die true a 1 true with
  | some (t, k) => (t.homeStore p k 1 (t.mem.set k (BitVec.ofNat 8 v))).keepHeaders t.mem k 1
  | none => match s.unitFar p a true with
    | none => s
    | some (t, pkg, part, addr) =>
      if t.lost.contains pkg then t.dropped p 1
      else
        let c := 2 * s.parts[p].start
        let cls := bits s.parts[p].pcfg 10 8
        let (seq, t) := t.streamNext c pkg cls
        t.send (.request c cls pkg part seq 0 .store addr 1 (BitVec.ofNat 64 v) 0)

/-- The digest of a run, block by block (R343). A block that cannot be read gives a free digest (log 6). -/
def State.digestBlocks (s : State) (p : Fin 16) : List (Nat × Nat × Nat × Nat) → Nat → State × List Nat
  | [], _ => (s, [])
  | (_, _, a, n) :: bs, d =>
    match s.rangeRead p a n with
    | some (s, v) =>
      let d := digestOf d v n
      let (s, ds) := s.digestBlocks p bs d
      (s, d :: ds)
    | none =>
      let d := packNat 64 ((List.range 8).map fun i => (Config.dword (s.free + i)).toNat)
      let (s, ds) := { s with free := s.free + 8 }.digestBlocks p bs d
      (s, d :: ds)

/-- n bytes at an address of a partition written as dwords, where it can be. -/
def State.unitPut (s : State) (p : Fin 16) (a n v : Nat) : State := (s.unitWrite p s.parts[p].die a n v).getD s

/-- A range copied back from its shadow, byte by byte (R342). -/
def State.restoreRange (s : State) (p : Fin 16) (r : CheckRange) : State :=
  if r.rst then (List.range r.len).foldl (fun s i =>
    match s.rangeRead p (r.shadow + i) 1 with
    | some (s, v) => s.rangeWrite p (r.base + i) v
    | none => s) s
  else s

/-- The end of the first run of a CHECK team (R342): its digest, the RST ranges restored, the second run to begin. -/
def State.endFirst (s : State) (t : Team) : State :=
  let p := t.part
  let (s, rs) := s.checkRanges t
  let (s, ds) := s.digestBlocks p (outBlocks rs) 0
  let s := s.unitPut p ((dword t.recd 11).toNat + 64) 64 (ds.getLastD 0)
  let s := rs.foldl (fun s r => s.restoreRange p r) s
  s.onTeam t.id fun t =>
    { t with checkRun := 1, blocks1 := ds.map (BitVec.ofNat 512), placed := 0, retired := 0, lastOff := none, phase0 := 0, arrived0 := 0
             fireNext := 0, commitNext := 0, uncommitted := [] }

/-- CHECK_SECOND_RUN (R342): the second run of team a begins; an actor is placed again. -/
def execCheckSecondRun (s : State) : Host.Outcome State Fault Refusal :=
  match s.teamOf s.ev.a with
  | none => .next s
  | some t =>
    if !t.flag 28 || t.checkRun != 0 || !s.runEnded t then .next s
    else
      let s := s.endFirst t
      .next (if t.flag 30 then s.startActor t else s.push .firingPlace t.part.val 0 0 0)

/-- The comparison after the second run, written to the list (R343). -/
def State.endCheck (s : State) (t : Team) : State :=
  let p := t.part
  let a := (dword t.recd 11).toNat
  let (s, rs) := s.checkRanges t
  let bs := outBlocks rs
  let (s, ds) := s.digestBlocks p bs 0
  let s := s.unitPut p (a + 128) 64 (ds.getLastD 0)
  let differ (x : (Nat × Nat × Nat × Nat) × Nat) : Bool := BitVec.ofNat 512 (ds.getD x.2 0) != t.blocks1.getD x.2 0
  let place := match (bs.zipIdx).find? differ with
    | none => 0
    | some ((r, b, _, _), _) => b % 2 ^ 32 * 2 ^ 32 + r * 2 ^ 24
  s.unitPut p (a + 8) 8 (if BitVec.ofNat 512 (ds.getLastD 0) = t.blocks1.getLastD 0 then 1 else place + 2)

/-- The scope S of a team's completion (R84): CSCOPE, its fronds, the home of DONE. -/
def State.completionScope (s : State) (t : Team) : Scope :=
  widest (scopeOfCode (bits (dword t.recd 3) 14 12))
    (widest (scopeOver t.fronds []) (doneScope s.parts[t.part] (dword t.recd 8).toNat))

/-- The release of a completion (R84): what the team's fronds have written home reaches its scope. -/
def State.releaseTeam (s : State) (t : Team) : State := t.fronds.foldl (fun s h => s.widen (frondNo h) (s.completionScope t)) s

/-- A team ended with a completion word (R84, R198, R379); an ended first CHECK run says so (R343). -/
def State.endTeam (s : State) (t : Team) (retired code status : Nat) : State :=
  let s := if status != 0 && t.flag 28 && t.checkRun == 0 then s.unitPut t.part ((dword t.recd 11).toNat + 8) 8 3 else s
  let s := s.releaseTeam t
  ((s.wordTo t.part (dword t.recd 8) (doneWord retired code status)).getD s).dropTeam t

/-- A team that can complete now. -/
def State.mayComplete (s : State) (t : Team) : Bool := s.runEnded t && !s.owing t && (!t.flag 28 || t.checkRun == 1)

/-- A team whose last run has ended completes (R84, R343). -/
def State.complete (s : State) (t : Team) : State :=
  (if t.flag 28 then s.endCheck t else s).endTeam t (if t.flag 30 then t.commitNext else t.retired) 0 0

/-- TEAM_COMPLETE (R84): team a. -/
def execTeamComplete (s : State) : Host.Outcome State Fault Refusal :=
  match s.teamOf s.ev.a with
  | none => .next s
  | some t => .next (if s.mayComplete t then s.complete t else s)

/-- An empty team completes at once (R79); under CHECK both of its runs are over (R342). -/
def State.completeEmpty (s : State) (t : Team) : State :=
  let s := if t.flag 28 then s.endFirst t else s
  match s.teamOf t.id with
  | some u => s.complete u
  | none => s

/-- The walks the reading of a record's dependence words makes (R371). -/
def State.touchDeps (s : State) (t : Team) : State :=
  (List.range (bits (dword t.recd 3) 18 16)).foldl (fun s i => s.touch t.part s.parts[t.part].die (dword t.recd (4 + i)).toNat 8) s

/-- DEPENDENCES_MET (R79, R85, R87): the head of queue b of partition a, if the queue is served, is placed from now on, completes as an empty
team, or is rejected. -/
def execDependencesMet (s : State) : Host.Outcome State Fault Refusal :=
  let p := partNo s.ev.a
  match s.headTeam p (queueNo s.ev.b) with
  | none => .next s
  | some t =>
    if t.ready || !(s.queueOf t).served then .next s
    else
      let s := s.touchDeps t
      match s.deps t with
      | .waiting => .next s
      | .failed => .next ((s.reject p (queueNo s.ev.b) t.seq.toNat 0x10 t.recd).dropTeam t)
      | .met =>
        let s := s.onTeam t.id fun t => { t with ready := true }
        if !t.flag 30 && recTotal t.recd = 0 then .next (s.completeEmpty t)
        else
          let s := s.push .teamComplete t.id 0 0 0
          let s := if t.flag 28 then s.push .checkSecondRun t.id 0 0 0 else s
          .next (if t.flag 30 then (s.startActor t).nextHead t else s.push .firingPlace p.val 0 0 0)

/-! ## ACTOR_FIRE (R82) -/

/-- Every input holds the tokens of the next firing and every output has the room. -/
def State.actorMay (s : State) (t : Team) : Bool :=
  (List.range 8).all fun i =>
    let x := slotOf t.recd i
    !x.v || (if i < 4 then decide (x.cnt ≤ s.unclaimed t i)
      else decide (t.prod0.getD i 0 + (t.fireNext + 1) * x.cnt ≤ s.mem.read (x.key + 8) 8 + bits (BitVec.ofNat 64 (s.mem.read x.key 8)) 47 32))

/-- The next firing of an actor placed, if its streams allow it. -/
def State.fireActor (s : State) (t : Team) : Placed :=
  if !t.ready || t.draining || t.held || s.frozen t.part || !s.actorMay t then .no
  else match s.placeFid t t.fireNext with
    | .ok s => .ok (s.onTeam t.id fun t => { t with fireNext := t.fireNext + 1 })
    | .full _ d => .full s d
    | .no => .no

/-- ACTOR_FIRE (R82): actor a. -/
def execActorFire (s : State) : Host.Outcome State Fault Refusal :=
  match s.teamOf s.ev.a with
  | none => .next s
  | some t =>
    let again (s : State) : State := s.push .actorFire t.id 0 0 0
    match s.fireActor t with
    | .ok s => .next (again (s.onTeam t.id fun t => { t with heldDie := none }))
    | .full s d => .next (again (s.holdTeam t d))
    | .no => .next s

/-! ## Register writes of the launch queues (R86) -/

/-- Control offset of register r of queue q of partition p (R374). -/
def queueReg (p q r : Nat) : Nat := 0x1000000 + p % 16 * 0x100000 + 0x1000 + 64 * (q % 32) + 8 * r

/-- HOST_LQTAIL_WRITE (R86): v to the LQTAIL of queue b of partition a; with c = 1 through the virtual function of the partition, which must be
enabled (R381, R394). -/
def execHostLqtailWrite (s : State) : Host.Outcome State Fault Refusal :=
  if !s.dev.hostUp || (s.ev.c == 1 && !(s.dev.vfMask &&& s.dev.vfEn).getLsbD (s.ev.a % 16)) then .next s else .next (s.ctlWrite (queueReg s.ev.a s.ev.b 3) (BitVec.allOnes 64) s.ev.v)

/-- LQCFG_WRITE (R86): v to the LQCFG of queue b of partition a. -/
def execLqcfgWrite (s : State) : Host.Outcome State Fault Refusal :=
  .next (s.ctlWrite (queueReg s.ev.a s.ev.b 1) (BitVec.allOnes 64) s.ev.v)

/-- LOG_REGISTER_WRITE (R339, R340): v to register c (LOGBASE, LOGLEN, LOGPOS) of die b of partition a; held placements are tried
again. -/
def execLogRegisterWrite (s : State) : Host.Outcome State Fault Refusal :=
  .next (s.ctlWrite (0x1000000 + s.ev.a % 16 * 0x100000 + 0x2000 + 32 * (s.ev.b % 4) + 8 * (s.ev.c % 3)) (BitVec.allOnes 64) s.ev.v)

end Sys2Proof.Machine
end

