-- ==== Sys2Proof/Machine/Traps.lean ====
section
/-! DEFINITION. Traps that no instruction raises itself: waits that expire, asynchronous reports, gang breaks, the trap ring, and the
supervisor's resumptions (R97, R98, R109, R149, R150, R198, R199, R401). An event names its firing or partition in a. -/

namespace Sys2Proof.Machine

/-! ## Priority and wait limits (R97, R98, R149, R150) -/

/-- Waits that end by an event, not by running the instruction again. -/
def Wait.byEvent : Wait → Bool
  | .answer | .fullEmpty | .sem _ | .shinv | .resend | .table | .barrier _ _ => true
  | .gang n => n != 0
  | _ => false

/-- PRIORITY_AGE (R97): firing a, ready and not issued, is raised to priority 8. One in a wait that only an event ends is not ready. -/
def execPriorityAge (s : State) : Host.Outcome State Fault Refusal :=
  .next (s.onFiring s.ev.a fun f => if f.run == .running && !(f.wait.any Wait.byEvent) then { f with aged := true } else f)

/-- What QSTALL reports for a wait it bounds (R193); none for a wait it does not bound. -/
def qstallVal : Wait → Option Nat
  | .queue n _ => some n
  | .sem n => some n
  | .gang _ => some 0
  | .credit c => some c
  | .decision c => some (c + 8)
  | _ => none

/-- QSTALL_EXPIRY (R98): the wait of firing a exceeds qlim. -/
def execQstallExpiry (s : State) : Host.Outcome State Fault Refusal :=
  match (s.firing? s.ev.a).bind fun f => f.wait.bind qstallVal with
  | none => .next s
  | some v => .next (s.trapFiring s.ev.a (Trap.pending { c := .qstall, sub := 0, val := BitVec.ofNat 64 v }))

/-- An access whose condition holds waits only for its turn in the order log: fewlim does not bound it (R341). -/
def State.logHeld (s : State) (n : Nat) : Bool :=
  s.retry.any fun w => w.adm == n && w.peer.isNone && s.feHolds w.key w.load w.sets

/-- FEWAIT_EXPIRY (R150): the full-empty wait of firing a exceeds fewlim, and a withdrawal goes to its home. -/
def execFewaitExpiry (s : State) : Host.Outcome State Fault Refusal :=
  match (s.firing? s.ev.a).bind Firing.wait with
  | some .fullEmpty => .next (if s.logHeld s.ev.a then s else s.push .feWithdrawal s.ev.a 0 0 0)
  | some .resend => .next (s.push .feWithdrawal s.ev.a 0 0 0)
  | some .answer => .next (s.withdrawFar s.ev.a)
  | _ => .next s

/-- The address of the full-empty access a firing still waits with, in a retry list or to be resent. -/
def State.feWaiting (s : State) (n : Nat) : Option Word :=
  match s.retry.find? fun w => w.adm == n && w.peer.isNone with
  | some w => some w.addr
  | none => match (s.firing? n).bind Firing.wait with
    | some .resend => (s.agenda.find? fun e => e.op == .feResend && e.a == n).map Ev.v
    | _ => none

/-- FE_WITHDRAWAL (R150): the access of firing a, if still waiting, is removed and the firing takes FEWAIT; if it was served, its result
stands. -/
def execFeWithdrawal (s : State) : Host.Outcome State Fault Refusal :=
  match s.feWaiting s.ev.a with
  | none => .next s
  | some va => .next (s.trapFiring s.ev.a (Trap.pending { c := .fewait, sub := 0, val := va }))

/-- FE_RESEND (R149): the request of firing a that a full list refused is sent again. -/
def execFeResend (s : State) : Host.Outcome State Fault Refusal :=
  .next (s.onFiring s.ev.a fun f => if f.wait = some .resend then { f with wait := none } else f)

/-! ## Asynchronous reports (R199) -/

/-- Waits a firing abandons to take a report: those of R72, and those of an instruction that has not issued. -/
def Wait.abandoned : Wait → Bool
  | .answer | .shinv | .held => false
  | _ => true

/-- A firing that may take a report at once. -/
def Firing.mayReport (f : Firing) : Bool :=
  f.active && f.reportDue.isSome && !f.granted && f.data.isEmpty && (match f.wait with
    | none => f.pends.isEmpty
    | some w => w.abandoned)

/-- ASYNC_REPORT_TAKE (R199): the oldest report due to firing a is delivered at its boundary, with ASYNC set; a full-empty wait at another
package is first withdrawn. -/
def execAsyncReportTake (s : State) : Host.Outcome State Fault Refusal :=
  match s.firing? s.ev.a with
  | none => .next s
  | some f =>
    match f.reportDue with
    | none => .next s
    | some r =>
      if f.mayReport then
        let tc := if f.replost then setBit r.tc 15 true else r.tc
        let s := s.onFiring f.adm fun f => { f with reports := f.reports.erase r, replost := false }
        .next (s.trapFiring f.adm { user := true, tc := tc, val := r.val })
      else if f.wait = some .answer then .next (s.withdrawFar f.adm)
      else .next s

/-! ## The trap ring (R198, R374, R401) -/

/-- TRAP_RECORD_APPEND (R198): the record of stopped firing a enters the ring when a slot is free. -/
def execTrapRecordAppend (s : State) : Host.Outcome State Fault Refusal :=
  match s.firing? s.ev.a with
  | none => .next s
  | some f =>
    match f.run with
    | .stopped none recd =>
      if s.parts[f.part].ringFull then .next s
      else
        let seq := bits s.parts[f.part].trtail 31 0
        .next ((s.ringPut f.part recd).onFiring f.adm fun f => { f with run := .stopped (some seq) recd })
    | _ => .next s

/-- ERROR_LOG_APPEND (R401): the oldest stored record of partition a enters the ring when a slot is free. -/
def execErrorLogAppend (s : State) : Host.Outcome State Fault Refusal :=
  let p := partNo s.ev.a
  let x := s.parts[p]
  if x.ringFull then .next s
  else match x.errs, x.machs with
    | r :: rs, _ => .next ((s.ringPut p r).onPart p fun x => { x with errs := rs })
    | [], r :: rs => .next ((s.ringPut p r).onPart p fun x => { x with machs := rs })
    | [], [] => .next s

/-- Control offset of a partition's register. -/
def partReg (p o : Nat) : Nat := 0x1000000 + p % 16 * 0x100000 + o

/-- TRHEAD_WRITE (R374): v to the TRHEAD of partition a. -/
def execTrheadWrite (s : State) : Host.Outcome State Fault Refusal :=
  .next (s.ctlWrite (partReg s.ev.a 0x50) (BitVec.allOnes 64) s.ev.v)

/-! ## Resumption by the supervisor (R198) -/

/-- The stopped firing of a partition whose record has a sequence number. -/
def State.stoppedAt (s : State) (p : Fin 16) (seq : Nat) : Option Firing :=
  (s.residents p).find? fun f => match f.run with
    | .stopped (some k) _ => k == seq
    | _ => false

/-- FCMD_RESUME_PC (R198): the firing of record b of partition a goes on at the record's PC. -/
def execFcmdResumePc (s : State) : Host.Outcome State Fault Refusal :=
  match s.stoppedAt (partNo s.ev.a) s.ev.b with
  | none => .next s
  | some f => .next (s.onFiring f.adm fun f => { f with run := .running })

/-- FCMD_RESUME_UTVEC (R198): only while INTRAP is 0, when tcause, tval and tpc are the record's. An access held on a full log is given up. -/
def execFcmdResumeUtvec (s : State) : Host.Outcome State Fault Refusal :=
  match s.stoppedAt (partNo s.ev.a) s.ev.b with
  | none => .next s
  | some f => if f.intrap then .next s
    else .next ((s.withdraw f.adm).onFiring f.adm fun f => { f.enterHandler f.tcause f.tval f.tpc with run := .running })

end Sys2Proof.Machine
end

