-- ==== Sys2Proof/Machine/Messages.lean ====
section
/-! DEFINITION. Messages at the receiving core: dispatch through the entry table, refusals, and their return (R81, R177 to R180, R338). -/

namespace Sys2Proof.Machine

/-- What the receiving core decides about a message (R81, R180). -/
inductive Verdict where
  | refuse (sub : Nat)
  | create (f : Firing)

/-- The partition a frond belongs to. -/
def State.partOf (s : State) (h : Nat) : Option (Fin 16) := (List.finRange 16).find? fun p => (s.parts[p]).hasFrond h

/-- The demand of an entry that keeps R81 on a core. -/
def entryOk (w1 : Word) (stage : Bool) : Bool :=
  let d := demandOf w1
  decide (16 ≤ d.xregs) && demandCode d false == 0 && !bit w1 31 && !bit w1 23 && bits w1 63 45 == 0
    && !(stage && (d.accs != 0 || d.btiles != 0))

/-- The handler firing of an entry (R74): x3 the header, x4 the sender, the payload from x5 on. -/
def handlerFiring (p : Fin 16) (m : Message) (w0 w1 w2 : Word) : Firing :=
  let regs : List Word := [0, 0, 0, m.header, BitVec.ofNat 64 (m.srcPkg * 2 ^ 32 + m.srcCore)] ++ m.payload
  { Firing.blank with
    part := p, tid := BitVec.ofNat 64 (2 ^ 62 + bits m.header 7 0), fid := 0, fcnt := 1, fparm := w2, dem := demandOf w1
    prio := bits w1 30 28, pc := w0 &&& 0x01FFFFFFFFFFFFFC, msg := some m.header
    x := Firing.blank.x.mapIdx fun i _ => regs.getD i 0 }

/-- The checks of R81 and subcode 3 of R180 on a message. -/
def State.verdict (s : State) (m : Message) : Verdict :=
  match s.partOf (m.core / 2) with
  | none => .refuse 3
  | some p =>
    let q := s.parts[p]
    if !(m.srcPkg == s.dev.pkg && m.srcPart == p.val) && !bit q.pcfg 4 then .refuse 3
    else match s.unitRead p ⟨m.core / 512 % 4, by omega⟩ (q.etbase.toNat + 32 * bits m.header 7 0) 32 with
      | none => .refuse 1
      | some (_, v) =>
        let w := wordsOf 4 v
        if !bit (dword w 0) 0 then .refuse 1
        else if entryOk (dword w 1) (m.core % 2 == 0) then .create (handlerFiring p m (dword w 0) (dword w 1) (dword w 2))
        else .refuse 2

/-- A refusal on its way back to the sender (R180). -/
def State.refuseMessage (s : State) (m : Message) (sub : Nat) : State :=
  if m.srcPkg = s.dev.pkg then s.push .messageRefusalReturn m.adm sub (senderName m.srcCore m.srcPart m.hand) m.header
  else s.send (.refusal m.srcPkg m.srcCore m.adm sub m.header)

/-- Handlers of an entry held back while a pre-emption of them is under way (R203). -/
def State.entryHeld (s : State) (p : Fin 16) (header : Word) : Bool := match s.parts[p].req with
  | some r => !r.resume && r.handlers && bits r.tid 7 0 == bits header 7 0
  | none => false

/-- The message taken out of its buffer. -/
def State.unbuffer (s : State) (c : Fin 2048) (m : Message) : State := s.onCore c fun x => x.drop m

/-- A message acted on once its place in the order log is granted: refused, or its handler created, which raises FMTMIS at once on a TOPX
mismatch (R180). -/
def State.arrive (s : State) (c : Fin 2048) (m : Message) : Option State :=
  match s.verdict m with
  | .refuse sub => some ((s.unbuffer c m).refuseMessage m sub)
  | .create f =>
    if s.entryHeld f.part m.header then none
    else (s.spawn c f).map fun t =>
      let t := t.unbuffer c m
      if bit m.header 8 == bit s.parts[f.part].pcfg 0 then t
      else t.trapFiring s.next (Trap.pending { c := .fmtmis, sub := 0, val := m.header })

/-- One buffered message tried: what it comes to, if it can move. A full order log stops its sender once (R340). -/
def State.tryMessage (s : State) (c : Fin 2048) (m : Message) : Option State :=
  match m.team.bind s.teamOf with
  | none => s.arrive c m
  | some t =>
    match s.logOp t 3 ⟨c.val / 512, by have := c.isLt; omega⟩ (coreSite c.val) m.me with
    | .ok s => s.arrive c m
    | .held => none
    | .full sub d =>
      if m.told then none
      else
        let s := s.onCore c fun x => { x with inbound := x.inbound.map fun y => if y = m then { y with told := true } else y }
        some (s.trapFiring m.adm (Trap.pending { c := .logfull, sub := sub, val := BitVec.ofNat 64 d }))

/-- The oldest message of each source in a buffer. -/
def firstOfEach : List (Nat × Nat) → List Message → List Message
  | _, [] => []
  | seen, m :: ms =>
    if seen.contains (m.srcPkg, m.srcCore) then firstOfEach seen ms
    else m :: firstOfEach ((m.srcPkg, m.srcCore) :: seen) ms

/-- The walk that reading a message's entry makes (R371). -/
def State.touchEntry (s : State) (m : Message) : State := match s.partOf (m.core / 2) with
  | some p => s.touch p ⟨m.core / 512 % 4, by omega⟩ ((s.parts[p]).etbase.toNat + 32 * bits m.header 7 0) 32
  | none => s

/-- The first message of a core's buffer that can move. -/
def State.dispatch (s : State) (c : Fin 2048) : Option State :=
  (firstOfEach [] s.cores[c].inbound).findSome? fun m => (s.touchEntry m).tryMessage c m

/-- MESSAGE_DISPATCH (R81, R180): core a. -/
def execMessageDispatch (s : State) : Host.Outcome State Fault Refusal := .next ((s.dispatch (coreNo s.ev.a)).getD s)

/-- MESSAGE_REFUSAL_RETURN (R180): subcode b to firing a, the sender as one number in c, the header in v. -/
def execMessageRefusalReturn (s : State) : Host.Outcome State Fault Refusal :=
  let core := s.ev.c % 2 ^ 11
  let part := partNo (s.ev.c / 2 ^ 11)
  let hand := s.ev.c / 2 ^ 15 % 2 == 1
  match s.firing? s.ev.a with
  | some f => .next (s.onFiring f.adm fun f => f.report 16 (BitVec.ofNat 64 (s.ev.b * 256 + bits s.ev.v 7 0)) hand)
  | none => .next (s.errorLog part 2 s.ev.b (BitVec.ofNat 64 (s.dev.pkg * 2 ^ 32 + core)) s.ev.v)

end Sys2Proof.Machine
end

