-- ==== Sys2Proof/Machine/Copies.lean ====
section
/-! DEFINITION. The copy channels at work (R183, R185 to R190). An event names the frond in a and the channel in b. -/

namespace Sys2Proof.Machine

/-! ## Where a byte of a copy lies (R183, R218) -/

/-- The trap code of a failed request. -/
def stopCode : Stop → Nat
  | .trap t => t.c.code
  | .trapIn _ t => t.c.code
  | .wait _ _ => 0

/-- An address of the issuing firing, the acting one, checked for one byte; range locks do not hold engines (R190). -/
def State.byteAt (s : State) (ac : Acc) (a : Int) : Except Nat (State × Place) :=
  if a < 0 || a ≥ 2 ^ 57 then .error 3
  else match s.resolve ac a.toNat 1 with
    | .error e => .error (stopCode e)
    | .ok (s, pl) => match s.window ac pl 1 0 with
      | .ok _ => .ok (s, pl)
      | .error e => .error (stopCode e)

/-- A byte of a sharded side, from the snapshot taken at CGO. An element that its base or pitch misaligns is refused at its owner: with ALIGN
here, at another package with SHARD for the ALIGN that it would answer (R218, R219). -/
def State.shardByte (s : State) (ac : Acc) (w : Word) (d : List Word) (place : List (Nat × Word × Word)) (b : Nat) :
    Except Nat (State × Place) :=
  let esz := 2 ^ bits (dword d 0) 5 4
  let l := bits w 63 16 + b / esz
  if elemsOf d ≤ l then .error 12
  else
    let (k, off) := shardOf d l
    match place.find? fun x => x.1 == k with
    | none => .error 12
    | some (_, w0, w1) =>
      let addr := (bits w1 56 0 + off) % 2 ^ 57
      let owner := bits w0 21 0
      if bits w0 63 22 != 0 || bits w1 63 57 != 0 then .error 12
      else if owner = s.dev.pkg then (if addr % esz = 0 then s.byteAt ac ((addr + b % esz : Nat) : Int) else .error 3)
      else match s.peerFor s.fir.part owner with
        | none => .error 12
        | some e => if addr % esz ≠ 0 then .error 12 else .ok (s, .far owner (bits e 25 22) (addr + b % esz))

/-- The place of source byte b. -/
def State.copySrc (s : State) (c : Copy) (b : Nat) : Except Nat (State × Place) :=
  if copyShs c.cr then s.shardByte .load c.cr[0] c.srcDesc c.srcPlace b
  else s.byteAt .load (((c.cr[0]).toNat : Int) + digitOff (copyDigits c.cr) b)

/-- The place of destination byte b. -/
def State.copyDst (s : State) (c : Copy) (b : Nat) : Except Nat (State × Place) :=
  if copyShd c.cr then s.shardByte .store c.cr[1] c.dstDesc c.dstPlace b
  else s.byteAt .store (((c.cr[1]).toNat + b : Nat) : Int)

/-- The places of some bytes, checked in order. -/
def State.copyPlaces (s : State) (at_ : State → Nat → Except Nat (State × Place)) : List Nat → Except Nat (State × List Place)
  | [] => .ok (s, [])
  | b :: bs => do
    let (s, pl) ← at_ s b
    let (s, pls) ← s.copyPlaces at_ bs
    .ok (s, pl :: pls)

/-! ## A sector -/

/-- The channel's copy. -/
def State.copyIn (s : State) (h : Fin 1024) (ch : Fin 4) : Option Copy := (s.fronds[h].chans[ch]).filter Copy.live

/-- The channel's copy changed. -/
def State.onCopy (s : State) (h : Fin 1024) (ch : Fin 4) (g : Copy → Copy) : State :=
  s.onFrond h fun x => { x with chans := x.chans.set ch (x.chans[ch].map g) }

/-- The bytes of the sector under way. -/
def Copy.sector (c : Copy) : List Nat := (List.range (min 128 (copyLen c.cr - c.bytes))).map (c.bytes + ·)

/-- A byte of the sector asked of another package (R224, R226): its sequence number, or none from a lost one. -/
def State.copyAsk (s : State) (pkg part : Nat) (req : Req) (addr v : Nat) : State × Option Nat :=
  if s.lost.contains pkg then (s, none)
  else
    let (q, s) := s.streamSeq pkg
    (s.ask pkg part q 0 req addr 1 (BitVec.ofNat 64 v) 0, some q)

/-- Source byte i of a sector read, or asked for. -/
def State.copyRead (s : State) (h : Fin 1024) (ch : Fin 4) (i : Nat) (pl : Place) : State :=
  let put (s : State) (v : Nat) : State := s.onCopy h ch fun c => { c with buf := c.buf.set i v }
  match pl with
  | .far pkg part addr =>
    let (s, q) := s.copyAsk pkg part .load addr 0
    match q with
    | some q => s.onCopy h ch fun c => { c with pends := c.pends ++ [(pkg, q, i)] }
    | none => put (s.upd fun f => f.poisoned pkg) (poison 8 / 2 ^ (8 * (i % 4)) % 256)
  | pl => let (s, v) := s.loadAt pl 1; put s v

/-- A byte of device memory written by a copy: at home, and in what the issuing frond reads (R144, R238). -/
def State.devPut (s : State) (k v : Nat) : State :=
  let b : Byte := BitVec.ofNat 8 v
  ((s.useKey k).homePut s.fir.frond .fi false [k] (s.mem.set k b)).onFrond s.fir.frond fun x =>
    { x with held := x.held.filter fun y => y.1 != k, snap := x.snap.set k b }

/-- A destination byte written, or sent to its owner. Those of one line for a lost CXL device are dropped and counted once (R382). -/
def State.copyWrite (s : State) (h : Fin 1024) (ch : Fin 4) (i v : Nat) (pl : Place) : State :=
  match pl with
  | .far pkg part addr =>
    let (s, q) := s.copyAsk pkg part .store addr v
    match q with
    | some q => s.onCopy h ch fun c => { c with pends := c.pends ++ [(pkg, q, i)] }
    | none => s.dropped s.fir.part 1
  | .dev k => if s.cxlLost k then (if i = 0 || k % 128 = 0 then s.dropped s.fir.part 1 else s) else s.devPut k v
  | pl => s.storeAt pl 1 v

/-- A fault noted: it ends the copy as an event of its own. -/
def State.copyFail (s : State) (h : Fin 1024) (ch : Fin 4) (code : Nat) : State := s.push .copyFault h.val ch.val code 0

/-- The barrier's update for one sector (R188): the trap code of its address, if it fails. -/
def State.sectorTb (s : State) (tb : Word) : Except Nat State :=
  if tb = 0 then .ok s
  else match s.resolve .obj tb.toNat 16 with
    | .error e => .error (stopCode e)
    | .ok (s, pl) => match s.window .obj pl 16 tb with
      | .error e => .error (stopCode e)
      | .ok _ =>
        let b := s.barrierAt pl.key
        .ok (s.updateBarrier pl.key { b with sect := b.sect - 1 })

/-- A written sector counted: the write pointer rises, the locked destination shrinks, the barrier is updated (R183, R190). -/
def State.sectorDone (s : State) (h : Fin 1024) (ch : Fin 4) (c : Copy) : State :=
  let n := c.bytes + c.sector.length
  let s := s.onCopy h ch fun c => { c with bytes := n, phase := 0, buf := [], pends := [] }
  let lo := lockAddr h (c.cr[1]).toNat + n
  let shrink (l : Lock) : Lock := if l.dst && l.own == .copy c.id then { l with lo := lo } else l
  let s := s.onFrond h fun x => { x with locks := x.locks.map shrink }
  match s.sectorTb c.cr[6] with
  | .error code => s.copyFail h ch code
  | .ok s => if copyLen c.cr ≤ n then s.push .copyComplete h.val ch.val 0 0 else s.push .copySector h.val ch.val 0 0

/-- A sector whose source bytes are at hand is written, or sent. -/
def State.sectorOut (s : State) (h : Fin 1024) (ch : Fin 4) (c : Copy) : State :=
  match s.copyPlaces (fun s b => s.copyDst c b) c.sector with
  | .error code => s.copyFail h ch code
  | .ok (s, pls) =>
    let s := s.onCopy h ch fun c => { c with phase := 2 }
    let s := (pls.zip c.buf).zipIdx.foldl (fun s x => s.copyWrite h ch x.2 x.1.2 x.1.1) s
    match s.copyIn h ch with
    | some c => if c.pends.isEmpty then s.sectorDone h ch c else s.push .copySector h.val ch.val 0 0
    | none => s

/-- The next part of a copy, with its issuing firing as the acting one. -/
def State.sectorStep (s : State) (h : Fin 1024) (ch : Fin 4) (c : Copy) : State :=
  if c.bad ≠ 0 then s.copyFail h ch c.bad
  else if c.phase = 0 then
    match s.copyPlaces (fun s b => s.copySrc c b) c.sector with
    | .error code => s.copyFail h ch code
    | .ok (s, pls) =>
      let s := s.onCopy h ch fun c => { c with phase := 1, buf := List.replicate pls.length 0 }
      let s := pls.zipIdx.foldl (fun s x => s.copyRead h ch x.2 x.1) s
      match s.copyIn h ch with
      | some c => if c.pends.isEmpty then s.sectorOut h ch c else s.push .copySector h.val ch.val 0 0
      | none => s
  else if c.phase = 1 then s.sectorOut h ch c
  else s.sectorDone h ch c

/-- A copy may move: no answer outstanding, and no new sector for a firing that is being stopped (R203). -/
def State.copyMay (s : State) (c : Copy) : Bool :=
  c.pends.isEmpty && !(c.phase == 0 && (match s.firing? c.adm with
    | some f => s.halting f
    | none => false))

/-- A channel by its number. -/
def chanNo (n : Nat) : Fin 4 := ⟨n % 4, by omega⟩

/-- COPY_SECTOR (R183): the sector under way in a channel, begun, continued or ended; a copy whose bytes are all delivered has none (R18). -/
def execCopySector (s : State) : Host.Outcome State Fault Refusal :=
  let h := frondNo s.ev.a
  let ch := chanNo s.ev.b
  match s.copyIn h ch with
  | none => .next s
  | some c => if s.copyMay c && decide (c.bytes < copyLen c.cr) then .next (s.asFiring c.adm fun s => s.sectorStep h ch c) else .next s

/-! ## The end of a copy (R185, R186) -/

/-- A completion word pushed to q12, or lost (R186). -/
def Firing.pushQ12 (f : Firing) (w : Word) : Firing :=
  if f.q12.length < 16 then { f with q12 := f.q12 ++ [w] } else { f with q12lost := true }

/-- A copy ends with a code: its word, its range-lock entries, its channel. -/
def State.endCopy (s : State) (h : Fin 1024) (ch : Fin 4) (c : Copy) (code : Nat) : State :=
  let w : Word := BitVec.ofNat 64 ((c.bytes + 127) / 128 % 2 ^ 24 * 2 ^ 24 + code * 2 ^ 16 + c.id)
  let s := if bit c.cr[7] 61 then s else s.onFiring c.adm fun f => f.pushQ12 w
  (s.unlock h (.copy c.id)).onFrond h fun x => { x with chans := x.chans.set ch none }

/-- COPY_COMPLETE (R186). -/
def execCopyComplete (s : State) : Host.Outcome State Fault Refusal :=
  let h := frondNo s.ev.a
  let ch := chanNo s.ev.b
  match s.copyIn h ch with
  | none => .next s
  | some c => if copyLen c.cr ≤ c.bytes then .next (s.endCopy h ch c 0) else .next s

/-- COPY_FAULT (R185): with trap code c. -/
def execCopyFault (s : State) : Host.Outcome State Fault Refusal :=
  let h := frondNo s.ev.a
  let ch := chanNo s.ev.b
  match s.copyIn h ch with
  | none => .next s
  | some c =>
    let v : Word := BitVec.ofNat 64 (c.id + 2 ^ 16 * s.ev.c)
    .next ((s.endCopy h ch c s.ev.c).onFiring c.adm fun f => f.report 16 v c.hand)

/-- An answer to a copy's request: the byte, or the owner's refusal, which the copy reports as SHARD (R219, R226). One of a lost package is
discarded (R389). -/
def State.copyAnswer (s : State) (n pkg seq code : Nat) (v : Word) : State :=
  match if s.lost.contains pkg then none else s.firing? n with
  | none => s
  | some f =>
    let one (c : Copy) : Copy :=
      match c.pends.find? fun p => p.1 == pkg && p.2.1 == seq with
      | none => c
      | some p =>
        let c := { c with pends := c.pends.erase p }
        if code ≠ 0 then { c with bad := 12 } else if c.phase = 1 then { c with buf := c.buf.set p.2.2 (v.toNat % 256) } else c
    s.onFrond f.frond fun x => { x with chans := x.chans.map fun c => c.map fun c => if c.adm = n then one c else c }

end Sys2Proof.Machine
end

