-- ==== Sys2Proof/Machine/Matrix.lean ====
section
/-! DEFINITION. The matrix array, accumulators and tile registers (R293 to R311). -/

namespace Sys2Proof.Machine

/-! ## Operand types (R294) -/

/-- The prefix an MMA works under: both types bf16 without one. -/
def mmaPrefx (w : BitVec 32) : Prefx :=
  if w = 0 then { fa := .bf16, fb := .bf16, sc := false, xs := 0, pl := 0, ctr := false } else prefxOf w

/-- An FP8 type. -/
def fp8 (t : ElemTy) : Bool := t == .e4m3 || t == .e5m2

/-- The pair and its sc value are in the table of R294. -/
def Prefx.mmaOk (p : Prefx) : Bool :=
  (p.fa == .bf16 && p.fb == .bf16 && !p.sc) || (p.fa == .f16 && p.fb == .f16 && !p.sc) || (fp8 p.fa && fp8 p.fb)
    || (p.fa == .e2m1 && p.fb == .e2m1 && p.sc) || (p.fa == .i8 && p.fb == .i8 && !p.sc)
    || (p.fa == .bpn && p.fb == .i8) || (p.fa == .i8 && p.fb == .bpn)

/-- Integer mode. -/
def Prefx.isInt (p : Prefx) : Bool := (p.fa == .i8 || p.fb == .i8) && !p.sc

/-- A type that block scales go with. -/
def scalable (t : ElemTy) : Bool := narrow t || t == .bpn

/-- Elements of a line, K. -/
def lineElems (t : ElemTy) : Nat :=
  match t with
  | .bf16 | .f16 => 32
  | .e2m1 => 128
  | _ => 64

/-- Scale blocks of a line, G. -/
def lineBlocks (t : ElemTy) : Nat := if t = .e2m1 then 2 else 1

/-! ## Where an operand lies (R295, R296) -/

/-- An operand: from a tile, or its scratchpad pair. -/
structure MmaOp where
  tile : Option Nat
  base : Nat
  rp : Nat
  tp : Nat
  rot : Nat
  ty : ElemTy
  /-- Scale-array offset, when scales are in use. -/
  scale : Option Nat
  deriving DecidableEq, Repr

/-- An operand from its fields: scratchpad pair or tile, type, and the scale offset of the prefix's xs. -/
def mmaOp (sp : Bool) (n : Nat) (w0 w1 : Word) (t : ElemTy) (sc : Bool) (off : Nat) : MmaOp :=
  { tile := if sp then none else some n, base := bits w0 19 0, rp := bits w1 19 0, tp := bits w1 39 20, rot := bits w1 43 40, ty := t,
    scale := if sc && scalable t then some off else none }

/-- Operand A of an MMA word under a prefix. -/
def opA (w : BitVec 32) (p : Prefx) (a0 a1 xs : Word) : MmaOp :=
  mmaOp (w.getLsbD 24) (w.extractLsb' 19 5).toNat a0 a1 p.fa p.sc (bits xs 19 0)

/-- Operand B. -/
def opB (w : BitVec 32) (p : Prefx) (b0 b1 xs : Word) : MmaOp :=
  mmaOp (w.getLsbD 18) (w.extractLsb' 13 5).toNat b0 b1 p.fb p.sc (bits xs 39 20)

/-- The scratchpad offset of line l at step st. -/
def MmaOp.line (o : MmaOp) (st l : Nat) : Nat :=
  let a := o.base + st * o.tp + l * o.rp
  if o.rot = 0 then a else a / 2048 * 2048 + (a / 64 % 32 + l * o.rot) % 32 * 64 + a % 64

/-- One past the last byte of the lines of n steps, and of the scales. -/
def MmaOp.ends (o : MmaOp) (n : Nat) : Nat × Nat :=
  (if o.tile.isSome then 0 else o.base + (n - 1) * o.tp + 63 * o.rp + 64,
   match o.scale with
   | some s => s + 64 * (n * lineBlocks o.ty)
   | none => 0)

/-- The bytes of a line that are read: 8p of p bit planes, else all 64 (R293). -/
def lineBytes (t : ElemTy) (planes : Nat) : Nat := if t = .bpn then 8 * planes else 64

/-- The interval of effective addresses an operand reads in n steps, lines and scales, if it reads the scratchpad: widened to 2 KiB boundaries
when its lines are rotated (R298). -/
def MmaOp.lock (o : MmaOp) (n planes : Nat) (own : LockOwner) : List Lock :=
  let (le, se) := o.ends n
  let lines : List (Nat × Nat) := if o.tile.isSome then [] else [(o.base, le - (64 - lineBytes o.ty planes))]
  let all := lines ++ (match o.scale with
    | some s => [(s, se)]
    | none => [])
  match all with
  | [] => []
  | x :: xs =>
    let ap := 0x1FF0 * 2 ^ 44
    let lo := xs.foldl (fun m y => min m y.1) x.1
    let hi := xs.foldl (fun m y => max m y.2) x.2
    let wide := o.rot != 0 && o.tile.isNone
    [{ lo := ap + (if wide then lo / 2048 * 2048 else lo), hi := ap + (if wide then (hi + 2047) / 2048 * 2048 else hi), dst := false, own := own }]

/-! ## Tile shapes (R306, R307) -/

/-- The shape register of a tile. -/
def Firing.shape (f : Firing) (t : Nat) : Word := f.tshape.toList.getD t 0
/-- C: configured. -/
def shapeC (w : Word) : Bool := bit w 31
/-- Rows. -/
def shapeRows (w : Word) : Nat := bits w 5 0 + 1
/-- Row bytes. -/
def shapeRowBytes (w : Word) : Nat := 4 * (bits w 11 6 + 1)
/-- Element type. -/
def shapeTy (w : Word) : ElemTy := (ElemTy.ofCode (BitVec.ofNat 4 (bits w 15 12))).getD .f32

/-- A tile's shape is one an instruction may use (R307). -/
def shapeOk (w : Word) : Bool :=
  shapeC w && decide (shapeRows w * shapeRowBytes w ≤ 4096) && shapeRowBytes w % esize (shapeTy w) == 0

/-- The shape check: TILECFG with the tile number. -/
def State.tileOk (s : State) (t : BitVec 3) : Except Stop Unit := check (shapeOk (s.fir.shape t.toNat)) .tilecfg (BitVec.ofNat 64 t.toNat)

/-- A tile register tagged for a saved firing is written to its slot before another firing's first access to it (R207, R310). -/
def State.touchTile (s : State) (t : Nat) : State :=
  match s.fir.tphys[t]? with
  | none => s
  | some ph => match s.cores[s.fir.core].lazyTiles.find? fun z => z.phys == ph with
    | none => s
    | some z =>
      let s := s.onCore s.fir.core fun c => { c with lazyTiles := c.lazyTiles.erase z }
      (s.unitWrite z.part s.fir.die z.slot.toNat 4096 z.data.toNat).getD s

/-! ## MMA at issue (R298) -/

/-- TILECFG of a tile operand: 64 configured rows of 64 B of the operand's type. -/
def State.mmaTile (s : State) (o : MmaOp) : Except Stop Unit :=
  match o.tile with
  | none => .ok ()
  | some t =>
    let w := s.fir.shape t
    check (shapeC w && shapeRows w == 64 && shapeRowBytes w == 64 && shapeTy w == o.ty) .tilecfg (BitVec.ofNat 64 t)

/-- ALIGN of an operand's pair, in field order. -/
def MmaOp.aligned (o : MmaOp) : Except Stop Unit :=
  if o.tile.isSome then .ok ()
  else match [o.base, o.rp, o.tp].find? fun v => v % 64 != 0 with
    | some v => raise .align (BitVec.ofNat 64 v)
    | none => .ok ()

/-- ALIGN of a scale offset in use. -/
def MmaOp.scaleAligned (o : MmaOp) : Except Stop Unit :=
  match o.scale with
  | some v => check (v % 64 == 0) .align (BitVec.ofNat 64 v)
  | none => .ok ()

/-- PROT of an operand: offset bits above the scratchpad, or a byte beyond it; tval is x(2n), or the xs value for a scale. -/
def MmaOp.inside (o : MmaOp) (n : Nat) (w0 xs : Word) : Except Stop Unit := do
  let (le, se) := o.ends n
  if o.tile.isNone then check (bits w0 63 20 == 0 && decide (le ≤ 2 ^ 20)) .prot w0
  check (decide (se ≤ 2 ^ 20)) .prot xs

/-- Accumulator an MMA word names. -/
def mmaAcc (w : BitVec 32) : Nat := (w.extractLsb' 25 2).toNat
/-- Its number of steps. -/
def mmaSteps (w : BitVec 32) : Nat := (w.extractLsb' 7 6).toNat + 1
/-- Its TOK bit. -/
def mmaTok (w : BitVec 32) : Bool := w.getLsbD 31

/-- The acting firing's incomplete MMAs, oldest first. -/
def State.myMmas (s : State) : List MmaJob := s.cores[s.fir.core].mmas.filter fun j => j.adm == s.fir.adm

/-- An MMA of the firing still uses an accumulator. -/
def State.accBusy (s : State) (a : BitVec 2) : Bool := s.myMmas.any fun j => mmaAcc j.word == a.toNat

/-- An MMA of the firing still reads a tile. -/
def State.tileBusy (s : State) (t : BitVec 3) : Bool :=
  s.myMmas.any fun j => (!j.word.getLsbD 24 && (j.word.extractLsb' 19 5).toNat == t.toNat)
    || (!j.word.getLsbD 18 && (j.word.extractLsb' 13 5).toNat == t.toNat)

/-- Every MMA of the accumulator has begun its last step: it heads the array with one step left (R300). -/
def State.accLast (s : State) (a : BitVec 2) : Bool :=
  (s.myMmas.filter fun j => mmaAcc j.word == a.toNat).all fun j =>
    s.cores[s.fir.core].mmas.head? == some j && j.done + 1 == mmaSteps j.word

/-- An accumulator zeroed, flags kept. -/
def State.zeroAcc (s : State) (n a : Nat) : State :=
  s.onFiring n fun f => { f with acc := f.acc.mapIdx fun i x => if i = a then 0 else x }

/-- MMA (R297 to R301): accepted by the array. CLR acts at once, or when the MMA before it on the accumulator completes (R305). -/
def execMma (t c : Bool) (a : BitVec 2) (sa : Bool) (ra : BitVec 5) (sb : Bool) (rb : BitVec 5) (k : BitVec 6) (s : State) :
    Host.Outcome State Fault Refusal :=
  let d := descOf (.mma t c a sa ra sb rb k)
  let pfx (s : State) : BitVec 32 := if s.fir.fpend then s.fir.pfx else 0
  issue d true (fun s => !(mmaPrefx (pfx s)).mmaOk) never (fun s => do
    let p := mmaPrefx (pfx s)
    let n := k.toNat + 1
    let pair (sp : Bool) (r : BitVec 5) (i : Nat) : Word := if sp then s.fir.rxn (2 * r.toNat + i) else 0
    let xs := s.rx p.xs
    let xs := if p.sc then xs else 0
    if bits (pair sa ra 1) 63 44 ≠ 0 ∨ bits (pair sb rb 1) 63 44 ≠ 0 then d.illWord
    let oa := opA d.word p (pair sa ra 0) (pair sa ra 1) xs
    let ob := opB d.word p (pair sb rb 0) (pair sb rb 1) xs
    s.mmaTile oa
    s.mmaTile ob
    oa.aligned
    ob.aligned
    oa.scaleAligned
    ob.scaleAligned
    oa.inside n (pair sa ra 0) xs
    ob.inside n (pair sb rb 0) xs
    let num := s.fir.mmas
    let own := LockOwner.mma s.fir.adm num
    let locks := oa.lock n (p.pl + 1) own ++ ob.lock n (p.pl + 1) own
    let toks := s.fir.q13.length + (s.myMmas.filter fun j => mmaTok j.word).length
    if 8 ≤ s.cores[s.fir.core].mmas.length ∨ s.accLast a = false ∨ (t = true ∧ 16 ≤ toks) then block s .array
    s.afterEarlier
    s.lockRoom locks.length
    let s := (if sa then s else s.touchTile ra.toNat)
    let s := (if sb then s else s.touchTile rb.toNat)
    let first := s.cores[s.fir.core].mmas.isEmpty
    let clr := c && s.accBusy a
    let s := if c && !clr then s.zeroAcc s.fir.adm a.toNat else s
    let job : MmaJob :=
      { adm := s.fir.adm, word := d.word, pfx := pfx s, topx := s.fir.topx, a0 := pair sa ra 0, a1 := pair sa ra 1, b0 := pair sb rb 0,
        b1 := pair sb rb 1, xs := xs, clr := clr, done := 0, num := num }
    let s := s.onCore s.fir.core fun x => { x with mmas := x.mmas ++ [job] }
    let s := s.onFrond s.fir.frond fun x => { x with locks := x.locks ++ locks }
    let s := if first then s.push .mmaStep s.fir.core.val 0 0 0 else s
    .ok (.done (s.upd fun f => { f.clrPfx with mmas := f.mmas + 1 }))) s

/-! ## One K-step (R63, R299) -/

/-- An operand value: NaN, an infinity by sign, or a finite value in units of 2^-160. -/
structure MV where
  nan : Bool
  inf : Int
  v : Int
  deriving DecidableEq, Repr

/-- A value times 2^sc. -/
def mvOf (x : FV) (sc : Int) : MV :=
  match x with
  | .nan _ _ => { nan := true, inf := 0, v := 0 }
  | .inf neg => { nan := false, inf := if neg then -1 else 1, v := 0 }
  | .fin neg m e =>
    let u : Int := (m * 2 ^ (e + sc + 160).toNat : Nat)
    { nan := false, inf := 0, v := if neg then -u else u }

/-- The value of element k of a line of a type, as R53 or R294 reads it. -/
def lineVal (t : ElemTy) (topx : Bool) (p : Nat) (ctr : Bool) (ln : BitVec 512) (k : Nat) : FV :=
  let ofInt' (i : Int) : FV := .fin (decide (i < 0)) i.natAbs 0
  match etNum topx t with
  | .flt F => F.value (elem ln F.width k)
  | .int _ _ =>
    if t = .bpn then
      let top := packNat 1 (((List.range p).map fun j => elem ln 64 j / 2 ^ k % 2).reverse)
      ofInt' (planeValue p ctr top)
    else ofInt' (intOf true 8 (elem ln 8 k))

/-- Line l of an operand at a step, its elements scaled (R293, R296). -/
def State.mmaLine (s : State) (f : Firing) (topx : Bool) (p : Prefx) (o : MmaOp) (st l : Nat) : List MV :=
  let rd (off n : Nat) : Nat := s.mem.read (spadKey f.frond.val off) n
  let ln : BitVec 512 := match o.tile with
    | some t => BitVec.ofNat 512 (elem (f.m.toList.getD t 0) 512 l)
    | none => BitVec.ofNat 512 (rd (o.line st l) 64)
  let scale (k : Nat) : Option Nat := o.scale.map fun b => rd (b + 64 * (st * lineBlocks o.ty + k / 64) + l) 1
  (List.range (lineElems o.ty)).map fun k =>
    let v := lineVal o.ty topx (p.pl + 1) p.ctr ln k
    match scale k with
    | none => mvOf v 0
    | some e => if e = 255 then mvOf (.nan false 0) 0 else mvOf v ((e : Int) - 127)

/-- A sum of products so far: NaN, +∞ and -∞ terms, and the finite part in units of 2^-320. -/
structure Sum where
  nan : Bool
  pinf : Bool
  ninf : Bool
  v : Int
  deriving DecidableEq, Repr

/-- One product added. -/
def Sum.add (x : Sum) (a b : MV) : Sum :=
  let zero (m : MV) : Bool := m.inf == 0 && m.v == 0
  let sg (m : MV) : Int := if m.inf = 0 then m.v.sign else m.inf
  if a.nan || b.nan then { x with nan := true }
  else if a.inf = 0 && b.inf = 0 then { x with v := x.v + a.v * b.v }
  else if zero a || zero b then { x with nan := true }
  else if 0 < sg a * sg b then { x with pinf := true } else { x with ninf := true }

/-- The exact sum of a step for one element. -/
def dot (a b : List MV) : Sum := (a.zip b).foldl (fun x p => x.add p.1 p.2) { nan := false, pinf := false, ninf := false, v := 0 }

/-- A float accumulator element after a step (R63, R70): NX, OF and NV only. -/
def accFloat (acc : Nat) (x : Sum) : Nat × Nat :=
  let nan := x.nan || (x.pinf && x.ninf)
  let nv := if nan then fNV else 0
  match f32.value acc with
  | .nan _ _ => (f32.quiet acc, nv)
  | .inf neg =>
    if nan || (if neg then x.pinf else x.ninf) then (f32.canon, fNV) else (acc, 0)
  | .fin neg m e =>
    if nan then (f32.canon, fNV)
    else if x.pinf then (f32.infBits, 0)
    else if x.ninf then (f32.signed true f32.infBits, 0)
    else
      let (v, q) := sumFin neg m e (decide (x.v < 0)) x.v.natAbs (-320)
      if v = 0 then (0, 0)
      else
        let (w, fl) := roundTo f32 .rne false (decide (v < 0)) v.natAbs q false 0
        (w, fl &&& orF fNX fOF)

/-- SAT of an accumulator's flags (R70). -/
def fSAT : Nat := 32

/-- An integer accumulator element after a step (R63). -/
def accInt (acc : Nat) (x : Sum) : Nat × Nat :=
  let v := intOf true 32 acc + x.v / 2 ^ 320
  (toBits 32 (clampInt true 32 v), if clampInt true 32 v = v then 0 else fSAT)

/-- One K-step of a job: the accumulator and the flags it raises. -/
def State.mmaApply (s : State) (f : Firing) (j : MmaJob) : BitVec 131072 × Nat :=
  let p := mmaPrefx j.pfx
  let oa := opA j.word p j.a0 j.a1 j.xs
  let ob := opB j.word p j.b0 j.b1 j.xs
  let as := (List.range 64).map (s.mmaLine f j.topx p oa j.done)
  let bs := (List.range 64).map (s.mmaLine f j.topx p ob j.done)
  let old := f.acc.toList.getD (mmaAcc j.word) 0
  let upd (acc : Nat) (x : Sum) : Nat × Nat := if p.isInt then accInt acc x else accFloat acc x
  let rs := (as.zipIdx).flatMap fun a => (bs.zipIdx).map fun b => upd (elem old 32 (64 * a.2 + b.2)) (dot a.1 b.1)
  (pack 131072 32 (rs.map (·.1)), rs.foldl (fun x r => orF x r.2) 0)

/-- The token of a completed MMA (R301). -/
def MmaJob.token (j : MmaJob) : Word := BitVec.ofNat 64 (mmaSteps j.word * 2 ^ 16 + mmaAcc j.word * 2 ^ 14 + j.num % 2 ^ 14)

/-- The CLR of the next MMA on an accumulator acts when the one before it completes. -/
def State.nextClr (s : State) (c : Fin 2048) (adm a : Nat) : State :=
  match s.cores[c].mmas.find? fun j => j.adm == adm && mmaAcc j.word == a with
  | none => s
  | some j =>
    if j.clr then (s.zeroAcc adm a).onCore c fun x => { x with mmas := x.mmas.map fun y => if y == j then { y with clr := false } else y }
    else s

/-- The step in progress of a core's array ends (R299, R300). -/
def State.arrayStep (s : State) (c : Fin 2048) : State :=
  match s.cores[c].mmas with
  | [] => s
  | j :: js => match s.firing? j.adm with
    | none => s.onCore c fun x => { x with mmas := js }
    | some f =>
      let (acc, fl) := s.mmaApply f j
      let a := mmaAcc j.word
      let s := s.onFiring j.adm fun f =>
        { f with
          acc := f.acc.mapIdx fun i x => if i = a then acc else x
          accf := f.accf.mapIdx fun i x => if i = a then x ||| BitVec.ofNat 64 fl else x }
      if j.done + 1 < mmaSteps j.word then s.onCore c fun x => { x with mmas := { j with done := j.done + 1 } :: js }
      else
        let s := (s.onCore c fun x => { x with mmas := js }).unlock f.frond (.mma j.adm j.num)
        let s := if mmaTok j.word then s.onFiring j.adm fun f => { f with q13 := f.q13 ++ [j.token] } else s
        s.nextClr c j.adm a

/-! ## Accumulator instructions (R302 to R304) -/

/-- An accumulator instruction waits for every MMA of the firing that names its accumulators. -/
def State.accFree (s : State) (as : List (BitVec 2)) : Except Stop Unit := if as.any s.accBusy then block s .array else .ok ()

/-- Accumulator flags written. -/
def Firing.waf (f : Firing) (a : BitVec 2) (w : Word) : Firing := { f with accf := f.accf.set a.toNat w }

/-- ACCRD (R303): one row, and how far the oldest incomplete MMA is. -/
def execAccrd (v : BitVec 5) (x : BitVec 6) (a : BitVec 2) (r : BitVec 6) (s : State) : Host.Outcome State Fault Refusal :=
  plain (descOf (.accrd v x a r)) (fun s => do
    check (decide ((s.rx r).toNat ≤ 63)) .prot (s.rx r)
    let js := s.myMmas.filter fun j => mmaAcc j.word == a.toNat
    let st : Nat := match js with
      | [] => 0
      | j :: _ => js.length * 2 ^ 16 + j.done
    let row := BitVec.ofNat 2048 (elem (s.fir.ra a) 2048 (s.rx r).toNat)
    .ok (.done ((s.wv v row).wx x (BitVec.ofNat 64 st)))) s

/-- ACCZERO (R304). -/
def execAcczero (d : BitVec 2) (s : State) : Host.Outcome State Fault Refusal :=
  plain (descOf (.acczero d)) (fun s => do
    s.accFree [d]
    .ok (.done (s.upd fun f => f.wa d 0))) s

/-- The places of the 16 KiB of an accumulator, 64 B-aligned, all checked. -/
def State.accPlaces (s : State) (ac : Acc) (a : Word) : Except Stop (State × List Place) := do
  check (bits a 63 57 == 0 && bits a 5 0 == 0) .align a
  s.placesFrom ac a.toNat 2048

/-- ACCLD (R304): flags unchanged. -/
def execAccld (d : BitVec 2) (a : BitVec 6) (s : State) : Host.Outcome State Fault Refusal :=
  plain (descOf (.accld d a)) (fun s => do
    s.accFree [d]
    let (s, pls) ← s.accPlaces .load (s.rx a)
    let base := s.rx a
    let (s, ws) ← s.readWords pls fun i => base + BitVec.ofNat 64 (8 * i)
    .ok (.done (s.upd fun f => f.wa d (pack 131072 64 (ws.map BitVec.toNat))))) s

/-- ACCST (R304). -/
def execAccst (a : BitVec 6) (c : BitVec 2) (s : State) : Host.Outcome State Fault Refusal :=
  plain (descOf (.accst a c)) (fun s => do
    s.accFree [c]
    let (s, pls) ← s.accPlaces .store (s.rx a)
    let base := s.rx a
    let ws := (unpack (s.fir.ra c) 64 2048).map (BitVec.ofNat 64)
    let s ← s.writeWords pls ws fun i => base + BitVec.ofNat 64 (8 * i)
    .ok (.done s)) s

/-- ACCSTAT (R70, R304): with clr the flags are cleared after the read. -/
def execAccstat (x : BitVec 6) (a : BitVec 2) (c : Bool) (s : State) : Host.Outcome State Fault Refusal :=
  plain (descOf (.accstat x a c)) (fun s => do
    s.accFree [a]
    let fl := s.fir.accf[a.toNat]
    let s := s.wx x fl
    .ok (.done (if c then s.upd fun f => f.waf a 0 else s))) s

/-- ACCSWP (R304): elements and flags of two accumulators exchanged. -/
def execAccswp (d a : BitVec 2) (s : State) : Host.Outcome State Fault Refusal :=
  plain (descOf (.accswp d a)) (fun s => do
    s.accFree [d, a]
    .ok (.done (s.upd fun f => (((f.wa d (f.ra a)).wa a (f.ra d)).waf d f.accf[a.toNat]).waf a f.accf[d.toNat]))) s

/-! ## Tile instructions (R308, R309) -/

/-- A tile's move between memory and its words: how many 4-byte words lie in a memory row, the number of memory rows, the pitch, and the
tile word of memory word i of row r. -/
structure TileMove where
  per : Nat
  rows : Nat
  pitch : Nat
  word : Nat → Nat → Nat

/-- The move of a tile (R309). -/
def tileMove (w : Word) (col : Bool) (xp : BitVec 5) (p : Word) : TileMove :=
  let rb := shapeRowBytes w / 4
  let rows := shapeRows w
  let pitch (packed : Nat) : Nat := if xp = 0 then packed else p.toNat
  if col then { per := rows, rows := rb, pitch := pitch (4 * rows), word := fun c r => r * rb + c }
  else { per := rb, rows := rows, pitch := pitch (4 * rb), word := fun r c => r * rb + c }

/-- The memory address of memory word i. -/
def TileMove.addr (m : TileMove) (b : Nat) (i : Nat) : Int := ((b + i / m.per * m.pitch + 4 * (i % m.per) : Nat) : Int)

/-- The checks of a tile move: TILECFG, ALIGN of a row start, R140 of every word in order. -/
def State.tilePlaces (s : State) (ac : Acc) (t : BitVec 3) (col : Bool) (b : Nat) (m : TileMove) :
    Except Stop (State × List Place) := do
  s.tileOk t
  let sz := esize (shapeTy (s.fir.shape t.toNat))
  check (!col || sz == 4) .tilecfg (BitVec.ofNat 64 t.toNat)
  let al := if sz = 8 then 8 else 4
  match (List.range m.rows).find? fun r => (b + r * m.pitch) % al != 0 with
  | some r => raise .align (BitVec.ofNat 64 (b + r * m.pitch))
  | none => .ok ()
  let (s, pls) ← s.blockPlaces ac 4 (m.addr b) (List.range (m.rows * m.per))
  .ok (s, pls.map Prod.snd)

/-- TLD (R309): bytes beyond the shape are kept. -/
def execTld (d : BitVec 3) (a : BitVec 6) (p : BitVec 5) (col : Bool) (s : State) : Host.Outcome State Fault Refusal :=
  plain (descOf (.tld d a p col)) (fun s => do
    let m := tileMove (s.fir.shape d.toNat) col p (s.fir.rxn p.toNat)
    let b := (s.rx a).toNat
    let (s, pls) ← s.tilePlaces .load d col b m
    if s.tileBusy d then block s .array
    let (s, ws) ← s.readParts 4 pls fun i => ofInt (m.addr b i)
    let s := s.touchTile d.toNat
    let new := (ws.zipIdx).foldl (fun (x : BitVec 32768) y => setElem x 32 (m.word (y.2 / m.per) (y.2 % m.per)) y.1.toNat) (s.fir.rm d)
    .ok (.done (s.upd fun f => f.wm d new))) s

/-- TST (R309). -/
def execTst (a : BitVec 6) (t : BitVec 3) (p : BitVec 5) (col : Bool) (s : State) : Host.Outcome State Fault Refusal :=
  plain (descOf (.tst a t p col)) (fun s => do
    let m := tileMove (s.fir.shape t.toNat) col p (s.fir.rxn p.toNat)
    let b := (s.rx a).toNat
    let (s, pls) ← s.tilePlaces .store t col b m
    let s := s.touchTile t.toNat
    let ws := (List.range (m.rows * m.per)).map fun i => BitVec.ofNat 64 (elem (s.fir.rm t) 32 (m.word (i / m.per) (i % m.per)))
    let s ← s.writeParts 4 pls ws fun i => ofInt (m.addr b i)
    .ok (.done s)) s

/-- TZERO (R309). -/
def execTzero (d : BitVec 3) (s : State) : Host.Outcome State Fault Refusal :=
  plain (descOf (.tzero d)) (fun s => do
    s.tileOk d
    if s.tileBusy d then block s .array
    .ok (.done ((s.touchTile d.toNat).upd fun f => f.wm d 0))) s

/-- TMOV (R309): the shape check applies to both tiles, md first (log 35). -/
def execTmov (d a : BitVec 3) (s : State) : Host.Outcome State Fault Refusal :=
  plain (descOf (.tmov d a)) (fun s => do
    s.tileOk d
    s.tileOk a
    if s.tileBusy d then block s .array
    .ok (.done (((s.touchTile d.toNat).touchTile a.toNat).upd fun f => f.wm d (f.rm a)))) s

/-! ## The array's step as an event -/

/-- MMA_STEP (R299): the step in progress on core a ends; the array goes on while it holds an MMA. -/
def execMmaStep (s : State) : Host.Outcome State Fault Refusal :=
  if h : s.ev.a < 2048 then
    let c : Fin 2048 := ⟨s.ev.a, h⟩
    let s := s.arrayStep c
    .next (if s.cores[c].mmas.isEmpty then s else s.push .mmaStep c.val 0 0 0)
  else .next s

end Sys2Proof.Machine
end

