-- ==== Sys2Proof/Machine/Remote.lean ====
section
/-! DEFINITION. Answers, requests of other packages, ports, banks and deques at work (R143, R154, R157, R160 to R162, R181, R190, R192, R223
to R229, R371, R389). An event says in its comment what a, b, c, v and l hold; a firing is named by its admission number. -/

namespace Sys2Proof.Machine

/-! ## Answers to a firing (R143, R154, R157, R226) -/

/-- The reply an outstanding access of a firing awaits. -/
def State.pendReply (s : State) (n pkg seq : Nat) : Option Reply :=
  (s.firing? n).bind fun f => (f.pends.find? fun p => p.pkg == pkg && p.seq == seq).map Pend.reply

/-- LOAD_DATA_RETURN (R157): data v for request c of firing a, or of a copy of it, to package b. -/
def execLoadDataReturn (s : State) : Host.Outcome State Fault Refusal :=
  match s.pendReply s.ev.a s.ev.b s.ev.c with
  | some (.lane _ _ _ _) => .next s
  | some _ => .next (s.answer s.ev.a s.ev.b s.ev.c 0 s.ev.v 0)
  | none => .next (s.copyAnswer s.ev.a s.ev.b s.ev.c 0 s.ev.v)

/-- GATHER_LANE_RETURN (R154, R190): data v for a lane, asked as request c of firing a to package b; or, when l holds a word, the last
return of gather c of firing a of frond b, whose lanes lie in this package: its range-lock entry goes. -/
def execGatherLaneReturn (s : State) : Host.Outcome State Fault Refusal :=
  if !s.ev.l.isEmpty then .next (s.unlock (frondNo s.ev.b) (.gather s.ev.a s.ev.c))
  else match s.pendReply s.ev.a s.ev.b s.ev.c with
  | some (.lane _ _ _ _) => .next (s.answer s.ev.a s.ev.b s.ev.c 0 s.ev.v 0)
  | _ => .next s

/-- OWNER_ANSWER_ARRIVE (R143, R219, R226): the owner's answer to request c of firing a to package b: word v, and in l the code (0 done, 0xFF
withdrawn, else the owner's trap code) and the flags of a cell read. -/
def execOwnerAnswerArrive (s : State) : Host.Outcome State Fault Refusal :=
  let code := (dword s.ev.l 0).toNat
  if (s.pendReply s.ev.a s.ev.b s.ev.c).isSome then .next (s.answer s.ev.a s.ev.b s.ev.c code s.ev.v (dword s.ev.l 1).toNat)
  else .next (s.copyAnswer s.ev.a s.ev.b s.ev.c code s.ev.v)

/-- REMOTE_POISON_COMPLETE (R227, R389): the accesses of firing a that were outstanding when their packages were declared lost complete with poison;
writes are dropped and counted. Tags of bank operations among them are free in time. -/
def execRemotePoisonComplete (s : State) : Host.Outcome State Fault Refusal :=
  match s.firing? s.ev.a with
  | none => .next s
  | some f =>
    match f.pends.filter Pend.dead with
    | [] => .next s
    | ps =>
      let one (f : Firing) (p : Pend) : Firing :=
        let g : Firing := { f.replyPoison p.reply with pends := f.pends.erase p }
        if p.reply = .none then g else g.poisoned p.pkg
      let s := s.dropped f.part (ps.filter fun p => p.reply == .none).length
      let s := ps.foldl (fun s p => s.bankAnswered f.adm p.pkg p.seq) s
      .next ((s.onFiring f.adm fun f => ps.foldl one f).settled f.adm)

/-! ## The owner's port (R143, R181) -/

/-- REMOTE_ACCESS_ARRIVE (R143): the access of firing a reaches the owner's port; its instruction goes on with the windows as they stand. -/
def execRemoteAccessArrive (s : State) : Host.Outcome State Fault Refusal :=
  .next (s.onFiring s.ev.a fun f =>
    if f.wait == some .answer && f.pends.isEmpty then { f with wait := none, granted := true } else f)

/-- STORE_MESSAGE_PERFORM (R181): bits of the byte at offset b of frond a's scratchpad, for firing c; l holds the bits written and their
values. The owner's windows are checked; a refusal reaches the sender as WINREFUSE. -/
def execStoreMessagePerform (s : State) : Host.Outcome State Fault Refusal :=
  let h := frondNo s.ev.a
  let o := s.ev.b % 2 ^ 20
  match s.firing? s.ev.c with
  | none => .next s
  | some f =>
    if h == f.frond || (s.fronds[h].swin.toList.any fun w => winOk w .store f.tid o 1) then
      let k := spadKey h.val o
      let mask := (dword s.ev.l 0).toNat % 256
      let new := (s.mem.get k).toNat &&& (255 - mask) ||| ((dword s.ev.l 1).toNat &&& mask)
      .next { s with mem := s.mem.set k (BitVec.ofNat 8 new) }
    else
      let va : Word := BitVec.ofNat 64 (0x1FF1 * 2 ^ 44 + h.val * 2 ^ 20 + o)
      .next (s.trapFiring f.adm (Trap.pending { c := .winrefuse, sub := 0, val := va }))

/-! ## Requests of other packages (R224, R226) -/

/-- What a request needs of the owner's page (R140 step 4). -/
def Req.acc : Req → Acc
  | .load => .load
  | .store => .store
  | .storeMasked _ => .store
  | .ldfe m => { rd := true, wr := m == .wfe, sync := true, fe := true, cell := false }
  | .stfe _ => { rd := false, wr := true, sync := true, fe := true, cell := false }
  | .withdraw => .load
  | .bank (.amo _ _) => .bank
  | .bank (.famo _ _) => .bank
  | .bank _ => .cells

/-- Steps 1 to 4 of R140 at the owner: the key, or the trap code. A remote page, or an aperture other than 2, is refused with PROT (log 77). -/
def State.ownerCheck (s : State) (p : Fin 16) (ac : Acc) (a n al : Nat) : Except Nat (State × Nat) :=
  let q := s.parts[p]
  if 2 ^ 57 ≤ a || a % al != 0 then .error 3
  else if a / 2 ^ 48 = 0x1FF then
    if a / 2 ^ 29 == 0x1FF2 * 2 ^ 15 && s.shmOk p (a % 2 ^ 29) n then .ok (s, shmKey (a % 2 ^ 29)) else .error 5
  else match s.translate p q.die a ac.wr with
    | none => .error 4
    | some (s, l) =>
      let e := l.pte
      let mt := bits e 11 10
      if (ac.rd && !bit e 1) || (ac.wr && !bit e 2) || bits e 63 56 != bits q.pcfg 39 32 || (ac.sync && !bit e 9) || (ac.fe && !bit e 8)
          || mt == 1 || mt == 2 then .error 5
      else .ok (s, l.pa a)

/-- The request of a stream that its gateway performs next, or a copy of one already performed. One that a full retry list refused is past. -/
def State.nextRequest (s : State) (stream : Nat) : Option (InReq × Bool) :=
  let want := match s.expect.find? fun x => x.1 == stream with
    | some x => x.2
    | none => 0
  let mine := s.inreqs.filter fun r => r.stream == stream && !r.again
  match mine.find? fun r => r.seq == want with
  | some r => some (r, true)
  | none => (mine.find? fun r => decide ((want + 2 ^ 24 - r.seq) % 2 ^ 24 < 2 ^ 23)).map fun r => (r, false)

/-- The direction and mode of a full-empty request: whether it loads, and whether it is .wfe or .sf. -/
def Req.fe : Req → Option (Bool × Bool)
  | .ldfe m => some (true, m == .wfe)
  | .stfe m => some (false, m == .sf)
  | _ => none

/-- The alignment a request needs at its owner. -/
def InReq.align (r : InReq) : Nat := match r.req with
  | .ldfe _ | .stfe _ => 8
  | _ => max r.n 1

/-- What names a full-empty request while it waits. -/
def InReq.far (r : InReq) : FarWait := { pkg := r.pkg, core := r.core, tag := r.tag, stream := r.stream, seq := r.seq, part := r.part }

/-- A full-empty access of another package at its home: performed, or waiting in the retry list; where that is full it is refused, and sent
again later (R149, R226). -/
def State.peerFe (s : State) (r : InReq) (key : Nat) (load sets : Bool) : State :=
  if s.feHolds key load sets then
    let (v, t) := s.feApply none key load sets r.v
    (if load && !sets then t else t.serveAll key).peerDone r.far key v
  else if s.listFull key then { s with inreqs := s.inreqs ++ [{ r with again := true }] }.push .remoteRequestPerform r.stream 0 0 0
  else
    let w : FeWait :=
      { key := key, load := load, sets := sets, val := r.v, rd := 0, adm := 0, addr := BitVec.ofNat 64 r.addr, shard := 0
        peer := some r.far }
    { s with retry := s.retry ++ [w] }

/-- A wait of another package withdrawn, if its access still waits (R150, R226): r names it by its sequence number. -/
def State.peerWithdraw (s : State) (r : InReq) : State :=
  let mine (w : FeWait) : Bool := w.peer.any fun p => p.pkg == r.pkg && p.stream == r.stream && p.seq == r.addr
  let late (q : InReq) : Bool := q.again && q.stream == r.stream && q.seq == r.addr
  if s.retry.any mine || s.inreqs.any late then
    { s with retry := s.retry.filter fun w => !mine w, inreqs := s.inreqs.filter fun q => !late q }.send (.answer r.pkg r.stream r.addr 0xFF 0 0)
  else s

/-- A request performed at the owner's home (R224, R226). -/
def State.performRequest (s : State) (r : InReq) : State :=
  let reply (s : State) (code : Nat) (v : Word) (fl : Nat) : State := s.send (.answer r.pkg r.stream r.seq code v fl)
  if r.req = .withdraw then s.peerWithdraw r
  else match s.ownerCheck (partNo r.part) r.req.acc r.addr r.n r.align with
    | .error c => reply s c 0 0
    | .ok (s, key) => match r.req with
      | .load => reply s 0 (BitVec.ofNat 64 (s.mem.read key r.n)) 0
      | .store => reply (s.homeWrite none key r.n (s.mem.write key r.n r.v.toNat)) 0 0 0
      | .storeMasked m =>
        let ks := (keysFrom key 8).filter fun k => m.getLsbD (k - key)
        reply ((s.homeDone ks (s.mem.writeMasked key m r.v)).keepHeaders s.mem key 8) 0 0 0
      | .ldfe m => s.peerFe r key true (m == .wfe)
      | .stfe m => s.peerFe r key false (m == .sf)
      | .bank op =>
        let (t, resp, fl) := s.bankAt none (peerSource r.pkg r.core) r.tag op key r.v r.w
        reply t 0 resp fl
      | .withdraw => s

/-- A copy of a request whose number is past (R161, R162): a bank operation or full-empty access whose source and tag the filter holds gets the
stored response again, one that still waits here gets nothing, and any other is performed. A copy of anything else is dropped. -/
def State.performCopy (s : State) (r : InReq) : State :=
  let waits := s.retry.any (fun w => w.peer == some r.far) || s.inreqs.any fun q => q.again && q.far == r.far
  match r.req with
  | .bank _ | .ldfe _ | .stfe _ =>
    match s.ownerCheck (partNo r.part) r.req.acc r.addr r.n r.align with
    | .error _ => s.performRequest r
    | .ok (_, key) => match s.filtered (peerSource r.pkg r.core) key r.tag with
      | some f => s.send (.answer r.pkg r.stream r.seq 0 f.resp f.flags)
      | none => if waits then s else s.performRequest r
  | _ => s

/-- A refused full-empty request that can go on now: its condition holds, its list has room, or its page has changed. -/
def State.againMay (s : State) (r : InReq) : Bool :=
  match r.req.fe, s.ownerCheck (partNo r.part) r.req.acc r.addr r.n r.align with
  | some (load, sets), .ok (s, key) => s.feHolds key load sets || !s.listFull key
  | _, _ => true

/-- The next request of a stream performed, if one can be; else one that was refused, sent again. -/
def State.performNext (s : State) (stream : Nat) : Option State :=
  match s.nextRequest stream with
  | some (r, true) =>
    some ({ s with inreqs := s.inreqs.erase r
                   expect := (stream, (r.seq + 1) % 2 ^ 24) :: s.expect.filter fun x => x.1 != stream }.performRequest r)
  | some (r, false) => some ({ s with inreqs := s.inreqs.erase r }.performCopy r)
  | none => (s.inreqs.find? fun r => r.stream == stream && r.again && s.againMay r).map fun r =>
      { s with inreqs := s.inreqs.erase r }.performRequest { r with again := false }

/-- REMOTE_REQUEST_PERFORM (R224): stream a. -/
def execRemoteRequestPerform (s : State) : Host.Outcome State Fault Refusal := .next ((s.performNext s.ev.a).getD s)

/-- The entry of a posted bank operation of firing adm at another package. -/
def State.postedFar (s : State) (adm pkg seq : Nat) : Option BankReq :=
  (s.coreOf adm pkg seq).bind fun c => s.cores[c].busy.find? fun r => r.adm == adm && r.peer.any fun p => p.posted && p.pkg == pkg && p.seq == seq

/-- REMOTE_WRITE_ACK (R225): write or posted bank operation c of firing a to package b acknowledged, with a code in v that is not 0 where a
vector bank lane failed after issue (R167). -/
def execRemoteWriteAck (s : State) : Host.Outcome State Fault Refusal :=
  let e := s.ev
  if s.lost.contains e.b then .next s
  else match s.unacked.find? fun u => u.adm == e.a && u.pkg == e.b && u.seq == e.c with
    | some u => .next { s with unacked := s.unacked.erase u }
    | none => match s.postedFar e.a e.b e.c with
      | none => .next s
      | some q =>
        let s := s.bankAnswered e.a e.b e.c
        .next (if e.v.toNat != 0 && q.lock != 0 then s.push .vectorBankLaneFault e.a 0 0 0 else s)

/-- VECTOR_BANK_LANE_FAULT (R167): a lane of firing a failed after issue; the spec gives the report no tval, so it is free (log 6). -/
def execVectorBankLaneFault (s : State) : Host.Outcome State Fault Refusal :=
  let (n, t) := s.nextFree
  .next (t.onFiring s.ev.a fun f => f.report 16 (Config.dword n) f.intrap)

/-! ## Banks (R160 to R162, R340) -/

/-- The request of core c under a tag. -/
def State.busyReq (s : State) (c : Fin 2048) (tag : Nat) : Option BankReq := s.cores[c].busy.find? fun r => r.tag == tag

/-- A request reaches its bank: its response again if the filter knows its tag, else it is applied when nothing it must follow is still
to be and the order log allows it. One to another package arrives there. -/
def State.bankArrive (s : State) (c : Fin 2048) (tag : Nat) : Option State :=
  match s.busyReq c tag with
  | none => some s
  | some q =>
    if q.peer.isSome then some s
    else if q.applied || (s.filtered c.val q.key tag).isSome then
      let done (r : BankReq) : BankReq := if r.tag == tag then { r with applied := true } else r
      some (((s.onCore c fun x => { x with busy := x.busy.map done }).push .bankOpResponseArrive c.val tag 0 0).vbsumDone c q.adm q.lock)
    else if bankBehind (s.cores[c].busy.takeWhile fun r => r.tag != tag) q.adm q.key q.op.size then none
    else match s.bankLog q with
      | .ok s => some ((((s.bankDo c q).1).push .bankOpResponseArrive c.val tag 0 0).vbsumDone c q.adm q.lock)
      | .held => none
      | .full sub d =>
        if q.told then none
        else some ((s.bankTold c tag).trapFiring q.adm (logFull sub d).pending)

/-- BANK_OP_ARRIVE (R162): the request of core a under tag b. -/
def execBankOpArrive (s : State) : Host.Outcome State Fault Refusal := .next ((s.bankArrive (coreNo s.ev.a) s.ev.b).getD s)

/-- BANK_OP_RESPONSE_ARRIVE (R160): the response to the request of core a under tag b. -/
def execBankOpResponseArrive (s : State) : Host.Outcome State Fault Refusal :=
  let c := coreNo s.ev.a
  match s.busyReq c s.ev.b with
  | none => .next s
  | some q =>
    if q.answered then .next s
    else
      let mark (r : BankReq) : BankReq := if r.tag == q.tag then { r with answered := true } else r
      .next ((s.onCore c fun x => { x with busy := x.busy.map mark }).push .bankTagFree c.val q.tag 0 0)

/-- The uncorrectable error of a request whose fourth copy went unanswered (R162, R379): of the HBM word, the bank or the frond it was for; it
strikes the issuing partition too. -/
def BankReq.failure (q : BankReq) : Ev :=
  let (d, site) := homeSite q.key
  let (cls, loc) := if q.key < shmKey 0 then (3, q.key) else if q.key < spadKey 0 0 then (2, site) else (1, d * 256 + site % 256)
  { op := .uncorrectableError, a := cls, b := d, c := 0, v := BitVec.ofNat 64 loc, l := [BitVec.ofNat 64 q.part.val] }

/-- BANK_OP_RESEND (R161): the request of core a under tag b, not answered, is sent again, at most three times; a fourth copy unanswered is an
uncorrectable error (R162), and to another package the loss of that peer (R389). -/
def execBankOpResend (s : State) : Host.Outcome State Fault Refusal :=
  let c := coreNo s.ev.a
  match s.busyReq c s.ev.b with
  | none => .next s
  | some q =>
    let more (r : BankReq) : BankReq := if r.tag == q.tag then { r with copies := r.copies + 1 } else r
    let t := s.onCore c fun x => { x with busy := x.busy.map more }
    if q.answered then .next s
    else match q.peer with
      | none =>
        if 4 ≤ q.copies then .next { s with agenda := s.agenda ++ [q.failure] } else .next (t.push .bankOpArrive c.val q.tag 0 0)
      | some p =>
        if 4 ≤ q.copies then .next (s.push .peerLostDeclare p.pkg 0 0 0)
        else .next (t.send (.request c.val p.cls p.pkg p.part p.seq q.tag (.bank q.op) p.addr q.op.size q.val q.cmp))

/-- BANK_OP_COPY_DROP (R161): a copy of the request of core a under tag b, too old, is dropped without effect; with no other copy under way the
request is sent again. -/
def execBankOpCopyDrop (s : State) : Host.Outcome State Fault Refusal :=
  let is (e : Ev) : Bool := e.op == .bankOpArrive && e.a == s.ev.a && e.b == s.ev.b
  match s.busyReq (coreNo s.ev.a) s.ev.b, s.agenda.find? is with
  | some q, some e =>
    let s := { s with agenda := s.agenda.erase e }
    .next (if q.applied || s.agenda.any is then s else s.push .bankOpResend s.ev.a s.ev.b 0 0)
  | _, _ => .next s

/-- BANK_TAG_FREE (R161): tag b of core a, answered, is busy no more. -/
def execBankTagFree (s : State) : Host.Outcome State Fault Refusal :=
  .next (s.onCore (coreNo s.ev.a) fun x => { x with busy := x.busy.filter fun r => !(r.tag == s.ev.b && r.answered && r.applied) })

/-! ## Range locks, steals, markers (R190, R192, R223) -/

/-- Firing n is the first of its frond's waiting operations, and the entries it needs are free (R190). -/
def State.tableMay (s : State) (e : Ev) : Bool :=
  match s.firing? e.a with
  | none => true
  | some f =>
    if f.wait != some .table then true
    else
      let onFrond (x : Ev) : Bool := x.op == .rangelockRegister && (match s.firing? x.a with
        | some g => g.frond == f.frond && g.wait == some .table
        | none => false)
      (s.agenda.find? onFrond) == some e && decide (s.fronds[f.frond].locks.length + e.b ≤ 32)
        && !(s.firings.any fun g => g.adm != f.adm && g.frond == f.frond && g.granted)

/-- RANGELOCK_REGISTER (R190): the operation of firing a, which needs b entries, has them; its instruction goes on. -/
def execRangelockRegister (s : State) : Host.Outcome State Fault Refusal :=
  .next (s.onFiring s.ev.a fun f => if f.wait = some .table then { f with wait := none, granted := true } else f)

/-- What a victim's deque gives a stealer: the state and the task (R191, R192). -/
def State.stealFrom (s : State) (c : Fin 2048) : State × Option Word :=
  match s.deque c with
  | none => (s, none)
  | some q =>
    if q.head = q.tail then (s, none)
    else ({ s with mem := s.mem.write (q.key + 16) 4 ((q.tail + 1) % 2 ^ 32) }, some (BitVec.ofNat 64 (s.mem.read (q.slot q.tail) 8)))

/-- A steal answered by the deque engine of core b to firing a, whose result pair is at register c: none while the order log holds it. -/
def State.serveSteal (s : State) (e : Ev) : Option State :=
  match s.firing? e.a with
  | none => some s
  | some f =>
    let c := coreNo e.b
    if f.wait != some .answer || !f.pends.isEmpty then some s
    else match s.logFor f 2 ⟨c.val / 512, by have := c.isLt; omega⟩ (coreSite c.val) with
      | .held => none
      | .full sub d => some (s.trapFiring f.adm (Trap.pending { c := .logfull, sub := sub, val := BitVec.ofNat 64 d }))
      | .ok s =>
        let s := match s.deque c with
          | some q => s.noteUndo f.adm (.word (q.key + 16) (s.mem.read (q.key + 16) 8) false)
          | none => s
        let (s, w) := s.stealFrom c
        let d : BitVec 6 := BitVec.ofNat 6 e.c
        let give (f : Firing) : Firing := match w with
          | some w => (f.wx d 1).wx (d + 1) w
          | none => (f.wx d 0).wx (d + 1) 0
        some (s.onFiring f.adm fun f => (give f).advance)

/-- DQSTEAL_SERVE (R192). -/
def execDqstealServe (s : State) : Host.Outcome State Fault Refusal := .next ((s.serveSteal s.ev).getD s)

/-- MARKER_ACKNOWLEDGED (R223): the slices on path b acknowledge the markers of firing a's release. -/
def execMarkerAcknowledged (s : State) : Host.Outcome State Fault Refusal :=
  .next (s.onFiring s.ev.a fun f => { f with paths := f.paths.erase s.ev.b })

/-! ## SHINV (R229) -/

/-- A mark of a SHINV that is still open. -/
def State.markOpen (s : State) (a b : Nat) : Bool :=
  if 2 ^ 63 ≤ a then
    let h := a - 2 ^ 63
    (s.fronds[frondNo h].chans.toList.any fun c => c.any fun c => c.live && c.id == b && c.sharded)
      || s.saved.any fun x => x.core.val / 2 == h && x.copies.any fun c => c.id == b && c.sharded
  else if a = 2 ^ 62 then !s.lost.contains b
  else if a = 2 ^ 61 then s.retry.any fun w => w.shard == b
  else
    (match s.firing? a with
      | some f => f.pends.any fun p => p.pkg * 2 ^ 24 + p.seq == b
      | none => false)
    || s.unacked.any fun u => u.adm == a && u.pkg * 2 ^ 24 + u.seq == b

/-- Some mark of a list of pairs is open. -/
def State.marksOpen (s : State) : List Word → Bool
  | a :: b :: l => s.markOpen a.toNat b.toNat || s.marksOpen l
  | _ => false

/-- A peer's mark taken out of a list of pairs. -/
def dropMark (pkg : Nat) : List Word → List Word
  | a :: b :: l => if a.toNat = 2 ^ 62 && b.toNat == pkg then l else a :: b :: dropMark pkg l
  | l => l

/-- SHINV_COMPLETE (R229): with b = 1, peer c has reported to the SHINV of firing a; with b = 2, what this package owes to SHINV of firing a of
package c is done, and it reports; otherwise every die and peer has, and the firing goes on. -/
def execShinvComplete (s : State) : Host.Outcome State Fault Refusal :=
  if s.ev.b = 1 then
    let one (e : Ev) : Ev := if e.op == .shinvComplete && e.b == 0 && e.a == s.ev.a then { e with l := dropMark s.ev.c e.l } else e
    .next { s with agenda := s.agenda.map one }
  else if s.marksOpen s.ev.l then .next s
  else if s.ev.b = 2 then .next (s.send (.shinvDone s.ev.c s.ev.a))
  else .next (s.onFiring s.ev.a fun f => if f.wait = some .shinv then f.advance else f)

/-- PAGE_WALK (R371): a walk for partition a on die b, at address v, for a write when c is 1: A and D are set and the leaf is entered. -/
def execPageWalk (s : State) : Host.Outcome State Fault Refusal :=
  match s.translate (partNo s.ev.a) ⟨s.ev.b % 4, by omega⟩ s.ev.v.toNat (s.ev.c == 1) with
  | some (s, _) => .next s
  | none => .next s

end Sys2Proof.Machine
end

