-- ==== Sys2Proof/Machine/Sorus.lean ====
section
/-! DEFINITION. The sorus event engine (R345 to R364). -/

namespace Sys2Proof.Machine

/-! ## The region and its sums (R345, R346) -/

/-- The number of leaves. -/
def Sorus.leaves (x : Sorus) : Nat := 2 ^ x.log2l

/-- Weight of a leaf. -/
def Sorus.weight (x : Sorus) (l : Nat) : Nat :=
  match x.ws.find? fun y => y.1 == l with
  | some y => y.2.toNat
  | none => 0

/-- A weight put into a list by rising leaf, none of them 0. -/
def putWeight : List (Nat × BitVec 48) → Nat → BitVec 48 → List (Nat × BitVec 48)
  | [], l, w => if w = 0 then [] else [(l, w)]
  | (k, v) :: ws, l, w =>
    if l < k then (if w = 0 then (k, v) :: ws else (l, w) :: (k, v) :: ws)
    else if l = k then (if w = 0 then ws else (l, w) :: ws)
    else (k, v) :: putWeight ws l w

/-- The sum of the weights of 2^n leaves from lo on. -/
def Sorus.sumAll (x : Sorus) (lo n : Nat) : Nat :=
  x.ws.foldl (fun a y => if lo ≤ y.1 && y.1 < lo + 2 ^ n then a + y.2.toNat else a) 0

/-- A leaf in the block of a channel. -/
def Chan.owns (c : Chan) (l : Nat) : Bool := c.act && decide (c.fl ≤ l) && decide (l < c.fl + 2 ^ c.log2b)

/-- The sum of the weights of 2^n leaves from lo on that no outgoing channel owns. -/
def Sorus.sumFree (x : Sorus) (lo n : Nat) : Nat :=
  x.ws.foldl (fun a y => if lo ≤ y.1 && y.1 < lo + 2 ^ n && !(x.outc.toList.any fun c => c.owns y.1) then a + y.2.toNat else a) 0

/-- T (R346): an outgoing channel's block is excluded from it (R354). -/
def Sorus.total (x : Sorus) : Nat := x.sumFree 0 x.log2l

/-- W_c (R346). -/
def Sorus.blockSum (x : Sorus) (c : Chan) : Nat := x.sumAll c.fl c.log2b

/-- Descend (R346) over 2^n leaves from lo on, with the sums it goes by. -/
def descend (sum : Nat → Nat → Nat) : Nat → Nat → Nat → Nat
  | 0, lo, _ => lo
  | n + 1, lo, r => let l := sum lo n; if r < l then descend sum n lo r else descend sum n (lo + 2 ^ n) (r - l)

/-- The 128-bit draw of the region's key (R330). -/
def Sorus.rand (x : Sorus) (stream index : Word) : BitVec 128 := spore x.seedlo x.seedhi index stream

/-- A stream: a class in the upper half, an id in the lower. -/
def streamId (cls : Nat) (id : BitVec 32) : Word := BitVec.ofNat 64 (cls * 2 ^ 32 + id.toNat)

/-- Bits 63:0 and 127:64 of a draw. -/
def halves (d : BitVec 128) : Word × Word := (d.extractLsb' 0 64, d.extractLsb' 64 64)

/-- MulHi (R3). -/
def mulHi (a : Word) (b : Nat) : Nat := a.toNat * b / 2 ^ 64

/-- An exact comparison W·2^S > Λ (R352), Λ given as FP64 bits. -/
def rateOver (w : Nat) (sx : Int) (lambda : Word) : Bool := match f64.value lambda.toNat with
  | .fin neg m e => decide (0 < (sumFin false w sx (!neg) m e).1)
  | _ => false

/-- A due candidate, outgoing first, lowest channel: the NEXTEV outcome and the channel (R353). -/
def Sorus.due (x : Sorus) : Option (Nat × Nat) :=
  let at_ (cs : Vector Chan 8) : Option Nat := (cs.toList.zipIdx.find? fun c => c.1.act && c.1.due).map (·.2)
  match at_ x.outc with
  | some c => some (1, c)
  | none => (at_ x.inc).map fun c => (2, c)

/-- A trap of R347: PROT with a subcode. -/
def sorusTrap {α : Type} (sub val : Nat) : Except Stop α := raiseSub .prot sub (BitVec.ofNat 64 val)

/-- The first two checks of R347. -/
def State.claimed (s : State) (init : Bool) : Except Stop Sorus := do
  let x := s.fr.sorus
  if x.holder ≠ some s.fir.adm then sorusTrap 1 0
  if init && !x.init then sorusTrap 2 0
  .ok x

/-- The sorus of the acting frond replaced. -/
def State.setSorus (s : State) (x : Sorus) : State := s.onFrond s.fir.frond fun f => { f with sorus := x }

/-- A descriptor's address (R347 SUB 0x05). -/
def State.descAddr (s : State) (a : Word) : Except Stop Unit :=
  if a.toNat % 64 ≠ 0 ∨ s.inOwn a = false then raiseSub .prot 5 a else .ok ()

/-- Eight dwords of a descriptor in the own scratchpad (R347: SUB 0x05, then R140 and R156), behind what the firing posted there (R146). -/
def State.sorusDesc (s : State) (a : Word) : Except Stop (State × List Word) := do
  s.descAddr a
  let (s, pl) ← s.access .load a.toNat 64 64
  s.afterPosted false [pl] 64
  .ok (s.usePath pl, wordsOf 8 (s.readAt pl 64))

/-- A finite FP64 pattern. -/
def finite64 (w : Word) : Bool := match f64.value w.toNat with
  | .fin _ _ _ => true
  | _ => false

/-! ## SINIT, RATE, RATEA (R350 to R352) -/

/-- A valid region descriptor (R350). -/
def regionOk (d : List Word) : Bool :=
  let w0 := dword d 0
  bits w0 31 15 == 0 && bits w0 7 4 == 0 && bits w0 3 0 != 15 && finite64 (dword d 1) && dword d 5 == 0 && dword d 6 == 0
    && dword d 7 == 0

/-- The region a descriptor starts (R350). -/
def Sorus.start (x : Sorus) (d : List Word) : Sorus :=
  let w0 := dword d 0
  { x with
    init := true, log2l := bits w0 3 0, sexp := intOf true 7 (bits w0 14 8), ws := [], t := dword d 1, n := dword d 2
    rid := w0.extractLsb' 32 32, seedlo := dword d 3, seedhi := dword d 4
    outc := Vector.replicate 8 Chan.closed, inc := Vector.replicate 8 Chan.closed }

/-- SINIT (R350). -/
def execSinit (a : BitVec 6) (s : State) : Host.Outcome State Fault Refusal :=
  plain (descSinit a) (fun s => do
    let x ← s.claimed false
    let (t, d) ← s.sorusDesc (s.rx a)
    if regionOk d = false then raiseSub .prot 5 (s.rx a)
    .ok (.done (t.setSorus (x.start d)))) s

/-- A weight update (R351, R352): leaf, new weight, due candidate, bound. -/
def rateOp (d : Desc) (a : BitVec 6) (new : Sorus → State → Int) (s : State) : Host.Outcome State Fault Refusal :=
  plain d (fun s => do
    let x ← s.claimed true
    let l := s.rx a
    if x.leaves ≤ l.toNat then raiseSub .prot 3 l
    let w := new x s
    if w < 0 ∨ 2 ^ 48 ≤ w then raiseSub .prot 3 (ofInt w)
    match x.due with
    | some (o, c) => sorusTrap 8 (if o = 2 then c + 8 else c)
    | none => .ok ()
    let x' := { x with ws := putWeight x.ws l.toNat (BitVec.ofInt 48 w) }
    match x'.outc.toList.zipIdx.find? fun c => c.1.owns l.toNat && rateOver (x'.blockSum c.1) x.sexp c.1.lambda with
    | some (_, c) => raiseSub .boundrate c l
    | none => .ok (.done (s.setSorus x'))) s

/-- RATE (R351). -/
def execRate (a b : BitVec 6) (s : State) : Host.Outcome State Fault Refusal := rateOp (descRate a b) a (fun _ s => ((s.rx b).toNat : Int)) s

/-- RATEA (R351). -/
def execRatea (a b : BitVec 6) (s : State) : Host.Outcome State Fault Refusal :=
  rateOp (descRatea a b) a (fun x s => (x.weight (s.rx a).toNat : Int) + sInt (s.rx b)) s

/-! ## NEXTEV (R353) -/

/-- +∞ in FP64. -/
def inf64 : Nat := f64.infBits

/-- Less or equal on FP64 patterns that are no NaNs. -/
def le64 (a b : Nat) : Bool := fLt f64 a b || fEq f64 a b

/-- The least next-candidate time of the active channels and the lowest channel with it. -/
def leastTau (cs : Vector Chan 8) : Nat × Nat :=
  cs.toList.zipIdx.foldl (fun a c => if c.1.act && fLt f64 c.1.tau.toNat a.1 then (c.1.tau.toNat, c.2) else a) (inf64, 0)

/-- A waiting time: an exponential E over Round(T) times 2^S, rounded once. -/
def waitTime (e t : Nat) (sx : Int) : Nat :=
  match f64.value e, f64.value (roundTo f64 .rne false false t 0 false 0).1 with
  | .fin _ m1 e1, .fin _ m2 e2 =>
    if m1 = 0 then 0
    else let (q, ex, st) := quotient m1 m2 (e1 - e2 - sx); (roundTo f64 .rne false false q ex st 0).1
  | _, _ => inf64

/-- A channel of a list made due. -/
def setDue (cs : Vector Chan 8) (c : Nat) : Vector Chan 8 := cs.mapIdx fun i x => if i = c then { x with due := true } else x

/-- The effect of NEXTEV with its draws: the region, the outcome and index, Δ. -/
def Sorus.next (x : Sorus) (draws : Word × Word) : Sorus × Nat × Nat × Nat :=
  let t := x.total
  let dt := if t = 0 then inf64 else waitTime (expVar f64 draws.2) t x.sexp
  let tn := if t = 0 then inf64 else (fAdd f64 Rnd.rne x.t.toNat dt).1
  let (tauO, co) := leastTau x.outc
  let (tauI, ci) := leastTau x.inc
  if tauO = inf64 && tauI = inf64 && tn = inf64 then (x, 3, 0, dt)
  else if le64 tauO tauI && le64 tauO tn then ({ x with t := BitVec.ofNat 64 tauO, n := x.n + 1, outc := setDue x.outc co }, 1, co, dt)
  else if le64 tauI tn then ({ x with t := BitVec.ofNat 64 tauI, n := x.n + 1, inc := setDue x.inc ci }, 2, ci, dt)
  else ({ x with t := BitVec.ofNat 64 tn, n := x.n + 1 }, 0, descend x.sumFree x.log2l 0 (mulHi draws.1 t), dt)

/-- NEXTEV (R353). -/
def execNextev (d a : BitVec 6) (s : State) : Host.Outcome State Fault Refusal :=
  plain (descNextev d a) (fun s => do
    let x ← s.claimed true
    match x.due with
    | some (o, c) => .ok (.done (s.pair d (BitVec.ofNat 64 (o * 2 ^ 16 + c)) 0))
    | none =>
      let draws := if a = 0 then halves (x.rand (streamId 1 x.rid) x.n) else (s.rx a, s.rx (a + 1))
      let (x', o, i, dt) := x.next draws
      .ok (.done ((s.setSorus x').pair d (BitVec.ofNat 64 (o * 2 ^ 16 + i)) (BitVec.ofNat 64 dt)))) s

/-! ## Boundary channels (R354 to R359) -/

/-- A dword of a channel's table (R355), read from the own scratchpad behind what the firing posted there (R146). -/
def State.tableWord (s : State) (c : Chan) (j w : Nat) : Except Stop (State × Word) := do
  let a : Nat := 0x1FF0 * 2 ^ 44 + c.tbl + 24 * j + 8 * w
  let (s, pl) ← s.access .load a 8 8
  s.afterPosted false [pl] 8
  .ok (s.usePath pl, BitVec.ofNat 64 (s.readAt pl 8))

/-- τ(k + 1) of a channel at candidate k (R355). -/
def State.nextTau (s : State) (x : Sorus) (c : Chan) : Except Stop (State × Word) := do
  let step (d : Word) : Word :=
    BitVec.ofNat 64 (fAdd f64 Rnd.rne c.tau.toNat (fDiv f64 Rnd.rne (expVar f64 d) c.lambda.toNat).1).1
  if c.tab then
    if c.tn ≤ c.k.toNat then .ok (s, BitVec.ofNat 64 inf64)
    else do
      let (s, d) ← s.tableWord c c.k.toNat 0
      .ok (s, step d)
  else .ok (s, step (halves (x.rand (streamId 2 c.cid) c.k)).1)

/-- The channel a descriptor opens, at τ(0). -/
def chanOf (d : List Word) : Chan :=
  let w0 := dword d 0
  { act := true, tab := bit w0 61, log2b := bits w0 49 46, fl := bits w0 45 32, cid := (dword d 1).extractLsb' 0 32, lambda := dword d 2,
    tau0 := dword d 3, tbl := bits (dword d 4) 19 0, tn := bits (dword d 5) 31 0, pkg := bits (dword d 6) 53 32,
    pch := bits (dword d 6) 12 10, frond := bits (dword d 6) 9 0, k := 0, tau := dword d 3, due := false, credits := 16,
    refused := false, queue := [] }

/-- Valid contents of a descriptor that opens a channel (R354). -/
def Sorus.chanOk (x : Sorus) (d : List Word) : Bool :=
  let w0 := dword d 0
  let c := chanOf d
  let inc := bit w0 62
  let rsv := bits w0 60 50 == 0 && bits w0 31 3 == 0 && bits (dword d 1) 63 32 == 0 && bits (dword d 4) 63 20 == 0
    && bits (dword d 5) 63 32 == 0 && bits (dword d 6) 63 54 == 0 && bits (dword d 6) 31 13 == 0 && dword d 7 == 0
  let pos := match f64.value c.lambda.toNat with
    | .fin neg m _ => !neg && m != 0
    | _ => false
  let meets (o : Chan) : Bool := o.act && decide (o.fl < c.fl + 2 ^ c.log2b) && decide (c.fl < o.fl + 2 ^ o.log2b)
  let block := if inc then c.log2b == 0 && c.fl == 0
    else decide (c.log2b ≤ x.log2l) && c.fl % 2 ^ c.log2b == 0 && decide (c.fl + 2 ^ c.log2b ≤ x.leaves)
      && ((x.outc.toList.zipIdx).all fun o => o.2 == bits w0 2 0 || !meets o.1)
  rsv && pos && finite64 c.tau0 && (c.tab || (c.tbl == 0 && c.tn == 0)) && c.tbl % 8 == 0 && block

/-- BINIT (R354). Closing a channel that is not active traps nothing (log 79). -/
def execBinit (a : BitVec 6) (s : State) : Host.Outcome State Fault Refusal :=
  plain (descBinit a) (fun s => do
    s.descAddr (s.rx a)
    let x ← s.claimed true
    let (t, d) ← s.sorusDesc (s.rx a)
    let w0 := dword d 0
    let inc := bit w0 62
    let ch : Fin 8 := ⟨bits w0 2 0 % 8, by omega⟩
    let put (c : Chan) : Sorus := if inc then { x with inc := x.inc.set ch c } else { x with outc := x.outc.set ch c }
    if bit w0 63 = false then .ok (.done (t.setSorus (put Chan.closed)))
    else do
      if x.chanOk d = false then raiseSub .prot 5 (s.rx a)
      if (if inc then x.inc[ch].act else x.outc[ch].act) || x.due.isSome then sorusTrap 4 ch.val
      let c := chanOf d
      if !inc && rateOver (x.blockSum c) x.sexp c.lambda then raiseSub .boundrate ch.val (BitVec.ofNat 64 c.fl)
      let (t, tau) ← t.nextTau x c
      .ok (.done (t.setSorus (put { c with k := 1, tau := tau })))) s

/-- The due channel a register names, outgoing or incoming (R347 SUB 0x03 and 0x04). -/
def dueChan (cs : Vector Chan 8) (w : Word) : Except Stop (Fin 8 × Chan) :=
  if h : w.toNat < 8 then
    let c : Fin 8 := ⟨w.toNat, h⟩
    if cs[c].act && cs[c].due then .ok (c, cs[c]) else raiseSub .prot 4 w
  else raiseSub .prot 3 w

/-- The acceptance and selection draws of candidate k of a channel, none past its table (R355). -/
def State.decisionDraws (s : State) (x : Sorus) (c : Chan) : Except Stop (State × Option (Word × Word)) := do
  if c.tab then
    if c.tn ≤ c.k.toNat then .ok (s, none)
    else do
      let (s, a) ← s.tableWord c c.k.toNat 1
      let (s, b) ← s.tableWord c c.k.toNat 2
      .ok (s, some (a, b))
  else .ok (s, some (halves (x.rand (streamId 3 c.cid) c.k)))

/-- A candidate accepted: u·Λ < W·2^S, exactly. -/
def accepts (a lambda : Word) (w : Nat) (sx : Int) : Bool := match f64.value lambda.toNat with
  | .fin _ m e => decide ((sumFin false (bits a 63 11 * m) (e - 53) true w sx).1 < 0)
  | _ => false

/-- The decision word of a candidate (R356). -/
def Sorus.decision (x : Sorus) (c : Chan) (d : Option (Word × Word)) : Word :=
  let w := x.blockSum c
  let low := bits c.k 31 0
  match d with
  | none => BitVec.ofNat 64 low
  | some (a, b) =>
    if accepts a c.lambda w x.sexp then
      BitVec.ofNat 64 (2 ^ 63 + (descend x.sumAll c.log2b c.fl (mulHi b w) - c.fl) * 2 ^ 32 + low)
    else BitVec.ofNat 64 low

/-- A package, frond and channel as one number, the sender of a decision. -/
def chanName (pkg frond ch : Nat) : Nat := pkg * 2 ^ 13 + frond * 8 + ch

/-- A decision sent to the peer of a channel (R356, R357). -/
def State.sendDecision (s : State) (c : Chan) (ch : Nat) (w : Word) : State :=
  if c.pkg = s.dev.pkg then s.push .decisionArrive c.frond c.pch (chanName s.dev.pkg s.fir.frond.val ch) w
  else s.send (.decision c.pkg c.frond c.pch s.fir.frond.val ch w)

/-- BDEC (R356, R359). -/
def execBdec (d a : BitVec 6) (s : State) : Host.Outcome State Fault Refusal :=
  plain (descBdec d a) (fun s => do
    let x ← s.claimed true
    let (ch, c) ← dueChan x.outc (s.rx a)
    if c.refused then raiseSub .prot 7 (s.rx a)
    let (t, dr) ← s.decisionDraws x c
    let gone := s.lost.contains c.pkg
    if !gone && c.credits == 0 then block s (.credit ch.val)
    let (t, tau) ← t.nextTau x c
    let w := x.decision c dr
    let c' := { c with k := c.k + 1, tau := tau, due := false, credits := if gone then c.credits else c.credits - 1 }
    let t := t.setSorus { x with outc := x.outc.set ch c' }
    let t := if gone then t.upd fun f => f.poisoned c.pkg else t.sendDecision c ch.val w
    .ok (.done (t.wx d w))) s

/-- A credit given back to the emitter of a channel. -/
def State.giveCredit (s : State) (pkg frond ch : Nat) (refused : Bool) : State :=
  if pkg = s.dev.pkg then s.push .creditReturn frond ch refused.toNat 0 else s.send (.creditBack pkg frond ch refused)

/-- BRECV (R358, R359). -/
def execBrecv (d a : BitVec 6) (s : State) : Host.Outcome State Fault Refusal :=
  plain (descBrecv d a) (fun s => do
    let x ← s.claimed true
    let (ch, c) ← dueChan x.inc (s.rx a)
    let next (s : State) (q : List Word) : Except Stop State := do
      let (s, tau) ← s.nextTau x c
      .ok (s.setSorus { x with inc := x.inc.set ch { c with k := c.k + 1, tau := tau, due := false, queue := q } })
    match c.queue with
    | [] =>
      if s.lost.contains c.pkg then do
        let t ← next s []
        .ok (.done ((t.upd fun f => f.poisoned c.pkg).wx d (BitVec.ofNat 64 (poison 8))))
      else block s (.decision ch.val)
    | w :: q =>
      if bits w 31 0 ≠ bits c.k 31 0 then raiseSub .prot 6 w
      else do
        let t ← next s q
        .ok (.done ((t.giveCredit c.pkg c.frond c.pch false).wx d w))) s

/-! ## SWRD and SCLK (R362) -/

/-- SWRD (R362). -/
def execSwrd (d a sel : BitVec 6) (s : State) : Host.Outcome State Fault Refusal :=
  plain (descSwrd d a sel) (fun s => do
    let x ← s.claimed true
    let i := s.rx a
    let mask (cs : Vector Chan 8) : Nat := packNat 1 (cs.toList.map fun c => c.act.toNat)
    let chan (cs : Vector Chan 8) (g : Chan → Word) : Except Stop Word :=
      if h : i.toNat < 8 then .ok (if cs[i.toNat].act then g cs[i.toNat] else 0) else raiseSub .prot 3 i
    let v ← match sel.toNat with
      | 0 => if x.leaves ≤ i.toNat then raiseSub .prot 3 i else Except.ok (BitVec.ofNat 64 (x.weight i.toNat))
      | 1 => .ok (BitVec.ofNat 64 x.total)
      | 2 => chan x.outc fun c => BitVec.ofNat 64 (x.blockSum c)
      | 3 => chan x.outc Chan.tau
      | 4 => chan x.inc Chan.tau
      | 5 => chan x.outc Chan.k
      | 6 => chan x.inc Chan.k
      | 7 => .ok (BitVec.ofNat 64 (x.rid.toNat * 2 ^ 32 + mask x.outc * 2 ^ 24 + mask x.inc * 2 ^ 16 + 2 ^ 15
          + toBits 7 x.sexp * 2 ^ 8 + x.log2l))
      | _ => chan x.inc fun c => BitVec.ofNat 64 c.queue.length
    .ok (.done (s.wx d v))) s

/-- SCLK (R362). -/
def execSclk (d : BitVec 6) (s : State) : Host.Outcome State Fault Refusal :=
  plain (descSclk d) (fun s => do
    let x ← s.claimed true
    .ok (.done (s.pair d x.t x.n))) s

/-! ## Arrival of decisions and credits (R357) -/

/-- The channel that takes a decision at frond h: active, its peer the sender, the region initialised, room in the queue of 16. -/
def Sorus.takes (x : Sorus) (ch src : Nat) : Bool := match x.inc.toList[ch]? with
  | some c => x.init && c.act && chanName c.pkg c.frond c.pch == src && decide (c.queue.length < 16)
  | none => false

/-- DECISION_ARRIVE (R357): decision v for channel b of frond a from c; refused where no channel takes it. -/
def execDecisionArrive (s : State) : Host.Outcome State Fault Refusal :=
  if h : s.ev.a < 1024 then
    let f : Fin 1024 := ⟨s.ev.a, h⟩
    let ch := s.ev.b
    let x := s.fronds[f].sorus
    if x.takes ch s.ev.c then
      .next (s.onFrond f fun y =>
        { y with sorus := { x with inc := x.inc.mapIdx fun i c => if i = ch then { c with queue := c.queue ++ [s.ev.v] } else c } })
    else .next (s.giveCredit (s.ev.c / 2 ^ 13) (s.ev.c / 8 % 1024) (s.ev.c % 8) true)
  else .next s

/-- CREDIT_RETURN (R357): a credit for outgoing channel b of frond a, with a refusal when c is 1. It counts for the channel as it is then, also when
that was closed and opened again (log 81). -/
def execCreditReturn (s : State) : Host.Outcome State Fault Refusal :=
  if h : s.ev.a < 1024 then
    let give (i : Nat) (c : Chan) : Chan :=
      if i = s.ev.b && c.act then { c with credits := min 16 (c.credits + 1), refused := c.refused || s.ev.c == 1 } else c
    .next (s.onFrond ⟨s.ev.a, h⟩ fun y => { y with sorus := { y.sorus with outc := y.sorus.outc.mapIdx give } })
  else .next s

end Sys2Proof.Machine
end

