-- ==== Sys2Proof/Machine/Preempt.lean ====
section
/-! DEFINITION. Saving, discarding and killing firings, and the requests of P4 and P5 (R118, R198, R201 to R207, R305, R363; log 27, 28). An
event names its partition in a. -/

namespace Sys2Proof.Machine

/-! ## Contexts (R206) -/

/-- The sorus of a firing's frond is saved with it: it holds it and it has a region. -/
def State.savesSorus (s : State) (f : Firing) : Bool := let x := s.fronds[f.frond].sorus; x.holder == some f.adm && x.init

/-- The other member of a firing's pair, while both are resident. -/
def State.twin (s : State) (f : Firing) : Option Firing :=
  s.firings.find? fun g => g.adm != f.adm && f.pairs g

/-- The pair's queues go with the stage firing, or with a member left alone. -/
def State.savesPair (s : State) (f : Firing) : Bool := f.pairset.isSome && (f.stage || (s.twin f).isNone)

/-- Bytes of the register sections before the accumulators, tile slots included. -/
def Demand.tilesAt (d : Demand) : Nat := 0x500 + 8 * d.xregs + 256 * d.vregs

/-- Size of a firing's context. -/
def State.contextSize (s : State) (f : Firing) : Nat :=
  let d := f.dem
  d.tilesAt + 4096 * d.tiles + 16384 * d.accs + 512 * d.btiles + 256 * d.spad + (if s.savesPair f then 16448 else 0)
    + (if s.savesSorus f then 4096 + 8 * s.fronds[f.frond].sorus.leaves else 0) + 16 * f.reports.length

/-- DEMAND as D2 27:0 of a record lays it out. -/
def Demand.word (d : Demand) : Nat :=
  d.xregs + d.vregs * 2 ^ 8 + d.tiles * 2 ^ 16 + d.accs * 2 ^ 20 + d.btiles * 2 ^ 24

/-- STOP: PREEMPT, or the cause that stopped the firing before. -/
def Firing.stopCode (f : Firing) : Nat := match f.run with
  | .running => 0x14
  | .stopped _ recd => bits (dword recd 2) 7 0

/-- Header dwords H0 to H7. -/
def State.contextHeader (s : State) (f : Firing) : List Word :=
  [BitVec.ofNat 64 (s.contextSize f * 2 ^ 32 + 2 ^ 28 + f.dem.word), f.tid, f.fid,
   BitVec.ofNat 64 (f.dem.spad * 2 ^ 32 + (s.savesPair f).toNat * 2 ^ 31 + (s.savesSorus f).toNat * 2 ^ 30 + f.reports.length * 2 ^ 24
     + f.stopCode * 2 ^ 16 + f.core.val),
   f.pc, f.fstat,
   BitVec.ofNat 64 ((if f.fpend then f.pfx.toNat else 0) * 2 ^ 32 + if f.repact then f.repw.toNat else 0), if f.repact then f.repf else 0]

/-- The CSRs in the order of the save area. -/
def Firing.csrs (f : Firing) : List Word :=
  [f.fflags, f.frm, f.srix, f.utvec, f.tcause, f.tval, f.tpc, f.tstat, f.trepw, f.trepf, f.tfmt, f.qlim, f.fewlim, f.seedlo, f.seedhi,
   f.sstream] ++ f.tshape.toList ++ f.accf.toList

/-- A list of dwords made n long with zeros. -/
def padTo (n : Nat) (l : List Word) : List Word := (l ++ List.replicate n 0).take n

/-- The copies of a firing by channel. -/
def State.copiesOf (s : State) (f : Firing) : List (Option Copy) :=
  s.fronds[f.frond].chans.toList.map fun c => c.filter fun c => c.live && c.adm == f.adm

/-- A copy progress record. -/
def copyRecord : Option Copy → List Word
  | none => [0, 0, 0, 0]
  | some c => [BitVec.ofNat 64 (c.id + c.bytes * 2 ^ 16), BitVec.ofNat 64 (2 ^ 63), 0, 0]

/-- The MMAs of a firing in its core's array. -/
def State.mmasOf (s : State) (f : Firing) : List MmaJob := s.cores[f.core].mmas.filter fun j => j.adm == f.adm

/-- An MMA progress record (R305). -/
def mmaRecord (js : List MmaJob) (a : Nat) : List Word :=
  match js.find? fun j => mmaAcc j.word == a with
  | none => List.replicate 8 0
  | some j => [BitVec.setWidth 64 j.word, BitVec.setWidth 64 j.pfx, BitVec.ofNat 64 j.done, j.a0, j.a1, j.b0, j.b1, j.xs]

/-- The part of a context of fixed size, 0x500 bytes. -/
def State.contextFixed (s : State) (f : Firing) : List Word :=
  let cs := s.copiesOf f
  let snap (c : Option Copy) : List Word := match c with
    | none => List.replicate 8 0
    | some c => c.cr.toList
  s.contextHeader f ++ f.csrs ++ f.cr.toList ++ cs.flatMap copyRecord ++ cs.flatMap snap
    ++ (List.range 4).flatMap (mmaRecord (s.mmasOf f)) ++ padTo 16 f.q12 ++ padTo 16 f.q13 ++ List.replicate 4 0

/-- A pair's queues: 2,048 bytes each, then the tags. -/
def pairWords (q : Vector (List QEntry) 8) : List Word :=
  let entry (e : QEntry) : List Word := match e with
    | .word w => padTo 32 [w]
    | .vec v => wordsOf 32 v.toNat
  let tags (l : List QEntry) : Word := BitVec.ofNat 64 (packNat 8 (l.map fun e => match e with
    | .word _ => 1
    | .vec _ => 2))
  q.toList.flatMap (fun l => padTo 256 (l.flatMap entry)) ++ q.toList.map tags

/-- A channel as the SOR section holds it (R363): the descriptor with W3 and W7 replaced. -/
def chanWords (inc : Bool) (ch : Nat) (c : Chan) : List Word :=
  if c.act then
    let low := bits c.k 47 0
    [BitVec.ofNat 64 (2 ^ 63 + inc.toNat * 2 ^ 62 + c.tab.toNat * 2 ^ 61 + c.log2b * 2 ^ 46 + c.fl * 2 ^ 32 + ch), BitVec.setWidth 64 c.cid,
     c.lambda, c.tau, BitVec.ofNat 64 c.tbl, BitVec.ofNat 64 c.tn,
     BitVec.ofNat 64 (c.pkg * 2 ^ 32 + c.pch * 2 ^ 10 + c.frond),
     BitVec.ofNat 64 (c.due.toNat * 2 ^ 63
       + (if inc then c.queue.length * 2 ^ 48 else c.refused.toNat * 2 ^ 53 + c.credits * 2 ^ 48) + low)]
  else List.replicate 8 0

/-- The SOR section. -/
def Sorus.words (x : Sorus) : List Word :=
  let w0 := x.rid.toNat * 2 ^ 32 + toBits 7 x.sexp * 2 ^ 8 + x.log2l
  [BitVec.ofNat 64 w0, x.t, x.n, x.seedlo, x.seedhi, 0, 0, 0]
    ++ (x.outc.toList.zipIdx).flatMap (fun c => chanWords false c.2 c.1) ++ (x.inc.toList.zipIdx).flatMap (fun c => chanWords true c.2 c.1)
    ++ x.inc.toList.flatMap (fun c => padTo 16 c.queue) ++ List.replicate 248 0
    ++ (List.range x.leaves).map fun l => BitVec.ofNat 64 (x.weight l)

/-- The pending reports as they are saved: the oldest says that one was lost before it, as its delivery would (R199, R206). -/
def Firing.reportWords (f : Firing) : List Word :=
  (f.reports.zipIdx).flatMap fun r => [if f.replost && r.2 == 0 then setBit r.1.tc 15 true else r.1.tc, r.1.val]

/-- The sections after the tile slots. -/
def State.contextTail (s : State) (f : Firing) : List Word :=
  let d := f.dem
  let spad := s.mem.read (spadKey f.frond.val f.spbase.toNat) (256 * d.spad)
  (f.acc.toList.take d.accs).flatMap (fun a => wordsOf 2048 a.toNat) ++ (f.b.toList.take d.btiles).flatMap (fun b => wordsOf 64 b.toNat)
    ++ wordsOf (32 * d.spad) spad
    ++ (if s.savesPair f then (match f.pairset with
      | some i => pairWords (s.fronds[f.frond].pairs[i]).q
      | none => []) else [])
    ++ (if s.savesSorus f then s.fronds[f.frond].sorus.words else []) ++ f.reportWords

/-- Dwords written by the G9 at an address of a partition (R400); what cannot be written is lost (log 28). -/
def State.putWords (s : State) (p : Fin 16) (a : Nat) : List Word → State
  | [] => s
  | w :: ws => (s.unitPut p a 8 w.toNat).putWords p (a + 8) ws

/-! ## Taking a firing out (R203, R207) -/

/-- The array's step in progress ends when the firing's MMA is at its head (R305). -/
def State.stopArray (s : State) (f : Firing) : State :=
  match s.cores[f.core].mmas.head? with
  | some j => if j.adm = f.adm then s.arrayStep f.core else s
  | none => s

/-- An event of the channels that hold a firing's copies. -/
def State.copyEvent (s : State) (f : Firing) (e : Ev) : Bool :=
  let here (c : Option Copy) : Bool := c.any fun c => c.adm == f.adm
  (e.op == .copySector || e.op == .copyComplete || e.op == .copyFault) && e.a == f.frond.val
    && (s.fronds[f.frond].chans.toList.zipIdx.any fun c => here c.1 && c.2 == e.b)

/-- A firing's copies, MMAs and range-lock entries dropped, with what its channels have still to do. The entry of a VBSUM stands until its lanes
have been applied (R168). -/
def State.dropEngines (s : State) (f : Firing) : State :=
  let mine (l : Lock) : Bool := match l.own with
    | .copy id => s.fronds[f.frond].chans.toList.any fun c => match c with
      | some c => c.adm == f.adm && c.live && c.id == id
      | none => false
    | .mma a _ => a == f.adm
    | .gather a _ => a == f.adm
    | .vbsum a n => a == f.adm && !(s.cores[f.core].busy.any fun r => r.lock == n && !r.applied)
  let free (c : Option Copy) : Option Copy := c.filter fun c => c.adm != f.adm
  ({ s with agenda := s.agenda.filter fun e => !s.copyEvent f e }.onFrond f.frond fun x => { x with locks := x.locks.filter fun l => !mine l, chans := x.chans.map free }).onCore f.core fun c =>
    { c with mmas := c.mmas.filter fun j => j.adm != f.adm }

/-- A firing at an instruction boundary, its waits apart (R203). -/
def Firing.atBoundary (f : Firing) : Bool := !f.granted && f.data.isEmpty && f.pends.isEmpty && f.wait != some .answer

/-- A gang of a firing that is stopped breaks before the instruction it is at, which is undone in every member (R109): those that are stopped
stand there, and the others take GANGBREAK. -/
def State.leaveGang (s : State) (f : Firing) (all : List Nat) : State :=
  match s.gangOf f.adm with
  | none => s
  | some g =>
    let pc := (s.gangAt g).1.1
    let s := s.undoGang g
    let s := { s with gangs := s.gangs.filter fun h => h.members != g.members }
    let t := gangBreak (g.members.idxOf f.adm)
    g.members.foldl (fun s n =>
      if all.contains n then s.onFiring n fun h => { h.clrGang with pc := pc }
      else (s.withdrawFar n).asFiring n fun s => (s.upd fun h => { h.clrGang with pc := pc }).deliver t.user t.tc t.val pc) s

/-- A tile's data tagged with its slot (R207): what its register was tagged for before is written first; an unconfigured tile gets no tag
(R310). -/
def State.tagTile (s : State) (f : Firing) (slots : Nat) (t : Nat) : State :=
  match f.tphys[t]? with
  | none => s
  | some ph =>
    if !shapeC (f.shape t) then s
    else
      let s := s.asFiring f.adm fun s => s.touchTile t
      let z : LazyTile :=
        { phys := ph, slot := BitVec.ofNat 64 (slots + 4096 * t), part := f.part, tid := f.tid, fid := f.fid, data := f.m.toList.getD t 0 }
      s.onCore f.core fun c => { c with lazyTiles := c.lazyTiles ++ [z] }

/-- What the device keeps of a saved firing. -/
def State.savedOf (s : State) (f : Firing) : Saved :=
  { part := f.part, tid := f.tid, fid := f.fid, core := f.core, groups := f.groups, arrived := f.arrived, opn := f.opn, mmas := f.mmas,
    q12lost := f.q12lost, paired := f.pairset.isSome, adm := f.adm, k := f.k, jobs := s.mmasOf f, owns := f.reports.map Report.own
    spbase := f.spbase, paths := f.paths, copies := (s.copiesOf f).filterMap id }

/-- A sorus parked for its saved holder (R363). -/
def Sorus.park (x : Sorus) (f : Firing) : Sorus :=
  if x.holder = some f.adm then { x with holder := none, parked := some (f.tid, f.fid) } else x

/-- One firing written to its context at an address and taken out (R203 SAVE). -/
def State.saveFiring (s : State) (f0 : Firing) (base : Nat) : State :=
  let s := s.withdraw f0.adm
  let s := s.stopArray f0
  match s.firing? f0.adm with
  | none => s
  | some f =>
    let s := s.publish f.frond .fr
    let d := f.dem
    let s := s.putWords f.part base (s.contextFixed f)
    let s := s.putWords f.part (base + 0x500) ((0 : Word) :: ((f.x.toList.take d.xregs).drop 1))
    let s := s.putWords f.part (base + 0x500 + 8 * d.xregs) ((f.v.toList.take d.vregs).flatMap fun v => wordsOf 32 v.toNat)
    let s := s.putWords f.part (base + d.tilesAt + 4096 * d.tiles) (s.contextTail f)
    let s := (List.range d.tiles).foldl (fun s t => s.tagTile f (base + d.tilesAt) t) s
    let s : State := { s with saved := s.saved ++ [s.savedOf f] }
    let s := match s.team? f with
      | some t => s.onTeam t.id fun t => { t with saved := t.saved + 1 }
      | none => s
    let s := s.onFrond f.frond fun x => { x with sorus := x.sorus.park f }
    (((s.dropEngines f).freePair f).removeFiring f.adm).idleCore f.core

/-- The next multiple of 256. -/
def up256 (n : Nat) : Nat := (n + 255) / 256 * 256

/-- The offsets of contexts of given sizes from a first one on. -/
def contextOffsets (first : Nat) : List Nat → List Nat
  | [] => []
  | n :: ns => first :: contextOffsets (first + up256 n) ns

/-- The bytes a save area of some firings takes. -/
def State.areaSize (s : State) (fs : List Firing) : Nat :=
  (fs.map s.contextSize).foldl (fun a n => a + up256 n) (up256 (8 * (fs.length + 1)))

/-- Firings saved together in a region: the directory, then every context (R206). Stage firings come last, so that a pair's queues go with its
stage firing alone. -/
def State.saveAll (s : State) (p : Fin 16) (fs : List Firing) (base : Nat) : State :=
  let ids := ((fs.filter fun f => !f.stage) ++ fs.filter Firing.stage).map (·.adm)
  let s := fs.foldl (fun s f => s.leaveGang f ids) s
  let fs := ids.filterMap s.firing?
  let offs := contextOffsets (up256 (8 * (fs.length + 1))) (fs.map s.contextSize)
  let s := s.putWords p base (BitVec.ofNat 64 fs.length :: offs.map fun o => BitVec.ofNat 64 o)
  (fs.zip offs).foldl (fun s x => s.saveFiring x.1 (base + x.2)) s

/-! ## Discarding (R82, R118, R203) -/

/-- A group arrival of a firing withdrawn while its boundary is open (R118). -/
def State.unarrive (s : State) (f : Firing) : State :=
  match f.arrived with
  | none => s
  | some a => s.asFiring f.adm fun s =>
    let g := s.meeting a.key
    if g.phase = a.ph then s.putMeeting a.key { g with arrived := g.arrived - 1 } else s

/-- One firing discarded: nothing of it is kept but what it has sent. A full-empty access that waits at another package is withdrawn (R150). -/
def State.discardFiring (s : State) (f : Firing) : State :=
  let s := (s.withdrawFar f.adm).unarrive f
  let s := match f.msg with
    | some h => s.errorLog f.part 3 0 f.tid h
    | none => s
  (s.dropEngines f).endFiring f

/-- The team of a saved firing. -/
def State.savedTeam (s : State) (x : Saved) : Option Team := s.teams.find? fun t => t.tid == x.tid && t.part == x.part

/-- A saved firing given up: its arrival at an open boundary withdrawn, its groups left, its sorus and its tagged tiles free (R93, R118, R207,
R363). -/
def State.forget (s : State) (x : Saved) : State :=
  let s : State := { s with saved := s.saved.erase x }
  let s := match s.savedTeam x with
    | some t => s.onTeam t.id fun t => { t with saved := t.saved - 1, arrived0 := t.arrived0 - (waitsAt 0 t.phase0 true x.arrived).toNat }
    | none => s
  let out (s : State) (a : Arrival) : State :=
    let g := s.groupAt a.key
    if a.key ≠ 0 && g.phase = a.ph then s.putGroup a.key { g with arrived := g.arrived - 1 } else s
  let s := x.groups.foldl (fun s k => s.leaveGroup k) (x.arrived.toList.foldl out s)
  let s := match s.savedTeam x with
    | some t => s.putGroup0 t (s.group0 t).settle
    | none => s
  let s := s.onFrond (frondNo (x.core.val / 2)) fun y =>
    { y with sorus := if y.sorus.parked = some (x.tid, x.fid) then { y.sorus with parked := none } else y.sorus }
  s.onCore x.core fun c => { c with lazyTiles := c.lazyTiles.filter fun z => !(z.part == x.part && z.tid == x.tid && z.fid == x.fid) }

/-- The saved firings that a discard of some takes as well: the later ones of an actor, whose numbers fire again (R82), and all of a CHECK run
(R342). -/
def State.forgetWith (s : State) (fs : List Firing) : State :=
  let gone (x : Saved) : Bool := match s.savedTeam x with
    | none => false
    | some t => fs.any fun f => f.part == x.part && f.tid == x.tid && (t.flag 28 || (t.flag 30 && decide (f.fid.toNat ≤ x.fid.toNat)))
  (s.saved.filter gone).foldl State.forget s

/-- The saved firings of a team given up with it. -/
def State.dropSaved (s : State) (p : Fin 16) (tid : Word) : State :=
  (s.saved.filter fun x => x.part == p && x.tid == tid).foldl State.forget s

/-- The firings of a team that a discard of some must take as well: the rest of a pair, later firings of an actor, all of a CHECK run. -/
def State.discardSet (s : State) (fs : List Firing) : List Firing :=
  fs.foldl (fun l f =>
    let more := match s.team? f with
      | none => []
      | some t =>
        if t.flag 28 then s.liveOf t
        else if t.flag 30 then (s.liveOf t).filter fun g => decide (f.fid.toNat ≤ g.fid.toNat)
        else (s.twin f).toList
    l ++ ((f :: more).filter fun g => !(l.any fun h => h.adm == g.adm))) []

/-- What a team notes of a discarded firing: it is unplaced (R203), or the actor fires again from there (R82). -/
def Team.unplace (t : Team) (k : Nat) (twinGone : Bool) : Team :=
  if t.flag 30 then { t with fireNext := min t.fireNext k, uncommitted := t.uncommitted.filter (· < k) }
  else { t with again := insertNat t.again k, retired := if twinGone then t.retired - 1 else t.retired }

/-- A CHECK team restored and begun again from its first run (R342). -/
def State.restartCheck (s : State) (t : Team) : State :=
  let (s, rs) := s.checkRanges t
  let s := rs.foldl (fun s r => s.restoreRange t.part r) s
  let s := s.onTeam t.id fun t =>
    { t with checkRun := 0, placed := 0, retired := 0, again := [], lastOff := none, phase0 := 0, arrived0 := 0, blocks1 := []
             fireNext := 0, commitNext := 0, uncommitted := [] }
  let s := if t.flag 30 then s.startActor t else s
  if t.checkRun = 1 then s.push .checkSecondRun t.id 0 0 0 else s

/-- Firings discarded, to be placed again unless their team ends. -/
def State.discardAll (s : State) (fs : List Firing) : State :=
  let fs := s.discardSet fs
  let s := fs.foldl (fun s f => s.leaveGang f (fs.map (·.adm))) s
  let one (s : State) (f : Firing) : State :=
    let twinGone := f.pairset.isSome && !(fs.any fun g => g.adm != f.adm && g.pairset == f.pairset && g.frond == f.frond)
    let s := match s.team? f with
      | some t => s.onTeam t.id fun t => t.unplace f.fid.toNat twinGone
      | none => s
    match s.firing? f.adm with
    | some f => s.discardFiring f
    | none => s
  let s := (fs.foldl one s).forgetWith fs
  let teams := (fs.filterMap s.team?).eraseDups
  let s := teams.foldl (fun s t => if t.flag 28 then s.restartCheck t else s) s
  teams.foldl (fun s t => s.push .firingPlace t.part.val 0 0 0) s

/-- A team's firings discarded, resident and saved. -/
def State.takeDown (s : State) (t : Team) : State :=
  let fs := s.liveOf t
  let s := fs.foldl (fun s f => s.leaveGang f (fs.map (·.adm))) s
  let s := (fs.filterMap fun f => s.firing? f.adm).foldl State.discardFiring s
  s.dropSaved t.part t.tid

/-- What a completion word counts (R84): firings retired, or those of an actor that have committed. -/
def Team.doneCount (t : Team) : Nat := if t.flag 30 then t.commitNext else t.retired

/-- A team ended before its firings have retired (R198, R379). -/
def State.killTeam (s : State) (t : Team) (code status : Nat) : State :=
  (s.takeDown t).endTeam t t.doneCount code status

/-! ## FCMD (R198) -/

/-- A firing that may be saved: no handler, at a boundary, every bank operation it has issued performed and answered (R81, R170), no copy within a
sector, and nothing that an engine has delivered or failed in not yet reported (R203). -/
def State.maySave (s : State) (f : Firing) : Bool :=
  f.msg.isNone && f.atBoundary
    && !(s.agenda.any fun e => (e.op == .copyFault && s.copyEvent f e) || (e.op == .vectorBankLaneFault && e.a == f.adm)) && !(s.cores[f.core].busy.any fun r => r.adm == f.adm && !(r.applied && r.answered))
    && (s.copiesOf f).all fun c => match c with
      | some c => c.phase == 0 && c.pends.isEmpty && decide (c.bytes < copyLen c.cr)
      | none => true

/-- The stopped firing a save names, with its twin. -/
def State.saveSet (s : State) (p : Fin 16) (seq : Nat) : List Firing := match s.stoppedAt p seq with
  | some f => f :: (s.twin f).toList
  | none => []

/-- A save that was asked for can be made, or comes to nothing. -/
def State.saveMay (s : State) (e : Ev) : Bool :=
  let fs := s.saveSet (partNo e.a) e.b
  fs.isEmpty || fs.any (fun f => f.msg.isSome) || decide (bits (dword e.l 1) 39 0 < s.areaSize fs) || fs.all s.maySave

/-- FCMD_SAVE (R198): the firing of record b of partition a, with its twin, to the region of P2 if P3 gives the room, as they stood at the write
(in l). Until both may be saved it is held; full-empty waits at other packages are withdrawn for it. -/
def execFcmdSave (s : State) : Host.Outcome State Fault Refusal :=
  let p := partNo s.ev.a
  let fs := s.saveSet p s.ev.b
  let l := if s.ev.l.isEmpty then [s.parts[p].p2, s.parts[p].p3] else s.ev.l
  if fs.isEmpty || fs.any (fun f => f.msg.isSome) || decide (bits (dword l 1) 39 0 < s.areaSize fs) then .next s
  else if fs.all s.maySave then .next (s.saveAll p fs (dword l 0).toNat)
  else
    let t := s.pushWith .fcmdSave p.val s.ev.b 0 0 l
    .next (fs.foldl (fun s f => s.withdrawFar f.adm) t)

/-- FCMD_DISCARD (R198). -/
def execFcmdDiscard (s : State) : Host.Outcome State Fault Refusal :=
  match s.stoppedAt (partNo s.ev.a) s.ev.b with
  | none => .next s
  | some f => .next (s.discardAll [f])

/-- FCMD_KILL (R198): the firing's team ends KILLED; a handler firing is discarded. -/
def execFcmdKill (s : State) : Host.Outcome State Fault Refusal :=
  match s.stoppedAt (partNo s.ev.a) s.ev.b with
  | none => .next s
  | some f => match s.team? f with
    | some t => .next (s.killTeam t 0 3)
    | none => .next (s.discardAll [f])

/-! ## Pre-emption (R201 to R204) -/

/-- The status word of a request (R204); its CLK is free (log 6). -/
def State.preemptStatus (s : State) (p : Fin 16) (addr : Word) (nfir : Nat) (esc missed : Bool) (action result : Nat) : State :=
  let (n, s) := s.nextFree
  let clk := min (Config.clk n) (2 ^ 32 - 1)
  let w : Word := BitVec.ofNat 64
    (clk * 2 ^ 32 + nfir % 2 ^ 20 * 2 ^ 12 + esc.toNat * 2 ^ 11 + missed.toNat * 2 ^ 10 + action % 4 * 2 ^ 8 + result)
  (s.wordTo p addr w).getD s

/-- P0 names handler firings. -/
def namesHandlers (tid : Word) : Bool := bits tid 63 62 == 1

/-- The tid of the firings P0 names: of the handlers of an entry only its bits 7:0 count (R201). -/
def namedTid (p0 : Word) : Word := if namesHandlers p0 then BitVec.ofNat 64 (2 ^ 62 + bits p0 7 0) else p0

/-- P0 to P3 of a request and whether another was active then, as its write of P4 or P5 found them (R201). -/
def State.asked (s : State) (p : Fin 16) : List Word :=
  let x := s.parts[p]
  if s.ev.l.isEmpty then [x.p0, x.p1, x.p2, x.p3, if x.req.isSome then 1 else 0] else s.ev.l

/-- The firings a request names. -/
def State.named (s : State) (p : Fin 16) (tid : Word) : List Firing := (s.residents p).filter fun f => f.tid == tid

/-- S of R202: the largest frond's state in 64 B lines, and 512. -/
def State.saveEstimate (s : State) (fs : List Firing) : Nat :=
  let per (h : Nat) : Nat := ((fs.filter fun f => f.frond.val == h).map s.contextSize).foldl (· + ·) 0
  ((fs.map fun f => f.frond.val).eraseDups.map fun h => (per h + 63) / 64 + 512).foldl max 512

/-- The action the estimator chooses (R202). R, M: firings retired and not; C is free (log 6). -/
def chooseAction (force w c r m sv : Nat) (restartable handlers : Bool) : Nat :=
  let drains := decide (0 < r) && decide (c * m ≤ w * r)
  let a := if force ≠ 0 then force - 1 else if drains then 0 else if sv ≤ w || !restartable then 1 else 2
  if handlers && a = 1 then (if drains then 0 else 2) else a

/-- M of R202: the firings of a team not yet retired, resident or unplaced; of an actor, and of an entry's handlers, those resident. -/
def unretired (t : Option Team) (fs : List Firing) : Nat := match t with
  | some t => if t.flag 30 then fs.length else t.firings - t.retired - t.saved
  | none => fs.length

/-- A request refused or answered at once, or begun; ask holds P0 to P3 and BUSY. -/
def State.preemptStart (s : State) (p : Fin 16) (addr : Word) (ask : List Word) : State :=
  let x := s.parts[p]
  let tid := namedTid (dword ask 0)
  let p1 := dword ask 1
  let hd := namesHandlers tid
  let fs := s.named p tid
  let t := s.teams.find? fun t => t.part == p && t.tid == tid
  let now (action result : Nat) (s : State) : State := s.preemptStatus p addr 0 false false action result
  if x.req.isSome || dword ask 4 != 0 then now 0 3 s
  else if t.isNone && !hd then now 0 2 s
  else
    let (n, s) := s.nextFree
    let restart := t.any fun t => t.flag 24
    let r := (t.map Team.retired).getD 0
    let a := chooseAction (bits p1 63 62) (bits p1 39 0) (Config.clk n) r (unretired t fs) (s.saveEstimate fs) restart hd
    if a = 2 && !restart && !hd then now a 4 s
    else if a = 1 && decide (bits (dword ask 3) 39 0 < s.areaSize fs) then now a 1 s
    else
      let q : Preempt :=
        { resume := false, tid := tid, action := a, w := bits p1 39 0, sbase := dword ask 2, slen := bits (dword ask 3) 39 0, staddr := addr, nfir := 0,
          esc := false, missed := false, result := 0, handlers := hd, left := [] }
      let s := s.onPart p fun x => { x with req := some q }
      let s := match t with
        | some t => s.onTeam t.id fun t => { t with draining := true }
        | none => s
      let s := if a = 0 then s else fs.foldl (fun s f => s.withdrawFar f.adm) s
      s.push .preemptEnd p.val 0 0 0

/-- PREEMPT_REQUEST (R201, R202): a P4 write of v starts a request. -/
def execPreemptRequest (s : State) : Host.Outcome State Fault Refusal := 
  .next (s.preemptStart (partNo s.ev.a) s.ev.v (s.asked (partNo s.ev.a)))

/-- PREEMPT_DEADLINE (R202, R203): W has passed: a drain is escalated, another action has missed it. An escalated save that has no room ends
the request (log 28). -/
def execPreemptDeadline (s : State) : Host.Outcome State Fault Refusal :=
  let p := partNo s.ev.a
  match s.parts[p].req with
  | none => .next s
  | some q =>
    if q.resume || q.missed then .next s
    else if q.action ≠ 0 then .next (s.onPart p fun x => { x with req := some { q with missed := true } })
    else
      let fs := s.named p q.tid
      let t := s.teams.find? fun t => t.part == p && t.tid == q.tid
      let a := if q.handlers || (t.any fun t => t.flag 24) then 2 else 1
      if fs.isEmpty then .next (s.onPart p fun x => { x with req := some { q with missed := true } })
      else if a = 1 && decide (q.slen < s.areaSize fs) then
        let s := s.onPart p fun x => { x with req := none }
        let s := match t with
          | some t => s.onTeam t.id fun t => { t with draining := false }
          | none => s
        .next ((s.preemptStatus p q.staddr 0 true true 0 1).push .firingPlace p.val 0 0 0)
      else
        let s := s.onPart p fun x => { x with req := some { q with missed := true, esc := true, action := a } }
        .next (fs.foldl (fun s f => s.withdrawFar f.adm) s)

/-- The action of a request can end now (R203). -/
def State.preemptReady (s : State) (p : Fin 16) : Bool :=
  match s.parts[p].req with
  | none => true
  | some q =>
    let fs := s.named p q.tid
    if q.resume then q.left.isEmpty
    else match q.action with
      | 0 => fs.isEmpty
      | 1 => fs.all s.maySave
      | _ => fs.all Firing.atBoundary

/-- PREEMPT_END (R204): the action is done and the status word written. -/
def execPreemptEnd (s : State) : Host.Outcome State Fault Refusal :=
  let p := partNo s.ev.a
  match s.parts[p].req with
  | none => .next s
  | some q =>
    if !s.preemptReady p then .next s
    else
      let fs := s.named p q.tid
      let s := s.onPart p fun x => { x with req := none }
      let act := if q.resume then 3 else if q.esc then 0 else q.action
      let s' := if q.resume || q.action == 0 then s else if q.action == 1 then s.saveAll p fs q.sbase.toNat else s.discardAll fs
      let n := if q.resume then q.nfir else if q.action == 0 then 0 else fs.length
      .next (s'.preemptStatus p q.staddr n q.esc q.missed act q.result)

/-! ## Resuming (R205) -/

/-- n dwords at an address of a partition; one that cannot be read is free (log 28). -/
def State.getWords (s : State) (p : Fin 16) (a : Nat) : Nat → State × List Word
  | 0 => (s, [])
  | n + 1 =>
    let (s, w) := match s.unitRead p s.parts[p].die a 8 with
      | some (s, v) => (s, BitVec.ofNat 64 v)
      | none => let (k, s) := s.nextFree; (s, Config.dword k)
    let (s, ws) := s.getWords p (a + 8) n
    (s, w :: ws)

/-- One dword of a region, where it can be read. -/
def State.peekWord (s : State) (p : Fin 16) (a : Nat) : State × Option Word :=
  match s.unitRead p s.parts[p].die a 8 with
  | some (t, v) => (t, some (BitVec.ofNat 64 v))
  | none => (s, none)

/-- The contexts of a team in a region, by the directory. -/
def State.contextsIn (s : State) (p : Fin 16) (base : Nat) (tid : Word) : State × List Nat :=
  let (s, w) := s.peekWord p base
  let one (x : State × List Nat) (i : Nat) : State × List Nat :=
    match x.1.peekWord p (base + 8 * (i + 1)) with
    | (s, none) => (s, x.2)
    | (s, some o) =>
      let (s, t) := s.peekWord p (base + o.toNat + 8)
      (s, if t = some tid then x.2 ++ [base + o.toNat] else x.2)
  (List.range ((w.map fun w => bits w 31 0).getD 0)).foldl one (s, [])

/-- The firing a context's fixed part and registers give, its place apart. -/
def firingOf (p : Fin 16) (t : Team) (k : Option Saved) (w x v : List Word) : Firing :=
  let h3 := dword w 3
  let h6 := dword w 6
  let at_ (i : Nat) : Word := dword w (8 + i)
  let trim (l : List Word) : List Word := (l.reverse.dropWhile (· == 0)).reverse
  { Firing.blank with
    part := p, tid := dword w 1, fid := dword w 2, fcnt := if t.flag 30 then 0 else BitVec.ofNat 64 (recTotal t.recd), fparm := dword t.recd 9
    dem := { demandOf (dword w 0) with spad := bits h3 44 32 }, prio := bits (dword t.recd 3) 6 4, pc := dword w 4 &&& 0x01FFFFFFFFFFFFFC
    pfx := h6.extractLsb' 32 32, repw := h6.extractLsb' 0 32, repf := dword w 7 &&& 0x01FFFFFFFFFFFFFC
    fflags := at_ 0, frm := at_ 1, srix := at_ 2, utvec := at_ 3, tcause := at_ 4, tval := at_ 5, tpc := at_ 6, tstat := at_ 7
    trepw := at_ 8, trepf := at_ 9, tfmt := at_ 10, seedlo := at_ 13, seedhi := at_ 14, sstream := at_ 15
    tshape := Vector.ofFn fun i => at_ (16 + i.val), accf := Vector.ofFn fun i => at_ (24 + i.val), cr := Vector.ofFn fun i => at_ (28 + i.val)
    q12 := trim ((w.drop 124).take 16), q13 := trim ((w.drop 140).take 16)
    x := Vector.ofFn fun i => x.getD i.val 0, v := Vector.ofFn fun i => BitVec.ofNat 2048 (packNat 64 (((v.drop (32 * i.val)).take 32).map BitVec.toNat))
    k := (k.map Saved.k).getD Firing.blank.k, groups := (k.map Saved.groups).getD [], arrived := k.bind Saved.arrived
    opn := (k.map Saved.opn).getD Firing.blank.opn, mmas := (k.map Saved.mmas).getD 0, q12lost := (k.map Saved.q12lost).getD false
    paths := (k.map Saved.paths).getD [] }

/-- The device's own part of a saved firing. -/
def State.savedFor (s : State) (p : Fin 16) (tid fid : Word) (core : Nat) : Option Saved :=
  s.saved.find? fun x => x.part == p && x.tid == tid && x.fid == fid && x.core.val == core

/-- The MMAs a context restores (R305). -/
def mmasFrom (w : List Word) (adm : Nat) (topx : Bool) (k : Option Saved) : List MmaJob :=
  let jobs := (List.range 4).filterMap fun a =>
    let r := (w.drop (92 + 8 * a)).take 8
    let was := (k.map Saved.jobs).bind fun js => js.find? fun j => mmaAcc j.word == a
    if dword r 0 = 0 then none
    else some { adm := adm, word := (dword r 0).setWidth 32, pfx := (dword r 1).setWidth 32, topx := (was.map MmaJob.topx).getD topx,
                a0 := dword r 3, a1 := dword r 4, b0 := dword r 5, b1 := dword r 6, xs := dword r 7, clr := false,
                done := (dword r 2).toNat, num := (was.map MmaJob.num).getD a : MmaJob }
  jobs.mergeSort fun a b => a.num ≤ b.num

/-- The range-lock entries of an MMA that is reissued. -/
def MmaJob.locks (j : MmaJob) : List Lock :=
  let p := mmaPrefx j.pfx
  let n := mmaSteps j.word
  let own := LockOwner.mma j.adm j.num
  (opA j.word p j.a0 j.a1 j.xs).lock n (p.pl + 1) own ++ (opB j.word p j.b0 j.b1 j.xs).lock n (p.pl + 1) own

/-- The copies a context restores: channel, transfer id, bytes delivered, control registers. -/
def copiesFrom (w : List Word) : List (Nat × Nat × Vector Word 8) :=
  (List.range 4).filterMap fun i =>
    let r := (w.drop (44 + 4 * i)).take 4
    if bit (dword r 1) 63 then
      some (bits (dword r 0) 15 0, bits (dword r 0) 63 16, Vector.ofFn fun j => dword w (60 + 8 * i + j.val))
    else none

/-- A copy taken up again in a free channel at its recorded byte, with the shard snapshot of its CGO (R229); one the device does not know takes
a new snapshot. -/
def State.resumeCopy (s : State) (adm : Nat) (old : List Copy) (x : Nat × Nat × Vector Word 8) : State :=
  s.asFiring adm fun s =>
    match s.channel Option.isNone with
    | none => s
    | some ch =>
      let (id, bytes, cr) := x
      let side (sh : Bool) (w : Word) (s : State) : State × List Word × List (Nat × Word × Word) × Nat :=
        match s.copySide sh w with
        | .ok (s, d, p) => (s, d, p, 0)
        | .error e => (s, [], [], stopCode e)
      let was := old.find? fun c => c.id == id && c.cr == cr
      let (s, sd, sp, e1) := match was with
        | some c => (s, c.srcDesc, c.srcPlace, 0)
        | none => side (copyShs cr) cr[0] s
      let (s, dd, dp, e2) := match was with
        | some c => (s, c.dstDesc, c.dstPlace, 0)
        | none => side (copyShd cr) cr[1] s
      let c : Copy :=
        { adm := adm, tid := s.fir.tid, part := s.fir.part, id := id, cr := cr, bytes := bytes, srcDesc := sd, dstDesc := dd, srcPlace := sp,
          dstPlace := dp, phase := 0, buf := [], pends := [], bad := if e1 ≠ 0 then e1 else e2, hand := was.any Copy.hand, live := true }
      let shrink (l : Lock) : Lock := if l.dst then { l with lo := l.lo + bytes } else l
      let s := s.setChannel ch (some c)
      let s := s.onFrond s.fir.frond fun f => { f with locks := f.locks ++ (copyLocks s.fir.frond cr id).map shrink }
      s.push .copySector s.fir.frond.val ch.val 0 0

/-- A channel of a SOR section. Credits and refusals are those of the save: what came back while the region was parked is lost (log 80). -/
def chanFrom (old : List Word) (inc : Bool) (w : List Word) : Chan :=
  let w7 := dword w 7
  if bit (dword w 0) 63 then
    { chanOf w with
      k := BitVec.ofNat 64 (bits w7 47 0), due := bit w7 63, credits := if inc then 16 else bits w7 52 48, refused := !inc && bit w7 53,
      queue := if inc then old else [] }
  else Chan.closed

/-- A region reloaded (R363): the incoming queues keep what the sorus holds. -/
def Sorus.reload (x : Sorus) (w : List Word) (adm : Nat) : Sorus :=
  let d := w.take 8
  let y := x.start d
  let ch (o i : Nat) : List Word := (w.drop (o + 8 * i)).take 8
  { y with
    outc := Vector.ofFn fun i => chanFrom [] false (ch 8 i.val), inc := Vector.ofFn fun i => chanFrom (x.inc[i]).queue true (ch 72 i.val)
    ws := ((w.drop 512).zipIdx.filter fun l => l.1 != 0).map fun l => (l.2, l.1.setWidth 48)
    holder := some adm, parked := none }

/-- A pair's queues reloaded. -/
def pairFrom (w : List Word) : Vector (List QEntry) 8 :=
  Vector.ofFn fun q =>
    let tags := dword w (2048 + q.val)
    (List.range 8).filterMap fun i =>
      let e := (w.drop (256 * q.val + 32 * i)).take 32
      match bits tags (8 * i + 7) (8 * i) with
      | 1 => some (.word (dword e 0))
      | 2 => some (.vec (BitVec.ofNat 2048 (packNat 64 (e.map BitVec.toNat))))
      | _ => none

/-- The tiles of a restored firing: from their tags, else from their slots; an unconfigured one holds zeros (R207, R310). -/
def State.restoreTiles (s : State) (f : Firing) (slots : Nat) : State :=
  (List.range f.dem.tiles).foldl (fun s t =>
    let slot : Word := BitVec.ofNat 64 (slots + 4096 * t)
    let put (s : State) (v : BitVec 32768) : State := s.onFiring f.adm fun f => { f with m := f.m.mapIdx fun i x => if i = t then v else x }
    if !shapeC (f.shape t) then s
    else match s.cores[f.core].lazyTiles.find? fun z => z.slot == slot && z.part == f.part && z.tid == f.tid && z.fid == f.fid with
      | some z => put (s.onCore f.core fun c => { c with lazyTiles := c.lazyTiles.erase z }) z.data
      | none =>
        let (s, ws) := s.getWords f.part (slots + 4096 * t) 512
        put s (BitVec.ofNat 32768 (packNat 64 (ws.map BitVec.toNat)))) s

/-- The sections after the tile slots restored; owns says which of the reports are of operations that the firing's handler issued (log 27). -/
def State.restoreTail (s : State) (f : Firing) (owns : List Bool) (h3 : Word) (a : Nat) : State :=
  let d := f.dem
  let num (ws : List Word) : Nat := packNat 64 (ws.map BitVec.toNat)
  let (s, ac) := s.getWords f.part a (2048 * d.accs)
  let a := a + 16384 * d.accs
  let (s, bt) := s.getWords f.part a (64 * d.btiles)
  let a := a + 512 * d.btiles
  let (s, sp) := s.getWords f.part a (32 * d.spad)
  let a := a + 256 * d.spad
  let s := s.onFiring f.adm fun f =>
    { f with
      acc := Vector.ofFn fun i => BitVec.ofNat 131072 (num ((ac.drop (2048 * i.val)).take 2048))
      b := Vector.ofFn fun i => BitVec.ofNat 4096 (num ((bt.drop (64 * i.val)).take 64)) }
  let s : State := { s with mem := s.mem.write (spadKey f.frond.val f.spbase.toNat) (256 * d.spad) (num sp) }
  let (s, pq) := if bit h3 31 then s.getWords f.part a 2056 else (s, [])
  let a := if bit h3 31 then a + 16448 else a
  let s := match f.pairset with
    | some i => if bit h3 31 then s.onFrond f.frond fun x => { x with pairs := x.pairs.set i { used := true, q := pairFrom pq } } else s
    | none => s
  let (s, so) := if bit h3 30 then
      let (s, w) := s.getWords f.part a 1
      s.getWords f.part a (512 + 2 ^ bits (dword w 0) 3 0)
    else (s, [])
  let a := if bit h3 30 then a + 8 * so.length else a
  let s := if bit h3 30 then s.onFrond f.frond fun x => { x with sorus := x.sorus.reload so f.adm } else s
  let (s, rp) := s.getWords f.part a (2 * bits h3 29 24)
  let rep (i : Nat) : Report := { tc := dword rp (2 * i), val := dword rp (2 * i + 1), own := owns.getD i false }
  s.onFiring f.adm fun f => { f with reports := (List.range (rp.length / 2)).map rep }

/-- One context restored to its core, if that core admits it and its engines have room (R205); set is the pair-queue set of a pair. -/
def State.restore (s : State) (p : Fin 16) (t : Team) (a : Nat) (set : Option (Fin 8)) : Option State :=
  let (s, w) := s.getWords p a 160
  let d := { demandOf (dword w 0) with spad := bits (dword w 3) 44 32 }
  let core := coreNo (bits (dword w 3) 10 0)
  let k := s.savedFor p (dword w 1) (dword w 2) core.val
  let (s, x) := s.getWords p (a + 0x500) d.xregs
  let (s, v) := s.getWords p (a + 0x500 + 8 * d.xregs) (32 * d.vregs)
  let adm := s.next
  let jobs := mmasFrom w adm (bit (dword w 5) 1) k
  let cps := copiesFrom w
  let h := core.val / 2
  let fr := s.fronds[frondNo h]
  let locks := (jobs.flatMap MmaJob.locks).length + (cps.flatMap fun c => copyLocks (frondNo h) c.2.2 0).length
  if decide (32 < fr.locks.length + locks) || decide (8 < s.cores[core].mmas.length + jobs.length)
      || decide ((fr.chans.toList.filter Option.isNone).length < cps.length) then none
  else (s.spawnAt core { firingOf p t k w x v with pairset := set } (k.map fun k => k.spbase.toNat)).map fun s =>
    let s := s.onFiring adm fun f => { f with fstat := dword w 5, qlim := dword w 19, fewlim := dword w 20 }
    match s.firing? adm with
    | none => s
    | some f =>
      let s := s.restoreTiles f (a + d.tilesAt)
      let s := s.restoreTail f ((k.map Saved.owns).getD []) (dword w 3) (a + d.tilesAt + 4096 * d.tiles)
      let s := s.onFrond f.frond fun x =>
        { x with
          locks := x.locks ++ jobs.flatMap MmaJob.locks
          sorus := if x.sorus.parked = some (f.tid, f.fid) then { x.sorus with parked := none, holder := some adm } else x.sorus }
      let s := s.onCore core fun c => { c with mmas := c.mmas ++ jobs }
      let s := if jobs.isEmpty then s else s.push .mmaStep core.val 0 0 0
      let s := cps.foldl (fun s c => s.resumeCopy adm ((k.map Saved.copies).getD []) c) s
      let old := (k.map Saved.adm).getD adm
      let s : State :=
        { s with
          saved := match k with
            | some k => s.saved.erase k
            | none => s.saved
          unacked := s.unacked.map fun u => if u.adm == old then { u with adm := adm } else u }
      s.onTeam t.id fun t => { t with saved := t.saved - 1, fronds := insertNat t.fronds h }

/-- What the device keeps of the firing whose context lies at an address, and the fid there. -/
def State.contextSaved (s : State) (p : Fin 16) (a : Nat) : Word × Option Saved :=
  let at_ (o : Nat) : Word := (s.peekWord p (a + o)).2.getD 0
  (at_ 16, s.savedFor p (at_ 8) (at_ 16) (bits (at_ 24) 10 0))

/-- The fid a context names, and whether the device knows it as a pair's. -/
def State.contextPair (s : State) (p : Fin 16) (a : Nat) : Word × Bool :=
  let (fid, k) := s.contextSaved p a
  (fid, k.any Saved.paired)

/-- A context that is restored: not that of an actor's firing whose number has fired again since its save (R82, log 28). -/
def State.restores (s : State) (p : Fin 16) (t : Team) (a : Nat) : Bool := !t.flag 30 || (s.contextSaved p a).2.isSome

/-- The context at an address restored, both of a pair together with a free set of queues. -/
def State.restoreUnit (s : State) (p : Fin 16) (t : Team) (left : List Nat) (a : Nat) : Option (State × List Nat) :=
  let (fid, pair) := s.contextPair p a
  if pair then
    let both := left.filter fun b => s.contextPair p b == (fid, true)
    let h := bits ((s.peekWord p (a + 24)).2.getD 0) 10 0 / 2
    let fr := s.fronds[frondNo h]
    match fr.pairs.toList.findIdx? fun q => !q.used with
    | none => none
    | some i =>
      let set : Fin 8 := ⟨i % 8, by omega⟩
      let s := s.onFrond (frondNo h) fun x => { x with pairs := x.pairs.set set { PairSet.free with used := true } }
      (both.foldl (fun o b => o.bind fun s => s.restore p t b (some set)) (some s)).map fun s => (s, both)
  else (s.restore p t a none).map fun s => (s, [a])

/-- The next contexts of a resume restored, if any can be. -/
def State.resumeStep (s : State) (p : Fin 16) : Option State :=
  match s.parts[p].req with
  | none => none
  | some q =>
    match s.teams.find? fun t => t.part == p && t.tid == q.tid with
    | none => some (s.onPart p fun x => { x with req := some { q with left := [] } })
    | some t => (q.left.findSome? fun a => s.restoreUnit p t q.left a).map fun x =>
      x.1.onPart p fun y => { y with req := some { q with left := q.left.filter fun a => !x.2.contains a, nfir := q.nfir + x.2.length } }

/-- A resume request begun (R205): placement goes on again, and the team's contexts are found. -/
def State.resumeStart (s : State) (p : Fin 16) (addr : Word) (ask : List Word) : State :=
  let p0 := dword ask 0
  let p2 := dword ask 2
  if s.parts[p].req.isSome || dword ask 4 != 0 then s.preemptStatus p addr 0 false false 3 3
  else match s.teams.find? fun t => t.part == p && t.tid == p0 with
    | none => s.preemptStatus p addr 0 false false 3 2
    | some t =>
      let s := (s.onTeam t.id fun t => { t with draining := false }).push .firingPlace p.val 0 0 0
      let (s, l) := s.contextsIn p p2.toNat p0
      match l.filter (s.restores p t) with
      | [] => s.preemptStatus p addr 0 false false 3 2
      | l =>
        let q : Preempt :=
          { resume := true, tid := p0, action := 3, w := 0, sbase := p2, slen := 0, staddr := addr, nfir := 0, esc := false,
            missed := false, result := 0, handlers := false, left := l }
        (s.onPart p fun x => { x with req := some q }).push .resumeRequest p.val 0 1 0

/-- RESUME_REQUEST (R205): with c = 0 a P5 write of v starts a resume; with c = 1 the resume under way restores what its cores admit. -/
def execResumeRequest (s : State) : Host.Outcome State Fault Refusal :=
  let p := partNo s.ev.a
  if s.ev.c ≠ 1 then .next (s.resumeStart p s.ev.v (s.asked p))
  else match s.resumeStep p with
    | none => .next s
    | some s =>
      let more : Bool := match s.parts[p].req with
        | some q => !q.left.isEmpty
        | none => false
      .next (bif more then s.push .resumeRequest p.val 0 1 0 else s.push .preemptEnd p.val 0 0 0)

end Sys2Proof.Machine
end

