-- ==== Sys2Proof/Machine/Device.lean ====
section
/-! DEFINITION. The device: stages, ROM verification, the mailbox commands, RESYNC, device faults, power (R391 to R398). An event says in its
comment what a, b, c, v and l hold. -/

namespace Sys2Proof.Machine

/-! ## Ending teams from outside (R379, R397) -/

/-- A team ended FATAL; a completion word for which gone holds is out of reach and is not written. -/
def State.fatalTeam (s : State) (gone : Nat → Bool) (code : Nat) (t : Team) : State :=
  let s := s.takeDown t
  match s.unitWord t.part (dword t.recd 8).toNat true with
  | some (s', k) => if gone k then s'.dropTeam t else s.endTeam t t.doneCount code 2
  | none => s.endTeam t t.doneCount code 2

/-- Steps 1 to 3 of R397: every firing discarded, every completion word that can be reached written FATAL with a code, every port dropped. -/
def State.endAll (s : State) (gone : Nat → Bool) (code : Nat) : State :=
  let s := s.teams.foldl (fun s t => s.fatalTeam gone code t) s
  let s := s.firings.foldl (fun s f => match s.firing? f.adm with
    | some f => s.discardFiring f
    | none => s) s
  { s with ports := s.ports.map fun (p : Port) => { p with en := false, state := 0 } }

/-- A device fault (R397) in PROTONEMA or FULL: the device enters DOWN and its units stop. -/
def State.deviceFault (s : State) (gone : Nat → Bool) (code : Nat) : State :=
  if s.dev.stage = 2 ∨ s.dev.stage = 3 then
    let s := s.endAll gone code
    { s with dev := { s.dev with stage := 4, fault := code, cmdRun := none }, agenda := [] }
  else s

/-- No completion word is out of reach. -/
def allReached (_ : Nat) : Bool := false

/-- THERMAL_TRIP (R397). -/
def execThermalTrip (s : State) : Host.Outcome State Fault Refusal := .next (s.deviceFault allReached 1)

/-- A key in the HBM of a die (R399). -/
def inDieHbm (d k : Nat) : Bool := decide (d * (192 * 2 ^ 30) ≤ k) && decide (k < (d + 1) * (192 * 2 ^ 30))

/-- HBM_DIE_LOSS (R397): every HBM stack of die a. -/
def execHbmDieLoss (s : State) : Host.Outcome State Fault Refusal := .next (s.deviceFault (inDieHbm (s.ev.a % 4)) 3)

/-! ## Stages (R391, R392) -/

/-- The machine as power or RESET leaves it: what is fused or stored, what lies outside the package, and the model's own counters stay. -/
def State.restarted (s : State) : State :=
  let d := s.dev
  { State.reset with
    dev := { Device.reset with stored := d.stored, pkgId := d.pkgId, domId := d.domId, portMask := d.portMask, ethMask := d.ethMask
                               cxlMask := d.cxlMask, vfMask := d.vfMask, keyDigest := d.keyDigest, rollback := d.rollback
                               cxlPoison := d.cxlPoison, cxlDown := d.cxlDown, hostUp := d.hostUp }
    ports := s.ports.map fun (p : Port) => { Port.reset with peer := p.peer }
    mem := s.mem.filter fun x => decide (cxlKey 0 ≤ x.1) && decide (x.1 < shmKey 0)
    sent := s.sent, inbox := s.inbox, ev := s.ev, free := s.free, traps := s.traps, next := s.next }

/-- SHA3-512 of some bytes. -/
def sha3Bytes (b : List Byte) : BitVec 512 := BitVec.ofNat 512 (sha3 (packNat 8 (b.map BitVec.toNat)) b.length)

/-- An image passes both checks of the ROM (R392): its signature over its digest, under the public key whose digest is fused, and a version not
below the anti-rollback counter. -/
def Device.verifies (d : Device) (img : List Byte) : Bool :=
  sha3Bytes (Config.publicKey img) == d.keyDigest && Config.signed img (sha3Bytes img) && decide (d.rollback ≤ Config.version img)

/-- The ROM verifies the stored image and starts it: PROTONEMA, or RECOVERY (R392). -/
def State.romVerify (s : State) : State :=
  let d := s.dev
  if d.verifies d.stored then { s with dev := { d with stage := 2, fwver := Config.version d.stored, image := d.stored } }
  else { s with dev := { d with stage := 1 } }

/-- POWER_GOOD (R391): the ROM starts. -/
def execPowerGood (s : State) : Host.Outcome State Fault Refusal :=
  if s.dev.stage = 0 then .next s.restarted.romVerify else .next s

/-- POWER_LOSS (R391): every stage ends; nothing volatile is kept. -/
def execPowerLoss (s : State) : Host.Outcome State Fault Refusal := .next s.restarted

/-- Device memory and shared memory initialised: zero and empty (R147, R391). -/
def State.initMemory (s : State) : State :=
  { s with mem := s.mem.filter fun x => decide (bufKey 0 ≤ x.1) || (decide (cxlKey 0 ≤ x.1) && decide (x.1 < shmKey 0)), full := [], late := [] }

/-- FULL_ENTER (R391): HBM has trained and the self-tests have run; the fronds in l failed theirs. FULL is entered when none did and no port still
trains. -/
def execFullEnter (s : State) : Host.Outcome State Fault Refusal :=
  let bad (h : Nat) : Bool := s.ev.l.any fun w => w.toNat == h
  let s := if s.dev.stage = 2 then { s with fronds := s.fronds.mapIdx fun h x => { x with tested := !bad h } } else s
  if s.dev.stage = 2 && (s.fronds.toList.all Frond.tested) && s.ports.toList.all fun (p : Port) => p.state != 1 then
    .next { s.initMemory with dev := { s.dev with stage := 3 } }
  else .next s

/-! ## Mailbox commands (R393) -/

/-- Bytes of the mailbox buffer. -/
def bufSize : Nat := 65536

/-- A command ends with a status. -/
def State.cmdEnd (s : State) (st : Nat) : State := s.push .commandComplete st 0 0 0

/-- A report whose contents the spec leaves open, in the buffer. -/
def State.reportBuf (s : State) : State :=
  let (n, s) := s.nextFree
  { s with mem := s.mem.write (bufKey 0) bufSize (Config.report n).toNat }

/-- The buffer as bytes. -/
def State.image (s : State) : List Byte := (List.range bufSize).map fun i => s.mem.get (bufKey i)

/-- IDENT (R393). -/
def execIdent (s : State) : Host.Outcome State Fault Refusal := .next (s.reportBuf.cmdEnd 0)

/-- HEALTH (R393). -/
def execHealth (s : State) : Host.Outcome State Fault Refusal := .next (s.reportBuf.cmdEnd 0)

/-- THERMAL (R393). -/
def execThermal (s : State) : Host.Outcome State Fault Refusal := .next (s.reportBuf.cmdEnd 0)

/-- FWLOAD (R393): the image in the buffer, if it verifies, is stored for the next reset. -/
def execFwload (s : State) : Host.Outcome State Fault Refusal :=
  if s.dev.verifies s.image then .next ({ s with dev := { s.dev with stored := s.image } }.cmdEnd 0) else .next (s.cmdEnd 3)

/-- KEYLOAD (R395): the wrapped key in the buffer for the port that ARG (v 63:8) names; the salt is free (log 6). -/
def execKeyload (s : State) : Host.Outcome State Fault Refusal :=
  let p := bits s.ev.v 63 8
  if h : p < 18 then
    match Config.unwrapped s.image with
    | none => .next (s.cmdEnd 3)
    | some key =>
      let (n, s) := s.nextFree
      .next ((s.stageKey ⟨p, h⟩ key ((Config.dword n).setWidth 48)).cmdEnd 0)
  else .next (s.cmdEnd 4)

/-- RESET (R393, R397): every team is ended and the device starts from ROM. -/
def execReset (s : State) : Host.Outcome State Fault Refusal := .next (s.endAll allReached s.dev.fault).restarted.romVerify

/-- COMMAND_COMPLETE (R393): the running command ends with status a. -/
def execCommandComplete (s : State) : Host.Outcome State Fault Refusal :=
  if s.dev.cmdRun.isNone then .next s else .next ({ s with dev := { s.dev with cmdRun := none } }.cmdDone (s.ev.a % 256))

/-! ## RESYNC (R396) -/

/-- STATE of a team record. -/
def State.teamState (s : State) (t : Team) : Nat :=
  if !t.ready then 0
  else if t.saved != 0 && (s.liveOf t).isEmpty then 4
  else if t.flag 28 then 5
  else if t.draining then 3
  else if t.nextFid.isSome then 1
  else 2

/-- A team record. -/
def State.teamRecord (s : State) (t : Team) : List Word :=
  [t.tid, dword t.recd 8, BitVec.ofNat 64 (t.retired % 2 ^ 32 * 2 ^ 32 + t.part.val * 16 + s.teamState t), 0]

/-- Pre-emption status: 0 with no request active, else bit 63 with NFIR, ESC, MISSED and ACTION where a status word has them (log 29). -/
def Part.preemption (x : Part) : Word := match x.req with
  | none => 0
  | some q => BitVec.ofNat 64
    (2 ^ 63 + q.nfir % 2 ^ 20 * 2 ^ 12 + q.esc.toNat * 2 ^ 11 + q.missed.toNat * 2 ^ 10 + (if q.resume then 3 else q.action % 4) * 2 ^ 8)

/-- A partition's entry. Its clk is free (log 6). -/
def State.partSummary (s : State) (p : Fin 16) : List Word :=
  let x := s.parts[p]
  [x.pint, x.pcfg, x.trhead, x.trtail, x.dropcnt, x.lostpkg, Config.dword (s.free + p.val), x.preemption]

/-- A queue's entry: HEAD and TAIL; LQCFG bits 18:16 in their places beside LQERR (log 29). -/
def LQueue.summary (q : LQueue) : List Word :=
  [BitVec.ofNat 64 (bits q.lqtail 31 0 * 2 ^ 32 + bits q.lqhead 31 0), (q.lqcfg &&& maskBits 18 16) ||| q.lqerr]

/-- A mask of the Absan ports that are UP. -/
def State.upMask (s : State) : Word :=
  BitVec.ofNat 64 (s.ports.toList.zipIdx.foldl (fun n (x : Port × Nat) => if x.1.state = 2 then n + 2 ^ x.2 else n) 0)

/-- CXL ports that are up: enabled and not lost. -/
def Device.cxlUp (d : Device) : Nat := (List.range 2).foldl (fun n i => if d.cxlOn.getLsbD i && !d.cxlDown.contains i then n + 2 ^ i else n) 0

/-- The fused limits in two dwords: the caps and the masks of Ethernet, CXL and VFs; the mask of the Absan ports (R394). -/
def Device.fused (d : Device) : List Word :=
  [BitVec.ofNat 64 (d.vfMask.toNat * 2 ^ 48 + d.cxlMask.toNat * 2 ^ 40 + d.ethMask.toNat * 2 ^ 32 + moduleCapMax * 2 ^ 16 + packageCap), d.portMask]

/-- The header: its items in order (log 29). Which of the enabled Ethernet ports are up is free, and so is the last dword (log 6). -/
def State.resyncHeader (s : State) (present next : Nat) : List Word :=
  let eth := (Config.dword (s.free + 16)).toNat % 256 &&& (s.dev.ethMask &&& s.dev.ethEn).toNat
  [s.dev.read 0, BitVec.ofNat 64 s.dev.resyncs, BitVec.ofNat 64 (next % 2 ^ 32 * 2 ^ 32 + present), s.upMask,
   BitVec.ofNat 64 (s.dev.cxlUp * 2 ^ 8 + eth)] ++ s.dev.fused ++ [Config.dword (s.free + 17)]

/-- The whole summary, from a team index on. -/
def State.summary (s : State) (first : Nat) : List Word :=
  let ts := (s.teams.drop first).take 1758
  s.resyncHeader ts.length (first + ts.length) ++ (List.finRange 16).flatMap s.partSummary
    ++ s.parts.toList.flatMap (fun p => p.lq.toList.flatMap LQueue.summary) ++ ts.flatMap s.teamRecord

/-- RESYNC (R396): ARG bits 31:0 (v 39:8) give the first team index. -/
def execResync (s : State) : Host.Outcome State Fault Refusal :=
  let s : State := { s with dev := { s.dev with resyncs := s.dev.resyncs + 1 } }
  .next ({ s with mem := writeDwords s.mem (bufKey 0) (s.summary (bits s.ev.v 39 8)), free := s.free + 18 }.cmdEnd 0)

/-! ## Limits (R394) -/

/-- POWER_CAP_BREACH (R394): the regulators stretch clk. -/
def execPowerCapBreach (s : State) : Host.Outcome State Fault Refusal := .next { s with dev := { s.dev with stretched := true } }

end Sys2Proof.Machine
end

