-- ==== Sys2Proof/Machine/Partitions.lean ====
section
/-! DEFINITION. Supervisor registers, the memory-side cache, invalidation, re-adoption and uncorrectable errors (R4, R373 to R379). An event
says in its comment what a, b, c, v and l hold. -/

namespace Sys2Proof.Machine

/-! ## Registers (R4, R373 to R376) -/

/-- Who writes a register: 0 the host, which needs its link, 1 a monitor core, which runs a verified image (R391, R392). -/
def State.reaches (s : State) (by_ : Nat) : Bool := if by_ = 1 then decide (2 ≤ s.dev.stage) else s.dev.hostUp

/-- A port's key register, which monitor cores cannot write (R394). -/
def keyReg (o : Nat) : Bool := decide (0x4000000 ≤ o) && decide (o < 0x4012000) && decide (2 ≤ o % 0x1000 / 8) && decide (o % 0x1000 / 8 ≤ 6)

/-- A register write of a whole dword by the host or a monitor core. -/
def State.regWrite (s : State) (by_ o : Nat) (v : Word) : State :=
  if !s.reaches by_ || (by_ == 1 && keyReg o) then s else s.ctlWrite (o / 8 * 8) (BitVec.allOnes 64) v

/-- REGISTER_WRITE (R4): v at control offset a, by b (0 the host, 1 a monitor core). -/
def execRegisterWrite (s : State) : Host.Outcome State Fault Refusal := .next (s.regWrite s.ev.b s.ev.a s.ev.v)

/-- PINT_WRITE (R375): v to the PINT of partition a, by b. -/
def execPintWrite (s : State) : Host.Outcome State Fault Refusal := .next (s.regWrite s.ev.b (partReg s.ev.a 0) s.ev.v)

/-- TLBINV_WRITE (R373): v to the TLBINV of partition a, by b. -/
def execTlbinvWrite (s : State) : Host.Outcome State Fault Refusal := .next (s.regWrite s.ev.b (partReg s.ev.a 0x80) s.ev.v)

/-- A waiter in a retry list is the partition's: a firing of it waits, or another package whose access was translated by its tables. -/
def State.waitsFor (s : State) (p : Fin 16) (w : FeWait) : Bool := match w.peer with
  | some x => x.part == p.val
  | none => (s.firing? w.adm).any fun f => f.part == p

/-- Every access that the partition's tables have translated has completed: its firings' and its copies' at other packages, its bank operations,
its full-empty waits, and those of other packages that wait here. -/
def State.quiet (s : State) (p : Fin 16) : Bool :=
  (s.residents p).all (fun f => f.pends.isEmpty) && s.unacked.all (fun u => u.part != p) && !s.retry.any (s.waitsFor p)
    && !(s.inreqs.any fun r => r.again && r.part == p.val)
    && (s.cores.toList.all fun c => c.busy.all fun r => r.part != p || r.applied)
    && (s.fronds.toList.all fun x => x.chans.toList.all fun c => c.all fun c => c.part != p || c.pends.isEmpty)

/-- The TLB entries an invalidation of a partition names dropped on every die. -/
def State.dropTlb (s : State) (p : Fin 16) (v : Word) : State :=
  { s with dies := s.dies.map fun (d : Die) => { d with tlb := d.tlb.filter fun t => !tlbNamed p v t } }

/-- TLBINV of another package arrives for partition p: the drops, then its report once what was issued before has completed (R373). -/
def State.peerTlbinv (s : State) (pkg : Nat) (p : Fin 16) (w : Word) : State := (s.dropTlb p w).push .tlbinvComplete p.val 2 pkg 0

/-- TLBINV_COMPLETE (R373): the entries are dropped on every die, and the invalidation of partition a ends once what was issued before has
completed and its peers, marked in l, have reported. With b = 1 peer c reports; with b = 2 this package reports to package c. -/
def execTlbinvComplete (s : State) : Host.Outcome State Fault Refusal :=
  let p := partNo s.ev.a
  if s.ev.b = 1 then
    let one (e : Ev) : Ev := if e.op == .tlbinvComplete && e.b == 0 && e.a == p.val then { e with l := dropMark s.ev.c e.l } else e
    .next { s with agenda := s.agenda.map one }
  else if s.ev.b = 2 then .next (if s.quiet p then s.send (.tlbinvDone s.ev.c p.val) else s)
  else if !bit s.parts[p].tlbstat 0 || !s.quiet p || s.marksOpen s.ev.l then .next s
  else .next ((s.dropTlb p s.parts[p].tlbinv).onPart p fun x => { x with tlbstat := 0 })

/-- MSCCFG_WRITE (R376): v to the MSCCFG of die a, by b. -/
def execMsccfgWrite (s : State) : Host.Outcome State Fault Refusal := .next (s.regWrite s.ev.b (0x1000 * (s.ev.a % 4)) s.ev.v)

/-- Shared-memory keys of die d that a cache of old units holds and one of new units does not (R13, R376). -/
def returned (d old new k : Nat) : Bool :=
  decide (shmKey (d * 2 ^ 27 + 2 ^ 27 - old * 2 ^ 24) ≤ k) && decide (k < shmKey (d * 2 ^ 27 + 2 ^ 27 - new * 2 ^ 24))

/-- MSC_CHANGE_COMPLETE (R376): the change on die a ends; offsets given back are zero and empty. -/
def execMscChangeComplete (s : State) : Host.Outcome State Fault Refusal :=
  let d : Fin 4 := ⟨s.ev.a % 4, by omega⟩
  let x := s.dies[d]
  let new := bits x.msccfg 2 0
  if !bit x.msccfg 63 then .next s
  else .next ({ s with
      mem := s.mem.filter fun y => !returned d.val x.mscOld new y.1
      full := s.full.filter fun w => !returned d.val x.mscOld new (8 * w) }.onDie d fun x =>
    { x with msccfg := BitVec.ofNat 64 new, mscOld := new })

/-! ## Re-adoption (R378) -/

/-- A failure of a re-adoption on a die: the first restarts the kernel, a second within 1 s ends the device. -/
def State.readoptFail (s : State) (d : Fin 4) (late : Bool) : State :=
  if s.dies[d].failed && !late then s.deviceFault allReached 2 else s.onDie d fun x => { x with failed := true }

/-- A re-adoption of the kernel on a die begins: its partitions' queues freeze, and the ROM repeats both checks on the image it runs (R378, R392). -/
def State.readopt (s : State) (d : Fin 4) (late : Bool) : State :=
  let t := s.onDie d fun x => { x with frozen := true }
  if s.dev.verifies s.dev.image then t else t.readoptFail d late

/-- LOCKSTEP_MISMATCH (R378): on die a; c = 1 when more than 1 s has passed since the last failure. A mismatch while the queues are frozen is a
failure. -/
def execLockstepMismatch (s : State) : Host.Outcome State Fault Refusal :=
  let d : Fin 4 := ⟨s.ev.a % 4, by omega⟩
  let late := s.ev.c == 1
  .next (if s.dies[d].frozen then s.readoptFail d late else s.readopt d late)

/-- READOPTION_TIMEOUT (R378): the kernel of die a has not rebuilt its state in time; c as above. -/
def execReadoptionTimeout (s : State) : Host.Outcome State Fault Refusal :=
  let d : Fin 4 := ⟨s.ev.a % 4, by omega⟩
  if s.dies[d].frozen then .next (s.readoptFail d (s.ev.c == 1)) else .next s

/-- READOPTION_COMPLETE (R378): the kernel of die a has rebuilt its state, and the queues thaw. -/
def execReadoptionComplete (s : State) : Host.Outcome State Fault Refusal :=
  .next (s.onDie ⟨s.ev.a % 4, by omega⟩ fun x => { x with frozen := false })

/-! ## Uncorrectable errors (R379) -/

/-- A partition whose shared memory lies on a die in part. -/
def Part.onDie (x : Part) (d : Nat) : Bool :=
  decide (x.shmlen.toNat ≠ 0) && decide (x.shmbase.toNat < (d + 1) * 2 ^ 27) && decide (d * 2 ^ 27 < x.shmbase.toNat + x.shmlen.toNat)

/-- A table of a partition's walk, or a page that a leaf under it maps with a key, holds a physical address (R379). -/
def tableHits (m : Mem) (pkey v : Nat) : Nat → Nat → Bool
  | 0, table => table / 4096 == v / 4096 || (List.range 512).any fun i =>
    let e := BitVec.ofNat 64 (m.read (table + 8 * i) 8)
    bit e 0 && pteLeaf e && leafHolds e (leafSize 0 (bit e 12))
  | level + 1, table => table / 4096 == v / 4096 || (List.range 512).any fun i =>
    let e := BitVec.ofNat 64 (m.read (table + 8 * i) 8)
    bit e 0 && if pteLeaf e then leafHolds e (leafSize (level + 1) false) else tableHits m pkey v level (bits e 55 16 * 4096)
where
  leafHolds (e : Word) (size : Nat) : Bool :=
    let a := bits e 55 16 * 4096 / size * size
    bits e 63 56 == pkey && (bits e 11 10 == 0 || bits e 11 10 == 3) && decide (a ≤ v) && decide (v < a + size)

/-- The partition has a page with its PKEY, or a page table, at a physical address. -/
def State.hasPage (s : State) (p : Fin 16) (v : Nat) : Bool :=
  let x := s.parts[p]
  x.len != 0 && tableHits s.mem (bits x.pcfg 39 32) v 4 (bits x.ptbr 51 12 * 4096)

/-- An access of die c to a home passes a shared resource of class 3 to 6 on die d: the HBM controller of the stack that holds v, the crossbar,
UCIe; the gateway is passed by none inside the package (R379). -/
def passes (cls d c key v : Nat) : Bool :=
  let home := (homeSite key).1
  match cls with
  | 3 => decide (key < hbmEnd) && home == d && key / 4096 % 3 == v / 4096 % 3
  | 4 => c == d || home == d
  | 5 => c != home && (c == d || home == d)
  | _ => false

/-- A bank request in flight from die c passes a shared resource of class 3 to 6 on die d: the HBM controller of the stack that holds v, the
crossbar, UCIe, the gateway (R379). -/
def BankReq.through (r : BankReq) (cls d c v : Nat) : Bool :=
  !r.answered && match r.peer with
    | some _ => decide (cls = 4 ∨ cls = 6) && c == d
    | none => passes cls d c r.key v

/-- A full-empty access that waits passes it: one of a firing from its die, one of another package through the gateway and the crossbar of its
home. -/
def State.waitThrough (s : State) (cls d v : Nat) (w : FeWait) : Bool := match w.peer with
  | some _ => decide (cls = 4 ∨ cls = 6) && (homeSite w.key).1 == d
  | none => (s.firing? w.adm).any fun f => passes cls d f.die.val w.key v

/-- A message that waits in the fabric for core n passes it (R81): one of this package from its sender's die, one of another through the
gateway. -/
def State.messageThrough (s : State) (cls d n : Nat) (m : Message) : Bool :=
  if m.srcPkg = s.dev.pkg then
    (cls == 4 && (m.srcCore / 512 == d || n / 512 == d)) || (cls == 5 && m.srcCore / 512 != n / 512 && (m.srcCore / 512 == d || n / 512 == d))
  else decide (cls = 4 ∨ cls = 6) && n / 512 == d

/-- A firing's access to another frond's scratchpad, or its steal from core v (R192), is under way and passes it. -/
def Firing.unitThrough (f : Firing) (cls d : Nat) (e : Ev) : Bool :=
  e.a == f.adm && match e.op with
    | .remoteAccessArrive => decide (cls = 4 ∨ cls = 5) && f.die.val == d
    | .dqstealServe =>
      let c := e.b / 512
      (cls == 4 && (f.die.val == d || c == d)) || (cls == 5 && f.die.val != c && (f.die.val == d || c == d))
    | _ => false

/-- The partitions with a request in flight through a shared resource (R379). -/
def State.inFlight (s : State) (cls d v : Nat) (p : Fin 16) : Bool :=
  let far := cls == 4 || cls == 6
  let firing (f : Firing) : Bool := f.part == p && ((far && f.die.val == d && !f.pends.isEmpty) || s.agenda.any (f.unitThrough cls d))
  let mine (n : Nat) (m : Message) : Bool := if m.srcPkg = s.dev.pkg then m.srcPart == p.val else s.partOf (n / 2) == some p
  let copy (x : Frond × Nat) : Bool := far && x.2 / 256 == d && x.1.chans.toList.any fun c => c.any fun c => c.part == p && !c.pends.isEmpty
  s.firings.any firing || (far && s.unacked.any fun u => u.part == p && u.die.val == d) || s.fronds.toList.zipIdx.any copy
    || (s.cores.toList.zipIdx.any fun x => (x.1.busy.any fun r => r.part == p && r.through cls d (x.2 / 512) v)
      || x.1.onway.any fun m => mine x.2 m && s.messageThrough cls d x.2 m)
    || s.retry.any fun w => s.waitsFor p w && s.waitThrough cls d v w

/-- The partitions an error strikes (R379): the one that owns the frond, those whose shared memory holds the bank or that have a page at the
address, those with a request in flight through what is shared (bit 2 of c: an error of class 3 is the controller's and no word's), and those the
event names. -/
def State.struck (s : State) : List (Fin 16) :=
  let e := s.ev
  (List.finRange 16).filter fun p =>
    (e.l.any fun w => partNo w.toNat == p) || match e.a with
      | 1 => s.partOf (e.v.toNat % 1024) == some p
      | 2 => (s.parts[p]).onDie (e.b % 4)
      | 3 => if bit (BitVec.ofNat 64 e.c) 2 then s.inFlight 3 (e.b % 4) e.v.toNat p else s.hasPage p e.v.toNat
      | 7 => s.hasPage p e.v.toNat
      | c => s.inFlight c (e.b % 4) e.v.toNat p

/-- A key in struck memory: a bank's words, or the HBM word at the address. -/
def struckKey (cls die : Nat) (loc k : Nat) : Bool :=
  match cls with
  | 2 => homeSite k == (die, loc)
  | 3 => k / 8 == loc / 8
  | _ => false

/-- The syndrome of R379. -/
def syndrome (e : Ev) : Word := BitVec.ofNat 64 (e.a % 256 * 2 ^ 56 + e.b % 4 * 2 ^ 42 + bits e.v 41 0)

/-- A MACHINE record in a partition's ring, or kept until it has room, beside the 64 error-log records of R401; what the spec gives it no contents
for is free (log 6). -/
def State.machineRecord (s : State) (p : Fin 16) (syn : Word) : State :=
  let w (i : Nat) : Word := Config.dword (s.free + i)
  let recd : List Word := [w 0, w 1, (w 2 &&& ~~~(maskBits 15 0)) ||| BitVec.ofNat 64 0x15, syn, w 3, w 4, 0, 0]
  let s : State := { s with free := s.free + 5 }
  if !s.parts[p].ringFull && s.parts[p].held.isEmpty then s.ringPut p recd
  else (s.onPart p fun x => { x with machs := x.machs ++ [recd] }).push .errorLogAppend p.val 0 0 0

/-- Held writes of the fronds on which a team runs dropped (R379). -/
def State.dropHeldOf (s : State) (t : Team) : State :=
  (s.liveOf t).foldl (fun s f => s.onFrond f.frond fun x => { x with held := [] }) s

/-- A team has a firing, resident or saved, or an engine operation: a copy, or a bank operation not yet answered. -/
def State.atWork (s : State) (t : Team) : Bool :=
  !(s.liveOf t).isEmpty || t.saved != 0
    || (s.fronds.toList.any fun x => x.chans.toList.any fun c => c.any fun c => c.tid == t.tid && c.part == t.part && c.live)
    || s.cores.toList.any fun c => c.busy.any fun r => r.team == some t.id && !r.applied

/-- One partition struck: its teams at work end FATAL, and the ring says so. -/
def State.strike (s : State) (p : Fin 16) : State :=
  let e := s.ev
  let ts := s.teams.filter fun t => t.part == p && s.atWork t
  let gone := struckKey e.a (e.b % 4) e.v.toNat
  let s := ts.foldl (fun s t => (s.dropHeldOf t).fatalTeam gone (e.a % 256) t) s
  s.machineRecord p (syndrome e)

/-- UNCORRECTABLE_ERROR (R378, R379): CLASS a on die b at v (frond, bank or address), which strikes partitions, l among them; with bit 0 of c set
it lies in the monitor region of die b, whose kernel is re-adopted (bit 1 of c: more than 1 s after the last failure); bit 2 of c makes one of
class 3 the HBM controller's. -/
def execUncorrectableError (s : State) : Host.Outcome State Fault Refusal :=
  let d : Fin 4 := ⟨s.ev.b % 4, by omega⟩
  if s.ev.c % 2 = 1 then .next (if s.dies[d].frozen then s else s.readopt d (s.ev.c / 2 % 2 == 1))
  else .next (s.struck.foldl State.strike s)

end Sys2Proof.Machine
end

