-- ==== Sys2Proof/Machine/Links.lean ====
section
/-! DEFINITION. The host link, the CXL tier and the Absan Link ports; loss of a peer (R381 to R390). An event says in its comment what a, b,
c, v and l hold. -/

namespace Sys2Proof.Machine

/-! ## Host link (R381, R390) -/

/-- HOST_LINK_LOSS (R390). -/
def execHostLinkLoss (s : State) : Host.Outcome State Fault Refusal := .next { s with dev := { s.dev with hostUp := false } }

/-- HOST_LINK_RETURN (R390). -/
def execHostLinkReturn (s : State) : Host.Outcome State Fault Refusal := .next { s with dev := { s.dev with hostUp := true } }

/-- n bytes of host data written at home, full-empty bits unchanged; what reaches beyond HBM completes as an unsupported request and changes
nothing (R381, R399). -/
def State.hostPut (s : State) (o n : Nat) (ws : List Word) : State :=
  if o + n ≤ hbmEnd then s.homeDone (keysFrom o n) (s.mem.write o n (packNat 64 (ws.map BitVec.toNat))) else s.send .unsupported

/-- A virtual function that the fused mask allows and firmware has left enabled (R394). -/
def Device.vfOn (d : Device) (p : Fin 16) : Bool := d.vfMask.getLsbD p.val && d.vfEn.getLsbD p.val

/-- Control space that the host can read in a stage: DEVSTAT always, in RECOVERY and DOWN the device block and the command buffer, in PROTONEMA and
FULL all of it (R391, log 55). -/
def Device.visible (d : Device) (o n : Nat) : Bool :=
  (decide (0x3000000 ≤ o) && decide (o + n ≤ 0x3000008)) || d.stage == 2 || d.stage == 3
    || (d.stage != 0 && decide (0x3000000 ≤ o) && decide (o + n ≤ 0x3020000))

/-- n bytes of control space from an offset on. -/
def State.ctlBytes (s : State) (o n : Nat) : Nat := packNat 8 ((keysFrom o n).map fun k => s.ctlLoad k 1)

/-- What a host read of n bytes at an offset of a window finds; none is an unsupported request (R381, R391, log 55). Of HBM it is the home value,
whatever an L1 holds, and in PROTONEMA zero; BAR4 gives what BAR2 would. -/
def State.hostFinds (s : State) (w : Window) (off n : Nat) : Option Nat :=
  let memory (o : Nat) : Option Nat :=
    if hbmEnd < o + n then none else if s.dev.stage = 3 then some (s.mem.read o n) else if s.dev.stage = 2 then some 0 else none
  match w with
  | .bar0 => if s.dev.visible off n then some (s.ctlBytes off n) else none
  | .bar2 => memory off
  | .bar4 => memory (off % 2 ^ 40)
  | .vf p =>
    if s.dev.vfOn p && decide (off + n ≤ 2 ^ 20) && s.dev.visible (partReg p.val off) n then some (s.ctlBytes (partReg p.val off) n) else none

/-- A host read (R381). -/
def State.hostRead (s : State) (w : Window) (off n : Nat) : State :=
  if !s.dev.hostUp then s
  else match s.hostFinds w off n with
    | some v => s.send (.hostData n v)
    | none => s.send .unsupported

/-- A host write of a dword at an offset of virtual function p's BAR0, partition p's register block (R381, R394). -/
def State.vfWrite (s : State) (p : Fin 16) (off : Nat) (v : Word) : State :=
  if s.dev.vfOn p && decide (off < 2 ^ 20) then s.regWrite 0 (partReg p.val off) v else s

/-- The host can reach memory: its link is up and the device in FULL (R391). -/
def State.hostMem (s : State) : Bool := s.dev.hostUp && s.dev.stage == 3

/-- HOST_BAR2_WRITE (R381): b bytes of l at offset a. -/
def execHostBar2Write (s : State) : Host.Outcome State Fault Refusal :=
  if s.hostMem then .next (s.hostPut s.ev.a s.ev.b s.ev.l) else .next s

/-- HOST_BAR4_WRITE (R381): b bytes of l at offset a. An aligned dword sets its word empty in the lower half, full in the upper, and serves
its waiters; any other write is as through BAR2. -/
def execHostBar4Write (s : State) : Host.Outcome State Fault Refusal :=
  let o := s.ev.a % 2 ^ 40
  if !s.hostMem then .next s
  else
    let s' := s.hostPut o s.ev.b s.ev.l
    if s.ev.b = 8 && o % 8 == 0 && decide (o + 8 ≤ hbmEnd) then .next ((s'.setFull o (decide (2 ^ 40 ≤ s.ev.a))).serveAll o) else .next s'

/-! ## CXL tier (R382) -/

/-- CXL_POISON (R382): the device returns poisoned data for the 64 B line a from now on. -/
def execCxlPoison (s : State) : Host.Outcome State Fault Refusal :=
  .next { s with dev := { s.dev with cxlPoison := insertNat s.dev.cxlPoison s.ev.a } }

/-- CXL_DEVICE_LOSS (R382): port a or its device is lost. -/
def execCxlDeviceLoss (s : State) : Host.Outcome State Fault Refusal :=
  .next { s with dev := { s.dev with cxlDown := insertNat s.dev.cxlDown (s.ev.a % 2) } }

/-! ## Absan Link ports (R383 to R388) -/

/-- A port by its number. -/
def portNo (n : Nat) : Fin 18 := ⟨n % 18, by omega⟩

/-- ALCTL_WRITE (R386, R389): v to the ALCTL of port a, by b (0 the host, 1 a monitor core). -/
def execAlctlWrite (s : State) : Host.Outcome State Fault Refusal := .next (s.regWrite s.ev.b (0x4000000 + 0x1000 * (portNo s.ev.a).val) s.ev.v)

/-- ALKEYGO_WRITE (R388, R394): the salt v to port a, by b. -/
def execAlkeygoWrite (s : State) : Host.Outcome State Fault Refusal :=
  .next (s.regWrite s.ev.b (0x4000000 + 0x1000 * (portNo s.ev.a).val + 0x30) s.ev.v)

/-- KEY_SWITCH (R388): at the next flit boundary port a takes its staged key from counter 0, and sends again if it starved. -/
def execKeySwitch (s : State) : Host.Outcome State Fault Refusal :=
  .next (s.onPort (portNo s.ev.a) fun p => match p.staged with
    | none => p
    | some (k, salt) => { p with key := k, salt := salt, ctr := 0, staged := none, state := if p.state = 3 then 2 else p.state })

/-- KEYWARN (R387): the outbound flit counter of port a reaches 2^47. -/
def execKeywarn (s : State) : Host.Outcome State Fault Refusal :=
  let p := portNo s.ev.a
  .next ((s.onPort p fun x => { x with ctr := max x.ctr (2 ^ 47), keywarn := true }).send (.msix (16 + p.val)))

/-- KEYSTARVED (R388): the counter of port a reaches 2^48 - 1 with no key staged. -/
def execKeystarved (s : State) : Host.Outcome State Fault Refusal :=
  .next (s.onPort (portNo s.ev.a) fun x =>
    if x.staged.isNone && x.state == 2 then { x with ctr := 2 ^ 48 - 1, state := 3 } else x)

/-- LINK_ERROR_REPLAY (R161, R387): a flit of port a fails its tag or CRC and is replayed; when it carried the bank operation of core b under
tag c and v is not 0, the operation is sent again. -/
def execLinkErrorReplay (s : State) : Host.Outcome State Fault Refusal :=
  if s.ev.v = 0 then .next s else .next (s.push .bankOpResend s.ev.b s.ev.c 0 0)

/-- A failed lane of a direction, an active one or its spare: below 8 healthy lanes, and under a fixed SPLIT, the lanes are assigned anew; else a
failed spare is gone, and an active lane is replaced by its spare, if that is healthy, or missing (R383, R384). -/
def Port.failLane (p : Port) (inb idle low : Bool) : Port :=
  let q : Port := { p with healthy := p.healthy - 1 }
  if q.healthy < 8 || q.split ≠ 0 then q.assign low
  else if inb then (if idle || p.spareIn then { q with spareIn := false } else { q with actin := q.actin - 1 })
  else if idle || p.spareOut then { q with spareOut := false } else { q with actout := q.actout - 1 }

/-- LANE_FAIL (R383): an active lane of port a fails, inbound when b is 1; with c = 1 it is the spare. A change of the lanes in use is a retraining,
and so is taking the spare. -/
def execLaneFail (s : State) : Host.Outcome State Fault Refusal :=
  let n := portNo s.ev.a
  let p := s.ports[n]
  let idle := s.ev.c == 1
  let q := p.failLane (s.ev.b == 1) idle (s.lower p)
  let moved := !idle || (p.actout, p.actin) != (q.actout, q.actin)
  if moved && (p.state == 2 || p.state == 3) then .next ((s.onPort n fun _ => { q with state := 1 }).push .retrainComplete n.val 1 0 0)
  else .next (s.onPort n fun _ => q)

/-- RETRAIN_COMPLETE (R384, R385): port a is UP, or DOWN when a direction has no lane or no peer is there; b = 1 when it had trained before. -/
def execRetrainComplete (s : State) : Host.Outcome State Fault Refusal :=
  .next (s.onPort (portNo s.ev.a) fun p =>
    if p.state ≠ 1 then p
    else
      let st := if p.actout = 0 || p.actin = 0 || p.peer.isNone then 0
        else if p.ctr = 2 ^ 48 - 1 && p.staged.isNone then 3 else 2
      { p with state := st, trained := true, retrains := if s.ev.b = 1 then p.retrains + 1 else p.retrains })

/-! ## Loss of a peer (R389) -/

/-- The ports toward a package. -/
def State.portsTo (s : State) (pkg : Nat) : List Port := s.ports.toList.filter fun (p : Port) => p.peer == some pkg

/-- PRESENCE_DROP (R389): of package a. -/
def execPresenceDrop (s : State) : Host.Outcome State Fault Refusal := .next (s.push .peerLostDeclare s.ev.a 0 0 0)

/-- PORT_DOWN_TIMEOUT (R389): every port toward package a has been DOWN or LOST for 10 us. -/
def execPortDownTimeout (s : State) : Host.Outcome State Fault Refusal :=
  let ps := s.portsTo s.ev.a
  if !ps.isEmpty && ps.all fun (p : Port) => p.state == 0 || p.state == 4 then .next (s.push .peerLostDeclare s.ev.a 0 0 0) else .next s

/-- What is pending at a package and that no firing awaits given up: each write and posted bank operation dropped and counted for the partition
that issued it (R389). -/
def State.dropUnacked (s : State) (pkg : Nat) : State :=
  let gone (u : Unack) : Bool := u.pkg == pkg
  let t := (s.unacked.filter gone).foldl (fun s u => s.dropped u.part 1) { s with unacked := s.unacked.filter fun u => !gone u }
  let far := (s.cores.toList.flatMap CoreSt.busy).filter fun r => !r.answered && r.peer.any fun p => p.pkg == pkg
  let awaited (r : BankReq) (seq : Nat) : Bool := (s.firing? r.adm).any fun f => f.pends.any fun p => p.pkg == pkg && p.seq == seq
  let lose (s : State) (r : BankReq) : State := match r.peer with
    | none => s
    | some p =>
      if awaited r p.seq then s
      else (if p.posted then s.dropped r.part 1 else s).bankAnswered r.adm pkg p.seq
  far.foldl lose t

/-- A copy's outstanding requests to a package: source bytes are poison, writes are dropped (R382, R389). -/
def Copy.lose (c : Copy) (pkg : Nat) : Copy :=
  let mine := c.pends.filter fun x => x.1 == pkg
  let c : Copy := { c with pends := c.pends.filter fun x => x.1 != pkg }
  if c.phase = 1 then { c with buf := mine.foldl (fun b x => b.set x.2.2 (poison 8 / 2 ^ (8 * (x.2.2 % 4)) % 256)) c.buf } else c

/-- What the copies of a firing lose with a package, and what the firing learns of it. -/
def State.loseCopies (s : State) (pkg : Nat) (f : Firing) : State :=
  let cs := (s.copiesOf f).filterMap id
  let out (c : Copy) : Nat := (c.pends.filter fun x => x.1 == pkg).length
  let dropped := ((cs.filter fun c => c.phase == 2).map out).foldl (· + ·) 0
  let s := s.dropped f.part dropped
  let s := s.onFrond f.frond fun x => { x with chans := x.chans.map fun c => c.map fun c => if c.adm = f.adm then c.lose pkg else c }
  if cs.any fun c => c.phase == 1 && out c != 0 then s.onFiring f.adm fun f => f.poisoned pkg else s

/-- PEER_LOST_DECLARE (R389): package a. -/
def execPeerLostDeclare (s : State) : Host.Outcome State Fault Refusal :=
  let pkg := s.ev.a
  if s.lost.contains pkg then .next s
  else
    let s : State := { s with
      lost := insertNat s.lost pkg
      ports := s.ports.map fun (p : Port) => if p.peer = some pkg then { p with state := 4 } else p
      parts := s.parts.map fun (x : Part) => { x with lostpkg := BitVec.ofNat 64 pkg } }
    let s := s.dropUnacked pkg
    let fs := s.firings
    let s := fs.foldl (fun s f => s.loseCopies pkg f) s
    let asking := fs.filter fun f => f.pends.any fun p => p.pkg == pkg
    let give (p : Pend) : Pend := if p.pkg == pkg then { p with fe := false, dead := true } else p
    .next (asking.foldl (fun s f =>
      (s.onFiring f.adm fun f => { f with pends := f.pends.map give }).push .remotePoisonComplete f.adm 0 0 0) s)

/-- MODULE_INSERTION (R384, R389): package a appears at the ports in l; none trains until it is enabled. A port of fewer than 8 healthy lanes has
its lanes assigned for the new peer. -/
def execModuleInsertion (s : State) : Host.Outcome State Fault Refusal :=
  let here (i : Nat) : Bool := s.ev.l.any fun w => w.toNat == i
  let join (p : Port) : Port := let q : Port := { p with peer := some s.ev.a }; if q.healthy < 8 then q.assign (s.lower q) else q
  .next { s with ports := s.ports.mapIdx fun i (p : Port) => if here i then join p else p }

end Sys2Proof.Machine
end

