-- ==== Sys2Proof/Machine/Order.lean ====
section
/-! DEFINITION. REL, ACQ and FENCE (R247 to R250). -/

namespace Sys2Proof.Machine

/-- REL (R248). -/
def execRel (sc : Scope) (s : State) : Host.Outcome State Fault Refusal :=
  plain (descOf (.rel sc)) (fun s => do
    let s ← s.release sc
    .ok (.done s)) s

/-- ACQ (R249): every earlier read has returned, since an instruction ends only when it has; synchronising accesses the firing posted are
awaited. -/
def execAcq (sc : Scope) (s : State) : Host.Outcome State Fault Refusal :=
  plain (descOf (.acq sc)) (fun s => if s.posting s.fir then block s .posted else .ok (.done (s.acquire sc))) s

/-- FENCE (R250): the release, its place in the order of fences, the acquire. -/
def execFence (sc : Scope) (s : State) : Host.Outcome State Fault Refusal :=
  plain (descOf (.fence sc)) (fun s => do
    let s ← s.release sc
    .ok (.done (s.acquire sc))) s

end Sys2Proof.Machine
end

