-- ==== Sys2Proof/Machine/Relation.lean ====
section
/-! DEFINITION. Relation tiles: OCMP and the bit-tile operations (R312 to R324). -/

namespace Sys2Proof.Machine

/-- A bit tile from its rows as numbers. -/
def tileOf (row : Nat → Nat) : BitVec 4096 := pack 4096 64 ((List.range 64).map row)

/-- A bit tile from its bits. -/
def tileBits (g : Nat → Nat → Bool) : BitVec 4096 := tileOf fun i => packNat 1 ((List.range 64).map fun j => (g i j).toNat)

/-- Row i of a bit tile. -/
def rowOf (b : BitVec 4096) (i : Nat) : Nat := elem b 64 i

/-- Bit j of row i. -/
def bitAt (b : BitVec 4096) (i j : Nat) : Bool := b.getLsbD (64 * i + j)

/-! ## OCMP (R313 to R316) -/

/-- Width and kind of an OCMP type. -/
def ocNum : OcTy → NumTy
  | .f32 => .flt Sys2Proof.Machine.f32
  | .bf16 => .flt Sys2Proof.Machine.bf16
  | .f16 => .flt Sys2Proof.Machine.f16
  | .i32 => .int true 32
  | .n32 => .int false 32

/-- Less under the total-order key (R315). -/
def keyLt (t : NumTy) (a b : Nat) : Bool :=
  match t with
  | .flt F => if F.isNan a then false else if F.isNan b then true else fvLt (F.value a) (F.value b)
  | .int sg n => decide (intOf sg n a < intOf sg n b)

/-- A predicate of two elements with their indices (R314, R315). -/
def ocPred (p : OPred) (t : NumTy) (x ix y iy : Nat) : Bool :=
  let tie := !keyLt t x y && !keyLt t y x && decide (iy < ix)
  match p with
  | .eq => (numPred t .eq x y).1
  | .ne => (numPred t .ne x y).1
  | .lt => (numPred t .lt x y).1
  | .le => (numPred t .le x y).1
  | .gt => (numPred t .gt x y).1
  | .ge => (numPred t .ge x y).1
  | .klt => keyLt t x y || tie
  | .kgt => keyLt t y x || tie

/-- A key predicate. -/
def keyed (p : OPred) : Bool := p == .klt || p == .kgt

/-- OCMP (R314). -/
def execOcmp (p : OPred) (t : OcTy) (d : BitVec 3) (a b : BitVec 5) (k : BitVec 3) (s : State) : Host.Outcome State Fault Refusal :=
  plain (descOf (.ocmp p t d a b k)) (fun s =>
    let ty := ocNum t
    let w := ty.width
    let m := s.fir.rk k
    let ix (r : BitVec 5) (i : Nat) : Nat := if keyed p then s.ve 32 (r + 1) i else 0
    let live := (List.range 64).filter (bit m)
    let fl := if keyed p || !(live.any fun i => snanOf ty (s.ve w a i) != 0 || snanOf ty (s.ve w b i) != 0) then 0 else fNV
    let tile := tileBits fun i j => bit m i && bit m j && ocPred p ty (s.ve w a i) (ix a i) (s.ve w b j) (ix b j)
    .ok (.done ((s.wb d tile).upd fun f => f.orFlags (BitVec.ofNat 64 fl)))) s

/-! ## Counts and moves (R317 to R321) -/

/-- BTPOPR (R318): ones in each row. -/
def execBtpopr (d : BitVec 5) (b : BitVec 3) (s : State) : Host.Outcome State Fault Refusal :=
  plain (descBtpopr d b) (fun s =>
    let v := s.fir.rb b
    .ok (.done (s.wv d (pack 2048 32 ((List.range 64).map fun i => popBits 64 (rowOf v i)))))) s

/-- BTPOPC (R318): ones in each column. -/
def execBtpopc (d : BitVec 5) (b : BitVec 3) (s : State) : Host.Outcome State Fault Refusal :=
  plain (descBtpopc d b) (fun s =>
    let v := s.fir.rb b
    .ok (.done (s.wv d (pack 2048 32 ((List.range 64).map fun j => ((List.range 64).filter fun i => bitAt v i j).length))))) s

/-- Boolean composition of two bit tiles (R319). -/
def compose (a c : BitVec 4096) : BitVec 4096 :=
  tileOf fun i => (List.range 64).foldl (fun r m => if bitAt a i m then r ||| rowOf c m else r) 0

/-- R OR its composition with itself, n times. -/
def closure : Nat → BitVec 4096 → BitVec 4096
  | 0, r => r
  | n + 1, r => closure n (r ||| compose r r)

/-- The diagonal. -/
def diagonal : BitVec 4096 := tileOf fun i => 2 ^ i

/-- A bit-tile instruction that writes a bit tile from the firing's tiles. -/
def tileOp (d : Desc) (t : BitVec 3) (g : Firing → BitVec 4096) (s : State) : Host.Outcome State Fault Refusal :=
  plain d (fun s => .ok (.done (s.wb t (g s.fir)))) s

/-- BTCLO (R319): transitive closure, with the diagonal for refl. -/
def execBtclo (d b : BitVec 3) (r : Bool) (s : State) : Host.Outcome State Fault Refusal :=
  tileOp (descBtclo d b r) d (fun f => let c := closure 6 (f.rb b); if r then c ||| diagonal else c) s

/-- BTCOMP (R319). -/
def execBtcomp (d a b : BitVec 3) (s : State) : Host.Outcome State Fault Refusal :=
  tileOp (descBtcomp d a b) d (fun f => compose (f.rb a) (f.rb b)) s

/-- BTTR (R319): transpose. -/
def execBttr (d b : BitVec 3) (s : State) : Host.Outcome State Fault Refusal :=
  tileOp (descBttr d b) d (fun f => tileBits fun i j => bitAt (f.rb b) j i) s

/-- BTAND (R320). -/
def execBtand (d a b : BitVec 3) (s : State) : Host.Outcome State Fault Refusal :=
  tileOp (descBtand d a b) d (fun f => f.rb a &&& f.rb b) s

/-- BTOR (R320). -/
def execBtor (d a b : BitVec 3) (s : State) : Host.Outcome State Fault Refusal :=
  tileOp (descBtor d a b) d (fun f => f.rb a ||| f.rb b) s

/-- BTXOR (R320). -/
def execBtxor (d a b : BitVec 3) (s : State) : Host.Outcome State Fault Refusal :=
  tileOp (descBtxor d a b) d (fun f => f.rb a ^^^ f.rb b) s

/-- BTANDN (R320). -/
def execBtandn (d a b : BitVec 3) (s : State) : Host.Outcome State Fault Refusal :=
  tileOp (descBtandn d a b) d (fun f => f.rb a &&& ~~~(f.rb b)) s

/-- BTNOT (R320). -/
def execBtnot (d b : BitVec 3) (s : State) : Host.Outcome State Fault Refusal :=
  tileOp (descBtnot d b) d (fun f => ~~~(f.rb b)) s

/-- The row or column index in a register: PROT above 63 (R317). -/
def State.tileIdx (s : State) (i : BitVec 6) : Except Stop Nat := do
  check (decide ((s.rx i).toNat ≤ 63)) .prot (s.rx i)
  .ok (s.rx i).toNat

/-- BTROWK (R317). -/
def execBtrowk (d b : BitVec 3) (i : BitVec 6) (s : State) : Host.Outcome State Fault Refusal :=
  plain (descBtrowk d b i) (fun s => do
    let r ← s.tileIdx i
    .ok (.done (s.wk d (BitVec.ofNat 64 (rowOf (s.fir.rb b) r))))) s

/-- BTCOLK (R317). -/
def execBtcolk (d b : BitVec 3) (i : BitVec 6) (s : State) : Host.Outcome State Fault Refusal :=
  plain (descBtcolk d b i) (fun s => do
    let c ← s.tileIdx i
    .ok (.done (s.wk d (maskOf fun r => bitAt (s.fir.rb b) r c)))) s

/-- BTKROW (R317, R321). -/
def execBtkrow (d q : BitVec 3) (i : BitVec 6) (s : State) : Host.Outcome State Fault Refusal :=
  plain (descBtkrow d q i) (fun s => do
    let r ← s.tileIdx i
    .ok (.done (s.wb d (setElem (s.fir.rb d) 64 r (s.fir.rk q).toNat)))) s

/-- BTKCOL (R317, R321). -/
def execBtkcol (d q : BitVec 3) (i : BitVec 6) (s : State) : Host.Outcome State Fault Refusal :=
  plain (descBtkcol d q i) (fun s => do
    let c ← s.tileIdx i
    let old := s.fir.rb d
    let m := s.fir.rk q
    .ok (.done (s.wb d (tileBits fun r j => if j = c then bit m r else bitAt old r j)))) s

/-- BTLD (R322). -/
def execBtld (d : BitVec 3) (a : BitVec 6) (s : State) : Host.Outcome State Fault Refusal :=
  plain (descBtld d a) (fun s => do
    let (s, pl) ← s.ownSpad .load (s.rx a) 512 64
    s.afterPosted false [pl] 512
    let (s, v) := s.loadAt pl 512
    .ok (.done (s.wb d (BitVec.ofNat 4096 v)))) s

/-- BTST (R322). -/
def execBtst (a : BitVec 6) (b : BitVec 3) (s : State) : Host.Outcome State Fault Refusal :=
  plain (descBtst a b) (fun s => do
    let (s, pl) ← s.ownSpad .store (s.rx a) 512 64
    s.afterPosted true [pl] 512
    .ok (.done (s.storeAt pl 512 (s.fir.rb b).toNat))) s

end Sys2Proof.Machine
end

