-- ==== Sys2Proof/Machine/System.lean ====
section
/-! DEFINITION. System instructions: TRAP, TRET, HALT, HINT and the CSRs (R56, R74, R142, R191, R194, R196, R208 to R212). -/

namespace Sys2Proof.Machine

/-! ## TRAP, TRET, HALT, HINT -/

/-- TRAP (R208): SWTRAP with tpc at the next instruction. -/
def execTrap (a : BitVec 6) (s : State) : Host.Outcome State Fault Refusal :=
  plain (descOf (.trap a)) (fun s => .ok (.after s { c := .swtrap, sub := 0, val := s.rx a })) s

/-- tstat names a frame position past its REP word (R208). -/
def Firing.badTret (f : Firing) : Bool :=
  bit f.tstat 23 && (decide (bits f.trepw 27 22 < bits f.tstat 18 13) || decide (bits f.trepw 31 28 < bits f.tstat 22 19))

/-- TRET (R208): every trap it raises goes to the supervisor (R193). -/
def execTret (s : State) : Host.Outcome State Fault Refusal :=
  let d := descOf .tret
  if !s.fir.active then .next s
  else if !d.ok || s.fir.fpend || !s.fir.intrap || s.fir.badTret then
    .next (s.takeTrap false true { c := .ill, sub := 0, val := BitVec.setWidth 64 d.word } s.fir.pc)
  else .next (s.upd fun f => { f.tretTo with wait := none, granted := false, aged := false })

/-- A team firing, in which a supervisor's instruction raises PRIV (R209). -/
def teamFiring (s : State) : Bool := !s.fir.sup

/-- HALT (R208): the supervisor firing stops with a record of SWTRAP and subcode 0xFF, at the next instruction (log 25). -/
def execHalt (s : State) : Host.Outcome State Fault Refusal :=
  issue (descOf .halt) false never teamFiring (fun s =>
    let s := s.withdraw s.fir.adm
    .ok (.stay ({ s with traps := s.traps + 1 }.stopFor (tcauseOf false 0xFF 17) 0 (s.fir.pc + 4)))) s

/-- HINT (R38): no effect. -/
def execHint (h : BitVec 25) (s : State) : Host.Outcome State Fault Refusal :=
  plain (descHint h) (fun s => .ok (.done s)) s

/-! ## CSRs (R210, R211) -/

/-- A supervisor CSR named in a team firing (R210). -/
def csrPriv (c : BitVec 11) (s : State) : Bool := decide (0x400 ≤ c.toNat) && teamFiring s

/-- A CSR read. Supervisor CSRs have no contents in the spec: their value is free (log 6). -/
def State.csrRead (s : State) (c : BitVec 11) : Word × State :=
  let f := s.fir
  match c.toNat with
  | 0x000 => (f.fid, s)
  | 0x001 => (f.fcnt, s)
  | 0x002 => (f.tid, s)
  | 0x003 => (f.fparm, s)
  | 0x004 => (BitVec.ofNat 64 f.frond.val, s)
  | 0x005 => (BitVec.ofNat 64 f.core.val, s)
  | 0x006 => (f.spbase, s)
  | 0x008 => (f.fstat, s)
  | 0x009 => (f.fflags, s)
  | 0x00A => (f.frm, s)
  | 0x00B => (f.srix, s)
  | 0x010 => (f.utvec, s)
  | 0x011 => (f.tcause, s)
  | 0x012 => (f.tval, s)
  | 0x013 => (f.tpc, s)
  | 0x014 => (f.tstat, s)
  | 0x015 => (f.trepw, s)
  | 0x016 => (f.trepf, s)
  | 0x017 => (f.tfmt, s)
  | 0x018 => (f.qlim, s)
  | 0x019 => (f.fewlim, s)
  | 0x030 => (f.seedlo, s)
  | 0x031 => (f.seedhi, s)
  | 0x032 => (f.sstream, s)
  | 0x040 => (s.cores[f.core].dqbase, s)
  | n =>
    if h : 0x020 ≤ n ∧ n < 0x028 then (f.tshape[n - 0x020]'(by omega), s)
    else if h : 0x048 ≤ n ∧ n < 0x050 then (s.fr.swin[n - 0x048]'(by omega), s)
    else if 0x400 ≤ n then let (k, s) := s.nextFree; (Config.dword k, s)
    else (0, s)

/-- A wait limit as a CSR takes it (R212). -/
def limitOf (v : Word) : Word := if bits v 31 0 < 64 then 64 else v &&& maskBits 31 0

/-- A CSR written, each field under its own rule (R210). -/
def State.csrWrite (s : State) (c : BitVec 11) (v : Word) : State :=
  match c.toNat with
  | 0x008 => s.upd fun f => { f with fstat := setBits f.fstat 3 1 (bits v 3 1) }
  | 0x009 => s.upd fun f => { f with fflags := v &&& maskBits 4 0 }
  | 0x00A => if bits v 2 0 ≤ 4 then s.upd fun f => { f with frm := v &&& maskBits 2 0 } else s
  | 0x00B => s.upd fun f => { f with srix := v }
  | 0x010 => s.upd fun f => { f with utvec := v &&& maskBits 56 0 }
  | 0x011 => s.upd fun f => { f with tcause := v &&& (maskBits 63 63 ||| maskBits 15 0) }
  | 0x012 => s.upd fun f => { f with tval := v }
  | 0x013 => s.upd fun f => { f with tpc := v }
  | 0x014 => s.upd fun f => { f with tstat := v &&& 0x1FFFE03F }
  | 0x015 => s.upd fun f => { f with trepw := v }
  | 0x016 => s.upd fun f => { f with trepf := v }
  | 0x017 => s.upd fun f => { f with tfmt := v }
  | 0x018 => s.upd fun f => { f with qlim := limitOf v }
  | 0x019 => s.upd fun f => { f with fewlim := limitOf v }
  | 0x030 => s.upd fun f => { f with seedlo := v }
  | 0x031 => s.upd fun f => { f with seedhi := v }
  | 0x032 => s.upd fun f => { f with sstream := v }
  | 0x040 => s.onCore s.fir.core fun x => { x with dqbase := setBit (v &&& maskBits 19 6) 63 true }
  | n =>
    if h : 0x020 ≤ n ∧ n < 0x028 then
      s.upd fun f => { f with tshape := f.tshape.set (n - 0x020) (v &&& (maskBits 31 31 ||| maskBits 15 0)) }
    else if h : 0x048 ≤ n ∧ n < 0x050 then
      s.onFrond s.fir.frond fun x => { x with swin := x.swin.set (n - 0x048) (v &&& (maskBits 63 60 ||| maskBits 47 8)) }
    else s

/-- A CSR instruction: the old value to rd, the new one by g of the old value and X[rs1] when it writes. -/
def csrOp (i : Instr) (d : BitVec 6) (c : BitVec 11) (a : BitVec 6) (writes : Bool) (g : Word → Word → Word) (s : State) :
    Host.Outcome State Fault Refusal :=
  issue (descOf i) false never (csrPriv c) (fun s =>
    let (t, s) := s.csrRead c
    let s := if writes then s.csrWrite c (g t (s.rx a)) else s
    .ok (.done (s.wx d t))) s

/-- CSRW (R210). -/
def execCsrw (d : BitVec 6) (c : BitVec 11) (a : BitVec 6) (s : State) : Host.Outcome State Fault Refusal :=
  csrOp (.csrw d c a) d c a true (fun _ x => x) s

/-- CSRS (R210). -/
def execCsrs (d : BitVec 6) (c : BitVec 11) (a : BitVec 6) (s : State) : Host.Outcome State Fault Refusal :=
  csrOp (.csrs d c a) d c a (a != 0) (fun t x => t ||| x) s

/-- CSRC (R210). -/
def execCsrc (d : BitVec 6) (c : BitVec 11) (a : BitVec 6) (s : State) : Host.Outcome State Fault Refusal :=
  csrOp (.csrc d c a) d c a (a != 0) (fun t x => t &&& ~~~x) s

end Sys2Proof.Machine
end

