-- ==== Sys2Proof/Machine/Dispatch.lean ====
section
/-! DEFINITION. One arm for each instruction and event, each one call of its meaning. -/

namespace Sys2Proof.Machine

def exec (i : Instr) (s : State) : Host.Outcome State Fault Refusal :=
  match i with
  | .add d a b => Sys2Proof.Machine.execAdd d a b s
  | .sub d a b => Sys2Proof.Machine.execSub d a b s
  | .and d a b => Sys2Proof.Machine.execAnd d a b s
  | .or d a b => Sys2Proof.Machine.execOr d a b s
  | .xor d a b => Sys2Proof.Machine.execXor d a b s
  | .andn d a b => Sys2Proof.Machine.execAndn d a b s
  | .sll d a b => Sys2Proof.Machine.execSll d a b s
  | .srl d a b => Sys2Proof.Machine.execSrl d a b s
  | .sra d a b => Sys2Proof.Machine.execSra d a b s
  | .slt d a b => Sys2Proof.Machine.execSlt d a b s
  | .sltu d a b => Sys2Proof.Machine.execSltu d a b s
  | .min d a b => Sys2Proof.Machine.execMin d a b s
  | .max d a b => Sys2Proof.Machine.execMax d a b s
  | .minu d a b => Sys2Proof.Machine.execMinu d a b s
  | .maxu d a b => Sys2Proof.Machine.execMaxu d a b s
  | .clz d a => Sys2Proof.Machine.execClz d a s
  | .ctz d a => Sys2Proof.Machine.execCtz d a s
  | .popc d a => Sys2Proof.Machine.execPopc d a s
  | .rol d a b => Sys2Proof.Machine.execRol d a b s
  | .ror d a b => Sys2Proof.Machine.execRor d a b s
  | .addi d a imm => Sys2Proof.Machine.execAddi d a imm s
  | .andi d a imm => Sys2Proof.Machine.execAndi d a imm s
  | .ori d a imm => Sys2Proof.Machine.execOri d a imm s
  | .xori d a imm => Sys2Proof.Machine.execXori d a imm s
  | .slli d a src => Sys2Proof.Machine.execSlli d a src s
  | .srli d a src => Sys2Proof.Machine.execSrli d a src s
  | .srai d a src => Sys2Proof.Machine.execSrai d a src s
  | .slti d a imm => Sys2Proof.Machine.execSlti d a imm s
  | .sltiu d a imm => Sys2Proof.Machine.execSltiu d a imm s
  | .lui d imm => Sys2Proof.Machine.execLui d imm s
  | .adrp d imm => Sys2Proof.Machine.execAdrp d imm s
  | .mul d a b => Sys2Proof.Machine.execMul d a b s
  | .mulh d a b => Sys2Proof.Machine.execMulh d a b s
  | .mulhu d a b => Sys2Proof.Machine.execMulhu d a b s
  | .mulhsu d a b => Sys2Proof.Machine.execMulhsu d a b s
  | .div d a b => Sys2Proof.Machine.execDiv d a b s
  | .divu d a b => Sys2Proof.Machine.execDivu d a b s
  | .rem d a b => Sys2Proof.Machine.execRem d a b s
  | .remu d a b => Sys2Proof.Machine.execRemu d a b s
  | .movxRead d a imm => Sys2Proof.Machine.execMovxRead d a imm s
  | .movxWrite a imm src => Sys2Proof.Machine.execMovxWrite a imm src s
  | .fadd t m d a b => Sys2Proof.Machine.execFadd t m d a b s
  | .fsub t m d a b => Sys2Proof.Machine.execFsub t m d a b s
  | .fmul t m d a b => Sys2Proof.Machine.execFmul t m d a b s
  | .fdiv t m d a b => Sys2Proof.Machine.execFdiv t m d a b s
  | .fsqrt t m d a => Sys2Proof.Machine.execFsqrt t m d a s
  | .fcvt m src d a t u => Sys2Proof.Machine.execFcvt m src d a t u s
  | .fmin t d a b => Sys2Proof.Machine.execFmin t d a b s
  | .fmax t d a b => Sys2Proof.Machine.execFmax t d a b s
  | .fsgnj t d a b => Sys2Proof.Machine.execFsgnj t d a b s
  | .fsgnjn t d a b => Sys2Proof.Machine.execFsgnjn t d a b s
  | .fsgnjx t d a b => Sys2Proof.Machine.execFsgnjx t d a b s
  | .feq t d a b => Sys2Proof.Machine.execFeq t d a b s
  | .flt t d a b => Sys2Proof.Machine.execFlt t d a b s
  | .fle t d a b => Sys2Proof.Machine.execFle t d a b s
  | .fclass t d a => Sys2Proof.Machine.execFclass t d a s
  | .fmadd t m d a b => Sys2Proof.Machine.execFmadd t m d a b s
  | .fmsub t m d a b => Sys2Proof.Machine.execFmsub t m d a b s
  | .fnmadd t m d a b => Sys2Proof.Machine.execFnmadd t m d a b s
  | .fnmsub t m d a b => Sys2Proof.Machine.execFnmsub t m d a b s
  | .sel d a b c => Sys2Proof.Machine.execSel d a b c s
  | .beq a b o => Sys2Proof.Machine.execBeq a b o s
  | .bne a b o => Sys2Proof.Machine.execBne a b o s
  | .blt a b o => Sys2Proof.Machine.execBlt a b o s
  | .bge a b o => Sys2Proof.Machine.execBge a b o s
  | .bltu a b o => Sys2Proof.Machine.execBltu a b o s
  | .bgeu a b o => Sys2Proof.Machine.execBgeu a b o s
  | .beqz a o => Sys2Proof.Machine.execBeqz a o s
  | .bnez a o => Sys2Proof.Machine.execBnez a o s
  | .jal d o => Sys2Proof.Machine.execJal d o s
  | .jalr d a imm => Sys2Proof.Machine.execJalr d a imm s
  | .loopn a o => Sys2Proof.Machine.execLoopn a o s
  | .rep l c m src => Sys2Proof.Machine.execRep l c m src s
  | .gang n => Sys2Proof.Machine.execGang n s
  | .launch d a b => Sys2Proof.Machine.execLaunch d a b s
  | .join d a => Sys2Proof.Machine.execJoin d a s
  | .leave a => Sys2Proof.Machine.execLeave a s
  | .phase a => Sys2Proof.Machine.execPhase a s
  | .gbar a => Sys2Proof.Machine.execGbar a s
  | .sget d => Sys2Proof.Machine.execSget d s
  | .hswait d n b => Sys2Proof.Machine.execHswait d n b s
  | .hstry d n b => Sys2Proof.Machine.execHstry d n b s
  | .hspost n b => Sys2Proof.Machine.execHspost n b s
  | .hsset n b => Sys2Proof.Machine.execHsset n b s
  | .hsrd d n => Sys2Proof.Machine.execHsrd d n s
  | .ld t d a imm => Sys2Proof.Machine.execLd t d a imm s
  | .st t a imm b => Sys2Proof.Machine.execSt t a imm b s
  | .ldfe m d a imm => Sys2Proof.Machine.execLdfe m d a imm s
  | .stfe m a imm b => Sys2Proof.Machine.execStfe m a imm b s
  | .vld t d x k => Sys2Proof.Machine.execVld t d x k s
  | .vlds t d x src k => Sys2Proof.Machine.execVlds t d x src k s
  | .vst t x d k => Sys2Proof.Machine.execVst t x d k s
  | .vsts t x d src k => Sys2Proof.Machine.execVsts t x d src k s
  | .vldx t d b imm k => Sys2Proof.Machine.execVldx t d b imm k s
  | .vstx t b imm d k => Sys2Proof.Machine.execVstx t b imm d k s
  | .ldt m t d a b => Sys2Proof.Machine.execLdt m t d a b s
  | .vldt t d a b k => Sys2Proof.Machine.execVldt t d a b k s
  | .stt m t a b d => Sys2Proof.Machine.execStt m t a b d s
  | .vstt t a b d k => Sys2Proof.Machine.execVstt t a b d k s
  | .shinv src a => Sys2Proof.Machine.execShinv src a s
  | .shloc d a b => Sys2Proof.Machine.execShloc d a b s
  | .rel src => Sys2Proof.Machine.execRel src s
  | .acq src => Sys2Proof.Machine.execAcq src s
  | .fence src => Sys2Proof.Machine.execFence src s
  | .amoadd z d a b => Sys2Proof.Machine.execAmoadd z d a b s
  | .amoand z d a b => Sys2Proof.Machine.execAmoand z d a b s
  | .amoor z d a b => Sys2Proof.Machine.execAmoor z d a b s
  | .amoxor z d a b => Sys2Proof.Machine.execAmoxor z d a b s
  | .amomin z d a b => Sys2Proof.Machine.execAmomin z d a b s
  | .amomax z d a b => Sys2Proof.Machine.execAmomax z d a b s
  | .amominu z d a b => Sys2Proof.Machine.execAmominu z d a b s
  | .amomaxu z d a b => Sys2Proof.Machine.execAmomaxu z d a b s
  | .amoswp z d a b => Sys2Proof.Machine.execAmoswp z d a b s
  | .amocas z d a b => Sys2Proof.Machine.execAmocas z d a b s
  | .amofadd t d a b => Sys2Proof.Machine.execAmofadd t d a b s
  | .amofmin t d a b => Sys2Proof.Machine.execAmofmin t d a b s
  | .amofmax t d a b => Sys2Proof.Machine.execAmofmax t d a b s
  | .xcadd t a b => Sys2Proof.Machine.execXcadd t a b s
  | .xcrd t d a => Sys2Proof.Machine.execXcrd t d a s
  | .xcclr a => Sys2Proof.Machine.execXcclr a s
  | .xcrdclr t d a => Sys2Proof.Machine.execXcrdclr t d a s
  | .vamoadd t b imm d k => Sys2Proof.Machine.execVamoadd t b imm d k s
  | .vamomin t b imm d k => Sys2Proof.Machine.execVamomin t b imm d k s
  | .vamomax t b imm d k => Sys2Proof.Machine.execVamomax t b imm d k s
  | .vxcadd t b imm d k => Sys2Proof.Machine.execVxcadd t b imm d k s
  | .vbsum t b d k => Sys2Proof.Machine.execVbsum t b d k s
  | .qget d n => Sys2Proof.Machine.execQget d n s
  | .qput n b => Sys2Proof.Machine.execQput n b s
  | .vqget d n => Sys2Proof.Machine.execVqget d n s
  | .vqput n b => Sys2Proof.Machine.execVqput n b s
  | .qcnt d n => Sys2Proof.Machine.execQcnt d n s
  | .send a b p => Sys2Proof.Machine.execSend a b p s
  | .sendv a b p => Sys2Proof.Machine.execSendv a b p s
  | .cwr src a => Sys2Proof.Machine.execCwr src a s
  | .cgo d => Sys2Proof.Machine.execCgo d s
  | .cwp d a => Sys2Proof.Machine.execCwp d a s
  | .crd src d => Sys2Proof.Machine.execCrd src d s
  | .txinit a b => Sys2Proof.Machine.execTxinit a b s
  | .txarr d a => Sys2Proof.Machine.execTxarr d a s
  | .txexp a b => Sys2Proof.Machine.execTxexp a b s
  | .txwait a b => Sys2Proof.Machine.execTxwait a b s
  | .txtry d a b => Sys2Proof.Machine.execTxtry d a b s
  | .dqpush d b => Sys2Proof.Machine.execDqpush d b s
  | .dqpop d => Sys2Proof.Machine.execDqpop d s
  | .dqsteal d a => Sys2Proof.Machine.execDqsteal d a s
  | .vadd y d a b k => Sys2Proof.Machine.execVadd y d a b k s
  | .vsub y d a b k => Sys2Proof.Machine.execVsub y d a b k s
  | .vmul y d a b k => Sys2Proof.Machine.execVmul y d a b k s
  | .vdiv y d a b k => Sys2Proof.Machine.execVdiv y d a b k s
  | .vmin y d a b k => Sys2Proof.Machine.execVmin y d a b k s
  | .vmax y d a b k => Sys2Proof.Machine.execVmax y d a b k s
  | .vabs y d a k => Sys2Proof.Machine.execVabs y d a k s
  | .vneg y d a k => Sys2Proof.Machine.execVneg y d a k s
  | .vsgnj y d a b k => Sys2Proof.Machine.execVsgnj y d a b k s
  | .vfmadd d a b c k => Sys2Proof.Machine.execVfmadd d a b c k s
  | .vfmsub d a b c k => Sys2Proof.Machine.execVfmsub d a b c k s
  | .vfnmadd d a b c k => Sys2Proof.Machine.execVfnmadd d a b c k s
  | .vfnmsub d a b c k => Sys2Proof.Machine.execVfnmsub d a b c k s
  | .vaddx y d b x k => Sys2Proof.Machine.execVaddx y d b x k s
  | .vsubx y d b x k => Sys2Proof.Machine.execVsubx y d b x k s
  | .vmulx y d b x k => Sys2Proof.Machine.execVmulx y d b x k s
  | .vdivx y d b x k => Sys2Proof.Machine.execVdivx y d b x k s
  | .vminx y d b x k => Sys2Proof.Machine.execVminx y d b x k s
  | .vmaxx y d b x k => Sys2Proof.Machine.execVmaxx y d b x k s
  | .vexp d a k => Sys2Proof.Machine.execVexp d a k s
  | .vlog d a k => Sys2Proof.Machine.execVlog d a k s
  | .vrcp d a k => Sys2Proof.Machine.execVrcp d a k s
  | .vrsqrt d a k => Sys2Proof.Machine.execVrsqrt d a k s
  | .vtanh d a k => Sys2Proof.Machine.execVtanh d a k s
  | .vsqrt d a k => Sys2Proof.Machine.execVsqrt d a k s
  | .vredsum y d a k => Sys2Proof.Machine.execVredsum y d a k s
  | .vredmax y d a k => Sys2Proof.Machine.execVredmax y d a k s
  | .vredmin y d a k => Sys2Proof.Machine.execVredmin y d a k s
  | .vredq y d n c k => Sys2Proof.Machine.execVredq y d n c k s
  | .viadd w u d a b k => Sys2Proof.Machine.execViadd w u d a b k s
  | .visub w u d a b k => Sys2Proof.Machine.execVisub w u d a b k s
  | .vimul w u d a b k => Sys2Proof.Machine.execVimul w u d a b k s
  | .vimulh w u d a b k => Sys2Proof.Machine.execVimulh w u d a b k s
  | .viand w u d a b k => Sys2Proof.Machine.execViand w u d a b k s
  | .vior w u d a b k => Sys2Proof.Machine.execVior w u d a b k s
  | .vixor w u d a b k => Sys2Proof.Machine.execVixor w u d a b k s
  | .visll w u d a b k => Sys2Proof.Machine.execVisll w u d a b k s
  | .visrl w u d a b k => Sys2Proof.Machine.execVisrl w u d a b k s
  | .visra w u d a b k => Sys2Proof.Machine.execVisra w u d a b k s
  | .vimin w u d a b k => Sys2Proof.Machine.execVimin w u d a b k s
  | .vimax w u d a b k => Sys2Proof.Machine.execVimax w u d a b k s
  | .vipopc w u d a k => Sys2Proof.Machine.execVipopc w u d a k s
  | .viaddSat w u d a b k => Sys2Proof.Machine.execViaddSat w u d a b k s
  | .visubSat w u d a b k => Sys2Proof.Machine.execVisubSat w u d a b k s
  | .viaddx w d b x k => Sys2Proof.Machine.execViaddx w d b x k s
  | .visubx w d b x k => Sys2Proof.Machine.execVisubx w d b x k s
  | .vimulx w d b x k => Sys2Proof.Machine.execVimulx w d b x k s
  | .viandx w d b x k => Sys2Proof.Machine.execViandx w d b x k s
  | .viorx w d b x k => Sys2Proof.Machine.execViorx w d b x k s
  | .vixorx w d b x k => Sys2Proof.Machine.execVixorx w d b x k s
  | .visllx w d b x k => Sys2Proof.Machine.execVisllx w d b x k s
  | .visrlx w d b x k => Sys2Proof.Machine.execVisrlx w d b x k s
  | .visrax w d b x k => Sys2Proof.Machine.execVisrax w d b x k s
  | .vcmp p t d a b k => Sys2Proof.Machine.execVcmp p t d a b k s
  | .kand d a b => Sys2Proof.Machine.execKand d a b s
  | .kor d a b => Sys2Proof.Machine.execKor d a b s
  | .kxor d a b => Sys2Proof.Machine.execKxor d a b s
  | .knot d a => Sys2Proof.Machine.execKnot d a s
  | .kmov d a => Sys2Proof.Machine.execKmov d a s
  | .vperm d a b k => Sys2Proof.Machine.execVperm d a b k s
  | .vslideup d a n k => Sys2Proof.Machine.execVslideup d a n k s
  | .vslidedn d a n k => Sys2Proof.Machine.execVslidedn d a n k s
  | .vcompress d a k => Sys2Proof.Machine.execVcompress d a k s
  | .vmov d a k => Sys2Proof.Machine.execVmov d a k s
  | .vbcast w d x k => Sys2Proof.Machine.execVbcast w d x k s
  | .vins w d x j => Sys2Proof.Machine.execVins w d x j s
  | .vext w u d src j => Sys2Proof.Machine.execVext w u d src j s
  | .kset d x => Sys2Proof.Machine.execKset d x s
  | .kpopc d src => Sys2Proof.Machine.execKpopc d src s
  | .vcvt m src h d a k => Sys2Proof.Machine.execVcvt m src h d a k s
  | .vcvto m src d q a k => Sys2Proof.Machine.execVcvto m src d q a k s
  | .vplane d a => Sys2Proof.Machine.execVplane d a s
  | .vunplane d a => Sys2Proof.Machine.execVunplane d a s
  | .fmt a b src x p c => Sys2Proof.Machine.execFmt a b src x p c s
  | .vspdraw y d x k => Sys2Proof.Machine.execVspdraw y d x k s
  | .vspuni y d x k => Sys2Proof.Machine.execVspuni y d x k s
  | .vspexp y d x k => Sys2Proof.Machine.execVspexp y d x k s
  | .vgumb d src x k => Sys2Proof.Machine.execVgumb d src x k s
  | .spdraw y d a b => Sys2Proof.Machine.execSpdraw y d a b s
  | .spuni y d a b => Sys2Proof.Machine.execSpuni y d a b s
  | .spexp y d a b => Sys2Proof.Machine.execSpexp y d a b s
  | .digest a b => Sys2Proof.Machine.execDigest a b s
  | .digestm a b n => Sys2Proof.Machine.execDigestm a b n s
  | .mma t c a src r u v k => Sys2Proof.Machine.execMma t c a src r u v k s
  | .accrd v x a r => Sys2Proof.Machine.execAccrd v x a r s
  | .acczero d => Sys2Proof.Machine.execAcczero d s
  | .accld d src => Sys2Proof.Machine.execAccld d src s
  | .accst src a => Sys2Proof.Machine.execAccst src a s
  | .accstat x a c => Sys2Proof.Machine.execAccstat x a c s
  | .accswp d a => Sys2Proof.Machine.execAccswp d a s
  | .tld d src p c => Sys2Proof.Machine.execTld d src p c s
  | .tst src d p c => Sys2Proof.Machine.execTst src d p c s
  | .tzero d => Sys2Proof.Machine.execTzero d s
  | .tmov d src => Sys2Proof.Machine.execTmov d src s
  | .ocmp p t d a b k => Sys2Proof.Machine.execOcmp p t d a b k s
  | .trap a => Sys2Proof.Machine.execTrap a s
  | .csrw d c a => Sys2Proof.Machine.execCsrw d c a s
  | .csrs d c a => Sys2Proof.Machine.execCsrs d c a s
  | .csrc d c a => Sys2Proof.Machine.execCsrc d c a s
  | .gangend => Sys2Proof.Machine.execGangend s
  | .retire => Sys2Proof.Machine.execRetire s
  | .sput => Sys2Proof.Machine.execSput s
  | .tret => Sys2Proof.Machine.execTret s
  | .halt => Sys2Proof.Machine.execHalt s
  | .loadDataReturn => Sys2Proof.Machine.execLoadDataReturn s
  | .gatherLaneReturn => Sys2Proof.Machine.execGatherLaneReturn s
  | .hostLqtailWrite => Sys2Proof.Machine.execHostLqtailWrite s
  | .lqcfgWrite => Sys2Proof.Machine.execLqcfgWrite s
  | .launchRecordRead => Sys2Proof.Machine.execLaunchRecordRead s
  | .dependencesMet => Sys2Proof.Machine.execDependencesMet s
  | .firingPlace => Sys2Proof.Machine.execFiringPlace s
  | .teamComplete => Sys2Proof.Machine.execTeamComplete s
  | .checkSecondRun => Sys2Proof.Machine.execCheckSecondRun s
  | .actorFire => Sys2Proof.Machine.execActorFire s
  | .messageDispatch => Sys2Proof.Machine.execMessageDispatch s
  | .messageRefusalReturn => Sys2Proof.Machine.execMessageRefusalReturn s
  | .priorityAge => Sys2Proof.Machine.execPriorityAge s
  | .qstallExpiry => Sys2Proof.Machine.execQstallExpiry s
  | .fewaitExpiry => Sys2Proof.Machine.execFewaitExpiry s
  | .feWithdrawal => Sys2Proof.Machine.execFeWithdrawal s
  | .feResend => Sys2Proof.Machine.execFeResend s
  | .bankOpArrive => Sys2Proof.Machine.execBankOpArrive s
  | .bankOpResend => Sys2Proof.Machine.execBankOpResend s
  | .bankOpCopyDrop => Sys2Proof.Machine.execBankOpCopyDrop s
  | .linkErrorReplay => Sys2Proof.Machine.execLinkErrorReplay s
  | .remoteAccessArrive => Sys2Proof.Machine.execRemoteAccessArrive s
  | .storeMessagePerform => Sys2Proof.Machine.execStoreMessagePerform s
  | .remoteRequestPerform => Sys2Proof.Machine.execRemoteRequestPerform s
  | .remoteWriteAck => Sys2Proof.Machine.execRemoteWriteAck s
  | .rangelockRegister => Sys2Proof.Machine.execRangelockRegister s
  | .copySector => Sys2Proof.Machine.execCopySector s
  | .copyFault => Sys2Proof.Machine.execCopyFault s
  | .copyComplete => Sys2Proof.Machine.execCopyComplete s
  | .mmaStep => Sys2Proof.Machine.execMmaStep s
  | .vectorBankLaneFault => Sys2Proof.Machine.execVectorBankLaneFault s
  | .asyncReportTake => Sys2Proof.Machine.execAsyncReportTake s
  | .trapRecordAppend => Sys2Proof.Machine.execTrapRecordAppend s
  | .errorLogAppend => Sys2Proof.Machine.execErrorLogAppend s
  | .trheadWrite => Sys2Proof.Machine.execTrheadWrite s
  | .fcmdResumePc => Sys2Proof.Machine.execFcmdResumePc s
  | .fcmdResumeUtvec => Sys2Proof.Machine.execFcmdResumeUtvec s
  | .fcmdSave => Sys2Proof.Machine.execFcmdSave s
  | .fcmdDiscard => Sys2Proof.Machine.execFcmdDiscard s
  | .fcmdKill => Sys2Proof.Machine.execFcmdKill s
  | .preemptRequest => Sys2Proof.Machine.execPreemptRequest s
  | .resumeRequest => Sys2Proof.Machine.execResumeRequest s
  | .preemptDeadline => Sys2Proof.Machine.execPreemptDeadline s
  | .preemptEnd => Sys2Proof.Machine.execPreemptEnd s
  | .dqstealServe => Sys2Proof.Machine.execDqstealServe s
  | .pageWalk => Sys2Proof.Machine.execPageWalk s
  | .tlbinvWrite => Sys2Proof.Machine.execTlbinvWrite s
  | .tlbinvComplete => Sys2Proof.Machine.execTlbinvComplete s
  | .pintWrite => Sys2Proof.Machine.execPintWrite s
  | .msccfgWrite => Sys2Proof.Machine.execMsccfgWrite s
  | .mscChangeComplete => Sys2Proof.Machine.execMscChangeComplete s
  | .logRegisterWrite => Sys2Proof.Machine.execLogRegisterWrite s
  | .registerWrite => Sys2Proof.Machine.execRegisterWrite s
  | .decisionArrive => Sys2Proof.Machine.execDecisionArrive s
  | .creditReturn => Sys2Proof.Machine.execCreditReturn s
  | .presenceDrop => Sys2Proof.Machine.execPresenceDrop s
  | .portDownTimeout => Sys2Proof.Machine.execPortDownTimeout s
  | .peerLostDeclare => Sys2Proof.Machine.execPeerLostDeclare s
  | .remotePoisonComplete => Sys2Proof.Machine.execRemotePoisonComplete s
  | .laneFail => Sys2Proof.Machine.execLaneFail s
  | .retrainComplete => Sys2Proof.Machine.execRetrainComplete s
  | .alctlWrite => Sys2Proof.Machine.execAlctlWrite s
  | .alkeygoWrite => Sys2Proof.Machine.execAlkeygoWrite s
  | .keySwitch => Sys2Proof.Machine.execKeySwitch s
  | .keywarn => Sys2Proof.Machine.execKeywarn s
  | .keystarved => Sys2Proof.Machine.execKeystarved s
  | .hostLinkLoss => Sys2Proof.Machine.execHostLinkLoss s
  | .hostLinkReturn => Sys2Proof.Machine.execHostLinkReturn s
  | .hostBar2Write => Sys2Proof.Machine.execHostBar2Write s
  | .hostBar4Write => Sys2Proof.Machine.execHostBar4Write s
  | .cxlPoison => Sys2Proof.Machine.execCxlPoison s
  | .cxlDeviceLoss => Sys2Proof.Machine.execCxlDeviceLoss s
  | .powerGood => Sys2Proof.Machine.execPowerGood s
  | .fullEnter => Sys2Proof.Machine.execFullEnter s
  | .ident => Sys2Proof.Machine.execIdent s
  | .health => Sys2Proof.Machine.execHealth s
  | .thermal => Sys2Proof.Machine.execThermal s
  | .resync => Sys2Proof.Machine.execResync s
  | .fwload => Sys2Proof.Machine.execFwload s
  | .keyload => Sys2Proof.Machine.execKeyload s
  | .reset => Sys2Proof.Machine.execReset s
  | .thermalTrip => Sys2Proof.Machine.execThermalTrip s
  | .hbmDieLoss => Sys2Proof.Machine.execHbmDieLoss s
  | .lockstepMismatch => Sys2Proof.Machine.execLockstepMismatch s
  | .readoptionTimeout => Sys2Proof.Machine.execReadoptionTimeout s
  | .readoptionComplete => Sys2Proof.Machine.execReadoptionComplete s
  | .uncorrectableError => Sys2Proof.Machine.execUncorrectableError s
  | .powerCapBreach => Sys2Proof.Machine.execPowerCapBreach s
  | .markerAcknowledged => Sys2Proof.Machine.execMarkerAcknowledged s
  | .shinvComplete => Sys2Proof.Machine.execShinvComplete s
  | .bankOpResponseArrive => Sys2Proof.Machine.execBankOpResponseArrive s
  | .bankTagFree => Sys2Proof.Machine.execBankTagFree s
  | .ownerAnswerArrive => Sys2Proof.Machine.execOwnerAnswerArrive s
  | .commandComplete => Sys2Proof.Machine.execCommandComplete s
  | .moduleInsertion => Sys2Proof.Machine.execModuleInsertion s
  | .powerLoss => Sys2Proof.Machine.execPowerLoss s
  | .btpopr d src => Sys2Proof.Machine.execBtpopr d src s
  | .btpopc d src => Sys2Proof.Machine.execBtpopc d src s
  | .btclo d src r => Sys2Proof.Machine.execBtclo d src r s
  | .btcomp d a b => Sys2Proof.Machine.execBtcomp d a b s
  | .bttr d src => Sys2Proof.Machine.execBttr d src s
  | .btand d a b => Sys2Proof.Machine.execBtand d a b s
  | .btor d a b => Sys2Proof.Machine.execBtor d a b s
  | .btxor d a b => Sys2Proof.Machine.execBtxor d a b s
  | .btandn d a b => Sys2Proof.Machine.execBtandn d a b s
  | .btnot d src => Sys2Proof.Machine.execBtnot d src s
  | .btrowk d src imm => Sys2Proof.Machine.execBtrowk d src imm s
  | .btcolk d src imm => Sys2Proof.Machine.execBtcolk d src imm s
  | .btkrow d src imm => Sys2Proof.Machine.execBtkrow d src imm s
  | .btkcol d src imm => Sys2Proof.Machine.execBtkcol d src imm s
  | .btld d src => Sys2Proof.Machine.execBtld d src s
  | .btst src b => Sys2Proof.Machine.execBtst src b s
  | .sinit a => Sys2Proof.Machine.execSinit a s
  | .rate a b => Sys2Proof.Machine.execRate a b s
  | .ratea a b => Sys2Proof.Machine.execRatea a b s
  | .nextev d a => Sys2Proof.Machine.execNextev d a s
  | .swrd d a src => Sys2Proof.Machine.execSwrd d a src s
  | .sclk d => Sys2Proof.Machine.execSclk d s
  | .binit a => Sys2Proof.Machine.execBinit a s
  | .bdec d a => Sys2Proof.Machine.execBdec d a s
  | .brecv d a => Sys2Proof.Machine.execBrecv d a s
  | .hint h => Sys2Proof.Machine.execHint h s

end Sys2Proof.Machine
end

