-- ==== Sys2Proof/Machine/Sched.lean ====
section
/-! DEFINITION. What the machine does next: fetch (R23, R24), one instruction of a firing, REP passes (R29, R104, R105), a gang's instruction
(R107 to R109), which units and firings can move (R72, R97), and the inputs. -/

namespace Sys2Proof.Machine

/-! ## Fetch (R24) -/

/-- The code word at a key as it was released to the firing's frond when the firing was created; where another has been released to it since, the
old word or the new one by free choice (R24, log 61). -/
def State.codeAt (s : State) (k : Nat) : State × BitVec 32 :=
  let new := BitVec.ofNat 32 ((s.released s.fir.frond).read k 4)
  let old := BitVec.ofNat 32 (s.fir.code.read k 4)
  if old = new then (s, new) else let (n, t) := s.nextFree; (t, if Config.choice n % 2 = 0 then old else new)

/-- The word at an address in the acting firing's stream, or the trap of the fetch. A remote page holds no code (log 30). -/
def State.fetchWord (s : State) (pc : Word) : Except Trap (State × BitVec 32) :=
  let t (c : Cause) : Trap := { c := c, sub := 0, val := pc }
  if bits pc 63 57 != 0 then .error (t .align)
  else if bits pc 56 48 == 0x1FF then .error (t .prot)
  else match s.translate s.fir.part s.fir.die pc.toNat false with
    | none => .error (t .page)
    | some (s', l) =>
      if !bit l.pte 3 || bits l.pte 63 56 != bits s.part.pcfg 39 32 then .error (t .prot)
      else match s'.leafPlace s.fir.part l pc.toNat with
        | .ok (.dev k) => .ok (s'.codeAt k)
        | .ok (.unc k) => .ok (s'.codeAt k)
        | .error (.trap u) => .error u
        | _ => .error (t .prot)

/-- The word at an address for the acting firing: in a REP frame it is fetched once and replayed from the buffer after (R104). -/
def State.wordAt (s : State) (pc : Word) : Except Trap (State × BitVec 32) :=
  match if s.fir.repact then s.fir.repbuf.find? fun x => x.1 == pc else none with
  | some x => .ok (s, x.2)
  | none => match s.fetchWord pc with
    | .error t => .error t
    | .ok (u, w) => .ok (if s.fir.repact then u.upd fun f => { f with repbuf := (pc, w) :: f.repbuf } else u, w)

/-! ## One instruction (R37, R104) -/

/-- The state an outcome goes on to. -/
def after (s : State) : Host.Outcome State Fault Refusal → State
  | .next t => t
  | _ => s

/-- ILL with a word. -/
def State.illAt (s : State) (w : BitVec 32) : Host.Outcome State Fault Refusal :=
  .next (s.trapHere { c := .ill, sub := 0, val := BitVec.setWidth 64 w })

/-- ILL that cancels the frame (R104, R105). -/
def State.illCancel (s : State) (w : BitVec 32) : Host.Outcome State Fault Refusal := (s.upd Firing.clrRep).illAt w

/-- The operands of a captured instruction in field order, each with its signed number in a pass that moves the marked ones by d (R29). -/
def moved (m : BitVec 4) (d : Int) (ops : List Opnd) : List (Opnd × Int) :=
  let one (o : Opnd) (p : Nat) : Opnd × Int := (o, (o.n : Int) + if m.getLsbD p then d else 0)
  (ops.filter Opnd.dst).map (fun o => one o 0) ++ ((ops.filter fun o => !o.dst).zipIdx).map fun x => one x.1 (x.2 + 1)

/-- The signed number REGRANGE reports of moved operands, in field order. -/
def Firing.movedOutside (f : Firing) : List (Opnd × Int) → Option Int
  | [] => none
  | (o, n) :: os =>
    if n < 0 || (f.limit o.kind : Int) ≤ n then some n
    else if (f.limit o.kind : Int) < n + o.len then some (f.limit o.kind) else f.movedOutside os

/-- Moved operands keep the overlap rule (R35). -/
def movedApart (i : Instr) (ms : List (Opnd × Int)) : Bool := overlapOk (elementwise i) (ms.map fun x => { x.1 with n := (x.2 + 64).toNat })

/-- A mask bit names an operand the instruction does not have. -/
def maskAbsent (m : BitVec 4) (ops : List Opnd) : Bool :=
  (m.getLsbD 0 && !(ops.any Opnd.dst)) || (List.range 3).any fun i => m.getLsbD (i + 1) && decide ((ops.filter fun o => !o.dst).length ≤ i)

/-- The instruction of a frame's pass: captured on pass 0, its marked fields moved by the pass (R29, R104, R105). The ILL checks come first, with the
instruction word as it lies in memory, those of the capture rule, of the mask and of the overlap rule cancelling the frame; then REGRANGE. -/
noncomputable def State.runFrame (s : State) (w : BitVec 32) : Host.Outcome State Fault Refusal :=
  let f := s.fir
  let m := f.repw.extractLsb' 18 4
  let d : Int := (f.repj : Int) * (f.repw.extractLsb' 14 4).toInt
  if f.repj = 0 && !capturable w then s.illCancel w
  else match decode w with
    | .bad _ => s.illAt w
    | .ok i =>
      let ms := moved m d (opsOf i)
      if maskAbsent m (opsOf i) || !movedApart i ms then s.illCancel w
      else if !legal i || (f.fpend && !takesPrefix i) || stageIll f (opsOf i) then s.illAt w
      else match f.movedOutside ms with
        | some n => .next (s.trapHere { c := .regrange, sub := 0, val := ofInt n })
        | none => exec (renumber (fun p n => ((n : Int) + if m.getLsbD p then d else 0).toNat) i) s

/-- A fetched word run by the acting firing. -/
noncomputable def State.runWord (s : State) (w : BitVec 32) : Host.Outcome State Fault Refusal :=
  if s.fir.repact then s.runFrame w
  else match decode w with
    | .ok i => exec i s
    | .bad _ => s.illAt w

/-- The acting firing's next instruction. -/
noncomputable def State.runNext (s : State) : Host.Outcome State Fault Refusal :=
  match s.wordAt s.fir.pc with
  | .error t => .next (s.trapHere t)
  | .ok (s', w) => s'.runWord w

/-! ## A gang's instruction (R107 to R109) -/

/-- The trap a member took, read from what its delivery left. -/
def State.pendingOf (s : State) (n : Nat) : Pending :=
  match s.firing? n with
  | none => gangBreak 0
  | some f => match f.run with
    | .running => { user := true, tc := f.tcause, val := f.tval }
    | .stopped _ recd => { user := false, tc := BitVec.ofNat 64 (bits (dword recd 2) 15 0), val := dword recd 3 }

/-- A word run in some members one after another: the state, and the traps they took. -/
noncomputable def State.runMembers (w : BitVec 32) : State → List (Nat × Pending) → List Nat → State × List (Nat × Pending)
  | s, fs, [] => (s, fs)
  | s, fs, n :: ns =>
    let t := after s ((s.focus n).runWord w)
    State.runMembers w t (if s.traps < t.traps then fs ++ [(n, t.pendingOf n)] else fs) ns

/-- The members of a list that wait. -/
def State.waiting (s : State) (ns : List Nat) : List Nat := ns.filter fun n => (s.firing? n).any fun f => f.wait.isSome

/-- Members that wait are run again while that brings one on. -/
noncomputable def State.gangLoop (w : BitVec 32) : Nat → State → List Nat → State × List (Nat × Pending) × List Nat
  | 0, s, ns => (s, [], ns)
  | k + 1, s, ns =>
    let again := ns.filter fun n => (s.firing? n).any fun f => f.wait.any fun x => !x.byEvent
    let (t, fs) := State.runMembers w s [] again
    let left := t.waiting ns
    if !fs.isEmpty || left.length = ns.length || left.isEmpty then (t, fs, left) else State.gangLoop w k t left

/-- A word of an instruction that is done in steps: VREDQ (R287). -/
noncomputable def inSteps (w : BitVec 32) : Bool :=
  match decode w with
  | .ok (.vredq ..) => true
  | _ => false

/-- One instruction of the leader's stream in every member that has not done it, the leader last. A trap in any undoes it in all and breaks
the gang; while some wait, only those that wait have begun it (log 31). -/
noncomputable def State.gangStep (s : State) (g : Gang) : State :=
  let (p, todo) := s.gangAt g
  match g.members.head? with
  | none => s
  | some lead =>
    let s0 := (s.focus lead).gangPut g p
    match s0.wordAt p.1 with
    | .error t => s0.breakGang g [(lead, t.pending)]
    | .ok (s0, w) =>
      let s0 := s0.onGang g fun h => { h with steps := inSteps w }
      let order := (todo.filter fun n => n != lead) ++ todo.filter fun n => n == lead
      let (s1, fs) := State.runMembers w s0 [] order
      if !fs.isEmpty then s0.breakGang g fs
      else
        let (s2, fs, left) := State.gangLoop w order.length s1 (s1.waiting order)
        if !fs.isEmpty then s0.breakGang g fs
        else if left.isEmpty then s2.onGang g fun h => { h with before := [], undo := [] }
        else if left.length = order.length then s2
        else
          let (s3, fs) := State.runMembers w s0 [] left
          if !fs.isEmpty then s0.breakGang g fs else s3

/-! ## Which units can move -/

/-- Whether an entry of the agenda can be acted on now. -/
def State.unitReady (s : State) (e : Ev) : Bool :=
  match e.op with
  | .launchRecordRead => !s.frozen (partNo e.a)
  | .dependencesMet => (match s.headTeam (partNo e.a) (queueNo e.b) with
    | none => true
    | some t => t.ready || ((s.queueOf t).served && s.deps t != .waiting))
  | .firingPlace =>
      let p := partNo e.a
      !s.frozen p && ((s.placing p).isEmpty || (s.firstPlaced (s.servedOrder p)).isSome)
  | .teamComplete => (s.teamOf e.a).all s.mayComplete
  | .checkSecondRun => (s.teamOf e.a).all fun t => t.checkRun != 0 || s.runEnded t
  | .actorFire => (s.teamOf e.a).all fun t => match s.fireActor t with
    | .no => false
    | _ => true
  | .messageDispatch => (s.cores[coreNo e.a]).inbound.isEmpty || (s.dispatch (coreNo e.a)).isSome
  | .trapRecordAppend => (match s.firing? e.a with
    | some f => (match f.run with
      | .stopped none _ => !(s.parts[f.part]).ringFull
      | _ => true)
    | none => true)
  | .errorLogAppend => let p := partNo e.a; (s.parts[p]).held.isEmpty || !(s.parts[p]).ringFull
  | .remoteRequestPerform => (s.performNext e.a).isSome
  | .bankOpArrive => (s.bankArrive (coreNo e.a) e.b).isSome
  | .rangelockRegister => s.tableMay e
  | .dqstealServe => (s.serveSteal e).isSome
  | .shinvComplete => e.b == 1 || !s.marksOpen e.l
  | .copySector => (s.copyIn (frondNo e.a) (chanNo e.b)).all s.copyMay
  | .preemptEnd => s.preemptReady (partNo e.a)
  | .resumeRequest => e.c != 1 || (s.resumeStep (partNo e.a)).isSome
  | .tlbinvWrite => !bit (s.parts[partNo e.a]).tlbstat 0
  | .tlbinvComplete => e.b == 1 || (s.quiet (partNo e.a) && !s.marksOpen e.l)
  | .fcmdSave => s.saveMay e
  | .decisionArrive => (s.agenda.find? fun x => x.op == .decisionArrive && x.c == e.c) == some e
  | .creditReturn => (s.agenda.find? fun x => x.op == .creditReturn && x.a == e.a && x.b == e.b) == some e
  | _ => true

/-! ## Which firings can move (R72, R97, R199) -/

/-- A firing has a report to take and may, or must first withdraw its wait at another package. -/
def Firing.reporting (f : Firing) : Bool :=
  f.active && f.reportDue.isSome && (f.mayReport || (f.wait == some .answer && f.pends.any Pend.fe))

/-- A firing that waits no longer: running its instruction would not leave it in the same wait. -/
noncomputable def State.waitOver (s : State) (f : Firing) : Bool :=
  match f.wait with
  | none => true
  | some w =>
    if w.byEvent then false
    else match (after s ((s.focus f.adm).runNext)).firing? f.adm with
      | some g => g.wait != some w
      | none => true

/-- A firing that may issue: active, in no gang, not waiting, with no report due first, and not one that a pre-emption stops unless its
instruction is under way. -/
noncomputable def State.ready (s : State) (f : Firing) : Bool :=
  f.active && !f.reporting && f.gsize == 0 && (!s.halting f || f.granted || !f.data.isEmpty) && s.waitOver f

/-- Effective priority (R97). -/
def Firing.rank (f : Firing) : Nat := if f.aged then 8 else f.prio

/-- A firing that goes before another of its core (R97). -/
def Firing.before (f g : Firing) : Bool := decide (g.rank < f.rank) || (f.rank == g.rank && decide (f.adm < g.adm))

/-- A gang that can go on: every member active with no report, none in a wait that only an event ends, and not all waiting as before. -/
noncomputable def State.gangReady (s : State) (g : Gang) : Bool :=
  let fs := g.members.filterMap s.firing?
  let todo := (s.gangAt g).2
  fs.all (fun f => f.active && !f.reporting && (!s.halting f || f.granted || !f.data.isEmpty) && !(f.wait.any Wait.byEvent))
    && ((s.waiting todo).isEmpty
      || (let t := s.gangStep g
          s.traps < t.traps || (t.waiting todo).length < (s.waiting todo).length))

/-- The gangs that can go on, with the members that would issue. -/
noncomputable def State.gangsReady (s : State) : List (Gang × List Firing) :=
  (s.gangs.filter s.gangReady).map fun g => (g, (s.gangAt g).2.filterMap s.firing?)

/-- The firings in no gang that issue: of each core the best that may, unless a member of a gang goes before it (R97). -/
noncomputable def State.issuers (s : State) : List Firing :=
  let fs := s.firings.filter s.ready
  let ms := s.gangsReady.flatMap Prod.snd
  fs.filter fun f => !((fs ++ ms).any fun g => g.core == f.core && g.before f)

/-- The gangs that issue: none of their members comes after another firing of its core that may issue (R97). -/
noncomputable def State.gangIssuers (s : State) : List Gang :=
  let fs := s.firings.filter s.ready
  (s.gangsReady.filter fun g => g.2.all fun m => !(fs.any fun f => f.core == m.core && f.before m)).map Prod.fst

/-- A firing that may issue and has not, alone or in a gang (R97). -/
noncomputable def State.mayAge (s : State) (n : Nat) : Bool :=
  (s.firing? n).any s.ready || s.gangsReady.any fun g => g.2.any fun f => f.adm == n

/-- What can happen next. -/
inductive Move where
  | unit (e : Ev)
  | issue (n : Nat)
  | report (n : Nat)
  | gang (g : Gang)

/-- Every move there is. -/
noncomputable def State.moves (s : State) : List Move :=
  (s.agenda.filter s.unitReady).map .unit ++ s.issuers.map (fun f => .issue f.adm)
    ++ (s.firings.filter Firing.reporting).map (fun f => .report f.adm) ++ s.gangIssuers.map .gang

/-- An event executed: an entry of the opcode table that has no word. -/
def State.event (s : State) (e : Ev) : Host.Outcome State Fault Refusal :=
  if encode e.op = 0#32 then exec e.op { s with ev := e } else .next s

/-- An event that carries a firing. -/
def evOf (op : Instr) (a : Nat) : Ev := { op := op, a := a, b := 0, c := 0, v := 0, l := [] }

/-- One move made. -/
noncomputable def State.make (s : State) : Move → Host.Outcome State Fault Refusal
  | .unit e => ({ s with agenda := s.agenda.erase e }).event e
  | .issue n => (s.focus n).runNext
  | .report n => s.event (evOf .asyncReportTake n)
  | .gang g => .next (s.gangStep g)

/-! ## A word placed where the next step fetches (log 32)

The machine runs no program by itself: power-good, FULL, supervisor registers, a record and its placement come first. This stands for all of
that: one firing alone in the machine, in FULL, on a compute core of a partition with page tables, about to fetch the word. -/

/-- Where the placed word lies: 1 GiB, mapped to itself. -/
def placedPc : Nat := 0x40000000

/-- The firing that fetches it: its registers as they are, the whole of a core's registers allocated, waiting for nothing. -/
def Firing.placed (f : Firing) (tiles : List Nat) : Firing :=
  { f with
    live := true, run := .running, wait := none, reports := [], pends := [], late := none, data := [], repbuf := [], granted := false
    pc := BitVec.ofNat 64 placedPc
    core := 1, dem := { xregs := 64, vregs := 32, tiles := 8, accs := 4, btiles := 8, spad := 4096 }, spbase := 0, tphys := tiles
    fstat := setBits (setBits (setBit f.fstat 0 false) 23 13 0) 28 24 0 }

/-- Page tables at 4 KiB to 16 KiB that map the GiB at 1 GiB to itself with every permission. -/
def placedTables (m : Mem) (pkey : Nat) : Mem :=
  let m := m.write 0x1000 8 (0x2 * 2 ^ 16 + 1)
  let m := m.write 0x2000 8 (0x3 * 2 ^ 16 + 1)
  m.write (0x3000 + 8) 8 (pkey * 2 ^ 56 + 0x40000 * 2 ^ 16 + 0x36F)

/-- A word placed for the next step. -/
def State.placeWord (s : State) (w : BitVec 32) : State :=
  let p := s.fir.part
  let m := (placedTables s.mem (bits s.parts[p].pcfg 39 32)).write placedPc 4 w.toNat
  let s : State :=
    { s with
      fir := { s.fir.placed (List.range 8) with code := m }, others := [], gangs := [], agenda := [], inbox := [], late := []
      dev := { s.dev with stage := 3 }, mem := m }
  (s.onPart p fun x => { x with pint := BitVec.ofNat 64 (2 ^ 32), ptbr := 0x1000, req := none }).onDie 0 fun d => { d with tlb := [] }

/-! ## Inputs -/

/-- Held bytes of one dword written home early, as the L1 does in evicting a line; for a lost CXL device the line's are dropped and counted (R144,
R234, R382). -/
def State.evict (s : State) (h : Fin 1024) (dword : Nat) : State :=
  if s.cxlLost (8 * dword) then
    let line (y : Nat × Byte) : Bool := y.1 / 128 == dword / 16
    if s.fronds[h].held.any line then
      let t := match s.partOf h.val with
        | some p => s.dropped p 1
        | none => s
      t.onFrond h fun x => { x with held := x.held.filter fun y => !line y }
    else s
  else s.writeHome h fun k => k / 8 == dword

/-- Firmware writes device memory, where the firewall lets it (R394). -/
def State.firmware (s : State) (key n v : Nat) : State :=
  if decide (key + n ≤ hbmEnd) && s.dev.fwall.all fun r => decide (key + n ≤ r.1) || decide (r.2 ≤ key) then s.homeDone (keysFrom key n) (s.mem.write key n v) else s

/-- Firmware lowers the caps and clears enables; it can raise no cap over the fused one (R394). -/
def Device.lower (d : Device) (package modul : Nat) (eth : BitVec 8) (cxl : BitVec 2) (vf : BitVec 16) : Device :=
  { d with powerCap := min package packageCap, moduleCap := min modul moduleCapMax
           ethEn := d.ethEn &&& eth, cxlEn := d.cxlEn &&& cxl, vfEn := d.vfEn &&& vf }

/-- An input taken. Requests and messages of other packages come through ports, which work only in FULL; firmware is a verified image, which runs
from PROTONEMA on (R391, R392). -/
noncomputable def State.input (s : State) (x : Input) : Host.Outcome State Fault Refusal :=
  let full (t : State) : Host.Outcome State Fault Refusal := .next (if s.dev.stage = 3 then t else s)
  let melog (t : State) : Host.Outcome State Fault Refusal := .next (if 2 ≤ s.dev.stage then t else s)
  match x with
  | .event e => if e.op = .priorityAge && !s.mayAge e.a then .next s else s.event e
  | .request r => full ({ s with inreqs := s.inreqs ++ [{ r with again := false }] }.push .remoteRequestPerform r.stream 0 0 0)
  | .shinv pkg adm part h => full (s.peerShinv pkg adm (partNo part) h)
  | .tlbinv pkg part w => full (s.peerTlbinv pkg (partNo part) w)
  | .message m => full ((s.onCore (coreNo m.core) fun c => c.take m).push .messageDispatch (coreNo m.core).val 0 0 0)
  | .evict h dword => .next (s.evict (frondNo h) dword)
  | .hostRead w off n => .next (s.hostRead w off n)
  | .vfWrite p off v => .next (s.vfWrite p off v)
  | .fwall rs => .next (if s.dev.hostUp then { s with dev := { s.dev with fwall := rs } } else s)
  | .limits p m eth cxl vf => melog { s with dev := s.dev.lower p m eth cxl vf }
  | .firmware key n v => melog (s.firmware key n v)
  | .tlbDrop d p va =>
    .next (s.onDie ⟨d % 4, by omega⟩ fun x => { x with tlb := x.tlb.filter fun t => !(t.part.val == p && t.va == va) })
  | .shardDrop d h => .next (s.onDie ⟨d % 4, by omega⟩ fun x => { x with shards := x.shards.filter fun c => c.handle != h })

/-- The next thing that happens: the oldest input, else one of the moves there are, a free choice when there are several (log 5). -/
noncomputable def State.advanceOne (s : State) : Host.Outcome State Fault Refusal :=
  match s.inbox with
  | x :: xs => State.input { s with inbox := xs } x
  | [] => match s.moves with
    | [] => .next s
    | [m] => s.make m
    | m :: ms =>
      let (n, s) := s.nextFree
      s.make ((m :: ms).getD (Config.choice n % (ms.length + 1)) m)

end Sys2Proof.Machine
end

