-- ==== Sys2Proof/Machine/Step.lean ====
section
/-! DEFINITION. One step of the machine, and a state whose next step runs a given instruction. -/

namespace Sys2Proof.Machine

/-- The state with an instruction placed where the next step fetches: its bits are w, those above nbits zero. -/
def State.withFetchWord (s : State) (nbits w : Nat) : State := s.placeWord (BitVec.ofNat 32 (w % 2 ^ nbits))

/-- One step: an input, or one move of a unit, a firing or a gang. -/
noncomputable def step (s : State) : Host.Outcome State Fault Refusal := s.advanceOne

end Sys2Proof.Machine
end

