-- ==== Sys2Proof/Safety.lean ====
section
/-! DEFINITION. The terms claims are made in: an instruction that issues without a trap of R39 before its own part, the canonical form of
memory, what an instruction may leave unchanged. -/

namespace Sys2Proof.Machine

/-- The acting firing issues instruction i: it runs, no prefix is pending, the word is legal on its core, and every operand lies in the
allocation (R31, R33, R39). -/
def State.Issues (s : State) (i : Instr) : Prop :=
  s.fir.active = true ∧ s.fir.fpend = false ∧ legal i = true ∧ stageIll s.fir (opsOf i) = false ∧ s.fir.outside (opsOf i) = none

end Sys2Proof.Machine
end

