-- ==== Sys2Proof/Claims.lean ====
section
/-! DEFINITION. What the rules of spec/ say an instruction's effect is, in terms of registers, numbers and bytes, for the statements to
compare the machine with. -/

namespace Sys2Proof.Machine

/-! ## Scalar results (R124 to R129, R137), from the firing's registers -/

/-- The register an integer instruction writes and the value it writes there, in terms of signed and unsigned numbers and of single
bits. -/
def intResult (f : Firing) : Instr → Option (BitVec 6 × Word)
  | .add d a b => some (d, f.rx a + f.rx b)
  | .sub d a b => some (d, f.rx a - f.rx b)
  | .and d a b => some (d, f.rx a &&& f.rx b)
  | .or d a b => some (d, f.rx a ||| f.rx b)
  | .xor d a b => some (d, f.rx a ^^^ f.rx b)
  | .andn d a b => some (d, f.rx a &&& ~~~f.rx b)
  | .sll d a b => some (d, f.rx a <<< ((f.rx b).extractLsb' 0 6).toNat)
  | .srl d a b => some (d, f.rx a >>> ((f.rx b).extractLsb' 0 6).toNat)
  | .sra d a b => some (d, (f.rx a).sshiftRight ((f.rx b).extractLsb' 0 6).toNat)
  | .slt d a b => some (d, if (f.rx a).toInt < (f.rx b).toInt then 1 else 0)
  | .sltu d a b => some (d, if (f.rx a).toNat < (f.rx b).toNat then 1 else 0)
  | .min d a b => some (d, BitVec.ofInt 64 (min (f.rx a).toInt (f.rx b).toInt))
  | .max d a b => some (d, BitVec.ofInt 64 (max (f.rx a).toInt (f.rx b).toInt))
  | .minu d a b => some (d, BitVec.ofNat 64 (min (f.rx a).toNat (f.rx b).toNat))
  | .maxu d a b => some (d, BitVec.ofNat 64 (max (f.rx a).toNat (f.rx b).toNat))
  | .clz d a => some (d, BitVec.ofNat 64 ((List.range 64).findIdx fun i => (f.rx a).getMsbD i))
  | .ctz d a => some (d, BitVec.ofNat 64 ((List.range 64).findIdx fun i => (f.rx a).getLsbD i))
  | .popc d a => some (d, BitVec.ofNat 64 ((List.range 64).countP fun i => (f.rx a).getLsbD i))
  | .rol d a b => some (d, (f.rx a).rotateLeft ((f.rx b).extractLsb' 0 6).toNat)
  | .ror d a b => some (d, (f.rx a).rotateRight ((f.rx b).extractLsb' 0 6).toNat)
  | .addi d a i => some (d, f.rx a + i.signExtend 64)
  | .andi d a i => some (d, f.rx a &&& i.signExtend 64)
  | .ori d a i => some (d, f.rx a ||| i.signExtend 64)
  | .xori d a i => some (d, f.rx a ^^^ i.signExtend 64)
  | .slli d a n => some (d, f.rx a <<< n.toNat)
  | .srli d a n => some (d, f.rx a >>> n.toNat)
  | .srai d a n => some (d, (f.rx a).sshiftRight n.toNat)
  | .slti d a i => some (d, if (f.rx a).toInt < i.toInt then 1 else 0)
  | .sltiu d a i => some (d, if (f.rx a).toNat < (i.signExtend 64).toNat then 1 else 0)
  | .lui d i => some (d, i.signExtend 64 * 8192#64)
  | .adrp d i => some (d, (f.pc &&& ~~~0x1FFF#64) + i.signExtend 64 * 8192#64)
  | .mul d a b => some (d, f.rx a * f.rx b)
  | .mulh d a b => some (d, ((f.rx a).signExtend 128 * (f.rx b).signExtend 128).extractLsb' 64 64)
  | .mulhu d a b => some (d, ((f.rx a).setWidth 128 * (f.rx b).setWidth 128).extractLsb' 64 64)
  | .mulhsu d a b => some (d, ((f.rx a).signExtend 128 * (f.rx b).setWidth 128).extractLsb' 64 64)
  | .div d a b => some (d, if f.rx b = 0 then BitVec.allOnes 64 else (f.rx a).sdiv (f.rx b))
  | .divu d a b => some (d, if f.rx b = 0 then BitVec.allOnes 64 else f.rx a / f.rx b)
  | .rem d a b => some (d, if f.rx b = 0 then f.rx a else (f.rx a).srem (f.rx b))
  | .remu d a b => some (d, if f.rx b = 0 then f.rx a else f.rx a % f.rx b)
  | .sel d a b c => some (d, if f.rx a = 0 then f.rx c else f.rx b)
  | _ => none

/-- The register a MOVX reads or writes, when it lies in the allocation (R129). -/
def movxTarget (f : Firing) (a : BitVec 6) (i : BitVec 10) : Option (BitVec 6) :=
  let idx := (f.rx a).toInt + i.toInt
  if 0 ≤ idx ∧ idx < (f.dem.xregs : Int) then some (BitVec.ofInt 6 idx) else none

/-- The register a float instruction writes, the bits it writes there zero-extended, and the flags it raises, each from the patterns of its
sources: the one rounding of R54 in the instruction's format, under its own mode or frm (R55). -/
def floatResult (f : Firing) : Instr → Option (BitVec 6 × Nat × Nat)
  | .fadd t m d a b => some (d, fAdd (ftFmt t) (f.rnd m false 0) (f.rx a).toNat (f.rx b).toNat)
  | .fsub t m d a b => some (d, fSub (ftFmt t) (f.rnd m false 0) (f.rx a).toNat (f.rx b).toNat)
  | .fmul t m d a b => some (d, fMul (ftFmt t) (f.rnd m false 0) (f.rx a).toNat (f.rx b).toNat)
  | .fdiv t m d a b => some (d, fDiv (ftFmt t) (f.rnd m false 0) (f.rx a).toNat (f.rx b).toNat)
  | .fsqrt t m d a => some (d, fSqrt (ftFmt t) (f.rnd m false 0) (f.rx a).toNat)
  | .fcvt m z d a t u =>
      let r := convert (xtNum t) (xtNum u) (f.rnd m z 0) (f.rx a).toNat 0
      some (d, if t = .i32 then ((BitVec.ofNat 32 r.1).signExtend 64).toNat else r.1, r.2)
  | .fmin t d a b => some (d, fMinMax (ftFmt t) false (f.rx a).toNat (f.rx b).toNat)
  | .fmax t d a b => some (d, fMinMax (ftFmt t) true (f.rx a).toNat (f.rx b).toNat)
  | .feq t d a b => some (d, (fEq (ftFmt t) (f.rx a).toNat (f.rx b).toNat).toNat, snanFlag (ftFmt t) [(f.rx a).toNat, (f.rx b).toNat])
  | .flt t d a b => some (d, (fLt (ftFmt t) (f.rx a).toNat (f.rx b).toNat).toNat, snanFlag (ftFmt t) [(f.rx a).toNat, (f.rx b).toNat])
  | .fle t d a b => some (d, (fLt (ftFmt t) (f.rx a).toNat (f.rx b).toNat || fEq (ftFmt t) (f.rx a).toNat (f.rx b).toNat).toNat,
      snanFlag (ftFmt t) [(f.rx a).toNat, (f.rx b).toNat])
  | .fclass t d a => some (d, fClass (ftFmt t) (f.rx a).toNat, 0)
  | .fmadd t m d a b => some (d, fFma (ftFmt t) (f.rnd m false 0) false false (f.rx a).toNat (f.rx b).toNat (f.rx d).toNat)
  | .fmsub t m d a b => some (d, fFma (ftFmt t) (f.rnd m false 0) false true (f.rx a).toNat (f.rx b).toNat (f.rx d).toNat)
  | .fnmadd t m d a b => some (d, fFma (ftFmt t) (f.rnd m false 0) true true (f.rx a).toNat (f.rx b).toNat (f.rx d).toNat)
  | .fnmsub t m d a b => some (d, fFma (ftFmt t) (f.rnd m false 0) true false (f.rx a).toNat (f.rx b).toNat (f.rx d).toNat)
  | _ => none

/-- FSGNJ, FSGNJN and FSGNJX bit by bit: the magnitude of the first source, and the sign bit (R133). -/
def signResult (f : Firing) : Instr → Option (BitVec 6 × Word)
  | .fsgnj .f32 d a b => some (d, ((f.rx b).extractLsb' 31 1 ++ (f.rx a).extractLsb' 0 31).setWidth 64)
  | .fsgnjn .f32 d a b => some (d, (~~~(f.rx b).extractLsb' 31 1 ++ (f.rx a).extractLsb' 0 31).setWidth 64)
  | .fsgnjx .f32 d a b => some (d, (((f.rx a).extractLsb' 31 1 ^^^ (f.rx b).extractLsb' 31 1) ++ (f.rx a).extractLsb' 0 31).setWidth 64)
  | .fsgnj .f64 d a b => some (d, (f.rx b).extractLsb' 63 1 ++ (f.rx a).extractLsb' 0 63)
  | .fsgnjn .f64 d a b => some (d, ~~~(f.rx b).extractLsb' 63 1 ++ (f.rx a).extractLsb' 0 63)
  | .fsgnjx .f64 d a b => some (d, ((f.rx a).extractLsb' 63 1 ^^^ (f.rx b).extractLsb' 63 1) ++ (f.rx a).extractLsb' 0 63)
  | _ => none

/-! ## Branches (R99 to R103) -/

/-- Whether a branch is taken, from the registers of the firing whose stream it is, and its distance in instructions. -/
def branchTaken (f : Firing) : Instr → Option (Bool × Int)
  | .beq a b o => some (decide (f.rx a = f.rx b), o.toInt)
  | .bne a b o => some (decide (f.rx a ≠ f.rx b), o.toInt)
  | .blt a b o => some (decide ((f.rx a).toInt < (f.rx b).toInt), o.toInt)
  | .bge a b o => some (decide ((f.rx b).toInt ≤ (f.rx a).toInt), o.toInt)
  | .bltu a b o => some (decide ((f.rx a).toNat < (f.rx b).toNat), o.toInt)
  | .bgeu a b o => some (decide ((f.rx b).toNat ≤ (f.rx a).toNat), o.toInt)
  | .beqz a o => some (decide (f.rx a = 0), o.toInt)
  | .bnez a o => some (decide (f.rx a ≠ 0), o.toInt)
  | _ => none

/-- The firing put at an address, its wait over. -/
def Firing.goTo (f : Firing) (pc : Word) : Firing := { f with pc := pc, wait := none, granted := false, aged := false }

/-! ## Real values and frames -/

/-- The real number of sign, integer and power of two. -/
def realFin (neg : Bool) (m : Nat) (e : Int) : ℚ := (if neg then -1 else 1) * m * 2 ^ e

/-- The real number a finite float value is. -/
def realOf : FV → Option ℚ
  | .fin neg m e => some (realFin neg m e)
  | _ => none

/-- Two contexts that differ at most in scalar registers, fflags, the address and place in a frame, and the marks of a wait. -/
def Firing.sameBeside (g f : Firing) : Prop :=
  g = { f with x := g.x, fflags := g.fflags, pc := g.pc, fstat := g.fstat, wait := none, granted := false, aged := false } ∧
    ∀ b, b < 13 ∨ 23 < b → g.fstat.getLsbD b = f.fstat.getLsbD b

/-- The scalar register an integer or float instruction writes. -/
def scalarDest (f : Firing) (i : Instr) : Option (BitVec 6) :=
  match intResult f i, floatResult f i, signResult f i, i with
  | some (d, _), _, _, _ => some d
  | _, some (d, _, _), _, _ => some d
  | _, _, some (d, _), _ => some d
  | _, _, _, .movxRead d _ _ => some d
  | _, _, _, .movxWrite a n _ => movxTarget f a n
  | _, _, _, _ => none

/-! ## Special registers (R56, R191, R194 to R197, R210 to R212) -/

/-- The register each CSR number below 0x400 names, as it reads (R211). -/
def csrValue (s : State) : Nat → Option Word
  | 0x000 => some s.fir.fid
  | 0x001 => some s.fir.fcnt
  | 0x002 => some s.fir.tid
  | 0x003 => some s.fir.fparm
  | 0x004 => some (BitVec.ofNat 64 (s.fir.core.val / 2))
  | 0x005 => some (BitVec.ofNat 64 s.fir.core.val)
  | 0x006 => some s.fir.spbase
  | 0x008 => some s.fir.fstat
  | 0x009 => some s.fir.fflags
  | 0x00A => some s.fir.frm
  | 0x00B => some s.fir.srix
  | 0x010 => some s.fir.utvec
  | 0x011 => some s.fir.tcause
  | 0x012 => some s.fir.tval
  | 0x013 => some s.fir.tpc
  | 0x014 => some s.fir.tstat
  | 0x015 => some s.fir.trepw
  | 0x016 => some s.fir.trepf
  | 0x017 => some s.fir.tfmt
  | 0x018 => some s.fir.qlim
  | 0x019 => some s.fir.fewlim
  | 0x020 => some s.fir.tshape[0]
  | 0x021 => some s.fir.tshape[1]
  | 0x022 => some s.fir.tshape[2]
  | 0x023 => some s.fir.tshape[3]
  | 0x024 => some s.fir.tshape[4]
  | 0x025 => some s.fir.tshape[5]
  | 0x026 => some s.fir.tshape[6]
  | 0x027 => some s.fir.tshape[7]
  | 0x030 => some s.fir.seedlo
  | 0x031 => some s.fir.seedhi
  | 0x032 => some s.fir.sstream
  | 0x040 => some s.cores[s.fir.core].dqbase
  | 0x048 => some s.fr.swin[0]
  | 0x049 => some s.fr.swin[1]
  | 0x04A => some s.fr.swin[2]
  | 0x04B => some s.fr.swin[3]
  | 0x04C => some s.fr.swin[4]
  | 0x04D => some s.fr.swin[5]
  | 0x04E => some s.fr.swin[6]
  | 0x04F => some s.fr.swin[7]
  | _ => none

/-- What a CSR holds after a value is written to it, from what it held: the bits its fields keep (R56, R196, R210 to R212). -/
def csrKeeps (c : Nat) (old v : Word) : Word :=
  if c ≤ 6 then old
  else match c with
    | 0x008 => (old &&& ~~~0xE#64) ||| (v &&& 0xE#64)
    | 0x009 => v &&& 0x1F#64
    | 0x00A => if v.toNat % 8 ≤ 4 then v &&& 7#64 else old
    | 0x010 => v &&& 0x1FFFFFFFFFFFFFF#64
    | 0x011 => v &&& 0x800000000000FFFF#64
    | 0x014 => v &&& 0x1FFFE03F#64
    | 0x018 => BitVec.ofNat 64 (max (v.toNat % 2 ^ 32) 64)
    | 0x019 => BitVec.ofNat 64 (max (v.toNat % 2 ^ 32) 64)
    | 0x040 => (v &&& 0xFFFC0#64) ||| 0x8000000000000000#64
    | _ =>
      if 0x020 ≤ c ∧ c < 0x028 then v &&& 0x8000FFFF#64
      else if 0x048 ≤ c ∧ c < 0x050 then v &&& 0xF000FFFFFFFFFF00#64
      else v

/-- The context differs at most in its CSRs (R211). -/
def Firing.sameBesideCsrs (g f : Firing) : Prop :=
  g = { f with fstat := g.fstat, fflags := g.fflags, frm := g.frm, srix := g.srix, utvec := g.utvec, tcause := g.tcause, tval := g.tval,
               tpc := g.tpc, tstat := g.tstat, trepw := g.trepw, trepf := g.trepf, tfmt := g.tfmt, qlim := g.qlim, fewlim := g.fewlim,
               tshape := g.tshape, seedlo := g.seedlo, seedhi := g.seedhi, sstream := g.sstream }

/-! ## Which traps come first (R31, R34, R39, R104) -/

/-- Where an instruction of a queue pops it, and where it pushes it (R34). -/
def popsOf : Instr → Option (BitVec 4)
  | .qget _ n => some n
  | .vqget _ n => some n
  | .vredq _ _ n _ _ => some n
  | _ => none

def pushesTo : Instr → Option (BitVec 4)
  | .qput n _ => some n
  | .vqput n _ => some n
  | _ => none

/-- What an instruction that takes a prefix asks of it: some for each of them (R31, R288 to R291, R294). -/
def prefixAsked : Instr → Option (Prefx → Bool)
  | .vcvt _ _ h d a _ => some fun p => p.vcvtOk h (d == a)
  | .vcvto _ _ _ _ _ _ => some Prefx.vcvtoOk
  | .vplane _ _ => some fun p => p.planeOk false
  | .vunplane _ _ => some fun p => p.planeOk true
  | _ => none

/-- ILL of an instruction at the acting firing (R39, item 1): its word, the pending prefix, its core, its queue, its prefix, its gang. -/
def State.illFor (s : State) (i : Instr) : Prop :=
  legal i = false ∨ (s.fir.fpend = true ∧ takesPrefix i = false) ∨
    (s.fir.stage = true ∧ ∃ o ∈ opsOf i, o.kind = .a ∨ o.kind = .b) ∨
    (∃ n, popsOf i = some n ∧ (s.fir.stage = true ∧ n < 4#4 ∨ s.fir.stage = false ∧ 4#4 ≤ n ∧ n < 8#4)) ∨
    (∃ n, pushesTo i = some n ∧ (s.fir.stage = false ∧ n < 4#4 ∨ s.fir.stage = true ∧ 4#4 ≤ n ∧ n < 8#4)) ∨
    (∃ ok, prefixAsked i = some ok ∧ (s.fir.fpend = false ∨ ok s.fir.fmt = false)) ∨
    (∃ t c a sa ra sb rb k, i = .mma t c a sa ra sb rb k ∧ s.fir.fpend = true ∧ (mmaPrefx s.fir.pfx).mmaOk = false) ∨
    (s.fir.gsize ≠ 0 ∧ (i = .retire ∨ ∃ d a b, i = .launch d a b)) ∨
    (∃ n, i = .gang n ∧ (s.fir.stage = true ∨ s.fir.gsize ≠ 0 ∨ s.teamFlag s.fir 31 = false))

/-- PRIV of an instruction at the acting firing (R39, item 2; R209, R210). -/
def State.privFor (s : State) (i : Instr) : Prop :=
  s.fir.sup = false ∧ (i = .halt ∨ ∃ d c a, 0x400 ≤ c.toNat ∧ (i = .csrw d c a ∨ i = .csrs d c a ∨ i = .csrc d c a))

/-- An instruction trap at the acting firing whose value is a word. -/
def State.trapsWord (s : State) (c : Cause) (w : BitVec 32) : Host.Outcome State Fault Refusal :=
  .next (s.trapHere { c := c, sub := 0, val := w.setWidth 64 })

/-- A mask bit of a REP names an operand the instruction does not have: bit 0 the destination, bits 1 to 3 the sources (R29). -/
def asksAbsent (m : BitVec 4) (ops : List Opnd) : Prop :=
  (m.getLsbD 0 = true ∧ ∀ o ∈ ops, o.dst = false) ∨ ∃ q < 3, m.getLsbD (q + 1) = true ∧ (ops.filter fun o => !o.dst).length ≤ q

/-- The majors a REP may capture (R36). -/
def captureMajors : List (BitVec 7) := [0x01, 0x02, 0x03, 0x04, 0x06, 0x08, 0x09, 0x0A, 0x40, 0x41, 0x42, 0x43, 0x48, 0x49, 0x4A]

/-- The frame given up: the fields that hold its place cleared. -/
def State.frameless (s : State) : State := s.upd fun f => { f with fstat := setBits f.fstat 23 13 0, repbuf := [] }

/-! ## Places an access reaches at once (R139, R143, R144) -/

/-- n bytes whose data the acting firing reads, or writes (wr), without another agent: its own frond's scratchpad, shared memory, device
memory that returns no poison, an uncached page; no stream header of an actor in flight; and no posted bank operation of the firing is on
its way to them (R235). -/
def State.near (s : State) (wr : Bool) (n : Nat) (pl : Place) : Bool :=
  !s.postedAt wr pl n && match pl with
    | .spad h _ => h == s.fir.frond
    | .shm o => !wr || s.headers.all fun h => decide (shmKey o + n ≤ h) || decide (h + 64 ≤ shmKey o)
    | .dev k => wr || !s.cxlPoisoned k n
    | .unc _ => true
    | .ctl _ => false
    | .far _ _ _ => false

/-- A load of n parts finds entries among the 64 of the acting core (R157). -/
def State.loadsFit (s : State) (n : Nat) : Prop := s.loadsOut s.fir.core + min n 64 ≤ 64

/-- The number of n bytes read as LD delivers it (R145). -/
def loadValue (t : LdTy) (v : Nat) : Word :=
  match t with
  | .i8 => (BitVec.ofNat 8 v).signExtend 64
  | .i16 => (BitVec.ofNat 16 v).signExtend 64
  | .i32 => (BitVec.ofNat 32 v).signExtend 64
  | .n8 => (BitVec.ofNat 8 v).setWidth 64
  | .n16 => (BitVec.ofNat 16 v).setWidth 64
  | .n32 => (BitVec.ofNat 32 v).setWidth 64
  | .n64 => BitVec.ofNat 64 v

/-- The byte an ordinary read of the acting firing returns at a place. -/
def State.byteSeen (s : State) (pl : Place) : Byte := BitVec.ofNat 8 (s.readAt pl 1)

/-- A byte stored by n bytes at a place: at its home, or in the L1 for device memory (R144). -/
def Place.covers (pl : Place) (n : Nat) : Place → Bool
  | .dev k => match pl with
    | .dev j => decide (j ≤ k) && decide (k < j + n)
    | _ => decide (pl.key ≤ k) && decide (k < pl.key + n)
  | q => match pl with
    | .dev _ => false
    | _ => decide (pl.key ≤ q.key) && decide (q.key < pl.key + n)

/-- Elements of n bytes stored one after another. -/
def State.storeEach (s : State) (n : Nat) (xs : List (Place × Nat)) : State :=
  xs.foldl (fun s x => (s.usePath x.1).writeAt x.1 n x.2) s

/-- The paths of places noted one after another (R223). -/
def State.useEach (s : State) (pls : List Place) : State := pls.foldl State.usePath s

/-- Everything but the acting firing is as before. -/
def State.onlyFiring (t s : State) : Prop := t = { s with fir := t.fir }

/-- Everything but the acting firing is as before, and which home writes its frond has read. -/
def State.onlyReads (t s : State) : Prop := t = { s with fir := t.fir, late := t.late }

/-- A read of n bytes at a place: one past the L1 is noted for the acting frond (R245). -/
def State.readHome (s : State) (pl : Place) (n : Nat) : State :=
  match pl with
  | .unc k => s.seenBy s.fir.frond k n
  | _ => s

/-- A full-empty access to a key whose condition holds goes on, in state w: its team records and replays nothing, or the order log lets it
(R148, R339). -/
def State.feGoes (u w : State) (key : Nat) : Prop :=
  let r := u.useKey key
  (u.loggedTeam u.fir = none ∧ w = r) ∨ (u.loggedTeam u.fir ≠ none ∧ r.logServe r.fir key = .ok w)

/-- The team of a full-empty access replays a log (R341). -/
def State.replays (s : State) : Prop := ∃ t, s.loggedTeam s.fir = some t ∧ t.flag 27 = true

/-- The order log holds a full-empty access (R341). -/
def State.feHeld (u : State) (key : Nat) : Prop :=
  let r := u.useKey key
  u.loggedTeam u.fir ≠ none ∧ r.logServe r.fir key = .held

/-- The order log turns a full-empty access away with LOGFULL: on a full log, or where a replay knows it nowhere (R340, R341). -/
def State.feFull (u : State) (key sub die : Nat) : Prop :=
  let r := u.useKey key
  u.loggedTeam u.fir ≠ none ∧ r.logServe r.fir key = .full sub die

/-- A context that differs at most in one vector register, the paths used, the address and the marks of a wait. -/
def Firing.sameBesideVec (g f : Firing) (d : BitVec 5) : Prop :=
  g.x = f.x ∧ g.k = f.k ∧ g.m = f.m ∧ g.b = f.b ∧ g.acc = f.acc ∧ g.accf = f.accf ∧ (∀ r, r ≠ d → g.rv r = f.rv r) ∧
    g.fflags = f.fflags ∧ g.frm = f.frm ∧ g.srix = f.srix ∧ g.utvec = f.utvec ∧ g.tcause = f.tcause ∧ g.tval = f.tval ∧ g.tpc = f.tpc ∧
    g.tstat = f.tstat ∧ g.tshape = f.tshape ∧ g.seedlo = f.seedlo ∧ g.seedhi = f.seedhi ∧ g.sstream = f.sstream ∧ g.qlim = f.qlim ∧
    g.fewlim = f.fewlim ∧ g.cr = f.cr

/-! ## Order (R240, R248) -/

/-- Nothing the acting firing did is still on its way: no path used since its last release, no remote write unacknowledged, no posted bank
operation not applied; and no CXL device is lost. -/
def State.quietOrder (s : State) : Prop :=
  s.fir.paths = [] ∧ (∀ u ∈ s.unacked, u.adm ≠ s.fir.adm) ∧ s.posting s.fir = false ∧ s.dev.cxlDown = [] ∧ s.dev.cxlOn = 3

/-- Frond h's held bytes have gone home, and nothing else is written (R237). -/
def State.publishedOf (t s : State) (h : Fin 1024) : Prop :=
  (∀ x ∈ s.fronds[h].held, t.mem.get x.1 = x.2) ∧ (∀ a, (∀ x ∈ s.fronds[h].held, x.1 ≠ a) → t.mem.get a = s.mem.get a) ∧
    t.fronds[h].held = [] ∧ (∀ g, g ≠ h → t.fronds[g] = s.fronds[g])

/-- Every write at a byte of device memory that no release has made whole reaches frond h: a renewal there gives the byte as memory holds it
(R238, R241). -/
def State.sureAt (s : State) (h : Fin 1024) (k : Nat) : Prop := ∀ l ∈ s.late, l.reaches h = false → k < l.key ∨ l.key + 8 ≤ k

/-- Frond h has, has read or has been passed every write at a byte of device memory that no release has made whole (R238, R241, R248). -/
def State.takenAt (s : State) (h : Fin 1024) (k : Nat) : Prop := ∀ l ∈ s.late, l.known h = false → k < l.key ∨ l.key + 8 ≤ k

/-- Frond h's snapshot is renewed, in v, from what s knew of writes under way (R238). -/
def State.renewedOf (v s : State) (h : Fin 1024) : Prop := ∀ k, s.takenAt h k → v.fronds[h].snap.get k = v.mem.get k

/-- The machine apart from one frond's L1, memory and the acting firing is as before. -/
def State.besideOrder (t s : State) : Prop :=
  t.others = s.others ∧ t.cores = s.cores ∧ t.parts = s.parts ∧ t.teams = s.teams ∧ t.full = s.full ∧ t.fir = { s.fir.advance with paths := t.fir.paths }

/-! ## Bank operations (R158 to R168) -/

/-- An integer atomic: its size, result register, address register, source register, and the new value of a word of w bits from the old
value, the source and the compare value (R163). -/
def amoForm : Instr → Option (SZ × BitVec 6 × BitVec 6 × BitVec 6 × ((w : Nat) → BitVec w → BitVec w → BitVec w → BitVec w))
  | .amoadd z d a b => some (z, d, a, b, fun _ o x _ => o + x)
  | .amoand z d a b => some (z, d, a, b, fun _ o x _ => o &&& x)
  | .amoor z d a b => some (z, d, a, b, fun _ o x _ => o ||| x)
  | .amoxor z d a b => some (z, d, a, b, fun _ o x _ => o ^^^ x)
  | .amomin z d a b => some (z, d, a, b, fun w o x _ => BitVec.ofInt w (min o.toInt x.toInt))
  | .amomax z d a b => some (z, d, a, b, fun w o x _ => BitVec.ofInt w (max o.toInt x.toInt))
  | .amominu z d a b => some (z, d, a, b, fun w o x _ => BitVec.ofNat w (min o.toNat x.toNat))
  | .amomaxu z d a b => some (z, d, a, b, fun w o x _ => BitVec.ofNat w (max o.toNat x.toNat))
  | .amoswp z d a b => some (z, d, a, b, fun _ _ x _ => x)
  | .amocas z d a b => some (z, d, a, b, fun _ o x c => if o = c then x else o)
  | _ => none

/-- Bits of an integer atomic. -/
def szBits : SZ → Nat
  | .w => 32
  | .d => 64

/-- A float atomic: its type, registers, and the new value of the bits; a NaN on either side leaves the canonical NaN (R164). -/
def famoForm : Instr → Option (AF × BitVec 6 × BitVec 6 × BitVec 6 × (Nat → Nat → Nat))
  | .amofadd t d a b => some (t, d, a, b, fun o x => if (afFmt t).isNan o || (afFmt t).isNan x then (afFmt t).canon else (fAdd (afFmt t) Rnd.rne o x).1)
  | .amofmin t d a b => some (t, d, a, b, fun o x => if (afFmt t).isNan o || (afFmt t).isNan x then (afFmt t).canon else (fMinMax (afFmt t) false o x).1)
  | .amofmax t d a b => some (t, d, a, b, fun o x => if (afFmt t).isNan o || (afFmt t).isNan x then (afFmt t).canon else (fMinMax (afFmt t) true o x).1)
  | _ => none

/-- Bytes of a float type. -/
def floatBytes : AF → Nat
  | .f32 => 4
  | .f64 => 8
  | .bf16 => 2
  | .f16 => 2

/-- The acting core has no tag busy, no filter knows its next 64 tags, no order log knows the acting firing's operations (R161,
R162, R338), and no entry is held in the name of a lane that has no number. -/
def State.banksFree (s : State) : Prop :=
  s.busyTags s.fir.core = [] ∧ s.loggedTeam s.fir = none ∧ s.fir.live = true ∧ (∀ l ∈ s.fr.locks, l.own ≠ .vbsum s.fir.adm 0) ∧
    ∀ x ∈ s.filt, x.src = s.fir.core.val → ∀ i : Nat, i < 64 → x.tag ≠ (s.cores[s.fir.core].nextTag.toNat + i) % 2 ^ 16

/-- What a bank operation at key leaves: n bytes there hold a value, every other byte is as after the line left the L1 (R159), and the
acting firing goes on with a change of its registers. -/
def State.bankDone (v u : State) (key n val : Nat) (f : Firing) : Prop :=
  v.mem.read key n = val ∧ (∀ a, a < key ∨ key + n ≤ a → v.mem.get a = (u.bankFlush key).mem.get a) ∧ v.full = u.full ∧
    v.fronds = (u.bankFlush key).fronds ∧ v.parts = u.parts ∧ v.fir = { f.advance with paths := v.fir.paths }

/-- An unused event of the agenda's form. -/
def agendaEv (op : Instr) (a b c : Nat) (v : Word) : Ev := { op := op, a := a, b := b, c := c, v := v, l := [] }

/-- Events run one after another, as the machine's units bring them about. -/
def runEvents : List Ev → State → State
  | [], s => s
  | e :: es, s => match exec e.op { s with ev := e } with
    | .next t => runEvents es t
    | _ => s

/-- A posted bank operation leaves memory as it was after the line left the L1, and the firing goes on; its request, when it arrives at the
bank, leaves what bankDone says (R160). -/
def State.postedThen (v u : State) (key n val : Nat) (f : Firing) : Prop :=
  v.mem = (u.bankFlush key).mem ∧ v.fir = { f.advance with paths := v.fir.paths } ∧
    ∃ tag, v.agenda = u.agenda ++ [agendaEv .bankOpArrive u.fir.core.val tag 0 0] ∧
      (runEvents [agendaEv .bankOpArrive u.fir.core.val tag 0 0] v).bankDone u key n val f

/-- Memory after bank operations of one kind on lanes in ascending order, every lane's line having left the L1 before (R159, R166). -/
def State.lanesApplied (s : State) (op : BankOp) (xs : List (Nat × Nat)) : Mem :=
  xs.foldl (fun m x => (bankApply op m x.1 (BitVec.ofNat 64 x.2) 0).1) (xs.foldl (fun s x => s.bankFlush x.1) s).mem

/-- An indexed vector bank instruction: its operation on one lane, index unit in bytes, and registers (R166). -/
def vectorBank : Instr → Option (BankOp × Nat × BitVec 5 × BitVec 5 × BitVec 5 × BitVec 3)
  | .vamoadd t b x d k => some (if t = .f32 then .famo 0 .f32 else .amo 0 4, 4, b, x, d, k)
  | .vamomin t b x d k => some (if t = .f32 then .famo 1 .f32 else if t = .n32 then .amo 6 4 else .amo 4 4, 4, b, x, d, k)
  | .vamomax t b x d k => some (if t = .f32 then .famo 2 .f32 else if t = .n32 then .amo 7 4 else .amo 5 4, 4, b, x, d, k)
  | .vxcadd _ b x d k => some (.xcadd .f32, 64, b, x, d, k)
  | _ => none

/-! ## The order log (R338 to R341) -/

/-- A log entry of W0 and W1 for kind k at a site, at a place in its order not yet served (R339). -/
def entryAhead (t : Team) (k : Nat) (die site : Nat) (e : Word × Word) : Prop :=
  bits e.1 63 60 = k ∧ bits e.1 59 32 = site ∧ t.count (k, die, site) ≤ bits e.1 31 0

/-- Entries read from a die's buffer one after another, none when one of them cannot be read. -/
def State.logEntries (s : State) (p : Fin 16) (d : Fin 4) : Nat → Nat → Option (List (Word × Word))
  | 0, _ => some []
  | n + 1, j => match s.logEntry p d j with
    | none => none
    | some (t, w0, w1) => (t.logEntries p d n (j + 1)).map fun es => (w0, w1) :: es

/-! ## Semaphores, gangs and groups (R75, R91 to R93, R106 to R122) -/

/-- No posted bank operation of the acting firing is on its way, and no CXL device is lost: a release at frond scope ends at once (R160, R248). -/
def State.quietFrond (s : State) : Prop :=
  s.posting s.fir = false ∧ s.dev.cxlDown = [] ∧ s.dev.cxlOn = 3

/-- The waiters of semaphore n of the acting frond, oldest first. -/
def State.semWaiters (s : State) (n : Nat) : List SemWait := s.fr.hsq.filter fun w => w.n == n

/-- Waiters served in arrival order, the oldest first, from a count on: each takes its amount, and the first that wants more than is left
stops the service (R121). -/
def servedFrom : Nat → List SemWait → Nat × List SemWait
  | c, [] => (c, [])
  | c, w :: ws => if w.amt ≤ c then servedFrom (c - w.amt) ws else (c, w :: ws)

/-- The frond with a count of one semaphore replaced. -/
def State.withSem (s : State) (n : BitVec 4) (c : Nat) : State :=
  s.onFrond s.fir.frond fun f => { f with hs := f.hs.set n.toNat (BitVec.ofNat 16 c) }

/-- The record of a group after one more arrival: the last member completes the boundary (R116). -/
def GroupRec.arrive (g : GroupRec) : GroupRec :=
  if g.arrived + 1 = g.members then { phase := (g.phase + 1) % 16, arrived := 0, members := g.members } else { g with arrived := g.arrived + 1 }

/-- The record of a group after one member has gone (R93). -/
def GroupRec.less (g : GroupRec) : GroupRec :=
  if g.arrived = g.members - 1 ∧ g.members ≠ 1 ∧ g.members ≠ 0 then { phase := (g.phase + 1) % 16, arrived := 0, members := g.members - 1 }
  else { g with members := g.members - 1 }

/-- Firings a gang holds. -/
def gangCount : GangN → Nat
  | .n2 => 2
  | .n4 => 4
  | .n8 => 8

/-- The members of the gang that forms when the acting firing is the last of n to arrive: by lane, each lane the place of its frond in the
block (R106). -/
def State.gangByLane (s : State) (n : Nat) : List Nat :=
  (List.range n).filterMap fun l =>
    if l = s.fir.frond.val % n then some s.fir.adm else ((s.gangPeers n).find? fun f => f.frond.val % n = l).map Firing.adm

/-! ## Queues, messages, copies, barriers, deques (R172 to R192) -/

/-- The entries a queue could give the acting firing, oldest first; none where it has no such queue (R172 to R174). -/
def State.queueView (s : State) (n : Nat) : Option (List QEntry) :=
  if n < 8 then s.fir.pairset.map fun i => (s.fr.pairs[i]).q.toList.getD n []
  else if n < 12 then (s.linked n).map fun _ => (s.fr.incoming (n - 8)).map .vec
  else if n = 12 then some (s.fir.q12.map .word)
  else if n = 13 then some (s.fir.q13.map .word)
  else none

/-- What a message brings its receiver: source core, partition and firing, header, payload. -/
def Message.brings (m : Message) : Nat × Nat × Nat × Word × List Word := (m.srcCore, m.srcPart, m.adm, m.header, m.payload)

/-- The header as sent: bit 8 is the sender's reading of the FP8 top code (R178). -/
def State.sentHeader (s : State) (h : Word) : Word := (h &&& ~~~0x100#64) ||| (if s.fir.topx then 0x100 else 0)

/-- The words of a payload of c registers from x[p] (R179). -/
def State.payloadOf (s : State) (p : BitVec 6) (c : Nat) : List Word := (List.range c).map fun i => s.rx (BitVec.ofNat 6 (p.toNat + i))

/-- A barrier once an update leaves PEND and SECT: nothing awaited ends the phase (R188). SECT is a signed 48-bit number. -/
def Barrier.after (b : Barrier) (pend : Nat) (sect : Int) : Barrier :=
  let t := (BitVec.ofInt 48 sect).toInt
  if pend = 0 ∧ t = 0 then { init := b.init, pend := b.init, phase := (b.phase + 1) % 16, sect := 0 } else { b with pend := pend, sect := t }

/-- A firing once the phase of the barrier at key k goes from old to new: a waiter for another phase is released (R188). -/
def Firing.afterPhase (g : Firing) (k old new : Nat) : Firing :=
  match g.wait with
  | some (.barrier j p) => if old ≠ new ∧ j = k ∧ p ≠ new then { g with wait := some .released } else g
  | _ => g

/-- Only the acting firing, memory and the waiters of the barrier at key k differ. -/
def State.barrierMoved (v u : State) (k : Nat) : Prop :=
  v = { u with fir := v.fir, mem := v.mem, others := u.others.map fun g => g.afterPhase k (u.barrierAt k).phase (v.barrierAt k).phase }

/-- Room for an operation's range-lock entries, and no older operation of the frond waiting for some (R190). -/
def State.lockFree (s : State) (n : Nat) : Prop :=
  s.fr.locks.length + n ≤ 32 ∧ ∀ f ∈ s.others, f.frond = s.fir.frond → f.granted = false ∧ f.wait ≠ some .table

/-- The victim of a steal attempt: a draw scaled to the cores of the partition (R192). -/
def stealVictim (p : Part) (part core : Nat) (n : Word) : Nat :=
  2 * p.start + (drawOf p.stealseed (BitVec.ofNat 64 part) n (BitVec.ofNat 64 core)).toNat * (2 * p.len) / 2 ^ 64

/-! ## Vector results (R273 to R292, R332 to R336) -/

/-- An integer vector instruction: its width, destination, first source, second source (a vector, or a scalar register taken at the
element's width), mask, and the element it computes on n bits (R280, R281). -/
def intLane : Instr → Option (IW × BitVec 5 × BitVec 5 × (BitVec 5 ⊕ BitVec 6) × BitVec 3 × ((n : Nat) → BitVec n → BitVec n → BitVec n))
  | .viadd w _ d a b k => some (w, d, a, .inl b, k, fun _ x y => x + y)
  | .visub w _ d a b k => some (w, d, a, .inl b, k, fun _ x y => x - y)
  | .vimul w _ d a b k => some (w, d, a, .inl b, k, fun _ x y => x * y)
  | .vimulh w u d a b k => some (w, d, a, .inl b, k, fun n x y =>
      if u then (x.setWidth (2 * n) * y.setWidth (2 * n)).extractLsb' n n else (x.signExtend (2 * n) * y.signExtend (2 * n)).extractLsb' n n)
  | .viand w _ d a b k => some (w, d, a, .inl b, k, fun _ x y => x &&& y)
  | .vior w _ d a b k => some (w, d, a, .inl b, k, fun _ x y => x ||| y)
  | .vixor w _ d a b k => some (w, d, a, .inl b, k, fun _ x y => x ^^^ y)
  | .visll w _ d a b k => some (w, d, a, .inl b, k, fun n x y => x <<< (y.toNat % n))
  | .visrl w _ d a b k => some (w, d, a, .inl b, k, fun n x y => x >>> (y.toNat % n))
  | .visra w _ d a b k => some (w, d, a, .inl b, k, fun n x y => x.sshiftRight (y.toNat % n))
  | .vimin w u d a b k => some (w, d, a, .inl b, k, fun n x y =>
      if u then BitVec.ofNat n (min x.toNat y.toNat) else BitVec.ofInt n (min x.toInt y.toInt))
  | .vimax w u d a b k => some (w, d, a, .inl b, k, fun n x y =>
      if u then BitVec.ofNat n (max x.toNat y.toNat) else BitVec.ofInt n (max x.toInt y.toInt))
  | .viaddSat w u d a b k => some (w, d, a, .inl b, k, fun n x y =>
      if u then BitVec.ofNat n (min (x.toNat + y.toNat) (2 ^ n - 1))
      else BitVec.ofInt n (max (-2 ^ (n - 1)) (min (2 ^ (n - 1) - 1) (x.toInt + y.toInt))))
  | .visubSat w u d a b k => some (w, d, a, .inl b, k, fun n x y =>
      if u then BitVec.ofNat n (x.toNat - y.toNat) else BitVec.ofInt n (max (-2 ^ (n - 1)) (min (2 ^ (n - 1) - 1) (x.toInt - y.toInt))))
  | .vipopc w _ d a k => some (w, d, a, .inl a, k, fun n x _ => BitVec.ofNat n ((List.range n).countP fun i => x.getLsbD i))
  | .viaddx w d a b k => some (w, d, a, .inr b, k, fun _ x y => x + y)
  | .visubx w d a b k => some (w, d, a, .inr b, k, fun _ x y => x - y)
  | .vimulx w d a b k => some (w, d, a, .inr b, k, fun _ x y => x * y)
  | .viandx w d a b k => some (w, d, a, .inr b, k, fun _ x y => x &&& y)
  | .viorx w d a b k => some (w, d, a, .inr b, k, fun _ x y => x ||| y)
  | .vixorx w d a b k => some (w, d, a, .inr b, k, fun _ x y => x ^^^ y)
  | .visllx w d a b k => some (w, d, a, .inr b, k, fun n x y => x <<< (y.toNat % n))
  | .visrlx w d a b k => some (w, d, a, .inr b, k, fun n x y => x >>> (y.toNat % n))
  | .visrax w d a b k => some (w, d, a, .inr b, k, fun n x y => x.sshiftRight (y.toNat % n))
  | _ => none

/-- Bits of an integer vector element. -/
def laneBits : IW → Nat
  | .w8 => 8
  | .w16 => 16
  | .w32 => 32
  | .w64 => 64

/-- Element e of a vector register. -/
def Firing.ve (f : Firing) (w : Nat) (r : BitVec 5) (e : Nat) : Nat := elem (f.rv r) w e

/-- The draw of element e of a spore vector: index srix + e of the stream of a register, sstream for x0 (R332, R333). -/
def Firing.drawAt (f : Firing) (x : BitVec 6) (e : Nat) : Word :=
  drawOf f.seedlo f.seedhi (f.srix + BitVec.ofNat 64 e) (if x = 0 then f.sstream else f.rx x)

/-- An element-wise instruction: width, destination, mask, and element e's value and flags, from the firing's registers (R273 to R285,
R333). -/
def vectorLane (f : Firing) (i : Instr) : Option (Nat × BitVec 5 × BitVec 3 × (Nat → Nat × Nat)) :=
  let fl2 (y : VF) (d a b : BitVec 5) (k : BitVec 3) (g : Fmt → Rnd → Nat → Nat → Nat × Nat) : Option (Nat × BitVec 5 × BitVec 3 × (Nat → Nat × Nat)) :=
    some ((vfFmt y).width, d, k, fun e => g (vfFmt y) (f.rnd .dyn false e) (f.ve (vfFmt y).width a e) (f.ve (vfFmt y).width b e))
  let flx (y : VF) (d a : BitVec 5) (x : BitVec 6) (k : BitVec 3) (g : Fmt → Rnd → Nat → Nat → Nat × Nat) : Option (Nat × BitVec 5 × BitVec 3 × (Nat → Nat × Nat)) :=
    some ((vfFmt y).width, d, k, fun e => g (vfFmt y) (f.rnd .dyn false e) (f.ve (vfFmt y).width a e) ((f.rx x).toNat % 2 ^ (vfFmt y).width))
  let fma (d a b c : BitVec 5) (k : BitVec 3) (neg negc : Bool) : Option (Nat × BitVec 5 × BitVec 3 × (Nat → Nat × Nat)) :=
    some (32, d, k, fun e => fFma f32 (f.rnd .dyn false e) neg negc (f.ve 32 a e) (f.ve 32 b e) (f.ve 32 c e))
  let un (d a : BitVec 5) (k : BitVec 3) (g : Nat → Nat × Nat) : Option (Nat × BitVec 5 × BitVec 3 × (Nat → Nat × Nat)) :=
    some (32, d, k, fun e => g (f.ve 32 a e))
  match intLane i with
  | some (w, d, a, b, k, g) => some (laneBits w, d, k, fun e =>
      let n := laneBits w
      ((g n (BitVec.ofNat n (f.ve n a e)) (match b with
        | .inl r => BitVec.ofNat n (f.ve n r e)
        | .inr r => (f.rx r).setWidth n)).toNat, 0))
  | none => match i with
    | .vadd y d a b k => fl2 y d a b k fAdd
    | .vsub y d a b k => fl2 y d a b k fSub
    | .vmul y d a b k => fl2 y d a b k fMul
    | .vdiv y d a b k => fl2 y d a b k fDiv
    | .vmin y d a b k => fl2 y d a b k fun F _ x z => fMinMax F false x z
    | .vmax y d a b k => fl2 y d a b k fun F _ x z => fMinMax F true x z
    | .vabs y d a k => fl2 y d a a k fun F _ x _ => (x % 2 ^ (F.width - 1), 0)
    | .vneg y d a k => fl2 y d a a k fun F _ x _ => ((x + 2 ^ (F.width - 1)) % 2 ^ F.width, 0)
    | .vsgnj y d a b k => fl2 y d a b k fun F _ x z => (x % 2 ^ (F.width - 1) + z / 2 ^ (F.width - 1) * 2 ^ (F.width - 1), 0)
    | .vaddx y d a x k => flx y d a x k fAdd
    | .vsubx y d a x k => flx y d a x k fSub
    | .vmulx y d a x k => flx y d a x k fMul
    | .vdivx y d a x k => flx y d a x k fDiv
    | .vminx y d a x k => flx y d a x k fun F _ x z => fMinMax F false x z
    | .vmaxx y d a x k => flx y d a x k fun F _ x z => fMinMax F true x z
    | .vfmadd d a b c k => fma d a b c k false false
    | .vfmsub d a b c k => fma d a b c k false true
    | .vfnmadd d a b c k => fma d a b c k true true
    | .vfnmsub d a b c k => fma d a b c k true false
    | .vexp d a k => un d a k (fExp f32)
    | .vlog d a k => un d a k (fLog f32)
    | .vrcp d a k => un d a k (fRcp f32)
    | .vrsqrt d a k => un d a k (fRsqrt f32)
    | .vtanh d a k => un d a k (fTanh f32)
    | .vsqrt d a k => some (32, d, k, fun e => fSqrt f32 (f.rnd .dyn false e) (f.ve 32 a e))
    | .vperm d a b k => some (32, d, k, fun e => (if f.ve 32 b e < 64 then f.ve 32 a (f.ve 32 b e) else 0, 0))
    | .vslideup d a n k => some (32, d, k, fun e => (if e < n.toNat then f.ve 32 d e else f.ve 32 a (e - n.toNat), 0))
    | .vslidedn d a n k => some (32, d, k, fun e => (if e + n.toNat < 64 then f.ve 32 a (e + n.toNat) else 0, 0))
    | .vmov d a k => some (32, d, k, fun e => (f.ve 32 a e, 0))
    | .vbcast w d x k => some (laneBits w, d, k, fun _ => ((f.rx x).toNat % 2 ^ laneBits w, 0))
    | .vspdraw .w32 d x k => some (32, d, k, fun e => ((f.drawAt x e).toNat % 2 ^ 32, 0))
    | .vspdraw .w64 d x k => some (64, d, k, fun e => ((f.drawAt x e).toNat, 0))
    | .vspuni .w32 d x k => some (32, d, k, fun e => (uni32 (f.drawAt x e), 0))
    | .vspuni .w64 d x k => some (64, d, k, fun e => (uni64 (f.drawAt x e), 0))
    | .vspexp .w32 d x k => some (32, d, k, fun e => (expVar f32 (f.drawAt x e), 0))
    | .vspexp .w64 d x k => some (64, d, k, fun e => (expVar f64 (f.drawAt x e), 0))
    | .vgumb d a x k => some (32, d, k, fun e => fAdd f32 Rnd.rne (f.ve 32 a e) (gumbelVar (f.drawAt x e)))
    | _ => none

/-- An element of width w takes part under a mask: the bit of the first 32-bit lane it lies in (R21, R273). -/
def takesPart (k : Word) (w e : Nat) : Bool := k.getLsbD (e * w / 32)

/-- The firing after an instruction that changes only one vector register and raises flags. -/
def Firing.vectorDone (g f : Firing) (d : BitVec 5) (flag : Nat → Prop) : Prop :=
  g = { f.advance with v := g.v, fflags := g.fflags } ∧ (∀ r, r ≠ d → g.rv r = f.rv r) ∧
    (∀ b, b < 64 → (g.fflags.getLsbD b = true ↔ f.fflags.getLsbD b = true ∨ flag b))

/-- The value and flags of node i of level j of the tree of R64 over 2^n elements: element i with element i + 2^(n - j), the lower first. -/
def treeNode (op : Nat → Nat → Nat × Nat) (n : Nat) (x : Nat → Nat) : Nat → Nat → Nat × Nat
  | 0, i => (x i, 0)
  | j + 1, i =>
    let a := treeNode op n x j i
    let b := treeNode op n x j (i + 2 ^ (n - 1 - j))
    let r := op a.1 b.1
    (r.1, a.2 ||| b.2 ||| r.2)

/-- A reduction's tree: an element that takes no part stands as the identity of R64. -/
def reduced (F : Fmt) (op : Nat → Nat → Nat × Nat) (idle : Nat) (k : Word) (v : Vec) : Nat × Nat :=
  let n := if F.width = 32 then 6 else 7
  treeNode op n (fun e => if takesPart k F.width e then elem v F.width e else idle) n 0

/-- A reduction instruction: format, destination, source, mask, combination and identity (R64, R286). -/
def reductionOf : Instr → Option (Fmt × BitVec 5 × BitVec 5 × BitVec 3 × (Nat → Nat → Nat × Nat) × Nat)
  | .vredsum y d a k => some (rfFmt y, d, a, k, fAdd (rfFmt y) Rnd.rne, 2 ^ ((rfFmt y).width - 1))
  | .vredmax y d a k => some (rfFmt y, d, a, k, fMinMax (rfFmt y) true, 2 ^ ((rfFmt y).width - 1) + (rfFmt y).infBits)
  | .vredmin y d a k => some (rfFmt y, d, a, k, fMinMax (rfFmt y) false, (rfFmt y).infBits)
  | _ => none

/-- The value of a mask instruction (R283, R285). -/
def maskResult (f : Firing) : Instr → Option (BitVec 3 × Word)
  | .kand d a b => some (d, f.rk a &&& f.rk b)
  | .kor d a b => some (d, f.rk a ||| f.rk b)
  | .kxor d a b => some (d, f.rk a ^^^ f.rk b)
  | .knot d a => some (d, ~~~f.rk a)
  | .kmov d a => some (d, f.rk a)
  | .kset d x => some (d, if 64 ≤ (f.rx x).toNat then BitVec.allOnes 64 else (1#64 <<< (f.rx x).toNat) - 1#64)
  | _ => none

/-- The acting firing issues an instruction that takes the pending prefix (R31, R288). -/
def State.IssuesPrefixed (s : State) (i : Instr) : Prop :=
  s.fir.active = true ∧ s.fir.fpend = true ∧ legal i = true ∧ stageIll s.fir (opsOf i) = false ∧ s.fir.outside (opsOf i) = none

/-- One element of a VCVT: the source element a destination element of a conversion takes, by the widths of the two types and HI; none where
the destination element keeps its value (R289). -/
def vcvtSource (wd ws : Nat) (hi : Bool) (i : Nat) : Option Nat :=
  if wd < ws then
    let n := 2048 / ws
    let off := if hi then n else 0
    if off ≤ i ∧ i < off + n then some (i - off) else none
  else if ws < wd then some (i + (if hi then 2048 / wd else 0))
  else some i

/-! ## Matrix and relation tiles (R293 to R324) -/

/-- The acting firing issues an instruction that takes a prefix if one is pending (R31). -/
def State.IssuesEither (s : State) (i : Instr) : Prop := s.Issues i ∨ s.IssuesPrefixed i

/-- Bit (i, j) of a bit tile (R312). -/
def Firing.tileBit (f : Firing) (b : BitVec 3) (i j : Nat) : Bool := (f.rb b).getLsbD (64 * i + j)

/-- A bit-tile instruction that computes every bit of its destination from bits of its sources (R319, R320). -/
def bitTile (f : Firing) : Instr → Option (BitVec 3 × (Nat → Nat → Bool))
  | .btand d a b => some (d, fun i j => f.tileBit a i j && f.tileBit b i j)
  | .btor d a b => some (d, fun i j => f.tileBit a i j || f.tileBit b i j)
  | .btxor d a b => some (d, fun i j => f.tileBit a i j ^^ f.tileBit b i j)
  | .btandn d a b => some (d, fun i j => f.tileBit a i j && !f.tileBit b i j)
  | .btnot d b => some (d, fun i j => !f.tileBit b i j)
  | .bttr d b => some (d, fun i j => f.tileBit b j i)
  | .btcomp d a b => some (d, fun i j => (List.range 64).any fun m => f.tileBit a i m && f.tileBit b m j)
  | _ => none

/-- The context differs at most in one bit tile and flags. -/
def Firing.sameBesideTile (g f : Firing) (d : BitVec 3) : Prop :=
  g = { f.advance with b := g.b, fflags := g.fflags } ∧ ∀ r, r ≠ d → g.rb r = f.rb r

/-- An operand of an MMA that passes the checks of R298 for n steps: a tile of 64 configured rows of 64 B of its type, or lines aligned and
inside the scratchpad from a base of 20 bits; its scales aligned and inside. -/
def MmaOp.fits (o : MmaOp) (f : Firing) (w0 : Word) (n : Nat) : Prop :=
  (match o.tile with
    | some t => shapeC (f.shape t) = true ∧ shapeRows (f.shape t) = 64 ∧ shapeRowBytes (f.shape t) = 64 ∧ shapeTy (f.shape t) = o.ty
    | none => w0.toNat < 2 ^ 20 ∧ o.base % 64 = 0 ∧ o.rp % 64 = 0 ∧ o.tp % 64 = 0 ∧ o.base + (n - 1) * o.tp + 63 * o.rp + 64 ≤ 2 ^ 20) ∧
  (match o.scale with
    | some v => v % 64 = 0 ∧ v + 64 * (n * lineBlocks o.ty) ≤ 2 ^ 20
    | none => True)

/-- The exact sum of products of two lines of finite elements, in units of 2^-320 (R63). -/
def exactDot (a b : List MV) : Int := ((a.zip b).map fun p => p.1.v * p.2.v).sum

/-- A line of finite elements. -/
def finiteLine (a : List MV) : Prop := ∀ x ∈ a, x.nan = false ∧ x.inf = 0

/-- One accumulator element after a K-step of finite products: its bits and flags; in integer mode the sum clamped, with SAT, else one RNE
rounding of the exact sum, with NX and OF (R63, R70). -/
def stepElement (int : Bool) (acc : Nat) (sum : Int) : Option (Nat × Nat) :=
  if int then
    let v := (BitVec.ofNat 32 acc).toInt + sum / 2 ^ 320
    let c := max (-2 ^ 31) (min (2 ^ 31 - 1) v)
    some ((BitVec.ofInt 32 c).toNat, if c = v then 0 else 32)
  else match f32.value acc with
    | .fin neg m e =>
      let v := (if neg then -((m * 2 ^ (e + 320).toNat : Nat) : Int) else ((m * 2 ^ (e + 320).toNat : Nat) : Int)) + sum
      if v = 0 then some (0, 0)
      else
        let r := roundTo f32 .rne false (decide (v < 0)) v.natAbs (-320) false 0
        some (r.1, r.2 &&& 5)
    | _ => none

/-- A tile's words in memory order: words in a memory row, memory rows, the pitch of the rows, and the tile word of memory word n (R309). -/
def tileLayout (shape : Word) (col : Bool) (xp : BitVec 5) (pitch : Word) : Nat × Nat × Nat × (Nat → Nat) :=
  let rows := bits shape 5 0 + 1
  let words := bits shape 11 6 + 1
  if col then (rows, words, (if xp = 0 then 4 * rows else pitch.toNat), fun n => n % rows * words + n / rows)
  else (words, rows, (if xp = 0 then 4 * words else pitch.toNat), fun n => n)

/-- A tile's shape serves a TLD or TST from a base: configured, within 4 KiB, rows of whole elements, columns only of 4-byte elements, rows
aligned (R307, R309). -/
def tileServes (shape : Word) (col : Bool) (b : Nat) (rows pitch : Nat) : Prop :=
  let sz := esize (shapeTy shape)
  shape.getLsbD 31 = true ∧ (bits shape 5 0 + 1) * (4 * (bits shape 11 6 + 1)) ≤ 4096 ∧ 4 * (bits shape 11 6 + 1) % sz = 0 ∧ (col = true → sz = 4) ∧
    ∀ r, r < rows → (b + r * pitch) % (if sz = 8 then 8 else 4) = 0

/-! ## The sorus (R345 to R362) -/

/-- The weights are listed by rising leaf. -/
def Sorus.ruled (x : Sorus) : Prop := (x.ws.map Prod.fst).Pairwise (· < ·)

/-- The sum of the weights of the leaves that p takes. -/
def Sorus.sumOf (x : Sorus) (p : Nat → Bool) : Nat := ((x.ws.filter fun y => p y.1).map fun y => y.2.toNat).sum

/-- A leaf that no active outgoing channel owns (R346). -/
def Sorus.unowned (x : Sorus) (l : Nat) : Bool := !(x.outc.toList.any fun c => c.act && decide (c.fl ≤ l) && decide (l < c.fl + 2 ^ c.log2b))

/-- The sum W_c of a channel's block (R346). -/
def Sorus.blockOf (x : Sorus) (c : Chan) : Nat := x.sumOf fun l => decide (c.fl ≤ l) && decide (l < c.fl + 2 ^ c.log2b)

/-- The leaf that r falls on, counting the weights of the leaves that p takes from the lowest on (R346). -/
def Sorus.fallsOn (x : Sorus) (p : Nat → Bool) (r l : Nat) : Prop :=
  p l = true ∧ (x.sumOf fun m => p m && decide (m < l)) ≤ r ∧ r < x.sumOf fun m => p m && decide (m ≤ l)

/-- No channel is due (R351). -/
def Sorus.undue (x : Sorus) : Prop := ∀ c : Fin 8, (x.outc[c].act && x.outc[c].due) = false ∧ (x.inc[c].act && x.inc[c].due) = false

/-- Channel c has the earliest next candidate of its direction, the lowest of those with that time (R353). -/
def earliest (cs : Vector Chan 8) (c : Fin 8) : Prop :=
  cs[c].act = true ∧ fLt f64 cs[c].tau.toNat f64.infBits = true ∧
    ∀ j : Fin 8, cs[j].act = true → fLt f64 cs[j].tau.toNat cs[c].tau.toNat = false ∧ (j < c → fLt f64 cs[c].tau.toNat cs[j].tau.toNat = true)

/-- No channel of a direction has a further candidate. -/
def noneComing (cs : Vector Chan 8) : Prop := ∀ j : Fin 8, cs[j].act = true → fLt f64 cs[j].tau.toNat f64.infBits = false

/-- Every candidate of a direction comes after a time. -/
def allAfter (cs : Vector Chan 8) (t : Nat) : Prop := noneComing cs ∨ ∃ j, earliest cs j ∧ fLt f64 t cs[j].tau.toNat = true

/-- No candidate of a direction comes before a time. -/
def noneBefore (cs : Vector Chan 8) (t : Nat) : Prop := noneComing cs ∨ ∃ j, earliest cs j ∧ le64 t cs[j].tau.toNat = true

/-- Channel ch of a direction replaced. -/
def Sorus.withChan (x : Sorus) (inc : Bool) (ch : Fin 8) (c : Chan) : Sorus :=
  if inc then { x with inc := x.inc.set ch c } else { x with outc := x.outc.set ch c }

/-- Channel ch of a direction. -/
def Sorus.chanAt (x : Sorus) (inc : Bool) (ch : Fin 8) : Chan := if inc then x.inc[ch] else x.outc[ch]

/-- What SWRD delivers under a selector (R362), from the index. -/
def Sorus.told (x : Sorus) (sel : Nat) (i : Word) : Option Word :=
  let ofChan (cs : Vector Chan 8) (g : Chan → Word) : Option Word :=
    (cs.toList[i.toNat]?).map fun c => if c.act then g c else 0
  let mask (cs : Vector Chan 8) : Nat := ((List.range 8).map fun j => if (cs.toList[j]?.map Chan.act) = some true then 2 ^ j else 0).sum
  match sel with
  | 0 => if i.toNat < 2 ^ x.log2l then some (BitVec.ofNat 64 (x.weight i.toNat)) else none
  | 1 => some (BitVec.ofNat 64 (x.sumOf fun l => decide (l < 2 ^ x.log2l) && x.unowned l))
  | 2 => ofChan x.outc fun c => BitVec.ofNat 64 (x.blockOf c)
  | 3 => ofChan x.outc Chan.tau
  | 4 => ofChan x.inc Chan.tau
  | 5 => ofChan x.outc Chan.k
  | 6 => ofChan x.inc Chan.k
  | 7 => some (BitVec.ofNat 64 (x.rid.toNat * 2 ^ 32 + mask x.outc * 2 ^ 24 + mask x.inc * 2 ^ 16 + 2 ^ 15
      + (x.sexp % 128).toNat * 2 ^ 8 + x.log2l))
  | 8 => ofChan x.inc fun c => BitVec.ofNat 64 c.queue.length
  | _ => none

/-! ## Supervisor registers (R86, R339, R373 to R376, R386) -/

/-- Registers of a partition block that keep the bits of a field, by offset in the block, and the field (R81, R143, R192, R198, R201, R374). -/
def plainRegs : List (Nat × Word) :=
  [(0x018, 0x1FFFFFFFFFFFFE0), (0x020, 0x1FFFFFFFFFFFFFF), (0x028, 0xFFFFFFFFFFFFFFFF), (0x050, 0xFFFFFFFF), (0x070, 0xFFFFFFFFFFFFFFFF),
   (0x078, 0xFFFFFFFFFFFFFFFF), (0x090, 0xFFFFFFFFFFFF0000), (0x098, 0xFFFFFFFFFFFF0000), (0x100, 0xFFFFFFFFFFFFFFFF),
   (0x108, 0xC00000FFFFFFFFFF), (0x110, 0xFFFFFFFFFFFFFFFF), (0x118, 0xFFFFFFFFFF)]

/-- A partition that has refused a write: CERR is set (R374). -/
def Part.refusing (x : Part) : Part := { x with pcfg := x.pcfg ||| 2#64 }

/-- A PINT value is taken (R375): the interval lies in the package, meets no other enabled partition's, the partition has no resident
firing and no enabled queue with records, and every frond of it passed its self-test (R391). -/
def State.pintAllowed (s : State) (p : Fin 16) (v : Word) : Prop :=
  let a := v.toNat % 2 ^ 10
  let n := v.toNat / 2 ^ 32 % 2 ^ 11
  a + n ≤ 1024 ∧ (∀ q : Fin 16, q ≠ p → s.parts[q].len = 0 ∨ n = 0 ∨ a + n ≤ s.parts[q].start ∨ s.parts[q].start + s.parts[q].len ≤ a) ∧
    (∀ f ∈ s.firings, f.part ≠ p) ∧
    (∀ k : Fin 32, (s.parts[p].lq[k]).lqcfg.getLsbD 16 = false ∨
      (s.parts[p].lq[k]).lqhead.toNat % 2 ^ 32 = (s.parts[p].lq[k]).lqtail.toNat % 2 ^ 32) ∧
    ∀ h : Fin 1024, a ≤ h.val → h.val < a + n → s.fronds[h].tested = true

/-- Every access a partition has issued has completed (R373): its firings' and copies' at other packages, its writes, its bank operations, and
its full-empty waits here; and those of other packages that its tables translate. -/
def State.allDone (s : State) (p : Fin 16) : Prop :=
  (∀ f ∈ s.firings, f.part = p → f.pends = []) ∧ (∀ u ∈ s.unacked, u.part ≠ p) ∧
    (∀ w ∈ s.retry, w.peer = none → ∀ f, s.firing? w.adm = some f → f.part ≠ p) ∧
    (∀ w ∈ s.retry, ∀ q, w.peer = some q → q.part ≠ p.val) ∧ (∀ r ∈ s.inreqs, r.again = true → r.part ≠ p.val) ∧
    (∀ c : Fin 2048, ∀ r ∈ (s.cores[c]).busy, r.part = p → r.applied = true) ∧
    ∀ (h : Fin 1024) (k : Fin 4) (c : Copy), (s.fronds[h]).chans[k] = some c → c.part = p → c.pends = []

/-- LQCFG after a write of v (R86), bit by bit. -/
def cfgAfter (old v : Word) (b : Nat) : Bool :=
  let n := if 1 ≤ v.toNat % 32 ∧ v.toNat % 32 ≤ 16 then v.toNat % 32 else old.toNat % 32
  if b < 5 then n.testBit b
  else if b = 16 then v.getLsbD 16 && decide (n ≠ 0)
  else if b = 17 then old.getLsbD 17 && !v.getLsbD 17
  else if b = 18 ∨ (8 ≤ b ∧ b ≤ 11) then v.getLsbD b
  else old.getLsbD b

/-! ## Links, the host, stages and errors (R377 to R397) -/

/-- Active lanes outbound and inbound of n healthy ones under SPLIT, at the package of the lower id or not (R384). -/
def lanesOf (split n : Nat) (low : Bool) : Nat × Nat :=
  if split ≠ 0 then (min (min split 4) n, min 4 (n - min (min split 4) n))
  else
    let one := min 4 ((n + 1) / 2)
    if low then (one, min 4 (n - one)) else (min 4 (n - one), one)

/-- The machine with one port replaced. -/
def State.withPort (s : State) (p : Fin 18) (x : Port) : State := { s with ports := s.ports.set p x }

/-- Bytes o to o + n - 1 of memory hold a number, every other byte is as before. -/
def Mem.holds (m old : Mem) (o n v : Nat) : Prop :=
  (∀ i, i < n → m.get (o + i) = BitVec.ofNat 8 (v / 2 ^ (8 * i))) ∧ ∀ k, (k < o ∨ o + n ≤ k) → m.get k = old.get k

/-- Every unit is as reset leaves it: no firing, no team, no work, every register of fronds, cores, dies and partitions at its reset value. -/
def State.freshUnits (s : State) : Prop :=
  s.firings = [] ∧ s.teams = [] ∧ s.saved = [] ∧ s.gangs = [] ∧ s.agenda = [] ∧ s.fronds = State.reset.fronds ∧ s.cores = State.reset.cores ∧
    s.dies = State.reset.dies ∧ s.parts = State.reset.parts ∧ s.full = [] ∧ s.retry = [] ∧ s.lost = [] ∧ s.unacked = [] ∧
    (∀ p : Fin 18, s.ports[p] = { Port.reset with peer := s.ports[p].peer }) ∧
    (∀ k, (k < 2 ^ 52 ∨ 2 ^ 54 ≤ k) → s.mem.get k = 0)

/-- An image that the ROM starts (R392): its key has the fused digest, its signature over its SHA3-512 digest checks under that key, and its
version is not below the anti-rollback counter. -/
def Device.trusts (d : Device) (image : List Byte) : Prop :=
  let digest := fun (b : List Byte) => BitVec.ofNat 512 (sha3 (packNat 8 (b.map BitVec.toNat)) b.length)
  digest (Config.publicKey image) = d.keyDigest ∧ Config.signed image (digest image) = true ∧ d.rollback.toNat ≤ (Config.version image).toNat

/-- The stage the ROM enters with an image (R392), and the running version. -/
def State.startedFrom (s : State) (image : List Byte) : Prop :=
  s.dev.stored = image ∧
    (s.dev.trusts image → s.dev.stage = 2 ∧ s.dev.fwver = Config.version image) ∧ (¬ s.dev.trusts image → s.dev.stage = 1)

/-- The mailbox buffer as an image (R393). -/
def State.buffer (s : State) : List Byte := (List.range 65536).map fun i => s.mem.get (2 ^ 56 + i)

/-- A dword of the mailbox buffer. -/
def State.bufWord (s : State) (o : Nat) : Word := BitVec.ofNat 64 (s.mem.read (2 ^ 56 + o) 8)

/-- A team has a firing in the machine. -/
def State.runs (s : State) (t : Team) : Prop := ∃ f ∈ s.firings, f.tid = t.tid ∧ f.part = t.part

/-- A team is at work: it has a firing, in the machine or saved, a copy under way, or a bank operation not yet applied. -/
def State.works (s : State) (t : Team) : Prop :=
  s.runs t ∨ t.saved ≠ 0 ∨
    (∃ (h : Fin 1024) (k : Fin 4) (c : Copy), (s.fronds[h]).chans[k] = some c ∧ c.tid = t.tid ∧ c.part = t.part ∧ c.live = true) ∨
    ∃ c : Fin 2048, ∃ r ∈ (s.cores[c]).busy, r.team = some t.id ∧ r.applied = false

/-! ## Launch (R73 to R90, R342, R343) -/

/-- The places of a record's fields that rules R76 and R77 bound, as numbers: XREGS, VREGS, TILES, ACCS, BTILES, SPAD. -/
def recDemand (r : List Word) : Nat × Nat × Nat × Nat × Nat × Nat :=
  let n := (dword r 2).toNat
  (n % 2 ^ 8, n / 2 ^ 8 % 2 ^ 8, n / 2 ^ 16 % 2 ^ 4, n / 2 ^ 20 % 2 ^ 3, n / 2 ^ 24 % 2 ^ 4, n / 2 ^ 32 % 2 ^ 13)

/-- The firings a record creates (R76). -/
def recCount (r : List Word) : Nat :=
  let n := (dword r 1).toNat
  n % 2 ^ 21 * (n / 2 ^ 21 % 2 ^ 21) * (n / 2 ^ 42 % 2 ^ 21)

/-- The conditions of codes 0x02 to 0x08 and 0x0C (R77), as the rule words them. -/
def recBroken (r : List Word) (len : Nat) : Nat → Prop
  | 0x02 => (dword r 3).toNat % 4 = 3 ∨ ((dword r 3).getLsbD 29 = true ∧ (dword r 3).toNat % 4 ≠ 0) ∨
      ((dword r 3).toNat % 4 = 1 ∧ ((recDemand r).2.2.2.1 ≠ 0 ∨ (recDemand r).2.2.2.2.1 ≠ 0))
  | 0x03 => (recDemand r).1 < 8 ∨ 64 < (recDemand r).1 ∨ (recDemand r).1 % 8 ≠ 0 ∨ 32 < (recDemand r).2.1 ∨ (recDemand r).2.1 % 4 ≠ 0
  | 0x04 => 8 < (recDemand r).2.2.1 ∨ 4 < (recDemand r).2.2.2.1 ∨ 8 < (recDemand r).2.2.2.2.1
  | 0x05 => 4096 < (recDemand r).2.2.2.2.2 ∨ ((dword r 3).getLsbD 29 = true ∧ 4096 < 2 * (recDemand r).2.2.2.2.2)
  | 0x06 => (dword r 3).toNat / 2 ^ 12 % 8 = 7 ∨ 4 < (dword r 3).toNat / 2 ^ 16 % 8
  | 0x07 => ((dword r 3).getLsbD 26 = true ∧ (dword r 3).getLsbD 27 = true) ∨
      ((dword r 3).getLsbD 28 = true ∧ ((dword r 3).getLsbD 26 = true ∨ (dword r 3).getLsbD 27 = true))
  | 0x08 => (dword r 3).getLsbD 30 = true ∧ ((dword r 3).getLsbD 29 = true ∨ (dword r 3).getLsbD 31 = true ∨
      (dword r 1).toNat % 2 ^ 63 ≠ 2 ^ 42 + 2 ^ 21 + 1)
  | 0x0C => len ≤ (dword r 3).toNat / 2 ^ 32 % 2 ^ 10
  | _ => False

/-- The team that a record begins (R76, R92): nothing placed or retired, tid from its queue and sequence number. -/
def Team.begins (t : Team) (p : Fin 16) (q : Fin 32) (seq : Nat) (r : List Word) : Prop :=
  t.tid = BitVec.ofNat 64 (q.val * 2 ^ 32 + seq) ∧ t.part = p ∧ t.queue = q.val ∧ t.recd = r ∧ t.seq = BitVec.ofNat 64 seq ∧ t.ready = false ∧
    t.placed = 0 ∧ t.retired = 0 ∧ t.phase0 = 0 ∧ t.arrived0 = 0 ∧ t.again = [] ∧ t.saved = 0 ∧ t.fireNext = 0 ∧ t.commitNext = 0

/-- A firing of a team as its trigger makes it (R73, R74): its identity, an entry address, every register 0. -/
def Firing.madeFor (g : Firing) (s : State) (t : Team) (fid : Nat) (pc : Word) : Prop :=
  g.live = true ∧ g.part = t.part ∧ g.tid = t.tid ∧ g.fid = BitVec.ofNat 64 fid ∧
    g.fcnt = (if (dword t.recd 3).getLsbD 30 then 0 else BitVec.ofNat 64 (recCount t.recd)) ∧ g.fparm = dword t.recd 9 ∧
    g.pc = pc &&& 0x1FFFFFFFFFFFFFC#64 ∧ g.prio = (dword t.recd 3).toNat / 2 ^ 4 % 8 ∧
    g.qlim = s.parts[t.part].qlimdef ∧ g.fewlim = s.parts[t.part].fewlimdef ∧ g.utvec = 0 ∧ g.frm = 0 ∧ g.fflags = 0 ∧
    (∀ b, b < 64 → g.fstat.getLsbD b = if b = 1 then s.parts[t.part].pcfg.getLsbD 0 else if b = 5 then
      ((s.parts[t.part].lq[t.queue % 32]'(Nat.mod_lt _ (by decide))).lqcfg.getLsbD 11) else false) ∧
    g.x = Vector.replicate 64 0 ∧ g.v = Vector.replicate 32 0 ∧ g.k = Vector.replicate 8 0 ∧ g.groups = [] ∧ g.wait = none ∧ g.run = .running

/-- The pools of a core hold a firing's demand beside what is resident there (R11, R90). -/
def Firing.fitsPools (g : Firing) (s : State) : Prop :=
  let here := s.firings.filter fun f => f.core == g.core
  here.length < 8 ∧ (here.map fun f => f.dem.xregs).sum + g.dem.xregs ≤ 2048 ∧ (here.map fun f => f.dem.vregs).sum + g.dem.vregs ≤ 64 ∧
    (here.map fun f => f.dem.tiles).sum + g.dem.tiles ≤ 8 ∧ (here.map fun f => f.dem.accs).sum + g.dem.accs ≤ 4 ∧
    (here.map fun f => f.dem.btiles).sum + g.dem.btiles ≤ 8 ∧
    (g.core.val % 2 = 0 → g.dem.accs = 0 ∧ g.dem.btiles = 0) ∧
    (g.dem.spad ≠ 0 → g.spbase.toNat + 256 * g.dem.spad ≤ 2 ^ 20 ∧ ∀ f ∈ s.firings, f.core.val / 2 = g.core.val / 2 → f.dem.spad ≠ 0 →
      f.spbase.toNat + 256 * f.dem.spad ≤ g.spbase.toNat ∨ g.spbase.toNat + 256 * g.dem.spad ≤ f.spbase.toNat)

/-- The dependence words of a team: their keys, where each can be reached (R85). -/
def State.depKeys (s : State) (t : Team) : List (Option Nat) :=
  (List.range ((dword t.recd 3).toNat / 2 ^ 16 % 8)).map fun i => (s.unitWord t.part (dword t.recd (4 + i)).toNat false).map Prod.snd

/-- A unit of partition p finds n bytes at a virtual address at key k, in a translation its die holds, whatever else changes. -/
def State.seenAt (s : State) (p : Fin 16) (a n k : Nat) (wr : Bool) : Prop :=
  ∀ t : State, t.dies = s.dies → t.parts = s.parts → t.unitPlace p s.parts[p].die false a n wr = some (t, k)

/-- A CHECK list at key k that every access of the launch unit finds there, in one page, with its entries (R343). -/
def State.checkListAt (s : State) (p : Fin 16) (a k : Nat) (rs : List CheckRange) : Prop :=
  1 ≤ rs.length ∧ rs.length ≤ 64 ∧ a % 4096 + 256 + 32 * rs.length ≤ 4096 ∧ s.mem.read k 8 % 128 = rs.length ∧
    (∀ o n wr, o + n ≤ 256 + 32 * rs.length → s.seenAt p (a + o) n (k + o) wr) ∧
    ∀ i r, rs[i]? = some r → r.base = s.mem.read (k + 256 + 32 * i) 8 ∧ r.len = s.mem.read (k + 264 + 32 * i) 8 % 2 ^ 48 ∧
      r.out = decide (2 ^ 63 ≤ s.mem.read (k + 264 + 32 * i) 8) ∧ r.rst = (s.mem.read (k + 264 + 32 * i) 8).testBit 62 ∧
      r.shadow = s.mem.read (k + 272 + 32 * i) 8

/-- The digests of a run, one for each block of n bytes at a key: SHA3-512 of the one before and the block (R336, R343). -/
def blockDigests (m : Mem) : List (Nat × Nat) → Nat → List Nat
  | [], _ => []
  | (k, n) :: bs, d => sha3 (d + m.read k n * 2 ^ 512) (64 + n) :: blockDigests m bs (sha3 (d + m.read k n * 2 ^ 512) (64 + n))

/-! ## Messages, waits and reports (R81, R97, R98, R149, R150, R177 to R180, R198, R199, R401) -/

/-- A firing that has entered its handler from f, for a trap with tcause and tval (R197). -/
def Firing.handles (g f : Firing) (tc val : Word) : Prop :=
  g.tcause = tc ∧ g.tval = val ∧ g.tpc = f.pc ∧ g.tstat = f.fstat ∧ g.pc = f.utvec &&& ~~~3#64 ∧ g.wait = none ∧ g.fstat.getLsbD 4 = true ∧
    g.fstat.getLsbD 0 = false ∧ g.fstat.getLsbD 23 = false ∧ g.x = f.x ∧ g.v = f.v ∧ g.k = f.k ∧ g.run = f.run

/-- A firing that takes a user-delivered trap in its own handler: live, running, in no gang, with a handler and none running (R193). -/
def State.canHandle (s : State) (f : Firing) : Prop :=
  s.firing? f.adm = some f ∧ f.live = true ∧ f.utvec ≠ 0 ∧ f.fstat.getLsbD 4 = false ∧ (∀ g ∈ s.gangs, f.adm ∉ g.members) ∧
    (s.firings.map Firing.adm).Nodup

/-- The order-log and arrival bookkeeping apart, a message that no order log knows (R338). -/
def Message.unlogged (m : Message) : Prop := m.team = none

/-- Entry table words of a message at its partition (R81). -/
def State.entryOf (s : State) (p : Fin 16) (m : Message) : Option (List Word) :=
  (s.unitRead p ⟨m.core / 512 % 4, by omega⟩ (s.parts[p].etbase.toNat + 32 * (m.header.toNat % 256)) 32).map fun x =>
    (List.range 4).map fun i => BitVec.ofNat 64 (x.2 / 2 ^ (64 * i))

/-- What R81 asks of an entry's second word, on a stage core or not. -/
def entryKeeps (w : Word) (stage : Bool) : Prop :=
  let n := w.toNat
  16 ≤ n % 2 ^ 8 ∧ n % 2 ^ 8 ≤ 64 ∧ n % 8 = 0 ∧ n / 2 ^ 8 % 2 ^ 8 ≤ 32 ∧ n / 2 ^ 8 % 4 = 0 ∧ n / 2 ^ 16 % 2 ^ 4 ≤ 8 ∧ n / 2 ^ 20 % 2 ^ 3 ≤ 4 ∧
    n / 2 ^ 24 % 2 ^ 4 ≤ 8 ∧ n / 2 ^ 32 % 2 ^ 13 ≤ 4096 ∧ w.getLsbD 31 = false ∧ w.getLsbD 23 = false ∧ n / 2 ^ 45 = 0 ∧
    (stage = true → n / 2 ^ 20 % 2 ^ 3 = 0 ∧ n / 2 ^ 24 % 2 ^ 4 = 0)

/-- A record at the tail of a partition's trap ring (R198, R374). -/
def State.ringHas (v s : State) (p : Fin 16) (recd : List Word) : Prop :=
  let q := s.parts[p]
  let slot := q.trbase.toNat + 64 * (q.trtail.toNat % 2 ^ 32 % 2 ^ q.trlog2.toNat)
  v.parts[p].trtail = BitVec.ofNat 64 ((q.trtail.toNat % 2 ^ 32 + 1) % 2 ^ 32) ∧ v.parts[p].trhead = q.trhead ∧
    (∀ i w, recd[i]? = some w → v.mem.read (slot + 8 * i) 8 = w.toNat) ∧
    ∀ k, (k < slot ∨ slot + 8 * recd.length ≤ k) → v.mem.get k = s.mem.get k

/-- A partition's ring has a free slot and no record waits for one. -/
def Part.ringFree (x : Part) : Prop := x.ringFull = false ∧ x.errs = [] ∧ x.machs = []

/-! ## The supervisor's actions and pre-emption (R198, R201 to R206) -/

/-- A completion or status word of partition p in package shared memory, at key k, on which nothing waits. -/
def State.wordPlace (s : State) (p : Fin 16) (a : Word) (k : Nat) : Prop :=
  ∃ o, a.toNat = 0x1FF2 * 2 ^ 44 + o ∧ o < 2 ^ 29 ∧ o % 8 = 0 ∧ s.shmOk p o 8 = true ∧ k = shmKey o ∧ ∀ w ∈ s.retry, homeUnit w.key ≠ homeUnit k

/-- A status word (R204), its CLK apart. -/
def State.statusAt (v : State) (k nfir esc missed action result : Nat) : Prop :=
  v.mem.read k 4 = nfir % 2 ^ 20 * 2 ^ 12 + esc * 2 ^ 11 + missed * 2 ^ 10 + action * 2 ^ 8 + result ∧ v.isFull k = true

/-- A firing stopped for the supervisor whose record has sequence number n, the only one of its partition (R198). -/
def State.stoppedOnly (s : State) (f : Firing) (n : Nat) : Prop :=
  (∃ r, f.run = .stopped (some n) r) ∧ s.firing? f.adm = some f ∧ f.live = true ∧ (s.firings.map Firing.adm).Nodup ∧
    ∀ g ∈ s.firings, g.part = f.part → (∃ r, g.run = .stopped (some n) r) → g = f

/-- A team whose placement a resume lets go on (R205). -/
def State.goesOn (s : State) (p : Fin 16) (t : Team) : State :=
  (s.onTeam t.id fun t => { t with draining := false }).push .firingPlace p.val 0 0 0

/-- Nothing but its registers binds the firing to the machine: no engine operation, group, pair, gang, claim, message or wait, and no tile of
its core is tagged. -/
def State.unbound (s : State) (f : Firing) : Prop :=
  f.msg = none ∧ f.granted = false ∧ f.data = [] ∧ f.pends = [] ∧ f.wait = none ∧ f.groups = [] ∧ f.arrived = none ∧ f.pairset = none ∧
    (∀ g ∈ s.gangs, f.adm ∉ g.members) ∧ s.cores[f.core].mmas = [] ∧ s.cores[f.core].busy = [] ∧ s.cores[f.core].lazyTiles = [] ∧
    (∀ c : Fin 4, s.fronds[f.frond].chans[c] = none) ∧ s.fronds[f.frond].sorus.holder ≠ some f.adm ∧ f.reports = []

/-- Every dword from a on for n bytes lies in home memory of partition p, at the same distance d, and its translation leaves the machine as
it is. -/
def State.regionAt (s : State) (p : Fin 16) (a n k : Nat) : Prop :=
  ∀ i, 8 * i < n → s.unitPlace p s.parts[p].die false (a + 8 * i) 8 true = some (s, k + 8 * i)

/-- The context of a firing at key k (R206): identity, address, status, registers. -/
def State.contextAt (v : State) (f : Firing) (k : Nat) : Prop :=
  let w := fun o => BitVec.ofNat 64 (v.mem.read (k + o) 8)
  w 0x08 = f.tid ∧ w 0x10 = f.fid ∧ (w 0x18).toNat % 2 ^ 11 = f.core.val ∧ w 0x20 = f.pc ∧ w 0x28 = f.fstat ∧
    (f.fstat.getLsbD 0 = true → (w 0x30).toNat / 2 ^ 32 = f.pfx.toNat) ∧ (f.fstat.getLsbD 23 = true → (w 0x30).toNat % 2 ^ 32 = f.repw.toNat ∧
      w 0x38 = f.repf) ∧
    w 0x40 = f.fflags ∧ w 0x48 = f.frm ∧ w 0x50 = f.srix ∧ w 0x58 = f.utvec ∧ w 0x60 = f.tcause ∧ w 0x68 = f.tval ∧ w 0x70 = f.tpc ∧
    w 0x78 = f.tstat ∧ w 0x80 = f.trepw ∧ w 0x88 = f.trepf ∧ w 0x90 = f.tfmt ∧ w 0x98 = f.qlim ∧ w 0xA0 = f.fewlim ∧ w 0xA8 = f.seedlo ∧
    w 0xB0 = f.seedhi ∧ w 0xB8 = f.sstream ∧ (∀ i : Fin 8, w (0xC0 + 8 * i.val) = f.tshape[i]) ∧ (∀ i : Fin 4, w (0x100 + 8 * i.val) = f.accf[i]) ∧
    (∀ i : Fin 8, w (0x120 + 8 * i.val) = f.cr[i]) ∧
    (∀ i : Fin 64, i.val < f.dem.xregs → w (0x500 + 8 * i.val) = f.rx (BitVec.ofNat 6 i.val)) ∧
    ∀ (i : Fin 32) (j : Fin 32), i.val < f.dem.vregs →
      w (0x500 + 8 * f.dem.xregs + 256 * i.val + 8 * j.val) = (f.v[i]).extractLsb' (64 * j.val) 64

/-! ## Answers, requests of other packages, banks (R143, R160 to R162, R181, R219, R223 to R227, R389) -/

/-- The event at hand is about the one outstanding access q of firing f, which waits for nothing else (R226). -/
def State.awaits (s : State) (f : Firing) (q : Pend) : Prop :=
  s.firing? f.adm = some f ∧ (s.firings.map Firing.adm).Nodup ∧ s.ev.a = f.adm ∧ s.ev.b = q.pkg ∧ s.ev.c = q.seq ∧ f.pends = [q] ∧
    f.late = none ∧ f.data = [] ∧ ∀ r ∈ (s.cores[f.core]).busy, r.peer = none ∨ r.adm ≠ f.adm

/-- No stream header of a placed actor meets n bytes of memory at a key (R83). -/
def State.noHeader (s : State) (k n : Nat) : Prop := ∀ h ∈ s.headers, k + n ≤ h ∨ h + 64 ≤ k

/-- The low n bytes of a word, sign-extended or not. -/
def extended (sg : Bool) (n : Nat) (w : Word) : Word :=
  if sg then (w.setWidth (8 * n)).signExtend 64 else (w.setWidth (8 * n)).setWidth 64

/-- The firing g that f is after its last answer, with registers as h has them: the next instruction is next (R226). -/
def State.resumes (v s : State) (f h : Firing) : Prop :=
  v.firing? f.adm = some { h with pends := [] }.advance ∧ v.mem = s.mem ∧ v.full = s.full ∧ v.sent = s.sent ∧ v.cores = s.cores ∧
    (∀ n, n ≠ f.adm → v.firing? n = s.firing? n) ∧
    ∀ h : Fin 1024, v.fronds[h].locks = if h = f.frond then s.fronds[h].locks.filter fun l => l.own != .gather f.adm 0 else s.fronds[h].locks

/-- A stream's one request in the reorder buffer, in shared memory at offset o of its partition, is the next in sequence (R224). -/
def State.hasNext (s : State) (r : InReq) (p : Fin 16) : Prop :=
  s.ev.a = r.stream ∧ s.inreqs = [r] ∧ r.again = false ∧ r.part = p.val ∧ r.seq < 2 ^ 24 ∧
    ((s.expect.find? fun x => x.1 == r.stream) = some (r.stream, r.seq) ∨ ((s.expect.find? fun x => x.1 == r.stream) = none ∧ r.seq = 0))

/-- A request was taken from the buffer and answered, or left without an answer for now. -/
def State.answers (v s : State) (r : InReq) (a : Option (Nat × Word × Nat)) : Prop :=
  v.inreqs = [] ∧ (v.expect.find? fun x => x.1 == r.stream) = some (r.stream, (r.seq + 1) % 2 ^ 24) ∧ v.fir = s.fir ∧ v.others = s.others ∧
    v.sent = s.sent ++ (match a with
      | some (code, w, fl) => [.answer r.pkg r.stream r.seq code w fl]
      | none => [])

/-! ## Copies (R183, R185, R186, R190) -/

/-- The event at hand names channel ch of frond h, whose copy c belongs to firing f. -/
def State.copies (s : State) (h : Fin 1024) (ch : Fin 4) (c : Copy) (f : Firing) : Prop :=
  s.ev.a = h.val ∧ s.ev.b = ch.val ∧ s.fronds[h].chans[ch] = some c ∧ c.live = true ∧ c.id < 2 ^ 16 ∧ s.firing? c.adm = some f ∧ f.frond = h ∧
    (s.firings.map Firing.adm).Nodup

/-- n bytes at an exact address are at a place near the acting firing, whatever its frond's channels and paths and the notes of home writes hold. -/
def State.bytesAt (t : State) (ac : Acc) (a : Int) (n : Nat) (pl : Place) : Prop :=
  0 ≤ a ∧ a < 2 ^ 57 ∧ t.near ac.wr n pl = true ∧ ∀ cs ls ps lt,
    let y : State := { t with late := lt }
    let x := (y.onFrond t.fir.frond fun z => { z with chans := cs, locks := ls }).upd fun f => { f with paths := ps }
    x.resolve ac a.toNat n = .ok (x, pl)

/-- A frond after one more sector of a copy: n bytes done, the locked destination that much shorter (R190). -/
def Frond.sectorMade (x y : Frond) (ch : Fin 4) (c : Copy) (h : Fin 1024) (n : Nat) : Prop :=
  x.chans[ch] = some { c with bytes := n, phase := 0, buf := [], pends := [] } ∧ (∀ k : Fin 4, k ≠ ch → x.chans[k] = y.chans[k]) ∧
    x.locks = y.locks.map fun l => if l.dst ∧ l.own = .copy c.id then { l with lo := lockAddr h (c.cr[1]).toNat + n } else l

/-- A copy that ends: its word pushed to q12 or lost, its channel and range-lock entries free (R186, R190). -/
def State.copyEnds (v s : State) (h : Fin 1024) (ch : Fin 4) (c : Copy) (f : Firing) (code : Nat) : Prop :=
  let w : Word := BitVec.ofNat 64 ((c.bytes + 127) / 128 % 2 ^ 24 * 2 ^ 24 + code * 2 ^ 16 + c.id)
  v.fronds[h].chans[ch] = none ∧ (∀ k : Fin 4, k ≠ ch → v.fronds[h].chans[k] = s.fronds[h].chans[k]) ∧
    v.fronds[h].locks = (s.fronds[h].locks.filter fun l => l.own != .copy c.id) ∧ v.mem = s.mem ∧ v.full = s.full ∧
    ∃ g, v.firing? c.adm = some g ∧ g.pc = f.pc ∧ g.x = f.x ∧ g.fstat = f.fstat ∧
      g.q12 = (if c.cr[7].getLsbD 61 = false ∧ f.q12.length < 16 then f.q12 ++ [w] else f.q12) ∧
      g.q12lost = (f.q12lost || (!c.cr[7].getLsbD 61 && decide (16 ≤ f.q12.length)))

end Sys2Proof.Machine
end

