-- ==== Sys2Proof/Certificates/Slice0/Obligations.lean ====
section
/-! DEFINITION. The statements for the provers. -/

open Sys2Proof Sys2Proof.Machine

/-- R124 to R129, R137: an integer instruction that issues writes its rule's result to its destination and nothing else, and ends at the
next instruction. It completes for every operand. R129: MOVX reads or writes the register its index names; an index outside the allocation
takes REGRANGE with the signed index. -/
def Obligations.IntegerInstructions : Prop :=
  (∀ (s : State) (i : Instr) (d : BitVec 6) (v : Word), s.Issues i → intResult s.fir i = some (d, v) →
    exec i s = .next ((s.wx d v).upd Firing.advance)) ∧
  (∀ (s : State) (d a b : BitVec 6) (n : BitVec 10),
    (s.Issues (.movxRead d a n) →
      exec (.movxRead d a n) s = match movxTarget s.fir a n with
        | some r => .next ((s.wx d (s.fir.rx r)).upd Firing.advance)
        | none => .next (s.trapHere { c := .regrange, sub := 0, val := BitVec.ofInt 64 ((s.fir.rx a).toInt + n.toInt) })) ∧
    (s.Issues (.movxWrite a n b) →
      exec (.movxWrite a n b) s = match movxTarget s.fir a n with
        | some r => .next ((s.wx r (s.fir.rx b)).upd Firing.advance)
        | none => .next (s.trapHere { c := .regrange, sub := 0, val := BitVec.ofInt 64 ((s.fir.rx a).toInt + n.toInt) })))

/-- R123, R131 to R136: a float instruction writes its result zero-extended and ORs its flags into fflags; FSGNJ and its two kin move one
bit and raise no flag. -/
def Obligations.FloatResults : Prop :=
  ∀ (s : State) (i : Instr), s.Issues i →
    (∀ d v fl, floatResult s.fir i = some (d, v, fl) →
      exec i s = .next (((s.wx d (BitVec.ofNat 64 v)).upd fun f => f.orFlags (BitVec.ofNat 64 fl)).upd Firing.advance)) ∧
    (∀ d v, signResult s.fir i = some (d, v) → exec i s = .next ((s.wx d v).upd Firing.advance))

/-- R54: a finite value of a format, rounded in any mode, is delivered as its own pattern and raises no flag. R54: under RNE no finite
value of the format lies nearer to the exact value than the one delivered, unless the result overflowed. -/
def Obligations.Rounding : Prop :=
  (∀ (F : Fmt) (mode : Mode) (sat neg : Bool) (w m draw : Nat) (e : Int), F ∈ [f64, f32, bf16, f16, e4m3 false, e4m3 true, e5m2 false, e5m2 true, e2m1] →
    w < 2 ^ F.width → F.value w = .fin neg m e → roundTo F mode sat neg m e false draw = (w, 0)) ∧
  (∀ (F : Fmt) (sat neg : Bool) (m w fl : Nat) (e : Int), F ∈ [f64, f32, bf16, f16, e4m3 false, e4m3 true, e5m2 false, e5m2 true, e2m1] →
    roundTo F .rne sat neg m e false 0 = (w, fl) → fl &&& fOF = 0 →
    ∃ x, realOf (F.value w) = some x ∧
      ∀ v y, realOf (F.value v) = some y → |x - realFin neg m e| ≤ |y - realFin neg m e|)

/-- R7: x0 reads 0 and k0 reads all ones in every state, whatever is written to them; another register reads what was last written to it,
and a write to one leaves the rest as they were. The frame of the scalar instructions (R123): after an integer or float instruction has
completed, every scalar register but its destination, every other register, accumulator and special register but fflags, every flag bit
that was set, and every byte of memory are as before. -/
def Obligations.ScalarFrame : Prop :=
  (∀ (f : Firing) (n r : BitVec 6) (p q : BitVec 3) (v : Word),
    (f.wx n v).rx r = (if r = 0 then 0 else if r = n then v else f.rx r) ∧
    (f.wk p v).rk q = (if q = 0 then BitVec.allOnes 64 else if q = p then v else f.rk q) ∧
    f.wx 0 v = f ∧ f.wk 0 v = f) ∧
  (∀ (s t : State) (i : Instr) (d : BitVec 6), s.Issues i → scalarDest s.fir i = some d → exec i s = .next t → t.traps = s.traps →
    (∀ r, r ≠ d → t.rx r = s.rx r) ∧ t.fir.sameBeside s.fir ∧ t.fir.fflags ||| s.fir.fflags = t.fir.fflags ∧
    ((∃ v, intResult s.fir i = some v) ∨ (∃ v, signResult s.fir i = some v) → t.fir.fflags = s.fir.fflags) ∧
    (∀ a, t.mem.get a = s.mem.get a) ∧ t = { s with fir := t.fir })

/-- R99, R100: a conditional branch goes to its own address plus its distance when its condition holds on the registers of the firing
whose stream it is, and to the next instruction otherwise; it changes nothing else. R101 to R103: JAL and JALR leave the address after
them in their destination and go to their target; JALR to a target past the address space or no multiple of 4 takes ALIGN with the target
and writes nothing. LOOPN counts down and branches while the count is not 0. A branch or JAL target is taken modulo 2^57, which is the
model's reading (log 11). -/
def Obligations.ControlTransfers : Prop :=
  (∀ (s : State) (i : Instr) (taken : Bool) (off : Int), s.Issues i → branchTaken s.lead i = some (taken, off) →
    exec i s = .next (s.upd fun f => if taken then f.goTo (pcTo s.fir.pc off) else f.advance)) ∧
  (∀ (s : State) (d a : BitVec 6) (o : BitVec 19) (n : BitVec 13) (l : BitVec 18),
    (s.Issues (.jal d o) →
      exec (.jal d o) s = .next ((s.wx d (s.fir.pc + 4)).upd fun f => f.goTo (pcTo s.fir.pc o.toInt))) ∧
    (s.Issues (.jalr d a n) →
      let t := s.lead.rx a + n.signExtend 64
      exec (.jalr d a n) s =
        if t.toNat < 2 ^ 57 ∧ t.toNat % 4 = 0 then .next ((s.wx d (s.fir.pc + 4)).upd fun f => f.goTo t)
        else .next (s.trapHere { c := .align, sub := 0, val := t })) ∧
    (s.Issues (.loopn a l) →
      exec (.loopn a l) s = .next ((s.wx a (s.rx a - 1)).upd fun f =>
        if s.lead.rx a = 1 then f.advance else f.goTo (pcTo s.fir.pc l.toInt))))

/-- R29, R36, R104, R105: REP opens a frame at pass 0, position 0 whose first captured instruction is the next one; an instruction that
completes in a frame goes to the next position, from the last position to the next pass, and from the last pass out of the frame. A word
that may not be captured, met on pass 0, a mask bit that names an operand the instruction does not have, and operands moved onto each
other take ILL with the word as it lies in memory and cancel the frame; a moved number outside the allocation takes REGRANGE with the
signed number. That an address inside a frame is taken modulo 2^57 is the model's reading (log 11). -/
def Obligations.RepFrames : Prop :=
  (∀ (s : State) (l : BitVec 4) (c : BitVec 6) (m st : BitVec 4), s.Issues (.rep l c m st) →
    ∃ t, exec (.rep l c m st) s = .next t ∧ t = { s with fir := t.fir } ∧ t.fir.pc = s.fir.pc + 4 ∧ t.fir.repf = s.fir.pc + 4 ∧
      t.fir.repact = true ∧ t.fir.repi = 0 ∧ t.fir.repj = 0 ∧ t.fir.repw = encode (.rep l c m st) ∧ t.fir.x = s.fir.x ∧
      (∀ b, b < 13 ∨ 23 < b → t.fir.fstat.getLsbD b = s.fir.fstat.getLsbD b)) ∧
  (∀ f : Firing, f.repact = true →
    let past := fun (n : Nat) => BitVec.ofNat 64 ((f.repf.toNat + 4 * n) % 2 ^ 57)
    (f.repi < (f.repw.extractLsb' 28 4).toNat → f.advance.pc = past (f.repi + 1) ∧ f.advance.repi = f.repi + 1 ∧
      f.advance.repj = f.repj ∧ f.advance.repact = true) ∧
    (f.repi = (f.repw.extractLsb' 28 4).toNat → f.repj < (f.repw.extractLsb' 22 6).toNat → f.advance.pc = f.repf ∧ f.advance.repi = 0 ∧
      f.advance.repj = f.repj + 1 ∧ f.advance.repact = true) ∧
    (f.repi = (f.repw.extractLsb' 28 4).toNat → f.repj = (f.repw.extractLsb' 22 6).toNat →
      f.advance.pc = past (f.repi + 1) ∧ f.advance.repact = false)) ∧
  (∀ f : Firing, f.repact = false → f.advance.pc = f.pc + 4 ∧ f.advance.fstat = f.fstat) ∧
  (∀ (s : State) (w : BitVec 32), s.fir.repact = true →
    let mask := s.fir.repw.extractLsb' 18 4
    let delta : Int := s.fir.repj * (s.fir.repw.extractLsb' 14 4).toInt
    let cancelled := s.frameless.trapsWord .ill w
    (s.fir.repj = 0 → w.extractLsb' 0 7 ∉ captureMajors → s.runWord w = cancelled) ∧
    ∀ i, decode w = .ok i → (s.fir.repj = 0 → w.extractLsb' 0 7 ∈ captureMajors) →
      let ms := moved mask delta (opsOf i)
      (asksAbsent mask (opsOf i) ∨ movedApart i ms = false → s.runWord w = cancelled) ∧
      (¬ asksAbsent mask (opsOf i) → movedApart i ms = true →
        (legal i = false ∨ (s.fir.fpend = true ∧ takesPrefix i = false) ∨ stageIll s.fir (opsOf i) = true →
          s.runWord w = s.trapsWord .ill w) ∧
        (legal i = true → (s.fir.fpend = false ∨ takesPrefix i = true) → stageIll s.fir (opsOf i) = false →
          ∀ n, s.fir.movedOutside ms = some n →
            s.runWord w = .next (s.trapHere { c := .regrange, sub := 0, val := BitVec.ofInt 64 n })))) ∧
  (∀ s : State, s.frameless.fir.repact = false ∧ s.frameless.fir.repi = 0 ∧ s.frameless.fir.repj = 0) ∧
  (∀ (f : Firing) (o : Opnd) (n : Int) (ms : List (Opnd × Int)), f.movedOutside [] = none ∧
    (n < 0 ∨ (f.limit o.kind : Int) ≤ n → f.movedOutside ((o, n) :: ms) = some n) ∧
    (0 ≤ n → n + o.len ≤ (f.limit o.kind : Int) → 0 < o.len → f.movedOutside ((o, n) :: ms) = f.movedOutside ms))

/-- R210: a CSR instruction delivers the old value and writes the new one; from a team firing a supervisor CSR takes PRIV with the word.
R56, R191, R196, R210 to R212: a CSR that is written holds the bits its fields keep; every other CSR, every register, and memory are as
before. R209, R210: in a team firing HALT and a supervisor CSR take PRIV with the word as tval. In a supervisor firing a supervisor CSR
delivers a value that is free, for the spec gives these registers no contents, and a write to one changes nothing. That a supervisor CSR
reads a free value and drops a write is the model's choice (log 6). -/
def Obligations.SpecialRegisters : Prop :=
  (∀ (s : State) (d a : BitVec 6) (c : BitVec 11) (old : Word), csrValue s c.toNat = some old →
    (s.Issues (.csrw d c a) →
      exec (.csrw d c a) s = .next (((s.csrWrite c (s.rx a)).wx d old).upd Firing.advance)) ∧
    (s.Issues (.csrs d c a) →
      exec (.csrs d c a) s = .next (((if a = 0 then s else s.csrWrite c (old ||| s.rx a)).wx d old).upd Firing.advance)) ∧
    (s.Issues (.csrc d c a) →
      exec (.csrc d c a) s = .next (((if a = 0 then s else s.csrWrite c (old &&& ~~~s.rx a)).wx d old).upd Firing.advance))) ∧
  (∀ (s : State) (c : BitVec 11) (old v : Word), csrValue s c.toNat = some old →
    csrValue (s.csrWrite c v) c.toNat = some (csrKeeps c.toNat old v) ∧
    (∀ n, n ≠ c.toNat → csrValue (s.csrWrite c v) n = csrValue s n) ∧
    (s.csrWrite c v).fir.sameBesideCsrs s.fir ∧ (s.csrWrite c v).mem = s.mem) ∧
  ((∀ (s : State) (d a : BitVec 6) (c : BitVec 11), s.fir.sup = true → 0x400 ≤ c.toNat →
    let done := (({ s with free := s.free + 1 }).wx d (Config.dword s.free)).upd Firing.advance
    (s.Issues (.csrw d c a) → exec (.csrw d c a) s = .next done) ∧ (s.Issues (.csrs d c a) → exec (.csrs d c a) s = .next done) ∧
    (s.Issues (.csrc d c a) → exec (.csrc d c a) s = .next done)) ∧
  ∀ (s : State) (d a : BitVec 6) (c : BitVec 11), s.fir.sup = false →
    (s.Issues .halt → exec .halt s = .next (s.trapHere { c := .priv, sub := 0, val := BitVec.setWidth 64 (encode .halt) })) ∧
    (0x400 ≤ c.toNat →
      (s.Issues (.csrw d c a) → exec (.csrw d c a) s =
        .next (s.trapHere { c := .priv, sub := 0, val := BitVec.setWidth 64 (encode (.csrw d c a)) })) ∧
      (s.Issues (.csrs d c a) → exec (.csrs d c a) s =
        .next (s.trapHere { c := .priv, sub := 0, val := BitVec.setWidth 64 (encode (.csrs d c a)) })) ∧
      (s.Issues (.csrc d c a) → exec (.csrc d c a) s =
        .next (s.trapHere { c := .priv, sub := 0, val := BitVec.setWidth 64 (encode (.csrc d c a)) }))))

/-- R193, R197: a user trap in a firing with a handler saves cause, value, address and status, the frame and the prefix, clears the frame
and FPEND, sets INTRAP, and goes to utvec; scalars, vectors, masks, tiles, accumulators, bit tiles and memory are as before. R193, R198: a
trap the supervisor takes, a trap with no handler and a trap in a handler stop the firing with its record in the ring of its partition, at
the tail, in eight dwords: team, firing, whether it was in its handler with its core and its cause, value, address, status, and two of
zeros. The trap CSRs change unless the firing was in its handler. While the ring is full, or holds records back, this one is kept. -/
def Obligations.TrapEntry : Prop :=
  (∀ (s : State) (t : Trap) (pc : Word), t.c.user = true → s.fir.utvec ≠ 0 → s.fir.intrap = false → t.sub < 256 →
    let u := s.takeTrap false false t pc
    u.fir.tcause = BitVec.ofNat 64 (t.sub * 256 + t.c.code) ∧ u.fir.tval = t.val ∧ u.fir.tpc = pc ∧ u.fir.tstat = s.fir.fstat ∧
    u.fir.trepw = (if s.fir.repact then s.fir.repw.setWidth 64 else 0) ∧ u.fir.trepf = (if s.fir.repact then s.fir.repf else 0) ∧
    u.fir.tfmt = (if s.fir.fpend then s.fir.pfx.setWidth 64 else 0) ∧
    u.fir.fpend = false ∧ u.fir.intrap = true ∧ u.fir.repact = false ∧ u.fir.topx = s.fir.topx ∧ u.fir.sup = s.fir.sup ∧
    u.fir.pc = s.fir.utvec &&& ~~~3#64 ∧ u.fir.x = s.fir.x ∧ u.fir.v = s.fir.v ∧ u.fir.k = s.fir.k ∧ u.fir.fflags = s.fir.fflags ∧
    u.fir.m = s.fir.m ∧ u.fir.acc = s.fir.acc ∧ u.fir.accf = s.fir.accf ∧ u.fir.b = s.fir.b ∧
    u.mem = s.mem ∧ u.traps = s.traps + 1) ∧
  (∀ (s : State) (t : Trap) (pc : Word), (t.c.user = false ∨ s.fir.utvec = 0 ∨ s.fir.intrap = true) → t.sub < 256 →
    let u := s.takeTrap false false t pc
    let cause := t.sub * 256 + t.c.code
    let recd : List Word := [s.fir.tid, s.fir.fid, BitVec.ofNat 64 ((if s.fir.intrap then 2 ^ 63 else 0) + s.fir.core.val * 2 ^ 16 + cause),
      t.val, pc, s.fir.fstat, 0, 0]
    u.fir.pc = pc ∧ u.fir.x = s.fir.x ∧ u.fir.fstat = s.fir.fstat ∧ u.fir.active = false ∧
    (s.fir.intrap = false → u.fir.tcause = BitVec.ofNat 64 cause ∧ u.fir.tval = t.val ∧ u.fir.tpc = pc) ∧
    (s.fir.intrap = true → u.fir.tcause = s.fir.tcause ∧ u.fir.tval = s.fir.tval ∧ u.fir.tpc = s.fir.tpc) ∧
    (s.part.ringFull = false → s.part.held = [] →
      u.fir.run = .stopped (some (s.part.trtail.toNat % 2 ^ 32)) recd ∧
      u.mem = writeDwords s.mem (s.part.trbase.toNat + 64 * (s.part.trtail.toNat % 2 ^ 32 % 2 ^ s.part.trlog2.toNat)) recd ∧
      u.part.trtail.toNat = (s.part.trtail.toNat + 1) % 2 ^ 32) ∧
    (s.part.ringFull = true ∨ s.part.held ≠ [] → u.fir.run = .stopped none recd ∧ u.mem = s.mem))

/-- R208: TRAP takes SWTRAP with its operand as tval and the address of the next instruction as tpc. R208: TRET in a handler goes back to
tpc with INTRAP clear and FPEND, TOPX and the frame as tstat holds them; outside a handler, with a prefix pending, or with a place past
its frame in tstat it takes ILL, which the supervisor takes. R38, R208, R209: HINT changes nothing but the address; HALT in the supervisor
stops the firing at the next instruction with a record of SWTRAP and subcode 0xFF. The record's value and address at HALT are the model's
reading (log 25). -/
def Obligations.TrapInstructions : Prop :=
  (∀ (s : State) (a : BitVec 6), s.Issues (.trap a) →
    exec (.trap a) s = .next ((s.upd Firing.advance).takeTrap false false { c := .swtrap, sub := 0, val := s.rx a } s.fir.advance.pc)) ∧
  (∀ s : State, s.fir.active = true →
    let past := s.fir.tstat.getLsbD 23 = true ∧
      (bits s.fir.trepw 27 22 < bits s.fir.tstat 18 13 ∨ bits s.fir.trepw 31 28 < bits s.fir.tstat 22 19)
    (s.fir.fpend = false → s.fir.intrap = true → ¬ past → ∃ t, exec .tret s = .next t ∧ t = { s with fir := t.fir } ∧
      t.fir.pc = s.fir.tpc &&& ~~~3#64 ∧ t.fir.intrap = false ∧ t.fir.fpend = s.fir.tstat.getLsbD 0 ∧ t.fir.topx = s.fir.tstat.getLsbD 1 ∧
      t.fir.repact = s.fir.tstat.getLsbD 23 ∧ (t.fir.repi = bits s.fir.tstat 22 19 ∧ t.fir.repj = bits s.fir.tstat 18 13) ∧
      t.fir.repw = s.fir.trepw.setWidth 32 ∧ t.fir.repf = s.fir.trepf &&& 0x01FFFFFFFFFFFFFC#64 ∧ t.fir.pfx = s.fir.tfmt.setWidth 32 ∧
      t.fir.x = s.fir.x ∧ t.fir.fflags = s.fir.fflags ∧ t.fir.sup = s.fir.sup) ∧
    (s.fir.intrap = false ∨ s.fir.fpend = true ∨ past →
      exec .tret s = .next (s.deliver false (BitVec.ofNat 64 1) (BitVec.setWidth 64 (encode .tret)) s.fir.pc))) ∧
  (∀ s : State,
    (∀ h, s.Issues (.hint h) → exec (.hint h) s = .next (s.upd Firing.advance)) ∧
    (s.Issues .halt → s.fir.sup = true → ∃ t, exec .halt s = .next t ∧ t.fir.active = false ∧ t.fir.pc = s.fir.pc + 4 ∧
      t.fir.x = s.fir.x ∧ t.traps = s.traps + 1 ∧
      (s.part.ringFull = false → s.part.held = [] → t.fir.run = .stopped (some (s.part.trtail.toNat % 2 ^ 32))
        [s.fir.tid, s.fir.fid, BitVec.ofNat 64 ((if s.fir.intrap then 2 ^ 63 else 0) + s.fir.core.val * 2 ^ 16 + 0xFF11), 0, s.fir.pc + 4,
          s.fir.fstat, 0, 0])))

/-- R31, R33, R34, R39, R194: of every instruction that has a word: ILL with the word comes first, whether its word breaks a rule, a
prefix is pending that it does not take or one is missing or does not suit it, its core has not the register or the queue, or its gang
forbids it; then PRIV with the word; then REGRANGE with the first register number outside the allocation, in field order. A word that is
no instruction takes ILL. Of queues: to push q12, q13 or q15, on the stage core to pop q0 to q3 or push q4 to q7, and on the compute core
to push q0 to q3 or pop q4 to q7 is ILL; on q8 to q11 no core meets ILL, and a VQPUT with room pushes and a VQGET of an entry pops on
either. TRET, whose ILL the supervisor takes, has its own statement. -/
def Obligations.IllAndRegrange : Prop :=
  (∀ (s : State) (i : Instr), s.fir.active = true → encode i ≠ 0#32 → i ≠ .tret →
    (s.illFor i → exec i s = s.trapsWord .ill (encode i)) ∧
    (¬ s.illFor i → s.privFor i → exec i s = s.trapsWord .priv (encode i)) ∧
    (¬ s.illFor i → ¬ s.privFor i → ∀ n, s.fir.outside (opsOf i) = some n →
      exec i s = .next (s.trapHere { c := .regrange, sub := 0, val := BitVec.ofNat 64 n })) ∧
    (∀ n, pushesTo i = some n → n ∈ [12#4, 13#4, 15#4] → exec i s = s.trapsWord .ill (encode i)) ∧
    (∀ n, popsOf i = some n ∧ (s.fir.stage = true ∧ n < 4#4 ∨ s.fir.stage = false ∧ 4#4 ≤ n ∧ n < 8#4) ∨
        pushesTo i = some n ∧ (s.fir.stage = false ∧ n < 4#4 ∨ s.fir.stage = true ∧ 4#4 ≤ n ∧ n < 8#4) →
      exec i s = s.trapsWord .ill (encode i)) ∧
    (∀ n, popsOf i = some n ∨ pushesTo i = some n → 8#4 ≤ n → n < 12#4 → legal i = true → s.fir.fpend = false → ¬ s.illFor i) ∧
    (∀ x n z es, i = .vqget x n → 8#4 ≤ n → n < 12#4 → s.Issues i → s.queueView n.toNat = some (.vec z :: es) →
      ∃ v, exec i s = .next v ∧ v.queueView n.toNat = some es ∧ v.fir = (s.fir.wv x z).advance) ∧
    (∀ n y g, i = .vqput n y → 8#4 ≤ n → n < 12#4 → s.Issues i → s.linked n.toNat = some g → s.quietOrder →
      let dir := (n.toNat - 6) % 4
      (s.fronds[g].incoming dir).length < 4 → ∃ v, exec i s = .next v ∧
        v.fronds[g].incoming dir = s.fronds[g].incoming dir ++ [s.fir.rv y] ∧ v.fir = s.fir.advance)) ∧
  (∀ (f : Firing) (o : Opnd) (os : List Opnd), f.outside [] = none ∧
    (o.n + o.len ≤ f.limit o.kind → f.outside (o :: os) = f.outside os) ∧
    (f.limit o.kind < o.n + o.len → f.outside (o :: os) = some (max o.n (f.limit o.kind)))) ∧
  (∀ (s : State) (w : BitVec 32), s.fir.repact = false → (∀ i, decode w ≠ .ok i) → s.runWord w = s.trapsWord .ill w)

/-- R139, R140, R156: an access below 0, at 2^57 or above, or not aligned takes ALIGN with its exact address; one in the own scratchpad
that no range lock meets goes there and changes nothing; one of a team firing in control space takes PROT. LD and ST take the trap of
their access and have no effect. R371: a translation changes no byte of memory but the A and D bits of the leaf it uses, for a C group of
all 16 entries; it touches no register and no frond. -/
def Obligations.AccessChecks : Prop :=
  (∀ (s : State) (ac : Acc) (a : Int) (n : Nat), n ∈ [1, 2, 4, 8, 64] →
    (a < 0 ∨ 2 ^ 57 ≤ a ∨ a % n ≠ 0 → s.access ac a n n = .error (.trap { c := .align, sub := 0, val := BitVec.ofInt 64 a })) ∧
    (∀ o : Nat, a = 0x1FF0 * 2 ^ 44 + o → o % n = 0 → o + n ≤ 2 ^ 20 → ac.fe = false → ac.cell = false →
      lockHit s.fr.locks ac a.toNat n = false → s.access ac a n n = .ok (s, .spad s.fir.frond o)) ∧
    (∀ o : Nat, a = 0x1FF3 * 2 ^ 44 + o → o < 2 ^ 44 → o % n = 0 → s.fir.sup = false →
      s.access ac a n n = .error (.trap { c := .prot, sub := 0, val := BitVec.ofInt 64 a })) ∧
    (∀ (t : LdTy) (d b : BitVec 6) (i : BitVec 10) (tr : Trap), s.Issues (.ld t d b i) →
      s.access .load ((s.rx b).toNat + i.toInt) (ldSize t).1 (ldSize t).1 = .error (.trap tr) →
      exec (.ld t d b i) s = .next (s.trapHere tr)) ∧
    (∀ (t : StSz) (b c : BitVec 6) (i : BitVec 10) (tr : Trap), s.Issues (.st t b i c) →
      s.access .store ((s.rx b).toNat + i.toInt) (stSize t) (stSize t) = .error (.trap tr) →
      exec (.st t b i c) s = .next (s.trapHere tr))) ∧
  (∀ (s u : State) (p : Fin 16) (d : Fin 4) (va : Nat) (wr : Bool) (l : Leaf), s.mem.wf = true → s.translate p d va wr = some (u, l) →
    (∀ a, (∀ k ∈ leafKeys l, a < k ∨ k + 8 ≤ a) → u.mem.get a = s.mem.get a) ∧
    (bit l.pte 12 = false → u.mem.read l.key 8 ||| 0x60 = s.mem.read l.key 8 ||| 0x60) ∧ u.fir = s.fir ∧ u.fronds = s.fronds ∧
    u.cores = s.cores ∧ u.parts = s.parts ∧ u.full = s.full ∧ u.mem.wf = true)

/-- R144, R145: LD of a place at hand writes the bytes read there to its destination, sign-extended or not as its type says, and
completes. Every other register and every byte of memory stay as the access left them. While 64 loads of its core are outstanding it
waits, R157. R144, R146, R83: ST to a place at hand stores the low bytes of its source there and completes; the bytes read back, and every
byte outside them reads as the access left it; no register changes. A store that reaches the header of a stream of a placed actor leaves
CONS, CONS0 and PROD0 as they were, and CLOSED set if it was set. From when until when a line counts as a stream header is the model's
choice (log 72). -/
def Obligations.LoadsAndStores : Prop :=
  (∀ (s u : State) (t : LdTy) (d b : BitVec 6) (i : BitVec 10) (pl : Place), s.Issues (.ld t d b i) →
    s.access .load ((s.rx b).toNat + i.toInt) (ldSize t).1 (ldSize t).1 = .ok (u, pl) → u.near false (ldSize t).1 pl = true →
    (u.loadsFit 1 → exec (.ld t d b i) s = .next ((((u.usePath pl).readHome pl (ldSize t).1).wx d (loadValue t (u.readAt pl (ldSize t).1))).upd Firing.advance)) ∧
    (¬ u.loadsFit 1 → exec (.ld t d b i) s = .next (u.upd fun f => { f with wait := some .loads, aged := false }))) ∧
  (∀ (s u : State) (t : StSz) (b c : BitVec 6) (i : BitVec 10) (pl : Place), s.mem.wf = true → s.Issues (.st t b i c) →
    s.access .store ((s.rx b).toNat + i.toInt) (stSize t) (stSize t) = .ok (u, pl) →
    (u.near true (stSize t) pl = true →
      ∃ v, exec (.st t b i c) s = .next v ∧ v.readAt pl (stSize t) = (s.rx c).toNat % 256 ^ stSize t ∧
        (∀ q, u.near false 1 q = true → pl.covers (stSize t) q = false → v.byteSeen q = u.byteSeen q) ∧
        v.fir = { s.fir.advance with paths := v.fir.paths } ∧ v.parts = s.parts ∧ v.cores = s.cores ∧ v.teams = s.teams ∧
        (∀ h, h ≠ s.fir.frond → v.fronds[h] = s.fronds[h])) ∧
    (∀ o, pl = .shm o → u.postedAt true pl (stSize t) = false →
      ∃ v, exec (.st t b i c) s = .next v ∧ v.fir = { s.fir.advance with paths := v.fir.paths } ∧
        ∀ h ∈ u.headers, v.mem.read (h + 8) 8 = u.mem.read (h + 8) 8 ∧ v.mem.read (h + 24) 16 = u.mem.read (h + 24) 16 ∧
          ((u.mem.get (h + 40)).getLsbD 0 = true → (v.mem.get (h + 40)).getLsbD 0 = true)))

/-- R147 to R149: LDFE of a full word reads it and leaves it full, or empty under .wfe; STFE to an empty word, or to any word under .sf,
stores its source at home and leaves the word full. Both complete, and a load that changes no bit whatever waits for the word. A
full-empty access whose condition does not hold joins the retry list of its home behind every access that waits there, whatever waits for
the same word; when the list holds 256 it is refused and sent again. In a team that records or replays an access goes on as the order log
lets it, waits while the log holds it, and takes LOGFULL, staying in the list, where the log turns it away, R339 to R341. That a wait ends
where it is served is the model's reading (log 60); which accesses of a logged team the order log counts is its choice (log 69). -/
def Obligations.FullEmpty : Prop :=
  ∀ (s u : State) (b d : BitVec 6) (i : BitVec 10) (pl : Place), u.near true 8 pl = true → s.mem.wf = true →
    (∀ w ∈ u.retry, w.adm ≠ u.fir.adm) →
    let va := BitVec.ofInt 64 ((s.rx b).toNat + i.toInt)
    let alone := ∀ w ∈ u.retry, homeUnit w.key ≠ homeUnit pl.key
    let waiter := fun (load sets : Bool) (val : Word) (rd : BitVec 6) =>
      ({ key := pl.key, load := load, sets := sets, val := val, rd := rd, adm := s.fir.adm, addr := va, shard := 0, peer := none } : FeWait)
    let waits := fun (v : State) (w : FeWait) => v.fir.pc = s.fir.pc ∧ v.fir.x = s.fir.x ∧ v.mem = u.mem ∧ v.full = u.full ∧
      ((u.retry.filter fun x => homeUnit x.key == homeUnit pl.key).length < 256 → v.fir.wait = some .fullEmpty ∧ v.retry = u.retry ++ [w]) ∧
      (256 ≤ (u.retry.filter fun x => homeUnit x.key == homeUnit pl.key).length → v.fir.wait = some .resend ∧ v.retry = u.retry ∧
        v.agenda = u.agenda ++ [{ op := .feResend, a := s.fir.adm, b := 0, c := 0, v := va, l := [] }])
    let room := (u.retry.filter fun x => homeUnit x.key == homeUnit pl.key).length < 256
    let turned := fun (v : State) (w : FeWait) (sub die : Nat) => room →
      v = { ({ u.useKey pl.key with retry := u.retry ++ [w], next := u.next + 1 }.trapHere (logFull sub die)) with retry := u.retry ++ [w] }
    let stops := fun (v : State) (w : FeWait) (holds : Bool) =>
      (u.feHeld pl.key ∨ (holds = false ∧ ¬ (u.replays ∧ ∃ sub die, u.feFull pl.key sub die)) → waits v w) ∧
      (∀ sub die, u.feFull pl.key sub die → holds = true ∨ u.replays → turned v w sub die)
    (∀ m, s.Issues (.ldfe m d b i) →
      s.access (ldfeAcc (m == .wfe)) ((s.rx b).toNat + i.toInt) 8 8 = .ok (u, pl) →
      ∃ v, exec (.ldfe m d b i) s = .next v ∧
        (∀ w, u.isFull pl.key = true → u.feGoes w pl.key → alone ∨ (m = .wf ∧ u.loggedTeam u.fir = none) →
          v.fir = (w.fir.wx d (BitVec.ofNat 64 (w.mem.read pl.key 8))).advance ∧
          v.mem = w.mem ∧ (∀ k, v.isFull k = (u.isFull k && !(m == .wfe && k / 8 == pl.key / 8))) ∧ v.retry = u.retry) ∧
        stops v (waiter true (m == .wfe) 0 d) (u.isFull pl.key)) ∧
    (∀ m, s.Issues (.stfe m b i d) →
      s.access stfeAcc ((s.rx b).toNat + i.toInt) 8 8 = .ok (u, pl) →
      ∃ v, exec (.stfe m b i d) s = .next v ∧
        (∀ w, m = .sf ∨ u.isFull pl.key = false → u.feGoes w pl.key → alone → v.fir = w.fir.advance ∧
          v.mem.read pl.key 8 = (s.rx d).toNat ∧ (∀ a, a < pl.key ∨ pl.key + 8 ≤ a → v.mem.get a = w.mem.get a) ∧
          (∀ k, v.isFull k = (u.isFull k || k / 8 == pl.key / 8)) ∧ v.retry = u.retry) ∧
        stops v (waiter false (m == .sf) (s.rx d) 0) (m == .sf || !u.isFull pl.key))

/-- R151, R152: a unit-stride or strided vector load of places at hand fills each active element with the bytes at its own address and
leaves the others as they were; it completes, and nothing else changes. The address of element e is the base plus e times the element size
or the stride. R151, R152: a unit-stride or strided vector store to places at hand stores each active element at its own address, in
ascending order; it completes, and no register and no other byte changes. -/
def Obligations.VectorLoadsAndStores : Prop :=
  (∀ (s u : State) (i : Instr) (t : ElemTy) (d : BitVec 5) (x : BitVec 6) (y : BitVec 5) (k : BitVec 3) (st : Int) (pls : List (Nat × Place)),
    ((i = .vld t d x k ∧ st = esize t ∧ s.loadsFit 1) ∨
      (i = .vlds t d x y k ∧ st = (s.rx (y.setWidth 6)).toInt ∧ s.loadsFit (activeElems (s.fir.rk k) (esize t)).length)) → s.Issues i →
    s.elemPlaces .load (esize t) (fun e => (s.rx x).toNat + e * st) (activeElems (s.fir.rk k) (esize t)) = .ok (u, pls) →
    (∀ p ∈ pls, u.near false (esize t) p.2 = true) →
    ∃ v, exec i s = .next v ∧ v.onlyReads u ∧ v.fir.sameBesideVec s.fir d ∧ v.fir.pc = s.fir.advance.pc ∧
      (∀ p ∈ pls, elem (v.fir.rv d) (8 * esize t) p.1 = u.readAt p.2 (esize t)) ∧
      (∀ e, e < 256 / esize t → e ∉ activeElems (s.fir.rk k) (esize t) →
        elem (v.fir.rv d) (8 * esize t) e = elem (s.fir.rv d) (8 * esize t) e)) ∧
  (∀ (s u : State) (i : Instr) (t : ElemTy) (d : BitVec 5) (x : BitVec 6) (y : BitVec 5) (k : BitVec 3) (st : Int) (pls : List (Nat × Place)),
    ((i = .vst t x d k ∧ st = esize t) ∨ (i = .vsts t x d y k ∧ st = (s.rx (y.setWidth 6)).toInt)) → s.Issues i → s.mem.wf = true →
    s.elemPlaces .store (esize t) (fun e => (s.rx x).toNat + e * st) (activeElems (s.fir.rk k) (esize t)) = .ok (u, pls) →
    (∀ p ∈ pls, u.near true (esize t) p.2 = true) → s.fir.data = [] →
    exec i s = .next ((u.storeEach (esize t) (pls.map fun p => (p.2, elem (s.fir.rv d) (8 * esize t) p.1))).upd Firing.advance) ∧
    (∀ q, u.near false 1 q = true → (∀ p ∈ pls, p.2.covers (esize t) q = false) →
      (u.storeEach (esize t) (pls.map fun p => (p.2, elem (s.fir.rv d) (8 * esize t) p.1))).byteSeen q = u.byteSeen q))

/-- R153 to R155, R190: a gather of lanes at hand fills each active lane with its element, extended to the lane, and registers one
range-lock entry while any lane is active; a scatter stores each active lane's low bytes. The address of lane i is the base plus its
signed index times the element size. Both complete when every lane passes its checks; when a lane traps, the lanes below it are stored and
tval is the lane, the even one of a 64-bit element. That all lanes at hand are read in the step of issue is the model's choice (log 50). -/
def Obligations.GathersAndScatters : Prop :=
  ∀ (s u : State) (t : ElemTy) (d b x : BitVec 5) (k : BitVec 3) (pls : List (Nat × Place)),
    s.fir.pends = [] → u.earlier = false →
    let n := esize t
    let lanes := activeLanes (s.fir.rk k) n
    let near := fun (wr : Bool) => ∀ p ∈ pls, u.near wr n p.2 = true
    let addr := fun i => ((s.rx (b.setWidth 6)).toNat : Int) + intOf true 32 (elem (s.fir.rv x) 32 (laneOf n i)) * n
    (s.Issues (.vldx t d b x k) → s.fr.locks.length < 32 → s.loadsFit lanes.length → near false →
      (∀ f ∈ s.others, f.frond = s.fir.frond → f.granted = false ∧ f.wait ≠ some .table) →
      s.lanePlaces n (fun s i => s.access .load (addr i) n n) lanes = .ok (u, pls, none) →
      ∃ v, exec (.vldx t d b x k) s = .next v ∧ v.mem = u.mem ∧ v.fir.sameBesideVec s.fir d ∧ v.fir.pc = s.fir.advance.pc ∧
        v.fr.locks.length = u.fr.locks.length + (if pls = [] then 0 else 1) ∧
        (∀ p ∈ pls, if n = 8 then elem (v.fir.rv d) 64 p.1 = u.readAt p.2 n
          else elem (v.fir.rv d) 32 p.1 = (extend (signedTy t) n (u.readAt p.2 n)).toNat % 2 ^ 32) ∧
        (∀ i, i < 64 → (if n = 8 then i / 2 else i) ∉ lanes →
          elem (v.fir.rv d) 32 i = elem (s.fir.rv d) 32 i)) ∧
    (s.Issues (.vstx t b x d k) → near true → ∀ tr,
      s.lanePlaces n (fun s i => s.access .store (addr i) n n) lanes = .ok (u, pls, tr) →
      let v := u.storeEach n (pls.map fun p => (p.2, laneData (s.fir.rv d) n p.1))
      (tr = none → exec (.vstx t b x d k) s = .next (v.upd Firing.advance)) ∧
      (∀ e, tr = some e → exec (.vstx t b x d k) s = .next (v.trapHere e) ∧ e.val = BitVec.ofNat 64 (laneOf n (lanes.getD pls.length 0))))

/-- R218: the shard and offset of a global linear index in a descriptor of one dimension and of two: coordinates vary fastest in the last
dimension, blocks go round the grid, and the offset counts the blocks of the shard before it. R229, R231: SHLOC delivers owner, route and
shard number and the address there. SHINV drops the descriptor it names, or all of its partition's, on every die of its scope, asks every
peer of the scope, and holds its firing; nothing ends while an access it awaits is open; its completion lets the firing go on, and one
that this package owes a peer is reported to it. What a SHINV awaits is the model's choice (log 45). -/
def Obligations.ShardLookups : Prop :=
  (∀ (d : List Word) (l : Nat),
    (rankOf d = 1 → shardOf d l =
      (let x := dimOf d 0; let c := l % x.shape
       (c / x.blk % x.grid, (c / (x.blk * x.grid) * x.blk + c % x.blk) * x.pitch))) ∧
    (rankOf d = 2 → shardOf d l =
      (let x := dimOf d 0; let y := dimOf d 1; let c0 := l / y.shape % x.shape; let c1 := l % y.shape
       (c0 / x.blk % x.grid * y.grid + c1 / y.blk % y.grid,
        (c0 / (x.blk * x.grid) * x.blk + c0 % x.blk) * x.pitch + (c1 / (y.blk * y.grid) * y.blk + c1 % y.blk) * y.pitch)))) ∧
  ((∀ (s u : State) (d a b : BitVec 6) (e : Elem), s.Issues (.shloc d a b) → s.locate (s.rx a) (s.rx b).toNat 0 = .ok (u, e) →
    ∃ v, exec (.shloc d a b) s = .next v ∧ v.onlyFiring u ∧ v.mem = u.mem ∧
      v.fir = ((s.fir.wx d (BitVec.ofNat 64 (e.owner * 2 ^ 32 + u.route e.owner * 2 ^ 24 + e.shard % 2 ^ 24))).wx (d + 1)
        (BitVec.ofNat 64 e.addr)).advance) ∧
  (∀ (s : State) (sc : Scope) (a : BitVec 6), s.Issues (.shinv sc a) → s.quietOrder → (s.fr.held.map (·.1)).Nodup → s.mem.wf = true →
    ∃ v, exec (.shinv sc a) s = .next v ∧ v.fir = { s.fir with wait := some .shinv, aged := false } ∧ v.publishedOf s s.fir.frond ∧
      (∀ (n : Fin 4) (c : ShardCache), c ∈ v.dies[n].shards ↔ c ∈ s.dies[n].shards ∧
        ¬((sc = .die → n = s.fir.die) ∧ c.part = s.fir.part ∧ (a ≠ 0 → c.handle = (s.rx a).toNat % 65536))) ∧
      (∃ l, v.agenda.getLast? = some { op := .shinvComplete, a := s.fir.adm, b := 0, c := 0, v := 0, l := l }) ∧
      v.sent = s.sent ++ (v.shinvPeers sc).map fun q => .shinv q.1 q.2 s.fir.adm (if a = 0 then none else some ((s.rx a).toNat % 65536))) ∧
  (∀ s : State, s.ev.b = 0 → s.marksOpen s.ev.l = false → s.fir.live = true → s.fir.adm = s.ev.a → s.fir.wait = some .shinv →
    exec .shinvComplete s = .next (s.upd Firing.advance)) ∧
  (∀ s : State, s.ev.b = 1 → ∃ v, exec .shinvComplete s = .next v ∧ v.fir = s.fir ∧ v.agenda.length = s.agenda.length) ∧
  (∀ s : State, s.ev.b = 2 → s.marksOpen s.ev.l = false → exec .shinvComplete s = .next { s with sent := s.sent ++ [.shinvDone s.ev.c s.ev.a] }) ∧
  (∀ s : State, s.ev.b ≠ 1 → s.marksOpen s.ev.l = true → exec .shinvComplete s = .next s))

/-- R221: LDT and STT of an element whose shard lies at hand read and write it as LD and ST do, and in their full-empty modes as LDFE and
STFE do on a word that lets them go on, when nothing waits at its home; each completes. A full-empty mode in a team that records or
replays goes on from the state the order log leaves. R222: VLDT and VSTT of lanes whose shards lie at hand fill or store each active lane
as a gather or scatter does, at the element its own unsigned index names, and complete when every lane passes its checks. That lanes at
hand are read in the step of issue is the model's choice (log 50). -/
def Obligations.ShardedAccesses : Prop :=
  (∀ (s r u g : State) (m : LdtMode) (w : SttMode) (t : ElemTy) (d a b : BitVec 6) (e : Elem) (pl : Place),
    s.locate (s.rx a) (s.rx b).toNat (esize t) = .ok (r, e) → s.mem.wf = true → (∀ x ∈ u.retry, homeUnit x.key ≠ homeUnit pl.key) →
    (s.Issues (.ldt m t d a b) →
      (m = .plain → r.elemPlace .load false (esize t) e = .ok (u, pl) ∧ u.near false (esize t) pl = true ∧ u.loadsFit 1 ∧ g = u) →
      (m ≠ .plain → u.feGoes g pl.key ∧ r.elemPlace (ldfeAcc (m == .wfe)) true (esize t) e = .ok (u, pl) ∧ u.isFull pl.key = true ∧ u.near true 8 pl = true ∧
        ∀ x ∈ u.retry, x.adm ≠ u.fir.adm) →
      ∃ v, exec (.ldt m t d a b) s = .next v ∧ v.mem = g.mem ∧
        v.fir = { (g.fir.wx d (if m = .plain then extend (signedTy t) (esize t) (u.readAt pl (esize t))
          else BitVec.ofNat 64 (g.mem.read pl.key 8))).advance with paths := v.fir.paths } ∧
        (∀ k, v.isFull k = (u.isFull k && !(m == .wfe && k / 8 == pl.key / 8)))) ∧
    (s.Issues (.stt w t a b d) → u.near true (esize t) pl = true → (w = .plain → r.elemPlace .store false (esize t) e = .ok (u, pl) ∧ g = u) →
      (w ≠ .plain → u.feGoes g pl.key ∧ r.elemPlace stfeAcc true (esize t) e = .ok (u, pl) ∧ (w = .sf ∨ u.isFull pl.key = false) ∧
        ∀ x ∈ u.retry, x.adm ≠ u.fir.adm) →
      ∃ v, exec (.stt w t a b d) s = .next v ∧ v.fir = { g.fir.advance with paths := v.fir.paths } ∧
        (w = .plain → v.readAt pl (esize t) = (s.rx d).toNat % 256 ^ esize t ∧ v.full = u.full) ∧
        (w ≠ .plain → v.mem.read pl.key 8 = (s.rx d).toNat ∧ (∀ k, v.isFull k = (u.isFull k || k / 8 == pl.key / 8))) ∧
        (w = .plain → ∀ q, u.near false 1 q = true → pl.covers (esize t) q = false → v.byteSeen q = u.byteSeen q) ∧
        (w ≠ .plain → ∀ k, k < pl.key ∨ pl.key + 8 ≤ k → v.mem.get k = g.mem.get k))) ∧
  (∀ (s u : State) (t : ElemTy) (d b : BitVec 5) (a : BitVec 6) (k : BitVec 2) (pls : List (Nat × Place)),
    s.fir.pends = [] → u.earlier = false →
    let n := esize t
    let act := activeLanes (s.fir.rk (k.setWidth 3)) n
    let near := fun (wr : Bool) => ∀ p ∈ pls, u.near wr n p.2 = true
    (s.Issues (.vldt t d a b k) → near false → s.loadsFit act.length → s.lanePlaces n (fun s i => s.laneElem .load n a b i) act = .ok (u, pls, none) →
      ∃ v, exec (.vldt t d a b k) s = .next v ∧ v.onlyReads u ∧ v.fir.sameBesideVec s.fir d ∧ v.fir.pc = s.fir.advance.pc ∧
        (∀ p ∈ pls, if n = 8 then elem (v.fir.rv d) 64 p.1 = u.readAt p.2 n
          else elem (v.fir.rv d) 32 p.1 = (extend (signedTy t) n (u.readAt p.2 n)).toNat % 2 ^ 32) ∧
        (∀ i, i < 64 → (if n = 8 then i / 2 else i) ∉ act → elem (v.fir.rv d) 32 i = elem (s.fir.rv d) 32 i)) ∧
    (s.Issues (.vstt t a b d k) → near true → s.lanePlaces n (fun s i => s.laneElem .store n a b i) act = .ok (u, pls, none) →
      exec (.vstt t a b d k) s = .next ((u.storeEach n (pls.map fun p => (p.2, laneData (s.fir.rv d) n p.1))).upd Firing.advance)))

/-- R237, R238, R241, R248 to R250: with nothing of the firing on its way, REL writes its frond's held bytes home; ACQ wider than a frond
renews the frond's snapshot of device memory, in every byte that no write under way at a scope without the frond covers; FENCE does both;
each completes and changes no register. With paths used, a REL of die scope or wider waits for a marker down each. An ACQ waits for what
the firing posted. -/
def Obligations.OrderInstructions : Prop :=
  ∀ (s : State) (sc : Scope), s.mem.wf = true → (s.fr.held.map (·.1)).Nodup →
    (s.Issues (.rel sc) → s.quietOrder → ∃ v, exec (.rel sc) s = .next v ∧ v.publishedOf s s.fir.frond ∧ v.besideOrder s) ∧
    (s.Issues (.acq sc) → s.posting s.fir = false → ∃ v, exec (.acq sc) s = .next v ∧ v.mem = s.mem ∧ v.besideOrder s ∧
      (sc ∈ [.die, .pkg, .dom, .sys] → v.renewedOf s s.fir.frond ∧ v.fr.held = s.fr.held) ∧ (sc ∈ [.fi, .co, .fr] → v.fronds = s.fronds)) ∧
    (s.Issues (.acq sc) → s.posting s.fir = true → exec (.acq sc) s = .next (s.upd fun f => { f with wait := some .posted, aged := false })) ∧
    (s.Issues (.fence sc) → s.quietOrder → ∃ v, exec (.fence sc) s = .next v ∧ v.publishedOf s s.fir.frond ∧ v.besideOrder s ∧
      (sc ∈ [.die, .pkg, .dom, .sys] → v.renewedOf s s.fir.frond)) ∧
    (s.Issues (.rel sc) → sc ∈ [.die, .pkg, .dom, .sys] → s.fir.paths ≠ [] → s.fir.wait = none →
      ∃ v, exec (.rel sc) s = .next v ∧ v.fir = { s.fir with wait := some .markers, aged := false } ∧ v.mem = s.mem ∧ v.fronds = s.fronds ∧
        v.agenda = s.agenda ++ s.fir.paths.map fun p => { op := .markerAcknowledged, a := s.fir.adm, b := p, c := 0, v := 0, l := [] })

/-- R158, R159, R163, R164: an atomic at a home in the package reads the old value into its destination, sign-extended from an integer and
zero-extended from a float, and leaves the new value there; with x0 it is posted, the firing goes on at once, and memory has the same
effect when the request arrives. It completes. R68, R69, R165: XCADD adds its source to a cell, XCCLR clears one, XCRD reads one as a
rounded float with its flags, XCRDCLR reads and clears. XCADD and XCCLR are posted and take effect when they arrive, the reads at once.
Each completes at a home in the package; no other byte changes. R338 to R341: in a team launched with RECORD a blocking AMOADD first
writes its log entry of kind 1 at POS, with its bank, its place in the bank's order, its firing and its count of earlier operations, and
POS rises by one; while the buffer is full it takes LOGFULL with the die, with subcode 2 where the entry cannot be written. In one
launched with REPLAY it waits until its entry is the next of its bank and then is applied, POS standing at the first entry no site has
served; an operation with no entry left takes LOGFULL with subcode 1, an entry that cannot be read subcode 2. That a blocking operation is
applied in the step of issue and a posted one when its request arrives is the model's choice (log 51), and which operation takes LOGFULL
how often its reading (log 21). -/
def Obligations.AtomicOperations : Prop :=
  (∀ (s u : State) (i : Instr) (a : BitVec 6) (pl : Place), s.mem.wf = true → s.Issues i → u.banksFree →
    (∀ z d b g, amoForm i = some (z, d, a, b, g) → s.access .bank (s.rx a).toNat (szBits z / 8) (szBits z / 8) = .ok (u, pl) →
      u.near true (szBits z / 8) pl = true →
      let old := BitVec.ofNat (szBits z) ((u.bankFlush pl.key).mem.read pl.key (szBits z / 8))
      let new := (g (szBits z) old ((s.rx b).setWidth (szBits z)) ((s.rx d).setWidth (szBits z))).toNat
      ∃ v, exec i s = .next v ∧ (d = 0 → v.postedThen u pl.key (szBits z / 8) new s.fir) ∧
        (d ≠ 0 → v.bankDone u pl.key (szBits z / 8) new (s.fir.wx d (old.signExtend 64)))) ∧
    (∀ t d b g, famoForm i = some (t, d, a, b, g) → s.access .bank (s.rx a).toNat (floatBytes t) (floatBytes t) = .ok (u, pl) →
      u.near true (floatBytes t) pl = true →
      let old := (u.bankFlush pl.key).mem.read pl.key (floatBytes t)
      let new := g old ((s.rx b).toNat % 256 ^ floatBytes t) % 256 ^ floatBytes t
      ∃ v, exec i s = .next v ∧ (d = 0 → v.postedThen u pl.key (floatBytes t) new s.fir) ∧
        (d ≠ 0 → v.bankDone u pl.key (floatBytes t) new (s.fir.wx d (BitVec.ofNat 64 old))))) ∧
  (∀ (s u : State) (t : AF) (a b d : BitVec 6) (pl : Place), s.mem.wf = true → u.near true 64 pl = true → u.banksFree →
    s.access .cells (s.rx a).toNat 64 64 = .ok (u, pl) →
    let c := (u.bankFlush pl.key).mem.read pl.key 64
    let r := cellRead (afFmt t) c
    let f := if d = 0 then s.fir else (s.fir.wx d (BitVec.ofNat (8 * floatBytes t) r.1 |>.setWidth 64)).orFlags (BitVec.ofNat 64 r.2)
    (s.Issues (.xcadd t a b) →
      ∃ v, exec (.xcadd t a b) s = .next v ∧ v.postedThen u pl.key 64 (cellAdd (afFmt t) c (s.rx b).toNat) s.fir) ∧
    (s.Issues (.xcclr a) → ∃ v, exec (.xcclr a) s = .next v ∧ v.postedThen u pl.key 64 0 s.fir) ∧
    (s.Issues (.xcrd t d a) → ∃ v, exec (.xcrd t d a) s = .next v ∧ v.bankDone u pl.key 64 c f) ∧
    (s.Issues (.xcrdclr t d a) → ∃ v, exec (.xcrdclr t d a) s = .next v ∧ v.bankDone u pl.key 64 0 f)) ∧
  (∀ (s u : State) (T : Team) (z : SZ) (d a b : BitVec 6) (pl : Place), s.mem.wf = true → s.Issues (.amoadd z d a b) → d ≠ 0 →
    s.access .bank (s.rx a).toNat (szBits z / 8) (szBits z / 8) = .ok (u, pl) → u.near true (szBits z / 8) pl = true →
    u.teams = [T] → s.team? s.fir = some T → T.part = s.fir.part → s.fir.live = true → u.busyTags s.fir.core = [] →
    (∀ x ∈ u.filt, x.src = s.fir.core.val → x.tag ≠ u.cores[s.fir.core].nextTag.toNat) →
    let n := szBits z / 8
    let w := u.bankFlush pl.key
    let die : Fin 4 := ⟨(homeSite pl.key).1 % 4, by omega⟩
    let site := (homeSite pl.key).2
    let me := BitVec.ofNat 64 (s.fir.fid.toNat % 2 ^ 32 * 2 ^ 32 + s.fir.opn[1] % 2 ^ 32)
    let key := (1, die.val, site)
    let part := u.parts[s.fir.part]
    let pos := part.logpos[die].toNat % 2 ^ 32
    let len := part.loglen[die].toNat % 2 ^ 32
    let full := fun (sub : Nat) => exec (.amoadd z d a b) s = .next (s.trapHere { c := .logfull, sub := sub, val := BitVec.ofNat 64 die.val })
    let goes := fun (x v : State) =>
      let old := BitVec.ofNat (szBits z) (x.mem.read pl.key n)
      exec (.amoadd z d a b) s = .next v ∧ v.mem.read pl.key n = (old + (s.rx b).setWidth (szBits z)).toNat ∧
        (∀ c, c < pl.key ∨ pl.key + n ≤ c → v.mem.get c = x.mem.get c) ∧ v.teams = [T.counted key] ∧
        v.fir = { (s.fir.wx d (old.signExtend 64)).advance with paths := v.fir.paths, opn := s.fir.opn.set 1 (s.fir.opn[1] + 1) }
    (T.flag 26 = true →
      (pos = len → full 0) ∧
      (pos ≠ len →
        let entry := 2 ^ 60 + site * 2 ^ 32 + T.count key % 2 ^ 32 + me.toNat * 2 ^ 64
        let put := w.unitWrite s.fir.part die (part.logbase[die].toNat + 16 * pos) 16 entry
        (put = none → full 2) ∧
        ∀ x, put = some x → ∃ v, goes x v ∧ v.parts[s.fir.part].logpos[die] = BitVec.ofNat 64 (pos + 1))) ∧
    (T.flag 26 = false → T.flag 27 = true →
      (len ≤ pos → full 1) ∧
      (pos < len → w.logEntry s.fir.part die pos = none → full 2) ∧
      (∀ es, w.logEntries s.fir.part die (len - pos) pos = some es →
        ((∀ e ∈ es, entryAhead T 1 die.val site e → e.2 ≠ me) → full 1) ∧
        (∀ e ∈ es, entryAhead T 1 die.val site e → e.2 = me → (∀ f ∈ es, entryAhead T 1 die.val site f → f.2 = me → f = e) →
          (bits e.1 31 0 ≠ T.count key → exec (.amoadd z d a b) s = .next (w.upd fun f => { f with wait := some .held, aged := false })) ∧
          (bits e.1 31 0 = T.count key → (∀ j, pos ≤ j → j < len → (w.logEntry s.fir.part die j).map Prod.fst = some w) →
            ∃ v at', goes w v ∧ v.parts[s.fir.part].logpos[die] = BitVec.ofNat 64 at' ∧ pos ≤ at' ∧ at' ≤ len ∧
              ∀ j x w0 w1, w.logEntry s.fir.part die j = some (x, w0, w1) →
                let served := bits w0 31 0 < (T.counted key).count (bits w0 63 60, die.val, bits w0 59 32)
                (pos ≤ j → j < at' → served) ∧ (j = at' → at' < len → ¬ served))))))

/-- R166 to R168, R190: an indexed vector bank instruction sends its operation to the cell or word each active lane names, in ascending
order, and completes when every lane passes its checks; memory has each lane's effect when it arrives. VBSUM sends one add for each active
lane of consecutive cells and registers its block of 4 KiB as locked until the last is applied; its cells are not checked against other
engines' locks. No register changes. That every lane is applied when its request arrives is the model's choice (log 51). -/
def Obligations.VectorBanks : Prop :=
  ∀ (s u : State) (pls : List (Nat × Place)), u.banksFree → s.earlier = false → s.mem.wf = true →
    (∀ i op n b x d k, vectorBank i = some (op, n, b, x, d, k) → s.Issues i →
      s.lanePlaces 4 (fun s l => s.access .cells ((s.rx (b.setWidth 6)).toNat + intOf true 32 (elem (s.fir.rv x) 32 l) * n) op.size op.size)
        (activeLanes (s.fir.rk k) 4) = .ok (u, pls, none) → (∀ p ∈ pls, u.near true op.size p.2 = true) → 0 < s.next →
      ∃ v, exec i s = .next v ∧ v.fir = { s.fir.advance with paths := v.fir.paths } ∧ v.full = u.full ∧
        ∃ es, v.agenda = u.agenda ++ es ∧ es.length = pls.length ∧ (∀ e ∈ es, e.op = .bankOpArrive) ∧
          (runEvents es v).mem = u.lanesApplied op (pls.map fun p => (p.2.key, elem (s.fir.rv d) 32 p.1)) ∧ (runEvents es v).fir = v.fir) ∧
    (∀ t b d k, s.Issues (.vbsum t b d k) → s.fr.locks.length < 32 →
      (∀ f ∈ s.others, f.frond = s.fir.frond → f.granted = false ∧ f.wait ≠ some .table) →
      s.lanePlaces 4 (fun s l => s.reach .cells (((s.rx (b.setWidth 6)).toNat + 64 * l : Nat) : Int) 64 64) (activeLanes (s.fir.rk k) 4)
        = .ok (u, pls, none) → (∀ p ∈ pls, u.near true 64 p.2 = true) → pls ≠ [] → 0 < s.next →
      ∃ v, exec (.vbsum t b d k) s = .next v ∧ v.fir = { s.fir.advance with paths := v.fir.paths } ∧
        (v.cores[s.fir.core].busy.map fun q => (q.key, q.op, q.val, q.applied)) =
          (pls.map fun p => (p.2.key, .xcadd .f32, BitVec.ofNat 64 (elem (s.fir.rv d) 32 p.1), false)) ∧
        v.fr.locks = u.fr.locks ++
          [{ lo := (s.rx (b.setWidth 6)).toNat, hi := (s.rx (b.setWidth 6)).toNat + 4096, dst := true, own := .vbsum s.fir.adm s.next }])

/-- R67, R68: exact-cell adds commute: while neither order overflows, two adds leave the same cell in either order. -/
def Obligations.ExactCellsCommute : Prop :=
  ∀ (F : Fmt) (c x y : Nat), c < 2 ^ 512 → cellBit (cellAdd F (cellAdd F c x) y) 355 = false →
    cellBit (cellAdd F (cellAdd F c y) x) 355 = false → cellAdd F (cellAdd F c x) y = cellAdd F (cellAdd F c y) x

/-- R120, R121: HSRD reads a count; HSWAIT and HSTRY take their amount when it is there and no older waiter stands, else HSWAIT waits in
arrival order and HSTRY answers 0; HSPOST and HSSET publish, set the count, and serve the waiters in arrival order. An amount above 65,535
takes PROT. R119, R363: SGET delivers 1 and claims the sorus when it has no holder or the acting firing is it, else 0; SPUT from the
holder gives it up, from another firing takes PROT with subcode 1. -/
def Obligations.SemaphoresAndClaims : Prop :=
  (∀ (s : State) (d b : BitVec 6) (n : BitVec 4),
    let amt := (s.rx b).toNat
    let c := (s.fr.hs[n.toNat]).toNat
    (s.Issues (.hsrd d n) → exec (.hsrd d n) s = .next ((s.wx d (BitVec.ofNat 64 c)).upd Firing.advance)) ∧
    (s.Issues (.hswait d n b) → amt ≤ 65535 →
      (amt = 0 → exec (.hswait d n b) s = .next ((s.wx d (BitVec.ofNat 64 c)).upd Firing.advance)) ∧
      (0 < amt → amt ≤ c → s.semWaiters n.toNat = [] →
        exec (.hswait d n b) s = .next (((s.withSem n (c - amt)).wx d (BitVec.ofNat 64 (c - amt))).upd Firing.advance)) ∧
      (0 < amt → (c < amt ∨ s.semWaiters n.toNat ≠ []) → (∀ w ∈ s.semWaiters n.toNat, w.adm ≠ s.fir.adm) →
        exec (.hswait d n b) s = .next ((s.onFrond s.fir.frond fun f =>
          { f with hsq := f.hsq ++ [{ n := n.toNat, amt := amt, rd := d, adm := s.fir.adm }] }).upd fun f =>
            { f with wait := some (.sem n.toNat), aged := false }))) ∧
    (s.Issues (.hstry d n b) → amt ≤ 65535 →
      exec (.hstry d n b) s = .next (if amt = 0 then (s.wx d 1).upd Firing.advance
        else if amt ≤ c ∧ s.semWaiters n.toNat = [] then ((s.withSem n (c - amt)).wx d 1).upd Firing.advance
        else (s.wx d 0).upd Firing.advance)) ∧
    (∀ i v, ((i = .hspost n b ∧ v = min (c + amt) 65535) ∨ (i = .hsset n b ∧ v = amt)) → s.Issues i → amt ≤ 65535 → s.quietFrond →
      (∀ w ∈ s.semWaiters n.toNat, w.adm ≠ s.fir.adm) →
      ∃ u, exec i s = .next u ∧ u.fir = s.fir.advance ∧ u.mem = (s.publish s.fir.frond .fr).mem ∧
        ((u.fr.hs[n.toNat]).toNat, u.semWaiters n.toNat) = servedFrom v (s.semWaiters n.toNat) ∧
        (∀ m, m ≠ n.toNat → u.semWaiters m = s.semWaiters m) ∧
        (∀ w g, s.semWaiters n.toNat = [w] → w.amt ≤ v → s.others = [g] → g.adm = w.adm →
          u.others = [(g.wx w.rd (BitVec.ofNat 64 (v - w.amt))).advance])) ∧
    (∀ i ∈ [Instr.hswait d n b, .hstry d n b, .hspost n b, .hsset n b], s.Issues i → 65535 < amt →
      exec i s = .next (s.trapHere { c := .prot, sub := 0, val := s.rx b }))) ∧
  (∀ (s : State) (d : BitVec 6),
    let x := s.fr.sorus
    (s.Issues (.sget d) → exec (.sget d) s = .next (
      if x.holder = some s.fir.adm ∨ (x.holder = none ∧ x.parked = none) then
        ((s.onFrond s.fir.frond fun f => { f with sorus := { f.sorus with holder := some s.fir.adm } }).wx d 1).upd Firing.advance
      else (s.wx d 0).upd Firing.advance)) ∧
    (s.Issues .sput → exec .sput s = .next (
      if x.holder = some s.fir.adm then
        (s.onFrond s.fir.frond fun f => { f with sorus := { f.sorus with holder := none } }).upd Firing.advance
      else s.trapHere { c := .prot, sub := 1, val := 0 })))

/-- R94, R106 to R108: on a compute core, outside a gang, in a COSCHED team, GANG waits until all firings of the block have come; the last
to arrive forms the gang: members by rising frond, each with its size and lane, all at the instruction after the leader's. Elsewhere GANG
takes ILL. GANGEND takes a member out of its gang and goes on; of the member only its size and lane change. R107: a gang whose members all
stand ready at one instruction runs the leader's word in each of them, on its own registers: after an integer instruction every member has
its own result and is at the next instruction, and memory is as it was. R98, R109: a member whose wait expires breaks its gang: it takes
QSTALL and every other member GANGBREAK with that member's lane, all at the instruction they stand at, which has had no effect in any of
them; none is in a gang then. That the members run one after another within a step is the model's choice (log 31), and what a break takes
back its reading (log 67). -/
def Obligations.Gangs : Prop :=
  (∀ (s : State) (g : GangN) (t : Team), s.Issues (.gang g) → s.team? s.fir = some t →
    (s.fir.stage = true ∨ s.fir.gsize ≠ 0 ∨ t.flag 31 = false →
      exec (.gang g) s = .next (s.trapHere { c := .ill, sub := 0, val := BitVec.setWidth 64 (encode (.gang g)) })) ∧
    (s.fir.stage = false → s.fir.gsize = 0 → t.flag 31 = true → s.gangTaken = false → (∀ p ∈ s.gangPeers (gangCount g), p.stage = false) →
      ((s.gangPeers (gangCount g)).length + 1 < gangCount g →
        exec (.gang g) s = .next (s.upd fun f => { f with wait := some (.gang (gangCount g)), aged := false })) ∧
      ((s.gangPeers (gangCount g)).length + 1 = gangCount g → (s.others.map Firing.adm).Nodup → s.fir.adm ∉ s.others.map Firing.adm →
        ∃ v pc, exec (.gang g) s = .next v ∧ v.gangs = s.gangs ++
            [{ members := s.gangByLane (gangCount g), pc := pc, i := 0, j := 0, before := [], undo := [], steps := false }] ∧
          (∀ p, (p = s.fir ∨ p ∈ s.gangPeers (gangCount g)) →
            (p.frond.val % gangCount g = 0 → pc = p.pc + 4) ∧
            ∃ q, v.firing? p.adm = some q ∧ q.pc = pc ∧ q.wait = none ∧ gangCount g = 2 ^ q.gsize ∧
              bits q.fstat 28 26 = p.frond.val % gangCount g ∧ q.x = p.x ∧ q.frond = p.frond ∧
              (∀ b, b < 24 ∨ 28 < b → q.fstat.getLsbD b = p.fstat.getLsbD b)) ∧
          v.mem = s.mem ∧ v.fronds = s.fronds)) ∧
    (s.Issues .gangend → ∃ v, exec .gangend s = .next v ∧ v.fir = { s.fir.advance with fstat := v.fir.fstat } ∧
      (∀ b, b < 64 → v.fir.fstat.getLsbD b = (s.fir.advance.fstat.getLsbD b && !(decide (24 ≤ b) && decide (b ≤ 28)))) ∧
      (∀ h ∈ v.gangs, s.fir.adm ∉ h.members) ∧ (∀ h ∈ s.gangs, s.fir.adm ∉ h.members → h ∈ v.gangs) ∧
      v = { s with fir := v.fir, gangs := v.gangs })) ∧
  (∀ (s : State) (g : Gang) (lead : Nat) (rest : List Nat) (i : Instr) (w : BitVec 32) (pc : Word),
    g ∈ s.gangs → g.members = lead :: rest → g.members.Nodup → (s.firings.map Firing.adm).Nodup → decode w = .ok i →
    (∀ t : State, t = { s.focus lead with gangs := t.gangs } → t.wordAt pc = .ok (t, w)) →
    (∀ m ∈ g.members, ∃ f, s.firing? m = some f ∧ f.pc = pc ∧ f.wait = none ∧ f.repact = false ∧ f.active = true ∧ f.fpend = false ∧
      stageIll f (opsOf i) = false ∧ f.outside (opsOf i) = none ∧ (intResult f i).isSome = true) → legal i = true →
    (∀ m ∈ g.members, ∀ f d v, s.firing? m = some f → intResult f i = some (d, v) →
      (s.gangStep g).firing? m = some (f.wx d v).advance) ∧ (s.gangStep g).mem = s.mem ∧ (s.gangStep g).fronds = s.fronds) ∧
  (∀ (s : State) (g : Gang) (n q : Nat) (push : Bool) (pc : Word), s.ev.a = n → n ∈ g.members → g.members.Nodup →
    (s.firings.map Firing.adm).Nodup → (s.gangs.find? fun h => h.members.contains n) = some g → g.before = [] → q < 14 →
    (∃ f, s.firing? n = some f ∧ f.wait = some (.queue q push)) →
    (∀ m ∈ g.members, ∃ f, s.firing? m = some f ∧ f.place = (pc, 0, 0) ∧ f.utvec ≠ 0 ∧ f.intrap = false ∧ s.fronds[f.frond].hsq = []) →
    ∃ v, exec .qstallExpiry s = .next v ∧ v.gangs = s.gangs.filter (fun h => h.members != g.members) ∧ v.mem = s.mem ∧
      ∀ m ∈ g.members, ∀ f, s.firing? m = some f → ∃ h, v.firing? m = some h ∧ h.gsize = 0 ∧ h.tpc = pc ∧ h.pc = f.utvec &&& ~~~3#64 ∧
        h.x = f.x ∧ h.v = f.v ∧ h.k = f.k ∧ h.intrap = true ∧ h.tcause = (if m = n then 9 else 15) ∧
        h.tval = BitVec.ofNat 64 (if m = n then q else g.members.idxOf n))

/-- R91 to R93, R113 to R118: JOIN raises the members of the group record at its handle and delivers the joins before it; LEAVE lowers
them. PHASE and GBAR publish and arrive; the last arrival moves the phase on and the others see it and go on, with a scope that holds all
who wait. A JOIN while a boundary is open waits, and is admitted as the boundary completes, before any arrival at the next. Handle 0 and a
group not joined trap. That waiting JOINs are admitted as the boundary completes, in the firings' order, and that a report a handler did
not issue does not stop its PHASE, are the model's choices (log 71, 73). -/
def Obligations.Groups : Prop :=
  ∀ (s u : State) (d a : BitVec 6) (pl : Place), s.mem.wf = true →
    let h := s.rx a
    let k := pl.key
    let idle := fun (key : Nat) => ∀ f ∈ s.firings, ∀ e, f.wait ≠ some (.join key e)
    (h = 0 → (s.Issues (.join d a) → exec (.join d a) s = .next (s.trapHere { c := .ill, sub := 0, val := BitVec.setWidth 64 (encode (.join d a)) })) ∧
      (s.Issues (.leave a) → exec (.leave a) s = .next (s.trapHere { c := .ill, sub := 0, val := BitVec.setWidth 64 (encode (.leave a)) }))) ∧
    (h ≠ 0 → s.objAt h 64 = .ok (u, pl) → s.Issues (.join d a) →
      (k ∈ s.fir.groups ∨ 8 ≤ s.fir.groups.length → exec (.join d a) s = .next (s.trapHere { c := .prot, sub := 0, val := h })) ∧
      (k ∉ s.fir.groups → s.fir.groups.length < 8 → (u.groupAt k).arrived = 0 → ∃ v, exec (.join d a) s = .next v ∧
        v.groupAt k = { u.groupAt k with members := ((u.groupAt k).members + 1) % 2 ^ 24 } ∧
        v.mem.read (k + 8) 3 = (u.mem.read (k + 8) 3 + 1) % 2 ^ 24 ∧ (∀ b, b < k ∨ k + 11 ≤ b → v.mem.get b = u.mem.get b) ∧
        v.fir = { (s.fir.wx d (BitVec.ofNat 64 (u.mem.read (k + 8) 3))).advance with groups := s.fir.groups ++ [k], paths := u.fir.paths } ∧
        v = { u with fir := v.fir, mem := v.mem }) ∧
      (k ∉ s.fir.groups → s.fir.groups.length < 8 → (u.groupAt k).arrived ≠ 0 → exec (.join d a) s = .next (u.upd fun f =>
        { f with wait := some (.join k d), aged := false }))) ∧
    (h ≠ 0 → s.objAt h 64 = .ok (u, pl) → s.Issues (.leave a) →
      (k ∉ s.fir.groups → exec (.leave a) s = .next (s.trapHere { c := .prot, sub := 0, val := h })) ∧
      (k ∈ s.fir.groups → idle k → ∃ v, exec (.leave a) s = .next v ∧ v.groupAt k = (u.groupAt k).less ∧
        (∀ b, b < k ∨ k + 8 ≤ b → v.mem.get b = u.mem.get b) ∧
        v.fir = { s.fir.advance with groups := s.fir.groups.erase k, paths := u.fir.paths } ∧ v = { u with fir := v.fir, mem := v.mem })) ∧
    (∀ i key sc, ((i = .phase a ∧ s.engineBusy s.fir = false) ∨ i = .gbar a) → s.Issues i → s.boundary (descOf i) h = .ok (u, key, sc) →
      (s.fir.arrived = none → s.quietOrder →
        let g := (s.publish s.fir.frond sc).meeting key
        g.arrived + 1 < 2 ^ 24 → ∃ v, exec i s = .next v ∧ (idle key → v.meeting key = g.arrive) ∧ v.traps = s.traps ∧
          (∀ f, s.others = [f] → f.live = true → f.adm ≠ s.fir.adm → key ≠ 0 → (∀ e, s.fir.wait ≠ some (.join key e)) →
            (∀ e, f.wait = some (.join key e) → f.arrived = none → g.arrived + 1 = g.members →
              v.others = [(f.joined key e ((s.publish s.fir.frond sc).mem.read (key + 8) 3)).advance] ∧
              v.meeting key = { g.arrive with members := (g.members + 1) % 2 ^ 24 }) ∧
            (∀ r, f.arrived = some r → r.key = key → r.ph = g.phase → (∀ e, f.wait ≠ some (.join key e)) →
              v.others = [{ f with arrived := some { r with sc := widest r.sc sc } }])) ∧
          (g.arrived + 1 = g.members → v.fir = { s.fir.advance with arrived := none, paths := v.fir.paths } ∧
            (2 < sc.code.toNat → v.renewedOf s s.fir.frond)) ∧
          (g.arrived + 1 ≠ g.members →
            v.fir = { s.fir with
              arrived := some { key := key, ph := g.phase, sc := sc }, wait := some (.group key g.phase), aged := false, paths := v.fir.paths })) ∧
      (∀ r, s.fir.arrived = some r → r.key = key → (s.meeting key).phase ≠ r.ph → ∃ v, exec i s = .next v ∧
        v.fir = { s.fir.advance with arrived := none, paths := v.fir.paths } ∧ v.mem = s.mem ∧ (2 < r.sc.code.toNat → v.renewedOf s s.fir.frond)))

/-- R75, R84, R111, R191: RETIRE outside a gang and with no engine operation of the firing under way publishes its frond's writes, gives
up the sorus, counts in its team, completes a boundary the others wait at, clears dqbase when the core is left empty, and ends the firing.
R112: LAUNCH publishes the writes of the firing first, then copies the sixteen dwords of its record into the next slot of a ring of its
partition, delivers the number of the slot and moves the tail on; a full ring delivers all ones. A trap on the record leaves the writes
published (R39). That a report a handler did not issue does not stop its RETIRE (log 73), and how far LAUNCH releases (log 65, 75), are
the model's choices. -/
def Obligations.RetireAndLaunch : Prop :=
  (∀ (s : State) (t : Team), s.Issues .retire → s.fir.gsize = 0 → s.engineBusy s.fir = false → s.quietFrond → s.fir.groups = [] →
    s.fir.pairset = none → (∀ w ∈ s.fr.hsq, w.adm ≠ s.fir.adm) → s.team? s.fir = some t → t.flag 30 = false → (s.teams.map Team.id).Nodup →
    let m := (s.liveOf t).length - 1 + t.saved
    ∃ v, exec .retire s = .next v ∧ v.fir.live = false ∧ v.mem = (s.publish s.fir.frond .fr).mem ∧ v.others = s.others ∧
      (s.fr.sorus.holder = some s.fir.adm → v.fr.sorus.holder = none) ∧
      ((∀ f ∈ s.others, f.core ≠ s.fir.core) → v.cores[s.fir.core].dqbase = 0) ∧
      (∃ u, v.team? s.fir = some u ∧ u.retired = t.retired + 1 ∧
        (u.phase0, u.arrived0) = if t.arrived0 = m ∧ m ≠ 0 then ((t.phase0 + 1) % 16, 0) else (t.phase0, t.arrived0))) ∧
  (∀ (s r : State) (d a b : BitVec 6) (pls : List Place) (q : Fin 32) (sc : Scope), s.Issues (.launch d a b) → s.fir.gsize = 0 → s.quietOrder →
    (s.rx a).toNat % 128 = 0 → (s.rx a).toNat < 2 ^ 57 → (s.rx b).toNat = q.val →
    bit (s.part.lq[q]).lqcfg 18 = true → (s.part.lq[q]).log2n ≠ 0 → sc = s.launchAt (s.rx a) →
    (∀ tr, (s.publish s.fir.frond sc).placesFrom .load (s.rx a).toNat 16 = .error (.trap tr) →
      exec (.launch d a b) s = .next ((s.publish s.fir.frond sc).trapHere tr)) ∧
    ((s.publish s.fir.frond sc).placesFrom .load (s.rx a).toNat 16 = .ok (r, pls) → (∀ p ∈ pls, r.near false 8 p = true) → s.fir.data = [] →
    let x := s.part.lq[q]
    let slot := x.lqtail.toNat % 2 ^ 32
    let w := r.useEach pls
    let recd := pls.map fun p => BitVec.ofNat 64 (r.readAt p 8)
    ((slot + 2 ^ 32 - x.lqhead.toNat % 2 ^ 32) % 2 ^ 32 = 2 ^ x.log2n →
      ∃ l, exec (.launch d a b) s = .next (({ w with late := l }.wx d (BitVec.allOnes 64)).upd Firing.advance)) ∧
    (∀ t key, (slot + 2 ^ 32 - x.lqhead.toNat % 2 ^ 32) % 2 ^ 32 ≠ 2 ^ x.log2n →
      w.unitPlace s.fir.part s.fir.die false (x.lqbase.toNat + slot % 2 ^ x.log2n * 128) 128 true = some (t, key) →
      ∃ v, exec (.launch d a b) s = .next v ∧ v.mem = writeDwords t.mem key recd ∧ v.fronds = t.fronds ∧
        v.fir = { (s.fir.wx d (BitVec.ofNat 64 slot)).advance with paths := w.fir.paths } ∧
        v.part.lq[q] = { x with lqtail := BitVec.ofNat 64 ((slot + 1) % 2 ^ 32) } ∧
        (∀ y, y ≠ q → v.part.lq[y] = s.part.lq[y]) ∧
        (v.agenda.getLast?.map fun e => (e.op, e.a, e.b)) = some (.launchRecordRead, s.fir.part.val, q.val))))

/-- R34, R172 to R176: a pop takes the oldest entry of its queue, waits on an empty one, and takes PROT on an entry of the other kind or
with no such queue; a pop from a neighbour acquires. A push publishes and adds its entry, or waits on a full queue. A core on the wrong
side takes ILL. QCNT counts. QGET of q15 draws. QCNT of a queue that leads nowhere delivers 0 by the model's reading (log 22). -/
def Obligations.Queues : Prop :=
  ∀ (s : State) (d b : BitVec 6) (x y : BitVec 5) (n : BitVec 4),
    (∀ q, s.queueView n.toNat = some q → popIll n s = false →
      (∀ w, s.Issues (.qget d n) → n.toNat < 14 →
        (q = [] → exec (.qget d n) s = .next (s.upd fun f => { f with wait := some (.queue n.toNat false), aged := false })) ∧
        (∀ es, q = .word w :: es → ∃ v, exec (.qget d n) s = .next v ∧ v.queueView n.toNat = some es ∧
          (∀ m, m ≠ n.toNat → v.queueView m = s.queueView m) ∧
          v.fir = { (s.fir.wx d w).advance with q12 := v.fir.q12, q13 := v.fir.q13 } ∧ v.mem = s.mem) ∧
        (∀ z es, q = .vec z :: es → exec (.qget d n) s = .next (s.trapHere { c := .prot, sub := 0, val := BitVec.ofNat 64 n.toNat }))) ∧
      (∀ z, s.Issues (.vqget x n) →
        (q = [] → exec (.vqget x n) s = .next (s.upd fun f => { f with wait := some (.queue n.toNat false), aged := false })) ∧
        (∀ es, q = .vec z :: es → ∃ v, exec (.vqget x n) s = .next v ∧ v.queueView n.toNat = some es ∧
          (∀ m, m ≠ n.toNat → v.queueView m = s.queueView m) ∧
          v.fir = (s.fir.wv x z).advance ∧ v.mem = s.mem ∧ (s.mem.wf = true → 8 ≤ n.toNat → (∀ h, s.linked n.toNat = some h → h ≠ s.fir.frond) → v.renewedOf s s.fir.frond)) ∧
        (∀ w es, q = .word w :: es → exec (.vqget x n) s = .next (s.trapHere { c := .prot, sub := 0, val := BitVec.ofNat 64 n.toNat })))) ∧
    (∀ q e i, ((i = .qput n b ∧ e = .word (s.rx b)) ∨ (i = .vqput n y ∧ e = .vec (s.fir.rv y))) → s.Issues i → pushIll n s = false →
      n.toNat < 8 → s.queueView n.toNat = some q → s.quietFrond →
      (q.length < 8 → ∃ v, exec i s = .next v ∧ v.queueView n.toNat = some (q ++ [e]) ∧ (∀ m, m ≠ n.toNat → v.queueView m = s.queueView m) ∧
        v.fir = s.fir.advance ∧ v.mem = (s.publish s.fir.frond .fr).mem) ∧
      (8 ≤ q.length → exec i s = .next (s.upd fun f => { f with wait := some (.queue n.toNat true), aged := false }))) ∧
    (∀ g, s.Issues (.vqput n y) → 8 ≤ n.toNat → s.linked n.toNat = some g → s.quietOrder →
      let dir := (n.toNat - 6) % 4
      ((s.fronds[g].incoming dir).length < 4 → ∃ v, exec (.vqput n y) s = .next v ∧
        v.fronds[g].incoming dir = s.fronds[g].incoming dir ++ [s.fir.rv y] ∧ (∀ m, m ≠ dir → v.fronds[g].incoming m = s.fronds[g].incoming m) ∧
        v.fir = s.fir.advance ∧ v.mem = (s.publish s.fir.frond (frondScope s.fir.frond g)).mem) ∧
      (4 ≤ (s.fronds[g].incoming dir).length → exec (.vqput n y) s = .next (s.upd fun f => { f with wait := some (.queue n.toNat true), aged := false }))) ∧
    (s.queueView n.toNat = none → n.toNat < 12 →
      (∀ i ∈ [Instr.qget d n, .vqget x n], s.Issues i → popIll n s = false →
        exec i s = .next (s.trapHere { c := .prot, sub := 0, val := BitVec.ofNat 64 n.toNat })) ∧
      (∀ i ∈ [Instr.qput n b, .vqput n y], s.Issues i → pushIll n s = false →
        exec i s = .next (s.trapHere { c := .prot, sub := 0, val := BitVec.ofNat 64 n.toNat }))) ∧
    (∀ i, ((i = .qget d n ∨ i = .vqget x n) ∧ popIll n s = true) ∨ ((i = .qput n b ∨ i = .vqput n y) ∧ pushIll n s = true) → s.Issues i →
      exec i s = .next (s.trapHere { c := .ill, sub := 0, val := BitVec.setWidth 64 (encode i) })) ∧
    (s.Issues (.qget d 15) → exec (.qget d 15) s = .next (s.upd fun f =>
      { (f.wx d (drawOf f.seedlo f.seedhi (BitVec.allOnes 64) f.sstream)).advance with sstream := f.sstream + 1 })) ∧
    (s.Issues (.qcnt d n) →
      (∀ q, n.toNat < 8 → s.queueView n.toNat = some q → exec (.qcnt d n) s = .next ((s.wx d (BitVec.ofNat 64
        (if s.fir.stage = decide (n.toNat < 4) then 8 - q.length else q.length))).upd Firing.advance)) ∧
      (∀ g, s.linked n.toNat = some g → 8 ≤ n.toNat → n.toNat < 12 → exec (.qcnt d n) s = .next ((s.wx d (BitVec.ofNat 64
        ((s.fr.incoming (n.toNat - 8)).length + 256 * (4 - (s.fronds[g].incoming ((n.toNat - 6) % 4)).length)))).upd Firing.advance)) ∧
      (n = 12 → exec (.qcnt d n) s = .next (((s.wx d (BitVec.ofNat 64 (s.fir.q12.length + (if s.fir.q12lost then 256 else 0)))).upd fun f =>
        { f with q12lost := false }).upd Firing.advance)) ∧
      (n = 13 → exec (.qcnt d n) s = .next ((s.wx d (BitVec.ofNat 64 s.fir.q13.length)).upd Firing.advance)) ∧
      (n = 15 → exec (.qcnt d n) s = .next ((s.wx d 1).upd Firing.advance)) ∧
      (s.queueView n.toNat = none → (n.toNat < 8 → exec (.qcnt d n) s = .next (s.trapHere { c := .prot, sub := 0, val := BitVec.ofNat 64 n.toNat })) ∧
        (8 ≤ n.toNat → n.toNat < 12 → exec (.qcnt d n) s = .next ((s.wx d 0).upd Firing.advance))))

/-- R81, R177 to R180: SEND puts its header and payload into the buffer of 64 of a core of this package, behind those already on their way
there, or sends them to another package the peer table names, or is refused there with subcode 4; SENDV does so for every active lane of a
vector of core numbers. While the path to a core named takes no more both wait. A payload outside the allocation traps, and reserved bits
of the destination word or of a lane, the lanes below which have been sent. How the messages on their way to a full buffer stand in line
is the model's choice (log 18). -/
def Obligations.Messages : Prop :=
  ∀ (s : State) (a b p : BitVec 6) (x : BitVec 5),
    let h := s.rx b
    let c := (h.toNat / 2 ^ 9) % 8
    let brings := (s.fir.core.val, s.fir.part.val, s.fir.adm, s.sentHeader h, s.payloadOf p c)
    let toward := fun (t : State) (k : Fin 2048) => (t.cores[k].inbound ++ t.cores[k].onway).map Message.brings
    (∀ i ∈ [Instr.send a b p, .sendv x b p], s.Issues i → 0 < c → min 64 s.fir.dem.xregs < p.toNat + c →
      exec i s = .next (s.trapHere { c := .regrange, sub := 0, val := BitVec.ofNat 64 (p.toNat + c - 1) })) ∧
    (s.Issues (.send a b p) → p.toNat + c ≤ min 64 s.fir.dem.xregs →
      let w := (s.rx a).toNat
      let pkg := w / 2 ^ 32
      let core := w % 2 ^ 11
      (2 ^ 54 ≤ w ∨ w / 2 ^ 11 % 2 ^ 21 ≠ 0 → exec (.send a b p) s = .next (s.trapHere { c := .prot, sub := 0, val := s.rx a })) ∧
      (w < 2 ^ 54 → w / 2 ^ 11 % 2 ^ 21 = 0 → pkg = s.dev.pkg → s.pathFull core = true →
        exec (.send a b p) s = .next (s.upd fun f => { f with wait := some (.path core), aged := false })) ∧
      (w < 2 ^ 54 → w / 2 ^ 11 % 2 ^ 21 = 0 → (pkg = s.dev.pkg → s.pathFull core = false) → ∃ v, exec (.send a b p) s = .next v ∧ v.mem = s.mem ∧
        v.fir = { s.fir.advance with opn := v.fir.opn } ∧
        (pkg = s.dev.pkg → (∀ k : Fin 2048, k.val = core →
            (toward v k = toward s k ++ [brings]) ∧ (64 ≤ s.cores[k].inbound.length → v.cores[k].inbound = s.cores[k].inbound) ∧
              (s.cores[k].inbound.length < 64 → s.cores[k].onway = [] → v.cores[k].onway = [])) ∧
          (∀ k : Fin 2048, k.val ≠ core → v.cores[k] = s.cores[k]) ∧
          (v.agenda.getLast?.map fun e => (e.op, e.a)) = some (.messageDispatch, core)) ∧
        (pkg ≠ s.dev.pkg → v.cores = s.cores ∧
          ((s.peerFor s.fir.part pkg).isSome = true → pkg ∉ s.lost →
            ∃ m : Message, v.sent = s.sent ++ [.message pkg m] ∧ m.brings = brings ∧ m.core = core ∧ m.srcPkg = s.dev.pkg) ∧
          (s.peerFor s.fir.part pkg = none ∨ pkg ∈ s.lost →
            (v.agenda.getLast?.map fun e => (e.op, e.a, e.b, e.v)) = some (.messageRefusalReturn, s.fir.adm, 4, s.sentHeader h)))))  ∧
    (s.Issues (.sendv x b p) → p.toNat + c ≤ min 64 s.fir.dem.xregs →
      let lane := fun i => elem (s.fir.rv x) 32 i
      let goes := fun i => lane i < 2 ^ 31 → lane i < 2 ^ 11 ∧ s.pathFull (lane i) = false
      (∀ j, j < 64 → (∀ i, i < j → goes i) → lane j < 2 ^ 11 → s.pathFull (lane j) = true →
        exec (.sendv x b p) s = .next (s.upd fun f => { f with wait := some (.path (lane j)), aged := false })) ∧
      (∀ j, j < 64 → (∀ i, i < j → goes i) → 2 ^ 11 ≤ lane j → lane j < 2 ^ 31 →
        ∃ v, exec (.sendv x b p) s = .next (v.trapHere { c := .prot, sub := 0, val := BitVec.ofNat 64 j }) ∧ v.mem = s.mem ∧
          v.fir = { s.fir with opn := v.fir.opn } ∧
          ∀ k : Fin 2048, toward v k = toward s k ++ ((List.range j).filter fun i => lane i == k.val).map fun _ => brings) ∧
      ((∀ i, i < 64 → goes i) → ∃ v, exec (.sendv x b p) s = .next v ∧ v.mem = s.mem ∧
        v.fir = { s.fir.advance with opn := v.fir.opn } ∧
        ∀ k : Fin 2048, toward v k = toward s k ++ ((List.range 64).filter fun i => lane i == k.val).map fun _ => brings))

/-- R182 to R187, R190: CWR and CRD write and read a copy control register. CGO with registers that keep R182, a free channel and room in
the range-lock table takes the channel, locks its sides, and delivers a transfer id no active copy of the frond has; with no free channel
it delivers 0; a bad register takes PROT with its number, .len before .flg, and a barrier address that is not aligned or in no aperture
ALIGN or PROT. CGO waits for the firing's earlier bank operations and remote writes (R242). CWP delivers the bytes done of an active copy
of the firing, else all ones. That a copy whose channel is not free is checked first is the model's choice (log 57). -/
def Obligations.CopyControl : Prop :=
  ∀ (s : State) (d a : BitVec 6) (n : BitVec 3),
    (s.Issues (.cwr n a) → exec (.cwr n a) s = .next ((s.upd fun f => { f with cr := f.cr.set n.toNat (s.rx a) }).upd Firing.advance)) ∧
    (s.Issues (.crd n d) → exec (.crd n d) s = .next ((s.wx d s.fir.cr[n.toNat]).upd Firing.advance)) ∧
    (s.Issues (.cwp d a) →
      (∀ (k : Fin 4) (c : Copy), s.fr.chans[k] = some c → c.live = true → c.adm = s.fir.adm → c.id < 2 ^ 16 → (s.rx a).toNat = c.id →
        (∀ (j : Fin 4) e, s.fr.chans[j] = some e → e.live = true → j ≠ k → e.id < 2 ^ 16 ∧ e.id ≠ c.id) →
        exec (.cwp d a) s = .next ((s.wx d (BitVec.ofNat 64 c.bytes)).upd Firing.advance)) ∧
      ((∀ (k : Fin 4) (c : Copy), s.fr.chans[k] = some c → c.live = true → c.adm = s.fir.adm → BitVec.ofNat 64 c.id ≠ s.rx a) →
        exec (.cwp d a) s = .next ((s.wx d (BitVec.allOnes 64)).upd Firing.advance))) ∧
    (s.Issues (.cgo d) →
      let cr := s.fir.cr
      let badLen := cr[2].toNat % 2 ^ 48 = 0 ∨ cr[2].toNat / 2 ^ 48 ≠ 0
      let badFlg := cr[7].toNat / 2 ^ 52 % 2 ^ 9 ≠ 0 ∨ ((cr[7].getLsbD 63 = true ∨ cr[7].getLsbD 62 = true) ∧ cr[7].toNat % 2 ^ 52 ≠ 0)
      (badLen → exec (.cgo d) s = .next (s.trapHere { c := .prot, sub := 0, val := 2 })) ∧
      (¬ badLen → badFlg → exec (.cgo d) s = .next (s.trapHere { c := .prot, sub := 0, val := 7 })) ∧
      (¬ badLen → ¬ badFlg → s.earlier = true → exec (.cgo d) s = .next (s.upd fun f => { f with wait := some .posted, aged := false })) ∧
      (∀ t u sd sp dd dp, ¬ badLen → ¬ badFlg → s.earlier = false → s.copySide (copyShs cr) cr[0] = .ok (t, sd, sp) → t.copySide (copyShd cr) cr[1] = .ok (u, dd, dp) →
        (copyShs cr = true → copyShd cr = true → bits (dword sd 0) 5 4 = bits (dword dd 0) 5 4) →
        (cr[6].toNat % 16 ≠ 0 → exec (.cgo d) s = .next (s.trapHere { c := .align, sub := 0, val := cr[6] })) ∧
        (cr[6] ≠ 0 → cr[6].toNat % 16 = 0 → (cr[6].toNat / 2 ^ 48 ≠ 0x1FF ∨ 2 < cr[6].toNat / 2 ^ 44 % 16) →
          exec (.cgo d) s = .next (s.trapHere { c := .prot, sub := 0, val := cr[6] })) ∧
        (u.checkTb cr[6] = .ok () → (∀ (k : Fin 4) c, s.fr.chans[k] = some c → c.live = true ∨ c.adm ≠ s.fir.adm) →
        ((∀ k : Fin 4, s.fr.chans[k] ≠ none) → exec (.cgo d) s = .next ((u.wx d 0).upd Firing.advance)) ∧
        (∀ k : Fin 4, s.fr.chans[k] = none → (∀ j : Fin 4, j.val < k.val → s.fr.chans[j] ≠ none) → 0 < s.fr.nextId → s.fr.nextId ≤ 65535 →
          s.lockFree (copyLocks s.fir.frond cr 0).length → ∃ v c, exec (.cgo d) s = .next v ∧ v.fr.chans[k] = some c ∧
            (∀ j : Fin 4, j ≠ k → v.fr.chans[j] = s.fr.chans[j]) ∧ 0 < c.id ∧ c.id ≤ 65535 ∧ c.id ∉ s.fr.ids ∧
            c.live = true ∧ c.adm = s.fir.adm ∧ c.cr = cr ∧ c.bytes = 0 ∧ c.srcDesc = sd ∧ c.dstDesc = dd ∧ c.srcPlace = sp ∧ c.dstPlace = dp ∧
            v.fr.locks = s.fr.locks ++ copyLocks s.fir.frond cr c.id ∧ v.mem = u.mem ∧
            v.fir = (s.fir.wx d (BitVec.ofNat 64 c.id)).advance ∧
            (v.agenda.getLast?.map fun e => (e.op, e.a, e.b)) = some (.copySector, s.fir.frond.val, k.val)))))

/-- R188, R189: TXINIT sets a barrier's count and clears phase and bytes; TXARR publishes, lowers the count and delivers the phase before
it; TXEXP raises the sectors awaited; nothing awaited ends the phase, which releases the waiters for another phase, and TXINIT releases
none. TXWAIT waits while the phase is the one named and it has not been released, and then acquires; TXTRY answers 0 or acquires and
answers 1. -/
def Obligations.Barriers : Prop :=
  ∀ (s u : State) (d a b : BitVec 6) (pl : Place), s.mem.wf = true →
    let k := pl.key
    let ph := (s.rx b).toNat % 16
    (s.objAt (s.rx a) 16 = .ok (u, pl) →
      (s.Issues (.txinit a b) → 1 ≤ (s.rx b).toNat → (s.rx b).toNat < 2 ^ 24 → ∃ v, exec (.txinit a b) s = .next v ∧
        v.barrierAt k = { init := (s.rx b).toNat, pend := (s.rx b).toNat, phase := 0, sect := 0 } ∧
        (∀ c, c < k ∨ k + 16 ≤ c → v.mem.get c = u.mem.get c) ∧ v.fir = { s.fir.advance with paths := u.fir.paths } ∧ v = { u with fir := v.fir, mem := v.mem }) ∧
      (s.Issues (.txexp a b) → (s.rx b).toNat < 2 ^ 47 → ∃ v, exec (.txexp a b) s = .next v ∧
        v.barrierAt k = (u.barrierAt k).after (u.barrierAt k).pend ((u.barrierAt k).sect + (s.rx b).toNat) ∧
        (∀ c, c < k ∨ k + 16 ≤ c → v.mem.get c = u.mem.get c) ∧ v.fir = { s.fir.advance with paths := u.fir.paths } ∧ v.barrierMoved u k) ∧
      (s.Issues (.txwait a b) →
        ((u.barrierAt k).phase = ph → s.fir.wait ≠ some .released →
          exec (.txwait a b) s = .next (u.upd fun f => { f with wait := some (.barrier k ph), aged := false })) ∧
        ((u.barrierAt k).phase ≠ ph ∨ s.fir.wait = some .released → exec (.txwait a b) s = .next ((u.acquire (u.homeScope pl)).upd Firing.advance))) ∧
      (s.Issues (.txtry d a b) → exec (.txtry d a b) s = .next (
        if (u.barrierAt k).phase = ph then (u.wx d 0).upd Firing.advance else ((u.acquire (u.homeScope pl)).wx d 1).upd Firing.advance)) ∧
      (s.Issues (.txinit a b) → (s.rx b = 0 ∨ 2 ^ 24 ≤ (s.rx b).toNat) →
        exec (.txinit a b) s = .next (s.trapHere { c := .prot, sub := 0, val := s.rx b })) ∧
      (s.Issues (.txexp a b) → 2 ^ 47 ≤ (s.rx b).toNat → exec (.txexp a b) s = .next (s.trapHere { c := .prot, sub := 0, val := s.rx b }))) ∧
    (s.objNear (s.rx a) 16 = .ok (u, pl) → s.Issues (.txarr d a) → s.quietOrder →
      let w := (u.publish s.fir.frond (u.homeScope pl)).usePath pl
      ((w.barrierAt k).pend ≠ 0 → ∃ v, exec (.txarr d a) s = .next v ∧
        v.barrierAt k = (w.barrierAt k).after ((w.barrierAt k).pend - 1) (w.barrierAt k).sect ∧
        (∀ c, c < k ∨ k + 16 ≤ c → v.mem.get c = w.mem.get c) ∧
        v.fir = { (s.fir.wx d (BitVec.ofNat 64 (w.barrierAt k).phase)).advance with paths := w.fir.paths } ∧ v.barrierMoved w k) ∧
      ((w.barrierAt k).pend = 0 → exec (.txarr d a) s = .next (w.trapHere { c := .prot, sub := 0, val := s.rx a })))

/-- R191, R192: on a core's deque in use DQPUSH puts a task at the head and answers 1, or 0 when it is full; DQPOP takes the newest; a
steal takes the oldest of the victim a draw names, by the victim's engine; where the draw names the stealer itself the answer is (0, 0) at
once. A deque not in use and an empty one answer 0. -/
def Obligations.Deques : Prop :=
  ∀ (s : State) (d b : BitVec 6), s.mem.wf = true → s.loggedTeam s.fir = none →
    (s.Issues (.dqpush d b) →
      (s.deque s.fir.core = none → exec (.dqpush d b) s = .next ((s.wx d 0).upd Firing.advance)) ∧
      (∀ q, s.deque s.fir.core = some q →
        (q.cap ≤ q.count → exec (.dqpush d b) s = .next ((s.wx d 0).upd Firing.advance)) ∧
        (q.count < q.cap → ∃ v, exec (.dqpush d b) s = .next v ∧ v.deque s.fir.core = some { q with head := (q.head + 1) % 2 ^ 32 } ∧
          v.mem.read (q.slot q.head) 8 = (s.rx b).toNat ∧ v.fir = (s.fir.wx d 1).advance ∧ v = { s with fir := v.fir, mem := v.mem } ∧
          (∀ k, (k < q.key + 8 ∨ q.key + 12 ≤ k) → (k < q.slot q.head ∨ q.slot q.head + 8 ≤ k) → v.mem.get k = s.mem.get k)))) ∧
    (s.Issues (.dqpop d) →
      (s.deque s.fir.core = none → exec (.dqpop d) s = .next (((s.wx d 0).wx (d + 1) 0).upd Firing.advance)) ∧
      (∀ q, s.deque s.fir.core = some q →
        (q.head = q.tail → exec (.dqpop d) s = .next (((s.wx d 0).wx (d + 1) 0).upd Firing.advance)) ∧
        (q.head ≠ q.tail → ∃ v h, h = (q.head + (2 ^ 32 - 1)) % 2 ^ 32 ∧ exec (.dqpop d) s = .next v ∧
          v.deque s.fir.core = some { q with head := h } ∧
          v.fir = ((s.fir.wx d 1).wx (d + 1) (BitVec.ofNat 64 (s.mem.read (q.slot h) 8))).advance ∧ v = { s with fir := v.fir, mem := v.mem } ∧
          (∀ k, (k < q.key + 8 ∨ q.key + 12 ≤ k) → v.mem.get k = s.mem.get k)))) ∧
    (s.Issues (.dqsteal d b) → s.fir.wait = none →
      let n := stealVictim s.part s.fir.part.val s.fir.core.val (s.rx b)
      (n = s.fir.core.val → exec (.dqsteal d b) s = .next (((s.wx d 0).wx (d + 1) 0).upd Firing.advance)) ∧
      (n ≠ s.fir.core.val → (∃ v, exec (.dqsteal d b) s = .next v ∧ v.fir = { s.fir with wait := some .answer, aged := false } ∧
        v.agenda = s.agenda ++ [{ op := .dqstealServe, a := s.fir.adm, b := n, c := d.toNat, v := 0, l := [] }]))) ∧
    (s.fir.live = true → s.ev.a = s.fir.adm → s.fir.wait = some .answer → s.fir.pends = [] → s.ev.b < 2048 → s.ev.c < 64 →
      (∀ g ∈ s.gangs, s.fir.adm ∉ g.members) →
      let c := coreNo s.ev.b
      let r : BitVec 6 := BitVec.ofNat 6 s.ev.c
      (∀ q, s.deque c = some q → q.head ≠ q.tail → ∃ v, exec .dqstealServe s = .next v ∧
        v.deque c = some { q with tail := (q.tail + 1) % 2 ^ 32 } ∧
        v.fir = ((s.fir.wx r 1).wx (r + 1) (BitVec.ofNat 64 (s.mem.read (q.slot q.tail) 8))).advance ∧ v = { s with fir := v.fir, mem := v.mem }) ∧
      (s.deque c = none ∨ (∃ q, s.deque c = some q ∧ q.head = q.tail) →
        exec .dqstealServe s = .next (((s.wx r 0).wx (r + 1) 0).upd Firing.advance)))

/-- R273 to R285, R333: an element-wise vector instruction that issues completes: every element that takes part under the mask becomes its
rule's value at the element's width, every other one keeps its value, the flags of those that take part are ORed into fflags, and nothing
else changes. Transcendental results are the model's interval arithmetic (log 9). -/
def Obligations.VectorElements : Prop :=
  ∀ (s : State) (i : Instr) (w : Nat) (d : BitVec 5) (k : BitVec 3) (g : Nat → Nat × Nat), s.Issues i → vectorLane s.fir i = some (w, d, k, g) →
    ∃ t, exec i s = .next t ∧ t.onlyFiring s ∧
      (∀ e, e < 2048 / w → elem (t.fir.rv d) w e = if takesPart (s.fir.rk k) w e then (g e).1 % 2 ^ w else elem (s.fir.rv d) w e) ∧
      t.fir.vectorDone s.fir d fun b => ∃ e, e < 2048 / w ∧ takesPart (s.fir.rk k) w e = true ∧ (g e).2.testBit b = true

/-- R282, R283, R285: VCMP writes the outcome of each element that takes part to every mask bit of its lanes and keeps the rest; the mask
instructions write their word; KPOPC counts. A write to k0 is discarded. -/
def Obligations.MasksAndCompares : Prop :=
  ∀ (s : State),
    (∀ i d v, s.Issues i → maskResult s.fir i = some (d, v) → exec i s = .next ((s.wk d v).upd Firing.advance)) ∧
    (∀ d q, s.Issues (.kpopc d q) → exec (.kpopc d q) s =
      .next ((s.wx d (BitVec.ofNat 64 ((List.range 64).countP fun b => (s.fir.rk q).getLsbD b))).upd Firing.advance)) ∧
    (∀ (p : VPred) (t : CmpTy) (d : BitVec 3) (a b : BitVec 5) (k : BitVec 3), s.Issues (.vcmp p t d a b k) →
      let w := (cmpNum t).1
      let out := fun e => numPred (cmpNum t).2 p (s.fir.ve w a e) (s.fir.ve w b e)
      ∃ v m fl, exec (.vcmp p t d a b k) s = .next (((s.wk d m).upd fun f => f.orFlags fl).upd Firing.advance) ∧
        v = m ∧ (∀ l, l < 64 → v.getLsbD l = if takesPart (s.fir.rk k) w (l * 32 / w) then (out (l * 32 / w)).1 else (s.fir.rk d).getLsbD l) ∧
        (∀ c, c < 64 → (fl.getLsbD c = true ↔ ∃ l, l < 64 ∧ takesPart (s.fir.rk k) w (l * 32 / w) = true ∧ (out (l * 32 / w)).2.testBit c = true)))

/-- R64, R284 to R287: VCOMPRESS packs the active lanes; VINS and VEXT move one element; a reduction leaves its tree in element 0; VREDQ
adds the tree of each vector it pops to element 0 and counts down, and with a count of 0 changes nothing. -/
def Obligations.MovesAndReductions : Prop :=
  ∀ (s : State) (d a : BitVec 5) (k : BitVec 3),
    (s.Issues (.vcompress d a k) → exec (.vcompress d a k) s =
      .next ((s.wv d (pack 2048 32 (((List.range 64).filter fun l => (s.fir.rk k).getLsbD l).map fun l => s.fir.ve 32 a l))).upd Firing.advance)) ∧
    (∀ w x j, s.Issues (.vins w d x j) → ∃ t, exec (.vins w d x j) s = .next t ∧ t.onlyFiring s ∧ t.fir.vectorDone s.fir d (fun _ => False) ∧
      ∀ e, e < 2048 / laneBits w → elem (t.fir.rv d) (laneBits w) e =
        if e = j.toNat then (s.rx x).toNat % 2 ^ laneBits w else elem (s.fir.rv d) (laneBits w) e) ∧
    (∀ w u x j, s.Issues (.vext w u x a j) → exec (.vext w u x a j) s = .next ((s.wx x
      (let v := BitVec.ofNat (laneBits w) (s.fir.ve (laneBits w) a j.toNat); if u then v.signExtend 64 else v.setWidth 64)).upd Firing.advance)) ∧
    (∀ i F op z, reductionOf i = some (F, d, a, k, op, z) → s.Issues i →
      let r := reduced F op z (s.fir.rk k) (s.fir.rv a)
      ∃ t, exec i s = .next t ∧ t.onlyFiring s ∧ t.fir.vectorDone s.fir d (fun b => r.2.testBit b = true) ∧
        elem (t.fir.rv d) F.width 0 = r.1 % 2 ^ F.width ∧ ∀ e, 0 < e → e < 2048 / F.width → elem (t.fir.rv d) F.width e = elem (s.fir.rv d) F.width e) ∧
    (∀ y n c, s.Issues (.vredq y d n c k) → popIll n s = false →
      (s.rx c = 0 → exec (.vredq y d n c k) s = .next (s.upd Firing.advance)) ∧
      (∀ v es, s.rx c ≠ 0 → s.queueView n.toNat = some (.vec v :: es) →
        let F := rfFmt y
        let r := reduced F (fAdd F Rnd.rne) (2 ^ (F.width - 1)) (s.fir.rk k) v
        let q := fAdd F Rnd.rne (elem (s.fir.rv d) F.width 0) r.1
        ∃ t, exec (.vredq y d n c k) s = .next t ∧ t.queueView n.toNat = some es ∧ t.mem = s.mem ∧ t.rx c = s.rx c - 1 ∧
          elem (t.fir.rv d) F.width 0 = q.1 % 2 ^ F.width ∧ (∀ e, 0 < e → e < 2048 / F.width → elem (t.fir.rv d) F.width e = elem (s.fir.rv d) F.width e) ∧
          t.fir.fflags = s.fir.fflags ||| BitVec.ofNat 64 (r.2 ||| q.2) ∧ (∀ x, x ≠ c → t.rx x = s.rx x) ∧ (∀ x, x ≠ d → t.fir.rv x = s.fir.rv x) ∧
          (s.rx c = 1 → t.fir.pc = s.fir.advance.pc) ∧ (s.rx c ≠ 1 → t.fir.pc = s.fir.pc ∧ t.fir.wait = none)))

/-- R31, R53, R288 to R292: FMT holds its word and sets FPEND. A conversion whose prefix suits it takes the prefix and clears FPEND: VCVT
converts each element that takes part, with its scale; VCVTO marks outliers and puts them aside; VPLANE and VUNPLANE take bytes to bit
planes and back. An unsuitable prefix, or none, is ILL. The flags under a NaN scale are the model's reading (log 34). -/
def Obligations.Conversions : Prop :=
  ∀ (s : State),
    (∀ t u c x p z, s.Issues (.fmt t u c x p z) → ∃ v, exec (.fmt t u c x p z) s = .next v ∧ v.onlyFiring s ∧
      v.fir.pfx = encode (.fmt t u c x p z) ∧ v.fir.fpend = true ∧
      v.fir = { s.fir.advance with pfx := v.fir.pfx, fstat := v.fir.fstat } ∧
      (∀ b, 0 < b → b < 64 → v.fir.fstat.getLsbD b = s.fir.advance.fstat.getLsbD b)) ∧
    (∀ m z h d a k, s.IssuesPrefixed (.vcvt m z h d a k) → s.fir.fmt.vcvtOk h (d == a) = true →
      let p := s.fir.fmt
      let t := etNum s.fir.topx p.fa
      let u := etNum s.fir.topx p.fb
      let src := vcvtSource t.width u.width h
      let act := fun i => ∃ e, src i = some e ∧ takesPart (s.fir.rk k) u.width e = true
      let res := fun i e =>
        if p.sc then convertScaled t u (s.fir.rnd m z i) (s.fir.ve u.width a e)
          ((s.rx p.xs).toNat / 2 ^ (8 * ((if t.width < u.width then e else i) / 64)) % 256) (narrow p.fa)
        else convert t u (s.fir.rnd m z i) (s.fir.ve u.width a e) 0
      ∃ v, exec (.vcvt m z h d a k) s = .next v ∧ v.onlyFiring s ∧ v.fir.fpend = false ∧
        (∀ i e, i < 2048 / t.width → src i = some e → takesPart (s.fir.rk k) u.width e = true →
          elem (v.fir.rv d) t.width i = (res i e).1 % 2 ^ t.width) ∧
        (∀ i, i < 2048 / t.width → ¬act i → elem (v.fir.rv d) t.width i = elem (s.fir.rv d) t.width i) ∧
        (v.fir.clrPfx.vectorDone s.fir.clrPfx d fun b => ∃ i e, i < 2048 / t.width ∧ src i = some e ∧ takesPart (s.fir.rk k) u.width e = true ∧
          (res i e).2.testBit b = true)) ∧
    (∀ m z d q a k, s.IssuesPrefixed (.vcvto m z d q a k) → s.fir.fmt.vcvtoOk = true →
      let t := etNum s.fir.topx s.fir.fmt.fa
      let x := fun e => s.fir.ve 32 a e
      let out := fun e => f32.isNan (x e) || fLt f32 ((s.rx s.fir.fmt.xs).toNat % 2 ^ 32) (x e % 2 ^ 31)
      let on := fun e => (s.fir.rk k).getLsbD e
      let side := ((List.range 64).filter fun e => on e && out e).map fun e => (convert (.flt f16) (.flt f32) (s.fir.rnd m z e) (x e) 0).1
      ∃ v, exec (.vcvto m z d q a k) s = .next v ∧ v.onlyFiring s ∧ v.fir.fpend = false ∧ v.fir.pc = s.fir.advance.pc ∧ v.fir.x = s.fir.x ∧
        (∀ e, e < 64 → on e = true → elem (v.fir.rv d) 8 e = if out e then 0 else (convert t (.flt f32) (s.fir.rnd m z e) (x e) 0).1 % 256) ∧
        (∀ e, e < 256 → (64 ≤ e ∨ on e = false) → elem (v.fir.rv d) 8 e = elem (s.fir.rv d) 8 e) ∧
        (∀ e, e < 128 → elem (v.fir.rv (d + 1)) 16 e = side.getD e 0 % 2 ^ 16) ∧
        (q ≠ 0 → ∀ e, e < 64 → (v.fir.rk q).getLsbD e = if on e then out e else (s.fir.rk q).getLsbD e) ∧
        (∀ r, r ≠ d → r ≠ d + 1 → v.fir.rv r = s.fir.rv r) ∧ (∀ r, r ≠ q → v.fir.rk r = s.fir.rk r)) ∧
    (∀ d a, s.IssuesPrefixed (.vplane d a) → s.fir.fmt.planeOk false = true →
      ∃ v, exec (.vplane d a) s = .next v ∧ v.onlyFiring s ∧ v.fir.fpend = false ∧ v.fir.clrPfx.vectorDone s.fir.clrPfx d (fun _ => False) ∧
        ∀ j k e, j < 4 → k < 8 → e < 64 → (v.fir.rv d).getLsbD (64 * (8 * j + k) + e) =
          (decide (k ≤ s.fir.fmt.pl) && (s.fir.rv a).getLsbD (8 * (64 * j + e) + (7 - k)))) ∧
    (∀ d a, s.IssuesPrefixed (.vunplane d a) → s.fir.fmt.planeOk true = true →
      let p := s.fir.fmt.pl + 1
      ∃ v, exec (.vunplane d a) s = .next v ∧ v.onlyFiring s ∧ v.fir.fpend = false ∧ v.fir.clrPfx.vectorDone s.fir.clrPfx d (fun _ => False) ∧
        ∀ j e b, j < 4 → e < 64 → b < 8 → (v.fir.rv d).getLsbD (8 * (64 * j + e) + (7 - b)) =
          if b < p then (s.fir.rv a).getLsbD (64 * (8 * j + b) + e) else decide (b = p) && s.fir.fmt.ctr) ∧
    (∀ i, (∃ d a, i = .vplane d a ∧ s.fir.fmt.planeOk false = false) ∨ (∃ d a, i = .vunplane d a ∧ s.fir.fmt.planeOk true = false) ∨
        (∃ m z h d a k, i = .vcvt m z h d a k ∧ s.fir.fmt.vcvtOk h (d == a) = false) ∨ (∃ m z d q a k, i = .vcvto m z d q a k ∧ s.fir.fmt.vcvtoOk = false) →
      s.IssuesPrefixed i → exec i s = .next (s.trapHere { c := .ill, sub := 0, val := BitVec.setWidth 64 (encode i) })) ∧
    (∀ i, (∃ d a, i = .vplane d a) ∨ (∃ d a, i = .vunplane d a) ∨ (∃ m z h d a k, i = .vcvt m z h d a k) ∨ (∃ m z d q a k, i = .vcvto m z d q a k) →
      s.Issues i → exec i s = .next (s.trapHere { c := .ill, sub := 0, val := BitVec.setWidth 64 (encode i) }))

/-- R328 to R337: SPDRAW, SPUNI and SPEXP deliver a draw, its uniform or its exponential, of the stream and index their registers name.
DIGEST folds a dword into the 64-byte context at its address; DIGESTM folds the next bytes of a range up to a 4 KiB boundary and moves on,
until none is left. The hash is SHA3-512 as FIPS 202 has it, which the spec names and does not define (log 24); logarithms are the model's
interval arithmetic (log 9). -/
def Obligations.DrawsAndDigests : Prop :=
  ∀ (s u w : State) (y : SpTy) (d a b n : BitVec 6) (pl : Place) (pls : List (Nat × Place)),
    let r := drawOf s.fir.seedlo s.fir.seedhi (s.rx b) (if a = 0 then s.fir.sstream else s.rx a)
    (s.Issues (.spdraw y d a b) → exec (.spdraw y d a b) s =
      .next ((s.wx d (match y with
        | .w32 => (r.setWidth 32).setWidth 64
        | .w64 => r)).upd Firing.advance)) ∧
    (s.Issues (.spuni y d a b) → exec (.spuni y d a b) s =
      .next ((s.wx d (BitVec.ofNat 64 (match y with
        | .w32 => uni32 r
        | .w64 => uni64 r))).upd Firing.advance)) ∧
    (s.Issues (.spexp y d a b) → exec (.spexp y d a b) s =
      .next ((s.wx d (BitVec.ofNat 64 (match y with
        | .w32 => expVar f32 r
        | .w64 => expVar f64 r))).upd Firing.advance)) ∧
    (s.mem.wf = true → s.ownSpad .obj (s.rx a) 64 64 = .ok (u, pl) →
      let c := s.mem.read pl.key 64
      (s.Issues (.digest a b) → ∃ v, exec (.digest a b) s = .next v ∧
        v.mem.read pl.key 64 = sha3 (c + (s.rx b).toNat * 2 ^ 512) 72 % 2 ^ 512 ∧ (∀ k, k < pl.key ∨ pl.key + 64 ≤ k → v.mem.get k = s.mem.get k) ∧
        v.fir = { s.fir.advance with paths := v.fir.paths } ∧ v.fronds = s.fronds) ∧
      (s.Issues (.digestm a b n) →
        (s.rx n = 0 → exec (.digestm a b n) s = .next (u.upd Firing.advance)) ∧
        (let len := min (s.rx n).toNat (4096 - (s.rx b).toNat % 4096)
         s.rx n ≠ 0 → b ≠ n → a ≠ b → a ≠ n → s.fir.pends = [] → s.fir.data = [] →
         u.elemPlaces .load 1 (fun i => (((s.rx b).toNat + i : Nat) : Int)) (List.range len) = .ok (w, pls) → (∀ p ∈ pls, w.near false 1 p.2 = true) →
         ∃ v, exec (.digestm a b n) s = .next v ∧
           v.mem.read pl.key 64 = sha3 (w.mem.read pl.key 64 + packNat 8 (pls.map fun p => w.readAt p.2 1) * 2 ^ 512) (64 + len) % 2 ^ 512 ∧
           v.rx n = s.rx n - BitVec.ofNat 64 len ∧ (b ≠ 0 → v.rx b = s.rx b + BitVec.ofNat 64 len) ∧ (∀ x, x ≠ b → x ≠ n → v.rx x = s.rx x) ∧
           ((s.rx n).toNat = len → v.fir.pc = s.fir.advance.pc) ∧ ((s.rx n).toNat ≠ len → v.fir.pc = s.fir.pc ∧ v.fir.wait = none))))

/-- R294 to R301: an MMA whose types and operands suit it, with room in the array and the table, is accepted: it ends at once, its word,
prefix, register values and TOPX are captured behind the MMAs before it, its range locks are registered, the prefix is taken, and CLR
zeroes an accumulator no other MMA uses. R63, R70, R299 to R301: when a step of the array's first MMA ends, every element of its
accumulator takes the exact sum of the products of its two lines with one rounding or one clamp, the flags go to the accumulator, and the
MMA has one more step done; after its last step it leaves the array, its range locks go, and TOK gives its token to q13. The order of
checks of one kind and the sign of an exact zero are the model's reading (log 35). -/
def Obligations.MatrixArray : Prop :=
  (∀ (s : State) (t c : Bool) (a : BitVec 2) (sa : Bool) (ra : BitVec 5) (sb : Bool) (rb : BitVec 5) (k : BitVec 6),
    let i := Instr.mma t c a sa ra sb rb k
    let pfx : BitVec 32 := if s.fir.fpend then s.fir.pfx else 0
    let p := mmaPrefx pfx
    let pair := fun (sp : Bool) (r : BitVec 5) (j : Nat) => if sp then s.rx (BitVec.ofNat 6 (2 * r.toNat + j)) else 0
    let xs := if p.sc then s.rx p.xs else 0
    let oa := opA (encode i) p (pair sa ra 0) (pair sa ra 1) xs
    let ob := opB (encode i) p (pair sb rb 0) (pair sb rb 1) xs
    let core := s.cores[s.fir.core]
    let locks := oa.lock (k.toNat + 1) (p.pl + 1) (.mma s.fir.adm s.fir.mmas) ++ ob.lock (k.toNat + 1) (p.pl + 1) (.mma s.fir.adm s.fir.mmas)
    s.IssuesEither i →
    (p.mmaOk = false → exec i s = .next (s.trapHere { c := .ill, sub := 0, val := BitVec.setWidth 64 (encode i) })) ∧
    (p.mmaOk = true → (pair sa ra 1).toNat < 2 ^ 44 → (pair sb rb 1).toNat < 2 ^ 44 → oa.fits s.fir (pair sa ra 0) (k.toNat + 1) →
      ob.fits s.fir (pair sb rb 0) (k.toNat + 1) → core.mmas.length < 8 → s.accLast a = true →
      (t = true → s.fir.q13.length + (s.myMmas.filter fun j => mmaTok j.word).length < 16) → s.earlier = false →
      s.lockFree locks.length → core.lazyTiles = [] →
      ∃ v, exec i s = .next v ∧ v.mem = s.mem ∧
        v.cores[s.fir.core].mmas = core.mmas ++ [{ adm := s.fir.adm, word := encode i, pfx := pfx, topx := s.fir.topx, a0 := pair sa ra 0,
                                                    a1 := pair sa ra 1, b0 := pair sb rb 0, b1 := pair sb rb 1, xs := xs,
                                                    clr := c && s.accBusy a, done := 0, num := s.fir.mmas }] ∧
        v.fr.locks = s.fr.locks ++ locks ∧ v.fir.fpend = false ∧ v.fir.mmas = s.fir.mmas + 1 ∧ v.fir.pc = s.fir.advance.pc ∧
        v.fir.x = s.fir.x ∧ v.fir.m = s.fir.m ∧ v.fir.fflags = s.fir.fflags ∧ v.fir.accf = s.fir.accf ∧ v.fir.topx = s.fir.topx ∧
        (∀ r, v.fir.ra r = if r = a ∧ c = true ∧ s.accBusy a = false then 0 else s.fir.ra r) ∧
        (core.mmas = [] → v.agenda = s.agenda ++ [{ op := .mmaStep, a := s.fir.core.val, b := 0, c := 0, v := 0, l := [] }]) ∧
        (core.mmas ≠ [] → v.agenda = s.agenda))) ∧
  (∀ (s : State) (c : Fin 2048) (j : MmaJob) (js : List MmaJob) (f : Firing), s.ev.a = c.val → s.cores[c].mmas = j :: js →
    s.firing? j.adm = some f →
    let p := mmaPrefx j.pfx
    let la := fun r => s.mmaLine f j.topx p (opA j.word p j.a0 j.a1 j.xs) j.done r
    let lb := fun r => s.mmaLine f j.topx p (opB j.word p j.b0 j.b1 j.xs) j.done r
    let n : BitVec 2 := BitVec.ofNat 2 (mmaAcc j.word)
    let last := (j.word.extractLsb' 7 6).toNat ≤ j.done
    ∃ v g, exec .mmaStep s = .next v ∧ v.firing? j.adm = some g ∧ v.mem = s.mem ∧ g.x = f.x ∧ g.m = f.m ∧ g.pc = f.pc ∧
      (∀ x y r, x < 64 → y < 64 → finiteLine (la x) → finiteLine (lb y) →
        stepElement p.isInt (elem (f.ra n) 32 (64 * x + y)) (exactDot (la x) (lb y)) = some r →
        (¬last ∨ (∀ k ∈ js, k.adm = j.adm → mmaAcc k.word = n.toNat → k.clr = false)) →
        elem (g.ra n) 32 (64 * x + y) = r.1 % 2 ^ 32 ∧ ∀ b, r.2.testBit b = true → g.accf[n.toNat].getLsbD b = true) ∧
      (∀ r, r ≠ n → g.ra r = f.ra r ∧ g.accf[r.toNat] = f.accf[r.toNat]) ∧
      (∀ b, f.accf[n.toNat].getLsbD b = true → g.accf[n.toNat].getLsbD b = true) ∧
      (¬last → v.cores[c].mmas = { j with done := j.done + 1 } :: js ∧ v.fronds = s.fronds ∧ g.q13 = f.q13) ∧
      (last → v.cores[c].mmas.map (fun k => (k.adm, k.word, k.num)) = js.map (fun k => (k.adm, k.word, k.num)) ∧
        v.fronds[f.frond].locks = s.fronds[f.frond].locks.filter (fun l => l.own != .mma j.adm j.num) ∧
        g.q13 = f.q13 ++ (if j.word.getLsbD 31 then
          [BitVec.ofNat 64 (((j.word.extractLsb' 7 6).toNat + 1) * 2 ^ 16 + n.toNat * 2 ^ 14 + j.num % 2 ^ 14)] else [])))

/-- R302 to R304: with no MMA of the firing on the accumulators they name, the accumulator instructions zero, load, store, read the flags
of, and exchange accumulators; ACCRD reads one row and how far the MMAs on it are; they complete. R306 to R310: TLD and TST move the words
of a configured tile to and from memory, row by row or column by column at their pitch, and TLD keeps the bytes outside the shape; TZERO
and TMOV write a whole tile. A tile whose shape cannot be used takes TILECFG with its number. That a pitch is unsigned and TMOV checks md
first is the model's reading (log 35). -/
def Obligations.TilesAndAccumulators : Prop :=
  (∀ (s u : State) (d a : BitVec 2) (x r : BitVec 6) (y : BitVec 5) (pls : List Place),
    (s.Issues (.accrd y x a r) →
      (63 < (s.rx r).toNat → exec (.accrd y x a r) s = .next (s.trapHere { c := .prot, sub := 0, val := s.rx r })) ∧
      ((s.rx r).toNat ≤ 63 →
        let js := s.cores[s.fir.core].mmas.filter fun j => j.adm == s.fir.adm && mmaAcc j.word == a.toNat
        exec (.accrd y x a r) s = .next (((s.wv y ((s.fir.ra a).extractLsb' (2048 * (s.rx r).toNat) 2048)).wx x
          (BitVec.ofNat 64 (js.length * 2 ^ 16 + (js.head?.map MmaJob.done).getD 0))).upd Firing.advance))) ∧
    (s.accBusy d = false →
      (s.Issues (.acczero d) → exec (.acczero d) s = .next ((s.upd fun f => f.wa d 0).upd Firing.advance)) ∧
      (s.accBusy a = false → s.Issues (.accswp d a) → ∃ v, exec (.accswp d a) s = .next v ∧ v.onlyFiring s ∧
        v.fir.ra d = s.fir.ra a ∧ v.fir.ra a = s.fir.ra d ∧ v.fir.accf[d.toNat] = s.fir.accf[a.toNat] ∧ v.fir.accf[a.toNat] = s.fir.accf[d.toNat] ∧
        (∀ q, q ≠ d → q ≠ a → v.fir.ra q = s.fir.ra q ∧ v.fir.accf[q.toNat] = s.fir.accf[q.toNat]) ∧
        v.fir = { s.fir.advance with acc := v.fir.acc, accf := v.fir.accf }) ∧
      (∀ c, s.Issues (.accstat x d c) → ∃ v, exec (.accstat x d c) s = .next v ∧ v.onlyFiring s ∧
        v.fir = { (s.fir.wx x s.fir.accf[d.toNat]).advance with accf := v.fir.accf } ∧
        ∀ q, v.fir.accf[q.toNat] = if q = d ∧ c = true then 0 else s.fir.accf[q.toNat]) ∧
      ((s.rx x).toNat % 64 = 0 → (s.rx x).toNat < 2 ^ 57 → s.fir.data = [] →
        (s.placesFrom .load (s.rx x).toNat 2048 = .ok (u, pls) → (∀ q ∈ pls, u.near false 8 q = true) → s.Issues (.accld d x) → ∃ v, exec (.accld d x) s = .next v ∧ v.mem = u.mem ∧
          v.fir = { s.fir.advance with acc := v.fir.acc, paths := v.fir.paths } ∧
          (∀ n q, pls[n]? = some q → elem (v.fir.ra d) 64 n = u.readAt q 8) ∧ (∀ q, q ≠ d → v.fir.ra q = s.fir.ra q)) ∧
        (s.placesFrom .store (s.rx x).toNat 2048 = .ok (u, pls) → (∀ q ∈ pls, u.near true 8 q = true) → s.Issues (.accst x d) →
          exec (.accst x d) s = .next ((u.storeEach 8 (pls.zipIdx.map fun q => (q.1, elem (s.fir.ra d) 64 q.2))).upd Firing.advance)))) ∧
    (s.accBusy d = true → ∀ i ∈ [Instr.acczero d, .accld d x, .accst x d, .accstat x d false, .accswp d a], s.Issues i →
      exec i s = .next (s.upd fun f => { f with wait := some .array, aged := false }))) ∧
  (∀ (s u : State) (d a : BitVec 3) (x : BitVec 6) (p : BitVec 5) (col : Bool) (pls : List (Nat × Place)), s.cores[s.fir.core].lazyTiles = [] →
    (shapeOk (s.fir.shape d.toNat) = false → ∀ i ∈ [Instr.tld d x p col, .tst x d p col, .tzero d, .tmov d a], s.Issues i →
      exec i s = .next (s.trapHere { c := .tilecfg, sub := 0, val := BitVec.ofNat 64 d.toNat })) ∧
    (shapeOk (s.fir.shape d.toNat) = true → s.tileBusy d = false →
      (s.Issues (.tzero d) → exec (.tzero d) s = .next ((s.upd fun f => f.wm d 0).upd Firing.advance)) ∧
      (s.Issues (.tmov d a) → shapeOk (s.fir.shape a.toNat) = true →
        exec (.tmov d a) s = .next ((s.upd fun f => f.wm d (f.rm a)).upd Firing.advance))) ∧
    (let l := tileLayout (s.fir.shape d.toNat) col p (s.rx (p.setWidth 6))
     let per := l.1
     let rows := l.2.1
     let addr := fun n => (((s.rx x).toNat + n / per * l.2.2.1 + 4 * (n % per) : Nat) : Int)
     tileServes (s.fir.shape d.toNat) col (s.rx x).toNat rows l.2.2.1 → s.fir.data = [] →
     (s.blockPlaces .load 4 addr (List.range (rows * per)) = .ok (u, pls) → (∀ q ∈ pls, u.near false 4 q.2 = true) → s.Issues (.tld d x p col) → s.tileBusy d = false →
      ∃ v, exec (.tld d x p col) s = .next v ∧ v.mem = u.mem ∧ v.fir = { s.fir.advance with m := v.fir.m, paths := v.fir.paths } ∧
        (∀ q ∈ pls, elem (v.fir.rm d) 32 (l.2.2.2 q.1) = u.readAt q.2 4) ∧
        (∀ w, (∀ n, n < rows * per → l.2.2.2 n ≠ w) → w < 1024 → elem (v.fir.rm d) 32 w = elem (s.fir.rm d) 32 w) ∧
        (∀ r, r ≠ d → v.fir.rm r = s.fir.rm r)) ∧
     (s.blockPlaces .store 4 addr (List.range (rows * per)) = .ok (u, pls) → (∀ q ∈ pls, u.near true 4 q.2 = true) → s.Issues (.tst x d p col) →
      exec (.tst x d p col) s = .next ((u.storeEach 4 (pls.map fun q => (q.2, elem (s.fir.rm d) 32 (l.2.2.2 q.1)))).upd Firing.advance))))

/-- R312 to R322: a bit-tile instruction that issues completes and writes what its rule says of each bit: the boolean operations,
transpose and composition; BTCLO the transitive closure, with the diagonal when it is reflexive; row and column moves to and from masks;
counts; and a tile in the own scratchpad, behind what the firing posted there. OCMP writes the outcome for every pair of active elements. -/
def Obligations.BitTiles : Prop :=
  ∀ (s : State),
    (∀ i d g, s.Issues i → bitTile s.fir i = some (d, g) → ∃ v, exec i s = .next v ∧ v.onlyFiring s ∧ v.fir.sameBesideTile s.fir d ∧
      v.fir.fflags = s.fir.fflags ∧ ∀ x y, x < 64 → y < 64 → v.fir.tileBit d x y = g x y) ∧
    (∀ d b r, s.Issues (.btclo d b r) → ∃ v, exec (.btclo d b r) s = .next v ∧ v.onlyFiring s ∧ v.fir.sameBesideTile s.fir d ∧
      v.fir.fflags = s.fir.fflags ∧ ∀ x y : Fin 64, v.fir.tileBit d x y = true ↔
        Relation.TransGen (fun i j : Fin 64 => s.fir.tileBit b i j = true) x y ∨ (r = true ∧ x = y)) ∧
    (∀ d b, s.Issues (.btpopr d b) → exec (.btpopr d b) s = .next ((s.wv d
      (pack 2048 32 ((List.range 64).map fun x => (List.range 64).countP fun y => s.fir.tileBit b x y))).upd Firing.advance)) ∧
    (∀ d b, s.Issues (.btpopc d b) → exec (.btpopc d b) s = .next ((s.wv d
      (pack 2048 32 ((List.range 64).map fun y => (List.range 64).countP fun x => s.fir.tileBit b x y))).upd Firing.advance)) ∧
    (∀ d b n, (s.rx n).toNat ≤ 63 →
      let r := (s.rx n).toNat
      (s.Issues (.btrowk d b n) → ∃ w, exec (.btrowk d b n) s = .next ((s.wk d w).upd Firing.advance) ∧
        ∀ y, y < 64 → w.getLsbD y = s.fir.tileBit b r y) ∧
      (s.Issues (.btcolk d b n) → ∃ w, exec (.btcolk d b n) s = .next ((s.wk d w).upd Firing.advance) ∧
        ∀ x, x < 64 → w.getLsbD x = s.fir.tileBit b x r) ∧
      (s.Issues (.btkrow d b n) → ∃ v, exec (.btkrow d b n) s = .next v ∧ v.onlyFiring s ∧ v.fir.sameBesideTile s.fir d ∧
        v.fir.fflags = s.fir.fflags ∧
        ∀ x y, x < 64 → y < 64 → v.fir.tileBit d x y = if x = r then (s.fir.rk b).getLsbD y else s.fir.tileBit d x y) ∧
      (s.Issues (.btkcol d b n) → ∃ v, exec (.btkcol d b n) s = .next v ∧ v.onlyFiring s ∧ v.fir.sameBesideTile s.fir d ∧
        v.fir.fflags = s.fir.fflags ∧
        ∀ x y, x < 64 → y < 64 → v.fir.tileBit d x y = if y = r then (s.fir.rk b).getLsbD x else s.fir.tileBit d x y)) ∧
    (∀ d b n, 63 < (s.rx n).toNat → ∀ i ∈ [Instr.btrowk d b n, .btcolk d b n, .btkrow d b n, .btkcol d b n], s.Issues i →
      exec i s = .next (s.trapHere { c := .prot, sub := 0, val := s.rx n })) ∧
    (∀ d x u pl, s.Issues (.btld d x) → s.ownSpad .load (s.rx x) 512 64 = .ok (u, pl) → u.postedAt false pl 512 = false →
      exec (.btld d x) s = .next (((u.usePath pl).wb d (BitVec.ofNat 4096 (s.mem.read pl.key 512))).upd Firing.advance)) ∧
    (∀ i d x ac u pl, ((i = .btld d x ∧ ac = .load) ∨ (i = .btst x d ∧ ac = .store)) → s.Issues i → s.ownSpad ac (s.rx x) 512 64 = .ok (u, pl) →
      u.postedAt ac.wr pl 512 = true → exec i s = .next (u.upd fun f => { f with wait := some .posted, aged := false })) ∧
    (∀ d x u pl, s.Issues (.btst x d) → s.ownSpad .store (s.rx x) 512 64 = .ok (u, pl) → u.postedAt true pl 512 = false → s.mem.wf = true →
      ∃ v, exec (.btst x d) s = .next v ∧ v.mem.read pl.key 512 = (s.fir.rb d).toNat ∧
        (∀ k, k < pl.key ∨ pl.key + 512 ≤ k → v.mem.get k = s.mem.get k) ∧ v.fir = { s.fir.advance with paths := v.fir.paths } ∧ v.fronds = s.fronds) ∧
    (∀ p t d a b k, s.Issues (.ocmp p t d a b k) →
      let w := (ocNum t).width
      let on := fun e => (s.fir.rk k).getLsbD e
      let ix := fun (r : BitVec 5) e => if p = .klt ∨ p = .kgt then s.fir.ve 32 (r + 1) e else 0
      ∃ v, exec (.ocmp p t d a b k) s = .next v ∧ v.onlyFiring s ∧ v.fir.sameBesideTile s.fir d ∧
        ∀ x y, x < 64 → y < 64 → v.fir.tileBit d x y = (on x && on y && ocPred p (ocNum t) (s.fir.ve w a x) (ix a x) (s.fir.ve w b y) (ix b y)))

/-- R347, R350 to R353, R362: a sorus instruction from a firing that does not hold the sorus takes PROT with subcode 1, on an
uninitialised region subcode 2, BINIT once its address has passed. SINIT starts the region its descriptor names, with no weight and every
channel closed. RATE and RATEA set one weight and no other. NEXTEV moves to the earliest of the outgoing candidates, the incoming ones and
the next internal event, whose leaf the draw falls on. SWRD and SCLK read the region and change nothing. Which of the checks before
SINIT's descriptor comes first is the model's reading (log 37). -/
def Obligations.SorusRegions : Prop :=
  ∀ (s : State) (d a b sel : BitVec 6),
    let x := s.fr.sorus
    let put := fun (t : State) (y : Sorus) => t.onFrond s.fir.frond fun f => { f with sorus := y }
    (∀ i ∈ [Instr.sinit a, .rate a b, .ratea a b, .nextev d a, .swrd d a sel, .sclk d, .binit a, .bdec d a, .brecv d a], s.Issues i →
      (i = .binit a → (s.rx a).toNat % 64 = 0 ∧ s.inOwn (s.rx a) = true) →
      (x.holder ≠ some s.fir.adm → exec i s = .next (s.trapHere { c := .prot, sub := 1, val := 0 })) ∧
      (x.holder = some s.fir.adm → x.init = false → i ≠ .sinit a → exec i s = .next (s.trapHere { c := .prot, sub := 2, val := 0 }))) ∧
    (x.holder = some s.fir.adm →
      (∀ (t : State) (w : List Word), s.Issues (.sinit a) → s.sorusDesc (s.rx a) = .ok (t, w) →
        (regionOk w = true → exec (.sinit a) s = .next ((put t { x with
            init := true, log2l := (dword w 0).toNat % 16, sexp := ((dword w 0).extractLsb' 8 7).toInt, ws := [], t := dword w 1,
            n := dword w 2, rid := (dword w 0).extractLsb' 32 32, seedlo := dword w 3, seedhi := dword w 4,
            outc := Vector.replicate 8 Chan.closed, inc := Vector.replicate 8 Chan.closed }).upd Firing.advance)) ∧
        (regionOk w = false → exec (.sinit a) s = .next (s.trapHere { c := .prot, sub := 5, val := s.rx a }))) ∧
      (s.Issues (.sinit a) → ((s.rx a).toNat % 64 ≠ 0 ∨ s.inOwn (s.rx a) = false) →
        exec (.sinit a) s = .next (s.trapHere { c := .prot, sub := 5, val := s.rx a }))) ∧
    (x.holder = some s.fir.adm → x.init = true →
      (∀ i new, ((i = .rate a b ∧ new = ((s.rx b).toNat : Int)) ∨ (i = .ratea a b ∧ new = (x.weight (s.rx a).toNat : Int) + (s.rx b).toInt)) →
        s.Issues i →
        (2 ^ x.log2l ≤ (s.rx a).toNat → exec i s = .next (s.trapHere { c := .prot, sub := 3, val := s.rx a })) ∧
        ((s.rx a).toNat < 2 ^ x.log2l → (new < 0 ∨ 2 ^ 48 ≤ new) →
          exec i s = .next (s.trapHere { c := .prot, sub := 3, val := BitVec.ofInt 64 new })) ∧
        (x.ruled → (s.rx a).toNat < 2 ^ x.log2l → 0 ≤ new → new < 2 ^ 48 → x.undue → ∃ ws : List (Nat × BitVec 48),
          let y := { x with ws := ws }
          ((∀ l, y.weight l = if l = (s.rx a).toNat then new.toNat else x.weight l) ∧ y.ruled ∧ ∀ p ∈ ws, p ∈ x.ws ∨ p.1 = (s.rx a).toNat) ∧
          ((∀ c : Fin 8, (x.outc[c].owns (s.rx a).toNat && rateOver (y.blockOf x.outc[c]) x.sexp x.outc[c].lambda) = false) →
            exec i s = .next ((put s y).upd Firing.advance)) ∧
          (∀ c : Fin 8, (x.outc[c].owns (s.rx a).toNat && rateOver (y.blockOf x.outc[c]) x.sexp x.outc[c].lambda) = true →
            (∀ j : Fin 8, j < c → (x.outc[j].owns (s.rx a).toNat && rateOver (y.blockOf x.outc[j]) x.sexp x.outc[j].lambda) = false) →
            exec i s = .next (s.trapHere { c := .boundrate, sub := c.val, val := s.rx a })))) ∧
      (s.Issues (.nextev d a) → x.undue →
        let total := x.sumOf fun l => decide (l < 2 ^ x.log2l) && x.unowned l
        let draw := spore x.seedlo x.seedhi x.n (BitVec.ofNat 64 (2 ^ 32 + x.rid.toNat))
        let ds := if a = 0 then draw.extractLsb' 0 64 else s.rx a
        let dt := if a = 0 then draw.extractLsb' 64 64 else s.rx (a + 1)
        let delta := if total = 0 then f64.infBits else waitTime (expVar f64 dt) total x.sexp
        let tn := if total = 0 then f64.infBits else (fAdd f64 Rnd.rne x.t.toNat delta).1
        let ends := fun (y : Sorus) (o i : Nat) => exec (.nextev d a) s =
          .next (((put s y).wx d (BitVec.ofNat 64 (o * 2 ^ 16 + i))).wx (d + 1) (BitVec.ofNat 64 delta) |>.upd Firing.advance)
        (noneComing x.outc → noneComing x.inc → tn = f64.infBits → ends x 3 0) ∧
        (∀ c, earliest x.outc c → noneBefore x.inc x.outc[c].tau.toNat → le64 x.outc[c].tau.toNat tn = true →
          ends { x with t := x.outc[c].tau, n := x.n + 1, outc := x.outc.set c { x.outc[c] with due := true } } 1 c.val) ∧
        (∀ c, earliest x.inc c → allAfter x.outc x.inc[c].tau.toNat → le64 x.inc[c].tau.toNat tn = true →
          ends { x with t := x.inc[c].tau, n := x.n + 1, inc := x.inc.set c { x.inc[c] with due := true } } 2 c.val) ∧
        (total ≠ 0 → fLt f64 tn f64.infBits = true → allAfter x.outc tn → allAfter x.inc tn →
          ∃ l, ends { x with t := BitVec.ofNat 64 tn, n := x.n + 1 } 0 l ∧
            x.fallsOn (fun m => decide (m < 2 ^ x.log2l) && x.unowned m) (ds.toNat * total / 2 ^ 64) l)) ∧
      (s.Issues (.nextev d a) → ∀ c : Fin 8,
        ((x.outc[c].act = true → x.outc[c].due = true → (∀ j : Fin 8, j < c → (x.outc[j].act && x.outc[j].due) = false) →
          exec (.nextev d a) s = .next (((s.wx d (BitVec.ofNat 64 (2 ^ 16 + c.val))).wx (d + 1) 0).upd Firing.advance)) ∧
         (x.inc[c].act = true → x.inc[c].due = true → (∀ j : Fin 8, (x.outc[j].act && x.outc[j].due) = false) →
          (∀ j : Fin 8, j < c → (x.inc[j].act && x.inc[j].due) = false) →
          exec (.nextev d a) s = .next (((s.wx d (BitVec.ofNat 64 (2 ^ 17 + c.val))).wx (d + 1) 0).upd Firing.advance)))) ∧
      (s.Issues (.swrd d a sel) →
        (∀ v, x.told sel.toNat (s.rx a) = some v → exec (.swrd d a sel) s = .next ((s.wx d v).upd Firing.advance)) ∧
        (x.told sel.toNat (s.rx a) = none → exec (.swrd d a sel) s = .next (s.trapHere { c := .prot, sub := 3, val := s.rx a }))) ∧
      (s.Issues (.sclk d) → exec (.sclk d) s = .next (((s.wx d x.t).wx (d + 1) x.n).upd Firing.advance)))

/-- R354 to R359: BINIT, which checks its address before the claim, opens a channel at its first candidate time or closes it. BDEC decides
the due candidate of an outgoing channel by its draw against its block's rate, sends the word to the peer, takes a credit and goes on to
the next candidate; with no credit it waits. BRECV takes the decision at the head of the queue of the due incoming channel, gives a credit
back and goes on; it waits for one, and a decision of another candidate traps. A decision is queued at the channel it names when that
channel takes it, else refused; a credit returns to its channel. That the claim is checked after BINIT's address and a decision at a full
queue is refused is the model's reading (log 37); a close of an inactive channel, and what a channel opened again makes of credits and
refusals of the one before, are its choices (log 79, 81). -/
def Obligations.SorusChannels : Prop :=
  ∀ (s : State) (d a : BitVec 6),
    let x := s.fr.sorus
    let put := fun (t : State) (y : Sorus) => t.onFrond s.fir.frond fun f => { f with sorus := y }
    let later := fun (c : Chan) (dw : Word) => BitVec.ofNat 64 (fAdd f64 Rnd.rne c.tau.toNat (fDiv f64 Rnd.rne (expVar f64 dw) c.lambda.toNat).1).1
    (∀ (t : State) (c : Chan),
      (c.tab = false → t.nextTau x c = .ok (t, later c ((spore x.seedlo x.seedhi c.k (BitVec.ofNat 64 (2 * 2 ^ 32 + c.cid.toNat))).extractLsb' 0 64))) ∧
      (c.tab = true → c.tn ≤ c.k.toNat → t.nextTau x c = .ok (t, BitVec.ofNat 64 f64.infBits)) ∧
      (∀ u pl, c.tab = true → c.k.toNat < c.tn → t.access .load ((0x1FF0 * 2 ^ 44 + c.tbl + 24 * c.k.toNat : Nat) : Int) 8 8 = .ok (u, pl) →
        u.postedAt false pl 8 = false → t.nextTau x c = .ok (u.usePath pl, later c (BitVec.ofNat 64 (u.readAt pl 8))))) ∧
    (s.Issues (.binit a) → ((s.rx a).toNat % 64 ≠ 0 ∨ s.inOwn (s.rx a) = false) →
      exec (.binit a) s = .next (s.trapHere { c := .prot, sub := 5, val := s.rx a })) ∧
    (x.holder = some s.fir.adm → x.init = true →
      (∀ (t : State) (w : List Word), s.Issues (.binit a) → s.sorusDesc (s.rx a) = .ok (t, w) →
        let inc := (dword w 0).getLsbD 62
        let ch : Fin 8 := ⟨(dword w 0).toNat % 8, Nat.mod_lt _ (by decide)⟩
        let c := chanOf w
        ((dword w 0).getLsbD 63 = false → exec (.binit a) s = .next ((put t (x.withChan inc ch Chan.closed)).upd Firing.advance)) ∧
        ((dword w 0).getLsbD 63 = true →
          (x.chanOk w = false → exec (.binit a) s = .next (s.trapHere { c := .prot, sub := 5, val := s.rx a })) ∧
          (x.chanOk w = true → ((x.chanAt inc ch).act = true ∨ ¬ x.undue) →
            exec (.binit a) s = .next (s.trapHere { c := .prot, sub := 4, val := BitVec.ofNat 64 ch.val })) ∧
          (x.chanOk w = true → (x.chanAt inc ch).act = false → x.undue →
            (inc = false → rateOver (x.blockOf c) x.sexp c.lambda = true →
              exec (.binit a) s = .next (s.trapHere { c := .boundrate, sub := ch.val, val := BitVec.ofNat 64 c.fl })) ∧
            (∀ u tau, (inc = true ∨ rateOver (x.blockOf c) x.sexp c.lambda = false) → t.nextTau x c = .ok (u, tau) →
              exec (.binit a) s = .next ((put u (x.withChan inc ch { c with k := 1, tau := tau })).upd Firing.advance))))) ∧
      (∀ i cs, ((i = .bdec d a ∧ cs = x.outc) ∨ (i = .brecv d a ∧ cs = x.inc)) → s.Issues i →
        (8 ≤ (s.rx a).toNat → exec i s = .next (s.trapHere { c := .prot, sub := 3, val := s.rx a })) ∧
        (∀ c : Fin 8, (s.rx a).toNat = c.val → (cs[c].act && cs[c].due) = false →
          exec i s = .next (s.trapHere { c := .prot, sub := 4, val := s.rx a }))) ∧
      (∀ (ch : Fin 8) (t u : State) (dr : Option (Word × Word)) (tau : Word), s.Issues (.bdec d a) → (s.rx a).toNat = ch.val →
        let c := x.outc[ch]
        (c.act && c.due) = true →
        (c.refused = true → exec (.bdec d a) s = .next (s.trapHere { c := .prot, sub := 7, val := s.rx a })) ∧
        (c.refused = false → c.pkg ∉ s.lost → s.decisionDraws x c = .ok (t, dr) →
          (c.credits = 0 → exec (.bdec d a) s = .next (s.upd fun f => { f with wait := some (.credit ch.val), aged := false })) ∧
          (c.credits ≠ 0 → t.nextTau x c = .ok (u, tau) → ∃ w : Word,
            (∀ ac off kl, w.toNat = ac * 2 ^ 63 + off * 2 ^ 32 + kl → ac < 2 → off < 2 ^ 31 → kl < 2 ^ 32 →
              kl = c.k.toNat % 2 ^ 32 ∧
              (dr = none → ac = 0 ∧ off = 0) ∧
              (∀ p q m e, dr = some (p, q) → f64.value c.lambda.toNat = .fin false m e →
                (ac = 1 ↔ ((p.toNat / 2 ^ 11 : Nat) : ℚ) * 2 ^ (-53 : Int) * realFin false m e < (x.blockOf c : ℚ) * 2 ^ x.sexp) ∧
                (ac = 0 → off = 0) ∧
                (ac = 1 → c.log2b < 15 → x.fallsOn (fun l => decide (c.fl ≤ l) && decide (l < c.fl + 2 ^ c.log2b))
                  (q.toNat * x.blockOf c / 2 ^ 64) (c.fl + off)))) ∧
            ∃ v, exec (.bdec d a) s = .next v ∧ v.fir = (u.fir.wx d w).advance ∧ v.mem = u.mem ∧
              v.fronds = (put u { x with outc := x.outc.set ch { c with k := c.k + 1, tau := tau, due := false, credits := c.credits - 1 } }).fronds ∧
              (c.pkg = s.dev.pkg → v.sent = u.sent ∧ v.agenda.getLast? = some
                { op := .decisionArrive, a := c.frond, b := c.pch, c := chanName s.dev.pkg s.fir.frond.val ch.val, v := w, l := [] }) ∧
              (c.pkg ≠ s.dev.pkg → v.sent = u.sent ++ [.decision c.pkg c.frond c.pch s.fir.frond.val ch.val w]))) ∧
        (c.refused = false → c.pkg ∈ s.lost → ∀ t u tau, s.decisionDraws x c = .ok (t, dr) → t.nextTau x c = .ok (u, tau) →
          ∃ v, exec (.bdec d a) s = .next v ∧ bit v.fir.fstat 2 = true ∧ v.sent = u.sent ∧ v.agenda = u.agenda ∧
            v.fronds = (put u { x with outc := x.outc.set ch { c with k := c.k + 1, tau := tau, due := false } }).fronds)) ∧
      (∀ (ch : Fin 8) (u : State) (tau : Word), s.Issues (.brecv d a) → (s.rx a).toNat = ch.val →
        let c := x.inc[ch]
        (c.act && c.due) = true →
        (c.queue = [] → c.pkg ∉ s.lost → exec (.brecv d a) s = .next (s.upd fun f => { f with wait := some (.decision ch.val), aged := false })) ∧
        (c.queue = [] → c.pkg ∈ s.lost → s.nextTau x c = .ok (u, tau) → ∃ v, exec (.brecv d a) s = .next v ∧
          bit v.fir.fstat 2 = true ∧ (d ≠ 0 → v.fir.rx d = 0x7FFFFBAD7FFFFBAD) ∧
          v.fronds = (put u { x with inc := x.inc.set ch { c with k := c.k + 1, tau := tau, due := false, queue := [] } }).fronds) ∧
        (∀ w q, c.queue = w :: q →
          (w.extractLsb' 0 32 ≠ c.k.extractLsb' 0 32 → exec (.brecv d a) s = .next (s.trapHere { c := .prot, sub := 6, val := w })) ∧
          (w.extractLsb' 0 32 = c.k.extractLsb' 0 32 → s.nextTau x c = .ok (u, tau) → ∃ v, exec (.brecv d a) s = .next v ∧
            v.fir = (u.fir.wx d w).advance ∧ v.mem = u.mem ∧
            v.fronds = (put u { x with inc := x.inc.set ch { c with k := c.k + 1, tau := tau, due := false, queue := q } }).fronds ∧
            (c.pkg = s.dev.pkg → v.sent = u.sent ∧ v.agenda = u.agenda ++
              [{ op := .creditReturn, a := c.frond, b := c.pch, c := 0, v := 0, l := [] }]) ∧
            (c.pkg ≠ s.dev.pkg → v.agenda = u.agenda ∧ v.sent = u.sent ++ [.creditBack c.pkg c.frond c.pch false]))))) ∧
    (∀ (h : Fin 1024) (ch : Fin 8), s.ev.a = h.val → s.ev.b = ch.val →
      let y := s.fronds[h].sorus
      let c := y.inc[ch]
      let open_ := y.init = true ∧ c.act = true ∧ s.ev.c = c.pkg * 2 ^ 13 + c.frond * 2 ^ 3 + c.pch ∧ c.queue.length < 16
      (open_ → exec .decisionArrive s = .next (s.onFrond h fun f =>
        { f with sorus := { y with inc := y.inc.set ch { c with queue := c.queue ++ [s.ev.v] } } })) ∧
      (¬ open_ →
        (s.ev.c / 2 ^ 13 = s.dev.pkg → exec .decisionArrive s = .next { s with agenda := s.agenda ++
          [{ op := .creditReturn, a := s.ev.c / 8 % 1024, b := s.ev.c % 8, c := 1, v := 0, l := [] }] }) ∧
        (s.ev.c / 2 ^ 13 ≠ s.dev.pkg → exec .decisionArrive s = .next { s with sent := s.sent ++
          [.creditBack (s.ev.c / 2 ^ 13) (s.ev.c / 8 % 1024) (s.ev.c % 8) true] })) ∧
      (y.outc[ch].act = true → exec .creditReturn s = .next (s.onFrond h fun f => { f with sorus := { y with
        outc := y.outc.set ch { y.outc[ch] with credits := min 16 (y.outc[ch].credits + 1), refused := y.outc[ch].refused || s.ev.c == 1 } } })))

/-- R4, R86, R198, R201, R204, R339, R340, R373 to R376, R400: in FULL a register write by a monitor core, or by the host over a link that
is up, leaves a plain register its field's bits and every other register as it was. A base register takes a table that lies in HBM, else
CERR is set. PINT takes an interval that R375 allows, and its fronds reset; MSCCFG starts a change; TLBINV starts an invalidation here and
asks the peers it concerns for the same, or the write waits for the one under way; both end as R373 and R376 say, what this package owes
another likewise. FCMD save takes P2 and P3, and P4 and P5 take P0 to P3 and whether a request is active, as the write finds them. The
queue registers keep R86, through a virtual function only where it is enabled; a write to LQCFG sets a waiting team going again. The log
registers keep R339, and a write that leaves room frees the placements held there. That PEERLEN and TRLOG2 refuse as the bases do, and
what a write outside FULL does, is the model's reading (log 17); so is when TLBINV ends (log 16). -/
def Obligations.SupervisorRegisters : Prop :=
  ∀ (s : State) (p : Fin 16), s.dev.stage = 3 →
    let v := s.ev.v
    let x := s.parts[p]
    let at_ := fun o => s.ev.a = 0x1000000 + p.val * 0x100000 + o
    let part := fun (y : Part) => s.onPart p fun _ => y
    let ask := fun (t : State) (e : Ev) => { t with agenda := t.agenda ++ [e] }
    ((s.ev.b = 1 ∨ s.dev.hostUp = true) →
      (∀ r ∈ plainRegs, at_ r.1 → ∃ y, exec .registerWrite s = .next (part y) ∧
        y.read r.1 = (x.read r.1 &&& ~~~r.2) ||| (v &&& r.2) ∧ ∀ o, o ≠ r.1 → y.read o = x.read o) ∧
      (at_ 0x008 → ∃ y, exec .registerWrite s = .next (part y) ∧ (∀ b, y.pcfg.getLsbD b =
          (if b = 0 ∨ b = 4 ∨ (8 ≤ b ∧ b ≤ 10) ∨ (32 ≤ b ∧ b ≤ 39) then v.getLsbD b else x.pcfg.getLsbD b && !(decide (b = 1) && v.getLsbD 1))) ∧
        ∀ o, o ≠ 0x008 → y.read o = x.read o) ∧
      (at_ 0x010 → let w := (x.ptbr &&& ~~~0xFFFFFFFFFF000#64) ||| (v &&& 0xFFFFFFFFFF000#64)
        exec .registerWrite s = .next (part (if w.toNat + 4096 ≤ 768 * 2 ^ 30 ∧ w.toNat % 4096 = 0 then { x with ptbr := w } else x.refusing))) ∧
      (at_ 0x030 → exec .registerWrite s = .next (part (if v.toNat + 16 * x.peerlen.toNat ≤ 768 * 2 ^ 30 ∧ v.toNat % 16 = 0 then
        { x with peerbase := v } else x.refusing))) ∧
      (at_ 0x038 → exec .registerWrite s = .next (part (if v.toNat ≤ 256 ∧ x.peerbase.toNat + 16 * v.toNat ≤ 768 * 2 ^ 30 ∧
        x.peerbase.toNat % 16 = 0 then { x with peerlen := v } else x.refusing))) ∧
      (at_ 0x040 → exec .registerWrite s = .next (part (if v.toNat + 64 * 2 ^ x.trlog2.toNat ≤ 768 * 2 ^ 30 ∧ v.toNat % 64 = 0 then
        { x with trbase := v } else x.refusing))) ∧
      (at_ 0x048 → exec .registerWrite s = .next (part (if v.toNat ≤ 31 ∧ x.trbase.toNat + 64 * 2 ^ v.toNat ≤ 768 * 2 ^ 30 ∧
        x.trbase.toNat % 64 = 0 then { x with trlog2 := v } else x.refusing))) ∧
      (at_ 0x0A0 → ∀ op c, (op, c) ∈ [(Instr.fcmdResumePc, 1), (.fcmdResumeUtvec, 2), (.fcmdSave, 3), (.fcmdDiscard, 4), (.fcmdKill, 5)] →
        v.toNat / 2 ^ 61 = c → ∃ y, exec .registerWrite s = .next (ask (part y) { agendaEv op p.val (v.toNat % 2 ^ 32) 0 0 with
          l := if op = .fcmdSave then [x.p2, x.p3] else [] }) ∧
          ∀ o, o ≠ 0x0A0 → y.read o = x.read o) ∧
      (∀ o op, (o, op) ∈ [(0x120, Instr.preemptRequest), (0x128, .resumeRequest)] → at_ o → ∃ y, (∀ o, y.read o = x.read o) ∧
        exec .registerWrite s = .next (ask (part y) { agendaEv op p.val 0 0 v with l := [x.p0, x.p1, x.p2, x.p3, if x.req.isSome ∨
          ∃ e ∈ s.agenda, e.a = p.val ∧ (e.op = .preemptRequest ∨ (e.op = .resumeRequest ∧ e.c = 0)) then 1 else 0] })) ∧
      (s.ev.a = p.val →
        (s.pintAllowed p v → ∃ u : State, exec .pintWrite s = .next u ∧ u = { s with fronds := u.fronds, cores := u.cores, parts := u.parts } ∧
          u.parts[p] = { x with pint := v &&& 0x7FF000003FF#64 } ∧ (∀ q, q ≠ p → u.parts[q] = s.parts[q]) ∧
          (∀ h : Fin 1024, if v.toNat % 2 ^ 10 ≤ h.val ∧ h.val < v.toNat % 2 ^ 10 + v.toNat / 2 ^ 32 % 2 ^ 11 then
              u.fronds[h] = { s.fronds[h] with hs := Vector.replicate 16 0, swin := Vector.replicate 8 0, sorus := Sorus.blank }
            else u.fronds[h] = s.fronds[h])) ∧
        (¬ s.pintAllowed p v → exec .pintWrite s = .next (part x.refusing)) ∧
        (x.tlbstat.getLsbD 0 = true → exec .tlbinvWrite s = .next (ask s (agendaEv .tlbinvWrite p.val 1 0 (v &&& 0xC1FFFFFFFFFFF000#64)))) ∧
        (x.tlbstat.getLsbD 0 = false →
          let w := v &&& 0xC1FFFFFFFFFFF000#64
          let peers := s.peerPages p w
          exec .tlbinvWrite s = .next { ask (part { x with tlbinv := w, tlbstat := 1 }) { agendaEv .tlbinvComplete p.val 0 0 0 with
              l := peers.flatMap fun q => [BitVec.ofNat 64 (2 ^ 62), BitVec.ofNat 64 q.1] } with
            sent := s.sent ++ peers.map fun q => .tlbinv q.1 q.2.1 q.2.2 } ∧
          let live := fun (i pkg there : Nat) => i < min x.peerlen.toNat 256 ∧ (s.peer p i).1.getLsbD 63 = true ∧
            (s.peer p i).1.toNat % 2 ^ 22 = pkg ∧ (s.peer p i).1.toNat / 2 ^ 22 % 2 ^ 4 = there ∧ pkg ∉ s.lost
          (∀ q ∈ peers, (∃ i, live i q.1 q.2.1) ∧ (v.getLsbD 63 = true → q.2.2 = BitVec.ofNat 64 (2 ^ 63))) ∧
          ∀ i pkg there, live i pkg there → ∃ page, (pkg, there, page) ∈ peers)) ∧
      (∀ d : Fin 4, s.ev.a = d.val →
        (s.dies[d].msccfg.getLsbD 63 = false → exec .msccfgWrite s = .next (ask (s.onDie d fun y =>
            { y with mscOld := y.msccfg.toNat % 8, msccfg := BitVec.ofNat 64 (2 ^ 63 + v.toNat % 8) }) (agendaEv .mscChangeComplete d.val 0 0 0))) ∧
        (s.dies[d].msccfg.getLsbD 63 = true → exec .msccfgWrite s = .next { s with parts := s.parts.map Part.refusing }))) ∧
    (∀ q : Fin 32, s.ev.a = p.val → s.ev.b = q.val →
      let y := x.lq[q]
      let queue := fun (z : LQueue) => ask (s.onPart p fun x => { x with lq := x.lq.set q z }) (agendaEv .launchRecordRead p.val q.val 0 0)
      let goesOn := fun (t : State) => if y.team.isSome then
          ask (ask t (agendaEv .dependencesMet p.val q.val 0 0)) (agendaEv .firingPlace p.val 0 0 0) else t
      (∃ z, exec .lqcfgWrite s = .next (goesOn (queue z)) ∧ z = { y with lqcfg := z.lqcfg } ∧ ∀ b, z.lqcfg.getLsbD b = cfgAfter y.lqcfg v b) ∧
      (s.dev.hostUp = false → exec .hostLqtailWrite s = .next s) ∧
      (s.ev.c = 1 → (s.dev.vfMask.getLsbD p.val = false ∨ s.dev.vfEn.getLsbD p.val = false) → exec .hostLqtailWrite s = .next s) ∧
      (s.dev.hostUp = true → (s.ev.c = 1 → s.dev.vfMask.getLsbD p.val = true ∧ s.dev.vfEn.getLsbD p.val = true) →
        let n := y.lqcfg.toNat % 32
        let hd := y.lqhead.toNat % 2 ^ 32
        (n = 0 ∨ y.lqcfg.getLsbD 18 = true → exec .hostLqtailWrite s = .next (queue y)) ∧
        (n ≠ 0 → y.lqcfg.getLsbD 18 = false → y.lqtail.toNat < 2 ^ 32 → ∃ z, exec .hostLqtailWrite s = .next (queue z) ∧
          z.lqtail.toNat = v.toNat % 2 ^ 32 ∧ z.lqhead = y.lqhead ∧ z.lqbase = y.lqbase ∧ z.team = y.team ∧
          (((v.toNat % 2 ^ 32 + 2 ^ 32 - hd) % 2 ^ 32 ≤ 2 ^ n → z.lqcfg = y.lqcfg ∧ z.lqerr = y.lqerr) ∧
           (2 ^ n < (v.toNat % 2 ^ 32 + 2 ^ 32 - hd) % 2 ^ 32 → z.lqcfg = y.lqcfg ||| 0x20000#64 ∧
              z.lqerr = if y.lqerr.getLsbD 8 then y.lqerr else BitVec.ofNat 64 ((hd + 2 ^ n) % 2 ^ 32 * 2 ^ 32 + 0x13E)))))) ∧
    (∀ d : Fin 4, s.ev.a = p.val → s.ev.b = d.val →
      let mine := fun (u : Team) => u.part = p ∧ u.held = true ∧ u.heldDie = some d.val
      let free := fun (t : State) =>
        if (t.parts[p].logpos[d]).toNat % 2 ^ 32 ≠ (t.parts[p].loglen[d]).toNat % 2 ^ 32 ∧ (∃ u ∈ s.teams, mine u) then
          ask { t with teams := t.teams.map fun (u : Team) => if mine u then { u with held := false } else u } (agendaEv .firingPlace p.val 0 0 0)
        else t
      let into := fun (o m : Word) => (o &&& ~~~m) ||| (v &&& m)
      (s.ev.c = 0 → exec .logRegisterWrite s = .next (free (part { x with logbase := x.logbase.set d (into x.logbase[d] 0x1FFFFFFFFFFFFF0) }))) ∧
      (s.ev.c = 1 → exec .logRegisterWrite s = .next (free (part { x with loglen := x.loglen.set d (into x.loglen[d] 0xFFFFFFFF) }))) ∧
      (s.ev.c = 2 → exec .logRegisterWrite s = .next (free (part { x with logpos := x.logpos.set d (into x.logpos[d] 0xFFFFFFFF) })))) ∧
    (s.ev.a = p.val →
      exec .trheadWrite s = .next (part { x with trhead := (x.trhead &&& ~~~0xFFFFFFFF#64) ||| (v &&& 0xFFFFFFFF#64) }) ∧
      (s.ev.b = 2 → s.allDone p → exec .tlbinvComplete s = .next { s with sent := s.sent ++ [.tlbinvDone s.ev.c p.val] }) ∧
      (s.ev.b = 0 → (x.tlbstat.getLsbD 0 = false ∨ ¬ s.allDone p ∨ s.marksOpen s.ev.l = true) → exec .tlbinvComplete s = .next s) ∧
      (s.ev.b = 0 → x.tlbstat.getLsbD 0 = true → s.allDone p → s.marksOpen s.ev.l = false →
        ∃ u : State, exec .tlbinvComplete s = .next u ∧ u = { s with dies := u.dies, parts := u.parts } ∧ u.parts[p] = { x with tlbstat := 0 } ∧
          (∀ q, q ≠ p → u.parts[q] = s.parts[q]) ∧ ∀ d : Fin 4, u.dies[d] = { s.dies[d] with tlb := u.dies[d].tlb } ∧
            ∀ e, e ∈ u.dies[d].tlb ↔ e ∈ s.dies[d].tlb ∧ (e.part ≠ p ∨ (x.tlbinv.getLsbD 62 = true ∧ e.pte.getLsbD 4 = true) ∨
              (x.tlbinv.getLsbD 63 = false ∧ ((x.tlbinv.extractLsb' 12 45).toNat * 4096 + 4096 ≤ e.va ∨
                e.va + e.size ≤ (x.tlbinv.extractLsb' 12 45).toNat * 4096))))) ∧
    (∀ d : Fin 4, s.ev.a = d.val → s.dies[d].msccfg.getLsbD 63 = true →
      let old := s.dies[d].mscOld
      let new := s.dies[d].msccfg.toNat % 8
      let back := fun k => shmKey (d.val * 2 ^ 27 + 2 ^ 27 - old * 2 ^ 24) ≤ k ∧ k < shmKey (d.val * 2 ^ 27 + 2 ^ 27 - new * 2 ^ 24)
      s.mem.wf = true → ∃ u : State, exec .mscChangeComplete s = .next u ∧ u = { s with mem := u.mem, full := u.full, dies := u.dies } ∧
        u.dies[d] = { s.dies[d] with msccfg := BitVec.ofNat 64 new, mscOld := new } ∧ (∀ e, e ≠ d → u.dies[e] = s.dies[e]) ∧
        (∀ k, back k → u.mem.get k = 0) ∧ (∀ k, ¬ back k → u.mem.get k = s.mem.get k) ∧
        ∀ w, w ∈ u.full ↔ w ∈ s.full ∧ ¬ back (8 * w))

/-- R161, R383 to R389: a staged key is taken from counter 0 and ends starvation; KEYWARN at 2^47; a port with no staged key starves at
2^48 - 1. A failed lane is replaced by its direction's healthy spare, or the direction has one less; below 8 healthy lanes they turn
round. A port that was up retrains when its lanes in use change. Enabling a port trains it unless the fused mask disables it, disabling
drops it, another SPLIT assigns its lanes anew; a lost peer is lost no more once every port toward it has been enabled again. ALKEYGO from
the host stages the key of the staging registers. A replayed flit that carried a bank operation sends it again. R389: a presence drop, or
every port toward a package down or lost for 10 us, declares it lost. Its ports enter LOST, its id goes to LOSTPKG, its pending posted
writes are dropped and counted for the partitions that issued them, and every access to it outstanding is lost for good and its firing is
to complete it with poison. A module inserted appears at its ports and trains none; a port of fewer than 8 healthy lanes gets the lanes
R384 gives it toward the new peer. That every partition's LOSTPKG takes the id is the model's reading (log 7); the port states, when the
counter moves and what counts as a retraining are its choice (log 15), and so are the lanes turned round (log 48). -/
def Obligations.LinkPorts : Prop :=
  (∀ (s : State) (p : Fin 18), s.ev.a = p.val →
    let x := s.ports[p]
    let v := s.ev.v
    let ask := fun (t : State) (e : Ev) => { t with agenda := t.agenda ++ [e] }
    let low := fun (y : Port) => y.peer.any fun q => decide (s.dev.pkg < q)
    let spares := fun (y : Port) => y.spareOut = decide (y.actout + y.actin < y.healthy) ∧ y.spareIn = decide (y.actout + y.actin + 1 < y.healthy)
    (∀ k salt, x.staged = some (k, salt) → exec .keySwitch s =
      .next (s.withPort p { x with key := k, salt := salt, ctr := 0, staged := none, state := if x.state = 3 then 2 else x.state })) ∧
    (x.staged = none → exec .keySwitch s = .next (s.withPort p x)) ∧
    (exec .keywarn s = .next { s.withPort p { x with ctr := max x.ctr (2 ^ 47), keywarn := true } with sent := s.sent ++ [.msix (16 + p.val)] }) ∧
    (x.staged = none → x.state = 2 → exec .keystarved s = .next (s.withPort p { x with ctr := 2 ^ 48 - 1, state := 3 })) ∧
    (v = 0 → exec .linkErrorReplay s = .next s) ∧
    (v ≠ 0 → exec .linkErrorReplay s = .next (ask s (agendaEv .bankOpResend s.ev.b s.ev.c 0 0))) ∧
    (∃ y : Port, y.healthy = x.healthy - 1 ∧ y = { x with healthy := y.healthy, actout := y.actout, actin := y.actin, spareOut := y.spareOut,
                                                          spareIn := y.spareIn, state := y.state } ∧
      (let inb := s.ev.b = 1
       let keeps := s.ev.c = 1 ∨ (inb ∧ x.spareIn = true) ∨ (¬ inb ∧ x.spareOut = true)
       (x.split = 0 → 9 ≤ x.healthy →
         (keeps → (y.actout, y.actin) = (x.actout, x.actin) ∧ (inb → y.spareIn = false ∧ y.spareOut = x.spareOut) ∧
           (¬ inb → y.spareOut = false ∧ y.spareIn = x.spareIn)) ∧
         (¬ keeps → (y.spareOut, y.spareIn) = (x.spareOut, x.spareIn) ∧
           (y.actout, y.actin) = if s.ev.b = 1 then (x.actout, x.actin - 1) else (x.actout - 1, x.actin))) ∧
       (x.split ≠ 0 ∨ x.healthy < 9 → (y.actout, y.actin) = lanesOf x.split (x.healthy - 1) (low x) ∧ spares y)) ∧
      (let moved := s.ev.c ≠ 1 ∨ (y.actout, y.actin) ≠ (x.actout, x.actin)
       (moved ∧ (x.state = 2 ∨ x.state = 3) → y.state = 1 ∧
         exec .laneFail s = .next (ask (s.withPort p y) (agendaEv .retrainComplete p.val 1 0 0))) ∧
       (¬ (moved ∧ (x.state = 2 ∨ x.state = 3)) → y.state = x.state ∧ exec .laneFail s = .next (s.withPort p y)))) ∧
    (x.state = 1 → exec .retrainComplete s = .next (s.withPort p { x with
      state := if x.actout = 0 ∨ x.actin = 0 ∨ x.peer = none then 0 else if x.ctr = 2 ^ 48 - 1 ∧ x.staged = none then 3 else 2
      trained := true
      retrains := if s.ev.b = 1 then x.retrains + 1 else x.retrains })) ∧
    (s.dev.stage = 3 → (s.ev.b = 1 ∨ s.dev.hostUp = true) →
      (v.getLsbD 63 = false → ∃ u y, exec .alctlWrite s = .next u ∧ u = s.withPort p y ∧ y.en = false ∧ y.state = 0 ∧ y.split = v.toNat % 8) ∧
      (v.getLsbD 63 = true → s.dev.portMask.getLsbD p.val = false → ∃ u, exec .alctlWrite s = .next u ∧ u.ports[p].en = false ∧
        u.ports[p].state = 0) ∧
      (v.getLsbD 63 = true → s.dev.portMask.getLsbD p.val = true → x.en = false → ∃ y, y.en = true ∧ y.state = 1 ∧ y.split = v.toNat % 8 ∧
        y.key = x.key ∧ y.peer = x.peer ∧
        exec .alctlWrite s = .next (ask { s.withPort p y with lost :=
          if (∀ q : Fin 18, q ≠ p → s.ports[q].peer = x.peer → s.dev.portMask.getLsbD q.val = true →
            s.ports[q].en = true ∧ s.ports[q].state ≠ 4) then s.lost.filter (fun r => some r != x.peer) else s.lost }
          (agendaEv .retrainComplete p.val 0 0 0))) ∧
      (v.getLsbD 63 = true → s.dev.portMask.getLsbD p.val = true → x.en = true → v.toNat % 8 = x.split →
        exec .alctlWrite s = .next (s.withPort p x)) ∧
      (v.getLsbD 63 = true → s.dev.portMask.getLsbD p.val = true → x.en = true → v.toNat % 8 ≠ x.split →
        ∃ y : Port, (y.actout, y.actin) = lanesOf (v.toNat % 8) x.healthy (low x) ∧ spares y ∧
          y = { x with split := v.toNat % 8, actout := y.actout, actin := y.actin, spareOut := y.spareOut, spareIn := y.spareIn, state := y.state } ∧
          ((y.actout, y.actin) = (x.actout, x.actin) ∨ x.state = 4 → y.state = x.state ∧ exec .alctlWrite s = .next (s.withPort p y)) ∧
          ((y.actout, y.actin) ≠ (x.actout, x.actin) → x.state ≠ 4 → y.state = 1 ∧
            exec .alctlWrite s = .next (ask (s.withPort p y) (agendaEv .retrainComplete p.val 1 0 0))))) ∧
    (s.dev.stage = 3 → s.ev.b = 0 → s.dev.hostUp = true → exec .alkeygoWrite s = .next (ask (s.withPort p { x with
      staged := some (x.staging[3] ++ x.staging[2] ++ x.staging[1] ++ x.staging[0], v.extractLsb' 0 48) }) (agendaEv .keySwitch p.val 0 0 0))) ∧
    (s.ev.b = 1 → exec .alkeygoWrite s = .next s)) ∧
  (∀ s : State,
    let pkg := s.ev.a
    let ask := fun (t : State) (e : Ev) => { t with agenda := t.agenda ++ [e] }
    exec .presenceDrop s = .next (ask s (agendaEv .peerLostDeclare pkg 0 0 0)) ∧
    ((∃ p : Fin 18, s.ports[p].peer = some pkg) → (∀ p : Fin 18, s.ports[p].peer = some pkg → s.ports[p].state = 0 ∨ s.ports[p].state = 4) →
      exec .portDownTimeout s = .next (ask s (agendaEv .peerLostDeclare pkg 0 0 0))) ∧
    ((∃ p : Fin 18, s.ports[p].peer = some pkg ∧ s.ports[p].state ≠ 0 ∧ s.ports[p].state ≠ 4) → exec .portDownTimeout s = .next s) ∧
    (pkg ∈ s.lost → exec .peerLostDeclare s = .next s) ∧
    (pkg ∉ s.lost → ∃ v, exec .peerLostDeclare s = .next v ∧ (∀ q, q ∈ v.lost ↔ q = pkg ∨ q ∈ s.lost) ∧
      (∀ p : Fin 18, v.ports[p] = if s.ports[p].peer = some pkg then { s.ports[p] with state := 4 } else s.ports[p]) ∧
      (∀ p : Fin 16, v.parts[p].lostpkg = BitVec.ofNat 64 pkg ∧ s.parts[p].dropcnt.toNat ≤ v.parts[p].dropcnt.toNat) ∧
      (∀ u, u ∈ v.unacked ↔ u ∈ s.unacked ∧ u.pkg ≠ pkg) ∧ v.mem = s.mem ∧ v.teams = s.teams ∧
      (∀ c : Fin 2048, (∀ r ∈ (s.cores[c]).busy, ∀ q, r.peer = some q → q.pkg ≠ pkg) → v.cores[c] = s.cores[c]) ∧
      ((∀ c : Fin 2048, ∀ r ∈ (s.cores[c]).busy, ∀ q, r.peer = some q → q.pkg ≠ pkg) →
       (∀ (h : Fin 1024) (k : Fin 4) (c : Copy), (s.fronds[h]).chans[k] = some c → ∀ x ∈ c.pends, x.1 ≠ pkg) → ∀ p : Fin 16,
        v.parts[p].dropcnt.toNat = min (s.parts[p].dropcnt.toNat + (s.unacked.filter fun u => u.pkg == pkg && u.part == p).length) (2 ^ 64 - 1)) ∧
      (∀ f ∈ s.firings, (∃ q ∈ f.pends, q.pkg = pkg) → ∃ e ∈ v.agenda, e.op = .remotePoisonComplete ∧ e.a = f.adm) ∧
      ((s.firings.map Firing.adm).Nodup → ∀ f ∈ s.firings, ∃ g ∈ v.firings, g.adm = f.adm ∧ ∀ q ∈ g.pends, q.pkg = pkg → q.dead = true)) ∧
    (∀ i, exec .moduleInsertion s = .next i → ∀ p : Fin 18,
      let x := s.ports[p]
      let here := ∃ w ∈ s.ev.l, w.toNat = p.val
      let (o, n) := lanesOf x.split x.healthy (decide (s.dev.pkg < pkg))
      (¬ here → i.ports[p] = x) ∧ (here → 8 ≤ x.healthy → i.ports[p] = { x with peer := some pkg }) ∧
      (here → x.healthy < 8 → i.ports[p] = { x with
        peer := some pkg, actout := o, actin := n, spareOut := decide (o + n < x.healthy), spareIn := decide (o + n + 1 < x.healthy) })) ∧
    ∃ ps, exec .moduleInsertion s = .next { s with ports := ps })

/-- R381, R382, R390, R391: a host link lost or back changes that and nothing else. In FULL a host write through BAR2 stores its bytes at
home and leaves every full-empty bit; through BAR4 an aligned dword also sets its word empty in the lower half, full in the upper; beyond
HBM it completes as an unsupported request. In FULL a host read answers the home bytes, BAR4 as BAR2, and in PROTONEMA zero; DEVSTAT can
be read in every stage. A poisoned line and a lost port are noted. By the model's choice, not by R381 (log 55): outside FULL a host write
of memory changes nothing, a read of memory in other stages, or of a virtual function that is off, is answered as unsupported, and so is
one of other control space in ROM. That a BAR4 write other than one aligned dword acts as through BAR2 (log 55) and that poison stays (log
56) are its choices too. -/
def Obligations.HostAndCxl : Prop :=
  ∀ s : State, s.mem.wf = true →
    let n := s.ev.b
    let packed := packNat 64 (s.ev.l.map BitVec.toNat)
    let o := s.ev.a % 2 ^ 40
    exec .hostLinkLoss s = .next { s with dev := { s.dev with hostUp := false } } ∧
    exec .hostLinkReturn s = .next { s with dev := { s.dev with hostUp := true } } ∧
    ((s.dev.hostUp = false ∨ s.dev.stage ≠ 3) → exec .hostBar2Write s = .next s ∧ exec .hostBar4Write s = .next s) ∧
    (s.dev.hostUp = true → s.dev.stage = 3 →
      (768 * 2 ^ 30 < s.ev.a + n → exec .hostBar2Write s = .next { s with sent := s.sent ++ [.unsupported] }) ∧
      (s.ev.a + n ≤ 768 * 2 ^ 30 → ∃ (m : Mem) (l : List Late), exec .hostBar2Write s = .next { s with mem := m, late := l } ∧ m.holds s.mem s.ev.a n packed) ∧
      (768 * 2 ^ 30 < o + n → exec .hostBar4Write s = .next { s with sent := s.sent ++ [.unsupported] }) ∧
      (o + n ≤ 768 * 2 ^ 30 → n ≠ 8 ∨ o % 8 ≠ 0 → ∃ (m : Mem) (l : List Late),
        exec .hostBar4Write s = .next { s with mem := m, late := l } ∧ m.holds s.mem o n packed) ∧
      (o + n ≤ 768 * 2 ^ 30 → n = 8 → o % 8 = 0 → (∀ w ∈ s.retry, homeUnit w.key ≠ homeUnit o) → ∃ (m : Mem) (f : List Nat) (l : List Late),
        exec .hostBar4Write s = .next { s with mem := m, full := f, late := l } ∧ m.holds s.mem o 8 packed ∧
        (s.full.Pairwise (· < ·) → ∀ w, w ∈ f ↔ (w = o / 8 ∧ 2 ^ 40 ≤ s.ev.a) ∨ (w ≠ o / 8 ∧ w ∈ s.full)))) ∧
    (∀ (w : Window) (a k : Nat),
      let answers := fun (x : Sent) => s.input (.hostRead w a k) = .next { s with sent := s.sent ++ [x] }
      (s.dev.hostUp = false → s.input (.hostRead w a k) = .next s) ∧
      (s.dev.hostUp = true →
        (∀ off, (w = .bar2 ∧ off = a) ∨ (w = .bar4 ∧ off = a % 2 ^ 40) →
          (s.dev.stage = 3 → off + k ≤ 768 * 2 ^ 30 → answers (.hostData k (s.mem.read off k))) ∧
          (s.dev.stage = 2 → off + k ≤ 768 * 2 ^ 30 → answers (.hostData k 0)) ∧
          ((s.dev.stage ≠ 2 ∧ s.dev.stage ≠ 3) ∨ 768 * 2 ^ 30 < off + k → answers .unsupported)) ∧
        (w = .bar0 → a = 0x3000000 → k = 8 → s.dev.fault < 256 → s.dev.stage < 8 →
          answers (.hostData 8 (s.dev.fwver.toNat * 2 ^ 32 + s.dev.fault * 2 ^ 8 + s.dev.stage))) ∧
        (w = .bar0 → s.dev.stage = 0 → (a < 0x3000000 ∨ 0x3000008 < a + k) → answers .unsupported) ∧
        (∀ p, w = .vf p → (s.dev.vfMask.getLsbD p.val = false ∨ s.dev.vfEn.getLsbD p.val = false) → answers .unsupported))) ∧
    (∀ (p : Fin 16) (off : Nat) (v : Word), (s.dev.vfMask.getLsbD p.val = false ∨ s.dev.vfEn.getLsbD p.val = false) →
      s.input (.vfWrite p off v) = .next s) ∧
    (∃ l, exec .cxlPoison s = .next { s with dev := { s.dev with cxlPoison := l } } ∧ ∀ x, x ∈ l ↔ x = s.ev.a ∨ x ∈ s.dev.cxlPoison) ∧
    ∃ l, exec .cxlDeviceLoss s = .next { s with dev := { s.dev with cxlDown := l } } ∧ ∀ x, x ∈ l ↔ x = s.ev.a % 2 ∨ x ∈ s.dev.cxlDown

/-- R391 to R393, R395, R397: at power-good the ROM verifies the stored image and enters PROTONEMA or RECOVERY with every unit at reset;
PROTONEMA becomes FULL with zeroed and empty memory once every frond has passed its self-test and no port trains; RESET ends every team
and starts from the ROM; power loss leaves ROM; a thermal trip or the loss of a die's HBM ends PROTONEMA or FULL in DOWN with every firing
discarded, every port dropped and a team's completion word, where it can be reached, FATAL with the fault's code. A mailbox command ends
with its status in CMDRES. R396: RESYNC counts itself and writes the summary to the buffer: the header, PINT, PCFG, TRHEAD, TRTAIL,
DROPCNT and LOSTPKG of every partition, and its pre-emption status, HEAD and TAIL of every queue, and a record for each of the first 1,758
teams from the index asked for, which tells a saved team and a draining one. What a restart keeps and RESET's code (log 12), KEYLOAD's
buffer, salt and status 4 (log 13), how signatures and fused values stand in the model (log 6), and the places of RESYNC's items that have
no bits (log 29) are the model's choices. -/
def Obligations.DeviceStages : Prop :=
  (∀ s : State,
    let ends := fun (t : State) (st : Nat) => { t with agenda := t.agenda ++ [agendaEv .commandComplete st 0 0 0] }
    (s.dev.stage = 0 → ∃ v, exec .powerGood s = .next v ∧ v.freshUnits ∧ v.startedFrom s.dev.stored ∧ v.dev.fault = 0) ∧
    (s.dev.stage ≠ 0 → exec .powerGood s = .next s) ∧
    (∃ v, exec .powerLoss s = .next v ∧ v.freshUnits ∧ v.dev.stage = 0 ∧ v.dev.stored = s.dev.stored) ∧
    (∃ v, exec .reset s = .next v ∧ v.freshUnits ∧ v.startedFrom s.dev.stored) ∧
    (s.dev.stage ≠ 2 → exec .fullEnter s = .next s) ∧
    (s.dev.stage = 2 → ∃ v, exec .fullEnter s = .next v ∧ v = { s with dev := v.dev, mem := v.mem, full := v.full, fronds := v.fronds, late := v.late } ∧
      (∀ h : Fin 1024, v.fronds[h] = { s.fronds[h] with tested := !(s.ev.l.any fun w => w.toNat == h.val) }) ∧
      (let ready := (∀ p : Fin 18, s.ports[p].state ≠ 1) ∧ ∀ h : Fin 1024, ∀ w ∈ s.ev.l, w.toNat ≠ h.val
       (ready → v.dev = { s.dev with stage := 3 } ∧ v.full = [] ∧ ∀ k, (k < 2 ^ 52 ∨ (2 ^ 54 ≤ k ∧ k < 2 ^ 56)) → v.mem.get k = 0) ∧
       (¬ ready → v.dev = s.dev ∧ v.full = s.full ∧ v.mem = s.mem))) ∧
    (∀ i c, ((i = .thermalTrip ∧ c = 1) ∨ (i = .hbmDieLoss ∧ c = 3)) →
      (s.dev.stage = 2 ∨ s.dev.stage = 3 → ∃ v, exec i s = .next v ∧ v.dev.stage = 4 ∧ v.dev.fault = c ∧ v.dev.cmdRun = none ∧ v.firings = [] ∧
        v.teams = [] ∧ v.agenda = [] ∧ (∀ p : Fin 18, v.ports[p].en = false ∧ v.ports[p].state = 0) ∧
        ∀ (t : Team) (o : Nat), s.teams = [t] → (∀ f ∈ s.firings, f.msg = none) → (dword t.recd 8).toNat = 0x1FF2 * 2 ^ 44 + o → o < 2 ^ 29 →
          o % 8 = 0 → s.shmOk t.part o 8 = true → (∀ w ∈ s.retry, homeUnit w.key ≠ homeUnit (shmKey o)) → t.flag 28 = false → s.mem.wf = true →
          v.mem.read (shmKey o) 8 = (if t.flag 30 then t.commitNext else t.retired) % 2 ^ 32 * 2 ^ 32 + c * 256 + 2 ∧
            v.isFull (shmKey o) = true) ∧
      (s.dev.stage ≠ 2 → s.dev.stage ≠ 3 → exec i s = .next s)) ∧
    exec .powerCapBreach s = .next { s with dev := { s.dev with stretched := true } } ∧
    (∀ i ∈ [Instr.ident, .health, .thermal], ∃ m : Mem, exec i s = .next (ends { s with mem := m, free := s.free + 1 } 0) ∧
      (s.mem.wf = true → m.holds s.mem (2 ^ 56) 65536 (Config.report s.free).toNat)) ∧
    (s.dev.trusts s.buffer → exec .fwload s = .next (ends { s with dev := { s.dev with stored := s.buffer } } 0)) ∧
    (¬ s.dev.trusts s.buffer → exec .fwload s = .next (ends s 3)) ∧
    (18 ≤ s.ev.v.toNat / 2 ^ 8 → exec .keyload s = .next (ends s 4)) ∧
    (∀ p : Fin 18, s.ev.v.toNat / 2 ^ 8 = p.val →
      (Config.unwrapped s.buffer = none → exec .keyload s = .next (ends s 3)) ∧
      (∀ k, Config.unwrapped s.buffer = some k → ∃ salt, exec .keyload s = .next
        (ends { s.withPort p { s.ports[p] with staged := some (k, salt) } with free := s.free + 1, agenda := s.agenda ++ [agendaEv .keySwitch p.val 0 0 0] } 0))) ∧
    (s.dev.cmdRun = none → exec .commandComplete s = .next s) ∧
    (s.dev.cmdRun ≠ none → exec .commandComplete s = .next { s with
      dev := { s.dev with cmdRun := none, cmdres := BitVec.ofNat 64 (2 ^ 63 + s.ev.a % 256) }
      sent := s.sent ++ [.msix 0] })) ∧
  (∀ s : State, s.mem.wf = true → s.dev.fault < 256 → s.dev.stage < 8 →
    let first := s.ev.v.toNat / 2 ^ 8 % 2 ^ 32
    let ts := (s.teams.drop first).take 1758
    ∃ v, exec .resync s = .next v ∧ v.dev = { s.dev with resyncs := s.dev.resyncs + 1 } ∧
      v.agenda = s.agenda ++ [agendaEv .commandComplete 0 0 0 0] ∧ v.teams = s.teams ∧ v.firings = s.firings ∧
      v.bufWord 0 = BitVec.ofNat 64 (s.dev.fwver.toNat * 2 ^ 32 + s.dev.fault * 2 ^ 8 + s.dev.stage) ∧
      v.bufWord 8 = BitVec.ofNat 64 (s.dev.resyncs + 1) ∧
      v.bufWord 16 = BitVec.ofNat 64 ((first + ts.length) % 2 ^ 32 * 2 ^ 32 + ts.length) ∧
      (∀ p : Fin 18, (v.bufWord 24).getLsbD p.val = decide (s.ports[p].state = 2)) ∧
      (∀ i, i < 2 → (v.bufWord 32).getLsbD (8 + i) = (s.dev.cxlOn.getLsbD i && !s.dev.cxlDown.contains i)) ∧ v.bufWord 48 = s.dev.portMask ∧
      (∀ p : Fin 16, let x := s.parts[p]
        ∀ j w, (j, w) ∈ [(0, x.pint), (1, x.pcfg), (2, x.trhead), (3, x.trtail), (4, x.dropcnt), (5, x.lostpkg)] →
          v.bufWord (0x40 + 64 * p.val + 8 * j) = w ∧ (v.bufWord (0x78 + 64 * p.val)).getLsbD 63 = x.req.isSome) ∧
      (∀ (p : Fin 16) (q : Fin 32), v.bufWord (0x440 + 16 * (32 * p.val + q.val)) =
        BitVec.ofNat 64 ((s.parts[p].lq[q]).lqtail.toNat % 2 ^ 32 * 2 ^ 32 + (s.parts[p].lq[q]).lqhead.toNat % 2 ^ 32)) ∧
      ∀ i t, ts[i]? = some t → v.bufWord (0x2440 + 32 * i) = t.tid ∧ v.bufWord (0x2448 + 32 * i) = dword t.recd 8 ∧
        (v.bufWord (0x2450 + 32 * i)).toNat / 2 ^ 32 = t.retired % 2 ^ 32 ∧ (v.bufWord (0x2450 + 32 * i)).toNat / 16 % 2 ^ 28 = t.part.val ∧
        (v.bufWord (0x2450 + 32 * i)).toNat % 16 ≤ 5 ∧ (t.ready = false → (v.bufWord (0x2450 + 32 * i)).toNat % 16 = 0) ∧
        (t.ready = true → t.saved ≠ 0 → ¬ s.runs t → (v.bufWord (0x2450 + 32 * i)).toNat % 16 = 4) ∧
        (t.ready = true → t.saved = 0 → t.flag 28 = false → t.draining = true → (v.bufWord (0x2450 + 32 * i)).toNat % 16 = 3))

/-- R378, R379, R397: a lockstep mismatch freezes the queues of a die; a second failure of its re-adoption within 1 s ends the device with
fault 2; the kernel back, the queues thaw; an error in the monitor region re-adopts likewise. Any other uncorrectable error strikes the
partition of its frond, those whose shared memory its bank holds, those with a page at an HBM word or a request in flight through an HBM
controller, and so on as R379 has it; a struck partition's teams at work end FATAL and its ring gets a MACHINE record with the syndrome;
the teams of other partitions stay. What marks more than 1 s (log 10) and an error of the HBM controller, what counts as in flight and as
at work, that handler firings stay, and the record's free words (log 8) are the model's choices. -/
def Obligations.MachineErrors : Prop :=
  ∀ (s : State) (d : Fin 4),
    let fails := fun (late : Prop) (t v : State) =>
      ((t.dies[d].failed = false ∨ late) → v = t.onDie d fun x => { x with failed := true }) ∧
      (t.dies[d].failed = true → ¬ late → (t.dev.stage = 2 ∨ t.dev.stage = 3) → v.dev.stage = 4 ∧ v.dev.fault = 2 ∧ v.firings = [] ∧ v.teams = [])
    let frozen := s.onDie d fun x => { x with frozen := true }
    let begins := fun (late : Prop) (v : State) =>
      (s.dev.trusts s.dev.image → v = frozen) ∧ (¬ s.dev.trusts s.dev.image → fails late frozen v)
    (s.ev.b = d.val → s.ev.c % 2 = 1 → (s.dies[d].frozen = true → exec .uncorrectableError s = .next s) ∧
      (s.dies[d].frozen = false → ∃ v, exec .uncorrectableError s = .next v ∧ begins (s.ev.c / 2 % 2 = 1) v)) ∧
    (s.ev.a = d.val →
      (s.dies[d].frozen = false → ∃ v, exec .lockstepMismatch s = .next v ∧ begins (s.ev.c = 1) v) ∧
      (s.dies[d].frozen = true → (∃ v, exec .lockstepMismatch s = .next v ∧ fails (s.ev.c = 1) s v) ∧
        ∃ v, exec .readoptionTimeout s = .next v ∧ fails (s.ev.c = 1) s v) ∧
      (s.dies[d].frozen = false → exec .readoptionTimeout s = .next s) ∧
      exec .readoptionComplete s = .next (s.onDie d fun x => { x with frozen := false })) ∧
    (∀ p : Fin 16, s.ev.b = d.val → (p ∈ s.struck ↔ (∃ w ∈ s.ev.l, w.toNat % 16 = p.val) ∨
      (s.ev.a = 1 ∧ s.partOf (s.ev.v.toNat % 1024) = some p) ∨
      (s.ev.a = 2 ∧ s.parts[p].shmlen ≠ 0 ∧ s.parts[p].shmbase.toNat < (d.val + 1) * 2 ^ 27 ∧
        d.val * 2 ^ 27 < s.parts[p].shmbase.toNat + s.parts[p].shmlen.toNat) ∨
      ((s.ev.a = 7 ∨ (s.ev.a = 3 ∧ s.ev.c / 4 % 2 = 0)) ∧ s.hasPage p s.ev.v.toNat = true) ∨
      (s.ev.a ≠ 1 ∧ s.ev.a ≠ 2 ∧ s.ev.a ≠ 7 ∧ (s.ev.a = 3 → s.ev.c / 4 % 2 = 1) ∧ s.inFlight s.ev.a d.val s.ev.v.toNat p = true))) ∧
    (∀ p : Fin 16, s.ev.c % 2 = 0 → s.ev.b = d.val → s.struck = [p] → (∀ f ∈ s.firings, f.msg = none) →
      s.parts[p].ringFree → ∃ v, exec .uncorrectableError s = .next v ∧
        (∀ t ∈ v.teams, ∃ u ∈ s.teams, u.id = t.id ∧ ¬ (u.part = p ∧ s.works u)) ∧
        ((s.teams.map Team.id).Nodup → ∀ u ∈ s.teams, ¬ (u.part = p ∧ s.works u) → ∃ t ∈ v.teams, t.id = u.id) ∧
        v.parts[p].trtail = BitVec.ofNat 64 ((s.parts[p].trtail.toNat % 2 ^ 32 + 1) % 2 ^ 32) ∧
        (s.mem.wf = true →
          let slot := s.parts[p].trbase.toNat + 64 * (s.parts[p].trtail.toNat % 2 ^ 32 % 2 ^ s.parts[p].trlog2.toNat)
          v.mem.read (slot + 16) 2 = 0x15 ∧ v.mem.read (slot + 24) 8 = s.ev.a % 256 * 2 ^ 56 + d.val * 2 ^ 42 + s.ev.v.toNat % 2 ^ 42 ∧
          (∀ (t : Team) (o : Nat), s.ev.a = 1 → s.teams = [t] → t.part = p → s.works t → t.recd.length = 16 → (dword t.recd 8).toNat = 0x1FF2 * 2 ^ 44 + o →
            o < 2 ^ 29 → o % 8 = 0 → s.shmOk p o 8 = true → (∀ w ∈ s.retry, homeUnit w.key ≠ homeUnit (shmKey o)) → t.flag 28 = false → slot + 64 ≤ 768 * 2 ^ 30 →
            v.mem.read (shmKey o) 8 = (if t.flag 30 then t.commitNext else t.retired) % 2 ^ 32 * 2 ^ 32 + 1 * 256 + 2 ∧
              v.isFull (shmKey o) = true)))

/-- R76 to R79, R82, R85 to R87: the head record of a queue that is served is read, and rejected with the first code whose condition
holds, reported in LQERR unless an earlier report stands there, or taken as a team with its dependences to await; a record that cannot be
read halts the queue. At a queue that is served, a team whose dependences are all full with OK goes on to placement, and an empty one
completes at once; one with another status is rejected with code 0x10. R24, R73, R82, R84, R88, R90, R240, R342: the next firing of the
one team that has any to place is admitted where its mode tries first, as its trigger makes it, on a core whose pools hold it, with memory
as released to its frond for its code and a renewed snapshot; an actor's next firing likewise when its streams allow it, whether its queue
is served or not. A team all of whose firings have retired and whose writes are acknowledged completes with OK and its count; a CHECK team
begins its second run. R342, R343: the end of a CHECK team's first run writes the digest of its OUT ranges, folded block by block from 64
zero bytes, to D1; the end of its second run writes D2, and RESULT says MATCH when the two are equal, else ORDERDEP with the entry and the
block that first differ. That one bad dependence word rejects at once and a slot with CNT 0 is invalid are the model's reading (log 40); a
list that cannot be read rejects nothing (log 33), an address out of the unit's reach earns code 0x0A (log 74) and tile registers are
given lowest first (log 26) by its choice. -/
def Obligations.LaunchAndPlacement : Prop :=
  (∀ (s : State) (p : Fin 16) (q : Fin 32), s.ev.a = p.val → s.ev.b = q.val →
    let x := s.parts[p].lq[q]
    let seq := x.lqhead.toNat % 2 ^ 32
    let slot := x.lqbase.toNat + seq % 2 ^ (x.lqcfg.toNat % 32) * 128
    let head := fun (t : State) (n c : Nat) => (t.parts[p].lq[q]).lqerr =
      if x.lqerr.getLsbD 8 then x.lqerr else BitVec.ofNat 64 (n * 2 ^ 32 + 256 + c)
    (x.lqcfg.getLsbD 16 = true → x.lqcfg.getLsbD 17 = false → x.lqcfg.toNat % 32 ≠ 0 → x.team = none → s.frozen p = false →
      x.lqhead.toNat % 2 ^ 32 ≠ x.lqtail.toNat % 2 ^ 32 →
      (s.unitPlace p s.parts[p].die false slot 128 false = none → ∃ v, exec .launchRecordRead s = .next v ∧ v.teams = s.teams ∧ v.mem = s.mem ∧
        (v.parts[p].lq[q]).lqcfg = x.lqcfg ||| 0x20000#64 ∧ head v seq 0x3F ∧ (v.parts[p].lq[q]).lqhead = x.lqhead) ∧
      (∀ t key, s.unitPlace p s.parts[p].die false slot 128 false = some (t, key) →
        let r := (List.range 16).map fun i => BitVec.ofNat 64 (t.homeRead key 128 / 2 ^ (64 * i))
        let u := t.onPart p fun y => { y with lq := y.lq.set q { x with lqhead := BitVec.ofNat 64 ((seq + 1) % 2 ^ 32) } }
        let w := u.touchRecord p r
        (u.recCode p r = 0 → ∃ n, exec .launchRecordRead s = .next { w with
            teams := s.teams ++ [n]
            next := s.next + 1
            parts := u.parts.set p { u.parts[p] with lq := u.parts[p].lq.set q { x with lqhead := BitVec.ofNat 64 ((seq + 1) % 2 ^ 32), team := some s.next } }
            agenda := s.agenda ++ [agendaEv .dependencesMet p.val q.val 0 0] } ∧ n.id = s.next ∧ n.begins p q seq r) ∧
        (∀ c, u.recCode p r = c → c ≠ 0 → ∃ v, exec .launchRecordRead s = .next v ∧ v.teams = s.teams ∧ v.others = s.others ∧ head v seq c ∧
          (v.parts[p].lq[q]).lqhead = BitVec.ofNat 64 ((seq + 1) % 2 ^ 32) ∧ (v.parts[p].lq[q]).team = none ∧
          (∀ z k, w.unitWord p (dword r 8).toNat true = some (z, k) → (∀ y ∈ s.retry, homeUnit y.key ≠ homeUnit k) → s.mem.wf = true →
            v.mem.read k 8 = c * 256 + 1 ∧ v.isFull k = true)))) ∧
    (∀ r, s.recBad p r = false → ∀ c ∈ [2, 3, 4, 5, 6, 7, 8],
      recBroken r s.parts[p].len c → (∀ d ∈ [2, 3, 4, 5, 6, 7, 8], d < c → ¬ recBroken r s.parts[p].len d) → s.recCode p r = c) ∧
    (∀ r, s.recCode p r = 0 → ∀ c ∈ [2, 3, 4, 5, 6, 7, 8, 12], ¬ recBroken r s.parts[p].len c) ∧
    (∀ t, x.team = some t.id → (s.teams.find? fun u => u.id == t.id) = some t → t.ready = false → t.part = p → t.queue = q.val →
      (x.served = false → exec .dependencesMet s = .next s) ∧ (x.served = true →
      let w := s.touchDeps t
      let met := ∀ k ∈ w.depKeys t, ∃ n, k = some n ∧ w.isFull n = true ∧ w.mem.read n 1 = 0
      let failed := ∃ n, some n ∈ w.depKeys t ∧ w.isFull n = true ∧ w.mem.read n 1 ≠ 0
      (¬ failed → ¬ met → exec .dependencesMet s = .next w) ∧
      (failed → ∃ v, exec .dependencesMet s = .next v ∧ v.others = s.others ∧ head v (t.seq.toNat % 2 ^ 32) 0x10 ∧ (v.parts[p].lq[q]).team = none ∧
        (∀ u ∈ v.teams, u.id ≠ t.id) ∧ ∀ u ∈ s.teams, u.id ≠ t.id → u ∈ v.teams) ∧
      (met → (dword t.recd 3).getLsbD 30 = false →
        (recCount t.recd = 0 → t.flag 28 = false → ∃ v, exec .dependencesMet s = .next v ∧ v.others = s.others ∧ (v.parts[p].lq[q]).team = none ∧
          (∀ u ∈ v.teams, u.id ≠ t.id) ∧ (∀ u ∈ s.teams, u.id ≠ t.id → u ∈ v.teams) ∧
          ∀ z k, w.unitWord p (dword t.recd 8).toNat true = some (z, k) → (∀ y ∈ s.retry, homeUnit y.key ≠ homeUnit k) → s.mem.wf = true →
            v.mem.read k 8 = t.retired % 2 ^ 32 * 2 ^ 32 ∧ v.isFull k = true) ∧
        (recCount t.recd ≠ 0 → ∃ v, exec .dependencesMet s = .next v ∧ v.others = s.others ∧ v.parts = s.parts ∧ v.mem = w.mem ∧
          agendaEv .teamComplete t.id 0 0 0 ∈ v.agenda ∧ agendaEv .firingPlace p.val 0 0 0 ∈ v.agenda ∧
          v.teams = s.teams.map fun u => if u.id = t.id then { u with ready := true } else u)) ∧
      (met → (dword t.recd 3).getLsbD 30 = true → ∃ v, exec .dependencesMet s = .next v ∧ (v.parts[p].lq[q]).team = none ∧
        agendaEv .actorFire t.id 0 0 0 ∈ v.agenda ∧ agendaEv .teamComplete t.id 0 0 0 ∈ v.agenda ∧
        v.teams.map (fun u => (u.id, u.ready)) = s.teams.map fun u => (u.id, if u.id = t.id then true else u.ready))))) ∧
  (∀ (s : State) (t : Team), (s.teams.find? fun u => u.id == t.id) = some t → t.flag 26 = false → t.flag 27 = false → t.flag 29 = false →
    let p := t.part
    let adds := fun (v : State) (fid : Nat) => ∃ g, v.others = s.others ++ [g] ∧ v.fir = s.fir ∧ g.adm = s.next ∧ v.next = s.next + 1 ∧
      g.madeFor s t fid (dword t.recd 0) ∧ g.fitsPools s ∧ s.parts[p].hasFrond g.frond.val = true ∧
      (g.dem.xregs, g.dem.vregs, g.dem.tiles, g.dem.accs, g.dem.btiles, g.dem.spad) = recDemand t.recd ∧
      ((dword t.recd 3).toNat % 4 = 1 → g.core.val % 2 = 0) ∧ ((dword t.recd 3).toNat % 4 = 2 → g.core.val % 2 = 1) ∧
      v.mem = s.mem ∧ (s.mem.wf = true → v.renewedOf s g.frond ∧ ∀ k, s.sureAt g.frond k → g.code.get k = s.mem.get k)
    let tries := fun (fid : Nat) (o : Nat) => s.placeAt t fid (s.parts[p].start + o) none
    (s.ev.a = p.val → s.frozen p = false → s.placing p = [t] → t.flag 31 = false → t.flag 30 = false → t.again = [] →
      t.placed < recCount t.recd → t.queue < 32 → s.parts[p].len ≠ 0 → s.parts[p].start + s.parts[p].len ≤ 1024 →
      (∃ o ∈ t.offsets t.placed s.parts[p].len, ∃ u, tries t.placed o = .ok u) → ∃ v, exec .firingPlace s = .next v ∧ adds v t.placed ∧
        ∃ u, v.teamOf t.id = some u ∧ u = { t with placed := t.placed + 1, lastOff := u.lastOff, fronds := u.fronds, heldDie := none } ∧
          ∃ h ∈ u.fronds, s.parts[p].hasFrond h = true ∧ ∀ k ∈ t.fronds, k ∈ u.fronds) ∧
    (s.ev.a = t.id → t.flag 30 = true → s.parts[p].len ≠ 0 → s.parts[p].start + s.parts[p].len ≤ 1024 →
      (s.actorMay t = false → exec .actorFire s = .next s) ∧
      (s.actorMay t = true → t.ready = true → t.draining = false → t.held = false → s.frozen p = false →
        (∃ o ∈ t.offsets t.fireNext s.parts[p].len, ∃ u, tries t.fireNext o = .ok u) → ∃ v, exec .actorFire s = .next v ∧ adds v t.fireNext ∧
          agendaEv .actorFire t.id 0 0 0 ∈ v.agenda ∧ ∃ u, v.teamOf t.id = some u ∧ u = { t with fireNext := t.fireNext + 1, lastOff := u.lastOff, fronds := u.fronds, heldDie := none })) ∧
    (s.ev.a = t.id → t.flag 30 = false → t.ready = true → t.saved = 0 → t.again = [] → (∀ f ∈ s.firings, ¬ (f.tid = t.tid ∧ f.part = t.part)) →
      t.placed = recCount t.recd → t.retired = recCount t.recd → t.owed = [] →
      (t.flag 28 = false → ∃ v, exec .teamComplete s = .next v ∧ (∀ u, u ∈ v.teams ↔ u ∈ s.teams ∧ u.id ≠ t.id) ∧ v.others = s.others ∧
        ∀ w k, s.unitWord p (dword t.recd 8).toNat true = some (w, k) → (∀ y ∈ s.retry, homeUnit y.key ≠ homeUnit k) → s.mem.wf = true →
          v.mem.read k 8 = recCount t.recd % 2 ^ 32 * 2 ^ 32 ∧ v.isFull k = true) ∧
      (t.flag 28 = true → t.checkRun = 0 → recCount t.recd ≠ 0 → exec .teamComplete s = .next s ∧
        ∃ v u, exec .checkSecondRun s = .next v ∧ v.teamOf t.id = some u ∧ u.checkRun = 1 ∧ u.placed = 0 ∧ u.retired = 0 ∧ u.again = [] ∧
          v.others = s.others ∧ agendaEv .firingPlace p.val 0 0 0 ∈ v.agenda))) ∧
  (∀ (s : State) (t : Team) (rs : List CheckRange) (key : Nat) (at_ : Nat → Nat), s.mem.wf = true → s.ev.a = t.id →
    s.dev.cxlPoison = [] → s.dev.cxlDown = [] → s.dev.cxlOn = 3 →
    (s.teams.find? fun u => u.id == t.id) = some t → t.flag 28 = true → t.flag 30 = false → s.runEnded t = true →
    s.checkListAt t.part (dword t.recd 11).toNat key rs → (∀ r ∈ rs, r.rst = false) →
    (∀ b ∈ outBlocks rs, s.seenAt t.part b.2.2.1 b.2.2.2 (at_ b.2.2.1) false ∧
      (at_ b.2.2.1 + b.2.2.2 ≤ key ∨ key + 256 ≤ at_ b.2.2.1)) →
    let ds := blockDigests s.mem ((outBlocks rs).map fun b => (at_ b.2.2.1, b.2.2.2)) 0
    (t.checkRun = 0 → ∃ v u, exec .checkSecondRun s = .next v ∧ v.mem.read (key + 64) 64 = ds.getLastD 0 ∧
      (∀ k, (k < key + 64 ∨ key + 128 ≤ k) → v.mem.get k = s.mem.get k) ∧ v.teamOf t.id = some u ∧ u.checkRun = 1 ∧
      u.blocks1 = ds.map (BitVec.ofNat 512)) ∧
    (t.checkRun = 1 → t.owed = [] → (dword t.recd 8).toNat % 8 ≠ 0 → ∃ v, exec .teamComplete s = .next v ∧
      (∀ u ∈ v.teams, u.id ≠ t.id) ∧ v.mem.read (key + 128) 64 = ds.getLastD 0 ∧
      (∀ k, (k < key + 8 ∨ (key + 16 ≤ k ∧ k < key + 128) ∨ key + 192 ≤ k) → v.mem.get k = s.mem.get k) ∧
      (BitVec.ofNat 512 (ds.getLastD 0) = t.blocks1.getLastD 0 → v.mem.read (key + 8) 8 = 1) ∧
      (BitVec.ofNat 512 (ds.getLastD 0) ≠ t.blocks1.getLastD 0 → ∀ i b, (outBlocks rs)[i]? = some b → t.blocks1.length = ds.length →
        (∀ j, j < i → BitVec.ofNat 512 (ds.getD j 0) = t.blocks1.getD j 0) → BitVec.ofNat 512 (ds.getD i 0) ≠ t.blocks1.getD i 0 →
        v.mem.read (key + 8) 8 = b.2.1 % 2 ^ 32 * 2 ^ 32 + b.1 * 2 ^ 24 + 2)))

/-- R74, R81, R177 to R180: the oldest message of a core's buffer is refused with subcode 3 where no partition takes it, 1 where its entry
cannot be read or is not valid, 2 where the entry breaks R81; else its handler firing is made on that core with the header, the sender and
the payload in its registers, and where the message's TOPX bit is not the partition's it stops for the supervisor with FMTMIS before its
first instruction. A refusal returns to its sender as a report, or to the error log when the sender has gone. A firing aged has priority
8. That a partition's own messages need no MSGIN is the model's reading (log 44); handlers start with the entry's address bits 56:2 (log
39). -/
def Obligations.MessageDispatch : Prop :=
  ∀ (s : State) (c : Fin 2048) (m : Message),
    let own := m.srcPkg = s.dev.pkg
    (s.ev.a = c.val → s.cores[c].inbound = [m] → m.unlogged → m.core = c.val →
      let u := s.touchEntry m
      let emptied := s.cores.set c { s.cores[c] with inbound := s.cores[c].onway.take 1, onway := s.cores[c].onway.drop 1 }
      let refused := fun (sub : Nat) => ∃ v, exec .messageDispatch s = .next v ∧ v.cores = emptied ∧
        v.others = s.others ∧ v.fir = s.fir ∧ v.mem = u.mem ∧
        (own → v.sent = s.sent ∧ (v.agenda.getLast?.map fun e => (e.op, e.a, e.b, e.v)) = some (.messageRefusalReturn, m.adm, sub, m.header)) ∧
        (¬ own → v.agenda = s.agenda ∧ v.sent = s.sent ++ [.refusal m.srcPkg m.srcCore m.adm sub m.header])
      (s.partOf (c.val / 2) = none → refused 3) ∧
      (∀ p, s.partOf (c.val / 2) = some p →
        (¬ (own ∧ m.srcPart = p.val) → s.parts[p].pcfg.getLsbD 4 = false → refused 3) ∧
        ((own ∧ m.srcPart = p.val) ∨ s.parts[p].pcfg.getLsbD 4 = true →
          (u.entryOf p m = none → refused 1) ∧
          (∀ w, u.entryOf p m = some w →
            ((dword w 0).getLsbD 0 = false → refused 1) ∧
            ((dword w 0).getLsbD 0 = true → ¬ entryKeeps (dword w 1) (c.val % 2 == 0) → refused 2) ∧
            (∀ sp, (dword w 0).getLsbD 0 = true → entryKeeps (dword w 1) (c.val % 2 == 0) → s.parts[p].req = none →
              s.admits c (demandOf (dword w 1)) none = some sp → m.header.getLsbD 8 = s.parts[p].pcfg.getLsbD 0 → m.payload.length ≤ 7 →
              ∃ v g, exec .messageDispatch s = .next v ∧ v.others = s.others ++ [g] ∧ v.fir = s.fir ∧ v.mem = u.mem ∧
                v.cores = emptied ∧ g.adm = s.next ∧ g.live = true ∧ g.core = c ∧ g.part = p ∧
                g.tid = BitVec.ofNat 64 (2 ^ 62 + m.header.toNat % 256) ∧ g.fid = 0 ∧ g.fcnt = 1 ∧ g.fparm = dword w 2 ∧
                g.pc = (dword w 0) &&& 0x1FFFFFFFFFFFFFC#64 ∧ g.prio = (dword w 1).toNat / 2 ^ 28 % 8 ∧ g.fitsPools s ∧
                g.rx 3 = m.header ∧ g.rx 4 = BitVec.ofNat 64 (m.srcPkg * 2 ^ 32 + m.srcCore) ∧
                (∀ i w, m.payload[i]? = some w → g.rx (BitVec.ofNat 6 (5 + i)) = w)) ∧
            (∀ sp, (dword w 0).getLsbD 0 = true → entryKeeps (dword w 1) (c.val % 2 == 0) → s.parts[p].req = none →
              s.admits c (demandOf (dword w 1)) none = some sp → m.header.getLsbD 8 ≠ s.parts[p].pcfg.getLsbD 0 →
              (∀ f ∈ s.firings, f.adm ≠ s.next) → (∀ g ∈ s.gangs, s.next ∉ g.members) →
              ∃ v g n, exec .messageDispatch s = .next v ∧ v.cores = emptied ∧ v.firing? s.next = some g ∧ g.part = p ∧ g.core = c ∧
                g.tcause = 11 ∧ g.tval = m.header ∧ g.tpc = (dword w 0) &&& 0x1FFFFFFFFFFFFFC#64 ∧ g.run = .stopped n
                  [g.tid, 0, BitVec.ofNat 64 (c.val * 65536 + 11), m.header, (dword w 0) &&& 0x1FFFFFFFFFFFFFC#64, g.fstat, 0, 0]) ∧
            (s.admits c (demandOf (dword w 1)) none = none → (dword w 0).getLsbD 0 = true → entryKeeps (dword w 1) (c.val % 2 == 0) →
              exec .messageDispatch s = .next s))))) ∧
    (∀ f, s.firing? s.ev.a = some f →
      (f.reports.length < 16 → exec .messageRefusalReturn s = .next (s.onFiring f.adm fun g => { g with
        reports := g.reports ++ [{ tc := BitVec.ofNat 64 (2 ^ 63 + 16)
                                   val := BitVec.ofNat 64 (s.ev.b * 256 + s.ev.v.toNat % 256)
                                   own := decide (s.ev.c / 2 ^ 15 % 2 = 1) }] })) ∧
      (16 ≤ f.reports.length → (s.firings.map Firing.adm).Nodup →
        exec .messageRefusalReturn s = .next (s.onFiring f.adm fun g => { g with replost := true }))) ∧
    (∀ p : Fin 16, s.firing? s.ev.a = none → s.ev.c / 2 ^ 11 % 16 = p.val → s.parts[p].ringFree → s.mem.wf = true →
      ∃ v, exec .messageRefusalReturn s = .next v ∧ v.ringHas s p [BitVec.ofNat 64 (s.dev.pkg * 2 ^ 32 + s.ev.c % 2 ^ 11), BitVec.allOnes 64,
        BitVec.ofNat 64 (2 * 256 + s.ev.b), s.ev.v, 0, 0, 0, 0]) ∧
    (∀ f, s.firing? s.ev.a = some f → f.run = .running → (f.wait = none ∨ ∃ n b, f.wait = some (.queue n b)) → ∃ v g, exec .priorityAge s = .next v ∧
      v.firing? f.adm = some g ∧ g = { f with aged := true } ∧ g.rank = 8 ∧ v.mem = s.mem ∧ v.fronds = s.fronds)

/-- R98, R149, R150, R167, R198, R199, R226, R401: a bounded wait past its limit takes QSTALL with what it waited for and leaves its
place; a full-empty wait past its limit is withdrawn and takes FEWAIT with its address, at another package by a withdrawal sent there. The
oldest report is delivered at a boundary with ASYNC, also in the wait of a release or of engine operations. A stopped firing's record and
a stored error-log or MACHINE record enter the ring when a slot is free. That a report waits for an instruction begun elsewhere is the
model's reading (log 19); limits expire by events (log 58); the value a failed vector bank lane reports is free (log 6). -/
def Obligations.WaitsAndReports : Prop :=
  (∀ (s : State) (f : Firing), s.canHandle f → s.ev.a = f.adm →
    let ask := fun (e : Ev) => { s with agenda := s.agenda ++ [e] }
    (∀ w n, f.wait = some w → ((∃ b, w = .queue n b) ∨ w = .sem n ∨ (n = 0 ∧ ∃ k, w = .gang k) ∨ w = .credit n ∨ (8 ≤ n ∧ w = .decision (n - 8))) →
      ∃ v g, exec .qstallExpiry s = .next v ∧ v.firing? f.adm = some g ∧ g.handles f 9 (BitVec.ofNat 64 n) ∧ v.mem = s.mem ∧ ∀ h : Fin 1024, h = f.frond → ∀ y ∈ v.fronds[h].hsq, y.adm ≠ f.adm) ∧
    (f.wait = some .fullEmpty → (∀ w ∈ s.retry, w.adm = f.adm → w.peer = none → s.feHolds w.key w.load w.sets = false) →
      exec .fewaitExpiry s = .next (ask (agendaEv .feWithdrawal f.adm 0 0 0))) ∧
    (f.wait = some .fullEmpty → (∃ w ∈ s.retry, w.adm = f.adm ∧ w.peer = none ∧ s.feHolds w.key w.load w.sets = true) →
      exec .fewaitExpiry s = .next s) ∧
    (f.wait = some .resend → exec .fewaitExpiry s = .next (ask (agendaEv .feWithdrawal f.adm 0 0 0))) ∧
    (∀ q, f.wait = some .answer → f.pends = [q] → q.fe = true → ∃ v g seq, exec .fewaitExpiry s = .next v ∧
      v.firing? f.adm = some g ∧ g = { f with pends := [{ q with fe := false }] } ∧ v.mem = s.mem ∧
      v.sent = s.sent ++ [.request f.core.val (s.parts[f.part].pcfg.toNat / 2 ^ 8 % 8) q.pkg 0 seq 0 .withdraw q.seq 8 0 0]) ∧
    (∀ w, s.retry.filter (fun w => w.adm == f.adm) = [w] → w.peer = none → ∃ v g, exec .feWithdrawal s = .next v ∧ v.firing? f.adm = some g ∧
      g.handles f 8 w.addr ∧ (∀ y ∈ v.retry, y.adm ≠ f.adm) ∧ v.mem = s.mem) ∧
    ((∀ w ∈ s.retry, w.adm ≠ f.adm) → f.wait ≠ some .resend → exec .feWithdrawal s = .next s) ∧
    (f.wait = some .resend → ∃ v g, exec .feResend s = .next v ∧ v.firing? f.adm = some g ∧ g = { f with wait := none } ∧ v.mem = s.mem) ∧
    (∀ r rs, f.reports = r :: rs → f.run = .running → f.granted = false → f.data = [] →
      ((f.wait = none ∧ f.pends = []) ∨ (∃ w ∈ [Wait.markers, .acks, .posted, .engines, .array, .fullEmpty], f.wait = some w) ∨
        ∃ n, f.wait = some (.queue n false)) → ∃ v g, exec .asyncReportTake s = .next v ∧ v.firing? f.adm = some g ∧
        g.handles f (if f.replost then r.tc ||| 0x8000#64 else r.tc) r.val ∧ g.reports = rs ∧ g.replost = false ∧ v.mem = s.mem) ∧
    (∃ v g, exec .vectorBankLaneFault s = .next v ∧ v.firing? f.adm = some g ∧ v.free = s.free + 1 ∧
      (f.reports.length < 16 → g.reports = f.reports ++ [{ tc := BitVec.ofNat 64 (2 ^ 63 + 16), val := Config.dword s.free, own := f.intrap }]) ∧
      g = { f with reports := g.reports, replost := g.replost } ∧ v.mem = s.mem)) ∧
  (∀ (s : State) (f : Firing) (recd : List Word), s.ev.a = f.adm → s.firing? f.adm = some f → f.run = .stopped none recd → recd.length = 8 →
    s.mem.wf = true →
      (s.parts[f.part].ringFull = true → exec .trapRecordAppend s = .next s) ∧
      (s.parts[f.part].ringFull = false → ∃ v g, exec .trapRecordAppend s = .next v ∧ v.ringHas s f.part recd ∧ v.firing? f.adm = some g ∧
        g = { f with run := .stopped (some (s.parts[f.part].trtail.toNat % 2 ^ 32)) recd })) ∧
  ∀ (s : State) (p : Fin 16) (r : List Word) (rs : List (List Word)), s.ev.a = p.val → r.length = 8 → s.mem.wf = true →
    (s.parts[p].ringFull = true → exec .errorLogAppend s = .next s) ∧
    (s.parts[p].ringFull = false → s.parts[p].errs = r :: rs → ∃ v, exec .errorLogAppend s = .next v ∧ v.ringHas s p r ∧
      v.parts[p].errs = rs ∧ v.parts[p].machs = s.parts[p].machs) ∧
    (s.parts[p].ringFull = false → s.parts[p].errs = [] → s.parts[p].machs = r :: rs → ∃ v, exec .errorLogAppend s = .next v ∧
      v.ringHas s p r ∧ v.parts[p].errs = [] ∧ v.parts[p].machs = rs)

/-- R198, R206: the supervisor's actions on a stopped firing. Resume at PC lets it run as it stands; resume at utvec enters its handler
while INTRAP is 0; save writes its context to the region that P2 and P3 gave and takes it out, and is held while one of its bank
operations is not yet performed; discard takes it out, to be placed again; kill ends its team with STATUS = KILLED. That save uses P2 and
P3 and that KILLED has CODE 0 are the model's choices (log 43), and so is what a discard takes with it (log 41). -/
def Obligations.SupervisorActions : Prop :=
  ∀ (s : State) (f : Firing) (n : Nat), s.stoppedOnly f n → s.ev.a = f.part.val → s.ev.b = n →
    (∃ v g, exec .fcmdResumePc s = .next v ∧ v.firing? f.adm = some g ∧ g = { f with run := .running } ∧ v.mem = s.mem ∧ v.parts = s.parts) ∧
    (f.fstat.getLsbD 4 = true → exec .fcmdResumeUtvec s = .next s) ∧
    (f.fstat.getLsbD 4 = false → ∃ v g, exec .fcmdResumeUtvec s = .next v ∧ v.firing? f.adm = some g ∧ g.run = .running ∧
      g.tcause = f.tcause ∧ g.tval = f.tval ∧ g.tpc = f.tpc ∧ g.tstat = f.fstat ∧ g.pc = f.utvec &&& ~~~3#64 ∧ g.fstat.getLsbD 4 = true ∧
      g.fstat.getLsbD 0 = false ∧ g.fstat.getLsbD 23 = false ∧ g.x = f.x ∧ g.v = f.v ∧ v.mem = s.mem) ∧
    (∀ t, s.team? f = some t → s.unbound f → (s.teams.map Team.id).Nodup →
      (t.flag 28 = false → t.flag 30 = false → ∃ v u, exec .fcmdDiscard s = .next v ∧ v.firing? f.adm = none ∧ v.teamOf t.id = some u ∧
        f.fid.toNat ∈ u.again ∧ (∀ k ∈ t.again, k ∈ u.again) ∧ u.placed = t.placed ∧ u.retired = t.retired ∧
        agendaEv .firingPlace t.part.val 0 0 0 ∈ v.agenda ∧ ∀ g, g ∈ v.firings ↔ g ∈ s.firings ∧ g.adm ≠ f.adm) ∧
      (∀ k, s.wordPlace t.part (dword t.recd 8) k → t.flag 28 = false → s.liveOf t = [f] → s.mem.wf = true → ∃ v, exec .fcmdKill s = .next v ∧
        v.firing? f.adm = none ∧ (∀ u ∈ v.teams, u.id ≠ t.id) ∧
        v.mem.read k 8 = (if t.flag 30 then t.commitNext else t.retired) % 2 ^ 32 * 2 ^ 32 + 3 ∧ v.isFull k = true) ∧
      (∀ (k : Nat) (p2 p3 : Word), s.ev.l = [p2, p3] → f.dem.tiles = 0 → f.dem.spad = 0 → f.dem.accs = 0 → f.dem.btiles = 0 → f.dem.xregs ≤ 64 → f.dem.vregs ≤ 32 → f.q12 = [] → f.q13 = [] →
        let size := 0x500 + 8 * f.dem.xregs + 256 * f.dem.vregs
        256 + (size + 255) / 256 * 256 ≤ p3.toNat % 2 ^ 40 → s.regionAt f.part p2.toNat (256 + size) k →
        p2.toNat % 256 = 0 → s.fronds[f.frond].held = [] → s.dev.cxlDown = [] → s.dev.cxlOn = 3 → s.mem.wf = true →
        (∀ e ∈ s.agenda, ¬ (e.op = .vectorBankLaneFault ∧ e.a = f.adm)) →
        ∃ v x, exec .fcmdSave s = .next v ∧ v.firing? f.adm = none ∧
          v.saved = s.saved ++ [x] ∧ x.tid = f.tid ∧ x.fid = f.fid ∧ x.core = f.core ∧ x.k = f.k ∧ x.spbase = f.spbase ∧
          (∃ u, v.teamOf t.id = some u ∧ u.saved = t.saved + 1) ∧ v.mem.read k 8 = 1 ∧ v.mem.read (k + 8) 8 = 256 ∧ v.contextAt f (k + 256))) ∧
    (∀ p2 p3 : Word, s.ev.l = [p2, p3] → f.msg = none → f.pairset = none → s.areaSize [f] ≤ p3.toNat % 2 ^ 40 →
      (∃ r ∈ (s.cores[f.core]).busy, r.adm = f.adm ∧ r.applied = false) → ∃ v, exec .fcmdSave s = .next v ∧
        { agendaEv .fcmdSave f.part.val n 0 0 with l := [p2, p3] } ∈ v.agenda ∧ v.firing? f.adm ≠ none ∧ v.saved = s.saved ∧ v.mem = s.mem)

/-- R201 to R205: a request made while one was active ends BUSY, for no such team UNKNOWN; a drain asked for stops placement and ends when
no firing is left; one past its deadline is escalated; an ended save or discard takes every named firing out. The status word says how it
ended. A resume lets placement go on and restores contexts to the cores they were saved from. What cannot be read or written (log 28),
what the device keeps beside a context (log 27), the action an escalated drain reports and the free cost (log 42) are the model's choices. -/
def Obligations.Preemption : Prop :=
  ∀ (s : State) (p : Fin 16) (p0 p1 p2 p3 busy : Word), s.ev.a = p.val → s.ev.l = [p0, p1, p2, p3, busy] → s.mem.wf = true →
    let x := s.parts[p]
    let named := fun (tid : Word) => s.firings.filter fun f => f.part == p && f.tid == tid
    let teamIs := fun (tid : Word) (t : Team) => t ∈ s.teams ∧ t.part = p ∧ t.tid = tid ∧ ∀ u ∈ s.teams, u.part = p → u.tid = tid → u = t
    (∀ k, s.wordPlace p s.ev.v k →
      (x.req ≠ none ∨ busy ≠ 0 → (∃ v, exec .preemptRequest s = .next v ∧ v.statusAt k 0 0 0 0 3 ∧ v.parts = s.parts ∧ v.teams = s.teams ∧ v.fir = s.fir ∧
          v.others = s.others) ∧
        (s.ev.c ≠ 1 → ∃ v, exec .resumeRequest s = .next v ∧ v.statusAt k 0 0 0 3 3 ∧ v.parts = s.parts ∧ v.teams = s.teams)) ∧
      (x.req = none → busy = 0 → (∀ t ∈ s.teams, ¬ (t.part = p ∧ t.tid = p0)) → p0.toNat / 2 ^ 62 ≠ 1 →
        (∃ v, exec .preemptRequest s = .next v ∧ v.statusAt k 0 0 0 0 2 ∧ v.parts = s.parts ∧ v.teams = s.teams) ∧
        (s.ev.c ≠ 1 → ∃ v, exec .resumeRequest s = .next v ∧ v.statusAt k 0 0 0 3 2 ∧ v.parts = s.parts ∧ v.teams = s.teams)) ∧
      (∀ t, x.req = none → busy = 0 → teamIs p0 t → p0.toNat / 2 ^ 62 ≠ 1 → p1.toNat / 2 ^ 62 = 3 → t.flag 24 = false →
        ∃ v, exec .preemptRequest s = .next v ∧ v.statusAt k 0 0 0 2 4 ∧ v.parts = s.parts ∧ v.teams = s.teams)) ∧
    (x.req = none → busy = 0 → p0.toNat / 2 ^ 62 = 1 → p1.toNat / 2 ^ 62 = 1 → (∀ t ∈ s.teams, t.tid.toNat / 2 ^ 62 ≠ 1) →
      ∃ v q, exec .preemptRequest s = .next v ∧ v.parts[p].req = some q ∧ q.tid = BitVec.ofNat 64 (2 ^ 62 + p0.toNat % 2 ^ 8) ∧
        q.handlers = true ∧ q.resume = false ∧ q.action = 0 ∧ v.teams = s.teams ∧ v.fir = s.fir ∧ v.others = s.others) ∧
    (∀ t, x.req = none → busy = 0 → teamIs p0 t → p0.toNat / 2 ^ 62 ≠ 1 → p1.toNat / 2 ^ 62 = 1 → (s.teams.map Team.id).Nodup → ∃ v q u, exec .preemptRequest s = .next v ∧
      v.parts[p].req = some q ∧ q.resume = false ∧ q.tid = p0 ∧ q.action = 0 ∧ q.staddr = s.ev.v ∧ q.esc = false ∧ q.missed = false ∧
      v.teamOf t.id = some u ∧ u = { t with draining := true } ∧ v.fir = s.fir ∧ v.others = s.others ∧ v.mem = s.mem ∧
      agendaEv .preemptEnd p.val 0 0 0 ∈ v.agenda) ∧
    (∀ q, x.req = some q → q.resume = false → q.missed = false →
      (q.action ≠ 0 → exec .preemptDeadline s = .next (s.onPart p fun y => { y with req := some { q with missed := true } })) ∧
      (∀ t, q.action = 0 → q.handlers = false → teamIs q.tid t → named q.tid ≠ [] → t.flag 24 = true →
        ∃ v, exec .preemptDeadline s = .next v ∧ v.parts[p].req = some { q with missed := true, esc := true, action := 2 } ∧ v.mem = s.mem)) ∧
    (x.req = none → exec .preemptEnd s = .next s ∧ exec .preemptDeadline s = .next s ∧ (s.ev.c = 1 → exec .resumeRequest s = .next s)) ∧
    (∀ q k, x.req = some q → s.wordPlace p q.staddr k → q.resume = false → q.action = 0 →
      (named q.tid ≠ [] → exec .preemptEnd s = .next s) ∧
      (named q.tid = [] → ∃ v, exec .preemptEnd s = .next v ∧ v.parts[p] = { x with req := none } ∧
        v.statusAt k 0 q.esc.toNat q.missed.toNat 0 q.result ∧ v.fir = s.fir ∧ v.others = s.others)) ∧
    (∀ q f t k, x.req = some q → s.wordPlace p q.staddr k → q.resume = false → q.action = 2 → named q.tid = [f] → f.live = true →
      teamIs q.tid t → t.flag 28 = false → t.flag 30 = false → s.unbound f → (s.firings.map Firing.adm).Nodup → (s.teams.map Team.id).Nodup →
      ∃ v u, exec .preemptEnd s = .next v ∧ v.firing? f.adm = none ∧ v.teamOf t.id = some u ∧ f.fid.toNat ∈ u.again ∧ v.parts[p].req = none ∧
        v.statusAt k 1 q.esc.toNat q.missed.toNat (if q.esc then 0 else 2) q.result) ∧
    (∀ t w l, x.req = none → busy = 0 → s.ev.c ≠ 1 → teamIs p0 t → (s.goesOn p t).contextsIn p p2.toNat p0 = (w, l) → l.filter (w.restores p t) ≠ [] →
      (s.teams.map Team.id).Nodup → ∃ v q, exec .resumeRequest s = .next v ∧ v.parts[p].req = some q ∧ q.resume = true ∧
        q.left = l.filter (w.restores p t) ∧ q.tid = p0 ∧ q.staddr = s.ev.v ∧ v.teamOf t.id = some { t with draining := false } ∧ agendaEv .resumeRequest p.val 0 1 0 ∈ v.agenda ∧
        agendaEv .firingPlace p.val 0 0 0 ∈ v.agenda) ∧
    (∀ q t a u, s.ev.c = 1 → x.req = some q → q.resume = true → q.left = [a] → teamIs q.tid t → (s.contextPair p a).2 = false →
      s.restore p t a none = some u → ∃ v, exec .resumeRequest s = .next v ∧ v.fir = u.fir ∧ v.others = u.others ∧
        v.parts[p].req = some { q with left := [], nfir := q.nfir + 1 } ∧ agendaEv .preemptEnd p.val 0 0 0 ∈ v.agenda) ∧
    (∀ (q : Preempt) (f : Firing) (a k : Nat) (u : State) (t : Team), x.req = some q → teamIs q.tid t → a % 8 = 0 →
      (∀ g ∈ s.others, g.adm ≠ s.next) → s.fir.adm ≠ s.next → (∀ i, 8 * i < 0x500 + 8 * f.dem.xregs + 256 * f.dem.vregs → s.unitPlace p s.parts[p].die false (a + 8 * i) 8 false = some (s, k + 8 * i)) →
      s.contextAt f k → (s.mem.read k 8) % 2 ^ 28 = f.dem.xregs + f.dem.vregs * 2 ^ 8 → f.dem.xregs ≤ 64 → f.dem.vregs ≤ 32 → f.dem.tiles = 0 →
      f.dem.spad = 0 → f.dem.accs = 0 → f.dem.btiles = 0 → (s.mem.read (k + 24) 8) / 2 ^ 24 = 0 →
      (∀ j, j < 80 → s.mem.read (k + 0x160 + 8 * j) 8 = 0) → s.dev.cxlPoison = [] → s.dev.cxlDown = [] → s.dev.cxlOn = 3 → s.restore p t a none = some u → ∃ g, u.firing? s.next = some g ∧
        g.tid = f.tid ∧ g.fid = f.fid ∧ g.core = f.core ∧ g.pc = f.pc &&& 0x1FFFFFFFFFFFFFC#64 ∧ g.fstat = f.fstat ∧ g.utvec = f.utvec ∧ g.tcause = f.tcause ∧
        g.tval = f.tval ∧ g.tpc = f.tpc ∧ g.tstat = f.tstat ∧ g.fflags = f.fflags ∧ g.frm = f.frm ∧ g.qlim = f.qlim ∧ g.cr = f.cr ∧
        (∀ i : Fin 64, i.val < f.dem.xregs → g.rx (BitVec.ofNat 6 i.val) = f.rx (BitVec.ofNat 6 i.val)) ∧
        (∀ i : Fin 32, i.val < f.dem.vregs → g.v[i] = f.v[i]))

/-- R143, R145, R154, R157, R190, R219, R223, R225 to R227, R389: the answer of another package puts its data where the access asked and
lets the firing go on; an owner's refusal is SHARD 0x07 with its code and the address; a withdrawn wait is FEWAIT. Loss of the package
completes the access with poison and sets REMERR; a lost write is counted; what arrives from it later is discarded. A grant by the owner's
port or of range-lock entries lets the instruction go on; an acknowledged write or path is no longer awaited, and the tag of an
acknowledged bank operation is free in time. That answers and grants end their instruction in the step they come is the model's reading
(log 60). -/
def Obligations.RemoteAnswers : Prop :=
  ∀ (s : State) (f : Firing),
    (∀ q, s.awaits f q → q.pkg ∈ s.lost ∨ q.dead = true → s.ev.l = [] → (∀ d i n sg, q.reply ≠ .lane d i n sg) → exec .loadDataReturn s = .next s) ∧
    (∀ q, s.awaits f q → q.pkg ∉ s.lost → q.dead = false →
      (∀ d n sg, q.reply = .scalar d n sg → n ∈ [1, 2, 4, 8] →
        ∃ v, exec .loadDataReturn s = .next v ∧ v.resumes s f (f.wx d (extended sg n s.ev.v))) ∧
      (∀ d i n sg, q.reply = .lane d i n sg → n ∈ [1, 2, 4] → s.ev.l = [] →
        ∃ v, exec .gatherLaneReturn s = .next v ∧
          v.resumes s f (f.wv d (setElem (f.rv d) 32 i ((extended sg n s.ev.v).toNat % 2 ^ 32)))) ∧
      (∀ d i sg, q.reply = .lane d i 8 sg → s.ev.l = [] →
        ∃ v, exec .gatherLaneReturn s = .next v ∧ v.resumes s f (f.wv d (setElem (f.rv d) 64 i s.ev.v.toNat))) ∧
      (∀ d e w, q.reply = .elem d e w →
        ∃ v, exec .loadDataReturn s = .next v ∧ v.resumes s f (f.wv d (setElem (f.rv d) w e s.ev.v.toNat))) ∧
      (∀ fl, s.ev.l = [0, fl] →
        (q.reply = .none → ∃ v, exec .ownerAnswerArrive s = .next v ∧ v.resumes s f f) ∧
        (∀ d n, q.reply = .cell d n → d ≠ 0 → n ∈ [2, 4, 8] → fl.toNat < 32 →
          ∃ v, exec .ownerAnswerArrive s = .next v ∧ v.resumes s f ((f.wx d (extended false n s.ev.v)).orFlags fl))) ∧
      (∀ code fl, s.ev.l = [code, fl] → 0 < code.toNat → code.toNat < 255 → s.canHandle f → ∃ v g, exec .ownerAnswerArrive s = .next v ∧
        v.firing? f.adm = some g ∧ g.handles f 0x70C (code <<< 56 ||| q.tv &&& 0xFFFFFFFFFFFFFF#64) ∧ g.pends = [] ∧ v.mem = s.mem) ∧
      (∀ fl, s.ev.l = [0xFF, fl] → s.canHandle f → f.reports = [] → s.parts[f.part].req = none → (∀ e ∈ s.agenda, e.op ≠ .fcmdSave) →
        ∃ v g, exec .ownerAnswerArrive s = .next v ∧
          v.firing? f.adm = some g ∧ g.handles f 8 q.addr ∧ g.pends = [] ∧ v.mem = s.mem)) ∧
    (∀ q, s.awaits f q → q.dead = true → f.reports = [] →
        let lost := fun (g : Firing) => { g with
          fstat := f.fstat ||| 4#64
          reports := if f.fstat.getLsbD 3 && !f.fstat.getLsbD 2 then [{ tc := BitVec.ofNat 64 (2 ^ 63 + 13), val := BitVec.ofNat 64 q.pkg, own := false }] else [] }
        (∀ d n sg, q.reply = .scalar d n sg → ∃ v, exec .remotePoisonComplete s = .next v ∧
          v.resumes s f (lost (f.wx d 0x7FFFFBAD7FFFFBAD#64))) ∧
        (∀ d i n sg, q.reply = .lane d i n sg → n ∈ [1, 2, 4] → ∃ v, exec .remotePoisonComplete s = .next v ∧
          v.resumes s f (lost (f.wv d (setElem (f.rv d) 32 i 0x7FFFFBAD)))) ∧
        (q.reply = .none → ∃ v, exec .remotePoisonComplete s = .next v ∧ v.resumes s f f ∧
          (v.parts[f.part].dropcnt).toNat = min ((s.parts[f.part].dropcnt).toNat + 1) (2 ^ 64 - 1))) ∧
    (s.ev.l ≠ [] → exec .gatherLaneReturn s = .next (s.onFrond (frondNo s.ev.b) fun x =>
      { x with locks := x.locks.filter fun l => l.own != .gather s.ev.a s.ev.c })) ∧
    (s.firing? f.adm = some f → s.ev.a = f.adm →
      (f.wait = some .answer → f.pends = [] →
        exec .remoteAccessArrive s = .next (s.onFiring f.adm fun g => { g with wait := none, granted := true })) ∧
      (f.wait = some .table →
        exec .rangelockRegister s = .next (s.onFiring f.adm fun g => { g with wait := none, granted := true })) ∧
      exec .markerAcknowledged s = .next (s.onFiring f.adm fun g => { g with paths := g.paths.erase s.ev.b })) ∧
    (s.ev.b ∈ s.lost → exec .remoteWriteAck s = .next s) ∧
    (∀ u, s.ev.b ∉ s.lost → s.unacked = [u] → u.adm = s.ev.a → u.pkg = s.ev.b → u.seq = s.ev.c →
      exec .remoteWriteAck s = .next { s with unacked := [] }) ∧
    (∀ (q : BankReq) (p : FarReq), s.ev.b ∉ s.lost → s.unacked = [] → s.firing? s.ev.a = some f → (s.cores[f.core]).busy = [q] → q.adm = s.ev.a →
      q.peer = some p → p.posted = true → p.pkg = s.ev.b → p.seq = s.ev.c → ∃ v, exec .remoteWriteAck s = .next v ∧
        (v.cores[f.core]).busy = [{ q with applied := true, answered := true }] ∧ v.mem = s.mem ∧ v.fir = s.fir ∧ v.others = s.others ∧
        v.agenda = s.agenda ++ [agendaEv .bankTagFree f.core.val q.tag 0 0] ++
          (if s.ev.v ≠ 0 ∧ q.lock ≠ 0 then [agendaEv .vectorBankLaneFault s.ev.a 0 0 0] else []) ∧
        ∀ h : Fin 1024, h.val = f.core.val / 2 → ∀ l ∈ v.fronds[h].locks, l.own ≠ .vbsum s.ev.a q.lock)

/-- R143, R149, R161, R162, R181, R224 to R226, R371: the gateway performs the requests of a stream in sequence, each once: it reads,
writes, takes or waits for a full-empty word, or applies a bank operation at the partition's address, and answers; a refused one is
answered with the trap code, a withdrawn wait with 0xFF, a copy of a bank operation or full-empty access with the kept response and flags;
one whose tag is not known is performed. A full-empty access that finds its list full lets its stream go on and is tried again. A store
message changes the bits it names where the owner's windows allow it, else its sender takes WINREFUSE. A walk enters its leaf. That the
stream of a refused full-empty access goes on (log 46), and which pages and apertures take PROT (log 77), are the model's choices; what a
filter knows a peer's request by is its reading (log 70). -/
def Obligations.OwnerSide : Prop :=
  ∀ (s : State) (p : Fin 16), s.mem.wf = true →
    (∀ r o, s.hasNext r p → r.addr = 0x1FF2 * 2 ^ 44 + o → o < 2 ^ 29 → s.noHeader (shmKey o) 64 → 
      ((∀ m, r.req ≠ .ldfe m) ∨ s.isFull (shmKey o) = false ∨ ∀ w ∈ s.retry, homeUnit w.key ≠ homeUnit (shmKey o)) →
      ((∀ m, r.req ≠ .stfe m) ∨ ∀ w ∈ s.retry, homeUnit w.key ≠ homeUnit (shmKey o)) →
      let k := shmKey o
      (s.shmOk p o r.n = true → r.n ∈ [1, 2, 4, 8] → o % r.n = 0 →
        (r.req = .load → ∃ v, exec .remoteRequestPerform s = .next v ∧ v.mem = s.mem ∧
          v.answers s r (some (0, BitVec.ofNat 64 (s.mem.read k r.n), 0))) ∧
        (r.req = .store → ∃ v, exec .remoteRequestPerform s = .next v ∧ v.mem.read k r.n = r.v.toNat % 2 ^ (8 * r.n) ∧
          (∀ a, a < k ∨ k + r.n ≤ a → v.mem.get a = s.mem.get a) ∧ v.answers s r (some (0, 0, 0)))) ∧
      (s.shmOk p o r.n = true → r.n = 8 → o % 8 = 0 →
        (∀ m, r.req = .storeMasked m → ∃ v, exec .remoteRequestPerform s = .next v ∧ v.answers s r (some (0, 0, 0)) ∧
          (∀ i, i < 8 → v.mem.get (k + i) = if m.getLsbD i then r.v.extractLsb' (8 * i) 8 else s.mem.get (k + i)) ∧
          ∀ a, a < k ∨ k + 8 ≤ a → v.mem.get a = s.mem.get a) ∧
        (∀ m, r.req = .ldfe m → s.isFull k = false → 256 ≤ (s.retry.filter fun w => homeUnit w.key == homeUnit k).length →
          ∃ v, exec .remoteRequestPerform s = .next v ∧ v.inreqs = [{ r with again := true }] ∧ v.retry = s.retry ∧ v.mem = s.mem ∧
            v.sent = s.sent ∧ (v.expect.find? fun x => x.1 == r.stream) = some (r.stream, (r.seq + 1) % 2 ^ 24)) ∧
        (∀ m, r.req = .ldfe m →
          (s.isFull k = true → ∃ v, exec .remoteRequestPerform s = .next v ∧ v.mem = s.mem ∧ (v.isFull k = decide (m = .wf)) ∧
            v.answers s r (some (0, BitVec.ofNat 64 (s.mem.read k 8), 0)) ∧
            ∃ x ∈ v.filt, x.src = peerSource r.pkg r.core ∧ x.bank = homeUnit k ∧ x.tag = r.tag ∧ x.resp = BitVec.ofNat 64 (s.mem.read k 8)) ∧
          (s.isFull k = false → s.retry = [] → ∃ v w, exec .remoteRequestPerform s = .next v ∧ v.mem = s.mem ∧ v.full = s.full ∧ v.retry = [w] ∧
            w.peer = some r.far ∧ w.key = k ∧ w.load = true ∧ w.sets = decide (m = .wfe) ∧ v.answers s r none)) ∧
        (∀ m, r.req = .stfe m →
          (m = .sf ∨ s.isFull k = false → ∃ v, exec .remoteRequestPerform s = .next v ∧ v.mem.read k 8 = r.v.toNat ∧ v.isFull k = true ∧
            (∀ a, a < k ∨ k + 8 ≤ a → v.mem.get a = s.mem.get a) ∧ v.answers s r (some (0, 0, 0))) ∧
          (m = .we → s.isFull k = true → s.retry = [] → ∃ v w, exec .remoteRequestPerform s = .next v ∧ v.mem = s.mem ∧ v.retry = [w] ∧
            w.peer = some r.far ∧ w.key = k ∧ w.load = false ∧ w.val = r.v ∧ v.answers s r none))) ∧
      (∀ op, r.req = .bank op → r.n = op.size → o % op.size = 0 → s.shmOk p o op.size = true →
        (∀ x ∈ s.filt, x.src = peerSource r.pkg r.core → x.tag ≠ r.tag) →
        let a := bankApply op s.mem k r.v r.w
        ∃ v, exec .remoteRequestPerform s = .next v ∧ v.mem = a.1 ∧ v.answers s r (some (0, a.2.1, a.2.2)) ∧
          ∃ x ∈ v.filt, x.src = peerSource r.pkg r.core ∧ x.bank = homeUnit k ∧ x.tag = r.tag ∧ x.resp = a.2.1 ∧ x.flags = a.2.2) ∧
      (s.shmOk p o r.n = false → r.req = .load ∨ r.req = .store → r.n ∈ [1, 2, 4, 8] → o % r.n = 0 →
        ∃ v, exec .remoteRequestPerform s = .next v ∧ v.mem = s.mem ∧ v.answers s r (some (5, 0, 0)))) ∧
    (∀ r, s.hasNext r p → r.req = .load ∨ r.req = .store → r.n ∈ [1, 2, 4, 8] →
      (2 ^ 57 ≤ r.addr ∨ r.addr % r.n ≠ 0 → ∃ v, exec .remoteRequestPerform s = .next v ∧ v.mem = s.mem ∧ v.answers s r (some (3, 0, 0))) ∧
      (r.addr < 2 ^ 57 → r.addr % r.n = 0 → r.addr / 2 ^ 48 ≠ 0x1FF →
        (s.translate p s.parts[p].die r.addr (r.req == .store) = none →
          ∃ v, exec .remoteRequestPerform s = .next v ∧ v.mem = s.mem ∧ v.answers s r (some (4, 0, 0))) ∧
        (∀ u l, s.translate p s.parts[p].die r.addr (r.req == .store) = some (u, l) →
          let mt := l.pte.toNat / 2 ^ 10 % 4
          let may := l.pte.getLsbD (if r.req = .load then 1 else 2) = true ∧ l.pte.toNat / 2 ^ 56 = s.parts[p].pcfg.toNat / 2 ^ 32 % 256 ∧
            mt ≠ 1 ∧ mt ≠ 2
          (¬ may → ∃ v, exec .remoteRequestPerform s = .next v ∧ v.mem = s.mem ∧ v.answers s r (some (5, 0, 0))) ∧
          (may → r.req = .load → ∃ v, exec .remoteRequestPerform s = .next v ∧ v.mem = u.mem ∧
            v.answers s r (some (0, BitVec.ofNat 64 (u.mem.read (l.pa r.addr) r.n), 0)))))) ∧
    (∀ r w y, s.hasNext r p → r.req = .withdraw → (s.retry = [w] → w.peer = some y → y.pkg = r.pkg → y.stream = r.stream → y.seq = r.addr →
        ∃ v, exec .remoteRequestPerform s = .next v ∧ v.retry = [] ∧ v.mem = s.mem ∧ v.sent = s.sent ++ [.answer r.pkg r.stream r.addr 0xFF 0 0]) ∧
      (s.retry = [] → ∃ v, exec .remoteRequestPerform s = .next v ∧ v.mem = s.mem ∧ v.answers s r none)) ∧
    (∀ (r : InReq) (o : Nat) (m : LdMode), s.ev.a = r.stream → s.inreqs = [r] → r.again = true → r.req = .ldfe m → r.part = p.val →
      r.addr = 0x1FF2 * 2 ^ 44 + o → o < 2 ^ 29 → o % 8 = 0 → r.n = 8 → s.shmOk p o 8 = true →
      (∀ w ∈ s.retry, homeUnit w.key ≠ homeUnit (shmKey o)) → s.isFull (shmKey o) = true → ∃ v, exec .remoteRequestPerform s = .next v ∧
        v.inreqs = [] ∧ v.mem = s.mem ∧ v.isFull (shmKey o) = decide (m = .wf) ∧
        v.sent = s.sent ++ [.answer r.pkg r.stream r.seq 0 (BitVec.ofNat 64 (s.mem.read (shmKey o) 8)) 0]) ∧
    (∀ r n, s.ev.a = r.stream → s.inreqs = [r] → r.again = false → (s.expect.find? fun x => x.1 == r.stream) = some (r.stream, n) → r.seq ≠ n →
      (2 ^ 23 ≤ (n + 2 ^ 24 - r.seq) % 2 ^ 24 → exec .remoteRequestPerform s = .next s) ∧
      ((n + 2 ^ 24 - r.seq) % 2 ^ 24 < 2 ^ 23 →
        (∀ u k, r.part = p.val → s.ownerCheck p r.req.acc r.addr r.n r.align = .ok (u, k) →
          (∀ x, (∃ op, r.req = .bank op) ∨ (∃ m, r.req = .ldfe m) ∨ (∃ m, r.req = .stfe m) → s.filt = [x] →
            x.src = peerSource r.pkg r.core → x.bank = homeUnit k → x.tag = r.tag → exec .remoteRequestPerform s =
              .next { s with inreqs := [], sent := s.sent ++ [.answer r.pkg r.stream r.seq 0 x.resp x.flags] }) ∧
          (∀ op, r.req = .bank op → s.filt = [] → s.retry = [] → u.noHeader k op.size →
            let a := bankApply op u.mem k r.v r.w
            ∃ v, exec .remoteRequestPerform s = .next v ∧ v.inreqs = [] ∧ v.mem = a.1 ∧
              v.sent = s.sent ++ [.answer r.pkg r.stream r.seq 0 a.2.1 a.2.2])) ∧
        (r.req = .load ∨ r.req = .store → exec .remoteRequestPerform s = .next { s with inreqs := [] }))) ∧
    (∀ (f : Firing) (h : Fin 1024) (o : Nat) (m b : Word), s.canHandle f → s.ev.c = f.adm → s.ev.a = h.val → s.ev.b = o → o < 2 ^ 20 →
      s.ev.l = [m, b] → m.toNat < 256 →
      let k := spadKey h.val o
      (h = f.frond ∨ (∃ w ∈ s.fronds[h].swin.toList, winOk w .store f.tid o 1 = true) →
        ∃ v, exec .storeMessagePerform s = .next v ∧ v.mem.get k = (s.mem.get k &&& ~~~(m.setWidth 8)) ||| (b.setWidth 8 &&& m.setWidth 8) ∧
          (∀ a, a ≠ k → v.mem.get a = s.mem.get a) ∧ v.fir = s.fir ∧ v.others = s.others) ∧
      (h ≠ f.frond → (∀ w ∈ s.fronds[h].swin.toList, winOk w .store f.tid o 1 = false) →
        ∃ v g, exec .storeMessagePerform s = .next v ∧ v.firing? f.adm = some g ∧ v.mem = s.mem ∧
          g.handles f 6 (BitVec.ofNat 64 (0x1FF1 * 2 ^ 44 + h.val * 2 ^ 20 + o)))) ∧
    (∀ d : Fin 4, s.ev.a = p.val → s.ev.b = d.val →
      (s.translate p d s.ev.v.toNat (s.ev.c == 1) = none → exec .pageWalk s = .next s) ∧
      (∀ u l, s.translate p d s.ev.v.toNat (s.ev.c == 1) = some (u, l) → exec .pageWalk s = .next u))

/-- R160 to R162, R168: a request that reaches its bank is applied once: its response enters the filter with its tag, and a later copy
only has the response sent again; one behind an earlier operation of its firing on the same bytes waits. The response marks it answered,
and then its tag is free. An unanswered one is sent again; after four copies it is an uncorrectable error of its HBM word, bank or frond,
and to another package the loss of that peer. A copy too old is dropped, and a request none of whose copies arrived is sent again. What
the bank's failure strikes is the model's choice (log 8); a posted operation is applied when it arrives (log 51); tags and limits of
another package are its reading (log 70). -/
def Obligations.BankTraffic : Prop :=
  ∀ (s : State) (c : Fin 2048) (q : BankReq), s.ev.a = c.val → s.ev.b = q.tag →
    let ask := fun (e : Ev) => { s with agenda := s.agenda ++ [e] }
    let held := fun (s : State) (l : List BankReq) => s.onCore c fun x => { x with busy := l }
    let mine := fun (x : Filt) => x.src == c.val && x.bank == homeUnit q.key
    let known := ∃ x ∈ s.filt, mine x = true ∧ x.tag = q.tag
    let unlocked := fun (v : State) => ∀ h : Fin 1024, h.val = c.val / 2 → ∀ l ∈ v.fronds[h].locks, l.own ≠ .vbsum q.adm q.lock
    (s.cores[c].busy = [q] → q.peer = none →
      (q.applied = true ∨ known → ∃ v, exec .bankOpArrive s = .next v ∧ v.mem = s.mem ∧ v.filt = s.filt ∧
        v.cores[c].busy = [{ q with applied := true }] ∧ unlocked v ∧ v.agenda = s.agenda ++ [agendaEv .bankOpResponseArrive c.val q.tag 0 0]) ∧
      (q.applied = false → ¬ known → q.team = none → s.noHeader q.key q.op.size →
        let r := bankApply q.op s.mem q.key q.val q.cmp
        ∃ v, exec .bankOpArrive s = .next v ∧ v.mem = r.1 ∧ v.cores[c].busy = [{ q with applied := true, resp := r.2.1 }] ∧
          v.fir = s.fir ∧ v.others = s.others ∧ v.agenda = s.agenda ++ [agendaEv .bankOpResponseArrive c.val q.tag 0 0] ∧
          { src := c.val, bank := homeUnit q.key, tag := q.tag, resp := r.2.1, flags := r.2.2 : Filt } ∈ v.filt ∧
          (∀ x ∈ s.filt, mine x = false ∨ (s.filt.filter mine).length < 64 → x ∈ v.filt) ∧
          ((s.filt.filter mine).length ≤ 64 → (v.filt.filter mine).length ≤ 64) ∧
          unlocked v) ∧
      (q.answered = true → exec .bankOpResponseArrive s = .next s ∧ exec .bankOpResend s = .next s) ∧
      (q.answered = false →
        exec .bankOpResponseArrive s = .next (held (ask (agendaEv .bankTagFree c.val q.tag 0 0)) [{ q with answered := true }]) ∧
        (q.copies < 4 → exec .bankOpResend s = .next (held (ask (agendaEv .bankOpArrive c.val q.tag 0 0)) [{ q with copies := q.copies + 1 }])) ∧
        (4 ≤ q.copies → ∃ cls v, exec .bankOpResend s =
          .next (ask { op := .uncorrectableError, a := cls, b := (homeSite q.key).1, c := 0, v := BitVec.ofNat 64 v,
                       l := [BitVec.ofNat 64 q.part.val] }) ∧
          (q.key < shmKey 0 → cls = 3 ∧ v = q.key) ∧ (shmKey 0 ≤ q.key → q.key < spadKey 0 0 → cls = 2 ∧ v = (homeSite q.key).2) ∧
          (spadKey 0 0 ≤ q.key → cls = 1 ∧ v = (homeSite q.key).1 * 256 + (homeSite q.key).2 % 256))) ∧
      (∀ e, s.agenda = [e] → e.op = .bankOpArrive → e.a = c.val → e.b = q.tag → exec .bankOpCopyDrop s =
        .next { s with agenda := if q.applied then [] else [agendaEv .bankOpResend c.val q.tag 0 0] }) ∧
      exec .bankTagFree s = .next (held s (if q.answered && q.applied then [] else [q]))) ∧
    (∀ p : FarReq, s.cores[c].busy = [q] → q.peer = some p → q.answered = false → exec .bankOpArrive s = .next s ∧
      (4 ≤ q.copies → exec .bankOpResend s = .next (ask (agendaEv .peerLostDeclare p.pkg 0 0 0))) ∧
      (q.copies < 4 → exec .bankOpResend s = .next { held s [{ q with copies := q.copies + 1 }] with
        sent := s.sent ++ [.request c.val p.cls p.pkg p.part p.seq q.tag (.bank q.op) p.addr q.op.size q.val q.cmp] })) ∧
    (∀ p, s.cores[c].busy = [p, q] → p.peer = none → q.peer = none → p.tag ≠ q.tag → p.applied = false → p.adm = q.adm → p.key < q.key + q.op.size →
      q.key < p.key + p.op.size → q.applied = false → ¬ known → exec .bankOpArrive s = .next s)

/-- R183, R185, R186, R188, R190, R219, R226: a sector of a copy moves up to 128 bytes, each from where R183 finds it; then the write
pointer rises, the locked destination shrinks, the barrier's sectors fall by one, and the next sector or the completion follows. A byte
that fails its checks ends the copy with that code. Bytes of another package are awaited. An ended copy pushes its word, frees its channel
and its entries; a fault reports its id and code. How a sector's bytes are asked of another package, and every byte checked before the
first is written, are the model's choices (log 53). -/
def Obligations.CopyEngine : Prop :=
  ∀ (s : State) (h : Fin 1024) (ch : Fin 4) (c : Copy) (f : Firing), s.copies h ch c f → s.mem.wf = true →
    let len := (c.cr[2]).toNat % 2 ^ 48
    let n := min 128 (len - c.bytes)
    let t := s.focus c.adm
    let goesOn := fun (v : State) => v.fronds[h].sectorMade s.fronds[h] ch c h (c.bytes + n) ∧
      v.agenda = s.agenda ++ [agendaEv (if len ≤ c.bytes + n then .copyComplete else .copySector) h.val ch.val 0 0]
    let fails := fun (code : Nat) => ∃ v, exec .copySector s = .next v ∧ v.mem = s.mem ∧ v.fronds = s.fronds ∧
      v.agenda = s.agenda ++ [agendaEv .copyFault h.val ch.val code 0]
    (c.pends ≠ [] → exec .copySector s = .next s) ∧
    (c.pends = [] → s.parts[f.part].req = none → (∀ e ∈ s.agenda, e.op ≠ .fcmdSave) →
      (c.bad ≠ 0 → c.bytes < len → fails c.bad) ∧
      (c.bad = 0 → c.phase = 0 → c.bytes < len → c.cr[7].getLsbD 63 = false → c.cr[7].getLsbD 62 = false →
        let src := fun (i : Nat) => (c.cr[0].toNat : Int) + digitOff (copyDigits c.cr) (c.bytes + i)
        let dst := fun (i : Nat) => ((c.cr[1].toNat + (c.bytes + i) : Nat) : Int)
        (∀ pls qls : Nat → Place, (∀ i < n, t.bytesAt .load (src i) 1 (pls i)) → (∀ i < n, t.bytesAt .store (dst i) 1 (qls i)) →
          (∀ i < n, ∀ j < n, (qls i).key = (qls j).key → i = j) → c.cr[6] = 0 →
          (∀ i < n, ∀ k, qls i = .dev k → s.cxlLost k = false) →
          ∃ v, exec .copySector s = .next v ∧ goesOn v ∧ (∀ i < n, (v.mem.get (qls i).key).toNat = t.readAt (pls i) 1) ∧
            (∀ a, (∀ i < n, a ≠ (qls i).key) → v.mem.get a = s.mem.get a) ∧ v.full = s.full) ∧
        (∀ i, i < n → (src i < 0 ∨ 2 ^ 57 ≤ src i) → (∀ j < i, ∃ pl, t.bytesAt .load (src j) 1 pl) → fails 3) ∧
        (∀ pls : Nat → Place, (∀ i < n, t.bytesAt .load (src i) 1 (pls i)) → ∀ i, i < n → 2 ^ 57 ≤ dst i →
          (∀ j < i, ∃ pl, t.bytesAt .store (dst j) 1 pl) → ∃ v, exec .copySector s = .next v ∧ v.mem = s.mem ∧
            v.agenda = s.agenda ++ [agendaEv .copyFault h.val ch.val 3 0])) ∧
      (c.bad = 0 → c.phase = 2 → c.bytes < len →
        (c.cr[6] = 0 → ∃ v, exec .copySector s = .next v ∧ goesOn v ∧ v.mem = s.mem ∧ v.full = s.full) ∧
        (∀ pl, c.cr[6] ≠ 0 → t.bytesAt .obj (c.cr[6].toNat : Int) 16 pl → ∃ v, exec .copySector s = .next v ∧ goesOn v ∧
          v.barrierAt pl.key = (s.barrierAt pl.key).after (s.barrierAt pl.key).pend ((s.barrierAt pl.key).sect - 1) ∧
          (∀ a, a < pl.key ∨ pl.key + 16 ≤ a → v.mem.get a = s.mem.get a)))) ∧
    (len ≤ c.bytes → ∃ v, exec .copyComplete s = .next v ∧ v.copyEnds s h ch c f 0 ∧ ∀ g, v.firing? c.adm = some g → g.reports = f.reports) ∧
    (c.bytes < len → exec .copyComplete s = .next s) ∧
    (s.ev.c < 256 → f.reports.length < 16 → ∃ v, exec .copyFault s = .next v ∧ v.copyEnds s h ch c f s.ev.c ∧ ∀ g, v.firing? c.adm = some g →
      g.reports = f.reports ++ [{ tc := BitVec.ofNat 64 (2 ^ 63 + 16), val := BitVec.ofNat 64 (s.ev.c * 2 ^ 16 + c.id), own := c.hand }]) ∧
    (∀ pkg seq i, c.pends = [(pkg, seq, i)] → (∀ p ∈ f.pends, ¬ (p.pkg = pkg ∧ p.seq = seq)) →
      (∀ (k : Fin 4) d, k ≠ ch → s.fronds[h].chans[k] = some d → d.adm ≠ c.adm) →
      ∀ e : State, e = { s with ev := { s.ev with a := c.adm, b := pkg, c := seq } } →
        (pkg ∈ s.lost → exec .loadDataReturn e = .next e) ∧
        (pkg ∉ s.lost → c.phase = 1 → ∃ v, exec .loadDataReturn e = .next v ∧ v.mem = s.mem ∧ v.fir = s.fir ∧ v.others = s.others ∧
          v.fronds[h].chans[ch] = some { c with pends := [], buf := c.buf.set i (s.ev.v.toNat % 256) }) ∧
        (∀ code fl, pkg ∉ s.lost → s.ev.l = [code, fl] → code ≠ 0 → ∃ v, exec .ownerAnswerArrive e = .next v ∧ v.mem = s.mem ∧ v.fir = s.fir ∧
          v.fronds[h].chans[ch] = some { c with pends := [], bad := 12 }))

/-- R71, R86, R142, R147, R201, R212, R339, R383, R393: after reset no firing exists and the device shows ROM; every launch queue, window
register, pre-emption and order-log register is 0, QLIMDEF and FEWLIMDEF are 2^24, every port has four active lanes and a spare each way,
no word is full. Memory lists nothing and is in its canonical form. dqbase is R191's; that an unlisted byte reads 0 outside HBM and shared
memory (log 4) and that nothing waits, no team and no gang exists are the model's form of it (log 2, 3). -/
def Obligations.ResetValues : Prop :=
  let s := State.reset
  s.firings = [] ∧ s.teams = [] ∧ s.gangs = [] ∧ s.dev.stage = 0 ∧ s.dev.fault = 0 ∧ s.dev.cmdRun = none ∧ s.dev.cmdres = 0 ∧
    (∀ p : Fin 16, s.parts[p].qlimdef = 0x1000000#64 ∧ s.parts[p].fewlimdef = 0x1000000#64 ∧ s.parts[p].p0 = 0 ∧ s.parts[p].p1 = 0 ∧
      s.parts[p].p2 = 0 ∧ s.parts[p].p3 = 0 ∧ s.parts[p].p4 = 0 ∧ s.parts[p].p5 = 0 ∧
      (∀ q : Fin 32, s.parts[p].lq[q].lqbase = 0 ∧ s.parts[p].lq[q].lqcfg = 0 ∧ s.parts[p].lq[q].lqhead = 0 ∧ s.parts[p].lq[q].lqtail = 0 ∧
        s.parts[p].lq[q].lqerr = 0) ∧
      (∀ d : Fin 4, s.parts[p].logbase[d] = 0 ∧ s.parts[p].loglen[d] = 0 ∧ s.parts[p].logpos[d] = 0)) ∧
    (∀ (h : Fin 1024) (i : Fin 8), s.fronds[h].swin[i] = 0) ∧ (∀ c : Fin 2048, s.cores[c].dqbase = 0) ∧
    (∀ k : Fin 18, s.ports[k].actout = 4 ∧ s.ports[k].actin = 4 ∧ s.ports[k].spareOut = true ∧ s.ports[k].spareIn = true ∧
      s.ports[k].en = false ∧ s.ports[k].retrains = 0) ∧
    s.full = [] ∧ s.retry = [] ∧ s.mem = [] ∧ s.mem.wf = true

/-- The canonical form of memory, addresses rising and no byte listed that is 0, is kept by every step from every state that has it. The
form is the model's (log 4). -/
def Obligations.MemoryForm : Prop :=
  ∀ s t : State, s.mem.wf = true → step s = .next t → t.mem.wf = true

/-- R2: a byte of memory reads as last written, and every other byte as before: n bytes written at an address are the bytes of the number,
least significant first. Equal memories being equal lists is the model's form (log 4). -/
def Obligations.MemoryReadsBack : Prop :=
  ∀ (m : Mem) (a n v : Nat), m.wf = true →
    (m.write a n v).read a n = v % 2 ^ (8 * n) ∧ (∀ i < n, ((m.write a n v).get (a + i)).toNat = v / 2 ^ (8 * i) % 256) ∧
    (∀ b, b < a ∨ a + n ≤ b → (m.write a n v).get b = m.get b) ∧ (m.write a n v).wf = true ∧
    ∀ l : Mem, l.wf = true → (∀ b, l.get b = m.get b) → l = m

/-- R25 to R38: words written out bit by bit from the spec's tables are the instructions they stand for, and 0 is none. -/
def Obligations.DecodedWords : Prop :=
  (∀ x ∈ [(0x004CBB81, Instr.add 55 37 9), (0x7FC80402, .addi 8 0 4089), (0x3F800404, .lui 8 0x1FC00), (0x00050092, .jal 1 40),
      (0xFFFF8491, .bnez 9 0x3FFFC), (0x01DC4015, .rep 0 7 7 1), (0x10000016, .gang .n4), (0x559C0051, .fmt .e2m1 .e2m1 true 14 0 false),
      (0xA00C7189, .fmadd .f64 .rdn 35 35 1), (0x6FAF888A, .sel 17 60 53 55), (0x01EDE390, .beq 54 3 967),
      (0x8DDEBFA0, .ld .n8 63 53 443), (0x061353A1, .st .b 26 231 2), (0x90BE7EA6, .vldx .i16 29 7 31 2),
      (0x616778A9, .stt .plain .n8 59 44 49), (0x99E48BB0, .amocas .d 23 36 60), (0x8080BA33, .vbsum .f32 11 20 2),
      (0x0000D9B8, .qget 51 6), (0x0206A9BB, .txarr 19 53), (0x0F9747C1, .vfmadd 15 20 11 30 1), (0x01801544, .vredsum .f32 10 1 6),
      (0x5523C14A, .vcmp .ge .n32 2 28 17 4), (0xB046024B, .kset 4 35), (0x3E80DC50, .vcvt .dyn true true 24 13 2),
      (0x812F2CD2, .spdraw .w32 25 57 37), (0x079DD0E0, .mma false false 3 true 19 true 14 33), (0x00B680E2, .tld 0 22 26 true),
      (0x05A982E8, .ocmp .eq .f16 5 24 20 6), (0x00003669, .btpopr 27 0), (0x0004006C, .sinit 32), (0x0005206D, .binit 41),
      (0x00034070, .trap 26), (0x321A5BF1, .csrw 55 1603 18), (0x0297C17F, .hint 339842)],
    decodeTableWord 32 x.1 = some x.2) ∧ decodeTableWord 32 0 = none

/-- R25 to R38: decoding the word of a legal instruction gives that instruction, with every operand at every value its field admits; and a
word that decodes is the word of its instruction, so that no bit of it is without meaning. -/
def Obligations.DecodingMatchesEncoding : Prop :=
  (∀ i : Instr, legal i = true → encode i ≠ 0#32 → decode (encode i) = .ok i) ∧
  (∀ (w : BitVec 32) (i : Instr), decode w = .ok i → encode i = w)

/-- R23, R24, R29, R37, R39, R104: a step with one firing to issue fetches the four bytes at its pc, least significant first, through a
page with X and the partition's key, and runs the instruction they decode to, with the fields a REP pass moves moved; a word of which
another has been released to its frond since the firing was created is fetched as it is or as it was then; in a frame each word is fetched
once and then replayed; a word that is none takes ILL; a fetch that fails takes ALIGN, PROT or PAGE with the address. A step with an input
or one unit's work to do runs that event. One move a step, inputs first, a fetch from another package's page as PROT, and what stands for
the released and the old word are the model's choices (log 1, 5, 30, 61). -/
def Obligations.StepRunsDecoded : Prop :=
  (∀ (s u : State) (n : Nat) (w : BitVec 32), s.inbox = [] → s.moves = [.issue n] → (s.focus n).wordAt (s.focus n).fir.pc = .ok (u, w) →
    (∀ i, decode w = .ok i →
      (u.fir.repact = false → step s = exec i u) ∧
      (u.fir.repact = true → (u.fir.repj = 0 → w.extractLsb' 0 7 ∈ captureMajors) → legal i = true →
        (u.fir.fpend = false ∨ takesPrefix i = true) → stageIll u.fir (opsOf i) = false →
        let mask := u.fir.repw.extractLsb' 18 4
        let delta : Int := (u.fir.repj : Int) * (u.fir.repw.extractLsb' 14 4).toInt
        let ms := moved mask delta (opsOf i)
        ¬ asksAbsent mask (opsOf i) → movedApart i ms = true → u.fir.movedOutside ms = none →
        step s = exec (renumber (fun p k => ((k : Int) + if mask.getLsbD p then delta else 0).toNat) i) u)) ∧
    (u.fir.repact = true → step s = u.runWord w) ∧
    (∀ e, decode w = .bad e → u.fir.repact = false → step s = .next (u.trapHere { c := .ill, sub := 0, val := w.setWidth 64 }))) ∧
  (∀ (s : State) (n : Nat) (t : Trap), s.inbox = [] → s.moves = [.issue n] → (s.focus n).wordAt (s.focus n).fir.pc = .error t →
    step s = .next ((s.focus n).trapHere t)) ∧
  (∀ (s : State) (pc : Word),
    (s.fir.repact = false → s.wordAt pc = s.fetchWord pc) ∧
    (s.fir.repact = true →
      (∀ x, s.fir.repbuf.find? (fun x => x.1 == pc) = some x → s.wordAt pc = .ok (s, x.2)) ∧
      (s.fir.repbuf.find? (fun x => x.1 == pc) = none →
        (∀ t, s.fetchWord pc = .error t → s.wordAt pc = .error t) ∧
        ∀ u w, s.fetchWord pc = .ok (u, w) → ∃ v, s.wordAt pc = .ok (v, w) ∧ v = { u with fir := v.fir } ∧
          v.fir = { u.fir with repbuf := v.fir.repbuf } ∧ v.fir.repbuf.find? (fun x => x.1 == pc) = some (pc, w)))) ∧
  (∀ s : State,
    let pc := s.fir.pc
    let fails := fun (c : Cause) => s.fetchWord pc = .error { c := c, sub := 0, val := pc }
    (2 ^ 57 ≤ pc.toNat → fails .align) ∧
    (pc.toNat < 2 ^ 57 → pc.toNat / 2 ^ 48 = 0x1FF → fails .prot) ∧
    (pc.toNat < 2 ^ 57 → pc.toNat / 2 ^ 48 ≠ 0x1FF →
      (s.translate s.fir.part s.fir.die pc.toNat false = none → fails .page) ∧
      ∀ u l, s.translate s.fir.part s.fir.die pc.toNat false = some (u, l) →
        let mt := l.pte.toNat / 2 ^ 10 % 4
        let may := l.pte.getLsbD 3 = true ∧ l.pte.toNat / 2 ^ 56 = s.parts[s.fir.part].pcfg.toNat / 2 ^ 32 % 256
        let k := if mt = 1 then cxlKey (l.pa pc.toNat) else l.pa pc.toNat
        (¬ may → fails .prot) ∧
        let word := fun m : Mem => m.get (k + 3) ++ m.get (k + 2) ++ m.get (k + 1) ++ m.get k
        let now := word (u.released s.fir.frond)
        (may → mt ≠ 2 → ∃ v w, s.fetchWord pc = .ok (v, w) ∧ (w = now ∨ w = word s.fir.code) ∧ v = { u with free := v.free } ∧
          (word s.fir.code = now → v = u)))) ∧
  (∀ (s : State) (e : Ev) (xs : List Input), s.inbox = .event e :: xs → encode e.op = 0#32 →
    step s = exec e.op { s with inbox := xs, ev := e }) ∧
  (∀ (s : State) (e : Ev), s.inbox = [] → s.moves = [.unit e] → encode e.op = 0#32 →
    step s = exec e.op { s with agenda := s.agenda.erase e, ev := e })
end

