-- ==== Sys2Proof/Laws/Decode.lean ====
section
/-! SUPPORT. A field of a word that is written as a concatenation, and a name read back from its code. -/

namespace Sys2Proof

/-- A field that lies above the low part. -/
theorem fld_append_high {n m : Nat} (a : BitVec n) (b : BitVec m) (s k : Nat) (h : m ≤ s) :
    (a ++ b).extractLsb' s k = a.extractLsb' (s - m) k := by
  ext i hi
  simp only [BitVec.getLsbD_append, BitVec.getElem_extractLsb']
  rw [if_neg (by omega)]; congr 1; omega

/-- A field that lies in the low part. -/
theorem fld_append_low {n m : Nat} (a : BitVec n) (b : BitVec m) (s k : Nat) (h : s + k ≤ m) :
    (a ++ b).extractLsb' s k = b.extractLsb' s k := by
  ext i hi
  simp only [BitVec.getLsbD_append, BitVec.getElem_extractLsb']
  rw [if_pos (by omega)]

/-- A field that is the whole. -/
theorem fld_whole {n : Nat} (a : BitVec n) : a.extractLsb' 0 n = a := by
  ext i hi; simp

@[simp] theorem ElemTy.ofCode_code (t : ElemTy) : ElemTy.ofCode t.code = some t := by cases t <;> rfl
@[simp] theorem FT.ofCode_code (t : FT) : FT.ofCode t.code = some t := by cases t <;> rfl
@[simp] theorem VF.ofCode_code (t : VF) : VF.ofCode t.code = some t := by cases t <;> rfl
@[simp] theorem RF.ofCode_code (t : RF) : RF.ofCode t.code = some t := by cases t <;> rfl
@[simp] theorem AF.ofCode_code (t : AF) : AF.ofCode t.code = some t := by cases t <;> rfl
@[simp] theorem RM.ofCode_code (t : RM) : RM.ofCode t.code = some t := by cases t <;> rfl
@[simp] theorem XT.ofCode_code (t : XT) : XT.ofCode t.code = some t := by cases t <;> rfl
@[simp] theorem Scope.ofCode_code (t : Scope) : Scope.ofCode t.code = some t := by cases t <;> rfl
@[simp] theorem LdTy.ofCode_code (t : LdTy) : LdTy.ofCode t.code = some t := by cases t <;> rfl
@[simp] theorem StSz.ofCode_code (t : StSz) : StSz.ofCode t.code = some t := by cases t <;> rfl
@[simp] theorem LdMode.ofCode_code (t : LdMode) : LdMode.ofCode t.code = some t := by cases t <;> rfl
@[simp] theorem StMode.ofCode_code (t : StMode) : StMode.ofCode t.code = some t := by cases t <;> rfl
@[simp] theorem IW.ofCode_code (t : IW) : IW.ofCode t.code = some t := by cases t <;> rfl
@[simp] theorem VPred.ofCode_code (t : VPred) : VPred.ofCode t.code = some t := by cases t <;> rfl
@[simp] theorem CmpTy.ofCode_code (t : CmpTy) : CmpTy.ofCode t.code = some t := by cases t <;> rfl
@[simp] theorem OPred.ofCode_code (t : OPred) : OPred.ofCode t.code = some t := by cases t <;> rfl
@[simp] theorem OcTy.ofCode_code (t : OcTy) : OcTy.ofCode t.code = some t := by cases t <;> rfl
@[simp] theorem SpTy.ofCode_code (t : SpTy) : SpTy.ofCode t.code = some t := by cases t <;> rfl
@[simp] theorem GangN.ofCode_code (t : GangN) : GangN.ofCode t.code = some t := by cases t <;> rfl
@[simp] theorem LdtMode.ofCode_code (t : LdtMode) : LdtMode.ofCode t.code = some t := by cases t <;> rfl
@[simp] theorem SttMode.ofCode_code (t : SttMode) : SttMode.ofCode t.code = some t := by cases t <;> rfl
@[simp] theorem SZ.ofCode_code (t : SZ) : SZ.ofCode t.code = some t := by cases t <;> rfl

/-- A flag read back from its bit. -/
@[simp] theorem ofBool_beq (b : Bool) : (BitVec.ofBool b == 1#1) = b := by cases b <;> rfl

/-- The two parts of a split immediate put together (R25). -/
theorem fld_split (i : BitVec 10) : i.extractLsb' 6 4 ++ i.extractLsb' 0 6 = i := by
  ext j hj
  simp only [BitVec.getElem_append, BitVec.getElem_extractLsb']
  split <;> simp_all [BitVec.getLsbD_eq_getElem]

/-- The two parts of a split amount put together (R28). -/
theorem fld_split_amount (n : BitVec 6) : n.extractLsb' 5 1 ++ n.extractLsb' 0 5 = n := by revert n; decide

@[simp] theorem Decoded.on_some {α : Type} (a : α) (k : α → Decoded) : Decoded.on (some a) k = k a := rfl
@[simp] theorem Decoded.need_true (k : Decoded) : Decoded.need true k = k := rfl

end Sys2Proof
end

