-- ==== Sys2Proof/Laws/Exec.lean ====
section
/-! SUPPORT. The meaning each instruction has, arm by arm. -/

namespace Sys2Proof.Machine

theorem exec_add (d : BitVec 6) (a : BitVec 6) (b : BitVec 6) (s : State) : exec (.add d a b) s = execAdd d a b s := rfl
theorem exec_sub (d : BitVec 6) (a : BitVec 6) (b : BitVec 6) (s : State) : exec (.sub d a b) s = execSub d a b s := rfl
theorem exec_and (d : BitVec 6) (a : BitVec 6) (b : BitVec 6) (s : State) : exec (.and d a b) s = execAnd d a b s := rfl
theorem exec_or (d : BitVec 6) (a : BitVec 6) (b : BitVec 6) (s : State) : exec (.or d a b) s = execOr d a b s := rfl
theorem exec_xor (d : BitVec 6) (a : BitVec 6) (b : BitVec 6) (s : State) : exec (.xor d a b) s = execXor d a b s := rfl
theorem exec_andn (d : BitVec 6) (a : BitVec 6) (b : BitVec 6) (s : State) : exec (.andn d a b) s = execAndn d a b s := rfl
theorem exec_sll (d : BitVec 6) (a : BitVec 6) (b : BitVec 6) (s : State) : exec (.sll d a b) s = execSll d a b s := rfl
theorem exec_srl (d : BitVec 6) (a : BitVec 6) (b : BitVec 6) (s : State) : exec (.srl d a b) s = execSrl d a b s := rfl
theorem exec_sra (d : BitVec 6) (a : BitVec 6) (b : BitVec 6) (s : State) : exec (.sra d a b) s = execSra d a b s := rfl
theorem exec_slt (d : BitVec 6) (a : BitVec 6) (b : BitVec 6) (s : State) : exec (.slt d a b) s = execSlt d a b s := rfl
theorem exec_sltu (d : BitVec 6) (a : BitVec 6) (b : BitVec 6) (s : State) : exec (.sltu d a b) s = execSltu d a b s := rfl
theorem exec_min (d : BitVec 6) (a : BitVec 6) (b : BitVec 6) (s : State) : exec (.min d a b) s = execMin d a b s := rfl
theorem exec_max (d : BitVec 6) (a : BitVec 6) (b : BitVec 6) (s : State) : exec (.max d a b) s = execMax d a b s := rfl
theorem exec_minu (d : BitVec 6) (a : BitVec 6) (b : BitVec 6) (s : State) : exec (.minu d a b) s = execMinu d a b s := rfl
theorem exec_maxu (d : BitVec 6) (a : BitVec 6) (b : BitVec 6) (s : State) : exec (.maxu d a b) s = execMaxu d a b s := rfl
theorem exec_clz (d : BitVec 6) (a : BitVec 6) (s : State) : exec (.clz d a) s = execClz d a s := rfl
theorem exec_ctz (d : BitVec 6) (a : BitVec 6) (s : State) : exec (.ctz d a) s = execCtz d a s := rfl
theorem exec_popc (d : BitVec 6) (a : BitVec 6) (s : State) : exec (.popc d a) s = execPopc d a s := rfl
theorem exec_rol (d : BitVec 6) (a : BitVec 6) (b : BitVec 6) (s : State) : exec (.rol d a b) s = execRol d a b s := rfl
theorem exec_ror (d : BitVec 6) (a : BitVec 6) (b : BitVec 6) (s : State) : exec (.ror d a b) s = execRor d a b s := rfl
theorem exec_addi (d : BitVec 6) (a : BitVec 6) (imm : BitVec 13) (s : State) : exec (.addi d a imm) s = execAddi d a imm s := rfl
theorem exec_andi (d : BitVec 6) (a : BitVec 6) (imm : BitVec 10) (s : State) : exec (.andi d a imm) s = execAndi d a imm s := rfl
theorem exec_ori (d : BitVec 6) (a : BitVec 6) (imm : BitVec 10) (s : State) : exec (.ori d a imm) s = execOri d a imm s := rfl
theorem exec_xori (d : BitVec 6) (a : BitVec 6) (imm : BitVec 10) (s : State) : exec (.xori d a imm) s = execXori d a imm s := rfl
theorem exec_slli (d : BitVec 6) (a : BitVec 6) (src : BitVec 6) (s : State) : exec (.slli d a src) s = execSlli d a src s := rfl
theorem exec_srli (d : BitVec 6) (a : BitVec 6) (src : BitVec 6) (s : State) : exec (.srli d a src) s = execSrli d a src s := rfl
theorem exec_srai (d : BitVec 6) (a : BitVec 6) (src : BitVec 6) (s : State) : exec (.srai d a src) s = execSrai d a src s := rfl
theorem exec_slti (d : BitVec 6) (a : BitVec 6) (imm : BitVec 10) (s : State) : exec (.slti d a imm) s = execSlti d a imm s := rfl
theorem exec_sltiu (d : BitVec 6) (a : BitVec 6) (imm : BitVec 10) (s : State) : exec (.sltiu d a imm) s = execSltiu d a imm s := rfl
theorem exec_lui (d : BitVec 6) (imm : BitVec 19) (s : State) : exec (.lui d imm) s = execLui d imm s := rfl
theorem exec_adrp (d : BitVec 6) (imm : BitVec 19) (s : State) : exec (.adrp d imm) s = execAdrp d imm s := rfl
theorem exec_mul (d : BitVec 6) (a : BitVec 6) (b : BitVec 6) (s : State) : exec (.mul d a b) s = execMul d a b s := rfl
theorem exec_mulh (d : BitVec 6) (a : BitVec 6) (b : BitVec 6) (s : State) : exec (.mulh d a b) s = execMulh d a b s := rfl
theorem exec_mulhu (d : BitVec 6) (a : BitVec 6) (b : BitVec 6) (s : State) : exec (.mulhu d a b) s = execMulhu d a b s := rfl
theorem exec_mulhsu (d : BitVec 6) (a : BitVec 6) (b : BitVec 6) (s : State) : exec (.mulhsu d a b) s = execMulhsu d a b s := rfl
theorem exec_div (d : BitVec 6) (a : BitVec 6) (b : BitVec 6) (s : State) : exec (.div d a b) s = execDiv d a b s := rfl
theorem exec_divu (d : BitVec 6) (a : BitVec 6) (b : BitVec 6) (s : State) : exec (.divu d a b) s = execDivu d a b s := rfl
theorem exec_rem (d : BitVec 6) (a : BitVec 6) (b : BitVec 6) (s : State) : exec (.rem d a b) s = execRem d a b s := rfl
theorem exec_remu (d : BitVec 6) (a : BitVec 6) (b : BitVec 6) (s : State) : exec (.remu d a b) s = execRemu d a b s := rfl
theorem exec_movxRead (d : BitVec 6) (a : BitVec 6) (imm : BitVec 10) (s : State) : exec (.movxRead d a imm) s = execMovxRead d a imm s := rfl
theorem exec_movxWrite (a : BitVec 6) (imm : BitVec 10) (src : BitVec 6) (s : State) : exec (.movxWrite a imm src) s = execMovxWrite a imm src s := rfl
theorem exec_fadd (t : FT) (m : RM) (d : BitVec 6) (a : BitVec 6) (b : BitVec 6) (s : State) : exec (.fadd t m d a b) s = execFadd t m d a b s := rfl
theorem exec_fsub (t : FT) (m : RM) (d : BitVec 6) (a : BitVec 6) (b : BitVec 6) (s : State) : exec (.fsub t m d a b) s = execFsub t m d a b s := rfl
theorem exec_fmul (t : FT) (m : RM) (d : BitVec 6) (a : BitVec 6) (b : BitVec 6) (s : State) : exec (.fmul t m d a b) s = execFmul t m d a b s := rfl
theorem exec_fdiv (t : FT) (m : RM) (d : BitVec 6) (a : BitVec 6) (b : BitVec 6) (s : State) : exec (.fdiv t m d a b) s = execFdiv t m d a b s := rfl
theorem exec_fsqrt (t : FT) (m : RM) (d : BitVec 6) (a : BitVec 6) (s : State) : exec (.fsqrt t m d a) s = execFsqrt t m d a s := rfl
theorem exec_fcvt (m : RM) (src : Bool) (d : BitVec 6) (a : BitVec 6) (t : XT) (u : XT) (s : State) : exec (.fcvt m src d a t u) s = execFcvt m src d a t u s := rfl
theorem exec_fmin (t : FT) (d : BitVec 6) (a : BitVec 6) (b : BitVec 6) (s : State) : exec (.fmin t d a b) s = execFmin t d a b s := rfl
theorem exec_fmax (t : FT) (d : BitVec 6) (a : BitVec 6) (b : BitVec 6) (s : State) : exec (.fmax t d a b) s = execFmax t d a b s := rfl
theorem exec_fsgnj (t : FT) (d : BitVec 6) (a : BitVec 6) (b : BitVec 6) (s : State) : exec (.fsgnj t d a b) s = execFsgnj t d a b s := rfl
theorem exec_fsgnjn (t : FT) (d : BitVec 6) (a : BitVec 6) (b : BitVec 6) (s : State) : exec (.fsgnjn t d a b) s = execFsgnjn t d a b s := rfl
theorem exec_fsgnjx (t : FT) (d : BitVec 6) (a : BitVec 6) (b : BitVec 6) (s : State) : exec (.fsgnjx t d a b) s = execFsgnjx t d a b s := rfl
theorem exec_feq (t : FT) (d : BitVec 6) (a : BitVec 6) (b : BitVec 6) (s : State) : exec (.feq t d a b) s = execFeq t d a b s := rfl
theorem exec_flt (t : FT) (d : BitVec 6) (a : BitVec 6) (b : BitVec 6) (s : State) : exec (.flt t d a b) s = execFlt t d a b s := rfl
theorem exec_fle (t : FT) (d : BitVec 6) (a : BitVec 6) (b : BitVec 6) (s : State) : exec (.fle t d a b) s = execFle t d a b s := rfl
theorem exec_fclass (t : FT) (d : BitVec 6) (a : BitVec 6) (s : State) : exec (.fclass t d a) s = execFclass t d a s := rfl
theorem exec_fmadd (t : FT) (m : RM) (d : BitVec 6) (a : BitVec 6) (b : BitVec 6) (s : State) : exec (.fmadd t m d a b) s = execFmadd t m d a b s := rfl
theorem exec_fmsub (t : FT) (m : RM) (d : BitVec 6) (a : BitVec 6) (b : BitVec 6) (s : State) : exec (.fmsub t m d a b) s = execFmsub t m d a b s := rfl
theorem exec_fnmadd (t : FT) (m : RM) (d : BitVec 6) (a : BitVec 6) (b : BitVec 6) (s : State) : exec (.fnmadd t m d a b) s = execFnmadd t m d a b s := rfl
theorem exec_fnmsub (t : FT) (m : RM) (d : BitVec 6) (a : BitVec 6) (b : BitVec 6) (s : State) : exec (.fnmsub t m d a b) s = execFnmsub t m d a b s := rfl
theorem exec_sel (d : BitVec 6) (a : BitVec 6) (b : BitVec 6) (c : BitVec 6) (s : State) : exec (.sel d a b c) s = execSel d a b c s := rfl
theorem exec_beq (a : BitVec 6) (b : BitVec 6) (o : BitVec 10) (s : State) : exec (.beq a b o) s = execBeq a b o s := rfl
theorem exec_bne (a : BitVec 6) (b : BitVec 6) (o : BitVec 10) (s : State) : exec (.bne a b o) s = execBne a b o s := rfl
theorem exec_blt (a : BitVec 6) (b : BitVec 6) (o : BitVec 10) (s : State) : exec (.blt a b o) s = execBlt a b o s := rfl
theorem exec_bge (a : BitVec 6) (b : BitVec 6) (o : BitVec 10) (s : State) : exec (.bge a b o) s = execBge a b o s := rfl
theorem exec_bltu (a : BitVec 6) (b : BitVec 6) (o : BitVec 10) (s : State) : exec (.bltu a b o) s = execBltu a b o s := rfl
theorem exec_bgeu (a : BitVec 6) (b : BitVec 6) (o : BitVec 10) (s : State) : exec (.bgeu a b o) s = execBgeu a b o s := rfl
theorem exec_beqz (a : BitVec 6) (o : BitVec 18) (s : State) : exec (.beqz a o) s = execBeqz a o s := rfl
theorem exec_bnez (a : BitVec 6) (o : BitVec 18) (s : State) : exec (.bnez a o) s = execBnez a o s := rfl
theorem exec_jal (d : BitVec 6) (o : BitVec 19) (s : State) : exec (.jal d o) s = execJal d o s := rfl
theorem exec_jalr (d : BitVec 6) (a : BitVec 6) (imm : BitVec 13) (s : State) : exec (.jalr d a imm) s = execJalr d a imm s := rfl
theorem exec_loopn (a : BitVec 6) (o : BitVec 18) (s : State) : exec (.loopn a o) s = execLoopn a o s := rfl
theorem exec_rep (l : BitVec 4) (c : BitVec 6) (m : BitVec 4) (src : BitVec 4) (s : State) : exec (.rep l c m src) s = execRep l c m src s := rfl
theorem exec_gang (n : GangN) (s : State) : exec (.gang n) s = execGang n s := rfl
theorem exec_launch (d : BitVec 6) (a : BitVec 6) (b : BitVec 6) (s : State) : exec (.launch d a b) s = execLaunch d a b s := rfl
theorem exec_join (d : BitVec 6) (a : BitVec 6) (s : State) : exec (.join d a) s = execJoin d a s := rfl
theorem exec_leave (a : BitVec 6) (s : State) : exec (.leave a) s = execLeave a s := rfl
theorem exec_phase (a : BitVec 6) (s : State) : exec (.phase a) s = execPhase a s := rfl
theorem exec_gbar (a : BitVec 6) (s : State) : exec (.gbar a) s = execGbar a s := rfl
theorem exec_sget (d : BitVec 6) (s : State) : exec (.sget d) s = execSget d s := rfl
theorem exec_hswait (d : BitVec 6) (n : BitVec 4) (b : BitVec 6) (s : State) : exec (.hswait d n b) s = execHswait d n b s := rfl
theorem exec_hstry (d : BitVec 6) (n : BitVec 4) (b : BitVec 6) (s : State) : exec (.hstry d n b) s = execHstry d n b s := rfl
theorem exec_hspost (n : BitVec 4) (b : BitVec 6) (s : State) : exec (.hspost n b) s = execHspost n b s := rfl
theorem exec_hsset (n : BitVec 4) (b : BitVec 6) (s : State) : exec (.hsset n b) s = execHsset n b s := rfl
theorem exec_hsrd (d : BitVec 6) (n : BitVec 4) (s : State) : exec (.hsrd d n) s = execHsrd d n s := rfl
theorem exec_ld (t : LdTy) (d : BitVec 6) (a : BitVec 6) (imm : BitVec 10) (s : State) : exec (.ld t d a imm) s = execLd t d a imm s := rfl
theorem exec_st (t : StSz) (a : BitVec 6) (imm : BitVec 10) (b : BitVec 6) (s : State) : exec (.st t a imm b) s = execSt t a imm b s := rfl
theorem exec_ldfe (m : LdMode) (d : BitVec 6) (a : BitVec 6) (imm : BitVec 10) (s : State) : exec (.ldfe m d a imm) s = execLdfe m d a imm s := rfl
theorem exec_stfe (m : StMode) (a : BitVec 6) (imm : BitVec 10) (b : BitVec 6) (s : State) : exec (.stfe m a imm b) s = execStfe m a imm b s := rfl
theorem exec_vld (t : ElemTy) (d : BitVec 5) (x : BitVec 6) (k : BitVec 3) (s : State) : exec (.vld t d x k) s = execVld t d x k s := rfl
theorem exec_vlds (t : ElemTy) (d : BitVec 5) (x : BitVec 6) (src : BitVec 5) (k : BitVec 3) (s : State) : exec (.vlds t d x src k) s = execVlds t d x src k s := rfl
theorem exec_vst (t : ElemTy) (x : BitVec 6) (d : BitVec 5) (k : BitVec 3) (s : State) : exec (.vst t x d k) s = execVst t x d k s := rfl
theorem exec_vsts (t : ElemTy) (x : BitVec 6) (d : BitVec 5) (src : BitVec 5) (k : BitVec 3) (s : State) : exec (.vsts t x d src k) s = execVsts t x d src k s := rfl
theorem exec_vldx (t : ElemTy) (d : BitVec 5) (b : BitVec 5) (imm : BitVec 5) (k : BitVec 3) (s : State) : exec (.vldx t d b imm k) s = execVldx t d b imm k s := rfl
theorem exec_vstx (t : ElemTy) (b : BitVec 5) (imm : BitVec 5) (d : BitVec 5) (k : BitVec 3) (s : State) : exec (.vstx t b imm d k) s = execVstx t b imm d k s := rfl
theorem exec_ldt (m : LdtMode) (t : ElemTy) (d : BitVec 6) (a : BitVec 6) (b : BitVec 6) (s : State) : exec (.ldt m t d a b) s = execLdt m t d a b s := rfl
theorem exec_vldt (t : ElemTy) (d : BitVec 5) (a : BitVec 6) (b : BitVec 5) (k : BitVec 2) (s : State) : exec (.vldt t d a b k) s = execVldt t d a b k s := rfl
theorem exec_stt (m : SttMode) (t : ElemTy) (a : BitVec 6) (b : BitVec 6) (d : BitVec 6) (s : State) : exec (.stt m t a b d) s = execStt m t a b d s := rfl
theorem exec_vstt (t : ElemTy) (a : BitVec 6) (b : BitVec 5) (d : BitVec 5) (k : BitVec 2) (s : State) : exec (.vstt t a b d k) s = execVstt t a b d k s := rfl
theorem exec_shinv (src : Scope) (a : BitVec 6) (s : State) : exec (.shinv src a) s = execShinv src a s := rfl
theorem exec_shloc (d : BitVec 6) (a : BitVec 6) (b : BitVec 6) (s : State) : exec (.shloc d a b) s = execShloc d a b s := rfl
theorem exec_rel (src : Scope) (s : State) : exec (.rel src) s = execRel src s := rfl
theorem exec_acq (src : Scope) (s : State) : exec (.acq src) s = execAcq src s := rfl
theorem exec_fence (src : Scope) (s : State) : exec (.fence src) s = execFence src s := rfl
theorem exec_amoadd (z : SZ) (d : BitVec 6) (a : BitVec 6) (b : BitVec 6) (s : State) : exec (.amoadd z d a b) s = execAmoadd z d a b s := rfl
theorem exec_amoand (z : SZ) (d : BitVec 6) (a : BitVec 6) (b : BitVec 6) (s : State) : exec (.amoand z d a b) s = execAmoand z d a b s := rfl
theorem exec_amoor (z : SZ) (d : BitVec 6) (a : BitVec 6) (b : BitVec 6) (s : State) : exec (.amoor z d a b) s = execAmoor z d a b s := rfl
theorem exec_amoxor (z : SZ) (d : BitVec 6) (a : BitVec 6) (b : BitVec 6) (s : State) : exec (.amoxor z d a b) s = execAmoxor z d a b s := rfl
theorem exec_amomin (z : SZ) (d : BitVec 6) (a : BitVec 6) (b : BitVec 6) (s : State) : exec (.amomin z d a b) s = execAmomin z d a b s := rfl
theorem exec_amomax (z : SZ) (d : BitVec 6) (a : BitVec 6) (b : BitVec 6) (s : State) : exec (.amomax z d a b) s = execAmomax z d a b s := rfl
theorem exec_amominu (z : SZ) (d : BitVec 6) (a : BitVec 6) (b : BitVec 6) (s : State) : exec (.amominu z d a b) s = execAmominu z d a b s := rfl
theorem exec_amomaxu (z : SZ) (d : BitVec 6) (a : BitVec 6) (b : BitVec 6) (s : State) : exec (.amomaxu z d a b) s = execAmomaxu z d a b s := rfl
theorem exec_amoswp (z : SZ) (d : BitVec 6) (a : BitVec 6) (b : BitVec 6) (s : State) : exec (.amoswp z d a b) s = execAmoswp z d a b s := rfl
theorem exec_amocas (z : SZ) (d : BitVec 6) (a : BitVec 6) (b : BitVec 6) (s : State) : exec (.amocas z d a b) s = execAmocas z d a b s := rfl
theorem exec_amofadd (t : AF) (d : BitVec 6) (a : BitVec 6) (b : BitVec 6) (s : State) : exec (.amofadd t d a b) s = execAmofadd t d a b s := rfl
theorem exec_amofmin (t : AF) (d : BitVec 6) (a : BitVec 6) (b : BitVec 6) (s : State) : exec (.amofmin t d a b) s = execAmofmin t d a b s := rfl
theorem exec_amofmax (t : AF) (d : BitVec 6) (a : BitVec 6) (b : BitVec 6) (s : State) : exec (.amofmax t d a b) s = execAmofmax t d a b s := rfl
theorem exec_xcadd (t : AF) (a : BitVec 6) (b : BitVec 6) (s : State) : exec (.xcadd t a b) s = execXcadd t a b s := rfl
theorem exec_xcrd (t : AF) (d : BitVec 6) (a : BitVec 6) (s : State) : exec (.xcrd t d a) s = execXcrd t d a s := rfl
theorem exec_xcclr (a : BitVec 6) (s : State) : exec (.xcclr a) s = execXcclr a s := rfl
theorem exec_xcrdclr (t : AF) (d : BitVec 6) (a : BitVec 6) (s : State) : exec (.xcrdclr t d a) s = execXcrdclr t d a s := rfl
theorem exec_vamoadd (t : ElemTy) (b : BitVec 5) (imm : BitVec 5) (d : BitVec 5) (k : BitVec 3) (s : State) : exec (.vamoadd t b imm d k) s = execVamoadd t b imm d k s := rfl
theorem exec_vamomin (t : ElemTy) (b : BitVec 5) (imm : BitVec 5) (d : BitVec 5) (k : BitVec 3) (s : State) : exec (.vamomin t b imm d k) s = execVamomin t b imm d k s := rfl
theorem exec_vamomax (t : ElemTy) (b : BitVec 5) (imm : BitVec 5) (d : BitVec 5) (k : BitVec 3) (s : State) : exec (.vamomax t b imm d k) s = execVamomax t b imm d k s := rfl
theorem exec_vxcadd (t : ElemTy) (b : BitVec 5) (imm : BitVec 5) (d : BitVec 5) (k : BitVec 3) (s : State) : exec (.vxcadd t b imm d k) s = execVxcadd t b imm d k s := rfl
theorem exec_vbsum (t : ElemTy) (b : BitVec 5) (d : BitVec 5) (k : BitVec 3) (s : State) : exec (.vbsum t b d k) s = execVbsum t b d k s := rfl
theorem exec_qget (d : BitVec 6) (n : BitVec 4) (s : State) : exec (.qget d n) s = execQget d n s := rfl
theorem exec_qput (n : BitVec 4) (b : BitVec 6) (s : State) : exec (.qput n b) s = execQput n b s := rfl
theorem exec_vqget (d : BitVec 5) (n : BitVec 4) (s : State) : exec (.vqget d n) s = execVqget d n s := rfl
theorem exec_vqput (n : BitVec 4) (b : BitVec 5) (s : State) : exec (.vqput n b) s = execVqput n b s := rfl
theorem exec_qcnt (d : BitVec 6) (n : BitVec 4) (s : State) : exec (.qcnt d n) s = execQcnt d n s := rfl
theorem exec_send (a : BitVec 6) (b : BitVec 6) (p : BitVec 6) (s : State) : exec (.send a b p) s = execSend a b p s := rfl
theorem exec_sendv (a : BitVec 5) (b : BitVec 6) (p : BitVec 6) (s : State) : exec (.sendv a b p) s = execSendv a b p s := rfl
theorem exec_cwr (src : BitVec 3) (a : BitVec 6) (s : State) : exec (.cwr src a) s = execCwr src a s := rfl
theorem exec_cgo (d : BitVec 6) (s : State) : exec (.cgo d) s = execCgo d s := rfl
theorem exec_cwp (d : BitVec 6) (a : BitVec 6) (s : State) : exec (.cwp d a) s = execCwp d a s := rfl
theorem exec_crd (src : BitVec 3) (d : BitVec 6) (s : State) : exec (.crd src d) s = execCrd src d s := rfl
theorem exec_txinit (a : BitVec 6) (b : BitVec 6) (s : State) : exec (.txinit a b) s = execTxinit a b s := rfl
theorem exec_txarr (d : BitVec 6) (a : BitVec 6) (s : State) : exec (.txarr d a) s = execTxarr d a s := rfl
theorem exec_txexp (a : BitVec 6) (b : BitVec 6) (s : State) : exec (.txexp a b) s = execTxexp a b s := rfl
theorem exec_txwait (a : BitVec 6) (b : BitVec 6) (s : State) : exec (.txwait a b) s = execTxwait a b s := rfl
theorem exec_txtry (d : BitVec 6) (a : BitVec 6) (b : BitVec 6) (s : State) : exec (.txtry d a b) s = execTxtry d a b s := rfl
theorem exec_dqpush (d : BitVec 6) (b : BitVec 6) (s : State) : exec (.dqpush d b) s = execDqpush d b s := rfl
theorem exec_dqpop (d : BitVec 6) (s : State) : exec (.dqpop d) s = execDqpop d s := rfl
theorem exec_dqsteal (d : BitVec 6) (a : BitVec 6) (s : State) : exec (.dqsteal d a) s = execDqsteal d a s := rfl
theorem exec_vadd (y : VF) (d : BitVec 5) (a : BitVec 5) (b : BitVec 5) (k : BitVec 3) (s : State) : exec (.vadd y d a b k) s = execVadd y d a b k s := rfl
theorem exec_vsub (y : VF) (d : BitVec 5) (a : BitVec 5) (b : BitVec 5) (k : BitVec 3) (s : State) : exec (.vsub y d a b k) s = execVsub y d a b k s := rfl
theorem exec_vmul (y : VF) (d : BitVec 5) (a : BitVec 5) (b : BitVec 5) (k : BitVec 3) (s : State) : exec (.vmul y d a b k) s = execVmul y d a b k s := rfl
theorem exec_vdiv (y : VF) (d : BitVec 5) (a : BitVec 5) (b : BitVec 5) (k : BitVec 3) (s : State) : exec (.vdiv y d a b k) s = execVdiv y d a b k s := rfl
theorem exec_vmin (y : VF) (d : BitVec 5) (a : BitVec 5) (b : BitVec 5) (k : BitVec 3) (s : State) : exec (.vmin y d a b k) s = execVmin y d a b k s := rfl
theorem exec_vmax (y : VF) (d : BitVec 5) (a : BitVec 5) (b : BitVec 5) (k : BitVec 3) (s : State) : exec (.vmax y d a b k) s = execVmax y d a b k s := rfl
theorem exec_vabs (y : VF) (d : BitVec 5) (a : BitVec 5) (k : BitVec 3) (s : State) : exec (.vabs y d a k) s = execVabs y d a k s := rfl
theorem exec_vneg (y : VF) (d : BitVec 5) (a : BitVec 5) (k : BitVec 3) (s : State) : exec (.vneg y d a k) s = execVneg y d a k s := rfl
theorem exec_vsgnj (y : VF) (d : BitVec 5) (a : BitVec 5) (b : BitVec 5) (k : BitVec 3) (s : State) : exec (.vsgnj y d a b k) s = execVsgnj y d a b k s := rfl
theorem exec_vfmadd (d : BitVec 5) (a : BitVec 5) (b : BitVec 5) (c : BitVec 5) (k : BitVec 3) (s : State) : exec (.vfmadd d a b c k) s = execVfmadd d a b c k s := rfl
theorem exec_vfmsub (d : BitVec 5) (a : BitVec 5) (b : BitVec 5) (c : BitVec 5) (k : BitVec 3) (s : State) : exec (.vfmsub d a b c k) s = execVfmsub d a b c k s := rfl
theorem exec_vfnmadd (d : BitVec 5) (a : BitVec 5) (b : BitVec 5) (c : BitVec 5) (k : BitVec 3) (s : State) : exec (.vfnmadd d a b c k) s = execVfnmadd d a b c k s := rfl
theorem exec_vfnmsub (d : BitVec 5) (a : BitVec 5) (b : BitVec 5) (c : BitVec 5) (k : BitVec 3) (s : State) : exec (.vfnmsub d a b c k) s = execVfnmsub d a b c k s := rfl
theorem exec_vaddx (y : VF) (d : BitVec 5) (b : BitVec 5) (x : BitVec 6) (k : BitVec 3) (s : State) : exec (.vaddx y d b x k) s = execVaddx y d b x k s := rfl
theorem exec_vsubx (y : VF) (d : BitVec 5) (b : BitVec 5) (x : BitVec 6) (k : BitVec 3) (s : State) : exec (.vsubx y d b x k) s = execVsubx y d b x k s := rfl
theorem exec_vmulx (y : VF) (d : BitVec 5) (b : BitVec 5) (x : BitVec 6) (k : BitVec 3) (s : State) : exec (.vmulx y d b x k) s = execVmulx y d b x k s := rfl
theorem exec_vdivx (y : VF) (d : BitVec 5) (b : BitVec 5) (x : BitVec 6) (k : BitVec 3) (s : State) : exec (.vdivx y d b x k) s = execVdivx y d b x k s := rfl
theorem exec_vminx (y : VF) (d : BitVec 5) (b : BitVec 5) (x : BitVec 6) (k : BitVec 3) (s : State) : exec (.vminx y d b x k) s = execVminx y d b x k s := rfl
theorem exec_vmaxx (y : VF) (d : BitVec 5) (b : BitVec 5) (x : BitVec 6) (k : BitVec 3) (s : State) : exec (.vmaxx y d b x k) s = execVmaxx y d b x k s := rfl
theorem exec_vexp (d : BitVec 5) (a : BitVec 5) (k : BitVec 3) (s : State) : exec (.vexp d a k) s = execVexp d a k s := rfl
theorem exec_vlog (d : BitVec 5) (a : BitVec 5) (k : BitVec 3) (s : State) : exec (.vlog d a k) s = execVlog d a k s := rfl
theorem exec_vrcp (d : BitVec 5) (a : BitVec 5) (k : BitVec 3) (s : State) : exec (.vrcp d a k) s = execVrcp d a k s := rfl
theorem exec_vrsqrt (d : BitVec 5) (a : BitVec 5) (k : BitVec 3) (s : State) : exec (.vrsqrt d a k) s = execVrsqrt d a k s := rfl
theorem exec_vtanh (d : BitVec 5) (a : BitVec 5) (k : BitVec 3) (s : State) : exec (.vtanh d a k) s = execVtanh d a k s := rfl
theorem exec_vsqrt (d : BitVec 5) (a : BitVec 5) (k : BitVec 3) (s : State) : exec (.vsqrt d a k) s = execVsqrt d a k s := rfl
theorem exec_vredsum (y : RF) (d : BitVec 5) (a : BitVec 5) (k : BitVec 3) (s : State) : exec (.vredsum y d a k) s = execVredsum y d a k s := rfl
theorem exec_vredmax (y : RF) (d : BitVec 5) (a : BitVec 5) (k : BitVec 3) (s : State) : exec (.vredmax y d a k) s = execVredmax y d a k s := rfl
theorem exec_vredmin (y : RF) (d : BitVec 5) (a : BitVec 5) (k : BitVec 3) (s : State) : exec (.vredmin y d a k) s = execVredmin y d a k s := rfl
theorem exec_vredq (y : RF) (d : BitVec 5) (n : BitVec 4) (c : BitVec 6) (k : BitVec 3) (s : State) : exec (.vredq y d n c k) s = execVredq y d n c k s := rfl
theorem exec_viadd (w : IW) (u : Bool) (d : BitVec 5) (a : BitVec 5) (b : BitVec 5) (k : BitVec 3) (s : State) : exec (.viadd w u d a b k) s = execViadd w u d a b k s := rfl
theorem exec_visub (w : IW) (u : Bool) (d : BitVec 5) (a : BitVec 5) (b : BitVec 5) (k : BitVec 3) (s : State) : exec (.visub w u d a b k) s = execVisub w u d a b k s := rfl
theorem exec_vimul (w : IW) (u : Bool) (d : BitVec 5) (a : BitVec 5) (b : BitVec 5) (k : BitVec 3) (s : State) : exec (.vimul w u d a b k) s = execVimul w u d a b k s := rfl
theorem exec_vimulh (w : IW) (u : Bool) (d : BitVec 5) (a : BitVec 5) (b : BitVec 5) (k : BitVec 3) (s : State) : exec (.vimulh w u d a b k) s = execVimulh w u d a b k s := rfl
theorem exec_viand (w : IW) (u : Bool) (d : BitVec 5) (a : BitVec 5) (b : BitVec 5) (k : BitVec 3) (s : State) : exec (.viand w u d a b k) s = execViand w u d a b k s := rfl
theorem exec_vior (w : IW) (u : Bool) (d : BitVec 5) (a : BitVec 5) (b : BitVec 5) (k : BitVec 3) (s : State) : exec (.vior w u d a b k) s = execVior w u d a b k s := rfl
theorem exec_vixor (w : IW) (u : Bool) (d : BitVec 5) (a : BitVec 5) (b : BitVec 5) (k : BitVec 3) (s : State) : exec (.vixor w u d a b k) s = execVixor w u d a b k s := rfl
theorem exec_visll (w : IW) (u : Bool) (d : BitVec 5) (a : BitVec 5) (b : BitVec 5) (k : BitVec 3) (s : State) : exec (.visll w u d a b k) s = execVisll w u d a b k s := rfl
theorem exec_visrl (w : IW) (u : Bool) (d : BitVec 5) (a : BitVec 5) (b : BitVec 5) (k : BitVec 3) (s : State) : exec (.visrl w u d a b k) s = execVisrl w u d a b k s := rfl
theorem exec_visra (w : IW) (u : Bool) (d : BitVec 5) (a : BitVec 5) (b : BitVec 5) (k : BitVec 3) (s : State) : exec (.visra w u d a b k) s = execVisra w u d a b k s := rfl
theorem exec_vimin (w : IW) (u : Bool) (d : BitVec 5) (a : BitVec 5) (b : BitVec 5) (k : BitVec 3) (s : State) : exec (.vimin w u d a b k) s = execVimin w u d a b k s := rfl
theorem exec_vimax (w : IW) (u : Bool) (d : BitVec 5) (a : BitVec 5) (b : BitVec 5) (k : BitVec 3) (s : State) : exec (.vimax w u d a b k) s = execVimax w u d a b k s := rfl
theorem exec_vipopc (w : IW) (u : Bool) (d : BitVec 5) (a : BitVec 5) (k : BitVec 3) (s : State) : exec (.vipopc w u d a k) s = execVipopc w u d a k s := rfl
theorem exec_viaddSat (w : IW) (u : Bool) (d : BitVec 5) (a : BitVec 5) (b : BitVec 5) (k : BitVec 3) (s : State) : exec (.viaddSat w u d a b k) s = execViaddSat w u d a b k s := rfl
theorem exec_visubSat (w : IW) (u : Bool) (d : BitVec 5) (a : BitVec 5) (b : BitVec 5) (k : BitVec 3) (s : State) : exec (.visubSat w u d a b k) s = execVisubSat w u d a b k s := rfl
theorem exec_viaddx (w : IW) (d : BitVec 5) (b : BitVec 5) (x : BitVec 6) (k : BitVec 3) (s : State) : exec (.viaddx w d b x k) s = execViaddx w d b x k s := rfl
theorem exec_visubx (w : IW) (d : BitVec 5) (b : BitVec 5) (x : BitVec 6) (k : BitVec 3) (s : State) : exec (.visubx w d b x k) s = execVisubx w d b x k s := rfl
theorem exec_vimulx (w : IW) (d : BitVec 5) (b : BitVec 5) (x : BitVec 6) (k : BitVec 3) (s : State) : exec (.vimulx w d b x k) s = execVimulx w d b x k s := rfl
theorem exec_viandx (w : IW) (d : BitVec 5) (b : BitVec 5) (x : BitVec 6) (k : BitVec 3) (s : State) : exec (.viandx w d b x k) s = execViandx w d b x k s := rfl
theorem exec_viorx (w : IW) (d : BitVec 5) (b : BitVec 5) (x : BitVec 6) (k : BitVec 3) (s : State) : exec (.viorx w d b x k) s = execViorx w d b x k s := rfl
theorem exec_vixorx (w : IW) (d : BitVec 5) (b : BitVec 5) (x : BitVec 6) (k : BitVec 3) (s : State) : exec (.vixorx w d b x k) s = execVixorx w d b x k s := rfl
theorem exec_visllx (w : IW) (d : BitVec 5) (b : BitVec 5) (x : BitVec 6) (k : BitVec 3) (s : State) : exec (.visllx w d b x k) s = execVisllx w d b x k s := rfl
theorem exec_visrlx (w : IW) (d : BitVec 5) (b : BitVec 5) (x : BitVec 6) (k : BitVec 3) (s : State) : exec (.visrlx w d b x k) s = execVisrlx w d b x k s := rfl
theorem exec_visrax (w : IW) (d : BitVec 5) (b : BitVec 5) (x : BitVec 6) (k : BitVec 3) (s : State) : exec (.visrax w d b x k) s = execVisrax w d b x k s := rfl
theorem exec_vcmp (p : VPred) (t : CmpTy) (d : BitVec 3) (a : BitVec 5) (b : BitVec 5) (k : BitVec 3) (s : State) : exec (.vcmp p t d a b k) s = execVcmp p t d a b k s := rfl
theorem exec_kand (d : BitVec 3) (a : BitVec 3) (b : BitVec 3) (s : State) : exec (.kand d a b) s = execKand d a b s := rfl
theorem exec_kor (d : BitVec 3) (a : BitVec 3) (b : BitVec 3) (s : State) : exec (.kor d a b) s = execKor d a b s := rfl
theorem exec_kxor (d : BitVec 3) (a : BitVec 3) (b : BitVec 3) (s : State) : exec (.kxor d a b) s = execKxor d a b s := rfl
theorem exec_knot (d : BitVec 3) (a : BitVec 3) (s : State) : exec (.knot d a) s = execKnot d a s := rfl
theorem exec_kmov (d : BitVec 3) (a : BitVec 3) (s : State) : exec (.kmov d a) s = execKmov d a s := rfl
theorem exec_vperm (d : BitVec 5) (a : BitVec 5) (b : BitVec 5) (k : BitVec 3) (s : State) : exec (.vperm d a b k) s = execVperm d a b k s := rfl
theorem exec_vslideup (d : BitVec 5) (a : BitVec 5) (n : BitVec 6) (k : BitVec 3) (s : State) : exec (.vslideup d a n k) s = execVslideup d a n k s := rfl
theorem exec_vslidedn (d : BitVec 5) (a : BitVec 5) (n : BitVec 6) (k : BitVec 3) (s : State) : exec (.vslidedn d a n k) s = execVslidedn d a n k s := rfl
theorem exec_vcompress (d : BitVec 5) (a : BitVec 5) (k : BitVec 3) (s : State) : exec (.vcompress d a k) s = execVcompress d a k s := rfl
theorem exec_vmov (d : BitVec 5) (a : BitVec 5) (k : BitVec 3) (s : State) : exec (.vmov d a k) s = execVmov d a k s := rfl
theorem exec_vbcast (w : IW) (d : BitVec 5) (x : BitVec 6) (k : BitVec 3) (s : State) : exec (.vbcast w d x k) s = execVbcast w d x k s := rfl
theorem exec_vins (w : IW) (d : BitVec 5) (x : BitVec 6) (j : BitVec 5) (s : State) : exec (.vins w d x j) s = execVins w d x j s := rfl
theorem exec_vext (w : IW) (u : Bool) (d : BitVec 6) (src : BitVec 5) (j : BitVec 5) (s : State) : exec (.vext w u d src j) s = execVext w u d src j s := rfl
theorem exec_kset (d : BitVec 3) (x : BitVec 6) (s : State) : exec (.kset d x) s = execKset d x s := rfl
theorem exec_kpopc (d : BitVec 6) (src : BitVec 3) (s : State) : exec (.kpopc d src) s = execKpopc d src s := rfl
theorem exec_vcvt (m : RM) (src : Bool) (h : Bool) (d : BitVec 5) (a : BitVec 5) (k : BitVec 3) (s : State) : exec (.vcvt m src h d a k) s = execVcvt m src h d a k s := rfl
theorem exec_vcvto (m : RM) (src : Bool) (d : BitVec 5) (q : BitVec 3) (a : BitVec 5) (k : BitVec 3) (s : State) : exec (.vcvto m src d q a k) s = execVcvto m src d q a k s := rfl
theorem exec_vplane (d : BitVec 5) (a : BitVec 5) (s : State) : exec (.vplane d a) s = execVplane d a s := rfl
theorem exec_vunplane (d : BitVec 5) (a : BitVec 5) (s : State) : exec (.vunplane d a) s = execVunplane d a s := rfl
theorem exec_fmt (a : ElemTy) (b : ElemTy) (src : Bool) (x : BitVec 6) (p : BitVec 3) (c : Bool) (s : State) : exec (.fmt a b src x p c) s = execFmt a b src x p c s := rfl
theorem exec_vspdraw (y : SpTy) (d : BitVec 5) (x : BitVec 6) (k : BitVec 3) (s : State) : exec (.vspdraw y d x k) s = execVspdraw y d x k s := rfl
theorem exec_vspuni (y : SpTy) (d : BitVec 5) (x : BitVec 6) (k : BitVec 3) (s : State) : exec (.vspuni y d x k) s = execVspuni y d x k s := rfl
theorem exec_vspexp (y : SpTy) (d : BitVec 5) (x : BitVec 6) (k : BitVec 3) (s : State) : exec (.vspexp y d x k) s = execVspexp y d x k s := rfl
theorem exec_vgumb (d : BitVec 5) (src : BitVec 5) (x : BitVec 6) (k : BitVec 3) (s : State) : exec (.vgumb d src x k) s = execVgumb d src x k s := rfl
theorem exec_spdraw (y : SpTy) (d : BitVec 6) (a : BitVec 6) (b : BitVec 6) (s : State) : exec (.spdraw y d a b) s = execSpdraw y d a b s := rfl
theorem exec_spuni (y : SpTy) (d : BitVec 6) (a : BitVec 6) (b : BitVec 6) (s : State) : exec (.spuni y d a b) s = execSpuni y d a b s := rfl
theorem exec_spexp (y : SpTy) (d : BitVec 6) (a : BitVec 6) (b : BitVec 6) (s : State) : exec (.spexp y d a b) s = execSpexp y d a b s := rfl
theorem exec_digest (a : BitVec 6) (b : BitVec 6) (s : State) : exec (.digest a b) s = execDigest a b s := rfl
theorem exec_digestm (a : BitVec 6) (b : BitVec 6) (n : BitVec 6) (s : State) : exec (.digestm a b n) s = execDigestm a b n s := rfl
theorem exec_mma (t : Bool) (c : Bool) (a : BitVec 2) (src : Bool) (r : BitVec 5) (u : Bool) (v : BitVec 5) (k : BitVec 6) (s : State) : exec (.mma t c a src r u v k) s = execMma t c a src r u v k s := rfl
theorem exec_accrd (v : BitVec 5) (x : BitVec 6) (a : BitVec 2) (r : BitVec 6) (s : State) : exec (.accrd v x a r) s = execAccrd v x a r s := rfl
theorem exec_acczero (d : BitVec 2) (s : State) : exec (.acczero d) s = execAcczero d s := rfl
theorem exec_accld (d : BitVec 2) (src : BitVec 6) (s : State) : exec (.accld d src) s = execAccld d src s := rfl
theorem exec_accst (src : BitVec 6) (a : BitVec 2) (s : State) : exec (.accst src a) s = execAccst src a s := rfl
theorem exec_accstat (x : BitVec 6) (a : BitVec 2) (c : Bool) (s : State) : exec (.accstat x a c) s = execAccstat x a c s := rfl
theorem exec_accswp (d : BitVec 2) (a : BitVec 2) (s : State) : exec (.accswp d a) s = execAccswp d a s := rfl
theorem exec_tld (d : BitVec 3) (src : BitVec 6) (p : BitVec 5) (c : Bool) (s : State) : exec (.tld d src p c) s = execTld d src p c s := rfl
theorem exec_tst (src : BitVec 6) (d : BitVec 3) (p : BitVec 5) (c : Bool) (s : State) : exec (.tst src d p c) s = execTst src d p c s := rfl
theorem exec_tzero (d : BitVec 3) (s : State) : exec (.tzero d) s = execTzero d s := rfl
theorem exec_tmov (d : BitVec 3) (src : BitVec 3) (s : State) : exec (.tmov d src) s = execTmov d src s := rfl
theorem exec_ocmp (p : OPred) (t : OcTy) (d : BitVec 3) (a : BitVec 5) (b : BitVec 5) (k : BitVec 3) (s : State) : exec (.ocmp p t d a b k) s = execOcmp p t d a b k s := rfl
theorem exec_trap (a : BitVec 6) (s : State) : exec (.trap a) s = execTrap a s := rfl
theorem exec_csrw (d : BitVec 6) (c : BitVec 11) (a : BitVec 6) (s : State) : exec (.csrw d c a) s = execCsrw d c a s := rfl
theorem exec_csrs (d : BitVec 6) (c : BitVec 11) (a : BitVec 6) (s : State) : exec (.csrs d c a) s = execCsrs d c a s := rfl
theorem exec_csrc (d : BitVec 6) (c : BitVec 11) (a : BitVec 6) (s : State) : exec (.csrc d c a) s = execCsrc d c a s := rfl
theorem exec_gangend (s : State) : exec (.gangend) s = execGangend s := rfl
theorem exec_retire (s : State) : exec (.retire) s = execRetire s := rfl
theorem exec_sput (s : State) : exec (.sput) s = execSput s := rfl
theorem exec_tret (s : State) : exec (.tret) s = execTret s := rfl
theorem exec_halt (s : State) : exec (.halt) s = execHalt s := rfl
theorem exec_loadDataReturn (s : State) : exec (.loadDataReturn) s = execLoadDataReturn s := rfl
theorem exec_gatherLaneReturn (s : State) : exec (.gatherLaneReturn) s = execGatherLaneReturn s := rfl
theorem exec_hostLqtailWrite (s : State) : exec (.hostLqtailWrite) s = execHostLqtailWrite s := rfl
theorem exec_lqcfgWrite (s : State) : exec (.lqcfgWrite) s = execLqcfgWrite s := rfl
theorem exec_launchRecordRead (s : State) : exec (.launchRecordRead) s = execLaunchRecordRead s := rfl
theorem exec_dependencesMet (s : State) : exec (.dependencesMet) s = execDependencesMet s := rfl
theorem exec_firingPlace (s : State) : exec (.firingPlace) s = execFiringPlace s := rfl
theorem exec_teamComplete (s : State) : exec (.teamComplete) s = execTeamComplete s := rfl
theorem exec_checkSecondRun (s : State) : exec (.checkSecondRun) s = execCheckSecondRun s := rfl
theorem exec_actorFire (s : State) : exec (.actorFire) s = execActorFire s := rfl
theorem exec_messageDispatch (s : State) : exec (.messageDispatch) s = execMessageDispatch s := rfl
theorem exec_messageRefusalReturn (s : State) : exec (.messageRefusalReturn) s = execMessageRefusalReturn s := rfl
theorem exec_priorityAge (s : State) : exec (.priorityAge) s = execPriorityAge s := rfl
theorem exec_qstallExpiry (s : State) : exec (.qstallExpiry) s = execQstallExpiry s := rfl
theorem exec_fewaitExpiry (s : State) : exec (.fewaitExpiry) s = execFewaitExpiry s := rfl
theorem exec_feWithdrawal (s : State) : exec (.feWithdrawal) s = execFeWithdrawal s := rfl
theorem exec_feResend (s : State) : exec (.feResend) s = execFeResend s := rfl
theorem exec_bankOpArrive (s : State) : exec (.bankOpArrive) s = execBankOpArrive s := rfl
theorem exec_bankOpResend (s : State) : exec (.bankOpResend) s = execBankOpResend s := rfl
theorem exec_bankOpCopyDrop (s : State) : exec (.bankOpCopyDrop) s = execBankOpCopyDrop s := rfl
theorem exec_linkErrorReplay (s : State) : exec (.linkErrorReplay) s = execLinkErrorReplay s := rfl
theorem exec_remoteAccessArrive (s : State) : exec (.remoteAccessArrive) s = execRemoteAccessArrive s := rfl
theorem exec_storeMessagePerform (s : State) : exec (.storeMessagePerform) s = execStoreMessagePerform s := rfl
theorem exec_remoteRequestPerform (s : State) : exec (.remoteRequestPerform) s = execRemoteRequestPerform s := rfl
theorem exec_remoteWriteAck (s : State) : exec (.remoteWriteAck) s = execRemoteWriteAck s := rfl
theorem exec_rangelockRegister (s : State) : exec (.rangelockRegister) s = execRangelockRegister s := rfl
theorem exec_copySector (s : State) : exec (.copySector) s = execCopySector s := rfl
theorem exec_copyFault (s : State) : exec (.copyFault) s = execCopyFault s := rfl
theorem exec_copyComplete (s : State) : exec (.copyComplete) s = execCopyComplete s := rfl
theorem exec_mmaStep (s : State) : exec (.mmaStep) s = execMmaStep s := rfl
theorem exec_vectorBankLaneFault (s : State) : exec (.vectorBankLaneFault) s = execVectorBankLaneFault s := rfl
theorem exec_asyncReportTake (s : State) : exec (.asyncReportTake) s = execAsyncReportTake s := rfl
theorem exec_trapRecordAppend (s : State) : exec (.trapRecordAppend) s = execTrapRecordAppend s := rfl
theorem exec_errorLogAppend (s : State) : exec (.errorLogAppend) s = execErrorLogAppend s := rfl
theorem exec_trheadWrite (s : State) : exec (.trheadWrite) s = execTrheadWrite s := rfl
theorem exec_fcmdResumePc (s : State) : exec (.fcmdResumePc) s = execFcmdResumePc s := rfl
theorem exec_fcmdResumeUtvec (s : State) : exec (.fcmdResumeUtvec) s = execFcmdResumeUtvec s := rfl
theorem exec_fcmdSave (s : State) : exec (.fcmdSave) s = execFcmdSave s := rfl
theorem exec_fcmdDiscard (s : State) : exec (.fcmdDiscard) s = execFcmdDiscard s := rfl
theorem exec_fcmdKill (s : State) : exec (.fcmdKill) s = execFcmdKill s := rfl
theorem exec_preemptRequest (s : State) : exec (.preemptRequest) s = execPreemptRequest s := rfl
theorem exec_resumeRequest (s : State) : exec (.resumeRequest) s = execResumeRequest s := rfl
theorem exec_preemptDeadline (s : State) : exec (.preemptDeadline) s = execPreemptDeadline s := rfl
theorem exec_preemptEnd (s : State) : exec (.preemptEnd) s = execPreemptEnd s := rfl
theorem exec_dqstealServe (s : State) : exec (.dqstealServe) s = execDqstealServe s := rfl
theorem exec_pageWalk (s : State) : exec (.pageWalk) s = execPageWalk s := rfl
theorem exec_tlbinvWrite (s : State) : exec (.tlbinvWrite) s = execTlbinvWrite s := rfl
theorem exec_tlbinvComplete (s : State) : exec (.tlbinvComplete) s = execTlbinvComplete s := rfl
theorem exec_pintWrite (s : State) : exec (.pintWrite) s = execPintWrite s := rfl
theorem exec_msccfgWrite (s : State) : exec (.msccfgWrite) s = execMsccfgWrite s := rfl
theorem exec_mscChangeComplete (s : State) : exec (.mscChangeComplete) s = execMscChangeComplete s := rfl
theorem exec_logRegisterWrite (s : State) : exec (.logRegisterWrite) s = execLogRegisterWrite s := rfl
theorem exec_registerWrite (s : State) : exec (.registerWrite) s = execRegisterWrite s := rfl
theorem exec_decisionArrive (s : State) : exec (.decisionArrive) s = execDecisionArrive s := rfl
theorem exec_creditReturn (s : State) : exec (.creditReturn) s = execCreditReturn s := rfl
theorem exec_presenceDrop (s : State) : exec (.presenceDrop) s = execPresenceDrop s := rfl
theorem exec_portDownTimeout (s : State) : exec (.portDownTimeout) s = execPortDownTimeout s := rfl
theorem exec_peerLostDeclare (s : State) : exec (.peerLostDeclare) s = execPeerLostDeclare s := rfl
theorem exec_remotePoisonComplete (s : State) : exec (.remotePoisonComplete) s = execRemotePoisonComplete s := rfl
theorem exec_laneFail (s : State) : exec (.laneFail) s = execLaneFail s := rfl
theorem exec_retrainComplete (s : State) : exec (.retrainComplete) s = execRetrainComplete s := rfl
theorem exec_alctlWrite (s : State) : exec (.alctlWrite) s = execAlctlWrite s := rfl
theorem exec_alkeygoWrite (s : State) : exec (.alkeygoWrite) s = execAlkeygoWrite s := rfl
theorem exec_keySwitch (s : State) : exec (.keySwitch) s = execKeySwitch s := rfl
theorem exec_keywarn (s : State) : exec (.keywarn) s = execKeywarn s := rfl
theorem exec_keystarved (s : State) : exec (.keystarved) s = execKeystarved s := rfl
theorem exec_hostLinkLoss (s : State) : exec (.hostLinkLoss) s = execHostLinkLoss s := rfl
theorem exec_hostLinkReturn (s : State) : exec (.hostLinkReturn) s = execHostLinkReturn s := rfl
theorem exec_hostBar2Write (s : State) : exec (.hostBar2Write) s = execHostBar2Write s := rfl
theorem exec_hostBar4Write (s : State) : exec (.hostBar4Write) s = execHostBar4Write s := rfl
theorem exec_cxlPoison (s : State) : exec (.cxlPoison) s = execCxlPoison s := rfl
theorem exec_cxlDeviceLoss (s : State) : exec (.cxlDeviceLoss) s = execCxlDeviceLoss s := rfl
theorem exec_powerGood (s : State) : exec (.powerGood) s = execPowerGood s := rfl
theorem exec_fullEnter (s : State) : exec (.fullEnter) s = execFullEnter s := rfl
theorem exec_ident (s : State) : exec (.ident) s = execIdent s := rfl
theorem exec_health (s : State) : exec (.health) s = execHealth s := rfl
theorem exec_thermal (s : State) : exec (.thermal) s = execThermal s := rfl
theorem exec_resync (s : State) : exec (.resync) s = execResync s := rfl
theorem exec_fwload (s : State) : exec (.fwload) s = execFwload s := rfl
theorem exec_keyload (s : State) : exec (.keyload) s = execKeyload s := rfl
theorem exec_reset (s : State) : exec (.reset) s = execReset s := rfl
theorem exec_thermalTrip (s : State) : exec (.thermalTrip) s = execThermalTrip s := rfl
theorem exec_hbmDieLoss (s : State) : exec (.hbmDieLoss) s = execHbmDieLoss s := rfl
theorem exec_lockstepMismatch (s : State) : exec (.lockstepMismatch) s = execLockstepMismatch s := rfl
theorem exec_readoptionTimeout (s : State) : exec (.readoptionTimeout) s = execReadoptionTimeout s := rfl
theorem exec_readoptionComplete (s : State) : exec (.readoptionComplete) s = execReadoptionComplete s := rfl
theorem exec_uncorrectableError (s : State) : exec (.uncorrectableError) s = execUncorrectableError s := rfl
theorem exec_powerCapBreach (s : State) : exec (.powerCapBreach) s = execPowerCapBreach s := rfl
theorem exec_markerAcknowledged (s : State) : exec (.markerAcknowledged) s = execMarkerAcknowledged s := rfl
theorem exec_shinvComplete (s : State) : exec (.shinvComplete) s = execShinvComplete s := rfl
theorem exec_bankOpResponseArrive (s : State) : exec (.bankOpResponseArrive) s = execBankOpResponseArrive s := rfl
theorem exec_bankTagFree (s : State) : exec (.bankTagFree) s = execBankTagFree s := rfl
theorem exec_ownerAnswerArrive (s : State) : exec (.ownerAnswerArrive) s = execOwnerAnswerArrive s := rfl
theorem exec_commandComplete (s : State) : exec (.commandComplete) s = execCommandComplete s := rfl
theorem exec_moduleInsertion (s : State) : exec (.moduleInsertion) s = execModuleInsertion s := rfl
theorem exec_powerLoss (s : State) : exec (.powerLoss) s = execPowerLoss s := rfl
theorem exec_btpopr (d : BitVec 5) (src : BitVec 3) (s : State) : exec (.btpopr d src) s = execBtpopr d src s := rfl
theorem exec_btpopc (d : BitVec 5) (src : BitVec 3) (s : State) : exec (.btpopc d src) s = execBtpopc d src s := rfl
theorem exec_btclo (d : BitVec 3) (src : BitVec 3) (r : Bool) (s : State) : exec (.btclo d src r) s = execBtclo d src r s := rfl
theorem exec_btcomp (d : BitVec 3) (a : BitVec 3) (b : BitVec 3) (s : State) : exec (.btcomp d a b) s = execBtcomp d a b s := rfl
theorem exec_bttr (d : BitVec 3) (src : BitVec 3) (s : State) : exec (.bttr d src) s = execBttr d src s := rfl
theorem exec_btand (d : BitVec 3) (a : BitVec 3) (b : BitVec 3) (s : State) : exec (.btand d a b) s = execBtand d a b s := rfl
theorem exec_btor (d : BitVec 3) (a : BitVec 3) (b : BitVec 3) (s : State) : exec (.btor d a b) s = execBtor d a b s := rfl
theorem exec_btxor (d : BitVec 3) (a : BitVec 3) (b : BitVec 3) (s : State) : exec (.btxor d a b) s = execBtxor d a b s := rfl
theorem exec_btandn (d : BitVec 3) (a : BitVec 3) (b : BitVec 3) (s : State) : exec (.btandn d a b) s = execBtandn d a b s := rfl
theorem exec_btnot (d : BitVec 3) (src : BitVec 3) (s : State) : exec (.btnot d src) s = execBtnot d src s := rfl
theorem exec_btrowk (d : BitVec 3) (src : BitVec 3) (imm : BitVec 6) (s : State) : exec (.btrowk d src imm) s = execBtrowk d src imm s := rfl
theorem exec_btcolk (d : BitVec 3) (src : BitVec 3) (imm : BitVec 6) (s : State) : exec (.btcolk d src imm) s = execBtcolk d src imm s := rfl
theorem exec_btkrow (d : BitVec 3) (src : BitVec 3) (imm : BitVec 6) (s : State) : exec (.btkrow d src imm) s = execBtkrow d src imm s := rfl
theorem exec_btkcol (d : BitVec 3) (src : BitVec 3) (imm : BitVec 6) (s : State) : exec (.btkcol d src imm) s = execBtkcol d src imm s := rfl
theorem exec_btld (d : BitVec 3) (src : BitVec 6) (s : State) : exec (.btld d src) s = execBtld d src s := rfl
theorem exec_btst (src : BitVec 6) (b : BitVec 3) (s : State) : exec (.btst src b) s = execBtst src b s := rfl
theorem exec_sinit (a : BitVec 6) (s : State) : exec (.sinit a) s = execSinit a s := rfl
theorem exec_rate (a : BitVec 6) (b : BitVec 6) (s : State) : exec (.rate a b) s = execRate a b s := rfl
theorem exec_ratea (a : BitVec 6) (b : BitVec 6) (s : State) : exec (.ratea a b) s = execRatea a b s := rfl
theorem exec_nextev (d : BitVec 6) (a : BitVec 6) (s : State) : exec (.nextev d a) s = execNextev d a s := rfl
theorem exec_swrd (d : BitVec 6) (a : BitVec 6) (src : BitVec 6) (s : State) : exec (.swrd d a src) s = execSwrd d a src s := rfl
theorem exec_sclk (d : BitVec 6) (s : State) : exec (.sclk d) s = execSclk d s := rfl
theorem exec_binit (a : BitVec 6) (s : State) : exec (.binit a) s = execBinit a s := rfl
theorem exec_bdec (d : BitVec 6) (a : BitVec 6) (s : State) : exec (.bdec d a) s = execBdec d a s := rfl
theorem exec_brecv (d : BitVec 6) (a : BitVec 6) (s : State) : exec (.brecv d a) s = execBrecv d a s := rfl
theorem exec_hint (h : BitVec 25) (s : State) : exec (.hint h) s = execHint h s := rfl

end Sys2Proof.Machine
end

