-- ==== Sys2Proof/Laws/Issue.lean ====
section
/-! SUPPORT. What issue, plain and finish answer: cited instead of unfolding the order of checks (R39). -/

namespace Sys2Proof.Machine

/-- An instruction whose checks pass goes on to its own part. -/
theorem issue_of_checks {d : Desc} {pfx : Bool} {ill priv : State → Bool} {body : State → Except Stop Done} {s : State}
    (ha : s.fir.active = true) (hf : s.fir.fpend = false ∨ pfx = true) (hk : d.ok = true) (hs : stageIll s.fir d.ops = false)
    (hi : ill s = false) (hp : priv s = false) (ho : s.fir.outside d.ops = none) :
    issue d pfx ill priv body s = finish s (body s) := by
  rcases hf with hf | hf <;> simp [issue, ha, hf, hk, hs, hi, hp, ho]

/-- An instruction with no conditions of its own, when it issues. -/
theorem plain_issues {i : Instr} {body : State → Except Stop Done} {s : State} (h : s.Issues i) :
    plain (descOf i) body s = finish s (body s) := by
  obtain ⟨ha, hf, hk, hs, ho⟩ := h
  exact issue_of_checks ha (.inl hf) hk hs rfl rfl ho

/-- An instruction with its own ILL and PRIV conditions, when it issues and neither holds. -/
theorem issue_issues {i : Instr} {pfx : Bool} {ill priv : State → Bool} {body : State → Except Stop Done} {s : State}
    (h : s.Issues i) (hi : ill s = false) (hp : priv s = false) :
    issue (descOf i) pfx ill priv body s = finish s (body s) := by
  obtain ⟨ha, hf, hk, hs, ho⟩ := h
  exact issue_of_checks ha (.inl hf) hk hs hi hp ho

/-- With no firing to execute it an instruction does nothing. -/
theorem issue_inactive {d : Desc} {pfx : Bool} {ill priv : State → Bool} {body : State → Except Stop Done} {s : State}
    (ha : s.fir.active = false) : issue d pfx ill priv body s = .next s := by
  simp [issue, ha]

/-- An illegal word takes ILL with the word as tval (R39, R194). -/
theorem issue_ill {d : Desc} {pfx : Bool} {ill priv : State → Bool} {body : State → Except Stop Done} {s : State}
    (ha : s.fir.active = true) (h : (!d.ok || (s.fir.fpend && !pfx) || stageIll s.fir d.ops || ill s) = true) :
    issue d pfx ill priv body s = .next (s.trapHere { c := .ill, sub := 0, val := BitVec.setWidth 64 d.word }) := by
  simp only [issue, ha, h]; rfl

/-- An instruction always answers a next state. -/
theorem finish_next (s : State) (r : Except Stop Done) : ∃ t, finish s r = .next t := by
  rcases r with (_ | _ | _) | (_ | _ | _ | _) <;> exact ⟨_, rfl⟩

/-- Issuing always answers a next state. -/
theorem issue_next (d : Desc) (pfx : Bool) (ill priv : State → Bool) (body : State → Except Stop Done) (s : State) :
    ∃ t, issue d pfx ill priv body s = .next t := by
  unfold issue
  split
  · exact ⟨_, rfl⟩
  · split
    · exact ⟨_, rfl⟩
    · split
      · exact ⟨_, rfl⟩
      · split
        · exact ⟨_, rfl⟩
        · exact finish_next _ _

@[simp] theorem finish_done (s t : State) : finish s (.ok (.done t)) = .next (t.upd Firing.advance) := rfl
@[simp] theorem finish_jump (s t : State) (pc : Word) :
    finish s (.ok (.jump t pc)) = .next (t.upd fun f => { f with pc := pc, wait := none, granted := false, aged := false }) := rfl
@[simp] theorem finish_stay (s t : State) : finish s (.ok (.stay t)) = .next t := rfl
@[simp] theorem finish_trap (s : State) (t : Trap) : finish s (.error (.trap t)) = .next (s.trapHere t) := rfl
@[simp] theorem finish_trapIn (s u : State) (t : Trap) : finish s (.error (.trapIn u t)) = .next (u.trapHere t) := rfl
@[simp] theorem finish_wait (s u : State) (w : Wait) :
    finish s (.error (.wait u w)) = .next (u.upd fun f => { f with wait := some w, aged := false }) := rfl

end Sys2Proof.Machine
end

