-- ==== Sys2Proof/Laws/State.lean ====
section
/-! SUPPORT. One lemma for each field and each update of the state and of a firing, all true by unfolding. -/

namespace Sys2Proof.Machine

@[simp] theorem State.upd_fir (s : State) (g : Firing → Firing) : (s.upd g).fir = g s.fir := rfl
@[simp] theorem State.upd_others (s : State) (g : Firing → Firing) : (s.upd g).others = s.others := rfl
@[simp] theorem State.upd_fronds (s : State) (g : Firing → Firing) : (s.upd g).fronds = s.fronds := rfl
@[simp] theorem State.upd_cores (s : State) (g : Firing → Firing) : (s.upd g).cores = s.cores := rfl
@[simp] theorem State.upd_dies (s : State) (g : Firing → Firing) : (s.upd g).dies = s.dies := rfl
@[simp] theorem State.upd_parts (s : State) (g : Firing → Firing) : (s.upd g).parts = s.parts := rfl
@[simp] theorem State.upd_teams (s : State) (g : Firing → Firing) : (s.upd g).teams = s.teams := rfl
@[simp] theorem State.upd_saved (s : State) (g : Firing → Firing) : (s.upd g).saved = s.saved := rfl
@[simp] theorem State.upd_gangs (s : State) (g : Firing → Firing) : (s.upd g).gangs = s.gangs := rfl
@[simp] theorem State.upd_mem (s : State) (g : Firing → Firing) : (s.upd g).mem = s.mem := rfl
@[simp] theorem State.upd_late (s : State) (g : Firing → Firing) : (s.upd g).late = s.late := rfl
@[simp] theorem State.upd_full (s : State) (g : Firing → Firing) : (s.upd g).full = s.full := rfl
@[simp] theorem State.upd_retry (s : State) (g : Firing → Firing) : (s.upd g).retry = s.retry := rfl
@[simp] theorem State.upd_filt (s : State) (g : Firing → Firing) : (s.upd g).filt = s.filt := rfl
@[simp] theorem State.upd_ports (s : State) (g : Firing → Firing) : (s.upd g).ports = s.ports := rfl
@[simp] theorem State.upd_dev (s : State) (g : Firing → Firing) : (s.upd g).dev = s.dev := rfl
@[simp] theorem State.upd_lost (s : State) (g : Firing → Firing) : (s.upd g).lost = s.lost := rfl
@[simp] theorem State.upd_streams (s : State) (g : Firing → Firing) : (s.upd g).streams = s.streams := rfl
@[simp] theorem State.upd_unacked (s : State) (g : Firing → Firing) : (s.upd g).unacked = s.unacked := rfl
@[simp] theorem State.upd_inreqs (s : State) (g : Firing → Firing) : (s.upd g).inreqs = s.inreqs := rfl
@[simp] theorem State.upd_expect (s : State) (g : Firing → Firing) : (s.upd g).expect = s.expect := rfl
@[simp] theorem State.upd_sent (s : State) (g : Firing → Firing) : (s.upd g).sent = s.sent := rfl
@[simp] theorem State.upd_inbox (s : State) (g : Firing → Firing) : (s.upd g).inbox = s.inbox := rfl
@[simp] theorem State.upd_agenda (s : State) (g : Firing → Firing) : (s.upd g).agenda = s.agenda := rfl
@[simp] theorem State.upd_ev (s : State) (g : Firing → Firing) : (s.upd g).ev = s.ev := rfl
@[simp] theorem State.upd_free (s : State) (g : Firing → Firing) : (s.upd g).free = s.free := rfl
@[simp] theorem State.upd_traps (s : State) (g : Firing → Firing) : (s.upd g).traps = s.traps := rfl
@[simp] theorem State.upd_next (s : State) (g : Firing → Firing) : (s.upd g).next = s.next := rfl

@[simp] theorem State.onFrond_fir (s : State) (h : Fin 1024) (g : Frond → Frond) : (s.onFrond h g).fir = s.fir := rfl
@[simp] theorem State.onFrond_others (s : State) (h : Fin 1024) (g : Frond → Frond) : (s.onFrond h g).others = s.others := rfl
@[simp] theorem State.onFrond_fronds (s : State) (h : Fin 1024) (g : Frond → Frond) : (s.onFrond h g).fronds = s.fronds.set h (g s.fronds[h]) := rfl
@[simp] theorem State.onFrond_cores (s : State) (h : Fin 1024) (g : Frond → Frond) : (s.onFrond h g).cores = s.cores := rfl
@[simp] theorem State.onFrond_dies (s : State) (h : Fin 1024) (g : Frond → Frond) : (s.onFrond h g).dies = s.dies := rfl
@[simp] theorem State.onFrond_parts (s : State) (h : Fin 1024) (g : Frond → Frond) : (s.onFrond h g).parts = s.parts := rfl
@[simp] theorem State.onFrond_teams (s : State) (h : Fin 1024) (g : Frond → Frond) : (s.onFrond h g).teams = s.teams := rfl
@[simp] theorem State.onFrond_saved (s : State) (h : Fin 1024) (g : Frond → Frond) : (s.onFrond h g).saved = s.saved := rfl
@[simp] theorem State.onFrond_gangs (s : State) (h : Fin 1024) (g : Frond → Frond) : (s.onFrond h g).gangs = s.gangs := rfl
@[simp] theorem State.onFrond_mem (s : State) (h : Fin 1024) (g : Frond → Frond) : (s.onFrond h g).mem = s.mem := rfl
@[simp] theorem State.onFrond_late (s : State) (h : Fin 1024) (g : Frond → Frond) : (s.onFrond h g).late = s.late := rfl
@[simp] theorem State.onFrond_full (s : State) (h : Fin 1024) (g : Frond → Frond) : (s.onFrond h g).full = s.full := rfl
@[simp] theorem State.onFrond_retry (s : State) (h : Fin 1024) (g : Frond → Frond) : (s.onFrond h g).retry = s.retry := rfl
@[simp] theorem State.onFrond_filt (s : State) (h : Fin 1024) (g : Frond → Frond) : (s.onFrond h g).filt = s.filt := rfl
@[simp] theorem State.onFrond_ports (s : State) (h : Fin 1024) (g : Frond → Frond) : (s.onFrond h g).ports = s.ports := rfl
@[simp] theorem State.onFrond_dev (s : State) (h : Fin 1024) (g : Frond → Frond) : (s.onFrond h g).dev = s.dev := rfl
@[simp] theorem State.onFrond_lost (s : State) (h : Fin 1024) (g : Frond → Frond) : (s.onFrond h g).lost = s.lost := rfl
@[simp] theorem State.onFrond_streams (s : State) (h : Fin 1024) (g : Frond → Frond) : (s.onFrond h g).streams = s.streams := rfl
@[simp] theorem State.onFrond_unacked (s : State) (h : Fin 1024) (g : Frond → Frond) : (s.onFrond h g).unacked = s.unacked := rfl
@[simp] theorem State.onFrond_inreqs (s : State) (h : Fin 1024) (g : Frond → Frond) : (s.onFrond h g).inreqs = s.inreqs := rfl
@[simp] theorem State.onFrond_expect (s : State) (h : Fin 1024) (g : Frond → Frond) : (s.onFrond h g).expect = s.expect := rfl
@[simp] theorem State.onFrond_sent (s : State) (h : Fin 1024) (g : Frond → Frond) : (s.onFrond h g).sent = s.sent := rfl
@[simp] theorem State.onFrond_inbox (s : State) (h : Fin 1024) (g : Frond → Frond) : (s.onFrond h g).inbox = s.inbox := rfl
@[simp] theorem State.onFrond_agenda (s : State) (h : Fin 1024) (g : Frond → Frond) : (s.onFrond h g).agenda = s.agenda := rfl
@[simp] theorem State.onFrond_ev (s : State) (h : Fin 1024) (g : Frond → Frond) : (s.onFrond h g).ev = s.ev := rfl
@[simp] theorem State.onFrond_free (s : State) (h : Fin 1024) (g : Frond → Frond) : (s.onFrond h g).free = s.free := rfl
@[simp] theorem State.onFrond_traps (s : State) (h : Fin 1024) (g : Frond → Frond) : (s.onFrond h g).traps = s.traps := rfl
@[simp] theorem State.onFrond_next (s : State) (h : Fin 1024) (g : Frond → Frond) : (s.onFrond h g).next = s.next := rfl

@[simp] theorem State.onCore_fir (s : State) (c : Fin 2048) (g : CoreSt → CoreSt) : (s.onCore c g).fir = s.fir := rfl
@[simp] theorem State.onCore_others (s : State) (c : Fin 2048) (g : CoreSt → CoreSt) : (s.onCore c g).others = s.others := rfl
@[simp] theorem State.onCore_fronds (s : State) (c : Fin 2048) (g : CoreSt → CoreSt) : (s.onCore c g).fronds = s.fronds := rfl
@[simp] theorem State.onCore_cores (s : State) (c : Fin 2048) (g : CoreSt → CoreSt) : (s.onCore c g).cores = s.cores.set c (g s.cores[c]) := rfl
@[simp] theorem State.onCore_dies (s : State) (c : Fin 2048) (g : CoreSt → CoreSt) : (s.onCore c g).dies = s.dies := rfl
@[simp] theorem State.onCore_parts (s : State) (c : Fin 2048) (g : CoreSt → CoreSt) : (s.onCore c g).parts = s.parts := rfl
@[simp] theorem State.onCore_teams (s : State) (c : Fin 2048) (g : CoreSt → CoreSt) : (s.onCore c g).teams = s.teams := rfl
@[simp] theorem State.onCore_saved (s : State) (c : Fin 2048) (g : CoreSt → CoreSt) : (s.onCore c g).saved = s.saved := rfl
@[simp] theorem State.onCore_gangs (s : State) (c : Fin 2048) (g : CoreSt → CoreSt) : (s.onCore c g).gangs = s.gangs := rfl
@[simp] theorem State.onCore_mem (s : State) (c : Fin 2048) (g : CoreSt → CoreSt) : (s.onCore c g).mem = s.mem := rfl
@[simp] theorem State.onCore_late (s : State) (c : Fin 2048) (g : CoreSt → CoreSt) : (s.onCore c g).late = s.late := rfl
@[simp] theorem State.onCore_full (s : State) (c : Fin 2048) (g : CoreSt → CoreSt) : (s.onCore c g).full = s.full := rfl
@[simp] theorem State.onCore_retry (s : State) (c : Fin 2048) (g : CoreSt → CoreSt) : (s.onCore c g).retry = s.retry := rfl
@[simp] theorem State.onCore_filt (s : State) (c : Fin 2048) (g : CoreSt → CoreSt) : (s.onCore c g).filt = s.filt := rfl
@[simp] theorem State.onCore_ports (s : State) (c : Fin 2048) (g : CoreSt → CoreSt) : (s.onCore c g).ports = s.ports := rfl
@[simp] theorem State.onCore_dev (s : State) (c : Fin 2048) (g : CoreSt → CoreSt) : (s.onCore c g).dev = s.dev := rfl
@[simp] theorem State.onCore_lost (s : State) (c : Fin 2048) (g : CoreSt → CoreSt) : (s.onCore c g).lost = s.lost := rfl
@[simp] theorem State.onCore_streams (s : State) (c : Fin 2048) (g : CoreSt → CoreSt) : (s.onCore c g).streams = s.streams := rfl
@[simp] theorem State.onCore_unacked (s : State) (c : Fin 2048) (g : CoreSt → CoreSt) : (s.onCore c g).unacked = s.unacked := rfl
@[simp] theorem State.onCore_inreqs (s : State) (c : Fin 2048) (g : CoreSt → CoreSt) : (s.onCore c g).inreqs = s.inreqs := rfl
@[simp] theorem State.onCore_expect (s : State) (c : Fin 2048) (g : CoreSt → CoreSt) : (s.onCore c g).expect = s.expect := rfl
@[simp] theorem State.onCore_sent (s : State) (c : Fin 2048) (g : CoreSt → CoreSt) : (s.onCore c g).sent = s.sent := rfl
@[simp] theorem State.onCore_inbox (s : State) (c : Fin 2048) (g : CoreSt → CoreSt) : (s.onCore c g).inbox = s.inbox := rfl
@[simp] theorem State.onCore_agenda (s : State) (c : Fin 2048) (g : CoreSt → CoreSt) : (s.onCore c g).agenda = s.agenda := rfl
@[simp] theorem State.onCore_ev (s : State) (c : Fin 2048) (g : CoreSt → CoreSt) : (s.onCore c g).ev = s.ev := rfl
@[simp] theorem State.onCore_free (s : State) (c : Fin 2048) (g : CoreSt → CoreSt) : (s.onCore c g).free = s.free := rfl
@[simp] theorem State.onCore_traps (s : State) (c : Fin 2048) (g : CoreSt → CoreSt) : (s.onCore c g).traps = s.traps := rfl
@[simp] theorem State.onCore_next (s : State) (c : Fin 2048) (g : CoreSt → CoreSt) : (s.onCore c g).next = s.next := rfl

@[simp] theorem State.onDie_fir (s : State) (d : Fin 4) (g : Die → Die) : (s.onDie d g).fir = s.fir := rfl
@[simp] theorem State.onDie_others (s : State) (d : Fin 4) (g : Die → Die) : (s.onDie d g).others = s.others := rfl
@[simp] theorem State.onDie_fronds (s : State) (d : Fin 4) (g : Die → Die) : (s.onDie d g).fronds = s.fronds := rfl
@[simp] theorem State.onDie_cores (s : State) (d : Fin 4) (g : Die → Die) : (s.onDie d g).cores = s.cores := rfl
@[simp] theorem State.onDie_dies (s : State) (d : Fin 4) (g : Die → Die) : (s.onDie d g).dies = s.dies.set d (g s.dies[d]) := rfl
@[simp] theorem State.onDie_parts (s : State) (d : Fin 4) (g : Die → Die) : (s.onDie d g).parts = s.parts := rfl
@[simp] theorem State.onDie_teams (s : State) (d : Fin 4) (g : Die → Die) : (s.onDie d g).teams = s.teams := rfl
@[simp] theorem State.onDie_saved (s : State) (d : Fin 4) (g : Die → Die) : (s.onDie d g).saved = s.saved := rfl
@[simp] theorem State.onDie_gangs (s : State) (d : Fin 4) (g : Die → Die) : (s.onDie d g).gangs = s.gangs := rfl
@[simp] theorem State.onDie_mem (s : State) (d : Fin 4) (g : Die → Die) : (s.onDie d g).mem = s.mem := rfl
@[simp] theorem State.onDie_late (s : State) (d : Fin 4) (g : Die → Die) : (s.onDie d g).late = s.late := rfl
@[simp] theorem State.onDie_full (s : State) (d : Fin 4) (g : Die → Die) : (s.onDie d g).full = s.full := rfl
@[simp] theorem State.onDie_retry (s : State) (d : Fin 4) (g : Die → Die) : (s.onDie d g).retry = s.retry := rfl
@[simp] theorem State.onDie_filt (s : State) (d : Fin 4) (g : Die → Die) : (s.onDie d g).filt = s.filt := rfl
@[simp] theorem State.onDie_ports (s : State) (d : Fin 4) (g : Die → Die) : (s.onDie d g).ports = s.ports := rfl
@[simp] theorem State.onDie_dev (s : State) (d : Fin 4) (g : Die → Die) : (s.onDie d g).dev = s.dev := rfl
@[simp] theorem State.onDie_lost (s : State) (d : Fin 4) (g : Die → Die) : (s.onDie d g).lost = s.lost := rfl
@[simp] theorem State.onDie_streams (s : State) (d : Fin 4) (g : Die → Die) : (s.onDie d g).streams = s.streams := rfl
@[simp] theorem State.onDie_unacked (s : State) (d : Fin 4) (g : Die → Die) : (s.onDie d g).unacked = s.unacked := rfl
@[simp] theorem State.onDie_inreqs (s : State) (d : Fin 4) (g : Die → Die) : (s.onDie d g).inreqs = s.inreqs := rfl
@[simp] theorem State.onDie_expect (s : State) (d : Fin 4) (g : Die → Die) : (s.onDie d g).expect = s.expect := rfl
@[simp] theorem State.onDie_sent (s : State) (d : Fin 4) (g : Die → Die) : (s.onDie d g).sent = s.sent := rfl
@[simp] theorem State.onDie_inbox (s : State) (d : Fin 4) (g : Die → Die) : (s.onDie d g).inbox = s.inbox := rfl
@[simp] theorem State.onDie_agenda (s : State) (d : Fin 4) (g : Die → Die) : (s.onDie d g).agenda = s.agenda := rfl
@[simp] theorem State.onDie_ev (s : State) (d : Fin 4) (g : Die → Die) : (s.onDie d g).ev = s.ev := rfl
@[simp] theorem State.onDie_free (s : State) (d : Fin 4) (g : Die → Die) : (s.onDie d g).free = s.free := rfl
@[simp] theorem State.onDie_traps (s : State) (d : Fin 4) (g : Die → Die) : (s.onDie d g).traps = s.traps := rfl
@[simp] theorem State.onDie_next (s : State) (d : Fin 4) (g : Die → Die) : (s.onDie d g).next = s.next := rfl

@[simp] theorem State.onPart_fir (s : State) (p : Fin 16) (g : Part → Part) : (s.onPart p g).fir = s.fir := rfl
@[simp] theorem State.onPart_others (s : State) (p : Fin 16) (g : Part → Part) : (s.onPart p g).others = s.others := rfl
@[simp] theorem State.onPart_fronds (s : State) (p : Fin 16) (g : Part → Part) : (s.onPart p g).fronds = s.fronds := rfl
@[simp] theorem State.onPart_cores (s : State) (p : Fin 16) (g : Part → Part) : (s.onPart p g).cores = s.cores := rfl
@[simp] theorem State.onPart_dies (s : State) (p : Fin 16) (g : Part → Part) : (s.onPart p g).dies = s.dies := rfl
@[simp] theorem State.onPart_parts (s : State) (p : Fin 16) (g : Part → Part) : (s.onPart p g).parts = s.parts.set p (g s.parts[p]) := rfl
@[simp] theorem State.onPart_teams (s : State) (p : Fin 16) (g : Part → Part) : (s.onPart p g).teams = s.teams := rfl
@[simp] theorem State.onPart_saved (s : State) (p : Fin 16) (g : Part → Part) : (s.onPart p g).saved = s.saved := rfl
@[simp] theorem State.onPart_gangs (s : State) (p : Fin 16) (g : Part → Part) : (s.onPart p g).gangs = s.gangs := rfl
@[simp] theorem State.onPart_mem (s : State) (p : Fin 16) (g : Part → Part) : (s.onPart p g).mem = s.mem := rfl
@[simp] theorem State.onPart_late (s : State) (p : Fin 16) (g : Part → Part) : (s.onPart p g).late = s.late := rfl
@[simp] theorem State.onPart_full (s : State) (p : Fin 16) (g : Part → Part) : (s.onPart p g).full = s.full := rfl
@[simp] theorem State.onPart_retry (s : State) (p : Fin 16) (g : Part → Part) : (s.onPart p g).retry = s.retry := rfl
@[simp] theorem State.onPart_filt (s : State) (p : Fin 16) (g : Part → Part) : (s.onPart p g).filt = s.filt := rfl
@[simp] theorem State.onPart_ports (s : State) (p : Fin 16) (g : Part → Part) : (s.onPart p g).ports = s.ports := rfl
@[simp] theorem State.onPart_dev (s : State) (p : Fin 16) (g : Part → Part) : (s.onPart p g).dev = s.dev := rfl
@[simp] theorem State.onPart_lost (s : State) (p : Fin 16) (g : Part → Part) : (s.onPart p g).lost = s.lost := rfl
@[simp] theorem State.onPart_streams (s : State) (p : Fin 16) (g : Part → Part) : (s.onPart p g).streams = s.streams := rfl
@[simp] theorem State.onPart_unacked (s : State) (p : Fin 16) (g : Part → Part) : (s.onPart p g).unacked = s.unacked := rfl
@[simp] theorem State.onPart_inreqs (s : State) (p : Fin 16) (g : Part → Part) : (s.onPart p g).inreqs = s.inreqs := rfl
@[simp] theorem State.onPart_expect (s : State) (p : Fin 16) (g : Part → Part) : (s.onPart p g).expect = s.expect := rfl
@[simp] theorem State.onPart_sent (s : State) (p : Fin 16) (g : Part → Part) : (s.onPart p g).sent = s.sent := rfl
@[simp] theorem State.onPart_inbox (s : State) (p : Fin 16) (g : Part → Part) : (s.onPart p g).inbox = s.inbox := rfl
@[simp] theorem State.onPart_agenda (s : State) (p : Fin 16) (g : Part → Part) : (s.onPart p g).agenda = s.agenda := rfl
@[simp] theorem State.onPart_ev (s : State) (p : Fin 16) (g : Part → Part) : (s.onPart p g).ev = s.ev := rfl
@[simp] theorem State.onPart_free (s : State) (p : Fin 16) (g : Part → Part) : (s.onPart p g).free = s.free := rfl
@[simp] theorem State.onPart_traps (s : State) (p : Fin 16) (g : Part → Part) : (s.onPart p g).traps = s.traps := rfl
@[simp] theorem State.onPart_next (s : State) (p : Fin 16) (g : Part → Part) : (s.onPart p g).next = s.next := rfl

@[simp] theorem State.onPort_fir (s : State) (p : Fin 18) (g : Port → Port) : (s.onPort p g).fir = s.fir := rfl
@[simp] theorem State.onPort_others (s : State) (p : Fin 18) (g : Port → Port) : (s.onPort p g).others = s.others := rfl
@[simp] theorem State.onPort_fronds (s : State) (p : Fin 18) (g : Port → Port) : (s.onPort p g).fronds = s.fronds := rfl
@[simp] theorem State.onPort_cores (s : State) (p : Fin 18) (g : Port → Port) : (s.onPort p g).cores = s.cores := rfl
@[simp] theorem State.onPort_dies (s : State) (p : Fin 18) (g : Port → Port) : (s.onPort p g).dies = s.dies := rfl
@[simp] theorem State.onPort_parts (s : State) (p : Fin 18) (g : Port → Port) : (s.onPort p g).parts = s.parts := rfl
@[simp] theorem State.onPort_teams (s : State) (p : Fin 18) (g : Port → Port) : (s.onPort p g).teams = s.teams := rfl
@[simp] theorem State.onPort_saved (s : State) (p : Fin 18) (g : Port → Port) : (s.onPort p g).saved = s.saved := rfl
@[simp] theorem State.onPort_gangs (s : State) (p : Fin 18) (g : Port → Port) : (s.onPort p g).gangs = s.gangs := rfl
@[simp] theorem State.onPort_mem (s : State) (p : Fin 18) (g : Port → Port) : (s.onPort p g).mem = s.mem := rfl
@[simp] theorem State.onPort_late (s : State) (p : Fin 18) (g : Port → Port) : (s.onPort p g).late = s.late := rfl
@[simp] theorem State.onPort_full (s : State) (p : Fin 18) (g : Port → Port) : (s.onPort p g).full = s.full := rfl
@[simp] theorem State.onPort_retry (s : State) (p : Fin 18) (g : Port → Port) : (s.onPort p g).retry = s.retry := rfl
@[simp] theorem State.onPort_filt (s : State) (p : Fin 18) (g : Port → Port) : (s.onPort p g).filt = s.filt := rfl
@[simp] theorem State.onPort_ports (s : State) (p : Fin 18) (g : Port → Port) : (s.onPort p g).ports = s.ports.set p (g s.ports[p]) := rfl
@[simp] theorem State.onPort_dev (s : State) (p : Fin 18) (g : Port → Port) : (s.onPort p g).dev = s.dev := rfl
@[simp] theorem State.onPort_lost (s : State) (p : Fin 18) (g : Port → Port) : (s.onPort p g).lost = s.lost := rfl
@[simp] theorem State.onPort_streams (s : State) (p : Fin 18) (g : Port → Port) : (s.onPort p g).streams = s.streams := rfl
@[simp] theorem State.onPort_unacked (s : State) (p : Fin 18) (g : Port → Port) : (s.onPort p g).unacked = s.unacked := rfl
@[simp] theorem State.onPort_inreqs (s : State) (p : Fin 18) (g : Port → Port) : (s.onPort p g).inreqs = s.inreqs := rfl
@[simp] theorem State.onPort_expect (s : State) (p : Fin 18) (g : Port → Port) : (s.onPort p g).expect = s.expect := rfl
@[simp] theorem State.onPort_sent (s : State) (p : Fin 18) (g : Port → Port) : (s.onPort p g).sent = s.sent := rfl
@[simp] theorem State.onPort_inbox (s : State) (p : Fin 18) (g : Port → Port) : (s.onPort p g).inbox = s.inbox := rfl
@[simp] theorem State.onPort_agenda (s : State) (p : Fin 18) (g : Port → Port) : (s.onPort p g).agenda = s.agenda := rfl
@[simp] theorem State.onPort_ev (s : State) (p : Fin 18) (g : Port → Port) : (s.onPort p g).ev = s.ev := rfl
@[simp] theorem State.onPort_free (s : State) (p : Fin 18) (g : Port → Port) : (s.onPort p g).free = s.free := rfl
@[simp] theorem State.onPort_traps (s : State) (p : Fin 18) (g : Port → Port) : (s.onPort p g).traps = s.traps := rfl
@[simp] theorem State.onPort_next (s : State) (p : Fin 18) (g : Port → Port) : (s.onPort p g).next = s.next := rfl

@[simp] theorem State.onTeam_fir (s : State) (n : Nat) (g : Team → Team) : (s.onTeam n g).fir = s.fir := rfl
@[simp] theorem State.onTeam_others (s : State) (n : Nat) (g : Team → Team) : (s.onTeam n g).others = s.others := rfl
@[simp] theorem State.onTeam_fronds (s : State) (n : Nat) (g : Team → Team) : (s.onTeam n g).fronds = s.fronds := rfl
@[simp] theorem State.onTeam_cores (s : State) (n : Nat) (g : Team → Team) : (s.onTeam n g).cores = s.cores := rfl
@[simp] theorem State.onTeam_dies (s : State) (n : Nat) (g : Team → Team) : (s.onTeam n g).dies = s.dies := rfl
@[simp] theorem State.onTeam_parts (s : State) (n : Nat) (g : Team → Team) : (s.onTeam n g).parts = s.parts := rfl
@[simp] theorem State.onTeam_teams (s : State) (n : Nat) (g : Team → Team) : (s.onTeam n g).teams = s.teams.map fun t => if t.id == n then g t else t := rfl
@[simp] theorem State.onTeam_saved (s : State) (n : Nat) (g : Team → Team) : (s.onTeam n g).saved = s.saved := rfl
@[simp] theorem State.onTeam_gangs (s : State) (n : Nat) (g : Team → Team) : (s.onTeam n g).gangs = s.gangs := rfl
@[simp] theorem State.onTeam_mem (s : State) (n : Nat) (g : Team → Team) : (s.onTeam n g).mem = s.mem := rfl
@[simp] theorem State.onTeam_late (s : State) (n : Nat) (g : Team → Team) : (s.onTeam n g).late = s.late := rfl
@[simp] theorem State.onTeam_full (s : State) (n : Nat) (g : Team → Team) : (s.onTeam n g).full = s.full := rfl
@[simp] theorem State.onTeam_retry (s : State) (n : Nat) (g : Team → Team) : (s.onTeam n g).retry = s.retry := rfl
@[simp] theorem State.onTeam_filt (s : State) (n : Nat) (g : Team → Team) : (s.onTeam n g).filt = s.filt := rfl
@[simp] theorem State.onTeam_ports (s : State) (n : Nat) (g : Team → Team) : (s.onTeam n g).ports = s.ports := rfl
@[simp] theorem State.onTeam_dev (s : State) (n : Nat) (g : Team → Team) : (s.onTeam n g).dev = s.dev := rfl
@[simp] theorem State.onTeam_lost (s : State) (n : Nat) (g : Team → Team) : (s.onTeam n g).lost = s.lost := rfl
@[simp] theorem State.onTeam_streams (s : State) (n : Nat) (g : Team → Team) : (s.onTeam n g).streams = s.streams := rfl
@[simp] theorem State.onTeam_unacked (s : State) (n : Nat) (g : Team → Team) : (s.onTeam n g).unacked = s.unacked := rfl
@[simp] theorem State.onTeam_inreqs (s : State) (n : Nat) (g : Team → Team) : (s.onTeam n g).inreqs = s.inreqs := rfl
@[simp] theorem State.onTeam_expect (s : State) (n : Nat) (g : Team → Team) : (s.onTeam n g).expect = s.expect := rfl
@[simp] theorem State.onTeam_sent (s : State) (n : Nat) (g : Team → Team) : (s.onTeam n g).sent = s.sent := rfl
@[simp] theorem State.onTeam_inbox (s : State) (n : Nat) (g : Team → Team) : (s.onTeam n g).inbox = s.inbox := rfl
@[simp] theorem State.onTeam_agenda (s : State) (n : Nat) (g : Team → Team) : (s.onTeam n g).agenda = s.agenda := rfl
@[simp] theorem State.onTeam_ev (s : State) (n : Nat) (g : Team → Team) : (s.onTeam n g).ev = s.ev := rfl
@[simp] theorem State.onTeam_free (s : State) (n : Nat) (g : Team → Team) : (s.onTeam n g).free = s.free := rfl
@[simp] theorem State.onTeam_traps (s : State) (n : Nat) (g : Team → Team) : (s.onTeam n g).traps = s.traps := rfl
@[simp] theorem State.onTeam_next (s : State) (n : Nat) (g : Team → Team) : (s.onTeam n g).next = s.next := rfl

@[simp] theorem State.push_fir (s : State) (i : Instr) (a b c : Nat) (v : Word) : (s.push i a b c v).fir = s.fir := rfl
@[simp] theorem State.push_others (s : State) (i : Instr) (a b c : Nat) (v : Word) : (s.push i a b c v).others = s.others := rfl
@[simp] theorem State.push_fronds (s : State) (i : Instr) (a b c : Nat) (v : Word) : (s.push i a b c v).fronds = s.fronds := rfl
@[simp] theorem State.push_cores (s : State) (i : Instr) (a b c : Nat) (v : Word) : (s.push i a b c v).cores = s.cores := rfl
@[simp] theorem State.push_dies (s : State) (i : Instr) (a b c : Nat) (v : Word) : (s.push i a b c v).dies = s.dies := rfl
@[simp] theorem State.push_parts (s : State) (i : Instr) (a b c : Nat) (v : Word) : (s.push i a b c v).parts = s.parts := rfl
@[simp] theorem State.push_teams (s : State) (i : Instr) (a b c : Nat) (v : Word) : (s.push i a b c v).teams = s.teams := rfl
@[simp] theorem State.push_saved (s : State) (i : Instr) (a b c : Nat) (v : Word) : (s.push i a b c v).saved = s.saved := rfl
@[simp] theorem State.push_gangs (s : State) (i : Instr) (a b c : Nat) (v : Word) : (s.push i a b c v).gangs = s.gangs := rfl
@[simp] theorem State.push_mem (s : State) (i : Instr) (a b c : Nat) (v : Word) : (s.push i a b c v).mem = s.mem := rfl
@[simp] theorem State.push_late (s : State) (i : Instr) (a b c : Nat) (v : Word) : (s.push i a b c v).late = s.late := rfl
@[simp] theorem State.push_full (s : State) (i : Instr) (a b c : Nat) (v : Word) : (s.push i a b c v).full = s.full := rfl
@[simp] theorem State.push_retry (s : State) (i : Instr) (a b c : Nat) (v : Word) : (s.push i a b c v).retry = s.retry := rfl
@[simp] theorem State.push_filt (s : State) (i : Instr) (a b c : Nat) (v : Word) : (s.push i a b c v).filt = s.filt := rfl
@[simp] theorem State.push_ports (s : State) (i : Instr) (a b c : Nat) (v : Word) : (s.push i a b c v).ports = s.ports := rfl
@[simp] theorem State.push_dev (s : State) (i : Instr) (a b c : Nat) (v : Word) : (s.push i a b c v).dev = s.dev := rfl
@[simp] theorem State.push_lost (s : State) (i : Instr) (a b c : Nat) (v : Word) : (s.push i a b c v).lost = s.lost := rfl
@[simp] theorem State.push_streams (s : State) (i : Instr) (a b c : Nat) (v : Word) : (s.push i a b c v).streams = s.streams := rfl
@[simp] theorem State.push_unacked (s : State) (i : Instr) (a b c : Nat) (v : Word) : (s.push i a b c v).unacked = s.unacked := rfl
@[simp] theorem State.push_inreqs (s : State) (i : Instr) (a b c : Nat) (v : Word) : (s.push i a b c v).inreqs = s.inreqs := rfl
@[simp] theorem State.push_expect (s : State) (i : Instr) (a b c : Nat) (v : Word) : (s.push i a b c v).expect = s.expect := rfl
@[simp] theorem State.push_sent (s : State) (i : Instr) (a b c : Nat) (v : Word) : (s.push i a b c v).sent = s.sent := rfl
@[simp] theorem State.push_inbox (s : State) (i : Instr) (a b c : Nat) (v : Word) : (s.push i a b c v).inbox = s.inbox := rfl
@[simp] theorem State.push_agenda (s : State) (i : Instr) (a b c : Nat) (v : Word) : (s.push i a b c v).agenda = s.agenda ++ [{ op := i, a := a, b := b, c := c, v := v, l := [] }] := rfl
@[simp] theorem State.push_ev (s : State) (i : Instr) (a b c : Nat) (v : Word) : (s.push i a b c v).ev = s.ev := rfl
@[simp] theorem State.push_free (s : State) (i : Instr) (a b c : Nat) (v : Word) : (s.push i a b c v).free = s.free := rfl
@[simp] theorem State.push_traps (s : State) (i : Instr) (a b c : Nat) (v : Word) : (s.push i a b c v).traps = s.traps := rfl
@[simp] theorem State.push_next (s : State) (i : Instr) (a b c : Nat) (v : Word) : (s.push i a b c v).next = s.next := rfl

@[simp] theorem State.pushWith_fir (s : State) (op : Instr) (a b c : Nat) (v : Word) (l : List Word) : (s.pushWith op a b c v l).fir = s.fir := rfl
@[simp] theorem State.pushWith_others (s : State) (op : Instr) (a b c : Nat) (v : Word) (l : List Word) : (s.pushWith op a b c v l).others = s.others := rfl
@[simp] theorem State.pushWith_fronds (s : State) (op : Instr) (a b c : Nat) (v : Word) (l : List Word) : (s.pushWith op a b c v l).fronds = s.fronds := rfl
@[simp] theorem State.pushWith_cores (s : State) (op : Instr) (a b c : Nat) (v : Word) (l : List Word) : (s.pushWith op a b c v l).cores = s.cores := rfl
@[simp] theorem State.pushWith_dies (s : State) (op : Instr) (a b c : Nat) (v : Word) (l : List Word) : (s.pushWith op a b c v l).dies = s.dies := rfl
@[simp] theorem State.pushWith_parts (s : State) (op : Instr) (a b c : Nat) (v : Word) (l : List Word) : (s.pushWith op a b c v l).parts = s.parts := rfl
@[simp] theorem State.pushWith_teams (s : State) (op : Instr) (a b c : Nat) (v : Word) (l : List Word) : (s.pushWith op a b c v l).teams = s.teams := rfl
@[simp] theorem State.pushWith_saved (s : State) (op : Instr) (a b c : Nat) (v : Word) (l : List Word) : (s.pushWith op a b c v l).saved = s.saved := rfl
@[simp] theorem State.pushWith_gangs (s : State) (op : Instr) (a b c : Nat) (v : Word) (l : List Word) : (s.pushWith op a b c v l).gangs = s.gangs := rfl
@[simp] theorem State.pushWith_mem (s : State) (op : Instr) (a b c : Nat) (v : Word) (l : List Word) : (s.pushWith op a b c v l).mem = s.mem := rfl
@[simp] theorem State.pushWith_late (s : State) (op : Instr) (a b c : Nat) (v : Word) (l : List Word) : (s.pushWith op a b c v l).late = s.late := rfl
@[simp] theorem State.pushWith_full (s : State) (op : Instr) (a b c : Nat) (v : Word) (l : List Word) : (s.pushWith op a b c v l).full = s.full := rfl
@[simp] theorem State.pushWith_retry (s : State) (op : Instr) (a b c : Nat) (v : Word) (l : List Word) : (s.pushWith op a b c v l).retry = s.retry := rfl
@[simp] theorem State.pushWith_filt (s : State) (op : Instr) (a b c : Nat) (v : Word) (l : List Word) : (s.pushWith op a b c v l).filt = s.filt := rfl
@[simp] theorem State.pushWith_ports (s : State) (op : Instr) (a b c : Nat) (v : Word) (l : List Word) : (s.pushWith op a b c v l).ports = s.ports := rfl
@[simp] theorem State.pushWith_dev (s : State) (op : Instr) (a b c : Nat) (v : Word) (l : List Word) : (s.pushWith op a b c v l).dev = s.dev := rfl
@[simp] theorem State.pushWith_lost (s : State) (op : Instr) (a b c : Nat) (v : Word) (l : List Word) : (s.pushWith op a b c v l).lost = s.lost := rfl
@[simp] theorem State.pushWith_streams (s : State) (op : Instr) (a b c : Nat) (v : Word) (l : List Word) : (s.pushWith op a b c v l).streams = s.streams := rfl
@[simp] theorem State.pushWith_unacked (s : State) (op : Instr) (a b c : Nat) (v : Word) (l : List Word) : (s.pushWith op a b c v l).unacked = s.unacked := rfl
@[simp] theorem State.pushWith_inreqs (s : State) (op : Instr) (a b c : Nat) (v : Word) (l : List Word) : (s.pushWith op a b c v l).inreqs = s.inreqs := rfl
@[simp] theorem State.pushWith_expect (s : State) (op : Instr) (a b c : Nat) (v : Word) (l : List Word) : (s.pushWith op a b c v l).expect = s.expect := rfl
@[simp] theorem State.pushWith_sent (s : State) (op : Instr) (a b c : Nat) (v : Word) (l : List Word) : (s.pushWith op a b c v l).sent = s.sent := rfl
@[simp] theorem State.pushWith_inbox (s : State) (op : Instr) (a b c : Nat) (v : Word) (l : List Word) : (s.pushWith op a b c v l).inbox = s.inbox := rfl
@[simp] theorem State.pushWith_agenda (s : State) (op : Instr) (a b c : Nat) (v : Word) (l : List Word) : (s.pushWith op a b c v l).agenda = s.agenda ++ [{ op := op, a := a, b := b, c := c, v := v, l := l }] := rfl
@[simp] theorem State.pushWith_ev (s : State) (op : Instr) (a b c : Nat) (v : Word) (l : List Word) : (s.pushWith op a b c v l).ev = s.ev := rfl
@[simp] theorem State.pushWith_free (s : State) (op : Instr) (a b c : Nat) (v : Word) (l : List Word) : (s.pushWith op a b c v l).free = s.free := rfl
@[simp] theorem State.pushWith_traps (s : State) (op : Instr) (a b c : Nat) (v : Word) (l : List Word) : (s.pushWith op a b c v l).traps = s.traps := rfl
@[simp] theorem State.pushWith_next (s : State) (op : Instr) (a b c : Nat) (v : Word) (l : List Word) : (s.pushWith op a b c v l).next = s.next := rfl

@[simp] theorem State.dropped_fir (s : State) (p : Fin 16) (n : Nat) : (s.dropped p n).fir = s.fir := rfl
@[simp] theorem State.dropped_others (s : State) (p : Fin 16) (n : Nat) : (s.dropped p n).others = s.others := rfl
@[simp] theorem State.dropped_fronds (s : State) (p : Fin 16) (n : Nat) : (s.dropped p n).fronds = s.fronds := rfl
@[simp] theorem State.dropped_cores (s : State) (p : Fin 16) (n : Nat) : (s.dropped p n).cores = s.cores := rfl
@[simp] theorem State.dropped_dies (s : State) (p : Fin 16) (n : Nat) : (s.dropped p n).dies = s.dies := rfl
@[simp] theorem State.dropped_parts (s : State) (p : Fin 16) (n : Nat) : (s.dropped p n).parts = s.parts.set p { s.parts[p] with dropcnt := BitVec.ofNat 64 (min (s.parts[p].dropcnt.toNat + n) (2 ^ 64 - 1)) } := rfl
@[simp] theorem State.dropped_teams (s : State) (p : Fin 16) (n : Nat) : (s.dropped p n).teams = s.teams := rfl
@[simp] theorem State.dropped_saved (s : State) (p : Fin 16) (n : Nat) : (s.dropped p n).saved = s.saved := rfl
@[simp] theorem State.dropped_gangs (s : State) (p : Fin 16) (n : Nat) : (s.dropped p n).gangs = s.gangs := rfl
@[simp] theorem State.dropped_mem (s : State) (p : Fin 16) (n : Nat) : (s.dropped p n).mem = s.mem := rfl
@[simp] theorem State.dropped_late (s : State) (p : Fin 16) (n : Nat) : (s.dropped p n).late = s.late := rfl
@[simp] theorem State.dropped_full (s : State) (p : Fin 16) (n : Nat) : (s.dropped p n).full = s.full := rfl
@[simp] theorem State.dropped_retry (s : State) (p : Fin 16) (n : Nat) : (s.dropped p n).retry = s.retry := rfl
@[simp] theorem State.dropped_filt (s : State) (p : Fin 16) (n : Nat) : (s.dropped p n).filt = s.filt := rfl
@[simp] theorem State.dropped_ports (s : State) (p : Fin 16) (n : Nat) : (s.dropped p n).ports = s.ports := rfl
@[simp] theorem State.dropped_dev (s : State) (p : Fin 16) (n : Nat) : (s.dropped p n).dev = s.dev := rfl
@[simp] theorem State.dropped_lost (s : State) (p : Fin 16) (n : Nat) : (s.dropped p n).lost = s.lost := rfl
@[simp] theorem State.dropped_streams (s : State) (p : Fin 16) (n : Nat) : (s.dropped p n).streams = s.streams := rfl
@[simp] theorem State.dropped_unacked (s : State) (p : Fin 16) (n : Nat) : (s.dropped p n).unacked = s.unacked := rfl
@[simp] theorem State.dropped_inreqs (s : State) (p : Fin 16) (n : Nat) : (s.dropped p n).inreqs = s.inreqs := rfl
@[simp] theorem State.dropped_expect (s : State) (p : Fin 16) (n : Nat) : (s.dropped p n).expect = s.expect := rfl
@[simp] theorem State.dropped_sent (s : State) (p : Fin 16) (n : Nat) : (s.dropped p n).sent = s.sent := rfl
@[simp] theorem State.dropped_inbox (s : State) (p : Fin 16) (n : Nat) : (s.dropped p n).inbox = s.inbox := rfl
@[simp] theorem State.dropped_agenda (s : State) (p : Fin 16) (n : Nat) : (s.dropped p n).agenda = s.agenda := rfl
@[simp] theorem State.dropped_ev (s : State) (p : Fin 16) (n : Nat) : (s.dropped p n).ev = s.ev := rfl
@[simp] theorem State.dropped_free (s : State) (p : Fin 16) (n : Nat) : (s.dropped p n).free = s.free := rfl
@[simp] theorem State.dropped_traps (s : State) (p : Fin 16) (n : Nat) : (s.dropped p n).traps = s.traps := rfl
@[simp] theorem State.dropped_next (s : State) (p : Fin 16) (n : Nat) : (s.dropped p n).next = s.next := rfl

@[simp] theorem State.send_fir (s : State) (x : Sent) : (s.send x).fir = s.fir := rfl
@[simp] theorem State.send_others (s : State) (x : Sent) : (s.send x).others = s.others := rfl
@[simp] theorem State.send_fronds (s : State) (x : Sent) : (s.send x).fronds = s.fronds := rfl
@[simp] theorem State.send_cores (s : State) (x : Sent) : (s.send x).cores = s.cores := rfl
@[simp] theorem State.send_dies (s : State) (x : Sent) : (s.send x).dies = s.dies := rfl
@[simp] theorem State.send_parts (s : State) (x : Sent) : (s.send x).parts = s.parts := rfl
@[simp] theorem State.send_teams (s : State) (x : Sent) : (s.send x).teams = s.teams := rfl
@[simp] theorem State.send_saved (s : State) (x : Sent) : (s.send x).saved = s.saved := rfl
@[simp] theorem State.send_gangs (s : State) (x : Sent) : (s.send x).gangs = s.gangs := rfl
@[simp] theorem State.send_mem (s : State) (x : Sent) : (s.send x).mem = s.mem := rfl
@[simp] theorem State.send_late (s : State) (x : Sent) : (s.send x).late = s.late := rfl
@[simp] theorem State.send_full (s : State) (x : Sent) : (s.send x).full = s.full := rfl
@[simp] theorem State.send_retry (s : State) (x : Sent) : (s.send x).retry = s.retry := rfl
@[simp] theorem State.send_filt (s : State) (x : Sent) : (s.send x).filt = s.filt := rfl
@[simp] theorem State.send_ports (s : State) (x : Sent) : (s.send x).ports = s.ports := rfl
@[simp] theorem State.send_dev (s : State) (x : Sent) : (s.send x).dev = s.dev := rfl
@[simp] theorem State.send_lost (s : State) (x : Sent) : (s.send x).lost = s.lost := rfl
@[simp] theorem State.send_streams (s : State) (x : Sent) : (s.send x).streams = s.streams := rfl
@[simp] theorem State.send_unacked (s : State) (x : Sent) : (s.send x).unacked = s.unacked := rfl
@[simp] theorem State.send_inreqs (s : State) (x : Sent) : (s.send x).inreqs = s.inreqs := rfl
@[simp] theorem State.send_expect (s : State) (x : Sent) : (s.send x).expect = s.expect := rfl
@[simp] theorem State.send_sent (s : State) (x : Sent) : (s.send x).sent = s.sent ++ [x] := rfl
@[simp] theorem State.send_inbox (s : State) (x : Sent) : (s.send x).inbox = s.inbox := rfl
@[simp] theorem State.send_agenda (s : State) (x : Sent) : (s.send x).agenda = s.agenda := rfl
@[simp] theorem State.send_ev (s : State) (x : Sent) : (s.send x).ev = s.ev := rfl
@[simp] theorem State.send_free (s : State) (x : Sent) : (s.send x).free = s.free := rfl
@[simp] theorem State.send_traps (s : State) (x : Sent) : (s.send x).traps = s.traps := rfl
@[simp] theorem State.send_next (s : State) (x : Sent) : (s.send x).next = s.next := rfl

@[simp] theorem State.wx_fir (s : State) (n : BitVec 6) (w : Word) : (s.wx n w).fir = s.fir.wx n w := rfl
@[simp] theorem State.wx_others (s : State) (n : BitVec 6) (w : Word) : (s.wx n w).others = s.others := rfl
@[simp] theorem State.wx_fronds (s : State) (n : BitVec 6) (w : Word) : (s.wx n w).fronds = s.fronds := rfl
@[simp] theorem State.wx_cores (s : State) (n : BitVec 6) (w : Word) : (s.wx n w).cores = s.cores := rfl
@[simp] theorem State.wx_dies (s : State) (n : BitVec 6) (w : Word) : (s.wx n w).dies = s.dies := rfl
@[simp] theorem State.wx_parts (s : State) (n : BitVec 6) (w : Word) : (s.wx n w).parts = s.parts := rfl
@[simp] theorem State.wx_teams (s : State) (n : BitVec 6) (w : Word) : (s.wx n w).teams = s.teams := rfl
@[simp] theorem State.wx_saved (s : State) (n : BitVec 6) (w : Word) : (s.wx n w).saved = s.saved := rfl
@[simp] theorem State.wx_gangs (s : State) (n : BitVec 6) (w : Word) : (s.wx n w).gangs = s.gangs := rfl
@[simp] theorem State.wx_mem (s : State) (n : BitVec 6) (w : Word) : (s.wx n w).mem = s.mem := rfl
@[simp] theorem State.wx_late (s : State) (n : BitVec 6) (w : Word) : (s.wx n w).late = s.late := rfl
@[simp] theorem State.wx_full (s : State) (n : BitVec 6) (w : Word) : (s.wx n w).full = s.full := rfl
@[simp] theorem State.wx_retry (s : State) (n : BitVec 6) (w : Word) : (s.wx n w).retry = s.retry := rfl
@[simp] theorem State.wx_filt (s : State) (n : BitVec 6) (w : Word) : (s.wx n w).filt = s.filt := rfl
@[simp] theorem State.wx_ports (s : State) (n : BitVec 6) (w : Word) : (s.wx n w).ports = s.ports := rfl
@[simp] theorem State.wx_dev (s : State) (n : BitVec 6) (w : Word) : (s.wx n w).dev = s.dev := rfl
@[simp] theorem State.wx_lost (s : State) (n : BitVec 6) (w : Word) : (s.wx n w).lost = s.lost := rfl
@[simp] theorem State.wx_streams (s : State) (n : BitVec 6) (w : Word) : (s.wx n w).streams = s.streams := rfl
@[simp] theorem State.wx_unacked (s : State) (n : BitVec 6) (w : Word) : (s.wx n w).unacked = s.unacked := rfl
@[simp] theorem State.wx_inreqs (s : State) (n : BitVec 6) (w : Word) : (s.wx n w).inreqs = s.inreqs := rfl
@[simp] theorem State.wx_expect (s : State) (n : BitVec 6) (w : Word) : (s.wx n w).expect = s.expect := rfl
@[simp] theorem State.wx_sent (s : State) (n : BitVec 6) (w : Word) : (s.wx n w).sent = s.sent := rfl
@[simp] theorem State.wx_inbox (s : State) (n : BitVec 6) (w : Word) : (s.wx n w).inbox = s.inbox := rfl
@[simp] theorem State.wx_agenda (s : State) (n : BitVec 6) (w : Word) : (s.wx n w).agenda = s.agenda := rfl
@[simp] theorem State.wx_ev (s : State) (n : BitVec 6) (w : Word) : (s.wx n w).ev = s.ev := rfl
@[simp] theorem State.wx_free (s : State) (n : BitVec 6) (w : Word) : (s.wx n w).free = s.free := rfl
@[simp] theorem State.wx_traps (s : State) (n : BitVec 6) (w : Word) : (s.wx n w).traps = s.traps := rfl
@[simp] theorem State.wx_next (s : State) (n : BitVec 6) (w : Word) : (s.wx n w).next = s.next := rfl

@[simp] theorem State.wv_fir (s : State) (n : BitVec 5) (w : Vec) : (s.wv n w).fir = s.fir.wv n w := rfl
@[simp] theorem State.wv_others (s : State) (n : BitVec 5) (w : Vec) : (s.wv n w).others = s.others := rfl
@[simp] theorem State.wv_fronds (s : State) (n : BitVec 5) (w : Vec) : (s.wv n w).fronds = s.fronds := rfl
@[simp] theorem State.wv_cores (s : State) (n : BitVec 5) (w : Vec) : (s.wv n w).cores = s.cores := rfl
@[simp] theorem State.wv_dies (s : State) (n : BitVec 5) (w : Vec) : (s.wv n w).dies = s.dies := rfl
@[simp] theorem State.wv_parts (s : State) (n : BitVec 5) (w : Vec) : (s.wv n w).parts = s.parts := rfl
@[simp] theorem State.wv_teams (s : State) (n : BitVec 5) (w : Vec) : (s.wv n w).teams = s.teams := rfl
@[simp] theorem State.wv_saved (s : State) (n : BitVec 5) (w : Vec) : (s.wv n w).saved = s.saved := rfl
@[simp] theorem State.wv_gangs (s : State) (n : BitVec 5) (w : Vec) : (s.wv n w).gangs = s.gangs := rfl
@[simp] theorem State.wv_mem (s : State) (n : BitVec 5) (w : Vec) : (s.wv n w).mem = s.mem := rfl
@[simp] theorem State.wv_late (s : State) (n : BitVec 5) (w : Vec) : (s.wv n w).late = s.late := rfl
@[simp] theorem State.wv_full (s : State) (n : BitVec 5) (w : Vec) : (s.wv n w).full = s.full := rfl
@[simp] theorem State.wv_retry (s : State) (n : BitVec 5) (w : Vec) : (s.wv n w).retry = s.retry := rfl
@[simp] theorem State.wv_filt (s : State) (n : BitVec 5) (w : Vec) : (s.wv n w).filt = s.filt := rfl
@[simp] theorem State.wv_ports (s : State) (n : BitVec 5) (w : Vec) : (s.wv n w).ports = s.ports := rfl
@[simp] theorem State.wv_dev (s : State) (n : BitVec 5) (w : Vec) : (s.wv n w).dev = s.dev := rfl
@[simp] theorem State.wv_lost (s : State) (n : BitVec 5) (w : Vec) : (s.wv n w).lost = s.lost := rfl
@[simp] theorem State.wv_streams (s : State) (n : BitVec 5) (w : Vec) : (s.wv n w).streams = s.streams := rfl
@[simp] theorem State.wv_unacked (s : State) (n : BitVec 5) (w : Vec) : (s.wv n w).unacked = s.unacked := rfl
@[simp] theorem State.wv_inreqs (s : State) (n : BitVec 5) (w : Vec) : (s.wv n w).inreqs = s.inreqs := rfl
@[simp] theorem State.wv_expect (s : State) (n : BitVec 5) (w : Vec) : (s.wv n w).expect = s.expect := rfl
@[simp] theorem State.wv_sent (s : State) (n : BitVec 5) (w : Vec) : (s.wv n w).sent = s.sent := rfl
@[simp] theorem State.wv_inbox (s : State) (n : BitVec 5) (w : Vec) : (s.wv n w).inbox = s.inbox := rfl
@[simp] theorem State.wv_agenda (s : State) (n : BitVec 5) (w : Vec) : (s.wv n w).agenda = s.agenda := rfl
@[simp] theorem State.wv_ev (s : State) (n : BitVec 5) (w : Vec) : (s.wv n w).ev = s.ev := rfl
@[simp] theorem State.wv_free (s : State) (n : BitVec 5) (w : Vec) : (s.wv n w).free = s.free := rfl
@[simp] theorem State.wv_traps (s : State) (n : BitVec 5) (w : Vec) : (s.wv n w).traps = s.traps := rfl
@[simp] theorem State.wv_next (s : State) (n : BitVec 5) (w : Vec) : (s.wv n w).next = s.next := rfl

@[simp] theorem State.wk_fir (s : State) (n : BitVec 3) (w : Word) : (s.wk n w).fir = s.fir.wk n w := rfl
@[simp] theorem State.wk_others (s : State) (n : BitVec 3) (w : Word) : (s.wk n w).others = s.others := rfl
@[simp] theorem State.wk_fronds (s : State) (n : BitVec 3) (w : Word) : (s.wk n w).fronds = s.fronds := rfl
@[simp] theorem State.wk_cores (s : State) (n : BitVec 3) (w : Word) : (s.wk n w).cores = s.cores := rfl
@[simp] theorem State.wk_dies (s : State) (n : BitVec 3) (w : Word) : (s.wk n w).dies = s.dies := rfl
@[simp] theorem State.wk_parts (s : State) (n : BitVec 3) (w : Word) : (s.wk n w).parts = s.parts := rfl
@[simp] theorem State.wk_teams (s : State) (n : BitVec 3) (w : Word) : (s.wk n w).teams = s.teams := rfl
@[simp] theorem State.wk_saved (s : State) (n : BitVec 3) (w : Word) : (s.wk n w).saved = s.saved := rfl
@[simp] theorem State.wk_gangs (s : State) (n : BitVec 3) (w : Word) : (s.wk n w).gangs = s.gangs := rfl
@[simp] theorem State.wk_mem (s : State) (n : BitVec 3) (w : Word) : (s.wk n w).mem = s.mem := rfl
@[simp] theorem State.wk_late (s : State) (n : BitVec 3) (w : Word) : (s.wk n w).late = s.late := rfl
@[simp] theorem State.wk_full (s : State) (n : BitVec 3) (w : Word) : (s.wk n w).full = s.full := rfl
@[simp] theorem State.wk_retry (s : State) (n : BitVec 3) (w : Word) : (s.wk n w).retry = s.retry := rfl
@[simp] theorem State.wk_filt (s : State) (n : BitVec 3) (w : Word) : (s.wk n w).filt = s.filt := rfl
@[simp] theorem State.wk_ports (s : State) (n : BitVec 3) (w : Word) : (s.wk n w).ports = s.ports := rfl
@[simp] theorem State.wk_dev (s : State) (n : BitVec 3) (w : Word) : (s.wk n w).dev = s.dev := rfl
@[simp] theorem State.wk_lost (s : State) (n : BitVec 3) (w : Word) : (s.wk n w).lost = s.lost := rfl
@[simp] theorem State.wk_streams (s : State) (n : BitVec 3) (w : Word) : (s.wk n w).streams = s.streams := rfl
@[simp] theorem State.wk_unacked (s : State) (n : BitVec 3) (w : Word) : (s.wk n w).unacked = s.unacked := rfl
@[simp] theorem State.wk_inreqs (s : State) (n : BitVec 3) (w : Word) : (s.wk n w).inreqs = s.inreqs := rfl
@[simp] theorem State.wk_expect (s : State) (n : BitVec 3) (w : Word) : (s.wk n w).expect = s.expect := rfl
@[simp] theorem State.wk_sent (s : State) (n : BitVec 3) (w : Word) : (s.wk n w).sent = s.sent := rfl
@[simp] theorem State.wk_inbox (s : State) (n : BitVec 3) (w : Word) : (s.wk n w).inbox = s.inbox := rfl
@[simp] theorem State.wk_agenda (s : State) (n : BitVec 3) (w : Word) : (s.wk n w).agenda = s.agenda := rfl
@[simp] theorem State.wk_ev (s : State) (n : BitVec 3) (w : Word) : (s.wk n w).ev = s.ev := rfl
@[simp] theorem State.wk_free (s : State) (n : BitVec 3) (w : Word) : (s.wk n w).free = s.free := rfl
@[simp] theorem State.wk_traps (s : State) (n : BitVec 3) (w : Word) : (s.wk n w).traps = s.traps := rfl
@[simp] theorem State.wk_next (s : State) (n : BitVec 3) (w : Word) : (s.wk n w).next = s.next := rfl

@[simp] theorem State.homeDone_fir (s : State) (keys : List Nat) (m : Mem) : (s.homeDone keys m).fir = s.fir := rfl
@[simp] theorem State.homeDone_others (s : State) (keys : List Nat) (m : Mem) : (s.homeDone keys m).others = s.others := rfl
@[simp] theorem State.homeDone_fronds (s : State) (keys : List Nat) (m : Mem) : (s.homeDone keys m).fronds = s.fronds := rfl
@[simp] theorem State.homeDone_cores (s : State) (keys : List Nat) (m : Mem) : (s.homeDone keys m).cores = s.cores := rfl
@[simp] theorem State.homeDone_dies (s : State) (keys : List Nat) (m : Mem) : (s.homeDone keys m).dies = s.dies := rfl
@[simp] theorem State.homeDone_parts (s : State) (keys : List Nat) (m : Mem) : (s.homeDone keys m).parts = s.parts := rfl
@[simp] theorem State.homeDone_teams (s : State) (keys : List Nat) (m : Mem) : (s.homeDone keys m).teams = s.teams := rfl
@[simp] theorem State.homeDone_saved (s : State) (keys : List Nat) (m : Mem) : (s.homeDone keys m).saved = s.saved := rfl
@[simp] theorem State.homeDone_gangs (s : State) (keys : List Nat) (m : Mem) : (s.homeDone keys m).gangs = s.gangs := rfl
@[simp] theorem State.homeDone_mem (s : State) (keys : List Nat) (m : Mem) : (s.homeDone keys m).mem = m := rfl
@[simp] theorem State.homeDone_late (s : State) (keys : List Nat) (m : Mem) : (s.homeDone keys m).late = hideLate (dwordMasks keys) s.late := rfl
@[simp] theorem State.homeDone_full (s : State) (keys : List Nat) (m : Mem) : (s.homeDone keys m).full = s.full := rfl
@[simp] theorem State.homeDone_retry (s : State) (keys : List Nat) (m : Mem) : (s.homeDone keys m).retry = s.retry := rfl
@[simp] theorem State.homeDone_filt (s : State) (keys : List Nat) (m : Mem) : (s.homeDone keys m).filt = s.filt := rfl
@[simp] theorem State.homeDone_ports (s : State) (keys : List Nat) (m : Mem) : (s.homeDone keys m).ports = s.ports := rfl
@[simp] theorem State.homeDone_dev (s : State) (keys : List Nat) (m : Mem) : (s.homeDone keys m).dev = s.dev := rfl
@[simp] theorem State.homeDone_lost (s : State) (keys : List Nat) (m : Mem) : (s.homeDone keys m).lost = s.lost := rfl
@[simp] theorem State.homeDone_streams (s : State) (keys : List Nat) (m : Mem) : (s.homeDone keys m).streams = s.streams := rfl
@[simp] theorem State.homeDone_unacked (s : State) (keys : List Nat) (m : Mem) : (s.homeDone keys m).unacked = s.unacked := rfl
@[simp] theorem State.homeDone_inreqs (s : State) (keys : List Nat) (m : Mem) : (s.homeDone keys m).inreqs = s.inreqs := rfl
@[simp] theorem State.homeDone_expect (s : State) (keys : List Nat) (m : Mem) : (s.homeDone keys m).expect = s.expect := rfl
@[simp] theorem State.homeDone_sent (s : State) (keys : List Nat) (m : Mem) : (s.homeDone keys m).sent = s.sent := rfl
@[simp] theorem State.homeDone_inbox (s : State) (keys : List Nat) (m : Mem) : (s.homeDone keys m).inbox = s.inbox := rfl
@[simp] theorem State.homeDone_agenda (s : State) (keys : List Nat) (m : Mem) : (s.homeDone keys m).agenda = s.agenda := rfl
@[simp] theorem State.homeDone_ev (s : State) (keys : List Nat) (m : Mem) : (s.homeDone keys m).ev = s.ev := rfl
@[simp] theorem State.homeDone_free (s : State) (keys : List Nat) (m : Mem) : (s.homeDone keys m).free = s.free := rfl
@[simp] theorem State.homeDone_traps (s : State) (keys : List Nat) (m : Mem) : (s.homeDone keys m).traps = s.traps := rfl
@[simp] theorem State.homeDone_next (s : State) (keys : List Nat) (m : Mem) : (s.homeDone keys m).next = s.next := rfl

@[simp] theorem State.homePut_fir (s : State) (h : Fin 1024) (sc : Scope) (pub : Bool) (keys : List Nat) (m : Mem) : (s.homePut h sc pub keys m).fir = s.fir := by unfold State.homePut; split <;> rfl
@[simp] theorem State.homePut_others (s : State) (h : Fin 1024) (sc : Scope) (pub : Bool) (keys : List Nat) (m : Mem) : (s.homePut h sc pub keys m).others = s.others := by unfold State.homePut; split <;> rfl
@[simp] theorem State.homePut_fronds (s : State) (h : Fin 1024) (sc : Scope) (pub : Bool) (keys : List Nat) (m : Mem) : (s.homePut h sc pub keys m).fronds = s.fronds := by unfold State.homePut; split <;> rfl
@[simp] theorem State.homePut_cores (s : State) (h : Fin 1024) (sc : Scope) (pub : Bool) (keys : List Nat) (m : Mem) : (s.homePut h sc pub keys m).cores = s.cores := by unfold State.homePut; split <;> rfl
@[simp] theorem State.homePut_dies (s : State) (h : Fin 1024) (sc : Scope) (pub : Bool) (keys : List Nat) (m : Mem) : (s.homePut h sc pub keys m).dies = s.dies := by unfold State.homePut; split <;> rfl
@[simp] theorem State.homePut_parts (s : State) (h : Fin 1024) (sc : Scope) (pub : Bool) (keys : List Nat) (m : Mem) : (s.homePut h sc pub keys m).parts = s.parts := by unfold State.homePut; split <;> rfl
@[simp] theorem State.homePut_teams (s : State) (h : Fin 1024) (sc : Scope) (pub : Bool) (keys : List Nat) (m : Mem) : (s.homePut h sc pub keys m).teams = s.teams := by unfold State.homePut; split <;> rfl
@[simp] theorem State.homePut_saved (s : State) (h : Fin 1024) (sc : Scope) (pub : Bool) (keys : List Nat) (m : Mem) : (s.homePut h sc pub keys m).saved = s.saved := by unfold State.homePut; split <;> rfl
@[simp] theorem State.homePut_gangs (s : State) (h : Fin 1024) (sc : Scope) (pub : Bool) (keys : List Nat) (m : Mem) : (s.homePut h sc pub keys m).gangs = s.gangs := by unfold State.homePut; split <;> rfl
@[simp] theorem State.homePut_mem (s : State) (h : Fin 1024) (sc : Scope) (pub : Bool) (keys : List Nat) (m : Mem) : (s.homePut h sc pub keys m).mem = m := by unfold State.homePut; split <;> rfl
@[simp] theorem State.homePut_full (s : State) (h : Fin 1024) (sc : Scope) (pub : Bool) (keys : List Nat) (m : Mem) : (s.homePut h sc pub keys m).full = s.full := by unfold State.homePut; split <;> rfl
@[simp] theorem State.homePut_retry (s : State) (h : Fin 1024) (sc : Scope) (pub : Bool) (keys : List Nat) (m : Mem) : (s.homePut h sc pub keys m).retry = s.retry := by unfold State.homePut; split <;> rfl
@[simp] theorem State.homePut_filt (s : State) (h : Fin 1024) (sc : Scope) (pub : Bool) (keys : List Nat) (m : Mem) : (s.homePut h sc pub keys m).filt = s.filt := by unfold State.homePut; split <;> rfl
@[simp] theorem State.homePut_ports (s : State) (h : Fin 1024) (sc : Scope) (pub : Bool) (keys : List Nat) (m : Mem) : (s.homePut h sc pub keys m).ports = s.ports := by unfold State.homePut; split <;> rfl
@[simp] theorem State.homePut_dev (s : State) (h : Fin 1024) (sc : Scope) (pub : Bool) (keys : List Nat) (m : Mem) : (s.homePut h sc pub keys m).dev = s.dev := by unfold State.homePut; split <;> rfl
@[simp] theorem State.homePut_lost (s : State) (h : Fin 1024) (sc : Scope) (pub : Bool) (keys : List Nat) (m : Mem) : (s.homePut h sc pub keys m).lost = s.lost := by unfold State.homePut; split <;> rfl
@[simp] theorem State.homePut_streams (s : State) (h : Fin 1024) (sc : Scope) (pub : Bool) (keys : List Nat) (m : Mem) : (s.homePut h sc pub keys m).streams = s.streams := by unfold State.homePut; split <;> rfl
@[simp] theorem State.homePut_unacked (s : State) (h : Fin 1024) (sc : Scope) (pub : Bool) (keys : List Nat) (m : Mem) : (s.homePut h sc pub keys m).unacked = s.unacked := by unfold State.homePut; split <;> rfl
@[simp] theorem State.homePut_inreqs (s : State) (h : Fin 1024) (sc : Scope) (pub : Bool) (keys : List Nat) (m : Mem) : (s.homePut h sc pub keys m).inreqs = s.inreqs := by unfold State.homePut; split <;> rfl
@[simp] theorem State.homePut_expect (s : State) (h : Fin 1024) (sc : Scope) (pub : Bool) (keys : List Nat) (m : Mem) : (s.homePut h sc pub keys m).expect = s.expect := by unfold State.homePut; split <;> rfl
@[simp] theorem State.homePut_sent (s : State) (h : Fin 1024) (sc : Scope) (pub : Bool) (keys : List Nat) (m : Mem) : (s.homePut h sc pub keys m).sent = s.sent := by unfold State.homePut; split <;> rfl
@[simp] theorem State.homePut_inbox (s : State) (h : Fin 1024) (sc : Scope) (pub : Bool) (keys : List Nat) (m : Mem) : (s.homePut h sc pub keys m).inbox = s.inbox := by unfold State.homePut; split <;> rfl
@[simp] theorem State.homePut_agenda (s : State) (h : Fin 1024) (sc : Scope) (pub : Bool) (keys : List Nat) (m : Mem) : (s.homePut h sc pub keys m).agenda = s.agenda := by unfold State.homePut; split <;> rfl
@[simp] theorem State.homePut_ev (s : State) (h : Fin 1024) (sc : Scope) (pub : Bool) (keys : List Nat) (m : Mem) : (s.homePut h sc pub keys m).ev = s.ev := by unfold State.homePut; split <;> rfl
@[simp] theorem State.homePut_free (s : State) (h : Fin 1024) (sc : Scope) (pub : Bool) (keys : List Nat) (m : Mem) : (s.homePut h sc pub keys m).free = s.free := by unfold State.homePut; split <;> rfl
@[simp] theorem State.homePut_traps (s : State) (h : Fin 1024) (sc : Scope) (pub : Bool) (keys : List Nat) (m : Mem) : (s.homePut h sc pub keys m).traps = s.traps := by unfold State.homePut; split <;> rfl
@[simp] theorem State.homePut_next (s : State) (h : Fin 1024) (sc : Scope) (pub : Bool) (keys : List Nat) (m : Mem) : (s.homePut h sc pub keys m).next = s.next := by unfold State.homePut; split <;> rfl

@[simp] theorem State.seenBy_fir (s : State) (h : Fin 1024) (key n : Nat) : (s.seenBy h key n).fir = s.fir := rfl
@[simp] theorem State.seenBy_others (s : State) (h : Fin 1024) (key n : Nat) : (s.seenBy h key n).others = s.others := rfl
@[simp] theorem State.seenBy_fronds (s : State) (h : Fin 1024) (key n : Nat) : (s.seenBy h key n).fronds = s.fronds := rfl
@[simp] theorem State.seenBy_cores (s : State) (h : Fin 1024) (key n : Nat) : (s.seenBy h key n).cores = s.cores := rfl
@[simp] theorem State.seenBy_dies (s : State) (h : Fin 1024) (key n : Nat) : (s.seenBy h key n).dies = s.dies := rfl
@[simp] theorem State.seenBy_parts (s : State) (h : Fin 1024) (key n : Nat) : (s.seenBy h key n).parts = s.parts := rfl
@[simp] theorem State.seenBy_teams (s : State) (h : Fin 1024) (key n : Nat) : (s.seenBy h key n).teams = s.teams := rfl
@[simp] theorem State.seenBy_saved (s : State) (h : Fin 1024) (key n : Nat) : (s.seenBy h key n).saved = s.saved := rfl
@[simp] theorem State.seenBy_gangs (s : State) (h : Fin 1024) (key n : Nat) : (s.seenBy h key n).gangs = s.gangs := rfl
@[simp] theorem State.seenBy_mem (s : State) (h : Fin 1024) (key n : Nat) : (s.seenBy h key n).mem = s.mem := rfl
@[simp] theorem State.seenBy_full (s : State) (h : Fin 1024) (key n : Nat) : (s.seenBy h key n).full = s.full := rfl
@[simp] theorem State.seenBy_retry (s : State) (h : Fin 1024) (key n : Nat) : (s.seenBy h key n).retry = s.retry := rfl
@[simp] theorem State.seenBy_filt (s : State) (h : Fin 1024) (key n : Nat) : (s.seenBy h key n).filt = s.filt := rfl
@[simp] theorem State.seenBy_ports (s : State) (h : Fin 1024) (key n : Nat) : (s.seenBy h key n).ports = s.ports := rfl
@[simp] theorem State.seenBy_dev (s : State) (h : Fin 1024) (key n : Nat) : (s.seenBy h key n).dev = s.dev := rfl
@[simp] theorem State.seenBy_lost (s : State) (h : Fin 1024) (key n : Nat) : (s.seenBy h key n).lost = s.lost := rfl
@[simp] theorem State.seenBy_streams (s : State) (h : Fin 1024) (key n : Nat) : (s.seenBy h key n).streams = s.streams := rfl
@[simp] theorem State.seenBy_unacked (s : State) (h : Fin 1024) (key n : Nat) : (s.seenBy h key n).unacked = s.unacked := rfl
@[simp] theorem State.seenBy_inreqs (s : State) (h : Fin 1024) (key n : Nat) : (s.seenBy h key n).inreqs = s.inreqs := rfl
@[simp] theorem State.seenBy_expect (s : State) (h : Fin 1024) (key n : Nat) : (s.seenBy h key n).expect = s.expect := rfl
@[simp] theorem State.seenBy_sent (s : State) (h : Fin 1024) (key n : Nat) : (s.seenBy h key n).sent = s.sent := rfl
@[simp] theorem State.seenBy_inbox (s : State) (h : Fin 1024) (key n : Nat) : (s.seenBy h key n).inbox = s.inbox := rfl
@[simp] theorem State.seenBy_agenda (s : State) (h : Fin 1024) (key n : Nat) : (s.seenBy h key n).agenda = s.agenda := rfl
@[simp] theorem State.seenBy_ev (s : State) (h : Fin 1024) (key n : Nat) : (s.seenBy h key n).ev = s.ev := rfl
@[simp] theorem State.seenBy_free (s : State) (h : Fin 1024) (key n : Nat) : (s.seenBy h key n).free = s.free := rfl
@[simp] theorem State.seenBy_traps (s : State) (h : Fin 1024) (key n : Nat) : (s.seenBy h key n).traps = s.traps := rfl
@[simp] theorem State.seenBy_next (s : State) (h : Fin 1024) (key n : Nat) : (s.seenBy h key n).next = s.next := rfl

@[simp] theorem State.renew_fir (s : State) (h : Fin 1024) : (s.renew h).fir = s.fir := rfl
@[simp] theorem State.renew_others (s : State) (h : Fin 1024) : (s.renew h).others = s.others := rfl
@[simp] theorem State.renew_cores (s : State) (h : Fin 1024) : (s.renew h).cores = s.cores := rfl
@[simp] theorem State.renew_dies (s : State) (h : Fin 1024) : (s.renew h).dies = s.dies := rfl
@[simp] theorem State.renew_parts (s : State) (h : Fin 1024) : (s.renew h).parts = s.parts := rfl
@[simp] theorem State.renew_teams (s : State) (h : Fin 1024) : (s.renew h).teams = s.teams := rfl
@[simp] theorem State.renew_saved (s : State) (h : Fin 1024) : (s.renew h).saved = s.saved := rfl
@[simp] theorem State.renew_gangs (s : State) (h : Fin 1024) : (s.renew h).gangs = s.gangs := rfl
@[simp] theorem State.renew_mem (s : State) (h : Fin 1024) : (s.renew h).mem = s.mem := rfl
@[simp] theorem State.renew_full (s : State) (h : Fin 1024) : (s.renew h).full = s.full := rfl
@[simp] theorem State.renew_retry (s : State) (h : Fin 1024) : (s.renew h).retry = s.retry := rfl
@[simp] theorem State.renew_filt (s : State) (h : Fin 1024) : (s.renew h).filt = s.filt := rfl
@[simp] theorem State.renew_ports (s : State) (h : Fin 1024) : (s.renew h).ports = s.ports := rfl
@[simp] theorem State.renew_dev (s : State) (h : Fin 1024) : (s.renew h).dev = s.dev := rfl
@[simp] theorem State.renew_lost (s : State) (h : Fin 1024) : (s.renew h).lost = s.lost := rfl
@[simp] theorem State.renew_streams (s : State) (h : Fin 1024) : (s.renew h).streams = s.streams := rfl
@[simp] theorem State.renew_unacked (s : State) (h : Fin 1024) : (s.renew h).unacked = s.unacked := rfl
@[simp] theorem State.renew_inreqs (s : State) (h : Fin 1024) : (s.renew h).inreqs = s.inreqs := rfl
@[simp] theorem State.renew_expect (s : State) (h : Fin 1024) : (s.renew h).expect = s.expect := rfl
@[simp] theorem State.renew_sent (s : State) (h : Fin 1024) : (s.renew h).sent = s.sent := rfl
@[simp] theorem State.renew_inbox (s : State) (h : Fin 1024) : (s.renew h).inbox = s.inbox := rfl
@[simp] theorem State.renew_agenda (s : State) (h : Fin 1024) : (s.renew h).agenda = s.agenda := rfl
@[simp] theorem State.renew_ev (s : State) (h : Fin 1024) : (s.renew h).ev = s.ev := rfl
@[simp] theorem State.renew_traps (s : State) (h : Fin 1024) : (s.renew h).traps = s.traps := rfl
@[simp] theorem State.renew_next (s : State) (h : Fin 1024) : (s.renew h).next = s.next := rfl

@[simp] theorem Firing.wx_live (f : Firing) (n : BitVec 6) (w : Word) : (f.wx n w).live = f.live := by unfold Firing.wx; split <;> rfl
@[simp] theorem Firing.wx_adm (f : Firing) (n : BitVec 6) (w : Word) : (f.wx n w).adm = f.adm := by unfold Firing.wx; split <;> rfl
@[simp] theorem Firing.wx_core (f : Firing) (n : BitVec 6) (w : Word) : (f.wx n w).core = f.core := by unfold Firing.wx; split <;> rfl
@[simp] theorem Firing.wx_part (f : Firing) (n : BitVec 6) (w : Word) : (f.wx n w).part = f.part := by unfold Firing.wx; split <;> rfl
@[simp] theorem Firing.wx_tid (f : Firing) (n : BitVec 6) (w : Word) : (f.wx n w).tid = f.tid := by unfold Firing.wx; split <;> rfl
@[simp] theorem Firing.wx_fid (f : Firing) (n : BitVec 6) (w : Word) : (f.wx n w).fid = f.fid := by unfold Firing.wx; split <;> rfl
@[simp] theorem Firing.wx_fcnt (f : Firing) (n : BitVec 6) (w : Word) : (f.wx n w).fcnt = f.fcnt := by unfold Firing.wx; split <;> rfl
@[simp] theorem Firing.wx_fparm (f : Firing) (n : BitVec 6) (w : Word) : (f.wx n w).fparm = f.fparm := by unfold Firing.wx; split <;> rfl
@[simp] theorem Firing.wx_dem (f : Firing) (n : BitVec 6) (w : Word) : (f.wx n w).dem = f.dem := by unfold Firing.wx; split <;> rfl
@[simp] theorem Firing.wx_spbase (f : Firing) (n : BitVec 6) (w : Word) : (f.wx n w).spbase = f.spbase := by unfold Firing.wx; split <;> rfl
@[simp] theorem Firing.wx_prio (f : Firing) (n : BitVec 6) (w : Word) : (f.wx n w).prio = f.prio := by unfold Firing.wx; split <;> rfl
@[simp] theorem Firing.wx_aged (f : Firing) (n : BitVec 6) (w : Word) : (f.wx n w).aged = f.aged := by unfold Firing.wx; split <;> rfl
@[simp] theorem Firing.wx_msg (f : Firing) (n : BitVec 6) (w : Word) : (f.wx n w).msg = f.msg := by unfold Firing.wx; split <;> rfl
@[simp] theorem Firing.wx_pc (f : Firing) (n : BitVec 6) (w : Word) : (f.wx n w).pc = f.pc := by unfold Firing.wx; split <;> rfl
@[simp] theorem Firing.wx_v (f : Firing) (n : BitVec 6) (w : Word) : (f.wx n w).v = f.v := by unfold Firing.wx; split <;> rfl
@[simp] theorem Firing.wx_k (f : Firing) (n : BitVec 6) (w : Word) : (f.wx n w).k = f.k := by unfold Firing.wx; split <;> rfl
@[simp] theorem Firing.wx_m (f : Firing) (n : BitVec 6) (w : Word) : (f.wx n w).m = f.m := by unfold Firing.wx; split <;> rfl
@[simp] theorem Firing.wx_acc (f : Firing) (n : BitVec 6) (w : Word) : (f.wx n w).acc = f.acc := by unfold Firing.wx; split <;> rfl
@[simp] theorem Firing.wx_accf (f : Firing) (n : BitVec 6) (w : Word) : (f.wx n w).accf = f.accf := by unfold Firing.wx; split <;> rfl
@[simp] theorem Firing.wx_b (f : Firing) (n : BitVec 6) (w : Word) : (f.wx n w).b = f.b := by unfold Firing.wx; split <;> rfl
@[simp] theorem Firing.wx_fstat (f : Firing) (n : BitVec 6) (w : Word) : (f.wx n w).fstat = f.fstat := by unfold Firing.wx; split <;> rfl
@[simp] theorem Firing.wx_fflags (f : Firing) (n : BitVec 6) (w : Word) : (f.wx n w).fflags = f.fflags := by unfold Firing.wx; split <;> rfl
@[simp] theorem Firing.wx_frm (f : Firing) (n : BitVec 6) (w : Word) : (f.wx n w).frm = f.frm := by unfold Firing.wx; split <;> rfl
@[simp] theorem Firing.wx_srix (f : Firing) (n : BitVec 6) (w : Word) : (f.wx n w).srix = f.srix := by unfold Firing.wx; split <;> rfl
@[simp] theorem Firing.wx_utvec (f : Firing) (n : BitVec 6) (w : Word) : (f.wx n w).utvec = f.utvec := by unfold Firing.wx; split <;> rfl
@[simp] theorem Firing.wx_tcause (f : Firing) (n : BitVec 6) (w : Word) : (f.wx n w).tcause = f.tcause := by unfold Firing.wx; split <;> rfl
@[simp] theorem Firing.wx_tval (f : Firing) (n : BitVec 6) (w : Word) : (f.wx n w).tval = f.tval := by unfold Firing.wx; split <;> rfl
@[simp] theorem Firing.wx_tpc (f : Firing) (n : BitVec 6) (w : Word) : (f.wx n w).tpc = f.tpc := by unfold Firing.wx; split <;> rfl
@[simp] theorem Firing.wx_tstat (f : Firing) (n : BitVec 6) (w : Word) : (f.wx n w).tstat = f.tstat := by unfold Firing.wx; split <;> rfl
@[simp] theorem Firing.wx_trepw (f : Firing) (n : BitVec 6) (w : Word) : (f.wx n w).trepw = f.trepw := by unfold Firing.wx; split <;> rfl
@[simp] theorem Firing.wx_trepf (f : Firing) (n : BitVec 6) (w : Word) : (f.wx n w).trepf = f.trepf := by unfold Firing.wx; split <;> rfl
@[simp] theorem Firing.wx_tfmt (f : Firing) (n : BitVec 6) (w : Word) : (f.wx n w).tfmt = f.tfmt := by unfold Firing.wx; split <;> rfl
@[simp] theorem Firing.wx_qlim (f : Firing) (n : BitVec 6) (w : Word) : (f.wx n w).qlim = f.qlim := by unfold Firing.wx; split <;> rfl
@[simp] theorem Firing.wx_fewlim (f : Firing) (n : BitVec 6) (w : Word) : (f.wx n w).fewlim = f.fewlim := by unfold Firing.wx; split <;> rfl
@[simp] theorem Firing.wx_seedlo (f : Firing) (n : BitVec 6) (w : Word) : (f.wx n w).seedlo = f.seedlo := by unfold Firing.wx; split <;> rfl
@[simp] theorem Firing.wx_seedhi (f : Firing) (n : BitVec 6) (w : Word) : (f.wx n w).seedhi = f.seedhi := by unfold Firing.wx; split <;> rfl
@[simp] theorem Firing.wx_sstream (f : Firing) (n : BitVec 6) (w : Word) : (f.wx n w).sstream = f.sstream := by unfold Firing.wx; split <;> rfl
@[simp] theorem Firing.wx_tshape (f : Firing) (n : BitVec 6) (w : Word) : (f.wx n w).tshape = f.tshape := by unfold Firing.wx; split <;> rfl
@[simp] theorem Firing.wx_pfx (f : Firing) (n : BitVec 6) (w : Word) : (f.wx n w).pfx = f.pfx := by unfold Firing.wx; split <;> rfl
@[simp] theorem Firing.wx_repw (f : Firing) (n : BitVec 6) (w : Word) : (f.wx n w).repw = f.repw := by unfold Firing.wx; split <;> rfl
@[simp] theorem Firing.wx_repf (f : Firing) (n : BitVec 6) (w : Word) : (f.wx n w).repf = f.repf := by unfold Firing.wx; split <;> rfl
@[simp] theorem Firing.wx_repbuf (f : Firing) (n : BitVec 6) (w : Word) : (f.wx n w).repbuf = f.repbuf := by unfold Firing.wx; split <;> rfl
@[simp] theorem Firing.wx_code (f : Firing) (n : BitVec 6) (w : Word) : (f.wx n w).code = f.code := by unfold Firing.wx; split <;> rfl
@[simp] theorem Firing.wx_cr (f : Firing) (n : BitVec 6) (w : Word) : (f.wx n w).cr = f.cr := by unfold Firing.wx; split <;> rfl
@[simp] theorem Firing.wx_q12 (f : Firing) (n : BitVec 6) (w : Word) : (f.wx n w).q12 = f.q12 := by unfold Firing.wx; split <;> rfl
@[simp] theorem Firing.wx_q12lost (f : Firing) (n : BitVec 6) (w : Word) : (f.wx n w).q12lost = f.q12lost := by unfold Firing.wx; split <;> rfl
@[simp] theorem Firing.wx_q13 (f : Firing) (n : BitVec 6) (w : Word) : (f.wx n w).q13 = f.q13 := by unfold Firing.wx; split <;> rfl
@[simp] theorem Firing.wx_mmas (f : Firing) (n : BitVec 6) (w : Word) : (f.wx n w).mmas = f.mmas := by unfold Firing.wx; split <;> rfl
@[simp] theorem Firing.wx_reports (f : Firing) (n : BitVec 6) (w : Word) : (f.wx n w).reports = f.reports := by unfold Firing.wx; split <;> rfl
@[simp] theorem Firing.wx_replost (f : Firing) (n : BitVec 6) (w : Word) : (f.wx n w).replost = f.replost := by unfold Firing.wx; split <;> rfl
@[simp] theorem Firing.wx_wait (f : Firing) (n : BitVec 6) (w : Word) : (f.wx n w).wait = f.wait := by unfold Firing.wx; split <;> rfl
@[simp] theorem Firing.wx_arrived (f : Firing) (n : BitVec 6) (w : Word) : (f.wx n w).arrived = f.arrived := by unfold Firing.wx; split <;> rfl
@[simp] theorem Firing.wx_pends (f : Firing) (n : BitVec 6) (w : Word) : (f.wx n w).pends = f.pends := by unfold Firing.wx; split <;> rfl
@[simp] theorem Firing.wx_late (f : Firing) (n : BitVec 6) (w : Word) : (f.wx n w).late = f.late := by unfold Firing.wx; split <;> rfl
@[simp] theorem Firing.wx_data (f : Firing) (n : BitVec 6) (w : Word) : (f.wx n w).data = f.data := by unfold Firing.wx; split <;> rfl
@[simp] theorem Firing.wx_groups (f : Firing) (n : BitVec 6) (w : Word) : (f.wx n w).groups = f.groups := by unfold Firing.wx; split <;> rfl
@[simp] theorem Firing.wx_pairset (f : Firing) (n : BitVec 6) (w : Word) : (f.wx n w).pairset = f.pairset := by unfold Firing.wx; split <;> rfl
@[simp] theorem Firing.wx_tphys (f : Firing) (n : BitVec 6) (w : Word) : (f.wx n w).tphys = f.tphys := by unfold Firing.wx; split <;> rfl
@[simp] theorem Firing.wx_paths (f : Firing) (n : BitVec 6) (w : Word) : (f.wx n w).paths = f.paths := by unfold Firing.wx; split <;> rfl
@[simp] theorem Firing.wx_opn (f : Firing) (n : BitVec 6) (w : Word) : (f.wx n w).opn = f.opn := by unfold Firing.wx; split <;> rfl
@[simp] theorem Firing.wx_granted (f : Firing) (n : BitVec 6) (w : Word) : (f.wx n w).granted = f.granted := by unfold Firing.wx; split <;> rfl
@[simp] theorem Firing.wx_run (f : Firing) (n : BitVec 6) (w : Word) : (f.wx n w).run = f.run := by unfold Firing.wx; split <;> rfl

@[simp] theorem Firing.wk_live (f : Firing) (n : BitVec 3) (w : Word) : (f.wk n w).live = f.live := by unfold Firing.wk; split <;> rfl
@[simp] theorem Firing.wk_adm (f : Firing) (n : BitVec 3) (w : Word) : (f.wk n w).adm = f.adm := by unfold Firing.wk; split <;> rfl
@[simp] theorem Firing.wk_core (f : Firing) (n : BitVec 3) (w : Word) : (f.wk n w).core = f.core := by unfold Firing.wk; split <;> rfl
@[simp] theorem Firing.wk_part (f : Firing) (n : BitVec 3) (w : Word) : (f.wk n w).part = f.part := by unfold Firing.wk; split <;> rfl
@[simp] theorem Firing.wk_tid (f : Firing) (n : BitVec 3) (w : Word) : (f.wk n w).tid = f.tid := by unfold Firing.wk; split <;> rfl
@[simp] theorem Firing.wk_fid (f : Firing) (n : BitVec 3) (w : Word) : (f.wk n w).fid = f.fid := by unfold Firing.wk; split <;> rfl
@[simp] theorem Firing.wk_fcnt (f : Firing) (n : BitVec 3) (w : Word) : (f.wk n w).fcnt = f.fcnt := by unfold Firing.wk; split <;> rfl
@[simp] theorem Firing.wk_fparm (f : Firing) (n : BitVec 3) (w : Word) : (f.wk n w).fparm = f.fparm := by unfold Firing.wk; split <;> rfl
@[simp] theorem Firing.wk_dem (f : Firing) (n : BitVec 3) (w : Word) : (f.wk n w).dem = f.dem := by unfold Firing.wk; split <;> rfl
@[simp] theorem Firing.wk_spbase (f : Firing) (n : BitVec 3) (w : Word) : (f.wk n w).spbase = f.spbase := by unfold Firing.wk; split <;> rfl
@[simp] theorem Firing.wk_prio (f : Firing) (n : BitVec 3) (w : Word) : (f.wk n w).prio = f.prio := by unfold Firing.wk; split <;> rfl
@[simp] theorem Firing.wk_aged (f : Firing) (n : BitVec 3) (w : Word) : (f.wk n w).aged = f.aged := by unfold Firing.wk; split <;> rfl
@[simp] theorem Firing.wk_msg (f : Firing) (n : BitVec 3) (w : Word) : (f.wk n w).msg = f.msg := by unfold Firing.wk; split <;> rfl
@[simp] theorem Firing.wk_pc (f : Firing) (n : BitVec 3) (w : Word) : (f.wk n w).pc = f.pc := by unfold Firing.wk; split <;> rfl
@[simp] theorem Firing.wk_x (f : Firing) (n : BitVec 3) (w : Word) : (f.wk n w).x = f.x := by unfold Firing.wk; split <;> rfl
@[simp] theorem Firing.wk_v (f : Firing) (n : BitVec 3) (w : Word) : (f.wk n w).v = f.v := by unfold Firing.wk; split <;> rfl
@[simp] theorem Firing.wk_m (f : Firing) (n : BitVec 3) (w : Word) : (f.wk n w).m = f.m := by unfold Firing.wk; split <;> rfl
@[simp] theorem Firing.wk_acc (f : Firing) (n : BitVec 3) (w : Word) : (f.wk n w).acc = f.acc := by unfold Firing.wk; split <;> rfl
@[simp] theorem Firing.wk_accf (f : Firing) (n : BitVec 3) (w : Word) : (f.wk n w).accf = f.accf := by unfold Firing.wk; split <;> rfl
@[simp] theorem Firing.wk_b (f : Firing) (n : BitVec 3) (w : Word) : (f.wk n w).b = f.b := by unfold Firing.wk; split <;> rfl
@[simp] theorem Firing.wk_fstat (f : Firing) (n : BitVec 3) (w : Word) : (f.wk n w).fstat = f.fstat := by unfold Firing.wk; split <;> rfl
@[simp] theorem Firing.wk_fflags (f : Firing) (n : BitVec 3) (w : Word) : (f.wk n w).fflags = f.fflags := by unfold Firing.wk; split <;> rfl
@[simp] theorem Firing.wk_frm (f : Firing) (n : BitVec 3) (w : Word) : (f.wk n w).frm = f.frm := by unfold Firing.wk; split <;> rfl
@[simp] theorem Firing.wk_srix (f : Firing) (n : BitVec 3) (w : Word) : (f.wk n w).srix = f.srix := by unfold Firing.wk; split <;> rfl
@[simp] theorem Firing.wk_utvec (f : Firing) (n : BitVec 3) (w : Word) : (f.wk n w).utvec = f.utvec := by unfold Firing.wk; split <;> rfl
@[simp] theorem Firing.wk_tcause (f : Firing) (n : BitVec 3) (w : Word) : (f.wk n w).tcause = f.tcause := by unfold Firing.wk; split <;> rfl
@[simp] theorem Firing.wk_tval (f : Firing) (n : BitVec 3) (w : Word) : (f.wk n w).tval = f.tval := by unfold Firing.wk; split <;> rfl
@[simp] theorem Firing.wk_tpc (f : Firing) (n : BitVec 3) (w : Word) : (f.wk n w).tpc = f.tpc := by unfold Firing.wk; split <;> rfl
@[simp] theorem Firing.wk_tstat (f : Firing) (n : BitVec 3) (w : Word) : (f.wk n w).tstat = f.tstat := by unfold Firing.wk; split <;> rfl
@[simp] theorem Firing.wk_trepw (f : Firing) (n : BitVec 3) (w : Word) : (f.wk n w).trepw = f.trepw := by unfold Firing.wk; split <;> rfl
@[simp] theorem Firing.wk_trepf (f : Firing) (n : BitVec 3) (w : Word) : (f.wk n w).trepf = f.trepf := by unfold Firing.wk; split <;> rfl
@[simp] theorem Firing.wk_tfmt (f : Firing) (n : BitVec 3) (w : Word) : (f.wk n w).tfmt = f.tfmt := by unfold Firing.wk; split <;> rfl
@[simp] theorem Firing.wk_qlim (f : Firing) (n : BitVec 3) (w : Word) : (f.wk n w).qlim = f.qlim := by unfold Firing.wk; split <;> rfl
@[simp] theorem Firing.wk_fewlim (f : Firing) (n : BitVec 3) (w : Word) : (f.wk n w).fewlim = f.fewlim := by unfold Firing.wk; split <;> rfl
@[simp] theorem Firing.wk_seedlo (f : Firing) (n : BitVec 3) (w : Word) : (f.wk n w).seedlo = f.seedlo := by unfold Firing.wk; split <;> rfl
@[simp] theorem Firing.wk_seedhi (f : Firing) (n : BitVec 3) (w : Word) : (f.wk n w).seedhi = f.seedhi := by unfold Firing.wk; split <;> rfl
@[simp] theorem Firing.wk_sstream (f : Firing) (n : BitVec 3) (w : Word) : (f.wk n w).sstream = f.sstream := by unfold Firing.wk; split <;> rfl
@[simp] theorem Firing.wk_tshape (f : Firing) (n : BitVec 3) (w : Word) : (f.wk n w).tshape = f.tshape := by unfold Firing.wk; split <;> rfl
@[simp] theorem Firing.wk_pfx (f : Firing) (n : BitVec 3) (w : Word) : (f.wk n w).pfx = f.pfx := by unfold Firing.wk; split <;> rfl
@[simp] theorem Firing.wk_repw (f : Firing) (n : BitVec 3) (w : Word) : (f.wk n w).repw = f.repw := by unfold Firing.wk; split <;> rfl
@[simp] theorem Firing.wk_repf (f : Firing) (n : BitVec 3) (w : Word) : (f.wk n w).repf = f.repf := by unfold Firing.wk; split <;> rfl
@[simp] theorem Firing.wk_repbuf (f : Firing) (n : BitVec 3) (w : Word) : (f.wk n w).repbuf = f.repbuf := by unfold Firing.wk; split <;> rfl
@[simp] theorem Firing.wk_code (f : Firing) (n : BitVec 3) (w : Word) : (f.wk n w).code = f.code := by unfold Firing.wk; split <;> rfl
@[simp] theorem Firing.wk_cr (f : Firing) (n : BitVec 3) (w : Word) : (f.wk n w).cr = f.cr := by unfold Firing.wk; split <;> rfl
@[simp] theorem Firing.wk_q12 (f : Firing) (n : BitVec 3) (w : Word) : (f.wk n w).q12 = f.q12 := by unfold Firing.wk; split <;> rfl
@[simp] theorem Firing.wk_q12lost (f : Firing) (n : BitVec 3) (w : Word) : (f.wk n w).q12lost = f.q12lost := by unfold Firing.wk; split <;> rfl
@[simp] theorem Firing.wk_q13 (f : Firing) (n : BitVec 3) (w : Word) : (f.wk n w).q13 = f.q13 := by unfold Firing.wk; split <;> rfl
@[simp] theorem Firing.wk_mmas (f : Firing) (n : BitVec 3) (w : Word) : (f.wk n w).mmas = f.mmas := by unfold Firing.wk; split <;> rfl
@[simp] theorem Firing.wk_reports (f : Firing) (n : BitVec 3) (w : Word) : (f.wk n w).reports = f.reports := by unfold Firing.wk; split <;> rfl
@[simp] theorem Firing.wk_replost (f : Firing) (n : BitVec 3) (w : Word) : (f.wk n w).replost = f.replost := by unfold Firing.wk; split <;> rfl
@[simp] theorem Firing.wk_wait (f : Firing) (n : BitVec 3) (w : Word) : (f.wk n w).wait = f.wait := by unfold Firing.wk; split <;> rfl
@[simp] theorem Firing.wk_arrived (f : Firing) (n : BitVec 3) (w : Word) : (f.wk n w).arrived = f.arrived := by unfold Firing.wk; split <;> rfl
@[simp] theorem Firing.wk_pends (f : Firing) (n : BitVec 3) (w : Word) : (f.wk n w).pends = f.pends := by unfold Firing.wk; split <;> rfl
@[simp] theorem Firing.wk_late (f : Firing) (n : BitVec 3) (w : Word) : (f.wk n w).late = f.late := by unfold Firing.wk; split <;> rfl
@[simp] theorem Firing.wk_data (f : Firing) (n : BitVec 3) (w : Word) : (f.wk n w).data = f.data := by unfold Firing.wk; split <;> rfl
@[simp] theorem Firing.wk_groups (f : Firing) (n : BitVec 3) (w : Word) : (f.wk n w).groups = f.groups := by unfold Firing.wk; split <;> rfl
@[simp] theorem Firing.wk_pairset (f : Firing) (n : BitVec 3) (w : Word) : (f.wk n w).pairset = f.pairset := by unfold Firing.wk; split <;> rfl
@[simp] theorem Firing.wk_tphys (f : Firing) (n : BitVec 3) (w : Word) : (f.wk n w).tphys = f.tphys := by unfold Firing.wk; split <;> rfl
@[simp] theorem Firing.wk_paths (f : Firing) (n : BitVec 3) (w : Word) : (f.wk n w).paths = f.paths := by unfold Firing.wk; split <;> rfl
@[simp] theorem Firing.wk_opn (f : Firing) (n : BitVec 3) (w : Word) : (f.wk n w).opn = f.opn := by unfold Firing.wk; split <;> rfl
@[simp] theorem Firing.wk_granted (f : Firing) (n : BitVec 3) (w : Word) : (f.wk n w).granted = f.granted := by unfold Firing.wk; split <;> rfl
@[simp] theorem Firing.wk_run (f : Firing) (n : BitVec 3) (w : Word) : (f.wk n w).run = f.run := by unfold Firing.wk; split <;> rfl

@[simp] theorem Firing.wv_live (f : Firing) (n : BitVec 5) (w : Vec) : (f.wv n w).live = f.live := rfl
@[simp] theorem Firing.wv_adm (f : Firing) (n : BitVec 5) (w : Vec) : (f.wv n w).adm = f.adm := rfl
@[simp] theorem Firing.wv_core (f : Firing) (n : BitVec 5) (w : Vec) : (f.wv n w).core = f.core := rfl
@[simp] theorem Firing.wv_part (f : Firing) (n : BitVec 5) (w : Vec) : (f.wv n w).part = f.part := rfl
@[simp] theorem Firing.wv_tid (f : Firing) (n : BitVec 5) (w : Vec) : (f.wv n w).tid = f.tid := rfl
@[simp] theorem Firing.wv_fid (f : Firing) (n : BitVec 5) (w : Vec) : (f.wv n w).fid = f.fid := rfl
@[simp] theorem Firing.wv_fcnt (f : Firing) (n : BitVec 5) (w : Vec) : (f.wv n w).fcnt = f.fcnt := rfl
@[simp] theorem Firing.wv_fparm (f : Firing) (n : BitVec 5) (w : Vec) : (f.wv n w).fparm = f.fparm := rfl
@[simp] theorem Firing.wv_dem (f : Firing) (n : BitVec 5) (w : Vec) : (f.wv n w).dem = f.dem := rfl
@[simp] theorem Firing.wv_spbase (f : Firing) (n : BitVec 5) (w : Vec) : (f.wv n w).spbase = f.spbase := rfl
@[simp] theorem Firing.wv_prio (f : Firing) (n : BitVec 5) (w : Vec) : (f.wv n w).prio = f.prio := rfl
@[simp] theorem Firing.wv_aged (f : Firing) (n : BitVec 5) (w : Vec) : (f.wv n w).aged = f.aged := rfl
@[simp] theorem Firing.wv_msg (f : Firing) (n : BitVec 5) (w : Vec) : (f.wv n w).msg = f.msg := rfl
@[simp] theorem Firing.wv_pc (f : Firing) (n : BitVec 5) (w : Vec) : (f.wv n w).pc = f.pc := rfl
@[simp] theorem Firing.wv_x (f : Firing) (n : BitVec 5) (w : Vec) : (f.wv n w).x = f.x := rfl
@[simp] theorem Firing.wv_k (f : Firing) (n : BitVec 5) (w : Vec) : (f.wv n w).k = f.k := rfl
@[simp] theorem Firing.wv_m (f : Firing) (n : BitVec 5) (w : Vec) : (f.wv n w).m = f.m := rfl
@[simp] theorem Firing.wv_acc (f : Firing) (n : BitVec 5) (w : Vec) : (f.wv n w).acc = f.acc := rfl
@[simp] theorem Firing.wv_accf (f : Firing) (n : BitVec 5) (w : Vec) : (f.wv n w).accf = f.accf := rfl
@[simp] theorem Firing.wv_b (f : Firing) (n : BitVec 5) (w : Vec) : (f.wv n w).b = f.b := rfl
@[simp] theorem Firing.wv_fstat (f : Firing) (n : BitVec 5) (w : Vec) : (f.wv n w).fstat = f.fstat := rfl
@[simp] theorem Firing.wv_fflags (f : Firing) (n : BitVec 5) (w : Vec) : (f.wv n w).fflags = f.fflags := rfl
@[simp] theorem Firing.wv_frm (f : Firing) (n : BitVec 5) (w : Vec) : (f.wv n w).frm = f.frm := rfl
@[simp] theorem Firing.wv_srix (f : Firing) (n : BitVec 5) (w : Vec) : (f.wv n w).srix = f.srix := rfl
@[simp] theorem Firing.wv_utvec (f : Firing) (n : BitVec 5) (w : Vec) : (f.wv n w).utvec = f.utvec := rfl
@[simp] theorem Firing.wv_tcause (f : Firing) (n : BitVec 5) (w : Vec) : (f.wv n w).tcause = f.tcause := rfl
@[simp] theorem Firing.wv_tval (f : Firing) (n : BitVec 5) (w : Vec) : (f.wv n w).tval = f.tval := rfl
@[simp] theorem Firing.wv_tpc (f : Firing) (n : BitVec 5) (w : Vec) : (f.wv n w).tpc = f.tpc := rfl
@[simp] theorem Firing.wv_tstat (f : Firing) (n : BitVec 5) (w : Vec) : (f.wv n w).tstat = f.tstat := rfl
@[simp] theorem Firing.wv_trepw (f : Firing) (n : BitVec 5) (w : Vec) : (f.wv n w).trepw = f.trepw := rfl
@[simp] theorem Firing.wv_trepf (f : Firing) (n : BitVec 5) (w : Vec) : (f.wv n w).trepf = f.trepf := rfl
@[simp] theorem Firing.wv_tfmt (f : Firing) (n : BitVec 5) (w : Vec) : (f.wv n w).tfmt = f.tfmt := rfl
@[simp] theorem Firing.wv_qlim (f : Firing) (n : BitVec 5) (w : Vec) : (f.wv n w).qlim = f.qlim := rfl
@[simp] theorem Firing.wv_fewlim (f : Firing) (n : BitVec 5) (w : Vec) : (f.wv n w).fewlim = f.fewlim := rfl
@[simp] theorem Firing.wv_seedlo (f : Firing) (n : BitVec 5) (w : Vec) : (f.wv n w).seedlo = f.seedlo := rfl
@[simp] theorem Firing.wv_seedhi (f : Firing) (n : BitVec 5) (w : Vec) : (f.wv n w).seedhi = f.seedhi := rfl
@[simp] theorem Firing.wv_sstream (f : Firing) (n : BitVec 5) (w : Vec) : (f.wv n w).sstream = f.sstream := rfl
@[simp] theorem Firing.wv_tshape (f : Firing) (n : BitVec 5) (w : Vec) : (f.wv n w).tshape = f.tshape := rfl
@[simp] theorem Firing.wv_pfx (f : Firing) (n : BitVec 5) (w : Vec) : (f.wv n w).pfx = f.pfx := rfl
@[simp] theorem Firing.wv_repw (f : Firing) (n : BitVec 5) (w : Vec) : (f.wv n w).repw = f.repw := rfl
@[simp] theorem Firing.wv_repf (f : Firing) (n : BitVec 5) (w : Vec) : (f.wv n w).repf = f.repf := rfl
@[simp] theorem Firing.wv_repbuf (f : Firing) (n : BitVec 5) (w : Vec) : (f.wv n w).repbuf = f.repbuf := rfl
@[simp] theorem Firing.wv_code (f : Firing) (n : BitVec 5) (w : Vec) : (f.wv n w).code = f.code := rfl
@[simp] theorem Firing.wv_cr (f : Firing) (n : BitVec 5) (w : Vec) : (f.wv n w).cr = f.cr := rfl
@[simp] theorem Firing.wv_q12 (f : Firing) (n : BitVec 5) (w : Vec) : (f.wv n w).q12 = f.q12 := rfl
@[simp] theorem Firing.wv_q12lost (f : Firing) (n : BitVec 5) (w : Vec) : (f.wv n w).q12lost = f.q12lost := rfl
@[simp] theorem Firing.wv_q13 (f : Firing) (n : BitVec 5) (w : Vec) : (f.wv n w).q13 = f.q13 := rfl
@[simp] theorem Firing.wv_mmas (f : Firing) (n : BitVec 5) (w : Vec) : (f.wv n w).mmas = f.mmas := rfl
@[simp] theorem Firing.wv_reports (f : Firing) (n : BitVec 5) (w : Vec) : (f.wv n w).reports = f.reports := rfl
@[simp] theorem Firing.wv_replost (f : Firing) (n : BitVec 5) (w : Vec) : (f.wv n w).replost = f.replost := rfl
@[simp] theorem Firing.wv_wait (f : Firing) (n : BitVec 5) (w : Vec) : (f.wv n w).wait = f.wait := rfl
@[simp] theorem Firing.wv_arrived (f : Firing) (n : BitVec 5) (w : Vec) : (f.wv n w).arrived = f.arrived := rfl
@[simp] theorem Firing.wv_pends (f : Firing) (n : BitVec 5) (w : Vec) : (f.wv n w).pends = f.pends := rfl
@[simp] theorem Firing.wv_late (f : Firing) (n : BitVec 5) (w : Vec) : (f.wv n w).late = f.late := rfl
@[simp] theorem Firing.wv_data (f : Firing) (n : BitVec 5) (w : Vec) : (f.wv n w).data = f.data := rfl
@[simp] theorem Firing.wv_groups (f : Firing) (n : BitVec 5) (w : Vec) : (f.wv n w).groups = f.groups := rfl
@[simp] theorem Firing.wv_pairset (f : Firing) (n : BitVec 5) (w : Vec) : (f.wv n w).pairset = f.pairset := rfl
@[simp] theorem Firing.wv_tphys (f : Firing) (n : BitVec 5) (w : Vec) : (f.wv n w).tphys = f.tphys := rfl
@[simp] theorem Firing.wv_paths (f : Firing) (n : BitVec 5) (w : Vec) : (f.wv n w).paths = f.paths := rfl
@[simp] theorem Firing.wv_opn (f : Firing) (n : BitVec 5) (w : Vec) : (f.wv n w).opn = f.opn := rfl
@[simp] theorem Firing.wv_granted (f : Firing) (n : BitVec 5) (w : Vec) : (f.wv n w).granted = f.granted := rfl
@[simp] theorem Firing.wv_run (f : Firing) (n : BitVec 5) (w : Vec) : (f.wv n w).run = f.run := rfl

@[simp] theorem Firing.wm_live (f : Firing) (n : BitVec 3) (w : BitVec 32768) : (f.wm n w).live = f.live := rfl
@[simp] theorem Firing.wm_adm (f : Firing) (n : BitVec 3) (w : BitVec 32768) : (f.wm n w).adm = f.adm := rfl
@[simp] theorem Firing.wm_core (f : Firing) (n : BitVec 3) (w : BitVec 32768) : (f.wm n w).core = f.core := rfl
@[simp] theorem Firing.wm_part (f : Firing) (n : BitVec 3) (w : BitVec 32768) : (f.wm n w).part = f.part := rfl
@[simp] theorem Firing.wm_tid (f : Firing) (n : BitVec 3) (w : BitVec 32768) : (f.wm n w).tid = f.tid := rfl
@[simp] theorem Firing.wm_fid (f : Firing) (n : BitVec 3) (w : BitVec 32768) : (f.wm n w).fid = f.fid := rfl
@[simp] theorem Firing.wm_fcnt (f : Firing) (n : BitVec 3) (w : BitVec 32768) : (f.wm n w).fcnt = f.fcnt := rfl
@[simp] theorem Firing.wm_fparm (f : Firing) (n : BitVec 3) (w : BitVec 32768) : (f.wm n w).fparm = f.fparm := rfl
@[simp] theorem Firing.wm_dem (f : Firing) (n : BitVec 3) (w : BitVec 32768) : (f.wm n w).dem = f.dem := rfl
@[simp] theorem Firing.wm_spbase (f : Firing) (n : BitVec 3) (w : BitVec 32768) : (f.wm n w).spbase = f.spbase := rfl
@[simp] theorem Firing.wm_prio (f : Firing) (n : BitVec 3) (w : BitVec 32768) : (f.wm n w).prio = f.prio := rfl
@[simp] theorem Firing.wm_aged (f : Firing) (n : BitVec 3) (w : BitVec 32768) : (f.wm n w).aged = f.aged := rfl
@[simp] theorem Firing.wm_msg (f : Firing) (n : BitVec 3) (w : BitVec 32768) : (f.wm n w).msg = f.msg := rfl
@[simp] theorem Firing.wm_pc (f : Firing) (n : BitVec 3) (w : BitVec 32768) : (f.wm n w).pc = f.pc := rfl
@[simp] theorem Firing.wm_x (f : Firing) (n : BitVec 3) (w : BitVec 32768) : (f.wm n w).x = f.x := rfl
@[simp] theorem Firing.wm_v (f : Firing) (n : BitVec 3) (w : BitVec 32768) : (f.wm n w).v = f.v := rfl
@[simp] theorem Firing.wm_k (f : Firing) (n : BitVec 3) (w : BitVec 32768) : (f.wm n w).k = f.k := rfl
@[simp] theorem Firing.wm_acc (f : Firing) (n : BitVec 3) (w : BitVec 32768) : (f.wm n w).acc = f.acc := rfl
@[simp] theorem Firing.wm_accf (f : Firing) (n : BitVec 3) (w : BitVec 32768) : (f.wm n w).accf = f.accf := rfl
@[simp] theorem Firing.wm_b (f : Firing) (n : BitVec 3) (w : BitVec 32768) : (f.wm n w).b = f.b := rfl
@[simp] theorem Firing.wm_fstat (f : Firing) (n : BitVec 3) (w : BitVec 32768) : (f.wm n w).fstat = f.fstat := rfl
@[simp] theorem Firing.wm_fflags (f : Firing) (n : BitVec 3) (w : BitVec 32768) : (f.wm n w).fflags = f.fflags := rfl
@[simp] theorem Firing.wm_frm (f : Firing) (n : BitVec 3) (w : BitVec 32768) : (f.wm n w).frm = f.frm := rfl
@[simp] theorem Firing.wm_srix (f : Firing) (n : BitVec 3) (w : BitVec 32768) : (f.wm n w).srix = f.srix := rfl
@[simp] theorem Firing.wm_utvec (f : Firing) (n : BitVec 3) (w : BitVec 32768) : (f.wm n w).utvec = f.utvec := rfl
@[simp] theorem Firing.wm_tcause (f : Firing) (n : BitVec 3) (w : BitVec 32768) : (f.wm n w).tcause = f.tcause := rfl
@[simp] theorem Firing.wm_tval (f : Firing) (n : BitVec 3) (w : BitVec 32768) : (f.wm n w).tval = f.tval := rfl
@[simp] theorem Firing.wm_tpc (f : Firing) (n : BitVec 3) (w : BitVec 32768) : (f.wm n w).tpc = f.tpc := rfl
@[simp] theorem Firing.wm_tstat (f : Firing) (n : BitVec 3) (w : BitVec 32768) : (f.wm n w).tstat = f.tstat := rfl
@[simp] theorem Firing.wm_trepw (f : Firing) (n : BitVec 3) (w : BitVec 32768) : (f.wm n w).trepw = f.trepw := rfl
@[simp] theorem Firing.wm_trepf (f : Firing) (n : BitVec 3) (w : BitVec 32768) : (f.wm n w).trepf = f.trepf := rfl
@[simp] theorem Firing.wm_tfmt (f : Firing) (n : BitVec 3) (w : BitVec 32768) : (f.wm n w).tfmt = f.tfmt := rfl
@[simp] theorem Firing.wm_qlim (f : Firing) (n : BitVec 3) (w : BitVec 32768) : (f.wm n w).qlim = f.qlim := rfl
@[simp] theorem Firing.wm_fewlim (f : Firing) (n : BitVec 3) (w : BitVec 32768) : (f.wm n w).fewlim = f.fewlim := rfl
@[simp] theorem Firing.wm_seedlo (f : Firing) (n : BitVec 3) (w : BitVec 32768) : (f.wm n w).seedlo = f.seedlo := rfl
@[simp] theorem Firing.wm_seedhi (f : Firing) (n : BitVec 3) (w : BitVec 32768) : (f.wm n w).seedhi = f.seedhi := rfl
@[simp] theorem Firing.wm_sstream (f : Firing) (n : BitVec 3) (w : BitVec 32768) : (f.wm n w).sstream = f.sstream := rfl
@[simp] theorem Firing.wm_tshape (f : Firing) (n : BitVec 3) (w : BitVec 32768) : (f.wm n w).tshape = f.tshape := rfl
@[simp] theorem Firing.wm_pfx (f : Firing) (n : BitVec 3) (w : BitVec 32768) : (f.wm n w).pfx = f.pfx := rfl
@[simp] theorem Firing.wm_repw (f : Firing) (n : BitVec 3) (w : BitVec 32768) : (f.wm n w).repw = f.repw := rfl
@[simp] theorem Firing.wm_repf (f : Firing) (n : BitVec 3) (w : BitVec 32768) : (f.wm n w).repf = f.repf := rfl
@[simp] theorem Firing.wm_repbuf (f : Firing) (n : BitVec 3) (w : BitVec 32768) : (f.wm n w).repbuf = f.repbuf := rfl
@[simp] theorem Firing.wm_code (f : Firing) (n : BitVec 3) (w : BitVec 32768) : (f.wm n w).code = f.code := rfl
@[simp] theorem Firing.wm_cr (f : Firing) (n : BitVec 3) (w : BitVec 32768) : (f.wm n w).cr = f.cr := rfl
@[simp] theorem Firing.wm_q12 (f : Firing) (n : BitVec 3) (w : BitVec 32768) : (f.wm n w).q12 = f.q12 := rfl
@[simp] theorem Firing.wm_q12lost (f : Firing) (n : BitVec 3) (w : BitVec 32768) : (f.wm n w).q12lost = f.q12lost := rfl
@[simp] theorem Firing.wm_q13 (f : Firing) (n : BitVec 3) (w : BitVec 32768) : (f.wm n w).q13 = f.q13 := rfl
@[simp] theorem Firing.wm_mmas (f : Firing) (n : BitVec 3) (w : BitVec 32768) : (f.wm n w).mmas = f.mmas := rfl
@[simp] theorem Firing.wm_reports (f : Firing) (n : BitVec 3) (w : BitVec 32768) : (f.wm n w).reports = f.reports := rfl
@[simp] theorem Firing.wm_replost (f : Firing) (n : BitVec 3) (w : BitVec 32768) : (f.wm n w).replost = f.replost := rfl
@[simp] theorem Firing.wm_wait (f : Firing) (n : BitVec 3) (w : BitVec 32768) : (f.wm n w).wait = f.wait := rfl
@[simp] theorem Firing.wm_arrived (f : Firing) (n : BitVec 3) (w : BitVec 32768) : (f.wm n w).arrived = f.arrived := rfl
@[simp] theorem Firing.wm_pends (f : Firing) (n : BitVec 3) (w : BitVec 32768) : (f.wm n w).pends = f.pends := rfl
@[simp] theorem Firing.wm_late (f : Firing) (n : BitVec 3) (w : BitVec 32768) : (f.wm n w).late = f.late := rfl
@[simp] theorem Firing.wm_data (f : Firing) (n : BitVec 3) (w : BitVec 32768) : (f.wm n w).data = f.data := rfl
@[simp] theorem Firing.wm_groups (f : Firing) (n : BitVec 3) (w : BitVec 32768) : (f.wm n w).groups = f.groups := rfl
@[simp] theorem Firing.wm_pairset (f : Firing) (n : BitVec 3) (w : BitVec 32768) : (f.wm n w).pairset = f.pairset := rfl
@[simp] theorem Firing.wm_tphys (f : Firing) (n : BitVec 3) (w : BitVec 32768) : (f.wm n w).tphys = f.tphys := rfl
@[simp] theorem Firing.wm_paths (f : Firing) (n : BitVec 3) (w : BitVec 32768) : (f.wm n w).paths = f.paths := rfl
@[simp] theorem Firing.wm_opn (f : Firing) (n : BitVec 3) (w : BitVec 32768) : (f.wm n w).opn = f.opn := rfl
@[simp] theorem Firing.wm_granted (f : Firing) (n : BitVec 3) (w : BitVec 32768) : (f.wm n w).granted = f.granted := rfl
@[simp] theorem Firing.wm_run (f : Firing) (n : BitVec 3) (w : BitVec 32768) : (f.wm n w).run = f.run := rfl

@[simp] theorem Firing.wb_live (f : Firing) (n : BitVec 3) (w : BitVec 4096) : (f.wb n w).live = f.live := rfl
@[simp] theorem Firing.wb_adm (f : Firing) (n : BitVec 3) (w : BitVec 4096) : (f.wb n w).adm = f.adm := rfl
@[simp] theorem Firing.wb_core (f : Firing) (n : BitVec 3) (w : BitVec 4096) : (f.wb n w).core = f.core := rfl
@[simp] theorem Firing.wb_part (f : Firing) (n : BitVec 3) (w : BitVec 4096) : (f.wb n w).part = f.part := rfl
@[simp] theorem Firing.wb_tid (f : Firing) (n : BitVec 3) (w : BitVec 4096) : (f.wb n w).tid = f.tid := rfl
@[simp] theorem Firing.wb_fid (f : Firing) (n : BitVec 3) (w : BitVec 4096) : (f.wb n w).fid = f.fid := rfl
@[simp] theorem Firing.wb_fcnt (f : Firing) (n : BitVec 3) (w : BitVec 4096) : (f.wb n w).fcnt = f.fcnt := rfl
@[simp] theorem Firing.wb_fparm (f : Firing) (n : BitVec 3) (w : BitVec 4096) : (f.wb n w).fparm = f.fparm := rfl
@[simp] theorem Firing.wb_dem (f : Firing) (n : BitVec 3) (w : BitVec 4096) : (f.wb n w).dem = f.dem := rfl
@[simp] theorem Firing.wb_spbase (f : Firing) (n : BitVec 3) (w : BitVec 4096) : (f.wb n w).spbase = f.spbase := rfl
@[simp] theorem Firing.wb_prio (f : Firing) (n : BitVec 3) (w : BitVec 4096) : (f.wb n w).prio = f.prio := rfl
@[simp] theorem Firing.wb_aged (f : Firing) (n : BitVec 3) (w : BitVec 4096) : (f.wb n w).aged = f.aged := rfl
@[simp] theorem Firing.wb_msg (f : Firing) (n : BitVec 3) (w : BitVec 4096) : (f.wb n w).msg = f.msg := rfl
@[simp] theorem Firing.wb_pc (f : Firing) (n : BitVec 3) (w : BitVec 4096) : (f.wb n w).pc = f.pc := rfl
@[simp] theorem Firing.wb_x (f : Firing) (n : BitVec 3) (w : BitVec 4096) : (f.wb n w).x = f.x := rfl
@[simp] theorem Firing.wb_v (f : Firing) (n : BitVec 3) (w : BitVec 4096) : (f.wb n w).v = f.v := rfl
@[simp] theorem Firing.wb_k (f : Firing) (n : BitVec 3) (w : BitVec 4096) : (f.wb n w).k = f.k := rfl
@[simp] theorem Firing.wb_m (f : Firing) (n : BitVec 3) (w : BitVec 4096) : (f.wb n w).m = f.m := rfl
@[simp] theorem Firing.wb_acc (f : Firing) (n : BitVec 3) (w : BitVec 4096) : (f.wb n w).acc = f.acc := rfl
@[simp] theorem Firing.wb_accf (f : Firing) (n : BitVec 3) (w : BitVec 4096) : (f.wb n w).accf = f.accf := rfl
@[simp] theorem Firing.wb_fstat (f : Firing) (n : BitVec 3) (w : BitVec 4096) : (f.wb n w).fstat = f.fstat := rfl
@[simp] theorem Firing.wb_fflags (f : Firing) (n : BitVec 3) (w : BitVec 4096) : (f.wb n w).fflags = f.fflags := rfl
@[simp] theorem Firing.wb_frm (f : Firing) (n : BitVec 3) (w : BitVec 4096) : (f.wb n w).frm = f.frm := rfl
@[simp] theorem Firing.wb_srix (f : Firing) (n : BitVec 3) (w : BitVec 4096) : (f.wb n w).srix = f.srix := rfl
@[simp] theorem Firing.wb_utvec (f : Firing) (n : BitVec 3) (w : BitVec 4096) : (f.wb n w).utvec = f.utvec := rfl
@[simp] theorem Firing.wb_tcause (f : Firing) (n : BitVec 3) (w : BitVec 4096) : (f.wb n w).tcause = f.tcause := rfl
@[simp] theorem Firing.wb_tval (f : Firing) (n : BitVec 3) (w : BitVec 4096) : (f.wb n w).tval = f.tval := rfl
@[simp] theorem Firing.wb_tpc (f : Firing) (n : BitVec 3) (w : BitVec 4096) : (f.wb n w).tpc = f.tpc := rfl
@[simp] theorem Firing.wb_tstat (f : Firing) (n : BitVec 3) (w : BitVec 4096) : (f.wb n w).tstat = f.tstat := rfl
@[simp] theorem Firing.wb_trepw (f : Firing) (n : BitVec 3) (w : BitVec 4096) : (f.wb n w).trepw = f.trepw := rfl
@[simp] theorem Firing.wb_trepf (f : Firing) (n : BitVec 3) (w : BitVec 4096) : (f.wb n w).trepf = f.trepf := rfl
@[simp] theorem Firing.wb_tfmt (f : Firing) (n : BitVec 3) (w : BitVec 4096) : (f.wb n w).tfmt = f.tfmt := rfl
@[simp] theorem Firing.wb_qlim (f : Firing) (n : BitVec 3) (w : BitVec 4096) : (f.wb n w).qlim = f.qlim := rfl
@[simp] theorem Firing.wb_fewlim (f : Firing) (n : BitVec 3) (w : BitVec 4096) : (f.wb n w).fewlim = f.fewlim := rfl
@[simp] theorem Firing.wb_seedlo (f : Firing) (n : BitVec 3) (w : BitVec 4096) : (f.wb n w).seedlo = f.seedlo := rfl
@[simp] theorem Firing.wb_seedhi (f : Firing) (n : BitVec 3) (w : BitVec 4096) : (f.wb n w).seedhi = f.seedhi := rfl
@[simp] theorem Firing.wb_sstream (f : Firing) (n : BitVec 3) (w : BitVec 4096) : (f.wb n w).sstream = f.sstream := rfl
@[simp] theorem Firing.wb_tshape (f : Firing) (n : BitVec 3) (w : BitVec 4096) : (f.wb n w).tshape = f.tshape := rfl
@[simp] theorem Firing.wb_pfx (f : Firing) (n : BitVec 3) (w : BitVec 4096) : (f.wb n w).pfx = f.pfx := rfl
@[simp] theorem Firing.wb_repw (f : Firing) (n : BitVec 3) (w : BitVec 4096) : (f.wb n w).repw = f.repw := rfl
@[simp] theorem Firing.wb_repf (f : Firing) (n : BitVec 3) (w : BitVec 4096) : (f.wb n w).repf = f.repf := rfl
@[simp] theorem Firing.wb_repbuf (f : Firing) (n : BitVec 3) (w : BitVec 4096) : (f.wb n w).repbuf = f.repbuf := rfl
@[simp] theorem Firing.wb_code (f : Firing) (n : BitVec 3) (w : BitVec 4096) : (f.wb n w).code = f.code := rfl
@[simp] theorem Firing.wb_cr (f : Firing) (n : BitVec 3) (w : BitVec 4096) : (f.wb n w).cr = f.cr := rfl
@[simp] theorem Firing.wb_q12 (f : Firing) (n : BitVec 3) (w : BitVec 4096) : (f.wb n w).q12 = f.q12 := rfl
@[simp] theorem Firing.wb_q12lost (f : Firing) (n : BitVec 3) (w : BitVec 4096) : (f.wb n w).q12lost = f.q12lost := rfl
@[simp] theorem Firing.wb_q13 (f : Firing) (n : BitVec 3) (w : BitVec 4096) : (f.wb n w).q13 = f.q13 := rfl
@[simp] theorem Firing.wb_mmas (f : Firing) (n : BitVec 3) (w : BitVec 4096) : (f.wb n w).mmas = f.mmas := rfl
@[simp] theorem Firing.wb_reports (f : Firing) (n : BitVec 3) (w : BitVec 4096) : (f.wb n w).reports = f.reports := rfl
@[simp] theorem Firing.wb_replost (f : Firing) (n : BitVec 3) (w : BitVec 4096) : (f.wb n w).replost = f.replost := rfl
@[simp] theorem Firing.wb_wait (f : Firing) (n : BitVec 3) (w : BitVec 4096) : (f.wb n w).wait = f.wait := rfl
@[simp] theorem Firing.wb_arrived (f : Firing) (n : BitVec 3) (w : BitVec 4096) : (f.wb n w).arrived = f.arrived := rfl
@[simp] theorem Firing.wb_pends (f : Firing) (n : BitVec 3) (w : BitVec 4096) : (f.wb n w).pends = f.pends := rfl
@[simp] theorem Firing.wb_late (f : Firing) (n : BitVec 3) (w : BitVec 4096) : (f.wb n w).late = f.late := rfl
@[simp] theorem Firing.wb_data (f : Firing) (n : BitVec 3) (w : BitVec 4096) : (f.wb n w).data = f.data := rfl
@[simp] theorem Firing.wb_groups (f : Firing) (n : BitVec 3) (w : BitVec 4096) : (f.wb n w).groups = f.groups := rfl
@[simp] theorem Firing.wb_pairset (f : Firing) (n : BitVec 3) (w : BitVec 4096) : (f.wb n w).pairset = f.pairset := rfl
@[simp] theorem Firing.wb_tphys (f : Firing) (n : BitVec 3) (w : BitVec 4096) : (f.wb n w).tphys = f.tphys := rfl
@[simp] theorem Firing.wb_paths (f : Firing) (n : BitVec 3) (w : BitVec 4096) : (f.wb n w).paths = f.paths := rfl
@[simp] theorem Firing.wb_opn (f : Firing) (n : BitVec 3) (w : BitVec 4096) : (f.wb n w).opn = f.opn := rfl
@[simp] theorem Firing.wb_granted (f : Firing) (n : BitVec 3) (w : BitVec 4096) : (f.wb n w).granted = f.granted := rfl
@[simp] theorem Firing.wb_run (f : Firing) (n : BitVec 3) (w : BitVec 4096) : (f.wb n w).run = f.run := rfl

@[simp] theorem Firing.wa_live (f : Firing) (n : BitVec 2) (w : BitVec 131072) : (f.wa n w).live = f.live := rfl
@[simp] theorem Firing.wa_adm (f : Firing) (n : BitVec 2) (w : BitVec 131072) : (f.wa n w).adm = f.adm := rfl
@[simp] theorem Firing.wa_core (f : Firing) (n : BitVec 2) (w : BitVec 131072) : (f.wa n w).core = f.core := rfl
@[simp] theorem Firing.wa_part (f : Firing) (n : BitVec 2) (w : BitVec 131072) : (f.wa n w).part = f.part := rfl
@[simp] theorem Firing.wa_tid (f : Firing) (n : BitVec 2) (w : BitVec 131072) : (f.wa n w).tid = f.tid := rfl
@[simp] theorem Firing.wa_fid (f : Firing) (n : BitVec 2) (w : BitVec 131072) : (f.wa n w).fid = f.fid := rfl
@[simp] theorem Firing.wa_fcnt (f : Firing) (n : BitVec 2) (w : BitVec 131072) : (f.wa n w).fcnt = f.fcnt := rfl
@[simp] theorem Firing.wa_fparm (f : Firing) (n : BitVec 2) (w : BitVec 131072) : (f.wa n w).fparm = f.fparm := rfl
@[simp] theorem Firing.wa_dem (f : Firing) (n : BitVec 2) (w : BitVec 131072) : (f.wa n w).dem = f.dem := rfl
@[simp] theorem Firing.wa_spbase (f : Firing) (n : BitVec 2) (w : BitVec 131072) : (f.wa n w).spbase = f.spbase := rfl
@[simp] theorem Firing.wa_prio (f : Firing) (n : BitVec 2) (w : BitVec 131072) : (f.wa n w).prio = f.prio := rfl
@[simp] theorem Firing.wa_aged (f : Firing) (n : BitVec 2) (w : BitVec 131072) : (f.wa n w).aged = f.aged := rfl
@[simp] theorem Firing.wa_msg (f : Firing) (n : BitVec 2) (w : BitVec 131072) : (f.wa n w).msg = f.msg := rfl
@[simp] theorem Firing.wa_pc (f : Firing) (n : BitVec 2) (w : BitVec 131072) : (f.wa n w).pc = f.pc := rfl
@[simp] theorem Firing.wa_x (f : Firing) (n : BitVec 2) (w : BitVec 131072) : (f.wa n w).x = f.x := rfl
@[simp] theorem Firing.wa_v (f : Firing) (n : BitVec 2) (w : BitVec 131072) : (f.wa n w).v = f.v := rfl
@[simp] theorem Firing.wa_k (f : Firing) (n : BitVec 2) (w : BitVec 131072) : (f.wa n w).k = f.k := rfl
@[simp] theorem Firing.wa_m (f : Firing) (n : BitVec 2) (w : BitVec 131072) : (f.wa n w).m = f.m := rfl
@[simp] theorem Firing.wa_accf (f : Firing) (n : BitVec 2) (w : BitVec 131072) : (f.wa n w).accf = f.accf := rfl
@[simp] theorem Firing.wa_b (f : Firing) (n : BitVec 2) (w : BitVec 131072) : (f.wa n w).b = f.b := rfl
@[simp] theorem Firing.wa_fstat (f : Firing) (n : BitVec 2) (w : BitVec 131072) : (f.wa n w).fstat = f.fstat := rfl
@[simp] theorem Firing.wa_fflags (f : Firing) (n : BitVec 2) (w : BitVec 131072) : (f.wa n w).fflags = f.fflags := rfl
@[simp] theorem Firing.wa_frm (f : Firing) (n : BitVec 2) (w : BitVec 131072) : (f.wa n w).frm = f.frm := rfl
@[simp] theorem Firing.wa_srix (f : Firing) (n : BitVec 2) (w : BitVec 131072) : (f.wa n w).srix = f.srix := rfl
@[simp] theorem Firing.wa_utvec (f : Firing) (n : BitVec 2) (w : BitVec 131072) : (f.wa n w).utvec = f.utvec := rfl
@[simp] theorem Firing.wa_tcause (f : Firing) (n : BitVec 2) (w : BitVec 131072) : (f.wa n w).tcause = f.tcause := rfl
@[simp] theorem Firing.wa_tval (f : Firing) (n : BitVec 2) (w : BitVec 131072) : (f.wa n w).tval = f.tval := rfl
@[simp] theorem Firing.wa_tpc (f : Firing) (n : BitVec 2) (w : BitVec 131072) : (f.wa n w).tpc = f.tpc := rfl
@[simp] theorem Firing.wa_tstat (f : Firing) (n : BitVec 2) (w : BitVec 131072) : (f.wa n w).tstat = f.tstat := rfl
@[simp] theorem Firing.wa_trepw (f : Firing) (n : BitVec 2) (w : BitVec 131072) : (f.wa n w).trepw = f.trepw := rfl
@[simp] theorem Firing.wa_trepf (f : Firing) (n : BitVec 2) (w : BitVec 131072) : (f.wa n w).trepf = f.trepf := rfl
@[simp] theorem Firing.wa_tfmt (f : Firing) (n : BitVec 2) (w : BitVec 131072) : (f.wa n w).tfmt = f.tfmt := rfl
@[simp] theorem Firing.wa_qlim (f : Firing) (n : BitVec 2) (w : BitVec 131072) : (f.wa n w).qlim = f.qlim := rfl
@[simp] theorem Firing.wa_fewlim (f : Firing) (n : BitVec 2) (w : BitVec 131072) : (f.wa n w).fewlim = f.fewlim := rfl
@[simp] theorem Firing.wa_seedlo (f : Firing) (n : BitVec 2) (w : BitVec 131072) : (f.wa n w).seedlo = f.seedlo := rfl
@[simp] theorem Firing.wa_seedhi (f : Firing) (n : BitVec 2) (w : BitVec 131072) : (f.wa n w).seedhi = f.seedhi := rfl
@[simp] theorem Firing.wa_sstream (f : Firing) (n : BitVec 2) (w : BitVec 131072) : (f.wa n w).sstream = f.sstream := rfl
@[simp] theorem Firing.wa_tshape (f : Firing) (n : BitVec 2) (w : BitVec 131072) : (f.wa n w).tshape = f.tshape := rfl
@[simp] theorem Firing.wa_pfx (f : Firing) (n : BitVec 2) (w : BitVec 131072) : (f.wa n w).pfx = f.pfx := rfl
@[simp] theorem Firing.wa_repw (f : Firing) (n : BitVec 2) (w : BitVec 131072) : (f.wa n w).repw = f.repw := rfl
@[simp] theorem Firing.wa_repf (f : Firing) (n : BitVec 2) (w : BitVec 131072) : (f.wa n w).repf = f.repf := rfl
@[simp] theorem Firing.wa_repbuf (f : Firing) (n : BitVec 2) (w : BitVec 131072) : (f.wa n w).repbuf = f.repbuf := rfl
@[simp] theorem Firing.wa_code (f : Firing) (n : BitVec 2) (w : BitVec 131072) : (f.wa n w).code = f.code := rfl
@[simp] theorem Firing.wa_cr (f : Firing) (n : BitVec 2) (w : BitVec 131072) : (f.wa n w).cr = f.cr := rfl
@[simp] theorem Firing.wa_q12 (f : Firing) (n : BitVec 2) (w : BitVec 131072) : (f.wa n w).q12 = f.q12 := rfl
@[simp] theorem Firing.wa_q12lost (f : Firing) (n : BitVec 2) (w : BitVec 131072) : (f.wa n w).q12lost = f.q12lost := rfl
@[simp] theorem Firing.wa_q13 (f : Firing) (n : BitVec 2) (w : BitVec 131072) : (f.wa n w).q13 = f.q13 := rfl
@[simp] theorem Firing.wa_mmas (f : Firing) (n : BitVec 2) (w : BitVec 131072) : (f.wa n w).mmas = f.mmas := rfl
@[simp] theorem Firing.wa_reports (f : Firing) (n : BitVec 2) (w : BitVec 131072) : (f.wa n w).reports = f.reports := rfl
@[simp] theorem Firing.wa_replost (f : Firing) (n : BitVec 2) (w : BitVec 131072) : (f.wa n w).replost = f.replost := rfl
@[simp] theorem Firing.wa_wait (f : Firing) (n : BitVec 2) (w : BitVec 131072) : (f.wa n w).wait = f.wait := rfl
@[simp] theorem Firing.wa_arrived (f : Firing) (n : BitVec 2) (w : BitVec 131072) : (f.wa n w).arrived = f.arrived := rfl
@[simp] theorem Firing.wa_pends (f : Firing) (n : BitVec 2) (w : BitVec 131072) : (f.wa n w).pends = f.pends := rfl
@[simp] theorem Firing.wa_late (f : Firing) (n : BitVec 2) (w : BitVec 131072) : (f.wa n w).late = f.late := rfl
@[simp] theorem Firing.wa_data (f : Firing) (n : BitVec 2) (w : BitVec 131072) : (f.wa n w).data = f.data := rfl
@[simp] theorem Firing.wa_groups (f : Firing) (n : BitVec 2) (w : BitVec 131072) : (f.wa n w).groups = f.groups := rfl
@[simp] theorem Firing.wa_pairset (f : Firing) (n : BitVec 2) (w : BitVec 131072) : (f.wa n w).pairset = f.pairset := rfl
@[simp] theorem Firing.wa_tphys (f : Firing) (n : BitVec 2) (w : BitVec 131072) : (f.wa n w).tphys = f.tphys := rfl
@[simp] theorem Firing.wa_paths (f : Firing) (n : BitVec 2) (w : BitVec 131072) : (f.wa n w).paths = f.paths := rfl
@[simp] theorem Firing.wa_opn (f : Firing) (n : BitVec 2) (w : BitVec 131072) : (f.wa n w).opn = f.opn := rfl
@[simp] theorem Firing.wa_granted (f : Firing) (n : BitVec 2) (w : BitVec 131072) : (f.wa n w).granted = f.granted := rfl
@[simp] theorem Firing.wa_run (f : Firing) (n : BitVec 2) (w : BitVec 131072) : (f.wa n w).run = f.run := rfl

@[simp] theorem Firing.orFlags_live (f : Firing) (w : Word) : (f.orFlags w).live = f.live := rfl
@[simp] theorem Firing.orFlags_adm (f : Firing) (w : Word) : (f.orFlags w).adm = f.adm := rfl
@[simp] theorem Firing.orFlags_core (f : Firing) (w : Word) : (f.orFlags w).core = f.core := rfl
@[simp] theorem Firing.orFlags_part (f : Firing) (w : Word) : (f.orFlags w).part = f.part := rfl
@[simp] theorem Firing.orFlags_tid (f : Firing) (w : Word) : (f.orFlags w).tid = f.tid := rfl
@[simp] theorem Firing.orFlags_fid (f : Firing) (w : Word) : (f.orFlags w).fid = f.fid := rfl
@[simp] theorem Firing.orFlags_fcnt (f : Firing) (w : Word) : (f.orFlags w).fcnt = f.fcnt := rfl
@[simp] theorem Firing.orFlags_fparm (f : Firing) (w : Word) : (f.orFlags w).fparm = f.fparm := rfl
@[simp] theorem Firing.orFlags_dem (f : Firing) (w : Word) : (f.orFlags w).dem = f.dem := rfl
@[simp] theorem Firing.orFlags_spbase (f : Firing) (w : Word) : (f.orFlags w).spbase = f.spbase := rfl
@[simp] theorem Firing.orFlags_prio (f : Firing) (w : Word) : (f.orFlags w).prio = f.prio := rfl
@[simp] theorem Firing.orFlags_aged (f : Firing) (w : Word) : (f.orFlags w).aged = f.aged := rfl
@[simp] theorem Firing.orFlags_msg (f : Firing) (w : Word) : (f.orFlags w).msg = f.msg := rfl
@[simp] theorem Firing.orFlags_pc (f : Firing) (w : Word) : (f.orFlags w).pc = f.pc := rfl
@[simp] theorem Firing.orFlags_x (f : Firing) (w : Word) : (f.orFlags w).x = f.x := rfl
@[simp] theorem Firing.orFlags_v (f : Firing) (w : Word) : (f.orFlags w).v = f.v := rfl
@[simp] theorem Firing.orFlags_k (f : Firing) (w : Word) : (f.orFlags w).k = f.k := rfl
@[simp] theorem Firing.orFlags_m (f : Firing) (w : Word) : (f.orFlags w).m = f.m := rfl
@[simp] theorem Firing.orFlags_acc (f : Firing) (w : Word) : (f.orFlags w).acc = f.acc := rfl
@[simp] theorem Firing.orFlags_accf (f : Firing) (w : Word) : (f.orFlags w).accf = f.accf := rfl
@[simp] theorem Firing.orFlags_b (f : Firing) (w : Word) : (f.orFlags w).b = f.b := rfl
@[simp] theorem Firing.orFlags_fstat (f : Firing) (w : Word) : (f.orFlags w).fstat = f.fstat := rfl
@[simp] theorem Firing.orFlags_frm (f : Firing) (w : Word) : (f.orFlags w).frm = f.frm := rfl
@[simp] theorem Firing.orFlags_srix (f : Firing) (w : Word) : (f.orFlags w).srix = f.srix := rfl
@[simp] theorem Firing.orFlags_utvec (f : Firing) (w : Word) : (f.orFlags w).utvec = f.utvec := rfl
@[simp] theorem Firing.orFlags_tcause (f : Firing) (w : Word) : (f.orFlags w).tcause = f.tcause := rfl
@[simp] theorem Firing.orFlags_tval (f : Firing) (w : Word) : (f.orFlags w).tval = f.tval := rfl
@[simp] theorem Firing.orFlags_tpc (f : Firing) (w : Word) : (f.orFlags w).tpc = f.tpc := rfl
@[simp] theorem Firing.orFlags_tstat (f : Firing) (w : Word) : (f.orFlags w).tstat = f.tstat := rfl
@[simp] theorem Firing.orFlags_trepw (f : Firing) (w : Word) : (f.orFlags w).trepw = f.trepw := rfl
@[simp] theorem Firing.orFlags_trepf (f : Firing) (w : Word) : (f.orFlags w).trepf = f.trepf := rfl
@[simp] theorem Firing.orFlags_tfmt (f : Firing) (w : Word) : (f.orFlags w).tfmt = f.tfmt := rfl
@[simp] theorem Firing.orFlags_qlim (f : Firing) (w : Word) : (f.orFlags w).qlim = f.qlim := rfl
@[simp] theorem Firing.orFlags_fewlim (f : Firing) (w : Word) : (f.orFlags w).fewlim = f.fewlim := rfl
@[simp] theorem Firing.orFlags_seedlo (f : Firing) (w : Word) : (f.orFlags w).seedlo = f.seedlo := rfl
@[simp] theorem Firing.orFlags_seedhi (f : Firing) (w : Word) : (f.orFlags w).seedhi = f.seedhi := rfl
@[simp] theorem Firing.orFlags_sstream (f : Firing) (w : Word) : (f.orFlags w).sstream = f.sstream := rfl
@[simp] theorem Firing.orFlags_tshape (f : Firing) (w : Word) : (f.orFlags w).tshape = f.tshape := rfl
@[simp] theorem Firing.orFlags_pfx (f : Firing) (w : Word) : (f.orFlags w).pfx = f.pfx := rfl
@[simp] theorem Firing.orFlags_repw (f : Firing) (w : Word) : (f.orFlags w).repw = f.repw := rfl
@[simp] theorem Firing.orFlags_repf (f : Firing) (w : Word) : (f.orFlags w).repf = f.repf := rfl
@[simp] theorem Firing.orFlags_repbuf (f : Firing) (w : Word) : (f.orFlags w).repbuf = f.repbuf := rfl
@[simp] theorem Firing.orFlags_code (f : Firing) (w : Word) : (f.orFlags w).code = f.code := rfl
@[simp] theorem Firing.orFlags_cr (f : Firing) (w : Word) : (f.orFlags w).cr = f.cr := rfl
@[simp] theorem Firing.orFlags_q12 (f : Firing) (w : Word) : (f.orFlags w).q12 = f.q12 := rfl
@[simp] theorem Firing.orFlags_q12lost (f : Firing) (w : Word) : (f.orFlags w).q12lost = f.q12lost := rfl
@[simp] theorem Firing.orFlags_q13 (f : Firing) (w : Word) : (f.orFlags w).q13 = f.q13 := rfl
@[simp] theorem Firing.orFlags_mmas (f : Firing) (w : Word) : (f.orFlags w).mmas = f.mmas := rfl
@[simp] theorem Firing.orFlags_reports (f : Firing) (w : Word) : (f.orFlags w).reports = f.reports := rfl
@[simp] theorem Firing.orFlags_replost (f : Firing) (w : Word) : (f.orFlags w).replost = f.replost := rfl
@[simp] theorem Firing.orFlags_wait (f : Firing) (w : Word) : (f.orFlags w).wait = f.wait := rfl
@[simp] theorem Firing.orFlags_arrived (f : Firing) (w : Word) : (f.orFlags w).arrived = f.arrived := rfl
@[simp] theorem Firing.orFlags_pends (f : Firing) (w : Word) : (f.orFlags w).pends = f.pends := rfl
@[simp] theorem Firing.orFlags_late (f : Firing) (w : Word) : (f.orFlags w).late = f.late := rfl
@[simp] theorem Firing.orFlags_data (f : Firing) (w : Word) : (f.orFlags w).data = f.data := rfl
@[simp] theorem Firing.orFlags_groups (f : Firing) (w : Word) : (f.orFlags w).groups = f.groups := rfl
@[simp] theorem Firing.orFlags_pairset (f : Firing) (w : Word) : (f.orFlags w).pairset = f.pairset := rfl
@[simp] theorem Firing.orFlags_tphys (f : Firing) (w : Word) : (f.orFlags w).tphys = f.tphys := rfl
@[simp] theorem Firing.orFlags_paths (f : Firing) (w : Word) : (f.orFlags w).paths = f.paths := rfl
@[simp] theorem Firing.orFlags_opn (f : Firing) (w : Word) : (f.orFlags w).opn = f.opn := rfl
@[simp] theorem Firing.orFlags_granted (f : Firing) (w : Word) : (f.orFlags w).granted = f.granted := rfl
@[simp] theorem Firing.orFlags_run (f : Firing) (w : Word) : (f.orFlags w).run = f.run := rfl

@[simp] theorem Firing.advance_live (f : Firing) : (f.advance).live = f.live := by unfold Firing.advance Firing.clrRep; dsimp only; split_ifs <;> rfl
@[simp] theorem Firing.advance_adm (f : Firing) : (f.advance).adm = f.adm := by unfold Firing.advance Firing.clrRep; dsimp only; split_ifs <;> rfl
@[simp] theorem Firing.advance_core (f : Firing) : (f.advance).core = f.core := by unfold Firing.advance Firing.clrRep; dsimp only; split_ifs <;> rfl
@[simp] theorem Firing.advance_part (f : Firing) : (f.advance).part = f.part := by unfold Firing.advance Firing.clrRep; dsimp only; split_ifs <;> rfl
@[simp] theorem Firing.advance_tid (f : Firing) : (f.advance).tid = f.tid := by unfold Firing.advance Firing.clrRep; dsimp only; split_ifs <;> rfl
@[simp] theorem Firing.advance_fid (f : Firing) : (f.advance).fid = f.fid := by unfold Firing.advance Firing.clrRep; dsimp only; split_ifs <;> rfl
@[simp] theorem Firing.advance_fcnt (f : Firing) : (f.advance).fcnt = f.fcnt := by unfold Firing.advance Firing.clrRep; dsimp only; split_ifs <;> rfl
@[simp] theorem Firing.advance_fparm (f : Firing) : (f.advance).fparm = f.fparm := by unfold Firing.advance Firing.clrRep; dsimp only; split_ifs <;> rfl
@[simp] theorem Firing.advance_dem (f : Firing) : (f.advance).dem = f.dem := by unfold Firing.advance Firing.clrRep; dsimp only; split_ifs <;> rfl
@[simp] theorem Firing.advance_spbase (f : Firing) : (f.advance).spbase = f.spbase := by unfold Firing.advance Firing.clrRep; dsimp only; split_ifs <;> rfl
@[simp] theorem Firing.advance_prio (f : Firing) : (f.advance).prio = f.prio := by unfold Firing.advance Firing.clrRep; dsimp only; split_ifs <;> rfl
@[simp] theorem Firing.advance_msg (f : Firing) : (f.advance).msg = f.msg := by unfold Firing.advance Firing.clrRep; dsimp only; split_ifs <;> rfl
@[simp] theorem Firing.advance_x (f : Firing) : (f.advance).x = f.x := by unfold Firing.advance Firing.clrRep; dsimp only; split_ifs <;> rfl
@[simp] theorem Firing.advance_v (f : Firing) : (f.advance).v = f.v := by unfold Firing.advance Firing.clrRep; dsimp only; split_ifs <;> rfl
@[simp] theorem Firing.advance_k (f : Firing) : (f.advance).k = f.k := by unfold Firing.advance Firing.clrRep; dsimp only; split_ifs <;> rfl
@[simp] theorem Firing.advance_m (f : Firing) : (f.advance).m = f.m := by unfold Firing.advance Firing.clrRep; dsimp only; split_ifs <;> rfl
@[simp] theorem Firing.advance_acc (f : Firing) : (f.advance).acc = f.acc := by unfold Firing.advance Firing.clrRep; dsimp only; split_ifs <;> rfl
@[simp] theorem Firing.advance_accf (f : Firing) : (f.advance).accf = f.accf := by unfold Firing.advance Firing.clrRep; dsimp only; split_ifs <;> rfl
@[simp] theorem Firing.advance_b (f : Firing) : (f.advance).b = f.b := by unfold Firing.advance Firing.clrRep; dsimp only; split_ifs <;> rfl
@[simp] theorem Firing.advance_fflags (f : Firing) : (f.advance).fflags = f.fflags := by unfold Firing.advance Firing.clrRep; dsimp only; split_ifs <;> rfl
@[simp] theorem Firing.advance_frm (f : Firing) : (f.advance).frm = f.frm := by unfold Firing.advance Firing.clrRep; dsimp only; split_ifs <;> rfl
@[simp] theorem Firing.advance_srix (f : Firing) : (f.advance).srix = f.srix := by unfold Firing.advance Firing.clrRep; dsimp only; split_ifs <;> rfl
@[simp] theorem Firing.advance_utvec (f : Firing) : (f.advance).utvec = f.utvec := by unfold Firing.advance Firing.clrRep; dsimp only; split_ifs <;> rfl
@[simp] theorem Firing.advance_tcause (f : Firing) : (f.advance).tcause = f.tcause := by unfold Firing.advance Firing.clrRep; dsimp only; split_ifs <;> rfl
@[simp] theorem Firing.advance_tval (f : Firing) : (f.advance).tval = f.tval := by unfold Firing.advance Firing.clrRep; dsimp only; split_ifs <;> rfl
@[simp] theorem Firing.advance_tpc (f : Firing) : (f.advance).tpc = f.tpc := by unfold Firing.advance Firing.clrRep; dsimp only; split_ifs <;> rfl
@[simp] theorem Firing.advance_tstat (f : Firing) : (f.advance).tstat = f.tstat := by unfold Firing.advance Firing.clrRep; dsimp only; split_ifs <;> rfl
@[simp] theorem Firing.advance_trepw (f : Firing) : (f.advance).trepw = f.trepw := by unfold Firing.advance Firing.clrRep; dsimp only; split_ifs <;> rfl
@[simp] theorem Firing.advance_trepf (f : Firing) : (f.advance).trepf = f.trepf := by unfold Firing.advance Firing.clrRep; dsimp only; split_ifs <;> rfl
@[simp] theorem Firing.advance_tfmt (f : Firing) : (f.advance).tfmt = f.tfmt := by unfold Firing.advance Firing.clrRep; dsimp only; split_ifs <;> rfl
@[simp] theorem Firing.advance_qlim (f : Firing) : (f.advance).qlim = f.qlim := by unfold Firing.advance Firing.clrRep; dsimp only; split_ifs <;> rfl
@[simp] theorem Firing.advance_fewlim (f : Firing) : (f.advance).fewlim = f.fewlim := by unfold Firing.advance Firing.clrRep; dsimp only; split_ifs <;> rfl
@[simp] theorem Firing.advance_seedlo (f : Firing) : (f.advance).seedlo = f.seedlo := by unfold Firing.advance Firing.clrRep; dsimp only; split_ifs <;> rfl
@[simp] theorem Firing.advance_seedhi (f : Firing) : (f.advance).seedhi = f.seedhi := by unfold Firing.advance Firing.clrRep; dsimp only; split_ifs <;> rfl
@[simp] theorem Firing.advance_sstream (f : Firing) : (f.advance).sstream = f.sstream := by unfold Firing.advance Firing.clrRep; dsimp only; split_ifs <;> rfl
@[simp] theorem Firing.advance_tshape (f : Firing) : (f.advance).tshape = f.tshape := by unfold Firing.advance Firing.clrRep; dsimp only; split_ifs <;> rfl
@[simp] theorem Firing.advance_pfx (f : Firing) : (f.advance).pfx = f.pfx := by unfold Firing.advance Firing.clrRep; dsimp only; split_ifs <;> rfl
@[simp] theorem Firing.advance_repw (f : Firing) : (f.advance).repw = f.repw := by unfold Firing.advance Firing.clrRep; dsimp only; split_ifs <;> rfl
@[simp] theorem Firing.advance_repf (f : Firing) : (f.advance).repf = f.repf := by unfold Firing.advance Firing.clrRep; dsimp only; split_ifs <;> rfl
@[simp] theorem Firing.advance_code (f : Firing) : (f.advance).code = f.code := by unfold Firing.advance Firing.clrRep; dsimp only; split_ifs <;> rfl
@[simp] theorem Firing.advance_cr (f : Firing) : (f.advance).cr = f.cr := by unfold Firing.advance Firing.clrRep; dsimp only; split_ifs <;> rfl
@[simp] theorem Firing.advance_q12 (f : Firing) : (f.advance).q12 = f.q12 := by unfold Firing.advance Firing.clrRep; dsimp only; split_ifs <;> rfl
@[simp] theorem Firing.advance_q12lost (f : Firing) : (f.advance).q12lost = f.q12lost := by unfold Firing.advance Firing.clrRep; dsimp only; split_ifs <;> rfl
@[simp] theorem Firing.advance_q13 (f : Firing) : (f.advance).q13 = f.q13 := by unfold Firing.advance Firing.clrRep; dsimp only; split_ifs <;> rfl
@[simp] theorem Firing.advance_mmas (f : Firing) : (f.advance).mmas = f.mmas := by unfold Firing.advance Firing.clrRep; dsimp only; split_ifs <;> rfl
@[simp] theorem Firing.advance_reports (f : Firing) : (f.advance).reports = f.reports := by unfold Firing.advance Firing.clrRep; dsimp only; split_ifs <;> rfl
@[simp] theorem Firing.advance_replost (f : Firing) : (f.advance).replost = f.replost := by unfold Firing.advance Firing.clrRep; dsimp only; split_ifs <;> rfl
@[simp] theorem Firing.advance_arrived (f : Firing) : (f.advance).arrived = f.arrived := by unfold Firing.advance Firing.clrRep; dsimp only; split_ifs <;> rfl
@[simp] theorem Firing.advance_pends (f : Firing) : (f.advance).pends = f.pends := by unfold Firing.advance Firing.clrRep; dsimp only; split_ifs <;> rfl
@[simp] theorem Firing.advance_late (f : Firing) : (f.advance).late = f.late := by unfold Firing.advance Firing.clrRep; dsimp only; split_ifs <;> rfl
@[simp] theorem Firing.advance_data (f : Firing) : (f.advance).data = f.data := by unfold Firing.advance Firing.clrRep; dsimp only; split_ifs <;> rfl
@[simp] theorem Firing.advance_groups (f : Firing) : (f.advance).groups = f.groups := by unfold Firing.advance Firing.clrRep; dsimp only; split_ifs <;> rfl
@[simp] theorem Firing.advance_pairset (f : Firing) : (f.advance).pairset = f.pairset := by unfold Firing.advance Firing.clrRep; dsimp only; split_ifs <;> rfl
@[simp] theorem Firing.advance_tphys (f : Firing) : (f.advance).tphys = f.tphys := by unfold Firing.advance Firing.clrRep; dsimp only; split_ifs <;> rfl
@[simp] theorem Firing.advance_paths (f : Firing) : (f.advance).paths = f.paths := by unfold Firing.advance Firing.clrRep; dsimp only; split_ifs <;> rfl
@[simp] theorem Firing.advance_opn (f : Firing) : (f.advance).opn = f.opn := by unfold Firing.advance Firing.clrRep; dsimp only; split_ifs <;> rfl
@[simp] theorem Firing.advance_run (f : Firing) : (f.advance).run = f.run := by unfold Firing.advance Firing.clrRep; dsimp only; split_ifs <;> rfl

@[simp] theorem Firing.rx_zero (f : Firing) : f.rx 0 = 0 := rfl
@[simp] theorem Firing.rk_zero (f : Firing) : f.rk 0 = BitVec.allOnes 64 := rfl
@[simp] theorem Firing.wx_zero (f : Firing) (w : Word) : f.wx 0 w = f := rfl
@[simp] theorem Firing.wk_zero (f : Firing) (w : Word) : f.wk 0 w = f := rfl

/-- A scalar register other than x0 reads what was written to it. -/
theorem Firing.rx_wx_self (f : Firing) {n : BitVec 6} (h : n ≠ 0) (w : Word) : (f.wx n w).rx n = w := by
  unfold Firing.rx Firing.wx; rw [if_neg h, if_neg h]; simp

/-- Any other scalar register is left as it was. -/
theorem Firing.rx_wx_other (f : Firing) {n m : BitVec 6} (h : m ≠ n) (w : Word) : (f.wx n w).rx m = f.rx m := by
  have : n.toNat ≠ m.toNat := fun e => h (BitVec.eq_of_toNat_eq e.symm)
  unfold Firing.rx Firing.wx
  split_ifs <;> first | rfl | simp [this]

/-- A mask other than k0 reads what was written to it. -/
theorem Firing.rk_wk_self (f : Firing) {n : BitVec 3} (h : n ≠ 0) (w : Word) : (f.wk n w).rk n = w := by
  unfold Firing.rk Firing.wk; rw [if_neg h, if_neg h]; simp

/-- Any other mask is left as it was. -/
theorem Firing.rk_wk_other (f : Firing) {n m : BitVec 3} (h : m ≠ n) (w : Word) : (f.wk n w).rk m = f.rk m := by
  have : n.toNat ≠ m.toNat := fun e => h (BitVec.eq_of_toNat_eq e.symm)
  unfold Firing.rk Firing.wk
  split_ifs <;> first | rfl | simp [this]

/-- A vector register reads what was written to it. -/
theorem Firing.rv_wv_self (f : Firing) (n : BitVec 5) (w : Vec) : (f.wv n w).rv n = w := by
  simp [Firing.rv, Firing.wv]

/-- Any other vector register is left as it was. -/
theorem Firing.rv_wv_other (f : Firing) {n m : BitVec 5} (h : m ≠ n) (w : Vec) : (f.wv n w).rv m = f.rv m := by
  have : n.toNat ≠ m.toNat := fun e => h (BitVec.eq_of_toNat_eq e.symm)
  simp [Firing.rv, Firing.wv, this]

/-- Outside a REP frame an instruction ends at the next word (R104). -/
theorem Firing.advance_plain (f : Firing) (h : f.repact = false) :
    f.advance = { f with pc := f.pc + 4, wait := none, granted := false, aged := false } := by
  unfold Firing.advance; rw [if_neg (by simp [h])]

end Sys2Proof.Machine
end

