-- ==== Sys2Proof/Laws/Mem.lean ====
section
/-! SUPPORT. Memory keeps its one form under every operation on it, and a read after a write. -/

namespace Sys2Proof.Machine

/-- A lower bound may be lowered. -/
theorem Mem.above_mono {m : Mem} {lo hi : Nat} (h : Mem.above hi m = true) (hl : lo ≤ hi) : Mem.above lo m = true := by
  cases m with
  | nil => rfl
  | cons c m =>
    simp only [Mem.above, Bool.and_eq_true, decide_eq_true_eq] at h ⊢
    exact ⟨⟨by omega, h.1.2⟩, h.2⟩

/-- Storing a byte at or above a bound keeps the form above it. -/
theorem Mem.above_set {m : Mem} {lo a : Nat} {b : Byte} (h : Mem.above lo m = true) (hl : lo ≤ a) :
    Mem.above lo (m.set a b) = true := by
  induction m generalizing lo with
  | nil =>
    unfold Mem.set
    split
    · rfl
    · simp_all [Mem.above]
  | cons c m ih =>
    obtain ⟨k, c⟩ := c
    simp only [Mem.above, Bool.and_eq_true, decide_eq_true_eq] at h
    unfold Mem.set
    split_ifs with h1 h2 h3 h4
    · simpa only [Mem.above, Bool.and_eq_true, decide_eq_true_eq] using h
    · simp only [Mem.above, Bool.and_eq_true, decide_eq_true_eq, bne_iff_ne, ne_eq]
      exact ⟨⟨hl, h2⟩, ⟨by omega, by simpa using h.1.2⟩, h.2⟩
    · exact Mem.above_mono h.2 (by omega)
    · simp only [Mem.above, Bool.and_eq_true, decide_eq_true_eq, bne_iff_ne, ne_eq]
      exact ⟨⟨hl, h4⟩, h3 ▸ h.2⟩
    · simp only [Mem.above, Bool.and_eq_true, decide_eq_true_eq]
      exact ⟨h.1, ih h.2 (by omega)⟩

/-- Storing a byte keeps the form. -/
theorem Mem.wf_set {m : Mem} (h : m.wf = true) (a : Nat) (b : Byte) : (m.set a b).wf = true := Mem.above_set h (Nat.zero_le a)

/-- Storing bytes keeps the form. -/
theorem Mem.wf_write {m : Mem} (h : m.wf = true) (a n v : Nat) : (m.write a n v).wf = true := by
  induction n generalizing m a v with
  | zero => exact h
  | succ n ih => exact ih (Mem.wf_set h _ _) _ _

/-- Forgetting bytes keeps the form. -/
theorem Mem.above_filter {m : Mem} {lo : Nat} (h : Mem.above lo m = true) (p : Host.Cell → Bool) :
    Mem.above lo (m.filter p) = true := by
  induction m generalizing lo with
  | nil => rfl
  | cons c m ih =>
    simp only [Mem.above, Bool.and_eq_true, decide_eq_true_eq] at h
    by_cases hc : p c = true
    · rw [List.filter_cons_of_pos hc]
      simp only [Mem.above, Bool.and_eq_true, decide_eq_true_eq]
      exact ⟨h.1, ih h.2⟩
    · rw [List.filter_cons_of_neg hc]
      exact ih (Mem.above_mono h.2 (by omega))

/-- Bytes going home keep the form. -/
theorem Mem.wf_putAll {m : Mem} (h : m.wf = true) (l : List (Nat × Byte)) : (m.putAll l).wf = true := by
  induction l generalizing m with
  | nil => exact h
  | cons c l ih => exact ih (Mem.wf_set h _ _)

/-- A and D updates keep the form. -/
theorem Mem.wf_orKeys {m : Mem} (h : m.wf = true) (v : Nat) (ks : List Nat) : (orKeys m v ks).wf = true := by
  induction ks generalizing m with
  | nil => exact h
  | cons k ks ih => exact ih (Mem.wf_write h _ _ _)

/-- Storing bytes of a dword by a mask keeps the form. -/
theorem Mem.wf_writeMasked {m : Mem} (h : m.wf = true) (key : Nat) (mask : BitVec 8) (v : Word) : (m.writeMasked key mask v).wf = true := by
  unfold Mem.writeMasked
  generalize List.range 8 = l
  induction l generalizing m with
  | nil => exact h
  | cons i l ih => exact ih (by dsimp only; split; exacts [Mem.wf_set h _ _, h])

/-- Storing dwords keeps the form. -/
theorem Mem.wf_writeDwords {m : Mem} (h : m.wf = true) (a : Nat) (ws : List Word) : (writeDwords m a ws).wf = true := by
  induction ws generalizing m a with
  | nil => exact h
  | cons w ws ih => exact ih (Mem.wf_write h _ _ _) _

/-- A stream header's counters kept (R83), and an actor's commit (R82), keep the form. -/
theorem Mem.wf_keepHeader {m : Mem} (h : m.wf = true) (old : Mem) (k : Nat) : (keepHeader old m k).wf = true := by
  unfold keepHeader
  repeat' apply Mem.wf_write
  exact h

theorem Mem.wf_commitOne {m : Mem} (h : m.wf = true) (recd : List Word) : (commitOne recd m).wf = true := by
  unfold commitOne
  generalize List.range 8 = l
  induction l generalizing m with
  | nil => exact h
  | cons i l ih => exact ih (by dsimp only; split; exacts [Mem.wf_write h _ _ _, h])

/-- Below a bound nothing is listed. -/
theorem Mem.get_above {m : Mem} {lo a : Nat} (h : Mem.above lo m = true) (ha : a < lo) : m.get a = 0 := by
  cases m with
  | nil => rfl
  | cons c m =>
    simp only [Mem.above, Bool.and_eq_true, decide_eq_true_eq] at h
    unfold Mem.get
    rw [if_pos (by omega)]

/-- The byte stored is the byte read, and every other byte is as it was. -/
theorem Mem.get_set {m : Mem} {lo : Nat} (h : Mem.above lo m = true) (a : Nat) (b : Byte) (x : Nat) :
    (m.set a b).get x = if x = a then b else m.get x := by
  induction m generalizing lo with
  | nil =>
    unfold Mem.set
    split_ifs <;> simp_all [Mem.get]
  | cons c m ih =>
    obtain ⟨k, c⟩ := c
    simp only [Mem.above, Bool.and_eq_true, decide_eq_true_eq] at h
    have hget : ∀ y, y < k + 1 → Mem.get m y = 0 := fun y hy => Mem.get_above h.2 hy
    have hx := ih h.2
    have hx0 : x < k + 1 → Mem.get m x = 0 := hget x
    by_cases h1 : a < k
    · by_cases h2 : b = 0
      · rw [Mem.set, if_pos h1, if_pos h2]
        split_ifs with h3
        · rw [Mem.get, if_pos (by omega), h2]
        · rfl
      · rw [Mem.set, if_pos h1, if_neg h2]
        simp only [Mem.get]
        split_ifs <;> first | rfl | omega
    · by_cases h2 : a = k
      · by_cases h4 : b = 0
        · rw [Mem.set, if_neg h1, if_pos h2, if_pos h4]
          simp only [Mem.get]
          split_ifs <;> first | rfl | omega | exact (hx0 (by omega)).trans h4.symm | exact hx0 (by omega)
        · rw [Mem.set, if_neg h1, if_pos h2, if_neg h4]
          simp only [Mem.get]
          split_ifs <;> first | rfl | omega
      · rw [Mem.set, if_neg h1, if_neg h2, Mem.get, Mem.get, hx]
        split_ifs <;> first | rfl | omega

/-- Bytes stored leave every byte outside them as it was. -/
theorem Mem.get_write_other {m : Mem} (h : m.wf = true) (a n v x : Nat) (hx : x < a ∨ a + n ≤ x) :
    (m.write a n v).get x = m.get x := by
  induction n generalizing m a v with
  | zero => rfl
  | succ n ih =>
    unfold Mem.write
    rw [ih (Mem.wf_set h _ _) _ _ (by omega), Mem.get_set h]
    rw [if_neg (by omega)]

end Sys2Proof.Machine
end

