-- ==== Sys2Proof/Tests/Slice0.lean ====
section
/-! SUPPORT. Small tests: witnesses that the hypotheses of each obligation are met, words and effects the spec writes out, terms that are
not well-formed. Every expected value is from the spec. -/

section

set_option Elab.async false

open Sys2Proof Sys2Proof.Machine

namespace Sys2Proof.Tests

/-! ## The small states the tests are on -/

/-- A running firing of the compute core of frond 0, with all registers allocated and a handler. -/
def f0 : Firing :=
  { Firing.blank with
    live := true
    adm := 1
    core := 1
    pc := 0x40000000
    dem := { xregs := 64, vregs := 32, tiles := 8, accs := 4, btiles := 8, spad := 4096 }
    utvec := 0x40004002 }

/-- The machine with that firing. -/
def s0 : State := { State.reset with fir := f0, next := 2 }

/-- The state with scalar registers set. -/
def withX (s : State) (l : List (BitVec 6 × Nat)) : State := l.foldl (fun s p => s.wx p.1 (BitVec.ofNat 64 p.2)) s

/-- The next state's part that a test looks at. -/
def after (o : Host.Outcome State Fault Refusal) (g : State → Bool) : Bool :=
  match o with
  | .next v => g v
  | _ => false

/-- An access that succeeds at a place near the firing. -/
def okNear (wr : Bool) (n : Nat) (r : Except Stop (State × Place)) : Bool :=
  match r with
  | .ok (u, pl) => u.near wr n pl
  | .error _ => false

/-- Such an access has a place. -/
theorem okNear_place (wr : Bool) (n : Nat) (r : Except Stop (State × Place)) (h : okNear wr n r = true) :
    ∃ u pl, r = .ok (u, pl) ∧ u.near wr n pl = true := by
  cases r with
  | error e => cases h
  | ok x => exact ⟨x.1, x.2, rfl, h⟩

/-- Accesses of several elements that succeed at places near the firing, n of them. -/
def okNears {α : Type} (wr : Bool) (n : Nat) (r : Except Stop (State × List (α × Place))) (count : Nat) : Bool :=
  match r with
  | .ok (u, pls) => (pls.all fun p => u.near wr n p.2) && pls.length == count
  | .error _ => false

/-- The firing with its status register. -/
def withStat (s : State) (w : Word) : State := s.upd fun f => { f with fstat := w }

/-- State.Issues, as something to evaluate. -/
def issues (s : State) (i : Instr) : Bool :=
  s.fir.active && !s.fir.fpend && legal i && !stageIll s.fir (opsOf i) && (s.fir.outside (opsOf i)).isNone

theorem issues_iff (s : State) (i : Instr) : issues s i = true ↔ s.Issues i := by
  simp [issues, State.Issues, and_assoc]

/-- Every one of a list holds. -/
abbrev holdAll (l : List Bool) : Prop := l.all id = true

/-- Such an access, and something of what it gives. -/
def okAt (wr : Bool) (n : Nat) (r : Except Stop (State × Place)) (g : State → Place → Bool) : Bool :=
  match r with
  | .ok (u, pl) => u.near wr n pl && g u pl
  | .error _ => false

/-- The machine with a page table and memory: a device page at 1 GiB, shared memory, and registers x5 to x8 that hold an address in the own
scratchpad, in shared memory, in the page, and of an exact cell; x9 is 1. -/
def m0 : State :=
  let s := (s0.placeWord 0).onPart 0 fun p => { p with shmlen := 0x20000000, shtbase := 0x40010000, shtlen := 2 }
  let m := (s.mem.write 0x40001000 8 0x8877665544332211).write (shmKey 0x2000) 8 0x99
  let m := (m.write 0x40010100 8 (2 ^ 63 + 2 * 16 + 2)).write 0x40010108 8 0x40020000
  let m := ((m.write 0x40010110 8 4).write 0x40010120 8 (6 + 2 ^ 40)).write 0x40010128 8 (2 + 2 * 2 ^ 40)
  let m := ((m.write 0x40010130 8 20).write 0x40010138 8 10).write 0x40010140 8 (5 + 2 * 2 ^ 40)
  let m := ((m.write 0x40010148 8 4).write 0x40020000 16 ((0x1FF2 * 2 ^ 44 + 0x2000) * 2 ^ 64)).write 0x40020030 16 (0x40001000 * 2 ^ 64)
  let s := { s with mem := m, full := [(shmKey 0x2000) / 8] }
  let s := s.onFrond 0 fun f => { f with snap := m, held := [(0x40001008, 7), (0x40001009, 8)] }
  withX s [(5, 0x1FF0 * 2 ^ 44 + 0x1000), (6, 0x1FF2 * 2 ^ 44 + 0x2000), (7, 0x40001000), (8, 0x1FF2 * 2 ^ 44 + 0x2040), (9, 1)]

/-- State.quietOrder and State.quietFrond, as something to evaluate. -/
def quiet (s : State) : Bool :=
  s.fir.paths.isEmpty && (s.unacked.all fun u => u.adm != s.fir.adm) && !s.posting s.fir && s.dev.cxlDown.isEmpty && s.dev.cxlOn == 3

theorem quiet_order (s : State) (h : quiet s = true) : s.quietOrder ∧ s.quietFrond := by
  simp only [quiet, Bool.and_eq_true, List.isEmpty_iff, List.all_eq_true, bne_iff_ne, Bool.not_eq_true', beq_iff_eq] at h
  obtain ⟨⟨⟨⟨h1, h2⟩, h3⟩, h4⟩, h5⟩ := h
  exact ⟨⟨h1, h2, h3, h4, h5⟩, h3, h4, h5⟩

/-- State.banksFree. -/
def banks (s : State) : Bool :=
  s.cores[s.fir.core].busy.isEmpty && (s.loggedTeam s.fir).isNone && s.fir.live && s.fr.locks.isEmpty && s.filt.isEmpty

/-- A wait of the acting firing's instruction. -/
def waitsAt (i : Instr) (s : State) (w : Wait) : Bool :=
  match exec i s with
  | .next t => t.fir.wait == some w
  | _ => false

/-- The word a firing runs traps with a cause and a value; a frame is left or not. -/
def trapsWith (o : Host.Outcome State Fault Refusal) (tc val : Word) (frame : Bool) : Bool :=
  match o with
  | .next t => t.fir.tcause == tc && t.fir.tval == val && bit t.fir.tstat 23 == frame
  | _ => false

/-- Lanes that all pass, n of them. -/
def okLanes (wr : Bool) (n : Nat) (r : Except Stop (State × List (Nat × Place) × Option Trap)) (count : Nat) : Bool :=
  match r with
  | .ok (u, pls, none) => (pls.all fun p => u.near wr n p.2) && pls.length == count && !u.earlier
  | _ => false


/-! ## Witnesses: states and operands that meet the hypotheses of the statements -/

theorem witness_IntegerInstructions : holdAll [
    [Instr.add 5 6 7, .addi 5 6 0x1000, .div 5 6 7, .sel 0 6 7 8, .lui 63 0x7FFFF].all fun i => issues s0 i && (intResult s0.fir i).isSome,
    issues s0 (.movxRead 5 6 63), issues s0 (.movxWrite 6 1023 5),
    movxTarget s0.fir 6 63 == some 63, movxTarget s0.fir 6 64 == none, movxTarget s0.fir 6 1023 == none] := by decide +kernel

theorem witness_FloatResults : holdAll [
    [Instr.fadd .f32 .rne 5 6 7, .fcvt .dyn true 5 6 .i32 .f64, .fmadd .f64 .rdn 5 6 7].all fun i => issues s0 i && (floatResult s0.fir i).isSome,
    issues s0 (.fsgnj .f32 5 6 7), (signResult s0.fir (.fsgnj .f32 5 6 7)).isSome] := by decide +kernel

theorem witness_Rounding : f32.value 0x3FC00000 = .fin false 0xC00000 (-23) ∧ f64.value 1 = .fin false 1 (-1074) ∧
    roundTo f32 .rne false false 3 (-1) false 0 = (0x3FC00000, 0) ∧ roundTo f32 .rne false true 1 (-200) false 0 = (0x80000000, fNX ||| fUF) ∧
    (fNX ||| fUF) &&& fOF = 0 := by decide +kernel

theorem witness_ScalarFrame : holdAll [
    [Instr.add 5 6 7, .fadd .f32 .rne 5 6 7, .fsgnj .f64 5 6 7, .movxRead 5 6 63, .movxWrite 6 5 7].all fun i =>
      issues s0 i && scalarDest s0.fir i == some 5 && after (exec i s0) fun t => t.traps == s0.traps] := by decide +kernel

theorem witness_ControlTransfers : holdAll [
    [Instr.beq 5 6 511, .bne 5 6 512, .blt 5 6 0, .bge 5 6 1, .bltu 5 6 1, .bgeu 5 6 1, .beqz 5 1, .bnez 5 0x20000].all fun i =>
      issues s0 i && (branchTaken s0.lead i).isSome,
    issues s0 (.jal 1 0x40000), issues s0 (.jalr 1 2 4), issues s0 (.loopn 5 0x3FFFF),
    (s0.lead.rx 2 + (4#13).signExtend 64).toNat % 4 == 0, (s0.lead.rx 2 + (5#13).signExtend 64).toNat % 4 != 0,
    (withX s0 [(5, 1)]).lead.rx 5 == 1, s0.lead.rx 5 != 1] := by decide +kernel

/-- A firing in a frame of 8 instructions and 4 passes, at a position and a pass. -/
def inFrame (i j : Nat) : Firing :=
  { f0 with repw := encode (.rep 7 3 9 15), repf := 0x40000000, fstat := BitVec.ofNat 64 (2 ^ 23 + i * 2 ^ 19 + j * 2 ^ 13) }

theorem witness_RepFrames : holdAll [
    issues s0 (.rep 15 63 15 15),
    -- R29, R36, R104: a word that may not be captured; a mask bit 3 of a two-source ADD; x2 moved by one pass of -1 below x2 and x0 below 0
    capturable (encode (.jal 1 4)) == false, capturable (encode (.add 5 6 7)),
    trapsWith (({ s0 with fir := inFrame 0 0 }).runWord (encode (.jal 1 4))) 1 ((encode (.jal 1 4)).setWidth 64) false,
    trapsWith (({ s0 with fir := inFrame 0 1 }).runWord (encode (.add 5 6 7))) 1 ((encode (.add 5 6 7)).setWidth 64) false,
    trapsWith (({ s0 with fir := { inFrame 0 1 with repw := encode (.rep 7 3 1 15) } }).runWord (encode (.add 0 6 7))) 2 (BitVec.ofInt 64 (-1)) true,
    trapsWith (({ s0 with fir := { inFrame 0 1 with repw := encode (.rep 7 3 1 15), fstat := (inFrame 0 1).fstat ||| 1 } }).runWord
      (encode (.add 0 6 7))) 1 ((encode (.add 0 6 7)).setWidth 64) true,
    [(0, 0), (6, 3), (7, 2), (7, 3)].all fun p => (inFrame p.1 p.2).repact && (inFrame p.1 p.2).repi == p.1 && (inFrame p.1 p.2).repj == p.2,
    ((inFrame 7 3).repw.extractLsb' 28 4).toNat == 7, ((inFrame 7 3).repw.extractLsb' 22 6).toNat == 3, !f0.repact] := by decide +kernel

theorem witness_SpecialRegisters : holdAll [
    [0x008#11, 0x00A, 0x011, 0x017, 0x019, 0x027, 0x032, 0x040, 0x048, 0x04F].all fun c =>
      (csrValue s0 c.toNat).isSome && issues s0 (.csrw 5 c 6) && issues s0 (.csrs 5 c 0) && issues s0 (.csrc 5 c 6),
    [0x000#11, 0x006].all fun c => (csrValue s0 c.toNat).isSome && issues s0 (.csrs 5 c 0) && issues s0 (.csrc 5 c 0),
    (withStat s0 0x20).fir.sup, [0x400#11, 0x7FF].all fun c => issues (withStat s0 0x20) (.csrw 5 c 6) && issues (withStat s0 0x20) (.csrs 5 c 6) &&
      issues (withStat s0 0x20) (.csrc 5 c 6),
    !s0.fir.sup, issues s0 .halt, [0x400#11, 0x643].all fun c => issues s0 (.csrw 5 c 6) && issues s0 (.csrs 5 c 6) && issues s0 (.csrc 5 c 6)] := by
  decide +kernel

/-- A partition's ring of one slot, with a record in it or not. -/
def withRing (s : State) (full : Bool) : State := s.onPart 0 fun p => { p with trbase := 0x60000, trtail := if full then 1 else 0 }

theorem witness_TrapEntry : holdAll [Cause.align.user, !Cause.page.user, s0.fir.utvec != 0, !s0.fir.intrap, (withStat s0 0x10).fir.intrap,
    State.reset.fir.utvec == 0, !(withRing s0 false).part.ringFull, (withRing s0 false).part.held == [], (withRing s0 true).part.ringFull,
    Cause.align.user && decide (255 < 256)] := by
  decide +kernel

theorem witness_TrapInstructions : holdAll [issues s0 (.trap 5), s0.fir.active, !s0.fir.fpend, !s0.fir.intrap,
    (withStat s0 0x10).fir.active, !(withStat s0 0x10).fir.fpend, (withStat s0 0x10).fir.intrap, !(withStat s0 0x10).fir.badTret,
    -- tstat with a place past the frame of a REP of 1 instruction; a prefix pending
    (withStat (s0.upd fun f => { f with tstat := 0x880000, trepw := 0 }) 0x10).fir.badTret, (withStat s0 0x11).fir.fpend,
    issues s0 (.hint 0x1FFFF), issues (withStat s0 0x20) .halt, (withStat s0 0x20).fir.sup, !(withRing (withStat s0 0x20) false).part.ringFull] := by
  decide +kernel

/-- A firing with 16 scalar registers on a stage core. -/
def onStage : State := s0.upd fun f => { f with core := 0, dem := { f.dem with xregs := 16 } }

theorem witness_IllAndRegrange : holdAll [(withStat s0 1).fir.active, (withStat s0 1).fir.fpend, onStage.fir.active, !onStage.fir.fpend,
    onStage.fir.outside (opsOf (.add 15 16 63)) == some 16, onStage.fir.stage, !onStage.fir.repact,
    [Instr.add 15 16 63, .acczero 0, .qget 5 3, .csrw 5 0x400 6, .fmt .e2m1 .e2m1 true 14 0 false].all fun i => encode i != 0 && i != .tret,
    !takesPrefix (.add 15 16 63), takesPrefix (.vcvt .rne false false 1 2 0), stageIll onStage.fir (opsOf (.acczero 0)),
    popsOf (.qget 5 3) == some 3, pushesTo (.qput 4 5) == some 4, pushesTo (.qput 12 5) == some 12, popsOf (.vqget 5 8) == some 8, legal (.vqget 5 8),
    trapsWith (exec (.acczero 0) onStage) 1 ((encode (.acczero 0)).setWidth 64) false, trapsWith (exec (.qget 5 3) onStage) 1 ((encode (.qget 5 3)).setWidth 64) false,
    trapsWith (exec (.csrw 5 0x400 6) onStage) (BitVec.ofNat 64 Cause.priv.code) ((encode (.csrw 5 0x400 6)).setWidth 64) false,
    trapsWith (exec (.add 15 16 63) onStage) 2 16 false,
    trapsWith (exec (.vcvt .rne false false 1 2 0) s0) 1 ((encode (.vcvt .rne false false 1 2 0)).setWidth 64) false,
    match decode 0 with
    | .ok _ => false
    | .bad _ => true] := by decide +kernel


theorem witness_AccessChecks : holdAll [
    !lockHit m0.fr.locks .store (0x1FF0 * 2 ^ 44 + 2 ^ 20 - 64) 64, !m0.fir.sup, issues m0 (.ld .n8 10 5 1023), issues m0 (.st .d 5 10 4),
    (match m0.access .load ((m0.rx 5).toNat + (1#10).toInt) 8 8 with
     | .error (.trap t) => t.c == .align
     | _ => false),
    (match m0.access .store ((m0.rx 0).toNat + (511#10).toInt) 1 1 with
     | .error (.trap t) => t.c == .page
     | _ => false),
    m0.mem.wf, (m0.translate 0 0 0x40001000 true).isSome, (m0.translate 0 0 0x7FFFFFFF false).isSome] := by decide +kernel

/-- The machine with all 64 loads of its core outstanding; and with a placed actor whose input stream has its header at shared-memory offset
0x2000, CONS0 7 there. -/
def loads64 : State := { m0 with agenda := [{ Ev.blank with op := .gatherLaneReturn, a := 1, l := [64] }] }
def actors : State :=
  let slots : List Word := [0, 0, 0, 2 ^ 30, 0, 0, 0, 0, 0, 0, 0, 0, 2 ^ 31 + 2 ^ 23 + 0x80, 0, 0, 0]
  { m0 with teams := [{ newTeam 50 0 3 9 slots with ready := true }], mem := m0.mem.write (shmKey 0x2018) 8 7 }

theorem witness_LoadsAndStores : holdAll [
    [LdTy.i8, .i16, .i32, .n8, .n16, .n32, .n64].all fun t => [5#6, 6, 7].all fun b =>
      issues m0 (.ld t 10 b 0x3F8) && okNear false (ldSize t).1 (m0.access .load ((m0.rx b).toNat + (0x3F8#10).toInt) (ldSize t).1 (ldSize t).1),
    [StSz.b, .h, .w, .d].all fun t => [5#6, 6, 7].all fun b =>
      issues m0 (.st t b 504 9) && okNear true (stSize t) (m0.access .store ((m0.rx b).toNat + (504#10).toInt) (stSize t) (stSize t)),
    m0.mem.wf, decide (m0.loadsOut m0.fir.core + 1 ≤ 64),
    -- 64 lanes outstanding (R157); a store that reaches the header of a stream of a placed actor (R83)
    decide (64 < loads64.loadsOut loads64.fir.core + 1), issues loads64 (.ld .n8 10 5 1), waitsAt (.ld .n8 10 5 1) loads64 .loads,
    okAt true 8 (loads64.access .load ((loads64.rx 5).toNat + (1#10).toInt) 1 1) fun _ _ => true,
    actors.headers == [shmKey 0x2000], issues actors (.st .d 6 3 9),
    after (exec (.st .d 6 3 9) actors) fun t => t.mem.read (shmKey 0x2018) 8 == 7] := by decide +kernel

/-- The machine with accesses of firing 2 waiting for the empty word beside the full one. -/
def feWaits (n : Nat) : State :=
  let w : FeWait := { key := shmKey 0x2008, load := true, sets := false, val := 0, rd := 3, adm := 2, addr := 0, shard := 0, peer := none }
  { m0 with retry := List.replicate n w, others := [{ f0 with adm := 2, core := 3, wait := some .fullEmpty }] }

theorem witness_FullEmpty : holdAll [
    m0.mem.wf, m0.retry.length == 0,
    [LdMode.wf, .wfe].all fun m => [(0#10, true), (8#10, false)].all fun p => issues m0 (.ldfe m 10 6 p.1) &&
      okAt true 8 (m0.access (ldfeAcc (m == .wfe)) ((m0.rx 6).toNat + p.1.toInt) 8 8) fun u pl => u.isFull pl.key == p.2 && u.retry.isEmpty,
    [StMode.we, .sf].all fun m => [(0#10, true), (8#10, false)].all fun p => issues m0 (.stfe m 6 p.1 10) &&
      okAt true 8 (m0.access stfeAcc ((m0.rx 6).toNat + p.1.toInt) 8 8) fun u pl => u.isFull pl.key == p.2 && u.retry.isEmpty,
    -- with another firing's access to the same word waiting, and with the 256 of a home's list (R149)
    after (exec (.ldfe .wf 10 6 8) (feWaits 1)) fun t => t.fir.wait == some .fullEmpty && t.retry.length == 2 && (t.retry.getLast?.map FeWait.adm) == some 1,
    after (exec (.ldfe .wf 10 6 0) (feWaits 1)) fun t => t.rx 10 == 0x99, after (exec (.ldfe .wf 10 6 8) (feWaits 256)) fun t => t.fir.wait == some .resend,
    (m0.loggedTeam m0.fir).isNone] := by decide +kernel

theorem witness_VectorLoadsAndStores : holdAll [
    m0.mem.wf, m0.fir.data.isEmpty, m0.loadsOut m0.fir.core == 0,
    [ElemTy.n8, .i16, .f32, .n64].all fun t => [5#6, 6, 7].all fun x =>
      issues m0 (.vld t 3 x 0) && okNears false (esize t) (m0.elemPlaces .load (esize t) (fun e => (m0.rx x).toNat + e * (esize t : Int)) (activeElems (m0.fir.rk 0) (esize t)))
        (256 / esize t),
    issues m0 (.vlds .n32 3 5 9 1), okNears false 4 (m0.elemPlaces .load 4 (fun e => (m0.rx 5).toNat + e * (m0.rx 9).toInt) (activeElems (m0.fir.rk 1) 4)) 0,
    issues m0 (.vst .n64 5 3 0), okNears true 8 (m0.elemPlaces .store 8 (fun e => (m0.rx 5).toNat + e * (8 : Int)) (activeElems (m0.fir.rk 0) 8)) 32,
    issues m0 (.vsts .n8 5 3 9 0), okNears true 1 (m0.elemPlaces .store 1 (fun e => (m0.rx 5).toNat + e * (m0.rx 9).toInt) (activeElems (m0.fir.rk 0) 1)) 256] := by
  decide +kernel

theorem witness_GathersAndScatters : holdAll [
    m0.fir.pends.isEmpty, m0.fr.locks.isEmpty, m0.others.isEmpty, m0.loadsOut m0.fir.core == 0,
    -- lane 1 of a 64-bit scatter, its index in lane 2, traps with tval 2 (R52, R155)
    after (exec (.vstx .n64 5 4 3 0) (m0.upd fun f => f.wv 4 (setElem 0 32 2 0x80000000))) fun t => t.fir.tval == 2,
    [(ElemTy.n8, 64), (.n32, 64), (.n64, 32)].all fun t => [(0#3, t.2), (1, 0)].all fun k => issues m0 (.vldx t.1 3 5 4 k.1) && issues m0 (.vstx t.1 5 4 3 k.1) &&
      okLanes false (esize t.1) (m0.lanePlaces (esize t.1) (fun s i => s.access .load ((m0.rx 5).toNat + intOf true 32 (elem (m0.fir.rv 4) 32 (laneOf (esize t.1) i)) * esize t.1) (esize t.1)
        (esize t.1)) (activeLanes (m0.fir.rk k.1) (esize t.1))) k.2 &&
      okLanes true (esize t.1) (m0.lanePlaces (esize t.1) (fun s i => s.access .store ((m0.rx 5).toNat + intOf true 32 (elem (m0.fir.rv 4) 32 (laneOf (esize t.1) i)) * esize t.1) (esize t.1)
        (esize t.1)) (activeLanes (m0.fir.rk k.1) (esize t.1))) k.2] := by decide +kernel

/-- A descriptor of one dimension and one of two. -/
def desc1 : List Word := [0x8000000000000031, 0x40020000, 2, 0, 12, 4 + 2 * 2 ^ 40, 8]
def desc2 : List Word := [0x8000000000000022, 0x40020000, 4, 0, 6 + 2 ^ 40, 2 + 2 * 2 ^ 40, 20, 10, 5 + 2 * 2 ^ 40, 4]

/-- An element found near, and its place as an access reaches it. -/
def okElem (s : State) (a b : BitVec 6) (n : Nat) (g : State → Elem → Bool) : Bool :=
  match s.locate (s.rx a) (s.rx b).toNat n with
  | .ok (r, e) => g r e
  | .error _ => false

/-- Handle 1 in x10, indices in x11 and x12: an element in the page and the last one. Handle 0 names 8-byte elements. -/
def m1 : State :=
  let s := { m0 with mem := (((m0.mem.write 0x40010000 8 0x8000000000000031).write 0x40010008 8 0x40020000).write 0x40010010 8 1).write 0x40010020 8 12
                     full := [(shmKey 0x2000) / 8, (shmKey 0x2008) / 8] }
  let s := { s with mem := ((s.mem.write 0x40010028 8 (12 + 2 ^ 40)).write 0x40010030 8 8) }
  withX s [(10, 1), (11, 39), (12, 59)]

theorem witness_ShardLookups : holdAll [
    rankOf desc1 == 1, rankOf desc2 == 2, issues m1 (.shloc 20 10 11), okElem m1 10 11 0 fun _ e => e.shard == 3, okElem m1 10 12 0 fun _ e => e.lin == 59, issues m1 (.shinv .die 0),
    issues m1 (.shinv .sys 10), m1.fir.paths.isEmpty, m1.unacked.isEmpty, quiet m1, m1.mem.wf,
    (m1.fr.held.map (·.1)).Nodup] := by decide +kernel

/-- The machine with its firing waiting for SHINV and an event that completes it, or one that a die answers. -/
def waitsShinv (b : Nat) : State :=
  { m0 with fir := { m0.fir with wait := some .shinv }, ev := { Ev.blank with a := 1, b := b, l := [] } }

/-- The same while a load of firing 1 that it awaits is outstanding. -/
def openMark (b : Nat) : State :=
  let s := waitsShinv b
  { s with fir := { s.fir with pends := [{ pkg := 3, seq := 1, reply := .scalar 5 8 false, fe := false, tag := none, dead := false, addr := 0, tv := 0, shard := true }] },
           ev := { s.ev with l := [1, BitVec.ofNat 64 (3 * 2 ^ 24 + 1)] } }

theorem witness_ShardLookups_completion : holdAll [(waitsShinv 0).ev.b == 0, !(waitsShinv 0).marksOpen (waitsShinv 0).ev.l, (waitsShinv 0).fir.live,
    (waitsShinv 0).fir.adm == (waitsShinv 0).ev.a, (waitsShinv 0).fir.wait == some .shinv, (waitsShinv 1).ev.b == 1,
    (waitsShinv 2).ev.b == 2, !(waitsShinv 2).marksOpen [], (openMark 0).marksOpen (openMark 0).ev.l, (openMark 2).marksOpen (openMark 2).ev.l] := by decide +kernel

theorem witness_ShardedAccesses : holdAll [
    m1.mem.wf, m1.retry.isEmpty, m1.fir.pends.isEmpty, m1.loadsOut m1.fir.core == 0,
    [11#6, 0].all fun b => issues m1 (.ldt .plain .f32 20 10 b) && issues m1 (.stt .plain .f32 10 b 20) &&
      okElem m1 10 b 4 fun r e => okNear false 4 (r.elemPlace .load false 4 e) && okNear true 4 (r.elemPlace .store false 4 e),
    [(0#6, true), (9, true), (5, false)].all fun b => [LdtMode.wf, .wfe].all fun m => issues (withX m1 [(5, 2)]) (.ldt m .n64 20 0 b.1) &&
      okElem (withX m1 [(5, 2)]) 0 b.1 8 fun r e => okAt true 8 (r.elemPlace (ldfeAcc (m == .wfe)) true 8 e) fun u pl => u.isFull pl.key == b.2,
    [(0#6, true), (9, true), (5, false)].all fun b => [SttMode.we, .sf].all fun m => issues (withX m1 [(5, 2)]) (.stt m .n64 0 b.1 20) &&
      okElem (withX m1 [(5, 2)]) 0 b.1 8 fun r e => okAt true 8 (r.elemPlace stfeAcc true 8 e) fun u pl => u.isFull pl.key == b.2,
    issues m1 (.vldt .n32 3 10 4 0), issues m1 (.vstt .n32 10 4 3 0),
    okLanes false 4 (m1.lanePlaces 4 (fun s i => s.laneElem .load 4 10 4 i) (activeLanes (m1.fir.rk 0) 4)) 64,
    okLanes true 4 (m1.lanePlaces 4 (fun s i => s.laneElem .store 4 10 4 i) (activeLanes (m1.fir.rk 0) 4)) 64] := by decide +kernel


theorem witness_OrderInstructions : holdAll [
    m0.mem.wf, (m0.fr.held.map (·.1)).Nodup, quiet m0, [Scope.fi, .co, .fr, .die, .pkg, .dom, .sys].all fun sc =>
      issues m0 (.rel sc) && issues m0 (.acq sc) && issues m0 (.fence sc),
    issues (m0.usePath (.spad 300 0)) (.rel .die), (m0.usePath (.spad 300 0)).fir.paths == [1], m0.fir.wait == none,
    -- an ACQ while a bank operation that the firing posted has not arrived (R235, R249)
    after (exec (.amoadd .d 0 6 9) m0) fun t => t.posting t.fir && issues t (.acq .fr) && waitsAt (.acq .fr) t .posted] := by decide +kernel

theorem witness_AtomicOperations : holdAll [
    m0.mem.wf, banks m0,
    [Instr.amoadd .w 10 6 9, .amoand .d 10 6 9, .amoor .w 0 6 9, .amoxor .w 10 6 9, .amomin .w 10 6 9, .amomax .d 10 6 9, .amominu .w 10 6 9,
      .amomaxu .w 10 6 9, .amoswp .w 10 6 9, .amocas .d 10 6 9].all fun i => issues m0 i && (amoForm i).isSome,
    [Instr.amofadd .f32 10 6 9, .amofmin .f64 10 6 9, .amofmax .bf16 10 6 9].all fun i => issues m0 i && (famoForm i).isSome,
    [4, 8, 2].all fun n => okNear true n (m0.access .bank (m0.rx 6).toNat n n) && okNear true n (m0.access .bank (m0.rx 7).toNat n n),
    [Instr.xcadd .f32 8 9, .xcclr 8, .xcrd .f64 10 8, .xcrdclr .f32 0 8].all (issues m0), okNear true 64 (m0.access .cells (m0.rx 8).toNat 64 64)] := by
  decide +kernel

theorem witness_VectorBanks : holdAll [
    banks m0, m0.mem.wf, m0.fr.locks.isEmpty, m0.others.isEmpty,
    [Instr.vamoadd .f32 6 4 3 0, .vamomin .n32 6 4 3 0, .vamomax .i32 6 4 3 0, .vxcadd .f32 8 4 3 0].all fun i => issues m0 i && (vectorBank i).isSome,
    okLanes true 4 (m0.lanePlaces 4 (fun s l => s.access .cells ((m0.rx 6).toNat + intOf true 32 (elem (m0.fir.rv 4) 32 l) * 4) 4 4) (activeLanes (m0.fir.rk 0) 4)) 64,
    okLanes true 64 (m0.lanePlaces 4 (fun s l => s.access .cells ((m0.rx 8).toNat + intOf true 32 (elem (m0.fir.rv 4) 32 l) * 64) 64 64) (activeLanes (m0.fir.rk 0) 4)) 64,
    issues m0 (.vbsum .f32 6 3 0), okLanes true 64 (m0.lanePlaces 4 (fun s l => s.reach .cells (((m0.rx 6).toNat + 64 * l : Nat) : Int) 64 64) (activeLanes (m0.fir.rk 0) 4)) 64,
    0 < m0.next] := by decide +kernel

theorem witness_ExactCellsCommute : !cellBit (cellAdd f32 (cellAdd f32 0 0x7F7FFFFF) 0x80000001) 355 && !cellBit (cellAdd f32 (cellAdd f32 0 0x80000001) 0x7F7FFFFF) 355 := by
  decide +kernel

/-- The machine with a count of semaphore 2 and perhaps a waiter on it, another firing of the frond that asks for an amount. -/
def sems (count : BitVec 16) (w : Option Nat) : State :=
  let g := { f0 with adm := 2, core := 0, wait := some (.sem 2) }
  let s := withX { s0 with others := if w.isSome then [g] else [] } [(5, 65535), (6, 65536), (9, 1)]
  s.onFrond 0 fun f => { f with hs := f.hs.set 2 count, hsq := (w.map fun a => [{ n := 2, amt := a, rd := 7, adm := 2 }]).getD [] }

theorem witness_SemaphoresAndClaims : holdAll [
    [Instr.hsrd 10 15, .hswait 10 2 0, .hswait 10 2 5, .hstry 10 2 5, .hspost 2 5, .hsset 2 6, .sget 10, .sput].all (issues (sems 65535 none)),
    ((sems 65535 none).rx 5).toNat ≤ 65535, ((sems 65535 none).rx 6).toNat == 65536, ((sems 65535 none).fr.hs[2]).toNat == 65535,
    ((sems 65535 none).semWaiters 2).isEmpty, ((sems 0 none).fr.hs[2]).toNat < ((sems 0 none).rx 9).toNat,
    ((sems 1 (some 2)).semWaiters 2).length == 1, ((sems 1 (some 2)).semWaiters 2).all fun w => w.adm != (sems 1 (some 2)).fir.adm && decide (w.amt ≤ 1 + 1),
    quiet (sems 1 (some 2)), (sems 1 (some 2)).others.map Firing.adm == [2], (sems 0 none).fr.sorus.holder == none] := by decide +kernel

/-- A record's dwords: count X, demand, flags and fields, completion word. -/
def recOf (d1 d2 d3 : Nat) : List Word :=
  [0x40001000, BitVec.ofNat 64 d1, BitVec.ofNat 64 d2, BitVec.ofNat 64 d3, 0, 0, 0, 0, BitVec.ofNat 64 (0x1FF2 * 2 ^ 44 + 0x3010), 77, 0, 0, 0, 0, 0, 0]

/-- Team 50 of queue 3, sequence number 9, of four firings, and the firing of m0 in it. -/
def team (d3 : Nat) : Team := { newTeam 50 0 3 9 (recOf (4 + 2 ^ 21 + 2 ^ 42) 64 d3) with ready := true, placed := 4 }

/-- m0 in that team, another firing of it on the compute core of frond 1. -/
def teamed (d3 : Nat) (w : Option Wait) : State :=
  let f := { m0.fir with tid := (team d3).tid }
  { m0 with fir := f, others := [{ f with adm := 2, core := 3, wait := w, fid := 1 }], teams := [team d3], next := 3 }

theorem witness_Gangs : holdAll [
    issues (teamed (2 ^ 31) none) (.gang .n2), (teamed (2 ^ 31) none).team? (teamed (2 ^ 31) none).fir == some (team (2 ^ 31)),
    (team (2 ^ 31)).flag 31, !(team 0).flag 31, issues (teamed 0 none) (.gang .n8), !(teamed (2 ^ 31) none).fir.stage, (teamed (2 ^ 31) none).fir.gsize == 0,
    !(teamed (2 ^ 31) none).gangTaken, ((teamed (2 ^ 31) none).gangPeers 2).isEmpty,
    ((teamed (2 ^ 31) (some (.gang 2))).gangPeers 2).map Firing.adm == [2], ((teamed (2 ^ 31) (some (.gang 2))).gangPeers 2).all fun p => !p.stage,
    !(teamed (2 ^ 31) (some (.gang 2))).gangTaken, issues (withStat m0 (2 ^ 24)) (.gangend)] := by decide +kernel

/-- m0's firing in a team that records or replays (R338), die 0's log buffer at a place of the page with a first entry of a bank, its fields W0 and
W1 given, POS and LEN; a walk to the buffer has been made. -/
def logs (flag pos len w0 w1 : Nat) : State :=
  let s := (teamed (2 ^ flag) none).onPart 0 fun p =>
    { p with logbase := p.logbase.set 0 0x40050000, loglen := p.loglen.set 0 (BitVec.ofNat 64 len), logpos := p.logpos.set 0 (BitVec.ofNat 64 pos) }
  let s := { s with mem := (s.mem.write 0x40050000 8 w0).write 0x40050008 8 w1 }
  ((s.logEntry 0 0 0).map Prod.fst).getD s

/-- Bank 128 of die 0 is x6's (R12). -/
theorem witness_OrderLog : holdAll [
    (logs 26 3 4 0 0).mem.wf, issues (logs 26 3 4 0 0) (.amoadd .d 10 6 9),
    okAt true 8 ((logs 26 3 4 0 0).access .bank ((logs 26 3 4 0 0).rx 6).toNat 8 8) fun u pl => homeSite pl.key == (0, 128) && u.teams == [team (2 ^ 26)],
    (logs 26 3 4 0 0).team? (logs 26 3 4 0 0).fir == some (team (2 ^ 26)), (team (2 ^ 26)).flag 26, !(team (2 ^ 27)).flag 26, (team (2 ^ 27)).flag 27,
    (logs 26 3 4 0 0).cores[1].busy.isEmpty, ((logs 26 3 4 0 0).busyTags 1).isEmpty, (logs 26 3 4 0 0).filt.isEmpty,
    -- RECORD: an entry of bank 128, place 0, firing 0, operation 0; a full buffer; a page that is not mapped
    after (exec (.amoadd .d 10 6 9) (logs 26 3 4 0 0)) fun t => t.mem.read 0x40050030 8 == 0x1000008000000000 && t.part.logpos[0] == 4 && t.rx 10 == 0x99 &&
      t.mem.read (shmKey 0x2000) 8 == 0x9A,
    after (exec (.amoadd .d 10 6 9) (logs 26 4 4 0 0)) fun t => t.traps == 1 && t.fir.tcause == 19,
    after (exec (.amoadd .d 10 6 9) ((logs 26 3 4 0 0).onPart 0 fun p => { p with logbase := p.logbase.set 0 0x90000000 })) fun t => t.fir.tcause == 0x213,
    -- REPLAY: its entry next; a later place; another firing's entry; none left
    after (exec (.amoadd .d 10 6 9) (logs 27 0 1 0x1000008000000000 0)) fun t => t.rx 10 == 0x99 && t.part.logpos[0] == 1,
    waitsAt (.amoadd .d 10 6 9) (logs 27 0 1 0x1000008000000001 0) .held,
    after (exec (.amoadd .d 10 6 9) (logs 27 0 1 0x1000008000000000 1)) fun t => t.fir.tcause == 0x113,
    after (exec (.amoadd .d 10 6 9) (logs 27 1 1 0 0)) fun t => t.fir.tcause == 0x113,
    ((logs 27 0 1 0x1000008000000000 0).logEntries 0 0 1 0) == some [(0x1000008000000000, 0)],
    ((logs 27 0 1 0 0).logEntry 0 0 0).any fun e => e.1.dies[0].tlb == (logs 27 0 1 0 0).dies[0].tlb && e.1.mem == (logs 27 0 1 0 0).mem,
    (((logs 27 0 1 0 0).onPart 0 fun p => { p with logbase := p.logbase.set 0 0x90000000 }).logEntry 0 0 0).isNone] := by decide +kernel

/-- A gang of firings 1 and 2 of fronds 0 and 1, both about to run a word; the second waits for something. -/
def ganged (w : Option Wait) : State :=
  let s := (teamed (2 ^ 31) w).focus 1
  let s := { s with fir := { s.fir with fstat := 2 ^ 24 }, others := s.others.map fun (f : Firing) => { f with fstat := 2 ^ 24 + 2 ^ 26 },
                    mem := s.mem.write placedPc 4 (encode (.add 10 9 9)).toNat, gangs := [{ members := [1, 2], pc := 0, i := 0, j := 0, before := [], undo := [], steps := false }],
                    ev := { Ev.blank with a := 2 } }
  let s := { s with fir := { s.fir with code := s.mem }, others := s.others.map fun (f : Firing) => { f with code := s.mem } }
  match s.wordAt (BitVec.ofNat 64 placedPc) with
  | .ok (t, _) => t
  | .error _ => s

/-- What the order log answers to a full-empty access of x6's word: it goes on, is held, or is turned away. -/
def feAnswer (s : State) : Nat :=
  match (s.useKey (shmKey 0x2000)).logServe s.fir (shmKey 0x2000) with
  | .ok _ => 0
  | .held => 1
  | .full _ _ => 2

/-- A team that records with room and with a full buffer, and one that replays: the access's own entry next (a kind-5 entry of firing 0, operation
0), that of another firing with its own behind it, and none of its own; no access waits in any of them. -/
theorem witness_FullEmpty_logged : holdAll [
    feAnswer (logs 26 3 4 0 0) == 0, feAnswer (logs 26 4 4 0 0) == 2, feAnswer (logs 27 0 1 0x5000008000000000 0) == 0, feAnswer (logs 27 1 1 0 0) == 2,
    feAnswer (let s := logs 27 0 2 0x5000008000000001 0
      { s with mem := (s.mem.write 0x40050010 8 0x5000008000000000).write 0x40050018 8 0 }) == 1,
    [26, 27].all fun n => ((logs n 0 1 0 0).loggedTeam (logs n 0 1 0 0).fir).isSome && (logs n 0 1 0 0).retry.isEmpty && (logs n 0 1 0 0).mem.wf &&
      (team (2 ^ 27)).flag 27 && issues (logs n 0 1 0 0) (.ldfe .wf 10 6 0) && issues (logs n 0 1 0 0) (.stfe .we 6 8 10)] := by decide +kernel

theorem witness_GangSteps : holdAll [
    (ganged none).gangs.map Gang.members == [[1, 2]], ((ganged none).firings.map Firing.adm) == [1, 2], legal (.add 10 9 9),
    (match ((ganged none).focus 1).wordAt (BitVec.ofNat 64 placedPc) with
     | .ok (t, w) => t.fir == ((ganged none).focus 1).fir && t.mem == (ganged none).mem && t.dies[0].tlb == (ganged none).dies[0].tlb &&
        w == encode (.add 10 9 9)
     | .error _ => false),
    [1, 2].all fun m => ((ganged none).firing? m).any fun f => f.pc == BitVec.ofNat 64 placedPc && f.wait == none && !f.repact && f.active && !f.fpend &&
      !stageIll f (opsOf (.add 10 9 9)) && (f.outside (opsOf (.add 10 9 9))).isNone && (intResult f (.add 10 9 9)).isSome,
    (ganged none).gangs.all fun g => ((ganged none).gangStep g).firing? 2 == ((ganged none).firing? 2).map fun f => (f.wx 10 2).advance] := by decide +kernel

theorem witness_GangBreaks : holdAll [
    ((ganged (some (.queue 0 true))).gangs.find? fun h => h.members.contains 2).any fun g => g.before.isEmpty && g.members == [1, 2],
    ((ganged (some (.queue 0 true))).firing? 2).any fun f => f.wait == some (.queue 0 true),
    [1, 2].all fun m => ((ganged (some (.queue 0 true))).firing? m).any fun f => f.place == (BitVec.ofNat 64 placedPc, 0, 0) && f.utvec != 0 && !f.intrap &&
      ((ganged none).fronds[f.frond]).hsq.isEmpty,
    after (exec .qstallExpiry (ganged (some (.queue 0 true)))) fun t => t.gangs.isEmpty && ((t.firing? 1).map Firing.tcause) == some 15 &&
      ((t.firing? 1).map Firing.tval) == some 1] := by decide +kernel

/-- A group record of two members at x6, one arrived or none, joined by the firing or not. -/
def grouped (arrived : Nat) (joined : Bool) : State :=
  { m0 with mem := m0.mem.write (shmKey 0x2000) 8 (arrived * 2 ^ 24 + 2), fir := { m0.fir with groups := if joined then [shmKey 0x2000] else [] } }

/-- A boundary found, at a key. -/
def okBound (s : State) (i : Instr) (h : Word) : Option Nat :=
  match s.boundary (descOf i) h with
  | .ok (_, k, _) => some k
  | .error _ => none

/-- The last but one arrival of two, with another firing that waits in a JOIN of the record, or that arrived before at a narrow scope. -/
def joiners (arrived members : Nat) (g : Firing) : State :=
  let s := grouped arrived true
  { s with mem := s.mem.write (shmKey 0x2000) 8 (arrived * 2 ^ 24 + members), others := [{ g with live := true, adm := 2, core := 3 }], next := 3 }

theorem witness_Groups_waiting : holdAll [
    (joiners 0 1 { f0 with wait := some (.join (shmKey 0x2000) 10) }).others.all fun f => f.arrived.isNone && f.live && f.adm != 1 && f.adm == 2,
    after (exec (.gbar 6) (joiners 0 1 { f0 with wait := some (.join (shmKey 0x2000) 10) })) fun t =>
      t.meeting (shmKey 0x2000) == { phase := 1, arrived := 0, members := 2 } && t.others.all fun f => f.wait.isNone && f.groups == [shmKey 0x2000],
    (joiners 1 3 { f0 with arrived := some { key := shmKey 0x2000, ph := 0, sc := .fr } }).firings.all fun f => f.wait.isNone,
    okBound (joiners 1 3 { f0 with arrived := some { key := shmKey 0x2000, ph := 0, sc := .fr } }) (.gbar 6) ((grouped 0 true).rx 6) == some (shmKey 0x2000)] := by
  decide +kernel

theorem witness_Groups : holdAll [
    (grouped 0 false).mem.wf, issues (grouped 0 false) (.join 10 0), issues (grouped 0 false) (.leave 0), issues (grouped 0 false) (.join 10 6),
    okAt true 8 ((grouped 0 false).objAt ((grouped 0 false).rx 6) 64) fun u pl => (u.groupAt pl.key).arrived == 0 && !(grouped 0 false).fir.groups.contains pl.key,
    okAt true 8 ((grouped 0 true).objAt ((grouped 0 true).rx 6) 64) fun _ pl => (grouped 0 true).fir.groups.contains pl.key,
    (grouped 0 true).firings.all fun f => f.wait.isNone,
    (grouped 0 false).fir.groups.length < 8, issues (grouped 0 true) (.phase 6), issues (grouped 0 true) (.gbar 6), !(grouped 0 true).engineBusy (grouped 0 true).fir,
    okBound (grouped 0 true) (.phase 6) ((grouped 0 true).rx 6) == some (shmKey 0x2000), okBound (teamed (2 ^ 31) none) (.gbar 0) 0 == some 0,
    (grouped 0 true).fir.arrived == none, quiet (grouped 0 true),
    ((grouped 0 true).publish 0 .fr).meeting (shmKey 0x2000) == { phase := 0, arrived := 0, members := 2 },
    ((grouped 1 true).publish 0 .fr).meeting (shmKey 0x2000) == { phase := 0, arrived := 1, members := 2 },
    okBound ((grouped 0 true).upd fun f => { f with arrived := some { key := shmKey 0x2000, ph := 15, sc := .die } }) (.gbar 6) ((grouped 0 true).rx 6) == some (shmKey 0x2000),
    ((grouped 0 true).meeting (shmKey 0x2000)).phase != 15] := by decide +kernel

/-- A queue in the page that admits LAUNCH, of two slots, full or not. -/
def launches (full : Bool) : State :=
  (withX m0 [(10, 0x40001080), (11, 31)]).onPart 0 fun p =>
    { p with lq := p.lq.set 31 { LQueue.reset with lqbase := 0x40030000, lqcfg := 0x50001, lqtail := if full then 2 else 1 } }

theorem witness_RetireAndLaunch : holdAll [
    issues (teamed 0 none) .retire, (teamed 0 none).fir.gsize == 0, !(teamed 0 none).engineBusy (teamed 0 none).fir, quiet (teamed 0 none),
    (teamed 0 none).fir.groups.isEmpty, (teamed 0 none).fir.pairset == none, (teamed 0 none).team? (teamed 0 none).fir == some (team 0), !(team 0).flag 30,
    issues (launches false) (.launch 12 10 11), quiet (launches false), ((launches false).rx 10).toNat % 128 == 0, ((launches false).rx 11).toNat == 31,
    bit ((launches false).part.lq[31]).lqcfg 18, ((launches false).part.lq[31]).log2n == 1,
    (match ((launches false).publish 0 ((launches false).launchAt ((launches false).rx 10))).placesFrom .load ((launches false).rx 10).toNat 16 with
     | .ok (r, pls) => (pls.all (r.near false 8)) && pls.length == 16 && ((r.useEach pls).unitPlace 0 0 false (0x40030000 + 128) 128 true).isSome
     | .error _ => false),
    (teamed 0 none).fr.hsq.isEmpty, (launches false).fir.gsize == 0, (launches false).fir.data.isEmpty,
    (match (let s := withX (launches false) [(10, 0x90000080)]
            (s.publish 0 (s.launchAt (s.rx 10))).placesFrom .load (s.rx 10).toNat 16) with
     | .error (.trap t) => t.c == .page
     | _ => false),
    ((launches false).part.lq[31]).lqtail == 1, ((launches true).part.lq[31]).lqtail == 2] := by decide +kernel


/-- The compute or the stage firing of a pair on frond 0, queue n holding entries; both fronds of the partition are there. -/
def paired (stage : Bool) (n : Fin 8) (q : List QEntry) : State :=
  let s := (m0.upd fun f => { f with pairset := some 0, core := if stage then 0 else 1, q12 := [1, 2], q13 := [] }).onPart 0 fun p => { p with pint := 4 * 2 ^ 32 }
  s.onFrond 0 fun x => { x with pairs := x.pairs.set 0 { used := true, q := (Vector.replicate 8 []).set n q } }

/-- Incoming entries of frond 0 from a side, and of the frond there, its neighbour. -/
def fed (dir : Fin 4) (mine theirs : List Vec) : State :=
  let s := (paired false 0 []).onFrond 0 fun x => { x with nq := x.nq.set dir mine }
  match s.linked (8 + dir.val) with
  | some h => s.onFrond h fun x => { x with nq := x.nq.set ((dir.val + 2) % 4) theirs (by omega) }
  | none => s

/-- The side on which frond 0 has a neighbour in the partition, and one on which it has none. -/
theorem neighbours_of_frond_0 : (paired false 0 []).linked 8 = some 1 ∧ (paired false 0 []).linked 9 = some 3 ∧
    (paired false 0 []).linked 10 = none ∧ (paired false 0 []).linked 11 = none := by decide +kernel

theorem witness_Queues : holdAll [
    (paired false 0 []).queueView 0 == some [], !popIll 0 (paired false 0 []), issues (paired false 0 []) (.qget 10 0), issues (paired false 0 []) (.vqget 3 0),
    (paired false 3 [.word 5, .vec 6]).queueView 3 == some [.word 5, .vec 6], !popIll 3 (paired false 3 []),
    (paired false 3 [.vec 6]).queueView 3 == some [.vec 6], (fed 0 [7] []).queueView 8 == some [.vec 7], !popIll 8 (fed 0 [7] []),
    issues (fed 0 [7] []) (.vqget 3 8), (paired false 0 []).queueView 12 == some [.word 1, .word 2], (paired false 0 []).queueView 13 == some [],
    issues (paired true 3 []) (.qput 3 9), issues (paired true 3 []) (.vqput 3 31), !pushIll 3 (paired true 3 []), quiet (paired true 3 []),
    ((paired true 3 (List.replicate 7 (.word 5))).queueView 3).map List.length == some 7,
    ((paired true 3 (List.replicate 8 (.word 5))).queueView 3).map List.length == some 8,
    issues (fed 0 [] [1, 2, 3]) (.vqput 8 31), (fed 0 [] [1, 2, 3]).linked 8 == some 1, quiet (fed 0 [] [1, 2, 3]),
    ((fed 0 [] [1, 2, 3]).fronds[1].incoming 2).length == 3, ((fed 0 [] [1, 2, 3, 4]).fronds[1].incoming 2).length == 4,
    m0.queueView 7 == none, !popIll 0 m0, !pushIll 7 m0, (fed 0 [] []).queueView 11 == none, popIll 7 (paired false 0 []), pushIll 0 (paired false 0 []),
    popIll 0 (paired true 0 []), issues m0 (.qget 10 15), issues (paired false 0 []) (.qcnt 10 0), issues (fed 0 [1] []) (.qcnt 10 8),
    issues m0 (.qcnt 10 12), issues m0 (.qcnt 10 13), issues m0 (.qcnt 10 15), issues m0 (.qcnt 10 7), issues m0 (.qcnt 10 11)] := by decide +kernel

/-- A header in x10 of 3 payload registers, a core of this package in x11, one of package 9 in x12, reserved bits in x13. -/
def sends : State :=
  (withX m0 [(10, 0x642), (11, 0x7FF), (12, 9 * 2 ^ 32 + 5), (13, 2 ^ 54), (14, 2 ^ 11)]).onPart 0 fun p => { p with peerbase := 0x50000, peerlen := 1 }

/-- A vector of 32-bit lanes. -/
def lanesOf (l : List Nat) : Vec := BitVec.ofNat 2048 (packNat 32 l)

/-- With package 9 in the peer table. -/
def peered : State := { sends with mem := (sends.mem.write 0x50000 8 (2 ^ 63 + 9)).write 0x50008 8 0x40000000 }

/-- Core 2047 with n messages in its buffer and m behind them on the path. -/
def crowded (n m : Nat) : State :=
  let g : Message := { srcPkg := 0, srcCore := 0, srcPart := 0, adm := 1, core := 0x7FF, header := 0, payload := [], team := none, me := 0, told := false, hand := false }
  sends.onCore (coreNo 0x7FF) fun c => { c with inbound := List.replicate n g, onway := List.replicate m g }

theorem witness_Messages : holdAll [
    ((sends.rx 10).toNat / 2 ^ 9) % 8 == 3, issues sends (.send 11 10 62), issues sends (.sendv 4 10 62), min 64 sends.fir.dem.xregs < 62 + 3,
    issues sends (.send 11 10 61), 61 + 3 ≤ min 64 sends.fir.dem.xregs, (sends.rx 13).toNat == 2 ^ 54, (sends.rx 14).toNat / 2 ^ 11 % 2 ^ 21 == 1,
    (sends.rx 11).toNat / 2 ^ 32 == sends.dev.pkg, (sends.rx 12).toNat / 2 ^ 32 != sends.dev.pkg, (sends.rx 12).toNat / 2 ^ 11 % 2 ^ 21 == 0,
    (peered.peerFor 0 9).isSome, !peered.lost.contains 9, sends.peerFor 0 9 == none, issues sends (.sendv 4 10 61),
    (List.range 64).all fun i => decide (elem (sends.fir.rv 4) 32 i < 2 ^ 11) && !sends.pathFull 0, !sends.pathFull 0x7FF,
    (crowded 64 0).cores[coreNo 0x7FF].inbound.length == 64, (crowded 0 0).cores[coreNo 0x7FF].onway.isEmpty] := by decide +kernel

/-- Destinations of a SENDV: lane 0 names core 2047, lane 3 has reserved bits, and the lanes above 3 send nothing. -/
def sendLanes : Vec := lanesOf ([0x7FF, 5, 6, 2 ^ 11 + 1] ++ List.replicate 60 (2 ^ 31))

theorem witness_Messages_lanes : holdAll [
    elem sendLanes 32 0 == 0x7FF, elem sendLanes 32 3 == 2 ^ 11 + 1, (List.range 3).all fun i => decide (elem sendLanes 32 i < 2 ^ 11) && !sends.pathFull (elem sendLanes 32 i),
    (List.range 60).all fun i => elem sendLanes 32 (4 + i) == 2 ^ 31, issues (sends.upd fun f => f.wv 4 sendLanes) (.sendv 4 10 61)] := by decide +kernel

/-- The path to a core is full when enough messages stand behind those in its buffer; how many is left open. -/
theorem witness_Messages_full : ∃ n, (crowded 64 n).pathFull (coreNo 0x7FF).val = true := by
  refine ⟨Config.pathRoom + 1, ?_⟩
  have h : ∀ n, ((crowded 64 n).cores[coreNo 0x7FF].onway) = List.replicate n _ := fun n => by
    simp only [crowded, State.onCore, Fin.getElem_fin, Vector.getElem_set_self]; rfl
  have h2 : ∀ n, (crowded 64 n).classOf 0 == (crowded 64 n).classOf (crowded 64 n).fir.part.val := fun n => by
    rw [show (crowded 64 n).fir.part.val = 0 from rfl]; simp
  have h3 : ∀ (s : State) (c : Fin 2048), s.pathFull c.val =
      decide (Config.pathRoom < (s.cores[c].onway.filter fun m => s.classOf m.srcPart == s.classOf s.fir.part.val).length) := fun s c => by
    simp [State.pathFull, Nat.mod_eq_of_lt c.isLt]
  rw [h3, h, List.filter_replicate]
  simp [h2]



/-- A copy of the acting firing. -/
def aCopy (id bytes : Nat) : Copy :=
  { adm := 1, tid := 0, part := 0, id := id, cr := #v[0x1FF000000001000, 0x40001000, 300, 16, 0, 0, 0, 0], bytes := bytes, srcDesc := [], dstDesc := [],
    srcPlace := [], dstPlace := [], phase := 0, buf := [], pends := [], bad := 0, hand := false, live := true }

/-- Copy control registers for n bytes from the own scratchpad to the page, copies in the channels. -/
def copying (n : Nat) (chans : Vector (Option Copy) 4) : State :=
  (((withX m0 [(10, 65535)]).upd fun f => { f with cr := #v[f.rx 5, f.rx 7, BitVec.ofNat 64 n, 16, 0, 0, 0, 16] })).onFrond 0 fun x => { x with chans := chans }

theorem witness_CopyControl : holdAll [
    issues m0 (.cwr 7 9), issues m0 (.crd 7 10), issues (copying 1 (Vector.replicate 4 none)) (.cwp 11 10),
    (copying 1 #v[none, none, none, some (aCopy 65535 128)]).fr.chans[3] == some (aCopy 65535 128),
    ((copying 1 (Vector.replicate 4 none)).rx 10).toNat == (aCopy 65535 128).id, issues (copying 1 (Vector.replicate 4 none)) (.cgo 11),
    copyLen (copying 0 (Vector.replicate 4 none)).fir.cr == 0, bits (copying (2 ^ 48 + 1) (Vector.replicate 4 none)).fir.cr[2] 63 48 != 0,
    copyBad (copying 1 (Vector.replicate 4 none)).fir.cr == none,
    (match (copying 1 (Vector.replicate 4 none)).copySide false 0 with
     | .ok (t, _, _) => (match t.checkTb 0 with
        | .ok _ => true
        | .error _ => false)
     | .error _ => false),
    (copying 1 #v[some (aCopy 1 0), some (aCopy 2 0), some (aCopy 3 0), some (aCopy 4 0)]).fr.chans.toList.all (·.isSome),
    (copying 1 (Vector.replicate 4 none)).fr.nextId == 1, (copying 1 (Vector.replicate 4 none)).fr.locks.length + (copyLocks 0 (copying 1 (Vector.replicate 4 none)).fir.cr 0).length ≤ 32,
    (copying 1 (Vector.replicate 4 none)).others.isEmpty, !(copying 1 (Vector.replicate 4 none)).earlier] := by decide +kernel

/-- The same with control register n holding w. -/
def copyingWith (n : Fin 8) (w : Word) : State := (copying 1 (Vector.replicate 4 none)).upd fun f => { f with cr := f.cr.set n w }

/-- A posted bank operation of the firing in flight. -/
def stillPosting (s : State) : State :=
  let r : BankReq :=
    { tag := 1, key := 8, op := .amo 1 8, val := 1, cmp := 0, copies := 1, answered := false, resp := 0, adm := 1, applied := false, team := none,
      me := 0, told := false, lock := 0, peer := none, part := 0 }
  s.onCore 1 fun c => { c with busy := [r] }

/-- The tb register's three cases, a bad flag register with and without a bad length, and earlier operations not performed. -/
theorem witness_CopyControl_bad : holdAll [
    bits (copyingWith 7 (2 ^ 52)).fir.cr[7] 60 52 != 0, issues (copyingWith 7 (2 ^ 52)) (.cgo 11), issues (copyingWith 7 (2 ^ 63 + 1)) (.cgo 11),
    bit (copyingWith 7 (2 ^ 63 + 1)).fir.cr[7] 63, (copyingWith 6 0x1FF000000000018).fir.cr[6].toNat % 16 == 8,
    (copyingWith 6 0x1FF300000000010).fir.cr[6].toNat / 2 ^ 44 % 16 == 3, (copyingWith 6 0x1FF300000000010).fir.cr[6].toNat / 2 ^ 48 == 0x1FF,
    [copyingWith 6 0x1FF000000000018, copyingWith 6 0x1FF300000000010].all fun s => issues s (.cgo 11) && (match s.copySide false s.fir.cr[0] with
      | .ok (t, _, _) => (t.copySide false s.fir.cr[1]).toBool
      | .error _ => false),
    (stillPosting (copying 1 (Vector.replicate 4 none))).earlier, issues (stillPosting (copying 1 (Vector.replicate 4 none))) (.cgo 11)] := by decide +kernel

/-- A barrier at x5 of one arrival and n sectors awaited in phase 3. -/
def barred (pend sect : Nat) : State :=
  withX { m0 with mem := (m0.mem.write (spadKey 0 0x1000) 8 (2 ^ 28 + pend * 2 ^ 4 + 3)).write (spadKey 0 0x1008) 8 sect } [(10, 3), (11, 2 ^ 24), (12, 2 ^ 47)]

theorem witness_Barriers : holdAll [
    (barred 1 0).mem.wf, okNear true 16 ((barred 1 0).objAt ((barred 1 0).rx 5) 16), okNear true 16 ((barred 1 0).objNear ((barred 1 0).rx 5) 16), quiet (barred 1 0),
    [Instr.txinit 5 9, .txinit 5 0, .txinit 5 11, .txexp 5 9, .txexp 5 12, .txwait 5 10, .txtry 20 5 0, .txarr 20 5].all (issues (barred 1 0)),
    ((barred 1 0).rx 9).toNat == 1, (barred 1 0).rx 0 == 0, 2 ^ 24 ≤ ((barred 1 0).rx 11).toNat, 2 ^ 47 ≤ ((barred 1 0).rx 12).toNat,
    ((barred 1 0).barrierAt (spadKey 0 0x1000)).phase == ((barred 1 0).rx 10).toNat % 16, ((barred 1 0).barrierAt (spadKey 0 0x1000)).phase != 0,
    (((barred 1 0).publish 0 .fr).barrierAt (spadKey 0 0x1000)).pend != 0, (((barred 0 5).publish 0 .fr).barrierAt (spadKey 0 0x1000)).pend == 0,
    ((barred 1 0).upd fun f => { f with wait := some .released }).fir.wait == some .released, (barred 1 0).fir.wait == none] := by decide +kernel

/-- A deque of 8 slots on frond 0's compute core or the stage core, with a number of tasks. -/
def dequed (core : Fin 2048) (count : Nat) : State :=
  let s := { m0 with mem := ((m0.mem.write (spadKey 0 0x2000) 8 (2 ^ 63 + 3)).write (spadKey 0 0x2008) 4 (count + 5)).write (spadKey 0 0x2010) 4 5 }
  s.onCore core fun c => { c with dqbase := 0x8000000000002000 }

theorem witness_Deques : holdAll [
    (dequed 1 0).mem.wf, ((dequed 1 0).loggedTeam (dequed 1 0).fir).isNone, [Instr.dqpush 10 9, .dqpop 10, .dqsteal 10 9].all (issues (dequed 1 0)),
    (dequed 0 0).deque 1 == none, ((dequed 1 8).deque 1).map (fun q => (q.cap, q.count)) == some (8, 8),
    ((dequed 1 7).deque 1).map Deque.count == some 7, ((dequed 1 0).deque 1).any fun q => q.head == q.tail, (dequed 1 0).fir.wait == none,
    stealVictim (dequed 1 0).part 0 1 ((dequed 1 0).rx 9) == 0 || stealVictim (dequed 1 0).part 0 1 ((dequed 1 0).rx 9) == 1,
    (List.range 32).any fun n => stealVictim (dequed 1 0).part 0 1 (BitVec.ofNat 64 n) == 1,
    (List.range 32).any fun n => stealVictim (dequed 1 0).part 0 1 (BitVec.ofNat 64 n) != 1] := by decide +kernel

/-- Waiting for the answer of a steal from the stage core. -/
def stealing (count : Nat) : State :=
  let s := dequed 0 count
  { s with fir := { s.fir with wait := some .answer }, ev := { Ev.blank with a := 1, b := 0, c := 63, l := [] } }

theorem witness_Deques_served : holdAll [
    (stealing 1).fir.live, (stealing 1).ev.a == (stealing 1).fir.adm, (stealing 1).fir.wait == some .answer, (stealing 1).fir.pends.isEmpty,
    (stealing 1).ev.b < 2048, (stealing 1).ev.c < 64, ((stealing 1).deque 0).any fun q => q.head != q.tail, ((stealing 0).deque 0).any fun q => q.head == q.tail] := by
  decide +kernel


/-- Every element-wise vector instruction family, on v1 to v4 under k0 or k1. -/
def laneInstrs : List Instr :=
  [.viadd .w8 false 1 2 3 0, .vimulh .w64 true 1 2 3 1, .visubSat .w16 false 1 2 3 0, .viaddx .w32 1 2 9 0, .vadd .f32 1 2 3 0, .vdivx .f32 1 2 9 0,
    .vfmadd 1 2 3 4 0, .vexp 1 2 0, .vsqrt 1 2 1, .vperm 1 2 3 0, .vslideup 1 2 31 0, .vslidedn 1 2 0 0, .vmov 1 2 0, .vbcast .w64 1 9 0, .vspdraw .w64 1 9 0,
    .vspexp .w32 1 0 0, .vgumb 1 2 9 0]

theorem witness_VectorElements : laneInstrs.all fun i => issues m0 i && (vectorLane m0.fir i).isSome := by decide +kernel

theorem witness_MasksAndCompares : holdAll [
    [Instr.kand 1 2 3, .kor 0 2 3, .kxor 7 2 0, .knot 1 2, .kmov 1 2, .kset 1 9].all fun i => issues m0 i && (maskResult m0.fir i).isSome,
    issues m0 (.kpopc 10 0), issues m0 (.vcmp .le .f32 3 1 2 0), issues m0 (.vcmp .ne .n32 0 1 2 1)] := by decide +kernel

theorem witness_MovesAndReductions : holdAll [
    [Instr.vcompress 1 2 3, .vins .w8 1 9 63, .vext .w64 true 10 1 31, .vredsum .f32 1 2 0, .vredmax .bf16 1 2 0, .vredmin .f32 1 2 1].all (issues m0),
    [Instr.vredsum .f32 1 2 0, .vredmax .bf16 1 2 0, .vredmin .f32 1 2 1].all fun i => (reductionOf i).isSome,
    issues (paired false 3 [.vec 6]) (.vredq .f32 1 3 9 0), !popIll 3 (paired false 3 []), (paired false 3 [.vec 6]).queueView 3 == some [.vec 6],
    (paired false 3 []).rx 9 == 1, (paired false 3 []).rx 0 == 0] := by decide +kernel

/-- A pending prefix. -/
def held (i : Instr) : State := m0.upd fun f => { f with pfx := encode i, fstat := 1 }

/-- State.IssuesPrefixed. -/
def issuesP (s : State) (i : Instr) : Bool :=
  s.fir.active && s.fir.fpend && legal i && !stageIll s.fir (opsOf i) && (s.fir.outside (opsOf i)).isNone

theorem issuesP_iff (s : State) (i : Instr) : issuesP s i = true ↔ s.IssuesPrefixed i := by
  simp [issuesP, State.IssuesPrefixed, and_assoc]

theorem witness_Conversions : holdAll [
    issues m0 (.fmt .f32 .f16 false 0 0 false), issuesP (held (.fmt .f16 .f32 false 0 0 false)) (.vcvt .rne false true 1 2 0),
    (held (.fmt .f16 .f32 false 0 0 false)).fir.fmt.vcvtOk true false, issuesP (held (.fmt .e4m3 .f32 true 9 0 false)) (.vcvt .dyn true false 1 2 0),
    (held (.fmt .e4m3 .f32 true 9 0 false)).fir.fmt.vcvtOk false false, issuesP (held (.fmt .i8 .f32 true 9 0 false)) (.vcvto .rne true 1 5 4 0),
    (held (.fmt .i8 .f32 true 9 0 false)).fir.fmt.vcvtoOk, issuesP (held (.fmt .bpn .i8 false 0 7 false)) (.vplane 1 2),
    (held (.fmt .bpn .i8 false 0 7 false)).fir.fmt.planeOk false, issuesP (held (.fmt .i8 .bpn false 0 1 true)) (.vunplane 1 2),
    (held (.fmt .i8 .bpn false 0 1 true)).fir.fmt.planeOk true, !(held (.fmt .i8 .bpn false 0 1 true)).fir.fmt.planeOk false,
    !(held (.fmt .i8 .bpn false 0 1 true)).fir.fmt.vcvtoOk, !(held (.fmt .i8 .bpn false 0 1 true)).fir.fmt.vcvtOk false false,
    [Instr.vplane 1 2, .vunplane 1 2, .vcvt .rne false false 1 2 0, .vcvto .rne true 1 5 4 0].all (issues m0)] := by decide +kernel

/-- The own-scratchpad range of an instruction. -/
def okOwn (s : State) (ac : Acc) (r : BitVec 6) (n al : Nat) : Bool :=
  match s.ownSpad ac (s.rx r) n al with
  | .ok _ => true
  | .error _ => false

/-- A range of 5,000 bytes of the page in x10 and x11. -/
def ranged : State := withX m0 [(10, 0x40001FF0), (11, 5000)]

theorem witness_DrawsAndDigests : holdAll [
    [Instr.spdraw .w32 10 9 6, .spuni .w64 10 0 9, .spexp .w32 10 9 6, .digest 5 9, .digestm 5 10 20, .digestm 5 10 11].all (issues ranged), ranged.mem.wf,
    okOwn ranged .obj 5 64 64, ranged.rx 20 == 0, ranged.rx 11 != 0, min (ranged.rx 11).toNat (4096 - (ranged.rx 10).toNat % 4096) == 16,
    ranged.fir.pends.isEmpty, ranged.fir.data.isEmpty,
    (match ranged.ownSpad .obj (ranged.rx 5) 64 64 with
     | .ok (u, _) => okNears false 1 (u.elemPlaces .load 1 (fun i => (((ranged.rx 10).toNat + i : Nat) : Int)) (List.range 16)) 16
     | .error _ => false)] := by decide +kernel

/-- MmaOp.fits. -/
def fits (o : MmaOp) (f : Firing) (w0 : Word) (n : Nat) : Bool :=
  (match o.tile with
    | some t => shapeC (f.shape t) && shapeRows (f.shape t) == 64 && shapeRowBytes (f.shape t) == 64 && shapeTy (f.shape t) == o.ty
    | none => decide (w0.toNat < 2 ^ 20) && o.base % 64 == 0 && o.rp % 64 == 0 && o.tp % 64 == 0 && decide (o.base + (n - 1) * o.tp + 63 * o.rp + 64 ≤ 2 ^ 20)) &&
  (match o.scale with
    | some v => v % 64 == 0 && decide (v + 64 * (n * lineBlocks o.ty) ≤ 2 ^ 20)
    | none => true)

theorem fits_iff (o : MmaOp) (f : Firing) (w0 : Word) (n : Nat) : fits o f w0 n = true ↔ o.fits f w0 n := by
  unfold fits MmaOp.fits
  cases o.tile <;> cases o.scale <;> simp [and_assoc]

/-- An MMA of 64 steps whose operands are the last 4 KiB of the scratchpad. -/
def anMma : Instr := .mma true true 3 true 5 true 6 63

/-- Its pairs in x10 to x13, with or without an INT8 prefix. -/
def mmaState (p : Bool) : State :=
  let s := withX m0 [(10, 2 ^ 20 - 4096), (11, 64), (12, 2 ^ 20 - 4096), (13, 64)]
  if p then s.upd fun f => { f with pfx := encode (.fmt .i8 .i8 false 0 0 false), fstat := 1 } else s

theorem witness_MatrixArray : holdAll [
    issues (mmaState false) anMma, issuesP (mmaState true) anMma, (mmaPrefx 0).mmaOk, (mmaPrefx (mmaState true).fir.pfx).mmaOk,
    issuesP (held (.fmt .f32 .f32 false 0 0 false)) anMma, !(mmaPrefx (held (.fmt .f32 .f32 false 0 0 false)).fir.pfx).mmaOk,
    ((mmaState false).rx 11).toNat < 2 ^ 44, fits (opA (encode anMma) (mmaPrefx 0) ((mmaState false).rx 10) ((mmaState false).rx 11) 0) (mmaState false).fir ((mmaState false).rx 10) 64,
    fits (opB (encode anMma) (mmaPrefx (mmaState true).fir.pfx) ((mmaState true).rx 12) ((mmaState true).rx 13) 0) (mmaState true).fir ((mmaState true).rx 12) 64,
    (mmaState false).cores[(mmaState false).fir.core].mmas.length < 8, (mmaState false).accLast 3,
    (mmaState false).fir.q13.length + ((mmaState false).myMmas.filter fun j => mmaTok j.word).length < 16,
    (mmaState false).fr.locks.isEmpty, !(mmaState false).earlier, (mmaState false).cores[(mmaState false).fir.core].lazyTiles.isEmpty,
    after (exec anMma (mmaState false)) fun s => ((s.cores[(1 : Fin 2048)].mmas.map fun j => (j.adm, j.done)) == [(1, 0)]) && s.firing? 1 == some s.fir &&
      s.cores[(1 : Fin 2048)].mmas.all fun j => [0, 63].all fun r => (s.mmaLine s.fir false (mmaPrefx 0) (opA j.word (mmaPrefx 0) j.a0 j.a1 j.xs) 0 r).all
        fun x => !x.nan && x.inf == 0] := by decide +kernel

/-- Tiles: m0 of 64 rows of 64 bytes, m1 of one row of one word, m2 with no shape. -/
def tiled : State :=
  let s := m0.upd fun f => { f with tshape := #v[0x800003FF, 0x80000000, 0, 0x80007FC0, 0, 0, 0, 0] }
  withX s [(10, 64), (11, 63), (12, 0x40001000)]

/-- The accumulator 2 is used by an MMA of the firing. -/
def accUsed : State :=
  m0.onCore 1 fun c => { c with mmas := [{ adm := 1, word := encode (.mma false false 2 false 0 false 1 0), pfx := 0, topx := false, a0 := 0, a1 := 0, b0 := 0, b1 := 0,
                                           xs := 0, clr := false, done := 0, num := 0 }] }

/-- Dword places that succeed, n of them. -/
def okDwords (wr : Bool) (r : Except Stop (State × List Place)) (n : Nat) : Bool :=
  match r with
  | .ok (u, pls) => (pls.all (u.near wr 8)) && pls.length == n
  | .error _ => false

theorem witness_TilesAndAccumulators : holdAll [
    issues tiled (.accrd 3 20 2 10), 63 < (tiled.rx 10).toNat, (tiled.rx 11).toNat ≤ 63, !m0.accBusy 2, accUsed.accBusy 2, !accUsed.accBusy 1,
    [Instr.acczero 2, .accld 2 5, .accst 5 2, .accstat 5 2 true, .accswp 2 1].all fun i => issues m0 i && issues accUsed i,
    (m0.rx 5).toNat % 64 == 0, (m0.rx 5).toNat < 2 ^ 57, okDwords false (m0.placesFrom .load (m0.rx 5).toNat 2048) 2048,
    okDwords true (m0.placesFrom .store (m0.rx 7).toNat 2048) 2048, !shapeOk (tiled.fir.shape 2), shapeOk (tiled.fir.shape 0), !tiled.tileBusy 0,
    [Instr.tld 2 5 0 false, .tst 5 2 0 false, .tzero 2, .tmov 2 0, .tzero 0, .tmov 0 1, .tld 0 5 0 false, .tld 1 5 9 true, .tst 12 0 0 false].all (issues tiled),
    (tileLayout (tiled.fir.shape 0) false 0 0).1 == 16, (tileLayout (tiled.fir.shape 0) false 0 0).2.1 == 64,
    tiled.cores[tiled.fir.core].lazyTiles.isEmpty, tiled.fir.data.isEmpty, tiled.fir.pends.isEmpty,
    okNears false 4 (tiled.blockPlaces .load 4 (fun n => (((tiled.rx 5).toNat + n / 16 * 64 + 4 * (n % 16) : Nat) : Int)) (List.range 1024)) 1024,
    okNears true 4 (tiled.blockPlaces .store 4 (fun n => (((tiled.rx 12).toNat + n / 16 * 64 + 4 * (n % 16) : Nat) : Int)) (List.range 1024)) 1024] ∧
    tileServes (tiled.fir.shape 0) false (tiled.rx 5).toNat 64 64 ∧ tileServes (tiled.fir.shape 1) true (tiled.rx 5).toNat 1 1 := by
  unfold tileServes; decide +kernel

theorem witness_BitTiles : holdAll [
    [Instr.btand 1 2 3, .btor 1 2 3, .btxor 1 2 3, .btandn 1 2 3, .btnot 1 2, .bttr 1 2, .btcomp 1 2 3].all fun i => issues tiled i && (bitTile tiled.fir i).isSome,
    [Instr.btclo 1 2 true, .btclo 2 1 false, .btpopr 1 2, .btpopc 1 2, .btrowk 1 2 11, .btcolk 1 2 0, .btkrow 1 2 11, .btkcol 1 0 10, .btld 1 5, .btst 5 1,
      .ocmp .lt .f32 1 2 3 0, .ocmp .klt .n32 1 2 4 0].all (issues tiled), (tiled.rx 11).toNat == 63, 63 < (tiled.rx 10).toNat,
    okOwn tiled .load 5 512 64, okOwn tiled .store 5 512 64, tiled.mem.wf] := by decide +kernel


/-- A region of 8 leaves with weights 3 at 0 and 2 at 5, claimed by the firing. -/
def region : Sorus := { Sorus.blank with init := true, log2l := 3, ws := [(0, 3), (5, 2)], seedlo := 7, holder := some 1 }

/-- An active channel with a bound of 4 on the block of leaf 5 and a candidate at a time. -/
def chan (tau : Word) (due : Bool) : Chan :=
  { Chan.closed with act := true, fl := 5, lambda := 0x4010000000000000, tau := tau, due := due, k := 1, credits := 16, frond := 3, pch := 2 }

/-- The region with an outgoing channel 0 and an incoming channel 7. -/
def channels (o i : Chan) : Sorus := { region with outc := region.outc.set 0 o, inc := region.inc.set 7 i }

/-- The machine with that region and a descriptor at x5. -/
def sorusAt (x : Sorus) (desc : List Word) : State :=
  withX ((({ m0 with mem := writeDwords m0.mem (spadKey 0 0x1000) desc, lost := [9] } : State).onFrond 0 fun f => { f with sorus := x })) [(10, 7), (11, 8), (12, 2 ^ 48), (13, 5)]

/-- Descriptors of a region of 2^14 leaves, of one too large, of outgoing channel 1 on leaf 0, of incoming channel 6, of an outgoing one without a bound. -/
def sinitDesc : List Word := [0x000000070000400E, 0x3FF0000000000000, 5, 1, 2, 0, 0, 0]
def sinitBad : List Word := [0x000000070000400F, 0x3FF0000000000000, 5, 1, 2, 0, 0, 0]
def binitOut : List Word := [0x8000000000000001, 4, 0x4010000000000000, 0, 0, 0, 0x900000403, 0]
def binitIn : List Word := [0xC000000000000006, 4, 0x4010000000000000, 0, 0, 0, 0x900000403, 0]
def binitBad : List Word := [0x8000000000000001, 4, 0, 0, 0, 0, 0, 0]
def binitClose : List Word := [0x0000000000000001, 0, 0, 0, 0, 0, 0, 0]

/-- The descriptor an instruction reads at x5. -/
def descRead (s : State) : List Word :=
  match s.sorusDesc (s.rx 5) with
  | .ok (_, w) => w
  | .error _ => []

theorem witness_SorusRegions : holdAll [
    [Instr.sinit 5, .rate 10 9, .ratea 10 9, .nextev 20 10, .nextev 20 0, .swrd 20 10 0, .sclk 20, .binit 5, .bdec 20 10, .brecv 20 10, .sinit 9].all
      (issues (sorusAt region sinitDesc)),
    m0.fr.sorus.holder != some m0.fir.adm, (sorusAt region sinitDesc).fr.sorus.holder == some (sorusAt region sinitDesc).fir.adm,
    !(sorusAt { region with init := false } sinitDesc).fr.sorus.init, descRead (sorusAt region sinitDesc) == sinitDesc, regionOk sinitDesc, !regionOk sinitBad,
    descRead (sorusAt region sinitBad) == sinitBad, ((sorusAt region sinitDesc).rx 9).toNat % 64 != 0,
    2 ^ region.log2l ≤ ((sorusAt region sinitDesc).rx 11).toNat, ((sorusAt region sinitDesc).rx 10).toNat < 2 ^ region.log2l,
    ((sorusAt region sinitDesc).rx 12).toNat == 2 ^ 48, (chan 0 false).owns 5,
    rateOver (({ region with ws := [(0, 3), (5, 5)] } : Sorus).blockOf (chan 0 false)) 0 0x4010000000000000,
    !rateOver (({ region with ws := [(0, 3), (5, 4)] } : Sorus).blockOf (chan 0 false)) 0 0x4010000000000000,
    (region.sumOf fun l => decide (l < 8) && region.unowned l) == 5, ((channels (chan 0 false) Chan.closed).sumOf fun l =>
      decide (l < 8) && (channels (chan 0 false) Chan.closed).unowned l) == 3,
    region.told 0 7 == some 0, region.told 0 8 == none, region.told 8 7 == some 0, region.told 2 8 == none] := by decide +kernel

/-- The region with no weights. -/
def emptied : Sorus := { region with ws := [] }

theorem witness_SorusRegions_ruled : region.ruled := by unfold Sorus.ruled; decide +kernel

theorem witness_SorusRegions_undue : region.undue ∧ emptied.undue := by unfold Sorus.undue; decide +kernel

theorem witness_SorusRegions_none : noneComing region.outc ∧ noneComing region.inc ∧
    (emptied.sumOf fun l => decide (l < 8) && emptied.unowned l) = 0 := by unfold noneComing; decide +kernel

theorem witness_SorusRegions_outgoing : earliest (channels (chan 0 false) Chan.closed).outc 0 ∧
    noneBefore (channels (chan 0 false) Chan.closed).inc 0 := by
  refine ⟨by unfold earliest; decide +kernel, .inl ?_⟩; unfold noneComing; decide +kernel

theorem witness_SorusRegions_incoming : earliest (channels Chan.closed (chan 0 false)).inc 7 ∧
    allAfter (channels Chan.closed (chan 0 false)).outc 0 ∧ le64 0 f64.infBits = true := by
  refine ⟨by unfold earliest; decide +kernel, .inl ?_, by decide +kernel⟩; unfold noneComing; decide +kernel

theorem witness_SorusRegions_own : allAfter region.outc 0x3FF0000000000000 ∧ allAfter region.inc 0x3FF0000000000000 ∧
    fLt f64 0x3FF0000000000000 f64.infBits = true := by
  refine ⟨.inl ?_, .inl ?_, by decide +kernel⟩ <;> unfold noneComing <;> decide +kernel

theorem witness_SorusRegions_due : holdAll [
    (channels (chan 0 true) (chan 0 true)).outc[0].act && (channels (chan 0 true) (chan 0 true)).outc[0].due,
    (channels Chan.closed (chan 0 true)).inc[7].act && (channels Chan.closed (chan 0 true)).inc[7].due,
    (channels Chan.closed (chan 0 true)).outc.toList.all fun c => !(c.act && c.due)] := by decide +kernel

/-- Draws and next time found. -/
def okTau (s : State) (x : Sorus) (c : Chan) : Bool :=
  match s.nextTau x c with
  | .ok _ => true
  | .error _ => false

/-- What a table at offset 0x1000 lets a channel read. -/
def tabled (k : Word) : Chan := { chan 0 true with tab := true, tbl := 0x1000, tn := 2, k := k }

theorem witness_SorusChannels : holdAll [
    !(chan 0 false).tab, (tabled 2).tn ≤ (tabled 2).k.toNat, (tabled 1).k.toNat < (tabled 1).tn, okTau m0 region (tabled 1), okTau m0 region (chan 0 false),
    okNear false 8 (m0.access .load ((0x1FF0 * 2 ^ 44 + (tabled 1).tbl + 24 * (tabled 1).k.toNat : Nat) : Int) 8 8),
    issues (sorusAt region binitOut) (.binit 5), descRead (sorusAt region binitOut) == binitOut, (dword binitOut 0).getLsbD 63, !(dword binitClose 0).getLsbD 63,
    descRead (sorusAt region binitClose) == binitClose, !region.chanOk binitBad, region.chanOk binitOut, region.chanOk binitIn, (dword binitIn 0).getLsbD 62,
    !region.outc[1].act, !region.inc[6].act, !rateOver (region.blockOf (chanOf binitOut)) 0 (chanOf binitOut).lambda,
    rateOver (({ region with ws := [(0, 5)] } : Sorus).blockOf (chanOf binitOut)) 0 (chanOf binitOut).lambda,
    issues (sorusAt (channels (chan 0 true) (chan 0 true)) []) (.bdec 20 0), issues (sorusAt (channels (chan 0 true) (chan 0 true)) []) (.brecv 20 10),
    8 ≤ ((sorusAt region []).rx 11).toNat, !(region.outc[7].act && region.outc[7].due), !(chan 0 true).refused, !m0.lost.contains (chan 0 true).pkg,
    (match m0.decisionDraws region (chan 0 true) with
     | .ok (_, d) => d.isSome
     | .error _ => false), (chan 0 true).credits != 0, ({ chan 0 true with credits := 0 } : Chan).credits == 0,
    (sorusAt region []).lost.contains 9, (match m0.decisionDraws region (tabled 2) with
     | .ok (_, d) => d.isNone
     | .error _ => false), (chan 0 true).queue.isEmpty, (0x8000000300000001#64).extractLsb' 0 32 == (chan 0 true).k.extractLsb' 0 32,
    (0x8000000300000002#64).extractLsb' 0 32 != (chan 0 true).k.extractLsb' 0 32] := by decide +kernel

/-- A machine in FULL with the host's link up. -/
def full : State := { s0 with dev := { s0.dev with stage := 3, hostUp := true } }

/-- The machine at an event. -/
def at' (s : State) (a b c : Nat) (v : Word) : State := { s with ev := { s.ev with a := a, b := b, c := c, v := v, l := [] } }

/-- The machine with some virtual functions enabled. -/
def functioned (en : BitVec 16) : State := { full with dev := { full.dev with vfMask := 8, vfEn := en, hostUp := en != 0 } }

/-- A launch queue of four records, enabled, and one that is full. -/
def queue3 (tail : Nat) : State := full.onPart 3 fun x =>
  { x with lq := x.lq.set 7 { x.lq[7] with lqcfg := 0x10002, lqhead := 0, lqtail := BitVec.ofNat 64 tail } }

theorem witness_SupervisorRegisters : holdAll [
    full.dev.stage == 3, full.dev.hostUp, (at' full (0x1000000 + 3 * 0x100000 + 0x118) 1 0 0).ev.b == 1,
    (0xA000000000000000 : BitVec 64).toNat / 2 ^ 61 == 5, (full.onPart 3 fun x => { x with tlbstat := 1 }).parts[3].tlbstat.getLsbD 0,
    !full.parts[3].tlbstat.getLsbD 0, !full.dies[3].msccfg.getLsbD 63,
    (full.onDie 3 fun d => { d with msccfg := 2 ^ 63 + 2, mscOld := 1 }).dies[3].msccfg.getLsbD 63, full.mem.wf,
    full.parts[3].lq[31].lqcfg.toNat % 32 == 0, (queue3 4).parts[3].lq[7].lqcfg.toNat % 32 != 0, !(queue3 4).parts[3].lq[7].lqcfg.getLsbD 18,
    (queue3 4).parts[3].lq[7].lqtail.toNat < 2 ^ 32, (4 + 2 ^ 32 - (queue3 0).parts[3].lq[7].lqhead.toNat) % 2 ^ 32 ≤ 2 ^ 2,
    2 ^ 2 < (5 + 2 ^ 32 - (queue3 0).parts[3].lq[7].lqhead.toNat) % 2 ^ 32, full.firings.all fun f => f.part == 0 && f.pends.isEmpty,
    full.unacked.isEmpty, !(functioned 0).dev.vfEn.getLsbD 3,
    (functioned 8).dev.vfMask.getLsbD 3, (functioned 8).dev.vfEn.getLsbD 3, !(functioned 0).dev.hostUp] := by decide +kernel

theorem witness_SupervisorRegisters_pint : full.pintAllowed 3 0x1000003FF ∧ ¬ full.pintAllowed 3 0x2000003FF := by
  unfold State.pintAllowed
  refine ⟨⟨by decide, by decide +kernel, by decide +kernel, by decide +kernel, by decide +kernel⟩, fun h => absurd h.1 (by decide)⟩

/-- Every access of partition 3 has completed; an invalidation under way, with or without a report to come, and one asked by a peer. -/
theorem witness_SupervisorRegisters_done : full.allDone 3 ∧ full.marksOpen [0x4000000000000000, 9] = true ∧ full.marksOpen [] = false ∧
    (full.onPart 3 fun x => { x with tlbstat := 1 }).allDone 3 ∧ (at' full 3 2 9 0).ev.b = 2 := by
  have hf : full.firings.all (fun f => f.part == 0) = true := by decide +kernel
  have hb : full.cores.toList.all (fun c => c.busy.isEmpty) = true := by decide +kernel
  have hc : full.fronds.toList.all (fun f => f.chans.toList.all fun x => x.isNone) = true := by decide +kernel
  have h : full.allDone 3 := by
    refine ⟨fun f hm hp => ?_, by simp [full, s0, State.reset], by simp [full, s0, State.reset], by simp [full, s0, State.reset], by simp [full, s0, State.reset], fun c r hr _ => ?_, fun x k c hk _ => ?_⟩
    · have := List.all_eq_true.mp hf f hm; simp [hp] at this
    · have := List.all_eq_true.mp hb (full.cores[c]) (by simp); simp_all
    · have := List.all_eq_true.mp (List.all_eq_true.mp hc (full.fronds[x]) (by simp)) ((full.fronds[x]).chans[k]) (by simp)
      simp only [Fin.getElem_fin] at hk; simp [hk] at this
  exact ⟨h, by decide +kernel, rfl, h, rfl⟩

/-- The machine with a port 17 in a state, toward package 9, with 9 or fewer healthy lanes. -/
def ported (st : Nat) (en : Bool) (healthy : Nat) (staged : Option (BitVec 256 × BitVec 48)) (spare : Bool) : State :=
  full.withPort 17 { full.ports[17] with state := st, en := en, peer := some 9, healthy := healthy, staged := staged, spareOut := spare, spareIn := spare }

/-- The machine with a firing that awaits package 9, its posted write unacknowledged. -/
def owing : State :=
  { ported 4 true 8 none true with
    fir := { f0 with pends := [{ pkg := 9, seq := 1, reply := .none, fe := false, tag := none, dead := false, addr := 0, tv := 0, shard := false }] }, unacked := [{ adm := 1, pkg := 9, seq := 1, lane := false, shard := false, die := 0, part := 0 }] }

theorem witness_LinkPorts : holdAll [
    (ported 3 true 8 (some (5, 6)) true).ports[17].staged == some (5, 6), (ported 2 true 8 none true).ports[17].staged == none,
    (ported 2 true 8 none true).ports[17].state == 2, (ported 1 true 8 none true).ports[17].state == 1,
    !(ported 2 true 9 none false).ports[17].spareIn, (ported 2 true 9 none false).ports[17].split == 0, 9 ≤ (ported 2 true 9 none false).ports[17].healthy,
    (ported 2 true 8 none false).ports[17].healthy < 9, (ported 2 true 7 none false).ports[17].healthy < 8,
    (peered.peer 0 0).1.getLsbD 63 && (peered.peer 0 0).1.toNat % 2 ^ 22 == 9 && 0 < min peered.parts[0].peerlen.toNat 256 && peered.lost.isEmpty, (0x8000000000000000 : Word).getLsbD 63, !({ full with dev := { full.dev with portMask := 1 } } : State).dev.portMask.getLsbD 17,
    ({ full with dev := { full.dev with portMask := 0x3FFFF } } : State).dev.portMask.getLsbD 17, (ported 2 true 8 none true).ports[17].en,
    !(ported 0 false 8 none true).ports[17].en, full.dev.hostUp, (at' full 17 0 0 0).ev.b == 0, (at' full 17 1 0 0).ev.b == 1,
    (ported 4 true 8 none true).ports[17].peer == some 9, (ported 2 true 8 none true).ports[17].state != 4, !full.lost.contains 9,
    ({ full with lost := [9] } : State).lost.contains 9, owing.firings.any fun f => f.pends.any fun q => q.pkg == 9,
    after (exec .moduleInsertion (at' full 9 0 0 0)) fun _ => true] := by decide +kernel

/-- A machine whose full-empty network holds a retry of word 1. -/
def hosted (stage : Nat) (up : Bool) (a n : Nat) : State :=
  { full with dev := { full.dev with stage := stage, hostUp := up }, ev := { full.ev with a := a, b := n, l := [0x1122334455667788] } }

theorem witness_HostAndCxl : holdAll [
    (hosted 2 true 0 8).mem.wf, !(hosted 3 false 0 8).dev.hostUp, (hosted 2 true 0 8).dev.stage != 3, (hosted 3 true 0 8).dev.hostUp,
    768 * 2 ^ 30 < (hosted 3 true (768 * 2 ^ 30 - 7) 8).ev.a + 8, (hosted 3 true (768 * 2 ^ 30 - 8) 8).ev.a + 8 ≤ 768 * 2 ^ 30,
    768 * 2 ^ 30 < (hosted 3 true (2 ^ 40 + 768 * 2 ^ 30 - 7) 8).ev.a % 2 ^ 40 + 8, (hosted 3 true (2 ^ 40 + 8) 8).ev.a % 2 ^ 40 + 8 ≤ 768 * 2 ^ 30,
    (hosted 3 true (2 ^ 40 + 8) 8).ev.a % 2 ^ 40 % 8 == 0, (hosted 3 true (2 ^ 40 + 9) 8).ev.a % 2 ^ 40 % 8 != 0,
    (hosted 3 true 0 8).retry.all fun w => w.key != 8, (hosted 2 true 0 8).dev.stage == 2, (hosted 0 true 0 8).dev.stage == 0,
    !(functioned 0).dev.vfEn.getLsbD 5, !(functioned 8).dev.vfMask.getLsbD 5, (hosted 3 true 0 8).dev.fault < 256, 2 ^ 40 ≤ (hosted 3 true (2 ^ 40 + 8) 8).ev.a] := by decide +kernel

theorem witness_HostAndCxl_full : ([1, 5] : List Nat).Pairwise (· < ·) := by decide

/-- The machine at a stage. -/
def staged (n : Nat) : State := { s0 with dev := { s0.dev with stage := n } }

theorem witness_DeviceStages : holdAll [
    (staged 0).dev.stage == 0, (staged 1).dev.stage != 0, (staged 2).dev.stage == 2, (staged 3).dev.stage == 3,
    (staged 2).ports.toList.all fun p => p.state != 1, (at' (staged 1) 0 0 0 (18 * 256)).ev.v.toNat / 2 ^ 8 == 18,
    (at' (staged 1) 0 0 0 (17 * 256)).ev.v.toNat / 2 ^ 8 == 17, (staged 1).dev.cmdRun.isNone,
    ({ staged 1 with dev := { (staged 1).dev with cmdRun := some (4, 0) } } : State).dev.cmdRun.isSome, (staged 3).mem.wf,
    (staged 3).dev.fault < 256, (staged 3).dev.stage < 8, (List.range 1024).all fun h => [].all fun w : Word => w.toNat != h] := by decide +kernel

/-- Whether an image is trusted and a key unwraps is left open; with the digest of an image's key fused and a counter of 0 the signature alone decides. -/
theorem witness_DeviceStages_verdicts (s : State) (image : List Byte) :
    (Config.unwrapped s.buffer = none ∨ ∃ k, Config.unwrapped s.buffer = some k) ∧
    ∃ d : Device, (Config.signed image (BitVec.ofNat 512 (sha3 (packNat 8 (image.map BitVec.toNat)) image.length)) = true → d.trusts image) ∧
      (Config.signed image (BitVec.ofNat 512 (sha3 (packNat 8 (image.map BitVec.toNat)) image.length)) = false → ¬ d.trusts image) := by
  constructor
  · cases Config.unwrapped s.buffer <;> simp
  · exact ⟨{ s.dev with
      keyDigest := BitVec.ofNat 512 (sha3 (packNat 8 ((Config.publicKey image).map BitVec.toNat)) (Config.publicKey image).length), rollback := 0 },
      fun h => ⟨rfl, h, Nat.zero_le _⟩, fun h t => absurd t.2.1 (by simp [h])⟩

/-- A record of a team of n firings with flags, at home in the page, its completion word in shared memory. -/
def recd (n flags : Nat) : List Word :=
  [0x40001000, BitVec.ofNat 64 (n + 2 ^ 21 + 2 ^ 42), 64, BitVec.ofNat 64 flags, 0, 0, 0, 0, BitVec.ofNat 64 (0x1FF2 * 2 ^ 44 + 0x3018), 77, 0, 0, 0, 0, 0, 0]

/-- A ready team of partition 0 with that record, some placed and retired. -/
def aTeam (n flags placed retired : Nat) : Team := { newTeam 50 0 3 9 (recd n flags) with ready := true, placed := placed, retired := retired }

/-- The machine in FULL with partition 0 on three fronds, a trap ring, and that team, none of whose firings is resident; queue 3 is enabled. -/
def teamAt (t : Team) : State :=
  let s := m0.onPart 0 fun x => { x with
    pint := 3 * 2 ^ 32, trbase := 0x60000, trlog2 := 3, trhead := 5, trtail := 9, p2 := 0x40100000, p3 := 0x10000, p0 := t.tid
    lq := x.lq.set 3 { x.lq[3] with lqbase := 0x40030000, lqcfg := 2 ^ 16 + 2, lqhead := 2 ^ 32 - 1, lqtail := 1 } }
  { s with fir := Firing.blank, teams := [t], next := 60, dev := { s.dev with stage := 3 } }

/-- The same with a resident firing of the team. -/
def running (t : Team) : State := { teamAt t with fir := { f0 with tid := t.tid } }

/-- The machine at an error report. -/
def erring : State := at' (running (aTeam 5 0 4 2)) 1 2 0 2

/-- A team that a device fault ends, saved and draining teams that RESYNC tells. -/
theorem witness_DeviceStages_teams : holdAll [
    (running (aTeam 5 0 4 2)).teams == [aTeam 5 0 4 2], (running (aTeam 5 0 4 2)).firings.all fun f => f.msg.isNone,
    (dword (aTeam 5 0 4 2).recd 8).toNat == 0x1FF2 * 2 ^ 44 + 0x3018, (running (aTeam 5 0 4 2)).shmOk 0 0x3018 8, (running (aTeam 5 0 4 2)).retry.isEmpty,
    !(aTeam 5 0 4 2).flag 28, (running (aTeam 5 0 4 2)).mem.wf, (running (aTeam 5 0 4 2)).dev.stage == 3,
    (let t := { aTeam 5 0 4 2 with saved := 1 }; t.ready && t.saved != 0 && (teamAt t).firings.all fun f => f.tid != t.tid),
    (let t := { aTeam 5 0 4 2 with draining := true }; t.ready && t.saved == 0 && t.draining && !t.flag 28)] := by decide +kernel

theorem witness_MachineErrors : holdAll [
    !s0.dies[2].frozen, (s0.onDie 2 fun d => { d with frozen := true, failed := true }).dies[2].frozen,
    (s0.onDie 2 fun d => { d with frozen := true, failed := true }).dies[2].failed, !s0.dies[2].failed, (staged 3).dev.stage == 3,
    erring.ev.a == 1, erring.ev.b == 2, erring.ev.l == [], erring.partOf (erring.ev.v.toNat % 1024) == some 0, erring.ev.v.toNat < 1024,
    !erring.parts[0].ringFull, erring.parts[0].errs == [], erring.mem.wf, erring.fir.tid == (aTeam 5 0 4 2).tid && erring.fir.live,
    (recd 5 0).length == 16, (dword (recd 5 0) 8).toNat == 0x1FF2 * 2 ^ 44 + 0x3018, erring.shmOk 0 0x3018 8, erring.retry.isEmpty,
    !(aTeam 5 0 4 2).flag 28, 0x60000 + 64 * 1 + 64 ≤ 768 * 2 ^ 30, erring.struck == [0], (at' (running (aTeam 5 0 4 2)) 1 2 2 2).ev.c / 2 % 2 == 1, erring.ev.c % 2 == 0,
    (at' (running (aTeam 5 0 4 2)) 7 2 1 2).ev.c % 2 == 1] ∧ erring.parts[0].ringFree ∧ (running (aTeam 5 0 4 2)).runs (aTeam 5 0 4 2) := by
  unfold Part.ringFree State.runs; decide +kernel

theorem witness_MachineErrors_works : erring.works (aTeam 5 0 4 2) := .inl (by unfold State.runs; decide +kernel)

/-- The machine with a record at the head of queue 3. -/
def queued (r : List Word) : State :=
  let s := { teamAt (aTeam 5 0 4 2) with teams := [] }
  at' { s with mem := writeDwords s.mem (0x40030000 + 3 * 128) r } 0 3 0 0

/-- The code of the head record of queue 3. -/
def headCode (s : State) : Option Nat :=
  (s.unitPlace 0 s.parts[0].die false (0x40030000 + 3 * 128) 128 false).map fun x =>
    x.1.recCode 0 ((List.range 16).map fun i => BitVec.ofNat 64 (x.1.mem.read (x.2 + 8 * i) 8))

/-- Queue 3 of partition 0. -/
def lq3 (s : State) : LQueue := s.parts[(0 : Fin 16)].lq[(3 : Fin 32)]

theorem witness_LaunchAndPlacement : holdAll [
    (lq3 (queued (recd 5 0))).lqcfg.getLsbD 16, !(lq3 (queued (recd 5 0))).lqcfg.getLsbD 17, (lq3 (queued (recd 5 0))).lqcfg.toNat % 32 != 0,
    (lq3 (queued (recd 5 0))).team.isNone, !(queued (recd 5 0)).frozen 0,
    (lq3 (queued (recd 5 0))).lqhead.toNat % 2 ^ 32 != (lq3 (queued (recd 5 0))).lqtail.toNat % 2 ^ 32,
    headCode (queued (recd 5 0)) == some 0, headCode (queued (recd 5 (2 ^ 30))) == some 8,
    headCode ((queued (recd 5 0)).onPart 0 fun x => { x with ptbr := 0x900000 }) == none, (queued (recd 5 0)).mem.wf,
    ((queued (recd 5 3)).unitWord 0 (dword (recd 5 3) 8).toNat true).isSome, (queued (recd 5 3)).recBad 0 (recd 5 3) == false] := by decide +kernel

/-- Records each of whose conditions is broken, the first of them code 2. -/
theorem witness_LaunchAndPlacement_codes : recBroken (recd 5 3) 3 2 ∧ recBroken ((recd 5 0).set 2 65) 3 3 ∧ recBroken ((recd 5 0).set 2 (64 + 9 * 2 ^ 16)) 3 4 ∧
    recBroken ((recd 5 0).set 2 (64 + 4097 * 2 ^ 32)) 3 5 ∧ recBroken (recd 5 (5 * 2 ^ 16)) 3 6 ∧ recBroken (recd 5 (3 * 2 ^ 26)) 3 7 ∧
    recBroken (recd 5 (2 ^ 30)) 3 8 ∧ recBroken (recd 5 (3 * 2 ^ 32)) 3 12 ∧ ¬ recBroken (recd 5 3) 3 3 := by
  refine ⟨?_, ?_, ?_, ?_, ?_, ?_, ?_, ?_, ?_⟩ <;> simp only [recBroken] <;> decide +kernel

/-- The team of queue 3 awaiting a word at offset 0x3000. -/
def awaiting (flags n : Nat) : Team :=
  { newTeam 50 0 3 9 (((recd n flags).set 3 (BitVec.ofNat 64 (flags + 2 ^ 16))).set 4 (BitVec.ofNat 64 (0x1FF2 * 2 ^ 44 + 0x3000))) with ready := false }

/-- The machine with that team, its word full or not, with a status. -/
def waiting (t : Team) (isFull : Bool) (st : Nat) : State :=
  let s := (teamAt t).onPart 0 fun x => { x with lq := x.lq.set 3 { x.lq[3] with team := some 50 } }
  { s with mem := s.mem.write (shmKey 0x3000) 1 st, full := if isFull then [shmKey 0x3000 / 8] else [] }

/-- Every word it awaits is full with OK. -/
def metAt (s : State) (t : Team) : Bool := (s.depKeys t).all fun k => k.any fun n => s.isFull n && s.mem.read n 1 == 0

/-- Some word is full with another status. -/
def failedAt (s : State) (t : Team) : Bool := (s.depKeys t).any fun k => k.any fun n => s.isFull n && s.mem.read n 1 != 0

theorem witness_LaunchAndPlacement_dependences : holdAll [
    (lq3 (waiting (awaiting 0 5) false 0)).team == some 50, ((waiting (awaiting 0 5) false 0).teams.find? fun u => u.id == 50) == some (awaiting 0 5),
    !(awaiting 0 5).ready, (awaiting 0 5).queue == 3, !metAt (waiting (awaiting 0 5) false 0) (awaiting 0 5), !failedAt (waiting (awaiting 0 5) false 0) (awaiting 0 5),
    metAt (waiting (awaiting 0 5) true 0) (awaiting 0 5), failedAt (waiting (awaiting 0 5) true 1) (awaiting 0 5),
    recCount (awaiting 0 0).recd == 0, recCount (awaiting 0 5).recd == 5, metAt (waiting (awaiting 0 0) true 0) (awaiting 0 0),
    !(dword (awaiting 0 5).recd 3).getLsbD 30, (dword (awaiting (2 ^ 30) 1).recd 3).getLsbD 30, metAt (waiting (awaiting (2 ^ 30) 1) true 0) (awaiting (2 ^ 30) 1)] := by
  decide +kernel

/-- Some offset is placed. -/
def placesAt (s : State) (t : Team) (fid : Nat) : Bool := (t.offsets fid 3).any fun o => match s.placeAt t fid o none with
  | .ok _ => true
  | _ => false

/-- An actor team, its firing 0 next. -/
def actor : Team := aTeam 1 (2 ^ 30) 0 0

/-- The actor with an input stream that holds no token. -/
def starved : Team := { actor with recd := actor.recd.set 12 0x80800080 }

theorem witness_LaunchAndPlacement_places : holdAll [
    ((teamAt (aTeam 5 0 4 2)).teams.find? fun u => u.id == 50) == some (aTeam 5 0 4 2), !(aTeam 5 0 4 2).flag 26 && !(aTeam 5 0 4 2).flag 27,
    !(aTeam 5 0 4 2).flag 29 && !(aTeam 5 0 4 2).flag 31 && !(aTeam 5 0 4 2).flag 30, !(teamAt (aTeam 5 0 4 2)).frozen 0,
    (teamAt (aTeam 5 0 4 2)).placing 0 == [aTeam 5 0 4 2], (aTeam 5 0 4 2).again == [], 4 < recCount (aTeam 5 0 4 2).recd,
    (teamAt (aTeam 5 0 4 2)).parts[0].len == 3, (teamAt (aTeam 5 0 4 2)).parts[0].start == 0, placesAt (teamAt (aTeam 5 0 4 2)) (aTeam 5 0 4 2) 4,
    actor.flag 30, (teamAt actor).actorMay actor, !(teamAt starved).actorMay starved,
    ((teamAt actor).queueOf actor).served, placesAt (teamAt actor) actor 0, !actor.draining && !actor.held && actor.ready,
    (teamAt (aTeam 5 0 5 5)).firings.all fun f => f.tid != (aTeam 5 0 5 5).tid, recCount (aTeam 5 0 5 5).recd == 5, (aTeam 5 0 5 5).owed == [],
    (aTeam 5 (2 ^ 28) 5 5).flag 28, !(aTeam 5 0 5 5).flag 28, (aTeam 5 (2 ^ 28) 5 5).checkRun == 0, (aTeam 5 0 5 5).saved == 0,
    ((teamAt (aTeam 5 0 5 5)).unitWord 0 (dword (recd 5 0) 8).toNat true).isSome] := by decide +kernel

/-- A message to core c of another package's core, or of this package. -/
def letter (own : Bool) (c : Nat) : Message :=
  { srcPkg := if own then 0 else 9, srcCore := 77, srcPart := 0, adm := 33, core := c, header := 0x42, payload := [7, 8, 9], team := none, me := 0,
    told := false, hand := false }

/-- The machine with a message at core 2, whose entry has two words, and PCFG of partition 0. -/
def mailed (own : Bool) (c w0 w1 pcfg : Nat) : State :=
  let s := (teamAt (aTeam 5 0 4 2)).onPart 0 fun x => { x with etbase := 0x40010000, pcfg := BitVec.ofNat 64 pcfg }
  let m := ((s.mem.write (0x40010000 + 32 * 0x42) 8 w0).write (0x40010000 + 32 * 0x42 + 8) 8 w1).write (0x40010000 + 32 * 0x42 + 16) 8 55
  (at' { s with mem := m } c 0 0 0).onCore (coreNo c) fun x => { x with inbound := [letter own c] }

/-- The entry the message names. -/
def entry (s : State) (own : Bool) (c : Nat) : List Word := (s.entryOf 0 (letter own c)).getD []

theorem witness_MessageDispatch : holdAll [
    (mailed true 2 0x40002001 16 0).cores[2].inbound == [letter true 2], (letter true 2).team.isNone, (mailed true 2 0 0 0).dev.pkg == 0,
    (mailed true 6 0x40002001 16 0).partOf 3 == none, (mailed true 2 0x40002001 16 0).partOf 1 == some 0, !(mailed false 2 0 0 0).parts[0].pcfg.getLsbD 4,
    (mailed false 2 0 0 16).parts[0].pcfg.getLsbD 4, !(dword (entry (mailed true 2 0x40002000 16 0) true 2) 0).getLsbD 0,
    ((mailed true 2 0x40002001 16 0).onPart 0 fun x => { x with etbase := 0x7FFF0000000 }).entryOf 0 (letter true 2) == none,
    entry (mailed true 2 0x40002001 16 0) true 2 == [0x40002001, 16, 55, 0], (mailed true 2 0x40002001 16 0).parts[0].req.isNone,
    ((mailed true 2 0x40002001 16 0).admits 2 (demandOf 16) none).isSome, (letter true 2).header.getLsbD 8 == (mailed true 2 0x40002001 16 0).parts[0].pcfg.getLsbD 0,
    (({ mailed true 2 0x40002001 (16 + 1 * 2 ^ 32) 0 with fir := { f0 with core := 2, dem := { f0.dem with spad := 4096 } } } : State).admits 2
      (demandOf (BitVec.ofNat 64 (16 + 1 * 2 ^ 32))) none).isNone,
    ((running (aTeam 5 0 4 2)).firing? 1).isSome, ((running (aTeam 5 0 4 2)).firing? 9).isNone, (running (aTeam 5 0 4 2)).fir.run == .running,
    (running (aTeam 5 0 4 2)).fir.wait == none] := by decide +kernel

/-- A message whose TOPX bit is not the partition's. -/
theorem witness_MessageDispatch_topx :
    (letter true 2).header.getLsbD 8 ≠ (mailed true 2 0x40002001 16 1).parts[0].pcfg.getLsbD 0 ∧
    entry (mailed true 2 0x40002001 16 1) true 2 = [0x40002001, 16, 55, 0] ∧ (mailed true 2 0x40002001 16 1).parts[0].req = none ∧
    ((mailed true 2 0x40002001 16 1).admits 2 (demandOf 16) none).isSome = true ∧
    (∀ f ∈ (mailed true 2 0x40002001 16 1).firings, f.adm ≠ (mailed true 2 0x40002001 16 1).next) ∧ (mailed true 2 0x40002001 16 1).gangs = [] := by
  decide +kernel

theorem witness_MessageDispatch_entries : entryKeeps 16 true ∧ entryKeeps (BitVec.ofNat 64 (64 + 4096 * 2 ^ 32)) true ∧
    entryKeeps (BitVec.ofNat 64 (16 + 2 ^ 20)) false := by
  refine ⟨?_, ?_, ?_⟩ <;> unfold entryKeeps <;> decide +kernel

theorem witness_MessageDispatch_broken : ¬ entryKeeps 8 true ∧ ¬ entryKeeps (BitVec.ofNat 64 (16 + 2 ^ 20)) true :=
  ⟨fun h => absurd h.1 (by decide), fun h => absurd (h.2.2.2.2.2.2.2.2.2.2.2.2 rfl).1 (by decide)⟩

theorem witness_MessageDispatch_ring : (running (aTeam 5 0 4 2)).parts[0].ringFree := by unfold Part.ringFree; decide +kernel

/-- The machine with a firing 1 that waits. -/
def stalled (w : Option Wait) : State :=
  { s0 with fir := { f0 with wait := w, reports := [{ tc := 13, val := 7, own := false }] }, ev := { s0.ev with a := 1 } }

/-- A waiter of firing 1. -/
def waiter : FeWait := { key := shmKey 0x2000, load := true, sets := false, val := 0, rd := 4, adm := 1, addr := 0x123, peer := none, shard := 0 }

/-- A pending access. -/
def pend (fe : Bool) (r : Reply) : Pend := { pkg := 9, seq := 6, reply := r, fe := fe, tag := none, dead := false, addr := 8, tv := 9, shard := false }

/-- Eight dwords of a record, a log that holds it, and a firing stopped with it. -/
def logRecord : List Word := [1, 2, 3, 4, 5, 6, 7, 8]
def logged : State := (running (aTeam 5 0 4 2)).onPart 0 fun x => { x with errs := [logRecord] }
def ended : State := { running (aTeam 5 0 4 2) with fir := { f0 with run := .stopped none logRecord } }

theorem witness_WaitsAndReports : holdAll [
    (stalled (some (.gang 3))).fir.wait == some (.gang 3), (stalled (some (.queue 12 true))).fir.wait == some (.queue 12 true),
    (stalled (some (.decision 0))).fir.wait == some (.decision (8 - 8)),
    ({ stalled (some .fullEmpty) with retry := [waiter] } : State).retry.filter (fun w => w.adm == 1) == [waiter], waiter.peer.isNone,
    (stalled (some .resend)).retry.isEmpty, (pend true .none).fe, (stalled none).fir.reports.length < 16, (stalled none).fir.run == .running,
    !(stalled none).fir.granted, (stalled none).fir.data.isEmpty, (stalled none).fir.pends.isEmpty, (stalled none).mem.wf,
    waiter.peer.isNone && !(stalled none).feHolds waiter.key waiter.load waiter.sets, m0.feHolds waiter.key waiter.load waiter.sets,
    ((running (aTeam 5 0 4 2)).onPart 0 fun x => { x with trtail := 13 }).parts[0].ringFull, !(running (aTeam 5 0 4 2)).parts[0].ringFull,
    logged.parts[0].errs == [logRecord], !logged.parts[0].ringFull, logRecord.length == 8, ended.fir.run == .stopped none logRecord,
    ended.firing? ended.fir.adm == some ended.fir, ended.mem.wf, !ended.parts[0].ringFull] := by decide +kernel

theorem witness_WaitsAndReports_handler : (stalled none).canHandle (stalled none).fir := by unfold State.canHandle; decide +kernel

theorem witness_WaitsAndReports_waits : (stalled (some .answer)).canHandle (stalled (some .answer)).fir := by unfold State.canHandle; decide +kernel

/-- The machine with the page in its TLB. -/
def hot (s : State) : State :=
  match s.translate 0 s.parts[0].die 0x40100000 true with
  | some (u, _) => u
  | none => s

/-- The machine with a stopped firing of a team that has nothing outstanding, its record numbered 7. -/
def stopped : State := hot <|
  at' { running (aTeam 5 0 4 2) with fir := { f0 with tid := (aTeam 5 0 4 2).tid, run := .stopped (some 7) [1, 2, 5, 4, 5, 6, 7, 8], core := 9, dem := { xregs := 8, vregs := 4, tiles := 0, accs := 0, btiles := 0, spad := 0 } } } 0 7 0 0

theorem witness_SupervisorActions : holdAll [
    stopped.ev.a == 0, stopped.ev.b == 7, !stopped.fir.fstat.getLsbD 4, (withStat stopped 0x10).fir.fstat.getLsbD 4,
    stopped.team? stopped.fir == some (aTeam 5 0 4 2), !(aTeam 5 0 4 2).flag 28, !(aTeam 5 0 4 2).flag 30, stopped.liveOf (aTeam 5 0 4 2) == [stopped.fir],
    stopped.mem.wf, stopped.fir.dem.xregs ≤ 64, stopped.fir.dem.vregs ≤ 32, stopped.fir.q12.isEmpty && stopped.fir.q13.isEmpty,
    256 + (0x500 + 8 * 8 + 256 * 4 + 255) / 256 * 256 ≤ stopped.parts[0].p3.toNat % 2 ^ 40, stopped.parts[0].p2.toNat % 256 == 0,
    stopped.fronds[stopped.fir.frond].held.isEmpty, stopped.dev.cxlDown.isEmpty] := by decide +kernel

theorem witness_SupervisorActions_only : stopped.stoppedOnly stopped.fir 7 := by
  unfold State.stoppedOnly
  exact ⟨⟨[1, 2, 5, 4, 5, 6, 7, 8], by decide +kernel⟩, by decide +kernel, by decide +kernel, by decide +kernel, fun g hg _ _ => by
    have : stopped.firings = [stopped.fir] := by decide +kernel
    rw [this] at hg; exact List.mem_singleton.1 hg⟩

theorem witness_SupervisorActions_unbound : stopped.unbound stopped.fir := by
  unfold State.unbound
  refine ⟨?_, ?_, ?_, ?_, ?_, ?_, ?_, ?_, ?_, ?_, ?_, ?_, ?_, ?_, ?_⟩ <;> decide +kernel

theorem witness_SupervisorActions_word : stopped.wordPlace 0 (dword (recd 5 0) 8) (shmKey 0x3018) :=
  ⟨0x3018, by decide +kernel, by decide, by decide, by decide +kernel, rfl, by decide +kernel⟩

theorem page_numbers (va : Nat) (h1 : 0x40000000 ≤ va) (h2 : va < 0x80000000) : 0x40000000 + va % 0x40000000 = va ∧ ¬ 2 ^ 57 ≤ va ∧
    ¬ va / 2 ^ 48 = 0x1FF ∧ va < 0x40000000 + 0x40000000 := by omega

/-- A unit's access to the page, which the TLB serves, leaves the machine as it is. -/
theorem page_place (s : State) (va n : Nat) (wr : Bool) (hp : s.parts[(0 : Fin 16)].pcfg = 0) (hd : s.parts[(0 : Fin 16)].die = 0)
    (ht : s.dies[(0 : Fin 4)].tlb = [{ part := 0, va := 0x40000000, size := 0x40000000, pte := 0x40000036F, pteKey := 0x3008 }])
    (h1 : 0x40000000 ≤ va) (h2 : va < 0x80000000) : s.unitPlace 0 s.parts[(0 : Fin 16)].die false va n wr = some (s, va) := by
  obtain ⟨h, ha, hb, h3⟩ := page_numbers va h1 h2
  have e : Leaf.pa { pte := 0x40000036F, key := 0x3008, va := 0x40000000, size := 0x40000000 } va = va := by
    have : bits (0x40000036F : Word) 55 16 * 4096 / 0x40000000 * 0x40000000 = 0x40000000 := by decide +kernel
    unfold Leaf.pa
    rw [this, h]
  have hc : bits (0x40000036F : Word) 11 10 = 0 := by decide +kernel
  have hf : bits (0x40000036F : Word) 63 56 = bits (0 : Word) 39 32 := by decide +kernel
  have hg : bit (0x40000036F : Word) 6 = true ∧ bit (0x40000036F : Word) 2 = true ∧ bit (0x40000036F : Word) 1 = true := by decide +kernel
  simp only [State.unitPlace, State.translate, hd, ht, ha, hb, if_false, List.find?_cons, beq_self_eq_true, h1, h3, decide_true, Bool.and_self, hg,
    Bool.or_true, if_true, State.leafPlace, hc, hp, hf, bne_self_eq_false, Bool.not_true, ite_self, Bool.or_self, Bool.false_eq_true, e]

theorem witness_SupervisorActions_region : stopped.regionAt 0 0x40100000 (256 + (0x500 + 8 * 8 + 256 * 4)) 0x40100000 :=
  fun i hi => page_place stopped (0x40100000 + 8 * i) 8 true (by decide +kernel) (by decide +kernel) (by decide +kernel) (by omega) (by omega)

/-- The stopped firing with a bank operation that has not been performed, at a save. -/
def saving : State := (stopped.onCore 9 fun c => { c with busy :=
  [{ tag := 1, key := 8, op := .amo 1 8, val := 1, cmp := 0, copies := 1, answered := false, resp := 0, adm := 1, applied := false, team := none,
     me := 0, told := false, lock := 0, peer := none, part := 0 }] })

theorem witness_SupervisorActions_held : holdAll [
    saving.cores[saving.fir.core].busy.any fun r => r.adm == saving.fir.adm && !r.applied, saving.fir.msg.isNone, saving.fir.pairset.isNone,
    saving.areaSize [saving.fir] ≤ saving.parts[0].p3.toNat % 2 ^ 40, saving.liveOf (aTeam 5 0 4 2) == [saving.fir], saving.fir.dem.spad == 0] := by
  decide +kernel

/-- A CHECK team of which a run has ended, its list in the page: one OUT range of 64 bytes. -/
def checked (run : Nat) : Team := { aTeam 5 (2 ^ 28) 5 5 with recd := ((recd 5 (2 ^ 28)).set 11 0x40100000).set 8 1, checkRun := run, blocks1 := [7] }

def theRange : CheckRange := { base := 0x40101000, out := true, rst := false, len := 64, shadow := 0 }

/-- The machine with that team. -/
def checking (run : Nat) : State :=
  let s := hot (teamAt (checked run))
  let m := ((s.mem.write 0x40100000 8 1).write 0x40100100 8 0x40101000).write 0x40100108 8 (2 ^ 63 + 64)
  { at' s 50 0 0 0 with mem := m }

theorem checking_tables : ∀ run ∈ [0, 1], (checking run).parts[(0 : Fin 16)].pcfg = 0 ∧ (checking run).parts[(0 : Fin 16)].die = 0 ∧
    (checking run).dies[(0 : Fin 4)].tlb = [{ part := 0, va := 0x40000000, size := 0x40000000, pte := 0x40000036F, pteKey := 0x3008 }] := by
  decide +kernel

theorem checking_sees (run va n : Nat) (wr : Bool) (h1 : 0x40000000 ≤ va) (h2 : va < 0x80000000) (h : run = 0 ∨ run = 1) :
    (checking run).seenAt 0 va n va wr := by
  intro t hd hp
  obtain ⟨a, b, c⟩ := checking_tables run (by simpa using h)
  rw [← hp]; exact page_place t va n wr (hp ▸ a) (hp ▸ b) (hd ▸ c) h1 h2

theorem witness_CheckRuns_list (run : Nat) (h : run = 0 ∨ run = 1) :
    (checking run).checkListAt 0 (dword (checked run).recd 11).toNat 0x40100000 [theRange] := by
  have e : (dword (checked run).recd 11).toNat = 0x40100000 := by rcases h with rfl | rfl <;> decide +kernel
  rw [e]
  refine ⟨by decide, by decide, by decide, ?_, fun o n wr ho => ?_, fun i r hr => ?_⟩
  · rcases h with rfl | rfl <;> decide +kernel
  · simp only [List.length_singleton] at ho
    exact checking_sees run _ n wr (by omega) (by omega) h
  · cases i with
    | zero => obtain rfl := Option.some.inj hr; rcases h with rfl | rfl <;> decide +kernel
    | succ i => simp at hr

theorem witness_CheckRuns : holdAll [
    [0, 1].all fun run => (checking run).mem.wf && (checking run).ev.a == (checked run).id && (checked run).flag 28 && !(checked run).flag 30 &&
      ((checking run).teams.find? fun u => u.id == 50) == some (checked run) && (checking run).runEnded (checked run) && (checked run).checkRun == run,
    (checked 1).owed.isEmpty, (dword (checked 1).recd 8).toNat % 8 != 0, !theRange.rst,
    outBlocks [theRange] == [(0, 0, 0x40101000, 64)], (checked 1).blocks1.length == 1] := by decide +kernel

theorem witness_CheckRuns_blocks : ∀ run, (run = 0 ∨ run = 1) → ∀ b ∈ outBlocks [theRange], (checking run).seenAt 0 b.2.2.1 b.2.2.2 b.2.2.1 false ∧
    (b.2.2.1 + b.2.2.2 ≤ 0x40100000 ∨ 0x40100000 + 256 ≤ b.2.2.1) := by
  intro run h b hb
  rw [show outBlocks [theRange] = [(0, 0, 0x40101000, 64)] by decide +kernel] at hb
  obtain rfl := List.mem_singleton.1 hb
  exact ⟨checking_sees run _ _ false (by decide) (by decide) h, .inr (by decide)⟩

/-- The team with tid 0, whose contexts begin with words of 0. -/
def plain (flags : Nat) : Team := { aTeam 5 flags 4 2 with tid := 0 }

/-- The machine with that team, a firing of it or none, and one context of a firing with eight registers, all 0. -/
def preempted (flags : Nat) (live : Bool) (q : Option Preempt) (p1 c : Nat) : State :=
  let s := hot ((teamAt (plain flags)).onPart 0 fun x => { x with p1 := BitVec.ofNat 64 p1, req := q })
  let m := ((s.mem.write 0x40100000 8 1).write 0x40100008 8 256).write 0x40100100 8 8
  at' { s with mem := m, fir := if live then { stopped.fir with tid := 0, run := .running } else Firing.blank } 0 0 c
    (BitVec.ofNat 64 (0x1FF2 * 2 ^ 44 + 0x3018))

/-- A request under way. -/
def request (resume : Bool) (action : Nat) (left : List Nat) : Preempt :=
  { resume := resume, tid := 0, action := action, w := 0, sbase := 0x40100000, slen := 0x10000, staddr := BitVec.ofNat 64 (0x1FF2 * 2 ^ 44 + 0x3018),
    nfir := 0, esc := false, missed := false, result := 0, handlers := false, left := left }

/-- The contexts of that team that a resume restores. -/
def contextsOf (s : State) : List Nat :=
  let (u, l) := s.contextsIn 0 0x40100000 0
  l.filter (u.restores 0 (plain 0))

theorem witness_Preemption : holdAll [
    (preempted 0 true none 0 0).ev.a == 0, (preempted 0 true none 0 0).mem.wf, (preempted 0 true (some (request false 0 [])) 0 0).parts[0].req.isSome,
    (preempted 0 true none 0 0).parts[0].req.isNone, (12345 : Word).toNat / 2 ^ 62 != 1, !(plain 0).flag 24, (plain (2 ^ 24)).flag 24,
    (preempted 0 true none (3 * 2 ^ 62) 0).parts[0].p1.toNat / 2 ^ 62 == 3, (preempted 0 true none (2 ^ 62) 0).parts[0].p1.toNat / 2 ^ 62 == 1,
    !(request false 0 []).missed, !(request false 0 []).handlers, (preempted 0 true none 0 1).ev.c == 1, (preempted 0 true none 0 0).ev.c != 1,
    (preempted 0 true none 0 0).firings.all fun f => f.tid == 0 && f.part == 0, (preempted 0 true none 0 0).firings.length == 1,
    (preempted 0 false none 0 0).firings.isEmpty, (plain 0).flag 28 == false, (plain 0).flag 30 == false,
    contextsOf ((preempted 0 false none 0 0).goesOn 0 (plain 0)) == [0x40100100], !((preempted 0 false (some (request true 3 [0x40100100])) 0 1).contextPair 0 0x40100100).2,
    ((preempted 0 false (some (request true 3 [0x40100100])) 0 1).restore 0 (plain 0) 0x40100100 none).isSome, (preempted 0 false none 0 0).others.isEmpty,
    (preempted 0 false none 0 0).fir.adm != (preempted 0 false none 0 0).next, (preempted 0 false none 0 0).mem.read 0x40100100 8 % 2 ^ 28 == 8,
    (preempted 0 false none 0 0).mem.read (0x40100100 + 24) 8 / 2 ^ 24 == 0] := by decide +kernel

theorem witness_Preemption_team : plain 0 ∈ (preempted 0 true none 0 0).teams ∧ (plain 0).part = 0 ∧ (plain 0).tid = (preempted 0 true none 0 0).parts[(0 : Fin 16)].p0 ∧
    (∀ u ∈ (preempted 0 true none 0 0).teams, u = plain 0) ∧ ((preempted 0 true none 0 0).teams.map Team.id).Nodup := by decide +kernel

theorem witness_Preemption_word : (preempted 0 true none 0 0).wordPlace 0 (preempted 0 true none 0 0).ev.v (shmKey 0x3018) :=
  ⟨0x3018, by decide +kernel, by decide, by decide, by decide +kernel, rfl, by decide +kernel⟩

theorem witness_Preemption_unbound : (preempted 0 true none 0 0).unbound (preempted 0 true none 0 0).fir := by
  unfold State.unbound
  refine ⟨?_, ?_, ?_, ?_, ?_, ?_, ?_, ?_, ?_, ?_, ?_, ?_, ?_, ?_, ?_⟩ <;> decide +kernel

/-- A firing whose context is all 0. -/
def zeroed : Firing := { Firing.blank with dem := { xregs := 8, vregs := 0, tiles := 0, accs := 0, btiles := 0, spad := 0 }, qlim := 0, fewlim := 0 }

theorem witness_Preemption_context : (preempted 0 false none 0 0).contextAt zeroed 0x40100100 ∧
    (∀ j, j < 80 → (preempted 0 false none 0 0).mem.read (0x40100100 + 0x160 + 8 * j) 8 = 0) := by
  unfold State.contextAt
  refine ⟨⟨?_, ?_, ?_, ?_, ?_, ?_, ?_, ?_, ?_, ?_, ?_, ?_, ?_, ?_, ?_, ?_, ?_, ?_, ?_, ?_, ?_, ?_, ?_, ?_, ?_, ?_, ?_, ?_⟩, ?_⟩ <;> decide +kernel

theorem witness_Preemption_read (i : Nat) (h : 8 * i < 0x500 + 8 * 8 + 256 * 0) :
    (preempted 0 false none 0 0).unitPlace 0 (preempted 0 false none 0 0).parts[(0 : Fin 16)].die false (0x40100100 + 8 * i) 8 false =
      some (preempted 0 false none 0 0, 0x40100100 + 8 * i) :=
  page_place _ (0x40100100 + 8 * i) 8 false (by decide +kernel) (by decide +kernel) (by decide +kernel) (by omega) (by omega)

/-- The machine at an answer to firing 1. -/
def answered (r : Reply) (l : List Word) : State :=
  let f := { f0 with wait := some .answer, pends := [pend false r] }
  { s0 with fir := f, lost := [], ev := { s0.ev with a := 1, b := 9, c := 6, v := 0x80, l := l } }

/-- The same when its package has been declared lost. -/
def gone (r : Reply) : State := { answered r [] with lost := [9], fir := { (answered r []).fir with pends := [{ pend false r with dead := true }] } }

/-- A posted write to another package, and a bank operation there, whose acknowledgement comes. -/
def owed : State :=
  { answered .none [] with unacked := [{ adm := 1, pkg := 9, seq := 6, lane := false, shard := false, die := 0, part := 0 }] }

def farBank (posted : Bool) : BankReq :=
  { tag := 100, key := 0, op := .amo 0 8, val := 1, cmp := 0, copies := 1, answered := false, resp := 0, adm := 1, applied := false, team := none, me := 0,
    told := false, lock := 0, peer := some { pkg := 9, part := 0, cls := 0, seq := 6, addr := 0x40001000, posted := posted }, part := 0 }

def posting : State := (answered .none []).onCore 1 fun x => { x with busy := [farBank true] }

theorem witness_RemoteAnswers : holdAll [
    (answered (.scalar 63 1 true) []).ev.l == [], (answered .none [0, 5]).ev.l == [0, 5], (0xFE : Word).toNat < 255, 0 < (3 : Word).toNat,
    (answered .none []).fir.reports == [], (answered .none []).parts[(0 : Fin 16)].req.isNone, !(answered .none []).lost.contains 9, (gone .none).fir.pends == [{ pend false .none with dead := true }], (gone .none).lost.contains 9,
    (answered (.cell 63 8) [0, 31]).fir.pends == [pend false (.cell 63 8)], (31 : Word).toNat < 32,
    ({ answered .none [] with fir := { f0 with wait := some .answer } } : State).fir.pends.isEmpty,
    ({ answered .none [] with fir := { f0 with wait := some .table } } : State).fir.wait == some .table,
    owed.unacked.map (fun u => (u.adm, u.pkg, u.seq)) == [(owed.ev.a, owed.ev.b, owed.ev.c)], !owed.lost.contains 9, posting.unacked.isEmpty, !posting.lost.contains 9,
    posting.cores[posting.fir.core].busy == [farBank true], (farBank true).peer.any fun p => p.posted && p.pkg == 9 && p.seq == 6, (farBank true).adm == 1,
    (answered .none []).cores[(answered .none []).fir.core].busy.isEmpty] := by decide +kernel

theorem witness_RemoteAnswers_awaits : (answered (.lane 31 0 8 false) []).awaits (answered (.lane 31 0 8 false) []).fir (pend false (.lane 31 0 8 false)) := by
  unfold State.awaits; decide +kernel

theorem witness_RemoteAnswers_lost : (gone (.lane 31 0 4 false)).awaits (gone (.lane 31 0 4 false)).fir
    { pend false (.lane 31 0 4 false) with dead := true } := by unfold State.awaits; decide +kernel

theorem witness_RemoteAnswers_handler : (answered .none [3, 0]).canHandle (answered .none [3, 0]).fir := by unfold State.canHandle; decide +kernel

/-- The machine with a request of stream 5 next. -/
def asked (r : Req) (addr n seq : Nat) : State :=
  { m0 with ev := { m0.ev with a := 5 }, expect := if seq = 0 then [] else [(5, seq)]
            inreqs := [{ stream := 5, seq := seq, pkg := 9, core := 77, tag := 40, part := 0, req := r, addr := addr, n := n, v := 0x55, w := 0, again := false }] }

/-- Offset 0x2000 of shared memory, where a word is full. -/
def shm2000 : Nat := 0x1FF2 * 2 ^ 44 + 0x2000

/-- A full-empty access that met a full list and comes again, and one that meets such a list. -/
def again : State := { asked (.ldfe .wf) shm2000 8 3 with inreqs := [{ (asked (.ldfe .wf) shm2000 8 3).inreqs[0] with again := true }] }
def crammed : State := { asked (.ldfe .wf) (shm2000 + 8) 8 0 with retry := List.replicate 256 { waiter with key := shmKey 0x2008 } }

/-- An access of that stream that waits. -/
def peer3 : FarWait := { pkg := 9, core := 77, tag := 40, stream := 5, seq := 3, part := 0 }

/-- The leaf of a page's address, what it permits and that it belongs to the partition. -/
def leafMay (s : State) (a : Nat) (wr : Bool) : Option Bool :=
  (s.translate 0 s.parts[(0 : Fin 16)].die a wr).map fun x =>
    (x.2.pte.getLsbD (if wr then 2 else 1)) && x.2.pte.toNat / 2 ^ 56 == s.parts[(0 : Fin 16)].pcfg.toNat / 2 ^ 32 % 256 && x.2.pte.toNat / 2 ^ 10 % 4 == 0

theorem witness_OwnerSide : holdAll [
    (asked .load shm2000 8 0).mem.wf, (asked .load shm2000 8 0).retry.isEmpty, (asked .load shm2000 8 0).shmOk 0 0x2000 8,
    !(asked .load (0x1FF2 * 2 ^ 44 + 0x1FFFFFF8) 8 0).shmOk 0 0x1FFFFFF8 16, (asked .load shm2000 8 0).isFull (shmKey 0x2000),
    !(asked .load shm2000 8 0).isFull (shmKey 0x2008), !((asked .load shm2000 8 0).onPart 0 fun x => { x with shmlen := 0x2000 }).shmOk 0 0x2000 8,
    (0x40001004 : Nat) % 8 != 0, leafMay (asked .load 0x40001000 8 0) 0x40001000 false == some true,
    leafMay ((asked .store 0x40001000 8 0).onPart 0 fun x => { x with pcfg := 2 ^ 32 }) 0x40001000 true == some false,
    leafMay (asked .load 0x80001000 8 0) 0x80001000 false == none, ((8 + 2 ^ 24 - 9) % 2 ^ 24 : Nat) == 2 ^ 24 - 1, (9 + 2 ^ 24 - 8) % 2 ^ 24 < 2 ^ 23,
    ({ asked .withdraw 3 8 4 with retry := [{ waiter with peer := some peer3 }] } : State).retry == [{ waiter with peer := some peer3 }],
    (asked .load shm2000 8 7).fronds[(3 : Fin 1024)].swin.toList.all fun w => !winOk w .store 0 0x1000 1,
    (((asked .load shm2000 8 7).onFrond 3 fun x => { x with swin := x.swin.set 0 0xF00100001003000000 }).fronds[(3 : Fin 1024)].swin.toList.length == 8),
    (m0.translate 0 2 0x40001000 true).isSome, (m0.translate 0 2 0x90001000 true).isNone,
    again.inreqs.all fun r => r.again && r.part == 0 && r.n == 8, again.retry.isEmpty, again.isFull (shmKey 0x2000), again.shmOk 0 0x2000 8,
    !crammed.isFull (shmKey 0x2008), (crammed.retry.filter fun x => homeUnit x.key == homeUnit (shmKey 0x2008)).length == 256,
    (asked (.bank (.amo 0 8)) shm2000 8 7).inreqs.all fun r => !r.again && r.seq == 7 && r.stream == 5,
    (match (asked (.bank (.amo 0 8)) shm2000 8 7).ownerCheck 0 (Req.bank (.amo 0 8)).acc shm2000 8 8 with
     | .ok (_, k) => k == shmKey 0x2000
     | .error _ => false), (asked .load shm2000 8 0).headers.isEmpty] := by decide +kernel

/-- A copy of a bank operation whose number is past, its tag known here or not. -/
def oldCopy (known : Bool) : State :=
  { asked (.bank (.amo 0 8)) shm2000 8 7 with
    expect := [(5, 9)]
    filt := if known then [{ src := peerSource 9 77, bank := homeUnit (shmKey 0x2000), tag := 40, resp := 6, flags := 0 }] else [] }

theorem witness_OwnerSide_copies : holdAll [
    (oldCopy true).inreqs.all fun r => !r.again && r.stream == 5 && r.seq != 9 && decide ((9 + 2 ^ 24 - r.seq) % 2 ^ 24 < 2 ^ 23),
    (match (oldCopy true).ownerCheck 0 (Req.bank (.amo 0 8)).acc shm2000 8 8 with
     | .ok (u, k) => k == shmKey 0x2000 && u.headers.isEmpty
     | .error _ => false),
    after (exec .remoteRequestPerform (oldCopy true)) fun t => t.sent == [.answer 9 5 7 0 6 0] && t.mem.read (shmKey 0x2000) 8 == 0x99,
    after (exec .remoteRequestPerform (oldCopy false)) fun t => t.sent == [.answer 9 5 7 0 0x99 0] && t.mem.read (shmKey 0x2000) 8 != 0x99] := by decide +kernel

theorem witness_OwnerSide_next : (asked .load shm2000 8 (2 ^ 24 - 1)).hasNext (asked .load shm2000 8 (2 ^ 24 - 1)).inreqs[0] 0 := by
  unfold State.hasNext; decide +kernel

theorem witness_OwnerSide_first : (asked .withdraw 3 8 0).hasNext (asked .withdraw 3 8 0).inreqs[0] 0 := by unfold State.hasNext; decide +kernel

/-- A request of core 5 on a word. -/
def banked (applied answered : Bool) (copies tag key : Nat) : BankReq :=
  { tag := tag, key := key, op := .amo 0 8, val := 1, cmp := 0, copies := copies, answered := answered, resp := 0, adm := 1, applied := applied, team := none,
    me := 0, told := false, lock := 0, peer := none, part := 0 }

/-- The machine with requests of core 5, at an event about the last. -/
def busy (l : List BankReq) (known : Bool) : State :=
  ({ at' m0 5 100 0 0 with filt := if known then [{ src := 5, bank := homeUnit (shmKey 0x2000), tag := 100, resp := 7, flags := 0 }] else [] } : State).onCore 5 fun x =>
    { x with busy := l }

theorem witness_BankTraffic : holdAll [
    (busy [banked false false 1 100 (shmKey 0x2000)] false).cores[(5 : Fin 2048)].busy == [banked false false 1 100 (shmKey 0x2000)],
    (busy [banked false false 1 100 (shmKey 0x2000)] false).ev.b == 100,
    (busy [banked false false 1 100 (shmKey 0x2000)] true).filt.any fun x => x.src == 5 && x.bank == homeUnit (shmKey 0x2000) && x.tag == 100,
    (busy [] false).filt.isEmpty, (busy [] false).unacked.isEmpty, (busy [] false).firing? 1 == some (busy [] false).fir, (banked true true 4 100 0).answered,
    !(banked true false 4 100 0).answered, 4 ≤ (banked true false 4 100 0).copies, (banked true false 3 100 0).copies < 4,
    ({ busy [] false with agenda := [agendaEv .bankOpArrive 5 100 0 0] } : State).agenda == [agendaEv .bankOpArrive 5 100 0 0],
    (banked false false 1 99 (shmKey 0x2004)).key < (banked false false 1 100 (shmKey 0x2000)).key + 8,
    (busy [farBank false] false).cores[(5 : Fin 2048)].busy == [farBank false], (farBank false).peer.isSome, !(farBank false).answered, (farBank false).copies < 4,
    4 ≤ ({ farBank false with copies := 4 } : BankReq).copies, (busy [] false).headers.isEmpty, 0x40001000 < shmKey 0, shmKey 0 ≤ shmKey 0x2000,
    shmKey 0x2000 < spadKey 0 0] := by decide +kernel

/-- A copy of n bytes of scratchpad of firing 1, from 0x1000 to 0x1100. -/
def aCopyOf (n : Nat) : Copy :=
  { adm := 1, tid := 0, part := 0, id := 5, bytes := 0, srcDesc := [], dstDesc := [], srcPlace := [], dstPlace := [], phase := 0, buf := [], pends := [], bad := 0
    cr := #v[BitVec.ofNat 64 (0x1FF0 * 2 ^ 44 + 0x1000), BitVec.ofNat 64 (0x1FF0 * 2 ^ 44 + 0x1100), BitVec.ofNat 64 n, 0, 0, 0, 0, 0], hand := false, live := true }

/-- The machine with that copy in channel 3 of frond 0. -/
def copyAt (c : Copy) (code : Nat) : State := (at' m0 0 3 code 0).onFrond 0 fun x => { x with chans := x.chans.set 3 (some c) }

theorem witness_CopyEngine : holdAll [
    (copyAt (aCopyOf 1) 3).mem.wf, (aCopyOf 1).pends == [], (aCopyOf 1).bad == 0, (aCopyOf 1).phase == 0, (aCopyOf 1).cr[6] == 0,
    (aCopyOf 1).bytes < (aCopyOf 1).cr[2].toNat % 2 ^ 48, !(aCopyOf 1).cr[7].getLsbD 63, !(aCopyOf 1).cr[7].getLsbD 62, (copyAt (aCopyOf 1) 3).parts[(0 : Fin 16)].req.isNone,
    (aCopyOf 0).cr[2].toNat % 2 ^ 48 ≤ (aCopyOf 0).bytes, (copyAt (aCopyOf 1) 3).ev.c < 256, (copyAt (aCopyOf 1) 3).fir.reports.length < 16,
    (copyAt { aCopyOf 1 with pends := [(9, 6, 0)] } 3).fir.pends.isEmpty, 2 ^ 57 ≤ (BitVec.ofNat 64 (2 ^ 57) : Word).toNat] := by decide +kernel

theorem witness_CopyEngine_copies : (copyAt (aCopyOf 1) 3).copies 0 3 (aCopyOf 1) (copyAt (aCopyOf 1) 3).fir := by unfold State.copies; decide +kernel

theorem witness_CopyEngine_bytes : ((copyAt (aCopyOf 1) 3).focus 1).bytesAt .load ((0x1FF0 * 2 ^ 44 + 0x1000 : Nat) : Int) 1 (.spad 0 0x1000) :=
  ⟨by decide, by decide, by decide +kernel, fun _ _ _ _ => by with_unfolding_all rfl⟩

theorem witness_CopyEngine_stores : ((copyAt (aCopyOf 1) 3).focus 1).bytesAt .store ((0x1FF0 * 2 ^ 44 + 0x1100 : Nat) : Int) 1 (.spad 0 0x1100) :=
  ⟨by decide, by decide, by decide +kernel, fun _ _ _ _ => by with_unfolding_all rfl⟩

/-- The machine that is about to fetch a word. -/
def placed (w : Nat) : State := State.reset.withFetchWord 32 w

/-- addi x8, x0, 4089 (R39). -/
def addiWord : Nat := 0x7FC80402

theorem witness_MemoryForm : (placed addiWord).mem.wf = true ∧ after (step (placed addiWord)) (fun _ => true) = true := by decide +kernel

theorem witness_MemoryReadsBack : (placed addiWord).mem.wf = true ∧ (m0.mem.write (shmKey 0x2000) 8 0x99).wf = true := by decide +kernel

theorem witness_DecodingMatchesEncoding : legal (.addi 8 16 0x3FC) = true ∧ encode (.addi 8 16 0x3FC) ≠ 0#32 := by decide +kernel

/-- The one move there is. -/
noncomputable def move? (s : State) : Option (Nat ⊕ Ev) :=
  match s.moves with
  | [.issue n] => some (.inl n)
  | [.unit e] => some (.inr e)
  | _ => none

theorem move_issue (s : State) (n : Nat) (h : move? s = some (.inl n)) : s.moves = [.issue n] := by
  unfold move? at h; split at h <;> simp_all

theorem move_unit (s : State) (e : Ev) (h : move? s = some (.inr e)) : s.moves = [.unit e] := by
  unfold move? at h; split at h <;> simp_all

/-- The word fetched. -/
def fetched (s : State) : Option (BitVec 32) := match s.fetchWord s.fir.pc with
  | .ok (_, w) => some w
  | .error _ => none

/-- A firing about to issue in a REP pass, and one whose pc lies in no page. -/
def repeating : State := (placed addiWord).upd fun f => { f with fstat := 0x802000, repw := 0x000C4015 }
def astray : State := (placed addiWord).upd fun f => { f with pc := 0x90000000 }

/-- A machine with nothing but one event to do. -/
def pending : State := { State.reset with agenda := [agendaEv .powerGood 0 0 0 0] }

theorem witness_StepRunsDecoded : holdAll [
    (placed addiWord).inbox.isEmpty, move? (placed addiWord) == some (.inl (placed addiWord).fir.adm), fetched (placed addiWord) == some 0x7FC80402,
    fetched (placed 0) == some 0, !(placed addiWord).fir.repact, move? astray == some (.inl astray.fir.adm), fetched astray == none,
    (State.reset.parts[(0 : Fin 16)].pcfg == 0), move? pending == some (.inr (agendaEv .powerGood 0 0 0 0)), encode .powerGood == 0] := by decide +kernel

/-- The word for the next instruction, and whether it is kept. -/
def given (s : State) : Option (BitVec 32 × Nat) := match s.wordAt s.fir.pc with
  | .ok (u, w) => some (w, u.fir.repbuf.length)
  | .error _ => none

theorem witness_StepRunsDecoded_replay : given (placed addiWord) = some (0x7FC80402, 0) ∧ given repeating = some (0x7FC80402, 1) ∧
    given (repeating.upd fun f => { f with repbuf := [(0x40000000, 0x7F)] }) = some (0x7F, 1) ∧
    given (astray.upd fun f => { f with fstat := 0x802000 }) = none := by decide +kernel

theorem witness_StepRunsDecoded_page : (2 ^ 57 ≤ (2 ^ 57 : Word).toNat) ∧ (0x1FF2000000000000 : Word).toNat / 2 ^ 48 ≠ 0 ∧
    (placed addiWord).translate 0 (placed addiWord).fir.die 0x90000000 false = none := by decide +kernel

theorem witness_StepRunsDecoded_passes : repeating.fir.repact = true ∧ repeating.fir.repj = 1 ∧
    maskAbsent (repeating.fir.repw.extractLsb' 18 4) (opsOf (.addi 8 0 4089)) = false ∧
    repeating.fir.movedOutside (moved (repeating.fir.repw.extractLsb' 18 4) (repeating.fir.repw.extractLsb' 14 4).toInt (opsOf (.addi 8 0 4089))) = none ∧
    movedApart (.addi 8 0 4089) (moved (repeating.fir.repw.extractLsb' 18 4) (repeating.fir.repw.extractLsb' 14 4).toInt (opsOf (.addi 8 0 4089))) = true ∧
    (0x7FC80402 : BitVec 32).extractLsb' 0 7 ∈ captureMajors ∧ repeating.fir.fpend = false ∧ stageIll repeating.fir (opsOf (.addi 8 0 4089)) = false := by
  decide +kernel

theorem witness_StepRunsDecoded_operands : ¬ asksAbsent (repeating.fir.repw.extractLsb' 18 4) (opsOf (.addi 8 0 4089)) := by
  unfold asksAbsent; decide +kernel

/-! ## Words that the spec writes out -/

/-- Each word is the instruction beside it. -/
abbrev reads (l : List (Nat × Instr)) : Prop := ∀ x ∈ l, decodeTableWord 32 x.1 = some x.2

/-- R39's worked encodings and those of the chapter on control. -/
theorem test_words_control : reads [(0x7FC80402, .addi 8 0 4089), (0x3F800404, .lui 8 0x1FC00), (0x00050092, .jal 1 40), (0xFFFF8491, .bnez 9 0x3FFFC),
  (0x01DC4015, .rep 0 7 7 1), (0x10000016, .gang .n4), (0x20000016, .gangend), (0x33000051, .fmt .e4m3 .e4m3 false 0 0 false),
  (0x559C0051, .fmt .e2m1 .e2m1 true 14 0 false), (0x030A0190, .beq 5 6 3), (0x8923FF90, .bltu 17 18 0x3FF), (0x00001F94, .loopn 63 0),
  (0x00002013, .jalr 0 1 0), (0x00000017, .retire), (0x02616517, .launch 10 11 12), (0x08000017, .phase 0), (0x04386018, .hspost 3 7)] := by decide +kernel

/-- Those of the chapters on scalars, memory, atomics and engines. -/
theorem test_words_scalar : reads [(0x0038C281, .add 5 6 7), (0x0838C286, .div 5 6 7), (0x61690403, .slli 8 8 45), (0x00808487, .movxRead 9 4 16),
  (0x30616508, .fadd .f64 .rtz 10 11 12), (0x70B2AA09, .fmadd .f32 .dyn 20 21 22), (0x600082A0, .ld .n64 5 4 0), (0x60288421, .st .d 4 8 5),
  (0x0000E422, .ldfe .wf 8 7 0), (0x2040E023, .stfe .sf 7 0 8), (0x010A0024, .vld .f32 0 5 2), (0x800A60A4, .vlds .f32 1 5 6 0)] := by decide +kernel

theorem test_words_memory : reads [(0x000C51A6, .vldx .f32 3 5 6 0), (0x00065227, .vstx .f32 5 3 4 0), (0x0838C2B0, .amoadd .d 5 6 7), (0x90616530, .amocas .w 10 11 12),
  (0x00490031, .amofadd .f32 0 8 9), (0x00490032, .xcadd .f32 8 9), (0x10010532, .xcrd .f32 10 8), (0x148C5233, .vamoadd .i32 5 6 4 2),
  (0x800081B3, .vbsum .f32 8 3 0), (0x02008038, .qput 4 0), (0x00008338, .qget 6 4), (0x0001403A, .cwr 0 10), (0x2000073A, .cgo 14)] := by decide +kernel

theorem test_words_engines : reads [(0x2201C8BA, .cwp 17 14), (0x0201A83B, .txarr 16 13), (0x0681A03B, .txwait 13 16), (0x0401853C, .dqsteal 10 12),
  (0x340004BA, .crd 2 9), (0x0000A070, .trap 5), (0x02000070, .tret), (0x04000070, .halt), (0x400001F1, .csrs 3 0 0), (0x40180271, .csrs 4 3 0),
  (0x00812071, .csrw 0 0x010 9), (0x40881E71, .csrs 60 0x011 0), (0x701A82A8, .ldt .plain .n32 5 20 3), (0x701A82A9, .stt .plain .n32 20 3 5)] := by decide +kernel

theorem test_words_shard : reads [(0x7C1A82A9, .stt .sf .n64 20 3 5), (0x82328128, .vldt .f32 2 20 6 1), (0x0A02802A, .shinv .dom 20), (0x101A852A, .shloc 10 20 3),
  (0x012CC7E0, .mma false false 0 true 5 true 6 15), (0x84002060, .mma true false 2 false 0 false 1 0), (0x0461C861, .accrd 4 7 1 6), (0x80000061, .acczero 0),
  (0x82A00461, .accld 2 20), (0x84A00061, .accst 20 0), (0x864840E1, .accstat 9 1 true), (0x0051C262, .tld 1 10 7 false), (0x0259C2E2, .tst 11 1 7 true)] := by decide +kernel

/-- Those of the chapters on vectors and relation tiles. -/
theorem test_words_vector : reads [(0x00820040, .vadd .f32 0 0 1 2), (0x20100840, .vmul .f32 16 0 8 0), (0x010C5241, .vfmadd 4 5 6 4 0), (0x400A41C2, .vmulx .f32 3 4 5 0),
  (0x000063C3, .vexp 7 6 0), (0x00003144, .vredsum .f32 2 3 0), (0x80124144, .vredq .f32 2 4 9 0), (0xDA0620C8, .viaddSat .w8 true 1 2 3 0),
  (0x200411CA, .vcmp .lt .f32 3 1 2 0), (0x121020CB, .vslideup 1 2 40 0), (0xB00C014B, .kset 2 6), (0x10000051, .fmt .bf16 .f32 false 0 0 false),
  (0x04000062, .tzero 0), (0x06004662, .tmov 3 1)] := by decide +kernel

theorem test_words_relation : reads [(0x60484068, .ocmp .klt .f32 0 4 4 1), (0x600A4068, .ocmp .klt .f32 0 4 5 0), (0x204840E8, .ocmp .lt .f32 1 4 4 1), (0x00000C69, .btpopr 6 0),
  (0x040044E9, .btclo 2 1 true), (0x06104669, .btcomp 3 1 2), (0x08000869, .bttr 4 0), (0x14280469, .btrowk 2 0 5), (0x100A0152, .vspuni .w32 2 5 0),
  (0x308C4252, .vgumb 4 4 6 1), (0xAC30A552, .spexp .w64 10 5 6), (0x801803D2, .spdraw .w32 7 0 3), (0x00490053, .digest 8 9), (0x025105D3, .digestm 8 10 11)] := by
  decide +kernel

theorem test_words_sorus : reads [(0x0000806C, .sinit 4), (0x0230A06C, .rate 5 6), (0x0600056C, .nextev 10 0), (0x0601856C, .nextev 10 12), (0x0808A3EC, .swrd 7 5 1),
  (0x0A00076C, .sclk 14), (0x0000806D, .binit 4), (0x0201246D, .bdec 8 9), (0x0401246D, .brecv 8 9)] := by decide +kernel

/-! ## Effects that the spec works out -/

/-- Scalar register d after an instruction. -/
def xAfter (i : Instr) (s : State) (d : BitVec 6) : Option Nat :=
  match exec i s with
  | .next t => some (t.rx d).toNat
  | _ => none

/-- R128: −7 by 2 gives −3, the remainder −1; 7 by 0 gives 2^64 − 1. -/
theorem test_division : holdAll [
    xAfter (.div 3 1 2) (withX s0 [(1, 2 ^ 64 - 7), (2, 2)]) 3 == some (2 ^ 64 - 3), xAfter (.rem 3 1 2) (withX s0 [(1, 2 ^ 64 - 7), (2, 2)]) 3 == some (2 ^ 64 - 1),
    xAfter (.divu 3 1 2) (withX s0 [(1, 7)]) 3 == some (2 ^ 64 - 1)] := by decide +kernel

/-- R39, R40: LUI and ADDI of 0x1234_5FFF and of 0x8000_0000. -/
theorem test_lui_addi : holdAll [
    xAfter (.lui 8 0x1FC00) s0 8 == some 0x3F800000, xAfter (.lui 8 0x091A3) s0 8 == some 0x12346000,
    xAfter (.addi 8 8 0x1FFF) (withX s0 [(8, 0x12346000)]) 8 == some 0x12345FFF, xAfter (.lui 8 0x40000) s0 8 == some 0xFFFFFFFF80000000] := by decide +kernel

/-- R129: with 24 registers, x9 := x[x4 + 16] for x4 = 7, 8 and −17. -/
def window (x4 : Nat) : State := withX (s0.upd fun f => { f with dem := { f.dem with xregs := 24 } }) [(4, x4), (23, 99)]

theorem test_movx : holdAll [
    xAfter (.movxRead 9 4 16) (window 7) 9 == some 99, after (exec (.movxRead 9 4 16) (window 8)) (fun t => t.fir.tval == 24 && t.rx 9 == 0),
    after (exec (.movxRead 9 4 16) (window (2 ^ 64 - 17))) (fun t => t.fir.tval == BitVec.allOnes 64 && t.fir.tpc == 0x40000000)] := by decide +kernel

/-- R134: 2.5 from f64 to i64 gives 2 under RNE and 3 under RUP, with NX. -/
theorem test_fcvt : holdAll [
    after (exec (.fcvt .rne false 9 1 .i64 .f64) (withX s0 [(1, 0x4004000000000000)])) (fun t => t.rx 9 == 2 && t.fir.fflags == 1),
    after (exec (.fcvt .rup false 9 1 .i64 .f64) (withX s0 [(1, 0x4004000000000000)])) (fun t => t.rx 9 == 3 && t.fir.fflags == 1)] := by decide +kernel

/-- R61: the addend's signalling NaN comes first, quieted, with NV. -/
theorem test_vfmadd_nan : after (exec (.vfmadd 4 1 2 3 0) (((s0.upd fun f => f.wv 1 (0x7FC00002 : Vec)).upd fun f => f.wv 2 (0x3F800000 : Vec)).upd fun f =>
    f.wv 3 (0x7FA00001 : Vec))) (fun t => elem (t.fir.rv 4) 32 0 == 0x7FE00001 && t.fir.fflags == 16) = true := by decide +kernel

/-- R49: the byte 0x78 is +∞ or 256, 0x7E a NaN or 448. -/
theorem test_e4m3 : holdAll [(e4m3 false).value 0x78 == .inf false, match (e4m3 true).value 0x78 with
    | .fin false m e => m * 2 ^ (e + 20).toNat == 256 * 2 ^ 20
    | _ => false, match (e4m3 true).value 0x7E with
    | .fin false m e => m * 2 ^ (e + 20).toNat == 448 * 2 ^ 20
    | _ => false] := by decide +kernel

/-- R57's example: 1 + 2^−9 to bf16 goes up for the draws below 16,384. -/
theorem test_stochastic : holdAll [
    (roundTo bf16 .sr false false (2 ^ 9 + 1) (-9) false 16383).1 == 0x3F81, (roundTo bf16 .sr false false (2 ^ 9 + 1) (-9) false 16384).1 == 0x3F80] := by
  decide +kernel

/-- The exact-cell idiom: 2^24, 1 and −2^24 read 1 without a flag. -/
def cellSum : Option (Nat × Word) :=
  let add := fun (o : Option State) (w : Nat) => o.bind fun s => match exec (.xcadd .f32 8 1) (withX s [(1, w)]) with
    | .next t => t.agenda.getLast?.bind fun e => match exec .bankOpArrive { t with agenda := [], ev := e } with
      | .next u => some u
      | _ => none
    | _ => none
  (add (add (add (some m0) 0x4B800000) 0x3F800000) 0xCB800000).bind fun s => match exec (.xcrd .f32 10 8) s with
    | .next d => some ((d.rx 10).toNat, d.fir.fflags)
    | _ => none

theorem test_cell_sum : cellSum = some (0x3F800000, 0) := by decide +kernel

/-- R290's example of VCVTO. -/
theorem test_vcvto : after (exec (.vcvto .rne false 8 5 1 1) (withX (s0.upd fun f => { f with
    pfx := encode (.fmt .i8 .f32 true 7 0 false), fstat := 1, k := f.k.set 1 0xFF
    v := f.v.set 1 (lanesOf [0x40400000, 0xC0F00000, 0x437A0000, 0x3ECCCCCD, 0xC2F00000, 0x42C70000, 0x7FC00000, 0x40200000]) }) [(7, 0x42C80000)])) (fun t =>
      t.fir.rk 5 == 0x54 && t.fir.rv 8 == lanesOf [0x0000F803, 0x02006400] && t.fir.rv 9 == lanesOf [0xD7805BD0, 0x00007E00] && t.fir.fflags == 1) = true := by
  decide +kernel

/-- The low byte of v2 after a byte of v1 is packed with p = 4 planes. -/
def packed4 (w : Nat) : Option Vec :=
  match exec (.vplane 2 1) (s0.upd fun f => { (f.wv 1 (BitVec.ofNat 2048 w)) with pfx := encode (.fmt .bpn .i8 false 0 3 false), fstat := 1 }) with
  | .next t => some (t.fir.rv 2)
  | _ => none

/-- The byte that v2's planes give with p and ctr. -/
def unpacked (p : BitVec 3) (c : Bool) (v : Vec) : Option Nat :=
  match exec (.vunplane 3 2) (s0.upd fun f => { (f.wv 2 v) with pfx := encode (.fmt .i8 .bpn false 0 p c), fstat := 1 }) with
  | .next t => some (elem (t.fir.rv 3) 8 0)
  | _ => none

/-- R291: −37 packed with p = 4 reads back −40 with p = 4 and ctr, −48 with p = 8. -/
theorem test_planes : (packed4 0xDB).bind (unpacked 3 true) = some 0xD8 ∧ (packed4 0xDB).bind (unpacked 7 false) = some 0xD0 := by decide +kernel

/-- R319: edges 0→1 and 1→2 close to rows 6, 4, 0; with refl to 7, 6, 4 and every diagonal. -/
def edges : State := s0.upd fun f => { f with b := f.b.set 1 (BitVec.ofNat 4096 (2 + 4 * 2 ^ 64)) }

theorem test_btclo : after (exec (.btclo 2 1 false) edges) (fun t => t.fir.b[2] == BitVec.ofNat 4096 (6 + 4 * 2 ^ 64)) = true ∧
    after (exec (.btclo 2 1 true) edges) (fun t => t.fir.b[2].extractLsb' 0 256 == BitVec.ofNat 256 (7 + 6 * 2 ^ 64 + 4 * 2 ^ 128 + 8 * 2 ^ 192) &&
      t.fir.b[2].getLsbD 4095) = true := by decide +kernel

/-- The ranking with a NaN, signed zeros and a tie. -/
def scores : State := s0.upd fun f => { f with
  k := f.k.set 1 0x3F
  v := (f.v.set 4 (lanesOf [0x40000000, 0x7FC00000, 0x80000000, 0x40000000, 0, 0xFF800000])).set 5 (lanesOf [100, 101, 102, 103, 104, 105]) }

theorem test_ocmp_key : after (exec (.ocmp .klt .f32 0 4 4 1) scores) (fun t =>
    t.fir.b[0] == BitVec.ofNat 4096 (packNat 64 [2, 0, 0x0B, 3, 0x0F, 0x1F]) && t.fir.fflags == 0 &&
      after (exec (.btpopr 6 0) t) (fun u => u.fir.rv 6 == lanesOf [1, 0, 3, 2, 4, 5])) = true := by decide +kernel

theorem test_ocmp_lt : after (exec (.ocmp .lt .f32 1 4 4 1) scores) (fun t =>
    t.fir.b[1] == BitVec.ofNat 4096 (packNat 64 [0, 0, 9, 0, 9, 0x1D]) && t.fir.fflags == 0) = true := by decide +kernel

/-- R218's tensor: 6 × 10, dimension 0 cut by B and G with CYC or not, dimension 1 by 5 and 2. -/
def tensor (cyc b g : Nat) : List Word :=
  [0x8000000000000022, 0, BitVec.ofNat 64 (g * 2), 0, BitVec.ofNat 64 (6 + cyc * 2 ^ 40), BitVec.ofNat 64 (b + g * 2 ^ 40), 20, 10, 5 + 2 * 2 ^ 40, 4]

/-- Index 57 lies in shard 1 at 0x44, and after the reshard of dimension 0 to B 2, G 3, CYC 0 in shard 5 at 0x1C. -/
theorem test_shard : shardOf (tensor 1 2 2) 57 = (1, 0x44) ∧ shardOf (tensor 0 2 3) 57 = (5, 0x1C) := by decide +kernel

/-- R331's table of variates. -/
theorem test_variates : holdAll [
    uni32 0x8000000000000000 == 0x3F000001, uni64 0x8000000000000000 == 0x3FE0000000000001, expVar f32 0x8000000000000000 == 0x3F317218,
    expVar f64 0x8000000000000000 == 0x3FE62E42FEFA39ED, gumbelVar 0x8000000000000000 == 0x3EBBA795, uni32 (BitVec.allOnes 64) == 0x3F800000,
    uni64 (BitVec.allOnes 64) == 0x3FF0000000000000, expVar f32 (BitVec.allOnes 64) == 0, expVar f64 (BitVec.allOnes 64) == 0,
    gumbelVar (BitVec.allOnes 64) == 0x4215B844] := by decide +kernel

/-- R102: JAL of +40 writes the next address and goes 160 bytes on. -/
theorem test_jal : after (exec (.jal 1 40) s0) (fun t => t.rx 1 == 0x40000004 && t.fir.pc == 0x400000A0) = true := by decide +kernel

/-- R109's trap of a load from an unmapped page: PAGE with the address, tpc the load's, x5 as it was. -/
theorem test_page : after (exec (.ld .n64 5 6 0) (withX m0 [(6, 0x90000000), (5, 3)])) (fun t =>
    t.fir.tcause == 4 && t.fir.tval == 0x90000000 && t.fir.tpc == m0.fir.pc && t.rx 5 == 3) = true := by decide +kernel

/-! ## Terms that are not well-formed, one for each check, and their neighbours that are -/

theorem test_ill_formed_fields : [Instr.fcvt .rne false 1 2 .f32 .f32, .fcvt .rne false 1 2 .i64 .n32, .loopn 0 1, .vld .bpn 1 2 0, .vlds .e2m1 1 2 3 0, .vst .bpn 1 2 0,
    .vsts .bpn 1 2 3 0, .vldx .e2m1 1 2 3 0, .vstx .bpn 1 2 3 0, .ldt .wf .f32 1 2 3, .ldt .plain .bpn 1 2 3, .vldt .e2m1 1 2 3 0, .stt .sf .n32 1 2 3, .vstt .bpn 1 2 3 0,
    .shinv .fr 1, .shloc 1 2 3, .xcadd .f64 1 2, .xcrd .bf16 1 2, .xcrdclr .f16 1 2, .vamoadd .f16 1 2 3 0, .vamomin .n64 1 2 3 0, .vamomax .i8 1 2 3 0,
    .vxcadd .bf16 1 2 3 0, .vbsum .i32 1 2 0, .qget 1 14, .qget 1 8, .qput 8 1, .vqget 1 12, .vqput 15 1, .qcnt 1 14, .dqpop 1, .dqsteal 3 2].all
      fun i => !legal i := by decide +kernel

theorem test_ill_formed_groups : [Instr.vredq .f32 1 12 2 0, .vredq .f32 1 2 0 0, .vcvto .rne false 31 1 2 0, .fmt .f32 .f16 false 1 0 false, .fmt .f32 .f16 false 0 1 false,
    .fmt .bpn .i8 false 0 0 false, .digestm 1 2 2, .digestm 1 2 0, .digestm 1 0 2, .mma false false 0 true 0 true 1 0, .mma false false 0 false 8 true 1 0,
    .mma false false 0 true 1 false 8 0, .ocmp .klt .f32 0 31 4 0, .ocmp .kgt .f32 0 4 31 0, .csrw 1 0x060 2, .csrw 1 0x000 2, .csrs 1 0x000 2, .csrc 1 0x000 2].all
      fun i => !legal i := by decide +kernel

theorem test_ill_formed_overlaps : [Instr.btclo 2 2 false, .bttr 1 1, .btcomp 1 1 2, .btcomp 2 1 2, .vperm 1 1 2 0, .vslideup 3 3 1 0, .vplane 1 1, .vunplane 2 2,
    .vcvto .rne false 4 1 5 0, .accrd 4 0 1 6, .sinit 0, .hint 0x1FFFFFF].map legal =
  [false, false, false, false, false, false, false, false, false, true, true, false] := by decide +kernel

theorem test_well_formed : [Instr.fcvt .rne false 1 2 .f32 .i64, .loopn 1 1, .vld .e2m1 1 2 0, .ldt .wf .n64 1 2 3, .shinv .die 1, .shloc 2 2 3, .xcrd .f64 1 2, .qget 1 13, .qput 7 1,
    .vqget 1 11, .qcnt 1 15, .dqpop 2, .vredq .f32 1 11 2 0, .fmt .f32 .f16 true 1 0 false, .fmt .bpn .i8 false 0 7 true, .digestm 1 2 3, .mma false false 0 true 31 false 7 63,
    .csrs 1 0x000 0, .btand 1 1 2, .vadd .f32 1 1 1 0].all legal := by decide +kernel

/-- A word of no row, one with a nonzero must-be-zero bit, and one of an unused minor are no instruction. -/
theorem test_refused_words : decodeTableWord 32 0 = none ∧ decodeTableWord 32 0x0000007E = none ∧ decodeTableWord 32 0x02000016 = none ∧
    decodeTableWord 32 0xFE000001 = none := by decide +kernel

/-! ## A word of every row that has one, written out from its encoding -/

theorem test_decode_01_0 : reads [
  (0x004CBB81, .add 55 37 9),
  (0x03A62281, .sub 5 49 52),
  (0x04891001, .and 32 8 17),
  (0x078BAF81, .or 31 29 49),
  (0x09533981, .xor 51 25 42),
  (0x0A70F001, .andn 32 7 14),
  (0x0C175B01, .sll 54 58 2),
  (0x0ECB9381, .srl 39 28 25)] := by decide +kernel
theorem test_decode_01_1 : reads [
  (0x118E4081, .sra 1 50 49),
  (0x136BA901, .slt 18 29 45),
  (0x157E8781, .sltu 15 52 47),
  (0x1737A381, .min 7 61 38),
  (0x19D2A101, .max 2 21 58),
  (0x1A105501, .minu 42 2 2),
  (0x1D183E81, .maxu 61 1 35),
  (0x1E072C81, .clz 25 57)] := by decide +kernel
theorem test_decode_01_2 : reads [
  (0x20058701, .ctz 14 44),
  (0x2207EE01, .popc 28 63),
  (0x25785101, .rol 34 2 47),
  (0x267E2E81, .ror 29 49 15)] := by decide +kernel
theorem test_decode_02 : reads [
  (0xF0741202, .addi 36 32 7694)] := by decide +kernel
theorem test_decode_03 : reads [
  (0x077AE783, .andi 15 23 239),
  (0x35B1F883, .ori 49 15 694),
  (0x4EBFA983, .xori 19 61 471),
  (0x61E04D83, .slli 27 2 60),
  (0x81B77203, .srli 36 59 54),
  (0xA1E54383, .srai 7 42 60),
  (0xC5FD3783, .slti 47 41 191),
  (0xFB8A6403, .sltiu 8 19 881)] := by decide +kernel
theorem test_decode_04 : reads [
  (0xBE3EEB04, .lui 22 389623)] := by decide +kernel
theorem test_decode_05 : reads [
  (0xE5449785, .adrp 47 469540)] := by decide +kernel
theorem test_decode_06 : reads [
  (0x01FDD086, .mul 33 46 63),
  (0x03E7CE06, .mulh 28 62 60),
  (0x050EDD86, .mulhu 59 54 33),
  (0x0759AA06, .mulhsu 20 13 43),
  (0x089CDF86, .div 63 38 19),
  (0x0BCC1B86, .divu 55 32 57),
  (0x0DEC2D06, .rem 26 33 61),
  (0x0F36E186, .remu 3 55 38)] := by decide +kernel
theorem test_decode_07 : reads [
  (0x0F621807, .movxRead 48 16 492),
  (0x398B4D87, .movxWrite 26 817 27)] := by decide +kernel
theorem test_decode_08_0 : reads [
  (0xE0C49C88, .fadd .f32 .dyn 57 36 24),
  (0xF233B588, .fsub .f64 .dyn 43 29 6),
  (0x85917108, .fmul .f32 .sr 34 11 50),
  (0x7705E108, .fdiv .f64 .rup 2 47 32),
  (0x68029708, .fsqrt .f32 .rup 46 20),
  (0x8B477A88, .fcvt .sr false 53 59 .n32 .f64),
  (0x0D91B188, .fmin .f32 35 13 50),
  (0x2CD42B88, .fmax .f32 23 33 26)] := by decide +kernel
theorem test_decode_08_1 : reads [
  (0x5CF76908, .fsgnj .f64 18 59 30),
  (0x6CCE7B88, .fsgnjn .f32 55 51 25),
  (0x8D165208, .fsgnjx .f32 36 50 34),
  (0xACE7A208, .feq .f32 4 61 28),
  (0xDDC31288, .flt .f64 37 24 56),
  (0xEDEC2D88, .fle .f32 27 33 61),
  (0x1E06AB88, .fclass .f64 23 53)] := by decide +kernel
theorem test_decode_09 : reads [
  (0xA00C7189, .fmadd .f64 .rdn 35 35 1),
  (0xB5385A09, .fmsub .f64 .rup 52 2 39),
  (0x78649309, .fnmadd .f32 .dyn 38 36 12),
  (0x0DA49A09, .fnmsub .f32 .rne 52 36 52)] := by decide +kernel
theorem test_decode_0a : reads [
  (0x6FAF888A, .sel 17 60 53 55)] := by decide +kernel
theorem test_decode_10 : reads [
  (0x01EDE390, .beq 54 3 967),
  (0x360A2B10, .bne 5 44 86),
  (0x5C04E810, .blt 2 56 464),
  (0x60E38310, .bge 49 1 774),
  (0x89208A10, .bltu 16 18 276),
  (0xA4694010, .bgeu 52 8 640)] := by decide +kernel
theorem test_decode_11 : reads [
  (0x17A16B91, .beqz 23 48395),
  (0xA5282291, .bnez 5 76097)] := by decide +kernel
theorem test_decode_12 : reads [
  (0x2ADF6592, .jal 11 87803)] := by decide +kernel
theorem test_decode_13 : reads [
  (0x415C5E93, .jalr 61 34 2091)] := by decide +kernel
theorem test_decode_14 : reads [
  (0x1585F594, .loopn 43 44079)] := by decide +kernel
theorem test_decode_15 : reads [
  (0x5AB14015, .rep 5 42 12 5)] := by decide +kernel
theorem test_decode_16 : reads [
  (0x10000016, .gang .n4),
  (0x20000016, .gangend)] := by decide +kernel
theorem test_decode_17 : reads [
  (0x00000017, .retire),
  (0x036AB017, .launch 32 21 45),
  (0x0403E417, .join 8 31),
  (0x06004017, .leave 2),
  (0x08028017, .phase 20),
  (0x0A032017, .gbar 25),
  (0x0C000B17, .sget 22),
  (0x0E000017, .sput)] := by decide +kernel
theorem test_decode_18 : reads [
  (0x00D86698, .hswait 13 3 27),
  (0x0288E898, .hstry 17 7 17),
  (0x05D1E018, .hspost 15 58),
  (0x0709E018, .hsset 15 33),
  (0x0801DF18, .hsrd 62 14)] := by decide +kernel
theorem test_decode_20 : reads [
  (0x8DDEBFA0, .ld .n8 63 53 443)] := by decide +kernel
theorem test_decode_21 : reads [
  (0x061353A1, .st .b 26 231 2)] := by decide +kernel
theorem test_decode_22 : reads [
  (0x012DFF22, .ldfe .wf 62 47 37)] := by decide +kernel
theorem test_decode_23 : reads [
  (0x0F7424A3, .stfe .we 33 457 46)] := by decide +kernel
theorem test_decode_24 : reads [
  (0x6AEC0424, .vld .n16 8 54 5),
  (0xF14550A4, .vlds .n32 1 34 21 2)] := by decide +kernel
theorem test_decode_25 : reads [
  (0x634A0D25, .vst .n8 37 26 6),
  (0xD352E125, .vsts .i32 41 2 14 6)] := by decide +kernel
theorem test_decode_26 : reads [
  (0x90BE7EA6, .vldx .i16 29 7 31 2)] := by decide +kernel
theorem test_decode_27 : reads [
  (0x10C7C1A7, .vstx .bf16 28 3 3 3)] := by decide +kernel
theorem test_decode_28 : reads [
  (0x21DF8EA8, .ldt .plain .e5m2 29 60 59),
  (0xC20C8CA8, .vldt .i8 25 36 1 1)] := by decide +kernel
theorem test_decode_29 : reads [
  (0x616778A9, .stt .plain .n8 59 44 49),
  (0xF2AF0C29, .vstt .n32 56 21 24 1)] := by decide +kernel
theorem test_decode_2a : reads [
  (0x0C05C02A, .shinv .sys 46),
  (0x1134C22A, .shloc 4 38 38)] := by decide +kernel
theorem test_decode_2b : reads [
  (0x0600002B, .rel .die),
  (0x1200002B, .acq .co),
  (0x2400002B, .fence .fr)] := by decide +kernel
theorem test_decode_30_0 : reads [
  (0x0074B630, .amoadd .w 44 37 14),
  (0x1931B030, .amoand .d 32 13 38),
  (0x21ED6CB0, .amoor .w 25 43 61),
  (0x390C0130, .amoxor .d 2 32 33),
  (0x49470D30, .amomin .d 26 56 40),
  (0x581166B0, .amomax .d 13 11 2),
  (0x69A4B9B0, .amominu .d 51 37 52),
  (0x70B38730, .amomaxu .w 14 28 22)] := by decide +kernel
theorem test_decode_30_1 : reads [
  (0x8960FB30, .amoswp .d 54 7 44),
  (0x99E48BB0, .amocas .d 23 36 60)] := by decide +kernel
theorem test_decode_31 : reads [
  (0x07946831, .amofadd .f16 16 35 50),
  (0x11786331, .amofmin .f32 6 3 47),
  (0x22597DB1, .amofmax .f64 59 11 11)] := by decide +kernel
theorem test_decode_32 : reads [
  (0x0773C032, .xcadd .f16 30 46),
  (0x12062BB2, .xcrd .f64 23 49),
  (0x2006C032, .xcclr 54),
  (0x30022432, .xcrdclr .f32 8 17)] := by decide +kernel
theorem test_decode_33 : reads [
  (0x14548E33, .vamoadd .i32 8 10 28 1),
  (0x21F536B3, .vamomin .f32 19 26 13 7),
  (0x5DA27633, .vamomax .n32 7 17 12 6),
  (0x6049DDB3, .vxcadd .f32 29 4 27 1),
  (0x8080BA33, .vbsum .f32 11 20 2)] := by decide +kernel
theorem test_decode_38 : reads [
  (0x0000D9B8, .qget 51 6),
  (0x03B88038, .qput 4 55),
  (0x0400A2B8, .vqget 5 5),
  (0x06788038, .vqput 4 15),
  (0x0800A338, .qcnt 6 5)] := by decide +kernel
theorem test_decode_39 : reads [
  (0x01EA4C39, .send 18 61 24),
  (0x03D272B9, .sendv 19 58 37)] := by decide +kernel
theorem test_decode_3a : reads [
  (0x0A07803A, .cwr 5 60),
  (0x2000043A, .cgo 8),
  (0x2203DD3A, .cwp 58 30),
  (0x360003BA, .crd 3 7)] := by decide +kernel
theorem test_decode_3b : reads [
  (0x0198603B, .txinit 3 51),
  (0x0206A9BB, .txarr 19 53),
  (0x040D003B, .txexp 40 1),
  (0x0758203B, .txwait 1 43),
  (0x0833643B, .txtry 8 27 6)] := by decide +kernel
theorem test_decode_3c : reads [
  (0x01A81CBC, .dqpush 57 53),
  (0x0200053C, .dqpop 10),
  (0x0400373C, .dqsteal 46 1)] := by decide +kernel
theorem test_decode_40_0 : reads [
  (0x05E6E340, .vadd .bf16 6 14 19 7),
  (0x110D6440, .vsub .f32 8 22 6 4),
  (0x25B84740, .vmul .bf16 14 4 28 6),
  (0x3DE5EDC0, .vdiv .f64 27 30 18 7),
  (0x49537840, .vmin .f16 16 23 9 5),
  (0x584F55C0, .vmax .f16 11 21 7 1),
  (0x60401D40, .vabs .f32 26 1 1),
  (0x798145C0, .vneg .f16 11 20 6)] := by decide +kernel
theorem test_decode_40_1 : reads [
  (0x8D16D1C0, .vsgnj .f64 3 13 11 4)] := by decide +kernel
theorem test_decode_41 : reads [
  (0x0F9747C1, .vfmadd 15 20 11 30 1),
  (0x4A4FAA41, .vfmsub 20 26 7 9 1),
  (0xBF65CBC1, .vfnmadd 23 28 18 29 7),
  (0xE5989341, .vfnmsub 6 9 12 22 4)] := by decide +kernel
theorem test_decode_42 : reads [
  (0x099A8642, .vaddx .bf16 12 8 13 3),
  (0x23A43CC2, .vsubx .f32 25 3 18 7),
  (0x58D53AC2, .vmulx .f64 21 19 42 1),
  (0x7133F542, .vdivx .f16 10 31 25 2),
  (0x8198BD42, .vminx .f32 26 11 12 3),
  (0xB12C4942, .vmaxx .f16 18 4 22 2)] := by decide +kernel
theorem test_decode_43 : reads [
  (0x01413D43, .vexp 26 19 5),
  (0x11403443, .vlog 8 3 5),
  (0x20801D43, .vrcp 26 1 2),
  (0x3080D1C3, .vrsqrt 3 13 2),
  (0x40C12E43, .vtanh 28 18 3),
  (0x504181C3, .vsqrt 3 24 1)] := by decide +kernel
theorem test_decode_44 : reads [
  (0x01801544, .vredsum .f32 10 1 6),
  (0x15010E44, .vredmax .bf16 28 16 4),
  (0x20411CC4, .vredmin .f32 25 17 1),
  (0x825C7FC4, .vredq .f32 31 7 46 4)] := by decide +kernel
theorem test_decode_48_0 : reads [
  (0x05CA5DC8, .viadd .w16 false 27 5 5 7),
  (0x1A6F1DC8, .visub .w8 true 27 17 23 1),
  (0x288B2F48, .vimul .w8 false 30 18 5 2),
  (0x33FB4D48, .vimulh .w32 true 26 20 29 7),
  (0x44DD2348, .viand .w16 false 6 18 14 3),
  (0x50F23B48, .vior .w32 false 22 3 25 3),
  (0x6F5327C8, .vixor .w64 true 15 18 9 5),
  (0x7D36B348, .visll .w64 false 6 11 27 4)] := by decide +kernel
theorem test_decode_48_1 : reads [
  (0x8A755F48, .visrl .w8 true 30 21 26 1),
  (0x9C6EC9C8, .visra .w64 false 19 12 23 1),
  (0xA493B4C8, .vimin .w16 false 9 27 9 2),
  (0xBEA83448, .vimax .w64 true 8 3 20 2),
  (0xCC8115C8, .vipopc .w64 false 11 17 2),
  (0xDC970B48, .viaddSat .w64 false 22 16 11 2),
  (0xED9CB948, .visubSat .w64 false 18 11 14 6)] := by decide +kernel
theorem test_decode_49_0 : reads [
  (0x0B1E2F49, .viaddx .w8 30 2 15 6),
  (0x13C35EC9, .visubx .w32 29 21 33 7),
  (0x29439D49, .vimulx .w8 26 25 33 2),
  (0x35A97549, .viandx .w16 10 23 20 3),
  (0x495B7C49, .viorx .w8 24 23 45 2),
  (0x5E8DC249, .vixorx .w64 4 28 6 5),
  (0x6D149749, .visllx .w64 14 9 10 2),
  (0x76DF9D49, .visrlx .w16 26 25 47 5)] := by decide +kernel
theorem test_decode_49_1 : reads [
  (0x8258DBC9, .visrax .w32 23 13 44 4)] := by decide +kernel
theorem test_decode_4a : reads [
  (0x5523C14A, .vcmp .ge .n32 2 28 17 4),
  (0x800A60CA, .kand 1 6 5),
  (0x900A13CA, .kor 7 1 5),
  (0xA00660CA, .kxor 1 6 3),
  (0xB000334A, .knot 6 3),
  (0xC000114A, .kmov 2 1)] := by decide +kernel
theorem test_decode_4b_0 : reads [
  (0x01E9BFCB, .vperm 31 27 20 7),
  (0x139771CB, .vslideup 3 23 43 6),
  (0x21FBE44B, .vslidedn 8 30 29 7),
  (0x31C0DFCB, .vcompress 31 13 7),
  (0x41C1D74B, .vmov 14 29 7),
  (0x8D7605CB, .vbcast .w64 11 59 2),
  (0x9C134F4B, .vins .w64 30 9 20),
  (0xAC10EA4B, .vext .w64 false 8 14 20)] := by decide +kernel
theorem test_decode_4b_1 : reads [
  (0xB046024B, .kset 4 35),
  (0xC076104B, .kpopc 59 1)] := by decide +kernel
theorem test_decode_50 : reads [
  (0x3E80DC50, .vcvt .dyn true true 24 13 2),
  (0x608AF9D0, .vcvto .sr false 19 5 15 2),
  (0x8001D2D0, .vplane 5 29),
  (0xC0015A50, .vunplane 20 21)] := by decide +kernel
theorem test_decode_51 : reads [
  (0x67A96051, .fmt .bpn .f64 true 20 5 true)] := by decide +kernel
theorem test_decode_52 : reads [
  (0x01A809D2, .vspdraw .w32 19 20 3),
  (0x1FD807D2, .vspuni .w64 15 44 7),
  (0x22AE0852, .vspexp .w32 16 23 5),
  (0x326E4CD2, .vgumb 25 4 55 4),
  (0x812F2CD2, .spdraw .w32 25 57 37),
  (0x909E83D2, .spuni .w32 7 52 19),
  (0xA044B852, .spexp .w32 48 37 8)] := by decide +kernel
theorem test_decode_53 : reads [
  (0x000C6053, .digest 35 1),
  (0x029FD653, .digestm 62 19 44)] := by decide +kernel
theorem test_decode_60 : reads [
  (0x079DD0E0, .mma false false 3 true 19 true 14 33)] := by decide +kernel
theorem test_decode_61 : reads [
  (0x0D7C6261, .accrd 17 49 3 23),
  (0x80000661, .acczero 3),
  (0x82080061, .accld 0 1),
  (0x84E8C061, .accst 29 3),
  (0x86E800E1, .accstat 29 0 true),
  (0x88008261, .accswp 1 2)] := by decide +kernel
theorem test_decode_62 : reads [
  (0x00B680E2, .tld 0 22 26 true),
  (0x02454CE2, .tst 8 6 21 true),
  (0x04000A62, .tzero 5),
  (0x0601C462, .tmov 2 7)] := by decide +kernel
theorem test_decode_68 : reads [
  (0x05A982E8, .ocmp .eq .f16 5 24 20 6)] := by decide +kernel
theorem test_decode_69_0 : reads [
  (0x00003669, .btpopr 27 0),
  (0x02002269, .btpopc 17 0),
  (0x0401CCE9, .btclo 6 7 true),
  (0x0638C269, .btcomp 1 3 7),
  (0x08018C69, .bttr 6 6),
  (0x0A01C469, .btand 2 7 0),
  (0x0C298E69, .btor 7 6 5),
  (0x0E018269, .btxor 1 6 0)] := by decide +kernel
theorem test_decode_69_1 : reads [
  (0x10290269, .btandn 1 4 5),
  (0x12004C69, .btnot 6 1),
  (0x14C8C869, .btrowk 4 3 25),
  (0x17F94669, .btcolk 3 5 63),
  (0x19C14669, .btkrow 3 5 56),
  (0x1BF98E69, .btkcol 7 6 63),
  (0x1DD00E69, .btld 7 58),
  (0x1F80C069, .btst 48 3)] := by decide +kernel
theorem test_decode_6c : reads [
  (0x0004006C, .sinit 32),
  (0x0382006C, .rate 16 48),
  (0x054FC06C, .ratea 62 41),
  (0x060549EC, .nextev 19 42),
  (0x09484DEC, .swrd 27 2 41),
  (0x0A0017EC, .sclk 47)] := by decide +kernel
theorem test_decode_6d : reads [
  (0x0005206D, .binit 41),
  (0x020154ED, .bdec 41 10),
  (0x04065E6D, .brecv 60 50)] := by decide +kernel
theorem test_decode_70 : reads [
  (0x00034070, .trap 26),
  (0x02000070, .tret),
  (0x04000070, .halt)] := by decide +kernel
theorem test_decode_71 : reads [
  (0x321A5BF1, .csrw 55 1603 18),
  (0x7A762A71, .csrs 20 1870 49),
  (0xB43653F1, .csrc 39 1670 50)] := by decide +kernel
theorem test_decode_7f : reads [
  (0x0297C17F, .hint 339842)] := by decide +kernel

end Sys2Proof.Tests

end
end

