-- ==== Sys2Proof/WellFormed.lean ====
section
/-! DEFINITION. Which instruction terms are instructions of the G9: those whose word keeps every rule of R33, R35 and R37 that depends on
the word alone. The rules stand in Machine/Operands.lean; decode answers a term for every word whose fields read, and the machine
raises ILL on a term that is not well-formed (R39 item 1). -/

namespace Sys2Proof

/-- The word of the instruction keeps every rule on its fields. -/
abbrev Instr.WellFormed (i : Instr) : Prop := Machine.legal i = true

end Sys2Proof
end

section
/-! SUPPORT. Every instruction that has a word is performed by the checks of R39: its own ILL and PRIV conditions, read off the
instruction, and what they say in the terms of the claims. -/

namespace Sys2Proof.Machine

/-! ## The conditions of an instruction's own -/

/-- ILL of MMA under an FMT that is none of its pairs, of RETIRE and LAUNCH inside a gang, and of GANG (R75, R106, R294). -/
def gangOrMmaIll (i : Instr) (s : State) : Bool :=
  match i with
  | .mma _ _ _ _ _ _ _ _ => !(mmaPrefx (if s.fir.fpend then s.fir.pfx else 0)).mmaOk
  | .retire => inGang s
  | .launch _ _ _ => inGang s
  | .gang _ => gangIll s
  | _ => false

/-- The ILL conditions of an instruction's own that depend on the firing: its queue, its FMT, its gang (R31, R34, R106). -/
def ownIll (i : Instr) (s : State) : Bool :=
  (popsOf i).any (popIll · s) || ((pushesTo i).any (pushIll · s) ||
    ((prefixAsked i).any (fun ok => !s.fir.fpend || !ok s.fir.fmt) || gangOrMmaIll i s))

/-- The PRIV condition of an instruction (R209, R210). -/
def ownPriv (i : Instr) (s : State) : Bool :=
  match i with
  | .halt => teamFiring s
  | .csrw _ c _ => csrPriv c s
  | .csrs _ c _ => csrPriv c s
  | .csrc _ c _ => csrPriv c s
  | _ => false

theorem popIll_iff (n : BitVec 4) (s : State) :
    popIll n s = true ↔ s.fir.stage = true ∧ n < 4#4 ∨ s.fir.stage = false ∧ 4#4 ≤ n ∧ n < 8#4 := by
  cases h : s.fir.stage <;> simp [popIll, h, BitVec.lt_def, BitVec.le_def]

theorem pushIll_iff (n : BitVec 4) (s : State) :
    pushIll n s = true ↔ s.fir.stage = false ∧ n < 4#4 ∨ s.fir.stage = true ∧ 4#4 ≤ n ∧ n < 8#4 := by
  cases h : s.fir.stage <;> simp [pushIll, h, BitVec.lt_def, BitVec.le_def]

theorem stageIll_iff (f : Firing) (os : List Opnd) :
    stageIll f os = true ↔ f.stage = true ∧ ∃ o ∈ os, o.kind = .a ∨ o.kind = .b := by
  simp [stageIll]

/-- Without a pending FMT an MMA works on a pair of its table (R294). -/
theorem mmaOk_of_no_fmt : (mmaPrefx 0#32).mmaOk = true := rfl

theorem gangOrMmaIll_iff (i : Instr) (s : State) : gangOrMmaIll i s = true ↔
    (∃ t c a sa ra sb rb k, i = .mma t c a sa ra sb rb k ∧ s.fir.fpend = true ∧ (mmaPrefx s.fir.pfx).mmaOk = false) ∨
    (s.fir.gsize ≠ 0 ∧ (i = .retire ∨ ∃ d a b, i = .launch d a b)) ∨
    (∃ n, i = .gang n ∧ (s.fir.stage = true ∨ s.fir.gsize ≠ 0 ∨ s.teamFlag s.fir 31 = false)) := by
  cases i with
  | mma t c a sa ra sb rb k =>
    change (!(mmaPrefx (if s.fir.fpend then s.fir.pfx else 0)).mmaOk) = true ↔ _
    cases hf : s.fir.fpend <;> simp [mmaOk_of_no_fmt]
  | retire => change inGang s = true ↔ _; simp [inGang]
  | launch d a b => change inGang s = true ↔ _; simp [inGang]
  | gang n => change gangIll s = true ↔ _; simp [gangIll, or_assoc]
  | _ => exact iff_of_false Bool.false_ne_true (by simp)

/-- What issue asks for ILL is what R39 item 1 says of the instruction. -/
theorem illFor_iff (s : State) (i : Instr) : s.illFor i ↔
    (!legal i || (s.fir.fpend && !takesPrefix i) || stageIll s.fir (opsOf i) || ownIll i s) = true := by
  simp only [State.illFor, ownIll, Bool.or_eq_true, Bool.and_eq_true, Bool.not_eq_true', stageIll_iff, Option.any_eq_true, popIll_iff,
    pushIll_iff, gangOrMmaIll_iff, or_assoc]

/-- What issue asks for PRIV is what R39 item 2 says of the instruction. -/
theorem privFor_iff (s : State) (i : Instr) : s.privFor i ↔ ownPriv i s = true := by
  unfold ownPriv
  split
  case h_1 => simp [State.privFor, teamFiring]
  case h_2 => simp [State.privFor, csrPriv, teamFiring, and_comm]
  case h_3 => simp [State.privFor, csrPriv, teamFiring, and_comm]
  case h_4 => simp [State.privFor, csrPriv, teamFiring, and_comm]
  case h_5 hh hw hs hc =>
    simp only [Bool.false_eq_true, iff_false]
    rintro ⟨-, rfl | ⟨d, c, a, -, rfl | rfl | rfl⟩⟩
    · exact hh rfl
    · exact hw _ _ _ rfl
    · exact hs _ _ _ rfl
    · exact hc _ _ _ rfl

/-! ## Every instruction with a word is issued -/

/-- The instruction is performed as the checks of R39 in their order, its own conditions among them, and then a part of its own. -/
def IsIssued (i : Instr) : Prop :=
  ∃ body, ∀ s, exec i s = issue (descOf i) (takesPrefix i) (ownIll i) (ownPriv i) body s

/-- The major of a word is its low seven bits (R25). -/
theorem fld_append_major (a : BitVec 25) (m : BitVec 7) : fld (a ++ m) 0 7 = m := by
  unfold fld
  rw [fld_append_low _ _ _ _ (by omega), fld_whole]

theorem takesPrefix_of_major {i : Instr} {a : BitVec 25} {m : BitVec 7} (hw : encode i = a ++ m) :
    takesPrefix i = (m.toNat == 0x50 || m.toNat == 0x60) := by
  simp only [takesPrefix, hw, fld_append_major]

/-- An instruction issued under its word's major and conditions that amount to its own. -/
theorem isIssued_of_major {i : Instr} {a : BitVec 25} {m : BitVec 7} {ill : State → Bool} {body : State → Except Stop Done}
    (hw : encode i = a ++ m)
    (h : ∀ s, exec i s = issue (descOf i) (m.toNat == 0x50 || m.toNat == 0x60) ill (ownPriv i) body s)
    (hi : ∀ s, ill s = ownIll i s) : IsIssued i := by
  obtain rfl : ill = ownIll i := funext hi
  exact ⟨body, fun s => takesPrefix_of_major hw ▸ h s⟩

/-- An instruction issued under the descriptor that stands beside its meaning: there the rule on the fields, c, holds the overlap rule
already (R35). -/
theorem isIssued_of_ownDesc {i : Instr} {a : BitVec 25} {m : BitVec 7} {body : State → Except Stop Done} (c : Bool) (hw : encode i = a ++ m)
    (hk : fieldsOk i = (c && overlapOk (elementwise i) (opsOf i)))
    (h : ∀ s, exec i s = issue { word := encode i, ops := opsOf i, ok := fieldsOk i } (m.toNat == 0x50 || m.toNat == 0x60) (ownIll i)
      (ownPriv i) body s) : IsIssued i := by
  have hl : legal i = fieldsOk i := by simp only [legal, hk, Bool.and_assoc, Bool.and_self]
  refine isIssued_of_major (body := body) hw (fun s => ?_) fun _ => rfl
  rw [h s, descOf, hl]

/-- Every instruction that has a word, but TRET, is issued; the constructors named first are the events, which have no word. -/
theorem isIssued (i : Instr) (hw : encode i ≠ 0#32) (ht : i ≠ .tret) : IsIssued i := by
  cases i with
  | tret => exact absurd rfl ht
  | loadDataReturn | gatherLaneReturn | hostLqtailWrite | lqcfgWrite | launchRecordRead | dependencesMet | firingPlace | teamComplete
    | checkSecondRun | actorFire | messageDispatch | messageRefusalReturn | priorityAge | qstallExpiry | fewaitExpiry | feWithdrawal
    | feResend | bankOpArrive | bankOpResend | bankOpCopyDrop | linkErrorReplay | remoteAccessArrive | storeMessagePerform
    | remoteRequestPerform | remoteWriteAck | rangelockRegister | copySector | copyFault | copyComplete | mmaStep | vectorBankLaneFault
    | asyncReportTake | trapRecordAppend | errorLogAppend | trheadWrite | fcmdResumePc | fcmdResumeUtvec | fcmdSave | fcmdDiscard
    | fcmdKill | preemptRequest | resumeRequest | preemptDeadline | preemptEnd | dqstealServe | pageWalk | tlbinvWrite | tlbinvComplete
    | pintWrite | msccfgWrite | mscChangeComplete | logRegisterWrite | registerWrite | decisionArrive | creditReturn | presenceDrop
    | portDownTimeout | peerLostDeclare | remotePoisonComplete | laneFail | retrainComplete | alctlWrite | alkeygoWrite | keySwitch
    | keywarn | keystarved | hostLinkLoss | hostLinkReturn | hostBar2Write | hostBar4Write | cxlPoison | cxlDeviceLoss | powerGood
    | fullEnter | ident | health | thermal | resync | fwload | keyload | reset | thermalTrip | hbmDieLoss | lockstepMismatch
    | readoptionTimeout | readoptionComplete | uncorrectableError | powerCapBreach | markerAcknowledged | shinvComplete
    | bankOpResponseArrive | bankTagFree | ownerAnswerArrive | commandComplete | moduleInsertion | powerLoss => exact absurd rfl hw
  | btclo | btcomp | bttr | btand | btor | btxor | btandn | btnot => exact isIssued_of_ownDesc true rfl rfl fun _ => rfl
  | nextev d a => exact isIssued_of_ownDesc (evenReg d && a != 63) rfl rfl fun _ => rfl
  | swrd d a n => exact isIssued_of_ownDesc (decide (n.toNat ≤ 8)) rfl rfl fun _ => rfl
  | sclk d => exact isIssued_of_ownDesc (evenReg d) rfl rfl fun _ => rfl
  | hint h => exact isIssued_of_ownDesc (h != BitVec.allOnes 25) rfl rfl fun _ => rfl
  | qget | vqget | vredq | qput | vqput | vcvt | vcvto | vplane | vunplane =>
    exact isIssued_of_major rfl (fun _ => rfl) fun _ => (Bool.or_false _).symm
  | _ => exact isIssued_of_major rfl (fun _ => rfl) fun _ => rfl

section Order
variable {s : State} {i : Instr} (hc : IsIssued i) (ha : s.fir.active = true)
include hc ha

/-- ILL comes first (R39 item 1). -/
theorem exec_of_illFor (h : s.illFor i) : exec i s = s.trapsWord .ill (encode i) := by
  obtain ⟨body, he⟩ := hc
  rw [he]
  exact issue_ill ha ((illFor_iff s i).mp h)

/-- PRIV comes second (R39 item 2). -/
theorem exec_of_privFor (hi : ¬ s.illFor i) (h : s.privFor i) : exec i s = s.trapsWord .priv (encode i) := by
  obtain ⟨body, he⟩ := hc
  rw [illFor_iff, Bool.not_eq_true] at hi
  rw [he, issue, if_neg (by simp [ha]), if_neg (by simpa [descOf] using hi), if_pos ((privFor_iff s i).mp h)]
  rfl

/-- REGRANGE comes third (R39 item 3). -/
theorem exec_of_outside (hi : ¬ s.illFor i) (hp : ¬ s.privFor i) {n : Nat} (h : s.fir.outside (opsOf i) = some n) :
    exec i s = .next (s.trapHere { c := .regrange, sub := 0, val := BitVec.ofNat 64 n }) := by
  obtain ⟨body, he⟩ := hc
  rw [illFor_iff, Bool.not_eq_true] at hi
  rw [privFor_iff] at hp
  have h' : s.fir.outside (descOf i).ops = some n := h
  rw [he, issue, if_neg (by simp [ha]), if_neg (by simpa [descOf] using hi), if_neg hp, h']

end Order

/-! ## The first register outside the allocation (R33), and a word that is no instruction (R37) -/

theorem Firing.outside_cons_inside {f : Firing} {o : Opnd} (h : o.n + o.len ≤ f.limit o.kind) (os : List Opnd) :
    f.outside (o :: os) = f.outside os := by
  rw [Firing.outside, if_pos h]

theorem Firing.outside_cons_past {f : Firing} {o : Opnd} (h : f.limit o.kind < o.n + o.len) (os : List Opnd) :
    f.outside (o :: os) = some (max o.n (f.limit o.kind)) := by
  rw [Firing.outside, if_neg (not_le.mpr h)]

theorem runWord_of_bad {s : State} {w : BitVec 32} (hr : s.fir.repact = false) (hw : ∀ i, decode w ≠ .ok i) :
    s.runWord w = s.trapsWord .ill w := by
  rw [State.runWord, if_neg (by simp [hr])]
  cases hd : decode w with
  | ok i => exact absurd hd (hw i)
  | bad => rfl

end Sys2Proof.Machine
end

section
/-! SUPPORT. The queues: which of their instructions meet ILL, and what a pop and a push of q8 to q11 leave (R34, R173 to R175). -/

namespace Sys2Proof.Machine

/-! ## ILL of a queue's instruction (R34) -/

/-- A queue's instruction names no accumulator and no bit tile, and its only ILL that depends on the firing is its queue's. -/
theorem queue_conditions {i : Instr} {n : BitVec 4} (h : popsOf i = some n ∨ pushesTo i = some n) (s : State) :
    stageIll s.fir (opsOf i) = false ∧ (ownIll i s = popIll n s ∨ ownIll i s = pushIll n s) := by
  cases i with
  | qget | vqget | vredq => obtain h | h := h <;> cases h; exact ⟨Bool.and_false _, .inl (Bool.or_false _)⟩
  | qput | vqput => obtain h | h := h <;> cases h; exact ⟨Bool.and_false _, .inr (Bool.or_false _)⟩
  | _ => obtain h | h := h <;> cases h

theorem popIll_neighbour {n : BitVec 4} (h8 : 8#4 ≤ n) (s : State) : popIll n s = false := by
  rw [Bool.eq_false_iff, Ne, popIll_iff]
  rintro (⟨-, h⟩ | ⟨-, -, h⟩) <;> bv_omega

theorem pushIll_neighbour {n : BitVec 4} (h8 : 8#4 ≤ n) (s : State) : pushIll n s = false := by
  rw [Bool.eq_false_iff, Ne, pushIll_iff]
  rintro (⟨-, h⟩ | ⟨-, -, h⟩) <;> bv_omega

/-- Queues q8 to q11 meet ILL on no core. -/
theorem not_illFor_neighbour {s : State} {i : Instr} {n : BitVec 4} (h : popsOf i = some n ∨ pushesTo i = some n) (h8 : 8#4 ≤ n)
    (hl : legal i = true) (hf : s.fir.fpend = false) : ¬ s.illFor i := by
  obtain ⟨hs, ho⟩ := queue_conditions h s
  rw [popIll_neighbour h8, pushIll_neighbour h8, or_self] at ho
  simp [illFor_iff, hl, hf, hs, ho]

/-- An instruction may push q0 to q11 only. -/
theorem lt_of_legal_push {i : Instr} {n : BitVec 4} (h : pushesTo i = some n) (hl : legal i = true) : n.toNat < 12 := by
  have hk : fieldsOk i = true := (Bool.and_eq_true_iff.mp hl).1
  cases i with
  | qput m b =>
    cases h
    have hlt : n.toNat < 8 := of_decide_eq_true hk
    omega
  | vqput m b =>
    cases h
    exact of_decide_eq_true hk
  | _ => cases h

theorem illFor_of_push {s : State} {i : Instr} {n : BitVec 4} (h : pushesTo i = some n) (hn : n ∈ [12#4, 13#4, 15#4]) : s.illFor i := by
  refine .inl (Bool.eq_false_iff.mpr fun hl => ?_)
  have hlt := lt_of_legal_push h hl
  simp only [List.mem_cons, List.not_mem_nil, or_false] at hn
  rcases hn with rfl | rfl | rfl <;> simp at hlt

/-! ## The entries of q8 to q11 -/

/-- A change of a frond that keeps its incoming entries keeps those of every frond. -/
theorem State.onFrond_nq (s : State) (h : Fin 1024) (f : Frond → Frond) (hf : ∀ x, (f x).nq = x.nq) (g : Fin 1024) :
    (s.onFrond h f).fronds[g].nq = s.fronds[g].nq := by
  by_cases e : h = g
  · subst e; simp [hf]
  · simp [Fin.val_ne_of_ne e]

@[simp] theorem State.acquire_fir (s : State) (sc : Scope) : (s.acquire sc).fir = s.fir := by unfold State.acquire; split <;> rfl
@[simp] theorem State.acquire_parts (s : State) (sc : Scope) : (s.acquire sc).parts = s.parts := by unfold State.acquire; split <;> rfl

theorem State.acquire_nq (s : State) (sc : Scope) (g : Fin 1024) : (s.acquire sc).fronds[g].nq = s.fronds[g].nq := by
  unfold State.acquire
  split
  · unfold State.renew
    apply State.onFrond_nq
    intro
    rfl
  · rfl

/-- With nothing on its way a release ends at once (R248). -/
theorem State.release_of_quiet {s : State} (h : s.quietOrder) (sc : Scope) : s.release sc = .ok (s.publish s.fir.frond sc) := by
  obtain ⟨hp, hu, hb, -, -⟩ := h
  have hacks : (s.unacked.any fun u => u.adm == s.fir.adm && (decide (6 ≤ sc.code.toNat)
      || (decide (5 ≤ sc.code.toNat) && s.inDomain s.fir.part u.pkg))) = false := by
    simp only [List.any_eq_false]
    intro u hmem
    simp [hu u hmem]
  simp [State.release, hp, hacks, hb]

theorem State.publish_fir {s : State} (h : s.quietOrder) (g : Fin 1024) (sc : Scope) : (s.publish g sc).fir = s.fir := by
  obtain ⟨-, -, -, hd, ho⟩ := h
  simp [State.publish, hd, ho, State.widen]

theorem State.publish_nq {s : State} (h : s.quietOrder) (f : Fin 1024) (sc : Scope) (g : Fin 1024) :
    (s.publish f sc).fronds[g].nq = s.fronds[g].nq := by
  obtain ⟨-, -, -, hd, ho⟩ := h
  have hk : (s.dev.cxlDown.isEmpty && s.dev.cxlOn == 3#2) = true := by rw [hd, ho]; rfl
  rw [State.publish, if_pos hk]
  refine (State.onFrond_nq _ _ (fun x => { x with held := [], snap := x.snap.putAll x.held }) (fun _ => rfl) g).trans ?_
  rw [State.homePut_fronds]
  rfl

/-- The entries from a direction, once they have been replaced. -/
theorem State.setIncoming_incoming (s : State) (h : Fin 1024) {dir : Nat} (hd : dir < 4) (q : List Vec) :
    (s.setIncoming h dir q).fronds[h].incoming dir = q := by
  simp [State.setIncoming, Frond.incoming, hd]

/-- Where a queue leads depends on the acting firing's frond and on its partition. -/
theorem State.linked_congr {s t : State} (hf : t.fir.frond = s.fir.frond) (hp : t.part = s.part) (n : Nat) : t.linked n = s.linked n := by
  simp only [State.linked, hf, hp]

/-- What q8 to q11 show. -/
theorem State.queueView_neighbour {s : State} {n : Nat} (h8 : 8 ≤ n) (h12 : n < 12) :
    s.queueView n = (s.linked n).map fun _ => (s.fr.incoming (n - 8)).map .vec := by
  rw [State.queueView, if_neg (by omega), if_pos h12]

/-! ## A pop of q8 to q11 (R175) -/

/-- The machine once an entry has been popped from a queue that leads to frond g, and q is left. -/
def State.popped (s : State) (n : Nat) (g : Fin 1024) (q : List Vec) : State :=
  (s.setIncoming s.fir.frond (n - 8) q).acquire (frondScope s.fir.frond g)

@[simp] theorem State.popped_fir (s : State) (n : Nat) (g : Fin 1024) (q : List Vec) : (s.popped n g q).fir = s.fir := State.acquire_fir _ _
@[simp] theorem State.popped_parts (s : State) (n : Nat) (g : Fin 1024) (q : List Vec) : (s.popped n g q).parts = s.parts :=
  State.acquire_parts _ _

theorem State.popped_incoming {s : State} {n : Nat} (h12 : n < 12) (g : Fin 1024) (q : List Vec) :
    (s.popped n g q).fronds[s.fir.frond].incoming (n - 8) = q := by
  rw [State.popped, Frond.incoming, State.acquire_nq]
  exact s.setIncoming_incoming s.fir.frond (by omega) q

theorem State.popQ_neighbour {s : State} {n : Nat} (h8 : 8 ≤ n) (h12 : n < 12) {g : Fin 1024} (hg : s.linked n = some g) {z : Vec}
    {q : List Vec} (hq : s.fr.incoming (n - 8) = z :: q) (b : Bool) : s.popQ n b = .ok (s.popped n g q, .vec z) := by
  rw [State.popQ, if_neg (by omega), if_pos h12, hg]
  simp only [hq, State.popped]

/-- What the queue shows after a pop, whatever has changed beside the fronds, the partitions and the firing's place. -/
theorem State.queueView_of_popped {s v : State} {n : Nat} (h8 : 8 ≤ n) (h12 : n < 12) {g : Fin 1024} {q : List Vec}
    (hg : s.linked n = some g) (hf : v.fir.frond = s.fir.frond) (hp : v.fir.part = s.fir.part) (hparts : v.parts = s.parts)
    (hfronds : v.fronds = (s.popped n g q).fronds) : v.queueView n = some (q.map .vec) := by
  have hpart : v.part = s.part := by simp only [State.part, hp, hparts]
  have hin : v.fr.incoming (n - 8) = q := by
    simp only [State.fr, hf, hfronds]
    exact State.popped_incoming h12 g q
  rw [State.queueView_neighbour h8 h12, State.linked_congr hf hpart, hg, hin]
  rfl

/-- VQGET of an entry of q8 to q11 pops it, on either core (R34). -/
theorem exec_vqget_neighbour {s : State} {x : BitVec 5} {n : BitVec 4} {z : Vec} {es : List QEntry} (h8 : 8#4 ≤ n) (h12 : n < 12#4)
    (hi : s.Issues (.vqget x n)) (hv : s.queueView n.toNat = some (.vec z :: es)) :
    ∃ v, exec (.vqget x n) s = .next v ∧ v.queueView n.toNat = some es ∧ v.fir = (s.fir.wv x z).advance := by
  rw [State.queueView_neighbour h8 h12, Option.map_eq_some_iff] at hv
  obtain ⟨g, hg, hes⟩ := hv
  obtain ⟨z', q, hq, hz, rfl⟩ := List.map_eq_cons_iff.mp hes
  obtain rfl : z' = z := QEntry.vec.inj hz
  refine ⟨((s.popped n.toNat g q).wv x z').upd Firing.advance, ?_, ?_, ?_⟩
  · rw [exec_vqget, execVqget, issue_issues hi (popIll_neighbour h8 s) rfl, State.popQ_neighbour h8 h12 hg hq]
    rfl
  · refine State.queueView_of_popped h8 h12 hg ?_ ?_ (State.popped_parts _ _ _ _) rfl
    · simp [Firing.frond]
    · simp
  · rw [State.upd_fir, State.wv_fir, State.popped_fir]

/-! ## A push to q8 to q11 (R175) -/

/-- The machine once z has been pushed, after the release, to a queue that leads to frond g. -/
def State.pushed (s : State) (n : Nat) (g : Fin 1024) (z : Vec) : State :=
  let p := s.publish s.fir.frond (frondScope s.fir.frond g)
  p.setIncoming g ((n - 8 + 2) % 4) (p.fronds[g].incoming ((n - 8 + 2) % 4) ++ [z])

theorem State.pushed_fir {s : State} (h : s.quietOrder) (n : Nat) (g : Fin 1024) (z : Vec) : (s.pushed n g z).fir = s.fir :=
  State.publish_fir h _ _

theorem State.pushed_incoming {s : State} (h : s.quietOrder) (n : Nat) (g : Fin 1024) (z : Vec) :
    (s.pushed n g z).fronds[g].incoming ((n - 8 + 2) % 4) = s.fronds[g].incoming ((n - 8 + 2) % 4) ++ [z] := by
  rw [State.pushed, State.setIncoming_incoming _ _ (Nat.mod_lt _ (by omega)), Frond.incoming, State.publish_nq h]
  rfl

theorem State.pushQ_neighbour {s : State} {n : Nat} (h8 : 8 ≤ n) {g : Fin 1024} (hg : s.linked n = some g)
    (hr : (s.fronds[g].incoming ((n - 8 + 2) % 4)).length < 4) (hq : s.quietOrder) (z : Vec) :
    s.pushQ n (.vec z) = .ok (s.pushed n g z) := by
  unfold State.pushQ
  rw [if_neg (by omega)]
  simp only [hg, if_neg (not_le.mpr hr), State.release_of_quiet hq]
  rfl

/-- VQPUT to q8 to q11 with room pushes, on either core (R34). -/
theorem exec_vqput_neighbour {s : State} {y : BitVec 5} {n : BitVec 4} {g : Fin 1024} (h8 : 8#4 ≤ n)
    (hi : s.Issues (.vqput n y)) (hg : s.linked n.toNat = some g) (hq : s.quietOrder)
    (hr : (s.fronds[g].incoming ((n.toNat - 6) % 4)).length < 4) :
    ∃ v, exec (.vqput n y) s = .next v ∧
      v.fronds[g].incoming ((n.toNat - 6) % 4) = s.fronds[g].incoming ((n.toNat - 6) % 4) ++ [s.fir.rv y] ∧ v.fir = s.fir.advance := by
  have h8' : 8 ≤ n.toNat := h8
  have hd : n.toNat - 6 = n.toNat - 8 + 2 := by omega
  rw [hd] at hr ⊢
  refine ⟨(s.pushed n.toNat g (s.fir.rv y)).upd Firing.advance, ?_, State.pushed_incoming hq _ _ _, ?_⟩
  · rw [exec_vqput, execVqput, issue_issues hi (pushIll_neighbour h8 s) rfl, State.pushQ_neighbour h8 hg hr hq]
    rfl
  · rw [State.upd_fir, State.pushed_fir hq]

end Sys2Proof.Machine
end

section
/-! PROOF. Which trap of an instruction comes first. -/

namespace Sys2Proof.Machine

/-- Settles O10: every instruction with a word but TRET is issued (isIssued), so its traps come in the order of issue, whose conditions are
those of the claims (illFor_iff, privFor_iff). Among them is HINT under a pending FMT, which is ILL by the model's reading (log 38). -/
theorem illAndRegrange : Obligations.IllAndRegrange := by
  unfold Obligations.IllAndRegrange
  refine ⟨fun s i ha hw ht => ?_, fun f o os => ⟨rfl, fun h => Firing.outside_cons_inside h os, fun h => Firing.outside_cons_past h os⟩,
    fun s w hr hw => runWord_of_bad hr hw⟩
  have hc := isIssued i hw ht
  refine ⟨exec_of_illFor hc ha, exec_of_privFor hc ha, fun hi hp n => exec_of_outside hc ha hi hp,
    fun n hn h => exec_of_illFor hc ha (illFor_of_push hn h), ?wrongCore, ?neighbour, ?pop, ?push⟩
  case wrongCore =>
    rintro n (hpop | hpush)
    · exact exec_of_illFor hc ha (.inr (.inr (.inr (.inl ⟨n, hpop⟩))))
    · exact exec_of_illFor hc ha (.inr (.inr (.inr (.inr (.inl ⟨n, hpush⟩)))))
  case neighbour => exact fun n hn h8 _ hl hf => not_illFor_neighbour hn h8 hl hf
  case pop =>
    rintro x n z es rfl h8 h12 hi hv
    exact exec_vqget_neighbour h8 h12 hi hv
  case push =>
    rintro n y g rfl h8 _ hi hg hq dir hr
    exact exec_vqput_neighbour h8 hi hg hq hr

end Sys2Proof.Machine
end

section
/-! SUPPORT. The bits of packed registers and of bit tiles (R52, R312), and what writing a bit tile leaves. -/

namespace Sys2Proof.Machine

/-! ## Packed registers -/

/-- Bit j of part i of a packed number. -/
theorem packNat_testBit {w j : Nat} (hj : j < w) (l : List Nat) (i : Nat) :
    (packNat w l).testBit (w * i + j) = (l.getD i 0).testBit j := by
  induction l generalizing i with
  | nil => simp [packNat]
  | cons v l ih =>
    have hlow : v % 2 ^ w < 2 ^ w := Nat.mod_lt _ (Nat.two_pow_pos w)
    rw [packNat, Nat.add_comm, Nat.testBit_two_pow_mul_add _ hlow]
    cases i with
    | zero => simp [hj]
    | succ i =>
      have hi : w * (i + 1) + j = w + (w * i + j) := by rw [Nat.mul_succ]; omega
      rw [hi, if_neg (by omega), Nat.add_sub_cancel_left, ih]
      rfl

/-- A number packed from single bits. -/
theorem packNat_bools_testBit (g : Nat → Bool) {n i : Nat} (hi : i < n) :
    (packNat 1 ((List.range n).map fun i => (g i).toNat)).testBit i = g i := by
  have h := packNat_testBit Nat.zero_lt_one ((List.range n).map fun i => (g i).toNat) i
  rw [Nat.one_mul, Nat.add_zero] at h
  rw [h]
  cases hg : g i <;> simp [hi, hg]

/-- A mask from its bits. -/
theorem maskOf_getLsbD (g : Nat → Bool) {i : Nat} (hi : i < 64) : (maskOf g).getLsbD i = g i := by
  rw [maskOf, BitVec.getLsbD_ofNat, packNat_bools_testBit g hi, decide_eq_true hi, Bool.true_and]

/-- Bit j of element i of a packed register. -/
theorem elem_testBit {m w j : Nat} (hj : j < w) (r : BitVec m) (i : Nat) : (elem r w i).testBit j = r.getLsbD (w * i + j) := by
  simp [elem, hj, Nat.testBit_div_two_pow, BitVec.getLsbD, Nat.add_comm]

/-- A packed register split around element e. -/
theorem toNat_eq_split {m : Nat} (r : BitVec m) (w e : Nat) :
    2 ^ (w * e) * (2 ^ w * (r.toNat / 2 ^ (w * e) / 2 ^ w) + elem r w e) + r.toNat % 2 ^ (w * e) = r.toNat := by
  rw [elem, Nat.div_add_mod, Nat.div_add_mod]

/-- Element e replaced in that split. -/
theorem setElem_eq_split {m : Nat} (r : BitVec m) (w e v : Nat) : setElem r w e v =
    BitVec.ofNat m (2 ^ (w * e) * (2 ^ w * (r.toNat / 2 ^ (w * e) / 2 ^ w) + v % 2 ^ w) + r.toNat % 2 ^ (w * e)) := by
  have hr := toNat_eq_split r w e
  rw [Nat.mul_add] at hr
  rw [setElem, Nat.mul_add, Nat.mul_comm (elem _ _ _), Nat.mul_comm (v % 2 ^ w)]
  congr 1
  omega

/-- Replacing element e of width w writes its bits and keeps all others. -/
theorem setElem_getLsbD {m w i j : Nat} (r : BitVec m) (e v : Nat) (hj : j < w) (hm : w * i + j < m) :
    (setElem r w e v).getLsbD (w * i + j) = if i = e then v.testBit j else r.getLsbD (w * i + j) := by
  have hlow : r.toNat % 2 ^ (w * e) < 2 ^ (w * e) := Nat.mod_lt _ (Nat.two_pow_pos _)
  have hold : elem r w e < 2 ^ w := Nat.mod_lt _ (Nat.two_pow_pos _)
  have hnew : v % 2 ^ w < 2 ^ w := Nat.mod_lt _ (Nat.two_pow_pos _)
  rw [setElem_eq_split, BitVec.getLsbD_ofNat, decide_eq_true hm, Bool.true_and, BitVec.getLsbD]
  conv_rhs => rw [← toNat_eq_split r w e]
  simp only [Nat.testBit_two_pow_mul_add _ hlow, Nat.testBit_two_pow_mul_add _ hnew, Nat.testBit_two_pow_mul_add _ hold]
  rcases Nat.lt_trichotomy i e with h | rfl | h
  · have hlt : w * i + w ≤ w * e := Nat.mul_succ w i ▸ Nat.mul_le_mul_left w h
    rw [if_pos (by omega), if_neg h.ne, if_pos (by omega)]
  · simp [hj]
  · have hge : w * e + w ≤ w * i := Nat.mul_succ w e ▸ Nat.mul_le_mul_left w h
    simp only [if_neg h.ne', show ¬ w * i + j < w * e by omega, show ¬ w * i + j - w * e < w by omega, if_false]

/-- The ones among the n low bits of a number. -/
theorem popBits_eq_countP (n v : Nat) : popBits n v = (List.range n).countP v.testBit := by
  induction n generalizing v with
  | zero => rfl
  | succ n ih =>
    have hshift : v.testBit ∘ Nat.succ = (v / 2).testBit := funext fun i => Nat.testBit_succ v i
    rw [popBits, ih, List.range_succ_eq_map, List.countP_cons, List.countP_map, hshift]
    rcases Nat.mod_two_eq_zero_or_one v with h | h <;> simp [h, Nat.testBit_zero, Nat.add_comm]

/-! ## Bit tiles -/

theorem tileOf_bitAt (row : Nat → Nat) {i j : Nat} (hi : i < 64) (hj : j < 64) : bitAt (tileOf row) i j = (row i).testBit j := by
  rw [bitAt, tileOf, pack, BitVec.getLsbD_ofNat, packNat_testBit hj, decide_eq_true (by omega), Bool.true_and]
  simp [hi]

theorem tileBits_bitAt (g : Nat → Nat → Bool) {i j : Nat} (hi : i < 64) (hj : j < 64) : bitAt (tileBits g) i j = g i j := by
  rw [tileBits, tileOf_bitAt _ hi hj, packNat_bools_testBit _ hj]

theorem rowOf_testBit (b : BitVec 4096) (i : Nat) {j : Nat} (hj : j < 64) : (rowOf b i).testBit j = bitAt b i j := elem_testBit hj b i

theorem bitAt_or (a b : BitVec 4096) (i j : Nat) : bitAt (a ||| b) i j = (bitAt a i j || bitAt b i j) := BitVec.getLsbD_or

/-- Rows or-ed together under a condition: a bit is set if it was or if some row taken has it. -/
theorem foldl_or_testBit (p : Nat → Bool) (q : Nat → Nat) (j : Nat) (l : List Nat) (r : Nat) :
    (l.foldl (fun r m => if p m then r ||| q m else r) r).testBit j = (r.testBit j || l.any fun m => p m && (q m).testBit j) := by
  induction l generalizing r with
  | nil => simp
  | cons m l ih =>
    rw [List.foldl_cons, ih, List.any_cons]
    cases p m <;> simp [Bool.or_assoc]

/-- Boolean composition (R319). -/
theorem compose_bitAt (a c : BitVec 4096) {i j : Nat} (hi : i < 64) (hj : j < 64) :
    bitAt (compose a c) i j = (List.range 64).any fun m => bitAt a i m && bitAt c m j := by
  rw [compose, tileOf_bitAt _ hi hj, foldl_or_testBit]
  simp only [Nat.zero_testBit, Bool.false_or, rowOf_testBit _ _ hj]

theorem diagonal_bitAt {i j : Nat} (hi : i < 64) (hj : j < 64) : bitAt diagonal i j = decide (i = j) := by
  rw [diagonal, tileOf_bitAt _ hi hj, Nat.testBit_two_pow]

/-! ## A bit tile written -/

theorem Firing.rb_wb_self (f : Firing) (n : BitVec 3) (w : BitVec 4096) : (f.wb n w).rb n = w := by
  simp [Firing.rb, Firing.wb]

theorem Firing.rb_wb_other (f : Firing) {n m : BitVec 3} (h : m ≠ n) (w : BitVec 4096) : (f.wb n w).rb m = f.rb m := by
  have : n.toNat ≠ m.toNat := fun e => h (BitVec.eq_of_toNat_eq e.symm)
  simp [Firing.rb, Firing.wb, this]

/-- How an instruction ends depends on no bit tile and no flag (R104). -/
theorem Firing.advance_tiles_flags (f : Firing) (b : Vector (BitVec 4096) 8) (w : Word) :
    ({ f with b := b, fflags := w } : Firing).advance = { f.advance with b := b, fflags := w } := by
  unfold Firing.advance Firing.clrRep Firing.repact Firing.repi Firing.repj
  dsimp only
  split_ifs <;> rfl

/-- How an instruction ends depends on no path noted (R104). -/
theorem Firing.advance_withPaths (f : Firing) (p : List Nat) :
    ({ f with paths := p } : Firing).advance = { f.advance with paths := p } := by
  unfold Firing.advance Firing.clrRep Firing.repact Firing.repi Firing.repj
  dsimp only
  split_ifs <;> rfl

/-- An instruction that ends with one bit tile and the flags written changes that tile only, and its bits are those of the tile. -/
theorem Firing.wb_flags_ends (f : Firing) (d : BitVec 3) (t : BitVec 4096) (w : Word) :
    let g := ({ f.wb d t with fflags := w } : Firing).advance
    g.sameBesideTile f d ∧ g.fflags = w ∧ ∀ x y, g.tileBit d x y = bitAt t x y := by
  have h : ({ f.wb d t with fflags := w } : Firing).advance = { f.advance with b := (f.wb d t).b, fflags := w } :=
    Firing.advance_tiles_flags f _ w
  rw [h]
  exact ⟨⟨rfl, fun r hr => Firing.rb_wb_other f hr t⟩, rfl, fun x y => congrArg (bitAt · x y) (Firing.rb_wb_self f d t)⟩

/-- The same where no flag is set. -/
theorem State.wb_ends (s : State) (d : BitVec 3) (t : BitVec 4096) :
    let v := (s.wb d t).upd Firing.advance
    v.onlyFiring s ∧ v.fir.sameBesideTile s.fir d ∧ v.fir.fflags = s.fir.fflags ∧ ∀ x y, v.fir.tileBit d x y = bitAt t x y :=
  ⟨rfl, Firing.wb_flags_ends s.fir d t s.fir.fflags⟩

end Sys2Proof.Machine
end

section
/-! SUPPORT. Ways of bounded length in a relation, and the transitive closure of a bit tile (R319). -/

namespace Sys2Proof.Machine

/-- y is reached from x in at least one and at most n steps. -/
def Within {α : Type} (R : α → α → Prop) : Nat → α → α → Prop
  | 0, _, _ => False
  | n + 1, x, y => R x y ∨ ∃ z, Within R n x z ∧ R z y

section
variable {α : Type} {R : α → α → Prop}

theorem Within.succ {n : Nat} {x y : α} (h : Within R n x y) : Within R (n + 1) x y := by
  induction n generalizing y with
  | zero => exact h.elim
  | succ n ih => exact h.imp_right fun ⟨z, hz, hzy⟩ => ⟨z, ih hz, hzy⟩

theorem Within.mono {m n : Nat} {x y : α} (hmn : m ≤ n) (h : Within R m x y) : Within R n x y := by
  induction hmn with
  | refl => exact h
  | step _ ih => exact ih.succ

theorem Within.of_step {n : Nat} {x y : α} (hn : 0 < n) (h : R x y) : Within R n x y := by
  have h1 : Within R 1 x y := .inl h
  exact h1.mono hn

/-- Ways one after another add up. -/
theorem Within.trans {m n : Nat} {x y z : α} (hxz : Within R m x z) (hzy : Within R n z y) : Within R (m + n) x y := by
  induction n generalizing y with
  | zero => exact hzy.elim
  | succ n ih =>
    obtain hzy | ⟨w, hzw, hwy⟩ := hzy
    · exact .inr ⟨z, hxz.mono (Nat.le_add_right m n), hzy⟩
    · exact .inr ⟨w, ih hzw, hwy⟩

/-- A way of at most m + n steps has at most m, or it can be cut after at most m of them. -/
theorem within_add {m : Nat} (hm : 0 < m) (n : Nat) (x y : α) :
    Within R (m + n) x y ↔ Within R m x y ∨ ∃ z, Within R m x z ∧ Within R n z y := by
  constructor
  · intro h
    induction n generalizing y with
    | zero => exact .inl h
    | succ n ih =>
      obtain h | ⟨z, hz, hzy⟩ := h
      · exact .inl (.of_step hm h)
      · obtain h | ⟨w, hxw, hwz⟩ := ih z hz
        · exact .inr ⟨z, h, .inl hzy⟩
        · exact .inr ⟨w, hxw, .inr ⟨z, hwz, hzy⟩⟩
  · rintro (h | ⟨z, hxz, hzy⟩)
    · exact h.mono (Nat.le_add_right m n)
    · exact hxz.trans hzy

theorem Within.transGen {n : Nat} {x y : α} (h : Within R n x y) : Relation.TransGen R x y := by
  induction n generalizing y with
  | zero => exact h.elim
  | succ n ih =>
    obtain h | ⟨z, hz, hzy⟩ := h
    · exact .single h
    · exact (ih hz).tail hzy

theorem exists_within_of_transGen {x y : α} (h : Relation.TransGen R x y) : ∃ n, Within R n x y := by
  induction h with
  | single h => exact ⟨1, .inl h⟩
  | tail _ hzy ih =>
    obtain ⟨n, hn⟩ := ih
    exact ⟨n + 1, .inr ⟨_, hn, hzy⟩⟩

/-- Once a step reaches nothing new, the next one does not either. -/
theorem within_succ_of_stable {k : Nat} {x : α} (h : ∀ z, Within R (k + 1) x z → Within R k x z) {z : α}
    (hz : Within R (k + 2) x z) : Within R (k + 1) x z :=
  hz.imp_right fun ⟨w, hw, hwz⟩ => ⟨w, h w hw, hwz⟩

/-- Over N nodes N steps reach all that can be reached: each step reaches a new node until one reaches none. -/
theorem transGen_iff_within [Finite α] (x y : α) : Relation.TransGen R x y ↔ Within R (Nat.card α) x y := by
  refine ⟨fun h => ?_, Within.transGen⟩
  obtain ⟨n, hn⟩ := exists_within_of_transGen h
  obtain hle | hge := Nat.le_total n (Nat.card α)
  · exact hn.mono hle
  have hmono : Monotone fun k => {z | Within R k x z} := fun a b hab z hz => Within.mono hab hz
  have hstable (k : Nat) (hk : {z | Within R k x z}.ncard = {z | Within R (k + 1) x z}.ncard) :
      {z | Within R (k + 1) x z}.ncard = {z | Within R (k + 2) x z}.ncard := by
    have hset : {z | Within R k x z} = {z | Within R (k + 1) x z} := Set.eq_of_subset_of_ncard_le (hmono k.le_succ) hk.ge
    exact congrArg Set.ncard (Set.Subset.antisymm (hmono (k + 1).le_succ) fun z => within_succ_of_stable fun w => (hset.ge ·))
  have hcard : {z | Within R n x z}.ncard = {z | Within R (Nat.card α) x z}.ncard :=
    @Nat.stabilises_of_monotone (fun k => {z | Within R k x z}.ncard) _ _ (fun a b hab => Set.ncard_le_ncard (hmono hab))
      (fun k => Set.ncard_le_card _) hstable hge
  exact (Set.eq_of_subset_of_ncard_le (hmono hge) hcard.le).ge hn

end

/-- The relation a bit tile holds. -/
def tileRel (r : BitVec 4096) (x y : Fin 64) : Prop := bitAt r x y = true

theorem tileRel_or (a b : BitVec 4096) (x y : Fin 64) : tileRel (a ||| b) x y ↔ tileRel a x y ∨ tileRel b x y := by
  rw [tileRel, bitAt_or, Bool.or_eq_true]
  rfl

theorem tileRel_compose (a c : BitVec 4096) (x y : Fin 64) : tileRel (compose a c) x y ↔ ∃ z, tileRel a x z ∧ tileRel c z y := by
  simp only [tileRel, compose_bitAt a c x.isLt y.isLt, List.any_eq_true, List.mem_range, Bool.and_eq_true]
  exact ⟨fun ⟨z, hz, h⟩ => ⟨⟨z, hz⟩, h⟩, fun ⟨z, h⟩ => ⟨z, z.isLt, h⟩⟩

theorem tileRel_diagonal (x y : Fin 64) : tileRel diagonal x y ↔ x = y := by
  rw [tileRel, diagonal_bitAt x.isLt y.isLt, decide_eq_true_eq, Fin.val_inj]

/-- The last squaring of a closure taken apart. -/
theorem closure_succ (n : Nat) (r : BitVec 4096) : closure (n + 1) r = closure n r ||| compose (closure n r) (closure n r) := by
  induction n generalizing r with
  | zero => rfl
  | succ n ih => exact ih _

/-- After n squarings a tile holds the ways of at most 2^n steps. -/
theorem tileRel_closure (n : Nat) (r : BitVec 4096) (x y : Fin 64) : tileRel (closure n r) x y ↔ Within (tileRel r) (2 ^ n) x y := by
  induction n generalizing x y with
  | zero => simp [closure, Within]
  | succ n ih =>
    rw [closure_succ, tileRel_or, tileRel_compose, pow_succ, Nat.mul_two, within_add (Nat.two_pow_pos n)]
    simp only [ih]

/-- Six squarings give the transitive closure over the 64 nodes. -/
theorem tileRel_closure_six (r : BitVec 4096) (x y : Fin 64) : tileRel (closure 6 r) x y ↔ Relation.TransGen (tileRel r) x y := by
  have h : Relation.TransGen (tileRel r) x y ↔ Within (tileRel r) (Nat.card (Fin 64)) x y := transGen_iff_within x y
  rw [Nat.card_eq_fintype_card, Fintype.card_fin] at h
  exact (tileRel_closure 6 r x y).trans h.symm

end Sys2Proof.Machine
end

section
/-! SUPPORT. Accesses to the own scratchpad (R139, R140, R322): where they lead, what they load and what they store. -/

namespace Sys2Proof.Machine

/-- What was written is read, modulo the bytes written. -/
theorem Mem.read_write {m : Mem} (h : m.wf = true) (a n v : Nat) : (m.write a n v).read a n = v % 256 ^ n := by
  induction n generalizing m a v with
  | zero => rw [pow_zero, Nat.mod_one]; rfl
  | succ n ih =>
    have hset := Mem.wf_set h a (BitVec.ofNat 8 v)
    rw [Mem.write, Mem.read, ih hset, Mem.get_write_other hset _ _ _ _ (.inl a.lt_succ_self), Mem.get_set h, if_pos rfl,
      pow_succ', Nat.mod_mul, BitVec.toNat_ofNat]

/-- The 512 bytes of a bit tile, once stored. -/
theorem Mem.read_write_tile {m : Mem} (h : m.wf = true) (a : Nat) (t : BitVec 4096) : (m.write a 512 t.toNat).read a 512 = t.toNat := by
  have hsize : 256 ^ 512 = 2 ^ 4096 := by rw [show 256 = 2 ^ 8 from rfl, ← pow_mul]
  rw [Mem.read_write h, hsize, Nat.mod_eq_of_lt t.isLt]

/-- A check that was passed held. -/
theorem of_check_bind_ok {α : Type} {b : Bool} {c : Cause} {w : Word} {k : Unit → Except Stop α} {r : α}
    (h : (check b c w >>= k) = .ok r) : b = true ∧ k () = .ok r := by
  cases b with
  | true => exact ⟨rfl, h⟩
  | false => cases h

/-- An alternative to a trap that was taken. -/
theorem of_ite_raise_ok {α : Type} {p : Prop} [Decidable p] {c : Cause} {w : Word} {e : Except Stop α} {r : α}
    (h : (if p then raise c w else e) = .ok r) : e = .ok r := by
  by_cases hp : p
  · rw [if_pos hp] at h
    cases h
  · rwa [if_neg hp] at h

/-- An address of aperture 0 or 1 leads to a scratchpad, without a page walk. -/
theorem State.resolve_inOwn {s u : State} {ac : Acc} {a : Word} {n : Nat} {pl : Place} (ho : s.inOwn a = true)
    (h : s.resolve ac a.toNat n = .ok (u, pl)) : u = s ∧ ∃ g o, pl = .spad g o := by
  simp only [State.inOwn, Bool.or_eq_true, Bool.and_eq_true, beq_iff_eq] at ho
  have htop : a.toNat / 2 ^ 48 = 0x1FF := by omega
  have hap : a.toNat / 2 ^ 44 % 16 = 0 ∨ a.toNat / 2 ^ 44 % 16 = 1 := by omega
  rw [State.resolve, if_pos htop] at h
  rcases hap with hap | hap <;> simp only [hap] at h
  · cases of_ite_raise_ok h
    exact ⟨rfl, _, _, rfl⟩
  · cases of_ite_raise_ok (of_ite_raise_ok h)
    exact ⟨rfl, _, _, rfl⟩

/-- An access that passed led where its address does. -/
theorem State.access_ok {s u : State} {ac : Acc} {a n al : Nat} {pl : Place} (h : s.access ac a n al = .ok (u, pl)) :
    s.resolve ac a n = .ok (u, pl) := by
  have hr : ∀ x, s.reach ac a n al = .ok x → s.resolve ac a n = .ok x := fun x hx => by
    rw [State.reach] at hx
    exact of_ite_raise_ok hx
  rw [State.access] at h
  cases hx : s.reach ac a n al with
  | error e =>
    rw [hx] at h
    cases h
  | ok x =>
    rw [hx] at h
    cases of_ite_raise_ok h
    exact hr _ hx

/-- An access to the own scratchpad leaves the state as it is and leads to a scratchpad. -/
theorem State.ownSpad_ok {s u : State} {ac : Acc} {a : Word} {n al : Nat} {pl : Place} (h : s.ownSpad ac a n al = .ok (u, pl)) :
    u = s ∧ ∃ g o, pl = .spad g o := by
  obtain ⟨-, h⟩ := of_check_bind_ok h
  obtain ⟨ho, h⟩ := of_check_bind_ok h
  exact State.resolve_inOwn ho (State.access_ok h)

end Sys2Proof.Machine
end

section
/-! SUPPORT. What each bit-tile instruction does when it issues (R313 to R322). -/

namespace Sys2Proof.Machine

theorem State.loadAt_spad (s : State) (g : Fin 1024) (o n : Nat) :
    s.loadAt (.spad g o) n = (s.usePath (.spad g o), s.mem.read (Place.spad g o).key n) := rfl

theorem State.usePath_advance (s : State) (pl : Place) :
    (s.usePath pl).fir.advance = { s.fir.advance with paths := (s.usePath pl).fir.advance.paths } := by
  rw [Firing.advance_paths]
  exact Firing.advance_withPaths s.fir _

/-- A store to a scratchpad that ends an instruction changes the bytes there and the paths noted. -/
theorem State.storeAt_spad_ends (s : State) (g : Fin 1024) (o n val : Nat) :
    let v := (s.storeAt (.spad g o) n val).upd Firing.advance
    v.mem = s.mem.write (Place.spad g o).key n val ∧ v.fir = { s.fir.advance with paths := v.fir.paths } ∧ v.fronds = s.fronds :=
  ⟨rfl, s.usePath_advance (.spad g o), rfl⟩

theorem State.afterPosted_none {s : State} {wr : Bool} {pl : Place} {n : Nat} (h : s.postedAt wr pl n = false) :
    s.afterPosted wr [pl] n = .ok () := by
  simp [State.afterPosted, h]

theorem State.afterPosted_some {s : State} {wr : Bool} {pl : Place} {n : Nat} (h : s.postedAt wr pl n = true) :
    s.afterPosted wr [pl] n = block s .posted := by
  simp [State.afterPosted, h]

theorem State.tileIdx_ok {s : State} {n : BitVec 6} (h : (s.rx n).toNat ≤ 63) : s.tileIdx n = .ok (s.rx n).toNat := by
  rw [State.tileIdx, decide_eq_true h]
  rfl

theorem State.tileIdx_past {s : State} {n : BitVec 6} (h : 63 < (s.rx n).toNat) : s.tileIdx n = raise .prot (s.rx n) := by
  rw [State.tileIdx, decide_eq_false (by omega)]
  rfl

section
variable {s : State} {i : Instr} {desc : Desc}

/-- An instruction with no conditions of its own and a descriptor that stands beside its meaning, when it issues. -/
theorem plain_issues_ownDesc {body : State → Except Stop Done} (h : s.Issues i) (ho : desc.ops = opsOf i) (hk : desc.ok = fieldsOk i) :
    plain desc body s = finish s (body s) := by
  obtain ⟨ha, hf, hl, hs, hout⟩ := h
  exact issue_of_checks ha (.inl hf) (hk.trans (Bool.and_eq_true_iff.mp hl).1) (ho ▸ hs) rfl rfl (ho ▸ hout)

theorem tileOp_issues {d : BitVec 3} {g : Firing → BitVec 4096} (h : s.Issues i) (ho : desc.ops = opsOf i) (hk : desc.ok = fieldsOk i) :
    tileOp desc d g s = .next ((s.wb d (g s.fir)).upd Firing.advance) :=
  plain_issues_ownDesc h ho hk

/-- A move of a row or column whose index is in range goes on with it. -/
theorem plain_tileIdx_ok {n : BitVec 6} {k : State → Nat → Except Stop Done} (h : s.Issues i) (ho : desc.ops = opsOf i)
    (hk : desc.ok = fieldsOk i) (hn : (s.rx n).toNat ≤ 63) :
    plain desc (fun s => s.tileIdx n >>= k s) s = finish s (k s (s.rx n).toNat) := by
  rw [plain_issues_ownDesc h ho hk, State.tileIdx_ok hn]
  rfl

/-- A move of a row or column whose index is above 63 takes PROT (R317). -/
theorem plain_tileIdx_past {n : BitVec 6} {k : State → Nat → Except Stop Done} (h : s.Issues i) (ho : desc.ops = opsOf i)
    (hk : desc.ok = fieldsOk i) (hn : 63 < (s.rx n).toNat) :
    plain desc (fun s => s.tileIdx n >>= k s) s = .next (s.trapHere { c := .prot, sub := 0, val := s.rx n }) := by
  rw [plain_issues_ownDesc h ho hk, State.tileIdx_past hn]
  rfl

end

section
variable {s : State}

/-- The instructions whose bits bitTile names write a tile with those bits (R319, R320). -/
theorem exec_bitTile {i : Instr} {d : BitVec 3} {g : Nat → Nat → Bool} (h : s.Issues i) (hi : bitTile s.fir i = some (d, g)) :
    ∃ t, exec i s = .next ((s.wb d t).upd Firing.advance) ∧ ∀ x y, x < 64 → y < 64 → bitAt t x y = g x y := by
  unfold bitTile at hi
  split at hi <;> simp only [Option.some.injEq, Prod.mk.injEq, reduceCtorEq] at hi <;> obtain ⟨rfl, rfl⟩ := hi
  case h_1 => exact ⟨_, (exec_btand _ _ _ s).trans (tileOp_issues h rfl rfl), fun x y _ _ => BitVec.getLsbD_and⟩
  case h_2 => exact ⟨_, (exec_btor _ _ _ s).trans (tileOp_issues h rfl rfl), fun x y _ _ => BitVec.getLsbD_or⟩
  case h_3 => exact ⟨_, (exec_btxor _ _ _ s).trans (tileOp_issues h rfl rfl), fun x y _ _ => BitVec.getLsbD_xor⟩
  case h_4 =>
    refine ⟨_, (exec_btandn _ _ _ s).trans (tileOp_issues h rfl rfl), fun x y hx hy => ?_⟩
    rw [bitAt, BitVec.getLsbD_and, BitVec.getLsbD_not, decide_eq_true (by omega), Bool.true_and]
    rfl
  case h_5 =>
    refine ⟨_, (exec_btnot _ _ s).trans (tileOp_issues h rfl rfl), fun x y hx hy => ?_⟩
    rw [bitAt, BitVec.getLsbD_not, decide_eq_true (by omega), Bool.true_and]
    rfl
  case h_6 => exact ⟨_, (exec_bttr _ _ s).trans (tileOp_issues h rfl rfl), fun x y hx hy => tileBits_bitAt _ hx hy⟩
  case h_7 => exact ⟨_, (exec_btcomp _ _ _ s).trans (tileOp_issues h rfl rfl), fun x y hx hy => compose_bitAt _ _ hx hy⟩

/-- BTCLO writes the transitive closure, with the diagonal for refl (R319). -/
theorem exec_btclo_closure {d b : BitVec 3} {r : Bool} (h : s.Issues (.btclo d b r)) :
    ∃ t, exec (.btclo d b r) s = .next ((s.wb d t).upd Firing.advance) ∧
      ∀ x y : Fin 64, tileRel t x y ↔ Relation.TransGen (tileRel (s.fir.rb b)) x y ∨ (r = true ∧ x = y) := by
  refine ⟨_, (exec_btclo d b r s).trans (tileOp_issues h rfl rfl), fun x y => ?_⟩
  cases r with
  | true => simp [tileRel_or, tileRel_closure_six, tileRel_diagonal]
  | false => simp [tileRel_closure_six]

theorem exec_btpopr_rows {d : BitVec 5} {b : BitVec 3} (h : s.Issues (.btpopr d b)) :
    exec (.btpopr d b) s = .next ((s.wv d
      (pack 2048 32 ((List.range 64).map fun x => (List.range 64).countP fun y => s.fir.tileBit b x y))).upd Firing.advance) := by
  have hrow (x : Nat) : popBits 64 (rowOf (s.fir.rb b) x) = (List.range 64).countP fun y => s.fir.tileBit b x y := by
    rw [popBits_eq_countP]
    exact List.countP_congr fun y hy => by rw [rowOf_testBit _ _ (List.mem_range.mp hy)]; rfl
  rw [exec_btpopr, execBtpopr, plain_issues_ownDesc h rfl rfl, finish_done]
  simp only [hrow]

theorem exec_btpopc_columns {d : BitVec 5} {b : BitVec 3} (h : s.Issues (.btpopc d b)) :
    exec (.btpopc d b) s = .next ((s.wv d
      (pack 2048 32 ((List.range 64).map fun y => (List.range 64).countP fun x => s.fir.tileBit b x y))).upd Firing.advance) := by
  rw [exec_btpopc, execBtpopc, plain_issues_ownDesc h rfl rfl, finish_done]
  simp only [List.countP_eq_length_filter]
  rfl

/-! ## Row and column moves (R317, R321) -/

theorem exec_btrowk_row {d b : BitVec 3} {n : BitVec 6} (h : s.Issues (.btrowk d b n)) (hn : (s.rx n).toNat ≤ 63) :
    ∃ w, exec (.btrowk d b n) s = .next ((s.wk d w).upd Firing.advance) ∧ ∀ y, y < 64 → w.getLsbD y = s.fir.tileBit b (s.rx n).toNat y := by
  refine ⟨_, (exec_btrowk d b n s).trans (plain_tileIdx_ok h rfl rfl hn), fun y hy => ?_⟩
  rw [BitVec.getLsbD_ofNat, decide_eq_true hy, Bool.true_and, rowOf_testBit _ _ hy]
  rfl

theorem exec_btcolk_column {d b : BitVec 3} {n : BitVec 6} (h : s.Issues (.btcolk d b n)) (hn : (s.rx n).toNat ≤ 63) :
    ∃ w, exec (.btcolk d b n) s = .next ((s.wk d w).upd Firing.advance) ∧ ∀ x, x < 64 → w.getLsbD x = s.fir.tileBit b x (s.rx n).toNat :=
  ⟨_, (exec_btcolk d b n s).trans (plain_tileIdx_ok h rfl rfl hn), fun _ hx => maskOf_getLsbD _ hx⟩

theorem exec_btkrow_row {d b : BitVec 3} {n : BitVec 6} (h : s.Issues (.btkrow d b n)) (hn : (s.rx n).toNat ≤ 63) :
    ∃ t, exec (.btkrow d b n) s = .next ((s.wb d t).upd Firing.advance) ∧ ∀ x y, x < 64 → y < 64 →
      bitAt t x y = if x = (s.rx n).toNat then (s.fir.rk b).getLsbD y else s.fir.tileBit d x y :=
  ⟨_, (exec_btkrow d b n s).trans (plain_tileIdx_ok h rfl rfl hn), fun _ _ _ hy => setElem_getLsbD _ _ _ hy (by omega)⟩

theorem exec_btkcol_column {d b : BitVec 3} {n : BitVec 6} (h : s.Issues (.btkcol d b n)) (hn : (s.rx n).toNat ≤ 63) :
    ∃ t, exec (.btkcol d b n) s = .next ((s.wb d t).upd Firing.advance) ∧ ∀ x y, x < 64 → y < 64 →
      bitAt t x y = if y = (s.rx n).toNat then (s.fir.rk b).getLsbD x else s.fir.tileBit d x y :=
  ⟨_, (exec_btkcol d b n s).trans (plain_tileIdx_ok h rfl rfl hn), fun _ _ hx hy => tileBits_bitAt _ hx hy⟩

theorem exec_move_past {d b : BitVec 3} {n : BitVec 6} (hn : 63 < (s.rx n).toNat) {i : Instr}
    (hi : i ∈ [Instr.btrowk d b n, .btcolk d b n, .btkrow d b n, .btkcol d b n]) (h : s.Issues i) :
    exec i s = .next (s.trapHere { c := .prot, sub := 0, val := s.rx n }) := by
  simp only [List.mem_cons, List.not_mem_nil, or_false] at hi
  rcases hi with rfl | rfl | rfl | rfl
  · exact (exec_btrowk d b n s).trans (plain_tileIdx_past h rfl rfl hn)
  · exact (exec_btcolk d b n s).trans (plain_tileIdx_past h rfl rfl hn)
  · exact (exec_btkrow d b n s).trans (plain_tileIdx_past h rfl rfl hn)
  · exact (exec_btkcol d b n s).trans (plain_tileIdx_past h rfl rfl hn)

/-! ## A tile in the own scratchpad (R322) -/

theorem exec_btld_spad {d : BitVec 3} {x : BitVec 6} {u : State} {pl : Place} (h : s.Issues (.btld d x))
    (hp : s.ownSpad .load (s.rx x) 512 64 = .ok (u, pl)) (hb : u.postedAt false pl 512 = false) :
    exec (.btld d x) s = .next (((u.usePath pl).wb d (BitVec.ofNat 4096 (s.mem.read pl.key 512))).upd Firing.advance) := by
  rw [exec_btld, execBtld, plain_issues_ownDesc h rfl rfl, hp]
  obtain ⟨rfl, g, o, rfl⟩ := State.ownSpad_ok hp
  simp only [bind, Except.bind, State.afterPosted_none hb, State.loadAt_spad, finish_done]

theorem exec_btst_spad {d : BitVec 3} {x : BitVec 6} {u : State} {pl : Place} (h : s.Issues (.btst x d))
    (hp : s.ownSpad .store (s.rx x) 512 64 = .ok (u, pl)) (hb : u.postedAt true pl 512 = false) :
    ∃ v, exec (.btst x d) s = .next v ∧ v.mem = s.mem.write pl.key 512 (s.fir.rb d).toNat ∧
      v.fir = { s.fir.advance with paths := v.fir.paths } ∧ v.fronds = s.fronds := by
  rw [exec_btst, execBtst, plain_issues_ownDesc h rfl rfl, hp]
  obtain ⟨rfl, g, o, rfl⟩ := State.ownSpad_ok hp
  simp only [bind, Except.bind, State.afterPosted_none hb, finish_done]
  exact ⟨_, rfl, u.storeAt_spad_ends g o 512 _⟩

theorem exec_tile_posted {i : Instr} {d : BitVec 3} {x : BitVec 6} {ac : Acc} {u : State} {pl : Place}
    (hi : (i = .btld d x ∧ ac = .load) ∨ (i = .btst x d ∧ ac = .store)) (h : s.Issues i)
    (hp : s.ownSpad ac (s.rx x) 512 64 = .ok (u, pl)) (hb : u.postedAt ac.wr pl 512 = true) :
    exec i s = .next (u.upd fun f => { f with wait := some .posted, aged := false }) := by
  have hwait := State.afterPosted_some hb
  obtain ⟨rfl, rfl⟩ | ⟨rfl, rfl⟩ := hi
  · rw [exec_btld, execBtld, plain_issues_ownDesc h rfl rfl, hp]
    simp only [Acc.load] at hwait
    simp only [bind, Except.bind, hwait, block, finish_wait]
  · rw [exec_btst, execBtst, plain_issues_ownDesc h rfl rfl, hp]
    simp only [Acc.store] at hwait
    simp only [bind, Except.bind, hwait, block, finish_wait]

/-! ## OCMP (R314) -/

theorem keyed_iff (p : OPred) : keyed p = true ↔ p = .klt ∨ p = .kgt := by
  simp [keyed]

theorem exec_ocmp_outcomes {p : OPred} {t : OcTy} {d : BitVec 3} {a b : BitVec 5} {k : BitVec 3} (h : s.Issues (.ocmp p t d a b k)) :
    let w := (ocNum t).width
    let on := fun e => (s.fir.rk k).getLsbD e
    let ix := fun (r : BitVec 5) e => if p = .klt ∨ p = .kgt then s.fir.ve 32 (r + 1) e else 0
    ∃ tile fl, exec (.ocmp p t d a b k) s = .next (((s.wb d tile).upd fun f => f.orFlags fl).upd Firing.advance) ∧ ∀ x y, x < 64 → y < 64 →
      bitAt tile x y = (on x && on y && ocPred p (ocNum t) (s.fir.ve w a x) (ix a x) (s.fir.ve w b y) (ix b y)) := by
  refine ⟨_, _, (exec_ocmp p t d a b k s).trans (plain_issues h), fun x y hx hy => ?_⟩
  rw [tileBits_bitAt _ hx hy]
  simp only [keyed_iff]
  rfl

end

end Sys2Proof.Machine
end

section
/-! PROOF. What the bit-tile instructions do. -/

namespace Sys2Proof.Machine

/-- Settles O38: each instruction that issues ends with the tile, mask or counts of its own lemma above; what else it leaves unchanged is the
frame of a tile written (State.wb_ends), and BTCLO's six squarings reach every node (tileRel_closure_six). -/
theorem bitTiles : Obligations.BitTiles := by
  unfold Obligations.BitTiles
  intro s
  refine ⟨?bits, ?closure, fun _ _ => exec_btpopr_rows, fun _ _ => exec_btpopc_columns, ?moves, fun _ _ _ hn _ => exec_move_past hn,
    fun _ _ _ _ => exec_btld_spad, fun _ _ _ _ _ _ => exec_tile_posted, ?store, ?compare⟩
  case bits =>
    intro i d g h hi
    obtain ⟨t, he, ht⟩ := exec_bitTile h hi
    obtain ⟨ho, hs, hf, hb⟩ := s.wb_ends d t
    exact ⟨_, he, ho, hs, hf, fun x y hx hy => (hb x y).trans (ht x y hx hy)⟩
  case closure =>
    intro d b r h
    obtain ⟨t, he, ht⟩ := exec_btclo_closure h
    obtain ⟨ho, hs, hf, hb⟩ := s.wb_ends d t
    exact ⟨_, he, ho, hs, hf, fun x y => by rw [hb]; exact ht x y⟩
  case moves =>
    refine fun d b n hn => ⟨(exec_btrowk_row · hn), (exec_btcolk_column · hn), fun h => ?_, fun h => ?_⟩
    · obtain ⟨t, he, ht⟩ := exec_btkrow_row h hn
      obtain ⟨ho, hs, hf, hb⟩ := s.wb_ends d t
      exact ⟨_, he, ho, hs, hf, fun x y hx hy => (hb x y).trans (ht x y hx hy)⟩
    · obtain ⟨t, he, ht⟩ := exec_btkcol_column h hn
      obtain ⟨ho, hs, hf, hb⟩ := s.wb_ends d t
      exact ⟨_, he, ho, hs, hf, fun x y hx hy => (hb x y).trans (ht x y hx hy)⟩
  case store =>
    intro d x u pl h hp hb hw
    obtain ⟨v, he, hm, hf, hfr⟩ := exec_btst_spad h hp hb
    refine ⟨v, he, ?_, fun k hk => ?_, hf, hfr⟩
    · rw [hm, Mem.read_write_tile hw]
    · rw [hm, Mem.get_write_other hw _ _ _ _ hk]
  case compare =>
    intro p t d a b k h
    obtain ⟨tile, fl, he, ht⟩ := exec_ocmp_outcomes h
    obtain ⟨hs, -, hb⟩ := s.fir.wb_flags_ends d tile (s.fir.fflags ||| fl)
    exact ⟨_, he, rfl, hs, fun x y hx hy => (hb x y).trans (ht x y hx hy)⟩

end Sys2Proof.Machine
end

section
/-! SUPPORT. The fields of an instruction word (R25 to R38): a word is the concatenation of its fields, and a code in a field names one thing. -/

namespace Sys2Proof

/-- The field of a word that begins at bit s holds a. -/
structure FieldAt (w : BitVec 32) (s : Nat) {n : Nat} (a : BitVec n) : Prop where
  fld_eq : fld w s n = a

theorem fieldAt_iff {w : BitVec 32} {s n : Nat} {a : BitVec n} : FieldAt w s a ↔ fld w s n = a := ⟨FieldAt.fld_eq, .mk⟩

/-- The field that is the whole word. -/
theorem fieldAt_whole {w v : BitVec 32} : FieldAt w 0 v ↔ w = v := by rw [fieldAt_iff, fld, fld_whole]

theorem append_high {n m : Nat} (a : BitVec n) (b : BitVec m) : (a ++ b).extractLsb' m n = a := by
  rw [fld_append_high a b m n (Nat.le_refl m), Nat.sub_self, fld_whole]

theorem append_low {n m : Nat} (a : BitVec n) (b : BitVec m) : (a ++ b).extractLsb' 0 m = b := by
  rw [fld_append_low a b 0 m (Nat.zero_add m).le, fld_whole]

theorem fld_append_fld (w : BitVec 32) (s n m : Nat) : fld w (s + m) n ++ fld w s m = fld w s (n + m) := by
  ext i hi
  simp only [fld, BitVec.getElem_append, BitVec.getElem_extractLsb']
  split
  · rfl
  · congr 1; omega

/-- A field holds a concatenation exactly when its two parts hold the two parts. -/
theorem fieldAt_append {w : BitVec 32} {n m s : Nat} {a : BitVec n} {b : BitVec m} :
    FieldAt w s (a ++ b) ↔ FieldAt w (s + m) a ∧ FieldAt w s b := by
  simp only [fieldAt_iff, ← fld_append_fld]
  refine ⟨fun h => ⟨?_, ?_⟩, fun ⟨ha, hb⟩ => ha ▸ hb ▸ rfl⟩
  · rw [← append_high a b, ← h, append_high]
  · rw [← append_low a b, ← h, append_low]

/-- A part of a field. -/
theorem fld_part (w : BitVec 32) (s j n m : Nat) (h : j + n ≤ m) : fld w (s + j) n = (fld w s m).extractLsb' j n := by
  ext i hi
  simp only [fld, BitVec.getElem_extractLsb', BitVec.getLsbD_extractLsb']
  rw [decide_eq_true (by omega), Bool.true_and]
  congr 1; omega

/-- A split immediate of four and six bits (R25). -/
@[simp] theorem split_high (a : BitVec 4) (b : BitVec 6) : BitVec.extractLsb' 6 4 (a ++ b : BitVec 10) = a := append_high a b
@[simp] theorem split_low (a : BitVec 4) (b : BitVec 6) : BitVec.extractLsb' 0 6 (a ++ b : BitVec 10) = b := append_low a b

/-- A split amount of one and five bits (R28). -/
@[simp] theorem split_amount_high (a : BitVec 1) (b : BitVec 5) : BitVec.extractLsb' 5 1 (a ++ b : BitVec 6) = a := append_high a b
@[simp] theorem split_amount_low (a : BitVec 1) (b : BitVec 5) : BitVec.extractLsb' 0 5 (a ++ b : BitVec 6) = b := append_low a b

/-- A minor of four bits with a number of three bits below it is another minor of seven. -/
theorem minor_append_ne (a : BitVec 4) (b : BitVec 3) (c : BitVec 7) (h : a ≠ c.extractLsb' 3 4) : (a ++ b : BitVec 7) ≠ c :=
  fun e => h (by rw [← e]; exact (append_high a b).symm)

/-- A flag is the bit it was read from. -/
@[simp] theorem ofBool_beq_one (b : BitVec 1) : BitVec.ofBool (b == 1#1) = b := by revert b; decide

@[simp] theorem ElemTy.ofCode_eq_some {c : BitVec 4} {t : ElemTy} : ElemTy.ofCode c = some t ↔ c = t.code :=
  ⟨fun h => by cases t <;> (revert c; decide), fun h => h ▸ ElemTy.ofCode_code t⟩
@[simp] theorem FT.ofCode_eq_some {c : BitVec 1} {t : FT} : FT.ofCode c = some t ↔ c = t.code :=
  ⟨fun h => by cases t <;> (revert c; decide), fun h => h ▸ FT.ofCode_code t⟩
@[simp] theorem VF.ofCode_eq_some {c : BitVec 2} {t : VF} : VF.ofCode c = some t ↔ c = t.code :=
  ⟨fun h => by cases t <;> (revert c; decide), fun h => h ▸ VF.ofCode_code t⟩
@[simp] theorem RF.ofCode_eq_some {c : BitVec 2} {t : RF} : RF.ofCode c = some t ↔ c = t.code :=
  ⟨fun h => by cases t <;> (revert c; decide), fun h => h ▸ RF.ofCode_code t⟩
@[simp] theorem AF.ofCode_eq_some {c : BitVec 3} {t : AF} : AF.ofCode c = some t ↔ c = t.code :=
  ⟨fun h => by cases t <;> (revert c; decide), fun h => h ▸ AF.ofCode_code t⟩
@[simp] theorem RM.ofCode_eq_some {c : BitVec 3} {t : RM} : RM.ofCode c = some t ↔ c = t.code :=
  ⟨fun h => by cases t <;> (revert c; decide), fun h => h ▸ RM.ofCode_code t⟩
@[simp] theorem XT.ofCode_eq_some {c : BitVec 3} {t : XT} : XT.ofCode c = some t ↔ c = t.code :=
  ⟨fun h => by cases t <;> (revert c; decide), fun h => h ▸ XT.ofCode_code t⟩
@[simp] theorem Scope.ofCode_eq_some {c : BitVec 3} {t : Scope} : Scope.ofCode c = some t ↔ c = t.code :=
  ⟨fun h => by cases t <;> (revert c; decide), fun h => h ▸ Scope.ofCode_code t⟩
@[simp] theorem LdTy.ofCode_eq_some {c : BitVec 3} {t : LdTy} : LdTy.ofCode c = some t ↔ c = t.code :=
  ⟨fun h => by cases t <;> (revert c; decide), fun h => h ▸ LdTy.ofCode_code t⟩
@[simp] theorem StSz.ofCode_eq_some {c : BitVec 2} {t : StSz} : StSz.ofCode c = some t ↔ c = t.code :=
  ⟨fun h => by cases t <;> (revert c; decide), fun h => h ▸ StSz.ofCode_code t⟩
@[simp] theorem LdMode.ofCode_eq_some {c : BitVec 1} {t : LdMode} : LdMode.ofCode c = some t ↔ c = t.code :=
  ⟨fun h => by cases t <;> (revert c; decide), fun h => h ▸ LdMode.ofCode_code t⟩
@[simp] theorem StMode.ofCode_eq_some {c : BitVec 1} {t : StMode} : StMode.ofCode c = some t ↔ c = t.code :=
  ⟨fun h => by cases t <;> (revert c; decide), fun h => h ▸ StMode.ofCode_code t⟩
@[simp] theorem IW.ofCode_eq_some {c : BitVec 2} {t : IW} : IW.ofCode c = some t ↔ c = t.code :=
  ⟨fun h => by cases t <;> (revert c; decide), fun h => h ▸ IW.ofCode_code t⟩
@[simp] theorem VPred.ofCode_eq_some {c : BitVec 3} {t : VPred} : VPred.ofCode c = some t ↔ c = t.code :=
  ⟨fun h => by cases t <;> (revert c; decide), fun h => h ▸ VPred.ofCode_code t⟩
@[simp] theorem CmpTy.ofCode_eq_some {c : BitVec 3} {t : CmpTy} : CmpTy.ofCode c = some t ↔ c = t.code :=
  ⟨fun h => by cases t <;> (revert c; decide), fun h => h ▸ CmpTy.ofCode_code t⟩
@[simp] theorem OPred.ofCode_eq_some {c : BitVec 4} {t : OPred} : OPred.ofCode c = some t ↔ c = t.code :=
  ⟨fun h => by cases t <;> (revert c; decide), fun h => h ▸ OPred.ofCode_code t⟩
@[simp] theorem OcTy.ofCode_eq_some {c : BitVec 3} {t : OcTy} : OcTy.ofCode c = some t ↔ c = t.code :=
  ⟨fun h => by cases t <;> (revert c; decide), fun h => h ▸ OcTy.ofCode_code t⟩
@[simp] theorem SpTy.ofCode_eq_some {c : BitVec 2} {t : SpTy} : SpTy.ofCode c = some t ↔ c = t.code :=
  ⟨fun h => by cases t <;> (revert c; decide), fun h => h ▸ SpTy.ofCode_code t⟩
@[simp] theorem GangN.ofCode_eq_some {c : BitVec 2} {t : GangN} : GangN.ofCode c = some t ↔ c = t.code :=
  ⟨fun h => by cases t <;> (revert c; decide), fun h => h ▸ GangN.ofCode_code t⟩
@[simp] theorem LdtMode.ofCode_eq_some {c : BitVec 2} {t : LdtMode} : LdtMode.ofCode c = some t ↔ c = t.code :=
  ⟨fun h => by cases t <;> (revert c; decide), fun h => h ▸ LdtMode.ofCode_code t⟩
@[simp] theorem SttMode.ofCode_eq_some {c : BitVec 2} {t : SttMode} : SttMode.ofCode c = some t ↔ c = t.code :=
  ⟨fun h => by cases t <;> (revert c; decide), fun h => h ▸ SttMode.ofCode_code t⟩
@[simp] theorem SZ.ofCode_eq_some {c : BitVec 1} {t : SZ} : SZ.ofCode c = some t ↔ c = t.code :=
  ⟨fun h => by cases t <;> (revert c; decide), fun h => h ▸ SZ.ofCode_code t⟩

end Sys2Proof
end

section
/-! PROOF. Decode and encode agree. -/

namespace Sys2Proof

/-! ## A word that decodes is the word of its instruction -/

/-- What a word is read as: an instruction only if the word is its word. -/
structure Sound (w : BitVec 32) (r : Decoded) : Prop where
  encode_eq : ∀ i, r = .ok i → encode i = w

section
variable {w : BitVec 32}

theorem Sound.ok {i : Instr} (h : FieldAt w 0 (encode i)) : Sound w (.ok i) :=
  ⟨fun _ e => Decoded.ok.inj e ▸ (fieldAt_whole.mp h).symm⟩

theorem Sound.bad (r : Reject) : Sound w (.bad r) := ⟨fun _ h => nomatch h⟩

theorem Sound.cond {c : Bool} {x y : Decoded} (hx : c = true → Sound w x) (hy : Sound w y) : Sound w (bif c then x else y) := by
  cases c
  exacts [hy, hx rfl]

theorem Sound.need {c : Bool} {x : Decoded} (hx : c = true → Sound w x) : Sound w (.need c x) := Sound.cond hx (.bad _)

theorem Sound.on {α : Type} {o : Option α} {k : α → Decoded} (h : ∀ a, o = some a → Sound w (k a)) : Sound w (.on o k) := by
  cases o
  exacts [.bad _, h _ rfl]


/-- The major as a number. -/
theorem fld_of_toNat {k : Nat} (h : (fld w 0 7).toNat = k) : fld w 0 7 = BitVec.ofNat 7 k := by
  rw [← h, BitVec.ofNat_toNat, BitVec.setWidth_eq]

/-- Majors from 0x00 to 0x09. -/
theorem decode_sound_integer (hhi : (fld w 0 7).toNat < 0x0A) : Sound w (decode w) := by
  unfold decode
  split
  on_goal -1 => exact .bad _
  all_goals rename_i hm
  all_goals try omega
  all_goals
    replace hm := fld_of_toNat hm
    repeat' first | refine Sound.cond (fun h => ?_) ?_ | refine Sound.need fun h => ?_ | refine Sound.on fun _ _ => ?_ | refine Sound.ok ?_ |
      exact Sound.bad _
    all_goals
      repeat' refine fieldAt_append.mpr ⟨?_, ?_⟩
      all_goals simp_all [fieldAt_iff]

/-- Majors from 0x0A to 0x17. -/
theorem decode_sound_control (hlo : 0x0A ≤ (fld w 0 7).toNat) (hhi : (fld w 0 7).toNat < 0x18) : Sound w (decode w) := by
  unfold decode
  split
  on_goal -1 => exact .bad _
  all_goals rename_i hm
  all_goals try omega
  all_goals
    replace hm := fld_of_toNat hm
    repeat' first | refine Sound.cond (fun h => ?_) ?_ | refine Sound.need fun h => ?_ | refine Sound.on fun _ _ => ?_ | refine Sound.ok ?_ |
      exact Sound.bad _
    all_goals
      repeat' refine fieldAt_append.mpr ⟨?_, ?_⟩
      all_goals simp_all [fieldAt_iff]

/-- Majors from 0x18 to 0x2F. -/
theorem decode_sound_access (hlo : 0x18 ≤ (fld w 0 7).toNat) (hhi : (fld w 0 7).toNat < 0x30) : Sound w (decode w) := by
  unfold decode
  split
  on_goal -1 => exact .bad _
  all_goals rename_i hm
  all_goals try omega
  all_goals
    replace hm := fld_of_toNat hm
    repeat' first | refine Sound.cond (fun h => ?_) ?_ | refine Sound.need fun h => ?_ | refine Sound.on fun _ _ => ?_ | refine Sound.ok ?_ |
      exact Sound.bad _
    all_goals
      repeat' refine fieldAt_append.mpr ⟨?_, ?_⟩
      all_goals simp_all [fieldAt_iff]

/-- Majors from 0x30 to 0x3F. -/
theorem decode_sound_engine (hlo : 0x30 ≤ (fld w 0 7).toNat) (hhi : (fld w 0 7).toNat < 0x40) : Sound w (decode w) := by
  unfold decode
  split
  on_goal -1 => exact .bad _
  all_goals rename_i hm
  all_goals try omega
  all_goals
    replace hm := fld_of_toNat hm
    repeat' first | refine Sound.cond (fun h => ?_) ?_ | refine Sound.need fun h => ?_ | refine Sound.on fun _ _ => ?_ | refine Sound.ok ?_ |
      exact Sound.bad _
    all_goals
      repeat' refine fieldAt_append.mpr ⟨?_, ?_⟩
      all_goals simp_all [fieldAt_iff]

/-- Majors from 0x40 to 0x48. -/
theorem decode_sound_vector (hlo : 0x40 ≤ (fld w 0 7).toNat) (hhi : (fld w 0 7).toNat < 0x49) : Sound w (decode w) := by
  unfold decode
  split
  on_goal -1 => exact .bad _
  all_goals rename_i hm
  all_goals try omega
  all_goals
    replace hm := fld_of_toNat hm
    repeat' first | refine Sound.cond (fun h => ?_) ?_ | refine Sound.need fun h => ?_ | refine Sound.on fun _ _ => ?_ | refine Sound.ok ?_ |
      exact Sound.bad _
    all_goals
      repeat' refine fieldAt_append.mpr ⟨?_, ?_⟩
      all_goals simp_all [fieldAt_iff]

/-- Majors from 0x49 to 0x51. -/
theorem decode_sound_mask (hlo : 0x49 ≤ (fld w 0 7).toNat) (hhi : (fld w 0 7).toNat < 0x52) : Sound w (decode w) := by
  unfold decode
  split
  on_goal -1 => exact .bad _
  all_goals rename_i hm
  all_goals try omega
  all_goals
    replace hm := fld_of_toNat hm
    repeat' first | refine Sound.cond (fun h => ?_) ?_ | refine Sound.need fun h => ?_ | refine Sound.on fun _ _ => ?_ | refine Sound.ok ?_ |
      exact Sound.bad _
    all_goals
      repeat' refine fieldAt_append.mpr ⟨?_, ?_⟩
      all_goals simp_all [fieldAt_iff]

/-- Majors from 0x52 to 0x68. -/
theorem decode_sound_matrix (hlo : 0x52 ≤ (fld w 0 7).toNat) (hhi : (fld w 0 7).toNat < 0x69) : Sound w (decode w) := by
  unfold decode
  split
  on_goal -1 => exact .bad _
  all_goals rename_i hm
  all_goals try omega
  all_goals
    replace hm := fld_of_toNat hm
    repeat' first | refine Sound.cond (fun h => ?_) ?_ | refine Sound.need fun h => ?_ | refine Sound.on fun _ _ => ?_ | refine Sound.ok ?_ |
      exact Sound.bad _
    all_goals
      repeat' refine fieldAt_append.mpr ⟨?_, ?_⟩
      all_goals simp_all [fieldAt_iff]

/-- Majors from 0x69 to 0x7F. -/
theorem decode_sound_system (hlo : 0x69 ≤ (fld w 0 7).toNat) : Sound w (decode w) := by
  unfold decode
  split
  on_goal -1 => exact .bad _
  all_goals rename_i hm
  all_goals try omega
  all_goals
    replace hm := fld_of_toNat hm
    repeat' first | refine Sound.cond (fun h => ?_) ?_ | refine Sound.need fun h => ?_ | refine Sound.on fun _ _ => ?_ | refine Sound.ok ?_ |
      exact Sound.bad _
    all_goals
      repeat' refine fieldAt_append.mpr ⟨?_, ?_⟩
      all_goals simp_all [fieldAt_iff]

/-- Every word: the part of the majors its own lies in. -/
theorem decode_sound (w : BitVec 32) : Sound w (decode w) := by
  rcases Nat.lt_or_ge (fld w 0 7).toNat 0x0A with h | h0
  · exact decode_sound_integer h
  rcases Nat.lt_or_ge (fld w 0 7).toNat 0x18 with h | h1
  · exact decode_sound_control h0 h
  rcases Nat.lt_or_ge (fld w 0 7).toNat 0x30 with h | h2
  · exact decode_sound_access h1 h
  rcases Nat.lt_or_ge (fld w 0 7).toNat 0x40 with h | h3
  · exact decode_sound_engine h2 h
  rcases Nat.lt_or_ge (fld w 0 7).toNat 0x49 with h | h4
  · exact decode_sound_vector h3 h
  rcases Nat.lt_or_ge (fld w 0 7).toNat 0x52 with h | h5
  · exact decode_sound_mask h4 h
  rcases Nat.lt_or_ge (fld w 0 7).toNat 0x69 with h | h6
  · exact decode_sound_matrix h5 h
  exact decode_sound_system h6

end

/-! ## The word of an instruction decodes to it -/

/-- The instruction stands in the opcode table at one of the places from lo to hi - 1. -/
def Instr.between (i : Instr) (lo hi : Nat) : Bool := Nat.ble lo i.ctorIdx && Nat.blt i.ctorIdx hi

theorem Instr.between_of {i : Instr} {lo hi : Nat} (hlo : lo ≤ i.ctorIdx) (hhi : i.ctorIdx < hi) : i.between lo hi = true := by
  rw [Instr.between, Nat.ble_eq_true_of_le hlo, Nat.blt, Nat.ble_eq_true_of_le hhi, Bool.true_and]

theorem Instr.ctorIdx_lt (i : Instr) : i.ctorIdx < 371 := by cases i <;> exact Nat.le_of_ble_eq_true rfl

/-- The rows with no bits are events, which have no word. -/
theorem encode_event {i : Instr} (h : i.between 249 345 = true) : encode i = 0#32 := by
  cases i <;> first | rfl | exact absurd h Bool.false_ne_true

/-- HINT whose operand is all ones is no instruction (R37). -/
theorem hint_ne_of_legal {h : BitVec 25} (hl : Machine.legal (.hint h) = true) : (h == 0x1FFFFFF#25) = false := by
  have hk : (h != BitVec.allOnes 25 && Machine.overlapOk false [] && _) = true := hl
  simpa using Bool.and_elim_left (Bool.and_elim_left hk)

/-! Below each word is taken apart into its fields, on which its major's decoder then decides. -/

theorem decode_encode_integer {i : Instr} (h : i.between 0 30 = true) : decode (encode i) = .ok i := by
  generalize hw : encode i = w
  replace hw := fieldAt_whole.mpr hw.symm
  cases i with
  | add | sub | and | or | xor | andn | sll | srl | sra | slt | sltu | min | max | minu | maxu | clz | ctz | popc | rol | ror =>
    repeat' obtain ⟨hw, _⟩ := fieldAt_append.mp hw
    simp only [fieldAt_iff, Nat.reduceAdd] at *
    rw [decode, ‹fld w 0 7 = _›]
    show dec01 w = _
    simp [*, dec01, ↓Bool.cond_eq_ite]
  | addi =>
    repeat' obtain ⟨hw, _⟩ := fieldAt_append.mp hw
    simp only [fieldAt_iff, Nat.reduceAdd] at *
    rw [decode, ‹fld w 0 7 = _›]
    show dec02 w = _
    simp [*, dec02]
  | andi | ori | xori | slli | srli | srai | slti | sltiu =>
    repeat' obtain ⟨hw, _⟩ := fieldAt_append.mp hw
    simp only [fieldAt_iff, Nat.reduceAdd] at *
    rw [decode, ‹fld w 0 7 = _›]
    show dec03 w = _
    simp [*, dec03, ↓Bool.cond_eq_ite]
  | lui =>
    repeat' obtain ⟨hw, _⟩ := fieldAt_append.mp hw
    simp only [fieldAt_iff, Nat.reduceAdd] at *
    rw [decode, ‹fld w 0 7 = _›]
    show dec04 w = _
    simp [*, dec04]
  | _ => exact absurd h Bool.false_ne_true

theorem decode_encode_float {i : Instr} (h : i.between 30 61 = true) : decode (encode i) = .ok i := by
  generalize hw : encode i = w
  replace hw := fieldAt_whole.mpr hw.symm
  cases i with
  | adrp =>
    repeat' obtain ⟨hw, _⟩ := fieldAt_append.mp hw
    simp only [fieldAt_iff, Nat.reduceAdd] at *
    rw [decode, ‹fld w 0 7 = _›]
    show dec05 w = _
    simp [*, dec05]
  | mul | mulh | mulhu | mulhsu | div | divu | rem | remu =>
    repeat' obtain ⟨hw, _⟩ := fieldAt_append.mp hw
    simp only [fieldAt_iff, Nat.reduceAdd] at *
    rw [decode, ‹fld w 0 7 = _›]
    show dec06 w = _
    simp [*, dec06, ↓Bool.cond_eq_ite]
  | movxRead | movxWrite =>
    repeat' obtain ⟨hw, _⟩ := fieldAt_append.mp hw
    simp only [fieldAt_iff, Nat.reduceAdd] at *
    rw [decode, ‹fld w 0 7 = _›]
    show dec07 w = _
    simp [*, dec07, ↓Bool.cond_eq_ite]
  | fadd | fsub | fmul | fdiv | fsqrt | fcvt | fmin | fmax | fsgnj | fsgnjn | fsgnjx | feq | flt | fle | fclass =>
    repeat' obtain ⟨hw, _⟩ := fieldAt_append.mp hw
    simp only [fieldAt_iff, Nat.reduceAdd] at *
    rw [decode, ‹fld w 0 7 = _›]
    show dec08 w = _
    simp [*, dec08, ↓Bool.cond_eq_ite]
  | fmadd | fmsub | fnmadd | fnmsub =>
    repeat' obtain ⟨hw, _⟩ := fieldAt_append.mp hw
    simp only [fieldAt_iff, Nat.reduceAdd] at *
    rw [decode, ‹fld w 0 7 = _›]
    show dec09 w = _
    simp [*, dec09, ↓Bool.cond_eq_ite]
  | sel =>
    repeat' obtain ⟨hw, _⟩ := fieldAt_append.mp hw
    simp only [fieldAt_iff, Nat.reduceAdd] at *
    rw [decode, ‹fld w 0 7 = _›]
    show dec0A w = _
    simp [*, dec0A]
  | _ => exact absurd h Bool.false_ne_true

theorem decode_encode_control {i : Instr} (h : i.between 61 85 = true) : decode (encode i) = .ok i := by
  generalize hw : encode i = w
  replace hw := fieldAt_whole.mpr hw.symm
  cases i with
  | beq | bne | blt | bge | bltu | bgeu =>
    repeat' obtain ⟨hw, _⟩ := fieldAt_append.mp hw
    simp only [fieldAt_iff, Nat.reduceAdd] at *
    rw [decode, ‹fld w 0 7 = _›]
    show dec10 w = _
    simp [*, dec10, ↓Bool.cond_eq_ite]
  | beqz | bnez =>
    repeat' obtain ⟨hw, _⟩ := fieldAt_append.mp hw
    simp only [fieldAt_iff, Nat.reduceAdd] at *
    rw [decode, ‹fld w 0 7 = _›]
    show dec11 w = _
    simp [*, dec11, ↓Bool.cond_eq_ite]
  | jal =>
    repeat' obtain ⟨hw, _⟩ := fieldAt_append.mp hw
    simp only [fieldAt_iff, Nat.reduceAdd] at *
    rw [decode, ‹fld w 0 7 = _›]
    show dec12 w = _
    simp [*, dec12]
  | jalr =>
    repeat' obtain ⟨hw, _⟩ := fieldAt_append.mp hw
    simp only [fieldAt_iff, Nat.reduceAdd] at *
    rw [decode, ‹fld w 0 7 = _›]
    show dec13 w = _
    simp [*, dec13]
  | loopn =>
    repeat' obtain ⟨hw, _⟩ := fieldAt_append.mp hw
    simp only [fieldAt_iff, Nat.reduceAdd] at *
    rw [decode, ‹fld w 0 7 = _›]
    show dec14 w = _
    simp [*, dec14]
  | rep =>
    repeat' obtain ⟨hw, _⟩ := fieldAt_append.mp hw
    simp only [fieldAt_iff, Nat.reduceAdd] at *
    rw [decode, ‹fld w 0 7 = _›]
    show dec15 w = _
    simp [*, dec15]
  | gang =>
    repeat' obtain ⟨hw, _⟩ := fieldAt_append.mp hw
    simp only [fieldAt_iff, Nat.reduceAdd] at *
    rw [decode, ‹fld w 0 7 = _›]
    show dec16 w = _
    simp [*, dec16, ↓Bool.cond_eq_ite]
  | launch | join | leave | phase | gbar | sget =>
    repeat' obtain ⟨hw, _⟩ := fieldAt_append.mp hw
    simp only [fieldAt_iff, Nat.reduceAdd] at *
    rw [decode, ‹fld w 0 7 = _›]
    show dec17 w = _
    simp [*, dec17, ↓Bool.cond_eq_ite]
  | hswait | hstry | hspost | hsset | hsrd =>
    repeat' obtain ⟨hw, _⟩ := fieldAt_append.mp hw
    simp only [fieldAt_iff, Nat.reduceAdd] at *
    rw [decode, ‹fld w 0 7 = _›]
    show dec18 w = _
    simp [*, dec18, ↓Bool.cond_eq_ite]
  | _ => exact absurd h Bool.false_ne_true

theorem decode_encode_access {i : Instr} (h : i.between 85 104 = true) : decode (encode i) = .ok i := by
  generalize hw : encode i = w
  replace hw := fieldAt_whole.mpr hw.symm
  cases i with
  | ld =>
    repeat' obtain ⟨hw, _⟩ := fieldAt_append.mp hw
    simp only [fieldAt_iff, Nat.reduceAdd] at *
    rw [decode, ‹fld w 0 7 = _›]
    show dec20 w = _
    simp [*, dec20]
  | st =>
    repeat' obtain ⟨hw, _⟩ := fieldAt_append.mp hw
    simp only [fieldAt_iff, Nat.reduceAdd] at *
    rw [decode, ‹fld w 0 7 = _›]
    show dec21 w = _
    simp [*, dec21, fld_split]
  | ldfe =>
    repeat' obtain ⟨hw, _⟩ := fieldAt_append.mp hw
    simp only [fieldAt_iff, Nat.reduceAdd] at *
    rw [decode, ‹fld w 0 7 = _›]
    show dec22 w = _
    simp [*, dec22]
  | stfe =>
    repeat' obtain ⟨hw, _⟩ := fieldAt_append.mp hw
    simp only [fieldAt_iff, Nat.reduceAdd] at *
    rw [decode, ‹fld w 0 7 = _›]
    show dec23 w = _
    simp [*, dec23, fld_split]
  | vld | vlds =>
    repeat' obtain ⟨hw, _⟩ := fieldAt_append.mp hw
    simp only [fieldAt_iff, Nat.reduceAdd] at *
    rw [decode, ‹fld w 0 7 = _›]
    show dec24 w = _
    simp [*, dec24, ↓Bool.cond_eq_ite]
  | vst | vsts =>
    repeat' obtain ⟨hw, _⟩ := fieldAt_append.mp hw
    simp only [fieldAt_iff, Nat.reduceAdd] at *
    rw [decode, ‹fld w 0 7 = _›]
    show dec25 w = _
    simp [*, dec25, ↓Bool.cond_eq_ite]
  | vldx =>
    repeat' obtain ⟨hw, _⟩ := fieldAt_append.mp hw
    simp only [fieldAt_iff, Nat.reduceAdd] at *
    rw [decode, ‹fld w 0 7 = _›]
    show dec26 w = _
    simp [*, dec26]
  | vstx =>
    repeat' obtain ⟨hw, _⟩ := fieldAt_append.mp hw
    simp only [fieldAt_iff, Nat.reduceAdd] at *
    rw [decode, ‹fld w 0 7 = _›]
    show dec27 w = _
    simp [*, dec27]
  | ldt | vldt =>
    repeat' obtain ⟨hw, _⟩ := fieldAt_append.mp hw
    simp only [fieldAt_iff, Nat.reduceAdd] at *
    rw [decode, ‹fld w 0 7 = _›]
    show dec28 w = _
    simp [*, dec28, ↓Bool.cond_eq_ite]
  | stt | vstt =>
    repeat' obtain ⟨hw, _⟩ := fieldAt_append.mp hw
    simp only [fieldAt_iff, Nat.reduceAdd] at *
    rw [decode, ‹fld w 0 7 = _›]
    show dec29 w = _
    simp [*, dec29, ↓Bool.cond_eq_ite]
  | shinv | shloc =>
    repeat' obtain ⟨hw, _⟩ := fieldAt_append.mp hw
    simp only [fieldAt_iff, Nat.reduceAdd] at *
    rw [decode, ‹fld w 0 7 = _›]
    show dec2A w = _
    simp [*, dec2A, ↓Bool.cond_eq_ite]
  | rel | acq | fence =>
    repeat' obtain ⟨hw, _⟩ := fieldAt_append.mp hw
    simp only [fieldAt_iff, Nat.reduceAdd] at *
    rw [decode, ‹fld w 0 7 = _›]
    show dec2B w = _
    simp [*, dec2B, ↓Bool.cond_eq_ite]
  | _ => exact absurd h Bool.false_ne_true

theorem decode_encode_atomic {i : Instr} (h : i.between 104 126 = true) : decode (encode i) = .ok i := by
  generalize hw : encode i = w
  replace hw := fieldAt_whole.mpr hw.symm
  cases i with
  | amoadd | amoand | amoor | amoxor | amomin | amomax | amominu | amomaxu | amoswp | amocas =>
    repeat' obtain ⟨hw, _⟩ := fieldAt_append.mp hw
    simp only [fieldAt_iff, Nat.reduceAdd] at *
    rw [decode, ‹fld w 0 7 = _›]
    show dec30 w = _
    simp [*, dec30, ↓Bool.cond_eq_ite]
  | amofadd | amofmin | amofmax =>
    repeat' obtain ⟨hw, _⟩ := fieldAt_append.mp hw
    simp only [fieldAt_iff, Nat.reduceAdd] at *
    rw [decode, ‹fld w 0 7 = _›]
    show dec31 w = _
    simp [*, dec31, ↓Bool.cond_eq_ite]
  | xcadd | xcrd | xcclr | xcrdclr =>
    repeat' obtain ⟨hw, _⟩ := fieldAt_append.mp hw
    simp only [fieldAt_iff, Nat.reduceAdd] at *
    rw [decode, ‹fld w 0 7 = _›]
    show dec32 w = _
    simp [*, dec32, ↓Bool.cond_eq_ite]
  | vamoadd | vamomin | vamomax | vxcadd | vbsum =>
    repeat' obtain ⟨hw, _⟩ := fieldAt_append.mp hw
    simp only [fieldAt_iff, Nat.reduceAdd] at *
    rw [decode, ‹fld w 0 7 = _›]
    show dec33 w = _
    simp [*, dec33, ↓Bool.cond_eq_ite]
  | _ => exact absurd h Bool.false_ne_true

theorem decode_encode_engine {i : Instr} (h : i.between 126 145 = true) : decode (encode i) = .ok i := by
  generalize hw : encode i = w
  replace hw := fieldAt_whole.mpr hw.symm
  cases i with
  | qget | qput | vqget | vqput | qcnt =>
    repeat' obtain ⟨hw, _⟩ := fieldAt_append.mp hw
    simp only [fieldAt_iff, Nat.reduceAdd] at *
    rw [decode, ‹fld w 0 7 = _›]
    show dec38 w = _
    simp [*, dec38, ↓Bool.cond_eq_ite]
  | send | sendv =>
    repeat' obtain ⟨hw, _⟩ := fieldAt_append.mp hw
    simp only [fieldAt_iff, Nat.reduceAdd] at *
    rw [decode, ‹fld w 0 7 = _›]
    show dec39 w = _
    simp [*, dec39, ↓Bool.cond_eq_ite]
  | cwr =>
    repeat' obtain ⟨hw, _⟩ := fieldAt_append.mp hw
    simp only [fieldAt_iff, Nat.reduceAdd] at *
    rw [decode, ‹fld w 0 7 = _›]
    show dec3A w = _
    simp [*, dec3A, ↓Bool.cond_eq_ite]
  | cgo | cwp =>
    repeat' obtain ⟨hw, _⟩ := fieldAt_append.mp hw
    simp only [fieldAt_iff, Nat.reduceAdd] at *
    rw [decode, ‹fld w 0 7 = _›]
    show dec3A w = _
    simp [*, dec3A, ↓Bool.cond_eq_ite, fld_part w 25 3 4 7]
  | crd =>
    repeat' obtain ⟨hw, _⟩ := fieldAt_append.mp hw
    simp only [fieldAt_iff, Nat.reduceAdd] at *
    rw [decode, ‹fld w 0 7 = _›]
    show dec3A w = _
    simp [*, dec3A, ↓Bool.cond_eq_ite, minor_append_ne]
  | txinit | txarr | txexp | txwait | txtry =>
    repeat' obtain ⟨hw, _⟩ := fieldAt_append.mp hw
    simp only [fieldAt_iff, Nat.reduceAdd] at *
    rw [decode, ‹fld w 0 7 = _›]
    show dec3B w = _
    simp [*, dec3B, ↓Bool.cond_eq_ite]
  | dqpush | dqpop | dqsteal =>
    repeat' obtain ⟨hw, _⟩ := fieldAt_append.mp hw
    simp only [fieldAt_iff, Nat.reduceAdd] at *
    rw [decode, ‹fld w 0 7 = _›]
    show dec3C w = _
    simp [*, dec3C, ↓Bool.cond_eq_ite]
  | _ => exact absurd h Bool.false_ne_true

theorem decode_encode_float_vector {i : Instr} (h : i.between 145 174 = true) : decode (encode i) = .ok i := by
  generalize hw : encode i = w
  replace hw := fieldAt_whole.mpr hw.symm
  cases i with
  | vadd | vsub | vmul | vdiv | vmin | vmax | vabs | vneg | vsgnj =>
    repeat' obtain ⟨hw, _⟩ := fieldAt_append.mp hw
    simp only [fieldAt_iff, Nat.reduceAdd] at *
    rw [decode, ‹fld w 0 7 = _›]
    show dec40 w = _
    simp [*, dec40, ↓Bool.cond_eq_ite]
  | vfmadd | vfmsub | vfnmadd | vfnmsub =>
    repeat' obtain ⟨hw, _⟩ := fieldAt_append.mp hw
    simp only [fieldAt_iff, Nat.reduceAdd] at *
    rw [decode, ‹fld w 0 7 = _›]
    show dec41 w = _
    simp [*, dec41, ↓Bool.cond_eq_ite]
  | vaddx | vsubx | vmulx | vdivx | vminx | vmaxx =>
    repeat' obtain ⟨hw, _⟩ := fieldAt_append.mp hw
    simp only [fieldAt_iff, Nat.reduceAdd] at *
    rw [decode, ‹fld w 0 7 = _›]
    show dec42 w = _
    simp [*, dec42, ↓Bool.cond_eq_ite]
  | vexp | vlog | vrcp | vrsqrt | vtanh | vsqrt =>
    repeat' obtain ⟨hw, _⟩ := fieldAt_append.mp hw
    simp only [fieldAt_iff, Nat.reduceAdd] at *
    rw [decode, ‹fld w 0 7 = _›]
    show dec43 w = _
    simp [*, dec43, ↓Bool.cond_eq_ite]
  | vredsum | vredmax | vredmin | vredq =>
    repeat' obtain ⟨hw, _⟩ := fieldAt_append.mp hw
    simp only [fieldAt_iff, Nat.reduceAdd] at *
    rw [decode, ‹fld w 0 7 = _›]
    show dec44 w = _
    simp [*, dec44, ↓Bool.cond_eq_ite]
  | _ => exact absurd h Bool.false_ne_true

theorem decode_encode_integer_vector {i : Instr} (h : i.between 174 198 = true) : decode (encode i) = .ok i := by
  generalize hw : encode i = w
  replace hw := fieldAt_whole.mpr hw.symm
  cases i with
  | viadd | visub | vimul | vimulh | viand | vior | vixor | visll | visrl | visra | vimin | vimax | vipopc | viaddSat | visubSat =>
    repeat' obtain ⟨hw, _⟩ := fieldAt_append.mp hw
    simp only [fieldAt_iff, Nat.reduceAdd] at *
    rw [decode, ‹fld w 0 7 = _›]
    show dec48 w = _
    simp [*, dec48, ↓Bool.cond_eq_ite]
  | viaddx | visubx | vimulx | viandx | viorx | vixorx | visllx | visrlx | visrax =>
    repeat' obtain ⟨hw, _⟩ := fieldAt_append.mp hw
    simp only [fieldAt_iff, Nat.reduceAdd] at *
    rw [decode, ‹fld w 0 7 = _›]
    show dec49 w = _
    simp [*, dec49, ↓Bool.cond_eq_ite]
  | _ => exact absurd h Bool.false_ne_true

theorem decode_encode_mask {i : Instr} (h : i.between 198 228 = true) : decode (encode i) = .ok i := by
  generalize hw : encode i = w
  replace hw := fieldAt_whole.mpr hw.symm
  cases i with
  | vcmp =>
    repeat' obtain ⟨hw, _⟩ := fieldAt_append.mp hw
    simp only [fieldAt_iff, Nat.reduceAdd] at *
    rw [decode, ‹fld w 0 7 = _›]
    show dec4A w = _
    simp [*, dec4A, ↓Bool.cond_eq_ite]
  | kand | kor | kxor | knot | kmov =>
    repeat' obtain ⟨hw, _⟩ := fieldAt_append.mp hw
    simp only [fieldAt_iff, Nat.reduceAdd] at *
    rw [decode, ‹fld w 0 7 = _›]
    show dec4A w = _
    simp [*, dec4A, ↓Bool.cond_eq_ite, fld_part w 28 3 1 4]
  | vperm | vslideup | vslidedn | vcompress | vmov | vbcast | vins | vext | kset | kpopc =>
    repeat' obtain ⟨hw, _⟩ := fieldAt_append.mp hw
    simp only [fieldAt_iff, Nat.reduceAdd] at *
    rw [decode, ‹fld w 0 7 = _›]
    show dec4B w = _
    simp [*, dec4B, ↓Bool.cond_eq_ite, fld_split_amount]
  | vcvt | vcvto | vplane | vunplane =>
    repeat' obtain ⟨hw, _⟩ := fieldAt_append.mp hw
    simp only [fieldAt_iff, Nat.reduceAdd] at *
    rw [decode, ‹fld w 0 7 = _›]
    show dec50 w = _
    simp [*, dec50, ↓Bool.cond_eq_ite]
  | fmt =>
    repeat' obtain ⟨hw, _⟩ := fieldAt_append.mp hw
    simp only [fieldAt_iff, Nat.reduceAdd] at *
    rw [decode, ‹fld w 0 7 = _›]
    show dec51 w = _
    simp [*, dec51]
  | vspdraw | vspuni | vspexp | vgumb | spdraw | spuni | spexp =>
    repeat' obtain ⟨hw, _⟩ := fieldAt_append.mp hw
    simp only [fieldAt_iff, Nat.reduceAdd] at *
    rw [decode, ‹fld w 0 7 = _›]
    show dec52 w = _
    simp [*, dec52, ↓Bool.cond_eq_ite]
  | digest | digestm =>
    repeat' obtain ⟨hw, _⟩ := fieldAt_append.mp hw
    simp only [fieldAt_iff, Nat.reduceAdd] at *
    rw [decode, ‹fld w 0 7 = _›]
    show dec53 w = _
    simp [*, dec53, ↓Bool.cond_eq_ite]
  | _ => exact absurd h Bool.false_ne_true

theorem decode_encode_matrix {i : Instr} (h : i.between 228 249 = true) : decode (encode i) = .ok i := by
  generalize hw : encode i = w
  replace hw := fieldAt_whole.mpr hw.symm
  cases i with
  | gangend =>
    repeat' obtain ⟨hw, _⟩ := fieldAt_append.mp hw
    simp only [fieldAt_iff, Nat.reduceAdd] at *
    rw [decode, ‹fld w 0 7 = _›]
    show dec16 w = _
    simp [*, dec16, ↓Bool.cond_eq_ite]
  | retire | sput =>
    repeat' obtain ⟨hw, _⟩ := fieldAt_append.mp hw
    simp only [fieldAt_iff, Nat.reduceAdd] at *
    rw [decode, ‹fld w 0 7 = _›]
    show dec17 w = _
    simp [*, dec17, ↓Bool.cond_eq_ite]
  | mma =>
    repeat' obtain ⟨hw, _⟩ := fieldAt_append.mp hw
    simp only [fieldAt_iff, Nat.reduceAdd] at *
    rw [decode, ‹fld w 0 7 = _›]
    show dec60 w = _
    simp [*, dec60]
  | accrd =>
    repeat' obtain ⟨hw, _⟩ := fieldAt_append.mp hw
    simp only [fieldAt_iff, Nat.reduceAdd] at *
    rw [decode, ‹fld w 0 7 = _›]
    show dec61 w = _
    simp [*, dec61, ↓Bool.cond_eq_ite]
  | acczero | accld | accst | accstat | accswp =>
    repeat' obtain ⟨hw, _⟩ := fieldAt_append.mp hw
    simp only [fieldAt_iff, Nat.reduceAdd] at *
    rw [decode, ‹fld w 0 7 = _›]
    show dec61 w = _
    simp [*, dec61, ↓Bool.cond_eq_ite, fld_part w 25 3 4 7]
  | tld | tst | tzero | tmov =>
    repeat' obtain ⟨hw, _⟩ := fieldAt_append.mp hw
    simp only [fieldAt_iff, Nat.reduceAdd] at *
    rw [decode, ‹fld w 0 7 = _›]
    show dec62 w = _
    simp [*, dec62, ↓Bool.cond_eq_ite]
  | ocmp =>
    repeat' obtain ⟨hw, _⟩ := fieldAt_append.mp hw
    simp only [fieldAt_iff, Nat.reduceAdd] at *
    rw [decode, ‹fld w 0 7 = _›]
    show dec68 w = _
    simp [*, dec68]
  | trap | tret | halt =>
    repeat' obtain ⟨hw, _⟩ := fieldAt_append.mp hw
    simp only [fieldAt_iff, Nat.reduceAdd] at *
    rw [decode, ‹fld w 0 7 = _›]
    show dec70 w = _
    simp [*, dec70, ↓Bool.cond_eq_ite]
  | csrw | csrs | csrc =>
    repeat' obtain ⟨hw, _⟩ := fieldAt_append.mp hw
    simp only [fieldAt_iff, Nat.reduceAdd] at *
    rw [decode, ‹fld w 0 7 = _›]
    show dec71 w = _
    simp [*, dec71, ↓Bool.cond_eq_ite]
  | _ => exact absurd h Bool.false_ne_true

theorem decode_encode_relation {i : Instr} (h : i.between 345 371 = true) (hl : Machine.legal i = true) : decode (encode i) = .ok i := by
  generalize hw : encode i = w
  replace hw := fieldAt_whole.mpr hw.symm
  cases i with
  | btpopr | btpopc | btclo | btcomp | bttr | btand | btor | btxor | btandn | btnot | btrowk | btcolk | btkrow | btkcol | btld | btst =>
    repeat' obtain ⟨hw, _⟩ := fieldAt_append.mp hw
    simp only [fieldAt_iff, Nat.reduceAdd] at *
    rw [decode, ‹fld w 0 7 = _›]
    show dec69 w = _
    simp [*, dec69, ↓Bool.cond_eq_ite]
  | sinit | rate | ratea | nextev | swrd | sclk =>
    repeat' obtain ⟨hw, _⟩ := fieldAt_append.mp hw
    simp only [fieldAt_iff, Nat.reduceAdd] at *
    rw [decode, ‹fld w 0 7 = _›]
    show dec6C w = _
    simp [*, dec6C, ↓Bool.cond_eq_ite]
  | binit | bdec | brecv =>
    repeat' obtain ⟨hw, _⟩ := fieldAt_append.mp hw
    simp only [fieldAt_iff, Nat.reduceAdd] at *
    rw [decode, ‹fld w 0 7 = _›]
    show dec6D w = _
    simp [*, dec6D, ↓Bool.cond_eq_ite]
  | hint =>
    repeat' obtain ⟨hw, _⟩ := fieldAt_append.mp hw
    simp only [fieldAt_iff, Nat.reduceAdd] at *
    rw [decode, ‹fld w 0 7 = _›]
    show dec7F w = _
    simp [*, dec7F, hint_ne_of_legal hl]
  | _ => exact absurd h Bool.false_ne_true

/-- Decoding the word of a legal instruction gives it back: by its place in the opcode table. -/
theorem decode_encode {i : Instr} (hl : Machine.legal i = true) (h0 : encode i ≠ 0#32) : decode (encode i) = .ok i := by
  rcases Nat.lt_or_ge i.ctorIdx 30 with h | h30
  · exact decode_encode_integer (Instr.between_of (Nat.zero_le _) h)
  rcases Nat.lt_or_ge i.ctorIdx 61 with h | h61
  · exact decode_encode_float (Instr.between_of h30 h)
  rcases Nat.lt_or_ge i.ctorIdx 85 with h | h85
  · exact decode_encode_control (Instr.between_of h61 h)
  rcases Nat.lt_or_ge i.ctorIdx 104 with h | h104
  · exact decode_encode_access (Instr.between_of h85 h)
  rcases Nat.lt_or_ge i.ctorIdx 126 with h | h126
  · exact decode_encode_atomic (Instr.between_of h104 h)
  rcases Nat.lt_or_ge i.ctorIdx 145 with h | h145
  · exact decode_encode_engine (Instr.between_of h126 h)
  rcases Nat.lt_or_ge i.ctorIdx 174 with h | h174
  · exact decode_encode_float_vector (Instr.between_of h145 h)
  rcases Nat.lt_or_ge i.ctorIdx 198 with h | h198
  · exact decode_encode_integer_vector (Instr.between_of h174 h)
  rcases Nat.lt_or_ge i.ctorIdx 228 with h | h228
  · exact decode_encode_mask (Instr.between_of h198 h)
  rcases Nat.lt_or_ge i.ctorIdx 249 with h | h249
  · exact decode_encode_matrix (Instr.between_of h228 h)
  rcases Nat.lt_or_ge i.ctorIdx 345 with h | h345
  · exact absurd (encode_event (Instr.between_of h249 h)) h0
  exact decode_encode_relation (Instr.between_of h345 i.ctorIdx_lt) hl

/-- Settles O59: decode_encode one way; the other way because each branch of each decoder is sound (decode_sound). -/
theorem decodingMatchesEncoding : Obligations.DecodingMatchesEncoding := by
  unfold Obligations.DecodingMatchesEncoding
  exact ⟨fun _ => decode_encode, fun w => (decode_sound w).encode_eq⟩

end Sys2Proof
end

section
/-! PROOF. Memory as a list of cells (R2), the state after reset, and words written out from the tables. -/

namespace Sys2Proof.Machine

set_option Elab.async false

/-- The byte read at a key inside the n bytes written. -/
theorem Mem.get_write_inside {m : Mem} (h : m.wf = true) (a n v : Nat) {i : Nat} (hi : i < n) :
    ((m.write a n v).get (a + i)).toNat = v / 2 ^ (8 * i) % 256 := by
  induction n generalizing m a v i with
  | zero => omega
  | succ n ih =>
    have hset := Mem.wf_set h a (BitVec.ofNat 8 v)
    rw [Mem.write]
    cases i with
    | zero =>
      have hb : (Mem.write (m.set a (BitVec.ofNat 8 v)) (a + 1) n (v / 256)).get (a + 0) = BitVec.ofNat 8 v := by
        rw [Mem.get_write_other hset _ _ _ _ (.inl (by omega)), Mem.get_set h, if_pos (Nat.add_zero a)]
      exact (congrArg BitVec.toNat hb).trans (by simp)
    | succ i =>
      have hb := ih hset (a + 1) (v / 256) (i := i) (by omega)
      rw [show a + (i + 1) = a + 1 + i by omega, hb, Nat.div_div_eq_div_mul, ← show 2 ^ 8 = 256 from rfl, ← pow_add,
        show 8 + 8 * i = 8 * (i + 1) by omega]

/-- Two lists in the form above a bound that agree at every key are one list: the first cell of either is not zero. -/
theorem Mem.eq_of_get_eq {m l : Mem} {lo : Nat} (hm : Mem.above lo m = true) (hl : Mem.above lo l = true)
    (h : ∀ b, l.get b = m.get b) : l = m := by
  induction m generalizing l lo with
  | nil =>
    cases l with
    | nil => rfl
    | cons c l =>
      simp only [Mem.above, Bool.and_eq_true, bne_iff_ne] at hl
      have hc := h c.1
      simp only [Mem.get, Nat.lt_irrefl, if_false, if_true] at hc
      exact absurd hc hl.1.2
  | cons d m ih =>
    simp only [Mem.above, Bool.and_eq_true, decide_eq_true_eq, bne_iff_ne] at hm
    cases l with
    | nil =>
      have hd := h d.1
      simp only [Mem.get, Nat.lt_irrefl, if_false, if_true] at hd
      exact absurd hd.symm hm.1.2
    | cons c l =>
      simp only [Mem.above, Bool.and_eq_true, decide_eq_true_eq, bne_iff_ne] at hl
      obtain ⟨⟨-, hc0⟩, hla⟩ := hl
      obtain ⟨⟨-, hd0⟩, hma⟩ := hm
      have hc := h c.1
      have hd := h d.1
      have hkey : c.1 = d.1 := by
        rcases Nat.lt_trichotomy c.1 d.1 with hlt | heq | hgt
        · simp only [Mem.get, Nat.lt_irrefl, if_false, if_true, if_pos hlt] at hc
          exact absurd hc hc0
        · exact heq
        · simp only [Mem.get, Nat.lt_irrefl, if_false, if_true, if_pos hgt] at hd
          exact absurd hd.symm hd0
      have hval : c.2 = d.2 := by simpa [Mem.get, hkey] using hc
      obtain rfl : c = d := Prod.ext hkey hval
      rw [ih hma hla fun b => ?_]
      rcases Nat.lt_or_ge b (c.1 + 1) with hb | hb
      · rw [Mem.get_above hla hb, Mem.get_above hma hb]
      · have hcb := h b
        rwa [Mem.get, Mem.get, if_neg (by omega), if_neg (by omega), if_neg (by omega), if_neg (by omega)] at hcb

/-- Settles O57. -/
theorem memoryReadsBack : Obligations.MemoryReadsBack := by
  unfold Obligations.MemoryReadsBack
  intro m a n v h
  refine ⟨?_, fun i hi => Mem.get_write_inside h a n v hi, fun b hb => Mem.get_write_other h a n v b hb, Mem.wf_write h a n v,
    fun l hl hget => Mem.eq_of_get_eq h hl hget⟩
  rw [Mem.read_write h, pow_mul, show 2 ^ 8 = 256 from rfl]

/-- Settles O55: every unit of a kind is one replicated value. -/
theorem resetValues : Obligations.ResetValues := by
  unfold Obligations.ResetValues
  refine ⟨rfl, rfl, rfl, rfl, rfl, rfl, rfl, fun p => ?_, fun h i => ?_, fun c => ?_, fun k => ?_, rfl, rfl, rfl, rfl⟩
  · refine ⟨?_, ?_, ?_, ?_, ?_, ?_, ?_, ?_, fun q => ?_, fun d => ?_⟩ <;> simp [State.reset, Part.reset, LQueue.reset]
  · simp [State.reset, Frond.reset]
  · simp [State.reset, CoreSt.reset]
  · simp [State.reset, Port.reset]

/-- Settles O58. -/
theorem decodedWords : Obligations.DecodedWords := by
  unfold Obligations.DecodedWords
  decide +kernel

end Sys2Proof.Machine
end

section
/-! PROOF. An input event is run only where it is enabled: ageing a firing that may not issue is passed over. -/

namespace Sys2Proof.Machine

/-- PRIORITY_AGE of a firing that does not exist. -/
def ageNobody : Ev := { Ev.blank with op := .priorityAge }

/-- The machine after reset with that event as its only input. -/
def agedFromOutside : State := { State.reset with inbox := [.event ageNobody] }

theorem not_mayAge_of_empty {s : State} (hl : s.fir.live = false) (ho : s.others = []) (hg : s.gangs = []) (n : Nat) :
    s.mayAge n = false := by
  simp [State.mayAge, State.firing?, State.gangsReady, hl, ho, hg]

/-- The step passes the event over: it does not become the event in hand. -/
theorem step_agedFromOutside : step agedFromOutside = .next { agedFromOutside with inbox := [] } := by
  have hm : State.mayAge { agedFromOutside with inbox := [] } ageNobody.a = false := not_mayAge_of_empty rfl rfl rfl _
  simp only [step, State.advanceOne, agedFromOutside, State.input, show ageNobody.op = .priorityAge from rfl] at hm ⊢
  rw [if_pos (by simp [hm])]

/-- Refutes O60: an input PRIORITY_AGE that names no firing that may issue is dropped by the step, while executing it puts it in hand. -/
theorem not_stepRunsDecoded : ¬ Obligations.StepRunsDecoded := by
  unfold Obligations.StepRunsDecoded
  rintro ⟨-, -, -, -, hinput, -⟩
  have h := hinput agedFromOutside ageNobody [] rfl rfl
  rw [step_agedFromOutside] at h
  have hop := congrArg (fun o => match o with | .next t => t.ev.op | _ => .tret) h
  exact absurd hop (by decide)

end Sys2Proof.Machine
end

section
/-! SUPPORT. Small states that the refutations are about. -/

namespace Sys2Proof.Machine

/-- A running firing of the compute core of frond 0 with a whole core's registers. -/
def loneFiring : Firing :=
  { Firing.blank with
    live := true, adm := 1, core := 1, pc := 0x40000000
    dem := { xregs := 64, vregs := 32, tiles := 8, accs := 4, btiles := 8, spad := 4096 } }

/-- The machine after reset with a firing in it. -/
def withFiring (f : Firing) : State := { State.reset with fir := f, next := 2 }

/-- State.Issues as a test. -/
def State.issuesB (s : State) (i : Instr) : Bool :=
  s.fir.active && !s.fir.fpend && legal i && !stageIll s.fir (opsOf i) && (s.fir.outside (opsOf i)).isNone

theorem State.issuesB_iff (s : State) (i : Instr) : s.issuesB i = true ↔ s.Issues i := by
  simp [State.issuesB, State.Issues, and_assoc]

/-- The state an outcome goes on to, if it goes on. -/
def nextOf : Host.Outcome State Fault Refusal → Option State
  | .next t => some t
  | _ => none

end Sys2Proof.Machine
end

section
/-! PROOF. The end of a REP frame forgets the words it has fetched. -/

namespace Sys2Proof.Machine

set_option Elab.async false

/-- A firing at the only instruction of the only pass of a frame, its word kept. -/
def lastOfFrame : Firing := { loneFiring with fstat := setBit 0 23 true, repbuf := [(0x40000000, 0)] }

theorem lastOfFrame_issues : (withFiring lastOfFrame).Issues (.add 1 0 0) := (State.issuesB_iff _ _).mp (by decide +kernel)

theorem intOp_issues {i : Instr} {d : BitVec 6} {g : State → Word} {s : State} (h : s.Issues i) :
    intOp i d g s = .next ((s.wx d (g s)).upd Firing.advance) := plain_issues h

/-- Refutes O4: an ADD that ends a frame empties repbuf, which is no scalar register and no flag (sameBeside keeps it). -/
theorem not_scalarFrame : ¬ Obligations.ScalarFrame := by
  unfold Obligations.ScalarFrame
  rintro ⟨-, hframe⟩
  have he := (exec_add 1 0 0 _).trans (intOp_issues lastOfFrame_issues)
  obtain ⟨-, ⟨hsame, -⟩, -⟩ := hframe _ _ _ 1 lastOfFrame_issues rfl he rfl
  have hbuf := congrArg Firing.repbuf hsame
  exact absurd hbuf (by decide +kernel)

end Sys2Proof.Machine
end

section
/-! PROOF. In its second run a team under CHECK steals with a seed of its own (R342). -/

namespace Sys2Proof.Machine

set_option Elab.async false

/-- A team of firings with team id 0: its flags (dword 3), its dword 12 and its CHECK run. -/
def smallTeam (flags d12 : Word) (run : Nat) : Team :=
  { id := 1, tid := 0, part := 0, queue := 0, recd := [0, 0, 0, flags, 0, 0, 0, 0, 0, 0, 0, 0, d12], seq := 0, ready := true, placed := 1, retired := 0
    phase0 := 0, arrived0 := 0, lastOff := none, fronds := [0], again := [], held := false, heldDie := none, saved := 0, draining := false
    fireNext := 0, commitNext := 0, uncommitted := [], cons0 := [], prod0 := [], checkRun := run, blocks1 := [], seqs := [], owed := [] }

/-- The firing of a team in its second run, in a partition of frond 0 whose draw 0 names its own core under STEALSEED. -/
def secondRunSteals : State :=
  { withFiring loneFiring with
    teams := [smallTeam 0x10000000 0 1]
    parts := State.reset.parts.set 0 { Part.reset with stealseed := 1, pint := 0x100000000 } }

theorem secondRunSteals_issues : secondRunSteals.Issues (.dqsteal 10 0) := (State.issuesB_iff _ _).mp (by decide +kernel)

theorem secondRunSteals_drawn : stealVictim secondRunSteals.part secondRunSteals.fir.part.val secondRunSteals.fir.core.val (secondRunSteals.rx 0) = secondRunSteals.fir.core.val := by
  decide +kernel

theorem secondRunSteals_asks : (nextOf (exec (.dqsteal 10 0) secondRunSteals)).map (fun t => t.agenda.length) = some 1 := by decide +kernel

/-- Refutes O30: the draw under STEALSEED names the stealer, but in its second run the team draws under another seed and asks a victim. -/
theorem not_deques : ¬ Obligations.Deques := by
  unfold Obligations.Deques
  intro h
  obtain ⟨-, -, hsteal, -⟩ := h secondRunSteals 10 0 rfl (by decide)
  obtain ⟨hself, -⟩ := hsteal secondRunSteals_issues rfl
  have hexec := hself secondRunSteals_drawn
  have hlen := secondRunSteals_asks
  rw [hexec] at hlen
  exact absurd hlen (by decide)

end Sys2Proof.Machine
end

section
/-! PROOF. Two firings under one admission number: an effect on each that looks at the firing itself is not the effect on the first. -/

namespace Sys2Proof.Machine

set_option Elab.async false

/-- No acting firing; the two firings share the admission number 1 that the event in hand names. -/
def twinned (f g : Firing) (e : Ev) : State := { State.reset with others := [f, g], ev := { e with a := 1 } }

/-- A firing that waits for an answer. -/
def answerAwaited : Firing := { loneFiring with wait := some .answer }

/-- Refutes O51: two firings have the number of the grant and only the first waits; the grant reaches the first alone. -/
theorem not_remoteAnswers : ¬ Obligations.RemoteAnswers := by
  unfold Obligations.RemoteAnswers
  intro h
  let s := twinned answerAwaited loneFiring Ev.blank
  obtain ⟨-, -, -, -, hgrant, -⟩ := h s answerAwaited
  obtain ⟨harrive, -⟩ := hgrant (by decide +kernel) rfl
  have hexec := harrive rfl rfl
  have hsecond := congrArg (fun o => (nextOf o).map fun t => t.others.map Firing.granted) hexec
  exact absurd hsecond (by decide +kernel)

/-- A firing whose report queue is full. -/
def reportsFull : Firing := { loneFiring with reports := List.replicate 16 { tc := 0, val := 0, own := false } }

/-- A message that says nothing; the refusal does not depend on it. -/
def noMessage : Message :=
  { srcPkg := 0, srcCore := 0, srcPart := 0, adm := 0, core := 0, header := 0, payload := [], team := none, me := 0, told := false, hand := false }

/-- Refutes O47: two firings have the number of the refused sender and the second has no room for a report; it gets none. -/
theorem not_messageDispatch : ¬ Obligations.MessageDispatch := by
  unfold Obligations.MessageDispatch
  intro h
  let s := twinned loneFiring reportsFull Ev.blank
  obtain ⟨-, hrefused, -⟩ := h s 0 noMessage
  obtain ⟨hroom, -⟩ := hrefused loneFiring (by decide +kernel)
  have hsecond := congrArg (fun o => (nextOf o).map fun t => t.others.map fun g => g.reports.length) (hroom (by decide))
  exact absurd hsecond (by decide +kernel)

end Sys2Proof.Machine
end

section
/-! PROOF. Members whose REPI of a frame gone by differ stand at no common place, and a step of their gang runs none of them. -/

namespace Sys2Proof.Machine

set_option Elab.async false

/-- One page of every right over the whole address space, each address at itself. -/
def wholePage : Tlb := { part := 0, va := 0, size := 2 ^ 57, pte := 0x34E, pteKey := 0 }

/-- A machine whose first die has that page in its TLB. -/
def mapped (s : State) : State := s.onDie 0 fun x => { x with tlb := [wholePage] }

/-- Through that page a word outside a frame is fetched as memory and the firing's code have it. -/
theorem wordAt_of_wholePage {s : State} {pc : Word} {w : Nat} (hrep : s.fir.repact = false) (hpart : s.fir.part = 0)
    (htlb : s.dies[s.fir.die].tlb = [wholePage]) (hkey : bits s.part.pcfg 39 32 = 0) (hhi : bits pc 63 57 = 0) (hap : bits pc 56 48 ≠ 0x1FF)
    (hpc : pc.toNat < 2 ^ 57) (hcode : s.fir.code.read pc.toNat 4 = w) (hmem : (s.released s.fir.frond).read pc.toNat 4 = w) :
    s.wordAt pc = .ok (s, BitVec.ofNat 32 w) := by
  have hlt : pc.toNat < 144115188075855872 := hpc
  have hleaf : s.translate 0 s.fir.die pc.toNat false = some (s, { pte := 0x34E, key := 0, va := 0, size := 2 ^ 57 }) := by
    rw [State.translate, htlb]
    simp [wholePage, hlt]
  have hplace : s.leafPlace 0 { pte := 0x34E, key := 0, va := 0, size := 2 ^ 57 } pc.toNat = .ok (.dev pc.toNat) := by
    simp only [State.leafPlace, Leaf.pa]
    rw [show bits (0x34E : Word) 11 10 = 0 from by decide, show bits (0x34E : Word) 55 16 = 0 from by decide]
    simp [Nat.mod_eq_of_lt hlt]
  have hfetch : s.fetchWord pc = .ok (s, BitVec.ofNat 32 w) := by
    simp only [State.fetchWord, hhi, hpart, hleaf, hplace, hkey, State.codeAt, hcode, hmem]
    rw [show bit (0x34E : Word) 3 = true from by decide, show bits (0x34E : Word) 63 56 = 0 from by decide]
    simp [hap]
  simp [State.wordAt, hrep, hfetch]

/-- ADD x1, x0, x0. -/
def addWord : BitVec 32 := encode (.add 1 0 0)

/-- Memory that holds that word at 0x40000000. -/
def addCode : Mem := Mem.write [] 0x40000000 4 addWord.toNat

/-- A firing at that word. -/
def memberFiring : Firing := { loneFiring with code := addCode }

/-- A member outside a frame whose REPI is not 0. -/
def staleMember : Firing := { memberFiring with adm := 2, core := 3, fstat := 0x80000 }

/-- The two as a gang, noted at a place where neither stands. -/
def lateGang : Gang := { members := [1, 2], pc := 0x40000000, i := 5, j := 0, before := [], undo := [], steps := false }

def staleGang : State := mapped { withFiring memberFiring with others := [staleMember], gangs := [lateGang], mem := addCode }

theorem staleGang_wordAt (t : State) (ht : t = { staleGang.focus 1 with gangs := t.gangs }) : t.wordAt 0x40000000 = .ok (t, addWord) := by
  have hread : addCode.read (0x40000000 : Word).toNat 4 = addWord.toNat := by decide +kernel
  have hmem : (staleGang.released staleGang.fir.frond).read (0x40000000 : Word).toNat 4 = addWord.toNat := by decide +kernel
  have hrep : staleGang.fir.repact = false := by decide +kernel
  have hpart : staleGang.fir.part = 0 := by decide +kernel
  have htlb : staleGang.dies[staleGang.fir.die].tlb = [wholePage] := by decide +kernel
  have hkey : bits staleGang.part.pcfg 39 32 = 0 := by decide +kernel
  have hw := wordAt_of_wholePage (s := { staleGang with gangs := t.gangs }) (pc := 0x40000000) hrep hpart htlb hkey (by decide) (by decide)
    (by decide) hread hmem
  rw [BitVec.ofNat_toNat, BitVec.setWidth_eq] at hw
  rw [ht]
  exact hw

/-- No member moves. -/
theorem staleGang_stays : ((staleGang.gangStep lateGang).firing? 1).map Firing.pc = some 0x40000000 := by decide +kernel

/-- What a member must be for the step to be due. -/
def memberReady (f : Firing) (i : Instr) : Bool :=
  f.pc == 0x40000000 && f.wait == none && !f.repact && f.active && !f.fpend && !stageIll f (opsOf i) && f.outside (opsOf i) == none && (intResult f i).isSome

/-- Refutes O23: two members at one instruction outside any frame differ in REPI, so that no member is taken to stand at it and neither executes. -/
theorem not_gangs : ¬ Obligations.Gangs := by
  unfold Obligations.Gangs
  rintro ⟨-, hstep, -⟩
  have hmembers : ∀ m ∈ lateGang.members, ∃ f, staleGang.firing? m = some f ∧ memberReady f (.add 1 0 0) = true := by
    simp only [lateGang, List.mem_cons, List.not_mem_nil, or_false, forall_eq_or_imp, forall_eq]
    exact ⟨⟨_, rfl, by decide +kernel⟩, ⟨_, rfl, by decide +kernel⟩⟩
  obtain ⟨hruns, -⟩ := hstep staleGang lateGang 1 [2] (.add 1 0 0) addWord 0x40000000 (List.mem_singleton_self _) rfl (by decide) (by decide +kernel) (by decide +kernel)
    staleGang_wordAt (fun m hm => by simpa [memberReady, and_assoc] using hmembers m hm) (by decide +kernel)
  have hfirst := hruns 1 (by decide) memberFiring 1 _ rfl rfl
  have hpc := staleGang_stays
  rw [hfirst] at hpc
  exact absurd hpc (by decide +kernel)

end Sys2Proof.Machine
end

section
/-! PROOF. A TLB entry that leads to the keys of package shared memory: what is stored in a stream header there is not read back (R83). -/

namespace Sys2Proof.Machine

set_option Elab.async false

/-- Through that page an access the firing's own range locks let pass reaches the key that is its address. -/
theorem access_of_wholePage {s : State} {ac : Acc} {a n al : Nat} (hpart : s.fir.part = 0) (htlb : s.dies[s.fir.die].tlb = [wholePage])
    (hkey : bits s.part.pcfg 39 32 = 0) (hap : a / 2 ^ 48 ≠ 0x1FF) (ha : a < 2 ^ 57) (hal : a % al = 0) (hlocks : s.fr.locks = []) :
    s.access ac a n al = .ok (s, .dev a) := by
  have hlt : a < 144115188075855872 := ha
  have hleaf : s.translate 0 s.fir.die a ac.wr = some (s, { pte := 0x34E, key := 0, va := 0, size := 2 ^ 57 }) := by
    rw [State.translate, htlb]
    simp [wholePage, hlt, show bit (846#64) 6 = true from by decide]
  have hplace : s.leafPlace 0 { pte := 0x34E, key := 0, va := 0, size := 2 ^ 57 } a = .ok (.dev a) := by
    simp only [State.leafPlace, Leaf.pa]
    rw [show bits (0x34E : Word) 11 10 = 0 from by decide, show bits (0x34E : Word) 55 16 = 0 from by decide]
    simp [Nat.mod_eq_of_lt hlt]
  have hresolve : s.resolve ac a n = .ok (s, .dev a) := by
    simp only [State.resolve, if_neg hap, hpart, hleaf, hplace, hkey]
    rw [show bits (0x34E : Word) 11 10 = 0 from by decide, show bits (0x34E : Word) 63 56 = 0 from by decide]
    simp [Except.map, show bit (846#64) 1 = true from by decide, show bit (846#64) 2 = true from by decide, show bit (846#64) 8 = true from by decide,
      show bit (846#64) 9 = true from by decide]
  have hreach : s.reach ac a n al = .ok (s, .dev a) := by
    have ha' : (a : Int) < 144115188075855872 := by exact_mod_cast hlt
    have hal' : (a : Int) % (al : Int) = 0 := by exact_mod_cast hal
    simp [State.reach, hresolve, hal', not_le.mpr ha']
  rw [State.access, hreach]
  simp [hlocks, lockHit, bind, Except.bind]

/-- A firing with 2^54 + 8, the PROD counter of a stream header at offset 0 of shared memory, in x2 and 5 in x3; lane 0 of v1 holds 5, and k1 names lane 0. -/
def headerFiring : Firing :=
  { loneFiring with
    x := (loneFiring.x.set 2 0x40000000000008).set 3 5
    v := loneFiring.v.set 1 5
    k := loneFiring.k.set 1 1 }

/-- That firing, beside a placed actor whose slot 0 declares the stream header. -/
def headerState : State := mapped { withFiring headerFiring with teams := [smallTeam 0x40000000 0x80000000 0] }

theorem headerState_reaches :
    headerState.dies[headerState.fir.die].tlb = [wholePage] ∧ bits headerState.part.pcfg 39 32 = 0 ∧ headerState.fr.locks = [] := by
  decide +kernel

theorem headerState_access {ac : Acc} {n al : Nat} (hal : 0x40000000000008 % al = 0) :
    headerState.access ac (0x40000000000008 : Nat) n al = .ok (headerState, .dev 0x40000000000008) :=
  have ⟨htlb, hkey, hlocks⟩ := headerState_reaches
  access_of_wholePage rfl htlb hkey (by decide) (by decide) hal hlocks

theorem headerState_near (n : Nat) (hn : n ∈ [4, 8]) : headerState.near true n (.dev 0x40000000000008) = true := by
  simp only [List.mem_cons, List.not_mem_nil, or_false] at hn
  rcases hn with rfl | rfl <;> decide +kernel

/-- The word at the header's PROD after an instruction of that firing. -/
def prodAfter (i : Instr) : Option Nat := (nextOf (exec i headerState)).map fun t => t.mem.read 0x40000000000008 8

/-- Refutes O13: STFE.sf of 5 to a place where near finds no stream header, though the key is one's: its counter stays 0. -/
theorem not_fullEmpty : ¬ Obligations.FullEmpty := by
  unfold Obligations.FullEmpty
  intro h
  obtain ⟨-, hstore⟩ := h headerState headerState 2 3 0 (.dev 0x40000000000008) (headerState_near 8 (by decide)) rfl (by decide +kernel)
  obtain ⟨v, hexec, hgoes, -⟩ := hstore .sf ((State.issuesB_iff _ _).mp (by decide +kernel)) (headerState_access (by decide))
  obtain ⟨-, hread, -⟩ := hgoes _ (.inl rfl) (.inl ⟨by decide +kernel, rfl⟩) (by decide +kernel)
  have hprod : prodAfter (.stfe .sf 2 0 3) = some 0 := by decide +kernel
  rw [prodAfter, hexec] at hprod
  exact absurd ((Option.some.inj hprod).symm.trans hread) (by decide +kernel)

theorem headerState_banksFree : headerState.banksFree := by
  have h : headerState.busyTags headerState.fir.core = [] ∧ headerState.loggedTeam headerState.fir = none ∧ headerState.fir.live = true ∧ headerState.fr.locks = [] ∧
    headerState.filt = [] := by decide +kernel
  obtain ⟨hbusy, hlog, hlive, hlocks, hfilt⟩ := h
  exact ⟨hbusy, hlog, hlive, by simp [hlocks], by simp [hfilt]⟩

/-- Refutes O19: AMOADD of 5 at the same place leaves the counter 0. -/
theorem not_atomicOperations : ¬ Obligations.AtomicOperations := by
  unfold Obligations.AtomicOperations
  rintro ⟨hatomic, -⟩
  obtain ⟨hint, -⟩ := hatomic headerState headerState (.amoadd .d 4 2 3) 2 (.dev 0x40000000000008) rfl ((State.issuesB_iff _ _).mp (by decide +kernel)) headerState_banksFree
  obtain ⟨v, hexec, -, hdone⟩ := hint .d 4 3 _ rfl (headerState_access (by decide)) (headerState_near 8 (by decide))
  obtain ⟨hread, -⟩ := hdone (by decide)
  have hprod : prodAfter (.amoadd .d 4 2 3) = some 0 := by decide +kernel
  rw [prodAfter, hexec] at hprod
  exact absurd ((Option.some.inj hprod).symm.trans hread) (by decide +kernel)

theorem headerState_lane :
    headerState.lanePlaces 4
      (fun s l => s.access .cells ((s.rx ((2 : BitVec 5).setWidth 6)).toNat + intOf true 32 (elem (s.fir.rv 0) 32 l) * (4 : Nat)) (BankOp.amo 0 4).size (BankOp.amo 0 4).size)
      (activeLanes (headerState.fir.rk 1) 4) = .ok (headerState, [(0, .dev 0x40000000000008)], none) := by
  have hlanes : activeLanes (headerState.fir.rk 1) 4 = [0] := by decide +kernel
  have haddr : (headerState.rx ((2 : BitVec 5).setWidth 6)).toNat + intOf true 32 (elem (headerState.fir.rv 0) 32 0) * (4 : Nat) = ((0x40000000000008 : Nat) : Int) := by decide +kernel
  rw [hlanes]
  simp only [State.lanePlaces, State.upTo, haddr, headerState_access (al := (BankOp.amo 0 4).size) (by decide)]
  rfl

/-- Refutes O20: a lane of VAMOADD that adds 5 there leaves the counter 0. -/
theorem not_vectorBanks : ¬ Obligations.VectorBanks := by
  unfold Obligations.VectorBanks
  intro h
  obtain ⟨hlane, -⟩ := h headerState headerState [(0, .dev 0x40000000000008)] headerState_banksFree (by decide +kernel) rfl
  obtain ⟨v, hexec, -, -, es, hes, -, -, hmem, -⟩ := hlane (.vamoadd .i32 2 0 1 1) (.amo 0 4) 4 2 0 1 1 rfl ((State.issuesB_iff _ _).mp (by decide +kernel)) headerState_lane
    (List.forall_mem_singleton.mpr (headerState_near 4 (by decide))) Nat.zero_lt_two
  have hprod : (nextOf (exec (.vamoadd .i32 2 0 1 1) headerState)).map (fun t => (runEvents t.agenda t).mem.read 0x40000000000008 8) = some 0 := by decide +kernel
  have hagenda : v.agenda = es := hes.trans (List.nil_append es)
  rw [hexec, nextOf, Option.map_some, hagenda, hmem] at hprod
  exact absurd hprod (by decide +kernel)

end Sys2Proof.Machine
end

section
/-! PROOF. The same place reached by logical index. -/

namespace Sys2Proof.Machine

set_option Elab.async false

/-- The descriptor of one element of 8 bytes, which lies at that header's PROD in this package. -/
def headerShard : ShardCache := { part := 0, handle := 0, desc := [0x30], place := [(0, 0, 0x40000000000008)] }

/-- The same machine with that descriptor in the first die's copy. -/
def shardState : State :=
  { headerState.onDie 0 fun x => { x with shards := [headerShard] } with parts := headerState.parts.set 0 { Part.reset with shtlen := 1 } }

/-- The element of handle 0. -/
def headerElem : Elem := { lin := 0, owner := 0, addr := 0x40000000000008, shard := 0 }

/-- The state in which the element has been found, if it is found. -/
def shardFound : Option (State × Elem) :=
  match shardState.locate (shardState.rx 0) (shardState.rx 0).toNat 8 with
  | .ok x => some x
  | .error _ => none

/-- What the store needs of that state. -/
def headerReady (r : State) : Bool :=
  r.fir.part == 0 && r.dies[r.fir.die].tlb == [wholePage] && bits r.part.pcfg 39 32 == 0 && r.fr.locks == [] && r.retry == [] && r.dev.pkg == 0 &&
    (r.loggedTeam r.fir).isNone && r.near true 8 (.dev 0x40000000000008)

theorem shardFound_ready : (shardFound.map fun x => (headerReady x.1, x.2)) = some (true, headerElem) := by decide +kernel

theorem shardState_locate : ∃ r, shardState.locate (shardState.rx 0) (shardState.rx 0).toNat 8 = .ok (r, headerElem) ∧ headerReady r = true := by
  have h := shardFound_ready
  unfold shardFound at h
  split at h
  case h_1 x hx => exact ⟨x.1, by rw [hx, ← (Prod.mk.inj (Option.some.inj h)).2], (Prod.mk.inj (Option.some.inj h)).1⟩
  case h_2 => cases h

/-- Refutes O17: STT.sf of 5 to that element leaves the counter 0. -/
theorem not_shardedAccesses : ¬ Obligations.ShardedAccesses := by
  unfold Obligations.ShardedAccesses
  rintro ⟨hscalar, -⟩
  obtain ⟨r, hlocate, hready⟩ := shardState_locate
  simp only [headerReady, Bool.and_eq_true, beq_iff_eq, Option.isNone_iff_eq_none] at hready
  obtain ⟨⟨⟨⟨⟨⟨⟨hpart, htlb⟩, hkey⟩, hlocks⟩, hretry⟩, hpkg⟩, hlog⟩, hnear⟩ := hready
  have hplace : r.elemPlace stfeAcc true 8 headerElem = .ok (r, .dev 0x40000000000008) := by
    rw [State.elemPlace, if_pos (by rw [hpkg]; rfl), show (headerElem.addr : Int) = ((0x40000000000008 : Nat) : Int) from rfl,
      access_of_wholePage hpart htlb hkey (by decide) (by decide) (by decide) hlocks]
  obtain ⟨-, hstore⟩ := hscalar shardState r r (r.useKey 0x40000000000008) .plain .sf .i64 3 0 0 headerElem (.dev 0x40000000000008) hlocate (by decide +kernel)
    (by simp [hretry])
  obtain ⟨v, hexec, -, -, hread, -⟩ := hstore ((State.issuesB_iff _ _).mp (by decide +kernel)) hnear (by simp)
    (fun _ => ⟨.inl ⟨hlog, rfl⟩, hplace, .inl rfl, by simp [hretry]⟩)
  have hprod : (nextOf (exec (.stt .sf .i64 0 0 3) shardState)).map (fun t => t.mem.read 0x40000000000008 8) = some 0 := by decide +kernel
  rw [hexec] at hprod
  exact absurd ((Option.some.inj hprod).symm.trans (hread (by simp)).1) (by decide +kernel)

end Sys2Proof.Machine
end

section
/-! PROOF. A completion word in the line of a stream header of an actor in flight is written as any store is: the header's counters stay (R83). -/

namespace Sys2Proof.Machine

set_option Elab.async false

theorem Mem.read_congr {m l : Mem} {a n : Nat} (h : ∀ x, a ≤ x → x < a + n → m.get x = l.get x) : m.read a n = l.read a n := by
  induction n generalizing a with
  | zero => rfl
  | succ n ih => rw [Mem.read, Mem.read, h a (Nat.le_refl a) (by omega), ih fun x hx hlt => h x (by omega) (by omega)]

theorem writeDwords_get_other {m : Mem} (h : m.wf = true) {a x : Nat} (ws : List Word) (hx : x < a ∨ a + 8 * ws.length ≤ x) :
    (writeDwords m a ws).get x = m.get x := by
  induction ws generalizing m a with
  | nil => rfl
  | cons w ws ih =>
    rw [List.length_cons] at hx
    rw [writeDwords, ih (Mem.wf_write h a 8 w.toNat) (by omega), Mem.get_write_other h a 8 w.toNat x (by omega)]

/-- A record in the ring reaches no byte past its slot. -/
theorem ringPut_read_above {s : State} (h : s.mem.wf = true) {p : Fin 16} {recd : List Word} {a n : Nat}
    (ha : s.parts[p].trbase.toNat + 64 * (bits s.parts[p].trtail 31 0 % 2 ^ s.parts[p].trlog2.toNat) + 8 * recd.length ≤ a) :
    (s.ringPut p recd).mem.read a n = s.mem.read a n :=
  Mem.read_congr fun x hx _ => writeDwords_get_other h recd (.inr (by omega))

/-- A team of one firing whose completion word lies at offset 8 of shared memory; as an actor it declares a stream header at offset 0. -/
def headedTeam (flags : Word) : Team :=
  { smallTeam flags 0 0 with
    recd := [0, 0x40000200001, 0, flags, 0, 0, 0, 0, 0x1FF200000000008, 0, 0, 0, 0x80000000, 0, 0, 0], retired := 1 }

/-- Frond 0 and 4 KiB of shared memory are partition 0's, and these are the teams. -/
def teamsState (ts : List Team) (f : Firing) (others : List Firing) : State :=
  { withFiring f with teams := ts, others := others, parts := State.reset.parts.set 0 { Part.reset with shmlen := 0x1000, pint := 0x100000000 } }

/-- The word there after an instruction. -/
def doneAfter (i : Instr) (s : State) : Option Nat := (nextOf (exec i s)).map fun t => t.mem.read (shmKey 8) 8

/-- Another actor, whose stream header is there. -/
def headerOwner : Team := { headedTeam 0x40000000 with id := 2, tid := 1 }

/-! ## A team that completes, and one that is killed, beside the actor -/

def completing : State := { teamsState [headedTeam 0, headerOwner] Firing.blank [] with ev := { Ev.blank with op := .teamComplete, a := 1 } }

/-- Refutes O46: the completion word of a team lies in another actor's stream header and is not what it says. -/
theorem not_launchAndPlacement : ¬ Obligations.LaunchAndPlacement := by
  unfold Obligations.LaunchAndPlacement
  rintro ⟨-, hteam, -⟩
  obtain ⟨-, -, hcomplete⟩ := hteam completing (headedTeam 0) (by decide +kernel) (by decide) (by decide) (by decide)
  have hnobody : completing.firings = [] := by decide +kernel
  obtain ⟨hplain, -⟩ := hcomplete rfl (by decide) rfl rfl rfl (by simp [hnobody]) (by decide) (by decide) rfl
  obtain ⟨v, hexec, -, -, hword⟩ := hplain (by decide)
  obtain ⟨hread, -⟩ := hword completing (shmKey 8) rfl (by simp [completing, teamsState, withFiring, State.reset]) rfl
  have hdone : doneAfter .teamComplete completing = some 0 := by decide +kernel
  rw [doneAfter, hexec] at hdone
  exact absurd ((Option.some.inj hdone).symm.trans hread) (by decide)

/-- The firing of a team, stopped for the supervisor. -/
def stoppedFiring : Firing := { loneFiring with run := .stopped (some 0) [] }

def killed : State := { teamsState [headedTeam 0, headerOwner] stoppedFiring [] with ev := { Ev.blank with op := .fcmdKill } }

theorem killed_firings : killed.firings = [stoppedFiring] := by decide +kernel

theorem killed_stoppedOnly : killed.stoppedOnly stoppedFiring 0 := by
  refine ⟨⟨_, rfl⟩, by decide +kernel, rfl, by decide +kernel, ?_⟩
  simp [killed_firings]

theorem killed_unbound : killed.unbound stoppedFiring := by
  refine ⟨rfl, rfl, rfl, rfl, rfl, rfl, rfl, rfl, ?_, by decide +kernel, by decide +kernel, by decide +kernel, by decide +kernel, by decide +kernel, rfl⟩
  simp [killed, teamsState, withFiring, State.reset]

/-- Refutes O49: the completion word of a killed team lies in another actor's stream header. -/
theorem not_supervisorActions : ¬ Obligations.SupervisorActions := by
  unfold Obligations.SupervisorActions
  intro h
  obtain ⟨-, -, -, hteam, -⟩ := h killed stoppedFiring 0 killed_stoppedOnly rfl rfl
  obtain ⟨-, hkill, -⟩ := hteam (headedTeam 0) (by decide +kernel) killed_unbound (by decide +kernel)
  have hplace : killed.wordPlace 0 (dword (headedTeam 0).recd 8) (shmKey 8) :=
    ⟨8, by decide, by decide, by decide, by decide +kernel, rfl, by simp [killed, teamsState, withFiring, State.reset]⟩
  obtain ⟨v, hexec, -, -, hread, -⟩ := hkill (shmKey 8) hplace (by decide) (by decide +kernel) rfl
  have hdone : doneAfter .fcmdKill killed = some 0 := by decide +kernel
  rw [doneAfter, hexec] at hdone
  exact absurd ((Option.some.inj hdone).symm.trans hread) (by decide)

/-! ## An actor whose completion word lies in its own stream header -/

def tripped : State := { teamsState [headedTeam 0x40000000] Firing.blank [] with dev := { State.reset.dev with stage := 3 } }

/-- Refutes O44: at a thermal trip the actor's completion word keeps the header's counter. -/
theorem not_deviceStages : ¬ Obligations.DeviceStages := by
  unfold Obligations.DeviceStages
  rintro ⟨h, -⟩
  obtain ⟨-, -, -, -, -, -, htrip, -⟩ := h tripped
  obtain ⟨hdown, -⟩ := htrip .thermalTrip 1 (.inl ⟨rfl, rfl⟩)
  obtain ⟨v, hexec, -, -, -, -, -, -, -, hword⟩ := hdown (.inr rfl)
  have hnobody : tripped.firings = [] := by decide +kernel
  obtain ⟨hread, -⟩ := hword (headedTeam 0x40000000) 8 rfl (by simp [hnobody]) (by decide) (by decide) (by decide) (by decide +kernel)
    (by simp [tripped, teamsState, withFiring, State.reset]) (by decide) rfl
  have hdone : doneAfter .thermalTrip tripped = some 0 := by decide +kernel
  rw [doneAfter, hexec] at hdone
  exact absurd ((Option.some.inj hdone).symm.trans hread) (by decide)

/-- The actor with a saved firing. -/
def savedActor : Team := { headedTeam 0x40000000 with saved := 1 }

def struckActor : State := { teamsState [savedActor] Firing.blank [] with ev := { Ev.blank with op := .uncorrectableError, a := 1 } }

/-- Its teams ended, before the record is made. -/
def struckEnded : State := (struckActor.dropHeldOf savedActor).fatalTeam (struckKey 1 0 0) 1 savedActor

theorem exec_struckActor : exec .uncorrectableError struckActor = .next (struckEnded.machineRecord 0 (syndrome struckActor.ev)) := by
  have hstruck : struckActor.struck = [0] := by decide +kernel
  have hwork : struckActor.teams.filter (fun t => t.part == 0 && struckActor.atWork t) = [savedActor] := by decide +kernel
  rw [exec_uncorrectableError, execUncorrectableError, if_neg (by decide), hstruck, List.foldl_cons, List.foldl_nil, State.strike, hwork]
  rfl

theorem struckEnded_read :
    struckEnded.mem.wf = true ∧ struckEnded.parts[0].ringFull = false ∧ struckEnded.parts[0].held = [] ∧ struckEnded.parts[0].trbase = 0 ∧
      bits struckEnded.parts[0].trtail 31 0 = 0 ∧ struckEnded.mem.read (shmKey 8) 8 = 0 := by
  decide +kernel

/-- The record of what is free takes the ring's slot and nothing in shared memory. -/
theorem struckActor_done : doneAfter .uncorrectableError struckActor = some 0 := by
  obtain ⟨hwf, hfull, hheld, hbase, htail, hread⟩ := struckEnded_read
  rw [doneAfter, exec_struckActor, nextOf, Option.map_some, State.machineRecord, if_pos (by simp [hfull, hheld])]
  exact congrArg some ((ringPut_read_above (s := { struckEnded with free := struckEnded.free + 5 }) hwf (by simp [hbase, htail, shmKey])).trans hread)

/-- Refutes O45: so does the completion word of an actor that an uncorrectable error of its frond strikes. -/
theorem not_machineErrors : ¬ Obligations.MachineErrors := by
  unfold Obligations.MachineErrors
  intro h
  obtain ⟨-, -, -, hstrike⟩ := h struckActor 0
  have hnobody : struckActor.firings = [] := by decide +kernel
  have hring : struckActor.parts[0].ringFree := by rw [Part.ringFree]; decide +kernel
  obtain ⟨v, hexec, -, -, -, hmem⟩ := hstrike 0 rfl rfl (by decide +kernel) (by simp [hnobody]) hring
  obtain ⟨-, -, hword⟩ := hmem rfl
  obtain ⟨hread, -⟩ := hword savedActor 8 rfl rfl rfl (.inr (.inl (by decide))) rfl (by decide) (by decide) (by decide) (by decide +kernel)
    (by simp [struckActor, teamsState, withFiring, State.reset]) (by decide) (by decide +kernel)
  have hdone := struckActor_done
  rw [doneAfter, hexec] at hdone
  exact absurd ((Option.some.inj hdone).symm.trans hread) (by decide)

end Sys2Proof.Machine
end

section
/-! PROOF. The decision of a block of 2^32 leaves does not fit its word (R356). -/

namespace Sys2Proof.Machine

set_option Elab.async false

/-- An open outgoing channel with a due candidate, whose block is the first 2^32 leaves of its region. -/
def wideChannel : Chan :=
  { Chan.closed with act := true, log2b := 32, lambda := 0x3FF0000000000000, due := true, credits := 1, pkg := State.reset.dev.pkg }

/-- A region whose one weight, above every rate, stands at leaf 2^31. -/
def wideRegion : Sorus :=
  { Sorus.blank with init := true, log2l := 32, sexp := 60, ws := [(2 ^ 31, 1)], outc := Vector.replicate 8 wideChannel, holder := some 1 }

/-- Its holder, about to decide channel 0. -/
def decider : State := (withFiring loneFiring).onFrond 0 fun f => { f with sorus := wideRegion }

theorem decider_issues : decider.Issues (.bdec 1 0) := (State.issuesB_iff _ _).mp (by decide +kernel)

/-- The draws of the candidate. -/
def wideDraws : Word × Word := halves (wideRegion.rand (streamId 3 0) 0)

theorem decider_word : (nextOf (exec (.bdec 1 0) decider)).map (fun t => t.fir.rx 1) = some 0 := by decide +kernel

theorem advance_rx (f : Firing) (r : BitVec 6) : f.advance.rx r = f.rx r := by
  simp [Firing.rx]

/-- Every draw is below the block's rate. -/
theorem wideDraw_accepted (p : Word) : ((p.toNat / 2 ^ 11 : Nat) : ℚ) * 2 ^ (-53 : Int) * realFin false (2 ^ 52) (-52) < (1 : ℚ) * 2 ^ (60 : Int) := by
  have hp : p.toNat / 2 ^ 11 < 2 ^ 53 := by omega
  have hq : ((p.toNat / 2 ^ 11 : Nat) : ℚ) < 2 ^ 53 := by exact_mod_cast hp
  have hone : realFin false (2 ^ 52) (-52) = 1 := by norm_num [realFin]
  have hscale : ((2 : ℚ) ^ (-53 : Int)) = 1 / 2 ^ 53 := by norm_num
  have hbound : (2 : ℚ) ^ (60 : Int) = 2 ^ 60 := by norm_num
  rw [hone, hscale, hbound]
  linarith

/-- Refutes O40: the word of the accepted decision of that channel is 0, which says that it was not accepted. -/
theorem not_sorusChannels : ¬ Obligations.SorusChannels := by
  unfold Obligations.SorusChannels
  intro h
  obtain ⟨htau, -, hclaimed, -⟩ := h decider 1 0
  obtain ⟨-, -, hbdec, -⟩ := hclaimed (by decide +kernel) (by decide +kernel)
  obtain ⟨-, hdecide, -⟩ := hbdec 0 decider decider (some wideDraws) _ decider_issues rfl (by decide +kernel)
  obtain ⟨-, hsend⟩ := hdecide (by decide +kernel) (by decide +kernel) rfl
  obtain ⟨hnext, -⟩ := htau decider (decider.fr.sorus.outc[(0 : Fin 8)])
  obtain ⟨w, hword, v, hexec, hfir, -⟩ := hsend (by decide +kernel) (hnext (by decide +kernel))
  have hw := decider_word
  rw [hexec, nextOf, Option.map_some, hfir, advance_rx] at hw
  have hzero : w = 0 := by simpa [Firing.rx_wx_self] using hw
  obtain ⟨-, -, hac⟩ := hword 0 0 0 (by simp [hzero]) (by decide) (by decide) (by decide)
  obtain ⟨hiff, -⟩ := hac wideDraws.1 wideDraws.2 (2 ^ 52) (-52) rfl (by decide +kernel)
  have hsx : decider.fr.sorus.sexp = 60 := by decide +kernel
  have hblock : decider.fr.sorus.blockOf decider.fr.sorus.outc[(0 : Fin 8)] = 1 := by decide +kernel
  rw [hsx, hblock] at hiff
  exact absurd (hiff.mpr (by simpa using wideDraw_accepted wideDraws.1)) (by decide)

end Sys2Proof.Machine
end

section
/-! SUPPORT. Rising lists of numbers, memory that holds a number, and lists of waiters of another home. -/

namespace Sys2Proof.Machine

theorem mem_insertNat {l : List Nat} {a x : Nat} : x ∈ insertNat l a ↔ x = a ∨ x ∈ l := by
  induction l with
  | nil => simp [insertNat]
  | cons b l ih =>
    simp only [insertNat]
    split_ifs with hlt heq
    · exact List.mem_cons
    · simp [heq]
    · simp only [List.mem_cons, ih]
      tauto

theorem Mem.write_holds {m : Mem} (h : m.wf = true) (o n v : Nat) : (m.write o n v).holds m o n v :=
  ⟨fun i hi => BitVec.eq_of_toNat_eq (by rw [Mem.get_write_inside h o n v hi, BitVec.toNat_ofNat]),
    fun k hk => Mem.get_write_other h o n v k hk⟩

theorem homeUnit_congr {k l : Nat} (h : k / 8 = l / 8) : homeUnit k = homeUnit l := by
  unfold homeUnit homeSite
  split_ifs <;> dsimp only <;> omega

/-- A change at a word serves nobody where nobody waits at its home. -/
theorem State.serveAll_of_none {s : State} {key : Nat} (h : ∀ w ∈ s.retry, homeUnit w.key ≠ homeUnit key) : s.serveAll key = s := by
  unfold State.serveAll
  cases s.retry.length with
  | zero => rfl
  | succ n =>
    have hnone : (s.retry.find? fun w => (w.key / 8 == key / 8 || (homeUnit w.key == homeUnit key && s.replayed w)) && s.canServe w) = none := by
      refine List.find?_eq_none.mpr fun w hw => ?_
      have hword : w.key / 8 ≠ key / 8 := fun he => h w hw (homeUnit_congr he)
      simp [hword, h w hw]
    rw [State.serve, hnone]

end Sys2Proof.Machine
end

section
/-! PROOF. The host's link and windows, and CXL poison (R381, R382, R390). -/

namespace Sys2Proof.Machine

theorem State.hostPut_beyond {s : State} {o n : Nat} (h : 768 * 2 ^ 30 < o + n) (ws : List Word) :
    s.hostPut o n ws = { s with sent := s.sent ++ [.unsupported] } := if_neg (Nat.not_le.mpr h)

theorem State.hostPut_inside {s : State} {o n : Nat} (h : o + n ≤ 768 * 2 ^ 30) (ws : List Word) :
    s.hostPut o n ws = { s with mem := s.mem.write o n (packNat 64 (ws.map BitVec.toNat)), late := hideLate (dwordMasks (keysFrom o n)) s.late } :=
  if_pos h

theorem State.hostMem_iff {s : State} : s.hostMem = true ↔ s.dev.hostUp = true ∧ s.dev.stage = 3 := by
  simp [State.hostMem]

theorem exec_hostBar2Write_of {s : State} (h : s.hostMem = true) : exec .hostBar2Write s = .next (s.hostPut s.ev.a s.ev.b s.ev.l) := if_pos h

/-- The write through BAR4 that is more than the same write through BAR2: an aligned dword inside HBM. -/
def bar4Dword (n o : Nat) : Bool := decide (n = 8) && o % 8 == 0 && decide (o + 8 ≤ hbmEnd)

theorem bar4Dword_iff {n o : Nat} : bar4Dword n o = true ↔ n = 8 ∧ o % 8 = 0 ∧ o + n ≤ 768 * 2 ^ 30 := by
  simp only [bar4Dword, Bool.and_eq_true, decide_eq_true_eq, beq_iff_eq, and_assoc]
  exact and_congr_right fun hn => by rw [hn]; rfl

theorem exec_hostBar4Write_of {s : State} (h : s.hostMem = true) :
    exec .hostBar4Write s = .next (let t := s.hostPut (s.ev.a % 2 ^ 40) s.ev.b s.ev.l
      if bar4Dword s.ev.b (s.ev.a % 2 ^ 40) then (t.setFull (s.ev.a % 2 ^ 40) (decide (2 ^ 40 ≤ s.ev.a))).serveAll (s.ev.a % 2 ^ 40) else t) := by
  rw [exec_hostBar4Write, execHostBar4Write, h]
  exact (apply_ite Host.Outcome.next _ _ _).symm

theorem mem_setFull {s : State} {o : Nat} {b : Bool} {w : Nat} :
    w ∈ (s.setFull o b).full ↔ (w = o / 8 ∧ b = true) ∨ (w ≠ o / 8 ∧ w ∈ s.full) := by
  cases b with
  | true =>
    simp only [State.setFull, if_true, mem_insertNat, and_true]
    tauto
  | false => simp [State.setFull, and_comm]

theorem input_hostRead (s : State) (w : Window) (off n : Nat) : s.input (.hostRead w off n) = .next (s.hostRead w off n) := rfl

theorem State.hostRead_of_finds {s : State} {w : Window} {off n v : Nat} (hup : s.dev.hostUp = true) (h : s.hostFinds w off n = some v) :
    s.hostRead w off n = { s with sent := s.sent ++ [.hostData n v] } := by
  simp [State.hostRead, hup, h, State.send]

theorem State.hostRead_of_none {s : State} {w : Window} {off n : Nat} (hup : s.dev.hostUp = true) (h : s.hostFinds w off n = none) :
    s.hostRead w off n = { s with sent := s.sent ++ [.unsupported] } := by
  simp [State.hostRead, hup, h, State.send]

/-- What a read through BAR2 or BAR4 finds at an offset of HBM. -/
def State.hbmFinds (s : State) (o n : Nat) : Option Nat :=
  if 768 * 2 ^ 30 < o + n then none else if s.dev.stage = 3 then some (s.mem.read o n) else if s.dev.stage = 2 then some 0 else none

theorem State.hostFinds_hbm {s : State} {w : Window} {a off n : Nat} (h : (w = .bar2 ∧ off = a) ∨ (w = .bar4 ∧ off = a % 2 ^ 40)) :
    s.hostFinds w a n = s.hbmFinds off n := by
  rcases h with ⟨rfl, rfl⟩ | ⟨rfl, rfl⟩ <;> rfl

theorem State.ctlLoad_byte (s : State) {o i : Nat} (ho : o % 8 = 0) (hi : i < 8) :
    s.ctlLoad (o + i) 1 = (s.ctlRead o).toNat / 2 ^ (8 * i) % 256 := by
  rw [State.ctlLoad, show (o + i) / 8 * 8 = o by omega, show (o + i) % 8 = i by omega]
  rfl

theorem State.hostFinds_visible {s : State} {off n : Nat} (h : s.dev.visible off n = true) :
    s.hostFinds .bar0 off n = some (s.ctlBytes off n) := if_pos h

theorem State.hostFinds_hidden {s : State} {off n : Nat} (h : s.dev.visible off n = false) : s.hostFinds .bar0 off n = none :=
  if_neg (Bool.not_eq_true _ ▸ h)

theorem State.hostFinds_vfOff {s : State} {p : Fin 16} (h : s.dev.vfOn p = false) (off n : Nat) : s.hostFinds (.vf p) off n = none :=
  if_neg (by rw [h]; exact Bool.false_ne_true)

/-- The eight bytes of a dword of control space are the dword. -/
theorem State.ctlBytes_dword (s : State) {o : Nat} (ho : o % 8 = 0) : s.ctlBytes o 8 = (s.ctlRead o).toNat := by
  have hlt := (s.ctlRead o).isLt
  have hbytes : (keysFrom o 8).map (fun k => s.ctlLoad k 1) = [0, 1, 2, 3, 4, 5, 6, 7].map fun i => (s.ctlRead o).toNat / 2 ^ (8 * i) % 256 := by
    rw [keysFrom, List.map_map]
    exact List.map_congr_left fun i hi => s.ctlLoad_byte ho (List.mem_range.mp hi)
  rw [State.ctlBytes, hbytes]
  simp only [List.map_cons, List.map_nil, packNat]
  omega

/-- DEVSTAT as the host reads it. -/
theorem State.ctlRead_devstat {s : State} (hfault : s.dev.fault < 256) (hstage : s.dev.stage < 8) :
    (s.ctlRead 0x3000000).toNat = s.dev.fwver.toNat * 2 ^ 32 + s.dev.fault * 2 ^ 8 + s.dev.stage := by
  have hread : s.ctlRead 0x3000000 = BitVec.ofNat 64 (s.dev.fwver.toNat * 2 ^ 32 + s.dev.fault % 256 * 2 ^ 8 + s.dev.stage) := rfl
  have hver := s.dev.fwver.isLt
  rw [hread, BitVec.toNat_ofNat]
  omega

theorem Device.visible_devstat (d : Device) : d.visible 0x3000000 8 = true := by simp [Device.visible]

theorem Device.visible_rom {d : Device} {a k : Nat} (hstage : d.stage = 0) (h : a < 0x3000000 ∨ 0x3000008 < a + k) : d.visible a k = false := by
  simp only [Device.visible, hstage]
  simp
  omega

theorem Device.vfOn_eq_false {d : Device} {p : Fin 16} (h : d.vfMask.getLsbD p.val = false ∨ d.vfEn.getLsbD p.val = false) : d.vfOn p = false := by
  simpa only [Device.vfOn, Bool.and_eq_false_iff] using h

/-- Settles O43. -/
theorem hostAndCxl : Obligations.HostAndCxl := by
  unfold Obligations.HostAndCxl
  intro s hwf
  refine ⟨rfl, rfl, fun hoff => ?_, fun hup hstage => ?_, fun w a k => ⟨fun hdown => ?_, fun hup => ⟨fun off hw => ?_, ?_, ?_, ?_⟩⟩, ?_, ?_, ?_⟩
  · have hmem : s.hostMem = false := by rw [← Bool.not_eq_true, State.hostMem_iff]; rcases hoff with h | h <;> simp [h]
    exact ⟨by rw [exec_hostBar2Write, execHostBar2Write, hmem]; rfl, by rw [exec_hostBar4Write, execHostBar4Write, hmem]; rfl⟩
  · have hmem := State.hostMem_iff.mpr ⟨hup, hstage⟩
    refine ⟨fun h => ?_, fun h => ⟨_, hideLate (dwordMasks (keysFrom s.ev.a s.ev.b)) s.late, ?_, Mem.write_holds hwf _ _ _⟩, fun h => ?_,
      fun h hplain => ⟨_, hideLate (dwordMasks (keysFrom (s.ev.a % 2 ^ 40) s.ev.b)) s.late, ?_, Mem.write_holds hwf _ _ _⟩, fun h hn ho hnone => ?_⟩
    · rw [exec_hostBar2Write_of hmem, State.hostPut_beyond h]
    · rw [exec_hostBar2Write_of hmem, State.hostPut_inside h]
    · rw [exec_hostBar4Write_of hmem, State.hostPut_beyond h]
      exact congrArg _ (if_neg fun hd => absurd (bar4Dword_iff.mp hd).2.2 (Nat.not_le.mpr h))
    · rw [exec_hostBar4Write_of hmem, State.hostPut_inside h]
      exact congrArg _ (if_neg fun hd => hplain.elim (absurd (bar4Dword_iff.mp hd).1) (absurd (bar4Dword_iff.mp hd).2.1))
    · refine ⟨_, (s.setFull (s.ev.a % 2 ^ 40) (decide (2 ^ 40 ≤ s.ev.a))).full, hideLate (dwordMasks (keysFrom (s.ev.a % 2 ^ 40) 8)) s.late, ?_, Mem.write_holds hwf _ _ _, 
        fun _ w => mem_setFull.trans (by rw [decide_eq_true_eq])⟩
      rw [exec_hostBar4Write_of hmem, State.hostPut_inside h]
      simp only [bar4Dword_iff.mpr ⟨hn, ho, h⟩, if_true]
      rw [State.serveAll_of_none (by exact hnone), hn]
      rfl
  · rw [input_hostRead, State.hostRead, hdown]; rfl
  · rw [input_hostRead]
    have hfinds := State.hostFinds_hbm (s := s) (n := k) hw
    refine ⟨fun h3 hin => ?_, fun h2 hin => ?_, fun hno => ?_⟩
    · rw [State.hostRead_of_finds hup (hfinds.trans (by rw [State.hbmFinds, if_neg (Nat.not_lt.mpr hin), if_pos h3]))]
    · rw [State.hostRead_of_finds hup (hfinds.trans (by rw [State.hbmFinds, if_neg (Nat.not_lt.mpr hin), if_neg (by omega), if_pos h2]))]
    · refine congrArg _ (State.hostRead_of_none hup (hfinds.trans ?_))
      rw [State.hbmFinds]
      split_ifs <;> first | rfl | omega
  · rintro rfl rfl rfl hfault hstage
    rw [input_hostRead, State.hostRead_of_finds hup (State.hostFinds_visible s.dev.visible_devstat), State.ctlBytes_dword s (by decide), State.ctlRead_devstat hfault hstage]
  · rintro rfl hstage ha
    rw [input_hostRead, State.hostRead_of_none hup (State.hostFinds_hidden (Device.visible_rom hstage ha))]
  · rintro p rfl hoff
    rw [input_hostRead, State.hostRead_of_none hup (State.hostFinds_vfOff (Device.vfOn_eq_false hoff) a k)]
  · intro p off v hoff
    exact congrArg Host.Outcome.next (if_neg (by simp [Device.vfOn_eq_false hoff]))
  · exact ⟨_, rfl, fun x => mem_insertNat⟩
  · exact ⟨_, rfl, fun x => mem_insertNat⟩

end Sys2Proof.Machine
end

section
/-! SUPPORT. The integer results of the rules as the machine computes them (R124 to R128). -/

namespace Sys2Proof.Machine

theorem flag_decide (p : Prop) [Decidable p] : flag (decide p) = if p then 1 else 0 := by
  simp [flag]

theorem flag_slt (a b : Word) : flag (a.slt b) = if a.toInt < b.toInt then 1 else 0 := flag_decide _

theorem flag_ult (a b : Word) : flag (a.ult b) = if a.toNat < b.toNat then 1 else 0 := flag_decide _

theorem sh6_eq (b : Word) : sh6 b = (b.extractLsb' 0 6).toNat := by
  simp [sh6, bits]

theorem sh6_lt (b : Word) : sh6 b < 64 := Nat.mod_lt _ (by decide)

theorem min_signed (a b : Word) : (if a.slt b then a else b) = BitVec.ofInt 64 (min a.toInt b.toInt) := by
  by_cases h : a.toInt < b.toInt
  · rw [if_pos (by simpa [BitVec.slt] using h), min_eq_left h.le, BitVec.ofInt_toInt]
  · rw [if_neg (by simpa [BitVec.slt] using h), min_eq_right (not_lt.mp h), BitVec.ofInt_toInt]

theorem max_signed (a b : Word) : (if a.slt b then b else a) = BitVec.ofInt 64 (max a.toInt b.toInt) := by
  by_cases h : a.toInt < b.toInt
  · rw [if_pos (by simpa [BitVec.slt] using h), max_eq_right h.le, BitVec.ofInt_toInt]
  · rw [if_neg (by simpa [BitVec.slt] using h), max_eq_left (not_lt.mp h), BitVec.ofInt_toInt]

theorem min_unsigned (a b : Word) : (if a.ult b then a else b) = BitVec.ofNat 64 (min a.toNat b.toNat) := by
  by_cases h : a.toNat < b.toNat
  · rw [if_pos (by simpa [BitVec.ult] using h), min_eq_left h.le, BitVec.ofNat_toNat, BitVec.setWidth_eq]
  · rw [if_neg (by simpa [BitVec.ult] using h), min_eq_right (not_lt.mp h), BitVec.ofNat_toNat, BitVec.setWidth_eq]

theorem max_unsigned (a b : Word) : (if a.ult b then b else a) = BitVec.ofNat 64 (max a.toNat b.toNat) := by
  by_cases h : a.toNat < b.toNat
  · rw [if_pos (by simpa [BitVec.ult] using h), max_eq_right h.le, BitVec.ofNat_toNat, BitVec.setWidth_eq]
  · rw [if_neg (by simpa [BitVec.ult] using h), max_eq_left (not_lt.mp h), BitVec.ofNat_toNat, BitVec.setWidth_eq]

theorem findIdx_range {n i : Nat} (p : Nat → Bool) (hi : i < n) (hp : p i = true) (hlow : ∀ j, j < i → p j = false) :
    (List.range n).findIdx p = i := by
  rw [List.findIdx_eq (by simpa using hi)]
  simpa [hp] using hlow

theorem findIdx_range_none {n : Nat} (p : Nat → Bool) (h : ∀ i, i < n → p i = false) : (List.range n).findIdx p = n := by
  rw [List.findIdx_eq_length_of_false (by simpa using h), List.length_range]

/-- The leading zeros of a word are counted from the bits down. -/
theorem clz64_eq (a : Word) : clz64 a = (List.range 64).findIdx fun i => a.getMsbD i := by
  by_cases h : a = 0
  · subst h
    rw [findIdx_range_none _ fun i _ => by simp]
    rfl
  · have hnat : a.toNat ≠ 0 := fun h0 => h (BitVec.eq_of_toNat_eq h0)
    have hlog : a.toNat.log2 < 64 := (Nat.log2_lt hnat).mpr a.isLt
    rw [clz64, bitLen, if_neg hnat, findIdx_range (i := 63 - a.toNat.log2) _ (by omega) ?_ fun j hj => ?_]
    · omega
    · simp [BitVec.getMsbD, show 63 - (63 - a.toNat.log2) = a.toNat.log2 by omega, BitVec.getLsbD, Nat.testBit_log2 hnat, show 63 - a.toNat.log2 < 64 by omega]
    · rw [BitVec.getMsbD, BitVec.getLsbD, Nat.testBit_lt_two_pow (Nat.lt_of_lt_of_le Nat.lt_log2_self (Nat.pow_le_pow_right (by decide) (by omega)))]
      exact Bool.and_false _

/-- Of a word and its negation only the lowest one bit is common. -/
theorem and_neg_eq_twoPow {a : Word} {k : Nat} (hk : a.getLsbD k = true) (hlow : ∀ j, j < k → a.getLsbD j = false) :
    a &&& -a = BitVec.twoPow 64 k := by
  have hk64 : k < 64 := BitVec.lt_of_getLsbD hk
  refine BitVec.eq_of_getLsbD_eq fun i hi => ?_
  rw [BitVec.getLsbD_and, BitVec.getLsbD_neg, BitVec.getLsbD_twoPow]
  rcases Nat.lt_trichotomy i k with hlt | heq | hgt
  · simp [hlow i hlt]; omega
  · subst heq
    have hnone : ¬ ∃ j < i, a.getLsbD j = true := fun ⟨j, hj, hb⟩ => by simp [hlow j hj] at hb
    simp [hk, hi, hnone]
  · have hsome : ∃ j < i, a.getLsbD j = true := ⟨k, hgt, hk⟩
    simp [hi, hsome]; omega

/-- The trailing zeros of a word are counted from the bits up. -/
theorem ctz64_eq (a : Word) : ctz64 a = (List.range 64).findIdx fun i => a.getLsbD i := by
  by_cases h : a = 0
  · subst h
    rw [findIdx_range_none _ fun i _ => by simp]
    rfl
  · have hex : ∃ i, a.getLsbD i = true := by
      by_contra hc
      exact h (BitVec.eq_of_getLsbD_eq fun i _ => by simpa using fun hb => hc ⟨i, hb⟩)
    have hlow : ∀ j, j < Nat.find hex → a.getLsbD j = false := fun j hj => by simpa using Nat.find_min hex hj
    have hk := Nat.find_spec hex
    rw [ctz64, if_neg h, and_neg_eq_twoPow hk hlow, findIdx_range _ (BitVec.lt_of_getLsbD hk) hk hlow, BitVec.toNat_twoPow,
      Nat.mod_eq_of_lt (Nat.pow_lt_pow_right (by decide) (BitVec.lt_of_getLsbD hk)), Nat.log2_two_pow]

theorem popBits_word (a : Word) : popBits 64 a.toNat = (List.range 64).countP fun i => a.getLsbD i := popBits_eq_countP 64 a.toNat

theorem rotl64_eq (a : Word) {n : Nat} (hn : n < 64) : rotl64 a n = a.rotateLeft n := by
  rw [rotl64, BitVec.rotateLeft, BitVec.rotateLeftAux, Nat.mod_eq_of_lt hn]

theorem rotr64_eq (a : Word) {n : Nat} (hn : n < 64) : rotl64 a ((64 - n) % 64) = a.rotateRight n := by
  rw [rotl64, BitVec.rotateRight, BitVec.rotateRightAux, Nat.mod_eq_of_lt hn]
  cases n with
  | zero => simp [BitVec.ushiftRight_eq_zero (x := a) (Nat.le_refl 64)]
  | succ n => rw [Nat.mod_eq_of_lt (by omega), show 64 - (64 - (n + 1)) = n + 1 by omega, BitVec.or_comm]

theorem shiftLeft_thirteen (a : Word) : a <<< 13 = a * 8192#64 := by
  rw [← BitVec.mul_twoPow_eq_shiftLeft]; rfl

theorem setBits_page (w : Word) : setBits w 12 0 0 = w &&& ~~~0x1FFF#64 := by
  simp [setBits]

/-- The upper half of a product, from the whole of it. -/
theorem upper_half (z : Int) : (BitVec.ofInt 128 z).extractLsb' 64 64 = BitVec.ofInt 64 (z / 2 ^ 64) := by
  refine BitVec.eq_of_toNat_eq ?_
  rw [BitVec.extractLsb'_toNat, BitVec.toNat_ofInt, BitVec.toNat_ofInt, Nat.shiftRight_eq_div_pow]
  omega

theorem setWidth_eq_ofInt (a : Word) : a.setWidth 128 = BitVec.ofInt 128 (a.toNat : Int) := by
  rw [BitVec.ofInt_natCast, BitVec.ofNat_toNat]

theorem mulh_eq (a b : Word) : ofInt (sInt a * sInt b / 2 ^ 64) = (a.signExtend 128 * b.signExtend 128).extractLsb' 64 64 := by
  rw [BitVec.signExtend, BitVec.signExtend, ← BitVec.ofInt_mul, upper_half]; rfl

theorem mulhu_eq (a b : Word) : BitVec.ofNat 64 (a.toNat * b.toNat / 2 ^ 64) = (a.setWidth 128 * b.setWidth 128).extractLsb' 64 64 := by
  rw [setWidth_eq_ofInt, setWidth_eq_ofInt, ← BitVec.ofInt_mul, upper_half, ← BitVec.ofInt_natCast]
  rfl

theorem mulhsu_eq (a b : Word) : ofInt (sInt a * (b.toNat : Int) / 2 ^ 64) = (a.signExtend 128 * b.setWidth 128).extractLsb' 64 64 := by
  rw [BitVec.signExtend, setWidth_eq_ofInt, ← BitVec.ofInt_mul, upper_half]; rfl

theorem sdiv_eq (a b : Word) : ofInt ((sInt a).tdiv (sInt b)) = a.sdiv b :=
  BitVec.eq_of_toInt_eq (by rw [ofInt, BitVec.toInt_ofInt, BitVec.toInt_sdiv]; rfl)

theorem srem_eq (a b : Word) : ofInt ((sInt a).tmod (sInt b)) = a.srem b := by
  rw [sInt, sInt, ← BitVec.toInt_srem]; exact BitVec.ofInt_toInt

theorem udiv_eq (a b : Word) : BitVec.ofNat 64 (a.toNat / b.toNat) = a / b :=
  BitVec.eq_of_toNat_eq (by rw [BitVec.toNat_ofNat, BitVec.toNat_udiv, Nat.mod_eq_of_lt (Nat.lt_of_le_of_lt (Nat.div_le_self _ _) a.isLt)])

theorem umod_eq (a b : Word) : BitVec.ofNat 64 (a.toNat % b.toNat) = a % b :=
  BitVec.eq_of_toNat_eq (by rw [BitVec.toNat_ofNat, BitVec.toNat_umod, Nat.mod_eq_of_lt (Nat.lt_of_le_of_lt (Nat.mod_le _ _) a.isLt)])

end Sys2Proof.Machine
end

section
/-! PROOF. Integer instructions (R124 to R129, R137). -/

namespace Sys2Proof.Machine

/-- Every integer instruction is the one integer operation with its rule's value. -/
theorem exec_intResult {s : State} {i : Instr} {d : BitVec 6} {v : Word} (h : intResult s.fir i = some (d, v)) :
    ∃ g : State → Word, g s = v ∧ exec i s = intOp i d g s := by
  cases i with
  | add d a b => cases h; exact ⟨_, rfl, exec_add d a b s⟩
  | sub d a b => cases h; exact ⟨_, rfl, exec_sub d a b s⟩
  | and d a b => cases h; exact ⟨_, rfl, exec_and d a b s⟩
  | or d a b => cases h; exact ⟨_, rfl, exec_or d a b s⟩
  | xor d a b => cases h; exact ⟨_, rfl, exec_xor d a b s⟩
  | andn d a b => cases h; exact ⟨_, rfl, exec_andn d a b s⟩
  | sll d a b => cases h; exact ⟨_, congrArg (s.rx a <<< ·) (sh6_eq (s.rx b)), exec_sll d a b s⟩
  | srl d a b => cases h; exact ⟨_, congrArg (s.rx a >>> ·) (sh6_eq (s.rx b)), exec_srl d a b s⟩
  | sra d a b => cases h; exact ⟨_, congrArg (s.rx a).sshiftRight (sh6_eq (s.rx b)), exec_sra d a b s⟩
  | slt d a b => cases h; exact ⟨_, flag_slt _ _, exec_slt d a b s⟩
  | sltu d a b => cases h; exact ⟨_, flag_ult _ _, exec_sltu d a b s⟩
  | min d a b => cases h; exact ⟨_, min_signed _ _, exec_min d a b s⟩
  | max d a b => cases h; exact ⟨_, max_signed _ _, exec_max d a b s⟩
  | minu d a b => cases h; exact ⟨_, min_unsigned _ _, exec_minu d a b s⟩
  | maxu d a b => cases h; exact ⟨_, max_unsigned _ _, exec_maxu d a b s⟩
  | clz d a =>
    obtain ⟨rfl, rfl⟩ := Prod.mk.inj (Option.some.inj h)
    exact ⟨_, congrArg (BitVec.ofNat 64) (clz64_eq _), exec_clz d a s⟩
  | ctz d a =>
    obtain ⟨rfl, rfl⟩ := Prod.mk.inj (Option.some.inj h)
    exact ⟨_, congrArg (BitVec.ofNat 64) (ctz64_eq _), exec_ctz d a s⟩
  | popc d a =>
    obtain ⟨rfl, rfl⟩ := Prod.mk.inj (Option.some.inj h)
    exact ⟨fun s => BitVec.ofNat 64 (popBits 64 (s.rx a).toNat), congrArg (BitVec.ofNat 64) (popBits_word (s.rx a)), exec_popc d a s⟩
  | rol d a b =>
    obtain ⟨rfl, rfl⟩ := Prod.mk.inj (Option.some.inj h)
    exact ⟨_, (rotl64_eq _ (sh6_lt _)).trans (congrArg _ (sh6_eq (s.rx b))), exec_rol d a b s⟩
  | ror d a b =>
    obtain ⟨rfl, rfl⟩ := Prod.mk.inj (Option.some.inj h)
    exact ⟨_, (rotr64_eq _ (sh6_lt _)).trans (congrArg _ (sh6_eq (s.rx b))), exec_ror d a b s⟩
  | addi d a i => cases h; exact ⟨_, rfl, exec_addi d a i s⟩
  | andi d a i => cases h; exact ⟨_, rfl, exec_andi d a i s⟩
  | ori d a i => cases h; exact ⟨_, rfl, exec_ori d a i s⟩
  | xori d a i => cases h; exact ⟨_, rfl, exec_xori d a i s⟩
  | slli d a n => cases h; exact ⟨_, rfl, exec_slli d a n s⟩
  | srli d a n => cases h; exact ⟨_, rfl, exec_srli d a n s⟩
  | srai d a n => cases h; exact ⟨_, rfl, exec_srai d a n s⟩
  | slti d a i =>
    cases h
    refine ⟨_, (flag_slt _ _).trans ?_, exec_slti d a i s⟩
    rw [BitVec.toInt_signExtend_of_le (by decide)]; rfl
  | sltiu d a i => cases h; exact ⟨_, flag_ult _ _, exec_sltiu d a i s⟩
  | lui d i => cases h; exact ⟨_, shiftLeft_thirteen _, exec_lui d i s⟩
  | adrp d i => cases h; exact ⟨_, congrArg₂ (· + ·) (setBits_page _) (shiftLeft_thirteen _), exec_adrp d i s⟩
  | mul d a b => cases h; exact ⟨_, rfl, exec_mul d a b s⟩
  | mulh d a b => cases h; exact ⟨_, mulh_eq _ _, exec_mulh d a b s⟩
  | mulhu d a b => cases h; exact ⟨_, mulhu_eq _ _, exec_mulhu d a b s⟩
  | mulhsu d a b => cases h; exact ⟨_, mulhsu_eq _ _, exec_mulhsu d a b s⟩
  | div d a b => cases h; exact ⟨_, congrArg (fun q => if s.rx b = 0 then BitVec.allOnes 64 else q) (sdiv_eq _ _), exec_div d a b s⟩
  | divu d a b => cases h; exact ⟨_, congrArg (fun q => if s.rx b = 0 then BitVec.allOnes 64 else q) (udiv_eq _ _), exec_divu d a b s⟩
  | rem d a b => cases h; exact ⟨_, congrArg (fun q => if s.rx b = 0 then s.rx a else q) (srem_eq _ _), exec_rem d a b s⟩
  | remu d a b => cases h; exact ⟨_, congrArg (fun q => if s.rx b = 0 then s.rx a else q) (umod_eq _ _), exec_remu d a b s⟩
  | sel d a b c => cases h; exact ⟨_, ite_not _ _ _, exec_sel d a b c s⟩
  | _ => cases h

theorem movxIdx_inside {s : State} {a : BitVec 6} {n : BitVec 10} (h0 : 0 ≤ (s.fir.rx a).toInt + n.toInt)
    (h1 : (s.fir.rx a).toInt + n.toInt < (s.fir.dem.xregs : Int)) : movxIdx s a n = .ok ((s.fir.rx a).toInt + n.toInt).toNat := by
  simp [movxIdx, sInt, State.rx, not_lt.mpr h0, not_le.mpr h1]

theorem movxIdx_outside {s : State} {a : BitVec 6} {n : BitVec 10}
    (h : ¬ (0 ≤ (s.fir.rx a).toInt + n.toInt ∧ (s.fir.rx a).toInt + n.toInt < (s.fir.dem.xregs : Int))) :
    movxIdx s a n = raise .regrange (ofInt ((s.fir.rx a).toInt + n.toInt)) := by
  refine if_pos ?_
  rw [Bool.or_eq_true, decide_eq_true_eq, decide_eq_true_eq]
  exact (not_and_or.mp h).imp not_le.mp not_lt.mp

theorem ofNat_toNat_of_nonneg {z : Int} (h : 0 ≤ z) : BitVec.ofNat 6 z.toNat = BitVec.ofInt 6 z := by
  rw [← BitVec.ofInt_natCast, Int.toNat_of_nonneg h]

/-- Settles O1. -/
theorem integerInstructions : Obligations.IntegerInstructions := by
  unfold Obligations.IntegerInstructions
  refine ⟨fun s i d v hi hv => ?_, fun s d a b n => ⟨fun hi => ?_, fun hi => ?_⟩⟩
  · obtain ⟨g, rfl, hexec⟩ := exec_intResult hv
    exact hexec.trans (intOp_issues hi)
  · rw [exec_movxRead, execMovxRead, plain_issues hi, movxTarget]
    split_ifs with h
    · rw [movxIdx_inside h.1 h.2]
      exact congrArg (fun r => Host.Outcome.next ((s.wx d (s.fir.rx r)).upd Firing.advance)) (ofNat_toNat_of_nonneg h.1)
    · rw [movxIdx_outside h]; rfl
  · rw [exec_movxWrite, execMovxWrite, plain_issues hi, movxTarget]
    split_ifs with h
    · rw [movxIdx_inside h.1 h.2]
      exact congrArg (fun r => Host.Outcome.next ((s.wx r (s.fir.rx b)).upd Firing.advance)) (ofNat_toNat_of_nonneg h.1)
    · rw [movxIdx_outside h]; rfl

end Sys2Proof.Machine
end

section
/-! PROOF. Scalar float instructions (R123, R131 to R136). -/

namespace Sys2Proof.Machine

theorem floatOp_issues {i : Instr} {d : BitVec 6} {g : State → Nat × Nat} {s : State} (h : s.Issues i) :
    floatOp i d g s = .next (((s.wx d (BitVec.ofNat 64 (g s).1)).upd fun f => f.orFlags (BitVec.ofNat 64 (g s).2)).upd Firing.advance) :=
  plain_issues h

/-- A 32-bit integer as FCVT writes it is its pattern sign-extended. -/
theorem extend_four (v : Nat) : extend true 4 v = (BitVec.ofNat 32 v).signExtend 64 := by
  refine BitVec.eq_of_toInt_eq ?_
  have hlt : v % 2 ^ 32 < 2 ^ 32 := Nat.mod_lt _ (by decide)
  rw [BitVec.toInt_signExtend_of_le (by decide), BitVec.toInt_ofNat', extend, ofInt]
  simp only [Bool.true_and, decide_eq_true_eq]
  by_cases h : 2 ^ 31 ≤ v % 2 ^ 32
  · rw [if_pos h, BitVec.toInt_ofInt, Int.bmod_eq_emod, Int.bmod_eq_emod, if_pos (by omega), if_pos (by omega)]
    omega
  · rw [if_neg h, BitVec.toInt_ofNat', Int.bmod_eq_emod, Int.bmod_eq_emod, if_neg (by omega), if_neg (by omega)]
    omega

theorem fcvtWrite_eq (t : XT) (v : Nat) : fcvtWrite t v = if t = .i32 then ((BitVec.ofNat 32 v).signExtend 64).toNat else v := by
  rw [fcvtWrite, extend_four]

/-- Every float instruction is the one float operation with its rule's value and flags. -/
theorem exec_floatResult {s : State} {i : Instr} {d : BitVec 6} {r : Nat × Nat} (h : floatResult s.fir i = some (d, r)) :
    ∃ g : State → Nat × Nat, g s = r ∧ exec i s = floatOp i d g s := by
  cases i with
  | fadd t m d a b => cases h; exact ⟨_, rfl, exec_fadd t m d a b s⟩
  | fsub t m d a b => cases h; exact ⟨_, rfl, exec_fsub t m d a b s⟩
  | fmul t m d a b => cases h; exact ⟨_, rfl, exec_fmul t m d a b s⟩
  | fdiv t m d a b => cases h; exact ⟨_, rfl, exec_fdiv t m d a b s⟩
  | fsqrt t m d a => cases h; exact ⟨_, rfl, exec_fsqrt t m d a s⟩
  | fcvt m z d a t u => cases h; exact ⟨_, Prod.ext (fcvtWrite_eq _ _) rfl, exec_fcvt m z d a t u s⟩
  | fmin t d a b => cases h; exact ⟨_, rfl, exec_fmin t d a b s⟩
  | fmax t d a b => cases h; exact ⟨_, rfl, exec_fmax t d a b s⟩
  | feq t d a b => cases h; exact ⟨_, rfl, exec_feq t d a b s⟩
  | flt t d a b => cases h; exact ⟨_, rfl, exec_flt t d a b s⟩
  | fle t d a b => cases h; exact ⟨_, rfl, exec_fle t d a b s⟩
  | fclass t d a => cases h; exact ⟨_, rfl, exec_fclass t d a s⟩
  | fmadd t m d a b => cases h; exact ⟨_, rfl, exec_fmadd t m d a b s⟩
  | fmsub t m d a b => cases h; exact ⟨_, rfl, exec_fmsub t m d a b s⟩
  | fnmadd t m d a b => cases h; exact ⟨_, rfl, exec_fnmadd t m d a b s⟩
  | fnmsub t m d a b => cases h; exact ⟨_, rfl, exec_fnmsub t m d a b s⟩
  | _ => cases h

/-- A sign bit before a magnitude, as a number. -/
theorem signed_append (F : Fmt) (sign : BitVec 1) (mag : BitVec (F.ew + F.fw)) :
    F.signed (sign.toNat == 1) mag.toNat = (sign ++ mag).toNat := by
  have hs := sign.isLt
  rw [Fmt.signed, BitVec.toNat_append, Nat.shiftLeft_eq, Nat.mul_comm, ← Nat.two_pow_add_eq_or_of_lt mag.isLt]
  obtain h | h : sign.toNat = 0 ∨ sign.toNat = 1 := by omega
  · simp [h]
  · simp [h]

theorem signOf_eq (F : Fmt) (y : Word) : signOf F y.toNat = ((y.extractLsb' (F.ew + F.fw) 1).toNat == 1) := by
  rw [signOf, BitVec.extractLsb'_toNat, Nat.shiftRight_eq_div_pow]

/-- A source's magnitude under a sign bit, zero-extended. -/
theorem withSign_eq (F : Fmt) (x : Word) (sign : BitVec 1) :
    BitVec.ofNat 64 (withSign F x.toNat (sign.toNat == 1)) = (sign ++ x.extractLsb' 0 (F.ew + F.fw)).setWidth 64 := by
  have hmag : x.toNat % 2 ^ (F.ew + F.fw) = (x.extractLsb' 0 (F.ew + F.fw)).toNat := by
    rw [BitVec.extractLsb'_toNat, Nat.shiftRight_zero]
  rw [withSign, hmag, signed_append, BitVec.ofNat_toNat]

theorem not_sign (y : BitVec 1) : (!(y.toNat == 1)) = ((~~~y).toNat == 1) := by
  revert y; decide

theorem xor_sign (x y : BitVec 1) : ((x.toNat == 1) != (y.toNat == 1)) = ((x ^^^ y).toNat == 1) := by
  revert x y; decide

theorem fsgnj_eq (F : Fmt) (x y : Word) : BitVec.ofNat 64 (withSign F x.toNat (signOf F y.toNat)) =
    (y.extractLsb' (F.ew + F.fw) 1 ++ x.extractLsb' 0 (F.ew + F.fw)).setWidth 64 := by
  rw [signOf_eq, withSign_eq]

theorem fsgnjn_eq (F : Fmt) (x y : Word) : BitVec.ofNat 64 (withSign F x.toNat (!signOf F y.toNat)) =
    (~~~(y.extractLsb' (F.ew + F.fw) 1) ++ x.extractLsb' 0 (F.ew + F.fw)).setWidth 64 := by
  rw [signOf_eq, not_sign, withSign_eq]

theorem fsgnjx_eq (F : Fmt) (x y : Word) : BitVec.ofNat 64 (withSign F x.toNat (signOf F x.toNat != signOf F y.toNat)) =
    ((x.extractLsb' (F.ew + F.fw) 1 ^^^ y.extractLsb' (F.ew + F.fw) 1) ++ x.extractLsb' 0 (F.ew + F.fw)).setWidth 64 := by
  rw [signOf_eq, signOf_eq, xor_sign, withSign_eq]

/-- FSGNJ and its kin are float operations that raise no flag. -/
theorem exec_signResult {s : State} {i : Instr} {d : BitVec 6} {v : Word} (h : signResult s.fir i = some (d, v)) :
    ∃ g : State → Nat, BitVec.ofNat 64 (g s) = v ∧ exec i s = floatOp i d (fun s => (g s, 0)) s := by
  cases i with
  | fsgnj t d a b =>
    cases t with
    | f32 => cases h; exact ⟨_, fsgnj_eq f32 _ _, exec_fsgnj _ d a b s⟩
    | f64 => cases h; exact ⟨_, fsgnj_eq f64 _ _, exec_fsgnj _ d a b s⟩
  | fsgnjn t d a b =>
    cases t with
    | f32 => cases h; exact ⟨_, fsgnjn_eq f32 _ _, exec_fsgnjn _ d a b s⟩
    | f64 => cases h; exact ⟨_, fsgnjn_eq f64 _ _, exec_fsgnjn _ d a b s⟩
  | fsgnjx t d a b =>
    cases t with
    | f32 => cases h; exact ⟨_, fsgnjx_eq f32 _ _, exec_fsgnjx _ d a b s⟩
    | f64 => cases h; exact ⟨_, fsgnjx_eq f64 _ _, exec_fsgnjx _ d a b s⟩
  | _ => cases h

theorem orFlags_zero (f : Firing) : f.orFlags 0 = f := by
  simp [Firing.orFlags]

theorem upd_orFlags_zero (s : State) : (s.upd fun f => f.orFlags (BitVec.ofNat 64 0)) = s := by
  rw [State.upd]
  exact congrArg (fun f => { s with fir := f }) (orFlags_zero s.fir)

/-- Settles O2. -/
theorem floatResults : Obligations.FloatResults := by
  unfold Obligations.FloatResults
  refine fun s i hi => ⟨fun d v fl hv => ?_, fun d v hv => ?_⟩
  · obtain ⟨g, hg, hexec⟩ := exec_floatResult hv
    rw [hexec, floatOp_issues hi, hg]
  · obtain ⟨g, rfl, hexec⟩ := exec_signResult hv
    rw [hexec, floatOp_issues hi, upd_orFlags_zero]

end Sys2Proof.Machine
end

section
/-! PROOF. Branches, jumps and LOOPN (R99 to R103). -/

namespace Sys2Proof.Machine

theorem branchOp_issues {i : Instr} {g : Firing → Bool} {off : Int} {s : State} (h : s.Issues i) :
    branchOp i g off s = .next (s.upd fun f => if g s.lead then f.goTo (pcTo s.fir.pc off) else f.advance) := by
  rw [branchOp, plain_issues h]
  cases g s.lead <;> rfl

theorem slt_eq_decide (a b : Word) : a.slt b = decide (a.toInt < b.toInt) := rfl

theorem ult_eq_decide (a b : Word) : a.ult b = decide (a.toNat < b.toNat) := rfl

theorem not_decide_lt {α : Type} [LinearOrder α] (a b : α) : (!decide (a < b)) = decide (b ≤ a) := by
  rw [← decide_not]
  exact decide_eq_decide.mpr not_lt

theorem bne_decide (a b : Word) : (a != b) = decide (a ≠ b) := by
  rw [decide_not]; rfl

/-- Every branch is the one branch operation with its rule's condition on the leader's registers. -/
theorem exec_branchTaken {s : State} {i : Instr} {taken : Bool} {off : Int} (h : branchTaken s.lead i = some (taken, off)) :
    ∃ g : Firing → Bool, g s.lead = taken ∧ exec i s = branchOp i g off s := by
  cases i with
  | beq a b o => cases h; exact ⟨_, rfl, exec_beq a b o s⟩
  | bne a b o => cases h; exact ⟨_, bne_decide _ _, exec_bne a b o s⟩
  | blt a b o => cases h; exact ⟨_, rfl, exec_blt a b o s⟩
  | bge a b o => cases h; exact ⟨_, not_decide_lt _ _, exec_bge a b o s⟩
  | bltu a b o => cases h; exact ⟨_, rfl, exec_bltu a b o s⟩
  | bgeu a b o => cases h; exact ⟨_, not_decide_lt _ _, exec_bgeu a b o s⟩
  | beqz a o => cases h; exact ⟨_, rfl, exec_beqz a o s⟩
  | bnez a o => cases h; exact ⟨_, bne_decide _ _, exec_bnez a o s⟩
  | _ => cases h

theorem jalr_target_iff (t : Word) : (bits t 63 57 == 0 && bits t 1 0 == 0) = true ↔ t.toNat < 2 ^ 57 ∧ t.toNat % 4 = 0 := by
  have ht := t.isLt
  simp only [bits, Bool.and_eq_true, beq_iff_eq]
  omega

theorem check_true {c : Cause} {v : Word} {b : Bool} (h : b = true) : check b c v = .ok () := by subst h; rfl

/-- Settles O5. -/
theorem controlTransfers : Obligations.ControlTransfers := by
  unfold Obligations.ControlTransfers
  refine ⟨fun s i taken off hi ht => ?_, fun s d a o n l => ⟨fun hi => ?_, fun hi => ?_, fun hi => ?_⟩⟩
  · obtain ⟨g, rfl, hexec⟩ := exec_branchTaken ht
    exact hexec.trans (branchOp_issues hi)
  · exact (exec_jal d o s).trans (plain_issues hi)
  · rw [exec_jalr, execJalr, plain_issues hi]
    dsimp only
    split_ifs with h
    · rw [check_true ((jalr_target_iff _).mpr h)]; rfl
    · rw [Bool.eq_false_iff.mpr (mt (jalr_target_iff _).mp h)]; rfl
  · rw [exec_loopn, execLoopn, plain_issues hi]
    dsimp only
    split_ifs with hleft hone hone
    · exact absurd (by rw [hone]; decide) hleft
    · rfl
    · rfl
    · exact absurd (by rwa [ne_eq, sub_eq_zero]) hleft

end Sys2Proof.Machine
end

section
/-! PROOF. The exact accumulation cell field by field (R67, R68). -/

namespace Sys2Proof.Machine

/-- The count of adds in a cell. -/
def cellCount (c : Nat) : Nat := c / 2 ^ 320 % 2 ^ 32

/-- A sum that does not fit the 320 bits of a cell. -/
def cellOver (z : Int) : Bool := decide (z < -(2 ^ 319 : Int)) || decide (2 ^ 319 ≤ z)

/-- The integer an add brings to a cell's sum; NaN and infinity bring none. -/
def cellTerm (F : Fmt) (a : Nat) : Int := match F.value a with
  | .fin neg m e => if neg then -((m * 2 ^ (e + 149).toNat : Nat) : Int) else ((m * 2 ^ (e + 149).toNat : Nat) : Int)
  | _ => 0

/-- The flags an add sets: NaN, infinity, minus infinity. -/
def cellNan (F : Fmt) (a : Nat) : Bool := match F.value a with
  | .nan _ _ => true
  | _ => false

def cellPinf (F : Fmt) (a : Nat) : Bool := match F.value a with
  | .inf neg => !neg
  | _ => false

def cellNinf (F : Fmt) (a : Nat) : Bool := match F.value a with
  | .inf neg => neg
  | _ => false

theorem cellOver_eq_false {z : Int} : cellOver z = false ↔ -(2 ^ 319 : Int) ≤ z ∧ z < 2 ^ 319 := by
  rw [cellOver, Bool.or_eq_false_iff, decide_eq_false_iff_not, decide_eq_false_iff_not, not_lt, not_le]

theorem cellSum_fits (c : Nat) : cellOver (cellSum c) = false := by
  have hlt : c % 2 ^ 320 < 2 ^ 320 := Nat.mod_lt _ (Nat.two_pow_pos 320)
  rw [cellOver_eq_false, cellSum]
  split_ifs <;> omega

theorem cellCount_lt (c : Nat) : cellCount c < 2 ^ 32 := Nat.mod_lt _ (by decide)

/-- The count after one more add, and whether it has saturated. -/
def cellNextCount (c : Nat) : Nat := if cellCount c == 2 ^ 32 - 1 then cellCount c else cellCount c + 1

def cellNextSat (c : Nat) : Bool := cellBit c 356 || cellCount c == 2 ^ 32 - 1

theorem cellNextCount_lt (c : Nat) : cellNextCount c < 2 ^ 32 := by
  have h := cellCount_lt c
  rw [cellNextCount]
  split_ifs with hfull
  · exact h
  · rw [beq_iff_eq] at hfull; omega

/-- One add, each field of the cell from the same field and the value added. -/
theorem cellAdd_eq (F : Fmt) (c a : Nat) : cellAdd F c a =
    cellPack (cellSum c + cellTerm F a) (cellNextCount c) (cellBit c 352 || cellNan F a) (cellBit c 353 || cellPinf F a)
      (cellBit c 354 || cellNinf F a) (cellBit c 355 || cellOver (cellSum c + cellTerm F a)) (cellNextSat c) := by
  simp only [cellAdd, cellTerm, cellNan, cellPinf, cellNinf]
  cases F.value a with
  | nan neg frac => rw [add_zero, cellSum_fits, Bool.or_true, Bool.or_false, Bool.or_false, Bool.or_false]; rfl
  | inf neg => rw [add_zero, cellSum_fits, Bool.or_false, Bool.or_false]; rfl
  | fin neg m e => rw [Bool.or_false, Bool.or_false, Bool.or_false, cellOver, ← Bool.or_assoc]; rfl

section
variable {z : Int} {n : Nat} {nan pinf ninf ovf csat : Bool}

theorem cellSum_cellPack (h : cellOver z = false) : cellSum (cellPack z n nan pinf ninf ovf csat) = z := by
  rw [cellOver_eq_false] at h
  have hmod : cellPack z n nan pinf ninf ovf csat % 2 ^ 320 = (z % 2 ^ 320).toNat := by
    unfold cellPack; omega
  rw [cellSum, hmod]
  split_ifs <;> omega

theorem cellCount_cellPack (h : n < 2 ^ 32) : cellCount (cellPack z n nan pinf ninf ovf csat) = n := by
  unfold cellCount cellPack; omega

/-- The flags of a cell as one number. -/
theorem cellPack_flags (h : n < 2 ^ 32) : cellPack z n nan pinf ninf ovf csat / 2 ^ 352 =
    nan.toNat + 2 * pinf.toNat + 4 * ninf.toNat + 8 * ovf.toNat + 16 * csat.toNat := by
  unfold cellPack; omega

theorem cellBit_flags (c k : Nat) : cellBit c (352 + k) = (c / 2 ^ 352).testBit k := by
  rw [cellBit, Nat.pow_add, ← Nat.div_div_eq_div_mul, Nat.testBit_eq_decide_div_mod_eq]; rfl

/-- The five flags of a cell laid out. -/
theorem cellBit_cellPack (h : n < 2 ^ 32) :
    cellBit (cellPack z n nan pinf ninf ovf csat) 352 = nan ∧ cellBit (cellPack z n nan pinf ninf ovf csat) 353 = pinf ∧
      cellBit (cellPack z n nan pinf ninf ovf csat) 354 = ninf ∧ cellBit (cellPack z n nan pinf ninf ovf csat) 355 = ovf ∧
      cellBit (cellPack z n nan pinf ninf ovf csat) 356 = csat := by
  have hbit := fun k => (cellBit_flags (cellPack z n nan pinf ninf ovf csat) k).trans (by rw [cellPack_flags h])
  rw [hbit 0, hbit 1, hbit 2, hbit 3, hbit 4]
  clear hbit
  revert nan pinf ninf ovf csat
  decide

end

section
variable {F : Fmt} {c x y : Nat}

theorem cellBit_cellAdd : cellBit (cellAdd F c x) 352 = (cellBit c 352 || cellNan F x) ∧
    cellBit (cellAdd F c x) 353 = (cellBit c 353 || cellPinf F x) ∧ cellBit (cellAdd F c x) 354 = (cellBit c 354 || cellNinf F x) ∧
    cellBit (cellAdd F c x) 355 = (cellBit c 355 || cellOver (cellSum c + cellTerm F x)) ∧ cellBit (cellAdd F c x) 356 = cellNextSat c := by
  rw [cellAdd_eq]
  exact cellBit_cellPack (cellNextCount_lt c)

theorem cellCount_cellAdd : cellCount (cellAdd F c x) = cellNextCount c := by
  rw [cellAdd_eq, cellCount_cellPack (cellNextCount_lt c)]

/-- Two adds of which neither overflows, from the cell before both. -/
theorem cellAdd_cellAdd (h : cellBit (cellAdd F (cellAdd F c x) y) 355 = false) : cellAdd F (cellAdd F c x) y =
    cellPack (cellSum c + (cellTerm F x + cellTerm F y))
      (if cellNextCount c == 2 ^ 32 - 1 then cellNextCount c else cellNextCount c + 1)
      (cellBit c 352 || (cellNan F x || cellNan F y)) (cellBit c 353 || (cellPinf F x || cellPinf F y))
      (cellBit c 354 || (cellNinf F x || cellNinf F y)) false (cellNextSat c || cellNextCount c == 2 ^ 32 - 1) := by
  obtain ⟨hnan, hpinf, hninf, hovf, hsat⟩ := cellBit_cellAdd (F := F) (c := c) (x := x)
  obtain ⟨-, -, -, hovf', -⟩ := cellBit_cellAdd (F := F) (c := cellAdd F c x) (x := y)
  rw [hovf', Bool.or_eq_false_iff, hovf, Bool.or_eq_false_iff] at h
  obtain ⟨⟨hc, hx⟩, hy⟩ := h
  have hsum : cellSum (cellAdd F c x) = cellSum c + cellTerm F x := by rw [cellAdd_eq, cellSum_cellPack hx]
  rw [cellAdd_eq F (cellAdd F c x) y, hnan, hpinf, hninf, hovf, hc, hx, hy, hsum, cellNextCount, cellNextSat, cellCount_cellAdd, hsat, add_assoc,
    Bool.or_assoc, Bool.or_assoc, Bool.or_assoc]
  rfl

end

/-- Settles O21: after two adds every field of the cell is the same function of both values in either order. -/
theorem exactCellsCommute : Obligations.ExactCellsCommute := by
  unfold Obligations.ExactCellsCommute
  intro F c x y _ hxy hyx
  rw [cellAdd_cellAdd hxy, cellAdd_cellAdd hyx, add_comm (cellTerm F x), Bool.or_comm (cellNan F x), Bool.or_comm (cellPinf F x),
    Bool.or_comm (cellNinf F x)]

end Sys2Proof.Machine
end

section
/-! PROOF. CSR instructions, CSR by CSR (R210 to R212). -/

namespace Sys2Proof.Machine

/-- A state after a write to CSR c: that register reads w, every other CSR, the rest of the context and memory are as before. -/
def State.csrNow (t s : State) (c : Nat) (w : Word) : Prop :=
  csrValue t c = some w ∧ (∀ n, n ≠ c → csrValue t n = csrValue s n) ∧ t.fir.sameBesideCsrs s.fir ∧ t.mem = s.mem

section
variable (s : State) (w : Word)

theorem csrNow_same {c : Nat} (h : csrValue s c = some w) : s.csrNow s c w := ⟨h, fun _ _ => rfl, rfl, rfl⟩

/-- The CSRs that are fields of the context, each with its update. -/
def csrFields : List (Nat × (Word → Firing → Firing)) :=
  [(0x008, fun w f => { f with fstat := w }), (0x009, fun w f => { f with fflags := w }), (0x00A, fun w f => { f with frm := w }),
   (0x00B, fun w f => { f with srix := w }), (0x010, fun w f => { f with utvec := w }), (0x011, fun w f => { f with tcause := w }),
   (0x012, fun w f => { f with tval := w }), (0x013, fun w f => { f with tpc := w }), (0x014, fun w f => { f with tstat := w }),
   (0x015, fun w f => { f with trepw := w }), (0x016, fun w f => { f with trepf := w }), (0x017, fun w f => { f with tfmt := w }),
   (0x018, fun w f => { f with qlim := w }), (0x019, fun w f => { f with fewlim := w }), (0x030, fun w f => { f with seedlo := w }),
   (0x031, fun w f => { f with seedhi := w }), (0x032, fun w f => { f with sstream := w })]

theorem csrNow_field : ∀ k ∈ csrFields, (s.upd (k.2 w)).csrNow s k.1 w := by
  simp only [csrFields, List.forall_mem_cons, List.not_mem_nil, false_imp_iff, implies_true, and_true]
  refine ⟨?_, ?_, ?_, ?_, ?_, ?_, ?_, ?_, ?_, ?_, ?_, ?_, ?_, ?_, ?_, ?_, ?_⟩
  all_goals
    refine ⟨rfl, fun n h => ?_, rfl, rfl⟩
    unfold csrValue
    split <;> trivial

theorem csrNow_tshape (i : Fin 8) : (s.upd fun f => { f with tshape := f.tshape.set i w }).csrNow s (0x020 + i.val) w := by
  refine ⟨?_, fun n h => ?_, rfl, rfl⟩
  · fin_cases i <;> exact congrArg some (Vector.getElem_set_self _)
  · unfold csrValue
    split
    case h_22 | h_23 | h_24 | h_25 | h_26 | h_27 | h_28 | h_29 => exact congrArg some (Vector.getElem_set_ne i.isLt _ (by omega))
    all_goals rfl

theorem csrNow_dqbase : (s.onCore s.fir.core fun x => { x with dqbase := w }).csrNow s 0x040 w := by
  refine ⟨?_, fun n h => ?_, rfl, rfl⟩
  · exact congrArg (fun x : CoreSt => some x.dqbase) (Vector.getElem_set_self _)
  · unfold csrValue
    split
    case h_33 => contradiction
    all_goals rfl

theorem fr_onFrond_fir (g : Frond → Frond) : (s.onFrond s.fir.frond g).fr = g s.fr := Vector.getElem_set_self _

theorem csrNow_swin (i : Fin 8) :
    (s.onFrond s.fir.frond fun x => { x with swin := x.swin.set i w }).csrNow s (0x048 + i.val) w := by
  have hfr := fr_onFrond_fir s fun x => { x with swin := x.swin.set i w }
  refine ⟨?_, fun n h => ?_, rfl, rfl⟩
  · have hsome : some (s.fr.swin.set i w)[i] = some w := congrArg some (Vector.getElem_set_self _)
    fin_cases i <;> exact (congrArg (fun x : Frond => some x.swin[_]) hfr).trans hsome
  · unfold csrValue
    rw [hfr]
    split
    case h_34 | h_35 | h_36 | h_37 | h_38 | h_39 | h_40 | h_41 => exact congrArg some (Vector.getElem_set_ne i.isLt _ (by omega))
    all_goals rfl

end

/-! ## What a write makes of each register -/

theorem csrRead_of_value {s : State} {c : BitVec 11} {old : Word} (h : csrValue s c.toNat = some old) : s.csrRead c = (old, s) := by
  unfold csrValue at h
  unfold State.csrRead
  split at h
  case h_42 => exact absurd h (by simp)
  all_goals simp_all [Firing.frond]

theorem limitOf_eq (v : Word) : limitOf v = BitVec.ofNat 64 (max (v.toNat % 2 ^ 32) 64) := by
  have hand : v &&& maskBits 31 0 = BitVec.ofNat 64 (v.toNat % 2 ^ 32) := by
    refine BitVec.eq_of_toNat_eq ?_
    rw [BitVec.toNat_and, show (maskBits 31 0).toNat = 2 ^ 32 - 1 from rfl, Nat.and_two_pow_sub_one_eq_mod, BitVec.toNat_ofNat]
    omega
  rw [limitOf, hand, bits, Nat.pow_zero, Nat.div_one]
  split_ifs with h
  · rw [Nat.max_eq_right (by omega)]; rfl
  · rw [Nat.max_eq_left (by omega)]

theorem setBits_fstat (o v : Word) : setBits o 3 1 (bits v 3 1) = (o &&& ~~~0xE#64) ||| (v &&& 0xE#64) := by
  have hfield : BitVec.ofNat 64 (bits v 3 1 % 2 ^ (3 + 1 - 1) * 2 ^ 1) = v &&& 0xE#64 := by
    have hv : v &&& 0xE#64 = ((v >>> 1) &&& 0x7#64) <<< 1 := by
      refine BitVec.eq_of_getLsbD_eq fun i hi => ?_
      interval_cases i <;> simp
    refine BitVec.eq_of_toNat_eq ?_
    rw [hv, BitVec.toNat_shiftLeft, BitVec.toNat_and, BitVec.toNat_ushiftRight, show (0x7#64).toNat = 2 ^ 3 - 1 from rfl,
      Nat.and_two_pow_sub_one_eq_mod, BitVec.toNat_ofNat, bits, Nat.shiftRight_eq_div_pow, Nat.shiftLeft_eq]
    omega
  rw [setBits, hfield]; rfl

theorem setBit_dqbase (v : Word) : setBit (v &&& maskBits 19 6) 63 true = (v &&& 0xFFFC0#64) ||| 0x8000000000000000#64 := by
  have hclear : v &&& 0xFFFC0#64 &&& 0x7FFFFFFFFFFFFFFF#64 = v &&& 0xFFFC0#64 := by rw [BitVec.and_assoc]; rfl
  rw [setBit, setBits]
  exact congrArg (· ||| 0x8000000000000000#64) hclear

/-- The CSR numbers that have a register below 0x400. -/
theorem csrValue_number {s : State} {n : Nat} {old : Word} (h : csrValue s n = some old) :
    n ≤ 6 ∨ (∃ k ∈ csrFields, n = k.1) ∨ (∃ i : Fin 8, n = 0x020 + i.val) ∨ n = 0x040 ∨ ∃ i : Fin 8, n = 0x048 + i.val := by
  unfold csrValue at h
  split at h
  case h_1 | h_2 | h_3 | h_4 | h_5 | h_6 | h_7 => exact .inl (by decide)
  case h_22 | h_23 | h_24 | h_25 | h_26 | h_27 | h_28 | h_29 => exact .inr (.inr (.inl (by decide)))
  case h_33 => exact .inr (.inr (.inr (.inl rfl)))
  case h_34 | h_35 | h_36 | h_37 | h_38 | h_39 | h_40 | h_41 => exact .inr (.inr (.inr (.inr (by decide))))
  case h_42 => exact absurd h (by simp)
  all_goals exact .inr (.inl (by simp [csrFields]))

section
variable {s : State} {c : BitVec 11} {old : Word} (v : Word)

theorem csrKeeps_readOnly {n : Nat} (h : n ≤ 6) : csrKeeps n old v = old := if_pos h

theorem csrKeeps_frm : csrKeeps 0x00A old v = if v.toNat % 8 ≤ 4 then v &&& 7#64 else old := rfl

theorem csrWrite_readOnly (h : c.toNat ≤ 6) : s.csrWrite c v = s := by
  unfold State.csrWrite
  split
  case h_19 => rw [dif_neg (by omega), dif_neg (by omega)]
  all_goals omega

theorem csrWrite_field : ∀ k ∈ csrFields, c.toNat = k.1 → csrValue s k.1 = some old → s.csrWrite c v = s.upd (k.2 (csrKeeps k.1 old v)) := by
  simp only [csrFields, List.forall_mem_cons, List.not_mem_nil, false_imp_iff, implies_true, and_true]
  refine ⟨?_, ?_, ?_, ?_, ?_, ?_, ?_, ?_, ?_, ?_, ?_, ?_, ?_, ?_, ?_, ?_, ?_⟩
  all_goals
    intro hc hold
    obtain rfl := Option.some.inj hold
    simp only [State.csrWrite, hc]
  case refine_1 => exact congrArg (fun w => s.upd fun f => { f with fstat := w }) (setBits_fstat _ _)
  case refine_3 =>
    rw [bits, Nat.pow_zero, Nat.div_one, csrKeeps_frm]
    by_cases h : v.toNat % 8 ≤ 4
    · rw [if_pos (by exact h), if_pos h]; rfl
    · rw [if_neg (by exact h), if_neg h]; rfl
  case refine_13 => exact congrArg (fun w => s.upd fun f => { f with qlim := w }) (limitOf_eq v)
  case refine_14 => exact congrArg (fun w => s.upd fun f => { f with fewlim := w }) (limitOf_eq v)
  all_goals rfl

theorem csrWrite_tshape (i : Fin 8) (hc : c.toNat = 0x020 + i.val) :
    s.csrWrite c v = s.upd fun f => { f with tshape := f.tshape.set i (csrKeeps (0x020 + i.val) old v) } := by
  have hcase : ∀ i : Fin 8, csrKeeps (0x020 + i.val) old v = v &&& (maskBits 31 31 ||| maskBits 15 0) := by
    intro i; fin_cases i <;> rfl
  rw [hcase]
  unfold State.csrWrite
  split
  case h_19 => rw [dif_pos (by omega)]; simp only [hc, Nat.add_sub_cancel_left]
  all_goals omega

theorem csrWrite_swin (i : Fin 8) (hc : c.toNat = 0x048 + i.val) :
    s.csrWrite c v = s.onFrond s.fir.frond fun x => { x with swin := x.swin.set i (csrKeeps (0x048 + i.val) old v) } := by
  have hcase : ∀ i : Fin 8, csrKeeps (0x048 + i.val) old v = v &&& (maskBits 63 60 ||| maskBits 47 8) := by
    intro i; fin_cases i <;> rfl
  rw [hcase]
  unfold State.csrWrite
  split
  case h_19 => rw [dif_neg (by omega), dif_pos (by omega)]; simp only [hc, Nat.add_sub_cancel_left]
  all_goals omega

theorem csrWrite_dqbase (hc : c.toNat = 0x040) :
    s.csrWrite c v = s.onCore s.fir.core fun x => { x with dqbase := csrKeeps 0x040 old v } := by
  simp only [State.csrWrite, hc, setBit_dqbase]
  rfl

/-- A write to a CSR is the register's own kept bits and nothing else. -/
theorem csrWrite_now (h : csrValue s c.toNat = some old) : (s.csrWrite c v).csrNow s c.toNat (csrKeeps c.toNat old v) := by
  obtain hro | ⟨k, hk, hc⟩ | ⟨i, hc⟩ | hc | ⟨i, hc⟩ := csrValue_number h
  · rw [csrWrite_readOnly v hro, csrKeeps_readOnly v hro]
    exact csrNow_same s old h
  · rw [csrWrite_field v k hk hc (hc ▸ h), hc]
    exact csrNow_field s _ k hk
  · rw [csrWrite_tshape v i hc (old := old), hc]
    exact csrNow_tshape s _ i
  · rw [csrWrite_dqbase v hc (old := old), hc]
    exact csrNow_dqbase s _
  · rw [csrWrite_swin v i hc (old := old), hc]
    exact csrNow_swin s _ i

theorem csrPriv_of_value (h : csrValue s c.toNat = some old) : csrPriv c s = false := by
  have hlt : c.toNat < 0x400 := by
    obtain hro | ⟨k, hk, hc⟩ | ⟨i, hc⟩ | hc | ⟨i, hc⟩ := csrValue_number h
    · omega
    · exact hc ▸ (by decide : ∀ k ∈ csrFields.map Prod.fst, k < 0x400) k.1 (List.mem_map_of_mem hk)
    all_goals omega
  simp [csrPriv, Nat.not_le.mpr hlt]

theorem csrOp_issues {i : Instr} {d a : BitVec 6} {writes : Bool} {g : Word → Word → Word} (hi : s.Issues i) (h : csrValue s c.toNat = some old) :
    csrOp i d c a writes g s = .next (((if writes then s.csrWrite c (g old (s.rx a)) else s).wx d old).upd Firing.advance) := by
  rw [csrOp, issue_issues hi rfl (csrPriv_of_value h), csrRead_of_value h]
  rfl

end

/-! ## Supervisor CSRs -/

theorem csrRead_supervisor {s : State} {c : BitVec 11} (h : 0x400 ≤ c.toNat) :
    s.csrRead c = (Config.dword s.free, { s with free := s.free + 1 }) := by
  unfold State.csrRead
  dsimp only
  split
  case h_26 => rw [dif_neg (by omega), dif_neg (by omega), if_pos h]; rfl
  all_goals omega

theorem csrWrite_supervisor {s : State} {c : BitVec 11} (v : Word) (h : 0x400 ≤ c.toNat) : s.csrWrite c v = s := by
  unfold State.csrWrite
  split
  case h_19 => rw [dif_neg (by omega), dif_neg (by omega)]
  all_goals omega

/-- An instruction that a team firing may not run takes PRIV with its word. -/
theorem issue_priv {s : State} {i : Instr} {priv : State → Bool} {body : State → Except Stop Done} (hi : s.Issues i) (hp : priv s = true) :
    issue (descOf i) false never priv body s = .next (s.trapHere { c := .priv, sub := 0, val := BitVec.setWidth 64 (encode i) }) := by
  obtain ⟨ha, hf, hk, hs, -⟩ := hi
  rw [issue, if_neg (by simp [ha]), if_neg (by simpa [descOf, never, hf, hk] using hs), if_pos hp]
  rfl

theorem csrOp_priv {s : State} {c : BitVec 11} {i : Instr} {d a : BitVec 6} {writes : Bool} {g : Word → Word → Word} (hi : s.Issues i)
    (hteam : s.fir.sup = false) (h : 0x400 ≤ c.toNat) :
    csrOp i d c a writes g s = .next (s.trapHere { c := .priv, sub := 0, val := BitVec.setWidth 64 (encode i) }) :=
  issue_priv hi (by simp [csrPriv, teamFiring, hteam, h])

theorem csrOp_supervisor {s : State} {c : BitVec 11} {i : Instr} {d a : BitVec 6} {writes : Bool} {g : Word → Word → Word} (hi : s.Issues i)
    (hsup : s.fir.sup = true) (h : 0x400 ≤ c.toNat) :
    csrOp i d c a writes g s = .next ((({ s with free := s.free + 1 }).wx d (Config.dword s.free)).upd Firing.advance) := by
  rw [csrOp, issue_issues hi rfl (by simp [csrPriv, teamFiring, hsup]), csrRead_supervisor h]
  cases writes with
  | false => rfl
  | true => exact congrArg (fun t : State => Host.Outcome.next ((t.wx d (Config.dword s.free)).upd Firing.advance)) (csrWrite_supervisor _ h)

section
variable (s : State) (d a : BitVec 6) (c : BitVec 11)

theorem exec_csrw_op : exec (.csrw d c a) s = csrOp (.csrw d c a) d c a true (fun _ x => x) s := exec_csrw d c a s

theorem exec_csrs_op : exec (.csrs d c a) s = csrOp (.csrs d c a) d c a (a != 0) (fun t x => t ||| x) s := exec_csrs d c a s

theorem exec_csrc_op : exec (.csrc d c a) s = csrOp (.csrc d c a) d c a (a != 0) (fun t x => t &&& ~~~x) s := exec_csrc d c a s

end

theorem ite_bne_zero {α : Type} (a : BitVec 6) (x y : α) : (if a != 0 then x else y) = if a = 0 then y else x := by
  by_cases h : a = 0 <;> simp [h]

/-- Settles O7. -/
theorem specialRegisters : Obligations.SpecialRegisters := by
  unfold Obligations.SpecialRegisters
  refine ⟨fun s d a c old h => ⟨fun hi => ?_, fun hi => ?_, fun hi => ?_⟩, fun s c old v h => csrWrite_now v h,
    fun s d a c hsup h => ⟨fun hi => ?_, fun hi => ?_, fun hi => ?_⟩, fun s d a c hsup => ⟨fun hi => ?_, fun h => ⟨fun hi => ?_, fun hi => ?_, fun hi => ?_⟩⟩⟩
  · rw [exec_csrw_op, csrOp_issues hi h]; rfl
  · rw [exec_csrs_op, csrOp_issues hi h, ite_bne_zero]
  · rw [exec_csrc_op, csrOp_issues hi h, ite_bne_zero]
  · rw [exec_csrw_op, csrOp_supervisor hi hsup h]
  · rw [exec_csrs_op, csrOp_supervisor hi hsup h]
  · rw [exec_csrc_op, csrOp_supervisor hi hsup h]
  · rw [exec_halt, execHalt, issue_priv hi (by simp [teamFiring, hsup])]
  · rw [exec_csrw_op, csrOp_priv hi hsup h]
  · rw [exec_csrs_op, csrOp_priv hi hsup h]
  · rw [exec_csrc_op, csrOp_priv hi hsup h]

end Sys2Proof.Machine
end

section
/-! SUPPORT. Fields of a dword: what a replaced field reads as and which bits stay. -/

namespace Sys2Proof.Machine

theorem bits_testBit (w : Word) (hi lo j : Nat) : (bits w hi lo).testBit j = (decide (j < hi + 1 - lo) && w.getLsbD (lo + j)) := by
  rw [bits, Nat.testBit_mod_two_pow, Nat.testBit_div_two_pow, BitVec.getLsbD, Nat.add_comm j lo]

/-- A bit of a dword with a field replaced. -/
theorem setBits_getLsbD {hi : Nat} (hhi : hi < 64) (w : Word) (lo v i : Nat) :
    (setBits w hi lo v).getLsbD i = if lo ≤ i ∧ i ≤ hi then v.testBit (i - lo) else w.getLsbD i := by
  have hmask : ((2 ^ (hi + 1 - lo) - 1) * 2 ^ lo).testBit i = decide (lo ≤ i ∧ i ≤ hi) := by
    rw [Nat.testBit_mul_two_pow, Nat.testBit_two_pow_sub_one, ← Bool.decide_and]
    exact decide_eq_decide.mpr (by omega)
  have hfield : (v % 2 ^ (hi + 1 - lo) * 2 ^ lo).testBit i = (decide (lo ≤ i ∧ i ≤ hi) && v.testBit (i - lo)) := by
    rw [Nat.testBit_mul_two_pow, Nat.testBit_mod_two_pow, ← Bool.and_assoc, ← Bool.decide_and]
    exact congrArg (· && _) (decide_eq_decide.mpr (by omega))
  rw [setBits, BitVec.getLsbD_or, BitVec.getLsbD_and, BitVec.getLsbD_not, BitVec.getLsbD_ofNat, BitVec.getLsbD_ofNat, hmask, hfield]
  by_cases hin : lo ≤ i ∧ i ≤ hi
  · simp [hin, show i < 64 by omega]
  · by_cases hi64 : i < 64
    · simp [hin, hi64]
    · simp [hin, hi64, BitVec.getLsbD_of_ge w i (by omega)]

theorem setBit_getLsbD {n : Nat} (hn : n < 64) (w : Word) (b : Bool) (i : Nat) :
    (setBit w n b).getLsbD i = if i = n then b else w.getLsbD i := by
  rw [setBit, setBits_getLsbD hn]
  by_cases h : i = n
  · subst h; cases b <;> simp
  · rw [if_neg (by omega), if_neg h]

theorem bits_setBits_same {hi : Nat} (hhi : hi < 64) (w : Word) (lo v : Nat) : bits (setBits w hi lo v) hi lo = v % 2 ^ (hi + 1 - lo) := by
  refine Nat.eq_of_testBit_eq fun j => ?_
  rw [bits_testBit, setBits_getLsbD hhi, Nat.testBit_mod_two_pow]
  by_cases h : j < hi + 1 - lo
  · simp [h, show lo + j ≤ hi by omega]
  · simp [h]

/-- A part of a field that has been replaced. -/
theorem bits_setBits_within {hi : Nat} (hhi : hi < 64) (w : Word) (lo v : Nat) {hi' lo' : Nat} (hl : lo ≤ lo') (hh : hi' ≤ hi) :
    bits (setBits w hi lo v) hi' lo' = v / 2 ^ (lo' - lo) % 2 ^ (hi' + 1 - lo') := by
  refine Nat.eq_of_testBit_eq fun j => ?_
  rw [bits_testBit, setBits_getLsbD hhi, Nat.testBit_mod_two_pow, Nat.testBit_div_two_pow]
  by_cases hj : j < hi' + 1 - lo'
  · simp only [hj, show lo ≤ lo' + j ∧ lo' + j ≤ hi by omega, and_self, if_true, show lo' + j - lo = j + (lo' - lo) by omega]
  · simp [hj]

/-- A field of a dword whose bits are another's. -/
theorem bits_congr {w w' : Word} {hi lo : Nat} (h : ∀ i, lo ≤ i → i ≤ hi → w.getLsbD i = w'.getLsbD i) : bits w hi lo = bits w' hi lo := by
  refine Nat.eq_of_testBit_eq fun j => ?_
  rw [bits_testBit, bits_testBit]
  by_cases hj : j < hi + 1 - lo
  · rw [h (lo + j) (by omega) (by omega)]
  · simp [hj]

theorem bits_setBits_other {hi : Nat} (hhi : hi < 64) (w : Word) (lo v : Nat) {hi' lo' : Nat} (h : hi < lo' ∨ hi' < lo) :
    bits (setBits w hi lo v) hi' lo' = bits w hi' lo' :=
  bits_congr fun i hl hh => by rw [setBits_getLsbD hhi, if_neg (by omega)]

theorem bits_setBit_other {n : Nat} (hn : n < 64) (w : Word) (b : Bool) {hi lo : Nat} (h : n < lo ∨ hi < n) :
    bits (setBit w n b) hi lo = bits w hi lo := bits_setBits_other hn w n b.toNat h

theorem bits_lt (w : Word) (hi lo : Nat) : bits w hi lo < 2 ^ (hi + 1 - lo) := Nat.mod_lt _ (Nat.two_pow_pos _)

end Sys2Proof.Machine
end

section
/-! SUPPORT. A firing's waits withdrawn (R121, R150, R198). -/

namespace Sys2Proof.Machine

theorem State.onFiring_other {s : State} {n : Nat} (h : n ≠ s.fir.adm) (g : Firing → Firing) :
    s.onFiring n g = { s with others := s.others.map fun f => if f.adm == n then g f else f } :=
  if_neg (by simp [Ne.symm h])

/-- A state that differs from another at most in the firings beside the acting one, the fronds and the gangs. -/
def State.beside (t s : State) : Prop := t = { s with others := t.others, fronds := t.fronds, gangs := t.gangs }

theorem State.beside_trans {s t u : State} (htu : u.beside t) (hst : t.beside s) : u.beside s := by
  rw [State.beside] at *
  rw [hst] at htu
  exact htu

/-- None of the waiters at a frond's semaphores is the acting firing. -/
def State.waitersElse (s : State) (h : Fin 1024) : Prop := ∀ w ∈ s.fronds[h].hsq, w.adm ≠ s.fir.adm

/-- Semaphores served where the acting firing does not wait. -/
theorem State.serveSem_beside {s : State} {h : Fin 1024} (hq : s.waitersElse h) (n : Fin 16) (k : Nat) :
    (s.serveSem h n k).beside s ∧ (s.serveSem h n k).waitersElse h := by
  induction k generalizing s with
  | zero => exact ⟨rfl, hq⟩
  | succ k ih =>
    rw [State.serveSem]
    split
    · exact ⟨rfl, hq⟩
    next w hw =>
      dsimp only
      split_ifs with hamt
      · have hother : w.adm ≠ s.fir.adm := hq w (List.mem_of_find?_eq_some hw)
        rw [State.onFiring_other (by exact hother)]
        refine (ih ?_).imp_left fun hb => hb.trans ?_
        · intro x hx
          have hmem : x ∈ s.fronds[h].hsq.erase w := by simpa [State.noteUndo] using hx
          exact hq x (List.mem_of_mem_erase hmem)
        · rfl
      · exact ⟨rfl, hq⟩

theorem State.serveSems_beside {s : State} {h : Fin 1024} (hq : s.waitersElse h) : (s.serveSems h).beside s := by
  suffices hall : ∀ (ns : List (Fin 16)) (s : State), s.waitersElse h →
      (ns.foldl (fun (s : State) n => s.serveSem h n s.fronds[h].hsq.length) s).beside s from hall _ s hq
  intro ns
  induction ns with
  | nil => exact fun s _ => rfl
  | cons n ns ih =>
    intro s hq
    obtain ⟨hb, hq'⟩ := State.serveSem_beside hq n s.fronds[h].hsq.length
    exact State.beside_trans (ih _ hq') hb

/-- A firing with nothing it waits for. -/
def Firing.calm (f : Firing) : Firing := { f with wait := none, granted := false, aged := false, pends := [], late := none, data := [], repbuf := [] }

/-- A state that differs from another at most in the units that a wait of a firing stands in, beside the acting firing. -/
def State.waitless (t s : State) : Prop :=
  t = { s with others := t.others, fronds := t.fronds, gangs := t.gangs, retry := t.retry, agenda := t.agenda }

theorem State.beside_waitless {s t u : State} (htu : u.beside t) (hst : t.waitless s) : u.waitless s := by
  rw [State.beside] at htu
  rw [State.waitless] at *
  rw [hst] at htu
  rw [htu]

theorem State.firing?_own_live {s : State} (h : s.fir.live = true) : s.firing? s.fir.adm = some s.fir := if_pos (by simp [h])

theorem State.onFiring_own_live {s : State} {n : Nat} (h : s.fir.live = true) (hn : s.fir.adm = n) (g : Firing → Firing) :
    s.onFiring n g = { s with fir := g s.fir } := if_pos (by simp [h, hn])

theorem State.onFiring_own_dead {s : State} (h : s.fir.live = false) (n : Nat) (g : Firing → Firing) :
    s.onFiring n g = { s with others := s.others.map fun f => if f.adm == n then g f else f } := if_neg (by simp [h])

/-- The queues of a frond without a firing's places. -/
def Frond.without (x : Frond) (n : Nat) : Frond :=
  { x with
    hsq := x.hsq.filter fun w => w.adm != n
    chans := x.chans.map fun (c : Option Copy) => match c with
      | some y => if y.adm == n && !y.live then none else some y
      | none => none }

/-- A firing's waits taken out of every unit, before the next semaphore waiters are served. -/
def State.unwaited (s : State) (h : Fin 1024) (n : Nat) : State :=
  ({ s.unlock h (.gather n 0) with
      retry := s.retry.filter fun w => w.adm != n, agenda := s.agenda.filter fun e => !e.waitOf n }.onFrond h fun x => x.without n).onFiring n
    Firing.calm

theorem State.withdraw_of_firing {s : State} {n : Nat} {f : Firing} (h : s.firing? n = some f) : s.withdraw n =
    if (s.fronds[f.frond].hsq.any fun w => w.adm == n) then (s.unwaited f.frond n).serveSems f.frond else s.unwaited f.frond n := by
  rw [State.withdraw, h]; rfl

theorem State.withdraw_of_none {s : State} {n : Nat} (h : s.firing? n = none) : s.withdraw n = s := by
  rw [State.withdraw, h]

theorem State.unwaited_own (s : State) (h : Fin 1024) :
    (s.unwaited h s.fir.adm).waitless { s with fir := if s.fir.live then s.fir.calm else s.fir } ∧
      ∀ w ∈ (s.unwaited h s.fir.adm).fronds[h].hsq, w.adm ≠ s.fir.adm := by
  have hfr : (s.unwaited h s.fir.adm).fronds = (s.unlock h (.gather s.fir.adm 0)).fronds.set h
      (((s.unlock h (.gather s.fir.adm 0)).fronds[h]).without s.fir.adm) := by
    rw [State.unwaited, State.onFiring]; split_ifs <;> rfl
  constructor
  · cases hl : s.fir.live with
    | true => rw [State.unwaited, State.onFiring_own_live (n := s.fir.adm) (by exact hl) (by rfl)]; rfl
    | false => rw [State.unwaited, State.onFiring_own_dead (by exact hl)]; rfl
  · rw [hfr]
    simp [Frond.without]

theorem State.waitless_fir {s t : State} (h : t.waitless s) : t.fir = s.fir := by
  rw [State.waitless] at h; rw [h]

/-- Withdrawing the acting firing's waits leaves of it all but its wait, and memory, the partitions and every count. -/
theorem State.withdraw_own (s : State) : (s.withdraw s.fir.adm).waitless { s with fir := if s.fir.live then s.fir.calm else s.fir } := by
  cases hf : s.firing? s.fir.adm with
  | none =>
    rw [State.withdraw_of_none hf]
    cases hl : s.fir.live with
    | true => rw [State.firing?_own_live hl] at hf; cases hf
    | false => rfl
  | some f =>
    obtain ⟨hfir, hq⟩ := s.unwaited_own f.frond
    have hadm : (s.unwaited f.frond s.fir.adm).fir.adm = s.fir.adm := by
      rw [State.waitless_fir hfir]; dsimp only; split_ifs <;> rfl
    rw [State.withdraw_of_firing hf]
    split
    · refine State.beside_waitless (State.serveSems_beside fun w hw => ?_) hfir
      rw [hadm]
      exact hq w hw
    · exact hfir

end Sys2Proof.Machine
end

section
/-! PROOF. Taking a trap (R193, R197, R198). -/

namespace Sys2Proof.Machine

/-- The firing whose waits have been withdrawn is the same but for its wait. -/
theorem State.withdraw_fir (s : State) : ∃ w g a p l d b, (s.withdraw s.fir.adm).fir =
    { s.fir with wait := w, granted := g, aged := a, pends := p, late := l, data := d, repbuf := b } := by
  rw [State.waitless_fir s.withdraw_own]
  cases s.fir.live with
  | true => exact ⟨_, _, _, _, _, _, _, rfl⟩
  | false => exact ⟨_, _, _, _, _, _, _, rfl⟩

theorem State.withdraw_mem (s : State) : (s.withdraw s.fir.adm).mem = s.mem := by
  have h := s.withdraw_own
  rw [State.waitless] at h
  rw [h]

theorem State.withdraw_parts (s : State) : (s.withdraw s.fir.adm).parts = s.parts := by
  have h := s.withdraw_own
  rw [State.waitless] at h
  rw [h]

theorem State.withdraw_traps (s : State) : (s.withdraw s.fir.adm).traps = s.traps := by
  have h := s.withdraw_own
  rw [State.waitless] at h
  rw [h]

/-- The state in which a trap is delivered: the waits withdrawn and the trap counted. -/
def State.trapping (s : State) : State := { s.withdraw s.fir.adm with traps := s.traps + 1 }

theorem State.deliver_eq (s : State) (user : Bool) (tc val tpc : Word) : s.deliver user tc val tpc =
    if user && s.fir.utvec != 0 && !s.fir.intrap then s.trapping.upd fun f => f.enterHandler tc val tpc else s.trapping.stopFor tc val tpc := by
  obtain ⟨_, _, _, _, _, _, _, hfir⟩ := s.withdraw_fir
  have hutvec : (s.withdraw s.fir.adm).fir.utvec = s.fir.utvec := by rw [hfir]
  have hintrap : (s.withdraw s.fir.adm).fir.intrap = s.fir.intrap := by rw [hfir]; rfl
  rw [State.deliver]
  dsimp only
  rw [hutvec, hintrap, State.withdraw_traps]
  rfl

theorem State.takeTrap_handler {s : State} {t : Trap} {pc : Word} (hu : t.c.user = true) (hv : s.fir.utvec ≠ 0) (hi : s.fir.intrap = false) :
    s.takeTrap false false t pc = s.trapping.upd fun f => f.enterHandler (tcauseOf false t.sub t.c.code) t.val pc := by
  rw [State.takeTrap, State.deliver_eq, if_pos (by simpa [hu, hi] using hv)]

theorem State.takeTrap_stop {s : State} {t : Trap} {pc : Word} (h : t.c.user = false ∨ s.fir.utvec = 0 ∨ s.fir.intrap = true) :
    s.takeTrap false false t pc = s.trapping.stopFor (tcauseOf false t.sub t.c.code) t.val pc := by
  rw [State.takeTrap, State.deliver_eq, if_neg (by rcases h with h | h | h <;> simp [h])]

theorem State.trapping_part (s : State) : s.trapping.part = s.part := by
  obtain ⟨_, _, _, _, _, _, _, hfir⟩ := s.withdraw_fir
  show (s.withdraw s.fir.adm).parts[(s.withdraw s.fir.adm).fir.part] = s.parts[s.fir.part]
  rw [State.withdraw_parts]
  simp only [hfir]

/-- A firing whose record waits for a slot. -/
theorem State.stopFor_full {s : State} (h : s.part.ringFull = true ∨ s.part.held ≠ []) (tc val tpc : Word) : s.stopFor tc val tpc =
    { s with fir := { (if s.fir.intrap then s.fir else { s.fir with tcause := tc, tval := val, tpc := tpc }) with
      pc := tpc, run := .stopped none (s.fir.trapRecord tc val tpc) } }.push .trapRecordAppend s.fir.adm 0 0 0 := by
  refine if_pos ?_
  rcases h with h | h <;> simp [h]

/-- A firing whose record goes to the tail of the ring. -/
theorem State.stopFor_room {s : State} (hf : s.part.ringFull = false) (hh : s.part.held = []) (tc val tpc : Word) : s.stopFor tc val tpc =
    { s.ringPut s.fir.part (s.fir.trapRecord tc val tpc) with
      fir := { (if s.fir.intrap then s.fir else { s.fir with tcause := tc, tval := val, tpc := tpc }) with
        pc := tpc, run := .stopped (some (bits s.part.trtail 31 0)) (s.fir.trapRecord tc val tpc) } } :=
  if_neg (by simp [hf, hh])

/-- Either way the firing stops at the address given, with its record, and keeps its trap CSRs inside a handler. -/
theorem State.stopFor_fir (s : State) (tc val tpc : Word) : ∃ slot, (s.stopFor tc val tpc).fir =
    { (if s.fir.intrap then s.fir else { s.fir with tcause := tc, tval := val, tpc := tpc }) with
      pc := tpc, run := .stopped slot (s.fir.trapRecord tc val tpc) } := by
  by_cases h : s.part.ringFull = true ∨ s.part.held ≠ []
  · rw [State.stopFor_full h]
    exact ⟨_, rfl⟩
  · rw [not_or, Bool.not_eq_true, not_not] at h
    rw [State.stopFor_room h.1 h.2]
    exact ⟨_, rfl⟩

theorem bits_low32 (w : Word) : bits w 31 0 = w.toNat % 2 ^ 32 := by
  rw [bits, Nat.pow_zero, Nat.div_one]

theorem Cause.code_lt (c : Cause) : c.code < 256 := by cases c <;> decide

theorem tcauseOf_eq {sub : Nat} (h : sub < 256) (c : Cause) : tcauseOf false sub c.code = BitVec.ofNat 64 (sub * 256 + c.code) := by
  rw [tcauseOf, Nat.mod_eq_of_lt h]
  simp

theorem bits_tcauseOf {sub : Nat} (h : sub < 256) (c : Cause) : bits (tcauseOf false sub c.code) 15 0 = sub * 256 + c.code := by
  have hc := c.code_lt
  rw [tcauseOf_eq h, bits, BitVec.toNat_ofNat]
  omega

/-- The record of a trap names team, firing, place and cause (R198). -/
theorem Firing.trapRecord_eq (f : Firing) {sub : Nat} (h : sub < 256) (c : Cause) (val tpc : Word) :
    f.trapRecord (tcauseOf false sub c.code) val tpc =
      [f.tid, f.fid, BitVec.ofNat 64 ((if f.intrap then 2 ^ 63 else 0) + f.core.val * 2 ^ 16 + (sub * 256 + c.code)), val, tpc, f.fstat, 0, 0] := by
  rw [Firing.trapRecord, bits_tcauseOf h]
  cases f.intrap <;> simp

theorem State.ringPut_mem (s : State) (p : Fin 16) (recd : List Word) : (s.ringPut p recd).mem =
    writeDwords s.mem (s.parts[p].trbase.toNat + 64 * (bits s.parts[p].trtail 31 0 % 2 ^ s.parts[p].trlog2.toNat)) recd := rfl

theorem State.ringPut_parts_self (s : State) (p : Fin 16) (recd : List Word) : (s.ringPut p recd).parts[p] =
    { s.parts[p] with trtail := BitVec.ofNat 64 ((bits s.parts[p].trtail 31 0 + 1) % 2 ^ 32) } := Vector.getElem_set_self _

/-- What the ring and memory are once a firing has stopped with room in the ring. -/
theorem State.stopFor_ring {s : State} (hf : s.part.ringFull = false) (hh : s.part.held = []) (tc val tpc : Word) :
    (s.stopFor tc val tpc).mem = writeDwords s.mem
      (s.part.trbase.toNat + 64 * (s.part.trtail.toNat % 2 ^ 32 % 2 ^ s.part.trlog2.toNat)) (s.fir.trapRecord tc val tpc) ∧
    (s.stopFor tc val tpc).part.trtail.toNat = (s.part.trtail.toNat + 1) % 2 ^ 32 := by
  obtain ⟨slot, hfir⟩ := s.stopFor_fir tc val tpc
  have hpart : (s.stopFor tc val tpc).fir.part = s.fir.part := by
    rw [hfir]; split_ifs <;> rfl
  constructor
  · have hmem : (s.stopFor tc val tpc).mem = (s.ringPut s.fir.part (s.fir.trapRecord tc val tpc)).mem := by
      rw [State.stopFor_room hf hh]
    rw [hmem, State.ringPut_mem, bits_low32]
    rfl
  · have hparts : (s.stopFor tc val tpc).parts = (s.ringPut s.fir.part (s.fir.trapRecord tc val tpc)).parts := by
      rw [State.stopFor_room hf hh]
    have htail : (s.stopFor tc val tpc).part = { s.part with trtail := BitVec.ofNat 64 ((bits s.part.trtail 31 0 + 1) % 2 ^ 32) } := by
      rw [State.part, hparts]
      simp only [hpart]
      exact s.ringPut_parts_self s.fir.part _
    rw [htail, BitVec.toNat_ofNat, bits_low32]
    omega

/-- The status in a handler: FPEND and the frame clear, INTRAP set, the rest as before. -/
theorem Firing.enterHandler_fstat (f : Firing) (tc val tpc : Word) (b : Nat) : (f.enterHandler tc val tpc).fstat.getLsbD b =
    if b = 4 then true else if 13 ≤ b ∧ b ≤ 23 then false else if b = 0 then false else f.fstat.getLsbD b := by
  rw [Firing.enterHandler]
  dsimp only
  rw [setBit_getLsbD (by decide), setBits_getLsbD (by decide), setBit_getLsbD (by decide), Nat.zero_testBit]

/-- A trap that stops the firing: where, with which record, and what its trap CSRs are. -/
theorem State.trapping_stopFor_fir (s : State) {sub : Nat} (h : sub < 256) (c : Cause) (val pc : Word) :
    ∃ w g a p l d b slot, (s.trapping.stopFor (tcauseOf false sub c.code) val pc).fir =
      { (if s.fir.intrap then s.fir else { s.fir with tcause := BitVec.ofNat 64 (sub * 256 + c.code), tval := val, tpc := pc }) with
        pc := pc, run := .stopped slot (s.fir.trapRecord (tcauseOf false sub c.code) val pc)
        wait := w, granted := g, aged := a, pends := p, late := l, data := d, repbuf := b } := by
  obtain ⟨w, g, a, p, l, d, b, hfir⟩ := s.withdraw_fir
  obtain ⟨slot, hstopped⟩ := s.trapping.stopFor_fir (tcauseOf false sub c.code) val pc
  refine ⟨w, g, a, p, l, d, b, slot, hstopped.trans ?_⟩
  have hintrap : s.trapping.fir.intrap = s.fir.intrap := by simp only [State.trapping, hfir]; rfl
  rw [hintrap, ← tcauseOf_eq h]
  simp only [State.trapping, hfir]
  split_ifs <;> rfl

theorem State.trapping_trapRecord (s : State) (tc val pc : Word) : s.trapping.fir.trapRecord tc val pc = s.fir.trapRecord tc val pc := by
  obtain ⟨_, _, _, _, _, _, _, hfir⟩ := s.withdraw_fir
  simp only [State.trapping, hfir]
  rfl

theorem State.trapping_mem (s : State) : s.trapping.mem = s.mem := s.withdraw_mem

/-- Settles O8: a trap withdraws the firing's own waits, which touch nothing the statement speaks of, and then enters the handler or stops
the firing. -/
theorem trapEntry : Obligations.TrapEntry := by
  unfold Obligations.TrapEntry
  refine ⟨fun s t pc hu hv hi hsub => ?_, fun s t pc hstop hsub => ?_⟩
  · obtain ⟨_, _, _, _, _, _, _, hfir⟩ := s.withdraw_fir
    have hstat := (s.withdraw s.fir.adm).fir.enterHandler_fstat (tcauseOf false t.sub t.c.code) t.val pc
    have hbits : (s.withdraw s.fir.adm).fir.fstat = s.fir.fstat := by rw [hfir]
    rw [hbits] at hstat
    rw [State.takeTrap_handler hu hv hi, ← tcauseOf_eq hsub]
    refine ⟨rfl, rfl, rfl, hbits, ?_, ?_, ?_, hstat 0, hstat 4, hstat 23, hstat 1, hstat 5, ?_, ?_, ?_, ?_, ?_, ?_, ?_, ?_, ?_, s.withdraw_mem, rfl⟩
    all_goals
      show _ = _
      simp only [State.trapping, State.upd, hfir]
      rfl
  · have hrecd := s.fir.trapRecord_eq hsub t.c t.val pc
    obtain ⟨_, _, _, _, _, _, _, slot, hfir⟩ := s.trapping_stopFor_fir hsub t.c t.val pc
    rw [State.takeTrap_stop hstop]
    dsimp only
    rw [← hrecd]
    refine ⟨by rw [hfir], ?_, ?_, by rw [hfir]; exact Bool.and_false _, fun hi => ?_, fun hi => ?_, fun hf hh => ?_, fun hfull => ?_⟩
    · rw [hfir]; split_ifs <;> rfl
    · rw [hfir]; split_ifs <;> rfl
    · rw [hfir, hi]; exact ⟨rfl, rfl, rfl⟩
    · rw [hfir, hi]; exact ⟨rfl, rfl, rfl⟩
    · rw [← s.trapping_part] at hf hh ⊢
      obtain ⟨hmem, htail⟩ := State.stopFor_ring hf hh (tcauseOf false t.sub t.c.code) t.val pc
      rw [s.trapping_trapRecord, s.trapping_mem] at hmem
      refine ⟨?_, hmem, htail⟩
      rw [State.stopFor_room hf hh, s.trapping_trapRecord, bits_low32]
    · rw [← s.trapping_part] at hfull
      rw [State.stopFor_full hfull, s.trapping_trapRecord]
      exact ⟨rfl, s.trapping_mem⟩

end Sys2Proof.Machine
end

section
/-! PROOF. TRAP, TRET, HALT and HINT (R208). -/

namespace Sys2Proof.Machine

theorem trap_swtrap {s : State} {a : BitVec 6} (h : s.Issues (.trap a)) : exec (.trap a) s =
    .next ((s.upd Firing.advance).takeTrap false false { c := .swtrap, sub := 0, val := s.rx a } s.fir.advance.pc) :=
  (exec_trap a s).trans (plain_issues h)

theorem badTret_iff (f : Firing) : f.badTret = true ↔ f.tstat.getLsbD 23 = true ∧
    (bits f.trepw 27 22 < bits f.tstat 18 13 ∨ bits f.trepw 31 28 < bits f.tstat 22 19) := by
  simp [Firing.badTret, bit]

theorem legal_tret : (descOf .tret).ok = true := rfl

theorem exec_tret_back {s : State} (ha : s.fir.active = true) (hp : s.fir.fpend = false) (hi : s.fir.intrap = true) (hb : s.fir.badTret = false) :
    exec .tret s = .next (s.upd fun f => { f.tretTo with wait := none, granted := false, aged := false }) := by
  rw [exec_tret, execTret]
  simp [ha, hp, hi, hb, legal_tret]

theorem exec_tret_ill {s : State} (ha : s.fir.active = true) (h : s.fir.intrap = false ∨ s.fir.fpend = true ∨ s.fir.badTret = true) :
    exec .tret s = .next (s.deliver false (BitVec.ofNat 64 1) (BitVec.setWidth 64 (encode .tret)) s.fir.pc) := by
  have hbad : (!(descOf .tret).ok || s.fir.fpend || !s.fir.intrap || s.fir.badTret) = true := by
    rcases h with h | h | h <;> simp [h]
  rw [exec_tret, execTret]
  simp only [ha, hbad, Bool.not_true, Bool.false_eq_true, if_false, if_true]
  rfl

/-- The status after TRET: FPEND, TOPX and the frame as tstat holds them, INTRAP clear, the rest as before. -/
theorem tretTo_fstat (f : Firing) (b : Nat) : f.tretTo.fstat.getLsbD b =
    if b = 4 then false else if 13 ≤ b ∧ b ≤ 23 ∨ b ≤ 1 then f.tstat.getLsbD b else f.fstat.getLsbD b := by
  rw [Firing.tretTo]
  dsimp only
  rw [setBit_getLsbD (by decide), setBits_getLsbD (by decide), setBits_getLsbD (by decide), bits_testBit, bits_testBit]
  by_cases hframe : 13 ≤ b ∧ b ≤ 23
  · simp [hframe, show b - 13 < 11 by omega]
  · by_cases hlow : b ≤ 1
    · simp [hlow, show b < 2 by omega, show ¬ 13 ≤ b by omega]
    · simp [hframe, hlow]

theorem tretTo_frame (f : Firing) {hi lo : Nat} (hlo : 13 ≤ lo) (hhi : hi ≤ 23) : bits f.tretTo.fstat hi lo = bits f.tstat hi lo :=
  bits_congr fun i hl hh => by rw [tretTo_fstat, if_neg (by omega), if_pos (by omega)]

theorem State.stopFor_traps (s : State) (tc val tpc : Word) : (s.stopFor tc val tpc).traps = s.traps := by
  by_cases h : s.part.ringFull = true ∨ s.part.held ≠ []
  · rw [State.stopFor_full h]; rfl
  · rw [not_or, Bool.not_eq_true, not_not] at h
    rw [State.stopFor_room h.1 h.2]; simp only [State.ringPut, State.homeDone, State.onPart_traps]

/-- HALT in the supervisor stops it at the next instruction. -/
theorem exec_halt_supervisor {s : State} (hi : s.Issues .halt) (hs : s.fir.sup = true) :
    exec .halt s = .next (s.trapping.stopFor (tcauseOf false 0xFF Cause.swtrap.code) 0 (s.fir.pc + 4)) := by
  obtain ⟨_, _, _, _, _, _, _, hfir⟩ := s.withdraw_fir
  rw [exec_halt, execHalt, issue_issues hi rfl (by simp [teamFiring, hs])]
  simp only [finish_stay, State.trapping, State.withdraw_traps, hfir]
  rfl

/-- Settles O9. -/
theorem trapInstructions : Obligations.TrapInstructions := by
  unfold Obligations.TrapInstructions
  refine ⟨fun s a h => trap_swtrap h, fun s ha => ⟨fun hp hi hpast => ?_, fun hbad => ?_⟩, fun s => ⟨fun h hi => (exec_hint h s).trans (plain_issues_ownDesc hi rfl rfl), fun hi hs => ?_⟩⟩
  · have hok : s.fir.badTret = false := Bool.eq_false_iff.mpr (mt (badTret_iff s.fir).mp hpast)
    exact ⟨_, exec_tret_back ha hp hi hok, rfl, rfl, tretTo_fstat s.fir 4, tretTo_fstat s.fir 0, tretTo_fstat s.fir 1, tretTo_fstat s.fir 23,
      ⟨tretTo_frame s.fir (by decide) (by decide), tretTo_frame s.fir (by decide) (by decide)⟩, rfl, rfl, rfl, rfl, rfl, tretTo_fstat s.fir 5⟩
  · exact exec_tret_ill ha (hbad.imp_right (Or.imp_right (badTret_iff s.fir).mpr))
  · obtain ⟨_, _, _, _, _, _, _, slot, hfir⟩ := s.trapping_stopFor_fir (sub := 0xFF) (by decide) .swtrap 0 (s.fir.pc + 4)
    refine ⟨_, exec_halt_supervisor hi hs, by rw [hfir]; exact Bool.and_false _, by rw [hfir], ?_, ?_, fun hf hh => ?_⟩
    · rw [hfir]; split_ifs <;> rfl
    · rw [State.stopFor_traps]; rfl
    · rw [← s.trapping_part] at hf hh ⊢
      rw [State.stopFor_room hf hh, s.trapping_trapRecord, s.fir.trapRecord_eq (by decide), bits_low32]
      rfl

end Sys2Proof.Machine
end

section
/-! PROOF. Repeat frames (R29, R36, R104, R105). -/

namespace Sys2Proof.Machine

/-! ## Opening a frame and moving through it -/

theorem exec_rep_issues {s : State} {l : BitVec 4} {c : BitVec 6} {m st : BitVec 4} (h : s.Issues (.rep l c m st)) :
    exec (.rep l c m st) s = .next (s.upd fun f =>
      { f with fstat := setBits f.fstat 23 13 (2 ^ 10), repw := encode (.rep l c m st), repf := f.pc + 4, repbuf := []
               pc := s.fir.pc + 4, wait := none, granted := false, aged := false }) :=
  (exec_rep l c m st s).trans (plain_issues h)

/-- An instruction of a frame at an address, modulo 2^57. -/
theorem pc57_add (w : Word) (n : Nat) : pc57 (w + BitVec.ofNat 64 (4 * n)) = BitVec.ofNat 64 ((w.toNat + 4 * n) % 2 ^ 57) := by
  refine BitVec.eq_of_toNat_eq ?_
  simp only [pc57, BitVec.toNat_setWidth, BitVec.toNat_add, BitVec.toNat_ofNat]
  omega

section
variable {f : Firing} (hr : f.repact = true)
include hr

theorem advance_position (h : f.repi < (f.repw.extractLsb' 28 4).toNat) : f.advance =
    { f with wait := none, granted := false, aged := false, fstat := setBits f.fstat 22 19 (f.repi + 1)
             pc := pc57 (f.repf + BitVec.ofNat 64 (4 * (f.repi + 1))) } := by
  rw [Firing.advance, if_pos hr]
  exact if_pos h

theorem advance_pass (h : f.repi = (f.repw.extractLsb' 28 4).toNat) (hj : f.repj < (f.repw.extractLsb' 22 6).toNat) : f.advance =
    { f with wait := none, granted := false, aged := false, fstat := setBits (setBits f.fstat 22 19 0) 18 13 (f.repj + 1), pc := f.repf } := by
  rw [Firing.advance, if_pos hr]
  exact (if_neg (Nat.not_lt.mpr h.ge)).trans (if_pos hj)

theorem advance_leave (h : f.repi = (f.repw.extractLsb' 28 4).toNat) (hj : f.repj = (f.repw.extractLsb' 22 6).toNat) : f.advance =
    { f with wait := none, granted := false, aged := false, fstat := setBits f.fstat 23 13 0, repbuf := []
             pc := pc57 (f.repf + BitVec.ofNat 64 (4 * (f.repi + 1))) } := by
  rw [Firing.advance, if_pos hr, h]
  exact (if_neg (Nat.lt_irrefl _)).trans (if_neg (Nat.not_lt.mpr hj.ge))

end

theorem advance_frameless {f : Firing} (h : f.repact = false) : f.advance = { f with wait := none, granted := false, aged := false, pc := f.pc + 4 } := by
  rw [Firing.advance, if_neg (by simp [h])]

/-! ## The checks of a frame's pass -/

theorem capturable_iff (w : BitVec 32) : capturable w = true ↔ w.extractLsb' 0 7 ∈ captureMajors := by
  rw [capturable, fld]
  generalize w.extractLsb' 0 7 = m
  revert m
  decide

theorem maskAbsent_iff (m : BitVec 4) (ops : List Opnd) : maskAbsent m ops = true ↔ asksAbsent m ops := by
  have hd : (!(ops.any Opnd.dst)) = true ↔ ∀ o ∈ ops, o.dst = false := by simp
  simp only [maskAbsent, asksAbsent, Bool.or_eq_true, Bool.and_eq_true, hd, List.any_eq_true, List.mem_range, decide_eq_true_eq]

/-- The operands of an instruction as the frame's pass moves them. -/
def Firing.passMoves (f : Firing) (i : Instr) : List (Opnd × Int) :=
  moved (f.repw.extractLsb' 18 4) (f.repj * (f.repw.extractLsb' 14 4).toInt) (opsOf i)

section
variable {s : State} {w : BitVec 32} {i : Instr} (hr : s.fir.repact = true)
include hr

theorem runWord_frame : s.runWord w = s.runFrame w := if_pos hr

theorem runWord_uncaptured (hj : s.fir.repj = 0) (hw : w.extractLsb' 0 7 ∉ captureMajors) : s.runWord w = s.frameless.trapsWord .ill w := by
  have hcap : capturable w = false := Bool.eq_false_iff.mpr (mt (capturable_iff w).mp hw)
  rw [runWord_frame hr, State.runFrame]
  exact if_pos (by simp [hj, hcap])

/-- A captured instruction goes on to the checks of its mask. -/
theorem runWord_captured (hd : decode w = .ok i) (hc : s.fir.repj = 0 → w.extractLsb' 0 7 ∈ captureMajors) : s.runWord w =
    if maskAbsent (s.fir.repw.extractLsb' 18 4) (opsOf i) || !movedApart i (s.fir.passMoves i) then s.illCancel w
    else if !legal i || (s.fir.fpend && !takesPrefix i) || stageIll s.fir (opsOf i) then s.illAt w
    else match s.fir.movedOutside (s.fir.passMoves i) with
      | some n => .next (s.trapHere { c := .regrange, sub := 0, val := ofInt n })
      | none => exec (renumber (fun p n => ((n : Int) + if (s.fir.repw.extractLsb' 18 4).getLsbD p then
          (s.fir.repj : Int) * (s.fir.repw.extractLsb' 14 4).toInt else 0).toNat) i) s := by
  have hcap : (decide (s.fir.repj = 0) && !capturable w) = false := by
    by_cases hj : s.fir.repj = 0
    · simp [(capturable_iff w).mpr (hc hj)]
    · simp [hj]
  rw [runWord_frame hr, State.runFrame]
  simp only [hcap, hd, Bool.false_eq_true, if_false]
  rfl

variable (hd : decode w = .ok i) (hc : s.fir.repj = 0 → w.extractLsb' 0 7 ∈ captureMajors)
include hd hc

theorem runWord_cancelled (h : asksAbsent (s.fir.repw.extractLsb' 18 4) (opsOf i) ∨ movedApart i (s.fir.passMoves i) = false) :
    s.runWord w = s.frameless.trapsWord .ill w := by
  rw [runWord_captured hr hd hc]
  exact if_pos (by rcases h with h | h <;> simp [h, (maskAbsent_iff _ _).mpr])

variable (ha : ¬ asksAbsent (s.fir.repw.extractLsb' 18 4) (opsOf i)) (hm : movedApart i (s.fir.passMoves i) = true)
include ha hm

theorem runWord_ill (h : legal i = false ∨ (s.fir.fpend = true ∧ takesPrefix i = false) ∨ stageIll s.fir (opsOf i) = true) :
    s.runWord w = s.trapsWord .ill w := by
  have habs : maskAbsent (s.fir.repw.extractLsb' 18 4) (opsOf i) = false := Bool.eq_false_iff.mpr (mt (maskAbsent_iff _ _).mp ha)
  rw [runWord_captured hr hd hc, if_neg (by simp [habs, hm])]
  exact if_pos (by rcases h with h | ⟨h, h'⟩ | h <;> simp [*])

theorem runWord_outside (hl : legal i = true) (hp : s.fir.fpend = false ∨ takesPrefix i = true) (hs : stageIll s.fir (opsOf i) = false)
    {n : Int} (hn : s.fir.movedOutside (s.fir.passMoves i) = some n) :
    s.runWord w = .next (s.trapHere { c := .regrange, sub := 0, val := BitVec.ofInt 64 n }) := by
  have habs : maskAbsent (s.fir.repw.extractLsb' 18 4) (opsOf i) = false := Bool.eq_false_iff.mpr (mt (maskAbsent_iff _ _).mp ha)
  rw [runWord_captured hr hd hc, if_neg (by simp [habs, hm]), if_neg (by rcases hp with h | h <;> simp [h, hl, hs]), hn]
  rfl

end

/-- Settles O6. -/
theorem repFrames : Obligations.RepFrames := by
  unfold Obligations.RepFrames
  refine ⟨fun s l c m st hi => ?_, fun f hr => ⟨fun h => ?_, fun h hj => ?_, fun h hj => ?_⟩, fun f hr => ?_, fun s w hr => ⟨fun hj hw => ?_,
    fun i hd hc => ⟨fun h => ?_, fun ha hm => ⟨fun h => ?_, fun hl hp hs n hn => ?_⟩⟩⟩, fun s => ⟨?_, ?_, ?_⟩, fun f o n ms => ⟨rfl, fun h => ?_, fun h0 h1 hlen => ?_⟩⟩
  · refine ⟨_, exec_rep_issues hi, rfl, rfl, rfl, ?_, ?_, ?_, rfl, rfl, fun b hb => ?_⟩
    · exact (setBits_getLsbD (by decide) s.fir.fstat 13 (2 ^ 10) 23).trans (if_pos (by decide))
    · exact bits_setBits_within (by decide) s.fir.fstat 13 (2 ^ 10) (by decide) (by decide)
    · exact bits_setBits_within (by decide) s.fir.fstat 13 (2 ^ 10) (by decide) (by decide)
    · exact (setBits_getLsbD (by decide) s.fir.fstat 13 (2 ^ 10) b).trans (if_neg (by omega))
  · have hlen := (f.repw.extractLsb' 28 4).isLt
    rw [advance_position hr h]
    exact ⟨pc57_add _ _, (bits_setBits_same (by decide) f.fstat 19 (f.repi + 1)).trans (Nat.mod_eq_of_lt (by omega)),
      bits_setBits_other (by decide) f.fstat 19 (f.repi + 1) (by decide),
      ((setBits_getLsbD (by decide) f.fstat 19 (f.repi + 1) 23).trans (if_neg (by decide))).trans hr⟩
  · have hlen := (f.repw.extractLsb' 22 6).isLt
    rw [advance_pass hr h hj]
    refine ⟨rfl, ?_, (bits_setBits_same (by decide) _ 13 (f.repj + 1)).trans (Nat.mod_eq_of_lt (by omega)), ?_⟩
    · exact (bits_setBits_other (by decide) _ 13 (f.repj + 1) (by decide)).trans (bits_setBits_same (by decide) f.fstat 19 0)
    · refine Eq.trans ?_ hr
      exact (setBits_getLsbD (by decide) _ 13 (f.repj + 1) 23).trans
        ((if_neg (by decide)).trans ((setBits_getLsbD (by decide) f.fstat 19 0 23).trans (if_neg (by decide))))
  · rw [advance_leave hr h hj]
    exact ⟨pc57_add _ _, (setBits_getLsbD (by decide) f.fstat 13 0 23).trans (if_pos (by decide))⟩
  · rw [advance_frameless hr]
    exact ⟨rfl, rfl⟩
  · exact runWord_uncaptured hr hj hw
  · exact runWord_cancelled hr hd hc h
  · exact runWord_ill hr hd hc ha hm h
  · exact runWord_outside hr hd hc ha hm hl hp hs hn
  · exact (setBits_getLsbD (by decide) s.fir.fstat 13 0 23).trans (if_pos (by decide))
  · exact bits_setBits_within (by decide) s.fir.fstat 13 0 (by decide) (by decide)
  · exact bits_setBits_within (by decide) s.fir.fstat 13 0 (by decide) (by decide)
  · exact if_pos (by simpa using h)
  · refine (if_neg (by simp; omega)).trans (if_neg (by omega))

end Sys2Proof.Machine
end

section
/-! SUPPORT. A release of a frond that posts nothing, and the waiters of one semaphore served (R121, R248). -/

namespace Sys2Proof.Machine

@[simp] theorem ok_bind {α β : Type} (a : α) (k : α → Except Stop β) : (.ok a >>= k) = k a := rfl
@[simp] theorem error_bind {α β : Type} (e : Stop) (k : α → Except Stop β) : (.error e >>= k) = .error e := rfl

theorem State.release_frond {s : State} (h : s.posting s.fir = false) : s.release .fr = .ok (s.publish s.fir.frond .fr) := by
  have hacks : (s.unacked.any fun u => u.adm == s.fir.adm && (decide (6 ≤ Scope.fr.code.toNat)
      || (decide (5 ≤ Scope.fr.code.toNat) && s.inDomain s.fir.part u.pkg))) = false := by
    simp only [show Scope.fr.code.toNat = 2 from rfl]
    simp
  rw [State.release, if_neg (by simp [show Scope.fr.code.toNat = 2 from rfl]), hacks, h]
  rfl

/-- With no CXL device lost, a publication writes the held bytes home. -/
theorem State.publish_eq {s : State} (hd : s.dev.cxlDown = []) (ho : s.dev.cxlOn = 3) (h : Fin 1024) (sc : Scope) : s.publish h sc =
    ((s.widen h sc).homePut h sc true (s.fronds[h].held.map Prod.fst) (s.mem.putAll s.fronds[h].held)).onFrond h fun x =>
      { x with held := [], snap := x.snap.putAll x.held } := by
  have hk : (s.dev.cxlDown.isEmpty && s.dev.cxlOn == 3#2) = true := by rw [hd, ho]; rfl
  rw [State.publish, if_pos hk]

section
variable {s : State} (hd : s.dev.cxlDown = []) (ho : s.dev.cxlOn = 3) (h : Fin 1024) (sc : Scope)
include hd ho

theorem State.publish_fir_up : (s.publish h sc).fir = s.fir := by rw [State.publish_eq hd ho]; simp [State.widen]

theorem State.publish_others_up : (s.publish h sc).others = s.others := by rw [State.publish_eq hd ho]; simp [State.widen]

theorem State.publish_mem_up : (s.publish h sc).mem = s.mem.putAll s.fronds[h].held := by rw [State.publish_eq hd ho]; simp

theorem State.publish_frond_up : (s.publish h sc).fronds[h] = { s.fronds[h] with held := [], snap := s.fronds[h].snap.putAll s.fronds[h].held } := by
  rw [State.publish_eq hd ho]; simp [State.widen]

end

theorem State.beside_fir {s t : State} (h : t.beside s) : t.fir = s.fir := by
  rw [State.beside] at h; rw [h]

theorem State.beside_mem {s t : State} (h : t.beside s) : t.mem = s.mem := by
  rw [State.beside] at h; rw [h]

/-- The count of semaphore n of frond h, and its waiters. -/
def State.semAt (s : State) (h : Fin 1024) (n : Fin 16) : Nat × List SemWait :=
  (s.fronds[h].hs[n].toNat, s.fronds[h].hsq.filter fun w => w.n == n.val)

/-- Without the oldest waiter of a semaphore the rest stay in their order. -/
theorem filter_erase_oldest {ws : List SemWait} {n : Nat} {w : SemWait} (h : ws.find? (fun w => w.n == n) = some w) :
    ws.filter (fun w => w.n == n) = w :: (ws.erase w).filter fun w => w.n == n := by
  induction ws with
  | nil => cases h
  | cons x xs ih =>
    by_cases hx : (x.n == n) = true
    · rw [List.find?_cons_of_pos (p := fun w : SemWait => w.n == n) hx] at h
      cases h
      rw [List.filter_cons_of_pos (p := fun w : SemWait => w.n == n) hx, List.erase_cons_head]
    · have hfind := (List.find?_cons_of_neg (p := fun w : SemWait => w.n == n) hx).symm.trans h
      have hwn : (w.n == n) = true := List.find?_some (p := fun w : SemWait => w.n == n) hfind
      have hne : (x == w) = false := beq_eq_false_iff_ne.mpr fun e => hx (e ▸ hwn)
      rw [List.filter_cons_of_neg (p := fun w : SemWait => w.n == n) hx, List.erase_cons_tail (by simpa using hne),
        List.filter_cons_of_neg (p := fun w : SemWait => w.n == n) hx, ih hfind]

theorem filter_erase_else {ws : List SemWait} {m : Nat} {w : SemWait} (h : w.n ≠ m) :
    (ws.erase w).filter (fun w => w.n == m) = ws.filter fun w => w.n == m := by
  induction ws with
  | nil => rfl
  | cons x xs ih =>
    by_cases hx : x = w
    · subst hx
      rw [List.erase_cons_head, List.filter_cons_of_neg (by simpa using h)]
    · rw [List.erase_cons_tail (by simpa using hx), List.filter_cons, List.filter_cons, ih]

/-- A waiter's turn: it takes its amount, leaves the queue and goes on (R121). -/
def State.semTurn (s : State) (h : Fin 1024) (n : Fin 16) (w : SemWait) : State :=
  let c := s.fronds[h].hs[n].toNat - w.amt
  ((s.onFrond h fun f => { f with hs := f.hs.set n (BitVec.ofNat 16 c), hsq := f.hsq.erase w }).noteUndo w.adm (.sem h n w.amt)).onFiring w.adm
    fun f => (f.wx w.rd (BitVec.ofNat 64 c)).advance

theorem State.serveSem_none {s : State} {h : Fin 1024} {n : Fin 16} (hw : s.fronds[h].hsq.find? (fun w => w.n == n.val) = none) (k : Nat) :
    s.serveSem h n k = s := by
  cases k with
  | zero => rfl
  | succ k => rw [State.serveSem, hw]

theorem State.serveSem_oldest {s : State} {h : Fin 1024} {n : Fin 16} {w : SemWait}
    (hw : s.fronds[h].hsq.find? (fun w => w.n == n.val) = some w) (k : Nat) : s.serveSem h n (k + 1) =
      if w.amt ≤ s.fronds[h].hs[n].toNat then (s.semTurn h n w).serveSem h n k else s := by
  rw [State.serveSem, hw]; rfl

section
variable {s : State} {h : Fin 1024} {n : Fin 16} {w : SemWait}

theorem State.semTurn_beside (hne : w.adm ≠ s.fir.adm) : (s.semTurn h n w).beside s := by
  rw [State.semTurn]
  rw [State.onFiring_other (by exact hne)]; rfl

theorem State.semTurn_frond : (s.semTurn h n w).fronds[h] = { s.fronds[h] with
    hs := s.fronds[h].hs.set n (BitVec.ofNat 16 (s.fronds[h].hs[n].toNat - w.amt)), hsq := s.fronds[h].hsq.erase w } := by
  have hfr : (s.semTurn h n w).fronds = s.fronds.set h { s.fronds[h] with
      hs := s.fronds[h].hs.set n (BitVec.ofNat 16 (s.fronds[h].hs[n].toNat - w.amt)), hsq := s.fronds[h].hsq.erase w } := by
    rw [State.semTurn, State.onFiring]; split <;> rfl
  rw [hfr]
  exact Vector.getElem_set_self _

theorem State.semTurn_others (hne : w.adm ≠ s.fir.adm) : (s.semTurn h n w).others = s.others.map fun f =>
    if f.adm == w.adm then (f.wx w.rd (BitVec.ofNat 64 (s.fronds[h].hs[n].toNat - w.amt))).advance else f := by
  rw [State.semTurn]
  rw [State.onFiring_other (by exact hne)]; rfl

/-- Semaphore n after its oldest waiter's turn. -/
theorem State.semTurn_semAt (hw : s.fronds[h].hsq.find? (fun w => w.n == n.val) = some w) :
    (s.semTurn h n w).semAt h n = (s.fronds[h].hs[n].toNat - w.amt, (s.semAt h n).2.tail) := by
  have hc : s.fronds[h].hs[n].toNat < 2 ^ 16 := s.fronds[h].hs[n].isLt
  rw [State.semAt, State.semTurn_frond]
  refine Prod.ext ?_ ?_
  · change ((s.fronds[h].hs.set n.val _)[n.val]).toNat = _
    rw [Vector.getElem_set_self, BitVec.toNat_ofNat]
    omega
  · change (s.fronds[h].hsq.erase w).filter _ = List.tail (s.fronds[h].hsq.filter _)
    rw [filter_erase_oldest hw, List.tail_cons]

end

/-- The waiters of a semaphore served, none of them the acting firing. -/
theorem State.serveSem_served {h : Fin 1024} {n : Fin 16} (k : Nat) {s : State} (hq : ∀ w ∈ (s.semAt h n).2, w.adm ≠ s.fir.adm)
    (hk : (s.semAt h n).2.length ≤ k) :
    (s.serveSem h n k).beside s ∧ (s.serveSem h n k).semAt h n = servedFrom (s.semAt h n).1 (s.semAt h n).2 ∧
      ∀ m, m ≠ n.val → (s.serveSem h n k).fronds[h].hsq.filter (fun w => w.n == m) = s.fronds[h].hsq.filter fun w => w.n == m := by
  induction k generalizing s with
  | zero =>
    have hnil : (s.semAt h n).2 = [] := List.length_eq_zero_iff.mp (Nat.le_zero.mp hk)
    refine ⟨rfl, ?_, fun _ _ => rfl⟩
    rw [hnil]
    exact Prod.ext rfl hnil
  | succ k ih =>
    cases hw : s.fronds[h].hsq.find? (fun w => w.n == n.val) with
    | none =>
      have hnil : (s.semAt h n).2 = [] := List.filter_eq_nil_iff.mpr (List.find?_eq_none.mp hw)
      rw [State.serveSem_none hw]
      refine ⟨rfl, ?_, fun _ _ => rfl⟩
      rw [hnil]
      exact Prod.ext rfl hnil
    | some w =>
      have hws : (s.semAt h n).2 = w :: (s.semAt h n).2.tail := by
        change s.fronds[h].hsq.filter _ = w :: List.tail (s.fronds[h].hsq.filter _)
        rw [filter_erase_oldest hw, List.tail_cons]
      have hne : w.adm ≠ s.fir.adm := hq w (hws ▸ List.mem_cons_self)
      rw [State.serveSem_oldest hw, hws, servedFrom]
      by_cases ha : w.amt ≤ s.fronds[h].hs[n].toNat
      · rw [if_pos ha, if_pos (show w.amt ≤ (s.semAt h n).1 from ha)]
        have hb := State.semTurn_beside (h := h) (n := n) hne
        have hfir : (s.semTurn h n w).fir = s.fir := State.beside_fir hb
        have hat := State.semTurn_semAt hw
        obtain ⟨hbeside, hserved, helse⟩ := ih (s := s.semTurn h n w)
          (fun x hx => by rw [hat] at hx; rw [hfir]; exact hq x (List.mem_of_mem_tail hx))
          (by rw [hat]; rw [hws] at hk; exact Nat.le_of_succ_le_succ hk)
        refine ⟨State.beside_trans hbeside hb, by rw [hserved, hat]; rfl, fun m hm => ?_⟩
        have hwn : (w.n == n.val) = true := List.find?_some (p := fun w : SemWait => w.n == n.val) hw
        rw [helse m hm, State.semTurn_frond]
        exact filter_erase_else fun e => hm (e ▸ (beq_iff_eq.mp hwn))
      · rw [if_neg ha, if_neg (show ¬ w.amt ≤ (s.semAt h n).1 from ha)]
        exact ⟨rfl, Prod.ext rfl hws, fun _ _ => rfl⟩

end Sys2Proof.Machine
end

section
/-! PROOF. Hardware semaphores and the sorus claim. -/

namespace Sys2Proof.Machine

@[simp] theorem Firing.advance_frond (f : Firing) : f.advance.frond = f.frond := by simp only [Firing.frond, Firing.advance_core]

theorem State.amount_ok {s : State} {b : BitVec 6} (h : (s.rx b).toNat ≤ 65535) : s.amount b = .ok (s.rx b).toNat := by
  rw [State.amount, decide_eq_true h]; rfl

theorem State.amount_prot {s : State} {b : BitVec 6} (h : 65535 < (s.rx b).toNat) :
    s.amount b = .error (.trap { c := .prot, sub := 0, val := s.rx b }) := by
  rw [State.amount, decide_eq_false (Nat.not_le.mpr h)]; rfl

theorem State.semWaiters_isEmpty (s : State) (n : Nat) :
    (s.fr.hsq.filter fun w => w.n == n).isEmpty = decide (s.semWaiters n = []) := by
  rw [State.semWaiters]
  cases s.fr.hsq.filter fun w => w.n == n <;> rfl

theorem State.waits_any (s : State) (n : Nat) : (s.fr.hsq.any fun w => w.n == n) = !decide (s.semWaiters n = []) := by
  rw [State.semWaiters, Bool.eq_iff_iff]
  simp

/-- A semaphore set to the count it has. -/
theorem State.withSem_same (s : State) (n : BitVec 4) : s.withSem n (s.fr.hs[n.toNat]).toNat = s := by
  have hset : s.fr.hs.set n.toNat (BitVec.ofNat 16 (s.fr.hs[n.toNat]).toNat) = s.fr.hs := by
    rw [BitVec.ofNat_toNat, BitVec.setWidth_eq]
    exact Vector.set_getElem_self _
  have hfr : s.fronds.set s.fir.frond s.fr = s.fronds := Vector.set_getElem_self _
  rw [State.withSem, State.onFrond, show s.fronds[s.fir.frond] = s.fr from rfl, hset, hfr]

/-- A semaphore set to a count, once the acting frond has been published (R121). -/
def State.posted (s : State) (n : BitVec 4) (v : Nat) : State := (s.publish s.fir.frond .fr).setSem s.fir.frond ⟨n.toNat, n.isLt⟩ v

theorem exec_hspost_posted {s : State} {n : BitVec 4} {b : BitVec 6} (h : s.Issues (.hspost n b)) (ha : (s.rx b).toNat ≤ 65535)
    (hq : s.quietFrond) :
    exec (.hspost n b) s = .next ((s.posted n (min ((s.fr.hs[n.toNat]).toNat + (s.rx b).toNat) 65535)).upd Firing.advance) := by
  obtain ⟨hp, hd, ho⟩ := hq
  have hfr : (s.publish s.fir.frond .fr).sem n = (s.fr.hs[n.toNat]).toNat := by
    simp only [State.sem, State.fr, State.publish_fir_up hd ho, State.publish_frond_up hd ho]
  rw [exec_hspost, execHspost, plain_issues h, State.amount_ok ha, ok_bind, State.release_frond hp, ok_bind, hfr,
    State.publish_fir_up hd ho]
  rfl

theorem exec_hsset_posted {s : State} {n : BitVec 4} {b : BitVec 6} (h : s.Issues (.hsset n b)) (ha : (s.rx b).toNat ≤ 65535)
    (hq : s.quietFrond) : exec (.hsset n b) s = .next ((s.posted n (s.rx b).toNat).upd Firing.advance) := by
  obtain ⟨hp, hd, ho⟩ := hq
  rw [exec_hsset, execHsset, plain_issues h, State.amount_ok ha, ok_bind, State.release_frond hp, ok_bind,
    State.publish_fir_up hd ho]
  rfl

/-- What a post leaves (R121): the waiters served from its count on, and every other semaphore's as they were. -/
theorem State.posted_served {s : State} {n : BitVec 4} {v : Nat} (hv : v ≤ 65535) (hq : s.quietFrond)
    (hw : ∀ w ∈ s.semWaiters n.toNat, w.adm ≠ s.fir.adm) :
    (s.posted n v).beside (s.publish s.fir.frond .fr) ∧
      (((s.posted n v).fronds[s.fir.frond].hs[n.toNat]).toNat, (s.posted n v).fronds[s.fir.frond].hsq.filter fun w => w.n == n.toNat) =
        servedFrom v (s.semWaiters n.toNat) ∧
      ∀ m, m ≠ n.toNat → (s.posted n v).fronds[s.fir.frond].hsq.filter (fun w => w.n == m) = s.semWaiters m := by
  obtain ⟨-, hd, ho⟩ := hq
  let p := s.publish s.fir.frond .fr
  let t := p.onFrond s.fir.frond fun f => { f with hs := f.hs.set n.toNat (BitVec.ofNat 16 v) }
  have hfrond : t.fronds[s.fir.frond] = { p.fronds[s.fir.frond] with hs := p.fronds[s.fir.frond].hs.set n.toNat (BitVec.ofNat 16 v) } :=
    Vector.getElem_set_self _
  have hhsq : t.fronds[s.fir.frond].hsq = s.fr.hsq := by rw [hfrond, State.publish_frond_up hd ho]; rfl
  have hat : t.semAt s.fir.frond ⟨n.toNat, n.isLt⟩ = (v, s.semWaiters n.toNat) := by
    refine Prod.ext ?_ (by rw [State.semAt, hhsq]; rfl)
    change (t.fronds[s.fir.frond].hs[n.toNat]).toNat = v
    rw [hfrond, Vector.getElem_set_self, BitVec.toNat_ofNat, Nat.mod_eq_of_lt (by omega)]
  obtain ⟨hbeside, hserved, helse⟩ := State.serveSem_served (s := t) (h := s.fir.frond) (n := ⟨n.toNat, n.isLt⟩) t.fronds[s.fir.frond].hsq.length
    (by rw [hat]; intro w hmem; rw [show t.fir = s.fir from State.publish_fir_up hd ho _ _]; exact hw w hmem)
    (List.length_filter_le _ _)
  refine ⟨State.beside_trans hbeside rfl, ?_, fun m hm => ?_⟩
  · rw [hat] at hserved; exact hserved
  · refine (helse m hm).trans ?_
    rw [hhsq]; rfl

/-- A semaphore's only waiter served. -/
theorem State.serveSem_single {s : State} {h : Fin 1024} {n : Fin 16} {w : SemWait} (hw : (s.semAt h n).2 = [w])
    (ha : w.amt ≤ (s.semAt h n).1) : s.serveSem h n s.fronds[h].hsq.length = s.semTurn h n w := by
  have hfind : s.fronds[h].hsq.find? (fun w => w.n == n.val) = some w := by
    rw [← List.head?_filter]
    exact congrArg List.head? hw
  have hlen : s.fronds[h].hsq.length ≠ 0 := fun h0 => by rw [List.length_eq_zero_iff.mp h0] at hfind; cases hfind
  obtain ⟨k, hk⟩ := Nat.exists_eq_succ_of_ne_zero hlen
  have hnone : (s.semTurn h n w).fronds[h].hsq.find? (fun w => w.n == n.val) = none := by
    have hnil : ((s.semTurn h n w).semAt h n).2 = [] := by rw [State.semTurn_semAt hfind, hw]; rfl
    exact List.find?_eq_none.mpr (List.filter_eq_nil_iff.mp hnil)
  rw [hk, Nat.succ_eq_add_one, State.serveSem_oldest hfind, if_pos (show w.amt ≤ s.fronds[h].hs[n].toNat from ha), State.serveSem_none hnone]

theorem State.posted_single {s : State} {n : BitVec 4} {v : Nat} (hv : v ≤ 65535) (hq : s.quietFrond) {w : SemWait} {g : Firing}
    (hne : w.adm ≠ s.fir.adm) (hw : s.semWaiters n.toNat = [w]) (ha : w.amt ≤ v) (hothers : s.others = [g]) (hg : g.adm = w.adm) :
    (s.posted n v).others = [(g.wx w.rd (BitVec.ofNat 64 (v - w.amt))).advance] := by
  obtain ⟨-, hd, ho⟩ := hq
  let p := s.publish s.fir.frond .fr
  let t := p.onFrond s.fir.frond fun f => { f with hs := f.hs.set n.toNat (BitVec.ofNat 16 v) }
  have hfrond : t.fronds[s.fir.frond] = { p.fronds[s.fir.frond] with hs := p.fronds[s.fir.frond].hs.set n.toNat (BitVec.ofNat 16 v) } :=
    Vector.getElem_set_self _
  have hcount : (t.fronds[s.fir.frond].hs[n.toNat]).toNat = v := by
    rw [hfrond, Vector.getElem_set_self, BitVec.toNat_ofNat, Nat.mod_eq_of_lt (by omega)]
  have hwait : (t.semAt s.fir.frond ⟨n.toNat, n.isLt⟩).2 = [w] := by
    rw [State.semAt, hfrond, State.publish_frond_up hd ho]; exact hw
  have hserve := State.serveSem_single hwait (show w.amt ≤ (t.fronds[s.fir.frond].hs[n.toNat]).toNat by rw [hcount]; exact ha)
  have hfir : t.fir = s.fir := State.publish_fir_up hd ho _ _
  have hto : t.others = [g] := (State.publish_others_up hd ho _ _).trans hothers
  change (t.serveSem s.fir.frond ⟨n.toNat, n.isLt⟩ t.fronds[s.fir.frond].hsq.length).others = _
  rw [hserve, State.semTurn_others (by rw [hfir]; exact hne), hto, List.map_singleton, if_pos (by simp [hg])]
  exact congrArg (fun c => [(g.wx w.rd (BitVec.ofNat 64 (c - w.amt))).advance]) hcount

/-- A post (R121): the firing goes on, and what `posted_served` and `posted_single` say. -/
theorem postClause (s : State) (n : BitVec 4) (b : BitVec 6) (i : Instr) (v : Nat)
    (hi : (i = .hspost n b ∧ v = min ((s.fr.hs[n.toNat]).toNat + (s.rx b).toNat) 65535) ∨ (i = .hsset n b ∧ v = (s.rx b).toNat))
    (h : s.Issues i) (ha : (s.rx b).toNat ≤ 65535) (hq : s.quietFrond) (hw : ∀ w ∈ s.semWaiters n.toNat, w.adm ≠ s.fir.adm) :
    ∃ u, exec i s = .next u ∧ u.fir = s.fir.advance ∧ u.mem = (s.publish s.fir.frond .fr).mem ∧
      ((u.fr.hs[n.toNat]).toNat, u.semWaiters n.toNat) = servedFrom v (s.semWaiters n.toNat) ∧
      (∀ m, m ≠ n.toNat → u.semWaiters m = s.semWaiters m) ∧
      (∀ w g, s.semWaiters n.toNat = [w] → w.amt ≤ v → s.others = [g] → g.adm = w.adm →
        u.others = [(g.wx w.rd (BitVec.ofNat 64 (v - w.amt))).advance]) := by
  have hv : v ≤ 65535 := by rcases hi with ⟨-, rfl⟩ | ⟨-, rfl⟩ <;> omega
  obtain ⟨hbeside, hserved, helse⟩ := State.posted_served hv hq hw
  have hfir : (s.posted n v).fir = s.fir := (State.beside_fir hbeside).trans (State.publish_fir_up hq.2.1 hq.2.2 _ _)
  have hfr : ((s.posted n v).upd Firing.advance).fr = (s.posted n v).fronds[s.fir.frond] := by
    simp only [State.fr, State.upd_fronds, State.upd_fir, hfir, Firing.advance_frond]
  refine ⟨(s.posted n v).upd Firing.advance, ?_, congrArg Firing.advance hfir,
    State.beside_mem (t := s.posted n v) hbeside, ?_, fun m hm => ?_,
    fun w g hone hamt hothers hg => State.posted_single hv hq (hw w (by simp [hone])) hone hamt hothers hg⟩
  · rcases hi with ⟨rfl, rfl⟩ | ⟨rfl, rfl⟩
    · exact exec_hspost_posted h ha hq
    · exact exec_hsset_posted h ha hq
  · rw [State.semWaiters, hfr]; exact hserved
  · rw [State.semWaiters, hfr]; exact helse m hm

theorem exec_hswait_cases {s : State} {d : BitVec 6} {n : BitVec 4} {b : BitVec 6} (h : s.Issues (.hswait d n b)) (ha : (s.rx b).toNat ≤ 65535) :
    let amt := (s.rx b).toNat
    let c := (s.fr.hs[n.toNat]).toNat
    (amt = 0 → exec (.hswait d n b) s = .next ((s.wx d (BitVec.ofNat 64 c)).upd Firing.advance)) ∧
    (0 < amt → amt ≤ c → s.semWaiters n.toNat = [] →
      exec (.hswait d n b) s = .next (((s.withSem n (c - amt)).wx d (BitVec.ofNat 64 (c - amt))).upd Firing.advance)) ∧
    (0 < amt → (c < amt ∨ s.semWaiters n.toNat ≠ []) → (∀ w ∈ s.semWaiters n.toNat, w.adm ≠ s.fir.adm) →
      exec (.hswait d n b) s = .next ((s.onFrond s.fir.frond fun f =>
        { f with hsq := f.hsq ++ [{ n := n.toNat, amt := amt, rd := d, adm := s.fir.adm }] }).upd fun f =>
          { f with wait := some (.sem n.toNat), aged := false })) := by
  intro amt c
  rw [exec_hswait, execHswait, plain_issues h, State.amount_ok ha, ok_bind]
  refine ⟨fun h0 => by rw [if_pos h0]; rfl, fun hpos hle hnone => ?_, fun hpos hmiss hself => ?_⟩
  · rw [if_neg hpos.ne']
    dsimp only
    rw [State.semWaiters_isEmpty, if_pos (by rw [decide_eq_true hnone, Bool.true_and]; exact decide_eq_true hle)]
    rfl
  · have htake : ¬ (decide (s.semWaiters n.toNat = []) && decide (amt ≤ s.sem n)) = true := by
      rw [Bool.and_eq_true, decide_eq_true_eq, decide_eq_true_eq]
      rintro ⟨hnil, hle⟩
      exact hmiss.elim (Nat.not_lt.mpr hle) (· hnil)
    have hmine : ¬ ((s.semWaiters n.toNat).any fun w => w.adm == s.fir.adm) = true := by simpa using hself
    rw [if_neg hpos.ne']
    dsimp only
    rw [State.semWaiters_isEmpty, if_neg htake, ← State.semWaiters, if_neg hmine]
    rfl

theorem exec_hstry_cases {s : State} {d : BitVec 6} {n : BitVec 4} {b : BitVec 6} (h : s.Issues (.hstry d n b)) (ha : (s.rx b).toNat ≤ 65535) :
    let amt := (s.rx b).toNat
    let c := (s.fr.hs[n.toNat]).toNat
    exec (.hstry d n b) s = .next (if amt = 0 then (s.wx d 1).upd Firing.advance
      else if amt ≤ c ∧ s.semWaiters n.toNat = [] then ((s.withSem n (c - amt)).wx d 1).upd Firing.advance
      else (s.wx d 0).upd Firing.advance) := by
  intro amt c
  rw [exec_hstry, execHstry, plain_issues h, State.amount_ok ha, ok_bind, State.waits_any]
  by_cases h0 : amt = 0
  · rw [if_pos h0, if_pos (by simp only [show (s.rx b).toNat = 0 from h0, decide_true, Bool.true_or])]
    change Host.Outcome.next (((s.withSem n (c - amt)).wx d 1).upd Firing.advance) = _
    rw [h0, Nat.sub_zero, State.withSem_same]
  · rw [if_neg h0, decide_eq_false h0]
    dsimp only
    rw [Bool.false_or, Bool.not_not]
    by_cases htake : amt ≤ c ∧ s.semWaiters n.toNat = []
    · rw [if_pos htake, if_pos (by rw [decide_eq_true htake.2, Bool.true_and]; exact decide_eq_true htake.1)]
      rfl
    · rw [if_neg htake, if_neg (by rw [Bool.and_eq_true, decide_eq_true_eq, decide_eq_true_eq]; exact fun hh => htake hh.symm)]
      rfl

/-- An amount above 65,535 takes PROT (R120). -/
theorem amountClause (s : State) (d : BitVec 6) (n : BitVec 4) (b : BitVec 6) (hlarge : 65535 < (s.rx b).toNat) :
    ∀ i ∈ [Instr.hswait d n b, .hstry d n b, .hspost n b, .hsset n b], s.Issues i →
      exec i s = .next (s.trapHere { c := .prot, sub := 0, val := s.rx b }) := by
  simp only [List.forall_mem_cons, List.not_mem_nil, false_imp_iff, implies_true, and_true]
  refine ⟨fun h => ?_, fun h => ?_, fun h => ?_, fun h => ?_⟩
  · rw [exec_hswait, execHswait, plain_issues h, State.amount_prot hlarge, error_bind, finish_trap]
  · rw [exec_hstry, execHstry, plain_issues h, State.amount_prot hlarge, error_bind, finish_trap]
  · rw [exec_hspost, execHspost, plain_issues h, State.amount_prot hlarge, error_bind, finish_trap]
  · rw [exec_hsset, execHsset, plain_issues h, State.amount_prot hlarge, error_bind, finish_trap]

/-- Settles O22: the semaphore forms case by case, a post by the waiters it serves, and the sorus claim by its holder. -/
theorem semaphoresAndClaims : Obligations.SemaphoresAndClaims := by
  unfold Obligations.SemaphoresAndClaims
  refine ⟨fun s d b n => ⟨fun h => ?_, fun h ha => exec_hswait_cases h ha, fun h ha => exec_hstry_cases h ha,
    fun i v hi h ha => postClause s n b i v hi h ha, fun i hi h hlarge => amountClause s d n b hlarge i hi h⟩, fun s d => ⟨fun h => ?_, fun h => ?_⟩⟩
  · rw [exec_hsrd, execHsrd, plain_issues h]; rfl
  · rw [exec_sget, execSget, plain_issues h]
    simp only [Option.isNone_iff_eq_none, Bool.or_eq_true, Bool.and_eq_true, decide_eq_true_eq]
    split_ifs <;> rfl
  · rw [exec_sput, execSput, plain_issues h]
    split_ifs <;> rfl

end Sys2Proof.Machine
end

section
/-! SUPPORT. Numbers of an event's units, the filter of a bank, and a write that reaches no stream header (R83, R162). -/

namespace Sys2Proof.Machine

@[simp] theorem coreNo_val (c : Fin 2048) : coreNo c.val = c := Fin.ext (Nat.mod_eq_of_lt c.isLt)
@[simp] theorem frondNo_val (h : Fin 1024) : frondNo h.val = h := Fin.ext (Nat.mod_eq_of_lt h.isLt)
@[simp] theorem partNo_val (p : Fin 16) : partNo p.val = p := Fin.ext (Nat.mod_eq_of_lt p.isLt)

/-- A write that reaches no stream header leaves what it wrote. -/
theorem State.keepHeaders_of_noHeader {s : State} {k n : Nat} (h : s.noHeader k n) (old : Mem) : s.keepHeaders old k n = s := by
  have hnil : s.headers.filter (fun a => decide (a < k + n) && decide (k < a + 64)) = [] := by
    refine List.filter_eq_nil_iff.mpr fun a ha => ?_
    rw [Bool.and_eq_true, decide_eq_true_eq, decide_eq_true_eq]
    have := h a ha
    omega
  rw [State.keepHeaders, hnil]

/-- An entry of the filter for a source at a bank. -/
def Filt.at (src bank : Nat) (x : Filt) : Bool := x.src == src && x.bank == bank

theorem mem_filtAdd_self (fs : List Filt) (x : Filt) : x ∈ filtAdd fs x := List.mem_append_right _ (List.mem_singleton_self x)

theorem filtAdd_of_room {fs : List Filt} {x : Filt} (h : (fs.filter (Filt.at x.src x.bank)).length < 64) : filtAdd fs x = fs ++ [x] := by
  rw [filtAdd]
  exact congrArg (· ++ [x]) (if_neg (Nat.not_le.mpr h))

theorem filtAdd_of_full {fs os : List Filt} {o x : Filt} (ho : fs.filter (Filt.at x.src x.bank) = o :: os) (h : 64 ≤ (o :: os).length) :
    filtAdd fs x = fs.erase o ++ [x] := by
  rw [filtAdd]
  refine congrArg (· ++ [x]) ?_
  change (if 64 ≤ (fs.filter (Filt.at x.src x.bank)).length then
    (match (fs.filter (Filt.at x.src x.bank)).head? with | some o => fs.erase o | none => fs) else fs) = _
  rw [ho, if_pos h]
  rfl

/-- An entry stays when it is another bank's or source's, or there is room. -/
theorem mem_filtAdd_of_mem {fs : List Filt} {x y : Filt} (hy : y ∈ fs)
    (h : y.at x.src x.bank = false ∨ (fs.filter (Filt.at x.src x.bank)).length < 64) : y ∈ filtAdd fs x := by
  by_cases hroom : (fs.filter (Filt.at x.src x.bank)).length < 64
  · rw [filtAdd_of_room hroom]
    exact List.mem_append_left _ hy
  · obtain ⟨o, os, ho⟩ := List.exists_cons_of_length_pos (show 0 < (fs.filter (Filt.at x.src x.bank)).length by omega)
    rw [filtAdd_of_full ho (by rw [← ho]; omega)]
    have hmine : o.at x.src x.bank = true := (List.mem_filter.mp (ho ▸ List.mem_cons_self)).2
    have hne : y ≠ o := fun e => by
      rcases h with h | h
      · rw [e, hmine] at h; cases h
      · exact hroom h
    exact List.mem_append_left _ ((List.mem_erase_of_ne hne).mpr hy)

/-- A bank keeps 64 responses of a source. -/
theorem filtAdd_length {fs : List Filt} {x : Filt} (h : (fs.filter (Filt.at x.src x.bank)).length ≤ 64) :
    ((filtAdd fs x).filter (Filt.at x.src x.bank)).length ≤ 64 := by
  have hx : [x].filter (Filt.at x.src x.bank) = [x] := by simp [Filt.at]
  by_cases hroom : (fs.filter (Filt.at x.src x.bank)).length < 64
  · rw [filtAdd_of_room hroom, List.filter_append, hx, List.length_append, List.length_singleton]
    omega
  · obtain ⟨o, os, ho⟩ := List.exists_cons_of_length_pos (show 0 < (fs.filter (Filt.at x.src x.bank)).length by omega)
    obtain ⟨ho', hmine⟩ := List.mem_filter.mp (ho ▸ List.mem_cons_self : o ∈ fs.filter (Filt.at x.src x.bank))
    have herase : ((fs.erase o).filter (Filt.at x.src x.bank)).length + 1 = (fs.filter (Filt.at x.src x.bank)).length := by
      have hperm := ((List.perm_cons_erase ho').filter (Filt.at x.src x.bank)).length_eq
      rw [List.filter_cons_of_pos hmine, List.length_cons] at hperm
      exact hperm.symm
    rw [filtAdd_of_full ho (by rw [← ho]; omega), List.filter_append, hx, List.length_append, List.length_singleton]
    omega

end Sys2Proof.Machine
end

section
/-! PROOF. Bank operations at their banks (R160 to R162, R168). -/

namespace Sys2Proof.Machine

/-- A request the filter knows. -/
def State.knows (s : State) (c : Fin 2048) (q : BankReq) : Prop := ∃ x ∈ s.filt, Filt.at c.val (homeUnit q.key) x = true ∧ x.tag = q.tag

theorem State.filtered_isSome {s : State} {c : Fin 2048} {q : BankReq} : (s.filtered c.val q.key q.tag).isSome = true ↔ s.knows c q := by
  rw [State.filtered, List.find?_isSome]
  simp only [State.knows, Filt.at, Bool.and_eq_true, beq_iff_eq]

theorem State.busyReq_single {s : State} {c : Fin 2048} {q : BankReq} (h : s.cores[c].busy = [q]) : s.busyReq c q.tag = some q := by
  rw [State.busyReq, h]
  exact List.find?_cons_of_pos (beq_self_eq_true q.tag)

/-- A core with other requests. -/
def State.withBusy (s : State) (c : Fin 2048) (l : List BankReq) : State := s.onCore c fun x => { x with busy := l }

theorem State.onCore_congr {s : State} {c : Fin 2048} {g k : CoreSt → CoreSt} (h : g s.cores[c] = k s.cores[c]) : s.onCore c g = s.onCore c k := by
  rw [State.onCore, h, State.onCore]

/-- The requests of a core with one, marked under its tag. -/
theorem State.mark_single {s : State} {c : Fin 2048} {q : BankReq} (h : s.cores[c].busy = [q]) {f : BankReq → BankReq} (t : BankReq → Bool)
    (ht : t q = true) :
    s.onCore c (fun x => { x with busy := x.busy.map fun r => if t r then f r else r }) = s.withBusy c [f q] :=
  State.onCore_congr (by rw [h, List.map_singleton, if_pos ht])

theorem State.withBusy_busy (s : State) (c : Fin 2048) (l : List BankReq) : (s.withBusy c l).cores[c].busy = l := by
  simp [State.withBusy]

/-- The frond of a core. -/
def coreFrond (c : Fin 2048) : Fin 1024 := ⟨c.val / 2, by have := c.isLt; omega⟩

/-- With no request of a vector bank operation left to apply its lock goes. -/
theorem State.vbsumDone_applied {s : State} {c : Fin 2048} {q : BankReq} (h : s.cores[c].busy = [q]) (ha : q.applied = true) (adm n : Nat) :
    s.vbsumDone c adm n = s.unlock (coreFrond c) (.vbsum adm n) := by
  rw [State.vbsumDone, h, if_neg (by simp [ha])]
  rfl

theorem State.unlock_gone (s : State) (h : Fin 1024) (o : LockOwner) : ∀ l ∈ (s.unlock h o).fronds[h].locks, l.own ≠ o := by
  intro l hl
  simp [State.unlock] at hl
  exact hl.2

/-- The response sent, and the lock of the operation, the last of its kind, given up. -/
theorem unlocked_of_frond {s : State} {c : Fin 2048} {o : LockOwner} (h : Fin 1024) (hh : h.val = c.val / 2) :
    ∀ l ∈ (s.unlock (coreFrond c) o).fronds[h].locks, l.own ≠ o := by
  obtain rfl : h = coreFrond c := Fin.ext hh
  exact s.unlock_gone _ _

section
variable {s : State} {c : Fin 2048} {q : BankReq}

theorem exec_arrive_known (ha : s.ev.a = c.val) (hb : s.ev.b = q.tag) (hq : s.cores[c].busy = [q]) (hp : q.peer = none)
    (hk : q.applied = true ∨ s.knows c q) :
    exec .bankOpArrive s = .next (((s.withBusy c [{ q with applied := true }]).push .bankOpResponseArrive c.val q.tag 0 0).unlock (coreFrond c)
      (.vbsum q.adm q.lock)) := by
  have hcond : (q.applied || (s.filtered c.val q.key q.tag).isSome) = true := by
    rw [Bool.or_eq_true, State.filtered_isSome]
    exact hk
  rw [exec_bankOpArrive, execBankOpArrive, ha, hb, coreNo_val, State.bankArrive, State.busyReq_single hq]
  dsimp only
  rw [if_neg (by simp [hp]), if_pos hcond, State.mark_single hq (fun r => r.tag == q.tag) (beq_self_eq_true q.tag),
    State.vbsumDone_applied (q := { q with applied := true }) (by exact State.withBusy_busy s c _) rfl]
  rfl

/-- A request not known is applied for the firing of a frond, and its response kept (R162). -/
theorem State.bankAt_unknown (hk : ¬ s.knows c q) (hn : s.noHeader q.key q.op.size) (h : Fin 1024) :
    s.bankAt (some h) c.val q.tag q.op q.key q.val q.cmp =
      let r := bankApply q.op s.mem q.key q.val q.cmp
      ({ (s.seenBy h q.key q.op.size).homePut h .fi false (keysFrom q.key q.op.size) r.1 with
          filt := filtAdd s.filt { src := c.val, bank := homeUnit q.key, tag := q.tag, resp := r.2.1, flags := r.2.2 } }, r.2.1, r.2.2) := by
  have hnone : s.filtered c.val q.key q.tag = none := Option.not_isSome_iff_eq_none.mp fun hh => hk (State.filtered_isSome.mp hh)
  have hput : ((s.seenBy h q.key q.op.size).homePut h .fi false (keysFrom q.key q.op.size) (bankApply q.op s.mem q.key q.val q.cmp).1).noHeader
      q.key q.op.size := by
    simp only [State.noHeader, State.headers, State.homePut_teams]
    exact hn
  rw [State.bankAt, hnone]
  dsimp only
  rw [State.homeWrite, State.keepHeaders_of_noHeader hput]

theorem State.homePut_late (s : State) (h : Fin 1024) (sc : Scope) (pub : Bool) (keys : List Nat) (m : Mem) :
    s.homePut h sc pub keys m = { s with mem := m, late := (s.homePut h sc pub keys m).late } := by
  unfold State.homePut
  split <;> rfl

/-- A request applied at its bank: memory, the filter, its mark and the order of home writes change. -/
theorem exec_arrive_applied (ha : s.ev.a = c.val) (hb : s.ev.b = q.tag) (hq : s.cores[c].busy = [q]) (hp : q.peer = none)
    (hna : q.applied = false) (hk : ¬ s.knows c q) (ht : q.team = none) (hn : s.noHeader q.key q.op.size) :
    let r := bankApply q.op s.mem q.key q.val q.cmp
    ∃ late, exec .bankOpArrive s = .next ((((({ s with
        mem := r.1, late := late
        filt := filtAdd s.filt { src := c.val, bank := homeUnit q.key, tag := q.tag, resp := r.2.1, flags := r.2.2 } } : State).withBusy c
      [{ q with applied := true, resp := r.2.1 }]).push .bankOpResponseArrive c.val q.tag 0 0).unlock (coreFrond c) (.vbsum q.adm q.lock))) := by
  intro r
  have hcond : (q.applied || (s.filtered c.val q.key q.tag).isSome) = false := by
    rw [hna, Bool.false_or, Bool.eq_false_iff, Ne, State.filtered_isSome]
    exact hk
  have hfirst : s.cores[c].busy.takeWhile (fun r => r.tag != q.tag) = [] := by rw [hq]; simp
  have hlog : s.bankLog q = .ok s := by rw [State.bankLog, ht]; rfl
  let u : State := (s.seenBy (coreFrond c) q.key q.op.size).homePut (coreFrond c) .fi false (keysFrom q.key q.op.size) r.1
  have hu : u = { s with mem := r.1, late := u.late } := State.homePut_late _ _ _ _ _ _
  refine ⟨u.late, ?_⟩
  let w : State := { s with
    mem := r.1, late := u.late
    filt := filtAdd s.filt { src := c.val, bank := homeUnit q.key, tag := q.tag, resp := r.2.1, flags := r.2.2 } }
  have hdo : (s.bankDo c q).1 = w.withBusy c [{ q with applied := true, resp := r.2.1 }] := by
    have hat := State.bankAt_unknown (q := q) hk hn (coreFrond c)
    rw [State.bankDo, show (⟨c.val / 2, _⟩ : Fin 1024) = coreFrond c from rfl, hat]
    refine (congrArg (fun v : State => State.onCore { v with filt := w.filt } c fun x =>
      { x with busy := x.busy.map fun y => if y.tag == q.tag then { y with applied := true, resp := r.2.1 } else y }) hu).trans ?_
    exact State.mark_single (s := w) hq (f := fun x => { x with applied := true, resp := r.2.1 }) (fun r => r.tag == q.tag)
      (beq_self_eq_true q.tag)
  rw [exec_bankOpArrive, execBankOpArrive, ha, hb, coreNo_val, State.bankArrive, State.busyReq_single hq]
  dsimp only
  rw [if_neg (by simp [hp]), hcond, if_neg Bool.false_ne_true, hfirst, if_neg (by simp [bankBehind]), hlog]
  dsimp only
  rw [hdo, State.vbsumDone_applied (q := { q with applied := true, resp := r.2.1 }) (by exact State.withBusy_busy w c _) rfl]
  rfl

theorem exec_arrive_peer (ha : s.ev.a = c.val) (hb : s.ev.b = q.tag) (hq : s.cores[c].busy = [q]) (hp : q.peer.isSome = true) :
    exec .bankOpArrive s = .next s := by
  rw [exec_bankOpArrive, execBankOpArrive, ha, hb, coreNo_val, State.bankArrive, State.busyReq_single hq]
  dsimp only
  rw [if_pos hp]
  rfl

theorem exec_arrive_behind (ha : s.ev.a = c.val) (hb : s.ev.b = q.tag) {p : BankReq} (hq : s.cores[c].busy = [p, q]) (hpp : p.peer = none)
    (hqp : q.peer = none) (htag : p.tag ≠ q.tag) (hpa : p.applied = false) (hadm : p.adm = q.adm) (h1 : p.key < q.key + q.op.size)
    (h2 : q.key < p.key + p.op.size) (hqa : q.applied = false) (hk : ¬ s.knows c q) : exec .bankOpArrive s = .next s := by
  have hcond : (q.applied || (s.filtered c.val q.key q.tag).isSome) = false := by
    rw [hqa, Bool.false_or, Bool.eq_false_iff, Ne, State.filtered_isSome]
    exact hk
  have hreq : s.busyReq c q.tag = some q := by
    rw [State.busyReq, hq]
    simp [htag]
  have hbehind : bankBehind (s.cores[c].busy.takeWhile fun r => r.tag != q.tag) q.adm q.key q.op.size = true := by
    rw [hq]
    simp [bankBehind, htag, hpp, hpa, hadm, h1, h2]
  rw [exec_bankOpArrive, execBankOpArrive, ha, hb, coreNo_val, State.bankArrive, hreq]
  dsimp only
  rw [if_neg (by simp [hqp]), hcond, if_neg Bool.false_ne_true, if_pos hbehind]
  rfl

theorem exec_response (ha : s.ev.a = c.val) (hb : s.ev.b = q.tag) (hq : s.cores[c].busy = [q]) : exec .bankOpResponseArrive s = .next (
    if q.answered then s else (s.withBusy c [{ q with answered := true }]).push .bankTagFree c.val q.tag 0 0) := by
  rw [exec_bankOpResponseArrive, execBankOpResponseArrive, ha, hb, coreNo_val, State.busyReq_single hq]
  dsimp only
  cases q.answered with
  | true => rfl
  | false =>
    rw [if_neg Bool.false_ne_true, if_neg Bool.false_ne_true, State.mark_single hq (fun r => r.tag == q.tag) (beq_self_eq_true q.tag)]

theorem exec_resend_answered (ha : s.ev.a = c.val) (hb : s.ev.b = q.tag) (hq : s.cores[c].busy = [q]) (h : q.answered = true) :
    exec .bankOpResend s = .next s := by
  rw [exec_bankOpResend, execBankOpResend, ha, hb, coreNo_val, State.busyReq_single hq]
  dsimp only
  rw [if_pos h]

theorem exec_resend_here (ha : s.ev.a = c.val) (hb : s.ev.b = q.tag) (hq : s.cores[c].busy = [q]) (h : q.answered = false) (hp : q.peer = none) :
    exec .bankOpResend s = .next (if 4 ≤ q.copies then { s with agenda := s.agenda ++ [q.failure] }
      else (s.withBusy c [{ q with copies := q.copies + 1 }]).push .bankOpArrive c.val q.tag 0 0) := by
  rw [exec_bankOpResend, execBankOpResend, ha, hb, coreNo_val, State.busyReq_single hq]
  dsimp only
  rw [if_neg (by simp [h]), State.mark_single hq (f := fun r => { r with copies := r.copies + 1 }) (fun r => r.tag == q.tag)
    (beq_self_eq_true q.tag)]
  split
  · split_ifs <;> rfl
  next p hpeer => rw [hp] at hpeer; cases hpeer

theorem exec_resend_far (ha : s.ev.a = c.val) (hb : s.ev.b = q.tag) (hq : s.cores[c].busy = [q]) (h : q.answered = false) {p : FarReq}
    (hp : q.peer = some p) :
    exec .bankOpResend s = .next (if 4 ≤ q.copies then s.push .peerLostDeclare p.pkg 0 0 0
      else (s.withBusy c [{ q with copies := q.copies + 1 }]).send
        (.request c.val p.cls p.pkg p.part p.seq q.tag (.bank q.op) p.addr q.op.size q.val q.cmp)) := by
  rw [exec_bankOpResend, execBankOpResend, ha, hb, coreNo_val, State.busyReq_single hq]
  dsimp only
  rw [if_neg (by simp [h]), State.mark_single hq (f := fun r => { r with copies := r.copies + 1 }) (fun r => r.tag == q.tag)
    (beq_self_eq_true q.tag)]
  split
  next hpeer => rw [hp] at hpeer; cases hpeer
  next p' hpeer =>
    obtain rfl : p' = p := Option.some.inj (hpeer.symm.trans hp)
    split_ifs <;> rfl

theorem exec_copyDrop (ha : s.ev.a = c.val) (hb : s.ev.b = q.tag) (hq : s.cores[c].busy = [q]) {e : Ev} (he : s.agenda = [e])
    (hop : e.op = .bankOpArrive) (hea : e.a = c.val) (heb : e.b = q.tag) : exec .bankOpCopyDrop s =
      .next { s with agenda := if q.applied then [] else [agendaEv .bankOpResend c.val q.tag 0 0] } := by
  have hreq := State.busyReq_single hq
  rw [exec_bankOpCopyDrop, execBankOpCopyDrop, ha, hb, coreNo_val, hreq, he]
  simp only [hop, hea, heb, beq_self_eq_true, Bool.and_self, List.find?_cons_of_pos, List.erase_cons_head, List.any_nil, Bool.or_false, ha, hb]
  split_ifs <;> rfl

theorem exec_tagFree (ha : s.ev.a = c.val) (hb : s.ev.b = q.tag) (hq : s.cores[c].busy = [q]) :
    exec .bankTagFree s = .next (s.withBusy c (if q.answered && q.applied then [] else [q])) := by
  rw [exec_bankTagFree, execBankTagFree, ha, hb, coreNo_val]
  refine congrArg Host.Outcome.next (State.onCore_congr ?_)
  rw [hq]
  cases h1 : q.answered <;> cases h2 : q.applied <;> simp [h1, h2]

/-- The error of a request whose fourth copy went unanswered, by where its word lies (R162). -/
theorem failure_eq (q : BankReq) : ∃ cls v, q.failure =
    { op := .uncorrectableError, a := cls, b := (homeSite q.key).1, c := 0, v := BitVec.ofNat 64 v, l := [BitVec.ofNat 64 q.part.val] } ∧
    (q.key < shmKey 0 → cls = 3 ∧ v = q.key) ∧ (shmKey 0 ≤ q.key → q.key < spadKey 0 0 → cls = 2 ∧ v = (homeSite q.key).2) ∧
    (spadKey 0 0 ≤ q.key → cls = 1 ∧ v = (homeSite q.key).1 * 256 + (homeSite q.key).2 % 256) := by
  have horder : shmKey 0 < spadKey 0 0 := by decide
  unfold BankReq.failure
  dsimp only
  by_cases h1 : q.key < shmKey 0
  · rw [if_pos h1]
    exact ⟨3, q.key, rfl, fun _ => ⟨rfl, rfl⟩, fun h => absurd h1 (Nat.not_lt.mpr h), fun h => absurd (horder.trans_le h) (Nat.not_lt.mpr h1.le)⟩
  · rw [if_neg h1]
    by_cases h2 : q.key < spadKey 0 0
    · rw [if_pos h2]
      exact ⟨2, (homeSite q.key).2, rfl, fun h => absurd h h1, fun _ _ => ⟨rfl, rfl⟩, fun h => absurd h2 (Nat.not_lt.mpr h)⟩
    · rw [if_neg h2]
      exact ⟨1, _, rfl, fun h => absurd h h1, fun _ h => absurd h h2, fun _ => ⟨rfl, rfl⟩⟩

end

/-- Settles O53: an arrival by what the filter knows, and the life of a tag event by event. -/
theorem bankTraffic : Obligations.BankTraffic := by
  unfold Obligations.BankTraffic
  intro s c q ha hb
  dsimp only
  refine ⟨fun hq hp => ⟨fun hk => ?_, fun hna hk ht hn => ?_, fun h => ?_, fun h => ⟨?_, fun hc => ?_, fun hc => ?_⟩, fun e he hop hea heb => ?_, ?_⟩,
    fun p hq hp h => ⟨exec_arrive_peer ha hb hq (by rw [hp]; rfl), fun hc => ?_, fun hc => ?_⟩,
    fun p hq hpp hqp htag hpa hadm h1 h2 hqa hk => exec_arrive_behind ha hb hq hpp hqp htag hpa hadm h1 h2 hqa hk⟩
  · exact ⟨_, exec_arrive_known ha hb hq hp hk, rfl, rfl, State.withBusy_busy s c _, fun h hh => unlocked_of_frond h hh, rfl⟩
  · obtain ⟨late, hexec⟩ := exec_arrive_applied ha hb hq hp hna hk ht hn
    exact ⟨_, hexec, rfl, State.withBusy_busy _ c _, rfl, rfl, rfl, mem_filtAdd_self _ _, fun x hx hroom => mem_filtAdd_of_mem hx hroom,
      fun hle => filtAdd_length (x := { src := c.val, bank := homeUnit q.key, tag := q.tag, resp := _, flags := _ }) hle, fun h hh => unlocked_of_frond h hh⟩
  · exact ⟨(exec_response ha hb hq).trans (by rw [if_pos h]), exec_resend_answered ha hb hq h⟩
  · exact (exec_response ha hb hq).trans (by rw [if_neg (by simp [h])]; rfl)
  · exact (exec_resend_here ha hb hq h hp).trans (by rw [if_neg (by omega)]; rfl)
  · obtain ⟨cls, v, hev, hcases⟩ := failure_eq q
    exact ⟨cls, v, (exec_resend_here ha hb hq h hp).trans (by rw [if_pos hc, hev]), hcases⟩
  · exact exec_copyDrop ha hb hq he hop hea heb
  · exact exec_tagFree ha hb hq
  · exact (exec_resend_far ha hb hq h hp).trans (by rw [if_pos hc]; rfl)
  · exact (exec_resend_far ha hb hq h hp).trans (by rw [if_neg (by omega)]; rfl)

end Sys2Proof.Machine
end

section
/-! SUPPORT. What an access leaves of the state: a walk changes memory, the order of home writes and the TLBs (R371). -/

namespace Sys2Proof.Machine

/-- A state that differs from another at most in memory, the order of home writes and the dies' TLBs; memory keeps its form. -/
def State.reached (u s : State) : Prop :=
  u = { s with mem := u.mem, late := u.late, dies := u.dies } ∧ (s.mem.wf = true → u.mem.wf = true)

theorem State.reached_refl (s : State) : s.reached s := ⟨rfl, id⟩

section
variable {s u : State}

theorem State.reached_fir (h : u.reached s) : u.fir = s.fir := by obtain ⟨h, -⟩ := h; rw [h]
theorem State.reached_others (h : u.reached s) : u.others = s.others := by obtain ⟨h, -⟩ := h; rw [h]
theorem State.reached_cores (h : u.reached s) : u.cores = s.cores := by obtain ⟨h, -⟩ := h; rw [h]
theorem State.reached_fronds (h : u.reached s) : u.fronds = s.fronds := by obtain ⟨h, -⟩ := h; rw [h]
theorem State.reached_parts (h : u.reached s) : u.parts = s.parts := by obtain ⟨h, -⟩ := h; rw [h]
theorem State.reached_teams (h : u.reached s) : u.teams = s.teams := by obtain ⟨h, -⟩ := h; rw [h]
theorem State.reached_dev (h : u.reached s) : u.dev = s.dev := by obtain ⟨h, -⟩ := h; rw [h]
theorem State.reached_unacked (h : u.reached s) : u.unacked = s.unacked := by obtain ⟨h, -⟩ := h; rw [h]
theorem State.reached_gangs (h : u.reached s) : u.gangs = s.gangs := by obtain ⟨h, -⟩ := h; rw [h]
theorem State.reached_full (h : u.reached s) : u.full = s.full := by obtain ⟨h, -⟩ := h; rw [h]
theorem State.reached_agenda (h : u.reached s) : u.agenda = s.agenda := by obtain ⟨h, -⟩ := h; rw [h]

theorem State.reached_rx (h : u.reached s) (a : BitVec 6) : u.rx a = s.rx a := by rw [State.rx, State.rx, State.reached_fir h]

theorem State.translate_reached {p : Fin 16} {d : Fin 4} {va : Nat} {wr : Bool} {l : Leaf} (h : s.translate p d va wr = some (u, l)) :
    u.reached s := by
  have henter : ∀ x : Leaf, (State.translate.enter p d wr s x).1.reached s := fun x => ⟨rfl, fun hm => Mem.wf_orKeys hm _ _⟩
  unfold State.translate at h
  dsimp only at h
  split at h
  · split at h
    · cases h; exact s.reached_refl
    · split at h
      · cases h
      next x hx => exact (Prod.mk.inj (Option.some.inj h)).1 ▸ henter x
  · split at h
    · cases h
    next x hx => exact (Prod.mk.inj (Option.some.inj h)).1 ▸ henter x

/-- An operation after one that succeeded. -/
theorem of_bind_ok {α β : Type} {r : Except Stop α} {k : α → Except Stop β} {y : β} (h : (r >>= k) = .ok y) : ∃ x, r = .ok x ∧ k x = .ok y := by
  cases r with
  | error e => cases h
  | ok x => exact ⟨x, rfl, h⟩

theorem State.resolve_reached {ac : Acc} {a n : Nat} {pl : Place} (h : s.resolve ac a n = .ok (u, pl)) : u.reached s := by
  have hself : ∀ {c : Bool} {v : Word} {q : Place}, (if c then raise .prot v else .ok (s, q)) = .ok (u, pl) → u.reached s := by
    intro c v q hq
    cases c <;> cases hq
    exact s.reached_refl
  unfold State.resolve at h
  dsimp only at h
  split at h
  · split at h
    · exact hself h
    · split at h
      · cases h
      · exact hself h
    · exact hself h
    · split at h <;> cases h
      exact s.reached_refl
    · cases h
  · split at h
    · cases h
    next v l hl =>
      split at h
      · cases h
      · generalize hq : s.leafPlace s.fir.part l a = q at h
        cases q with
        | error e => cases h
        | ok q => cases h; exact State.translate_reached hl

theorem State.reach_reached {ac : Acc} {a : Int} {n al : Nat} {pl : Place} (h : s.reach ac a n al = .ok (u, pl)) : u.reached s := by
  unfold State.reach at h
  split at h
  · cases h
  · exact State.resolve_reached h

theorem State.access_reached {ac : Acc} {a : Int} {n al : Nat} {pl : Place} (h : s.access ac a n al = .ok (u, pl)) : u.reached s := by
  unfold State.access at h
  obtain ⟨⟨v, q⟩, hr, h⟩ := of_bind_ok h
  have hv := State.reach_reached hr
  dsimp only at h
  split at h <;> cases h
  exact hv

theorem State.objNear_reached {a : Word} {n : Nat} {pl : Place} (h : s.objNear a n = .ok (u, pl)) : u.reached s := by
  unfold State.objNear at h
  obtain ⟨-, h⟩ := of_check_bind_ok h
  obtain ⟨-, h⟩ := of_check_bind_ok h
  obtain ⟨⟨v, q⟩, hr, h⟩ := of_bind_ok h
  have hv := State.access_reached hr
  dsimp only at h
  split at h
  · obtain ⟨_, hport, -⟩ := of_bind_ok h
    cases hport
  · obtain ⟨_, -, h⟩ := of_bind_ok h
    cases h
    exact hv

/-- An engine object's state, with the path to its place noted. -/
theorem State.objAt_reached {a : Word} {n : Nat} {pl : Place} (h : s.objAt a n = .ok (u, pl)) : ∃ v : State, v.reached s ∧ u = v.usePath pl := by
  unfold State.objAt at h
  obtain ⟨⟨v, q⟩, hr, h⟩ := of_bind_ok h
  cases h
  exact ⟨v, State.objNear_reached hr, rfl⟩

end

end Sys2Proof.Machine
end

section
/-! PROOF. Transaction barriers (R188, R189). -/

namespace Sys2Proof.Machine

theorem Mem.read_write_apart {m : Mem} (h : m.wf = true) {a n k j : Nat} (v : Nat) (hk : k + j ≤ a ∨ a + n ≤ k) :
    (m.write a n v).read k j = m.read k j :=
  Mem.read_congr fun x hx hx' => Mem.get_write_other h a n v x (by omega)

theorem intOf_toBits_48 (i : Int) : intOf true 48 (toBits 48 i) = (BitVec.ofInt 48 i).toInt := by
  have hm : 0 ≤ i % 2 ^ 48 := Int.emod_nonneg _ (by decide)
  have hl : i % 2 ^ 48 < 2 ^ 48 := Int.emod_lt_of_pos _ (by decide)
  rw [BitVec.toInt_ofInt, Int.bmod_def, intOf, toBits]
  simp only [Bool.true_and, decide_eq_true_eq]
  split_ifs <;> omega

theorem toBits_48_lt (i : Int) : toBits 48 i < 2 ^ 48 := by
  have hm : 0 ≤ i % 2 ^ 48 := Int.emod_nonneg _ (by decide)
  have hl : i % 2 ^ 48 < 2 ^ 48 := Int.emod_lt_of_pos _ (by decide)
  rw [toBits]
  omega

theorem toBits_48_eq_zero (i : Int) : toBits 48 i = 0 ↔ (BitVec.ofInt 48 i).toInt = 0 := by
  have hm : 0 ≤ i % 2 ^ 48 := Int.emod_nonneg _ (by decide)
  have hl : i % 2 ^ 48 < 2 ^ 48 := Int.emod_lt_of_pos _ (by decide)
  rw [toBits, BitVec.toInt_ofInt, Int.bmod_def]
  split_ifs <;> omega

/-- A barrier written reads back, each field at its width. -/
theorem State.barrierAt_putBarrier {s : State} (hw : s.mem.wf = true) (k : Nat) (b : Barrier) :
    (s.putBarrier k b).barrierAt k =
      { init := b.init % 2 ^ 24, pend := b.pend % 2 ^ 24, phase := b.phase % 16, sect := (BitVec.ofInt 48 b.sect).toInt } := by
  have h0 : (s.putBarrier k b).mem.read k 8 = b.init % 2 ^ 24 * 2 ^ 28 + b.pend % 2 ^ 24 * 2 ^ 4 + b.phase % 16 := by
    refine (Mem.read_write_apart (Mem.wf_write hw _ _ _) _ (by omega)).trans ?_
    rw [Mem.read_write hw]
    omega
  have h8 : (s.putBarrier k b).mem.read (k + 8) 8 = toBits 48 b.sect := by
    refine (Mem.read_write (Mem.wf_write hw _ _ _) _ _ _).trans (Nat.mod_eq_of_lt ?_)
    have := toBits_48_lt b.sect
    omega
  rw [State.barrierAt, h0, h8, intOf_toBits_48]
  simp only [bits, BitVec.toNat_ofNat, Barrier.mk.injEq, and_true]
  omega

/-- The fields of a barrier in memory. -/
theorem State.barrierAt_lt (s : State) (k : Nat) :
    (s.barrierAt k).init < 2 ^ 24 ∧ (s.barrierAt k).pend < 2 ^ 24 ∧ (s.barrierAt k).phase < 16 :=
  ⟨Nat.mod_lt _ (by decide), Nat.mod_lt _ (by decide), Nat.mod_lt _ (by decide)⟩

theorem State.putBarrier_other {s : State} (hw : s.mem.wf = true) (k : Nat) (b : Barrier) {c : Nat} (hc : c < k ∨ k + 16 ≤ c) :
    (s.putBarrier k b).mem.get c = s.mem.get c :=
  (Mem.get_write_other (Mem.wf_write hw _ _ _) _ _ _ c (by omega)).trans (Mem.get_write_other hw _ _ _ c (by omega))

/-- What settling leaves, with SECT as 48 bits hold it. -/
theorem Barrier.settle_after (b : Barrier) (hp : b.phase < 16) (hi : b.init < 2 ^ 24) (pend : Nat) (hpend : pend < 2 ^ 24) (sect : Int) :
    let c := ({ b with pend := pend, sect := sect } : Barrier).settle
    ({ init := c.init % 2 ^ 24, pend := c.pend % 2 ^ 24, phase := c.phase % 16, sect := (BitVec.ofInt 48 c.sect).toInt } : Barrier) = b.after pend sect := by
  have hz := toBits_48_eq_zero sect
  simp only [Barrier.settle, Barrier.after, Bool.and_eq_true, decide_eq_true_eq, hz]
  split_ifs with h
  · simp only [Nat.mod_eq_of_lt hi, Nat.mod_mod, h.2]
  · simp only [Nat.mod_eq_of_lt hi, Nat.mod_eq_of_lt hp, Nat.mod_eq_of_lt hpend]

theorem Barrier.settle_phase (b : Barrier) (hp : b.phase < 16) : b.settle.phase < 16 := by
  unfold Barrier.settle
  split
  · exact Nat.mod_lt _ (by decide)
  · exact hp

/-- A firing once the phase of a barrier is what it is: an unchanged phase releases nobody. -/
theorem Firing.afterPhase_same (g : Firing) (k p : Nat) : g.afterPhase k p p = g := by
  unfold Firing.afterPhase
  split
  · exact if_neg fun h => h.1 rfl
  · rfl

theorem Firing.afterPhase_advance (g : Firing) (k old new : Nat) : (g.afterPhase k old new).advance = g.advance := by
  unfold Firing.afterPhase
  split
  · split_ifs <;> rfl
  · rfl

theorem Firing.afterPhase_wx_advance (g : Firing) (k old new : Nat) (d : BitVec 6) (w : Word) :
    ((g.afterPhase k old new).wx d w).advance = (g.wx d w).advance := by
  unfold Firing.afterPhase
  split
  · split_ifs
    · unfold Firing.wx Firing.advance
      split <;> rfl
    · rfl
  · rfl

/-- A waiter for another phase of the barrier at key k released. -/
def Firing.letGo (f : Firing) (k new : Nat) : Firing :=
  match f.wait with
  | some (.barrier j p) => if j = k && p != new then { f with wait := some .released } else f
  | _ => f

theorem State.updateBarrier_letGo (s : State) (k : Nat) (b : Barrier) : s.updateBarrier k b =
    if b.settle.phase = b.phase then s.putBarrier k b.settle
    else { s.putBarrier k b.settle with
      fir := s.fir.letGo k b.settle.phase, others := s.others.map fun g => g.letGo k b.settle.phase } := rfl

theorem Firing.letGo_eq (f : Firing) (k : Nat) {old new : Nat} (h : old ≠ new) : f.letGo k new = f.afterPhase k old new := by
  unfold Firing.letGo Firing.afterPhase
  cases f.wait with
  | none => rfl
  | some w =>
    cases w with
    | barrier j p =>
      show (if (decide (j = k) && p != new) = true then _ else _) = if old ≠ new ∧ j = k ∧ p ≠ new then _ else _
      simp [h]
    | _ => rfl

/-- A barrier updated (R188): its fields, and every waiter for another phase released when the phase is another. -/
theorem State.updateBarrier_eq (s : State) (k : Nat) (b : Barrier) : s.updateBarrier k b =
    { s.putBarrier k b.settle with
      fir := s.fir.afterPhase k b.phase b.settle.phase
      others := s.others.map fun g => g.afterPhase k b.phase b.settle.phase } := by
  rw [State.updateBarrier_letGo]
  by_cases h : b.settle.phase = b.phase
  · rw [if_pos h, h]
    simp only [Firing.afterPhase_same, List.map_id']
    rfl
  · rw [if_neg h]
    simp only [Firing.letGo_eq _ k (Ne.symm h)]

theorem State.barrierAt_congr {u v : State} (h : u.mem = v.mem) (k : Nat) : u.barrierAt k = v.barrierAt k := by
  rw [State.barrierAt, State.barrierAt, h]

theorem State.updateBarrier_mem (s : State) (k : Nat) (b : Barrier) : (s.updateBarrier k b).mem = (s.putBarrier k b.settle).mem := by
  rw [State.updateBarrier_eq]

theorem State.updateBarrier_fir (s : State) (k : Nat) (b : Barrier) :
    (s.updateBarrier k b).fir = s.fir.afterPhase k b.phase b.settle.phase := by
  rw [State.updateBarrier_eq]

theorem State.updateBarrier_moved (s : State) (k : Nat) (b : Barrier) : s.updateBarrier k b =
    { s with fir := (s.updateBarrier k b).fir, mem := (s.updateBarrier k b).mem
             others := s.others.map fun g => g.afterPhase k b.phase b.settle.phase } := by
  rw [State.updateBarrier_eq]
  rfl

theorem State.updateBarrier_barrierAt {s : State} (hw : s.mem.wf = true) (k : Nat) {pend : Nat} (hpend : pend < 2 ^ 24) (sect : Int) :
    (s.updateBarrier k { s.barrierAt k with pend := pend, sect := sect }).barrierAt k = (s.barrierAt k).after pend sect := by
  obtain ⟨hi, -, hp⟩ := s.barrierAt_lt k
  rw [State.barrierAt_congr (State.updateBarrier_mem _ _ _), State.barrierAt_putBarrier hw]
  exact Barrier.settle_after _ hp hi pend hpend sect

theorem State.updateBarrier_phase {s : State} (hw : s.mem.wf = true) (k : Nat) (b : Barrier) (hp : b.phase < 16) :
    ((s.updateBarrier k b).barrierAt k).phase = b.settle.phase := by
  rw [State.barrierAt_congr (State.updateBarrier_mem _ _ _), State.barrierAt_putBarrier hw]
  exact Nat.mod_eq_of_lt (Barrier.settle_phase b hp)

/-- A barrier updated to PEND and SECT, its phase as it stands. -/
theorem State.updateBarrier_after {s : State} (hw : s.mem.wf = true) (k : Nat) {pend : Nat} (hpend : pend < 2 ^ 24) (sect : Int) :
    let v := s.updateBarrier k { s.barrierAt k with pend := pend, sect := sect }
    v.barrierAt k = (s.barrierAt k).after pend sect ∧ (∀ c, c < k ∨ k + 16 ≤ c → v.mem.get c = s.mem.get c) ∧
      v.fir = s.fir.afterPhase k (s.barrierAt k).phase (v.barrierAt k).phase ∧ v.barrierMoved s k := by
  intro v
  have hphase := State.updateBarrier_phase hw k { s.barrierAt k with pend := pend, sect := sect } (s.barrierAt_lt k).2.2
  refine ⟨State.updateBarrier_barrierAt hw k hpend sect, fun x hx => ?_, ?_, ?_⟩
  · rw [State.updateBarrier_mem]; exact State.putBarrier_other hw k _ hx
  · exact (State.updateBarrier_fir s k _).trans (congrArg _ hphase.symm)
  · rw [State.barrierMoved, hphase]
    exact State.updateBarrier_moved s k _

theorem Firing.wx_withPaths (f : Firing) (ps : List Nat) (d : BitVec 6) (w : Word) : { f with paths := ps }.wx d w = { f.wx d w with paths := ps } := by
  unfold Firing.wx
  split <;> rfl

section
variable {s u : State} {a : Word} {n : Nat} {pl : Place} (h : s.objAt a n = .ok (u, pl))
include h

theorem State.objAt_fir : u.fir = { s.fir with paths := u.fir.paths } := by
  obtain ⟨v, hv, rfl⟩ := State.objAt_reached h
  simp only [State.usePath, State.upd_fir, State.reached_fir hv]

theorem State.objAt_wf (hw : s.mem.wf = true) : u.mem.wf = true := by
  obtain ⟨v, hv, rfl⟩ := State.objAt_reached h
  exact hv.2 hw

theorem State.objAt_rx (b : BitVec 6) : u.rx b = s.rx b := by
  rw [State.rx, State.objAt_fir h]
  rfl

end

section
variable {s u : State} {d a b : BitVec 6} {pl : Place}

theorem exec_txinit_cases (ho : s.objAt (s.rx a) 16 = .ok (u, pl)) (hi : s.Issues (.txinit a b)) : exec (.txinit a b) s =
    if 1 ≤ (s.rx b).toNat ∧ (s.rx b).toNat < 2 ^ 24 then
      .next ((u.putBarrier pl.key { init := (s.rx b).toNat, pend := (s.rx b).toNat, phase := 0, sect := 0 }).upd Firing.advance)
    else .next (s.trapHere { c := .prot, sub := 0, val := s.rx b }) := by
  rw [exec_txinit, execTxinit, plain_issues hi, ho, ok_bind]
  dsimp only
  rw [State.objAt_rx ho, ← Bool.decide_and]
  split_ifs with h
  · rw [check_true (decide_eq_true h), ok_bind, finish_done]
  · rw [decide_eq_false h]; rfl

theorem exec_txexp_cases (ho : s.objAt (s.rx a) 16 = .ok (u, pl)) (hi : s.Issues (.txexp a b)) : exec (.txexp a b) s =
    if (s.rx b).toNat < 2 ^ 47 then
      .next ((u.updateBarrier pl.key { u.barrierAt pl.key with
        pend := (u.barrierAt pl.key).pend, sect := (u.barrierAt pl.key).sect + (s.rx b).toNat }).upd Firing.advance)
    else .next (s.trapHere { c := .prot, sub := 0, val := s.rx b }) := by
  rw [exec_txexp, execTxexp, plain_issues hi, ho, ok_bind]
  dsimp only
  rw [State.objAt_rx ho]
  split_ifs with h
  · rw [check_true (decide_eq_true h), ok_bind, finish_done]
  · rw [decide_eq_false h]; rfl

theorem bits_low4 (w : Word) : bits w 3 0 = w.toNat % 16 := by
  rw [bits, Nat.pow_zero, Nat.div_one]; rfl

theorem exec_txwait_cases (ho : s.objAt (s.rx a) 16 = .ok (u, pl)) (hi : s.Issues (.txwait a b)) : exec (.txwait a b) s =
    if s.fir.wait ≠ some .released ∧ (u.barrierAt pl.key).phase = (s.rx b).toNat % 16 then
      .next (u.upd fun f => { f with wait := some (.barrier pl.key ((s.rx b).toNat % 16)), aged := false })
    else .next ((u.acquire (u.homeScope pl)).upd Firing.advance) := by
  have hwait : u.fir.wait = s.fir.wait := by rw [State.objAt_fir ho]
  rw [exec_txwait, execTxwait, plain_issues hi, ho, ok_bind]
  dsimp only
  rw [State.objAt_rx ho, bits_low4, hwait]
  split_ifs <;> rfl

theorem exec_txtry_cases (ho : s.objAt (s.rx a) 16 = .ok (u, pl)) (hi : s.Issues (.txtry d a b)) : exec (.txtry d a b) s = .next (
    if (u.barrierAt pl.key).phase = (s.rx b).toNat % 16 then (u.wx d 0).upd Firing.advance
    else ((u.acquire (u.homeScope pl)).wx d 1).upd Firing.advance) := by
  rw [exec_txtry, execTxtry, plain_issues hi, ho, ok_bind]
  dsimp only
  rw [State.objAt_rx ho, bits_low4]
  split_ifs <;> rfl

theorem State.quietOrder_of_reached (hr : u.reached s) (h : s.quietOrder) : u.quietOrder := by
  obtain ⟨hp, hu, hb, hd, hc⟩ := h
  refine ⟨?_, ?_, ?_, ?_, ?_⟩
  · rw [State.reached_fir hr]; exact hp
  · rw [State.reached_fir hr, State.reached_unacked hr]; exact hu
  · rw [State.posting, State.reached_fir hr, State.reached_cores hr]; exact hb
  · rw [State.reached_dev hr]; exact hd
  · rw [State.reached_dev hr]; exact hc

theorem exec_txarr_cases (ho : s.objNear (s.rx a) 16 = .ok (u, pl)) (hi : s.Issues (.txarr d a)) (hq : s.quietOrder) :
    let w := (u.publish s.fir.frond (u.homeScope pl)).usePath pl
    let b := w.barrierAt pl.key
    exec (.txarr d a) s =
      if b.pend = 0 then .next (w.trapHere { c := .prot, sub := 0, val := s.rx a })
      else .next (((w.updateBarrier pl.key { b with pend := b.pend - 1, sect := b.sect }).wx d (BitVec.ofNat 64 b.phase)).upd Firing.advance) := by
  intro w b
  have hr := State.objNear_reached ho
  have hqu := State.quietOrder_of_reached hr hq
  have hrx : w.rx a = s.rx a := by
    have hfir : w.fir = { u.fir with paths := w.fir.paths } := by
      simp only [w, State.usePath, State.upd_fir, State.publish_fir hqu]
    rw [State.rx, hfir, State.reached_fir hr]
    rfl
  rw [exec_txarr, execTxarr, plain_issues hi, ho, ok_bind]
  dsimp only
  rw [State.release_of_quiet hqu, ok_bind, State.reached_fir hr]
  change finish s (if b.pend = 0 then .error (.trapIn w { c := .prot, sub := 0, val := w.rx a })
    else .ok (.done ((w.updateBarrier pl.key { b with pend := b.pend - 1 }).wx d (BitVec.ofNat 64 b.phase)))) = _
  rw [hrx]
  split_ifs <;> rfl

end

theorem State.barrierMoved_upd {v u : State} {k : Nat} (h : v.barrierMoved u k) (g : Firing → Firing) : (v.upd g).barrierMoved u k := by
  have hat : (v.upd g).barrierAt k = v.barrierAt k := State.barrierAt_congr (by rfl) k
  rw [State.barrierMoved] at h ⊢
  rw [hat]
  exact congrArg (fun x : State => x.upd g) h

theorem State.putBarrier_goesOn {w : State} (hw : w.mem.wf = true) (k : Nat) (b : Barrier) (g : Firing → Firing) :
    let v := (w.putBarrier k b).upd g
    v.barrierAt k = { init := b.init % 2 ^ 24, pend := b.pend % 2 ^ 24, phase := b.phase % 16, sect := (BitVec.ofInt 48 b.sect).toInt } ∧
      (∀ c, c < k ∨ k + 16 ≤ c → v.mem.get c = w.mem.get c) ∧ v.fir = g w.fir ∧ v = { w with fir := v.fir, mem := v.mem } := by
  have hat := State.barrierAt_putBarrier hw k b
  have hmem := fun c hc => State.putBarrier_other hw k b (c := c) hc
  have hfir : (w.putBarrier k b).fir = w.fir := rfl
  have hall : w.putBarrier k b = { w with mem := (w.putBarrier k b).mem } := rfl
  generalize w.putBarrier k b = v at hat hmem hfir hall
  refine ⟨(State.barrierAt_congr rfl k).trans hat, hmem, congrArg g hfir, ?_⟩
  refine (congrArg (fun x : State => x.upd g) hall).trans ?_
  rw [State.upd_fir, hfir]
  rfl

/-- TXEXP and TXARR: the barrier as an update leaves it, and the firing gone on. -/
theorem State.updateBarrier_goesOn {w : State} (hw : w.mem.wf = true) (k : Nat) {pend : Nat} (hpend : pend < 2 ^ 24) (sect : Int)
    (g : Firing → Firing) (hg : ∀ old new, g (w.fir.afterPhase k old new) = g w.fir) :
    let v := (w.updateBarrier k { w.barrierAt k with pend := pend, sect := sect }).upd g
    v.barrierAt k = (w.barrierAt k).after pend sect ∧ (∀ c, c < k ∨ k + 16 ≤ c → v.mem.get c = w.mem.get c) ∧ v.fir = g w.fir ∧
      v.barrierMoved w k := by
  obtain ⟨hat, hmem, hfir, hmoved⟩ := State.updateBarrier_after hw k hpend sect
  generalize w.updateBarrier k { w.barrierAt k with pend := pend, sect := sect } = v at hat hmem hfir hmoved
  exact ⟨(State.barrierAt_congr rfl k).trans hat, hmem, by rw [State.upd_fir, hfir, hg], State.barrierMoved_upd hmoved g⟩

theorem txinitClause {s u : State} {a b : BitVec 6} {pl : Place} (hw : s.mem.wf = true) (ho : s.objAt (s.rx a) 16 = .ok (u, pl))
    (hi : s.Issues (.txinit a b)) (h1 : 1 ≤ (s.rx b).toNat) (h2 : (s.rx b).toNat < 2 ^ 24) :
    ∃ v, exec (.txinit a b) s = .next v ∧ v.barrierAt pl.key = { init := (s.rx b).toNat, pend := (s.rx b).toNat, phase := 0, sect := 0 } ∧
      (∀ c, c < pl.key ∨ pl.key + 16 ≤ c → v.mem.get c = u.mem.get c) ∧ v.fir = { s.fir.advance with paths := u.fir.paths } ∧
      v = { u with fir := v.fir, mem := v.mem } := by
  obtain ⟨hat, hmem, hfir, hall⟩ := State.putBarrier_goesOn (State.objAt_wf ho hw) pl.key
    { init := (s.rx b).toNat, pend := (s.rx b).toNat, phase := 0, sect := 0 } Firing.advance
  refine ⟨_, (exec_txinit_cases ho hi).trans (if_pos ⟨h1, h2⟩), hat.trans ?_, hmem, hfir.trans ?_, hall⟩
  · simp only [Nat.mod_eq_of_lt h2, Nat.zero_mod]
    rfl
  · rw [State.objAt_fir ho, Firing.advance_withPaths]

theorem txarrClause {s u : State} {d a : BitVec 6} {pl : Place} (hw : s.mem.wf = true) (ho : s.objNear (s.rx a) 16 = .ok (u, pl))
    (hi : s.Issues (.txarr d a)) (hq : s.quietOrder) {w : State} (hwdef : (u.publish s.fir.frond (u.homeScope pl)).usePath pl = w) :
    ((w.barrierAt pl.key).pend ≠ 0 → ∃ v, exec (.txarr d a) s = .next v ∧
      v.barrierAt pl.key = (w.barrierAt pl.key).after ((w.barrierAt pl.key).pend - 1) (w.barrierAt pl.key).sect ∧
      (∀ c, c < pl.key ∨ pl.key + 16 ≤ c → v.mem.get c = w.mem.get c) ∧
      v.fir = { (s.fir.wx d (BitVec.ofNat 64 (w.barrierAt pl.key).phase)).advance with paths := w.fir.paths } ∧ v.barrierMoved w pl.key) ∧
    ((w.barrierAt pl.key).pend = 0 → exec (.txarr d a) s = .next (w.trapHere { c := .prot, sub := 0, val := s.rx a })) := by
  have hr := State.objNear_reached ho
  have hqu := State.quietOrder_of_reached hr hq
  have hww : w.mem.wf = true := by
    rw [← hwdef]
    refine (congrArg Mem.wf (State.publish_mem_up hqu.2.2.2.1 hqu.2.2.2.2 _ _)).trans ?_
    exact Mem.wf_putAll (hr.2 hw) _
  have hwfir : w.fir = { s.fir with paths := w.fir.paths } := by
    rw [← hwdef]
    simp only [State.usePath, State.upd_fir, State.publish_fir hqu, State.reached_fir hr]
  have hexec := exec_txarr_cases ho hi hq
  rw [hwdef] at hexec
  refine ⟨fun hp => ?_, fun hp => hexec.trans (if_pos hp)⟩
  obtain ⟨hat, hmem, hfir, hmoved⟩ := State.updateBarrier_goesOn hww pl.key (pend := (w.barrierAt pl.key).pend - 1)
    (by have := (w.barrierAt_lt pl.key).2.1; omega) (w.barrierAt pl.key).sect
    (fun f => (f.wx d (BitVec.ofNat 64 (w.barrierAt pl.key).phase)).advance) (fun old new => Firing.afterPhase_wx_advance _ _ _ _ _ _)
  refine ⟨_, hexec.trans (if_neg hp), hat, hmem, hfir.trans ?_, hmoved⟩
  dsimp only
  rw [hwfir, Firing.wx_withPaths, Firing.advance_withPaths]

/-- Settles O29: each form from the object's place, and an update of the barrier by the one lemma of what it leaves. -/
theorem barriers : Obligations.Barriers := by
  unfold Obligations.Barriers
  intro s u d a b pl hw
  refine ⟨fun ho => ⟨fun hi h1 h2 => txinitClause hw ho hi h1 h2, fun hi hv => ?_, fun hi => ⟨fun hp hr => ?_, fun hp => ?_⟩,
    fun hi => exec_txtry_cases ho hi, fun hi hv => ?_, fun hi hv => ?_⟩, fun ho hi hq => txarrClause hw ho hi hq rfl⟩
  · obtain ⟨hat, hmem, hfir, hmoved⟩ := State.updateBarrier_goesOn (State.objAt_wf ho hw) pl.key (u.barrierAt_lt pl.key).2.1
      ((u.barrierAt pl.key).sect + (s.rx b).toNat) Firing.advance (fun old new => Firing.afterPhase_advance _ _ _ _)
    refine ⟨_, (exec_txexp_cases ho hi).trans (if_pos hv), hat, hmem, hfir.trans ?_, hmoved⟩
    rw [State.objAt_fir ho, Firing.advance_withPaths]
  · rw [exec_txwait_cases ho hi, if_pos ⟨hr, hp⟩]
  · rw [exec_txwait_cases ho hi, if_neg (by tauto)]
  · rw [exec_txinit_cases ho hi, if_neg]
    rintro ⟨h1, h2⟩
    rcases hv with hv | hv
    · simp [hv] at h1
    · omega
  · rw [exec_txexp_cases ho hi, if_neg (by omega)]

end Sys2Proof.Machine
end

section
/-! SUPPORT. A unit's reads, and the channels of a frond (R187, R229). -/

namespace Sys2Proof.Machine

section
variable {s t u : State}

theorem State.reached_trans (h1 : u.reached t) (h2 : t.reached s) : u.reached s := by
  obtain ⟨h1, hw1⟩ := h1
  obtain ⟨h2, hw2⟩ := h2
  exact ⟨by rw [h1, h2], fun hw => hw1 (hw2 hw)⟩

theorem State.reached_fr (h : u.reached s) : u.fr = s.fr := by
  obtain ⟨h, -⟩ := h
  rw [h]
  rfl

theorem State.unitPlace_reached {p : Fin 16} {d : Fin 4} {shm wr : Bool} {va n k : Nat} (h : s.unitPlace p d shm va n wr = some (u, k)) :
    u.reached s := by
  unfold State.unitPlace at h
  split at h
  · cases h
  · split at h
    · split at h <;> cases h
      exact s.reached_refl
    · split at h
      · cases h
      next v l hl =>
        split_ifs at h
        all_goals
          split at h <;> cases h
          all_goals exact State.translate_reached hl

theorem State.unitRead_reached {p : Fin 16} {d : Fin 4} {va n v : Nat} (h : s.unitRead p d va n = some (u, v)) : u.reached s := by
  have hone : ∀ {s u : State} {va n v : Nat}, ((s.unitPlace p d false va n false).map fun x => (x.1, x.1.homeRead x.2 n)) = some (u, v) →
      u.reached s := by
    intro s u va n v h
    obtain ⟨⟨t, k⟩, ht, he⟩ := Option.map_eq_some_iff.mp h
    cases he
    exact State.unitPlace_reached ht
  unfold State.unitRead at h
  dsimp only at h
  split at h
  · exact hone h
  · split at h
    · cases h
    next t lo hlo =>
      obtain ⟨⟨r, w⟩, hr, he⟩ := Option.map_eq_some_iff.mp h
      cases he
      exact State.reached_trans (hone hr) (hone hlo)

theorem State.descriptor_reached {h : Nat} {ws : List Word} (hd : s.descriptor h = .ok (u, ws)) : u.reached s := by
  unfold State.descriptor at hd
  dsimp only at hd
  split at hd
  · cases hd
  · split at hd
    · cases hd; exact s.reached_refl
    · split at hd
      · cases hd
      next t v ht =>
        split at hd
        · cases hd
        · split at hd <;> cases hd
          obtain ⟨ht, hw⟩ := State.unitRead_reached ht
          exact ⟨congrArg (fun x : State => x.onDie s.fir.die _) ht, hw⟩

theorem State.placements_reached (s : State) (ws : List Word) : (s.placements ws).1.reached s := by
  unfold State.placements
  refine List.foldlRecOn (motive := fun a : State × List (Nat × Word × Word) => a.1.reached s) _ _ s.reached_refl ?_
  intro a ha k _
  split
  next t v ht => exact State.reached_trans (State.unitRead_reached ht) ha
  next => exact ha

theorem State.copySide_reached {sharded : Bool} {w : Word} {ws : List Word} {pl : List (Nat × Word × Word)}
    (h : s.copySide sharded w = .ok (u, ws, pl)) : u.reached s := by
  unfold State.copySide at h
  split at h
  · obtain ⟨⟨t, ws'⟩, ht, h⟩ := of_bind_ok h
    cases h
    exact State.reached_trans (State.placements_reached t _) (State.descriptor_reached ht)
  · cases h; exact s.reached_refl

end

theorem toList_four {α : Type} (v : Vector α 4) : v.toList = [v[0], v[1], v[2], v[3]] := by
  obtain ⟨⟨l⟩, hl⟩ := v
  match l, hl with
  | [a, b, c, d], _ => rfl

/-- The first channel that satisfies a condition. -/
theorem State.channel_eq_some {s : State} {ok : Option Copy → Bool} {k : Fin 4} (hk : ok s.fr.chans[k] = true)
    (hlt : ∀ j : Fin 4, j.val < k.val → ok s.fr.chans[j] = false) : s.channel ok = some k := by
  have hfind : s.fr.chans.toList.zipIdx.find? (fun x => ok x.1) = some (s.fr.chans[k], k.val) := by
    rw [toList_four]
    have h0 := hlt 0
    have h1 := hlt 1
    have h2 := hlt 2
    fin_cases k <;> simp_all
  rw [State.channel, hfind]
  exact congrArg some (Fin.ext (Nat.mod_eq_of_lt k.isLt))

theorem State.channel_eq_none {s : State} {ok : Option Copy → Bool} (h : ∀ j : Fin 4, ok s.fr.chans[j] = false) : s.channel ok = none := by
  have hfind : s.fr.chans.toList.zipIdx.find? (fun x => ok x.1) = none := by
    rw [toList_four]
    have h0 := h 0
    have h1 := h 1
    have h2 := h 2
    have h3 := h 3
    simp_all
  rw [State.channel, hfind]

end Sys2Proof.Machine
end

section
/-! PROOF. The copy engine's registers, CGO and CWP (R182 to R187, R190). -/

namespace Sys2Proof.Machine

/-- A length or flags that break R182. -/
def badLength (cr : Vector Word 8) : Prop := cr[2].toNat % 2 ^ 48 = 0 ∨ cr[2].toNat / 2 ^ 48 ≠ 0

def badFlags (cr : Vector Word 8) : Prop :=
  cr[7].toNat / 2 ^ 52 % 2 ^ 9 ≠ 0 ∨ ((cr[7].getLsbD 63 = true ∨ cr[7].getLsbD 62 = true) ∧ cr[7].toNat % 2 ^ 52 ≠ 0)

theorem badLength_iff (cr : Vector Word 8) : (copyLen cr = 0 || bits cr[2] 63 48 != 0) = true ↔ badLength cr := by
  have h2 := cr[2].isLt
  rw [Bool.or_eq_true, decide_eq_true_eq, bne_iff_ne, copyLen, bits, bits, badLength]
  omega

theorem badFlags_iff (cr : Vector Word 8) :
    (bits cr[7] 60 52 != 0 || ((copyShs cr || copyShd cr) && bits cr[7] 51 0 != 0)) = true ↔ badFlags cr := by
  simp only [copyShs, copyShd, bit, bits, badFlags, Bool.or_eq_true, Bool.and_eq_true, bne_iff_ne, Nat.pow_zero, Nat.div_one]

theorem copyBad_length {cr : Vector Word 8} (h : badLength cr) : copyBad cr = some 2 := if_pos ((badLength_iff cr).mpr h)

theorem copyBad_flags {cr : Vector Word 8} (hl : ¬ badLength cr) (h : badFlags cr) : copyBad cr = some 7 := by
  rw [copyBad, if_neg (mt (badLength_iff cr).mp hl), if_pos ((badFlags_iff cr).mpr h)]

theorem copyBad_none {cr : Vector Word 8} (hl : ¬ badLength cr) (hf : ¬ badFlags cr) : copyBad cr = none := by
  rw [copyBad, if_neg (mt (badLength_iff cr).mp hl), if_neg (mt (badFlags_iff cr).mp hf)]

/-- A channel only taken, by firing n. -/
def takenBy (n : Nat) (c : Option Copy) : Bool :=
  match c with
  | some x => x.adm == n && !x.live
  | none => false

/-- The copy that a CGO of the acting firing makes under an id. -/
def State.newCopy (s : State) (id : Nat) (live : Bool) (sd dd : List Word) (sp dp : List (Nat × Word × Word)) : Copy :=
  { adm := s.fir.adm, tid := s.fir.tid, part := s.fir.part, id := id, cr := s.fir.cr, bytes := 0, srcDesc := sd, dstDesc := dd,
    srcPlace := sp, dstPlace := dp, phase := 0, buf := [], pends := [], bad := 0, hand := s.fir.intrap, live := live }

/-- What CGO does once its registers, sides and barrier address have passed: a channel, if there is one (R187, R190). -/
def State.copyStart (s : State) (d : BitVec 6) (sd dd : List Word) (sp dp : List (Nat × Word × Word)) : Except Stop Done :=
  match (s.channel (takenBy s.fir.adm)).orElse fun _ => s.channel Option.isNone with
  | none => .ok (.done (s.wx d 0))
  | some c =>
    match s.lockRoom (copyLocks s.fir.frond s.fir.cr 0).length with
    | .error (.wait t w) => block { s.setChannel c (some (s.newCopy 0 false sd dd sp dp)) with agenda := t.agenda } w
    | .error e => .error e
    | .ok _ =>
      let id := freeId s.fr.ids 5 s.fr.nextId
      let s := s.setChannel c (some (s.newCopy id true sd dd sp dp))
      let s := s.onFrond s.fir.frond fun f =>
        { f with nextId := id % 65535 + 1, locks := f.locks ++ copyLocks s.fir.frond s.fir.cr id }
      .ok (.done ((s.push .copySector s.fir.frond.val c.val 0 0).wx d (BitVec.ofNat 64 id)))

section
variable {s t u : State} {d a : BitVec 6}

theorem exec_cgo_bad (hi : s.Issues (.cgo d)) {k : Nat} (hk : copyBad s.fir.cr = some k) :
    exec (.cgo d) s = .next (s.trapHere { c := .prot, sub := 0, val := BitVec.ofNat 64 k }) := by
  rw [exec_cgo, execCgo, plain_issues hi]
  dsimp only
  rw [hk]
  rfl

theorem exec_cgo_earlier (hi : s.Issues (.cgo d)) (hk : copyBad s.fir.cr = none) (he : s.earlier = true) :
    exec (.cgo d) s = .next (s.upd fun f => { f with wait := some .posted, aged := false }) := by
  rw [exec_cgo, execCgo, plain_issues hi]
  dsimp only
  rw [hk, State.afterEarlier, if_pos he]
  rfl

theorem exec_cgo_sides (hi : s.Issues (.cgo d)) (hk : copyBad s.fir.cr = none) (he : s.earlier = false)
    {sd dd : List Word} {sp dp : List (Nat × Word × Word)} (hs : s.copySide (copyShs s.fir.cr) s.fir.cr[0] = .ok (t, sd, sp))
    (hd : t.copySide (copyShd s.fir.cr) s.fir.cr[1] = .ok (u, dd, dp))
    (hx : copyShs s.fir.cr = true → copyShd s.fir.cr = true → bits (dword sd 0) 5 4 = bits (dword dd 0) 5 4) :
    exec (.cgo d) s = finish s (u.checkTb s.fir.cr[6] >>= fun _ => u.copyStart d sd dd sp dp) := by
  have hfir : u.fir = s.fir := State.reached_fir (State.reached_trans (State.copySide_reached hd) (State.copySide_reached hs))
  have hsame : (copyShs s.fir.cr && copyShd s.fir.cr && bits (dword sd 0) 5 4 != bits (dword dd 0) 5 4) = false := by
    rw [Bool.eq_false_iff, Ne, Bool.and_eq_true, Bool.and_eq_true, bne_iff_ne]
    exact fun h => h.2 (hx h.1.1 h.1.2)
  rw [exec_cgo, execCgo, plain_issues hi]
  dsimp only
  rw [hk, State.afterEarlier, he]
  change finish s (s.copySide (copyShs s.fir.cr) s.fir.cr[0] >>= _) = _
  rw [hs, ok_bind]
  dsimp only
  rw [hd, ok_bind]
  dsimp only
  rw [hsame, if_neg Bool.false_ne_true]
  rw [← hfir]
  rfl

theorem checkTb_align {w : Word} (h : w.toNat % 16 ≠ 0) : u.checkTb w = .error (.trap { c := .align, sub := 0, val := w }) := by
  have hw : w ≠ 0 := fun e => h (by rw [e]; rfl)
  have hb : (bits w 3 0 == 0) = false := by rw [bits_low4]; simpa using h
  rw [State.checkTb, if_neg hw, hb]
  rfl

theorem checkTb_prot {w : Word} (hw : w ≠ 0) (h : w.toNat % 16 = 0) (ha : w.toNat / 2 ^ 48 ≠ 0x1FF ∨ 2 < w.toNat / 2 ^ 44 % 16) :
    u.checkTb w = .error (.trap { c := .prot, sub := 0, val := w }) := by
  have hb : (bits w 3 0 == 0) = true := by rw [bits_low4]; simpa using h
  have hap : (w.toNat / 2 ^ 48 == 0x1FF && decide (bits w 47 44 ≤ 2)) = false := by
    rw [Bool.eq_false_iff, Ne, Bool.and_eq_true, beq_iff_eq, decide_eq_true_eq, bits]
    omega
  rw [State.checkTb, if_neg hw, hb, check_true rfl, ok_bind, hap]
  rfl

theorem lockRoom_ok {n : Nat} (h : s.lockFree n) : s.lockRoom n = .ok () := by
  obtain ⟨hlen, hothers⟩ := h
  rw [State.lockRoom, if_pos]
  rw [Bool.and_eq_true, decide_eq_true_eq, Bool.or_eq_true, Bool.not_eq_true', List.any_eq_false]
  refine ⟨hlen, .inr fun f hf => ?_⟩
  rw [Bool.and_eq_true, Bool.and_eq_true, Bool.or_eq_true, beq_iff_eq, beq_iff_eq]
  rintro ⟨⟨-, hfrond⟩, hwait⟩
  obtain ⟨hg, hw⟩ := hothers f hf hfrond
  rcases hwait with hwait | hwait
  · rw [hg] at hwait; cases hwait
  · exact hw hwait

end

/-- The ids tried from n on. -/
def idFrom (n i : Nat) : Nat := (n - 1 + i) % 65535 + 1

theorem freeId_tries (used : List Nat) (k : Nat) {n : Nat} (h : 0 < n ∧ n ≤ 65535) :
    (0 < freeId used k n ∧ freeId used k n ≤ 65535) ∧ (freeId used k n ∉ used ∨ ∀ i < k, idFrom n i ∈ used) := by
  induction k generalizing n with
  | zero => exact ⟨h, .inr fun i hi => absurd hi (Nat.not_lt_zero i)⟩
  | succ k ih =>
    rw [freeId]
    have hnext := ih (n := n % 65535 + 1) (by omega)
    by_cases hn : n ∈ used
    · rw [if_pos (by simpa using hn)]
      refine ⟨hnext.1, hnext.2.imp_right fun hall i hi => ?_⟩
      cases i with
      | zero =>
        have h0 : idFrom n 0 = n := by unfold idFrom; omega
        rw [h0]; exact hn
      | succ i =>
        have hs : idFrom n (i + 1) = idFrom (n % 65535 + 1) i := by unfold idFrom; omega
        rw [hs]; exact hall i (by omega)
    · rw [if_neg (by simpa using hn)]
      exact ⟨h, .inl hn⟩

/-- With fewer ids in use than are tried, the one found is free. -/
theorem freeId_not_mem {used : List Nat} {k n : Nat} (h : 0 < n ∧ n ≤ 65535) (hk : k ≤ 65535) (hlen : used.length < k) :
    freeId used k n ∉ used := by
  refine (freeId_tries used k h).2.resolve_right fun hall => ?_
  have hnodup : ((List.range k).map (idFrom n)).Nodup := by
    refine List.Nodup.map_on (fun i hi j hj e => ?_) List.nodup_range
    have hi := List.mem_range.mp hi
    have hj := List.mem_range.mp hj
    unfold idFrom at e
    omega
  have hsub : (List.range k).map (idFrom n) ⊆ used := by
    intro x hx
    obtain ⟨i, hi, rfl⟩ := List.mem_map.mp hx
    exact hall i (List.mem_range.mp hi)
  have hle := (hnodup.subperm hsub).length_le
  rw [List.length_map, List.length_range] at hle
  omega

theorem Frond.ids_length (f : Frond) : f.ids.length ≤ 4 :=
  (List.length_filterMap_le _ _).trans (by simp)

section
variable {s u : State} {d a : BitVec 6}

/-- The bytes done of a channel's copy, when it is the active copy of the acting firing that a register names. -/
def State.bytesDone (s : State) (a : BitVec 6) (c : Option Copy) : Option Nat :=
  match c with
  | some x => if x.live && x.adm == s.fir.adm && BitVec.ofNat 64 x.id == s.rx a then some x.bytes else none
  | none => none

theorem exec_cwp_done (hi : s.Issues (.cwp d a)) : exec (.cwp d a) s = .next ((s.wx d
    (match s.fr.chans.toList.findSome? (s.bytesDone a) with
      | some n => BitVec.ofNat 64 n
      | none => BitVec.allOnes 64)).upd Firing.advance) := by
  rw [exec_cwp, execCwp, plain_issues hi]
  rfl

theorem bytesDone_mine {c : Copy} (hl : c.live = true) (ha : c.adm = s.fir.adm) (hx : (s.rx a).toNat = c.id) :
    s.bytesDone a (some c) = some c.bytes := by
  have hw : BitVec.ofNat 64 c.id = s.rx a := by rw [← hx, BitVec.ofNat_toNat, BitVec.setWidth_eq]
  simp [State.bytesDone, hl, ha, hw]

theorem bytesDone_none {x : Option Copy} (h : ∀ c, x = some c → c.live = true → c.adm = s.fir.adm → BitVec.ofNat 64 c.id ≠ s.rx a) :
    s.bytesDone a x = none := by
  cases x with
  | none => rfl
  | some c =>
    refine if_neg ?_
    rw [Bool.and_eq_true, Bool.and_eq_true, beq_iff_eq, beq_iff_eq]
    exact fun hc => h c rfl hc.1.1 hc.1.2 hc.2

theorem findSome_channel {v : Vector (Option Copy) 4} {g : Option Copy → Option Nat} {k : Fin 4} {n : Nat} (hk : g v[k] = some n)
    (hother : ∀ j : Fin 4, j ≠ k → g v[j] = none) : v.toList.findSome? g = some n := by
  rw [toList_four]
  have h0 := hother 0
  have h1 := hother 1
  have h2 := hother 2
  fin_cases k <;> simp_all

theorem findSome_no_channel {v : Vector (Option Copy) 4} {g : Option Copy → Option Nat} (h : ∀ j : Fin 4, g v[j] = none) :
    v.toList.findSome? g = none := by
  rw [toList_four]
  have h0 := h 0
  have h1 := h 1
  have h2 := h 2
  have h3 := h 3
  simp_all

/-- CWP of an id that an active copy of the firing has, and no other (R187). -/
theorem exec_cwp_mine (hi : s.Issues (.cwp d a)) {k : Fin 4} {c : Copy} (hk : s.fr.chans[k] = some c) (hl : c.live = true) (ha : c.adm = s.fir.adm)
    (hx : (s.rx a).toNat = c.id)
    (hother : ∀ (j : Fin 4) e, s.fr.chans[j] = some e → e.live = true → j ≠ k → e.id < 2 ^ 16 ∧ e.id ≠ c.id) :
    exec (.cwp d a) s = .next ((s.wx d (BitVec.ofNat 64 c.bytes)).upd Firing.advance) := by
  rw [exec_cwp_done hi, findSome_channel (k := k) (n := c.bytes) (by rw [hk]; exact bytesDone_mine hl ha hx) fun j hj => ?_]
  refine bytesDone_none fun e he hel _ heq => ?_
  obtain ⟨h16, hne⟩ := hother j e he hel hj
  have hto := congrArg BitVec.toNat heq
  rw [BitVec.toNat_ofNat, hx, Nat.mod_eq_of_lt (by omega)] at hto
  exact hne hto

theorem exec_cwp_none (hi : s.Issues (.cwp d a))
    (h : ∀ (k : Fin 4) (c : Copy), s.fr.chans[k] = some c → c.live = true → c.adm = s.fir.adm → BitVec.ofNat 64 c.id ≠ s.rx a) :
    exec (.cwp d a) s = .next ((s.wx d (BitVec.allOnes 64)).upd Firing.advance) := by
  rw [exec_cwp_done hi, findSome_no_channel fun j => bytesDone_none fun c hc => h j c hc]

theorem takenBy_false {n : Nat} {x : Option Copy} (h : ∀ c, x = some c → c.live = true ∨ c.adm ≠ n) : takenBy n x = false := by
  cases x with
  | none => rfl
  | some c =>
    rw [takenBy, Bool.and_eq_false_iff, Bool.not_eq_false', beq_eq_false_iff_ne]
    exact (h c rfl).symm

section
variable {sd dd : List Word} {sp dp : List (Nat × Word × Word)}
  (hl : ∀ (k : Fin 4) c, s.fr.chans[k] = some c → c.live = true ∨ c.adm ≠ s.fir.adm)
include hl

theorem copyStart_full (hf : ∀ k : Fin 4, s.fr.chans[k] ≠ none) : s.copyStart d sd dd sp dp = .ok (.done (s.wx d 0)) := by
  have hnone : s.channel Option.isNone = none := State.channel_eq_none fun j => by
    rw [Option.isNone_eq_false_iff, Option.isSome_iff_ne_none]
    exact hf j
  rw [State.copyStart, State.channel_eq_none fun j => takenBy_false (hl j), Option.orElse_none, hnone]

/-- The state once a copy has been started on channel k under an id (R185, R187, R190). -/
def State.copying (s : State) (k : Fin 4) (c : Copy) : State :=
  ((s.setChannel k (some c)).onFrond s.fir.frond fun f =>
    { f with nextId := c.id % 65535 + 1, locks := f.locks ++ copyLocks s.fir.frond s.fir.cr c.id }).push .copySector s.fir.frond.val k.val 0 0

theorem copyStart_free {k : Fin 4} (hk : s.fr.chans[k] = none) (hlt : ∀ j : Fin 4, j.val < k.val → s.fr.chans[j] ≠ none)
    (hr : s.lockFree (copyLocks s.fir.frond s.fir.cr 0).length) : s.copyStart d sd dd sp dp =
      .ok (.done ((s.copying k (s.newCopy (freeId s.fr.ids 5 s.fr.nextId) true sd dd sp dp)).wx d
        (BitVec.ofNat 64 (freeId s.fr.ids 5 s.fr.nextId)))) := by
  have hsome : s.channel Option.isNone = some k := State.channel_eq_some (by rw [hk]; rfl) fun j hj => by
    rw [Option.isNone_eq_false_iff, Option.isSome_iff_ne_none]
    exact hlt j hj
  rw [State.copyStart, State.channel_eq_none fun j => takenBy_false (hl j), Option.orElse_none, hsome]
  dsimp only
  rw [lockRoom_ok hr]
  rfl

end

theorem State.copying_frond (s : State) (k : Fin 4) (c : Copy) : (s.copying k c).fronds[s.fir.frond] = { s.fr with
    chans := s.fr.chans.set k (some c), nextId := c.id % 65535 + 1, locks := s.fr.locks ++ copyLocks s.fir.frond s.fir.cr c.id } := by
  simp [State.copying, State.setChannel, State.push, State.fr]

end

/-- CGO's clause about a channel: what a started copy leaves. -/
theorem cgoStarts {s u : State} (hr : u.reached s) {d : BitVec 6} {sd dd : List Word} {sp dp : List (Nat × Word × Word)}
    (hl : ∀ (k : Fin 4) c, s.fr.chans[k] = some c → c.live = true ∨ c.adm ≠ s.fir.adm) {k : Fin 4} (hk : s.fr.chans[k] = none)
    (hlt : ∀ j : Fin 4, j.val < k.val → s.fr.chans[j] ≠ none) (h0 : 0 < s.fr.nextId) (h1 : s.fr.nextId ≤ 65535)
    (hroom : s.lockFree (copyLocks s.fir.frond s.fir.cr 0).length) :
    ∃ v c, finish s (u.copyStart d sd dd sp dp) = .next v ∧ v.fr.chans[k] = some c ∧ (∀ j : Fin 4, j ≠ k → v.fr.chans[j] = s.fr.chans[j]) ∧
      0 < c.id ∧ c.id ≤ 65535 ∧ c.id ∉ s.fr.ids ∧ c.live = true ∧ c.adm = s.fir.adm ∧ c.cr = s.fir.cr ∧ c.bytes = 0 ∧ c.srcDesc = sd ∧
      c.dstDesc = dd ∧ c.srcPlace = sp ∧ c.dstPlace = dp ∧ v.fr.locks = s.fr.locks ++ copyLocks s.fir.frond s.fir.cr c.id ∧ v.mem = u.mem ∧
      v.fir = (s.fir.wx d (BitVec.ofNat 64 c.id)).advance ∧
      (v.agenda.getLast?.map fun e => (e.op, e.a, e.b)) = some (.copySector, s.fir.frond.val, k.val) := by
  have hfir := State.reached_fir hr
  have hfr := State.reached_fr hr
  have hroom' : u.lockFree (copyLocks u.fir.frond u.fir.cr 0).length := by
    rw [State.lockFree, hfr, hfir, State.reached_others hr]; exact hroom
  let id := freeId u.fr.ids 5 u.fr.nextId
  let c := u.newCopy id true sd dd sp dp
  have hid : (0 < id ∧ id ≤ 65535) ∧ id ∉ s.fr.ids := by
    have hn : 0 < s.fr.nextId ∧ s.fr.nextId ≤ 65535 := ⟨h0, h1⟩
    have hlen := s.fr.ids_length
    simp only [id, hfr]
    exact ⟨(freeId_tries _ 5 hn).1, freeId_not_mem hn (by decide) (by omega)⟩
  have hstart := copyStart_free (s := u) (d := d) (sd := sd) (dd := dd) (sp := sp) (dp := dp) (k := k) (by rw [hfr, hfir]; exact hl)
    (by rw [hfr]; exact hk) (by rw [hfr]; exact hlt) hroom'
  let v := ((u.copying k c).wx d (BitVec.ofNat 64 id)).upd Firing.advance
  have hvfr : v.fr = { s.fr with
      chans := s.fr.chans.set k (some c), nextId := c.id % 65535 + 1, locks := s.fr.locks ++ copyLocks s.fir.frond s.fir.cr c.id } := by
    have hv : v.fr = (u.copying k c).fronds[u.fir.frond] := by
      simp only [State.fr, v, State.upd_fir, State.upd_fronds, State.wx_fir, State.wx_fronds, Firing.frond, Firing.advance_core, Firing.wx_core]
      rfl
    rw [hv, State.copying_frond, hfr, hfir]
  have hvfir : v.fir = (s.fir.wx d (BitVec.ofNat 64 id)).advance := by
    simp only [v, State.upd_fir, State.wx_fir]
    rw [← hfir]; rfl
  refine ⟨v, c, by rw [hstart]; rfl, ?_, fun j hj => ?_, hid.1.1, hid.1.2, hid.2, rfl, congrArg Firing.adm hfir, congrArg Firing.cr hfir, rfl, rfl, rfl, rfl,
    rfl, by rw [hvfr], rfl, hvfir, ?_⟩
  · rw [hvfr]; exact Vector.getElem_set_self _
  · rw [hvfr]; exact Vector.getElem_set_ne k.isLt j.isLt (fun e => hj (Fin.ext e.symm))
  · have hag : v.agenda = u.agenda ++ [{ op := .copySector, a := u.fir.frond.val, b := k.val, c := 0, v := 0, l := [] }] := rfl
    rw [hag, List.getLast?_concat, hfir]
    rfl

/-- Settles O28: CGO's checks in their order, a started copy by what its channel holds, and CWP by the active copy with the id. -/
theorem copyControl : Obligations.CopyControl := by
  unfold Obligations.CopyControl
  intro s d a n
  refine ⟨fun hi => ?_, fun hi => ?_, fun hi => ⟨fun k c hk hl ha _ hx hother => exec_cwp_mine hi hk hl ha hx hother, exec_cwp_none hi⟩,
    fun hi => ⟨fun hlen => exec_cgo_bad hi (copyBad_length hlen), fun hlen hflg => exec_cgo_bad hi (copyBad_flags hlen hflg),
      fun hlen hflg he => exec_cgo_earlier hi (copyBad_none hlen hflg) he, fun t u sd sp dd dp hlen hflg he hs hd hx => ?_⟩⟩
  · rw [exec_cwr, execCwr, plain_issues hi]; rfl
  · rw [exec_crd, execCrd, plain_issues hi]; rfl
  · have hr := State.reached_trans (State.copySide_reached hd) (State.copySide_reached hs)
    have hsides := exec_cgo_sides hi (copyBad_none hlen hflg) he hs hd hx
    refine ⟨fun h16 => ?_, fun h0 h16 hap => ?_, fun hok hl => ⟨fun hfull => ?_, fun k hk hlt h0 h1 hroom => ?_⟩⟩
    · rw [hsides, checkTb_align h16]; rfl
    · rw [hsides, checkTb_prot h0 h16 hap]; rfl
    · rw [hsides, hok, ok_bind, copyStart_full (by rw [State.reached_fr hr, State.reached_fir hr]; exact hl) (by rw [State.reached_fr hr]; exact hfull)]
      rfl
    · rw [hsides, hok, ok_bind]
      exact cgoStarts hr hl hk hlt h0 h1 hroom

end Sys2Proof.Machine
end

section
/-! PROOF. Messages sent (R81, R177 to R180). -/

namespace Sys2Proof.Machine

/-- What is on its way to a core or in its buffer. -/
def State.toward (s : State) (k : Fin 2048) : List (Nat × Nat × Nat × Word × List Word) :=
  (s.cores[k].inbound ++ s.cores[k].onway).map Message.brings

theorem CoreSt.take_toward (x : CoreSt) (m : Message) : (x.take m).inbound ++ (x.take m).onway = x.inbound ++ x.onway ++ [m] := by
  unfold CoreSt.take
  split
  next h =>
    have hnil : x.onway = [] := List.isEmpty_iff.mp (Bool.and_eq_true_iff.mp h).2
    simp [hnil]
  · simp

theorem CoreSt.take_full {x : CoreSt} (h : 64 ≤ x.inbound.length) (m : Message) : (x.take m).inbound = x.inbound := by
  unfold CoreSt.take
  rw [if_neg (by simp [Nat.not_lt.mpr h])]

theorem CoreSt.take_room {x : CoreSt} (h : x.inbound.length < 64) (hw : x.onway = []) (m : Message) : (x.take m).onway = [] := by
  unfold CoreSt.take
  rw [if_pos (by simp [h, hw])]
  exact hw

theorem State.sentHeader_eq (s : State) (h : Word) : s.fir.header h = s.sentHeader h := by
  unfold Firing.header State.sentHeader
  cases s.fir.topx <;> rfl

/-- The message that the acting firing sends. -/
def State.messageOf (s : State) (core : Nat) (h : Word) (ws : List Word) : Message :=
  { srcPkg := s.dev.pkg, srcCore := s.fir.core.val, srcPart := s.fir.part.val, adm := s.fir.adm, core := core, header := h,
    payload := ws, team := (s.loggedTeam s.fir).map Team.id, me := s.fir.opName 3, told := false, hand := s.fir.intrap }

theorem State.transmit_here {s : State} {core : Nat} {h : Word} {ws : List Word} (k : Fin 2048) (hk : k.val = core) :
    s.transmit s.dev.pkg core h ws = ((s.onCore k fun x => x.take (s.messageOf core h ws)).countOp 3).push .messageDispatch k.val 0 0 0 := by
  have hno : (⟨core % 2048, by omega⟩ : Fin 2048) = k := Fin.ext (by rw [← hk]; exact Nat.mod_eq_of_lt k.isLt)
  rw [State.transmit, if_pos rfl]
  dsimp only
  rw [hno, show core % 2048 = k.val from congrArg Fin.val hno]
  rfl

theorem State.onCore_cores_self (s : State) (k : Fin 2048) (g : CoreSt → CoreSt) : (s.onCore k g).cores[k] = g s.cores[k] :=
  Vector.getElem_set_self _

theorem State.onCore_cores_ne (s : State) {k j : Fin 2048} (h : j ≠ k) (g : CoreSt → CoreSt) : (s.onCore k g).cores[j] = s.cores[j] :=
  Vector.getElem_set_ne k.isLt j.isLt fun e => h (Fin.ext e.symm)

/-- What the transmission to a core of this package leaves. -/
theorem State.transmit_leaves {s : State} {core : Nat} {h : Word} {ws : List Word} (k : Fin 2048) (hk : k.val = core) :
    let t := s.transmit s.dev.pkg core h ws
    t.mem = s.mem ∧ t.fir = { s.fir with opn := t.fir.opn } ∧ t.dev = s.dev ∧
      t.cores[k] = s.cores[k].take (s.messageOf core h ws) ∧ (∀ j, j ≠ k → t.cores[j] = s.cores[j]) ∧
      t.agenda = s.agenda ++ [{ op := .messageDispatch, a := core, b := 0, c := 0, v := 0, l := [] }] := by
  intro t
  have ht : t = _ := State.transmit_here k hk
  rw [ht]
  refine ⟨rfl, rfl, rfl, s.onCore_cores_self k fun x => x.take (s.messageOf core h ws),
    fun j hj => s.onCore_cores_ne hj fun x => x.take (s.messageOf core h ws), by rw [← hk]; rfl⟩

theorem State.transmit_toward {s : State} {core : Nat} {h : Word} {ws : List Word} (hc : core < 2048) (j : Fin 2048) :
    (s.transmit s.dev.pkg core h ws).toward j =
      s.toward j ++ if core = j.val then [(s.fir.core.val, s.fir.part.val, s.fir.adm, h, ws)] else [] := by
  obtain ⟨-, -, -, hself, hother, -⟩ := State.transmit_leaves (s := s) (h := h) (ws := ws) ⟨core, hc⟩ rfl
  by_cases e : core = j.val
  · obtain rfl : (⟨core, hc⟩ : Fin 2048) = j := Fin.ext e
    rw [if_pos e, State.toward, hself, CoreSt.take_toward, List.map_append]
    rfl
  · rw [if_neg e, List.append_nil, State.toward, hother j fun he => e (by rw [he]), State.toward]

/-- Lanes of SENDV that name a core of this package or are switched off, sent. -/
theorem State.sendLanes_sent {v : Vec} {h : Word} {ws : List Word} (is : List Nat) {s : State}
    (hgo : ∀ i ∈ is, elem v 32 i < 2 ^ 31 → elem v 32 i < 2 ^ 11) :
    ∃ t : State, (∀ rest, s.sendLanes v h ws (is ++ rest) = t.sendLanes v h ws rest) ∧ t.mem = s.mem ∧ t.fir = { s.fir with opn := t.fir.opn } ∧
      ∀ k, t.toward k = s.toward k ++ (is.filter fun i => elem v 32 i == k.val).map fun _ =>
        (s.fir.core.val, s.fir.part.val, s.fir.adm, h, ws) := by
  induction is generalizing s with
  | nil => exact ⟨s, fun _ => rfl, rfl, rfl, fun k => by simp⟩
  | cons i is ih =>
    have hi := hgo i List.mem_cons_self
    have his := fun x hx => hgo x (List.mem_cons_of_mem i hx)
    have hl : elem v 32 i < 2 ^ 32 := Nat.mod_lt _ (by decide)
    by_cases hoff : elem v 32 i < 2 ^ 31
    · have hcore := hi hoff
      obtain ⟨hmem, hfir, -, -, -, -⟩ := State.transmit_leaves (s := s) (core := elem v 32 i) (h := h) (ws := ws) ⟨_, hcore⟩ rfl
      obtain ⟨t, hrest, htm, htf, htt⟩ := ih (s := s.transmit s.dev.pkg (elem v 32 i) h ws) his
      have hb31 : bit (BitVec.ofNat 64 (elem v 32 i)) 31 = false := by
        rw [bit, BitVec.getLsbD_ofNat, Nat.testBit_lt_two_pow hoff]; rfl
      have hres : bits (BitVec.ofNat 64 (elem v 32 i)) 30 11 = 0 := by rw [bits, BitVec.toNat_ofNat]; omega
      have hlow : bits (BitVec.ofNat 64 (elem v 32 i)) 10 0 = elem v 32 i := by rw [bits, BitVec.toNat_ofNat]; omega
      refine ⟨t, fun rest => ?_, htm.trans hmem, ?_, fun k => ?_⟩
      · rw [List.cons_append, State.sendLanes, hb31, if_neg Bool.false_ne_true, if_neg (not_not_intro hres), hlow]
        exact hrest rest
      · rw [htf, hfir]
      · have hfrom : ((s.transmit s.dev.pkg (elem v 32 i) h ws).fir.core.val, (s.transmit s.dev.pkg (elem v 32 i) h ws).fir.part.val,
            (s.transmit s.dev.pkg (elem v 32 i) h ws).fir.adm, h, ws) = (s.fir.core.val, s.fir.part.val, s.fir.adm, h, ws) := by rw [hfir]
        rw [htt k, State.transmit_toward hcore, hfrom, List.filter_cons]
        by_cases e : elem v 32 i = k.val
        · simp [e]
        · simp [e]
    · obtain ⟨t, hrest, htm, htf, htt⟩ := ih (s := s) his
      have hb31 : bit (BitVec.ofNat 64 (elem v 32 i)) 31 = true := by
        rw [bit, BitVec.getLsbD_ofNat, Nat.testBit_eq_decide_div_mod_eq]
        simp only [show 31 < 64 by decide, decide_true, Bool.true_and, decide_eq_true_eq]
        omega
      refine ⟨t, fun rest => ?_, htm, htf, fun k => ?_⟩
      · rw [List.cons_append, State.sendLanes, hb31, if_pos rfl]
        exact hrest rest
      · rw [htt k, List.filter_cons_of_neg]
        have := k.isLt
        simp only [beq_iff_eq]
        omega

theorem Firing.advance_withOpn (f : Firing) (o : Vector Nat 6) : { f with opn := o }.advance = { f.advance with opn := o } := by
  unfold Firing.advance Firing.clrRep Firing.repact Firing.repi Firing.repj
  dsimp only
  split_ifs <;> rfl

theorem Firing.advance_opnOnly {f g : Firing} (h : g = { f with opn := g.opn }) : g.advance = { f.advance with opn := g.advance.opn } := by
  rw [Firing.advance_opn]
  exact (congrArg Firing.advance h).trans (Firing.advance_withOpn f g.opn)

section
variable {s : State} {a b p : BitVec 6} {x : BitVec 5}

/-- The number of payload registers a header names. -/
def payloadCount (h : Word) : Nat := (h.toNat / 2 ^ 9) % 8

theorem payloadCount_eq (h : Word) : bits h 11 9 = payloadCount h := rfl

theorem payload_ok {c : Nat} (h : p.toNat + c ≤ min 64 s.fir.dem.xregs) : s.payload p c = .ok (s.payloadOf p c) := by
  rw [State.payload]
  refine if_neg ?_
  rw [Bool.and_eq_true, Bool.or_eq_true, decide_eq_true_eq, decide_eq_true_eq, decide_eq_true_eq]
  omega

theorem payload_regrange {c : Nat} (h0 : 0 < c) (h : min 64 s.fir.dem.xregs < p.toNat + c) :
    s.payload p c = .error (.trap { c := .regrange, sub := 0, val := BitVec.ofNat 64 (p.toNat + c - 1) }) := by
  rw [State.payload]
  refine if_pos ?_
  rw [Bool.and_eq_true, Bool.or_eq_true, decide_eq_true_eq, decide_eq_true_eq, decide_eq_true_eq]
  omega

theorem exec_send_regrange (hi : s.Issues (.send a b p)) (h0 : 0 < payloadCount (s.rx b))
    (h : min 64 s.fir.dem.xregs < p.toNat + payloadCount (s.rx b)) : exec (.send a b p) s =
      .next (s.trapHere { c := .regrange, sub := 0, val := BitVec.ofNat 64 (p.toNat + payloadCount (s.rx b) - 1) }) := by
  rw [exec_send, execSend, plain_issues hi]
  dsimp only
  rw [payloadCount_eq, payload_regrange h0 h, error_bind, finish_trap]

theorem exec_sendv_regrange (hi : s.Issues (.sendv x b p)) (h0 : 0 < payloadCount (s.rx b))
    (h : min 64 s.fir.dem.xregs < p.toNat + payloadCount (s.rx b)) : exec (.sendv x b p) s =
      .next (s.trapHere { c := .regrange, sub := 0, val := BitVec.ofNat 64 (p.toNat + payloadCount (s.rx b) - 1) }) := by
  rw [exec_sendv, execSendv, plain_issues hi]
  dsimp only
  rw [payloadCount_eq, payload_regrange h0 h, error_bind, finish_trap]

theorem exec_send_prot (hi : s.Issues (.send a b p)) (h : p.toNat + payloadCount (s.rx b) ≤ min 64 s.fir.dem.xregs)
    (hw : 2 ^ 54 ≤ (s.rx a).toNat ∨ (s.rx a).toNat / 2 ^ 11 % 2 ^ 21 ≠ 0) :
    exec (.send a b p) s = .next (s.trapHere { c := .prot, sub := 0, val := s.rx a }) := by
  have hres : (bits (s.rx a) 63 54 == 0 && bits (s.rx a) 31 11 == 0) = false := by
    have := (s.rx a).isLt
    rw [Bool.eq_false_iff, Ne, Bool.and_eq_true, beq_iff_eq, beq_iff_eq, bits, bits]
    omega
  rw [exec_send, execSend, plain_issues hi]
  dsimp only
  rw [payloadCount_eq, payload_ok h, ok_bind, hres]
  rfl

/-- A SEND whose destination word keeps R179: it waits for the path, or the message goes. -/
theorem exec_send_goes (hi : s.Issues (.send a b p)) (h : p.toNat + payloadCount (s.rx b) ≤ min 64 s.fir.dem.xregs)
    (hw : (s.rx a).toNat < 2 ^ 54) (hr : (s.rx a).toNat / 2 ^ 11 % 2 ^ 21 = 0) :
    exec (.send a b p) s =
      if (s.rx a).toNat / 2 ^ 32 = s.dev.pkg ∧ s.pathFull ((s.rx a).toNat % 2 ^ 11) = true then
        .next (s.upd fun f => { f with wait := some (.path ((s.rx a).toNat % 2 ^ 11)), aged := false })
      else .next ((s.transmit ((s.rx a).toNat / 2 ^ 32) ((s.rx a).toNat % 2 ^ 11) (s.sentHeader (s.rx b))
        (s.payloadOf p (payloadCount (s.rx b)))).upd Firing.advance) := by
  have hres : (bits (s.rx a) 63 54 == 0 && bits (s.rx a) 31 11 == 0) = true := by
    rw [Bool.and_eq_true, beq_iff_eq, beq_iff_eq, bits, bits]
    omega
  have hpkg : bits (s.rx a) 53 32 = (s.rx a).toNat / 2 ^ 32 := by rw [bits]; omega
  have hcore : bits (s.rx a) 10 0 = (s.rx a).toNat % 2 ^ 11 := by rw [bits]; omega
  rw [exec_send, execSend, plain_issues hi]
  dsimp only
  rw [payloadCount_eq, payload_ok h, ok_bind, check_true hres, ok_bind, hpkg, hcore, State.sentHeader_eq]
  simp only [Bool.and_eq_true, beq_iff_eq]
  split_ifs <;> rfl

/-- The first lane of SENDV whose path takes no more, before one whose reserved bits are not zero. -/
def State.fullPath (s : State) (v : Vec) : Option Word :=
  (((List.range 64).map fun i => BitVec.ofNat 64 (elem v 32 i)).takeWhile fun l => bit l 31 || bits l 30 11 == 0).find?
    fun l => !bit l 31 && s.pathFull (bits l 10 0)

theorem exec_sendv_waits (hi : s.Issues (.sendv x b p)) (h : p.toNat + payloadCount (s.rx b) ≤ min 64 s.fir.dem.xregs) {l : Word}
    (hl : s.fullPath (s.fir.rv x) = some l) :
    exec (.sendv x b p) s = .next (s.upd fun f => { f with wait := some (.path (bits l 10 0)), aged := false }) := by
  rw [State.fullPath] at hl
  rw [exec_sendv, execSendv, plain_issues hi]
  dsimp only
  rw [payloadCount_eq, payload_ok h, ok_bind, hl]
  rfl

/-- What SENDV does once every path it names takes a message. -/
theorem exec_sendv_lanes (hi : s.Issues (.sendv x b p)) (h : p.toNat + payloadCount (s.rx b) ≤ min 64 s.fir.dem.xregs)
    (hl : s.fullPath (s.fir.rv x) = none) {t : State} {r : Option Trap}
    (hsent : s.sendLanes (s.fir.rv x) (s.sentHeader (s.rx b)) (s.payloadOf p (payloadCount (s.rx b))) (List.range 64) = (t, r)) :
    exec (.sendv x b p) s = .next (r.elim (t.upd Firing.advance) t.trapHere) := by
  rw [State.fullPath] at hl
  rw [exec_sendv, execSendv, plain_issues hi]
  dsimp only
  rw [payloadCount_eq, payload_ok h, ok_bind, hl, State.sentHeader_eq]
  dsimp only
  rw [ok_bind, hsent]
  cases r <;> rfl

/-- The bits of a lane of SENDV. -/
theorem lane_bits {v : Vec} {i : Nat} :
    let l := BitVec.ofNat 64 (elem v 32 i)
    (bit l 31 = true ↔ 2 ^ 31 ≤ elem v 32 i) ∧ (elem v 32 i < 2 ^ 31 → (bits l 30 11 = 0 ↔ elem v 32 i < 2 ^ 11)) ∧
      (elem v 32 i < 2 ^ 11 → bits l 10 0 = elem v 32 i) := by
  have hl : elem v 32 i < 2 ^ 32 := Nat.mod_lt _ (by decide)
  refine ⟨?_, fun h => ?_, fun h => ?_⟩
  · rw [bit, BitVec.getLsbD_ofNat, Nat.testBit_eq_decide_div_mod_eq]
    simp only [show 31 < 64 by decide, decide_true, Bool.true_and, decide_eq_true_eq]
    omega
  · rw [bits, BitVec.toNat_ofNat]; omega
  · rw [bits, BitVec.toNat_ofNat]; omega

/-- A lane that is switched off, or names a core whose path takes a message. -/
def State.laneGoes (s : State) (v : Vec) (i : Nat) : Prop := elem v 32 i < 2 ^ 31 → elem v 32 i < 2 ^ 11 ∧ s.pathFull (elem v 32 i) = false

theorem laneGoes_bits {v : Vec} {i : Nat} (h : s.laneGoes v i) :
    let l := BitVec.ofNat 64 (elem v 32 i)
    (bit l 31 || bits l 30 11 == 0) = true ∧ (!bit l 31 && s.pathFull (bits l 10 0)) = false := by
  intro l
  obtain ⟨h31, hres, hlow⟩ := lane_bits (v := v) (i := i)
  by_cases hoff : 2 ^ 31 ≤ elem v 32 i
  · rw [h31.mpr hoff]
    exact ⟨rfl, rfl⟩
  · obtain ⟨h11, hp⟩ := h (Nat.not_le.mp hoff)
    have hr : (bits l 30 11 == 0) = true := beq_iff_eq.mpr ((hres (Nat.not_le.mp hoff)).mpr h11)
    rw [hr, Bool.or_true, hlow h11, hp, Bool.and_false]
    exact ⟨rfl, rfl⟩

/-- The lanes up to number j, in order. -/
theorem range64_split {j : Nat} (hj : j < 64) : ∃ rest, List.range 64 = List.range j ++ j :: rest := by
  obtain ⟨k, hk⟩ : ∃ k, 64 = j + (k + 1) := ⟨63 - j, by omega⟩
  refine ⟨(List.range k).map fun i => j + (i + 1), ?_⟩
  rw [hk, List.range_add, List.range_succ_eq_map, List.map_cons, List.map_map]
  rfl

/-- While the lanes before go, the first lane that does not decides which path SENDV waits for. -/
theorem fullPath_prefix {v : Vec} {q : Word → Bool} {r : Word → Bool} (is : List Nat)
    (h : ∀ i ∈ is, q (BitVec.ofNat 64 (elem v 32 i)) = true ∧ r (BitVec.ofNat 64 (elem v 32 i)) = false) (rest : List Nat) :
    (((is ++ rest).map fun i => BitVec.ofNat 64 (elem v 32 i)).takeWhile q).find? r =
      ((rest.map fun i => BitVec.ofNat 64 (elem v 32 i)).takeWhile q).find? r := by
  induction is with
  | nil => rfl
  | cons i is ih =>
    obtain ⟨hq, hr⟩ := h i List.mem_cons_self
    rw [List.cons_append, List.map_cons, List.takeWhile_cons_of_pos hq, List.find?_cons_of_neg (by rw [hr]; exact Bool.false_ne_true)]
    exact ih fun x hx => h x (List.mem_cons_of_mem i hx)

theorem fullPath_none {v : Vec} (h : ∀ i, i < 64 → s.laneGoes v i) : s.fullPath v = none := by
  have hp := fullPath_prefix (v := v) (q := fun l => bit l 31 || bits l 30 11 == 0) (r := fun l => !bit l 31 && s.pathFull (bits l 10 0))
    (List.range 64) (fun i hi => laneGoes_bits (h i (List.mem_range.mp hi))) []
  rw [List.append_nil] at hp
  exact hp

theorem fullPath_stops {v : Vec} {j : Nat} (hj : j < 64) (h : ∀ i, i < j → s.laneGoes v i) (h1 : 2 ^ 11 ≤ elem v 32 j)
    (h2 : elem v 32 j < 2 ^ 31) : s.fullPath v = none := by
  obtain ⟨rest, hrest⟩ := range64_split hj
  obtain ⟨h31, hres, -⟩ := lane_bits (v := v) (i := j)
  have hstop : (bit (BitVec.ofNat 64 (elem v 32 j)) 31 || bits (BitVec.ofNat 64 (elem v 32 j)) 30 11 == 0) = false := by
    rw [Bool.or_eq_false_iff, Bool.eq_false_iff, Ne, h31, beq_eq_false_iff_ne, Ne, hres h2]
    omega
  rw [State.fullPath, hrest, fullPath_prefix _ fun i hi => laneGoes_bits (h i (List.mem_range.mp hi)), List.map_cons,
    List.takeWhile_cons_of_neg (by rw [hstop]; exact Bool.false_ne_true), List.find?_nil]

theorem fullPath_some {v : Vec} {j : Nat} (hj : j < 64) (h : ∀ i, i < j → s.laneGoes v i) (h1 : elem v 32 j < 2 ^ 11)
    (h2 : s.pathFull (elem v 32 j) = true) : s.fullPath v = some (BitVec.ofNat 64 (elem v 32 j)) := by
  obtain ⟨rest, hrest⟩ := range64_split hj
  obtain ⟨h31, hres, hlow⟩ := lane_bits (v := v) (i := j)
  have hon : bit (BitVec.ofNat 64 (elem v 32 j)) 31 = false := by rw [Bool.eq_false_iff, Ne, h31]; omega
  have hgo : (bit (BitVec.ofNat 64 (elem v 32 j)) 31 || bits (BitVec.ofNat 64 (elem v 32 j)) 30 11 == 0) = true := by
    rw [Bool.or_eq_true, beq_iff_eq, hres (by omega)]
    exact .inr h1
  rw [State.fullPath, hrest, fullPath_prefix _ fun i hi => laneGoes_bits (h i (List.mem_range.mp hi)), List.map_cons,
    List.takeWhile_cons_of_pos (p := fun l => bit l 31 || bits l 30 11 == 0) hgo, List.find?_cons_of_pos (by rw [hon, hlow h1, h2]; rfl)]

/-- SEND to a core or a package (R179, R180). -/
theorem sendGoes (hi : s.Issues (.send a b p)) (h : p.toNat + payloadCount (s.rx b) ≤ min 64 s.fir.dem.xregs) (hw : (s.rx a).toNat < 2 ^ 54)
    (hr : (s.rx a).toNat / 2 ^ 11 % 2 ^ 21 = 0) {pkg core : Nat} (hpkg : (s.rx a).toNat / 2 ^ 32 = pkg) (hcore : (s.rx a).toNat % 2 ^ 11 = core)
    (hp : pkg = s.dev.pkg → s.pathFull core = false) :
    let brings := (s.fir.core.val, s.fir.part.val, s.fir.adm, s.sentHeader (s.rx b), s.payloadOf p (payloadCount (s.rx b)))
    ∃ v, exec (.send a b p) s = .next v ∧ v.mem = s.mem ∧ v.fir = { s.fir.advance with opn := v.fir.opn } ∧
      (pkg = s.dev.pkg → (∀ k : Fin 2048, k.val = core →
          (v.toward k = s.toward k ++ [brings]) ∧ (64 ≤ s.cores[k].inbound.length → v.cores[k].inbound = s.cores[k].inbound) ∧
            (s.cores[k].inbound.length < 64 → s.cores[k].onway = [] → v.cores[k].onway = [])) ∧
        (∀ k : Fin 2048, k.val ≠ core → v.cores[k] = s.cores[k]) ∧
        (v.agenda.getLast?.map fun e => (e.op, e.a)) = some (.messageDispatch, core)) ∧
      (pkg ≠ s.dev.pkg → v.cores = s.cores ∧
        ((s.peerFor s.fir.part pkg).isSome = true → pkg ∉ s.lost →
          ∃ m : Message, v.sent = s.sent ++ [.message pkg m] ∧ m.brings = brings ∧ m.core = core ∧ m.srcPkg = s.dev.pkg) ∧
        (s.peerFor s.fir.part pkg = none ∨ pkg ∈ s.lost →
          (v.agenda.getLast?.map fun e => (e.op, e.a, e.b, e.v)) = some (.messageRefusalReturn, s.fir.adm, 4, s.sentHeader (s.rx b)))) := by
  intro brings
  have hexec := exec_send_goes hi h hw hr
  rw [hpkg, hcore, if_neg (by rintro ⟨h1, h2⟩; rw [hp h1] at h2; cases h2)] at hexec
  generalize hhd : s.sentHeader (s.rx b) = hd at *
  generalize hws : s.payloadOf p (payloadCount (s.rx b)) = ws at *
  have hlt : core < 2048 := by omega
  by_cases hhere : pkg = s.dev.pkg
  · subst hhere
    obtain ⟨hmem, hfir, -, hself, hother, hag⟩ := State.transmit_leaves (s := s) (h := hd) (ws := ws) ⟨core, hlt⟩ rfl
    refine ⟨_, hexec, hmem, ?_, fun _ => ⟨fun k hk => ?_, fun k hk => ?_, ?_⟩, fun hne => absurd rfl hne⟩
    · exact Firing.advance_opnOnly hfir
    · obtain rfl : (⟨core, hlt⟩ : Fin 2048) = k := Fin.ext hk.symm
      refine ⟨(State.transmit_toward hlt _).trans (by rw [if_pos rfl]; subst hhd hws; rfl), fun hf => ?_, fun hf hw => ?_⟩
      · exact (congrArg CoreSt.inbound hself).trans (CoreSt.take_full hf _)
      · exact (congrArg CoreSt.onway hself).trans (CoreSt.take_room hf hw _)
    · exact hother k fun e => hk (congrArg Fin.val e)
    · rw [State.upd_agenda, hag, List.getLast?_concat]
      rfl
  · by_cases hway : ((s.peerFor s.fir.part pkg).isNone || s.lost.contains pkg) = true
    · have ht : s.transmit pkg core hd ws =
          s.push .messageRefusalReturn s.fir.adm 4 (senderName s.fir.core.val s.fir.part.val s.fir.intrap) hd := by
        rw [State.transmit, if_neg hhere, if_pos hway]
      rw [ht] at hexec
      refine ⟨_, hexec, rfl, rfl, fun he => absurd he hhere, fun _ => ⟨rfl, fun hsome hlost => ?_, fun _ => ?_⟩⟩
      · simp only [Bool.or_eq_true, Option.isNone_iff_eq_none, List.contains_iff_mem] at hway
        rcases hway with hway | hway
        · rw [hway] at hsome; cases hsome
        · exact absurd hway hlost
      · rw [State.upd_agenda, State.push, List.getLast?_concat]
        rfl
    · have ht : s.transmit pkg core hd ws = s.send (.message pkg (s.messageOf core hd ws)) := by
        rw [State.transmit, if_neg hhere, if_neg hway]
        rfl
      rw [ht] at hexec
      refine ⟨_, hexec, rfl, rfl, fun he => absurd he hhere, fun _ => ⟨rfl, fun _ _ => ⟨_, rfl, by subst hhd hws; rfl, rfl, rfl⟩, fun hno => ?_⟩⟩
      refine absurd ?_ hway
      simpa only [Bool.or_eq_true, Option.isNone_iff_eq_none, List.contains_iff_mem] using hno

end

/-- Settles O27: SEND by where the message goes, SENDV by the lanes sent before the one that waits, traps, or is none. -/
theorem messages : Obligations.Messages := by
  unfold Obligations.Messages
  intro s a b p x
  refine ⟨?_, fun hi hp => ⟨fun hw => exec_send_prot hi hp hw, fun hw hr hpkg hfull => ?_, fun hw hr hfull => sendGoes hi hp hw hr rfl rfl hfull⟩,
    fun hi hp => ⟨fun j hj hgo h1 h2 => ?_, fun j hj hgo h1 h2 => ?_, fun hgo => ?_⟩⟩
  · simp only [List.forall_mem_cons, List.not_mem_nil, false_imp_iff, implies_true, and_true]
    exact ⟨fun hi h0 h => exec_send_regrange hi h0 h, fun hi h0 h => exec_sendv_regrange hi h0 h⟩
  · exact (exec_send_goes hi hp hw hr).trans (if_pos ⟨hpkg, hfull⟩)
  · have hlow := (lane_bits (v := s.fir.rv x) (i := j)).2.2 h1
    rw [exec_sendv_waits hi hp (fullPath_some hj hgo h1 h2), hlow]
  · change 2 ^ 11 ≤ elem (s.fir.rv x) 32 j at h1
    change elem (s.fir.rv x) 32 j < 2 ^ 31 at h2
    obtain ⟨rest, hrest⟩ := range64_split hj
    obtain ⟨h31, hres, -⟩ := lane_bits (v := s.fir.rv x) (i := j)
    obtain ⟨t, hsent, hmem, hfir, htoward⟩ := State.sendLanes_sent (v := s.fir.rv x) (h := s.sentHeader (s.rx b))
      (ws := s.payloadOf p (payloadCount (s.rx b))) (List.range j) (s := s) fun i hi h => (hgo i (List.mem_range.mp hi) h).1
    have hstop := hsent (j :: rest)
    rw [← hrest, State.sendLanes, if_neg (by rw [h31]; omega), if_pos (by rw [Ne, hres h2]; omega)] at hstop
    exact ⟨t, exec_sendv_lanes hi hp (fullPath_stops hj hgo h1 h2) hstop, hmem, hfir, htoward⟩
  · obtain ⟨t, hsent, hmem, hfir, htoward⟩ := State.sendLanes_sent (v := s.fir.rv x) (h := s.sentHeader (s.rx b))
      (ws := s.payloadOf p (payloadCount (s.rx b))) (List.range 64) (s := s) fun i hi h => (hgo i (List.mem_range.mp hi) h).1
    have hall := hsent []
    rw [List.append_nil, State.sendLanes] at hall
    refine ⟨_, exec_sendv_lanes hi hp (fullPath_none hgo) hall, hmem, ?_, htoward⟩
    exact Firing.advance_opnOnly hfir

end Sys2Proof.Machine
end

section
/-! SUPPORT. A renewed snapshot (R238). -/

namespace Sys2Proof.Machine

theorem Mem.get_writeMasked_other {m : Mem} (h : m.wf = true) (key : Nat) (mask : BitVec 8) (v : Word) {x : Nat} (hx : x < key ∨ key + 8 ≤ x) :
    (m.writeMasked key mask v).get x = m.get x := by
  have hall : (m.writeMasked key mask v).wf = true ∧ (m.writeMasked key mask v).get x = m.get x := by
    unfold Mem.writeMasked
    refine List.foldlRecOn (motive := fun t : Mem => t.wf = true ∧ t.get x = m.get x) _ _ ⟨h, rfl⟩ fun t ht i hi => ?_
    have hi8 : i < 8 := List.mem_range.mp hi
    split
    · exact ⟨Mem.wf_set ht.1 _ _, by rw [Mem.get_set ht.1, if_neg (by omega), ht.2]⟩
    · exact ht
  exact hall.2

/-- What a renewal takes of a byte no unsettled home write covers is what memory holds. -/
theorem renewLate_get {g : Fin 1024} {k : Nat} (late : List Late) (n : Nat) (fx : List (Nat × BitVec 8)) {m : Mem} (hm : m.wf = true)
    (hk : ∀ l ∈ late, l.known g = false → k < l.key ∨ l.key + 8 ≤ k) :
    (renewLate g late n fx m).2.2.get k = m.get k := by
  induction late generalizing n fx m with
  | nil => rfl
  | cons l ls ih =>
    have hls := fun x hx => hk x (List.mem_cons_of_mem l hx)
    rw [renewLate]
    split_ifs with hknown hmiss
    · exact ih n _ hm hls
    · have hout := hk l List.mem_cons_self (Bool.not_eq_true _ ▸ hknown)
      exact (ih (n + 1) fx (Mem.wf_writeMasked hm _ _ _) hls).trans (Mem.get_writeMasked_other hm _ _ _ hout)
    · exact ih (n + 1) _ hm hls

theorem State.renew_renewedOf {s : State} (hw : s.mem.wf = true) (h : Fin 1024) : (s.renew h).renewedOf s h := by
  intro k hk
  have hsnap : (s.renew h).fronds[h].snap = (renewLate h s.late s.free [] s.mem).2.2 :=
    congrArg Frond.snap (Vector.getElem_set_self _)
  rw [hsnap]
  exact renewLate_get s.late s.free [] hw hk

theorem State.renewedOf_congr {u v s t : State} {h : Fin 1024} (hr : u.renewedOf s h) (hs : v.fronds[h].snap = u.fronds[h].snap)
    (hm : v.mem = u.mem) (hl : t.late = s.late) : v.renewedOf t h := by
  intro k hk
  rw [hs, hm]
  refine hr k ?_
  rw [State.takenAt, ← hl]
  exact hk

end Sys2Proof.Machine
end

section
/-! PROOF. The queues (R34, R172 to R176). -/

namespace Sys2Proof.Machine

/-- What the queues show depends on the acting firing's place and own queues, on the fronds and on the partitions. -/
theorem State.queueView_congr {u v : State} (hc : v.fir.core = u.fir.core) (hp : v.fir.part = u.fir.part) (hs : v.fir.pairset = u.fir.pairset)
    (h12 : v.fir.q12 = u.fir.q12) (h13 : v.fir.q13 = u.fir.q13) (hf : v.fr.pairs = u.fr.pairs) (hn : v.fr.nq = u.fr.nq)
    (hpa : v.parts = u.parts) (m : Nat) : v.queueView m = u.queueView m := by
  have hfrond : v.fir.frond = u.fir.frond := by simp only [Firing.frond, hc]
  have hlink : v.linked (m) = u.linked m := State.linked_congr hfrond (by simp only [State.part, hp, hpa]) m
  rw [State.queueView, State.queueView, hs, h12, h13, hf, Frond.incoming, hn, hlink]
  rfl

/-- One list among several replaced, by number. -/
theorem getD_mapIdx {α : Type} {k : Nat} (v : Vector (List α) k) {n : Nat} (hn : n < k) (q : List α) (m : Nat) :
    (v.mapIdx fun j e => if j = n then q else e).toList.getD m [] = if m = n then q else v.toList.getD m [] := by
  rw [List.getD_eq_getElem?_getD, List.getD_eq_getElem?_getD, Vector.getElem?_toList, Vector.getElem?_toList, Vector.getElem?_mapIdx]
  by_cases hm : m < k
  · rw [Vector.getElem?_eq_getElem hm]
    simp
  · rw [Vector.getElem?_eq_none (by omega)]
    simp [show m ≠ n by omega]

section
variable {s : State} {n : Nat}

theorem State.setPairQ_queueView {i : Fin 8} (hi : s.fir.pairset = some i) (hn : n < 8) (q : List QEntry) (m : Nat) :
    (s.setPairQ i n q).queueView m = if m = n then some q else s.queueView m := by
  have hfr : (s.setPairQ i n q).fr = { s.fr with pairs := s.fr.pairs.set i { s.fr.pairs[i] with
      q := (s.fr.pairs[i]).q.mapIdx fun j e => if j = n then q else e } } := fr_onFrond_fir s _
  have hlink : (s.setPairQ i n q).linked m = s.linked m := State.linked_congr rfl rfl m
  have hpair : (((s.setPairQ i n q).fr.pairs[i]).q.toList.getD m []) = if m = n then q else (s.fr.pairs[i]).q.toList.getD m [] := by
    rw [hfr]
    simp only [Fin.getElem_fin, Vector.getElem_set_self]
    exact getD_mapIdx _ hn q m
  rw [State.queueView, State.queueView, hlink, show (s.setPairQ i n q).fir = s.fir from rfl, hi, Option.map_some, Option.map_some, hpair]
  have hin : (s.setPairQ i n q).fr.incoming (m - 8) = s.fr.incoming (m - 8) := by rw [hfr]; rfl
  rw [hin]
  by_cases hm : m = n
  · rw [if_pos (by omega), if_pos hm, if_pos hm]
  · rw [if_neg hm, if_neg hm]

/-- Whether an entry is a vector. -/
def QEntry.isVec : QEntry → Bool
  | .vec _ => true
  | .word _ => false

/-- What a pop that takes an entry leaves. -/
def State.tookFrom (t s : State) (n : Nat) (es : List QEntry) : Prop :=
  t.queueView n = some es ∧ (∀ m, m ≠ n → t.queueView m = s.queueView m) ∧
    t.fir = { s.fir with q12 := t.fir.q12, q13 := t.fir.q13 } ∧ (n < 12 → t.fir = s.fir) ∧ t.mem = s.mem ∧
    (s.mem.wf = true → 8 ≤ n → (∀ h, s.linked n = some h → h ≠ s.fir.frond) → n < 12 → t.renewedOf s s.fir.frond)

theorem State.acquire_mem (s : State) (sc : Scope) : (s.acquire sc).mem = s.mem := by unfold State.acquire; split <;> rfl

/-- The incoming entries of the acting frond after a pop of one direction. -/
theorem State.popped_fr_incoming (h8 : 8 ≤ n) (h12 : n < 12) (g : Fin 1024) (q : List Vec) (m : Nat) :
    (s.popped n g q).fronds[s.fir.frond].incoming m = if m = n - 8 then q else s.fr.incoming m := by
  have hset : (s.setIncoming s.fir.frond (n - 8) q).fronds[s.fir.frond].nq = s.fr.nq.mapIdx fun j e => if j = n - 8 then q else e :=
    congrArg Frond.nq (fr_onFrond_fir s _)
  rw [State.popped, Frond.incoming, State.acquire_nq, hset]
  exact getD_mapIdx _ (by omega) q m

theorem State.acquire_pairs (s : State) (sc : Scope) (g : Fin 1024) : (s.acquire sc).fronds[g].pairs = s.fronds[g].pairs := by
  unfold State.acquire
  split
  · by_cases e : s.fir.frond = g
    · subst e; simp [State.renew]
    · simp [State.renew, Fin.val_ne_of_ne e]
  · rfl

theorem State.popped_pairs (g : Fin 1024) (q : List Vec) : (s.popped n g q).fronds[s.fir.frond].pairs = s.fr.pairs := by
  have hset : (s.setIncoming s.fir.frond (n - 8) q).fronds[s.fir.frond].pairs = (s.fr).pairs := by
    refine (congrArg Frond.pairs (fr_onFrond_fir s fun x => { x with nq := x.nq.mapIdx fun j e => if j = n - 8 then q else e })).trans ?_
    rfl
  rw [State.popped, State.acquire_pairs, hset]

theorem dieScope_wide (d e : Nat) : 2 < (dieScope d e).code.toNat := by
  unfold dieScope
  split <;> decide

theorem State.popped_took (h8 : 8 ≤ n) (h12 : n < 12) {g : Fin 1024} (hg : s.linked n = some g) (q : List Vec) :
    (s.popped n g q).tookFrom s n (q.map .vec) := by
  have hfir := State.popped_fir s n g q
  have hlink : ∀ m, (s.popped n g q).linked m = s.linked m := fun m =>
    State.linked_congr (by rw [hfir]) (by simp only [State.part, hfir, State.popped_parts]) m
  have hfr : (s.popped n g q).fr = (s.popped n g q).fronds[s.fir.frond] := by simp only [State.fr, hfir]
  refine ⟨State.queueView_of_popped h8 h12 hg (by rw [hfir]) (by rw [hfir]) (State.popped_parts _ _ _ _) rfl, fun m hm => ?_, by rw [hfir], fun _ => hfir,
    State.acquire_mem _ _, fun hw _ hne _ => ?_⟩
  · rw [State.queueView, State.queueView, hlink, hfir, hfr, State.popped_pairs, State.popped_fr_incoming h8 h12]
    by_cases hm8 : m < 8
    · rw [if_pos hm8, if_pos hm8]
    · rw [if_neg (show ¬ m - 8 = n - 8 by omega)]
  · have hscope : frondScope s.fir.frond g = dieScope (s.fir.frond.val / 256) (g.val / 256) := if_neg fun e => hne g hg e.symm
    have hren := State.renew_renewedOf (s := s.setIncoming s.fir.frond (n - 8) q) hw s.fir.frond
    rw [State.popped, hscope, State.acquire, if_pos (dieScope_wide _ _)]
    exact State.renewedOf_congr hren rfl rfl rfl

/-- A pop of an entry of the kind asked for (R175). -/
theorem State.popQ_took {e : QEntry} {es : List QEntry} (hv : s.queueView n = some (e :: es)) (h14 : n < 14) {vec : Bool} (hk : e.isVec = vec) :
    ∃ t, s.popQ n vec = .ok (t, e) ∧ t.tookFrom s n es := by
  by_cases h8 : n < 8
  · rw [State.queueView, if_pos h8, Option.map_eq_some_iff] at hv
    obtain ⟨i, hi, hq⟩ := hv
    refine ⟨s.setPairQ i n es, ?_, ?_, fun m hm => ?_, rfl, fun _ => rfl, rfl, fun _ h => absurd h8 (Nat.not_lt.mpr h)⟩
    · rw [State.popQ, if_pos h8, State.pairQ, hi, Option.map_some, hq]
      refine if_neg ?_
      rw [bne_iff_ne, not_not]
      cases e <;> exact hk
    · rw [State.setPairQ_queueView hi h8, if_pos rfl]
    · rw [State.setPairQ_queueView hi h8, if_neg hm]
  · by_cases h12 : n < 12
    · rw [State.queueView_neighbour (by omega) h12, Option.map_eq_some_iff] at hv
      obtain ⟨g, hg, hes⟩ := hv
      obtain ⟨z, q, hq, rfl, rfl⟩ := List.map_eq_cons_iff.mp hes
      exact ⟨_, State.popQ_neighbour (by omega) h12 hg hq vec, State.popped_took (by omega) h12 hg q⟩
    · have hn : n = 12 ∨ n = 13 := by omega
      rcases hn with rfl | rfl
      · obtain ⟨w, q, hq, rfl, rfl⟩ := List.map_eq_cons_iff.mp (Option.some.inj hv)
        refine ⟨s.upd fun f => { f with q12 := q }, ?_, rfl, fun m hm => ?_, rfl, fun h => absurd h h12, rfl, fun _ _ _ h => absurd h h12⟩
        · cases hk
          simp only [State.popQ, hq, QEntry.isVec]
          rfl
        · rw [State.queueView, State.queueView, if_neg hm, if_neg hm]
          rfl
      · obtain ⟨w, q, hq, rfl, rfl⟩ := List.map_eq_cons_iff.mp (Option.some.inj hv)
        refine ⟨s.upd fun f => { f with q13 := q }, ?_, rfl, fun m hm => ?_, rfl, fun h => absurd h h12, rfl, fun _ _ _ h => absurd h h12⟩
        · cases hk
          simp only [State.popQ, hq, QEntry.isVec]
          rfl
        · rw [State.queueView, State.queueView, if_neg hm, if_neg hm]
          rfl

theorem State.popQ_empty (hv : s.queueView n = some []) (h14 : n < 14) (vec : Bool) :
    s.popQ n vec = .error (.wait s (.queue n false)) := by
  by_cases h8 : n < 8
  · rw [State.queueView, if_pos h8, Option.map_eq_some_iff] at hv
    obtain ⟨i, hi, hq⟩ := hv
    rw [State.popQ, if_pos h8, State.pairQ, hi, Option.map_some, hq]
    rfl
  · by_cases h12 : n < 12
    · rw [State.queueView_neighbour (by omega) h12, Option.map_eq_some_iff] at hv
      obtain ⟨g, hg, hes⟩ := hv
      rw [State.popQ, if_neg h8, if_pos h12, hg, List.map_eq_nil_iff.mp hes]
      rfl
    · have hn : n = 12 ∨ n = 13 := by omega
      rcases hn with rfl | rfl
      · simp only [State.popQ, List.map_eq_nil_iff.mp (Option.some.inj hv)]
        rfl
      · simp only [State.popQ, List.map_eq_nil_iff.mp (Option.some.inj hv)]
        rfl

/-- A pop of q0 to q7 whose oldest entry is of the other kind (R175). -/
theorem State.popQ_other {e : QEntry} {es : List QEntry} (hv : s.queueView n = some (e :: es)) (h8 : n < 8) {vec : Bool} (hk : e.isVec ≠ vec) :
    s.popQ n vec = .error (.trap { c := .prot, sub := 0, val := BitVec.ofNat 64 n }) := by
  rw [State.queueView, if_pos h8, Option.map_eq_some_iff] at hv
  obtain ⟨i, hi, hq⟩ := hv
  rw [State.popQ, if_pos h8, State.pairQ, hi, Option.map_some, hq]
  refine if_pos ?_
  rw [bne_iff_ne]
  cases e <;> exact hk

theorem State.popQ_nowhere (hv : s.queueView n = none) (h12 : n < 12) (vec : Bool) :
    s.popQ n vec = .error (.trap { c := .prot, sub := 0, val := BitVec.ofNat 64 n }) := by
  by_cases h8 : n < 8
  · rw [State.queueView, if_pos h8, Option.map_eq_none_iff] at hv
    rw [State.popQ, if_pos h8, State.pairQ, hv]
    rfl
  · rw [State.queueView_neighbour (by omega) h12, Option.map_eq_none_iff] at hv
    rw [State.popQ, if_neg h8, if_pos h12, hv]
    rfl

theorem State.pushQ_nowhere (hv : s.queueView n = none) (h12 : n < 12) (e : QEntry) :
    s.pushQ n e = .error (.trap { c := .prot, sub := 0, val := BitVec.ofNat 64 n }) := by
  by_cases h8 : n < 8
  · rw [State.queueView, if_pos h8, Option.map_eq_none_iff] at hv
    unfold State.pushQ
    rw [if_pos h8, State.pairQ, hv]
    rfl
  · rw [State.queueView_neighbour (by omega) h12, Option.map_eq_none_iff] at hv
    unfold State.pushQ
    rw [if_neg h8, hv]
    rfl

/-- A pop of the queue shows in the end what it left, whatever register it wrote. -/
theorem State.goneOn_queueView (s : State) (g : Firing → Firing) (hg : ∀ f : Firing, (g f).core = f.core ∧ (g f).part = f.part ∧
    (g f).pairset = f.pairset ∧ (g f).q12 = f.q12 ∧ (g f).q13 = f.q13) (m : Nat) : (s.upd g).queueView m = s.queueView m := by
  obtain ⟨hc, hp, hs, h12, h13⟩ := hg s.fir
  have hfr : (s.upd g).fr = s.fr := by simp only [State.fr, State.upd_fronds, State.upd_fir, Firing.frond, hc]
  exact State.queueView_congr (u := s) (v := s.upd g) hc hp hs h12 h13 (by rw [hfr]) (by rw [hfr]) rfl m

/-- The state a push to q0 to q7 releases from. -/
theorem State.publish_queueView {s : State} (hq : s.quietFrond) (m : Nat) : (s.publish s.fir.frond .fr).queueView m = s.queueView m := by
  obtain ⟨-, hd, ho⟩ := hq
  have hfir := State.publish_fir_up hd ho s.fir.frond .fr
  have hfr : (s.publish s.fir.frond .fr).fr = (s.publish s.fir.frond .fr).fronds[s.fir.frond] := by simp only [State.fr, hfir]
  refine State.queueView_congr (by rw [hfir]) (by rw [hfir]) (by rw [hfir]) (by rw [hfir]) (by rw [hfir]) ?_ ?_ ?_ m
  · rw [hfr, State.publish_frond_up hd ho]; rfl
  · rw [hfr, State.publish_frond_up hd ho]; rfl
  · rw [State.publish_eq hd ho]; simp [State.widen]

theorem State.pushQ_pair {q : List QEntry} (hv : s.queueView n = some q) (h8 : n < 8) (hl : q.length < 8) (hq : s.quietFrond) (e : QEntry) :
    ∃ t, s.pushQ n e = .ok t ∧ t.queueView n = some (q ++ [e]) ∧ (∀ m, m ≠ n → t.queueView m = s.queueView m) ∧ t.fir = s.fir ∧
      t.mem = (s.publish s.fir.frond .fr).mem := by
  have hfir := State.publish_fir_up hq.2.1 hq.2.2 s.fir.frond .fr
  have hv' := hv
  rw [State.queueView, if_pos h8, Option.map_eq_some_iff] at hv'
  obtain ⟨i, hi, hqs⟩ := hv'
  have hi' : (s.publish s.fir.frond .fr).fir.pairset = some i := by rw [hfir]; exact hi
  refine ⟨(s.publish s.fir.frond .fr).setPairQ i n (q ++ [e]), ?_, ?_, fun m hm => ?_, hfir, rfl⟩
  · unfold State.pushQ
    rw [if_pos h8, State.pairQ, hi, Option.map_some, hqs]
    dsimp only
    rw [if_neg (by omega), State.release_frond hq.1, ok_bind]
  · rw [State.setPairQ_queueView hi' h8, if_pos rfl]
  · rw [State.setPairQ_queueView hi' h8, if_neg hm, State.publish_queueView hq]

theorem State.pushQ_full {q : List QEntry} (hv : s.queueView n = some q) (h8 : n < 8) (hl : 8 ≤ q.length) (e : QEntry) :
    s.pushQ n e = .error (.wait s (.queue n true)) := by
  rw [State.queueView, if_pos h8, Option.map_eq_some_iff] at hv
  obtain ⟨i, hi, hqs⟩ := hv
  unfold State.pushQ
  rw [if_pos h8, State.pairQ, hi, Option.map_some, hqs]
  dsimp only
  rw [if_pos hl]
  rfl

theorem State.pushQ_neighbour_full (h8 : 8 ≤ n) {g : Fin 1024} (hg : s.linked n = some g)
    (hr : 4 ≤ (s.fronds[g].incoming ((n - 8 + 2) % 4)).length) (z : Vec) : s.pushQ n (.vec z) = .error (.wait s (.queue n true)) := by
  unfold State.pushQ
  rw [if_neg (by omega)]
  simp only [hg, if_pos hr]
  rfl

theorem State.pushed_incoming_other {s : State} (h : s.quietOrder) (n : Nat) (g : Fin 1024) (z : Vec) {m : Nat} (hm : m ≠ (n - 8 + 2) % 4) :
    (s.pushed n g z).fronds[g].incoming m = s.fronds[g].incoming m := by
  let p := s.publish s.fir.frond (frondScope s.fir.frond g)
  let q := p.fronds[g].incoming ((n - 8 + 2) % 4) ++ [z]
  have hset : (s.pushed n g z).fronds[g].nq = p.fronds[g].nq.mapIdx fun j e => if j = (n - 8 + 2) % 4 then q else e :=
    congrArg Frond.nq (Vector.getElem_set_self _)
  rw [Frond.incoming, hset, getD_mapIdx _ (Nat.mod_lt _ (by decide)), if_neg hm, State.publish_nq h]
  rfl

end

section
variable {s : State} {d b : BitVec 6} {x y : BitVec 5} {n : BitVec 4}

theorem issue_of_queueIll {i : Instr} {ill : State → Bool} {body : State → Except Stop Done} (hi : s.Issues i) (h : ill s = true) :
    issue (descOf i) false ill never body s = .next (s.trapHere { c := .ill, sub := 0, val := BitVec.setWidth 64 (encode i) }) := by
  obtain ⟨ha, -, -, -, -⟩ := hi
  rw [issue_ill ha (by rw [h, Bool.or_true])]
  rfl

/-- How QGET and VQGET end by what their pop answers. -/
theorem exec_qget_pop (hi : s.Issues (.qget d n)) (hp : popIll n s = false) (h14 : n.toNat < 14) :
    exec (.qget d n) s = finish s (s.popQ n.toNat false >>= fun r => match r.2 with
      | .word w => .ok (.done (r.1.wx d w))
      | .vec _ => .ok (.done r.1)) := by
  rw [exec_qget, execQget]
  exact (issue_issues hi hp rfl).trans (congrArg (finish s) ((if_neg (by omega)).trans rfl))

theorem exec_vqget_pop (hi : s.Issues (.vqget x n)) (hp : popIll n s = false) :
    exec (.vqget x n) s = finish s (s.popQ n.toNat true >>= fun r => match r.2 with
      | .vec v => .ok (.done (r.1.wv x v))
      | .word _ => .ok (.done r.1)) := by
  rw [exec_vqget, execVqget]
  exact (issue_issues hi hp rfl).trans rfl

theorem exec_qput_push (hi : s.Issues (.qput n b)) (hp : pushIll n s = false) :
    exec (.qput n b) s = finish s (s.pushQ n.toNat (.word (s.rx b)) >>= fun t => .ok (.done t)) := by
  rw [exec_qput, execQput, issue_issues hi hp rfl]

theorem exec_vqput_push (hi : s.Issues (.vqput n y)) (hp : pushIll n s = false) :
    exec (.vqput n y) s = finish s (s.pushQ n.toNat (.vec (s.fir.rv y)) >>= fun t => .ok (.done t)) := by
  rw [exec_vqput, execVqput, issue_issues hi hp rfl]

theorem Firing.advance_withQueues (f : Firing) (a b : List Word) :
    { f with q12 := a, q13 := b }.advance = { f.advance with q12 := a, q13 := b } := by
  unfold Firing.advance Firing.clrRep Firing.repact Firing.repi Firing.repj
  dsimp only
  split_ifs <;> rfl

theorem Firing.wx_withQueues (f : Firing) (a b : List Word) (d : BitVec 6) (w : Word) :
    { f with q12 := a, q13 := b }.wx d w = { f.wx d w with q12 := a, q13 := b } := by
  unfold Firing.wx
  split <;> rfl

/-- QGET of an entry (R175). -/
theorem qgetTakes (hi : s.Issues (.qget d n)) (hp : popIll n s = false) (h14 : n.toNat < 14) {w : Word} {es : List QEntry}
    (hv : s.queueView n.toNat = some (.word w :: es)) :
    ∃ v, exec (.qget d n) s = .next v ∧ v.queueView n.toNat = some es ∧ (∀ m, m ≠ n.toNat → v.queueView m = s.queueView m) ∧
      v.fir = { (s.fir.wx d w).advance with q12 := v.fir.q12, q13 := v.fir.q13 } ∧ v.mem = s.mem := by
  obtain ⟨t, ht, hview, hother, hfir, -, hmem, -⟩ := State.popQ_took hv h14 (vec := false) rfl
  have hgo : ∀ m, ((t.wx d w).upd Firing.advance).queueView m = t.queueView m :=
    State.goneOn_queueView t (fun f => (f.wx d w).advance) fun f => by simp
  refine ⟨(t.wx d w).upd Firing.advance, by rw [exec_qget_pop hi hp h14, ht]; rfl, (hgo _).trans hview, fun m hm => (hgo m).trans (hother m hm), ?_, hmem⟩
  have hend : ((t.wx d w).upd Firing.advance).fir = { (s.fir.wx d w).advance with q12 := t.fir.q12, q13 := t.fir.q13 } := by
    rw [State.upd_fir, State.wx_fir, hfir, Firing.wx_withQueues, Firing.advance_withQueues]
  rw [hend]

/-- VQGET of an entry (R175). -/
theorem vqgetTakes (hi : s.Issues (.vqget x n)) (hp : popIll n s = false) (h12 : n.toNat < 12) {z : Vec} {es : List QEntry}
    (hv : s.queueView n.toNat = some (.vec z :: es)) :
    ∃ v, exec (.vqget x n) s = .next v ∧ v.queueView n.toNat = some es ∧ (∀ m, m ≠ n.toNat → v.queueView m = s.queueView m) ∧
      v.fir = (s.fir.wv x z).advance ∧ v.mem = s.mem ∧
      (s.mem.wf = true → 8 ≤ n.toNat → (∀ h, s.linked n.toNat = some h → h ≠ s.fir.frond) → v.renewedOf s s.fir.frond) := by
  obtain ⟨t, ht, hview, hother, -, hfir, hmem, hren⟩ := State.popQ_took hv (by omega) (vec := true) rfl
  have hgo : ∀ m, ((t.wv x z).upd Firing.advance).queueView m = t.queueView m :=
    State.goneOn_queueView t (fun f => (f.wv x z).advance) fun f => by simp
  refine ⟨(t.wv x z).upd Firing.advance, by rw [exec_vqget_pop hi hp, ht]; rfl, (hgo _).trans hview, fun m hm => (hgo m).trans (hother m hm), ?_, hmem,
    fun hw h8 hne => ?_⟩
  · rw [State.upd_fir, State.wv_fir, hfir h12]
  · exact State.renewedOf_congr (hren hw h8 hne h12) rfl rfl rfl

/-- A push of an entry to q0 to q7 (R175). -/
theorem pushClause {q : List QEntry} {e : QEntry} {i : Instr} (he : (i = .qput n b ∧ e = .word (s.rx b)) ∨ (i = .vqput n y ∧ e = .vec (s.fir.rv y)))
    (hi : s.Issues i) (hp : pushIll n s = false) (h8 : n.toNat < 8) (hv : s.queueView n.toNat = some q) (hq : s.quietFrond) :
    (q.length < 8 → ∃ v, exec i s = .next v ∧ v.queueView n.toNat = some (q ++ [e]) ∧ (∀ m, m ≠ n.toNat → v.queueView m = s.queueView m) ∧
      v.fir = s.fir.advance ∧ v.mem = (s.publish s.fir.frond .fr).mem) ∧
    (8 ≤ q.length → exec i s = .next (s.upd fun f => { f with wait := some (.queue n.toNat true), aged := false })) := by
  have hexec : exec i s = finish s (s.pushQ n.toNat e >>= fun t => .ok (.done t)) := by
    rcases he with ⟨rfl, rfl⟩ | ⟨rfl, rfl⟩
    · exact exec_qput_push hi hp
    · exact exec_vqput_push hi hp
  rw [hexec]
  refine ⟨fun hl => ?_, fun hl => by rw [State.pushQ_full hv h8 hl]; rfl⟩
  obtain ⟨t, ht, hview, hother, hfir, hmem⟩ := State.pushQ_pair hv h8 hl hq e
  have hgo : ∀ m, (t.upd Firing.advance).queueView m = t.queueView m := State.goneOn_queueView t Firing.advance fun f => by simp
  exact ⟨t.upd Firing.advance, by rw [ht]; rfl, (hgo _).trans hview, fun m hm => (hgo m).trans (hother m hm), congrArg Firing.advance hfir, hmem⟩

/-- A vector pushed to a neighbour (R175). -/
theorem pushNeighbourClause (hi : s.Issues (.vqput n y)) (h8 : 8 ≤ n.toNat) {g : Fin 1024} (hg : s.linked n.toNat = some g) (hq : s.quietOrder) :
    let dir := (n.toNat - 6) % 4
    ((s.fronds[g].incoming dir).length < 4 → ∃ v, exec (.vqput n y) s = .next v ∧
      v.fronds[g].incoming dir = s.fronds[g].incoming dir ++ [s.fir.rv y] ∧ (∀ m, m ≠ dir → v.fronds[g].incoming m = s.fronds[g].incoming m) ∧
      v.fir = s.fir.advance ∧ v.mem = (s.publish s.fir.frond (frondScope s.fir.frond g)).mem) ∧
    (4 ≤ (s.fronds[g].incoming dir).length →
      exec (.vqput n y) s = .next (s.upd fun f => { f with wait := some (.queue n.toNat true), aged := false })) := by
  have hd : n.toNat - 6 = n.toNat - 8 + 2 := by omega
  rw [hd, exec_vqput_push hi (pushIll_neighbour h8 s)]
  refine ⟨fun hl => ?_, fun hl => by rw [State.pushQ_neighbour_full h8 hg hl]; rfl⟩
  refine ⟨(s.pushed n.toNat g (s.fir.rv y)).upd Firing.advance, by rw [State.pushQ_neighbour h8 hg hl hq]; rfl, State.pushed_incoming hq _ _ _,
    fun m hm => State.pushed_incoming_other hq _ _ _ hm, congrArg Firing.advance (State.pushed_fir hq _ _ _), rfl⟩

theorem Firing.advance_withSstream (f : Firing) (w : Word) : { f with sstream := w }.advance = { f.advance with sstream := w } := by
  unfold Firing.advance Firing.clrRep Firing.repact Firing.repi Firing.repj
  dsimp only
  split_ifs <;> rfl

/-- QGET of q15 draws (R334). -/
theorem exec_qget_draw (hi : s.Issues (.qget d 15)) : exec (.qget d 15) s = .next (s.upd fun f =>
    { (f.wx d (drawOf f.seedlo f.seedhi (BitVec.allOnes 64) f.sstream)).advance with sstream := f.sstream + 1 }) := by
  rw [exec_qget, execQget, issue_issues hi (popIll_neighbour (by decide) s) rfl]
  dsimp only
  rw [if_pos (by decide), finish_done, State.upd, State.upd, Firing.advance_withSstream]
  rfl

theorem Issues.fields {i : Instr} (h : s.Issues i) : fieldsOk i = true := by
  obtain ⟨-, -, hl, -, -⟩ := h
  exact (Bool.and_eq_true_iff.mp hl).1

theorem qcntPair (hi : s.Issues (.qcnt d n)) {q : List QEntry} (h8 : n.toNat < 8) (hv : s.queueView n.toNat = some q) :
    exec (.qcnt d n) s = .next ((s.wx d (BitVec.ofNat 64 (if s.fir.stage = decide (n.toNat < 4) then 8 - q.length else q.length))).upd
      Firing.advance) := by
  rw [State.queueView, if_pos h8, Option.map_eq_some_iff] at hv
  obtain ⟨i, hset, hqs⟩ := hv
  rw [exec_qcnt, execQcnt, plain_issues hi]
  dsimp only
  rw [if_pos h8, State.pairQ, hset, Option.map_some, hqs]
  simp only [beq_iff_eq]
  rfl

theorem qcntNeighbour (hi : s.Issues (.qcnt d n)) (h8 : 8 ≤ n.toNat) (h12 : n.toNat < 12) {g : Fin 1024} (hg : s.linked n.toNat = some g) :
    exec (.qcnt d n) s = .next ((s.wx d (BitVec.ofNat 64
      ((s.fr.incoming (n.toNat - 8)).length + 256 * (4 - (s.fronds[g].incoming ((n.toNat - 6) % 4)).length)))).upd Firing.advance) := by
  have hd : n.toNat - 6 = n.toNat - 8 + 2 := by omega
  rw [exec_qcnt, execQcnt, plain_issues hi, hd]
  dsimp only
  rw [if_neg (by omega), if_pos h12, hg]
  rfl

theorem Firing.wx_withLost (f : Firing) (l : Bool) (d : BitVec 6) (w : Word) : { f with q12lost := l }.wx d w = { f.wx d w with q12lost := l } := by
  unfold Firing.wx
  split <;> rfl

theorem qcntReports (hi : s.Issues (.qcnt d 12)) : exec (.qcnt d 12) s = .next (((s.wx d (BitVec.ofNat 64
    (s.fir.q12.length + (if s.fir.q12lost then 256 else 0)))).upd fun f => { f with q12lost := false }).upd Firing.advance) := by
  have hcount : s.fir.q12.length + 256 * s.fir.q12lost.toNat = s.fir.q12.length + if s.fir.q12lost then 256 else 0 := by
    cases s.fir.q12lost <;> rfl
  rw [exec_qcnt, execQcnt, plain_issues hi]
  dsimp only
  rw [if_neg (by decide), if_neg (by decide), if_pos (by decide), hcount, finish_done]
  refine congrArg (fun f : Firing => Host.Outcome.next ({ s with fir := f.advance } : State)) ?_
  exact Firing.wx_withLost s.fir false d _

theorem qcntRest (hi : s.Issues (.qcnt d n)) (h12 : 12 < n.toNat) : exec (.qcnt d n) s =
    .next ((s.wx d (BitVec.ofNat 64 (if n = 13 then s.fir.q13.length else 1))).upd Firing.advance) := by
  rw [exec_qcnt, execQcnt, plain_issues hi]
  dsimp only
  rw [if_neg (by omega), if_neg (by omega), if_neg (by omega)]
  by_cases h13 : n = 13
  · subst h13; rfl
  · rw [if_neg (show ¬ n.toNat = 13 from fun e => h13 (BitVec.eq_of_toNat_eq e)), if_neg h13, finish_done]

theorem qcntNowhere (hi : s.Issues (.qcnt d n)) (hv : s.queueView n.toNat = none) :
    (n.toNat < 8 → exec (.qcnt d n) s = .next (s.trapHere { c := .prot, sub := 0, val := BitVec.ofNat 64 n.toNat })) ∧
      (8 ≤ n.toNat → n.toNat < 12 → exec (.qcnt d n) s = .next ((s.wx d 0).upd Firing.advance)) := by
  rw [exec_qcnt, execQcnt, plain_issues hi]
  dsimp only
  refine ⟨fun h8 => ?_, fun h8 h12 => ?_⟩
  · rw [State.queueView, if_pos h8, Option.map_eq_none_iff] at hv
    rw [if_pos h8, State.pairQ, hv]
    rfl
  · rw [State.queueView_neighbour h8 h12, Option.map_eq_none_iff] at hv
    rw [if_neg (by omega), if_pos h12, hv]
    rfl

end

/-- Settles O26: a pop by what it answers, a push by what it leaves, and QCNT queue by queue. -/
theorem queues : Obligations.Queues := by
  unfold Obligations.Queues
  intro s d b x y n
  refine ⟨fun q hv hp => ⟨fun w hi h14 => ⟨?_, ?_, ?_⟩, fun z hi => ⟨?_, ?_, ?_⟩⟩, fun q e i he hi hp h8 hv hq => pushClause he hi hp h8 hv hq,
    fun g hi h8 hg hq => pushNeighbourClause hi h8 hg hq, fun hv h12 => ⟨?_, ?_⟩, ?_, exec_qget_draw, fun hi => ⟨fun q h8 hv => qcntPair hi h8 hv,
      fun g hg h8 h12 => qcntNeighbour hi h8 h12 hg, ?_, ?_, ?_, qcntNowhere hi⟩⟩
  · rintro rfl
    rw [exec_qget_pop hi hp h14, State.popQ_empty hv h14]; rfl
  · rintro es rfl
    exact qgetTakes hi hp h14 hv
  · rintro z es rfl
    have hfields : (n.toNat != 14 && !(decide (8 ≤ n.toNat) && decide (n.toNat < 12))) = true := Issues.fields hi
    by_cases h8 : n.toNat < 8
    · rw [exec_qget_pop hi hp h14, State.popQ_other hv h8 (fun h => Bool.false_ne_true h.symm)]; rfl
    · have h12 : ¬ n.toNat < 12 := fun h => by simp [h, Nat.not_lt.mp h8] at hfields
      have hn : n.toNat = 12 ∨ n.toNat = 13 := by omega
      rcases hn with hn | hn
      · rw [hn] at hv
        obtain ⟨_, _, _, hz, _⟩ := List.map_eq_cons_iff.mp (Option.some.inj hv)
        cases hz
      · rw [hn] at hv
        obtain ⟨_, _, _, hz, _⟩ := List.map_eq_cons_iff.mp (Option.some.inj hv)
        cases hz
  · rintro rfl
    have h12 : n.toNat < 12 := of_decide_eq_true (Issues.fields hi)
    rw [exec_vqget_pop hi hp, State.popQ_empty hv (by omega)]; rfl
  · rintro es rfl
    exact vqgetTakes hi hp (of_decide_eq_true (Issues.fields hi)) hv
  · rintro w es rfl
    have h12 : n.toNat < 12 := of_decide_eq_true (Issues.fields hi)
    by_cases h8 : n.toNat < 8
    · rw [exec_vqget_pop hi hp, State.popQ_other hv h8 Bool.false_ne_true]; rfl
    · rw [State.queueView_neighbour (by omega) h12, Option.map_eq_some_iff] at hv
      obtain ⟨_, _, hes⟩ := hv
      obtain ⟨_, _, _, hz, _⟩ := List.map_eq_cons_iff.mp hes
      cases hz
  · simp only [List.forall_mem_cons, List.not_mem_nil, false_imp_iff, implies_true, and_true]
    refine ⟨fun hi hp => ?_, fun hi hp => ?_⟩
    · rw [exec_qget_pop hi hp (by omega), State.popQ_nowhere hv h12]; rfl
    · rw [exec_vqget_pop hi hp, State.popQ_nowhere hv h12]; rfl
  · simp only [List.forall_mem_cons, List.not_mem_nil, false_imp_iff, implies_true, and_true]
    refine ⟨fun hi hp => ?_, fun hi hp => ?_⟩
    · rw [exec_qput_push hi hp, State.pushQ_nowhere hv h12]; rfl
    · rw [exec_vqput_push hi hp, State.pushQ_nowhere hv h12]; rfl
  · rintro i (⟨rfl | rfl, h⟩ | ⟨rfl | rfl, h⟩) hi
    · rw [exec_qget, execQget]; exact issue_of_queueIll hi h
    · rw [exec_vqget, execVqget]; exact issue_of_queueIll hi h
    · rw [exec_qput, execQput]; exact issue_of_queueIll hi h
    · rw [exec_vqput, execVqput]; exact issue_of_queueIll hi h
  · rintro rfl
    exact qcntReports hi
  · rintro rfl
    rw [qcntRest hi (by decide), if_pos rfl]
  · rintro rfl
    rw [qcntRest hi (by decide), if_neg (by decide)]
    rfl

end Sys2Proof.Machine
end

section
/-! SUPPORT. What a publication leaves (R237). -/

namespace Sys2Proof.Machine

theorem Mem.get_putAll_other {m : Mem} (h : m.wf = true) (l : List (Nat × Byte)) {a : Nat} (ha : ∀ x ∈ l, x.1 ≠ a) :
    (m.putAll l).get a = m.get a := by
  induction l generalizing m with
  | nil => rfl
  | cons x l ih =>
    have hx := ha x List.mem_cons_self
    rw [Mem.putAll, ih (Mem.wf_set h _ _) fun y hy => ha y (List.mem_cons_of_mem x hy), Mem.get_set h, if_neg (Ne.symm hx)]

theorem Mem.get_putAll_self {m : Mem} (h : m.wf = true) {l : List (Nat × Byte)} (hn : (l.map (·.1)).Nodup) {x : Nat × Byte} (hx : x ∈ l) :
    (m.putAll l).get x.1 = x.2 := by
  induction l generalizing m with
  | nil => cases hx
  | cons y l ih =>
    rw [List.map_cons, List.nodup_cons] at hn
    rcases List.mem_cons.mp hx with rfl | hx
    · have hother : ∀ z ∈ l, z.1 ≠ x.1 := fun z hz e => hn.1 (List.mem_map.mpr ⟨z, hz, e⟩)
      rw [Mem.putAll, Mem.get_putAll_other (Mem.wf_set h _ _) l hother, Mem.get_set h, if_pos rfl]
    · exact ih (Mem.wf_set h _ _) hn.2 hx

/-- A publication changes memory, the order of home writes and its frond's L1. -/
theorem State.publish_up {s : State} (hd : s.dev.cxlDown = []) (ho : s.dev.cxlOn = 3) (h : Fin 1024) (sc : Scope) :
    s.publish h sc = { s with mem := (s.publish h sc).mem, late := (s.publish h sc).late, fronds := (s.publish h sc).fronds } := by
  rw [State.publish_eq hd ho, State.homePut_late]
  rfl

theorem State.publish_frond_ne {s : State} (hd : s.dev.cxlDown = []) (ho : s.dev.cxlOn = 3) {h g : Fin 1024} (hg : g ≠ h) (sc : Scope) :
    (s.publish h sc).fronds[g] = s.fronds[g] := by
  rw [State.publish_eq hd ho]
  simp [State.widen, Fin.val_ne_of_ne (Ne.symm hg)]

theorem State.publish_published {s : State} (hd : s.dev.cxlDown = []) (ho : s.dev.cxlOn = 3) (hw : s.mem.wf = true) {h : Fin 1024}
    (hn : (s.fronds[h].held.map (·.1)).Nodup) (sc : Scope) : (s.publish h sc).publishedOf s h := by
  refine ⟨fun x hx => ?_, fun a ha => ?_, ?_, fun g hg => State.publish_frond_ne hd ho hg sc⟩
  · rw [State.publish_mem_up hd ho, Mem.get_putAll_self hw hn hx]
  · rw [State.publish_mem_up hd ho, Mem.get_putAll_other hw _ ha]
  · rw [State.publish_frond_up hd ho]

theorem State.publishedOf_congr {t u s : State} {h : Fin 1024} (hp : u.publishedOf s h) (hm : t.mem = u.mem) (hf : t.fronds = u.fronds) :
    t.publishedOf s h := by
  obtain ⟨h1, h2, h3, h4⟩ := hp
  refine ⟨?_, ?_, ?_, ?_⟩
  · rw [hm]; exact h1
  · rw [hm]; exact h2
  · rw [hf]; exact h3
  · rw [hf]; exact h4

end Sys2Proof.Machine
end

section
/-! PROOF. Indices of sharded objects, SHLOC and SHINV (R218, R229, R231). -/

namespace Sys2Proof.Machine

theorem shardOf_one {d : List Word} (h : rankOf d = 1) (l : Nat) : shardOf d l =
    (l % (dimOf d 0).shape / (dimOf d 0).blk % (dimOf d 0).grid,
      (l % (dimOf d 0).shape / ((dimOf d 0).blk * (dimOf d 0).grid) * (dimOf d 0).blk + l % (dimOf d 0).shape % (dimOf d 0).blk) *
        (dimOf d 0).pitch) := by
  simp [shardOf, dimsOf, h]

theorem shardOf_two {d : List Word} (h : rankOf d = 2) (l : Nat) : shardOf d l =
    (let x := dimOf d 0; let y := dimOf d 1; let c0 := l / y.shape % x.shape; let c1 := l % y.shape
     (c0 / x.blk % x.grid * y.grid + c1 / y.blk % y.grid,
      (c0 / (x.blk * x.grid) * x.blk + c0 % x.blk) * x.pitch + (c1 / (y.blk * y.grid) * y.blk + c1 % y.blk) * y.pitch)) := by
  simp [shardOf, dimsOf, h, List.range_succ]

section
variable {s u : State}

theorem State.placement_reached {h k : Nat} {ws : List Word} {w0 w1 : Word} (hp : s.placement h ws k = .ok (u, w0, w1)) : u.reached s := by
  have hkeep : ∀ {v : State} (g : ShardCache → ShardCache), v.reached s →
      (v.onDie s.fir.die fun x => { x with shards := x.shards.map g }).reached s := by
    intro v g hv
    obtain ⟨hv, hw⟩ := hv
    exact ⟨congrArg (fun y : State => y.onDie s.fir.die fun x => { x with shards := x.shards.map g }) hv, hw⟩
  unfold State.placement at hp
  dsimp only at hp
  split at hp
  · rw [ok_bind] at hp
    split at hp
    · cases hp
    · cases hp; exact hkeep _ s.reached_refl
  · split at hp
    · cases hp
    next t w ht =>
      rw [ok_bind] at hp
      split at hp
      · cases hp
      · cases hp; exact hkeep _ (State.unitRead_reached ht)

theorem State.locate_reached {hr : Word} {i n : Nat} {e : Elem} (h : s.locate hr i n = .ok (u, e)) : u.reached s := by
  unfold State.locate at h
  obtain ⟨⟨v, ws⟩, hv, h⟩ := of_bind_ok h
  dsimp only at h
  split at h
  · cases h
  · split at h
    · cases h
    · obtain ⟨⟨t, w0, w1⟩, ht, h⟩ := of_bind_ok h
      cases h
      exact State.reached_trans (State.placement_reached ht) (State.descriptor_reached hv)

/-- SHLOC of an index that is located (R231). -/
theorem shlocClause {d a b : BitVec 6} {e : Elem} (hi : s.Issues (.shloc d a b)) (hl : s.locate (s.rx a) (s.rx b).toNat 0 = .ok (u, e)) :
    ∃ v, exec (.shloc d a b) s = .next v ∧ v.onlyFiring u ∧ v.mem = u.mem ∧
      v.fir = ((s.fir.wx d (BitVec.ofNat 64 (e.owner * 2 ^ 32 + u.route e.owner * 2 ^ 24 + e.shard % 2 ^ 24))).wx (d + 1)
        (BitVec.ofNat 64 e.addr)).advance := by
  refine ⟨((u.wx d (BitVec.ofNat 64 (e.owner * 2 ^ 32 + u.route e.owner * 2 ^ 24 + e.shard % 2 ^ 24))).wx (d + 1)
    (BitVec.ofNat 64 e.addr)).upd Firing.advance, ?_, rfl, rfl, ?_⟩
  · rw [exec_shloc, execShloc, plain_issues hi, hl]
    rfl
  · rw [← State.reached_fir (State.locate_reached hl)]
    rfl

/-- The handle a SHINV names, or none for all. -/
def State.shinvHandle (s : State) (a : BitVec 6) : Option Nat := if a = 0 then none else some (bits (s.rx a) 15 0)

/-- SHINV's event, in place of an earlier one of its firing, with the marks it awaits. -/
def State.shinvAwaits (s : State) (l : List Word) : State :=
  { s with agenda := (s.agenda.filter fun x => !(x.op == .shinvComplete && x.b == 0 && x.a == s.fir.adm)) ++
      [{ op := .shinvComplete, a := s.fir.adm, b := 0, c := 0, v := 0, l := l }] }

/-- What a SHINV awaits once its frond has published (R229, log 45). -/
def State.shinvMarks (s : State) (sc : Scope) : List Word :=
  s.shinvOpen (s.diesOf sc) ++ (s.shinvPeers sc).flatMap fun q => shinvMark (2 ^ 62) q.1

/-- The state in which a SHINV waits, once its frond has published in p (R229). -/
def State.shinvWaits (p : State) (sc : Scope) (a : BitVec 6) : State :=
  let t := p.dropShards (p.diesOf sc) p.fir.part (p.shinvHandle a)
  State.shinvAwaits { t with sent := t.sent ++ (p.shinvPeers sc).map fun q => Sent.shinv q.1 q.2 t.fir.adm (p.shinvHandle a) } (p.shinvMarks sc)

theorem foldl_send (s : State) {α : Type} (l : List α) (g : State → α → Sent) (hg : ∀ r x, g { s with sent := r } x = g s x) :
    l.foldl (fun s x => s.send (g s x)) s = { s with sent := s.sent ++ l.map (g s) } := by
  suffices h : ∀ r, l.foldl (fun s x => s.send (g s x)) { s with sent := r } = { s with sent := r ++ l.map (g s) } from h s.sent
  induction l with
  | nil => simp
  | cons x l ih =>
    intro r
    rw [List.foldl_cons, State.send, hg, ih]
    simp

theorem exec_shinv_waits {sc : Scope} {a : BitVec 6} (hi : s.Issues (.shinv sc a)) (hq : s.quietOrder) :
    exec (.shinv sc a) s =
      .next (((s.publish s.fir.frond sc).shinvWaits sc a).upd fun f => { f with wait := some .shinv, aged := false }) := by
  rw [exec_shinv, execShinv, plain_issues hi, State.release_of_quiet hq, ok_bind]
  generalize s.publish s.fir.frond sc = p
  have hsend := foldl_send (p.dropShards (p.diesOf sc) p.fir.part (p.shinvHandle a)) (p.shinvPeers sc)
    (fun s q => Sent.shinv q.1 q.2 s.fir.adm (p.shinvHandle a)) fun _ _ => rfl
  rw [State.shinvWaits, ← hsend]
  rfl

/-- What SHINV drops, entry by entry (R229). -/
theorem State.mem_dropShards {dies : List Nat} {p : Fin 16} {h : Option Nat} {n : Fin 4} {c : ShardCache} :
    c ∈ (s.dropShards dies p h).dies[n].shards ↔
      c ∈ s.dies[n].shards ∧ ¬(n.val ∈ dies ∧ c.part = p ∧ ∀ k, h = some k → c.handle = k) := by
  have hget : (s.dropShards dies p h).dies[n] = if dies.contains n.val then
      { s.dies[n] with shards := s.dies[n].shards.filter fun c => c.part != p || (match h with
          | some h => c.handle != h
          | none => false) } else s.dies[n] := by
    exact Vector.getElem_mapIdx n.isLt
  rw [hget]
  by_cases hn : n.val ∈ dies
  · rw [if_pos (by simpa using hn)]
    cases h with
    | none => simp [hn]
    | some k => simp [hn, imp_iff_not_or]
  · rw [if_neg (by simpa using hn)]
    simp [hn]

theorem State.mem_diesOf {sc : Scope} {n : Fin 4} : n.val ∈ s.diesOf sc ↔ (sc = .die → n = s.fir.die) := by
  unfold State.diesOf
  by_cases h : sc = .die
  · simp [h, Fin.ext_iff]
  · have : n.val = 0 ∨ n.val = 1 ∨ n.val = 2 ∨ n.val = 3 := by omega
    simpa [h] using this

theorem State.shinvHandle_eq (a : BitVec 6) : s.shinvHandle a = if a = 0 then none else some ((s.rx a).toNat % 65536) := by
  rw [State.shinvHandle, bits, pow_zero, Nat.div_one]
  rfl

theorem State.shinvHandle_names {a : BitVec 6} {n : Nat} :
    (∀ k, s.shinvHandle a = some k → n = k) ↔ (a ≠ 0 → n = (s.rx a).toNat % 65536) := by
  rw [State.shinvHandle_eq]
  by_cases h : a = 0 <;> simp [h]

/-- SHINV with nothing under way (R229). -/
theorem shinvClause {sc : Scope} {a : BitVec 6} (hi : s.Issues (.shinv sc a)) (hq : s.quietOrder) (hn : (s.fr.held.map (·.1)).Nodup)
    (hw : s.mem.wf = true) :
    ∃ v, exec (.shinv sc a) s = .next v ∧ v.fir = { s.fir with wait := some .shinv, aged := false } ∧ v.publishedOf s s.fir.frond ∧
      (∀ (n : Fin 4) (c : ShardCache), c ∈ v.dies[n].shards ↔ c ∈ s.dies[n].shards ∧
        ¬((sc = .die → n = s.fir.die) ∧ c.part = s.fir.part ∧ (a ≠ 0 → c.handle = (s.rx a).toNat % 65536))) ∧
      (∃ l, v.agenda.getLast? = some { op := .shinvComplete, a := s.fir.adm, b := 0, c := 0, v := 0, l := l }) ∧
      v.sent = s.sent ++ (v.shinvPeers sc).map fun q => .shinv q.1 q.2 s.fir.adm (if a = 0 then none else some ((s.rx a).toNat % 65536)) := by
  obtain ⟨-, -, -, hd, ho⟩ := id hq
  have hpub := State.publish_published hd ho hw hn sc
  have hup := State.publish_up hd ho s.fir.frond sc
  refine ⟨_, exec_shinv_waits hi hq, ?_⟩
  generalize s.publish s.fir.frond sc = p at hpub hup
  have hfir : p.fir = s.fir := by rw [hup]
  have hdies : p.dies = s.dies := by rw [hup]
  have hsent : p.sent = s.sent := by rw [hup]
  have hrx : p.rx a = s.rx a := by rw [State.rx, State.rx, hfir]
  refine ⟨?_, State.publishedOf_congr hpub rfl rfl, fun n c => ?_,
    ⟨p.shinvMarks sc, ?_⟩, ?_⟩
  · show { p.fir with wait := some Wait.shinv, aged := false } = _
    rw [hfir]
  · show c ∈ (p.dropShards (p.diesOf sc) p.fir.part (p.shinvHandle a)).dies[n].shards ↔ _
    rw [State.mem_dropShards, State.mem_diesOf, State.shinvHandle_names, hdies, hfir, hrx]
  · show (_ ++ [_]).getLast? = _
    rw [List.getLast?_concat, ← hfir]
    rfl
  · show p.sent ++ (p.shinvPeers sc).map (fun q => Sent.shinv q.1 q.2 p.fir.adm (p.shinvHandle a)) = _
    rw [hsent, hfir, State.shinvHandle_eq, hrx]
    rfl

theorem exec_shinvComplete_reply (hb : s.ev.b = 1) :
    ∃ v, exec .shinvComplete s = .next v ∧ v.fir = s.fir ∧ v.agenda.length = s.agenda.length := by
  refine ⟨_, if_pos hb, rfl, ?_⟩
  exact List.length_map _

theorem exec_shinvComplete_open (hb : s.ev.b ≠ 1) (ho : s.marksOpen s.ev.l = true) : exec .shinvComplete s = .next s := by
  show execShinvComplete s = _
  rw [execShinvComplete, if_neg hb, if_pos ho]

theorem exec_shinvComplete_owed (hb : s.ev.b = 2) (ho : s.marksOpen s.ev.l = false) :
    exec .shinvComplete s = .next { s with sent := s.sent ++ [.shinvDone s.ev.c s.ev.a] } := by
  show execShinvComplete s = _
  rw [execShinvComplete, if_neg (by omega), if_neg (by simp [ho]), if_pos hb]
  rfl

theorem exec_shinvComplete_own (hb : s.ev.b = 0) (ho : s.marksOpen s.ev.l = false) (hl : s.fir.live = true) (hn : s.fir.adm = s.ev.a)
    (hv : s.fir.wait = some .shinv) : exec .shinvComplete s = .next (s.upd Firing.advance) := by
  show execShinvComplete s = _
  rw [execShinvComplete, if_neg (by omega), if_neg (by simp [ho]), if_neg (by omega), State.onFiring_own_live hl hn, if_pos hv]
  rfl

end

/-- Settles O16: what a located element, a quiet SHINV and its completion leave. -/
theorem shardLookups : Obligations.ShardLookups := by
  unfold Obligations.ShardLookups
  refine ⟨fun d l => ⟨fun h => shardOf_one h l, fun h => shardOf_two h l⟩, fun s u d a b e hi hl => shlocClause hi hl,
    fun s sc a hi hq hn hw => shinvClause hi hq hn hw, fun s hb ho hl hn hv => exec_shinvComplete_own hb ho hl hn hv,
    fun s hb => exec_shinvComplete_reply hb, fun s hb ho => exec_shinvComplete_owed hb ho, fun s hb ho => exec_shinvComplete_open hb ho⟩

end Sys2Proof.Machine
end

section
/-! SUPPORT. What a release leaves of the order of home writes (R248). -/

namespace Sys2Proof.Machine

/-- Every write that a frond need not have in one order of home writes is at a dword of such a write in another. -/
def lateWithin (g : Fin 1024) (a b : List Late) : Prop := ∀ l ∈ a, l.known g = false → ∃ m ∈ b, m.known g = false ∧ m.key = l.key

theorem hideLate_within (g : Fin 1024) (ds : List (Nat × BitVec 8)) (ls : List Late) : lateWithin g (hideLate ds ls) ls := by
  intro l hl hk
  obtain ⟨m, hm, rfl⟩ := List.mem_map.mp (List.mem_filter.mp hl).1
  exact ⟨m, hm, hk, rfl⟩

theorem lateWithin_trans {g : Fin 1024} {a b c : List Late} (h : lateWithin g a b) (h' : lateWithin g b c) : lateWithin g a c := by
  intro l hl hk
  obtain ⟨m, hm, hmk, e⟩ := h l hl hk
  obtain ⟨n, hn, hnk, e'⟩ := h' m hm hmk
  exact ⟨n, hn, hnk, e'.trans e⟩

theorem lateWithin_cons {g : Fin 1024} {a b : List Late} (h : lateWithin g a b) (l : Late) : lateWithin g a (l :: b) := by
  intro x hx hk
  obtain ⟨m, hm, e⟩ := h x hx hk
  exact ⟨m, List.mem_cons_of_mem l hm, e⟩

/-- A frond's own home write is one it has. -/
theorem Late.known_own (l : Late) {h : Fin 1024} (e : l.frond = h) : l.known h = true := by
  subst e; simp [Late.known, Late.reaches]

theorem Late.known_passOn (l : Late) (h : Fin 1024) (sc : Scope) : (l.passOn h sc).known h = l.known h ∧ (l.passOn h sc).key = l.key := by
  unfold Late.passOn
  by_cases hm : h.val ∈ l.fronds
  · split_ifs <;> simp [Late.known, hm]
  · simp [hm]

theorem widenLate_within (h : Fin 1024) (sc : Scope) (ls : List Late) : lateWithin h (widenLate h sc ls) ls := by
  induction ls with
  | nil => exact fun l hl => absurd hl List.not_mem_nil
  | cons l ls ih =>
    unfold widenLate
    dsimp only
    split_ifs with hown hw
    · exact lateWithin_cons (lateWithin_trans (hideLate_within h _ _) ih) l
    · intro x hx hk
      rcases List.mem_cons.mp hx with rfl | hx
      · exact absurd (hk.symm.trans (Late.known_own _ hown)) Bool.false_ne_true
      · exact lateWithin_cons ih l x hx hk
    · intro x hx hk
      rcases List.mem_cons.mp hx with rfl | hx
      · obtain ⟨hkn, hkey⟩ := l.known_passOn h sc
        exact ⟨l, List.mem_cons_self, hkn ▸ hk, hkey.symm⟩
      · exact lateWithin_cons ih l x hx hk

theorem State.homePut_late_within (s : State) (h : Fin 1024) (sc : Scope) (keys : List Nat) (m : Mem) (pub : Bool) :
    lateWithin h (s.homePut h sc pub keys m).late s.late := by
  unfold State.homePut
  dsimp only
  split_ifs
  · exact hideLate_within h _ _
  · intro l hl hk
    rcases List.mem_append.mp hl with hl | hl
    · obtain ⟨d, -, rfl⟩ := List.mem_map.mp hl
      exact absurd hk (by rw [Late.known_own _ rfl]; simp)
    · exact ⟨l, hl, hk, rfl⟩

/-- A publication leaves no write that its frond need not have where there was none (R237). -/
theorem State.publish_takenAt {s : State} (hd : s.dev.cxlDown = []) (ho : s.dev.cxlOn = 3) {h : Fin 1024} (sc : Scope) {k : Nat}
    (ht : s.takenAt h k) : (s.publish h sc).takenAt h k := by
  intro l hl hk
  have hin : lateWithin h (s.publish h sc).late s.late := by
    rw [State.publish_eq hd ho]
    exact lateWithin_trans ((s.widen h sc).homePut_late_within h sc _ _ true) (widenLate_within h sc s.late)
  obtain ⟨m, hm, hmk, e⟩ := hin l hl hk
  exact e ▸ ht m hm hmk

end Sys2Proof.Machine
end

section
/-! PROOF. REL, ACQ and FENCE (R237, R238, R241, R248 to R250). -/

namespace Sys2Proof.Machine

section
variable {s : State} {sc : Scope}

theorem Scope.wide_iff : sc ∈ [Scope.die, .pkg, .dom, .sys] ↔ 2 < sc.code.toNat := by cases sc <;> decide

theorem Scope.narrow_iff : sc ∈ [Scope.fi, .co, .fr] ↔ ¬2 < sc.code.toNat := by cases sc <;> decide

theorem State.acquire_wide (h : sc ∈ [Scope.die, .pkg, .dom, .sys]) : s.acquire sc = s.renew s.fir.frond := if_pos (Scope.wide_iff.mp h)

theorem State.acquire_narrow (h : sc ∈ [Scope.fi, .co, .fr]) : s.acquire sc = s := if_neg (Scope.narrow_iff.mp h)

theorem State.renew_held (s : State) (h : Fin 1024) : (s.renew h).fronds[h].held = s.fronds[h].held := by simp [State.renew]

theorem State.renew_frond_ne (s : State) {h g : Fin 1024} (hg : g ≠ h) : (s.renew h).fronds[g] = s.fronds[g] := by
  simp [State.renew, Fin.val_ne_of_ne (Ne.symm hg)]

/-- What an instruction of order leaves besides, from a state with the machine as it was. -/
theorem State.besideOrder_of {t : State} (ho : t.others = s.others) (hc : t.cores = s.cores) (hp : t.parts = s.parts) (ht : t.teams = s.teams)
    (hf : t.full = s.full) (hfir : t.fir = s.fir) : (t.upd Firing.advance).besideOrder s :=
  ⟨ho, hc, hp, ht, hf, by rw [State.upd, hfir]⟩

/-- A release of a firing with nothing under way, in the words of its parts. -/
theorem State.publish_up_fields (hq : s.quietOrder) {p : State} (hp : p = s.publish s.fir.frond sc) :
    p.others = s.others ∧ p.cores = s.cores ∧ p.parts = s.parts ∧ p.teams = s.teams ∧ p.full = s.full ∧ p.fir = s.fir := by
  obtain ⟨-, -, -, hd, ho⟩ := hq
  rw [hp, State.publish_up hd ho]
  exact ⟨rfl, rfl, rfl, rfl, rfl, rfl⟩

theorem relClause (hw : s.mem.wf = true) (hn : (s.fr.held.map (·.1)).Nodup) (hi : s.Issues (.rel sc)) (hq : s.quietOrder) :
    ∃ v, exec (.rel sc) s = .next v ∧ v.publishedOf s s.fir.frond ∧ v.besideOrder s := by
  obtain ⟨-, -, -, hd, ho⟩ := id hq
  have hpub := State.publish_published hd ho hw hn sc
  obtain ⟨h1, h2, h3, h4, h5, h6⟩ := State.publish_up_fields (sc := sc) hq rfl
  refine ⟨(s.publish s.fir.frond sc).upd Firing.advance, ?_, State.publishedOf_congr hpub rfl rfl, State.besideOrder_of h1 h2 h3 h4 h5 h6⟩
  rw [exec_rel, execRel, plain_issues hi, State.release_of_quiet hq]
  rfl

theorem State.acquire_besideOrder {t : State} (ho : t.others = s.others) (hc : t.cores = s.cores) (hp : t.parts = s.parts)
    (ht : t.teams = s.teams) (hf : t.full = s.full) (hfir : t.fir = s.fir) : ((t.acquire sc).upd Firing.advance).besideOrder s := by
  have hacq : (t.acquire sc).others = t.others ∧ (t.acquire sc).cores = t.cores ∧ (t.acquire sc).parts = t.parts ∧
      (t.acquire sc).teams = t.teams ∧ (t.acquire sc).full = t.full ∧ (t.acquire sc).fir = t.fir := by
    unfold State.acquire
    split <;> exact ⟨rfl, rfl, rfl, rfl, rfl, rfl⟩
  obtain ⟨a1, a2, a3, a4, a5, a6⟩ := hacq
  exact State.besideOrder_of (a1.trans ho) (a2.trans hc) (a3.trans hp) (a4.trans ht) (a5.trans hf) (a6.trans hfir)

theorem acqClause (hw : s.mem.wf = true) (hi : s.Issues (.acq sc)) (hp : s.posting s.fir = false) :
    ∃ v, exec (.acq sc) s = .next v ∧ v.mem = s.mem ∧ v.besideOrder s ∧
      (sc ∈ [Scope.die, .pkg, .dom, .sys] → v.renewedOf s s.fir.frond ∧ v.fr.held = s.fr.held) ∧
      (sc ∈ [Scope.fi, .co, .fr] → v.fronds = s.fronds) := by
  refine ⟨(s.acquire sc).upd Firing.advance, ?_, s.acquire_mem sc, State.acquire_besideOrder rfl rfl rfl rfl rfl rfl, fun h => ?_, fun h => ?_⟩
  · rw [exec_acq, execAcq, plain_issues hi, hp]
    rfl
  · rw [State.acquire_wide h]
    refine ⟨State.renewedOf_congr (State.renew_renewedOf hw _) rfl rfl rfl, ?_⟩
    simpa [State.fr, State.upd] using s.renew_held s.fir.frond
  · rw [State.acquire_narrow h]
    rfl

theorem acq_posted (hi : s.Issues (.acq sc)) (hp : s.posting s.fir = true) :
    exec (.acq sc) s = .next (s.upd fun f => { f with wait := some .posted, aged := false }) := by
  rw [exec_acq, execAcq, plain_issues hi, hp]
  rfl

theorem fenceClause (hw : s.mem.wf = true) (hn : (s.fr.held.map (·.1)).Nodup) (hi : s.Issues (.fence sc)) (hq : s.quietOrder) :
    ∃ v, exec (.fence sc) s = .next v ∧ v.publishedOf s s.fir.frond ∧ v.besideOrder s ∧
      (sc ∈ [Scope.die, .pkg, .dom, .sys] → v.renewedOf s s.fir.frond) := by
  obtain ⟨-, -, -, hd, ho⟩ := id hq
  have hpub := State.publish_published hd ho hw hn sc
  have htaken := fun k => State.publish_takenAt (k := k) hd ho (h := s.fir.frond) sc
  have hpw : (s.publish s.fir.frond sc).mem.wf = true := by
    rw [State.publish_mem_up hd ho]; exact Mem.wf_putAll hw _
  obtain ⟨h1, h2, h3, h4, h5, h6⟩ := State.publish_up_fields (sc := sc) hq rfl
  refine ⟨((s.publish s.fir.frond sc).acquire sc).upd Firing.advance, ?_, ?_, State.acquire_besideOrder h1 h2 h3 h4 h5 h6, fun h k hk => ?_⟩
  · rw [exec_fence, execFence, plain_issues hi, State.release_of_quiet hq]
    rfl
  · generalize s.publish s.fir.frond sc = p at hpub h6
    obtain ⟨p1, p2, p3, p4⟩ := hpub
    unfold State.acquire
    split
    · refine ⟨p1, p2, ?_, fun g hg => ?_⟩
      · rw [← p3, ← h6]
        exact p.renew_held p.fir.frond
      · rw [← p4 g hg]
        exact p.renew_frond_ne (h6 ▸ hg)
    · exact ⟨p1, p2, p3, p4⟩
  · rw [State.acquire_wide h, h6]
    exact State.renew_renewedOf hpw _ k (htaken k hk)

theorem foldl_push (s : State) (op : Instr) (l : List Nat) : l.foldl (fun s p => s.push op s.fir.adm p 0 0) s =
    { s with agenda := s.agenda ++ l.map fun p => { op := op, a := s.fir.adm, b := p, c := 0, v := 0, l := [] } } := by
  induction l generalizing s with
  | nil => simp
  | cons p l ih => rw [List.foldl_cons, ih]; simp [State.push]

theorem relMarkers (hi : s.Issues (.rel sc)) (hs : sc ∈ [Scope.die, .pkg, .dom, .sys]) (hp : s.fir.paths ≠ []) (hv : s.fir.wait = none) :
    ∃ v, exec (.rel sc) s = .next v ∧ v.fir = { s.fir with wait := some .markers, aged := false } ∧ v.mem = s.mem ∧ v.fronds = s.fronds ∧
      v.agenda = s.agenda ++ s.fir.paths.map fun p => { op := .markerAcknowledged, a := s.fir.adm, b := p, c := 0, v := 0, l := [] } := by
  have hcode : 3 ≤ sc.code.toNat := Scope.wide_iff.mp hs
  rw [exec_rel, execRel, plain_issues hi, State.release, if_pos (by simp [hcode, hp]), if_neg (by simp [hv]), foldl_push]
  exact ⟨_, rfl, rfl, rfl, rfl, rfl⟩

end

/-- Settles O18. -/
theorem orderInstructions : Obligations.OrderInstructions := by
  unfold Obligations.OrderInstructions
  exact fun s sc hw hn => ⟨fun hi hq => relClause hw hn hi hq, fun hi hp => acqClause hw hi hp, fun hi hp => acq_posted hi hp,
    fun hi hq => fenceClause hw hn hi hq, fun hi hs hp hv => relMarkers hi hs hp hv⟩

end Sys2Proof.Machine
end

section
/-! SUPPORT. A firing looked up, changed and made the acting one (R10). -/

namespace Sys2Proof.Machine

section
variable {s : State} {f : Firing} {n : Nat}

theorem find_live {l : List Firing} (h : (l.find? fun f => f.live && f.adm == n) = some f) : f ∈ l ∧ f.live = true ∧ f.adm = n := by
  have hp := List.find?_some (p := fun f : Firing => f.live && f.adm == n) h
  rw [Bool.and_eq_true, beq_iff_eq] at hp
  exact ⟨List.mem_of_find?_eq_some h, hp⟩

theorem find_adm {l : List Firing} (h : (l.find? fun f => f.adm == n) = some f) : f ∈ l ∧ f.adm = n :=
  ⟨List.mem_of_find?_eq_some h, beq_iff_eq.mp (List.find?_some (p := fun f : Firing => f.adm == n) h)⟩

theorem State.firing?_onFiring (h : s.firing? n = some f) {k : Firing → Firing} (hl : ∀ x, (k x).live = x.live)
    (ha : ∀ x, (k x).adm = x.adm) : (s.onFiring n k).firing? n = some (k f) := by
  unfold State.firing? at h
  unfold State.onFiring
  by_cases hown : (s.fir.live && s.fir.adm == n) = true
  · rw [if_pos hown] at h ⊢
    cases h
    exact if_pos (by rw [hl, ha]; exact hown)
  · rw [if_neg hown] at h ⊢
    have hsame : ((fun x : Firing => x.live && x.adm == n) ∘ fun x => if x.adm == n then k x else x) = fun x => x.live && x.adm == n := by
      funext x
      dsimp only [Function.comp]
      split_ifs <;> simp [hl, ha]
    have hfn : (f.adm == n) = true := beq_iff_eq.mpr (find_live h).2.2
    unfold State.firing?
    dsimp only
    rw [if_neg hown, List.find?_map, hsame, h]
    exact congrArg some (if_pos hfn)

theorem State.onFiring_firings_adm (s : State) (n : Nat) {k : Firing → Firing} (hl : ∀ x, (k x).live = x.live) (ha : ∀ x, (k x).adm = x.adm) :
    (s.onFiring n k).firings.map Firing.adm = s.firings.map Firing.adm := by
  unfold State.onFiring
  split_ifs
  · simp only [State.firings, hl, List.map_append]
    split_ifs <;> simp [ha]
  · simp only [State.firings, List.map_append, List.map_map]
    congr 1
    refine List.map_congr_left fun x _ => ?_
    dsimp only [Function.comp]
    split_ifs <;> simp [ha]

/-- What making a firing the acting one keeps of the machine. -/
def State.refocused (t s : State) : Prop := t = { s with fir := t.fir, others := t.others }

theorem State.focus_refocused (s : State) (n : Nat) : (s.focus n).refocused s := by
  unfold State.focus
  by_cases hown : (s.fir.live && s.fir.adm == n) = true
  · rw [if_pos hown]; rfl
  · rw [if_neg hown]
    cases s.others.find? fun f => f.adm == n <;> rfl

theorem State.focus_fir (h : s.firing? n = some f) (hn : (s.firings.map Firing.adm).Nodup) : (s.focus n).fir = f := by
  unfold State.firing? at h
  unfold State.focus
  by_cases hown : (s.fir.live && s.fir.adm == n) = true
  · rw [if_pos hown] at h ⊢
    exact Option.some.inj h
  · rw [if_neg hown] at h ⊢
    obtain ⟨hmem, -, hfn⟩ := find_live h
    have hothers : (s.others.map Firing.adm).Nodup := by
      rw [State.firings, List.map_append] at hn
      exact hn.of_append_right
    cases hfind : s.others.find? fun g => g.adm == n with
    | none => exact absurd (beq_iff_eq.mpr hfn) (List.find?_eq_none.mp hfind f hmem)
    | some g =>
      obtain ⟨hg, hgn⟩ := find_adm hfind
      exact List.inj_on_of_nodup_map hothers hg hmem (hgn.trans hfn.symm)

theorem State.firing?_focus {t : State} (hl : t.fir.live = true) (ha : t.fir.adm = n) (m : Nat) : (t.focus m).firing? n = some t.fir := by
  have hown : t.firing? n = some t.fir := by subst ha; exact State.firing?_own_live hl
  unfold State.focus
  by_cases hm : (t.fir.live && t.fir.adm == m) = true
  · rw [if_pos hm]; exact hown
  · rw [if_neg hm]
    cases hfind : t.others.find? fun g => g.adm == m with
    | none => exact hown
    | some g =>
      obtain ⟨-, hg⟩ := find_adm hfind
      have hne : m ≠ n := by
        rintro rfl
        exact hm (by simp [hl, ha])
      unfold State.firing?
      dsimp only
      rw [if_neg (by simp [hg, hne]), if_pos hl]
      exact List.find?_cons_of_pos (p := fun f : Firing => f.live && f.adm == n) (by simp [hl, ha])

theorem State.onFiring_refocused (s : State) (n : Nat) (k : Firing → Firing) : (s.onFiring n k).refocused s := by
  unfold State.onFiring
  split_ifs <;> rfl

theorem State.refocused_mem {t : State} (h : t.refocused s) : t.mem = s.mem := by
  rw [State.refocused] at h; rw [h]

theorem State.refocused_gangs {t : State} (h : t.refocused s) : t.gangs = s.gangs := by
  rw [State.refocused] at h; rw [h]

theorem State.refocused_parts {t : State} (h : t.refocused s) : t.parts = s.parts := by
  rw [State.refocused] at h; rw [h]

theorem State.refocused_sent {t : State} (h : t.refocused s) : t.sent = s.sent := by
  rw [State.refocused] at h; rw [h]

/-- A change made as another firing: what it leaves of that firing and of the machine. -/
theorem State.asFiring_left (k : State → State)
    (hl : (k (s.focus n)).fir.live = true) (ha : (k (s.focus n)).fir.adm = n) :
    (s.asFiring n k).firing? n = some (k (s.focus n)).fir ∧ (s.asFiring n k).refocused (k (s.focus n)) :=
  ⟨State.firing?_focus hl ha s.fir.adm, (k (s.focus n)).focus_refocused s.fir.adm⟩

theorem State.firing?_adm (h : s.firing? n = some f) : f.adm = n := by
  unfold State.firing? at h
  split_ifs at h with hown
  · cases h; exact beq_iff_eq.mp (Bool.and_eq_true_iff.mp hown).2
  · exact (find_live h).2.2

end

end Sys2Proof.Machine
end

section
/-! SUPPORT. A trap in the handler of a firing (R193, R197). -/

namespace Sys2Proof.Machine

theorem State.serveSem_queue (s : State) (h : Fin 1024) (n : Fin 16) (k : Nat) : ∀ w ∈ (s.serveSem h n k).fronds[h].hsq, w ∈ s.fronds[h].hsq := by
  induction k generalizing s with
  | zero => exact fun w hw => hw
  | succ k ih =>
    rw [State.serveSem]
    split
    · exact fun w hw => hw
    next x hx =>
      dsimp only
      split_ifs
      · intro w hw
        refine List.mem_of_mem_erase (a := w) (b := x) ?_
        simpa [State.noteUndo, State.onFiring, apply_ite State.fronds] using ih _ w hw
      · exact fun w hw => hw

theorem State.serveSems_queue (s : State) (h : Fin 1024) : ∀ w ∈ (s.serveSems h).fronds[h].hsq, w ∈ s.fronds[h].hsq := by
  suffices hall : ∀ (ns : List (Fin 16)) (s : State), ∀ w ∈ (ns.foldl (fun (s : State) n => s.serveSem h n s.fronds[h].hsq.length) s).fronds[h].hsq,
      w ∈ s.fronds[h].hsq from hall _ s
  intro ns
  induction ns with
  | nil => exact fun s w hw => hw
  | cons n ns ih => exact fun s w hw => s.serveSem_queue h n _ w (ih _ w hw)

theorem State.waitless_retry_queue {s : State} {f : Firing} (hf : s.fir = f) (hl : f.live = true) :
    (s.withdraw f.adm).retry = s.retry.filter (fun w => w.adm != f.adm) ∧ ∀ y ∈ (s.withdraw f.adm).fronds[f.frond].hsq, y.adm ≠ f.adm := by
  subst hf
  rw [State.withdraw_of_firing (State.firing?_own_live hl)]
  obtain ⟨hfir, hq⟩ := s.unwaited_own s.fir.frond
  have hretry : (s.unwaited s.fir.frond s.fir.adm).retry = s.retry.filter fun w => w.adm != s.fir.adm := by
    rw [State.unwaited, State.onFiring_own_live (n := s.fir.adm) (by exact hl) (by rfl)]
    rfl
  split
  · refine ⟨?_, fun y hy => hq y (State.serveSems_queue _ _ y hy)⟩
    have hb := State.serveSems_beside (s := s.unwaited s.fir.frond s.fir.adm) (h := s.fir.frond) fun w hw => by
      rw [State.waitless_fir hfir]
      have := hq w hw
      dsimp only
      split <;> exact this
    rw [State.beside] at hb
    rw [hb]
    exact hretry
  · exact ⟨hretry, hq⟩

section
variable {s : State} {f : Firing}

/-- What a trap in its own handler leaves of a firing and of the machine (R197). -/
structure State.Handled (v s : State) (g f : Firing) (t : Pending) : Prop where
  firing : v.firing? f.adm = some g
  handles : g.handles f t.tc t.val
  reports : g.reports = f.reports
  lost : g.replost = f.replost
  mem : v.mem = s.mem
  retry : ∀ y ∈ v.retry, y.adm ≠ f.adm
  queue : ∀ h : Fin 1024, h = f.frond → ∀ y ∈ v.fronds[h].hsq, y.adm ≠ f.adm

theorem Firing.enterHandler_handles (f : Firing) (tc val pc : Word) (hp : pc = f.pc) (hw : f.wait = none) : (f.enterHandler tc val pc).handles f tc val := by
  have hstat := f.enterHandler_fstat tc val pc
  exact ⟨rfl, rfl, hp, rfl, rfl, hw, hstat 4, hstat 0, hstat 23, rfl, rfl, rfl, rfl⟩

theorem Firing.handles_congr {g f f' : Firing} {tc val : Word} (h : g.handles f tc val) (hpc : f'.pc = f.pc) (hst : f'.fstat = f.fstat)
    (hu : f'.utvec = f.utvec) (hx : f'.x = f.x) (hv : f'.v = f.v) (hk : f'.k = f.k) (hr : f'.run = f.run) : g.handles f' tc val := by
  unfold Firing.handles at *
  rw [hpc, hst, hu, hx, hv, hk, hr]
  exact h

theorem State.withdraw_fir_live {s : State} (hl : s.fir.live = true) : (s.withdraw s.fir.adm).fir = s.fir.calm := by
  rw [State.waitless_fir s.withdraw_own]
  exact if_pos hl

theorem State.trapFiring_handled (hc : s.canHandle f) {t : Pending} (ht : t.user = true) :
    ∃ g, (s.trapFiring f.adm t).Handled s g f t := by
  obtain ⟨hf, hl, hv, hi, hg, hn⟩ := hc
  have hgang : s.gangOf f.adm = none := List.find?_eq_none.mpr fun g hgm => by simpa using hg g hgm
  have htrap : s.trapFiring f.adm t = s.asFiring f.adm fun s => s.deliver t.user t.tc t.val s.fir.pc := by
    rw [State.trapFiring, hf]
    dsimp only
    rw [hgang]
  have hfoc := State.focus_fir hf hn
  obtain ⟨hretry, hqueue⟩ := State.waitless_retry_queue (s := s.focus f.adm) hfoc hl
  have hfir := State.withdraw_fir_live (s := s.focus f.adm) (by rw [hfoc]; exact hl)
  have hmem := (s.focus f.adm).withdraw_mem
  have hrest := s.focus_refocused f.adm
  rw [State.refocused] at hrest
  have hdel : (s.focus f.adm).deliver t.user t.tc t.val (s.focus f.adm).fir.pc =
      (s.focus f.adm).trapping.upd fun x => x.enterHandler t.tc t.val f.pc := by
    rw [State.deliver_eq, hfoc, if_pos (by simp only [ht, Firing.intrap, bit, hi]; simpa using hv)]
  rw [hfoc] at hfir hmem
  have hafter : ((s.focus f.adm).deliver t.user t.tc t.val (s.focus f.adm).fir.pc).fir = f.calm.enterHandler t.tc t.val f.pc := by
    rw [hdel, State.trapping, State.upd, hfoc, hfir]
  obtain ⟨hfiring, hback⟩ := State.asFiring_left (s := s) (n := f.adm) (fun s => s.deliver t.user t.tc t.val s.fir.pc) (by rw [hafter]; exact hl)
    (by rw [hafter]; rfl)
  rw [hafter] at hfiring
  rw [State.refocused, hdel, State.trapping, State.upd, hfoc] at hback
  have hhandles := Firing.enterHandler_handles f.calm t.tc t.val f.pc rfl rfl
  rw [htrap]
  refine ⟨_, ⟨hfiring, Firing.handles_congr hhandles rfl rfl rfl rfl rfl rfl rfl, rfl, rfl, ?_, fun y hy => ?_, fun h hh y hy => ?_⟩⟩
  · rw [hback]
    exact hmem.trans (by rw [hrest])
  · rw [hback] at hy
    have := hretry ▸ hy
    simpa using (List.mem_filter.mp this).2
  · rw [hback] at hy
    subst hh
    exact hqueue y hy

end
end Sys2Proof.Machine
end

section
/-! PROOF. Bounded waits, asynchronous reports and kept records (R98, R149, R150, R198, R199, R401). -/

namespace Sys2Proof.Machine

section
variable {s : State} {f : Firing}

/-- A user trap with no subcode as it is delivered. -/
theorem Trap.pending_user {t : Trap} (h : t.c.user = true) : (Trap.pending t).user = true := h

theorem qstall_tc : tcauseOf false 0 Cause.qstall.code = 9 := tcauseOf_eq (by decide) .qstall

theorem fewait_tc : tcauseOf false 0 Cause.fewait.code = 8 := tcauseOf_eq (by decide) .fewait

theorem qstallVal_eq {w : Wait} {n : Nat}
    (h : (∃ b, w = .queue n b) ∨ w = .sem n ∨ (n = 0 ∧ ∃ k, w = .gang k) ∨ w = .credit n ∨ (8 ≤ n ∧ w = .decision (n - 8))) :
    qstallVal w = some n := by
  rcases h with ⟨b, rfl⟩ | rfl | ⟨rfl, k, rfl⟩ | rfl | ⟨hn, rfl⟩
  · rfl
  · rfl
  · rfl
  · rfl
  · exact congrArg some (Nat.sub_add_cancel hn)

theorem qstall_handled (hc : s.canHandle f) (ha : s.ev.a = f.adm) {w : Wait} {n : Nat} (hw : f.wait = some w) (hq : qstallVal w = some n) :
    ∃ v g, exec .qstallExpiry s = .next v ∧ v.firing? f.adm = some g ∧ g.handles f 9 (BitVec.ofNat 64 n) ∧ v.mem = s.mem ∧
      ∀ h : Fin 1024, h = f.frond → ∀ y ∈ v.fronds[h].hsq, y.adm ≠ f.adm := by
  obtain ⟨g, hg⟩ := State.trapFiring_handled hc (t := Trap.pending { c := .qstall, sub := 0, val := BitVec.ofNat 64 n }) rfl
  refine ⟨s.trapFiring f.adm (Trap.pending { c := .qstall, sub := 0, val := BitVec.ofNat 64 n }), g, ?_, hg.firing,
    qstall_tc ▸ hg.handles, hg.mem, hg.queue⟩
  obtain ⟨hf, -⟩ := hc
  show execQstallExpiry s = _
  rw [execQstallExpiry, ha, hf]
  dsimp only [Option.bind]
  rw [hw]
  dsimp only
  rw [hq]

/-- FEWAIT_EXPIRY of a firing that is known, by its wait. -/
theorem execFewaitExpiry_of (hf : s.firing? f.adm = some f) (ha : s.ev.a = f.adm) : exec .fewaitExpiry s = match f.wait with
    | some .fullEmpty => .next (if s.logHeld f.adm then s else s.push .feWithdrawal f.adm 0 0 0)
    | some .resend => .next (s.push .feWithdrawal f.adm 0 0 0)
    | some .answer => .next (s.withdrawFar f.adm)
    | _ => .next s := by
  show execFewaitExpiry s = _
  rw [execFewaitExpiry, ha, hf]
  rfl

theorem State.logHeld_iff {n : Nat} : s.logHeld n = true ↔ ∃ w ∈ s.retry, w.adm = n ∧ w.peer = none ∧ s.feHolds w.key w.load w.sets = true := by
  simp [State.logHeld, and_assoc]

/-- The acting firing's withdrawal of its access q at another package (R226). -/
def State.withdrawAsk (q : Pend) (s : State) : State :=
  ((s.streamSeq q.pkg).2.ask q.pkg 0 (s.streamSeq q.pkg).1 0 .withdraw q.seq 8 0 0).upd fun f =>
    { f with pends := f.pends.map fun r => if r.seq == q.seq && r.pkg == q.pkg then { r with fe := false } else r }

theorem State.withdrawAsk_fir {q : Pend} (hp : s.fir.pends = [q]) : (s.withdrawAsk q).fir = { s.fir with pends := [{ q with fe := false }] } := by
  have h : (s.withdrawAsk q).fir =
      { s.fir with pends := s.fir.pends.map fun r => if r.seq == q.seq && r.pkg == q.pkg then { r with fe := false } else r } := rfl
  rw [h, hp]
  simp

/-- A firing's withdrawal from a wait at another package is one request on its stream (R226). -/
theorem withdrawFar_asked (hc : s.canHandle f) {q : Pend} (hp : f.pends = [q]) (hq : q.fe = true) :
    ∃ g seq, (s.withdrawFar f.adm).firing? f.adm = some g ∧ g = { f with pends := [{ q with fe := false }] } ∧ (s.withdrawFar f.adm).mem = s.mem ∧
      (s.withdrawFar f.adm).sent = s.sent ++
        [.request f.core.val (s.parts[f.part].pcfg.toNat / 2 ^ 8 % 8) q.pkg 0 seq 0 .withdraw q.seq 8 0 0] := by
  obtain ⟨hf, hl, -, -, -, hn⟩ := hc
  have hfind : (f.pends.find? fun p => p.fe) = some q := by rw [hp]; exact List.find?_cons_of_pos (p := fun p : Pend => p.fe) hq
  have hfar : s.withdrawFar f.adm = s.asFiring f.adm (State.withdrawAsk q) := by
    rw [State.withdrawFar, hf]
    dsimp only
    rw [hfind]
    rfl
  have hfoc := State.focus_fir hf hn
  have hrest := s.focus_refocused f.adm
  have hfir := State.withdrawAsk_fir (s := s.focus f.adm) (q := q) (by rw [hfoc, hp])
  rw [hfoc] at hfir
  obtain ⟨hfiring, hback⟩ := State.asFiring_left (s := s) (n := f.adm) (State.withdrawAsk q) (by rw [hfir]; exact hl) (by rw [hfir])
  have hsent : ((s.focus f.adm).withdrawAsk q).sent = (s.focus f.adm).sent ++ [.request (s.focus f.adm).fir.core.val
      (bits (s.focus f.adm).part.pcfg 10 8) q.pkg 0 ((s.focus f.adm).streamSeq q.pkg).1 0 .withdraw q.seq 8 0 0] := rfl
  have hpart : (s.focus f.adm).part = s.parts[f.part] := by
    rw [State.part, State.refocused_parts hrest]
    simp only [hfoc]
  rw [hfar]
  refine ⟨_, ((s.focus f.adm).streamSeq q.pkg).1, hfiring, hfir, ?_, ?_⟩
  · exact (State.refocused_mem hback).trans (State.refocused_mem (s := s) (t := s.focus f.adm) hrest)
  · rw [State.refocused_sent hback, hsent, hpart, hfoc, State.refocused_sent hrest]
    rfl

theorem feWithdrawal_handled (hc : s.canHandle f) (ha : s.ev.a = f.adm) {w : FeWait} (hw : s.retry.filter (fun w => w.adm == f.adm) = [w])
    (hp : w.peer = none) :
    ∃ v g, exec .feWithdrawal s = .next v ∧ v.firing? f.adm = some g ∧ g.handles f 8 w.addr ∧ (∀ y ∈ v.retry, y.adm ≠ f.adm) ∧ v.mem = s.mem := by
  obtain ⟨g, hg⟩ := State.trapFiring_handled hc (t := Trap.pending { c := .fewait, sub := 0, val := w.addr }) rfl
  refine ⟨s.trapFiring f.adm (Trap.pending { c := .fewait, sub := 0, val := w.addr }), g, ?_, hg.firing, fewait_tc ▸ hg.handles, hg.retry, hg.mem⟩
  have hfind : (s.retry.find? fun w => w.adm == f.adm && w.peer.isNone) = some w := by
    have hboth := List.find?_filter (xs := s.retry) (p := fun w => w.adm == f.adm) (q := fun w : FeWait => w.peer.isNone)
    rw [hw, List.find?_cons_of_pos (p := fun w : FeWait => w.peer.isNone) (by simp [hp])] at hboth
    rw [hboth]
    exact congrArg (fun p => s.retry.find? p) (funext fun w => by rw [Bool.decide_and, Bool.decide_coe, Bool.decide_coe])
  show execFeWithdrawal s = _
  rw [execFeWithdrawal, State.feWaiting, ha, hfind]

theorem feWithdrawal_served (hc : s.canHandle f) (ha : s.ev.a = f.adm) (hr : ∀ w ∈ s.retry, w.adm ≠ f.adm) (hw : f.wait ≠ some .resend) :
    exec .feWithdrawal s = .next s := by
  obtain ⟨hf, -⟩ := hc
  have hfind : (s.retry.find? fun w => w.adm == f.adm && w.peer.isNone) = none :=
    List.find?_eq_none.mpr fun w hm => by simp [hr w hm]
  have hnone : s.feWaiting f.adm = none := by
    rw [State.feWaiting, hfind]
    dsimp only
    rw [hf]
    dsimp only [Option.bind]
    split
    next h => exact absurd h hw
    · rfl
  show execFeWithdrawal s = _
  rw [execFeWithdrawal, ha, hnone]

theorem feResend_again (hc : s.canHandle f) (ha : s.ev.a = f.adm) (hw : f.wait = some .resend) :
    ∃ v g, exec .feResend s = .next v ∧ v.firing? f.adm = some g ∧ g = { f with wait := none } ∧ v.mem = s.mem := by
  obtain ⟨hf, -⟩ := hc
  refine ⟨s.onFiring f.adm fun f => if f.wait = some .resend then { f with wait := none } else f, _, ?_,
    State.firing?_onFiring hf (fun x => by split_ifs <;> rfl) (fun x => by split_ifs <;> rfl), if_pos hw, ?_⟩
  · show execFeResend s = _
    rw [execFeResend, ha]
  · exact State.refocused_mem (State.onFiring_refocused s f.adm _)

theorem setBit_fifteen (w : Word) : setBit w 15 true = w ||| 0x8000#64 := by
  refine BitVec.eq_of_getLsbD_eq fun i hi => ?_
  have hbit : (0x8000#64).getLsbD i = decide (i = 15) := by
    rw [show (0x8000#64) = BitVec.twoPow 64 15 from rfl, BitVec.getLsbD_twoPow]
    simp [eq_comm]
  rw [setBit_getLsbD (by decide), BitVec.getLsbD_or, hbit]
  by_cases h : i = 15 <;> simp [h]

/-- A firing after its report r has been taken. -/
def Firing.taken (r : Report) (f : Firing) : Firing := { f with reports := f.reports.erase r, replost := false }

theorem Firing.mayReport_of {r : Report} (hl : f.live = true) (hdue : f.reportDue = some r) (hrun : f.run = .running) (hg : f.granted = false)
    (hd : f.data = []) (hw : (f.wait = none ∧ f.pends = []) ∨
      (∃ w ∈ [Wait.markers, .acks, .posted, .engines, .array, .fullEmpty], f.wait = some w) ∨ ∃ n, f.wait = some (.queue n false)) :
    f.mayReport = true := by
  have hmay : f.mayReport = match f.wait with
      | none => f.pends.isEmpty
      | some w => w.abandoned := by
    unfold Firing.mayReport Firing.active
    rw [hl, hdue, hrun, hg, hd]
    rfl
  rw [hmay]
  rcases hw with ⟨hn, hp⟩ | ⟨w, hin, hw⟩ | ⟨n, hw⟩
  · rw [hn, hp]; rfl
  · rw [hw]
    simp only [List.mem_cons, List.not_mem_nil, or_false] at hin
    rcases hin with rfl | rfl | rfl | rfl | rfl | rfl <;> rfl
  · rw [hw]; rfl

theorem asyncReport_handled (hc : s.canHandle f) (ha : s.ev.a = f.adm) {r : Report} {rs : List Report} (hr : f.reports = r :: rs)
    (hrun : f.run = .running) (hg : f.granted = false) (hd : f.data = [])
    (hw : (f.wait = none ∧ f.pends = []) ∨ (∃ w ∈ [Wait.markers, .acks, .posted, .engines, .array, .fullEmpty], f.wait = some w) ∨
      ∃ n, f.wait = some (.queue n false)) :
    ∃ v g, exec .asyncReportTake s = .next v ∧ v.firing? f.adm = some g ∧
      g.handles f (if f.replost then r.tc ||| 0x8000#64 else r.tc) r.val ∧ g.reports = rs ∧ g.replost = false ∧ v.mem = s.mem := by
  obtain ⟨hf, hl, hv, hi, hgang, hn⟩ := hc
  have hdue : f.reportDue = some r := by
    have htrap : f.intrap = false := hi
    rw [Firing.reportDue, htrap, hr]
    rfl
  have hrest := s.onFiring_refocused f.adm (Firing.taken r)
  have hu := State.firing?_onFiring hf (k := Firing.taken r) (fun _ => rfl) fun _ => rfl
  have hadms := s.onFiring_firings_adm f.adm (k := Firing.taken r) (fun _ => rfl) fun _ => rfl
  have hcan : (s.onFiring f.adm (Firing.taken r)).canHandle (f.taken r) :=
    ⟨hu, hl, hv, hi, by rw [State.refocused_gangs hrest]; exact hgang, by rw [hadms]; exact hn⟩
  obtain ⟨g, h⟩ := State.trapFiring_handled hcan (t := { user := true, tc := if f.replost then setBit r.tc 15 true else r.tc, val := r.val }) rfl
  have hhandles := Firing.handles_congr (f' := f) h.handles rfl rfl rfl rfl rfl rfl rfl
  rw [setBit_fifteen] at hhandles
  refine ⟨_, g, ?_, h.firing, hhandles, ?_, h.lost, h.mem.trans (State.refocused_mem hrest)⟩
  · show execAsyncReportTake s = _
    rw [execAsyncReportTake, ha, hf]
    dsimp only
    rw [hdue]
    exact if_pos (Firing.mayReport_of hl hdue hrun hg hd hw)
  · rw [h.reports, Firing.taken, hr, List.erase_cons_head]

theorem laneFault_reported (hc : s.canHandle f) (ha : s.ev.a = f.adm) :
    ∃ v g, exec .vectorBankLaneFault s = .next v ∧ v.firing? f.adm = some g ∧ v.free = s.free + 1 ∧
      (f.reports.length < 16 → g.reports = f.reports ++ [{ tc := BitVec.ofNat 64 (2 ^ 63 + 16), val := Config.dword s.free, own := f.intrap }]) ∧
      g = { f with reports := g.reports, replost := g.replost } ∧ v.mem = s.mem := by
  obtain ⟨hf, -⟩ := hc
  have hrest := State.onFiring_refocused { s with free := s.free + 1 } f.adm fun f => f.report 16 (Config.dword s.free) f.intrap
  have hfiring := State.firing?_onFiring (s := { s with free := s.free + 1 }) hf (k := fun f => f.report 16 (Config.dword s.free) f.intrap)
    (fun x => by unfold Firing.report; split_ifs <;> rfl) fun x => by unfold Firing.report; split_ifs <;> rfl
  refine ⟨_, f.report 16 (Config.dword s.free) f.intrap, ?_, hfiring, ?_, fun h => ?_, ?_, ?_⟩
  · show execVectorBankLaneFault s = _
    rw [execVectorBankLaneFault, ha]
    rfl
  · rw [State.refocused] at hrest
    rw [hrest]
  · rw [Firing.report, if_pos h]
    rfl
  · unfold Firing.report
    split_ifs <;> rfl
  · exact State.refocused_mem (s := { s with free := s.free + 1 }) hrest

/-! ### Kept records -/

theorem read_writeDwords {m : Mem} (hm : m.wf = true) (a : Nat) {ws : List Word} {i : Nat} {w : Word} (h : ws[i]? = some w) :
    (writeDwords m a ws).read (a + 8 * i) 8 = w.toNat := by
  induction ws generalizing m a i with
  | nil => simp at h
  | cons x ws ih =>
    have hx := Mem.wf_write hm a 8 x.toNat
    rw [writeDwords]
    cases i with
    | zero =>
      obtain rfl : x = w := by simpa using h
      rw [Mem.read_congr fun k hk hk8 => writeDwords_get_other hx ws (.inl (by omega))]
      rw [Nat.mul_zero, Nat.add_zero, Mem.read_write hm, Nat.mod_eq_of_lt (lt_of_lt_of_eq x.isLt (by norm_num))]
    | succ i =>
      have := ih hx (a + 8) (i := i) (by simpa using h)
      rw [← this]
      congr 1
      omega

theorem State.ringPut_ringHas (hw : s.mem.wf = true) (p : Fin 16) (recd : List Word) : (s.ringPut p recd).ringHas s p recd := by
  have hparts := s.ringPut_parts_self p recd
  unfold State.ringHas
  rw [hparts, State.ringPut_mem, bits_low32]
  exact ⟨rfl, rfl, fun i w h => read_writeDwords hw _ h, fun k hk => writeDwords_get_other hw recd hk⟩

theorem State.ringHas_congr {u v : State} {p : Fin 16} {recd : List Word} (h : u.ringHas s p recd) (ht : v.parts[p].trtail = u.parts[p].trtail)
    (hh : v.parts[p].trhead = u.parts[p].trhead) (hm : v.mem = u.mem) : v.ringHas s p recd := by
  unfold State.ringHas at *
  rw [ht, hh, hm]
  exact h

end

theorem trapRecord_full {s : State} {f : Firing} {recd : List Word} (ha : s.ev.a = f.adm) (hf : s.firing? f.adm = some f)
    (hr : f.run = .stopped none recd) (h : s.parts[f.part].ringFull = true) : exec .trapRecordAppend s = .next s := by
  show execTrapRecordAppend s = _
  rw [execTrapRecordAppend, ha, hf]
  dsimp only
  rw [hr]
  exact if_pos h

theorem trapRecord_enters {s : State} {f : Firing} {recd : List Word} (ha : s.ev.a = f.adm) (hf : s.firing? f.adm = some f)
    (hr : f.run = .stopped none recd) (hw : s.mem.wf = true) (h : s.parts[f.part].ringFull = false) :
    ∃ v g, exec .trapRecordAppend s = .next v ∧ v.ringHas s f.part recd ∧ v.firing? f.adm = some g ∧
      g = { f with run := .stopped (some (s.parts[f.part].trtail.toNat % 2 ^ 32)) recd } := by
  have hrest := (s.ringPut f.part recd).onFiring_refocused f.adm fun f => { f with run := .stopped (some (bits s.parts[f.part].trtail 31 0)) recd }
  refine ⟨(s.ringPut f.part recd).onFiring f.adm fun x => { x with run := .stopped (some (bits s.parts[f.part].trtail 31 0)) recd },
    { f with run := .stopped (some (bits s.parts[f.part].trtail 31 0)) recd }, ?_, ?_, ?_, by rw [bits_low32]⟩
  · show execTrapRecordAppend s = _
    rw [execTrapRecordAppend, ha, hf]
    dsimp only
    rw [hr]
    exact if_neg (by rw [h]; exact Bool.false_ne_true)
  · have hput := State.ringPut_ringHas hw f.part recd
    have hrest := (s.ringPut f.part recd).onFiring_refocused f.adm fun x =>
      { x with run := .stopped (some (bits s.parts[f.part].trtail 31 0)) recd }
    have hparts := State.refocused_parts hrest
    exact State.ringHas_congr hput (by rw [hparts]) (by rw [hparts]) (State.refocused_mem hrest)
  · exact State.firing?_onFiring (s := s.ringPut f.part recd) hf (fun _ => rfl) fun _ => rfl

section
variable {s : State} {p : Fin 16} {r : List Word} {rs : List (List Word)}

/-- ERROR_LOG_APPEND at a partition (R401). -/
theorem exec_errorLogAppend_at (ha : s.ev.a = p.val) : exec .errorLogAppend s =
    if s.parts[p].ringFull then .next s
    else match s.parts[p].errs, s.parts[p].machs with
      | r :: rs, _ => .next ((s.ringPut p r).onPart p fun x => { x with errs := rs })
      | [], r :: rs => .next ((s.ringPut p r).onPart p fun x => { x with machs := rs })
      | [], [] => .next s := by
  obtain rfl : partNo s.ev.a = p := by rw [ha, partNo_val]
  rfl

theorem State.onPart_parts_self (u : State) (g : Part → Part) : (u.onPart p g).parts[p] = g u.parts[p] := Vector.getElem_set_self _

/-- A record moved from a store into the ring. -/
theorem State.ringHas_onPart (hw : s.mem.wf = true) (r : List Word) {g : Part → Part} (ht : ∀ x, (g x).trtail = x.trtail)
    (hh : ∀ x, (g x).trhead = x.trhead) : ((s.ringPut p r).onPart p g).ringHas s p r := by
  have hself := State.onPart_parts_self (s.ringPut p r) (p := p) g
  exact State.ringHas_congr (State.ringPut_ringHas hw p r) (by rw [hself, ht]) (by rw [hself, hh]) rfl

theorem errorLog_errs (ha : s.ev.a = p.val) (hw : s.mem.wf = true) (h : s.parts[p].ringFull = false) (he : s.parts[p].errs = r :: rs) :
    ∃ v, exec .errorLogAppend s = .next v ∧ v.ringHas s p r ∧ v.parts[p].errs = rs ∧ v.parts[p].machs = s.parts[p].machs := by
  have hself := State.onPart_parts_self (s.ringPut p r) (p := p) fun x => { x with errs := rs }
  refine ⟨(s.ringPut p r).onPart p fun x => { x with errs := rs }, ?_, State.ringHas_onPart hw r (fun _ => rfl) fun _ => rfl, by rw [hself], ?_⟩
  · rw [exec_errorLogAppend_at ha, h, he]
    rfl
  · rw [hself, State.ringPut_parts_self]

theorem errorLog_machs (ha : s.ev.a = p.val) (hw : s.mem.wf = true) (h : s.parts[p].ringFull = false) (he : s.parts[p].errs = [])
    (hm : s.parts[p].machs = r :: rs) :
    ∃ v, exec .errorLogAppend s = .next v ∧ v.ringHas s p r ∧ v.parts[p].errs = [] ∧ v.parts[p].machs = rs := by
  have hself := State.onPart_parts_self (s.ringPut p r) (p := p) fun x => { x with machs := rs }
  refine ⟨(s.ringPut p r).onPart p fun x => { x with machs := rs }, ?_, State.ringHas_onPart hw r (fun _ => rfl) fun _ => rfl, ?_, by rw [hself]⟩
  · rw [exec_errorLogAppend_at ha, h, he, hm]
    rfl
  · rw [hself, State.ringPut_parts_self, he]

end

/-- Settles O48: what a delivered trap leaves of the firing, found by its number, and of the machine; and what a record in the ring leaves. -/
theorem waitsAndReports : Obligations.WaitsAndReports := by
  unfold Obligations.WaitsAndReports
  refine ⟨fun s f hc ha => ?_, fun s f recd ha hf hr hlen hw => ?_, fun s p r rs ha hlen hw => ?_⟩
  · have hf := hc.1
    refine ⟨fun w n hw hq => qstall_handled hc ha hw (qstallVal_eq hq), fun hw hno => ?_, fun hw hyes => ?_, fun hw => ?_, fun q hw hp hfe => ?_,
      fun w hw hp => feWithdrawal_handled hc ha hw hp, fun hr hw => feWithdrawal_served hc ha hr hw, fun hw => feResend_again hc ha hw,
      fun r rs hr hrun hg hd hw => asyncReport_handled hc ha hr hrun hg hd hw, laneFault_reported hc ha⟩
    · have hheld : s.logHeld f.adm = false := by
        rw [Bool.eq_false_iff, Ne, State.logHeld_iff]
        rintro ⟨w, hin, hadm, hpeer, hyes⟩
        rw [hno w hin hadm hpeer] at hyes
        cases hyes
      rw [execFewaitExpiry_of hf ha, hw]
      dsimp only
      rw [hheld]
      rfl
    · rw [execFewaitExpiry_of hf ha, hw]
      dsimp only
      rw [State.logHeld_iff.mpr hyes]
      rfl
    · rw [execFewaitExpiry_of hf ha, hw]
      rfl
    · obtain ⟨g, seq, hfiring, hg, hmem, hsent⟩ := withdrawFar_asked hc hp hfe
      refine ⟨s.withdrawFar f.adm, g, seq, ?_, hfiring, hg, hmem, hsent⟩
      rw [execFewaitExpiry_of hf ha, hw]
  · exact ⟨fun h => trapRecord_full ha hf hr h, fun h => trapRecord_enters ha hf hr hw h⟩
  · refine ⟨fun h => ?_, fun h he => errorLog_errs ha hw h he, fun h he hm => errorLog_machs ha hw h he hm⟩
    rw [exec_errorLogAppend_at ha, h]
    rfl

end Sys2Proof.Machine
end

section
/-! SUPPORT. Integer elements of n bits (R52, R280). -/

namespace Sys2Proof.Machine

section
variable {n : Nat}

theorem toBits_eq (z : Int) : toBits n z = (BitVec.ofInt n z).toNat := by
  rw [toBits, BitVec.toNat_ofInt]
  norm_cast

theorem intOf_false (x : BitVec n) : intOf false n x.toNat = x.toNat := by
  rw [intOf, Nat.mod_eq_of_lt x.isLt]
  rfl

theorem intOf_true (hn : 0 < n) (x : BitVec n) : intOf true n x.toNat = x.toInt := by
  have hx := x.isLt
  have hpow : 2 * 2 ^ (n - 1) = 2 ^ n := by rw [← pow_succ', Nat.sub_add_cancel hn]
  rw [intOf, Nat.mod_eq_of_lt hx, BitVec.toInt_eq_toNat_cond]
  by_cases h : 2 ^ (n - 1) ≤ x.toNat
  · rw [if_pos (by simpa using h), if_neg (by omega)]; norm_cast
  · rw [if_neg (by simpa using h), if_pos (by omega)]

/-- What an integer operation of the model makes of two elements is what the rule makes of them as bit vectors. -/
def elementOp (h : Nat → Nat → Nat → Nat) (g : (n : Nat) → BitVec n → BitVec n → BitVec n) : Prop :=
  ∀ n, 0 < n → ∀ x y : BitVec n, h n x.toNat y.toNat % 2 ^ n = (g n x y).toNat

theorem toNat_mod (x : BitVec n) : x.toNat % 2 ^ n = x.toNat := Nat.mod_eq_of_lt x.isLt

theorem elementOp_add : elementOp iAdd fun _ x y => x + y := fun n _ x y => by
  rw [iAdd, Nat.mod_mod, BitVec.toNat_add]

theorem elementOp_sub : elementOp iSub fun _ x y => x - y := fun n _ x y => by
  rw [iSub, toBits_eq, toNat_mod, Int.sub_eq_add_neg, BitVec.ofInt_add, BitVec.ofInt_neg, BitVec.ofInt_natCast, BitVec.ofInt_natCast,
    BitVec.ofNat_toNat, BitVec.ofNat_toNat, BitVec.setWidth_eq, BitVec.setWidth_eq, ← BitVec.sub_eq_add_neg]

theorem elementOp_mul : elementOp iMul fun _ x y => x * y := fun n _ x y => by
  rw [iMul, Nat.mod_mod, BitVec.toNat_mul]

/-- The upper half of a remainder modulo a square. -/
theorem emod_mul_ediv {A : Int} (hA : 0 < A) (z : Int) : z % (A * A) / A = z / A % A := by
  have hsplit : z % (A * A) = A * (z / A % A) + z % A := by
    refine ((Int.ediv_emod_unique (by positivity)).mpr ⟨?_, ?_, ?_⟩ : z / (A * A) = z / A / A ∧ z % (A * A) = A * (z / A % A) + z % A).2
    · calc A * (z / A % A) + z % A + A * A * (z / A / A) = A * (z / A % A + A * (z / A / A)) + z % A := by ring
        _ = A * (z / A) + z % A := by rw [Int.emod_add_mul_ediv]
        _ = z := Int.mul_ediv_add_emod z A
    · have := Int.emod_nonneg (z / A) hA.ne'
      have := Int.emod_nonneg z hA.ne'
      positivity
    · have h1 := Int.emod_lt_of_pos (z / A) hA
      have h2 := Int.emod_lt_of_pos z hA
      nlinarith
  rw [hsplit, Int.add_comm, Int.add_mul_ediv_left _ _ hA.ne', Int.ediv_eq_zero_of_lt (Int.emod_nonneg z hA.ne') (Int.emod_lt_of_pos z hA), zero_add]

/-- The upper half of a product, from the whole of it. -/
theorem upperHalf (z : Int) : (BitVec.ofInt (2 * n) z).extractLsb' n n = BitVec.ofInt n (z / 2 ^ n) := by
  have hpow : ((2 ^ (2 * n) : Nat) : Int) = 2 ^ n * 2 ^ n := by push_cast; rw [two_mul, pow_add]
  refine BitVec.eq_of_toNat_eq ?_
  rw [BitVec.extractLsb'_toNat, BitVec.toNat_ofInt, BitVec.toNat_ofInt, Nat.shiftRight_eq_div_pow, hpow]
  have hz := Int.emod_nonneg z (b := 2 ^ n * 2 ^ n) (by positivity)
  have hq := Int.emod_nonneg (z / 2 ^ n) (b := 2 ^ n) (by positivity)
  zify
  rw [Int.toNat_of_nonneg hz, Int.toNat_of_nonneg hq, emod_mul_ediv (by positivity), Int.emod_emod]

theorem elementOp_mulh (u : Bool) : elementOp (iMulh (!u)) fun n x y =>
    if u then (x.setWidth (2 * n) * y.setWidth (2 * n)).extractLsb' n n else (x.signExtend (2 * n) * y.signExtend (2 * n)).extractLsb' n n := by
  intro n hn x y
  rw [iMulh, toBits_eq, toNat_mod]
  dsimp only
  cases u with
  | true =>
    rw [Bool.not_true, intOf_false, intOf_false, if_pos rfl, ← upperHalf, BitVec.ofInt_mul, BitVec.ofInt_natCast, BitVec.ofInt_natCast,
      BitVec.ofNat_toNat, BitVec.ofNat_toNat]
  | false =>
    rw [Bool.not_false, intOf_true hn, intOf_true hn, if_neg Bool.false_ne_true, ← upperHalf, BitVec.ofInt_mul]
    rfl

theorem elementOp_and : elementOp (fun _ a b => a &&& b) fun _ x y => x &&& y := fun n _ x y =>
  (congrArg (· % 2 ^ n) (BitVec.toNat_and x y).symm).trans (toNat_mod _)

theorem elementOp_or : elementOp (fun _ a b => a ||| b) fun _ x y => x ||| y := fun n _ x y =>
  (congrArg (· % 2 ^ n) (BitVec.toNat_or x y).symm).trans (toNat_mod _)

theorem elementOp_xor : elementOp (fun _ a b => a ^^^ b) fun _ x y => x ^^^ y := fun n _ x y =>
  (congrArg (· % 2 ^ n) (BitVec.toNat_xor x y).symm).trans (toNat_mod _)

theorem elementOp_sll : elementOp iSll fun n x y => x <<< (y.toNat % n) := fun n _ x y => by
  rw [iSll, Nat.mod_mod, BitVec.toNat_shiftLeft, Nat.shiftLeft_eq]

theorem elementOp_srl : elementOp iSrl fun n x y => x >>> (y.toNat % n) := fun n _ x y => by
  rw [iSrl, ← Nat.shiftRight_eq_div_pow, ← BitVec.toNat_ushiftRight, toNat_mod]

theorem elementOp_sra : elementOp iSra fun n x y => x.sshiftRight (y.toNat % n) := fun n hn x y => by
  rw [iSra, toBits_eq, toNat_mod, intOf_true hn]
  have hshift := Int.shiftRight_eq_div_pow x.toInt (y.toNat % n)
  push_cast at hshift
  rw [← hshift]
  rfl

theorem elementOp_min (u : Bool) : elementOp (iMin (!u)) fun n x y =>
    if u then BitVec.ofNat n (min x.toNat y.toNat) else BitVec.ofInt n (min x.toInt y.toInt) := by
  intro n hn x y
  rw [iMin]
  dsimp only
  cases u with
  | true =>
    rw [Bool.not_true, intOf_false, intOf_false, if_pos rfl, BitVec.toNat_ofNat]
    congr 1
    split_ifs with h <;> omega
  | false =>
    rw [Bool.not_false, intOf_true hn, intOf_true hn, if_neg Bool.false_ne_true]
    split_ifs with h
    · rw [min_eq_right h.le, BitVec.ofInt_toInt, toNat_mod]
    · rw [min_eq_left (not_lt.mp h), BitVec.ofInt_toInt, toNat_mod]

theorem elementOp_max (u : Bool) : elementOp (iMax (!u)) fun n x y =>
    if u then BitVec.ofNat n (max x.toNat y.toNat) else BitVec.ofInt n (max x.toInt y.toInt) := by
  intro n hn x y
  rw [iMax]
  dsimp only
  cases u with
  | true =>
    rw [Bool.not_true, intOf_false, intOf_false, if_pos rfl, BitVec.toNat_ofNat]
    congr 1
    split_ifs with h <;> omega
  | false =>
    rw [Bool.not_false, intOf_true hn, intOf_true hn, if_neg Bool.false_ne_true]
    split_ifs with h
    · rw [max_eq_right h.le, BitVec.ofInt_toInt, toNat_mod]
    · rw [max_eq_left (not_lt.mp h), BitVec.ofInt_toInt, toNat_mod]

theorem clampInt_true (z : Int) : clampInt true n z = max (-2 ^ (n - 1)) (min (2 ^ (n - 1) - 1) z) := rfl

theorem clampInt_false (z : Int) : clampInt false n z = max 0 (min (2 ^ n - 1) z) := rfl

theorem elementOp_addSat (u : Bool) : elementOp (iAddSat (!u)) fun n x y =>
    if u then BitVec.ofNat n (min (x.toNat + y.toNat) (2 ^ n - 1))
    else BitVec.ofInt n (max (-2 ^ (n - 1)) (min (2 ^ (n - 1) - 1) (x.toInt + y.toInt))) := by
  intro n hn x y
  rw [iAddSat, toBits_eq, toNat_mod]
  dsimp only
  cases u with
  | true =>
    rw [Bool.not_true, intOf_false, intOf_false, if_pos rfl, clampInt_false, ← BitVec.ofInt_natCast]
    have := Nat.two_pow_pos n
    congr 2
    have hcast : ((min (x.toNat + y.toNat) (2 ^ n - 1) : Nat) : Int) = min ((x.toNat : Int) + y.toNat) (2 ^ n - 1) := by
      push_cast [Nat.cast_sub this]
      rfl
    rw [hcast, min_comm, max_eq_right]
    exact le_min (by positivity) (by have : (0 : Int) < 2 ^ n := by positivity
                                     omega)
  | false => rw [Bool.not_false, intOf_true hn, intOf_true hn, if_neg Bool.false_ne_true, clampInt_true]

theorem elementOp_subSat (u : Bool) : elementOp (iSubSat (!u)) fun n x y =>
    if u then BitVec.ofNat n (x.toNat - y.toNat)
    else BitVec.ofInt n (max (-2 ^ (n - 1)) (min (2 ^ (n - 1) - 1) (x.toInt - y.toInt))) := by
  intro n hn x y
  rw [iSubSat, toBits_eq, toNat_mod]
  dsimp only
  cases u with
  | true =>
    rw [Bool.not_true, intOf_false, intOf_false, if_pos rfl, clampInt_false, ← BitVec.ofInt_natCast]
    have hx := x.isLt
    congr 2
    zify at hx
    omega
  | false => rw [Bool.not_false, intOf_true hn, intOf_true hn, if_neg Bool.false_ne_true, clampInt_true]

theorem elementOp_popc : elementOp (fun n a _ => popBits n a) fun n x _ => BitVec.ofNat n ((List.range n).countP fun i => x.getLsbD i) :=
  fun n _ x _ => by
    rw [BitVec.toNat_ofNat]
    exact congrArg (· % 2 ^ n) (popBits_eq_countP n x.toNat)

end
end Sys2Proof.Machine
end

section
/-! SUPPORT. Packed vector results and their flags (R21, R273). -/

namespace Sys2Proof.Machine

theorem elem_lt {m : Nat} (r : BitVec m) (w e : Nat) : elem r w e < 2 ^ w := Nat.mod_lt _ (Nat.two_pow_pos w)

theorem elem_pack {m w e : Nat} (l : List Nat) (h : w * e + w ≤ m) : elem (pack m w l) w e = l.getD e 0 % 2 ^ w := by
  refine Nat.eq_of_testBit_eq fun j => ?_
  rw [Nat.testBit_mod_two_pow]
  by_cases hj : j < w
  · rw [elem_testBit hj, pack, BitVec.getLsbD_ofNat, packNat_testBit hj, decide_eq_true hj, decide_eq_true (by omega)]
  · rw [decide_eq_false hj, Bool.false_and]
    exact Nat.testBit_lt_two_pow (lt_of_lt_of_le (elem_lt _ w e) (Nat.pow_le_pow_right (by decide) (not_lt.mp hj)))

theorem foldl_orF_testBit (rs : List (Nat × Nat)) (a b : Nat) :
    (rs.foldl (fun a r => orF a r.2) a).testBit b = (a.testBit b || rs.any fun r => r.2.testBit b) := by
  induction rs generalizing a with
  | nil => simp
  | cons r rs ih => rw [List.foldl_cons, ih, orF, Nat.testBit_or, List.any_cons, Bool.or_assoc]

section
variable {w e : Nat} {k : Word} {old : Vec} {g : Nat → Nat × Nat}

theorem elem_vmap (h : w * e + w ≤ 2048) (hw : 0 < w) :
    elem (vmap w k old g).1 w e = if takesPart k w e then (g e).1 % 2 ^ w else elem old w e := by
  have he : e < 2048 / w := (Nat.le_div_iff_mul_le hw).mpr (by rw [Nat.succ_mul, Nat.mul_comm e]; exact h)
  rw [vmap, elem_pack _ h, List.getD_eq_getElem?_getD, List.map_map, List.getElem?_map, List.getElem?_range he]
  dsimp only [Option.map, Function.comp, Option.getD]
  rw [takesPart, bit]
  split_ifs
  · rfl
  · exact Nat.mod_eq_of_lt (elem_lt old w e)

theorem vmap_flags (b : Nat) : (vmap w k old g).2.testBit b = true ↔ ∃ e, e < 2048 / w ∧ takesPart k w e = true ∧ (g e).2.testBit b = true := by
  rw [vmap, foldl_orF_testBit, Nat.zero_testBit, Bool.false_or, List.any_eq_true]
  constructor
  · rintro ⟨r, hr, hb⟩
    obtain ⟨e, he, rfl⟩ := List.mem_map.mp hr
    by_cases hp : bit k (e * w / 32) = true
    · rw [if_pos hp] at hb
      exact ⟨e, List.mem_range.mp he, hp, hb⟩
    · rw [if_neg hp, Nat.zero_testBit] at hb
      cases hb
  · rintro ⟨e, he, hp, hb⟩
    exact ⟨_, List.mem_map.mpr ⟨e, List.mem_range.mpr he, rfl⟩, by rw [if_pos (show bit k (e * w / 32) = true from hp)]; exact hb⟩

end

section
variable (s : State) (d : BitVec 5) (r : Vec × Nat)

theorem Firing.advance_withVec (f : Firing) (v : Vector Vec 32) (w : Word) :
    ({ f with v := v, fflags := w } : Firing).advance = { f.advance with v := v, fflags := w } := by
  unfold Firing.advance Firing.clrRep Firing.repact Firing.repi Firing.repj
  dsimp only
  split_ifs <;> rfl

theorem Firing.rv_wv_same (f : Firing) (v : Vec) : (f.wv d v).rv d = v := Vector.getElem_set_self _

theorem Firing.rv_wv_ne (f : Firing) (v : Vec) {d x : BitVec 5} (h : x ≠ d) : (f.wv d v).rv x = f.rv x :=
  Vector.getElem_set_ne d.isLt x.isLt fun e => h (BitVec.eq_of_toNat_eq e.symm)

theorem State.vres_upd : (s.vres d r).upd Firing.advance = { s with fir :=
    { s.fir.advance with v := (s.fir.wv d r.1).v, fflags := s.fir.fflags ||| BitVec.ofNat 64 r.2 } } :=
  congrArg (fun f : Firing => ({ s with fir := f } : State))
    (s.fir.advance_withVec (s.fir.wv d r.1).v (s.fir.fflags ||| BitVec.ofNat 64 r.2))

theorem State.vres_rv : ((s.vres d r).upd Firing.advance).fir.rv d = r.1 := by
  rw [State.vres_upd]
  exact s.fir.rv_wv_same d r.1

theorem State.vres_done : ((s.vres d r).upd Firing.advance).fir.vectorDone s.fir d fun b => r.2.testBit b = true := by
  rw [State.vres_upd]
  refine ⟨rfl, fun x hx => s.fir.rv_wv_ne r.1 hx, fun b hb => ?_⟩
  dsimp only
  rw [BitVec.getLsbD_or, BitVec.getLsbD_ofNat, decide_eq_true hb, Bool.true_and, Bool.or_eq_true]

theorem Firing.vectorDone_congr {g f : Firing} {p q : Nat → Prop} (h : g.vectorDone f d p) (hpq : ∀ b, p b ↔ q b) : g.vectorDone f d q := by
  obtain ⟨h1, h2, h3⟩ := h
  exact ⟨h1, h2, fun b hb => (h3 b hb).trans (or_congr_right (hpq b))⟩

end
end Sys2Proof.Machine
end

section
/-! PROOF. Element-wise vector instructions (R273 to R285, R333). -/

namespace Sys2Proof.Machine

/-- Two results that leave the same element of width w and raise the same flags. -/
def sameLane (w : Nat) (a b : Nat × Nat) : Prop := a.1 % 2 ^ w = b.1 % 2 ^ w ∧ a.2 = b.2

theorem sameLane_refl (w : Nat) (a : Nat × Nat) : sameLane w a a := ⟨rfl, rfl⟩

/-- An outcome is the element-wise operation whose elements are g's. -/
def State.runsLanes (s : State) (i : Instr) (o : Host.Outcome State Fault Refusal) (w : Nat) (d : BitVec 5) (k : BitVec 3) (g : Nat → Nat × Nat) : Prop :=
  ∃ g' : State → Nat → Nat × Nat, o = vecOp i w d k g' s ∧ ∀ e, sameLane w (g' s e) (g e)

section
variable {s : State} {i : Instr}

/-- An element-wise operation leaves its elements in its register, its flags in fflags, and nothing else (R273). -/
theorem runsLanes_done {o : Host.Outcome State Fault Refusal} {w : Nat} {d : BitVec 5} {k : BitVec 3} {g : Nat → Nat × Nat} (hi : s.Issues i)
    (h : s.runsLanes i o w d k g) :
    ∃ t, o = .next t ∧ t.onlyFiring s ∧
      (∀ e, e < 2048 / w → elem (t.fir.rv d) w e = if takesPart (s.fir.rk k) w e then (g e).1 % 2 ^ w else elem (s.fir.rv d) w e) ∧
      t.fir.vectorDone s.fir d fun b => ∃ e, e < 2048 / w ∧ takesPart (s.fir.rk k) w e = true ∧ (g e).2.testBit b = true := by
  obtain ⟨g', rfl, hg⟩ := h
  refine ⟨(s.vres d (vmap w (s.fir.rk k) (s.fir.rv d) (g' s))).upd Firing.advance, ?_, rfl, fun e he => ?_, ?_⟩
  · rw [vecOp, plain_issues hi]
    rfl
  · have hw : 0 < w := Nat.pos_of_ne_zero fun h0 => by subst h0; simp at he
    have hroom : w * e + w ≤ 2048 := by
      have := (Nat.le_div_iff_mul_le hw).mp he
      rw [Nat.succ_mul, Nat.mul_comm] at this
      exact this
    rw [State.vres_rv, elem_vmap hroom hw, (hg e).1]
  · refine Firing.vectorDone_congr d (s.vres_done d _) fun b => ?_
    rw [vmap_flags]
    exact exists_congr fun e => by rw [(hg e).2]

theorem iwBits_eq (w : IW) : iwBits w = laneBits w := by cases w <;> rfl

theorem laneBits_pos (w : IW) : 0 < laneBits w := by cases w <;> decide

variable {h : Nat → Nat → Nat → Nat} {f : (n : Nat) → BitVec n → BitVec n → BitVec n}

theorem ofNat_ve (f : Firing) (n : Nat) (r : BitVec 5) (e : Nat) : (BitVec.ofNat n (f.ve n r e)).toNat = f.ve n r e :=
  (BitVec.toNat_ofNat _ _).trans (Nat.mod_eq_of_lt (elem_lt (f.rv r) n e))

/-- An integer operation of two vectors. -/
theorem vint3_lanes (hop : elementOp h f) (w : IW) (d a b : BitVec 5) (k : BitVec 3) : s.runsLanes i (vint3 i w d a b k h s) (laneBits w) d k fun e =>
    ((f (laneBits w) (BitVec.ofNat (laneBits w) (s.fir.ve (laneBits w) a e)) (BitVec.ofNat (laneBits w) (s.fir.ve (laneBits w) b e))).toNat, 0) := by
  refine ⟨fun s e => (h (laneBits w) (s.ve (laneBits w) a e) (s.ve (laneBits w) b e), 0), ?_, fun e => ⟨?_, rfl⟩⟩
  · rw [vint3, iwBits_eq]
  · have := hop (laneBits w) (laneBits_pos w) (BitVec.ofNat (laneBits w) (s.fir.ve (laneBits w) a e))
      (BitVec.ofNat (laneBits w) (s.fir.ve (laneBits w) b e))
    rw [ofNat_ve, ofNat_ve] at this
    rw [toNat_mod]
    exact this

/-- An integer operation of a vector and a scalar register. -/
theorem vintx_lanes (hop : elementOp h f) (w : IW) (d a : BitVec 5) (x : BitVec 6) (k : BitVec 3) : s.runsLanes i (vintx i w d a x k h s) (laneBits w) d k fun e =>
    ((f (laneBits w) (BitVec.ofNat (laneBits w) (s.fir.ve (laneBits w) a e)) ((s.fir.rx x).setWidth (laneBits w))).toNat, 0) := by
  refine ⟨fun s e => (h (laneBits w) (s.ve (laneBits w) a e) ((s.rx x).toNat % 2 ^ laneBits w), 0), ?_, fun e => ⟨?_, rfl⟩⟩
  · rw [vintx, iwBits_eq]
  · have := hop (laneBits w) (laneBits_pos w) (BitVec.ofNat (laneBits w) (s.fir.ve (laneBits w) a e)) ((s.fir.rx x).setWidth (laneBits w))
    rw [ofNat_ve, BitVec.toNat_setWidth] at this
    rw [toNat_mod]
    exact this

theorem vipopc_lanes (w : IW) (d a : BitVec 5) (k : BitVec 3) :
    s.runsLanes i (vecOp i (iwBits w) d k (fun s e => (popBits (iwBits w) (s.ve (iwBits w) a e), 0)) s) (laneBits w) d k fun e =>
      ((BitVec.ofNat (laneBits w) ((List.range (laneBits w)).countP fun j =>
        (BitVec.ofNat (laneBits w) (s.fir.ve (laneBits w) a e)).getLsbD j)).toNat, 0) := by
  refine ⟨fun s e => (popBits (laneBits w) (s.ve (laneBits w) a e), 0), by rw [iwBits_eq], fun e => ⟨?_, rfl⟩⟩
  have := elementOp_popc (laneBits w) (laneBits_pos w) (BitVec.ofNat (laneBits w) (s.fir.ve (laneBits w) a e)) 0
  rw [ofNat_ve] at this
  rw [toNat_mod]
  exact this

/-! ### Signs -/

theorem width_pred (F : Fmt) : F.width - 1 = F.ew + F.fw := by rw [Fmt.width]; omega

theorem two_pow_width (F : Fmt) : 2 ^ F.width = 2 * 2 ^ (F.ew + F.fw) := by rw [Fmt.width, show 1 + F.ew + F.fw = F.ew + F.fw + 1 by omega, pow_succ']

theorem fNeg_lane (F : Fmt) {x : Nat} (hx : x < 2 ^ F.width) : fNeg F x = (x + 2 ^ (F.width - 1)) % 2 ^ F.width := by
  rw [two_pow_width] at hx ⊢
  rw [width_pred, fNeg]
  have hpos := Nat.two_pow_pos (F.ew + F.fw)
  generalize 2 ^ (F.ew + F.fw) = m at *
  by_cases h : x < m
  · rw [Nat.div_eq_of_lt h, if_pos (by decide), Nat.mod_eq_of_lt (by omega)]
  · have hq : x / m = 1 := Nat.div_eq_of_lt_le (by omega) (by omega)
    rw [hq, if_neg (by decide), show x + m = x - m + 2 * m by omega, Nat.add_mod_right, Nat.mod_eq_of_lt (by omega)]

theorem withSign_lane (F : Fmt) (x : Nat) {y : Nat} (hy : y < 2 ^ F.width) :
    withSign F x (signOf F y) = x % 2 ^ (F.width - 1) + y / 2 ^ (F.width - 1) * 2 ^ (F.width - 1) := by
  rw [two_pow_width] at hy
  rw [width_pred, withSign, signOf, Fmt.signed, Nat.add_comm]
  have hpos := Nat.two_pow_pos (F.ew + F.fw)
  generalize 2 ^ (F.ew + F.fw) = m at *
  congr 1
  by_cases h : y < m
  · rw [Nat.div_eq_of_lt h]; simp
  · have hq : y / m = 1 := Nat.div_eq_of_lt_le (by omega) (by omega)
    rw [hq]; simp

end

/-- Every element-wise instruction is the one vector operation with its rule's elements. -/
theorem exec_vectorLane {s : State} {i : Instr} {w : Nat} {d : BitVec 5} {k : BitVec 3} {g : Nat → Nat × Nat}
    (h : vectorLane s.fir i = some (w, d, k, g)) : s.runsLanes i (exec i s) w d k g := by
  cases i with
  | viadd w u d a b k => cases h; rw [exec_viadd]; exact vint3_lanes elementOp_add w d a b k
  | visub w u d a b k => cases h; rw [exec_visub]; exact vint3_lanes elementOp_sub w d a b k
  | vimul w u d a b k => cases h; rw [exec_vimul]; exact vint3_lanes elementOp_mul w d a b k
  | vimulh w u d a b k => cases h; rw [exec_vimulh]; exact vint3_lanes (elementOp_mulh u) w d a b k
  | viand w u d a b k => cases h; rw [exec_viand]; exact vint3_lanes elementOp_and w d a b k
  | vior w u d a b k => cases h; rw [exec_vior]; exact vint3_lanes elementOp_or w d a b k
  | vixor w u d a b k => cases h; rw [exec_vixor]; exact vint3_lanes elementOp_xor w d a b k
  | visll w u d a b k => cases h; rw [exec_visll]; exact vint3_lanes elementOp_sll w d a b k
  | visrl w u d a b k => cases h; rw [exec_visrl]; exact vint3_lanes elementOp_srl w d a b k
  | visra w u d a b k => cases h; rw [exec_visra]; exact vint3_lanes elementOp_sra w d a b k
  | vimin w u d a b k => cases h; rw [exec_vimin]; exact vint3_lanes (elementOp_min u) w d a b k
  | vimax w u d a b k => cases h; rw [exec_vimax]; exact vint3_lanes (elementOp_max u) w d a b k
  | viaddSat w u d a b k => cases h; rw [exec_viaddSat]; exact vint3_lanes (elementOp_addSat u) w d a b k
  | visubSat w u d a b k => cases h; rw [exec_visubSat]; exact vint3_lanes (elementOp_subSat u) w d a b k
  | vipopc w u d a k => cases h; rw [exec_vipopc]; exact vipopc_lanes w d a k
  | viaddx w d b x k => cases h; rw [exec_viaddx]; exact vintx_lanes elementOp_add w d b x k
  | visubx w d b x k => cases h; rw [exec_visubx]; exact vintx_lanes elementOp_sub w d b x k
  | vimulx w d b x k => cases h; rw [exec_vimulx]; exact vintx_lanes elementOp_mul w d b x k
  | viandx w d b x k => cases h; rw [exec_viandx]; exact vintx_lanes elementOp_and w d b x k
  | viorx w d b x k => cases h; rw [exec_viorx]; exact vintx_lanes elementOp_or w d b x k
  | vixorx w d b x k => cases h; rw [exec_vixorx]; exact vintx_lanes elementOp_xor w d b x k
  | visllx w d b x k => cases h; rw [exec_visllx]; exact vintx_lanes elementOp_sll w d b x k
  | visrlx w d b x k => cases h; rw [exec_visrlx]; exact vintx_lanes elementOp_srl w d b x k
  | visrax w d b x k => cases h; rw [exec_visrax]; exact vintx_lanes elementOp_sra w d b x k
  | vadd y d a b k => cases h; exact ⟨_, exec_vadd y d a b k s, fun e => sameLane_refl _ _⟩
  | vsub y d a b k => cases h; exact ⟨_, exec_vsub y d a b k s, fun e => sameLane_refl _ _⟩
  | vmul y d a b k => cases h; exact ⟨_, exec_vmul y d a b k s, fun e => sameLane_refl _ _⟩
  | vdiv y d a b k => cases h; exact ⟨_, exec_vdiv y d a b k s, fun e => sameLane_refl _ _⟩
  | vmin y d a b k => cases h; exact ⟨_, exec_vmin y d a b k s, fun e => sameLane_refl _ _⟩
  | vmax y d a b k => cases h; exact ⟨_, exec_vmax y d a b k s, fun e => sameLane_refl _ _⟩
  | vabs y d a k => cases h; exact ⟨_, exec_vabs y d a k s, fun e => sameLane_refl _ _⟩
  | vneg y d a k => cases h; exact ⟨_, exec_vneg y d a k s, fun e => ⟨congrArg (· % 2 ^ (vfFmt y).width) (fNeg_lane (vfFmt y) (elem_lt _ _ e)), rfl⟩⟩
  | vsgnj y d a b k =>
    cases h
    exact ⟨_, exec_vsgnj y d a b k s, fun e => ⟨congrArg (· % 2 ^ (vfFmt y).width) (withSign_lane (vfFmt y) _ (elem_lt _ _ e)), rfl⟩⟩
  | vaddx y d a x k => cases h; exact ⟨_, exec_vaddx y d a x k s, fun e => sameLane_refl _ _⟩
  | vsubx y d a x k => cases h; exact ⟨_, exec_vsubx y d a x k s, fun e => sameLane_refl _ _⟩
  | vmulx y d a x k => cases h; exact ⟨_, exec_vmulx y d a x k s, fun e => sameLane_refl _ _⟩
  | vdivx y d a x k => cases h; exact ⟨_, exec_vdivx y d a x k s, fun e => sameLane_refl _ _⟩
  | vminx y d a x k => cases h; exact ⟨_, exec_vminx y d a x k s, fun e => sameLane_refl _ _⟩
  | vmaxx y d a x k => cases h; exact ⟨_, exec_vmaxx y d a x k s, fun e => sameLane_refl _ _⟩
  | vfmadd d a b c k => cases h; exact ⟨_, exec_vfmadd d a b c k s, fun e => sameLane_refl _ _⟩
  | vfmsub d a b c k => cases h; exact ⟨_, exec_vfmsub d a b c k s, fun e => sameLane_refl _ _⟩
  | vfnmadd d a b c k => cases h; exact ⟨_, exec_vfnmadd d a b c k s, fun e => sameLane_refl _ _⟩
  | vfnmsub d a b c k => cases h; exact ⟨_, exec_vfnmsub d a b c k s, fun e => sameLane_refl _ _⟩
  | vexp d a k => cases h; exact ⟨_, exec_vexp d a k s, fun e => sameLane_refl _ _⟩
  | vlog d a k => cases h; exact ⟨_, exec_vlog d a k s, fun e => sameLane_refl _ _⟩
  | vrcp d a k => cases h; exact ⟨_, exec_vrcp d a k s, fun e => sameLane_refl _ _⟩
  | vrsqrt d a k => cases h; exact ⟨_, exec_vrsqrt d a k s, fun e => sameLane_refl _ _⟩
  | vtanh d a k => cases h; exact ⟨_, exec_vtanh d a k s, fun e => sameLane_refl _ _⟩
  | vsqrt d a k => cases h; exact ⟨_, exec_vsqrt d a k s, fun e => sameLane_refl _ _⟩
  | vperm d a b k => cases h; exact ⟨_, exec_vperm d a b k s, fun e => sameLane_refl _ _⟩
  | vslideup d a n k =>
    cases h
    refine ⟨_, exec_vslideup d a n k s, fun e => ⟨?_, rfl⟩⟩
    dsimp only
    by_cases hn : e < n.toNat
    · rw [if_neg (by omega), if_pos hn]; rfl
    · rw [if_pos (by omega), if_neg hn]; rfl
  | vslidedn d a n k => cases h; exact ⟨_, exec_vslidedn d a n k s, fun e => sameLane_refl _ _⟩
  | vmov d a k => cases h; exact ⟨_, exec_vmov d a k s, fun e => sameLane_refl _ _⟩
  | vbcast w d x k =>
    cases h
    refine ⟨fun s _ => ((s.rx x).toNat, 0), ?_, fun e => ⟨(Nat.mod_mod _ _).symm, rfl⟩⟩
    rw [exec_vbcast, execVbcast, iwBits_eq]
  | vspdraw y d x k =>
    cases y with
    | w32 => cases h; exact ⟨_, exec_vspdraw .w32 d x k s, fun e => sameLane_refl _ _⟩
    | w64 => cases h; exact ⟨_, exec_vspdraw .w64 d x k s, fun e => ⟨Nat.mod_mod _ _, rfl⟩⟩
  | vspuni y d x k =>
    cases y with
    | w32 => cases h; exact ⟨_, exec_vspuni .w32 d x k s, fun e => sameLane_refl _ _⟩
    | w64 => cases h; exact ⟨_, exec_vspuni .w64 d x k s, fun e => sameLane_refl _ _⟩
  | vspexp y d x k =>
    cases y with
    | w32 => cases h; exact ⟨_, exec_vspexp .w32 d x k s, fun e => sameLane_refl _ _⟩
    | w64 => cases h; exact ⟨_, exec_vspexp .w64 d x k s, fun e => sameLane_refl _ _⟩
  | vgumb d a x k => cases h; exact ⟨_, exec_vgumb d a x k s, fun e => sameLane_refl _ _⟩
  | _ => cases h

/-- Settles O31: every element-wise instruction is one operation over its elements. -/
theorem vectorElements : Obligations.VectorElements := by
  unfold Obligations.VectorElements
  exact fun s i w d k g hi h => runsLanes_done hi (exec_vectorLane h)

end Sys2Proof.Machine
end

section
/-! PROOF. Vector compares and mask instructions (R282, R283, R285). -/

namespace Sys2Proof.Machine

section
variable {s : State}

theorem maskOp_issues {i : Instr} (hi : s.Issues i) (d : BitVec 3) (g : Firing → Word) :
    maskOp i d g s = .next ((s.wk d (g s.fir)).upd Firing.advance) := by
  rw [maskOp, plain_issues hi, finish_done]

/-- The low bits that KSET sets (R285). -/
theorem kset_value (n : Nat) : BitVec.ofNat 64 (2 ^ Nat.min n 64 - 1) = if 64 ≤ n then BitVec.allOnes 64 else (1#64 <<< n) - 1#64 := by
  have hmin : Nat.min n 64 = min n 64 := rfl
  rw [hmin]
  split_ifs with h
  · rw [min_eq_right h]; rfl
  · rw [min_eq_left (by omega)]
    refine BitVec.eq_of_getLsbD_eq fun i hi => ?_
    rw [← BitVec.ofNat_sub_ofNat_of_le _ _ (by decide) Nat.one_le_two_pow]
    congr 2
    refine BitVec.eq_of_toNat_eq ?_
    simp [Nat.shiftLeft_eq]

theorem exec_maskResult {i : Instr} {d : BitVec 3} {v : Word} (hi : s.Issues i) (h : maskResult s.fir i = some (d, v)) :
    exec i s = .next ((s.wk d v).upd Firing.advance) := by
  cases i with
  | kand d a b => cases h; exact (exec_kand _ _ _ s).trans (maskOp_issues hi _ _)
  | kor d a b => cases h; exact (exec_kor _ _ _ s).trans (maskOp_issues hi _ _)
  | kxor d a b => cases h; exact (exec_kxor _ _ _ s).trans (maskOp_issues hi _ _)
  | knot d a => cases h; exact (exec_knot _ _ s).trans (maskOp_issues hi _ _)
  | kmov d a => cases h; exact (exec_kmov _ _ s).trans (maskOp_issues hi _ _)
  | kset d x =>
    cases h
    rw [exec_kset, execKset, plain_issues hi, kset_value, finish_done]
    rfl
  | _ => cases h

theorem exec_kpopc_counts {d : BitVec 6} {q : BitVec 3} (hi : s.Issues (.kpopc d q)) : exec (.kpopc d q) s =
    .next ((s.wx d (BitVec.ofNat 64 ((List.range 64).countP fun b => (s.fir.rk q).getLsbD b))).upd Firing.advance) := by
  rw [exec_kpopc, execKpopc, plain_issues hi, popBits_word, finish_done]

/-- The flags of a compare's elements. -/
theorem foldl_flags_testBit (p : Nat → Bool) (g : Nat → Nat) (l : List Nat) (a b : Nat) :
    (l.foldl (fun x i => if p i then orF x (g i) else x) a).testBit b = (a.testBit b || l.any fun i => p i && (g i).testBit b) := by
  induction l generalizing a with
  | nil => simp
  | cons i l ih =>
    rw [List.foldl_cons, ih, List.any_cons]
    cases p i with
    | true => simp [orF, Bool.or_assoc]
    | false => simp

/-- VCMP, lane by lane (R282). -/
theorem exec_vcmp_lanes {p : VPred} {t : CmpTy} {d : BitVec 3} {a b : BitVec 5} {k : BitVec 3} (hi : s.Issues (.vcmp p t d a b k)) :
    let w := (cmpNum t).1
    let out := fun e => numPred (cmpNum t).2 p (s.fir.ve w a e) (s.fir.ve w b e)
    ∃ v m fl, exec (.vcmp p t d a b k) s = .next (((s.wk d m).upd fun f => f.orFlags fl).upd Firing.advance) ∧
      v = m ∧ (∀ l, l < 64 → v.getLsbD l = if takesPart (s.fir.rk k) w (l * 32 / w) then (out (l * 32 / w)).1 else (s.fir.rk d).getLsbD l) ∧
      (∀ c, c < 64 → (fl.getLsbD c = true ↔ ∃ l, l < 64 ∧ takesPart (s.fir.rk k) w (l * 32 / w) = true ∧ (out (l * 32 / w)).2.testBit c = true)) := by
  intro w out
  let takes (l : Nat) : Bool := takesPart (s.fir.rk k) w (l * 32 / w)
  refine ⟨_, maskOf fun l => if takes l then (out (l * 32 / w)).1 else (s.fir.rk d).getLsbD l,
    BitVec.ofNat 64 ((List.range 64).foldl (fun x l => if takes l then orF x (out (l * 32 / w)).2 else x) 0), ?_, rfl,
    fun l hl => maskOf_getLsbD _ hl, fun c hc => ?_⟩
  · rw [exec_vcmp, execVcmp, plain_issues hi]
    rfl
  · rw [BitVec.getLsbD_ofNat, decide_eq_true hc, Bool.true_and, foldl_flags_testBit]
    simp [takes]

end

/-- Settles O32. -/
theorem masksAndCompares : Obligations.MasksAndCompares := by
  unfold Obligations.MasksAndCompares
  exact fun s => ⟨fun i d v hi h => exec_maskResult hi h, fun d q hi => exec_kpopc_counts hi, fun p t d a b k hi => exec_vcmp_lanes hi⟩

end Sys2Proof.Machine
end

section
/-! PROOF. Compress, insert, extract and the reductions (R64, R284 to R287). -/

namespace Sys2Proof.Machine

/-! ### Elements put in and taken out -/

theorem elem_setElem {m w e : Nat} (r : BitVec m) (j v : Nat) (h : w * e + w ≤ m) : elem (setElem r w j v) w e = if e = j then v % 2 ^ w else elem r w e := by
  refine Nat.eq_of_testBit_eq fun i => ?_
  by_cases hi : i < w
  · rw [elem_testBit hi, setElem_getLsbD r j v hi (by omega)]
    split_ifs
    · rw [Nat.testBit_mod_two_pow, decide_eq_true hi, Bool.true_and]
    · rw [elem_testBit hi]
  · have hhigh : ∀ x, x < 2 ^ w → x.testBit i = false := fun x hx =>
      Nat.testBit_lt_two_pow (lt_of_lt_of_le hx (Nat.pow_le_pow_right (by decide) (not_lt.mp hi)))
    rw [hhigh _ (elem_lt _ w e)]
    split_ifs
    · exact (hhigh _ (Nat.mod_lt _ (Nat.two_pow_pos w))).symm
    · exact (hhigh _ (elem_lt r w e)).symm

theorem elem_room {w e : Nat} (he : e < 2048 / w) : w * e + w ≤ 2048 := by
  have hw : 0 < w := Nat.pos_of_ne_zero fun h0 => by subst h0; simp at he
  have := (Nat.le_div_iff_mul_le hw).mp he
  rwa [Nat.succ_mul, Nat.mul_comm] at this

theorem extend_eq_ofInt (sg : Bool) (n v : Nat) : extend sg n v = BitVec.ofInt 64 (intOf sg (8 * n) v) := by
  rw [extend, intOf]
  split_ifs
  · rfl
  · exact (BitVec.ofInt_natCast _ _).symm

theorem intOf_ofNat (sg : Bool) (n v : Nat) : intOf sg n v = intOf sg n (BitVec.ofNat n v).toNat := by
  rw [intOf, intOf, BitVec.toNat_ofNat, Nat.mod_mod]

theorem extend_eq (sg : Bool) {n : Nat} (hn : 0 < n) (v : Nat) : extend sg n v =
    if sg then (BitVec.ofNat (8 * n) v).signExtend 64 else (BitVec.ofNat (8 * n) v).setWidth 64 := by
  rw [extend_eq_ofInt, intOf_ofNat]
  cases sg with
  | true => rw [if_pos rfl, intOf_true (by omega)]; rfl
  | false => rw [if_neg Bool.false_ne_true, intOf_false, BitVec.ofInt_natCast, BitVec.ofNat_toNat]

/-! ### The tree of R64 -/

section
variable {op : Nat → Nat → Nat × Nat} {n : Nat} {x : Nat → Nat}

theorem any_range_two (p : Nat → Bool) (h : Nat) : (List.range (h + h)).any p = (List.range h).any fun i => p i || p (i + h) := by
  rw [Bool.eq_iff_iff, List.any_eq_true, List.any_eq_true]
  constructor
  · rintro ⟨i, hi, hp⟩
    rw [List.mem_range] at hi
    by_cases hlow : i < h
    · exact ⟨i, List.mem_range.mpr hlow, by rw [hp]; rfl⟩
    · refine ⟨i - h, List.mem_range.mpr (by omega), ?_⟩
      rw [Nat.sub_add_cancel (by omega), hp, Bool.or_true]
  · rintro ⟨i, hi, hp⟩
    rw [List.mem_range] at hi
    rcases Bool.or_eq_true_iff.mp hp with hp | hp
    · exact ⟨i, List.mem_range.mpr (by omega), hp⟩
    · exact ⟨i + h, List.mem_range.mpr (by omega), hp⟩

theorem any_or_any {α : Type} (l : List α) (p q : α → Bool) : (l.any p || l.any q) = l.any fun i => p i || q i := by
  induction l with
  | nil => rfl
  | cons a l ih => rw [List.any_cons, List.any_cons, List.any_cons, ← ih]; ac_rfl

/-- Level j of the tree: its values, and every flag raised below it. -/
def treeRow (op : Nat → Nat → Nat × Nat) (n : Nat) (x : Nat → Nat) (j : Nat) (t : List Nat × Nat) : Prop :=
  t.1 = (List.range (2 ^ (n - j))).map (fun i => (treeNode op n x j i).1) ∧
    ∀ b, t.2.testBit b = (List.range (2 ^ (n - j))).any fun i => (treeNode op n x j i).2.testBit b

theorem treeLevel_row {j : Nat} (hj : j < n) {t : List Nat × Nat} (h : treeRow op n x j t) : treeRow op n x (j + 1) (treeLevel op t) := by
  obtain ⟨hv, hf⟩ := h
  have hhalf : 2 ^ (n - j) = 2 ^ (n - (j + 1)) + 2 ^ (n - (j + 1)) := by
    rw [← two_mul, ← pow_succ', show n - (j + 1) + 1 = n - j by omega]
  have hpair : (t.1.take (t.1.length / 2)).zipWith op (t.1.drop (t.1.length / 2)) = (List.range (2 ^ (n - (j + 1)))).map fun i =>
      op (treeNode op n x j i).1 (treeNode op n x j (i + 2 ^ (n - (j + 1)))).1 := by
    have hdiv (h : Nat) : (h + h) / 2 = h := by omega
    rw [hv, List.length_map, List.length_range, hhalf, hdiv]
    refine List.ext_getElem (by simp) fun i h1 h2 => ?_
    have hi : i < 2 ^ (n - (j + 1)) := by simpa using h2
    simp [Nat.add_comm]
  refine ⟨?_, fun b => ?_⟩
  · rw [treeLevel, hpair, List.map_map]
    refine List.map_congr_left fun i _ => ?_
    rw [treeNode, Nat.sub_sub, Nat.add_comm 1 j]
    rfl
  · rw [treeLevel, hpair, foldl_orF_testBit, hf, hhalf, any_range_two, List.any_map, any_or_any]
    refine congrArg (fun p => (List.range _).any p) (funext fun i => ?_)
    rw [treeNode, Nat.sub_sub, Nat.add_comm 1 j]
    simp [Bool.or_assoc]

theorem treeOf_node {j : Nat} (hj : j ≤ n) {t : List Nat × Nat} (h : treeRow op n x j t) : treeOf op (n - j) t = treeNode op n x n 0 := by
  induction hd : n - j generalizing j t with
  | zero =>
    obtain ⟨hv, hf⟩ := h
    obtain rfl : j = n := by omega
    rw [hd] at hv hf
    refine Prod.ext ?_ (Nat.eq_of_testBit_eq fun b => ?_)
    · show t.1.headD 0 = _
      rw [hv]
      rfl
    · show t.2.testBit b = _
      rw [hf]
      simp
  | succ d ih => exact ih (by omega) (treeLevel_row (by omega) h) (by omega)

theorem treeOf_map (op : Nat → Nat → Nat × Nat) (n : Nat) (x : Nat → Nat) : treeOf op n ((List.range (2 ^ n)).map x, 0) = treeNode op n x n 0 :=
  treeOf_node (Nat.zero_le n) ⟨rfl, fun b => by simp [treeNode]⟩

/-- The model's tree over the elements of a vector is the tree of R64. -/
theorem treeOf_reduced {F : Fmt} (hw : F.width = 32 ∨ F.width = 16) (op : Nat → Nat → Nat × Nat) (idle : Nat) (k : Word) (v : Vec) :
    treeOf op (if F.width = 32 then 6 else 7)
      ((List.range (2048 / F.width)).map fun e => if bit k (e * F.width / 32) then elem v F.width e else idle, 0) = reduced F op idle k v := by
  have hn : 2048 / F.width = 2 ^ (if F.width = 32 then 6 else 7) := by rcases hw with h | h <;> rw [h] <;> decide
  rw [hn, treeOf_map]
  rfl

end

section
variable {s : State} {d a : BitVec 5} {k : BitVec 3}

theorem exec_vcompress_packs (hi : s.Issues (.vcompress d a k)) : exec (.vcompress d a k) s =
    .next ((s.wv d (pack 2048 32 (((List.range 64).filter fun l => (s.fir.rk k).getLsbD l).map fun l => s.fir.ve 32 a l))).upd Firing.advance) := by
  rw [exec_vcompress, execVcompress, plain_issues hi, finish_done]
  rfl

/-- One vector register written, without a flag. -/
theorem State.wv_done (s : State) (d : BitVec 5) (v : Vec) : ((s.wv d v).upd Firing.advance).fir.vectorDone s.fir d (fun _ => False) ∧
    ((s.wv d v).upd Firing.advance).fir.rv d = v := by
  have hfir : ((s.wv d v).upd Firing.advance).fir = { s.fir.advance with v := (s.fir.wv d v).v, fflags := s.fir.fflags } :=
    s.fir.advance_withVec (s.fir.wv d v).v s.fir.fflags
  rw [hfir]
  exact ⟨⟨rfl, fun x hx => s.fir.rv_wv_ne v hx, fun b hb => by simp⟩, s.fir.rv_wv_same d v⟩

theorem exec_vins_puts {w : IW} {x : BitVec 6} {j : BitVec 5} (hi : s.Issues (.vins w d x j)) :
    ∃ t, exec (.vins w d x j) s = .next t ∧ t.onlyFiring s ∧ t.fir.vectorDone s.fir d (fun _ => False) ∧
      ∀ e, e < 2048 / laneBits w → elem (t.fir.rv d) (laneBits w) e =
        if e = j.toNat then (s.rx x).toNat % 2 ^ laneBits w else elem (s.fir.rv d) (laneBits w) e := by
  obtain ⟨hdone, hrv⟩ := s.wv_done d (setElem (s.fir.rv d) (laneBits w) j.toNat (s.rx x).toNat)
  refine ⟨(s.wv d (setElem (s.fir.rv d) (laneBits w) j.toNat (s.rx x).toNat)).upd Firing.advance, ?_, rfl, hdone, fun e he => by rw [hrv, elem_setElem _ _ _ (elem_room he)]⟩
  rw [exec_vins, execVins, plain_issues hi, iwBits_eq, finish_done]

theorem exec_vext_takes {w : IW} {u : Bool} {x : BitVec 6} {j : BitVec 5} (hi : s.Issues (.vext w u x a j)) : exec (.vext w u x a j) s =
    .next ((s.wx x (let v := BitVec.ofNat (laneBits w) (s.fir.ve (laneBits w) a j.toNat)
      if u then v.signExtend 64 else v.setWidth 64)).upd Firing.advance) := by
  have hbytes : 8 * (laneBits w / 8) = laneBits w := by cases w <;> rfl
  rw [exec_vext, execVext, plain_issues hi, iwBits_eq, extend_eq u (by cases w <;> decide), hbytes, finish_done]
  rfl

theorem reduce_sum {F : Fmt} (hw : F.width = 32 ∨ F.width = 16) (k : Word) (v : Vec) :
    reduce F 0 k v = reduced F (fAdd F Rnd.rne) (2 ^ (F.width - 1)) k v := by
  rw [width_pred]
  exact treeOf_reduced hw _ _ k v

theorem reduce_max {F : Fmt} (hw : F.width = 32 ∨ F.width = 16) (k : Word) (v : Vec) :
    reduce F 1 k v = reduced F (fMinMax F true) (2 ^ (F.width - 1) + F.infBits) k v := by
  rw [width_pred]
  exact treeOf_reduced hw _ _ k v

theorem reduce_min {F : Fmt} (hw : F.width = 32 ∨ F.width = 16) (k : Word) (v : Vec) :
    reduce F 2 k v = reduced F (fMinMax F false) F.infBits k v := treeOf_reduced hw _ _ k v

theorem rfFmt_width (y : RF) : (rfFmt y).width = 32 ∨ (rfFmt y).width = 16 := by cases y <;> decide

/-- A reduction instruction (R286). -/
theorem redOp_done {i : Instr} {y : RF} {op : Nat} {g : Nat → Nat → Nat × Nat} {z : Nat} (hi : s.Issues i)
    (hr : ∀ v, reduce (rfFmt y) op (s.fir.rk k) v = reduced (rfFmt y) g z (s.fir.rk k) v) :
    let r := reduced (rfFmt y) g z (s.fir.rk k) (s.fir.rv a)
    ∃ t, redOp i y op d a k s = .next t ∧ t.onlyFiring s ∧ t.fir.vectorDone s.fir d (fun b => r.2.testBit b = true) ∧
      elem (t.fir.rv d) (rfFmt y).width 0 = r.1 % 2 ^ (rfFmt y).width ∧
      ∀ e, 0 < e → e < 2048 / (rfFmt y).width → elem (t.fir.rv d) (rfFmt y).width e = elem (s.fir.rv d) (rfFmt y).width e := by
  intro r
  have hroom : (rfFmt y).width * 0 + (rfFmt y).width ≤ 2048 := by rcases rfFmt_width y with h | h <;> rw [h] <;> decide
  refine ⟨(s.vres d (setElem (s.fir.rv d) (rfFmt y).width 0 r.1, r.2)).upd Firing.advance, ?_, rfl, s.vres_done d (setElem (s.fir.rv d) (rfFmt y).width 0 r.1, r.2), ?_, fun e h0 he => ?_⟩
  · rw [redOp, plain_issues hi, hr, finish_done]
  · rw [State.vres_rv, elem_setElem _ _ _ hroom, if_pos rfl]
  · rw [State.vres_rv, elem_setElem _ _ _ (elem_room he), if_neg h0.ne']

theorem exec_reductionOf {i : Instr} {F : Fmt} {op : Nat → Nat → Nat × Nat} {z : Nat} (h : reductionOf i = some (F, d, a, k, op, z))
    (hi : s.Issues i) :
    let r := reduced F op z (s.fir.rk k) (s.fir.rv a)
    ∃ t, exec i s = .next t ∧ t.onlyFiring s ∧ t.fir.vectorDone s.fir d (fun b => r.2.testBit b = true) ∧
      elem (t.fir.rv d) F.width 0 = r.1 % 2 ^ F.width ∧ ∀ e, 0 < e → e < 2048 / F.width → elem (t.fir.rv d) F.width e = elem (s.fir.rv d) F.width e := by
  cases i with
  | vredsum y d a k => cases h; rw [exec_vredsum]; exact redOp_done hi fun v => reduce_sum (rfFmt_width y) _ v
  | vredmax y d a k => cases h; rw [exec_vredmax]; exact redOp_done hi fun v => reduce_max (rfFmt_width y) _ v
  | vredmin y d a k => cases h; rw [exec_vredmin]; exact redOp_done hi fun v => reduce_min (rfFmt_width y) _ v
  | _ => cases h


/-! ### VREDQ (R287) -/

variable {y : RF} {n : BitVec 4} {c : BitVec 6}

/-- A step of VREDQ: element 0 with the tree of the popped vector added, and one less to come. -/
def State.redStep (t : State) (F : Fmt) (d : BitVec 5) (c : BitVec 6) (r q : Nat × Nat) : State :=
  (t.vres d (setElem (t.fir.rv d) F.width 0 q.1, orF r.2 q.2)).wx c (t.rx c - 1)

theorem exec_vredq_idle (hi : s.Issues (.vredq y d n c k)) (hp : popIll n s = false) (hc : s.rx c = 0) :
    exec (.vredq y d n c k) s = .next (s.upd Firing.advance) := by
  rw [exec_vredq, execVredq, issue_issues hi hp rfl]
  dsimp only
  rw [if_pos hc, finish_done]

theorem exec_vredq_step (hi : s.Issues (.vredq y d n c k)) (hp : popIll n s = false) (hc : s.rx c ≠ 0) {t : State} {v : Vec}
    (ht : s.popQ n.toNat true = .ok (t, .vec v)) :
    let r := reduced (rfFmt y) (fAdd (rfFmt y) Rnd.rne) (2 ^ ((rfFmt y).width - 1)) (t.fir.rk k) v
    let q := fAdd (rfFmt y) Rnd.rne (elem (t.fir.rv d) (rfFmt y).width 0) r.1
    let u := t.redStep (rfFmt y) d c r q
    exec (.vredq y d n c k) s = .next (if u.rx c = 0 then u.upd Firing.advance else u.upd fun f => { f with wait := none, granted := false, aged := false }) := by
  intro r q u
  rw [exec_vredq, execVredq, issue_issues hi hp rfl]
  dsimp only
  rw [if_neg hc, ht, ok_bind]
  dsimp only
  rw [reduce_sum (rfFmt_width y)]
  show finish s (if u.rx c = 0 then Except.ok (Done.done u) else Except.ok (Done.stay _)) = _
  split_ifs
  · exact finish_done s u
  · rfl

/-- What a step of VREDQ leaves, however the firing goes on from it. -/
def State.reducedBy (w s : State) (n : Nat) (es : List QEntry) (F : Fmt) (d : BitVec 5) (c : BitVec 6) (fl : Nat) (val : Nat) : Prop :=
  w.queueView n = some es ∧ w.mem = s.mem ∧ w.rx c = s.rx c - 1 ∧ elem (w.fir.rv d) F.width 0 = val % 2 ^ F.width ∧
    (∀ e, 0 < e → e < 2048 / F.width → elem (w.fir.rv d) F.width e = elem (s.fir.rv d) F.width e) ∧
    w.fir.fflags = s.fir.fflags ||| BitVec.ofNat 64 fl ∧ (∀ x, x ≠ c → w.rx x = s.rx x) ∧ ∀ x, x ≠ d → w.fir.rv x = s.fir.rv x

theorem Firing.rx_congr {f g : Firing} (h : g.x = f.x) (x : BitVec 6) : g.rx x = f.rx x := by rw [Firing.rx, Firing.rx, h]

theorem Firing.rv_congr {f g : Firing} (h : g.v = f.v) (x : BitVec 5) : g.rv x = f.rv x := by rw [Firing.rv, Firing.rv, h]

theorem State.redStep_reducedBy {t : State} {es : List QEntry} {m : Nat} (ht : t.tookFrom s m es) (h12 : m < 12) (hc : c ≠ 0) (r q : Nat × Nat)
    {g : Firing → Firing} (hg : ∀ f : Firing, (g f).x = f.x ∧ (g f).v = f.v ∧ (g f).fflags = f.fflags ∧ (g f).core = f.core ∧
      (g f).part = f.part ∧ (g f).pairset = f.pairset ∧ (g f).q12 = f.q12 ∧ (g f).q13 = f.q13) :
    ((t.redStep (rfFmt y) d c r q).upd g).reducedBy s m es (rfFmt y) d c (r.2 ||| q.2) q.1 := by
  obtain ⟨hview, -, -, hfir, hmem, -⟩ := ht
  replace hfir := hfir h12
  have hroom : (rfFmt y).width * 0 + (rfFmt y).width ≤ 2048 := by rcases rfFmt_width y with h | h <;> rw [h] <;> decide
  have hstep : (t.redStep (rfFmt y) d c r q).fir =
      ((s.fir.wv d (setElem (s.fir.rv d) (rfFmt y).width 0 q.1)).orFlags (BitVec.ofNat 64 (r.2 ||| q.2))).wx c (s.rx c - 1) := by
    rw [State.rx, ← hfir]
    rfl
  obtain ⟨gx, gv, gfl, gcore, gpart, gpair, g12, g13⟩ := hg (t.redStep (rfFmt y) d c r q).fir
  generalize hu : t.redStep (rfFmt y) d c r q = u at *
  have hux : ∀ x, (u.upd g).rx x = u.fir.rx x := Firing.rx_congr gx
  have huv : ∀ x, (g u.fir).rv x = u.fir.rv x := Firing.rv_congr gv
  have hrv : ∀ x, u.fir.rv x = (s.fir.wv d (setElem (s.fir.rv d) (rfFmt y).width 0 q.1)).rv x := fun x => by
    rw [hstep]
    exact Firing.rv_congr (Firing.wx_v _ _ _) x
  have hcore : (u.upd g).fir.core = t.fir.core := by
    refine gcore.trans ?_
    rw [hstep, Firing.wx_core, hfir]
    rfl
  have hfr : (u.upd g).fr = t.fr := by
    have hfronds : u.fronds = t.fronds := by rw [← hu]; rfl
    have hfrond : (g u.fir).frond = t.fir.frond := by
      have : (g u.fir).core = t.fir.core := hcore
      simp only [Firing.frond, this]
    show u.fronds[(g u.fir).frond] = t.fronds[t.fir.frond]
    simp only [hfronds, hfrond]
  refine ⟨?_, ?_, ?_, ?_, fun e h0 he => ?_, ?_, fun x hx => ?_, fun x hx => ?_⟩
  · rw [← hview]
    refine State.queueView_congr hcore (gpart.trans ?_) (gpair.trans ?_) (g12.trans ?_) (g13.trans ?_) (by rw [hfr]) (by rw [hfr]) (by rw [← hu]; rfl) m
    all_goals
      rw [hstep, hfir]
      simp [Firing.orFlags, Firing.wv]
  · rw [← hmem, ← hu]
    rfl
  · rw [hux, hstep, Firing.rx_wx_self _ hc]
  · show elem ((g u.fir).rv d) _ 0 = _
    rw [huv, hrv, Firing.rv_wv_same, elem_setElem _ _ _ hroom, if_pos rfl]
  · show elem ((g u.fir).rv d) _ e = _
    rw [huv, hrv, Firing.rv_wv_same, elem_setElem _ _ _ (elem_room he), if_neg h0.ne']
  · show (g u.fir).fflags = _
    rw [gfl, hstep]
    simp [Firing.orFlags, Firing.wv]
  · rw [hux, hstep, Firing.rx_wx_other _ hx]
    rfl
  · show (g u.fir).rv x = _
    rw [huv, hrv, Firing.rv_wv_ne _ _ hx]

/-- Where a firing goes on depends on its address and its frame. -/
theorem Firing.advance_pc_congr {f g : Firing} (hpc : g.pc = f.pc) (hs : g.fstat = f.fstat) (hw : g.repw = f.repw) (hf : g.repf = f.repf) :
    g.advance.pc = f.advance.pc := by
  unfold Firing.advance Firing.clrRep Firing.repact Firing.repi Firing.repj
  dsimp only
  rw [hpc, hs, hw, hf]
  split_ifs <;> rfl

/-- VREDQ with an entry to take (R287). -/
theorem exec_vredq_takes (hi : s.Issues (.vredq y d n c k)) (hp : popIll n s = false) {v : Vec} {es : List QEntry} (hc : s.rx c ≠ 0)
    (hv : s.queueView n.toNat = some (.vec v :: es)) :
    let F := rfFmt y
    let r := reduced F (fAdd F Rnd.rne) (2 ^ (F.width - 1)) (s.fir.rk k) v
    let q := fAdd F Rnd.rne (elem (s.fir.rv d) F.width 0) r.1
    ∃ t, exec (.vredq y d n c k) s = .next t ∧ t.reducedBy s n.toNat es F d c (r.2 ||| q.2) q.1 ∧
      (s.rx c = 1 → t.fir.pc = s.fir.advance.pc) ∧ (s.rx c ≠ 1 → t.fir.pc = s.fir.pc ∧ t.fir.wait = none) := by
  intro F r q
  have hfields : (decide (n.toNat < 12) && c != 0) = true := Issues.fields hi
  rw [Bool.and_eq_true, decide_eq_true_eq, bne_iff_ne] at hfields
  obtain ⟨h12, hc0⟩ := hfields
  obtain ⟨t, hpop, htook⟩ := State.popQ_took (n := n.toNat) hv (by omega) (vec := true) rfl
  have hfir := htook.2.2.2.1 h12
  have hexec := exec_vredq_step hi hp hc hpop
  rw [hfir] at hexec
  have hstep := fun g hg => State.redStep_reducedBy (y := y) (d := d) htook h12 hc0 r q (g := g) hg
  have hfin : (t.redStep F d c r q).fir = ((s.fir.wv d (setElem (s.fir.rv d) F.width 0 q.1)).orFlags (BitVec.ofNat 64 (r.2 ||| q.2))).wx c (s.rx c - 1) := by
    rw [State.rx, ← hfir]
    rfl
  have hrx : (t.redStep F d c r q).rx c = s.rx c - 1 := by
    rw [State.rx, hfin, Firing.rx_wx_self _ hc0]
  have hone : s.rx c - 1 = 0 ↔ s.rx c = 1 := sub_eq_zero
  refine ⟨_, hexec, ?_, fun h1 => ?_, fun h1 => ?_⟩
  · split_ifs
    · exact hstep _ fun f => by simp
    · exact hstep _ fun f => ⟨rfl, rfl, rfl, rfl, rfl, rfl, rfl, rfl⟩
  · rw [if_pos (hrx.trans (hone.mpr h1))]
    show (t.redStep F d c r q).fir.advance.pc = _
    rw [hfin]
    exact Firing.advance_pc_congr (Firing.wx_pc _ _ _) (Firing.wx_fstat _ _ _) (Firing.wx_repw _ _ _) (Firing.wx_repf _ _ _)
  · rw [if_neg fun h => h1 (hone.mp (hrx.symm.trans h))]
    refine ⟨?_, rfl⟩
    show (t.redStep F d c r q).fir.pc = _
    rw [hfin]
    exact Firing.wx_pc _ _ _

end

/-- Settles O33. -/
theorem movesAndReductions : Obligations.MovesAndReductions := by
  unfold Obligations.MovesAndReductions
  refine fun s d a k => ⟨exec_vcompress_packs, fun w x j hi => exec_vins_puts hi, fun w u x j hi => exec_vext_takes hi,
    fun i F op z h hi => exec_reductionOf h hi, fun y n c hi hp => ⟨exec_vredq_idle hi hp, fun v es hc hv => ?_⟩⟩
  obtain ⟨t, hexec, ⟨h1, h2, h3, h4, h5, h6, h7, h8⟩, hlast, hmore⟩ := exec_vredq_takes hi hp hc hv
  exact ⟨t, hexec, h1, h2, h3, h4, h5, h6, h7, h8, hlast, hmore⟩

end Sys2Proof.Machine
end

section
/-! SUPPORT. An instruction that takes the pending prefix (R31, R288). -/

namespace Sys2Proof.Machine

theorem setBits_setBit_zero {hi lo : Nat} (hhi : hi < 64) (hlo : 0 < lo) (w : Word) (b : Bool) (v : Nat) :
    setBits (setBit w 0 b) hi lo v = setBit (setBits w hi lo v) 0 b := by
  refine BitVec.eq_of_getLsbD_eq fun i _ => ?_
  rw [setBits_getLsbD hhi, setBit_getLsbD (by decide), setBit_getLsbD (by decide), setBits_getLsbD hhi]
  by_cases h : i = 0
  · rw [if_pos h, if_neg (by omega), if_pos h]
  · rw [if_neg h, if_neg h]

theorem bit_setBit_zero {n : Nat} (hn : n ≠ 0) (w : Word) (b : Bool) : bit (setBit w 0 b) n = bit w n := by
  rw [bit, setBit_getLsbD (by decide), if_neg hn, bit]

/-- FPEND and the prefix play no part in where a firing goes on. -/
theorem Firing.advance_withPrefix (f : Firing) (p : BitVec 32) (b : Bool) :
    ({ f with pfx := p, fstat := setBit f.fstat 0 b } : Firing).advance = { f.advance with pfx := p, fstat := setBit f.advance.fstat 0 b } := by
  have hact : bit (setBit f.fstat 0 b) 23 = bit f.fstat 23 := bit_setBit_zero (by decide) _ _
  have hi : bits (setBit f.fstat 0 b) 22 19 = bits f.fstat 22 19 := bits_setBit_other (by decide) _ _ (.inl (by decide))
  have hj : bits (setBit f.fstat 0 b) 18 13 = bits f.fstat 18 13 := bits_setBit_other (by decide) _ _ (.inl (by decide))
  have h22 (w : Word) (v : Nat) : setBits (setBit w 0 b) 22 19 v = setBit (setBits w 22 19 v) 0 b := setBits_setBit_zero (by decide) (by decide) _ _ _
  have h18 (w : Word) (v : Nat) : setBits (setBit w 0 b) 18 13 v = setBit (setBits w 18 13 v) 0 b := setBits_setBit_zero (by decide) (by decide) _ _ _
  have h23 (w : Word) (v : Nat) : setBits (setBit w 0 b) 23 13 v = setBit (setBits w 23 13 v) 0 b := setBits_setBit_zero (by decide) (by decide) _ _ _
  unfold Firing.advance Firing.clrRep Firing.repact Firing.repi Firing.repj
  dsimp only
  rw [hact, hi, hj, h22, h22, h18, h23]
  split_ifs <;> rfl

theorem Firing.advance_clrPfx (f : Firing) : f.clrPfx.advance = f.advance.clrPfx := by
  have h := f.advance_withPrefix f.pfx false
  have hp : f.advance.pfx = f.pfx := Firing.advance_pfx f
  refine h.trans ?_
  rw [← hp]
  rfl

theorem Firing.fpend_clrPfx (f : Firing) : f.clrPfx.fpend = false := by
  rw [Firing.fpend, Firing.clrPfx, bit, setBit_getLsbD (by decide), if_pos rfl]

theorem Firing.clrPfx_clrPfx (f : Firing) : f.clrPfx.clrPfx = f.clrPfx := by
  have h : setBit (setBit f.fstat 0 false) 0 false = setBit f.fstat 0 false := by
    refine BitVec.eq_of_getLsbD_eq fun i _ => ?_
    rw [setBit_getLsbD (by decide)]
    split_ifs with hi
    · rw [setBit_getLsbD (by decide), if_pos hi]
    · rfl
  unfold Firing.clrPfx
  dsimp only
  rw [h]

section
variable {s : State} {i : Instr}

theorem prefixed_done {ok : Prefx → Bool} {body : State → Except Stop State} {t : State} (hi : s.IssuesPrefixed i) (hok : ok s.fir.fmt = true)
    (hb : body s = .ok t) : prefixed i ok body s = .next ((t.upd Firing.clrPfx).upd Firing.advance) := by
  obtain ⟨ha, hf, hk, hs, ho⟩ := hi
  rw [prefixed, issue_of_checks ha (.inr rfl) hk hs (by simp [hf, hok]) rfl ho, hb, ok_bind, finish_done]

theorem prefixed_unsuited {ok : Prefx → Bool} {body : State → Except Stop State} (hi : s.IssuesPrefixed i) (hok : ok s.fir.fmt = false) :
    prefixed i ok body s = .next (s.trapHere { c := .ill, sub := 0, val := BitVec.setWidth 64 (encode i) }) := by
  rw [prefixed, issue_ill hi.1 (by simp [hok])]
  rfl

theorem prefixed_without {ok : Prefx → Bool} {body : State → Except Stop State} (hi : s.Issues i) :
    prefixed i ok body s = .next (s.trapHere { c := .ill, sub := 0, val := BitVec.setWidth 64 (encode i) }) := by
  obtain ⟨ha, hf, -⟩ := hi
  rw [prefixed, issue_ill ha (by simp [hf])]
  rfl

/-- The state after a conversion that wrote one vector register (R288). -/
theorem State.converted (s : State) (d : BitVec 5) (r : Vec × Nat) :
    let v := ((s.vres d r).upd Firing.clrPfx).upd Firing.advance
    v.onlyFiring s ∧ v.fir.fpend = false ∧ v.fir.rv d = r.1 ∧ v.fir.clrPfx.vectorDone s.fir.clrPfx d fun b => r.2.testBit b = true := by
  intro v
  have hfir : v.fir = (((s.upd Firing.clrPfx).vres d r).upd Firing.advance).fir := rfl
  have hclr : v.fir = (((s.vres d r).upd Firing.advance).upd Firing.clrPfx).fir := Firing.advance_clrPfx _
  refine ⟨rfl, ?_, ?_, ?_⟩
  · rw [hclr]; exact Firing.fpend_clrPfx _
  · rw [hfir]; exact (s.upd Firing.clrPfx).vres_rv d r
  · have hsame : v.fir.clrPfx = v.fir := by rw [hclr]; exact Firing.clrPfx_clrPfx _
    rw [hsame, hfir]
    exact (s.upd Firing.clrPfx).vres_done d r

theorem State.wv_eq_vres (s : State) (d : BitVec 5) (v : Vec) : s.wv d v = s.vres d (v, 0) := by
  have h : s.fir.fflags ||| BitVec.ofNat 64 0 = s.fir.fflags := BitVec.or_zero
  have hfir : (s.fir.wv d v).orFlags (BitVec.ofNat 64 0) = s.fir.wv d v := by
    rw [Firing.orFlags, Firing.wv]
    dsimp only
    rw [h]
  exact congrArg (fun f : Firing => ({ s with fir := f } : State)) hfir.symm

/-- FMT (R31, R292). -/
theorem fmtClause {t u : ElemTy} {c : Bool} {x : BitVec 6} {p : BitVec 3} {z : Bool} (hi : s.Issues (.fmt t u c x p z)) :
    ∃ v, exec (.fmt t u c x p z) s = .next v ∧ v.onlyFiring s ∧ v.fir.pfx = encode (.fmt t u c x p z) ∧ v.fir.fpend = true ∧
      v.fir = { s.fir.advance with pfx := v.fir.pfx, fstat := v.fir.fstat } ∧
      (∀ b, 0 < b → b < 64 → v.fir.fstat.getLsbD b = s.fir.advance.fstat.getLsbD b) := by
  let v : State := (s.upd fun f => { f with pfx := encode (.fmt t u c x p z), fstat := setBit f.fstat 0 true }).upd Firing.advance
  have hfir : v.fir = { s.fir.advance with pfx := encode (.fmt t u c x p z), fstat := setBit s.fir.advance.fstat 0 true } :=
    s.fir.advance_withPrefix _ true
  refine ⟨v, ?_, rfl, ?_, ?_, ?_, fun b h0 _ => ?_⟩
  · rw [exec_fmt, execFmt, plain_issues hi]
    rfl
  · rw [hfir]
  · rw [hfir, Firing.fpend, bit, setBit_getLsbD (by decide), if_pos rfl]
  · rw [hfir]
  · rw [hfir, setBit_getLsbD (by decide), if_neg (by omega)]

end
end Sys2Proof.Machine
end

section
/-! PROOF. The conversions (R53, R288 to R292). -/

namespace Sys2Proof.Machine

section
variable {s : State}

theorem etNum_width_pos (topx : Bool) (y : ElemTy) : 0 < (etNum topx y).width := by cases y <;> cases topx <;> decide

/-! ### VPLANE and VUNPLANE (R53, R291) -/

/-- Plane k of block j of a vector's bytes (R291). -/
def planeOf (v : Vec) (p i : Nat) : Nat :=
  if i % 8 < p then packNat 1 ((List.range 64).map fun e => elem v 8 (64 * (i / 8) + e) / 2 ^ (7 - i % 8) % 2) else 0

theorem testBit_of_div (x m : Nat) : (x / 2 ^ m % 2).testBit 0 = x.testBit m := by
  have h := Nat.testBit_mod_two_pow (x / 2 ^ m) 1 0
  rw [pow_one, decide_eq_true (by decide), Bool.true_and, Nat.testBit_div_two_pow, Nat.zero_add] at h
  exact h

/-- A bit of one-bit elements packed. -/
theorem packBits_testBit (l : List Nat) (i : Nat) : (packNat 1 l).testBit i = (l.getD i 0).testBit 0 := by
  have h := packNat_testBit Nat.zero_lt_one l i
  rwa [Nat.one_mul, Nat.add_zero] at h

theorem packBits_lt (l : List Nat) : packNat 1 l < 2 ^ l.length := by
  induction l with
  | nil => exact Nat.zero_lt_one
  | cons x l ih =>
    rw [packNat, List.length_cons, pow_one, pow_succ 2 l.length]
    omega

theorem planeOf_testBit (v : Vec) (p : Nat) {j k e : Nat} (hk : k < 8) (he : e < 64) :
    (planeOf v p (8 * j + k)).testBit e = (decide (k < p) && v.getLsbD (8 * (64 * j + e) + (7 - k))) := by
  rw [planeOf, show (8 * j + k) % 8 = k by omega, show (8 * j + k) / 8 = j by omega]
  split_ifs with hp
  · rw [packBits_testBit, decide_eq_true hp, Bool.true_and, List.getD_eq_getElem?_getD, List.getElem?_map, List.getElem?_range he]
    dsimp only [Option.map, Option.getD]
    rw [← elem_testBit (show 7 - k < 8 by omega), testBit_of_div]
  · rw [decide_eq_false hp, Nat.zero_testBit, Bool.false_and]

/-- A vector packed from the elements of a function, bit by bit. -/
theorem pack_range_getLsbD {w n i j : Nat} (f : Nat → Nat) (hj : j < w) (hi : i < n) (hm : w * i + j < 2048) :
    (pack 2048 w ((List.range n).map f)).getLsbD (w * i + j) = (f i).testBit j := by
  rw [pack, BitVec.getLsbD_ofNat, packNat_testBit hj, decide_eq_true hm, Bool.true_and, List.getD_eq_getElem?_getD, List.getElem?_map,
    List.getElem?_range hi]
  rfl

theorem vplaneClause {d a : BitVec 5} (hi : s.IssuesPrefixed (.vplane d a)) (hok : s.fir.fmt.planeOk false = true) :
    ∃ v, exec (.vplane d a) s = .next v ∧ v.onlyFiring s ∧ v.fir.fpend = false ∧ v.fir.clrPfx.vectorDone s.fir.clrPfx d (fun _ => False) ∧
      ∀ j k e, j < 4 → k < 8 → e < 64 → (v.fir.rv d).getLsbD (64 * (8 * j + k) + e) =
        (decide (k ≤ s.fir.fmt.pl) && (s.fir.rv a).getLsbD (8 * (64 * j + e) + (7 - k))) := by
  let r : Vec := pack 2048 64 ((List.range 32).map (planeOf (s.fir.rv a) (s.fir.fmt.pl + 1)))
  obtain ⟨honly, hpend, hrv, hdone⟩ := s.converted d (r, 0)
  refine ⟨_, ?_, honly, hpend, Firing.vectorDone_congr d hdone fun b => by simp, fun j k e hj hk he => ?_⟩
  · rw [exec_vplane, execVplane]
    exact prefixed_done hi hok (congrArg Except.ok (s.wv_eq_vres d r))
  · rw [hrv, pack_range_getLsbD _ he (by omega) (by omega), planeOf_testBit _ _ hk he]
    simp

/-- The top p bits of byte i from its planes (R53, R291). -/
def topOf (v : Vec) (p i : Nat) : Nat := packNat 1 (((List.range p).map fun k => elem v 64 (8 * (i / 64) + k) / 2 ^ (i % 64) % 2).reverse)

theorem topOf_lt (v : Vec) (p i : Nat) : topOf v p i < 2 ^ p := by
  have h := packBits_lt ((List.range p).map fun k => elem v 64 (8 * (i / 64) + k) / 2 ^ (i % 64) % 2).reverse
  rwa [List.length_reverse, List.length_map, List.length_range] at h

theorem topOf_testBit (v : Vec) {p j e b : Nat} (hb : b < p) (he : e < 64) :
    (topOf v p (64 * j + e)).testBit (p - 1 - b) = v.getLsbD (64 * (8 * j + b) + e) := by
  rw [topOf, packBits_testBit, show (64 * j + e) / 64 = j by omega, show (64 * j + e) % 64 = e by omega, List.getD_eq_getElem?_getD,
    List.getElem?_reverse (by simp; omega), List.getElem?_map, List.length_map, List.length_range, show p - 1 - (p - 1 - b) = b by omega,
    List.getElem?_range hb]
  dsimp only [Option.map, Option.getD]
  rw [testBit_of_div, elem_testBit he]

/-- The byte that p planes give, bit by bit from the top one (R53). -/
theorem planeValue_testBit {p b top : Nat} (ctr : Bool) (h2 : 2 ≤ p) (h8 : p ≤ 8) (hb : b < 8) (ht : top < 2 ^ p) :
    (toBits 8 (planeValue p ctr top)).testBit (7 - b) = if b < p then top.testBit (p - 1 - b) else decide (b = p) && ctr := by
  have hc : (if (ctr && decide (p ≤ 7)) = true then 2 ^ (7 - p) else 0) < 2 ^ (8 - p) := by
    split_ifs
    · exact Nat.pow_lt_pow_right (by decide) (by simp_all; omega)
    · exact Nat.two_pow_pos _
  have hval : toBits 8 (planeValue p ctr top) = 2 ^ (8 - p) * top + if (ctr && decide (p ≤ 7)) = true then 2 ^ (7 - p) else 0 := by
    have hcast : (if (ctr && decide (p ≤ 7)) = true then (2 : Int) ^ (7 - p) else 0) =
        ((if (ctr && decide (p ≤ 7)) = true then 2 ^ (7 - p) else 0 : Nat) : Int) := by split_ifs <;> norm_cast
    rw [planeValue, toBits, hcast]
    generalize (if (ctr && decide (p ≤ 7)) = true then 2 ^ (7 - p) else 0) = c at hc ⊢
    have hroom : 2 ^ (8 - p) * top + c < 2 ^ 8 := by
      have hsplit : 2 ^ (8 - p) * 2 ^ p = 2 ^ 8 := by rw [← pow_add, Nat.sub_add_cancel h8]
      calc 2 ^ (8 - p) * top + c < 2 ^ (8 - p) * (top + 1) := by rw [Nat.mul_add]; omega
        _ ≤ 2 ^ (8 - p) * 2 ^ p := Nat.mul_le_mul_left _ ht
        _ = 2 ^ 8 := hsplit
    have hmod : (intOf true p top * 2 ^ (8 - p) + (c : Int)) % 2 ^ 8 = ((2 ^ (8 - p) * top + c : Nat) : Int) % 2 ^ 8 := by
      have hsplit : (2 : Int) ^ p * 2 ^ (8 - p) = 2 ^ 8 := by rw [← pow_add, Nat.add_sub_cancel' h8]
      rw [intOf, Nat.mod_eq_of_lt ht]
      split_ifs
      · rw [sub_mul, hsplit]
        push_cast
        rw [show (top : Int) * 2 ^ (8 - p) - 256 + c = 2 ^ (8 - p) * top + c - 256 by ring, Int.sub_emod_right]
      · push_cast
        rw [mul_comm]
    rw [hmod, Int.emod_eq_of_lt (by positivity) (by exact_mod_cast hroom), Int.toNat_natCast]
  rw [hval, Nat.testBit_two_pow_mul_add _ hc]
  by_cases hbp : b < p
  · rw [if_neg (by omega), if_pos hbp, show 7 - b - (8 - p) = p - 1 - b by omega]
  · rw [if_pos (by omega), if_neg hbp, show p ≤ 7 by omega |> decide_eq_true]
    cases ctr with
    | true => simp [Nat.testBit_two_pow]; omega
    | false => simp

theorem vunplaneClause {d a : BitVec 5} (hi : s.IssuesPrefixed (.vunplane d a)) (hok : s.fir.fmt.planeOk true = true) :
    let p := s.fir.fmt.pl + 1
    ∃ v, exec (.vunplane d a) s = .next v ∧ v.onlyFiring s ∧ v.fir.fpend = false ∧ v.fir.clrPfx.vectorDone s.fir.clrPfx d (fun _ => False) ∧
      ∀ j e b, j < 4 → e < 64 → b < 8 → (v.fir.rv d).getLsbD (8 * (64 * j + e) + (7 - b)) =
        if b < p then (s.fir.rv a).getLsbD (64 * (8 * j + b) + e) else decide (b = p) && s.fir.fmt.ctr := by
  intro p
  have hp : 2 ≤ p ∧ p ≤ 8 := by
    have hlt : s.fir.fmt.pl < 8 := BitVec.isLt _
    have hone : 1 ≤ s.fir.fmt.pl := by
      rw [Prefx.planeOk, Bool.and_eq_true, Bool.and_eq_true, decide_eq_true_eq] at hok
      exact hok.1.2
    omega
  let r : Vec := pack 2048 8 ((List.range 256).map fun i => toBits 8 (planeValue p s.fir.fmt.ctr (topOf (s.fir.rv a) p i)))
  obtain ⟨honly, hpend, hrv, hdone⟩ := s.converted d (r, 0)
  refine ⟨_, ?_, honly, hpend, Firing.vectorDone_congr d hdone fun b => by simp, fun j e b hj he hb => ?_⟩
  · rw [exec_vunplane, execVunplane]
    exact prefixed_done hi hok (congrArg Except.ok (s.wv_eq_vres d r))
  · rw [hrv, pack_range_getLsbD _ (by omega) (by omega) (by omega), planeValue_testBit _ hp.1 hp.2 hb (topOf_lt _ _ _)]
    split_ifs with hbp
    · rw [topOf_testBit _ hbp he]
    · rfl

/-! ### VCVT (R289) -/

/-- Whether element i of width wd keeps its value in a conversion from width ws under a mask. -/
def vcvtIdle (wd ws : Nat) (h : Bool) (mask : Word) (i : Nat) : Bool :=
  let n := Nat.min (2048 / wd) (2048 / ws)
  let off := if h then n else 0
  let e := if wd < ws then i - off else i
  let src := if ws < wd then e + off else e
  i < (if wd < ws then off else 0) || n ≤ e || !bit mask (src * ws / 32)

/-- The source element of element i. -/
def vcvtFrom (wd ws : Nat) (h : Bool) (i : Nat) : Nat :=
  let off := if h then Nat.min (2048 / wd) (2048 / ws) else 0
  let e := if wd < ws then i - off else i
  if ws < wd then e + off else e

theorem vcvtSource_narrower {wd ws : Nat} (h : wd < ws) (hi : Bool) (i : Nat) : vcvtSource wd ws hi i =
    if (if hi then 2048 / ws else 0) ≤ i ∧ i < (if hi then 2048 / ws else 0) + 2048 / ws then some (i - if hi then 2048 / ws else 0) else none :=
  if_pos h

theorem vcvtSource_wider {wd ws : Nat} (h : ws < wd) (hi : Bool) (i : Nat) : vcvtSource wd ws hi i = some (i + if hi then 2048 / wd else 0) := by
  rw [vcvtSource, if_neg (by omega), if_pos h]

theorem vcvtSource_same (w : Nat) (hi : Bool) (i : Nat) : vcvtSource w w hi i = some i := by
  rw [vcvtSource, if_neg (lt_irrefl w), if_neg (lt_irrefl w)]

section
variable {wd ws : Nat} (hd : 0 < wd) (hs : 0 < ws) {h : Bool} {i : Nat}
include hd hs

theorem vcvtIdle_iff (hh : wd ≠ ws ∨ h = false) {mask : Word} (hi : i < 2048 / wd) :
    vcvtIdle wd ws h mask i = false ↔ ∃ e, vcvtSource wd ws h i = some e ∧ takesPart mask ws e = true := by
  unfold vcvtIdle takesPart bit
  rcases lt_trichotomy wd ws with hlt | rfl | hgt
  · have hn : Nat.min (2048 / wd) (2048 / ws) = 2048 / ws := min_eq_right (Nat.div_le_div_left hlt.le hd)
    rw [vcvtSource_narrower hlt]
    simp only [hn, if_pos hlt, if_neg (show ¬ws < wd by omega)]
    generalize (if h then 2048 / ws else 0) = off
    by_cases hin : off ≤ i ∧ i < off + 2048 / ws
    · rw [if_pos hin]
      simp [show ¬i < off by omega, show ¬2048 / ws ≤ i - off by omega]
    · rw [if_neg hin]
      have hout : i < off ∨ 2048 / ws ≤ i - off := by omega
      rcases hout with hout | hout <;> simp [hout]
  · obtain rfl : h = false := hh.resolve_left fun hne => hne rfl
    rw [vcvtSource_same]
    simp [show ¬2048 / wd ≤ i by omega]
  · have hn : Nat.min (2048 / wd) (2048 / ws) = 2048 / wd := min_eq_left (Nat.div_le_div_left hgt.le hs)
    rw [vcvtSource_wider hgt]
    simp [hn, hgt, show ¬wd < ws by omega, show ¬2048 / wd ≤ i by omega]

theorem vcvtFrom_eq {e : Nat} (hsrc : vcvtSource wd ws h i = some e) : vcvtFrom wd ws h i = e ∧
    (if wd < ws then i - (if h then Nat.min (2048 / wd) (2048 / ws) else 0) else i) = if wd < ws then e else i := by
  unfold vcvtFrom
  rcases lt_trichotomy wd ws with hlt | rfl | hgt
  · have hn : Nat.min (2048 / wd) (2048 / ws) = 2048 / ws := min_eq_right (Nat.div_le_div_left hlt.le hd)
    rw [vcvtSource_narrower hlt, Option.ite_none_right_eq_some] at hsrc
    simp only [hn, if_pos hlt, if_neg (show ¬ws < wd by omega), Option.some.inj hsrc.2, and_self]
  · rw [vcvtSource_same] at hsrc
    simp [Option.some.inj hsrc]
  · have hn : Nat.min (2048 / wd) (2048 / ws) = 2048 / wd := min_eq_left (Nat.div_le_div_left hgt.le hs)
    rw [vcvtSource_wider hgt] at hsrc
    simp only [hn, if_pos hgt, if_neg (show ¬wd < ws by omega), Option.some.inj hsrc, and_self]

end

/-- Element i of a VCVT: what it becomes with its flags (R289). -/
def State.vcvtElem (s : State) (m : RM) (z h : Bool) (d a : BitVec 5) (k : BitVec 3) (i : Nat) : Nat × Nat :=
  let p := s.fir.fmt
  let t := etNum s.fir.topx p.fa
  let u := etNum s.fir.topx p.fb
  let e := if t.width < u.width then i - (if h then Nat.min (2048 / t.width) (2048 / u.width) else 0) else i
  if vcvtIdle t.width u.width h (s.fir.rk k) i then (elem (s.fir.rv d) t.width i, 0)
  else
    if p.sc then convertScaled t u (s.fir.rnd m z i) (s.ve u.width a (vcvtFrom t.width u.width h i)) (bits (s.rx p.xs) (8 * (e / 64) + 7) (8 * (e / 64)))
      (narrow p.fa)
    else convert t u (s.fir.rnd m z i) (s.ve u.width a (vcvtFrom t.width u.width h i)) 0

/-- The vector and flags of a VCVT. -/
def State.vcvtAll (s : State) (m : RM) (z h : Bool) (d a : BitVec 5) (k : BitVec 3) : Vec × Nat :=
  let w := (etNum s.fir.topx s.fir.fmt.fa).width
  (pack 2048 w (((List.range (2048 / w)).map (s.vcvtElem m z h d a k)).map (·.1)),
    ((List.range (2048 / w)).map (s.vcvtElem m z h d a k)).foldl (fun x r => orF x r.2) 0)

theorem exec_vcvt_done {m : RM} {z h : Bool} {d a : BitVec 5} {k : BitVec 3} (hi : s.IssuesPrefixed (.vcvt m z h d a k))
    (hok : s.fir.fmt.vcvtOk h (d == a) = true) :
    exec (.vcvt m z h d a k) s = .next (((s.vres d (s.vcvtAll m z h d a k)).upd Firing.clrPfx).upd Firing.advance) := by
  rw [exec_vcvt, execVcvt]
  exact prefixed_done hi hok rfl

theorem elem_vcvtAll {m : RM} {z h : Bool} {d a : BitVec 5} {k : BitVec 3} {i : Nat} (hin : i < 2048 / (etNum s.fir.topx s.fir.fmt.fa).width) :
    elem (s.vcvtAll m z h d a k).1 (etNum s.fir.topx s.fir.fmt.fa).width i =
      (s.vcvtElem m z h d a k i).1 % 2 ^ (etNum s.fir.topx s.fir.fmt.fa).width := by
  have hget : (((List.range (2048 / (etNum s.fir.topx s.fir.fmt.fa).width)).map (s.vcvtElem m z h d a k)).map (·.1)).getD i 0 =
      (s.vcvtElem m z h d a k i).1 := by
    rw [List.getD_eq_getElem?_getD, List.map_map, List.getElem?_map, List.getElem?_range hin]
    rfl
  rw [← hget]
  exact elem_pack _ (elem_room hin)

theorem etNum_width_topx (b : Bool) (y : ElemTy) : (etNum b y).width = (etNum false y).width := by cases y <;> cases b <;> rfl

theorem vcvtOk_differ {p : Prefx} {h same : Bool} (hok : p.vcvtOk h same = true) (topx : Bool) :
    (etNum topx p.fa).width ≠ (etNum topx p.fb).width ∨ h = false := by
  rw [etNum_width_topx, etNum_width_topx topx]
  unfold Prefx.vcvtOk at hok
  by_cases hd : (etNum false p.fa).width = (etNum false p.fb).width
  · right
    cases h with
    | false => rfl
    | true => simp [hd] at hok
  · exact .inl hd

/-- VCVT whose prefix suits it (R289). -/
theorem vcvtClause {m : RM} {z h : Bool} {d a : BitVec 5} {k : BitVec 3} (hi : s.IssuesPrefixed (.vcvt m z h d a k))
    (hok : s.fir.fmt.vcvtOk h (d == a) = true) :
    let p := s.fir.fmt
    let t := etNum s.fir.topx p.fa
    let u := etNum s.fir.topx p.fb
    let src := vcvtSource t.width u.width h
    let act := fun i => ∃ e, src i = some e ∧ takesPart (s.fir.rk k) u.width e = true
    let res := fun i e =>
      if p.sc then convertScaled t u (s.fir.rnd m z i) (s.fir.ve u.width a e)
        ((s.rx p.xs).toNat / 2 ^ (8 * ((if t.width < u.width then e else i) / 64)) % 256) (narrow p.fa)
      else convert t u (s.fir.rnd m z i) (s.fir.ve u.width a e) 0
    ∃ v, exec (.vcvt m z h d a k) s = .next v ∧ v.onlyFiring s ∧ v.fir.fpend = false ∧
      (∀ i e, i < 2048 / t.width → src i = some e → takesPart (s.fir.rk k) u.width e = true →
        elem (v.fir.rv d) t.width i = (res i e).1 % 2 ^ t.width) ∧
      (∀ i, i < 2048 / t.width → ¬act i → elem (v.fir.rv d) t.width i = elem (s.fir.rv d) t.width i) ∧
      (v.fir.clrPfx.vectorDone s.fir.clrPfx d fun b => ∃ i e, i < 2048 / t.width ∧ src i = some e ∧ takesPart (s.fir.rk k) u.width e = true ∧
        (res i e).2.testBit b = true) := by
  intro p t u src act res
  have ht : 0 < t.width := etNum_width_pos _ _
  have hu : 0 < u.width := etNum_width_pos _ _
  have hdiff : t.width ≠ u.width ∨ h = false := vcvtOk_differ hok s.fir.topx
  have hon : ∀ i e, i < 2048 / t.width → src i = some e → takesPart (s.fir.rk k) u.width e = true → s.vcvtElem m z h d a k i = res i e := by
    intro i e hin hsrc htake
    have hidle := (vcvtIdle_iff ht hu hdiff hin (mask := s.fir.rk k)).mpr ⟨e, hsrc, htake⟩
    obtain ⟨hfrom, hblock⟩ := vcvtFrom_eq ht hu hsrc
    have hscale (j : Nat) : bits (s.rx p.xs) (8 * j + 7) (8 * j) = (s.rx p.xs).toNat / 2 ^ (8 * j) % 256 := by
      rw [bits, show 8 * j + 7 + 1 - 8 * j = 8 by omega]
      rfl
    rw [State.vcvtElem]
    rw [if_neg (by rw [hidle]; exact Bool.false_ne_true), hfrom, hblock, hscale]
    rfl
  have hoff : ∀ i, i < 2048 / t.width → ¬act i → s.vcvtElem m z h d a k i = (elem (s.fir.rv d) t.width i, 0) := by
    intro i hin hact
    have hidle : vcvtIdle t.width u.width h (s.fir.rk k) i = true := by
      by_contra hne
      exact hact ((vcvtIdle_iff ht hu hdiff hin).mp (Bool.not_eq_true _ ▸ hne))
    exact if_pos hidle
  obtain ⟨honly, hpend, hrv, hdone⟩ := s.converted d (s.vcvtAll m z h d a k)
  have helem := fun i => elem_vcvtAll (s := s) (m := m) (z := z) (h := h) (d := d) (a := a) (k := k) (i := i)
  refine ⟨_, exec_vcvt_done hi hok, honly, hpend, fun i e hin hsrc htake => ?_, fun i hin hact => ?_, Firing.vectorDone_congr d hdone fun b => ?_⟩
  · rw [hrv, helem i hin, hon i e hin hsrc htake]
  · rw [hrv, helem i hin, hoff i hin hact]
    exact Nat.mod_eq_of_lt (elem_lt _ _ _)
  · rw [State.vcvtAll]
    dsimp only
    rw [foldl_orF_testBit, Nat.zero_testBit, Bool.false_or, List.any_map, List.any_eq_true]
    constructor
    · rintro ⟨i, hin, hb⟩
      rw [List.mem_range] at hin
      by_cases hact : act i
      · obtain ⟨e, hsrc, htake⟩ := hact
        exact ⟨i, e, hin, hsrc, htake, by rw [← hon i e hin hsrc htake]; exact hb⟩
      · rw [Function.comp, hoff i hin hact, Nat.zero_testBit] at hb
        cases hb
    · rintro ⟨i, e, hin, hsrc, htake, hb⟩
      exact ⟨i, List.mem_range.mpr hin, by rw [Function.comp, hon i e hin hsrc htake]; exact hb⟩

/-! ### VCVTO (R290) -/

theorem Firing.advance_withMasks (f : Firing) (k : Vector Word 8) (v : Vector Vec 32) (w : Word) :
    ({ f with k := k, v := v, fflags := w } : Firing).advance = { f.advance with k := k, v := v, fflags := w } := by
  unfold Firing.advance Firing.clrRep Firing.repact Firing.repi Firing.repj
  dsimp only
  split_ifs <;> rfl

theorem Firing.rk_congr {f g : Firing} (h : g.k = f.k) (x : BitVec 3) : g.rk x = f.rk x := by rw [Firing.rk, Firing.rk, h]

/-- The elements and side list of a VCVTO, with their flags. -/
def State.outlier (s : State) (a : BitVec 5) (e : Nat) : Bool :=
  f32.isNan (s.ve 32 a e) || fLt f32 ((s.rx s.fir.fmt.xs).toNat % 2 ^ 32) (s.ve 32 a e % 2 ^ 31)

def State.vcvtoElem (s : State) (m : RM) (z : Bool) (d a : BitVec 5) (k : BitVec 3) (i : Nat) : Nat × Nat :=
  if 64 ≤ i || !bit (s.fir.rk k) i then (elem (s.fir.rv d) 8 i, 0)
  else if s.outlier a i then (0, 0)
  else convert (etNum s.fir.topx s.fir.fmt.fa) (.flt f32) (s.fir.rnd m z i) (s.ve 32 a i) 0

def State.vcvtoSide (s : State) (m : RM) (z : Bool) (a : BitVec 5) (k : BitVec 3) : List (Nat × Nat) :=
  ((List.range 64).filter fun e => bit (s.fir.rk k) e && s.outlier a e).map fun e =>
    convert (.flt f16) (.flt f32) (s.fir.rnd m z e) (s.ve 32 a e) 0

/-- The registers a VCVTO writes. -/
def State.vcvtoMask (s : State) (q : BitVec 3) (a : BitVec 5) (k : BitVec 3) : Word :=
  maskOf fun e => if bit (s.fir.rk k) e then s.outlier a e else bit (s.fir.rk q) e

def State.vcvtoVec (s : State) (m : RM) (z : Bool) (d a : BitVec 5) (k : BitVec 3) : Vec :=
  pack 2048 8 (((List.range 256).map (s.vcvtoElem m z d a k)).map (·.1))

def State.vcvtoSideVec (s : State) (m : RM) (z : Bool) (a : BitVec 5) (k : BitVec 3) : Vec := pack 2048 16 ((s.vcvtoSide m z a k).map (·.1))

theorem exec_vcvto_done {m : RM} {z : Bool} {d a : BitVec 5} {q k : BitVec 3} (hi : s.IssuesPrefixed (.vcvto m z d q a k))
    (hok : s.fir.fmt.vcvtoOk = true) : ∃ fl, exec (.vcvto m z d q a k) s = .next
      ((((((s.wk q (s.vcvtoMask q a k)).wv d (s.vcvtoVec m z d a k)).vres (d + 1) (s.vcvtoSideVec m z a k, fl))).upd Firing.clrPfx).upd Firing.advance) := by
  exact ⟨_, (exec_vcvto m z d q a k s).trans (prefixed_done hi hok rfl)⟩

theorem Firing.wk_eq (f : Firing) (q : BitVec 3) (M : Word) : f.wk q M = { f with k := (f.wk q M).k } := by
  unfold Firing.wk
  split_ifs <;> rfl

theorem Firing.withMasks_clrPfx (f : Firing) (K : Vector Word 8) (d e : BitVec 5) (A B : Vec) (w : Word) :
    (((({ f with k := K } : Firing).wv d A).wv e B).orFlags w).clrPfx =
      { f.clrPfx with k := K, v := ((f.wv d A).wv e B).v, fflags := f.fflags ||| w } := rfl

/-- The firing after one mask register and two vector registers have been written and the prefix taken. -/
theorem State.vcvto_fir (s : State) (q : BitVec 3) (M : Word) (d : BitVec 5) (A B : Vec) (fl : Nat) :
    ∃ w, (((((s.wk q M).wv d A).vres (d + 1) (B, fl)).upd Firing.clrPfx).upd Firing.advance).fir =
      { s.fir.advance.clrPfx with k := (s.fir.wk q M).k, v := ((s.fir.wv d A).wv (d + 1) B).v, fflags := w } := by
  have hk : s.wk q M = { s with fir := { s.fir with k := (s.fir.wk q M).k } } :=
    congrArg (fun f : Firing => ({ s with fir := f } : State)) (s.fir.wk_eq q M)
  refine ⟨s.fir.fflags ||| BitVec.ofNat 64 fl, ?_⟩
  rw [hk, ← Firing.advance_clrPfx, ← Firing.advance_withMasks, ← Firing.withMasks_clrPfx]
  generalize (s.fir.wk q M).k = K
  simp only [State.upd, State.wv, State.vres]

theorem add_one_ne (d : BitVec 5) : d + 1 ≠ d := by bv_omega

theorem elem_pack_range {w n e : Nat} (g : Nat → Nat × Nat) (h : w * e + w ≤ 2048) (he : e < n) :
    elem (pack 2048 w (((List.range n).map g).map (·.1))) w e = (g e).1 % 2 ^ w := by
  rw [elem_pack _ h, List.getD_eq_getElem?_getD, List.map_map, List.getElem?_map, List.getElem?_range he]
  rfl

/-- VCVTO whose prefix suits it (R290). -/
theorem vcvtoClause {m : RM} {z : Bool} {d a : BitVec 5} {q k : BitVec 3} (hi : s.IssuesPrefixed (.vcvto m z d q a k))
    (hok : s.fir.fmt.vcvtoOk = true) :
    let t := etNum s.fir.topx s.fir.fmt.fa
    let x := fun e => s.fir.ve 32 a e
    let out := fun e => f32.isNan (x e) || fLt f32 ((s.rx s.fir.fmt.xs).toNat % 2 ^ 32) (x e % 2 ^ 31)
    let on := fun e => (s.fir.rk k).getLsbD e
    let side := ((List.range 64).filter fun e => on e && out e).map fun e => (convert (.flt f16) (.flt f32) (s.fir.rnd m z e) (x e) 0).1
    ∃ v, exec (.vcvto m z d q a k) s = .next v ∧ v.onlyFiring s ∧ v.fir.fpend = false ∧ v.fir.pc = s.fir.advance.pc ∧ v.fir.x = s.fir.x ∧
      (∀ e, e < 64 → on e = true → elem (v.fir.rv d) 8 e = if out e then 0 else (convert t (.flt f32) (s.fir.rnd m z e) (x e) 0).1 % 256) ∧
      (∀ e, e < 256 → (64 ≤ e ∨ on e = false) → elem (v.fir.rv d) 8 e = elem (s.fir.rv d) 8 e) ∧
      (∀ e, e < 128 → elem (v.fir.rv (d + 1)) 16 e = side.getD e 0 % 2 ^ 16) ∧
      (q ≠ 0 → ∀ e, e < 64 → (v.fir.rk q).getLsbD e = if on e then out e else (s.fir.rk q).getLsbD e) ∧
      (∀ r, r ≠ d → r ≠ d + 1 → v.fir.rv r = s.fir.rv r) ∧ (∀ r, r ≠ q → v.fir.rk r = s.fir.rk r) := by
  intro t x out on side
  obtain ⟨fl, hexec⟩ := exec_vcvto_done hi hok
  obtain ⟨w, hfir⟩ := s.vcvto_fir q (s.vcvtoMask q a k) d (s.vcvtoVec m z d a k) (s.vcvtoSideVec m z a k) fl
  have hrv (r : BitVec 5) := Firing.rv_congr (congrArg Firing.v hfir) r
  have hrk (r : BitVec 3) := Firing.rk_congr (congrArg Firing.k hfir) r
  have hd : ∀ e, e < 256 → elem (((s.fir.wv d (s.vcvtoVec m z d a k)).wv (d + 1) (s.vcvtoSideVec m z a k)).rv d) 8 e =
      (s.vcvtoElem m z d a k e).1 % 2 ^ 8 := fun e he => by
    rw [Firing.rv_wv_ne _ _ (add_one_ne d).symm, Firing.rv_wv_same]
    exact elem_pack_range _ (by omega) he
  refine ⟨_, hexec, rfl, ?_, ?_, ?_, fun e he hon => ?_, fun e he hoff => ?_, fun e he => ?_, fun hq e he => ?_, fun r hr hr' => ?_, fun r hr => ?_⟩
  · rw [hfir]; exact Firing.fpend_clrPfx _
  · rw [hfir]; rfl
  · rw [hfir]; exact Firing.advance_x s.fir
  · refine (congrArg (fun y => elem y 8 e) (hrv d)).trans ((hd e (by omega)).trans ?_)
    rw [State.vcvtoElem, if_neg (by rw [bit, show (s.fir.rk k).getLsbD e = true from hon]; simpa using he)]
    by_cases ho : s.outlier a e = true
    · rw [if_pos ho, if_pos (show out e = true from ho)]
      rfl
    · rw [if_neg ho, if_neg (show ¬out e = true from ho)]
      rfl
  · refine (congrArg (fun y => elem y 8 e) (hrv d)).trans ((hd e he).trans ?_)
    have hidle : (decide (64 ≤ e) || !bit (s.fir.rk k) e) = true := by
      rcases hoff with h | h
      · rw [decide_eq_true h, Bool.true_or]
      · rw [bit, show (s.fir.rk k).getLsbD e = false from h, Bool.not_false, Bool.or_true]
    rw [State.vcvtoElem, if_pos hidle]
    exact Nat.mod_eq_of_lt (elem_lt _ 8 e)
  · refine (congrArg (fun y => elem y 16 e) (hrv (d + 1))).trans ?_
    have hside : (s.vcvtoSide m z a k).map (·.1) = side := by
      rw [State.vcvtoSide, List.map_map]
      rfl
    rw [← hside, ← elem_pack (m := 2048) _ (by omega)]
    exact congrArg (fun y => elem y 16 e) (Firing.rv_wv_same _ _ _)
  · rw [(hrk q).trans (Firing.rk_wk_self _ hq _)]
    exact maskOf_getLsbD _ he
  · refine (hrv r).trans ?_
    exact (Firing.rv_wv_ne _ _ hr').trans (Firing.rv_wv_ne _ _ hr)
  · exact (hrk r).trans (Firing.rk_wk_other _ hr _)

end

/-- Settles O34: each conversion takes the prefix that suits it; every other prefix, and none, is ILL. -/
theorem conversions : Obligations.Conversions := by
  unfold Obligations.Conversions
  refine fun s => ⟨fun t u c x p z hi => fmtClause hi, fun m z h d a k hi hok => vcvtClause hi hok, fun m z d q a k hi hok => vcvtoClause hi hok,
    fun d a hi hok => vplaneClause hi hok, fun d a hi hok => vunplaneClause hi hok, ?_, ?_⟩
  · rintro i (⟨d, a, rfl, hok⟩ | ⟨d, a, rfl, hok⟩ | ⟨m, z, h, d, a, k, rfl, hok⟩ | ⟨m, z, d, q, a, k, rfl, hok⟩) hi
    · rw [exec_vplane, execVplane]; exact prefixed_unsuited hi hok
    · rw [exec_vunplane, execVunplane]; exact prefixed_unsuited hi hok
    · rw [exec_vcvt, execVcvt]; exact prefixed_unsuited hi hok
    · rw [exec_vcvto, execVcvto]; exact prefixed_unsuited hi hok
  · rintro i (⟨d, a, rfl⟩ | ⟨d, a, rfl⟩ | ⟨m, z, h, d, a, k, rfl⟩ | ⟨m, z, d, q, a, k, rfl⟩) hi
    · rw [exec_vplane, execVplane]; exact prefixed_without hi
    · rw [exec_vunplane, execVunplane]; exact prefixed_without hi
    · rw [exec_vcvt, execVcvt]; exact prefixed_without hi
    · rw [exec_vcvto, execVcvto]; exact prefixed_without hi

end Sys2Proof.Machine
end

section
/-! SUPPORT. Parts of a vector or of a block whose places are at hand: checked in order, then read (R140, R144, R152, R234). -/

namespace Sys2Proof.Machine

/-! ### The places of parts -/

section
variable {s u : State} {check : State → Nat → Except Stop (State × Place)} {is : List Nat} {pls : List (Nat × Place)} {tr : Option Trap}

theorem State.upTo_reached (hc : ∀ {t v : State} {i : Nat} {pl : Place}, check t i = .ok (v, pl) → v.reached t)
    (h : s.upTo check is = .ok (u, pls, tr)) : u.reached s := by
  induction is generalizing s pls with
  | nil => cases h; exact State.reached_refl _
  | cons i is ih =>
    unfold State.upTo at h
    generalize hx : check s i = x at h
    match x with
    | .error (.trap _) => cases h; exact State.reached_refl _
    | .error (.trapIn _ _) => cases h
    | .error (.wait _ _) => cases h
    | .ok (v, pl) =>
      obtain ⟨⟨w, qs, t⟩, hw, h⟩ := of_bind_ok h
      cases h
      exact State.reached_trans (ih hw) (hc hx)

theorem State.upTo_parts (h : s.upTo check is = .ok (u, pls, tr)) :
    pls.map Prod.fst = is.take pls.length ∧ (tr = none → pls.length = is.length) := by
  induction is generalizing s pls with
  | nil => cases h; exact ⟨rfl, fun _ => rfl⟩
  | cons i is ih =>
    unfold State.upTo at h
    generalize check s i = x at h
    match x with
    | .error (.trap _) => cases h; exact ⟨rfl, nofun⟩
    | .error (.trapIn _ _) => cases h
    | .error (.wait _ _) => cases h
    | .ok (v, pl) =>
      obtain ⟨⟨w, qs, t⟩, hw, h⟩ := of_bind_ok h
      cases h
      obtain ⟨h1, h2⟩ := ih hw
      exact ⟨by simp [h1], fun ht => by simp [h2 ht]⟩

theorem State.upTo_names (h : s.upTo check is = .ok (u, pls, none)) : pls.map Prod.fst = is := by
  obtain ⟨h1, h2⟩ := State.upTo_parts h
  rw [h1, h2 rfl, List.take_length]

theorem State.allOf_ok {ac : Acc} {n : Nat} {va : Nat → Word} (h : s.allOf ac n va check is = .ok (u, pls)) :
    s.upTo check is = .ok (u, pls, none) := by
  unfold State.allOf at h
  obtain ⟨⟨v, qs, t⟩, hv, h⟩ := of_bind_ok h
  dsimp only at h
  split at h
  · obtain ⟨_, hport, -⟩ := of_bind_ok h
    cases hport
  · obtain ⟨_, -, h⟩ := of_bind_ok h
    cases t with
    | some t => cases h
    | none => cases h; exact hv

theorem State.elemPlaces_reached {ac : Acc} {n : Nat} {f : Nat → Int} (h : s.elemPlaces ac n f is = .ok (u, pls)) : u.reached s :=
  State.upTo_reached State.access_reached (State.allOf_ok h)

theorem State.elemPlaces_names {ac : Acc} {n : Nat} {f : Nat → Int} (h : s.elemPlaces ac n f is = .ok (u, pls)) : pls.map Prod.fst = is :=
  State.upTo_names (State.allOf_ok h)

theorem State.blockAccess_reached {ac : Acc} {a : Int} {n : Nat} {pl : Place} (h : s.blockAccess ac a n = .ok (u, pl)) : u.reached s := by
  unfold State.blockAccess at h
  generalize hx : s.access ac a n n = x at h
  match x with
  | .error (.trap _) => cases h
  | .error (.trapIn _ _) => cases h
  | .error (.wait _ _) => cases h
  | .ok _ => cases h; exact State.access_reached hx

theorem State.blockPlaces_reached {ac : Acc} {n : Nat} {f : Nat → Int} (h : s.blockPlaces ac n f is = .ok (u, pls)) : u.reached s :=
  State.upTo_reached State.blockAccess_reached (State.allOf_ok h)

theorem State.blockPlaces_names {ac : Acc} {n : Nat} {f : Nat → Int} (h : s.blockPlaces ac n f is = .ok (u, pls)) : pls.map Prod.fst = is :=
  State.upTo_names (State.allOf_ok h)

end

/-! ### Places at hand -/

section
variable {s t u : State} {wr : Bool} {n : Nat} {pl : Place} {pls : List Place}

theorem State.near_posted (h : s.near wr n pl = true) : s.postedAt wr pl n = false := by
  unfold State.near at h
  rw [Bool.and_eq_true] at h
  simpa using h.1

theorem State.near_here (h : s.near wr n pl = true) : s.remoteSpad pl = false := by
  unfold State.near at h
  rw [Bool.and_eq_true] at h
  obtain ⟨-, h⟩ := h
  cases pl with
  | spad g o => simpa [State.remoteSpad] using h
  | _ => rfl

theorem State.near_notFar (h : s.near wr n pl = true) : farDword pl = none := by
  cases pl with
  | far a b c => simp [State.near] at h
  | _ => rfl

theorem State.afterPosted_near (h : ∀ p ∈ pls, s.near wr n p = true) : s.afterPosted wr pls n = .ok () := by
  have hf : (pls.any fun pl => s.postedAt wr pl n) = false := List.any_eq_false.mpr fun p hp => by simp [State.near_posted (h p hp)]
  rw [State.afterPosted, hf]
  rfl

theorem State.needsPort_near (h : ∀ p ∈ pls, s.near wr n p = true) : s.needsPort pls = false := by
  have hf : pls.any s.remoteSpad = false := List.any_eq_false.mpr fun p hp => by simp [State.near_here (h p hp)]
  rw [State.needsPort, hf, Bool.and_false]

theorem State.window_near (h : s.near wr n pl = true) (ac : Acc) (k : Nat) (v : Word) : s.window ac pl k v = .ok () := by
  have hh := State.near_here h
  cases pl with
  | spad g o =>
    have hg : (g == s.fir.frond) = true := by simpa [State.remoteSpad] using hh
    rw [State.window, hg, Bool.true_or]
    rfl
  | _ => rfl

theorem farDwords_none (h : ∀ p ∈ pls, farDword p = none) : farDwords pls = [] := by
  have hx : ∀ x ∈ pls.zipIdx, farDword x.1 = none := fun x hx => h _ (List.fst_mem_of_mem_zipIdx hx)
  rw [farDwords]
  generalize pls.zipIdx = xs at hx
  induction xs with
  | nil => rfl
  | cons x xs ih =>
    rw [List.foldl_cons, hx x (List.mem_cons_self ..)]
    exact ih fun y hy => hx y (List.mem_cons_of_mem _ hy)

theorem State.farDwords_near (h : ∀ p ∈ pls, s.near wr n p = true) : farDwords pls = [] := farDwords_none fun p hp => State.near_notFar (h p hp)

theorem State.farFetch_near (h : ∀ p ∈ pls, s.near wr n p = true) (ref : Nat → Ref) : s.farFetch pls ref = .ok s := by
  unfold State.farFetch
  rw [State.farDwords_near h]
  rfl

/-! ### Reads of places at hand -/

/-- A state that an instruction of u's acting firing passes through while it reads: only that firing, not who it is, and which home writes its
frond has read may differ. -/
def State.reading (t u : State) : Prop :=
  t.onlyReads u ∧ t.fir.core = u.fir.core ∧ t.fir.adm = u.fir.adm

theorem State.reading_refl (s : State) : s.reading s := ⟨rfl, rfl, rfl⟩

theorem State.reading_trans (h : t.reading s) (h' : s.reading u) : t.reading u := by
  obtain ⟨h1, h2, h3⟩ := h
  obtain ⟨h1', h2', h3'⟩ := h'
  refine ⟨?_, h2.trans h2', h3.trans h3'⟩
  rw [State.onlyReads] at h1 h1' ⊢
  rw [h1, h1']

theorem State.reading_upd (s : State) {g : Firing → Firing} (h : (g s.fir).core = s.fir.core ∧ (g s.fir).adm = s.fir.adm) :
    (s.upd g).reading s := ⟨rfl, h⟩

theorem State.readHome_reading (s : State) (pl : Place) (n : Nat) : (s.readHome pl n).reading s := by
  cases pl with
  | unc k => exact ⟨rfl, rfl, rfl⟩
  | _ => exact s.reading_refl

theorem State.reading_frond (h : t.reading u) : t.fir.frond = u.fir.frond := by simp only [Firing.frond, h.2.1]

theorem State.reading_fr (h : t.reading u) : t.fr = u.fr := by
  have hf : t.fronds = u.fronds := by rw [h.1]
  simp only [State.fr, hf, State.reading_frond h]

theorem State.reading_mem (h : t.reading u) : t.mem = u.mem := by
  obtain ⟨h1, -⟩ := h
  rw [h1]

theorem State.postedAt_reading (h : t.reading u) (wr : Bool) (pl : Place) (n : Nat) : t.postedAt wr pl n = u.postedAt wr pl n := by
  obtain ⟨h1, h3, h4⟩ := h
  have hc : t.cores = u.cores := by rw [h1]
  cases pl <;> simp only [State.postedAt, hc, h3, h4]

theorem State.cxlPoisoned_reading (h : t.reading u) (k n : Nat) : t.cxlPoisoned k n = u.cxlPoisoned k n := by
  have hd : t.dev = u.dev := by rw [h.1]
  simp only [State.cxlPoisoned, State.cxlLost, hd, State.reading_fr h]

theorem State.headers_reading (h : t.reading u) : t.headers = u.headers := by
  have hd : t.teams = u.teams := by rw [h.1]
  simp only [State.headers, hd]

theorem State.near_reading (h : t.reading u) (wr : Bool) (n : Nat) (pl : Place) : t.near wr n pl = u.near wr n pl := by
  have hf := State.reading_frond h
  cases pl <;> simp only [State.near, State.postedAt_reading h, State.cxlPoisoned_reading h, State.headers_reading h, hf]

theorem State.readAt_reading (h : t.reading u) (pl : Place) (n : Nat) : t.readAt pl n = u.readAt pl n := by
  cases pl <;> simp only [State.readAt, State.reading_fr h, State.reading_mem h]

theorem State.loadAt_near (h : s.near false n pl = true) : s.loadAt pl n = ((s.usePath pl).readHome pl n, s.readAt pl n) := by
  cases pl with
  | ctl o => simp [State.near] at h
  | far a b c => simp [State.near] at h
  | dev k =>
    have hp : s.cxlPoisoned k n = false := by simpa [State.near] using (Bool.and_eq_true_iff.mp h).2
    rw [State.loadAt, hp]
    rfl
  | _ => rfl

theorem State.loadInto_near (h : s.near false n pl = true) (r : Reply) :
    s.loadInto pl n r = ((s.usePath pl).readHome pl n).upd fun f => f.reply r (BitVec.ofNat 64 (s.readAt pl n)) 0 := by
  cases pl with
  | ctl o => simp [State.near] at h
  | far a b c => simp [State.near] at h
  | dev k =>
    have hp : s.cxlPoisoned k n = false := by simpa [State.near] using (Bool.and_eq_true_iff.mp h).2
    rw [State.loadInto, hp]
    rfl
  | _ => rfl

end

theorem Firing.reply_withPaths (f : Firing) (p : List Nat) (r : Reply) (v : Word) (fl : Nat) :
    ({ f with paths := p } : Firing).reply r v fl = { f.reply r v fl with paths := p } := by
  cases r with
  | scalar d n sg => exact Firing.wx_withPaths f p d _
  | cell d n =>
    unfold Firing.reply Firing.wx Firing.orFlags
    dsimp only
    split <;> rfl
  | lane d i n sg =>
    unfold Firing.reply
    dsimp only
    split <;> rfl
  | steal d =>
    unfold Firing.reply Firing.wx
    dsimp only
    split_ifs <;> rfl
  | _ => rfl

theorem Firing.reply_keeps (f : Firing) (r : Reply) (v : Word) (fl : Nat) :
    (f.reply r v fl).core = f.core ∧ (f.reply r v fl).adm = f.adm := by
  cases r with
  | cell d n =>
    unfold Firing.reply
    dsimp only
    split <;> simp [Firing.orFlags]
  | lane d i n sg =>
    unfold Firing.reply
    dsimp only
    split <;> exact ⟨rfl, rfl⟩
  | steal d => simp [Firing.reply]
  | scalar d n sg => simp [Firing.reply]
  | _ => exact ⟨rfl, rfl⟩

/-- A firing after parts of n bytes at places have come in, as the state u has the bytes. -/
def Firing.replies (f : Firing) (u : State) (n : Nat) (r : Nat → Reply) (pls : List (Nat × Place)) : Firing :=
  pls.foldl (fun f x => f.reply (r x.1) (BitVec.ofNat 64 (u.readAt x.2 n)) 0) f

theorem Firing.replies_withPaths (f : Firing) (u : State) (n : Nat) (r : Nat → Reply) (pls : List (Nat × Place)) (p : List Nat) :
    ({ f with paths := p } : Firing).replies u n r pls = { f.replies u n r pls with paths := p } := by
  induction pls generalizing f with
  | nil => rfl
  | cons x pls ih => exact (congrArg (Firing.replies · u n r pls) (Firing.reply_withPaths ..)).trans (ih _)

section
variable {s u : State} {n : Nat} {pl : Place} {pls : List (Nat × Place)}

theorem State.loadInto_reading (h : s.near false n pl = true) (r : Reply) : (s.loadInto pl n r).reading s := by
  rw [State.loadInto_near h]
  refine State.reading_trans (State.reading_upd _ ?_) (State.reading_trans (State.readHome_reading ..) (State.reading_upd s ⟨rfl, rfl⟩))
  exact Firing.reply_keeps ((s.usePath pl).readHome pl n).fir r (BitVec.ofNat 64 (s.readAt pl n)) 0

theorem State.readHome_fir (s : State) (pl : Place) (n : Nat) : (s.readHome pl n).fir = s.fir := by cases pl <;> rfl

theorem State.loadInto_fir (h : s.near false n pl = true) (r : Reply) :
    (s.loadInto pl n r).fir = { s.fir.reply r (BitVec.ofNat 64 (s.readAt pl n)) 0 with paths := (s.loadInto pl n r).fir.paths } := by
  rw [State.loadInto_near h]
  have hp : (((s.usePath pl).readHome pl n).upd fun f => f.reply r (BitVec.ofNat 64 (s.readAt pl n)) 0).fir
      = { s.fir.reply r (BitVec.ofNat 64 (s.readAt pl n)) 0 with paths := (s.usePath pl).fir.paths } := by
    rw [State.upd, State.readHome_fir]
    exact Firing.reply_withPaths s.fir _ _ _ _
  rw [hp]

/-- Reading places at hand one after another gives what each held at the start. -/
theorem State.foldl_loadInto (r : Nat → Reply) (hs : s.reading u) (h : ∀ p ∈ pls, u.near false n p.2 = true) :
    let v := pls.foldl (fun t x => t.loadInto x.2 n (r x.1)) s
    v.reading u ∧ v.fir = { s.fir.replies u n r pls with paths := v.fir.paths } := by
  induction pls generalizing s with
  | nil => exact ⟨hs, rfl⟩
  | cons x pls ih =>
    have hn : s.near false n x.2 = true := (State.near_reading hs ..).trans (h x (List.mem_cons_self ..))
    obtain ⟨h1, h2⟩ := ih (State.reading_trans (State.loadInto_reading hn (r x.1)) hs) fun p hp => h p (List.mem_cons_of_mem _ hp)
    refine ⟨h1, h2.trans ?_⟩
    rw [State.loadInto_fir hn, State.readAt_reading hs, Firing.replies_withPaths]
    rfl

theorem State.loadParts_near (r : Nat → Reply) (h : ∀ p ∈ pls, s.near false n p.2 = true) :
    (s.loadParts n pls r).reading s ∧
      (s.loadParts n pls r).fir = { ({ s.fir with data := [] } : Firing).replies s n r pls with paths := (s.loadParts n pls r).fir.paths } := by
  have hs : (s.upd fun f => { f with data := [] }).reading s := State.reading_upd s ⟨rfl, rfl⟩
  have hone : s.loadParts n pls r = pls.foldl (fun t x => t.loadInto x.2 n (r x.1)) (s.upd fun f => { f with data := [] }) := by
    unfold State.loadParts
    refine List.foldl_ext _ _ _ fun t x hx => ?_
    have hn := h x hx
    obtain ⟨i, pl⟩ := x
    cases pl with
    | far a b c => simp [State.near] at hn
    | _ => rfl
  rw [hone]
  exact State.foldl_loadInto r hs h

theorem State.readHome_late (s : State) (pl : Place) (n : Nat) : s.readHome pl n = { s with late := (s.readHome pl n).late } := by
  cases pl <;> rfl

theorem State.useEach_late (s : State) (pls : List Place) (l : List Late) : { s with late := l }.useEach pls = { s.useEach pls with late := l } := by
  induction pls generalizing s with
  | nil => rfl
  | cons p pls ih => exact ih (s.usePath p)

theorem State.useEach_fir (s : State) (pls : List Place) : s.useEach pls = { s with fir := { s.fir with paths := (s.useEach pls).fir.paths } } := by
  induction pls generalizing s with
  | nil => rfl
  | cons p pls ih => exact ih (s.usePath p)

/-- The words of parts at hand, and a state in which only the paths used and the home writes read are noted. -/
theorem State.readParts_used {pls : List Place} (h : ∀ p ∈ pls, s.near false n p = true) (va : Nat → Word) :
    ∃ l, s.readParts n pls va = .ok ({ (s.upd fun f => { f with data := [] }).useEach pls with late := l },
      pls.map fun p => BitVec.ofNat 64 (s.readAt p n)) := by
  let one (a : State × List Word) (pl : Place) : State × List Word := ((a.1.loadAt pl n).1, BitVec.ofNat 64 (a.1.loadAt pl n).2 :: a.2)
  have hrun : ∀ (qs : List Place) (t : State) (ws : List Word), t.reading s → (∀ p ∈ qs, s.near false n p = true) →
      (qs.foldl one (t, ws)).2 = (qs.map fun p => BitVec.ofNat 64 (s.readAt p n)).reverse ++ ws ∧
        ∃ l, (qs.foldl one (t, ws)).1 = { t.useEach qs with late := l } := by
    intro qs
    induction qs with
    | nil => exact fun t ws ht _ => ⟨rfl, t.late, rfl⟩
    | cons q qs ih =>
      intro t ws ht hq
      have hn : t.near false n q = true := (State.near_reading ht ..).trans (hq q (List.mem_cons_self ..))
      have hone : one (t, ws) q = ((t.usePath q).readHome q n, BitVec.ofNat 64 (s.readAt q n) :: ws) := by
        simp only [one, State.loadAt_near hn, State.readAt_reading ht]
      have hr : ((t.usePath q).readHome q n).reading s :=
        State.reading_trans (State.readHome_reading ..) (State.reading_trans (State.reading_upd t ⟨rfl, rfl⟩) ht)
      obtain ⟨h1, l, h2⟩ := ih _ (BitVec.ofNat 64 (s.readAt q n) :: ws) hr fun p hp => hq p (List.mem_cons_of_mem _ hp)
      rw [List.foldl_cons, hone]
      refine ⟨by rw [h1]; simp, l, h2.trans ?_⟩
      rw [State.readHome_late, State.useEach_late]
      rfl
  obtain ⟨h1, l, h2⟩ := hrun pls (s.upd fun f => { f with data := [] }) [] (State.reading_upd s ⟨rfl, rfl⟩) h
  refine ⟨l, ?_⟩
  unfold State.readParts
  rw [State.afterPosted_near h, ok_bind, State.farFetch_near h, ok_bind]
  dsimp only
  have hfold : pls.foldl (fun (a : State × List Word) pl => match pl with
      | .far _ _ addr => (a.1, BitVec.ofNat 64 ((farPart (farDwords pls) s.fir.data n pl).getD (poison 8 / 2 ^ (8 * (addr % 4)) % 2 ^ (8 * n))) :: a.2)
      | pl => let (s, v) := a.1.loadAt pl n; (s, BitVec.ofNat 64 v :: a.2)) (s.upd fun f => { f with data := [] }, [])
      = pls.foldl one (s.upd fun f => { f with data := [] }, []) := by
    refine List.foldl_ext _ _ _ fun a pl hp => ?_
    have hn := h pl hp
    cases pl with
    | far a b c => simp [State.near] at hn
    | _ => rfl
  refine Eq.trans (congrArg (fun x : State × List Word => Except.ok (x.1, x.2.reverse)) hfold) ?_
  rw [h1, h2]
  simp

/-- The words of parts at hand, and a state in which only the reads are noted. -/
theorem State.readParts_near {pls : List Place} (h : ∀ p ∈ pls, s.near false n p = true) (va : Nat → Word) :
    ∃ v, s.readParts n pls va = .ok (v, pls.map fun p => BitVec.ofNat 64 (s.readAt p n)) ∧ v.reading s ∧
      v.fir = { s.fir with data := [], paths := v.fir.paths } := by
  obtain ⟨l, hl⟩ := State.readParts_used h va
  have hu := (s.upd fun f => { f with data := [] }).useEach_fir pls
  refine ⟨_, hl, ?_, ?_⟩ <;> generalize (s.upd fun f => { f with data := [] }).useEach pls = v at hu <;> rw [hu]
  · exact ⟨rfl, rfl, rfl⟩
  · rfl

end

end Sys2Proof.Machine
end

section
/-! PROOF. Spore draws and digests (R328 to R337). -/

namespace Sys2Proof.Machine

section
variable {s u w : State} {y : SpTy} {d a b n : BitVec 6} {pl : Place} {pls : List (Nat × Place)}

theorem ofNat_mod_32 (r : Word) : BitVec.ofNat 64 (r.toNat % 2 ^ 32) = (r.setWidth 32).setWidth 64 := by
  refine BitVec.eq_of_toNat_eq ?_
  rw [BitVec.toNat_ofNat, BitVec.toNat_setWidth, BitVec.toNat_setWidth]

theorem ofNat_mod_64 (r : Word) : BitVec.ofNat 64 (r.toNat % 2 ^ 64) = r := by
  refine BitVec.eq_of_toNat_eq ?_
  rw [BitVec.toNat_ofNat, Nat.mod_mod, Nat.mod_eq_of_lt r.isLt]

/-- A number of k bytes put at a context (R336). -/
def State.digested (s : State) (ctx : Place) (k d : Nat) : State := { s.usePath ctx with mem := s.mem.write ctx.key k d }

theorem exec_digest_own (hi : s.Issues (.digest a b)) (hp : s.ownSpad .obj (s.rx a) 64 64 = .ok (u, pl)) :
    exec (.digest a b) s =
      .next ((s.digested pl 64 (digestOf (s.mem.read pl.key 64) (s.rx b).toNat 8)).upd Firing.advance) := by
  obtain ⟨rfl, -⟩ := State.ownSpad_ok hp
  rw [exec_digest, execDigest, plain_issues hi, State.context, hp, ok_bind]
  rfl

theorem exec_digestm_own (hi : s.Issues (.digestm a b n)) (hp : s.ownSpad .obj (s.rx a) 64 64 = .ok (u, pl)) :
    exec (.digestm a b n) s = finish s (s.digestStep pl b n) := by
  obtain ⟨rfl, -⟩ := State.ownSpad_ok hp
  rw [exec_digestm, execDigestm, plain_issues hi, State.context, hp, ok_bind]

/-- The bytes a step of a DIGESTM folds: those left, up to the next boundary of 4 KiB (R337). -/
def State.digestLen (s : State) (b n : BitVec 6) : Nat := min (s.rx n).toNat (4096 - (s.rx b).toNat % 4096)

theorem packNat_words {α : Type} (w : Nat) (f : α → Nat) (l : List α) (h : ∀ x ∈ l, f x < 2 ^ 64) :
    packNat w ((l.map fun x => BitVec.ofNat 64 (f x)).map BitVec.toNat) = packNat w (l.map f) := by
  rw [List.map_map]
  refine congrArg (packNat w) (List.map_congr_left fun x hx => ?_)
  exact Nat.mod_eq_of_lt (h x hx)

theorem Frond.devRead_lt (fr : Frond) (k n : Nat) : fr.devRead k n < 256 ^ n := by
  induction n generalizing k with
  | zero => exact Nat.one_pos
  | succ n ih =>
    have h := ih (k + 1)
    have hb := (fr.devByte k).isLt
    rw [Frond.devRead, pow_succ]
    omega

theorem Mem.read_lt (m : Mem) (k n : Nat) : m.read k n < 256 ^ n := by
  induction n generalizing k with
  | zero => exact Nat.one_pos
  | succ n ih =>
    have h := ih (k + 1)
    have hb := (m.get k).isLt
    rw [Mem.read, pow_succ]
    omega

theorem State.readAt_lt (s : State) (pl : Place) (n : Nat) : s.readAt pl n < 256 ^ n := by
  cases pl with
  | dev k => exact Frond.devRead_lt _ k n
  | _ => exact Mem.read_lt ..

theorem Firing.withPaths_of_emptied {f g : Firing} (h : f = { g with data := [], paths := f.paths }) (p : List Nat) :
    { f with paths := p } = { g with data := [], paths := p } := by rw [h]

theorem State.digested_fir (s : State) (ctx : Place) (k d : Nat) :
    (s.digested ctx k d).fir = { s.fir with paths := (s.digested ctx k d).fir.paths } := rfl

theorem State.digested_mem (s : State) (ctx : Place) (k d : Nat) : (s.digested ctx k d).mem = s.mem.write ctx.key k d := rfl

/-- The registers of a DIGESTM after a step of some bytes (R337). -/
def State.movedOn (s : State) (b n : BitVec 6) (at_ : Word) (len : Nat) : State := (s.wx b at_).wx n (s.rx n - BitVec.ofNat 64 len)

/-- A step of a DIGESTM ends the instruction or leaves it for another. -/
def State.digestEnd (s : State) (n : BitVec 6) : Except Stop Done :=
  if s.rx n = 0 then .ok (.done s) else .ok (.stay (s.upd fun f => { f with wait := none, granted := false, aged := false }))

theorem digestStep_eq (ctx : Place) (h0 : s.rx n ≠ 0) : s.digestStep ctx b n =
    (s.elemPlaces .load 1 (fun i => (((s.rx b).toNat + i : Nat) : Int)) (List.range (s.digestLen b n)) >>= fun x =>
      x.1.readParts 1 (x.2.map Prod.snd) (fun i => s.rx b + BitVec.ofNat 64 i) >>= fun y =>
        ((y.1.digested ctx 64 (digestOf (y.1.mem.read ctx.key 64) (packNat 8 (y.2.map BitVec.toNat)) (s.digestLen b n))).movedOn b n
          (s.rx b + BitVec.ofNat 64 (s.digestLen b n)) (s.digestLen b n)).digestEnd n) := by
  unfold State.digestStep
  exact if_neg h0

/-- A step of a DIGESTM whose bytes are at hand: the context, and the two registers, move on. -/
theorem digestStep_near (ctx : Place) (h0 : s.rx n ≠ 0) (he : s.elemPlaces .load 1 (fun i => (((s.rx b).toNat + i : Nat) : Int))
      (List.range (s.digestLen b n)) = .ok (w, pls)) (hn : ∀ p ∈ pls, w.near false 1 p.2 = true) :
    ∃ v : State, v.mem = w.mem.write ctx.key 64
        (digestOf (w.mem.read ctx.key 64) (packNat 8 (pls.map fun p => w.readAt p.2 1)) (s.digestLen b n)) ∧
      v.fir = ({ s.fir with data := [], paths := v.fir.paths }.wx b (s.rx b + BitVec.ofNat 64 (s.digestLen b n))).wx n
        (s.rx n - BitVec.ofNat 64 (s.digestLen b n)) ∧
      s.digestStep ctx b n = v.digestEnd n := by
  obtain ⟨r, hr, hread, hf⟩ := State.readParts_near (pls := pls.map Prod.snd) (n := 1)
    (fun p hp => by obtain ⟨x, hx, rfl⟩ := List.mem_map.mp hp; exact hn x hx) (fun i => s.rx b + BitVec.ofNat 64 i)
  have hwf := State.reached_fir (State.elemPlaces_reached he)
  have hpack : packNat 8 (((pls.map Prod.snd).map fun p => BitVec.ofNat 64 (w.readAt p 1)).map BitVec.toNat)
      = packNat 8 (pls.map fun p => w.readAt p.2 1) := by
    rw [List.map_map (g := fun p => BitVec.ofNat 64 (w.readAt p 1))]
    exact packNat_words 8 (fun p : Nat × Place => w.readAt p.2 1) pls fun p _ => lt_of_lt_of_le (w.readAt_lt p.2 1) (by norm_num)
  rw [digestStep_eq ctx h0, he, ok_bind, hr, ok_bind]
  dsimp only
  rw [hpack]
  generalize hd : digestOf (r.mem.read ctx.key 64) (packNat 8 (pls.map fun p => w.readAt p.2 1)) (s.digestLen b n) = x
  generalize s.digestLen b n = len at hd ⊢
  have hfir : (r.digested ctx 64 x).fir = { s.fir with data := [], paths := (r.digested ctx 64 x).fir.paths } :=
    (State.digested_fir r ctx 64 x).trans (Firing.withPaths_of_emptied (hwf ▸ hf) _)
  refine ⟨_, ?_, ?_, rfl⟩
  · rw [State.movedOn, State.wx_mem, State.wx_mem, State.digested_mem, ← State.reading_mem hread, hd]
  · have hrx : (r.digested ctx 64 x).rx n = s.rx n := by
      rw [State.rx, hfir]
      rfl
    rw [State.movedOn, State.wx_fir, State.wx_fir, hrx, Firing.wx_paths, Firing.wx_paths, ← hfir]

theorem digestOf_mod (d m k : Nat) : digestOf d m k % 256 ^ 64 = sha3 (d + m * 2 ^ 512) (64 + k) % 2 ^ 512 := by
  rw [digestOf, show (256 : Nat) ^ 64 = 2 ^ 512 from by rw [show (256 : Nat) = 2 ^ 8 from rfl, ← pow_mul]]

theorem digested_read (hwf : s.mem.wf = true) (ctx : Place) (d m k : Nat) :
    (s.digested ctx 64 (digestOf d m k)).mem.read ctx.key 64 = sha3 (d + m * 2 ^ 512) (64 + k) % 2 ^ 512 := by
  rw [State.digested_mem, Mem.read_write hwf, digestOf_mod]

theorem digested_get (hwf : s.mem.wf = true) (ctx : Place) (d : Nat) {k : Nat} (hk : k < ctx.key ∨ ctx.key + 64 ≤ k) :
    (s.digested ctx 64 d).mem.get k = s.mem.get k := by
  rw [State.digested_mem, Mem.get_write_other hwf _ _ _ _ hk]

end

/-- Settles O35, the draws by their widths, a digest as one access to the own scratchpad. -/
theorem drawsAndDigests : Obligations.DrawsAndDigests := by
  unfold Obligations.DrawsAndDigests
  intro s u w y d a b n pl pls
  have hdraw : s.fir.draw (s.stream a) (s.rx b) = drawOf s.fir.seedlo s.fir.seedhi (s.rx b) (if a = 0 then s.fir.sstream else s.rx a) := rfl
  dsimp only
  rw [← hdraw]
  refine ⟨fun hi => ?_, fun hi => ?_, fun hi => ?_, fun hwf hp => ⟨fun hi => ?_, fun hi => ⟨fun h0 => ?_, fun h0 hbn hab han hpd hdt he hn => ?_⟩⟩⟩
  · rw [exec_spdraw, execSpdraw, plain_issues hi]
    cases y
    · exact congrArg (fun x => finish s (.ok (.done (s.wx d x)))) (ofNat_mod_32 _)
    · exact congrArg (fun x => finish s (.ok (.done (s.wx d x)))) (ofNat_mod_64 _)
  · rw [exec_spuni, execSpuni, plain_issues hi]
    cases y <;> rfl
  · rw [exec_spexp, execSpexp, plain_issues hi]
    cases y <;> rfl
  · obtain ⟨rfl, -⟩ := State.ownSpad_ok hp
    refine ⟨_, exec_digest_own hi hp, ?_, fun k hk => ?_, ?_, rfl⟩
    · rw [State.upd_mem, digested_read hwf]
    · rw [State.upd_mem, digested_get hwf pl _ hk]
    · exact u.usePath_advance pl
  · obtain ⟨rfl, -⟩ := State.ownSpad_ok hp
    rw [exec_digestm_own hi hp, State.digestStep, if_pos h0]
    rfl
  · obtain ⟨rfl, -⟩ := State.ownSpad_ok hp
    have hn0 : n ≠ 0 := fun hz => h0 (by rw [hz]; rfl)
    have hle : u.digestLen b n ≤ (u.rx n).toNat := Nat.min_le_left ..
    obtain ⟨v, hmem, hfir, hstep⟩ := digestStep_near pl h0 he hn
    have hrn : v.rx n = u.rx n - BitVec.ofNat 64 (u.digestLen b n) := by
      rw [State.rx, hfir, Firing.rx_wx_self _ hn0]
    have hrb : b ≠ 0 → v.rx b = u.rx b + BitVec.ofNat 64 (u.digestLen b n) := fun hb => by
      rw [State.rx, hfir, Firing.rx_wx_other _ hbn, Firing.rx_wx_self _ hb]
    have hrx : ∀ x, x ≠ b → x ≠ n → v.rx x = u.rx x := fun x hxb hxn => by
      rw [State.rx, hfir, Firing.rx_wx_other _ hxn, Firing.rx_wx_other _ hxb]
      rfl
    have hlen : v.rx n = 0 ↔ (u.rx n).toNat = u.digestLen b n := by
      have hlt := (u.rx n).isLt
      rw [hrn, ← BitVec.toNat_inj, BitVec.toNat_sub, BitVec.toNat_ofNat]
      simp only [BitVec.ofNat_eq_ofNat, BitVec.toNat_ofNat, Nat.zero_mod]
      omega
    have hdigest : v.mem.read pl.key 64 = sha3 (w.mem.read pl.key 64 + packNat 8 (pls.map fun p => w.readAt p.2 1) * 2 ^ 512)
        (64 + u.digestLen b n) % 2 ^ 512 := by
      rw [hmem, ← State.digested_mem]
      exact digested_read ((State.elemPlaces_reached he).2 hwf) pl _ _ _
    have hpc : v.fir.pc = u.fir.pc := by rw [hfir, Firing.wx_pc, Firing.wx_pc]
    by_cases hz : v.rx n = 0
    · refine ⟨v.upd Firing.advance, ?_, hdigest, ?_, fun hb => ?_, fun x hxb hxn => ?_, fun _ => ?_, fun hne => absurd (hlen.mp hz) hne⟩
      · rw [exec_digestm_own hi hp, hstep, State.digestEnd, if_pos hz]
        rfl
      · exact (Firing.rx_congr (Firing.advance_x _) n).trans hrn
      · exact (Firing.rx_congr (Firing.advance_x _) b).trans (hrb hb)
      · exact (Firing.rx_congr (Firing.advance_x _) x).trans (hrx x hxb hxn)
      · exact Firing.advance_pc_congr hpc (by rw [hfir, Firing.wx_fstat, Firing.wx_fstat]) (by rw [hfir, Firing.wx_repw, Firing.wx_repw])
          (by rw [hfir, Firing.wx_repf, Firing.wx_repf])
    · refine ⟨v.upd fun f => { f with wait := none, granted := false, aged := false }, ?_, hdigest, hrn, hrb, hrx, fun heq => absurd (hlen.mpr heq) hz,
        fun _ => ⟨hpc, rfl⟩⟩
      rw [exec_digestm_own hi hp, hstep, State.digestEnd, if_neg hz]
      rfl

end Sys2Proof.Machine
end

section
/-! SUPPORT. What parts loaded into a vector register leave there, and stores to places at hand (R144, R146, R152 to R155). -/

namespace Sys2Proof.Machine

/-! ### Elements set one after another -/

theorem Firing.wv_wv (f : Firing) (d : BitVec 5) (v w : Vec) : (f.wv d v).wv d w = f.wv d w := by
  simp [Firing.wv]

theorem Firing.wv_rv (f : Firing) (d : BitVec 5) : f.wv d (f.rv d) = f := by
  simp [Firing.wv, Firing.rv]

/-- A register with elements of width w set in order. -/
def setElems {m : Nat} (w : Nat) (r : BitVec m) (xs : List (Nat × Nat)) : BitVec m := xs.foldl (fun r x => setElem r w x.1 x.2) r

section
variable {m w e i : Nat} {xs : List (Nat × Nat)}

theorem setElems_other (r : BitVec m) (h : e ∉ xs.map Prod.fst) (hr : w * e + w ≤ m) : elem (setElems w r xs) w e = elem r w e := by
  induction xs generalizing r with
  | nil => rfl
  | cons x xs ih =>
    rw [List.map_cons, List.mem_cons, not_or] at h
    exact (ih _ h.2).trans ((elem_setElem r x.1 x.2 hr).trans (if_neg h.1))

theorem setElems_self (r : BitVec m) {x : Nat × Nat} (hn : (xs.map Prod.fst).Nodup) (hx : x ∈ xs) (hr : w * x.1 + w ≤ m) :
    elem (setElems w r xs) w x.1 = x.2 % 2 ^ w := by
  induction xs generalizing r with
  | nil => cases hx
  | cons y xs ih =>
    rw [List.map_cons, List.nodup_cons] at hn
    rcases List.mem_cons.mp hx with rfl | hx
    · exact (setElems_other _ hn.1 hr).trans ((elem_setElem r x.1 x.2 hr).trans (if_pos rfl))
    · exact ih _ hn.2 hx

theorem elem_half_setElem (r : Vec) (j v : Nat) (hi : i < 64) (hj : i / 2 ≠ j) : elem (setElem r 64 j v) 32 i = elem r 32 i := by
  refine Nat.eq_of_testBit_eq fun b => ?_
  by_cases hb : b < 32
  · have hpos : 32 * i + b = 64 * (i / 2) + (32 * (i % 2) + b) := by omega
    rw [elem_testBit hb, elem_testBit hb, hpos, setElem_getLsbD r j v (by omega) (by omega), if_neg hj]
  · rw [elem, elem, Nat.testBit_mod_two_pow, Nat.testBit_mod_two_pow, decide_eq_false hb, Bool.false_and, Bool.false_and]

theorem setElems_half (r : Vec) (hi : i < 64) (h : i / 2 ∉ xs.map Prod.fst) : elem (setElems 64 r xs) 32 i = elem r 32 i := by
  induction xs generalizing r with
  | nil => rfl
  | cons x xs ih =>
    rw [List.map_cons, List.mem_cons, not_or] at h
    exact (ih _ h.2).trans (elem_half_setElem r x.1 x.2 hi h.1)

end

section
variable {f : Firing} {u : State} {n w : Nat} {d : BitVec 5} {r : Nat → Reply} {val : Nat → Nat} {pls : List (Nat × Place)}

/-- Replies that each set one element of a vector register set them all in it. -/
theorem Firing.replies_elems (hr : ∀ (g : Firing) e, ∀ b < 256 ^ n, g.reply (r e) (BitVec.ofNat 64 b) 0 = g.wv d (setElem (g.rv d) w e (val b))) :
    f.replies u n r pls = f.wv d (setElems w (f.rv d) (pls.map fun p => (p.1, val (u.readAt p.2 n)))) := by
  induction pls generalizing f with
  | nil => exact (Firing.wv_rv f d).symm
  | cons p pls ih =>
    refine (congrArg (Firing.replies · u n r pls) (hr f p.1 _ (u.readAt_lt p.2 n))).trans (ih.trans ?_)
    rw [Firing.wv_wv, Firing.rv_wv_same]
    rfl

theorem Firing.reply_lane_wide (g : Firing) (d : BitVec 5) (i : Nat) (sg : Bool) {b : Nat} (hb : b < 256 ^ 8) :
    g.reply (.lane d i 8 sg) (BitVec.ofNat 64 b) 0 = g.wv d (setElem (g.rv d) 64 i b) := by
  unfold Firing.reply
  dsimp only
  rw [if_pos rfl, BitVec.toNat_ofNat, Nat.mod_eq_of_lt (lt_of_lt_of_le hb (by norm_num))]

theorem Firing.reply_lane_narrow (g : Firing) (d : BitVec 5) (i : Nat) (sg : Bool) {n b : Nat} (hn : n < 8) (hb : b < 256 ^ n) :
    g.reply (.lane d i n sg) (BitVec.ofNat 64 b) 0 = g.wv d (setElem (g.rv d) 32 i (extend sg n b).toNat) := by
  have hlt : b < 2 ^ 64 := lt_of_lt_of_le hb (by rw [show (256 : Nat) = 2 ^ 8 from rfl, ← pow_mul]; exact Nat.pow_le_pow_right (by decide) (by omega))
  unfold Firing.reply
  dsimp only
  rw [if_neg (by omega), BitVec.toNat_ofNat, Nat.mod_eq_of_lt hlt]

/-- A firing that ends an instruction with one vector register written. -/
theorem Firing.sameBesideVec_wv (f : Firing) (d : BitVec 5) (v : Vec) (p : List Nat) :
    ({ ({ f with data := [] } : Firing).wv d v with paths := p } : Firing).advance.sameBesideVec f d := by
  refine ⟨?_, ?_, ?_, ?_, ?_, ?_, fun x hx => ?_, ?_, ?_, ?_, ?_, ?_, ?_, ?_, ?_, ?_, ?_, ?_, ?_, ?_, ?_, ?_⟩
  case refine_7 => exact (Firing.rv_congr (Firing.advance_v _) x).trans (f.rv_wv_ne v hx)
  all_goals simp [Firing.wv]

theorem Firing.sameBesideVec_wv_kept (f : Firing) (d : BitVec 5) (v : Vec) (p : List Nat) :
    ({ f.wv d v with paths := p } : Firing).advance.sameBesideVec f d := by
  refine ⟨?_, ?_, ?_, ?_, ?_, ?_, fun x hx => ?_, ?_, ?_, ?_, ?_, ?_, ?_, ?_, ?_, ?_, ?_, ?_, ?_, ?_, ?_, ?_⟩
  case refine_7 => exact (Firing.rv_congr (Firing.advance_v _) x).trans (f.rv_wv_ne v hx)
  all_goals simp [Firing.wv]

end

/-! ### The active elements -/

theorem activeElems_nodup (k : Word) (n : Nat) : (activeElems k n).Nodup := List.nodup_range.filter _

theorem activeLanes_nodup (k : Word) (n : Nat) : (activeLanes k n).Nodup := List.nodup_range.filter _

theorem activeElems_lt {k : Word} {n e : Nat} (h : e ∈ activeElems k n) : e < 256 / n := List.mem_range.mp (List.mem_filter.mp h).1

theorem activeLanes_lt {k : Word} {n e : Nat} (h : e ∈ activeLanes k n) : e < if n = 8 then 32 else 64 := List.mem_range.mp (List.mem_filter.mp h).1

theorem esize_mem (t : ElemTy) : esize t ∈ [1, 2, 4, 8] := by cases t <;> decide

theorem esize_le (t : ElemTy) : esize t ≤ 8 := by cases t <;> decide

theorem esize_room {t : ElemTy} {e : Nat} (h : e < 256 / esize t) : 8 * esize t * e + 8 * esize t ≤ 2048 := by
  have hn : 0 < esize t := by cases t <;> decide
  have := (Nat.le_div_iff_mul_le hn).mp h
  rw [Nat.succ_mul, Nat.mul_comm e] at this
  rw [Nat.mul_assoc]
  omega

theorem loadRoom_fits {s : State} {n : Nat} (h : s.loadsFit n) : s.loadRoom n = .ok () := if_neg (not_lt.mpr h)

theorem loadRoom_full {s : State} {n : Nat} (h : ¬ s.loadsFit n) : s.loadRoom n = block s .loads := if_pos (not_le.mp h)

/-! ### Bytes held -/

theorem heldGet_heldSet (m : List (Nat × Byte)) (a k : Nat) (b : Byte) : heldGet (heldSet m a b) k = if k = a then some b else heldGet m k := by
  induction m with
  | nil => simp only [heldSet, heldGet]; grind
  | cons x m ih => simp only [heldSet]; grind [heldGet]

theorem heldGet_heldWrite_other (m : List (Nat × Byte)) (a n v k : Nat) (h : k < a ∨ a + n ≤ k) : heldGet (heldWrite m a n v) k = heldGet m k := by
  induction n generalizing m a v with
  | zero => rfl
  | succ n ih =>
    rw [heldWrite, ih _ _ _ (by omega), heldGet_heldSet, if_neg (by omega)]

theorem Frond.devRead_congr {f g : Frond} {k n : Nat} (h : ∀ a, k ≤ a → a < k + n → f.devByte a = g.devByte a) : f.devRead k n = g.devRead k n := by
  induction n generalizing k with
  | zero => rfl
  | succ n ih =>
    rw [Frond.devRead, Frond.devRead, h k le_rfl (by omega), ih fun a h1 h2 => h a (by omega) (by omega)]

theorem Frond.devRead_heldWrite (fr : Frond) (k n v : Nat) : { fr with held := heldWrite fr.held k n v }.devRead k n = v % 256 ^ n := by
  induction n generalizing fr k v with
  | zero => rw [pow_zero, Nat.mod_one]; rfl
  | succ n ih =>
    have hb : ({ fr with held := heldWrite fr.held k (n + 1) v } : Frond).devByte k = BitVec.ofNat 8 v := by
      rw [Frond.devByte, heldWrite, heldGet_heldWrite_other _ _ _ _ _ (.inl (Nat.lt_succ_self k)), heldGet_heldSet, if_pos rfl]
      rfl
    have hrest := ih { fr with held := heldSet fr.held k (BitVec.ofNat 8 v) } (k + 1) (v / 256)
    rw [Frond.devRead, hb, BitVec.toNat_ofNat]
    exact (congrArg (v % 2 ^ 8 + 256 * ·) hrest).trans ((Nat.mod_mul (x := v) (a := 256) (b := 256 ^ n)).symm.trans (by rw [pow_succ']))

/-! ### Stores -/

section
variable {s u : State} {n v : Nat} {pl q : Place}

/-- A state that an instruction of u's acting firing passes through while it stores: what tells which places are at hand is as before. -/
def State.storing (t u : State) : Prop :=
  t.fir = { u.fir with paths := t.fir.paths } ∧ t.cores = u.cores ∧ t.teams = u.teams ∧ t.others = u.others ∧ t.parts = u.parts ∧
    (u.mem.wf = true → t.mem.wf = true)

theorem State.storing_refl (s : State) : s.storing s := ⟨rfl, rfl, rfl, rfl, rfl, id⟩

theorem State.storing_trans {t : State} (h : t.storing s) (h' : s.storing u) : t.storing u := by
  obtain ⟨h1, h2, h3, h4, h5, h6⟩ := h
  obtain ⟨h1', h2', h3', h4', h5', h6'⟩ := h'
  refine ⟨?_, h2.trans h2', h3.trans h3', h4.trans h4', h5.trans h5', fun hw => h6 (h6' hw)⟩
  rw [h1, h1']

theorem State.near_storing (h : s.storing u) : s.near true n pl = u.near true n pl := by
  obtain ⟨h1, hc, ht, -⟩ := h
  have ha : s.fir.adm = u.fir.adm := by rw [h1]
  have hcore : s.fir.core = u.fir.core := by rw [h1]
  have hf : s.fir.frond = u.fir.frond := by simp only [Firing.frond, hcore]
  have hp : s.postedAt true pl n = u.postedAt true pl n := by cases pl <;> simp only [State.postedAt, hc, ha, hcore]
  have hh : s.headers = u.headers := by simp only [State.headers, ht]
  cases pl <;> simp only [State.near, hp, hh, hf, Bool.true_or]

/-- An ordinary write of n bytes at a place, its path noted. -/
def State.put (s : State) (pl : Place) (n v : Nat) : State := (s.usePath pl).writeAt pl n v

theorem State.put_storing (s : State) (pl : Place) (n v : Nat) : (s.put pl n v).storing s := by
  unfold State.put
  cases pl with
  | spad h o => exact ⟨rfl, rfl, rfl, rfl, rfl, fun hw => Mem.wf_write hw _ _ _⟩
  | shm o => exact ⟨rfl, rfl, rfl, rfl, rfl, fun hw => Mem.wf_write hw _ _ _⟩
  | unc k => exact ⟨rfl, rfl, rfl, rfl, rfl, fun hw => Mem.wf_write hw _ _ _⟩
  | _ => exact ⟨rfl, rfl, rfl, rfl, rfl, id⟩

theorem State.put_fronds (s : State) (pl : Place) (n v : Nat) {h : Fin 1024} (hh : h ≠ s.fir.frond) : (s.put pl n v).fronds[h] = s.fronds[h] := by
  cases pl with
  | dev k =>
    exact Vector.getElem_set_ne s.fir.frond.isLt h.isLt fun e => hh (Fin.ext e.symm)
  | _ => rfl

theorem State.storeAt_near (h : s.near true n pl = true) (v : Nat) : s.storeAt pl n v = s.put pl n v := by
  cases pl with
  | ctl o => simp [State.near] at h
  | far a b c => simp [State.near] at h
  | shm o =>
    refine State.keepHeaders_of_noHeader ?_ s.mem
    have hh : (s.headers.all fun h => decide (shmKey o + n ≤ h) || decide (h + 64 ≤ shmKey o)) = true := (Bool.and_eq_true_iff.mp h).2
    rw [List.all_eq_true] at hh
    intro a ha
    simpa using hh a ha
  | _ => rfl

theorem State.put_fr_dev (s : State) (k n v : Nat) : (s.put (.dev k) n v).fr = { s.fr with held := heldWrite s.fr.held k n v } :=
  Vector.getElem_set_self _

theorem State.put_fr (s : State) (n v : Nat) (h : ∀ k, pl ≠ .dev k) : (s.put pl n v).fr = s.fr := by
  cases pl with
  | dev k => exact absurd rfl (h k)
  | _ => rfl

theorem State.put_mem_dev (s : State) (k n v : Nat) : (s.put (.dev k) n v).mem = s.mem := rfl

theorem State.put_mem (h : s.near true n pl = true) (v : Nat) (hd : ∀ k, pl ≠ .dev k) : (s.put pl n v).mem = s.mem.write pl.key n v := by
  cases pl with
  | dev k => exact absurd rfl (hd k)
  | ctl o => simp [State.near] at h
  | far a b c => simp [State.near] at h
  | unc k => exact State.homePut_mem ..
  | _ => rfl

theorem State.readAt_put (hw : s.mem.wf = true) (h : s.near true n pl = true) : (s.put pl n v).readAt pl n = v % 256 ^ n := by
  by_cases hd : ∃ k, pl = .dev k
  · obtain ⟨k, rfl⟩ := hd
    rw [State.readAt, State.put_fr_dev, Frond.devRead_heldWrite]
  · have hm := State.put_mem h v fun k hk => hd ⟨k, hk⟩
    have hr : (s.put pl n v).readAt pl n = (s.put pl n v).mem.read pl.key n := by
      cases pl with
      | dev k => exact absurd ⟨k, rfl⟩ hd
      | _ => rfl
    rw [hr, hm, Mem.read_write hw]

/-- A byte that a store does not cover reads as before. -/
theorem State.byteSeen_put (hw : s.mem.wf = true) (h : s.near true n pl = true) (hq : pl.covers n q = false) :
    (s.put pl n v).byteSeen q = s.byteSeen q := by
  refine congrArg (BitVec.ofNat 8) ?_
  by_cases hd : ∃ k, pl = .dev k
  · obtain ⟨k, rfl⟩ := hd
    cases q with
    | dev j =>
      rw [State.readAt, State.readAt, State.put_fr_dev]
      refine Frond.devRead_congr fun a h1 h2 => ?_
      have ha : a = j := by omega
      simp only [Place.covers, Bool.and_eq_false_iff, decide_eq_false_iff_not, not_le, not_lt] at hq
      rw [Frond.devByte, Frond.devByte, heldGet_heldWrite_other _ _ _ _ _ (by omega)]
    | _ => rfl
  · have hm := State.put_mem h v fun k hk => hd ⟨k, hk⟩
    have hf : (s.put pl n v).fr = s.fr := State.put_fr s n v fun k hk => hd ⟨k, hk⟩
    cases q with
    | dev j => rw [State.readAt, State.readAt, hf]
    | _ =>
      rw [State.readAt, State.readAt, hm]
      · refine Mem.read_write_apart hw _ ?_
        cases pl with
        | dev k => exact absurd ⟨k, rfl⟩ hd
        | _ =>
          simp only [Place.covers, Bool.and_eq_false_iff, decide_eq_false_iff_not, not_le, not_lt] at hq
          omega
      · nofun
      · nofun

end

section
variable {s u : State} {n : Nat} {q : Place} {xs : List (Place × Nat)}

theorem State.storeEach_cons (s : State) (n : Nat) (x : Place × Nat) (xs : List (Place × Nat)) :
    s.storeEach n (x :: xs) = (s.put x.1 n x.2).storeEach n xs := rfl

theorem State.storeEach_storing (s : State) (n : Nat) (xs : List (Place × Nat)) : (s.storeEach n xs).storing s := by
  induction xs generalizing s with
  | nil => exact s.storing_refl
  | cons x xs ih => exact State.storing_trans (ih _) (s.put_storing ..)

theorem State.byteSeen_storeEach (hw : s.mem.wf = true) (h : ∀ x ∈ xs, s.near true n x.1 = true) (hq : ∀ x ∈ xs, x.1.covers n q = false) :
    (s.storeEach n xs).byteSeen q = s.byteSeen q := by
  induction xs generalizing s with
  | nil => rfl
  | cons x xs ih =>
    have hs := s.put_storing x.1 n x.2
    rw [State.storeEach_cons, ih (hs.2.2.2.2.2 hw) (fun y hy => (State.near_storing hs).trans (h y (List.mem_cons_of_mem _ hy)))
      fun y hy => hq y (List.mem_cons_of_mem _ hy)]
    exact State.byteSeen_put hw (h x (List.mem_cons_self ..)) (hq x (List.mem_cons_self ..))

theorem State.foldl_storeAt (h : ∀ x ∈ xs, s.near true n x.1 = true) : xs.foldl (fun t x => t.storeAt x.1 n x.2) s = s.storeEach n xs := by
  induction xs generalizing s with
  | nil => rfl
  | cons x xs ih =>
    rw [List.foldl_cons, State.storeAt_near (h x (List.mem_cons_self ..)), State.storeEach_cons]
    exact ih fun y hy => (State.near_storing (s.put_storing ..)).trans (h y (List.mem_cons_of_mem _ hy))

theorem State.farStores_near (h : ∀ x ∈ xs, s.near true n x.1 = true) (ref : Nat → Ref) :
    s.farStores n xs ref = .ok (s.upd fun f => { f with data := [] }) := by
  have hp : farPuts n xs = [] := by
    rw [farPuts, State.farDwords_near (s := s) (wr := true) (n := n) fun p hp => by obtain ⟨x, hx, rfl⟩ := List.mem_map.mp hp; exact h x hx]
    rfl
  unfold State.farStores
  rw [hp]
  rfl

theorem State.storeParts_near (h : ∀ x ∈ xs, s.near true n x.1 = true) (hd : s.fir.data = []) (ref : Nat → Ref) :
    s.storeParts n xs ref = .ok (s.storeEach n xs) := by
  have hu : (s.upd fun f => { f with data := [] }) = s := by
    rw [← hd]
    rfl
  unfold State.storeParts
  rw [State.afterPosted_near fun p hp => by obtain ⟨x, hx, rfl⟩ := List.mem_map.mp hp; exact h x hx, ok_bind, State.farStores_near h, ok_bind, hu]
  refine congrArg Except.ok ((List.foldl_ext _ _ _ fun t x hx => ?_).trans (State.foldl_storeAt h))
  have hn := h x hx
  obtain ⟨pl, v⟩ := x
  cases pl with
  | far a b c => simp [State.near] at hn
  | _ => rfl

end

end Sys2Proof.Machine
end

section
/-! PROOF. Loads and stores (R144 to R146). -/

namespace Sys2Proof.Machine

section
variable {s u : State} {n : Nat} {pl : Place}

theorem bytes_le_dword {n x : Nat} (hn : n ≤ 8) (hx : x < 256 ^ n) : x < 2 ^ 64 :=
  lt_of_lt_of_le hx (by rw [show (256 : Nat) = 2 ^ 8 from rfl, ← pow_mul]; exact Nat.pow_le_pow_right (by decide) (by omega))

theorem loadValue_eq (t : LdTy) {x : Nat} (hx : x < 256 ^ (ldSize t).1) :
    extend (ldSize t).2 (ldSize t).1 (BitVec.ofNat 64 x).toNat = loadValue t x := by
  have hlt : x < 2 ^ 64 := bytes_le_dword (by cases t <;> decide) hx
  rw [BitVec.toNat_ofNat, Nat.mod_eq_of_lt hlt, extend_eq _ (by cases t <;> decide)]
  cases t with
  | n64 => exact BitVec.setWidth_eq (BitVec.ofNat 64 x)
  | _ => rfl

theorem State.scalarLoad_near (h : s.near false n pl = true) (hf : s.loadsFit 1) (d : BitVec 6) (sg : Bool) (ref : Ref) :
    s.scalarLoad pl n d sg ref = .ok (.done (s.loadInto pl n (.scalar d n sg))) := by
  have hl : ∀ p ∈ [pl], s.near false n p = true := fun p hp => by rw [List.mem_singleton.mp hp]; exact h
  have hport := State.needsPort_near hl
  have hwin := State.window_near h .load n ref.va
  have hpost := State.afterPosted_near hl
  unfold State.scalarLoad
  rw [loadRoom_fits hf, ok_bind]
  cases pl with
  | far a b c => simp [State.near] at h
  | _ =>
    dsimp only
    rw [hport, hwin, hpost]
    rfl

theorem State.scalarLoad_full (hf : ¬ s.loadsFit 1) (d : BitVec 6) (sg : Bool) (ref : Ref) : s.scalarLoad pl n d sg ref = block s .loads := by
  unfold State.scalarLoad
  rw [loadRoom_full hf]
  rfl

theorem State.scalarStore_near (h : s.near true n pl = true) (v : Word) (ref : Ref) :
    s.scalarStore pl n v ref = .ok (.done (s.put pl n (v.toNat % 2 ^ (8 * n)))) := by
  have hl : ∀ p ∈ [pl], s.near true n p = true := fun p hp => by rw [List.mem_singleton.mp hp]; exact h
  have hport := State.needsPort_near hl
  have hwin := State.window_near h .store n ref.va
  have hpost := State.afterPosted_near hl
  have hstore := State.storeAt_near h (v.toNat % 2 ^ (8 * n))
  unfold State.scalarStore
  cases pl with
  | far a b c => simp [State.near] at h
  | _ =>
    dsimp only
    rw [hport, hwin, hpost, hstore]
    rfl

theorem State.scalarStore_shared {o : Nat} (h : s.postedAt true (.shm o) n = false) (v : Word) (ref : Ref) :
    s.scalarStore (.shm o) n v ref = .ok (.done (s.storeAt (.shm o) n (v.toNat % 2 ^ (8 * n)))) := by
  have hport : s.needsPort [.shm o] = false := Bool.and_eq_false_iff.mpr (.inr rfl)
  unfold State.scalarStore
  dsimp only
  rw [hport, State.afterPosted_none h]
  rfl

/-! ### Stream headers (R83) -/

/-- A stream header holds what stores may not change, from memory before them: CONS, CONS0 and PROD0, and CLOSED once set. -/
def headerKept (old m : Mem) (h : Nat) : Prop :=
  m.read (h + 8) 8 = old.read (h + 8) 8 ∧ m.read (h + 24) 16 = old.read (h + 24) 16 ∧
    ((old.get (h + 40)).getLsbD 0 = true → (m.get (h + 40)).getLsbD 0 = true)

theorem headerKept_congr {old m m' : Mem} {h : Nat} (he : ∀ a, h ≤ a → a < h + 64 → m'.get a = m.get a) (hk : headerKept old m h) : headerKept old m' h := by
  obtain ⟨h1, h2, h3⟩ := hk
  refine ⟨(Mem.read_congr fun a ha hb => he a (by omega) (by omega)).trans h1, (Mem.read_congr fun a ha hb => he a (by omega) (by omega)).trans h2, fun hc => ?_⟩
  rw [he (h + 40) (by omega) (by omega)]
  exact h3 hc

theorem Mem.get_testBit_read (m : Mem) (a n : Nat) : (m.read a (n + 1)).testBit 0 = (m.get a).getLsbD 0 := by
  rw [Mem.read, BitVec.getLsbD, Nat.testBit_zero, Nat.testBit_zero]
  congr 2
  omega

theorem keepHeader_wf {old m : Mem} (hw : m.wf = true) (h : Nat) : (keepHeader old m h).wf = true := by
  unfold keepHeader
  exact Mem.wf_write (Mem.wf_write (Mem.wf_write (Mem.wf_write (Mem.wf_write hw _ _ _) _ _ _) _ _ _) _ _ _) _ _ _

theorem keepHeader_get_other {old m : Mem} (hw : m.wf = true) {h a : Nat} (ha : a < h ∨ h + 64 ≤ a) : (keepHeader old m h).get a = m.get a := by
  have w1 := Mem.wf_write hw (h + 8) 8 (old.read (h + 8) 8)
  have w2 := Mem.wf_write w1 (h + 24) 16 (old.read (h + 24) 16)
  have w3 := Mem.wf_write w2 (h + 40) 8 ((m.read (h + 40) 8 ||| old.read (h + 40) 8) % 2)
  have w4 := Mem.wf_write w3 h 8 (m.read h 8 &&& 0xFFFF1FFFFFFF)
  unfold keepHeader
  dsimp only
  rw [Mem.get_write_other w4 _ _ _ _ (by omega), Mem.get_write_other w3 _ _ _ _ (by omega), Mem.get_write_other w2 _ _ _ _ (by omega),
    Mem.get_write_other w1 _ _ _ _ (by omega), Mem.get_write_other hw _ _ _ _ (by omega)]

theorem keepHeader_kept {old m : Mem} (hw : m.wf = true) (h : Nat) : headerKept old (keepHeader old m h) h := by
  have w1 := Mem.wf_write hw (h + 8) 8 (old.read (h + 8) 8)
  have w2 := Mem.wf_write w1 (h + 24) 16 (old.read (h + 24) 16)
  have w3 := Mem.wf_write w2 (h + 40) 8 ((m.read (h + 40) 8 ||| old.read (h + 40) 8) % 2)
  have w4 := Mem.wf_write w3 h 8 (m.read h 8 &&& 0xFFFF1FFFFFFF)
  unfold headerKept keepHeader
  dsimp only
  refine ⟨?_, ?_, fun hc => ?_⟩
  · rw [Mem.read_write_apart w4 _ (by omega), Mem.read_write_apart w3 _ (by omega), Mem.read_write_apart w2 _ (by omega),
      Mem.read_write_apart w1 _ (by omega), Mem.read_write hw, Nat.mod_eq_of_lt (Mem.read_lt ..)]
  · rw [Mem.read_write_apart w4 _ (by omega), Mem.read_write_apart w3 _ (by omega), Mem.read_write_apart w2 _ (by omega),
      Mem.read_write w1, Nat.mod_eq_of_lt (Mem.read_lt ..)]
  · have hold : (old.read (h + 40) 8).testBit 0 = true := (Mem.get_testBit_read old (h + 40) 7).trans hc
    rw [Mem.get_write_other w4 _ _ _ _ (by omega), Mem.get_write_other w3 _ _ _ _ (by omega), ← Mem.get_testBit_read _ _ 7, Mem.read_write w2]
    generalize old.read (h + 40) 8 = x at hold
    have hor : (m.read (h + 40) 8 ||| x).testBit 0 = true := by rw [Nat.testBit_or, hold, Bool.or_true]
    generalize m.read (h + 40) 8 ||| x = y at hor
    rw [Nat.testBit_zero, decide_eq_true_eq] at hor ⊢
    omega

/-- Restoring headers that do not overlap keeps each of them, and those kept already. -/
theorem keepHeaders_kept {old m : Mem} {hs : List Nat} {h : Nat} (hw : m.wf = true) (hap : ∀ g ∈ hs, g = h ∨ g + 64 ≤ h ∨ h + 64 ≤ g)
    (hh : h ∈ hs ∨ headerKept old m h) : headerKept old (hs.foldl (keepHeader old) m) h := by
  induction hs generalizing m with
  | nil => exact hh.resolve_left List.not_mem_nil
  | cons g hs ih =>
    have hw' := keepHeader_wf (old := old) hw g
    have hself : headerKept old (keepHeader old m g) g := keepHeader_kept hw g
    have hother : ∀ {a}, a < g ∨ g + 64 ≤ a → (keepHeader old m g).get a = m.get a := keepHeader_get_other hw
    rw [List.foldl_cons]
    generalize keepHeader old m g = m' at *
    refine ih hw' (fun x hx => hap x (List.mem_cons_of_mem _ hx)) ?_
    rcases hap g (List.mem_cons_self ..) with rfl | hfar
    · exact .inr hself
    · rcases hh with hh | hk
      · rcases List.mem_cons.mp hh with rfl | hh
        · exact .inr hself
        · exact .inl hh
      · exact .inr (headerKept_congr (fun a h1 h2 => hother (by omega)) hk)

theorem headers_mod {h : Nat} (hh : h ∈ s.headers) : h % 64 = 0 := by
  unfold State.headers at hh
  obtain ⟨t, -, ht⟩ := List.mem_flatMap.mp hh
  split at ht
  · obtain ⟨x, hx, he⟩ := List.mem_filterMap.mp ht
    obtain ⟨i, -, rfl⟩ := List.mem_map.mp hx
    split at he
    · cases he
      rw [slotOf, slotOff, shmKey]
      dsimp only
      omega
    · cases he
  · cases ht

theorem keepHeaders_mem (s : State) (old : Mem) (k n : Nat) : (s.keepHeaders old k n).mem =
    (s.headers.filter fun h => decide (h < k + n) && decide (k < h + 64)).foldl (keepHeader old) s.mem := by
  unfold State.keepHeaders
  split
  next h => rw [h]; rfl
  next => rfl

theorem storeAt_shared_kept (hw : s.mem.wf = true) {o v : Nat} {h : Nat} (hh : h ∈ s.headers) : headerKept s.mem (s.storeAt (.shm o) n v).mem h := by
  have hw' := Mem.wf_write hw (shmKey o) n v
  have hstore : s.storeAt (.shm o) n v = (s.put (.shm o) n v).keepHeaders s.mem (shmKey o) n := rfl
  have hhead : (s.put (.shm o) n v).headers = s.headers := rfl
  have hmem : (s.put (.shm o) n v).mem = s.mem.write (shmKey o) n v := rfl
  rw [hstore, keepHeaders_mem, hhead, hmem]
  refine keepHeaders_kept hw' (fun g hg => ?_) ?_
  · have h1 := headers_mod hh
    have h2 := headers_mod (List.mem_filter.mp hg).1
    omega
  · by_cases hin : (decide (h < shmKey o + n) && decide (shmKey o < h + 64)) = true
    · exact .inl (List.mem_filter.mpr ⟨hh, hin⟩)
    · rw [Bool.and_eq_true, decide_eq_true_eq, decide_eq_true_eq, not_and_or] at hin
      exact .inr (headerKept_congr (fun a h1 h2 => Mem.get_write_other hw _ _ _ _ (by omega)) ⟨rfl, rfl, id⟩)

theorem keepHeaders_fir (s : State) (old : Mem) (k n : Nat) : (s.keepHeaders old k n).fir = s.fir := by
  unfold State.keepHeaders
  split <;> rfl

end

/-- The bytes a store leaves at its place, for the sizes of ST. -/
theorem stored_value (t : StSz) (w : Word) : (w.toNat % 2 ^ (8 * stSize t)) % 256 ^ stSize t = w.toNat % 256 ^ stSize t := by
  rw [show (256 : Nat) = 2 ^ 8 from rfl, ← pow_mul, Nat.mod_mod]

theorem State.storing_ends {s v : State} (h : v.storing s) : (v.upd Firing.advance).fir = { s.fir.advance with paths := (v.upd Firing.advance).fir.paths } := by
  obtain ⟨hf, -⟩ := h
  rw [State.upd_fir, Firing.advance_paths, ← Firing.advance_withPaths, ← hf]

theorem State.readAt_advance (s : State) (pl : Place) (n : Nat) : (s.upd Firing.advance).readAt pl n = s.readAt pl n := by
  have hf : (s.upd Firing.advance).fr = s.fr := by simp only [State.fr, State.upd_fronds, State.upd_fir, Firing.advance_frond]
  cases pl <;> simp only [State.readAt, hf, State.upd_mem]

theorem State.byteSeen_advance (s : State) (pl : Place) : (s.upd Firing.advance).byteSeen pl = s.byteSeen pl := by
  rw [State.byteSeen, State.readAt_advance, State.byteSeen]

/-- Settles O12: a load through what a place at hand holds, a store through what it leaves of every byte and of the stream headers. -/
theorem loadsAndStores : Obligations.LoadsAndStores := by
  unfold Obligations.LoadsAndStores
  refine ⟨fun s u t d b i pl hi ha hn => ?_, fun s u t b c i pl hw hi ha => ?_⟩
  · have hexec : exec (.ld t d b i) s = finish s (u.scalarLoad pl (ldSize t).1 d (ldSize t).2 (.at (ofInt (s.ea b i)))) := by
      rw [exec_ld, execLd, plain_issues hi]
      dsimp only
      rw [State.ea, ha, ok_bind]
    refine ⟨fun hf => ?_, fun hf => ?_⟩
    · rw [hexec, State.scalarLoad_near hn hf, State.loadInto_near hn, ← loadValue_eq t (u.readAt_lt pl _)]
      rfl
    · rw [hexec, State.scalarLoad_full hf]
      rfl
  · have hr := State.access_reached ha
    have hwu : u.mem.wf = true := hr.2 hw
    have hexec : exec (.st t b i c) s = finish s (u.scalarStore pl (stSize t) (s.rx c) (.at (ofInt (s.ea b i)))) := by
      rw [exec_st, execSt, plain_issues hi]
      dsimp only
      rw [State.ea, ha, ok_bind, State.reached_rx hr, BitVec.natCast_eq_ofNat, BitVec.ofNat_toNat, BitVec.setWidth_eq]
    refine ⟨fun hn => ?_, fun o ho hp => ?_⟩
    · have hs := u.put_storing pl (stSize t) ((s.rx c).toNat % 2 ^ (8 * stSize t))
      have hends := State.storing_ends hs
      rw [State.reached_fir hr] at hends
      have hread := (State.readAt_put hwu hn (v := (s.rx c).toNat % 2 ^ (8 * stSize t))).trans (stored_value t _)
      have hseen : ∀ q, pl.covers (stSize t) q = false → (u.put pl (stSize t) ((s.rx c).toNat % 2 ^ (8 * stSize t))).byteSeen q = u.byteSeen q :=
        fun q hq => State.byteSeen_put hwu hn hq
      refine ⟨(u.put pl (stSize t) ((s.rx c).toNat % 2 ^ (8 * stSize t))).upd Firing.advance, by rw [hexec, State.scalarStore_near hn]; rfl, ?_,
        fun q hq hcov => ?_, hends, ?_, ?_, ?_, fun h hh => ?_⟩
      · rw [State.readAt_advance, hread]
      · rw [State.byteSeen_advance, hseen q hcov]
      · exact hs.2.2.2.2.1.trans (State.reached_parts hr)
      · exact hs.2.1.trans (State.reached_cores hr)
      · exact hs.2.2.1.trans (State.reached_teams hr)
      · exact (u.put_fronds pl _ _ (by rw [State.reached_fir hr]; exact hh)).trans (by rw [State.reached_fronds hr])
    · subst ho
      have hfir : (u.storeAt (.shm o) (stSize t) ((s.rx c).toNat % 2 ^ (8 * stSize t))).fir = (u.usePath (.shm o)).fir := keepHeaders_fir ..
      refine ⟨(u.storeAt (.shm o) (stSize t) ((s.rx c).toNat % 2 ^ (8 * stSize t))).upd Firing.advance, by rw [hexec, State.scalarStore_shared hp]; rfl,
        ?_, fun h hh => storeAt_shared_kept hwu hh⟩
      rw [State.upd_fir, hfir, ← State.reached_fir hr]
      exact u.usePath_advance _

end Sys2Proof.Machine
end

section
/-! PROOF. Vector loads and stores, gathers and scatters (R151 to R155). -/

namespace Sys2Proof.Machine

section
variable {s u : State} {i : Instr} {t : ElemTy} {d : BitVec 5} {k : BitVec 3} {pls : List (Nat × Place)}

/-! ### Unit-stride and strided forms -/

/-- A vector load of places at hand ends with its elements loaded. -/
theorem vecLoad_near {strided : Bool} {base : State → Word} {st : State → Int} (hi : s.Issues i)
    (hf : s.loadsFit (if strided then (activeElems (s.fir.rk k) (esize t)).length else 1))
    (hp : s.elemPlaces .load (esize t) (strideAt (base s) (st s)) (activeElems (s.fir.rk k) (esize t)) = .ok (u, pls))
    (hn : ∀ p ∈ pls, u.near false (esize t) p.2 = true) :
    vecLoad i t strided d k base st s = .next ((u.loadParts (esize t) pls fun e => .elem d e (8 * esize t)).upd Firing.advance) := by
  have hn' : ∀ p ∈ pls.map Prod.snd, u.near false (esize t) p = true := fun p hp => by
    obtain ⟨x, hx, rfl⟩ := List.mem_map.mp hp
    exact hn x hx
  unfold vecLoad
  rw [plain_issues hi]
  dsimp only
  rw [loadRoom_fits hf, ok_bind, hp, ok_bind]
  dsimp only
  rw [State.afterPosted_near hn', ok_bind, State.farFetch_near hn', ok_bind]
  rfl

theorem Firing.reply_elem (g : Firing) (d : BitVec 5) (w : Nat) (e : Nat) {b : Nat} (hb : b < 2 ^ 64) :
    g.reply (.elem d e w) (BitVec.ofNat 64 b) 0 = g.wv d (setElem (g.rv d) w e b) := by
  unfold Firing.reply
  dsimp only
  rw [BitVec.toNat_ofNat, Nat.mod_eq_of_lt hb]

/-- What a vector load of places at hand leaves (R152). -/
theorem loadedElems (hr : u.reached s) (hnames : pls.map Prod.fst = activeElems (s.fir.rk k) (esize t))
    (hn : ∀ p ∈ pls, u.near false (esize t) p.2 = true) :
    let v := (u.loadParts (esize t) pls fun e => .elem d e (8 * esize t)).upd Firing.advance
    v.onlyReads u ∧ v.fir.sameBesideVec s.fir d ∧ v.fir.pc = s.fir.advance.pc ∧
      (∀ p ∈ pls, elem (v.fir.rv d) (8 * esize t) p.1 = u.readAt p.2 (esize t)) ∧
      (∀ e, e < 256 / esize t → e ∉ activeElems (s.fir.rk k) (esize t) → elem (v.fir.rv d) (8 * esize t) e = elem (s.fir.rv d) (8 * esize t) e) := by
  obtain ⟨hread, hfir⟩ := State.loadParts_near (fun e => .elem d e (8 * esize t)) hn
  generalize u.loadParts (esize t) pls (fun e => .elem d e (8 * esize t)) = w at hread hfir
  rw [Firing.replies_elems (w := 8 * esize t) (val := id) fun g e b hb => g.reply_elem d _ e (bytes_le_dword (esize_le t) hb), State.reached_fir hr] at hfir
  have hrv : (w.upd Firing.advance).fir.rv d = setElems (8 * esize t) (s.fir.rv d) (pls.map fun p => (p.1, id (u.readAt p.2 (esize t)))) := by
    refine (Firing.rv_congr (Firing.advance_v _) d).trans ?_
    rw [hfir]
    exact Firing.rv_wv_same _ _ _
  have hfst : (pls.map fun p => (p.1, id (u.readAt p.2 (esize t)))).map Prod.fst = pls.map Prod.fst := List.map_map
  refine ⟨?_, ?_, ?_, fun p hp => ?_, fun e he hout => ?_⟩
  · obtain ⟨hw, -⟩ := hread
    exact congrArg (fun x : State => { x with fir := w.fir.advance }) hw
  · rw [State.upd_fir, hfir]
    exact Firing.sameBesideVec_wv s.fir d _ _
  · rw [State.upd_fir, hfir]
    exact Firing.advance_pc_congr rfl rfl rfl rfl
  · have hroom := esize_room (activeElems_lt (hnames ▸ List.mem_map_of_mem hp))
    have hself := setElems_self (s.fir.rv d) (by rw [hfst, hnames]; exact activeElems_nodup _ _)
      (List.mem_map_of_mem (f := fun p : Nat × Place => (p.1, id (u.readAt p.2 (esize t)))) hp) hroom
    rw [hrv]
    refine hself.trans (Nat.mod_eq_of_lt ?_)
    have hlt := u.readAt_lt p.2 (esize t)
    rwa [show (256 : Nat) = 2 ^ 8 from rfl, ← pow_mul] at hlt
  · rw [hrv]
    exact setElems_other _ (by rw [hfst, hnames]; exact hout) (esize_room he)

/-- A vector store to places at hand ends with its elements stored in order. -/
theorem vecStore_near {base : State → Word} {st : State → Int} (hi : s.Issues i)
    (hp : s.elemPlaces .store (esize t) (strideAt (base s) (st s)) (activeElems (s.fir.rk k) (esize t)) = .ok (u, pls))
    (hn : ∀ p ∈ pls, u.near true (esize t) p.2 = true) (hd : s.fir.data = []) :
    vecStore i t d k base st s =
      .next ((u.storeEach (esize t) (pls.map fun p => (p.2, elem (s.fir.rv d) (8 * esize t) p.1))).upd Firing.advance) := by
  have hr := State.reached_fir (State.elemPlaces_reached hp)
  unfold vecStore
  rw [plain_issues hi]
  dsimp only
  rw [hp, ok_bind]
  dsimp only
  rw [hr, State.storeParts_near ?_ (by rw [hr]; exact hd), ok_bind]
  · rfl
  · intro x hx
    obtain ⟨p, hp, rfl⟩ := List.mem_map.mp hx
    exact hn p hp

theorem rxn_five (f : Firing) (y : BitVec 5) : f.rxn y.toNat = f.rx (y.setWidth 6) := congrArg f.rx (BitVec.ofNat_toNat 6 y)

theorem sInt_five (s : State) (y : BitVec 5) : sInt (s.fir.rxn y.toNat) = (s.rx (y.setWidth 6)).toInt := congrArg BitVec.toInt (rxn_five s.fir y)

end

/-- Settles O14: the parts checked lead to places at hand, which are read or stored in order. -/
theorem vectorLoadsAndStores : Obligations.VectorLoadsAndStores := by
  unfold Obligations.VectorLoadsAndStores
  refine ⟨fun s u i t d x y k st pls hform hi hp hn => ?_, fun s u i t d x y k st pls hform hi hw hp hn hd => ⟨?_, fun q hq hcov => ?_⟩⟩
  · have hleft := loadedElems (d := d) (State.elemPlaces_reached hp) (State.elemPlaces_names hp) hn
    rcases hform with ⟨rfl, rfl, hf⟩ | ⟨rfl, rfl, hf⟩
    · exact ⟨_, (exec_vld t d x k s).trans (vecLoad_near (strided := false) (base := fun s => s.rx x) (st := fun _ => esize t) hi hf hp hn), hleft⟩
    · rw [← sInt_five] at hp
      exact ⟨_, (exec_vlds t d x y k s).trans
        (vecLoad_near (strided := true) (base := fun s => s.rx x) (st := fun s => sInt (s.fir.rxn y.toNat)) hi hf hp hn), hleft⟩
  · rcases hform with ⟨rfl, rfl⟩ | ⟨rfl, rfl⟩
    · exact (exec_vst t x d k s).trans (vecStore_near (base := fun s => s.rx x) (st := fun _ => esize t) hi hp hn hd)
    · rw [← sInt_five] at hp
      exact (exec_vsts t x d y k s).trans
        (vecStore_near (base := fun s => s.rx x) (st := fun s => sInt (s.fir.rxn y.toNat)) hi hp hn hd)
  · refine State.byteSeen_storeEach ((State.elemPlaces_reached hp).2 hw) (fun x hx => ?_) fun x hx => ?_
    · obtain ⟨p, hp, rfl⟩ := List.mem_map.mp hx
      exact hn p hp
    · obtain ⟨p, hp, rfl⟩ := List.mem_map.mp hx
      exact hcov p hp

/-! ### Gathers and scatters -/

section
variable {s u : State} {n : Nat} {pls : List (Nat × Place)} {tr : Option Trap}

theorem State.laneActs_all {ac : Acc} {act : State → Nat → Place → Nat → State} (P : State → Prop) (hs : P s)
    (hwin : ∀ t x, P t → x ∈ pls → t.window ac x.2 n (BitVec.ofNat 64 (laneOf n x.1)) = .ok ())
    (hact : ∀ t x, P t → x ∈ pls → P (act t x.1 x.2 (laneOf n x.1))) :
    s.laneActs ac n act pls = (pls.foldl (fun t x => act t x.1 x.2 (laneOf n x.1)) s, none) := by
  induction pls generalizing s with
  | nil => rfl
  | cons x pls ih =>
    have hmem := List.mem_cons_self (a := x) (l := pls)
    obtain ⟨i, pl⟩ := x
    unfold State.laneActs
    rw [hwin s _ hs hmem]
    exact ih (hact s _ hs hmem) (fun t y ht hy => hwin t y ht (List.mem_cons_of_mem _ hy)) fun t y ht hy => hact t y ht (List.mem_cons_of_mem _ hy)

/-- The lanes of a gather at hand, read in order. -/
theorem State.laneActs_load (r : Nat → Nat → Reply) (ref : Nat → Ref) (hn : ∀ p ∈ pls, u.near false n p.2 = true) :
    u.laneActs .load n (fun t i pl lane => t.laneLoad pl n (r i lane) (ref lane)) pls =
      (pls.foldl (fun t x => t.loadInto x.2 n (r x.1 (laneOf n x.1))) u, none) := by
  have hstep : ∀ (t : State) x, t.reading u → x ∈ pls → t.laneLoad x.2 n (r x.1 (laneOf n x.1)) (ref (laneOf n x.1)) = t.loadInto x.2 n (r x.1 (laneOf n x.1)) := by
    intro t x ht hx
    have h := hn x hx
    obtain ⟨i, pl⟩ := x
    cases pl with
    | far a b c => simp [State.near] at h
    | _ => rfl
  have hnear : ∀ (t : State) x, t.reading u → x ∈ pls → t.near false n x.2 = true := fun t x ht hx => (State.near_reading ht ..).trans (hn x hx)
  rw [State.laneActs_all (fun t => t.reading u) u.reading_refl (fun t x ht hx => State.window_near (hnear t x ht hx) ..) fun t x ht hx => by
    rw [hstep t x ht hx]
    exact State.reading_trans (State.loadInto_reading (hnear t x ht hx) _) ht]
  refine congrArg (·, none) (List.foldl_ext _ _ _ fun t x hx => ?_)
  have h := hn x hx
  obtain ⟨i, pl⟩ := x
  cases pl with
  | far a b c => simp [State.near] at h
  | _ => rfl

/-- The lanes of a scatter at hand, stored in order. -/
theorem State.laneActs_store (d : BitVec 5) (ref : Nat → Ref) (hn : ∀ p ∈ pls, u.near true n p.2 = true) :
    u.laneActs .store n (fun t i pl lane => t.laneStore pl n (laneData (t.fir.rv d) n i) (ref lane)) pls =
      (u.storeEach n (pls.map fun p => (p.2, laneData (u.fir.rv d) n p.1)), none) := by
  have hnear : ∀ (t : State) x, t.storing u → x ∈ pls → t.near true n x.2 = true := fun t x ht hx => (State.near_storing ht).trans (hn x hx)
  have hstep : ∀ (t : State) x, t.storing u → x ∈ pls →
      t.laneStore x.2 n (laneData (t.fir.rv d) n x.1) (ref (laneOf n x.1)) = t.put x.2 n (laneData (u.fir.rv d) n x.1) := by
    intro t x ht hx
    have hv : t.fir.rv d = u.fir.rv d := Firing.rv_congr (congrArg Firing.v ht.1) d
    have hput := State.storeAt_near (hnear t x ht hx) (laneData (u.fir.rv d) n x.1)
    have h := hn x hx
    obtain ⟨i, pl⟩ := x
    dsimp only at hput ⊢
    rw [hv, ← hput]
    cases pl with
    | far a b c => simp [State.near] at h
    | _ => rfl
  have hfold : ∀ (xs : List (Nat × Place)) (t : State), t.storing u → (∀ x ∈ xs, x ∈ pls) →
      xs.foldl (fun t x => t.laneStore x.2 n (laneData (t.fir.rv d) n x.1) (ref (laneOf n x.1))) t
        = t.storeEach n (xs.map fun p => (p.2, laneData (u.fir.rv d) n p.1)) := by
    intro xs
    induction xs with
    | nil => exact fun t _ _ => rfl
    | cons x xs ih =>
      intro t ht hx
      rw [List.foldl_cons, hstep t x ht (hx x (List.mem_cons_self ..))]
      exact ih _ (State.storing_trans (t.put_storing ..) ht) fun y hy => hx y (List.mem_cons_of_mem _ hy)
  rw [State.laneActs_all (fun t => t.storing u) u.storing_refl (fun t x ht hx => State.window_near (hnear t x ht hx) ..) fun t x ht hx => by
    rw [hstep t x ht hx]
    exact State.storing_trans (t.put_storing ..) ht]
  exact congrArg (·, none) (hfold pls u u.storing_refl fun x hx => hx)

theorem State.laneRun_near {wr : Bool} {ac : Acc} {act : State → Nat → Place → Nat → State} {v : State} (hn : ∀ p ∈ pls, u.near wr n p.2 = true)
    (he : u.earlier = false) (hact : u.laneActs ac n act pls = (v, none)) : u.laneRun ac n pls tr act = v.settle tr := by
  have hport := State.needsPort_near (s := u) (wr := wr) (n := n) (pls := pls.map Prod.snd) fun p hp => by
    obtain ⟨x, hx, rfl⟩ := List.mem_map.mp hp
    exact hn x hx
  unfold State.laneRun State.afterEarlier
  rw [hport, he, hact]
  rfl

theorem State.lanePlaces_ok {check : State → Nat → Except Stop (State × Place)} {is : List Nat} (h : s.lanePlaces n check is = .ok (u, pls, tr)) :
    ∃ t, s.upTo check is = .ok (u, pls, t) ∧ tr = t.map (laneTrap (laneOf n (is.getD pls.length 0))) := by
  unfold State.lanePlaces at h
  obtain ⟨⟨v, qs, t⟩, hv, h⟩ := of_bind_ok h
  cases h
  exact ⟨t, hv, rfl⟩

theorem settle_pends {v : State} (h : v.fir.pends = []) (tr : Option Trap) :
    v.settle tr = (match tr with
      | some t => .error (.trapIn v t)
      | none => .ok (.done v)) := by
  unfold State.settle
  rw [h]
  rfl

end

section
variable {s u : State} {t : ElemTy} {d : BitVec 5} {k : BitVec 3} {pls : List (Nat × Place)}

/-- What a lane of a gather leaves in its register, as elements of 64 bits or of 32 (R153). -/
def laneWidth (n : Nat) : Nat := if n = 8 then 64 else 32

/-- The element a lane of n bytes becomes. -/
def laneValue (sg : Bool) (n b : Nat) : Nat := if n = 8 then b else (extend sg n b).toNat

theorem Firing.reply_lane (g : Firing) (i : Nat) (sg : Bool) {b : Nat} (hb : b < 256 ^ esize t) :
    g.reply (.lane d i (esize t) sg) (BitVec.ofNat 64 b) 0 = g.wv d (setElem (g.rv d) (laneWidth (esize t)) i (laneValue sg (esize t) b)) := by
  unfold laneWidth laneValue
  by_cases h8 : esize t = 8
  · rw [h8] at hb ⊢
    exact g.reply_lane_wide d i sg hb
  · have hlt : esize t < 8 := lt_of_le_of_ne (esize_le t) h8
    rw [if_neg h8, if_neg h8]
    exact g.reply_lane_narrow d i sg hlt hb

theorem laneWidth_room {n i : Nat} (h : i < if n = 8 then 32 else 64) : laneWidth n * i + laneWidth n ≤ 2048 := by
  unfold laneWidth
  split_ifs at h ⊢ <;> omega

/-- What the lanes of a gather at hand leave in a state in which they have been read (R153). -/
theorem loadedLanes (hr : u.reached s) (hnames : pls.map Prod.fst = activeLanes (s.fir.rk k) (esize t)) {w : State}
    (hfir : w.fir = { u.fir.replies u (esize t) (fun i => .lane d i (esize t) (signedTy t)) pls with paths := w.fir.paths }) :
    w.fir.advance.sameBesideVec s.fir d ∧ w.fir.advance.pc = s.fir.advance.pc ∧ w.fir.pends = s.fir.pends ∧
      (∀ p ∈ pls, if esize t = 8 then elem (w.fir.advance.rv d) 64 p.1 = u.readAt p.2 (esize t)
        else elem (w.fir.advance.rv d) 32 p.1 = (extend (signedTy t) (esize t) (u.readAt p.2 (esize t))).toNat % 2 ^ 32) ∧
      (∀ i, i < 64 → (if esize t = 8 then i / 2 else i) ∉ activeLanes (s.fir.rk k) (esize t) →
        elem (w.fir.advance.rv d) 32 i = elem (s.fir.rv d) 32 i) := by
  rw [Firing.replies_elems (w := laneWidth (esize t)) (val := laneValue (signedTy t) (esize t)) fun g e b hb => g.reply_lane e _ hb, State.reached_fir hr] at hfir
  generalize hxs : (pls.map fun p => (p.1, laneValue (signedTy t) (esize t) (u.readAt p.2 (esize t)))) = xs at hfir
  have hrv : w.fir.advance.rv d = setElems (laneWidth (esize t)) (s.fir.rv d) xs := by
    refine (Firing.rv_congr (Firing.advance_v _) d).trans ?_
    rw [hfir]
    exact Firing.rv_wv_same _ _ _
  have hfst : xs.map Prod.fst = activeLanes (s.fir.rk k) (esize t) := by rw [← hxs, ← hnames]; exact List.map_map
  refine ⟨?_, ?_, ?_, fun p hp => ?_, fun i hi hout => ?_⟩
  · rw [hfir]
    exact Firing.sameBesideVec_wv_kept s.fir d _ _
  · rw [hfir]
    exact Firing.advance_pc_congr rfl rfl rfl rfl
  · rw [hfir]
    rfl
  · have hlane : p.1 ∈ activeLanes (s.fir.rk k) (esize t) := hnames ▸ List.mem_map_of_mem hp
    have hmem : (p.1, laneValue (signedTy t) (esize t) (u.readAt p.2 (esize t))) ∈ xs := hxs ▸ List.mem_map_of_mem hp
    have hself := setElems_self (s.fir.rv d) (by rw [hfst]; exact activeLanes_nodup _ _) hmem (laneWidth_room (activeLanes_lt hlane))
    rw [← hrv, laneWidth, laneValue] at hself
    have hlt := u.readAt_lt p.2 (esize t)
    split_ifs with h8
    · rw [if_pos h8, if_pos h8] at hself
      refine hself.trans (Nat.mod_eq_of_lt (bytes_le_dword (esize_le t) hlt))
    · rw [if_neg h8, if_neg h8] at hself
      exact hself
  · rw [hrv, laneWidth]
    split_ifs at hout ⊢ with h8
    · exact setElems_half _ hi (by rw [hfst]; exact hout)
    · exact setElems_other _ (by rw [hfst]; exact hout) (by omega)

theorem gatherLock_eq_none {h : Fin 1024} {a n : Nat} {xs : List Int} : gatherLock h a n xs = none ↔ xs = [] := by
  cases xs with
  | nil => exact ⟨fun _ => rfl, fun _ => rfl⟩
  | cons x xs => exact ⟨nofun, nofun⟩

theorem State.gatherOut_fir (s : State) (k : Nat) (l : Option Lock) : (s.gatherOut k l).fir = s.fir := by cases l <;> rfl

theorem State.gatherOut_mem (s : State) (k : Nat) (l : Option Lock) : (s.gatherOut k l).mem = s.mem := by cases l <;> rfl

theorem State.gatherOut_locks (s : State) (k : Nat) (l : Option Lock) :
    (s.gatherOut k l).fr.locks.length = s.fr.locks.length + if l = none then 0 else 1 := by
  cases l with
  | none => rfl
  | some l =>
    rw [if_neg (by nofun)]
    have hfr : (s.gatherOut k (some l)).fr = { s.fr with locks := s.fr.locks ++ [{ l with own := .gather s.fir.adm s.next }] } := Vector.getElem_set_self _
    rw [hfr, List.length_append]
    rfl

theorem State.fr_advance (s : State) : (s.upd Firing.advance).fr = s.fr := by
  simp only [State.fr, State.upd_fronds, State.upd_fir, Firing.advance_frond]

/-- A gather of lanes at hand ends with its lanes read and its range-lock entry registered (R154, R190). -/
theorem exec_vldx_near {b x : BitVec 5} {lock : Option Lock} (hi : s.Issues (.vldx t d b x k)) (hpd : s.fir.pends = []) (he : u.earlier = false)
    (hroom : s.fr.locks.length < 32) (hf : s.loadsFit (activeLanes (s.fir.rk k) (esize t)).length) (hn : ∀ p ∈ pls, u.near false (esize t) p.2 = true)
    (hfree : ∀ f ∈ s.others, f.frond = s.fir.frond → f.granted = false ∧ f.wait ≠ some .table)
    (hp : s.lanePlaces (esize t) (fun s' i => s'.access .load (s.laneAt b x (esize t) (laneOf (esize t) i)) (esize t) (esize t))
      (activeLanes (s.fir.rk k) (esize t)) = .ok (u, pls, none))
    (hlock : gatherLock s.fir.frond s.fir.adm (esize t)
      ((activeLanes (s.fir.rk k) (esize t)).map fun i => s.laneAt b x (esize t) (laneOf (esize t) i)) = lock) :
    exec (.vldx t d b x k) s = .next (((pls.foldl (fun t' x => t'.loadInto x.2 (esize t) (.lane d x.1 (esize t) (signedTy t))) u).gatherOut
      (activeLanes (s.fir.rk k) (esize t)).length lock).upd Firing.advance) := by
  have hact := State.laneActs_load (fun i _ => .lane d i (esize t) (signedTy t)) (laneRef false) hn
  obtain ⟨t0, hup, -⟩ := State.lanePlaces_ok hp
  have hr := State.upTo_reached (fun h => State.access_reached h) hup
  obtain ⟨-, hfir⟩ := State.foldl_loadInto (pls := pls) (n := esize t) (fun i => .lane d i (esize t) (signedTy t)) u.reading_refl hn
  rw [Firing.replies_elems (w := laneWidth (esize t)) (val := laneValue (signedTy t) (esize t)) fun g e b hb => g.reply_lane e _ hb, State.reached_fir hr] at hfir
  generalize pls.foldl (fun t' x => t'.loadInto x.2 (esize t) (.lane d x.1 (esize t) (signedTy t))) u = w at hact hfir ⊢
  have hpends : w.fir.pends = [] := by
    rw [hfir]
    exact hpd
  have hrun : u.laneRun .load (esize t) pls none (fun t' i pl lane => t'.laneLoad pl (esize t) (.lane d i (esize t) (signedTy t)) (laneRef false lane))
      = .ok (.done w) := (State.laneRun_near hn he hact).trans (settle_pends hpends none)
  rw [exec_vldx, execVldx, plain_issues hi]
  dsimp only
  rw [hlock, loadRoom_fits hf, ok_bind, lockRoom_ok ⟨hroom, hfree⟩, hp]
  simp only [ok_bind, ite_self, hrun]
  rfl

/-- A scatter to lanes at hand stores those that passed their checks, and ends or takes the trap of the next (R155). -/
theorem exec_vstx_near {b x : BitVec 5} {tr : Option Trap} (hi : s.Issues (.vstx t b x d k)) (hpd : s.fir.pends = []) (he : u.earlier = false)
    (hn : ∀ p ∈ pls, u.near true (esize t) p.2 = true)
    (hp : s.lanePlaces (esize t) (fun s' i => s'.access .store (s.laneAt b x (esize t) (laneOf (esize t) i)) (esize t) (esize t))
      (activeLanes (s.fir.rk k) (esize t)) = .ok (u, pls, tr)) :
    let v := u.storeEach (esize t) (pls.map fun p => (p.2, laneData (s.fir.rv d) (esize t) p.1))
    (tr = none → exec (.vstx t b x d k) s = .next (v.upd Firing.advance)) ∧
      (∀ e, tr = some e → exec (.vstx t b x d k) s = .next (v.trapHere e) ∧
        e.val = BitVec.ofNat 64 (laneOf (esize t) ((activeLanes (s.fir.rk k) (esize t)).getD pls.length 0))) := by
  obtain ⟨t0, hup, htr⟩ := State.lanePlaces_ok hp
  have hr := State.reached_fir (State.upTo_reached (fun h => State.access_reached h) hup)
  have hact := State.laneActs_store d (laneRef false) hn
  rw [hr] at hact
  have hpends := congrArg Firing.pends (State.storeEach_storing u (esize t) (pls.map fun p => (p.2, laneData (s.fir.rv d) (esize t) p.1))).1
  rw [hr] at hpends
  generalize u.storeEach (esize t) (pls.map fun p => (p.2, laneData (s.fir.rv d) (esize t) p.1)) = v at hact hpends ⊢
  have hexec : exec (.vstx t b x d k) s = finish s (v.settle tr) := by
    rw [exec_vstx, execVstx, plain_issues hi]
    dsimp only
    rw [hp, ok_bind]
    exact congrArg (finish s) (State.laneRun_near hn he hact)
  rw [hexec, settle_pends (hpends.trans hpd)]
  refine ⟨fun hz => ?_, fun e he' => ⟨?_, ?_⟩⟩
  · rw [hz]
    rfl
  · rw [he']
    rfl
  · obtain ⟨e0, -, rfl⟩ := Option.map_eq_some_iff.mp (htr.symm.trans he')
    rfl

end

/-- Settles O15: the lanes checked lead to places at hand, which are read or stored in ascending order. -/
theorem gathersAndScatters : Obligations.GathersAndScatters := by
  unfold Obligations.GathersAndScatters
  intro s u t d b x k pls hpd he
  dsimp only
  refine ⟨fun hi hroom hf hn hfree hp => ?_, fun hi hn tr hp => ?_⟩
  · obtain ⟨t0, hup, ht⟩ := State.lanePlaces_ok hp
    have hr := State.upTo_reached (fun h => State.access_reached h) hup
    have hnone : t0 = none := (Option.map_eq_none_iff.mp ht.symm)
    have hnames := State.upTo_names (hnone ▸ hup)
    have hat : ∀ i, s.laneAt b x (esize t) i = ((s.rx (b.setWidth 6)).toNat : Int) + intOf true 32 (elem (s.fir.rv x) 32 i) * esize t := fun i => by
      rw [State.laneAt, rxn_five]
      rfl
    have hexec := exec_vldx_near hi hpd he hroom hf hn hfree (by simp only [hat]; exact hp) rfl
    obtain ⟨hread, hfir⟩ := State.foldl_loadInto (pls := pls) (n := esize t) (fun i => .lane d i (esize t) (signedTy t)) u.reading_refl hn
    obtain ⟨h1, h2, -, h3, h4⟩ := loadedLanes hr hnames hfir
    generalize hw : pls.foldl (fun t' x => t'.loadInto x.2 (esize t) (.lane d x.1 (esize t) (signedTy t))) u = w at hexec hread h1 h2 h3 h4
    generalize hl : gatherLock s.fir.frond s.fir.adm (esize t)
      ((activeLanes (s.fir.rk k) (esize t)).map fun i => s.laneAt b x (esize t) (laneOf (esize t) i)) = lock at hexec
    have hfirg : ((w.gatherOut (activeLanes (s.fir.rk k) (esize t)).length lock).upd Firing.advance).fir = w.fir.advance := by
      rw [State.upd_fir, State.gatherOut_fir]
    have hlock : lock = none ↔ pls = [] := by
      rw [← hl, gatherLock_eq_none, List.map_eq_nil_iff, ← hnames, List.map_eq_nil_iff]
    refine ⟨_, hexec, ?_, ?_, ?_, ?_, ?_, ?_⟩
    · rw [State.upd_mem, State.gatherOut_mem, State.reading_mem hread]
    · rw [hfirg]; exact h1
    · rw [hfirg]; exact h2
    · rw [State.fr_advance, State.gatherOut_locks, State.reading_fr hread]
      simp only [hlock]
    · rw [hfirg]; exact h3
    · rw [hfirg]; exact h4
  · have hat : ∀ i, s.laneAt b x (esize t) i = ((s.rx (b.setWidth 6)).toNat : Int) + intOf true 32 (elem (s.fir.rv x) 32 i) * esize t := fun i => by
      rw [State.laneAt, rxn_five]
      rfl
    exact exec_vstx_near hi hpd he hn (by simp only [hat]; exact hp)

end Sys2Proof.Machine
end

section
/-! SUPPORT. Accumulators and tile registers written (R302 to R309). -/

namespace Sys2Proof.Machine

theorem Firing.advance_withAcc (f : Firing) (a : Vector (BitVec 131072) 4) (w : Vector Word 4) :
    ({ f with acc := a, accf := w } : Firing).advance = { f.advance with acc := a, accf := w } := by
  unfold Firing.advance Firing.clrRep Firing.repact Firing.repi Firing.repj
  dsimp only
  split_ifs <;> rfl

/-- A firing that differs from another in its accumulators and their flags alone. -/
def Firing.besideAcc (g f : Firing) : Prop := g = { f with acc := g.acc, accf := g.accf }

theorem Firing.besideAcc_trans {f g h : Firing} (hg : h.besideAcc g) (hf : g.besideAcc f) : h.besideAcc f := by
  rw [Firing.besideAcc] at *
  rw [hf] at hg
  exact hg

theorem Firing.wa_besideAcc (f : Firing) (d : BitVec 2) (w : BitVec 131072) : (f.wa d w).besideAcc f := rfl

theorem Firing.waf_besideAcc (f : Firing) (d : BitVec 2) (w : Word) : (f.waf d w).besideAcc f := rfl

/-- It still does so when both have ended. -/
theorem Firing.advance_besideAcc {f g : Firing} (h : g.besideAcc f) :
    g.advance = { f.advance with acc := g.advance.acc, accf := g.advance.accf } := by
  have hends := (congrArg Firing.advance h).trans (Firing.advance_withAcc f g.acc g.accf)
  have hacc : g.advance.acc = g.acc := Firing.advance_acc g
  have haccf : g.advance.accf = g.accf := Firing.advance_accf g
  rw [hacc, haccf]
  exact hends

theorem Firing.advance_withAccf (f : Firing) (w : Vector Word 4) : ({ f with accf := w } : Firing).advance = { f.advance with accf := w } := by
  unfold Firing.advance Firing.clrRep Firing.repact Firing.repi Firing.repj
  dsimp only
  split_ifs <;> rfl

theorem Firing.advance_loadedAcc (f : Firing) (a : Vector (BitVec 131072) 4) (p : List Nat) (d : List Word) :
    ({ f with acc := a, paths := p, data := d } : Firing).advance = { f.advance with acc := a, paths := p, data := d } := by
  unfold Firing.advance Firing.clrRep Firing.repact Firing.repi Firing.repj
  dsimp only
  split_ifs <;> rfl

theorem Firing.advance_loadedTile (f : Firing) (m : Vector (BitVec 32768) 8) (p : List Nat) (d : List Word) :
    ({ f with m := m, paths := p, data := d } : Firing).advance = { f.advance with m := m, paths := p, data := d } := by
  unfold Firing.advance Firing.clrRep Firing.repact Firing.repi Firing.repj
  dsimp only
  split_ifs <;> rfl

theorem Firing.ra_wa_same (f : Firing) (d : BitVec 2) (w : BitVec 131072) : (f.wa d w).ra d = w := Vector.getElem_set_self _

theorem Firing.ra_wa_ne (f : Firing) (w : BitVec 131072) {d q : BitVec 2} (h : q ≠ d) : (f.wa d w).ra q = f.ra q :=
  Vector.getElem_set_ne d.isLt q.isLt fun e => h (BitVec.eq_of_toNat_eq e.symm)

theorem Firing.rm_wm_same (f : Firing) (d : BitVec 3) (w : BitVec 32768) : (f.wm d w).rm d = w := Vector.getElem_set_self _

theorem Firing.rm_wm_ne (f : Firing) (w : BitVec 32768) {d q : BitVec 3} (h : q ≠ d) : (f.wm d w).rm q = f.rm q :=
  Vector.getElem_set_ne d.isLt q.isLt fun e => h (BitVec.eq_of_toNat_eq e.symm)

theorem Firing.accf_waf (f : Firing) (d q : BitVec 2) (w : Word) : (f.waf d w).accf[q.toNat] = if q = d then w else f.accf[q.toNat] := by
  by_cases h : q = d
  · subst h
    rw [if_pos rfl]
    exact Vector.getElem_set_self _
  · rw [if_neg h]
    exact Vector.getElem_set_ne d.isLt q.isLt fun e => h (BitVec.eq_of_toNat_eq e.symm)

theorem Firing.waf_ends (f : Firing) (d : BitVec 2) (w : Word) : (f.waf d w).advance = { f.advance with accf := (f.waf d w).advance.accf } := by
  rw [Firing.advance_accf]
  exact Firing.advance_withAccf f _

theorem Firing.ra_congr {f g : Firing} (h : g.acc = f.acc) (q : BitVec 2) : g.ra q = f.ra q := by rw [Firing.ra, Firing.ra, h]

theorem Firing.rm_congr {f g : Firing} (h : g.m = f.m) (q : BitVec 3) : g.rm q = f.rm q := by rw [Firing.rm, Firing.rm, h]

/-- Two accumulators exchanged, with their flags (R304). -/
def Firing.accSwapped (f : Firing) (d a : BitVec 2) : Firing := (((f.wa d (f.ra a)).wa a (f.ra d)).waf d f.accf[a.toNat]).waf a f.accf[d.toNat]

section
variable (f : Firing) (d a : BitVec 2)

theorem Firing.accSwapped_ends : (f.accSwapped d a).advance
    = { f.advance with acc := (f.accSwapped d a).advance.acc, accf := (f.accSwapped d a).advance.accf } :=
  Firing.advance_besideAcc (Firing.besideAcc_trans (Firing.waf_besideAcc _ a _) (Firing.besideAcc_trans (Firing.waf_besideAcc _ d _)
    (Firing.besideAcc_trans (Firing.wa_besideAcc _ a _) (Firing.wa_besideAcc f d _))))

theorem Firing.accSwapped_ra (q : BitVec 2) : (f.accSwapped d a).ra q = if q = a then f.ra d else if q = d then f.ra a else f.ra q := by
  have h : (f.accSwapped d a).ra q = ((f.wa d (f.ra a)).wa a (f.ra d)).ra q := rfl
  rw [h]
  by_cases ha : q = a
  · rw [if_pos ha, ha, Firing.ra_wa_same]
  · rw [if_neg ha, Firing.ra_wa_ne _ _ ha]
    by_cases hd : q = d
    · rw [if_pos hd, hd, Firing.ra_wa_same]
    · rw [if_neg hd, Firing.ra_wa_ne _ _ hd]

theorem Firing.accSwapped_accf (q : BitVec 2) :
    (f.accSwapped d a).accf[q.toNat] = if q = a then f.accf[d.toNat] else if q = d then f.accf[a.toNat] else f.accf[q.toNat] := by
  rw [Firing.accSwapped, Firing.accf_waf, Firing.accf_waf]
  rfl

end

section
variable {s u : State}

theorem State.accFree_ok {as : List (BitVec 2)} (h : ∀ a ∈ as, s.accBusy a = false) : s.accFree as = .ok () :=
  if_neg (by rw [List.any_eq_true]; rintro ⟨a, ha, hb⟩; rw [h a ha] at hb; cases hb)

theorem State.accFree_busy {as : List (BitVec 2)} {d : BitVec 2} (hd : d ∈ as) (h : s.accBusy d = true) : s.accFree as = block s .array :=
  if_pos (List.any_eq_true.mpr ⟨d, hd, h⟩)

theorem check_fails {α : Type} {c : Bool} {e : Cause} {v : Word} (h : c = false) (k : Unit → Except Stop α) : (check c e v >>= k) = raise e v := by
  rw [h]
  rfl

theorem State.touchTile_none (h : s.cores[s.fir.core].lazyTiles = []) (t : Nat) : s.touchTile t = s := by
  unfold State.touchTile
  split
  · rfl
  · rw [h]
    rfl

theorem State.placesFrom_ok {ac : Acc} {a : Int} {n : Nat} {pls : List Place} (h : s.placesFrom ac a n = .ok (u, pls)) :
    u.reached s ∧ pls.length = n := by
  unfold State.placesFrom at h
  generalize hx : s.blockPlaces ac 8 (fun i => a + 8 * (i : Nat)) (List.range n) = x at h
  cases x with
  | error e => cases h
  | ok x =>
    obtain ⟨v, qs⟩ := x
    cases h
    have hl := congrArg List.length (State.blockPlaces_names hx)
    rw [List.length_map, List.length_range] at hl
    exact ⟨State.blockPlaces_reached hx, by rw [List.length_map, hl]⟩

theorem State.accPlaces_eq {ac : Acc} {a : Word} (h : a.toNat % 64 = 0) (hl : a.toNat < 2 ^ 57) : s.accPlaces ac a = s.placesFrom ac a.toNat 2048 := by
  have hc : (bits a 63 57 == 0 && bits a 5 0 == 0) = true := by
    rw [Bool.and_eq_true, beq_iff_eq, beq_iff_eq]
    simp only [bits]
    omega
  rw [State.accPlaces, check_true hc, ok_bind]

end

end Sys2Proof.Machine
end
section
/-! PROOF. Accumulator and tile instructions (R302 to R310). -/

namespace Sys2Proof.Machine

section
variable {s u : State} {d a : BitVec 2} {x r : BitVec 6} {y : BitVec 5}

/-! ### Accumulators -/

theorem ofNat_elem {m : Nat} (r : BitVec m) (w n : Nat) : BitVec.ofNat w (elem r w n) = r.extractLsb' (w * n) w := by
  refine BitVec.eq_of_toNat_eq ?_
  rw [BitVec.toNat_ofNat, BitVec.extractLsb'_toNat, elem, Nat.shiftRight_eq_div_pow, Nat.mod_mod]

theorem exec_accrd_row (hi : s.Issues (.accrd y x a r)) (hr : (s.rx r).toNat ≤ 63) :
    let js := s.cores[s.fir.core].mmas.filter fun j => j.adm == s.fir.adm && mmaAcc j.word == a.toNat
    exec (.accrd y x a r) s = .next (((s.wv y ((s.fir.ra a).extractLsb' (2048 * (s.rx r).toNat) 2048)).wx x
      (BitVec.ofNat 64 (js.length * 2 ^ 16 + (js.head?.map MmaJob.done).getD 0))).upd Firing.advance) := by
  have hjs : (s.myMmas.filter fun j => mmaAcc j.word == a.toNat)
      = s.cores[s.fir.core].mmas.filter fun j => j.adm == s.fir.adm && mmaAcc j.word == a.toNat := by
    rw [State.myMmas, List.filter_filter]
    simp only [Bool.and_comm]
  rw [exec_accrd, execAccrd, plain_issues hi]
  dsimp only
  rw [check_true (decide_eq_true hr), ok_bind, ofNat_elem, hjs]
  generalize s.cores[s.fir.core].mmas.filter (fun j => j.adm == s.fir.adm && mmaAcc j.word == a.toNat) = js
  cases js with
  | nil => rfl
  | cons j js => rfl

theorem exec_accrd_beyond (hi : s.Issues (.accrd y x a r)) (hr : 63 < (s.rx r).toNat) :
    exec (.accrd y x a r) s = .next (s.trapHere { c := .prot, sub := 0, val := s.rx r }) := by
  rw [exec_accrd, execAccrd, plain_issues hi]
  dsimp only
  rw [check_fails (decide_eq_false (by omega))]
  rfl

theorem exec_acczero_free (hb : s.accBusy d = false) (hi : s.Issues (.acczero d)) :
    exec (.acczero d) s = .next ((s.upd fun f => f.wa d 0).upd Firing.advance) := by
  rw [exec_acczero, execAcczero, plain_issues hi, State.accFree_ok (by simpa using hb)]
  rfl

theorem exec_accswp_free (hd : s.accBusy d = false) (ha : s.accBusy a = false) (hi : s.Issues (.accswp d a)) :
    ∃ v, exec (.accswp d a) s = .next v ∧ v.onlyFiring s ∧
      v.fir.ra d = s.fir.ra a ∧ v.fir.ra a = s.fir.ra d ∧ v.fir.accf[d.toNat] = s.fir.accf[a.toNat] ∧ v.fir.accf[a.toNat] = s.fir.accf[d.toNat] ∧
      (∀ q, q ≠ d → q ≠ a → v.fir.ra q = s.fir.ra q ∧ v.fir.accf[q.toNat] = s.fir.accf[q.toNat]) ∧
      v.fir = { s.fir.advance with acc := v.fir.acc, accf := v.fir.accf } := by
  have hx : exec (.accswp d a) s = .next ({ s with fir := (s.fir.accSwapped d a).advance }) := by
    rw [exec_accswp, execAccswp, plain_issues hi, State.accFree_ok (by simp [hd, ha])]
    rfl
  have hends := s.fir.accSwapped_ends d a
  have hra : ∀ q, (s.fir.accSwapped d a).advance.ra q = if q = a then s.fir.ra d else if q = d then s.fir.ra a else s.fir.ra q := fun q =>
    (Firing.ra_congr (Firing.advance_acc _) q).trans (s.fir.accSwapped_ra d a q)
  have hflag : ∀ q : BitVec 2, (s.fir.accSwapped d a).advance.accf[q.toNat]
      = if q = a then s.fir.accf[d.toNat] else if q = d then s.fir.accf[a.toNat] else s.fir.accf[q.toNat] := fun q => by
    rw [← s.fir.accSwapped_accf d a q]
    simp only [Firing.advance_accf]
  generalize (s.fir.accSwapped d a).advance = g at hx hends hra hflag
  refine ⟨_, hx, rfl, ?_, ?_, ?_, ?_, fun q hqd hqa => ⟨?_, ?_⟩, hends⟩
  · refine (hra d).trans ?_
    by_cases h : d = a
    · rw [if_pos h, h]
    · rw [if_neg h, if_pos rfl]
  · exact (hra a).trans (if_pos rfl)
  · refine (hflag d).trans ?_
    by_cases h : d = a
    · subst h
      rw [if_pos rfl]
    · rw [if_neg h, if_pos rfl]
  · exact (hflag a).trans (if_pos rfl)
  · exact (hra q).trans ((if_neg hqa).trans (if_neg hqd))
  · exact (hflag q).trans ((if_neg hqa).trans (if_neg hqd))

theorem exec_accstat_free (hb : s.accBusy d = false) (c : Bool) (hi : s.Issues (.accstat x d c)) :
    ∃ v, exec (.accstat x d c) s = .next v ∧ v.onlyFiring s ∧
      v.fir = { (s.fir.wx x s.fir.accf[d.toNat]).advance with accf := v.fir.accf } ∧
      ∀ q : BitVec 2, v.fir.accf[q.toNat] = if q = d ∧ c = true then 0 else s.fir.accf[q.toNat] := by
  have hx : exec (.accstat x d c) s = .next ((if c then (s.wx x s.fir.accf[d.toNat]).upd fun f => f.waf d 0 else s.wx x s.fir.accf[d.toNat]).upd Firing.advance) := by
    rw [exec_accstat, execAccstat, plain_issues hi, State.accFree_ok (by simpa using hb)]
    rfl
  have hw : ∀ q : BitVec 2, (s.fir.wx x s.fir.accf[d.toNat]).accf[q.toNat] = s.fir.accf[q.toNat] := fun q => by simp only [Firing.wx_accf]
  generalize hf : s.fir.wx x s.fir.accf[d.toNat] = f at hw
  cases c with
  | false =>
    refine ⟨{ s with fir := f.advance }, hx.trans (hf ▸ rfl), rfl, rfl, fun q => ?_⟩
    rw [if_neg (by simp), ← hw q]
    simp only [Firing.advance_accf]
  | true =>
    refine ⟨{ s with fir := (f.waf d 0).advance }, hx.trans (hf ▸ rfl), rfl, f.waf_ends d 0, fun q => ?_⟩
    have h1 : (f.waf d 0).advance.accf[q.toNat] = (f.waf d 0).accf[q.toNat] := by simp only [Firing.advance_accf]
    refine h1.trans ((Firing.accf_waf f d q 0).trans ?_)
    rw [hw]
    simp

theorem exec_accOp_busy (hb : s.accBusy d = true) {i : Instr} (hm : i ∈ [Instr.acczero d, .accld d x, .accst x d, .accstat x d false, .accswp d a])
    (hi : s.Issues i) : exec i s = .next (s.upd fun f => { f with wait := some .array, aged := false }) := by
  have h1 : s.accFree [d] = block s .array := State.accFree_busy (List.mem_cons_self ..) hb
  have h2 : s.accFree [d, a] = block s .array := State.accFree_busy (List.mem_cons_self ..) hb
  fin_cases hm
  · rw [exec_acczero, execAcczero, plain_issues hi, h1]; rfl
  · rw [exec_accld, execAccld, plain_issues hi, h1]; rfl
  · rw [exec_accst, execAccst, plain_issues hi, h1]; rfl
  · rw [exec_accstat, execAccstat, plain_issues hi, h1]; rfl
  · rw [exec_accswp, execAccswp, plain_issues hi, h2]; rfl

variable {pls : List Place}

theorem Firing.wa_ends (f : Firing) (d : BitVec 2) (w : BitVec 131072) (p : List Nat) (hd : f.data = []) :
    (({ f with data := [], paths := p } : Firing).wa d w).advance
      = { f.advance with acc := (({ f with data := [], paths := p } : Firing).wa d w).advance.acc, paths := p } := by
  rw [Firing.advance_acc]
  refine (Firing.advance_loadedAcc f (f.acc.set d.toNat w) p []).trans ?_
  rw [← hd, ← Firing.advance_data]
  rfl

theorem exec_accld_near (hb : s.accBusy d = false) (ha : (s.rx x).toNat % 64 = 0) (hl : (s.rx x).toNat < 2 ^ 57) (hd : s.fir.data = [])
    (hp : s.placesFrom .load (s.rx x).toNat 2048 = .ok (u, pls)) (hn : ∀ q ∈ pls, u.near false 8 q = true) (hi : s.Issues (.accld d x)) :
    ∃ v, exec (.accld d x) s = .next v ∧ v.mem = u.mem ∧ v.fir = { s.fir.advance with acc := v.fir.acc, paths := v.fir.paths } ∧
      (∀ n q, pls[n]? = some q → elem (v.fir.ra d) 64 n = u.readAt q 8) ∧ (∀ q, q ≠ d → v.fir.ra q = s.fir.ra q) := by
  obtain ⟨hr, hlen⟩ := State.placesFrom_ok hp
  obtain ⟨w, hread, hw, hfir⟩ := State.readParts_near hn fun i => s.rx x + BitVec.ofNat 64 (8 * i)
  rw [State.reached_fir hr] at hfir
  have hx : ∃ acc, acc = pack 131072 64 ((pls.map fun p => BitVec.ofNat 64 (u.readAt p 8)).map BitVec.toNat) ∧
      exec (.accld d x) s = .next ((w.upd fun f => f.wa d acc).upd Firing.advance) := by
    refine ⟨_, rfl, ?_⟩
    rw [exec_accld, execAccld, plain_issues hi, State.accFree_ok (by simpa using hb), ok_bind, State.accPlaces_eq ha hl, hp, ok_bind]
    dsimp only
    rw [State.readWords, State.reached_rx hr, hread, ok_bind]
    rfl
  obtain ⟨acc, hacc, hx⟩ := hx
  have hends := Firing.wa_ends s.fir d acc w.fir.paths hd
  rw [← hfir] at hends
  have hself : (w.fir.wa d acc).advance.ra d = acc := (Firing.ra_congr (Firing.advance_acc _) d).trans (Firing.ra_wa_same ..)
  have hother : ∀ q, q ≠ d → (w.fir.wa d acc).advance.ra q = s.fir.ra q := fun q hq =>
    (Firing.ra_congr (Firing.advance_acc _) q).trans ((Firing.ra_wa_ne _ _ hq).trans (Firing.ra_congr (by rw [hfir]) q))
  refine ⟨_, hx, by rw [State.upd_mem, State.upd_mem, State.reading_mem hw], ?_, fun n q hq => ?_, hother⟩
  · have hpaths : (w.fir.wa d acc).advance.paths = w.fir.paths := by rw [Firing.advance_paths]; rfl
    change (w.fir.wa d acc).advance = { s.fir.advance with acc := (w.fir.wa d acc).advance.acc, paths := (w.fir.wa d acc).advance.paths }
    rw [hpaths]
    exact hends
  · have hn : n < 2048 := by
      obtain ⟨h, -⟩ := List.getElem?_eq_some_iff.mp hq
      omega
    have hlt : u.readAt q 8 < 2 ^ 64 := bytes_le_dword le_rfl (u.readAt_lt q 8)
    refine (congrArg (fun r => elem r 64 n) (hself.trans hacc)).trans ?_
    rw [elem_pack _ (by omega), List.getD_eq_getElem?_getD, List.getElem?_map, List.getElem?_map, hq]
    change (u.readAt q 8) % 2 ^ 64 % 2 ^ 64 = u.readAt q 8
    rw [Nat.mod_mod, Nat.mod_eq_of_lt hlt]

theorem zip_range_map {α : Type} (l : List α) (f : Nat → Nat) : l.zip ((List.range l.length).map f) = l.zipIdx.map fun q => (q.1, f q.2) := by
  refine List.ext_getElem (by simp) fun n h1 h2 => ?_
  simp

theorem exec_accst_near (hb : s.accBusy d = false) (ha : (s.rx x).toNat % 64 = 0) (hl : (s.rx x).toNat < 2 ^ 57) (hd : s.fir.data = [])
    (hp : s.placesFrom .store (s.rx x).toNat 2048 = .ok (u, pls)) (hn : ∀ q ∈ pls, u.near true 8 q = true) (hi : s.Issues (.accst x d)) :
    exec (.accst x d) s = .next ((u.storeEach 8 (pls.zipIdx.map fun q => (q.1, elem (s.fir.ra d) 64 q.2))).upd Firing.advance) := by
  obtain ⟨hr, hlen⟩ := State.placesFrom_ok hp
  have hxs : pls.zip (((unpack (s.fir.ra d) 64 2048).map (BitVec.ofNat 64)).map BitVec.toNat) = pls.zipIdx.map fun q => (q.1, elem (s.fir.ra d) 64 q.2) := by
    rw [← zip_range_map, hlen, List.map_map, unpack, List.map_map]
    refine congrArg (pls.zip ·) (List.map_congr_left fun n _ => ?_)
    exact Nat.mod_eq_of_lt (elem_lt _ 64 n)
  have hnear : ∀ x ∈ pls.zipIdx.map fun q => (q.1, elem (s.fir.ra d) 64 q.2), u.near true 8 x.1 = true := fun x hx => by
    obtain ⟨q, hq, rfl⟩ := List.mem_map.mp hx
    exact hn q.1 (List.fst_mem_of_mem_zipIdx hq)
  rw [exec_accst, execAccst, plain_issues hi, State.accFree_ok (by simpa using hb), ok_bind, State.accPlaces_eq ha hl, hp, ok_bind]
  dsimp only
  rw [State.reached_fir hr, State.writeWords, State.writeParts, hxs, State.storeParts_near hnear (by rw [State.reached_fir hr]; exact hd)]
  rfl

end

end Sys2Proof.Machine
end

section
/-! PROOF. Tile loads and stores, and the statement about accumulators and tiles (R302 to R310). -/

namespace Sys2Proof.Machine

section
variable {s u : State} {d a : BitVec 3} {x : BitVec 6} {p : BitVec 5} {col : Bool} {w v : Word} {b : Nat} {qs : List (Nat × Place)}

/-- The words of a tile in memory order, as the statement lays them out. -/
theorem tileMove_layout (w : Word) (col : Bool) (p : BitVec 5) (v : Word) :
    let m := tileMove w col p v
    let l := tileLayout w col p v
    m.per = l.1 ∧ m.rows = l.2.1 ∧ m.pitch = l.2.2.1 ∧ ∀ i, m.word (i / m.per) (i % m.per) = l.2.2.2 i := by
  have hrb : shapeRowBytes w / 4 = bits w 11 6 + 1 := by
    rw [shapeRowBytes]
    omega
  cases col with
  | true =>
    simp only [tileMove, tileLayout, hrb, shapeRows, if_true, implies_true, and_self]
  | false =>
    simp only [tileMove, tileLayout, hrb, shapeRows, Bool.false_eq_true, if_false, true_and]
    exact fun i => Nat.div_add_mod' i _

theorem tileMove_rows (w : Word) (col : Bool) (p : BitVec 5) (v : Word) : (tileMove w col p v).rows = (tileLayout w col p v).2.1 :=
  (tileMove_layout w col p v).2.1

/-- A tile's words lie in it, each once. -/
theorem tileLayout_inside (h : tileServes w col b (tileLayout w col p v).2.1 (tileLayout w col p v).2.2.1) {i : Nat}
    (hi : i < (tileLayout w col p v).2.1 * (tileLayout w col p v).1) : (tileLayout w col p v).2.2.2 i < 1024 := by
  obtain ⟨-, hsize, -⟩ := h
  cases col with
  | true =>
    simp only [tileLayout, if_true] at hi ⊢
    generalize bits w 5 0 + 1 = r at *
    generalize bits w 11 6 + 1 = c at *
    have hr : 0 < r := Nat.pos_of_ne_zero fun h => by subst h; simp at hi
    have h1 : i / r < c := Nat.div_lt_of_lt_mul (by rw [Nat.mul_comm]; exact hi)
    have h2 : i % r < r := Nat.mod_lt _ hr
    have h3 : i % r * c + c ≤ r * c := by rw [← Nat.succ_mul]; exact Nat.mul_le_mul_right c h2
    have h4 : r * (4 * c) = 4 * (r * c) := by ring
    omega
  | false =>
    simp only [tileLayout, Bool.false_eq_true, if_false] at hi ⊢
    have h4 : (bits w 5 0 + 1) * (4 * (bits w 11 6 + 1)) = 4 * ((bits w 5 0 + 1) * (bits w 11 6 + 1)) := by ring
    omega

theorem tileLayout_inj {i j : Nat} (hi : i < (tileLayout w col p v).2.1 * (tileLayout w col p v).1)
    (hj : j < (tileLayout w col p v).2.1 * (tileLayout w col p v).1) (h : (tileLayout w col p v).2.2.2 i = (tileLayout w col p v).2.2.2 j) : i = j := by
  cases col with
  | true =>
    simp only [tileLayout, if_true] at hi hj h
    rw [Nat.mul_comm] at hi hj
    generalize bits w 5 0 + 1 = r at *
    generalize bits w 11 6 + 1 = c at *
    have hi' : i / r < c := Nat.div_lt_of_lt_mul hi
    have hj' : j / r < c := Nat.div_lt_of_lt_mul hj
    have hc : 0 < c := Nat.zero_lt_of_lt hi'
    have hdiv : ∀ q k, k < c → (q * c + k) / c = q ∧ (q * c + k) % c = k := fun q k hk => by
      rw [Nat.mul_comm q c]
      exact ⟨by rw [Nat.mul_add_div hc, Nat.div_eq_of_lt hk, Nat.add_zero], by rw [Nat.mul_add_mod, Nat.mod_eq_of_lt hk]⟩
    have h1 : i % r = j % r := by exact ((hdiv (i % r) _ hi').1.symm.trans (congrArg (· / c) h)).trans (hdiv (j % r) _ hj').1
    have h2 : i / r = j / r := by exact ((hdiv (i % r) _ hi').2.symm.trans (congrArg (· % c) h)).trans (hdiv (j % r) _ hj').2
    rw [← Nat.div_add_mod i r, ← Nat.div_add_mod j r, h1, h2]
  | false =>
    simpa only [tileLayout, Bool.false_eq_true, if_false] using h

theorem tileServes_ok (h : tileServes w col b (tileLayout w col p v).2.1 (tileLayout w col p v).2.2.1) : shapeOk w = true := by
  obtain ⟨hc, hsize, hrow, -⟩ := h
  rw [shapeOk, Bool.and_eq_true, Bool.and_eq_true, decide_eq_true_eq, beq_iff_eq]
  exact ⟨⟨hc, hsize⟩, hrow⟩

/-- The places of a served tile are those of its words in order. -/
theorem tilePlaces_served {ac : Acc} (h : tileServes (s.fir.shape d.toNat) col b (tileLayout (s.fir.shape d.toNat) col p v).2.1
      (tileLayout (s.fir.shape d.toNat) col p v).2.2.1)
    (hb : s.blockPlaces ac 4 ((tileMove (s.fir.shape d.toNat) col p v).addr b)
      (List.range ((tileMove (s.fir.shape d.toNat) col p v).rows * (tileMove (s.fir.shape d.toNat) col p v).per)) = .ok (u, qs)) :
    s.tilePlaces ac d col b (tileMove (s.fir.shape d.toNat) col p v) = .ok (u, qs.map Prod.snd) := by
  obtain ⟨hper, hrows, hpitch, -⟩ := tileMove_layout (s.fir.shape d.toNat) col p v
  have hok := tileServes_ok h
  obtain ⟨-, -, -, hcol, halign⟩ := h
  have hsz : (!col || esize (shapeTy (s.fir.shape d.toNat)) == 4) = true := by
    cases col with
    | true => simpa using hcol rfl
    | false => rfl
  have hfind : ((List.range (tileMove (s.fir.shape d.toNat) col p v).rows).find? fun r =>
      (b + r * (tileMove (s.fir.shape d.toNat) col p v).pitch) % (if esize (shapeTy (s.fir.shape d.toNat)) = 8 then 8 else 4) != 0) = none := by
    refine List.find?_eq_none.mpr fun r hr => ?_
    rw [hpitch]
    simpa using halign r (by rw [← hrows]; exact List.mem_range.mp hr)
  unfold State.tilePlaces State.tileOk
  rw [check_true hok, ok_bind]
  dsimp only
  rw [check_true hsz, ok_bind, hfind]
  dsimp only
  rw [hb]
  rfl

theorem map_zipIdx_names {α β : Type} (f : Nat → Place → β) (g : α → Nat → β) (ws : Place → α) (hn : qs.map Prod.fst = List.range qs.length)
    (hfg : ∀ n pl, g (ws pl) n = f n pl) : (((qs.map Prod.snd).map ws).zipIdx.map fun y => g y.1 y.2) = qs.map fun q => f q.1 q.2 := by
  refine List.ext_getElem (by simp) fun n h1 h2 => ?_
  have hname : ∀ (h : n < qs.length), qs[n].1 = n := fun h => by
    have := congrArg (fun l : List Nat => l[n]?) hn
    simpa [h] using this
  simp only [List.getElem_map, List.getElem_zipIdx, Nat.zero_add]
  rw [hfg, hname]

theorem shape_reading (h : u.fir = s.fir) (t : Nat) : u.fir.shape t = s.fir.shape t := by rw [h]

theorem Firing.wm_ends (f : Firing) (d : BitVec 3) (w : BitVec 32768) (p : List Nat) (hd : f.data = []) :
    (({ f with data := [], paths := p } : Firing).wm d w).advance
      = { f.advance with m := (({ f with data := [], paths := p } : Firing).wm d w).advance.m, paths := p } := by
  rw [Firing.advance_m]
  refine (Firing.advance_loadedTile f (f.m.set d.toNat w) p []).trans ?_
  rw [← hd, ← Firing.advance_data]
  rfl

variable {m : TileMove} {l : Nat × Nat × Nat × (Nat → Nat)}

theorem blockPlaces_range {ac : Acc} {f : Nat → Int} {n : Nat} (hb : s.blockPlaces ac 4 f (List.range n) = .ok (u, qs)) :
    qs.map Prod.fst = List.range qs.length := by
  have hnames := State.blockPlaces_names hb
  have hlen := congrArg List.length hnames
  rw [List.length_map, List.length_range] at hlen
  rw [hnames, hlen]

/-- A tile loaded from places at hand. -/
theorem exec_tld_near (hz : s.cores[s.fir.core].lazyTiles = []) (hm : tileMove (s.fir.shape d.toNat) col p (s.rx (p.setWidth 6)) = m)
    (hl : tileLayout (s.fir.shape d.toNat) col p (s.rx (p.setWidth 6)) = l) (hserve : tileServes (s.fir.shape d.toNat) col (s.rx x).toNat l.2.1 l.2.2.1)
    (hb : s.blockPlaces .load 4 (m.addr (s.rx x).toNat) (List.range (m.rows * m.per)) = .ok (u, qs))
    (hn : ∀ q ∈ qs, u.near false 4 q.2 = true) (hi : s.Issues (.tld d x p col)) (hbusy : s.tileBusy d = false) :
    ∃ t : State, t.reading u ∧ t.fir = { s.fir with data := [], paths := t.fir.paths } ∧ exec (.tld d x p col) s = .next ((t.upd fun f => f.wm d
      (setElems 32 (s.fir.rm d) (qs.map fun q => (l.2.2.2 q.1, u.readAt q.2 4)))).upd Firing.advance) := by
  have hr := State.blockPlaces_reached hb
  have hplaces : s.tilePlaces .load d col (s.rx x).toNat m = .ok (u, qs.map Prod.snd) := by
    subst hm hl
    exact tilePlaces_served hserve hb
  have hword : ∀ i, m.word (i / m.per) (i % m.per) = l.2.2.2 i := by
    subst hm hl
    exact (tileMove_layout _ _ _ _).2.2.2
  obtain ⟨t, hread, ht, hfir⟩ := State.readParts_near (pls := qs.map Prod.snd) (n := 4)
    (fun q hq => by obtain ⟨y, hy, rfl⟩ := List.mem_map.mp hq; exact hn y hy) (fun i => ofInt (m.addr (s.rx x).toNat i))
  rw [State.reached_fir hr] at hfir
  have hval : ∀ pl : Place, (BitVec.ofNat 64 (u.readAt pl 4)).toNat = u.readAt pl 4 := fun pl =>
    Nat.mod_eq_of_lt (bytes_le_dword (by decide) (u.readAt_lt pl 4))
  have hfold : ∀ r : BitVec 32768, (((qs.map Prod.snd).map fun pl => BitVec.ofNat 64 (u.readAt pl 4)).zipIdx).foldl
      (fun (x : BitVec 32768) y => setElem x 32 (m.word (y.2 / m.per) (y.2 % m.per)) y.1.toNat) r
        = setElems 32 r (qs.map fun q => (l.2.2.2 q.1, u.readAt q.2 4)) := fun r => by
    rw [← map_zipIdx_names (fun n pl => (l.2.2.2 n, u.readAt pl 4)) (fun (v : Word) n => (m.word (n / m.per) (n % m.per), v.toNat)) _
      (blockPlaces_range hb) fun n pl => by rw [hword, hval], setElems, List.foldl_map]
  have hbu : u.tileBusy d = false := by
    obtain ⟨hu, -⟩ := hr
    rw [hu]
    exact hbusy
  have htile : t.touchTile d.toNat = t := State.touchTile_none (by
    have h1 : t.cores = s.cores := (by rw [ht.1] : t.cores = u.cores).trans (State.reached_cores hr)
    have h2 : t.fir.core = s.fir.core := ht.2.1.trans (by rw [State.reached_fir hr])
    simp only [h1, h2]
    exact hz) _
  have hrm : t.fir.rm d = s.fir.rm d := Firing.rm_congr (by rw [hfir]) d
  refine ⟨t, ht, hfir, ?_⟩
  rw [exec_tld, execTld, plain_issues hi, rxn_five]
  dsimp only
  rw [← State.rx, hm, hplaces, ok_bind]
  dsimp only
  rw [hbu, if_neg Bool.false_ne_true, hread, ok_bind]
  dsimp only
  rw [htile, hfold, hrm]
  rfl

/-- What a TLD of places at hand leaves (R309). -/
theorem loadedTile (hz : s.cores[s.fir.core].lazyTiles = []) (hd : s.fir.data = [])
    (hm : tileMove (s.fir.shape d.toNat) col p (s.rx (p.setWidth 6)) = m)
    (hl : tileLayout (s.fir.shape d.toNat) col p (s.rx (p.setWidth 6)) = l) (hserve : tileServes (s.fir.shape d.toNat) col (s.rx x).toNat m.rows l.2.2.1)
    (hb : s.blockPlaces .load 4 (m.addr (s.rx x).toNat) (List.range (m.rows * m.per)) = .ok (u, qs))
    (hn : ∀ q ∈ qs, u.near false 4 q.2 = true) (hi : s.Issues (.tld d x p col)) (hbusy : s.tileBusy d = false) :
    ∃ v, exec (.tld d x p col) s = .next v ∧ v.mem = u.mem ∧ v.fir = { s.fir.advance with m := v.fir.m, paths := v.fir.paths } ∧
      (∀ q ∈ qs, elem (v.fir.rm d) 32 (l.2.2.2 q.1) = u.readAt q.2 4) ∧
      (∀ w, (∀ n, n < m.rows * m.per → l.2.2.2 n ≠ w) → w < 1024 → elem (v.fir.rm d) 32 w = elem (s.fir.rm d) 32 w) ∧
      (∀ r, r ≠ d → v.fir.rm r = s.fir.rm r) := by
  obtain ⟨hper, hrows, -, -⟩ := tileMove_layout (s.fir.shape d.toNat) col p (s.rx (p.setWidth 6))
  rw [hl, hm] at hper hrows
  have hnames := State.blockPlaces_names hb
  obtain ⟨t, ht, hfir, hx⟩ := exec_tld_near hz hm hl (hrows ▸ hserve) hb hn hi hbusy
  have hin : ∀ n, n < m.rows * m.per → l.2.2.2 n < 1024 := fun n hn => by
    rw [hper] at hn
    rw [hrows] at hn hserve
    subst hl
    exact tileLayout_inside hserve hn
  have hinj : ∀ i j, i < m.rows * m.per → j < m.rows * m.per → l.2.2.2 i = l.2.2.2 j → i = j := fun i j hi hj he => by
    rw [hper, hrows] at hi hj
    subst hl
    exact tileLayout_inj hi hj he
  have hq : ∀ q ∈ qs, q.1 < m.rows * m.per := fun q hq => List.mem_range.mp (hnames ▸ List.mem_map_of_mem hq)
  generalize hxs : (qs.map fun q => (l.2.2.2 q.1, u.readAt q.2 4)) = xs at hx
  have hfst : xs.map Prod.fst = (List.range (m.rows * m.per)).map l.2.2.2 := by
    rw [← hxs, ← hnames, List.map_map, List.map_map]
    rfl
  have hnodup : (xs.map Prod.fst).Nodup := by
    rw [hfst]
    exact List.Nodup.map_on (fun i hi j hj he => hinj i j (List.mem_range.mp hi) (List.mem_range.mp hj) he) List.nodup_range
  have hends := Firing.wm_ends s.fir d (setElems 32 (s.fir.rm d) xs) t.fir.paths hd
  rw [← hfir] at hends
  have hself : (t.fir.wm d (setElems 32 (s.fir.rm d) xs)).advance.rm d = setElems 32 (s.fir.rm d) xs :=
    (Firing.rm_congr (Firing.advance_m _) d).trans (Firing.rm_wm_same ..)
  have hother : ∀ r, r ≠ d → (t.fir.wm d (setElems 32 (s.fir.rm d) xs)).advance.rm r = s.fir.rm r := fun r hr =>
    (Firing.rm_congr (Firing.advance_m _) r).trans ((Firing.rm_wm_ne _ _ hr).trans (Firing.rm_congr (by rw [hfir]) r))
  have hpaths : (t.fir.wm d (setElems 32 (s.fir.rm d) xs)).advance.paths = t.fir.paths := by rw [Firing.advance_paths]; rfl
  refine ⟨_, hx, by rw [State.upd_mem, State.upd_mem, State.reading_mem ht], ?_, fun q hqm => ?_, fun w hw hlt => ?_, hother⟩
  · rw [State.upd_fir, State.upd_fir, hpaths]
    exact hends
  · rw [State.upd_fir, State.upd_fir, hself]
    have hmem : (l.2.2.2 q.1, u.readAt q.2 4) ∈ xs := hxs ▸ List.mem_map_of_mem hqm
    have hroom := hin _ (hq q hqm)
    refine (setElems_self (s.fir.rm d) hnodup hmem (by dsimp only; omega)).trans (Nat.mod_eq_of_lt ?_)
    exact lt_of_lt_of_le (u.readAt_lt q.2 4) (by norm_num)
  · rw [State.upd_fir, State.upd_fir, hself]
    refine setElems_other (s.fir.rm d) ?_ (by omega)
    rw [hfst]
    intro hm
    obtain ⟨n, hn, he⟩ := List.mem_map.mp hm
    exact hw n (List.mem_range.mp hn) he

theorem exec_tst_near (hz : s.cores[s.fir.core].lazyTiles = []) (hd : s.fir.data = [])
    (hm : tileMove (s.fir.shape d.toNat) col p (s.rx (p.setWidth 6)) = m)
    (hl : tileLayout (s.fir.shape d.toNat) col p (s.rx (p.setWidth 6)) = l) (hserve : tileServes (s.fir.shape d.toNat) col (s.rx x).toNat l.2.1 l.2.2.1)
    (hb : s.blockPlaces .store 4 (m.addr (s.rx x).toNat) (List.range (m.rows * m.per)) = .ok (u, qs))
    (hn : ∀ q ∈ qs, u.near true 4 q.2 = true) (hi : s.Issues (.tst x d p col)) :
    exec (.tst x d p col) s = .next ((u.storeEach 4 (qs.map fun q => (q.2, elem (s.fir.rm d) 32 (l.2.2.2 q.1)))).upd Firing.advance) := by
  have hr := State.blockPlaces_reached hb
  have hplaces : s.tilePlaces .store d col (s.rx x).toNat m = .ok (u, qs.map Prod.snd) := by
    subst hm hl
    exact tilePlaces_served hserve hb
  have hword : ∀ i, m.word (i / m.per) (i % m.per) = l.2.2.2 i := by
    subst hm hl
    exact (tileMove_layout _ _ _ _).2.2.2
  have htile : u.touchTile d.toNat = u := State.touchTile_none (by
    have h1 := State.reached_cores hr
    have h2 : u.fir.core = s.fir.core := by rw [State.reached_fir hr]
    simp only [h1, h2]
    exact hz) _
  have hlen := congrArg List.length (State.blockPlaces_names hb)
  rw [List.length_map, List.length_range] at hlen
  have hxs : (qs.map Prod.snd).zip (((List.range (m.rows * m.per)).map fun i =>
      BitVec.ofNat 64 (elem (s.fir.rm d) 32 (m.word (i / m.per) (i % m.per)))).map BitVec.toNat)
        = qs.map fun q => (q.2, elem (s.fir.rm d) 32 (l.2.2.2 q.1)) := by
    have hval : ∀ i, (BitVec.ofNat 64 (elem (s.fir.rm d) 32 (m.word (i / m.per) (i % m.per)))).toNat = elem (s.fir.rm d) 32 (l.2.2.2 i) := fun i => by
      rw [hword]
      exact Nat.mod_eq_of_lt (lt_trans (elem_lt _ 32 _) (by norm_num))
    have hz := zip_range_map (qs.map Prod.snd) fun i => elem (s.fir.rm d) 32 (l.2.2.2 i)
    rw [List.length_map, hlen] at hz
    rw [List.map_map]
    refine (congrArg ((qs.map Prod.snd).zip ·) (List.map_congr_left fun i _ => hval i)).trans (hz.trans ?_)
    have hn := map_zipIdx_names (fun n pl => (pl, elem (s.fir.rm d) 32 (l.2.2.2 n))) (fun (v : Place) n => (v, elem (s.fir.rm d) 32 (l.2.2.2 n))) id
      (blockPlaces_range hb) fun n pl => rfl
    rwa [List.map_id] at hn
  have hnear : ∀ y ∈ qs.map fun q => (q.2, elem (s.fir.rm d) 32 (l.2.2.2 q.1)), u.near true 4 y.1 = true := fun y hy => by
    obtain ⟨q, hq, rfl⟩ := List.mem_map.mp hy
    exact hn q hq
  rw [exec_tst, execTst, plain_issues hi, rxn_five]
  dsimp only
  rw [← State.rx, hm, hplaces, ok_bind]
  dsimp only
  rw [htile, State.writeParts, State.reached_fir hr, hxs, State.storeParts_near hnear (by rw [State.reached_fir hr]; exact hd)]
  rfl

end

/-- A tile whose shape cannot be used takes TILECFG (R307). -/
theorem exec_tileOp_shape {s : State} {d a : BitVec 3} {x : BitVec 6} {p : BitVec 5} {col : Bool} (h : shapeOk (s.fir.shape d.toNat) = false)
    {i : Instr} (hm : i ∈ [Instr.tld d x p col, .tst x d p col, .tzero d, .tmov d a]) (hi : s.Issues i) :
    exec i s = .next (s.trapHere { c := .tilecfg, sub := 0, val := BitVec.ofNat 64 d.toNat }) := by
  have hok : s.tileOk d = raise .tilecfg (BitVec.ofNat 64 d.toNat) := by
    rw [State.tileOk, h]
    rfl
  have hpl : ∀ ac b m, s.tilePlaces ac d col b m = raise .tilecfg (BitVec.ofNat 64 d.toNat) := fun ac b m => by
    unfold State.tilePlaces
    rw [hok]
    rfl
  fin_cases hm
  · rw [exec_tld, execTld, plain_issues hi]
    dsimp only
    rw [hpl]
    rfl
  · rw [exec_tst, execTst, plain_issues hi]
    dsimp only
    rw [hpl]
    rfl
  · rw [exec_tzero, execTzero, plain_issues hi, hok]
    rfl
  · rw [exec_tmov, execTmov, plain_issues hi, hok]
    rfl

/-- Settles O37: accumulators one by one, and tiles through their words in memory order. -/
theorem tilesAndAccumulators : Obligations.TilesAndAccumulators := by
  unfold Obligations.TilesAndAccumulators
  refine ⟨fun s u d a x r y pls => ⟨fun hi => ⟨exec_accrd_beyond hi, exec_accrd_row hi⟩, fun hd => ⟨exec_acczero_free hd, exec_accswp_free hd,
    exec_accstat_free hd, fun ha hl hdata => ⟨exec_accld_near hd ha hl hdata, exec_accst_near hd ha hl hdata⟩⟩,
    fun hb i hm hi => exec_accOp_busy hb hm hi⟩, fun s u d a x p col pls hz => ⟨fun h i hm hi => exec_tileOp_shape h hm hi, fun hok hb => ⟨fun hi => ?_,
    fun hi hoka => ?_⟩, ?_⟩⟩
  · rw [exec_tzero, execTzero, plain_issues hi, State.tileOk, check_true hok, ok_bind, hb, State.touchTile_none hz]
    rfl
  · rw [exec_tmov, execTmov, plain_issues hi, State.tileOk, State.tileOk, check_true hok, ok_bind, check_true hoka, ok_bind, hb,
      State.touchTile_none hz, State.touchTile_none hz]
    rfl
  · dsimp only
    generalize hl : tileLayout (s.fir.shape d.toNat) col p (s.rx (p.setWidth 6)) = l
    generalize hm : tileMove (s.fir.shape d.toNat) col p (s.rx (p.setWidth 6)) = m
    obtain ⟨hper, hrows, hpitch, -⟩ := tileMove_layout (s.fir.shape d.toNat) col p (s.rx (p.setWidth 6))
    rw [hl, hm] at hper hrows hpitch
    have haddr : (fun n => (((s.rx x).toNat + n / l.1 * l.2.2.1 + 4 * (n % l.1) : Nat) : Int)) = m.addr (s.rx x).toNat := by
      funext n
      rw [TileMove.addr, hper, hpitch]
    rw [haddr, ← hrows, ← hper]
    exact fun hserve hdata => ⟨fun hb hn hi hbusy => loadedTile hz hdata hm hl hserve hb hn hi hbusy,
      fun hb hn hi => exec_tst_near hz hdata hm hl (hrows ▸ hserve) hb hn hi⟩

end Sys2Proof.Machine
end

section
/-! SUPPORT. An MMA at issue (R294 to R298). -/

namespace Sys2Proof.Machine

theorem Firing.advance_withMmas (f : Firing) (n : Nat) : ({ f with mmas := n } : Firing).advance = { f.advance with mmas := n } := by
  unfold Firing.advance Firing.clrRep Firing.repact Firing.repi Firing.repj
  dsimp only
  split_ifs <;> rfl

section
variable {s : State} {o : MmaOp} {n : Nat} {w0 xs : Word}

theorem State.mmaTile_ok (h : o.fits s.fir w0 n) : s.mmaTile o = .ok () := by
  obtain ⟨h, -⟩ := h
  unfold State.mmaTile
  cases ht : o.tile with
  | none => rfl
  | some t =>
    rw [ht] at h
    obtain ⟨h1, h2, h3, h4⟩ := h
    exact check_true (by simp [h1, h2, h3, h4])

theorem MmaOp.aligned_ok (h : o.fits s.fir w0 n) : o.aligned = .ok () := by
  obtain ⟨h, -⟩ := h
  unfold MmaOp.aligned
  cases ht : o.tile with
  | some t => rfl
  | none =>
    rw [ht] at h
    obtain ⟨-, h1, h2, h3, -⟩ := h
    simp [h1, h2, h3]

theorem MmaOp.scaleAligned_ok (h : o.fits s.fir w0 n) : o.scaleAligned = .ok () := by
  obtain ⟨-, h⟩ := h
  unfold MmaOp.scaleAligned
  cases hs : o.scale with
  | none => rfl
  | some v =>
    rw [hs] at h
    exact check_true (by simp [h.1])

theorem MmaOp.inside_ok (h : o.fits s.fir w0 n) : o.inside n w0 xs = .ok () := by
  obtain ⟨hl, hsc⟩ := h
  have hse : decide ((o.ends n).2 ≤ 2 ^ 20) = true := by
    rw [MmaOp.ends, decide_eq_true_eq]
    cases hs : o.scale with
    | none => exact Nat.zero_le _
    | some v =>
      rw [hs] at hsc
      exact hsc.2
  unfold MmaOp.inside
  dsimp only
  rw [check_true hse]
  cases ht : o.tile with
  | some t => rfl
  | none =>
    rw [ht] at hl
    obtain ⟨hw, -, -, -, hend⟩ := hl
    have hc : (bits w0 63 20 == 0 && decide ((o.ends n).1 ≤ 2 ^ 20)) = true := by
      rw [MmaOp.ends, ht, Bool.and_eq_true, beq_iff_eq, decide_eq_true_eq]
      refine ⟨?_, hend⟩
      simp only [bits]
      omega
    rw [check_true hc]
    rfl

end

/-! ### An accepted MMA -/

/-- The array, the range-lock table and the firing after an MMA is accepted, with the accumulators acc (R297, R298). -/
def State.mmaIn (s : State) (acc : Vector (BitVec 131072) 4) (job : MmaJob) (locks : List Lock) (first : Bool) : State :=
  let t := ({ s with fir := { s.fir with acc := acc } }.onCore s.fir.core fun x => { x with mmas := x.mmas ++ [job] }).onFrond s.fir.frond fun x =>
    { x with locks := x.locks ++ locks }
  (if first then t.push .mmaStep s.fir.core.val 0 0 0 else t).upd fun f => { f.clrPfx with mmas := f.mmas + 1 }

section
variable (s : State) (acc : Vector (BitVec 131072) 4) (job : MmaJob) (locks : List Lock) (first : Bool)

theorem State.mmaIn_fir : (s.mmaIn acc job locks first).fir = { ({ s.fir with acc := acc } : Firing).clrPfx with mmas := s.fir.mmas + 1 } := by
  cases first <;> rfl

theorem State.mmaIn_mem : (s.mmaIn acc job locks first).mem = s.mem := by cases first <;> rfl

theorem State.mmaIn_mmas : (s.mmaIn acc job locks first).cores[s.fir.core].mmas = s.cores[s.fir.core].mmas ++ [job] := by
  have h : (s.mmaIn acc job locks first).cores = s.cores.set s.fir.core { s.cores[s.fir.core] with mmas := s.cores[s.fir.core].mmas ++ [job] } := by
    cases first <;> rfl
  simp [h]

theorem State.mmaIn_locks : (s.mmaIn acc job locks first).fronds[s.fir.frond].locks = s.fr.locks ++ locks := by
  have h : (s.mmaIn acc job locks first).fronds = s.fronds.set s.fir.frond { s.fronds[s.fir.frond] with locks := s.fronds[s.fir.frond].locks ++ locks } := by
    cases first <;> rfl
  simp [h, State.fr]

theorem State.mmaIn_agenda : (s.mmaIn acc job locks first).agenda =
    if first then s.agenda ++ [{ op := .mmaStep, a := s.fir.core.val, b := 0, c := 0, v := 0, l := [] }] else s.agenda := by cases first <;> rfl

theorem State.mmaIn_ends : (s.mmaIn acc job locks first).fir.advance
    = { ({ s.fir with acc := acc } : Firing).advance.clrPfx with mmas := s.fir.mmas + 1 } := by
  rw [State.mmaIn_fir, Firing.advance_withMmas, Firing.advance_clrPfx]

end

theorem State.zeroAcc_own {s : State} (h : s.fir.active = true) (a : Nat) :
    s.zeroAcc s.fir.adm a = { s with fir := { s.fir with acc := s.fir.acc.mapIdx fun i x => if i = a then 0 else x } } := by
  rw [Firing.active, Bool.and_eq_true] at h
  exact State.onFiring_own_live h.1 rfl _

/-- The accumulators as an MMA's CLR leaves them at issue (R305). -/
def Firing.clearedAcc (f : Firing) (a : BitVec 2) (clears : Bool) : Vector (BitVec 131072) 4 :=
  if clears then f.acc.mapIdx fun i x => if i = a.toNat then 0 else x else f.acc

theorem Firing.clearedAcc_get (f : Firing) (a r : BitVec 2) (c : Bool) :
    (f.clearedAcc a c)[r.toNat] = if r = a ∧ c = true then 0 else f.ra r := by
  unfold Firing.clearedAcc Firing.ra
  cases c with
  | false => simp
  | true =>
    rw [if_pos rfl, Vector.getElem_mapIdx]
    by_cases h : r = a
    · rw [if_pos (by rw [h]), if_pos ⟨h, rfl⟩]
    · rw [if_neg (fun e => h (BitVec.eq_of_toNat_eq e)), if_neg (fun e => h e.1)]

section
variable {s : State} {t c : Bool} {a : BitVec 2} {sa : Bool} {ra : BitVec 5} {sb : Bool} {rb : BitVec 5} {k : BitVec 6}

theorem rxn_pair (f : Firing) (r : BitVec 5) (j : Nat) : f.rxn (2 * r.toNat + j) = f.rx (BitVec.ofNat 6 (2 * r.toNat + j)) := rfl

/-- A dword of an operand's scratchpad pair (R295). -/
def State.mmaPair (s : State) (sp : Bool) (r : BitVec 5) (j : Nat) : Word := if sp then s.rx (BitVec.ofNat 6 (2 * r.toNat + j)) else 0

/-- The prefix an MMA of the acting firing works under (R294). -/
def State.mmaPfx (s : State) : BitVec 32 := if s.fir.fpend then s.fir.pfx else 0

theorem exec_mma_accepted (hi : s.IssuesEither (.mma t c a sa ra sb rb k)) {p : Prefx} (hp : mmaPrefx s.mmaPfx = p) (hok : p.mmaOk = true)
    {xs : Word} (hxs : (if p.sc then s.rx p.xs else 0) = xs) {oa ob : MmaOp}
    (hoa : opA (encode (.mma t c a sa ra sb rb k)) p (s.mmaPair sa ra 0) (s.mmaPair sa ra 1) xs = oa)
    (hob : opB (encode (.mma t c a sa ra sb rb k)) p (s.mmaPair sb rb 0) (s.mmaPair sb rb 1) xs = ob)
    {locks : List Lock} (hlocks : oa.lock (k.toNat + 1) (p.pl + 1) (.mma s.fir.adm s.fir.mmas) ++ ob.lock (k.toNat + 1) (p.pl + 1) (.mma s.fir.adm s.fir.mmas) = locks)
    (ha1 : (s.mmaPair sa ra 1).toNat < 2 ^ 44) (hb1 : (s.mmaPair sb rb 1).toNat < 2 ^ 44) (hfa : oa.fits s.fir (s.mmaPair sa ra 0) (k.toNat + 1))
    (hfb : ob.fits s.fir (s.mmaPair sb rb 0) (k.toNat + 1)) (hroom : s.cores[s.fir.core].mmas.length < 8) (hlast : s.accLast a = true)
    (htok : t = true → s.fir.q13.length + (s.myMmas.filter fun j => mmaTok j.word).length < 16) (he : s.earlier = false)
    (hfree : s.lockFree locks.length) (hz : s.cores[s.fir.core].lazyTiles = []) :
    exec (.mma t c a sa ra sb rb k) s = .next ((s.mmaIn (s.fir.clearedAcc a (c && !(c && s.accBusy a)))
      { adm := s.fir.adm, word := encode (.mma t c a sa ra sb rb k), pfx := s.mmaPfx, topx := s.fir.topx, a0 := s.mmaPair sa ra 0,
        a1 := s.mmaPair sa ra 1, b0 := s.mmaPair sb rb 0, b1 := s.mmaPair sb rb 1, xs := xs, clr := c && s.accBusy a, done := 0, num := s.fir.mmas }
      locks s.cores[s.fir.core].mmas.isEmpty).upd Firing.advance) := by
  have hact : s.fir.active = true := by rcases hi with h | h <;> exact h.1
  have hlegal : legal (.mma t c a sa ra sb rb k) = true := by rcases hi with h | h <;> exact h.2.2.1
  have hst : stageIll s.fir (opsOf (.mma t c a sa ra sb rb k)) = false := by rcases hi with h | h <;> exact h.2.2.2.1
  have hout : s.fir.outside (opsOf (.mma t c a sa ra sb rb k)) = none := by rcases hi with h | h <;> exact h.2.2.2.2
  have hbits : ¬ (bits (s.mmaPair sa ra 1) 63 44 ≠ 0 ∨ bits (s.mmaPair sb rb 1) 63 44 ≠ 0) := by
    simp only [bits]
    omega
  have hblock : ¬ (8 ≤ s.cores[s.fir.core].mmas.length ∨ s.accLast a = false ∨
      (t = true ∧ 16 ≤ s.fir.q13.length + (s.myMmas.filter fun j => mmaTok j.word).length)) := by
    rw [hlast]
    rintro (h | h | ⟨h1, h2⟩)
    · omega
    · cases h
    · have := htok h1
      omega
  have hill : (!(mmaPrefx s.mmaPfx).mmaOk) = false := by rw [hp, hok]; rfl
  have hearly : s.afterEarlier = .ok () := if_neg (by rw [he]; decide)
  rw [exec_mma, execMma, issue_of_checks hact (.inr rfl) hlegal hst hill rfl hout]
  refine congrArg (finish s) (?_ : _ = Except.ok (Done.done _))
  dsimp only
  have hword : (descOf (.mma t c a sa ra sb rb k)).word = encode (.mma t c a sa ra sb rb k) := rfl
  have hpair : ∀ sp r j, (if sp = true then s.fir.rxn (2 * BitVec.toNat r + j) else 0) = s.mmaPair sp r j := fun sp r j => rfl
  have hpfx : (if s.fir.fpend = true then s.fir.pfx else 0) = s.mmaPfx := rfl
  simp only [hpair, hpfx, hp, hxs, hword, hoa, hob]
  rw [if_neg hbits, State.mmaTile_ok hfa, ok_bind, State.mmaTile_ok hfb, ok_bind, MmaOp.aligned_ok hfa, ok_bind, MmaOp.aligned_ok hfb, ok_bind,
    MmaOp.scaleAligned_ok hfa, ok_bind, MmaOp.scaleAligned_ok hfb, ok_bind, MmaOp.inside_ok hfa, ok_bind, MmaOp.inside_ok hfb, ok_bind,
    hlocks, if_neg hblock, hearly, ok_bind, lockRoom_ok hfree, ok_bind]
  simp only [State.touchTile_none hz, ite_self]
  generalize hcl : (c && !(c && s.accBusy a)) = clears
  cases clears with
  | false => cases s.cores[s.fir.core].mmas.isEmpty <;> rfl
  | true =>
    rw [if_pos rfl, State.zeroAcc_own hact]
    cases s.cores[s.fir.core].mmas.isEmpty <;> rfl

end

end Sys2Proof.Machine
end

section
/-! PROOF. The matrix array (R294 to R301). -/

namespace Sys2Proof.Machine

/-! ### One accumulator element -/

theorem foldl_sum_add (xs : List (MV × MV)) (h : ∀ p ∈ xs, p.1.nan = false ∧ p.1.inf = 0 ∧ p.2.nan = false ∧ p.2.inf = 0) (v : Int) :
    xs.foldl (fun (x : Sum) p => x.add p.1 p.2) ({ nan := false, pinf := false, ninf := false, v := v } : Sum)
      = ({ nan := false, pinf := false, ninf := false, v := v + (xs.map fun p => p.1.v * p.2.v).sum } : Sum) := by
  induction xs generalizing v with
  | nil => simp
  | cons p xs ih =>
    obtain ⟨h1, h2, h3, h4⟩ := h p (List.mem_cons_self ..)
    have hadd : Sum.add { nan := false, pinf := false, ninf := false, v := v } p.1 p.2
        = { nan := false, pinf := false, ninf := false, v := v + p.1.v * p.2.v } := by
      simp [Sum.add, h1, h2, h3, h4]
    rw [List.foldl_cons, hadd, ih (fun q hq => h q (List.mem_cons_of_mem _ hq)), List.map_cons, List.sum_cons, Int.add_assoc]

/-- The sum of products of finite lines is finite and exact (R63). -/
theorem dot_finite {a b : List MV} (ha : finiteLine a) (hb : finiteLine b) :
    dot a b = { nan := false, pinf := false, ninf := false, v := exactDot a b } := by
  have h := foldl_sum_add (a.zip b) (fun p hp => by
    obtain ⟨h1, h2⟩ := List.of_mem_zip (a := p.1) (b := p.2) hp
    obtain ⟨h3, h4⟩ := ha _ h1
    obtain ⟨h5, h6⟩ := hb _ h2
    exact ⟨h3, h4, h5, h6⟩) 0
  rw [Int.zero_add] at h
  exact h

theorem Fmt.value_exponent {F : Fmt} {w m : Nat} {neg : Bool} {e : Int} (h : F.value w = .fin neg m e) : 1 - (F.bias : Int) - F.fw ≤ e := by
  have hif : ∀ (b c g : Bool) (fr ex : Nat), (if b then (if c then FV.inf g else .nan g fr) else if ex = 0 then .fin g fr (1 - (F.bias : Int) - F.fw)
      else .fin g (2 ^ F.fw + fr) ((ex : Int) - F.bias - F.fw)) = .fin neg m e → 1 - (F.bias : Int) - F.fw ≤ e := by
    intro b c g fr ex h
    cases b with
    | true => cases c <;> cases h
    | false =>
      rw [if_neg Bool.false_ne_true] at h
      by_cases hx : ex = 0
      · rw [if_pos hx] at h
        cases h
        exact le_rfl
      · rw [if_neg hx] at h
        cases h
        omega
  exact hif _ _ _ _ _ h

theorem accFloat_step {acc : Nat} {v : Int} {r : Nat × Nat} (h : stepElement false acc v = some r) :
    accFloat acc { nan := false, pinf := false, ninf := false, v := v } = r := by
  unfold stepElement at h
  rw [if_neg Bool.false_ne_true] at h
  unfold accFloat
  dsimp only
  generalize hx : f32.value acc = x at h
  cases x with
  | nan _ _ => cases h
  | inf _ => cases h
  | fin neg m e =>
    have he : -149 ≤ e := Fmt.value_exponent hx
    have hmin : min e (-320) = -320 := by omega
    have hu : e - -320 = e + 320 := by ring
    have hv : (if decide (v < 0) = true then -((v.natAbs : Nat) : Int) else (v.natAbs : Int)) = v := by
      split_ifs with hneg
      · rw [decide_eq_true_eq] at hneg
        omega
      · rw [decide_eq_true_eq] at hneg
        omega
    have hsum : sumFin neg m e (decide (v < 0)) v.natAbs (-320)
        = ((if neg then -((m * 2 ^ (e + 320).toNat : Nat) : Int) else ((m * 2 ^ (e + 320).toNat : Nat) : Int)) + v, -320) := by
      unfold sumFin
      dsimp only
      rw [hmin, hu, sub_self, Int.toNat_zero, pow_zero, Nat.mul_one, hv]
    dsimp only at h ⊢
    rw [Bool.false_and, Bool.or_false, if_neg Bool.false_ne_true, if_neg Bool.false_ne_true, if_neg Bool.false_ne_true, hsum]
    dsimp only
    split_ifs at h ⊢
    all_goals exact Option.some.inj h

theorem accInt_step {acc : Nat} {v : Int} {r : Nat × Nat} (hacc : acc < 2 ^ 32) (h : stepElement true acc v = some r) :
    accInt acc { nan := false, pinf := false, ninf := false, v := v } = r := by
  unfold stepElement at h
  rw [if_pos rfl] at h
  have hint : intOf true 32 acc = (BitVec.ofNat 32 acc).toInt := by
    rw [← intOf_true (by decide), BitVec.toNat_ofNat, Nat.mod_eq_of_lt hacc]
  have hclamp : ∀ i : Int, clampInt true 32 i = max (-2 ^ 31) (min (2 ^ 31 - 1) i) := fun i => rfl
  unfold accInt
  dsimp only at h ⊢
  rw [hint, hclamp, toBits_eq]
  exact Option.some.inj h

/-- One element of a step as the model computes it. -/
def stepValue (int : Bool) (acc : Nat) (x : Sum) : Nat × Nat := if int then accInt acc x else accFloat acc x

theorem stepValue_step {int : Bool} {acc : Nat} {a b : List MV} {r : Nat × Nat} (hacc : acc < 2 ^ 32) (ha : finiteLine a) (hb : finiteLine b)
    (h : stepElement int acc (exactDot a b) = some r) : stepValue int acc (dot a b) = r := by
  rw [dot_finite ha hb]
  cases int with
  | true => exact accInt_step hacc h
  | false => exact accFloat_step h

theorem stepElement_flags {int : Bool} {acc : Nat} {v : Int} {r : Nat × Nat} (h : stepElement int acc v = some r) : r.2 < 2 ^ 64 := by
  have hif : ∀ (x : Int) (p : Nat × Nat), (if x = 0 then some (0, 0) else some (p.1, p.2 &&& 5)) = some r → r.2 < 2 ^ 64 := by
    intro x p h
    by_cases hx : x = 0
    · rw [if_pos hx] at h
      cases h
      norm_num
    · rw [if_neg hx] at h
      cases h
      exact lt_of_le_of_lt Nat.and_le_right (by norm_num)
  unfold stepElement at h
  split at h
  · cases h
    dsimp only
    split_ifs <;> norm_num
  · split at h
    · exact hif _ _ h
    · cases h

/-! ### The elements of an accumulator -/

theorem grid_get {α : Type} (g : Nat → Nat → α) {n y : Nat} (hy : y < n) {m x : Nat} (hx : x < m) :
    ((List.range m).flatMap fun i => (List.range n).map (g i))[n * x + y]? = some (g x y) := by
  have hlen : ∀ k, ((List.range k).flatMap fun i => (List.range n).map (g i)).length = n * k := fun k => by simp [Nat.mul_comm]
  induction m with
  | zero => omega
  | succ m ih =>
    rw [List.range_succ, List.flatMap_append]
    rcases Nat.lt_succ_iff_lt_or_eq.mp hx with hlt | rfl
    · have hin : n * x + y < n * m := by
        have := Nat.mul_le_mul_left n hlt
        rw [Nat.mul_succ] at this
        omega
      rw [List.getElem?_append_left (by rw [hlen]; exact hin), ih hlt]
    · rw [List.getElem?_append_right (by rw [hlen]; omega), hlen, Nat.add_sub_cancel_left]
      simp [hy]

theorem zipIdx_range_map {α : Type} (f : Nat → α) (n : Nat) : ((List.range n).map f).zipIdx = (List.range n).map fun i => (f i, i) := by
  refine List.ext_getElem (by simp) fun i h1 h2 => ?_
  simp

section
variable {s : State} {f : Firing} {j : MmaJob}

/-- A line of operand A, or of B, of an MMA at its step. -/
def State.lineA (s : State) (f : Firing) (j : MmaJob) (r : Nat) : List MV :=
  s.mmaLine f j.topx (mmaPrefx j.pfx) (opA j.word (mmaPrefx j.pfx) j.a0 j.a1 j.xs) j.done r
def State.lineB (s : State) (f : Firing) (j : MmaJob) (r : Nat) : List MV :=
  s.mmaLine f j.topx (mmaPrefx j.pfx) (opB j.word (mmaPrefx j.pfx) j.b0 j.b1 j.xs) j.done r

/-- The elements of a step in order, and their flags. -/
def State.stepped (s : State) (f : Firing) (j : MmaJob) : List (Nat × Nat) :=
  (List.range 64).flatMap fun x => (List.range 64).map fun y =>
    stepValue (mmaPrefx j.pfx).isInt (elem (f.acc.toList.getD (mmaAcc j.word) 0) 32 (64 * x + y)) (dot (s.lineA f j x) (s.lineB f j y))

theorem State.mmaApply_eq (s : State) (f : Firing) (j : MmaJob) :
    s.mmaApply f j = (pack 131072 32 ((s.stepped f j).map (·.1)), (s.stepped f j).foldl (fun x r => orF x r.2) 0) := by
  have hrs : ((((List.range 64).map (s.lineA f j)).zipIdx).flatMap fun a => (((List.range 64).map (s.lineB f j)).zipIdx).map fun b =>
      stepValue (mmaPrefx j.pfx).isInt (elem (f.acc.toList.getD (mmaAcc j.word) 0) 32 (64 * a.2 + b.2)) (dot a.1 b.1)) = s.stepped f j := by
    rw [zipIdx_range_map, zipIdx_range_map, List.flatMap_map]
    simp only [List.map_map]
    rfl
  rw [← hrs]
  rfl

theorem State.stepped_get {x y : Nat} (hx : x < 64) (hy : y < 64) : (s.stepped f j)[64 * x + y]? =
    some (stepValue (mmaPrefx j.pfx).isInt (elem (f.acc.toList.getD (mmaAcc j.word) 0) 32 (64 * x + y)) (dot (s.lineA f j x) (s.lineB f j y))) :=
  grid_get _ hy hx

theorem mmaAcc_lt (w : BitVec 32) : mmaAcc w < 4 := (w.extractLsb' 25 2).isLt

/-- An element of the accumulator after a step of finite lines (R63, R299). -/
theorem State.mmaApply_element {x y : Nat} (hx : x < 64) (hy : y < 64) (ha : finiteLine (s.lineA f j x)) (hb : finiteLine (s.lineB f j y))
    {r : Nat × Nat} (h : stepElement (mmaPrefx j.pfx).isInt (elem (f.ra (BitVec.ofNat 2 (mmaAcc j.word))) 32 (64 * x + y))
      (exactDot (s.lineA f j x) (s.lineB f j y)) = some r) :
    elem (s.mmaApply f j).1 32 (64 * x + y) = r.1 % 2 ^ 32 ∧ ∀ b, r.2.testBit b = true → (BitVec.ofNat 64 (s.mmaApply f j).2).getLsbD b = true := by
  have hn : (BitVec.ofNat 2 (mmaAcc j.word)).toNat = mmaAcc j.word := Nat.mod_eq_of_lt (mmaAcc_lt _)
  have hacc : f.acc.toList.getD (mmaAcc j.word) 0 = f.ra (BitVec.ofNat 2 (mmaAcc j.word)) := by
    have hlt := mmaAcc_lt j.word
    rw [Firing.ra]
    simp only [hn]
    simp [hlt]
  have hget := State.stepped_get (s := s) (f := f) (j := j) hx hy
  rw [hacc, stepValue_step (elem_lt _ 32 _) ha hb h] at hget
  rw [State.mmaApply_eq]
  refine ⟨?_, fun b hbit => ?_⟩
  · rw [elem_pack _ (by omega), List.getD_eq_getElem?_getD, List.getElem?_map, hget]
    rfl
  · have hlt := stepElement_flags h
    have hb64 : b < 64 := by
      by_contra hge
      have := Nat.testBit_lt_two_pow (lt_of_lt_of_le hlt (Nat.pow_le_pow_right (by decide) (not_lt.mp hge)))
      rw [this] at hbit
      cases hbit
    rw [BitVec.getLsbD_ofNat, decide_eq_true hb64, Bool.true_and, foldl_orF_testBit, Nat.zero_testBit, Bool.false_or]
    exact List.any_eq_true.mpr ⟨r, List.mem_of_getElem? hget, hbit⟩

end

/-! ### The end of a step -/

/-- A firing after a step on accumulator a (R299). -/
def Firing.mmaStepped (f : Firing) (a : Nat) (acc : BitVec 131072) (fl : Nat) : Firing :=
  { f with
    acc := f.acc.mapIdx fun i x => if i = a then acc else x
    accf := f.accf.mapIdx fun i x => if i = a then x ||| BitVec.ofNat 64 fl else x }

/-- A firing with accumulator a zeroed. -/
def Firing.accZeroed (f : Firing) (a : Nat) : Firing := { f with acc := f.acc.mapIdx fun i x => if i = a then 0 else x }

section
variable (s : State) (n : Nat) (g : Firing → Firing)

theorem State.onFiring_cores : (s.onFiring n g).cores = s.cores := by unfold State.onFiring; split <;> rfl
theorem State.onFiring_fronds : (s.onFiring n g).fronds = s.fronds := by unfold State.onFiring; split <;> rfl
theorem State.onFiring_mem : (s.onFiring n g).mem = s.mem := by unfold State.onFiring; split <;> rfl

end

section
variable {s t : State} {c : Fin 2048} {j : MmaJob} {js : List MmaJob} {f : Firing} {n a : Nat}

/-- The CLR of the next MMA on an accumulator acts, or none waits (R305). -/
theorem State.nextClr_cases (t : State) (c : Fin 2048) (n a : Nat) (hf : t.firing? n = some f) :
    ∃ z : Bool, (z = true → ∃ k ∈ t.cores[c].mmas, k.adm = n ∧ mmaAcc k.word = a ∧ k.clr = true) ∧
      (t.nextClr c n a).firing? n = some (if z then f.accZeroed a else f) ∧ (t.nextClr c n a).mem = t.mem ∧ (t.nextClr c n a).fronds = t.fronds ∧
      (t.nextClr c n a).cores[c].mmas.map (fun k => (k.adm, k.word, k.num)) = t.cores[c].mmas.map (fun k => (k.adm, k.word, k.num)) := by
  have hstay : ∃ z : Bool, (z = true → ∃ k ∈ t.cores[c].mmas, k.adm = n ∧ mmaAcc k.word = a ∧ k.clr = true) ∧
      t.firing? n = some (if z then f.accZeroed a else f) ∧ t.mem = t.mem ∧ t.fronds = t.fronds ∧
      t.cores[c].mmas.map (fun k => (k.adm, k.word, k.num)) = t.cores[c].mmas.map (fun k => (k.adm, k.word, k.num)) :=
    ⟨false, nofun, hf, rfl, rfl, rfl⟩
  unfold State.nextClr
  generalize hx : (t.cores[c].mmas.find? fun j => j.adm == n && mmaAcc j.word == a) = x
  cases x with
  | none => exact hstay
  | some k =>
    dsimp only
    by_cases hk : k.clr = true
    · rw [if_pos hk]
      have hsat := List.find?_some (p := fun j : MmaJob => j.adm == n && mmaAcc j.word == a) hx
      rw [Bool.and_eq_true, beq_iff_eq, beq_iff_eq] at hsat
      have hz : (t.zeroAcc n a).firing? n = some (f.accZeroed a) := State.firing?_onFiring hf (fun _ => rfl) fun _ => rfl
      refine ⟨true, fun _ => ⟨k, List.mem_of_find?_eq_some hx, hsat.1, hsat.2, hk⟩, hz, State.onFiring_mem .., State.onFiring_fronds .., ?_⟩
      have hcores : ((t.zeroAcc n a).onCore c fun x => { x with mmas := x.mmas.map fun y => if y == k then { y with clr := false } else y }).cores
          = t.cores.set c { t.cores[c] with mmas := t.cores[c].mmas.map fun y => if y == k then { y with clr := false } else y } := by
        rw [State.onCore_cores, State.zeroAcc, State.onFiring_cores]
      simp only [hcores, Fin.getElem_fin, Vector.getElem_set_self, List.map_map]
      refine List.map_congr_left fun y _ => ?_
      simp only [Function.comp]
      split_ifs <;> rfl
    · rw [if_neg hk]
      exact hstay

/-- A firing after a step: its accumulator, its flags, its token queue, and the accumulator zeroed by a CLR that acts then. -/
def Firing.mmaEnded (f : Firing) (a : Nat) (acc : BitVec 131072) (fl : Nat) (q : List Word) (z : Bool) : Firing :=
  if z then ({ f.mmaStepped a acc fl with q13 := q } : Firing).accZeroed a else { f.mmaStepped a acc fl with q13 := q }

section
variable (f : Firing) (a : Nat) (acc : BitVec 131072) (fl : Nat) (q : List Word) (z : Bool)

theorem Firing.mmaEnded_beside : (f.mmaEnded a acc fl q z).x = f.x ∧ (f.mmaEnded a acc fl q z).m = f.m ∧ (f.mmaEnded a acc fl q z).pc = f.pc ∧
    (f.mmaEnded a acc fl q z).q13 = q := by
  cases z <;> exact ⟨rfl, rfl, rfl, rfl⟩

theorem Firing.mmaEnded_accf (r : BitVec 2) : (f.mmaEnded a acc fl q z).accf[r.toNat] = if r.toNat = a then f.accf[r.toNat] ||| BitVec.ofNat 64 fl else f.accf[r.toNat] := by
  have h : (f.mmaEnded a acc fl q z).accf = f.accf.mapIdx fun i x => if i = a then x ||| BitVec.ofNat 64 fl else x := by cases z <;> rfl
  simp only [h, Vector.getElem_mapIdx]

theorem Firing.mmaEnded_ra_other {r : BitVec 2} (hr : r.toNat ≠ a) : (f.mmaEnded a acc fl q z).ra r = f.ra r := by
  unfold Firing.ra
  cases z with
  | false => exact (Vector.getElem_mapIdx ..).trans (if_neg hr)
  | true => exact (Vector.getElem_mapIdx ..).trans ((if_neg hr).trans ((Vector.getElem_mapIdx ..).trans (if_neg hr)))

theorem Firing.mmaEnded_ra_self {r : BitVec 2} (hr : r.toNat = a) : (f.mmaEnded a acc fl q false).ra r = acc :=
  (Vector.getElem_mapIdx ..).trans (if_pos hr)

end

/-- The machine after a step of the array's first MMA (R299 to R301). -/
def State.stepEnded (s : State) (c : Fin 2048) (j : MmaJob) (js : List MmaJob) (f : Firing) : State :=
  let t := s.onFiring j.adm fun g => g.mmaStepped (mmaAcc j.word) (s.mmaApply f j).1 (s.mmaApply f j).2
  if j.done + 1 < mmaSteps j.word then t.onCore c fun x => { x with mmas := { j with done := j.done + 1 } :: js }
  else
    let t := (t.onCore c fun x => { x with mmas := js }).unlock f.frond (.mma j.adm j.num)
    (if mmaTok j.word then t.onFiring j.adm fun f => { f with q13 := f.q13 ++ [j.token] } else t).nextClr c j.adm (mmaAcc j.word)

theorem State.arrayStep_eq (hj : s.cores[c].mmas = j :: js) (hf : s.firing? j.adm = some f) : s.arrayStep c = s.stepEnded c j js f := by
  unfold State.arrayStep
  rw [hj]
  dsimp only
  rw [hf]
  rfl

/-- The event of a step leaves the array's step, and asks for the next. -/
theorem exec_mmaStep_eq (hc : s.ev.a = c.val) : ∃ v : State, exec .mmaStep s = .next v ∧ v.fir = (s.arrayStep c).fir ∧ v.others = (s.arrayStep c).others ∧
    v.mem = (s.arrayStep c).mem ∧ v.fronds = (s.arrayStep c).fronds ∧ v.cores = (s.arrayStep c).cores := by
  have hlt : s.ev.a < 2048 := by rw [hc]; exact c.isLt
  obtain rfl : c = ⟨s.ev.a, hlt⟩ := Fin.ext hc.symm
  refine ⟨if (s.arrayStep ⟨s.ev.a, hlt⟩).cores[(⟨s.ev.a, hlt⟩ : Fin 2048)].mmas.isEmpty then s.arrayStep ⟨s.ev.a, hlt⟩
    else (s.arrayStep ⟨s.ev.a, hlt⟩).push .mmaStep s.ev.a 0 0 0, ?_, ?_⟩
  · rw [exec_mmaStep, execMmaStep, dif_pos hlt]
  · split <;> exact ⟨rfl, rfl, rfl, rfl, rfl⟩

/-- What a step leaves that is not the MMA's last. -/
theorem State.stepEnded_more (hf : s.firing? j.adm = some f) (h : j.done + 1 < mmaSteps j.word) :
    (s.stepEnded c j js f).firing? j.adm = some (f.mmaEnded (mmaAcc j.word) (s.mmaApply f j).1 (s.mmaApply f j).2 f.q13 false) ∧
      (s.stepEnded c j js f).mem = s.mem ∧ (s.stepEnded c j js f).fronds = s.fronds ∧
      (s.stepEnded c j js f).cores[c].mmas = { j with done := j.done + 1 } :: js := by
  unfold State.stepEnded
  dsimp only
  rw [if_pos h]
  refine ⟨State.firing?_onFiring hf (fun _ => rfl) fun _ => rfl, State.onFiring_mem .., State.onFiring_fronds .., ?_⟩
  simp

/-- What the last step of an MMA leaves. -/
theorem State.stepEnded_last (hf : s.firing? j.adm = some f) (h : ¬ j.done + 1 < mmaSteps j.word) :
    ∃ z : Bool, (z = true → ∃ k ∈ js, k.adm = j.adm ∧ mmaAcc k.word = mmaAcc j.word ∧ k.clr = true) ∧
      (s.stepEnded c j js f).firing? j.adm = some (f.mmaEnded (mmaAcc j.word) (s.mmaApply f j).1 (s.mmaApply f j).2
        (f.q13 ++ if mmaTok j.word then [j.token] else []) z) ∧
      (s.stepEnded c j js f).mem = s.mem ∧
      (s.stepEnded c j js f).fronds[f.frond].locks = s.fronds[f.frond].locks.filter (fun l => l.own != .mma j.adm j.num) ∧
      (s.stepEnded c j js f).cores[c].mmas.map (fun k => (k.adm, k.word, k.num)) = js.map (fun k => (k.adm, k.word, k.num)) := by
  unfold State.stepEnded
  dsimp only
  rw [if_neg h]
  have h1 := State.firing?_onFiring hf (k := fun g => g.mmaStepped (mmaAcc j.word) (s.mmaApply f j).1 (s.mmaApply f j).2) (fun _ => rfl) fun _ => rfl
  have hmem := s.onFiring_mem j.adm fun g => g.mmaStepped (mmaAcc j.word) (s.mmaApply f j).1 (s.mmaApply f j).2
  have hfronds := s.onFiring_fronds j.adm fun g => g.mmaStepped (mmaAcc j.word) (s.mmaApply f j).1 (s.mmaApply f j).2
  generalize (s.onFiring j.adm fun g => g.mmaStepped (mmaAcc j.word) (s.mmaApply f j).1 (s.mmaApply f j).2) = t at h1 hmem hfronds
  have h2 : ((t.onCore c fun x => { x with mmas := js }).unlock f.frond (.mma j.adm j.num)).firing? j.adm
      = some (f.mmaStepped (mmaAcc j.word) (s.mmaApply f j).1 (s.mmaApply f j).2) := h1
  have hlocks : ((t.onCore c fun x => { x with mmas := js }).unlock f.frond (.mma j.adm j.num)).fronds[f.frond].locks
      = s.fronds[f.frond].locks.filter (fun l => l.own != .mma j.adm j.num) := by
    rw [← hfronds]
    simp [State.unlock]
  have hmmas : ((t.onCore c fun x => { x with mmas := js }).unlock f.frond (.mma j.adm j.num)).cores[c].mmas = js := by
    simp [State.unlock]
  have hmem2 : ((t.onCore c fun x => { x with mmas := js }).unlock f.frond (.mma j.adm j.num)).mem = s.mem := hmem
  generalize (t.onCore c fun x => { x with mmas := js }).unlock f.frond (.mma j.adm j.num) = u at h2 hlocks hmmas hmem2
  have htok : ∃ w : State, (if mmaTok j.word then u.onFiring j.adm fun f => { f with q13 := f.q13 ++ [j.token] } else u) = w ∧
      w.firing? j.adm = some { f.mmaStepped (mmaAcc j.word) (s.mmaApply f j).1 (s.mmaApply f j).2 with
        q13 := f.q13 ++ if mmaTok j.word then [j.token] else [] } ∧ w.mem = u.mem ∧ w.fronds = u.fronds ∧ w.cores = u.cores := by
    by_cases ht : mmaTok j.word = true
    · rw [if_pos ht, if_pos ht]
      exact ⟨_, rfl, State.firing?_onFiring h2 (fun _ => rfl) fun _ => rfl, State.onFiring_mem .., State.onFiring_fronds .., State.onFiring_cores ..⟩
    · rw [if_neg ht, if_neg ht, List.append_nil]
      exact ⟨u, rfl, h2, rfl, rfl, rfl⟩
  obtain ⟨w, hw, hfir, hwm, hwf, hwc⟩ := htok
  obtain ⟨z, hz, hzf, hzm, hzfr, hzc⟩ := State.nextClr_cases w c j.adm (mmaAcc j.word) hfir
  rw [hw]
  have hwmmas : w.cores[c].mmas = js := by
    rw [hwc]
    exact hmmas
  rw [hwmmas] at hz hzc
  refine ⟨z, hz, hzf, hzm.trans (hwm.trans hmem2), ?_, hzc⟩
  rw [hzfr, hwf]
  exact hlocks

end

theorem State.firing?_congr {s t : State} (h1 : t.fir = s.fir) (h2 : t.others = s.others) (n : Nat) : t.firing? n = s.firing? n := by
  unfold State.firing?
  rw [h1, h2]

/-- O36's clause about a step. -/
theorem matrixStep (s : State) (c : Fin 2048) (j : MmaJob) (js : List MmaJob) (f : Firing) (hc : s.ev.a = c.val) (hj : s.cores[c].mmas = j :: js)
    (hf : s.firing? j.adm = some f) :
    let n : BitVec 2 := BitVec.ofNat 2 (mmaAcc j.word)
    let last := (j.word.extractLsb' 7 6).toNat ≤ j.done
    ∃ v g, exec .mmaStep s = .next v ∧ v.firing? j.adm = some g ∧ v.mem = s.mem ∧ g.x = f.x ∧ g.m = f.m ∧ g.pc = f.pc ∧
      (∀ x y r, x < 64 → y < 64 → finiteLine (s.lineA f j x) → finiteLine (s.lineB f j y) →
        stepElement (mmaPrefx j.pfx).isInt (elem (f.ra n) 32 (64 * x + y)) (exactDot (s.lineA f j x) (s.lineB f j y)) = some r →
        (¬last ∨ (∀ k ∈ js, k.adm = j.adm → mmaAcc k.word = n.toNat → k.clr = false)) →
        elem (g.ra n) 32 (64 * x + y) = r.1 % 2 ^ 32 ∧ ∀ b, r.2.testBit b = true → g.accf[n.toNat].getLsbD b = true) ∧
      (∀ r : BitVec 2, r ≠ n → g.ra r = f.ra r ∧ g.accf[r.toNat] = f.accf[r.toNat]) ∧
      (∀ b, f.accf[n.toNat].getLsbD b = true → g.accf[n.toNat].getLsbD b = true) ∧
      (¬last → v.cores[c].mmas = { j with done := j.done + 1 } :: js ∧ v.fronds = s.fronds ∧ g.q13 = f.q13) ∧
      (last → v.cores[c].mmas.map (fun k => (k.adm, k.word, k.num)) = js.map (fun k => (k.adm, k.word, k.num)) ∧
        v.fronds[f.frond].locks = s.fronds[f.frond].locks.filter (fun l => l.own != .mma j.adm j.num) ∧
        g.q13 = f.q13 ++ (if j.word.getLsbD 31 then
          [BitVec.ofNat 64 (((j.word.extractLsb' 7 6).toNat + 1) * 2 ^ 16 + n.toNat * 2 ^ 14 + j.num % 2 ^ 14)] else [])) := by
  intro n last
  have hn : n.toNat = mmaAcc j.word := Nat.mod_eq_of_lt (mmaAcc_lt _)
  obtain ⟨v, hx, hfir, hoth, hmem, hfronds, hcores⟩ := exec_mmaStep_eq hc
  rw [State.arrayStep_eq hj hf] at hfir hoth hmem hfronds hcores
  have hfiring := State.firing?_congr hfir hoth j.adm
  have hlast : last ↔ ¬ j.done + 1 < mmaSteps j.word := by
    rw [mmaSteps, Nat.add_lt_add_iff_right, not_lt]
  have helem : ∀ (q : List Word) (x y : Nat) (r : Nat × Nat), x < 64 → y < 64 → finiteLine (s.lineA f j x) → finiteLine (s.lineB f j y) →
      stepElement (mmaPrefx j.pfx).isInt (elem (f.ra n) 32 (64 * x + y)) (exactDot (s.lineA f j x) (s.lineB f j y)) = some r →
      elem ((f.mmaEnded (mmaAcc j.word) (s.mmaApply f j).1 (s.mmaApply f j).2 q false).ra n) 32 (64 * x + y) = r.1 % 2 ^ 32 := by
    intro q x y r hx hy ha hb h
    rw [Firing.mmaEnded_ra_self f _ _ _ q hn]
    exact (State.mmaApply_element hx hy ha hb h).1
  have hflag : ∀ (q : List Word) (z : Bool) (x y : Nat) (r : Nat × Nat), x < 64 → y < 64 → finiteLine (s.lineA f j x) → finiteLine (s.lineB f j y) →
      stepElement (mmaPrefx j.pfx).isInt (elem (f.ra n) 32 (64 * x + y)) (exactDot (s.lineA f j x) (s.lineB f j y)) = some r →
      ∀ b, r.2.testBit b = true → (f.mmaEnded (mmaAcc j.word) (s.mmaApply f j).1 (s.mmaApply f j).2 q z).accf[n.toNat].getLsbD b = true := by
    intro q z x y r hx hy ha hb h b hbit
    rw [Firing.mmaEnded_accf, if_pos hn, BitVec.getLsbD_or, (State.mmaApply_element hx hy ha hb h).2 b hbit, Bool.or_true]
  have hother : ∀ (q : List Word) (z : Bool) (r : BitVec 2), r ≠ n →
      (f.mmaEnded (mmaAcc j.word) (s.mmaApply f j).1 (s.mmaApply f j).2 q z).ra r = f.ra r ∧
        (f.mmaEnded (mmaAcc j.word) (s.mmaApply f j).1 (s.mmaApply f j).2 q z).accf[r.toNat] = f.accf[r.toNat] := by
    intro q z r hr
    have hne : r.toNat ≠ mmaAcc j.word := fun e => hr (BitVec.eq_of_toNat_eq (e.trans hn.symm))
    exact ⟨Firing.mmaEnded_ra_other f _ _ _ q z hne, (Firing.mmaEnded_accf f _ _ _ q z r).trans (if_neg hne)⟩
  have hkeep : ∀ (q : List Word) (z : Bool) (b : Nat), f.accf[n.toNat].getLsbD b = true →
      (f.mmaEnded (mmaAcc j.word) (s.mmaApply f j).1 (s.mmaApply f j).2 q z).accf[n.toNat].getLsbD b = true := by
    intro q z b hb
    rw [Firing.mmaEnded_accf, if_pos hn, BitVec.getLsbD_or, hb, Bool.true_or]
  by_cases hl : j.done + 1 < mmaSteps j.word
  · obtain ⟨h1, h2, h3, h4⟩ := State.stepEnded_more (c := c) (js := js) hf hl
    have hnl : ¬ last := fun h => hlast.mp h hl
    obtain ⟨hgx, hgm, hgpc, hgq⟩ := f.mmaEnded_beside (mmaAcc j.word) (s.mmaApply f j).1 (s.mmaApply f j).2 f.q13 false
    refine ⟨v, _, hx, hfiring.trans h1, hmem.trans h2, hgx, hgm, hgpc, fun x y r hx hy ha hb h _ => ⟨helem _ x y r hx hy ha hb h, hflag _ _ x y r hx hy ha hb h⟩,
      hother _ _, hkeep _ _, fun _ => ⟨?_, hfronds.trans h3, hgq⟩, fun h => absurd h hnl⟩
    rw [hcores]
    exact h4
  · obtain ⟨z, hz, h1, h2, h3, h4⟩ := State.stepEnded_last (c := c) (js := js) hf hl
    have hlt : last := hlast.mpr hl
    obtain ⟨hgx, hgm, hgpc, hgq⟩ := f.mmaEnded_beside (mmaAcc j.word) (s.mmaApply f j).1 (s.mmaApply f j).2 (f.q13 ++ if mmaTok j.word then [j.token] else []) z
    refine ⟨v, _, hx, hfiring.trans h1, hmem.trans h2, hgx, hgm, hgpc, fun x y r hx hy ha hb h hclr => ⟨?_, hflag _ _ x y r hx hy ha hb h⟩,
      hother _ _, hkeep _ _, fun h => absurd hlt h, fun _ => ⟨?_, ?_, ?_⟩⟩
    · cases z with
      | false => exact helem _ x y r hx hy ha hb h
      | true =>
        obtain ⟨k, hk, hadm, hacc, hc⟩ := hz rfl
        rcases hclr with hclr | hclr
        · exact absurd hlt hclr
        · rw [hclr k hk hadm (hacc.trans hn.symm)] at hc
          cases hc
    · rw [hcores]
      exact h4
    · rw [hfronds]
      exact h3
    · rw [hgq, hn]
      rfl

theorem Firing.advance_topx (f : Firing) : f.advance.topx = f.topx := by
  have hset : ∀ (w : Word) (hi lo v : Nat), hi < 64 → 1 < lo → bit (setBits w hi lo v) 1 = bit w 1 := fun w hi lo v hh hl => by
    rw [bit, setBits_getLsbD hh, if_neg (by omega), bit]
  unfold Firing.topx Firing.advance Firing.clrRep Firing.repact Firing.repi Firing.repj
  dsimp only
  split_ifs
  all_goals simp only [hset, show (22 : Nat) < 64 from by decide, show (18 : Nat) < 64 from by decide, show (23 : Nat) < 64 from by decide,
    show (1 : Nat) < 19 from by decide, show (1 : Nat) < 13 from by decide]

theorem Firing.clrPfx_topx (f : Firing) : f.clrPfx.topx = f.topx := bit_setBit_zero (by decide) _ _

/-- What an accepted MMA leaves, its CLR among it (R297, R298, R305). -/
theorem mmaIn_leaves (s : State) (a : BitVec 2) (c busy : Bool) (job : MmaJob) (locks : List Lock) :
    let v := (s.mmaIn (s.fir.clearedAcc a (c && !(c && busy))) job locks s.cores[s.fir.core].mmas.isEmpty).upd Firing.advance
    v.mem = s.mem ∧ v.cores[s.fir.core].mmas = s.cores[s.fir.core].mmas ++ [job] ∧ v.fr.locks = s.fr.locks ++ locks ∧ v.fir.fpend = false ∧
      v.fir.mmas = s.fir.mmas + 1 ∧ v.fir.pc = s.fir.advance.pc ∧ v.fir.x = s.fir.x ∧ v.fir.m = s.fir.m ∧ v.fir.fflags = s.fir.fflags ∧
      v.fir.accf = s.fir.accf ∧ v.fir.topx = s.fir.topx ∧ (∀ r, v.fir.ra r = if r = a ∧ c = true ∧ busy = false then 0 else s.fir.ra r) ∧
      (s.cores[s.fir.core].mmas = [] → v.agenda = s.agenda ++ [{ op := .mmaStep, a := s.fir.core.val, b := 0, c := 0, v := 0, l := [] }]) ∧
      (s.cores[s.fir.core].mmas ≠ [] → v.agenda = s.agenda) := by
  generalize hacc : s.fir.clearedAcc a (c && !(c && busy)) = acc
  generalize hfirst : s.cores[s.fir.core].mmas.isEmpty = first
  have hends := s.mmaIn_ends acc job locks first
  have hmem := s.mmaIn_mem acc job locks first
  have hmmas := s.mmaIn_mmas acc job locks first
  have hlocks := s.mmaIn_locks acc job locks first
  have hagenda := s.mmaIn_agenda acc job locks first
  have hfrond : (s.mmaIn acc job locks first).fir.frond = s.fir.frond := by rw [State.mmaIn_fir]; rfl
  generalize s.mmaIn acc job locks first = t at hends hmem hmmas hlocks hagenda hfrond
  have hv : (t.upd Firing.advance).fir = { ({ s.fir with acc := acc } : Firing).advance.clrPfx with mmas := s.fir.mmas + 1 } := hends
  dsimp only
  refine ⟨hmem, hmmas, ?_, ?_, ?_, ?_, ?_, ?_, ?_, ?_, ?_, fun r => ?_, fun h0 => ?_, fun h0 => ?_⟩
  · rw [State.fr_advance, State.fr]
    simp only [hfrond]
    exact hlocks
  · rw [hv]
    exact Firing.fpend_clrPfx _
  · rw [hv]
  · rw [hv]
    exact Firing.advance_pc_congr rfl rfl rfl rfl
  · rw [hv]
    exact Firing.advance_x _
  · rw [hv]
    exact Firing.advance_m _
  · rw [hv]
    exact Firing.advance_fflags _
  · rw [hv]
    exact Firing.advance_accf _
  · rw [hv]
    exact (Firing.clrPfx_topx _).trans (Firing.advance_topx _)
  · rw [hv]
    refine (Firing.ra_congr (Firing.advance_acc _) r).trans ?_
    have hget : ({ s.fir with acc := acc } : Firing).ra r = _ := hacc ▸ s.fir.clearedAcc_get a r (c && !(c && busy))
    refine hget.trans ?_
    cases c <;> cases busy <;> simp
  · rw [State.upd_agenda, hagenda, ← hfirst, h0]
    rfl
  · rw [State.upd_agenda, hagenda, if_neg]
    rw [← hfirst, List.isEmpty_iff]
    exact h0

theorem exec_mma_ill {s : State} {t c : Bool} {a : BitVec 2} {sa : Bool} {ra : BitVec 5} {sb : Bool} {rb : BitVec 5} {k : BitVec 6}
    (hi : s.IssuesEither (.mma t c a sa ra sb rb k)) (hok : (mmaPrefx s.mmaPfx).mmaOk = false) :
    exec (.mma t c a sa ra sb rb k) s = .next (s.trapHere { c := .ill, sub := 0, val := BitVec.setWidth 64 (encode (.mma t c a sa ra sb rb k)) }) := by
  have hact : s.fir.active = true := by rcases hi with h | h <;> exact h.1
  have hill : (!(mmaPrefx s.mmaPfx).mmaOk) = true := by rw [hok]; rfl
  rw [exec_mma, execMma]
  exact issue_ill hact (by
    rw [Bool.or_eq_true]
    exact .inr hill)

/-- Settles O36: an MMA is taken when it passes its checks, and each step of it is an exact sum for every element. -/
theorem matrixArray : Obligations.MatrixArray := by
  unfold Obligations.MatrixArray
  refine ⟨fun s t c a sa ra sb rb k => ?_, fun s c j js f hc hj hf => matrixStep s c j js f hc hj hf⟩
  intro i pfx p pair xs oa ob core locks hi
  refine ⟨fun hok => exec_mma_ill hi hok, fun hok ha1 hb1 hfa hfb hroom hlast htok he hfree hz => ?_⟩
  have hx := exec_mma_accepted hi rfl hok rfl rfl rfl rfl ha1 hb1 hfa hfb hroom hlast htok he hfree hz
  exact ⟨_, hx, mmaIn_leaves s a c (s.accBusy a) _ _⟩

end Sys2Proof.Machine
end

section
/-! SUPPORT. A team's record changed in place. -/

namespace Sys2Proof.Machine

theorem find?_map_id {l : List Team} {p : Team → Bool} {t : Team} {g : Team → Team} (hp : ∀ x, p (g x) = p x) (h : l.find? p = some t)
    (hn : (l.map Team.id).Nodup) : (l.map fun x => if x.id == t.id then g x else x).find? p = some (g t) := by
  induction l with
  | nil => cases h
  | cons x l ih =>
    rw [List.map_cons, List.nodup_cons] at hn
    obtain ⟨hx, hn⟩ := hn
    rw [List.map_cons]
    by_cases hpx : p x = true
    · rw [List.find?_cons_of_pos hpx] at h
      cases h
      rw [if_pos (beq_self_eq_true _), List.find?_cons_of_pos ((hp _).trans hpx)]
    · rw [List.find?_cons_of_neg hpx] at h
      have hne : (x.id == t.id) = false :=
        beq_eq_false_iff_ne.mpr fun e => hx (e ▸ List.mem_map_of_mem (List.mem_of_find?_eq_some h))
      rw [hne]
      exact (List.find?_cons_of_neg hpx).trans (ih h hn)

section
variable {s : State} {f : Firing} {t : Team}

theorem State.onTeam_team? {g : Team → Team} (hg : ∀ x, (g x).tid = x.tid ∧ (g x).part = x.part) (h : s.team? f = some t)
    (hn : (s.teams.map Team.id).Nodup) : (s.onTeam t.id g).team? f = some (g t) :=
  find?_map_id (fun x => by simp only [hg x]) h hn

theorem State.onTeam_ids {g : Team → Team} (hg : ∀ x, (g x).id = x.id) (n : Nat) : (s.onTeam n g).teams.map Team.id = s.teams.map Team.id := by
  rw [State.onTeam, List.map_map]
  refine List.map_congr_left fun x _ => ?_
  simp only [Function.comp]
  split
  · exact hg x
  · rfl

theorem State.team?_congr {u : State} {f g : Firing} (h : u.teams = s.teams) (ht : g.tid = f.tid) (hp : g.part = f.part) :
    u.team? g = s.team? f := by
  simp only [State.team?, h, ht, hp]

/-- A boundary of group 0 that all have reached, completed in the team's record. -/
theorem State.settle0_team (h : s.team? f = some t) (hn : (s.teams.map Team.id).Nodup) :
    (s.settle0 f).team? f = some { t with phase0 := (s.group0 t).settle.phase, arrived0 := (s.group0 t).settle.arrived } := by
  rw [State.settle0, h]
  exact State.onTeam_team? (fun _ => ⟨rfl, rfl⟩) h hn

theorem State.settle0_teamless (s : State) (f : Firing) : s.settle0 f = { s with teams := (s.settle0 f).teams } := by
  unfold State.settle0
  split <;> rfl

end

end Sys2Proof.Machine
end

section
/-! PROOF. RETIRE (R75, R84, R111, R191). -/

namespace Sys2Proof.Machine

section
variable {s : State} {t : Team}

/-- The waits of a running firing that stands at no semaphore, withdrawn: nothing of any other firing changes. -/
theorem State.withdraw_alone (hl : s.fir.live = true) (hq : ∀ w ∈ s.fr.hsq, w.adm ≠ s.fir.adm) :
    ∃ fs rt ag, s.withdraw s.fir.adm = { s with fir := s.fir.calm, fronds := fs, retry := rt, agenda := ag } ∧
      fs[s.fir.frond].sorus = s.fr.sorus := by
  have hany : (s.fronds[s.fir.frond].hsq.any fun w => w.adm == s.fir.adm) = false := by
    rw [List.any_eq_false]
    exact fun w hw => by simpa using hq w hw
  rw [State.withdraw_of_firing (State.firing?_own_live hl), hany, if_neg Bool.false_ne_true, State.unwaited,
    State.onFiring_own_live (by exact hl) (by rfl)]
  refine ⟨_, _, _, rfl, ?_⟩
  simp [State.onFrond, State.unlock, Frond.without, State.fr]

/-- The end of a running firing in no group, with no pair queue and no place at a semaphore. -/
theorem State.endFiring_alone (hl : s.fir.live = true) (hq : ∀ w ∈ s.fr.hsq, w.adm ≠ s.fir.adm) (hg : s.fir.groups = [])
    (hp : s.fir.pairset = none) : ∃ w : State, s.endFiring s.fir = (w.idleCore s.fir.core).settle0 s.fir ∧
      w.fir = { s.fir.calm with live := false } ∧ w = { s with fir := w.fir, fronds := w.fronds, retry := w.retry, agenda := w.agenda } ∧
      w.fr.sorus = s.fr.sorus.release s.fir.adm := by
  obtain ⟨fs, rt, ag, hw, hs⟩ := State.withdraw_alone hl hq
  have hfree : ∀ x : State, x.freePair s.fir = x := fun x => by rw [State.freePair, hp]
  have hend : s.endFiring s.fir = (((s.dropClaims s.fir).removeFiring s.fir.adm).idleCore s.fir.core).settle0 s.fir := by
    unfold State.endFiring
    rw [hg]
    dsimp only [List.foldl_nil]
    rw [hfree]
  have hdrop : s.dropClaims s.fir = (s.withdraw s.fir.adm).onFrond s.fir.frond fun x => { x with sorus := x.sorus.release s.fir.adm } := rfl
  rw [hend, hdrop, hw]
  have hrem : ∀ x : State, x.fir = s.fir.calm → x.removeFiring s.fir.adm = { x with fir := { s.fir.calm with live := false } } := by
    intro x hx
    have hc : (x.fir.live && x.fir.adm == s.fir.adm) = true := by rw [hx]; simp [Firing.calm, hl]
    rw [State.removeFiring, if_pos hc, hx]
  rw [hrem _ rfl]
  refine ⟨_, rfl, rfl, rfl, ?_⟩
  simpa [State.fr, State.onFrond, Firing.calm, Firing.frond] using congrArg (Sorus.release · s.fir.adm) hs

end

section
variable {s : State} {t : Team}

theorem State.retiredOf_plain {f : Firing} (h : s.team? f = some t) (hf : t.flag 30 = false) : s.retiredOf f = s.onTeam t.id fun t =>
    { t with
      retired := t.retired + 1, owed := if (s.unacked.any fun u => u.adm == f.adm) then f.adm :: t.owed else t.owed
      uncommitted := if t.flag 30 then insertNat t.uncommitted (bits f.fid 31 0) else [] } := by
  rw [State.retiredOf, h]
  dsimp only
  rw [if_neg (by simp [hf])]

theorem State.idleCore_cores (s : State) (c : Fin 2048) : s.idleCore c = { s with cores := (s.idleCore c).cores } := by
  unfold State.idleCore
  split <;> rfl

theorem State.idleCore_empty {c : Fin 2048} (h : ∀ f ∈ s.firings, f.core ≠ c) : (s.idleCore c).cores[c].dqbase = 0 := by
  rw [State.idleCore, if_neg (by simpa using h)]
  simp [State.onCore]

/-- Group 0 of a team when its boundary may complete, by what has arrived and how many members it has. -/
theorem GroupRec.settle_pair (p a m : Nat) : (({ phase := p, arrived := a, members := m } : GroupRec).settle.phase,
    ({ phase := p, arrived := a, members := m } : GroupRec).settle.arrived) = if a = m ∧ m ≠ 0 then ((p + 1) % 16, 0) else (p, a) := by
  by_cases h : a = m ∧ m ≠ 0
  · rw [if_pos h, GroupRec.settle, if_pos (by simp [h.1, h.2])]
  · rw [if_neg h, GroupRec.settle, if_neg (by simpa using h)]

/-- The other members of the acting firing's team that are resident. -/
theorem State.liveOf_own (hl : s.fir.live = true) (ht : s.team? s.fir = some t) :
    (s.liveOf t).length = (s.others.filter fun f => f.tid == t.tid && f.part == t.part).length + 1 := by
  have hp : (t.tid == s.fir.tid && t.part == s.fir.part) = true := List.find?_some (p := fun t : Team => t.tid == s.fir.tid && t.part == s.fir.part) ht
  have hp' : (s.fir.tid == t.tid && s.fir.part == t.part) = true := by
    rw [Bool.and_eq_true, beq_iff_eq, beq_iff_eq] at hp ⊢
    exact ⟨hp.1.symm, hp.2.symm⟩
  rw [State.liveOf, State.firings, hl, if_pos rfl, List.singleton_append, List.filter_cons_of_pos (p := fun f : Firing => f.tid == t.tid && f.part == t.part) hp', List.length_cons]

theorem retireClause (hi : s.Issues .retire) (hgs : s.fir.gsize = 0) (he : s.engineBusy s.fir = false) (hq : s.quietFrond)
    (hg : s.fir.groups = []) (hp : s.fir.pairset = none) (hs : ∀ w ∈ s.fr.hsq, w.adm ≠ s.fir.adm) (ht : s.team? s.fir = some t)
    (hf : t.flag 30 = false) (hn : (s.teams.map Team.id).Nodup) :
    let m := (s.liveOf t).length - 1 + t.saved
    ∃ v, exec .retire s = .next v ∧ v.fir.live = false ∧ v.mem = (s.publish s.fir.frond .fr).mem ∧ v.others = s.others ∧
      (s.fr.sorus.holder = some s.fir.adm → v.fr.sorus.holder = none) ∧
      ((∀ f ∈ s.others, f.core ≠ s.fir.core) → v.cores[s.fir.core].dqbase = 0) ∧
      (∃ u, v.team? s.fir = some u ∧ u.retired = t.retired + 1 ∧
        (u.phase0, u.arrived0) = if t.arrived0 = m ∧ m ≠ 0 then ((t.phase0 + 1) % 16, 0) else (t.phase0, t.arrived0)) := by
  intro m
  obtain ⟨hpost, hd, ho⟩ := hq
  have hl : s.fir.live = true := (Bool.and_eq_true_iff.mp hi.1).1
  have hfir := State.publish_fir_up hd ho s.fir.frond .fr
  have hfrond := State.publish_frond_up hd ho s.fir.frond .fr
  have hup := State.publish_up hd ho s.fir.frond .fr
  have hx : exec .retire s = .next (((s.publish s.fir.frond .fr).retiredOf s.fir).endFiring s.fir) := by
    rw [exec_retire, execRetire, issue_issues hi (by rw [inGang, hgs]; rfl) rfl, he, if_neg Bool.false_ne_true, State.release_frond hpost,
      ok_bind, hfir]
    rfl
  generalize s.publish s.fir.frond .fr = p at hfir hfrond hup hx ⊢
  have hfr : p.fr.hsq = s.fr.hsq ∧ p.fr.sorus = s.fr.sorus := by
    simp only [State.fr, hfir, hfrond, and_self]
  have hteam : p.team? s.fir = some t := by rw [← ht]; exact State.team?_congr (by rw [hup]) rfl rfl
  have hids : (p.teams.map Team.id).Nodup := by rw [hup]; exact hn
  rw [State.retiredOf_plain hteam hf] at hx
  generalize hgdef : (fun t : Team => { t with
      retired := t.retired + 1, owed := if (p.unacked.any fun u => u.adm == s.fir.adm) then s.fir.adm :: t.owed else t.owed
      uncommitted := if t.flag 30 then insertNat t.uncommitted (bits s.fir.fid 31 0) else [] }) = g at hx
  have hgk : ∀ x, (g x).tid = x.tid ∧ (g x).part = x.part := fun x => by rw [← hgdef]; exact ⟨rfl, rfl⟩
  have hgi : ∀ x, (g x).id = x.id := fun x => by rw [← hgdef]
  have hg0 : (g t).phase0 = t.phase0 ∧ (g t).arrived0 = t.arrived0 ∧ (g t).saved = t.saved ∧ (g t).retired = t.retired + 1 := by
    rw [← hgdef]; exact ⟨rfl, rfl, rfl, rfl⟩
  have hrteam := State.onTeam_team? hgk hteam hids
  have hrids : ((p.onTeam t.id g).teams.map Team.id).Nodup := by rw [State.onTeam_ids hgi]; exact hids
  obtain ⟨w, hend, hwf, hw, hws⟩ := State.endFiring_alone (s := p.onTeam t.id g) (by exact (congrArg Firing.live hfir).trans hl)
    (by
      intro w hw
      have hw' : w ∈ p.fr.hsq := hw
      rw [hfr.1] at hw'
      exact (congrArg Firing.adm hfir) ▸ hs w hw')
    ((congrArg Firing.groups hfir).trans hg) ((congrArg Firing.pairset hfir).trans hp)
  have hrf : (p.onTeam t.id g).fir = s.fir := hfir
  rw [hrf] at hend hwf hws
  rw [hend] at hx
  have hwo : w.others = s.others := by rw [hw]; show p.others = _; rw [hup]
  have hwm : w.mem = p.mem := by rw [hw]; rfl
  have hwt : w.teams = (p.onTeam t.id g).teams := by rw [hw]
  have hlive : w.fir.live = false := by rw [hwf]
  have hidle := w.idleCore_cores s.fir.core
  have hdq : (∀ f ∈ s.others, f.core ≠ s.fir.core) → (w.idleCore s.fir.core).cores[s.fir.core].dqbase = 0 := by
    intro hc
    refine State.idleCore_empty fun f hf => hc f ?_
    rw [State.firings, hlive] at hf
    exact hwo ▸ hf
  generalize w.idleCore s.fir.core = y at hidle hdq hx
  have hyteam : y.team? s.fir = some (g t) := by rw [← hrteam]; exact State.team?_congr (by rw [hidle]; exact hwt) rfl rfl
  have hyids : (y.teams.map Team.id).Nodup := by rw [hidle]; exact hwt ▸ hrids
  have hset := State.settle0_team hyteam hyids
  have hless := y.settle0_teamless s.fir
  generalize y.settle0 s.fir = v at hset hless hx
  have hvf : v.fir = { s.fir.calm with live := false } := by rw [hless, hidle]; exact hwf
  refine ⟨v, hx, by rw [hvf], by rw [hless, hidle]; exact hwm, by rw [hless, hidle]; exact hwo, fun hh => ?_, fun hc => ?_, _, hset, hg0.2.2.2, ?_⟩
  · have hvs : v.fr.sorus = w.fr.sorus := by rw [hless, hidle]; rfl
    have hrs : (p.onTeam t.id g).fr.sorus.holder = some s.fir.adm := (congrArg Sorus.holder hfr.2).trans hh
    rw [hvs, hws, Sorus.release, if_pos hrs]
  · rw [hless]; exact hdq hc
  · have hyl : (y.liveOf (g t)).length = (s.others.filter fun f => f.tid == t.tid && f.part == t.part).length := by
      have hyf : y.firings = s.others := by
        rw [State.firings, show y.fir.live = false by rw [hidle]; exact hlive, show y.others = s.others by rw [hidle]; exact hwo]
        rfl
      rw [State.liveOf, hyf, (hgk t).1, (hgk t).2]
    have hm : (y.group0 (g t)).settle = ({ phase := t.phase0, arrived := t.arrived0, members := m } : GroupRec).settle := by
      rw [State.group0, hyl, hg0.1, hg0.2.1, hg0.2.2.1, show m = (s.liveOf t).length - 1 + t.saved from rfl, State.liveOf_own hl ht,
        Nat.add_sub_cancel]
    rw [hm]
    exact GroupRec.settle_pair t.phase0 t.arrived0 m

end

end Sys2Proof.Machine
end

section
/-! SUPPORT. A translation does not look at the order of home writes. -/

namespace Sys2Proof.Machine

section
variable {s t : State} {p : Fin 16} {d : Fin 4} {va : Nat} {wr : Bool}

theorem State.translate_late {f : Leaf} (h : s.translate p d va wr = some (t, f)) (l : List Late) :
    ∃ l', { s with late := l }.translate p d va wr = some ({ t with late := l' }, f) := by
  have henter : ∀ x : Leaf, some (State.translate.enter p d wr s x) = some (t, f) →
      ∃ l', some (State.translate.enter p d wr { s with late := l } x) = some ({ t with late := l' }, f) := by
    intro x hx
    cases hx
    exact ⟨_, rfl⟩
  unfold State.translate at h ⊢
  dsimp only at h ⊢
  generalize s.dies[d].tlb.find? _ = hit at h ⊢
  generalize walkFrom s.mem va 4 _ = walk at h ⊢
  cases hit with
  | none =>
    cases walk with
    | none => cases h
    | some x => exact henter x h
  | some e =>
    dsimp only at h ⊢
    by_cases hc : (!wr || bit e.pte 6) = true
    · rw [if_pos hc] at h ⊢
      cases h
      exact ⟨l, rfl⟩
    · rw [if_neg hc] at h ⊢
      cases walk with
      | none => cases h
      | some x => exact henter x h

theorem State.unitPlace_late {shm : Bool} {n k : Nat} (h : s.unitPlace p d shm va n wr = some (t, k)) (l : List Late) :
    ∃ l', { s with late := l }.unitPlace p d shm va n wr = some ({ t with late := l' }, k) := by
  unfold State.unitPlace at h ⊢
  by_cases h1 : 2 ^ 57 ≤ va
  · rw [if_pos h1] at h; cases h
  · rw [if_neg h1] at h ⊢
    by_cases h2 : va / 2 ^ 48 = 0x1FF
    · rw [if_pos h2] at h ⊢
      by_cases h3 : (shm && va / 2 ^ 29 == 0x1FF2 * 2 ^ 15 && s.shmOk p (va % 2 ^ 29) n) = true
      · rw [if_pos h3] at h
        cases h
        exact ⟨l, if_pos h3⟩
      · rw [if_neg h3] at h; cases h
    · rw [if_neg h2] at h ⊢
      cases ht : s.translate p d va wr with
      | none => rw [ht] at h; cases h
      | some x =>
        obtain ⟨u, f⟩ := x
        obtain ⟨l', hl⟩ := State.translate_late ht l
        rw [ht] at h
        rw [hl]
        dsimp only at h ⊢
        by_cases h4 : (bits f.pte 63 56 != bits s.parts[p].pcfg 39 32 || (if wr then !bit f.pte 2 else !bit f.pte 1)) = true
        · rw [if_pos h4] at h; cases h
        · rw [if_neg h4] at h ⊢
          have hp : { u with late := l' }.leafPlace p f va = u.leafPlace p f va := rfl
          rw [hp]
          generalize u.leafPlace p f va = q at h
          cases q with
          | error e => cases h
          | ok q => cases q <;> cases h <;> exact ⟨l', rfl⟩

end

theorem cxlPort_lt (k : Nat) : cxlPort k < 2 := Nat.mod_lt _ (by decide)

/-- With no CXL device lost no home is lost. -/
theorem State.cxlLost_none {s : State} (hd : s.dev.cxlDown = []) (ho : s.dev.cxlOn = 3) (k : Nat) : s.cxlLost k = false := by
  have hb : (3 : BitVec 2).getLsbD (cxlPort k) = true := by
    have := cxlPort_lt k
    interval_cases cxlPort k <;> rfl
  rw [State.cxlLost, hd, ho, hb]
  simp

end Sys2Proof.Machine
end


section
/-! PROOF. LAUNCH (R112). -/

namespace Sys2Proof.Machine

section
variable {s r : State} {d a b : BitVec 6} {pls : List Place} {q : Fin 32}

/-- LAUNCH with its record read: into the next slot of the queue, or nowhere when the ring is full. -/
def launchFrom (s s3 : State) (d : BitVec 6) (q : Fin 32) (recd : List Word) : Except Stop Done :=
  let x := s3.part.lq[q]
  let tail := bits x.lqtail 31 0
  if (tail + 2 ^ 32 - bits x.lqhead 31 0) % 2 ^ 32 = 2 ^ x.log2n then .ok (.done (s3.wx d (BitVec.allOnes 64)))
  else
    let s4 := match s3.unitPlace s.fir.part s.fir.die false (x.lqbase.toNat + tail % 2 ^ x.log2n * 128) 128 true with
      | some (t, key) => t.homeStore s.fir.part key 128 (writeDwords t.mem key recd)
      | none => s3
    let s5 := s4.onQueue s.fir.part q fun y => { y with lqtail := BitVec.ofNat 64 ((tail + 1) % 2 ^ 32) }
    .ok (.done ((s5.pokeQueue s.fir.part q).wx d (BitVec.ofNat 64 tail)))

/-- LAUNCH after its release, on a record address and a queue that keep R112. -/
def launchBody (s s1 : State) (d : BitVec 6) (addr : Word) (q : Fin 32) : Except Stop Done := do
  let x ← standing s1 (s1.placesFrom .load addr.toNat 16)
  let y ← standing s1 (x.1.readWords x.2 fun i => addr + BitVec.ofNat 64 (8 * i))
  launchFrom s y.1 d q y.2

theorem exec_launch_issues (hi : s.Issues (.launch d a b)) (hg : s.fir.gsize = 0) (hq : s.quietOrder) (ha : (s.rx a).toNat % 128 = 0)
    (hl : (s.rx a).toNat < 2 ^ 57) (hb : (s.rx b).toNat = q.val) (he : bit (s.part.lq[q]).lqcfg 18 = true) (hn : (s.part.lq[q]).log2n ≠ 0) :
    exec (.launch d a b) s = finish s (launchBody s (s.publish s.fir.frond (s.launchAt (s.rx a))) d (s.rx a) q) := by
  have hc : (bits (s.rx a) 6 0 == 0 && bits (s.rx a) 63 57 == 0) = true := by
    have h1 : bits (s.rx a) 6 0 = 0 := by rw [bits, Nat.pow_zero, Nat.div_one]; exact ha
    have h2 : bits (s.rx a) 63 57 = 0 := by rw [bits, Nat.div_eq_of_lt hl, Nat.zero_mod]
    rw [h1, h2]
    rfl
  have hqn : ∀ h, (⟨(s.rx b).toNat, h⟩ : Fin 32) = q := fun _ => Fin.ext hb
  rw [exec_launch, execLaunch, issue_issues hi (by rw [inGang, hg]; rfl) rfl]
  dsimp only
  rw [hc, check_true rfl, ok_bind, dif_neg (by have := q.isLt; omega)]
  simp only [hqn]
  rw [he, show ((s.part.lq[q]).log2n != 0) = true from bne_iff_ne.mpr hn, Bool.and_self, check_true rfl, ok_bind, State.release_of_quiet hq, ok_bind]
  rfl

theorem standing_ok {α : Type} (u : State) (x : α) : standing u (.ok x) = .ok x := rfl

theorem launchBody_trap {s1 : State} {addr : Word} {tr : Trap} (h : s1.placesFrom .load addr.toNat 16 = .error (.trap tr)) :
    finish s (launchBody s s1 d addr q) = .next (s1.trapHere tr) := by
  rw [launchBody, h]
  rfl

/-- LAUNCH once its record has been read. -/
theorem launchBody_read {s1 : State} {addr : Word} (h : s1.placesFrom .load addr.toNat 16 = .ok (r, pls))
    (hn : ∀ p ∈ pls, r.near false 8 p = true) (hd : r.fir.data = []) : ∃ l, launchBody s s1 d addr q =
      launchFrom s { r.useEach pls with late := l } d q (pls.map fun p => BitVec.ofNat 64 (r.readAt p 8)) := by
  obtain ⟨l, hl⟩ := State.readParts_used hn fun i => addr + BitVec.ofNat 64 (8 * i)
  have hsame : (r.upd fun f => { f with data := [] }) = r := by
    cases r with | mk fir => cases fir; cases hd; rfl
  rw [hsame] at hl
  refine ⟨l, ?_⟩
  rw [launchBody, h, standing_ok, ok_bind, State.readWords, hl, standing_ok, ok_bind]

/-- The slot of a launch queue that a record has been put into, and what is left to do. -/
theorem State.launched_facts {t : State} {key tail : Nat} {recd : List Word} {d : BitVec 6} {p : Fin 16} (hl : t.cxlLost key = false)
    (hp : t.fir.part = p) :
    let v := ((((t.homeStore p key 128 (writeDwords t.mem key recd)).onQueue p q
      fun y => { y with lqtail := BitVec.ofNat 64 ((tail + 1) % 2 ^ 32) }).pokeQueue p q).wx d (BitVec.ofNat 64 tail)).upd Firing.advance
    v.mem = writeDwords t.mem key recd ∧ v.fronds = t.fronds ∧ v.fir = (t.fir.wx d (BitVec.ofNat 64 tail)).advance ∧
      v.part.lq[q] = { t.parts[p].lq[q] with lqtail := BitVec.ofNat 64 ((tail + 1) % 2 ^ 32) } ∧
      (∀ y, y ≠ q → v.part.lq[y] = t.parts[p].lq[y]) ∧
      (v.agenda.getLast?.map fun e => (e.op, e.a, e.b)) = some (.launchRecordRead, p.val, q.val) := by
  intro v
  have hst : t.homeStore p key 128 (writeDwords t.mem key recd) = t.homeDone (keysFrom key 128) (writeDwords t.mem key recd) := by
    rw [State.homeStore, hl, if_neg Bool.false_ne_true]
  have hparts : v.parts = t.parts.set p { t.parts[p] with
      lq := t.parts[p].lq.set q { t.parts[p].lq[q] with lqtail := BitVec.ofNat 64 ((tail + 1) % 2 ^ 32) } } := by
    simp only [v, hst]; rfl
  have hvp : v.fir.part = p := by
    have hf : v.fir = (t.fir.wx d (BitVec.ofNat 64 tail)).advance := by simp only [v, hst]; rfl
    rw [hf]
    simpa using hp
  have hpart : v.part = { t.parts[p] with
      lq := t.parts[p].lq.set q { t.parts[p].lq[q] with lqtail := BitVec.ofNat 64 ((tail + 1) % 2 ^ 32) } } := by
    rw [State.part]
    simp only [hparts, hvp]
    exact Vector.getElem_set_self _
  refine ⟨?_, ?_, ?_, ?_, fun y hy => ?_, ?_⟩
  · simp only [v, hst]; rfl
  · simp only [v, hst]; rfl
  · simp only [v, hst]; rfl
  · rw [hpart]
    exact Vector.getElem_set_self _
  · rw [hpart]
    exact Vector.getElem_set_ne q.isLt y.isLt fun e => hy (Fin.ext e.symm)
  · simp only [v, hst, State.pokeQueue, State.push, State.wx, State.upd]
    simp

theorem launchFrom_full {w : State} {recd : List Word} (hp : w.part = s.part)
    (hf : ((s.part.lq[q]).lqtail.toNat % 2 ^ 32 + 2 ^ 32 - (s.part.lq[q]).lqhead.toNat % 2 ^ 32) % 2 ^ 32 = 2 ^ (s.part.lq[q]).log2n) :
    launchFrom s w d q recd = .ok (.done (w.wx d (BitVec.allOnes 64))) := by
  rw [launchFrom]
  dsimp only
  rw [hp, bits_low32, bits_low32, if_pos hf]

theorem launchFrom_put {w t : State} {recd : List Word} {key : Nat} (hp : w.part = s.part)
    (hf : ((s.part.lq[q]).lqtail.toNat % 2 ^ 32 + 2 ^ 32 - (s.part.lq[q]).lqhead.toNat % 2 ^ 32) % 2 ^ 32 ≠ 2 ^ (s.part.lq[q]).log2n)
    (hu : w.unitPlace s.fir.part s.fir.die false ((s.part.lq[q]).lqbase.toNat + (s.part.lq[q]).lqtail.toNat % 2 ^ 32 % 2 ^ (s.part.lq[q]).log2n * 128) 128 true = some (t, key)) :
    launchFrom s w d q recd = .ok (.done ((((t.homeStore s.fir.part key 128 (writeDwords t.mem key recd)).onQueue s.fir.part q
      fun y => { y with lqtail := BitVec.ofNat 64 (((s.part.lq[q]).lqtail.toNat % 2 ^ 32 + 1) % 2 ^ 32) }).pokeQueue s.fir.part q).wx d
        (BitVec.ofNat 64 ((s.part.lq[q]).lqtail.toNat % 2 ^ 32)))) := by
  rw [launchFrom]
  dsimp only
  rw [hp, bits_low32, bits_low32, if_neg hf, hu]

theorem launchClause (sc : Scope) (hi : s.Issues (.launch d a b)) (hg : s.fir.gsize = 0) (hq : s.quietOrder) (ha : (s.rx a).toNat % 128 = 0)
    (hl : (s.rx a).toNat < 2 ^ 57) (hb : (s.rx b).toNat = q.val) (he : bit (s.part.lq[q]).lqcfg 18 = true) (hn : (s.part.lq[q]).log2n ≠ 0)
    (hsc : sc = s.launchAt (s.rx a)) :
    (∀ tr, (s.publish s.fir.frond sc).placesFrom .load (s.rx a).toNat 16 = .error (.trap tr) →
      exec (.launch d a b) s = .next ((s.publish s.fir.frond sc).trapHere tr)) ∧
    ((s.publish s.fir.frond sc).placesFrom .load (s.rx a).toNat 16 = .ok (r, pls) → (∀ p ∈ pls, r.near false 8 p = true) → s.fir.data = [] →
    let x := s.part.lq[q]
    let slot := x.lqtail.toNat % 2 ^ 32
    let w := r.useEach pls
    let recd := pls.map fun p => BitVec.ofNat 64 (r.readAt p 8)
    ((slot + 2 ^ 32 - x.lqhead.toNat % 2 ^ 32) % 2 ^ 32 = 2 ^ x.log2n →
      ∃ l, exec (.launch d a b) s = .next (({ w with late := l }.wx d (BitVec.allOnes 64)).upd Firing.advance)) ∧
    (∀ t key, (slot + 2 ^ 32 - x.lqhead.toNat % 2 ^ 32) % 2 ^ 32 ≠ 2 ^ x.log2n →
      w.unitPlace s.fir.part s.fir.die false (x.lqbase.toNat + slot % 2 ^ x.log2n * 128) 128 true = some (t, key) →
      ∃ v, exec (.launch d a b) s = .next v ∧ v.mem = writeDwords t.mem key recd ∧ v.fronds = t.fronds ∧
        v.fir = { (s.fir.wx d (BitVec.ofNat 64 slot)).advance with paths := w.fir.paths } ∧
        v.part.lq[q] = { x with lqtail := BitVec.ofNat 64 ((slot + 1) % 2 ^ 32) } ∧
        (∀ y, y ≠ q → v.part.lq[y] = s.part.lq[y]) ∧
        (v.agenda.getLast?.map fun e => (e.op, e.a, e.b)) = some (.launchRecordRead, s.fir.part.val, q.val))) := by
  subst hsc
  have hx := exec_launch_issues hi hg hq ha hl hb he hn
  obtain ⟨-, -, -, hd, ho⟩ := id hq
  have hup := State.publish_up hd ho s.fir.frond (s.launchAt (s.rx a))
  generalize s.publish s.fir.frond (s.launchAt (s.rx a)) = p at hup hx ⊢
  refine ⟨fun tr htr => hx.trans (launchBody_trap htr), fun hpl hnear hdata => ?_⟩
  intro x slot w recd
  obtain ⟨hr, -⟩ := State.placesFrom_ok hpl
  have hrf : r.fir = s.fir := (State.reached_fir hr).trans (by rw [hup])
  have hrp : r.parts = s.parts := (State.reached_parts hr).trans (by rw [hup])
  have hrd : r.dev = s.dev := (State.reached_dev hr).trans (by rw [hup])
  obtain ⟨l, hbody⟩ := launchBody_read (s := s) (d := d) (q := q) hpl hnear (by rw [hrf]; exact hdata)
  have hw : w = { r with fir := { s.fir with paths := w.fir.paths } } := by rw [← hrf]; exact r.useEach_fir pls
  rw [hbody] at hx
  have hwd : w.dev = s.dev := by rw [hw]; exact hrd
  have hwp : w.parts = s.parts := by rw [hw]; exact hrp
  have hwf : w.fir = { s.fir with paths := w.fir.paths } := by rw [hw]
  change exec _ s = finish s (launchFrom s { w with late := l } d q recd) at hx
  have hpart : ({ w with late := l } : State).part = s.part := by
    show w.parts[w.fir.part] = s.parts[s.fir.part]
    simp only [hwp, show w.fir.part = s.fir.part by rw [hwf]]
  refine ⟨fun hfull => ⟨l, ?_⟩, fun t key hroom hu => ?_⟩
  · rw [hx, launchFrom_full hpart hfull]
    rfl
  · obtain ⟨l', hu'⟩ := State.unitPlace_late hu l
    have htr := State.unitPlace_reached hu
    have htf : t.fir = { s.fir with paths := w.fir.paths } := (State.reached_fir htr).trans hwf
    have htp : t.parts = s.parts := (State.reached_parts htr).trans hwp
    have hlost : ({ t with late := l' } : State).cxlLost key = false :=
      State.cxlLost_none (by exact (congrArg Device.cxlDown ((State.reached_dev htr).trans hwd)).trans hd)
        (by exact (congrArg Device.cxlOn ((State.reached_dev htr).trans hwd)).trans ho) key
    obtain ⟨h1, h2, h3, h4, h5, h6⟩ := State.launched_facts (t := { t with late := l' }) (q := q) (key := key) (tail := slot) (recd := recd) (d := d)
      (p := s.fir.part) hlost (by rw [htf])
    rw [launchFrom_put hpart hroom hu'] at hx
    refine ⟨_, hx, h1, h2, h3.trans ?_, h4.trans ?_, fun y hy => (h5 y hy).trans ?_, h6⟩
    · show (t.fir.wx d _).advance = _
      rw [htf, Firing.wx_withPaths, Firing.advance_withPaths]
    · show ({ t.parts[s.fir.part].lq[q] with lqtail := _ } : LQueue) = _
      rw [htp]
      rfl
    · show t.parts[s.fir.part].lq[y] = _
      rw [htp]
      rfl

end

section

/-- Settles O25. -/
theorem retireAndLaunch : Obligations.RetireAndLaunch := by
  unfold Obligations.RetireAndLaunch
  exact ⟨fun s t hi hgs he hq hg hp hs ht hf hn => retireClause hi hgs he hq hg hp hs ht hf hn,
    fun s r d a b pls q sc hi hg hq ha hl hb he hn hsc => launchClause sc hi hg hq ha hl hb he hn hsc⟩

end

end Sys2Proof.Machine
end

section
/-! PROOF. A firing that meets at its group while it waits to join it a second time is admitted by its own arrival. -/

namespace Sys2Proof.Machine

set_option Elab.async false

/-- A member of the group whose record lies at the start of its scratchpad, with a JOIN of that group among its waits. -/
def joinsAgain : Firing :=
  { loneFiring with x := loneFiring.x.set 5 0x01FF000000000000, groups := [2 ^ 55], wait := some (.join (2 ^ 55) 6) }

/-- The group has one member and nobody has arrived. -/
def joinsAgainState : State := { withFiring joinsAgain with mem := State.reset.mem.write (2 ^ 55) 8 1 }

theorem joinsAgain_issues : joinsAgainState.Issues (.gbar 5) := (State.issuesB_iff _ _).mp (by decide +kernel)

theorem joinsAgain_boundary : ∃ u, joinsAgainState.boundary (descOf (.gbar 5)) (joinsAgainState.rx 5) = .ok (u, 2 ^ 55, .fr) := by
  have hok : (match joinsAgainState.boundary (descOf (.gbar 5)) (joinsAgainState.rx 5) with | .ok x => some x.2 | .error _ => none)
      = some (2 ^ 55, Scope.fr) := by decide +kernel
  cases hb : joinsAgainState.boundary (descOf (.gbar 5)) (joinsAgainState.rx 5) with
  | error e => rw [hb] at hok; cases hok
  | ok x =>
    rw [hb] at hok
    obtain ⟨u, ks⟩ := x
    cases hok
    exact ⟨u, rfl⟩

theorem joinsAgain_quiet : joinsAgainState.quietOrder :=
  ⟨rfl, fun u hu => absurd hu List.not_mem_nil, by decide +kernel, rfl, rfl⟩

theorem joinsAgain_meeting : ((joinsAgainState.publish joinsAgainState.fir.frond .fr).meeting (2 ^ 55)).arrived + 1 < 2 ^ 24 ∧
    ((joinsAgainState.publish joinsAgainState.fir.frond .fr).meeting (2 ^ 55)).arrived + 1 =
      ((joinsAgainState.publish joinsAgainState.fir.frond .fr).meeting (2 ^ 55)).members := by decide +kernel

/-- The group stands twice among its groups afterwards. -/
theorem joinsAgain_admitted : (nextOf (exec (.gbar 5) joinsAgainState)).map (fun t => t.fir.groups.length) = some 2 := by decide +kernel

/-- Refutes O24: the firing's own arrival completes the boundary and admits the JOIN that stands among its waits, so more than its place changes. -/
theorem not_groups : ¬ Obligations.Groups := by
  unfold Obligations.Groups
  intro h
  obtain ⟨u, hb⟩ := joinsAgain_boundary
  obtain ⟨-, -, -, hmeet⟩ := h joinsAgainState u 0 5 (.dev 0) (by decide +kernel)
  obtain ⟨harrive, -⟩ := hmeet (.gbar 5) (2 ^ 55) .fr (.inr rfl) joinsAgain_issues hb
  obtain ⟨v, hexec, -, -, -, hlast, -⟩ := harrive rfl joinsAgain_quiet joinsAgain_meeting.1
  obtain ⟨hfir, -⟩ := hlast joinsAgain_meeting.2
  have hlen := joinsAgain_admitted
  rw [hexec] at hlen
  have hgroups : v.fir.groups = joinsAgain.advance.groups := by rw [hfir]; rfl
  have hone : joinsAgain.advance.groups.length = 1 := by rw [Firing.advance_groups]; rfl
  have htwo : v.fir.groups.length = 2 := Option.some.inj hlen
  rw [hgroups, hone] at htwo
  exact absurd htwo (by decide)

end Sys2Proof.Machine
end

section
/-! SUPPORT. The order of float patterns, the sums of a sorus, and the channels of one direction (R62, R346, R353). -/

namespace Sys2Proof.Machine

/-! ### Order of patterns -/

theorem sumFin_swap (na nb : Bool) (ma mb : Nat) (ea eb : Int) :
    (sumFin nb mb eb (!na) ma ea).1 = -(sumFin na ma ea (!nb) mb eb).1 := by
  unfold sumFin
  dsimp only
  rw [min_comm eb ea]
  cases na <;> cases nb <;> simp

/-- A smaller value is not also larger or equal. -/
theorem fvLt_excludes {x y : FV} (h : fvLt x y = true) : fvLt y x = false ∧ fvEq y x = false := by
  cases x <;> cases y <;> simp_all [fvLt, fvEq]
  rw [sumFin_swap]
  omega

theorem fLt_excludes {F : Fmt} {a b : Nat} (h : fLt F a b = true) : fLt F b a = false ∧ fEq F b a = false := by
  simp only [fLt, Bool.and_eq_true] at h
  obtain ⟨-, hv⟩ := h
  obtain ⟨h1, h2⟩ := fvLt_excludes hv
  simp [fLt, fEq, h1, h2]

theorem le64_of_fLt_swap {a b : Nat} (h : fLt f64 a b = true) : le64 b a = false := by
  obtain ⟨h1, h2⟩ := fLt_excludes h
  rw [le64, h1, h2]
  rfl

theorem fLt_self_inf : fLt f64 inf64 inf64 = false := by decide

theorem ne_inf_of_fLt {a : Nat} (h : fLt f64 a inf64 = true) : a ≠ inf64 := by
  rintro rfl
  rw [fLt_self_inf] at h
  cases h

/-! ### Sums of weights -/

/-- A conditional sum over a list. -/
theorem foldl_if_add {α : Type} (p : α → Bool) (f : α → Nat) (l : List α) (a : Nat) :
    l.foldl (fun a y => if p y then a + f y else a) a = a + ((l.filter p).map f).sum := by
  induction l generalizing a with
  | nil => rfl
  | cons y l ih =>
    rw [List.foldl_cons, ih]
    by_cases h : p y = true
    · rw [if_pos h, List.filter_cons_of_pos h, List.map_cons, List.sum_cons, Nat.add_assoc]
    · rw [if_neg h, List.filter_cons_of_neg h]

/-- The sum of the weights of the leaves from a on and below b that p takes. -/
def Sorus.sumIn (x : Sorus) (p : Nat → Bool) (a b : Nat) : Nat := x.sumOf fun l => (decide (a ≤ l) && decide (l < b)) && p l

section
variable {x : Sorus} {p : Nat → Bool}

theorem Sorus.sumOf_congr {p q : Nat → Bool} (h : ∀ l, p l = q l) : x.sumOf p = x.sumOf q := by
  rw [show p = q from funext h]

/-- Leaves taken by one of two conditions that exclude each other. -/
theorem Sorus.sumOf_split {p q r : Nat → Bool} (h : ∀ l, r l = (p l || q l)) (hx : ∀ l, (p l && q l) = false) :
    x.sumOf r = x.sumOf p + x.sumOf q := by
  unfold Sorus.sumOf
  induction x.ws with
  | nil => rfl
  | cons y l ih =>
    have hy := h y.1
    have hz := hx y.1
    cases hp : p y.1 <;> cases hq : q y.1 <;> simp_all <;> omega

theorem Sorus.sumIn_split {a b c : Nat} (hab : a ≤ b) (hbc : b ≤ c) : x.sumIn p a c = x.sumIn p a b + x.sumIn p b c := by
  refine Sorus.sumOf_split (fun l => ?_) fun l => ?_
  · cases p l
    · simp
    · simp only [Bool.and_true, ← Bool.decide_and, ← Bool.decide_or]
      exact decide_eq_decide.mpr (by omega)
  · cases p l
    · simp
    · simp only [Bool.and_true, ← Bool.decide_and]
      exact decide_eq_false (by omega)

theorem Sorus.sumIn_empty (a : Nat) : x.sumIn p a a = 0 := by
  have h := Sorus.sumIn_split (x := x) (p := p) (Nat.le_refl a) (Nat.le_refl a)
  omega

theorem Sorus.sumIn_one_zero {l : Nat} (h : p l = false) : x.sumIn p l (l + 1) = 0 := by
  have hn : ∀ m, ((decide (l ≤ m) && decide (m < l + 1)) && p m) = false := by
    intro m
    by_cases hm : l = m
    · subst hm; simp [h]
    · have : (decide (l ≤ m) && decide (m < l + 1)) = false := by
        rw [← Bool.decide_and]
        exact decide_eq_false (by omega)
      rw [this, Bool.false_and]
  have hs := Sorus.sumOf_split (x := x) (p := fun m => (decide (l ≤ m) && decide (m < l + 1)) && p m)
    (q := fun m => (decide (l ≤ m) && decide (m < l + 1)) && p m) (r := fun m => (decide (l ≤ m) && decide (m < l + 1)) && p m)
    (fun m => by simp) (fun m => by rw [hn m]; rfl)
  rw [Sorus.sumIn]
  omega

theorem Sorus.sumIn_taken {l : Nat} (h : 0 < x.sumIn p l (l + 1)) : p l = true := by
  by_contra hp
  rw [Sorus.sumIn_one_zero (by simpa using hp)] at h
  exact absurd h (by decide)

/-- Descend finds the leaf that r falls on (R346). -/
theorem descend_spec {sum : Nat → Nat → Nat} (hs : ∀ lo n, sum lo n = x.sumIn p lo (lo + 2 ^ n)) (n lo r : Nat) (hr : r < sum lo n) :
    lo ≤ descend sum n lo r ∧ descend sum n lo r < lo + 2 ^ n ∧ x.sumIn p lo (descend sum n lo r) ≤ r ∧
      r < x.sumIn p lo (descend sum n lo r + 1) := by
  induction n generalizing lo r with
  | zero =>
    rw [hs, Nat.pow_zero] at hr
    rw [descend, Sorus.sumIn_empty, Nat.pow_zero]
    exact ⟨Nat.le_refl _, Nat.lt_succ_self _, Nat.zero_le _, hr⟩
  | succ n ih =>
    have hp : 2 ^ (n + 1) = 2 ^ n + 2 ^ n := by rw [Nat.pow_succ]; omega
    rw [descend]
    by_cases h : r < sum lo n
    · rw [if_pos h]
      obtain ⟨h1, h2, h3, h4⟩ := ih lo r h
      exact ⟨h1, by omega, h3, h4⟩
    · rw [if_neg h]
      have hsplit := Sorus.sumIn_split (x := x) (p := p) (Nat.le_add_right lo (2 ^ n)) (Nat.le_add_right (lo + 2 ^ n) (2 ^ n))
      rw [hs, hp, ← Nat.add_assoc, hsplit] at hr
      rw [hs] at h
      obtain ⟨h1, h2, h3, h4⟩ := ih (lo + 2 ^ n) (r - sum lo n) (by rw [hs, hs]; omega)
      rw [hs lo n] at h1 h2 h3 h4 ⊢
      generalize descend sum n (lo + 2 ^ n) (r - x.sumIn p lo (lo + 2 ^ n)) = l at h1 h2 h3 h4 ⊢
      have hl := Sorus.sumIn_split (x := x) (p := p) (Nat.le_add_right lo (2 ^ n)) h1
      have hl' := Sorus.sumIn_split (x := x) (p := p) (c := l + 1) (Nat.le_add_right lo (2 ^ n)) (Nat.le_succ_of_le h1)
      exact ⟨by omega, by omega, by omega, by omega⟩

end

theorem Sorus.sumAll_eq (x : Sorus) (lo n : Nat) : x.sumAll lo n = x.sumOf fun l => decide (lo ≤ l) && decide (l < lo + 2 ^ n) := by
  rw [Sorus.sumAll, Sorus.sumOf, foldl_if_add (fun y : Nat × BitVec 48 => lo ≤ y.1 && y.1 < lo + 2 ^ n), Nat.zero_add]

theorem Sorus.blockSum_eq (x : Sorus) (c : Chan) : x.blockSum c = x.blockOf c := x.sumAll_eq _ _

theorem Sorus.sumFree_eq (x : Sorus) (lo n : Nat) : x.sumFree lo n = x.sumIn x.unowned lo (lo + 2 ^ n) := by
  rw [Sorus.sumFree, Sorus.sumIn, Sorus.sumOf,
    foldl_if_add (fun y : Nat × BitVec 48 => lo ≤ y.1 && y.1 < lo + 2 ^ n && !(x.outc.toList.any fun c => c.owns y.1)), Nat.zero_add]
  rfl

theorem Sorus.total_eq (x : Sorus) : x.total = x.sumOf fun l => decide (l < 2 ^ x.log2l) && x.unowned l := by
  rw [Sorus.total, Sorus.sumFree_eq, Sorus.sumIn]
  exact Sorus.sumOf_congr fun l => by simp

/-! ### Weights put -/

theorem putWeight_mem {ws : List (Nat × BitVec 48)} {l : Nat} {w : BitVec 48} : ∀ q ∈ putWeight ws l w, q ∈ ws ∨ q.1 = l := by
  induction ws with
  | nil =>
    intro q hq
    unfold putWeight at hq
    split_ifs at hq with h
    · cases hq
    · exact .inr (by rw [List.mem_singleton.mp hq])
  | cons y ws ih =>
    intro q hq
    unfold putWeight at hq
    split_ifs at hq with h1 h2 h3 h4
    · exact .inl hq
    · rcases List.mem_cons.mp hq with rfl | hq
      · exact .inr rfl
      · exact .inl hq
    · exact .inl (List.mem_cons_of_mem _ hq)
    · rcases List.mem_cons.mp hq with rfl | hq
      · exact .inr rfl
      · exact .inl (List.mem_cons_of_mem _ hq)
    · rcases List.mem_cons.mp hq with rfl | hq
      · exact .inl List.mem_cons_self
      · exact (ih q hq).imp_left (List.mem_cons_of_mem _)

/-- The weight of a leaf in a list of weights. -/
def weightIn (ws : List (Nat × BitVec 48)) (l : Nat) : Nat := match ws.find? fun y => y.1 == l with
  | some y => y.2.toNat
  | none => 0

theorem weightIn_cons_self (l : Nat) (w : BitVec 48) (ws : List (Nat × BitVec 48)) : weightIn ((l, w) :: ws) l = w.toNat := by
  rw [weightIn, List.find?_cons_of_pos (by simp)]

theorem weightIn_cons_ne {k l : Nat} (h : k ≠ l) (w : BitVec 48) (ws : List (Nat × BitVec 48)) : weightIn ((k, w) :: ws) l = weightIn ws l := by
  rw [weightIn, List.find?_cons_of_neg (by simpa using h)]
  rfl

theorem weightIn_above {ws : List (Nat × BitVec 48)} {l : Nat} (h : ∀ y ∈ ws, l < y.1) : weightIn ws l = 0 := by
  have hf : ws.find? (fun y => y.1 == l) = none := List.find?_eq_none.mpr fun y hy => by simpa using Nat.ne_of_gt (h y hy)
  rw [weightIn, hf]

theorem weightIn_putWeight {ws : List (Nat × BitVec 48)} (hr : (ws.map Prod.fst).Pairwise (· < ·)) (l : Nat) (w : BitVec 48) (m : Nat) :
    weightIn (putWeight ws l w) m = if m = l then w.toNat else weightIn ws m := by
  have hzero : w = 0 → w.toNat = 0 := fun h => by rw [h]; rfl
  induction ws with
  | nil =>
    unfold putWeight
    split_ifs with h hm hm
    · exact (hzero h).symm
    · rfl
    · rw [hm, weightIn_cons_self]
    · exact weightIn_cons_ne (Ne.symm hm) w []
  | cons y ws ih =>
    obtain ⟨k, v⟩ := y
    rw [List.map_cons, List.pairwise_cons] at hr
    obtain ⟨hk, hr⟩ := hr
    have hws : ∀ z ∈ ws, k < z.1 := fun z hz => hk z.1 (List.mem_map_of_mem hz)
    unfold putWeight
    by_cases hl : l < k
    · rw [if_pos hl]
      have habove : weightIn ((k, v) :: ws) l = 0 := weightIn_above fun z hz => by
        rcases List.mem_cons.mp hz with rfl | hz
        · exact hl
        · exact Nat.lt_trans hl (hws z hz)
      by_cases hm : m = l
      · subst hm
        rw [if_pos rfl]
        split_ifs with h
        · rw [habove, hzero h]
        · exact weightIn_cons_self ..
      · rw [if_neg hm]
        split_ifs with h
        · rfl
        · exact weightIn_cons_ne (Ne.symm hm) ..
    · rw [if_neg hl]
      by_cases he : l = k
      · subst he
        rw [if_pos rfl]
        by_cases hm : m = l
        · subst hm
          rw [if_pos rfl]
          split_ifs with h
          · rw [weightIn_above hws, hzero h]
          · exact weightIn_cons_self ..
        · rw [if_neg hm, weightIn_cons_ne (Ne.symm hm)]
          split_ifs with h
          · rfl
          · exact weightIn_cons_ne (Ne.symm hm) ..
      · rw [if_neg he]
        by_cases hm : m = k
        · subst hm
          rw [weightIn_cons_self, weightIn_cons_self, if_neg (Ne.symm he)]
        · rw [weightIn_cons_ne (Ne.symm hm), weightIn_cons_ne (Ne.symm hm)]
          exact ih hr

theorem putWeight_ruled {ws : List (Nat × BitVec 48)} (hr : (ws.map Prod.fst).Pairwise (· < ·)) (l : Nat) (w : BitVec 48) :
    ((putWeight ws l w).map Prod.fst).Pairwise (· < ·) := by
  induction ws with
  | nil =>
    unfold putWeight
    split_ifs
    · exact List.Pairwise.nil
    · exact List.pairwise_singleton ..
  | cons y ws ih =>
    obtain ⟨k, v⟩ := y
    rw [List.map_cons, List.pairwise_cons] at hr
    obtain ⟨hk, hrs⟩ := hr
    have hall : (((k, v) :: ws).map Prod.fst).Pairwise (· < ·) := List.pairwise_cons.mpr ⟨hk, hrs⟩
    unfold putWeight
    split_ifs with h1 h2 h3 h4
    · exact hall
    · refine List.pairwise_cons.mpr ⟨fun n hn => ?_, hall⟩
      rcases List.mem_cons.mp hn with rfl | hn
      · exact h1
      · exact Nat.lt_trans h1 (hk n hn)
    · exact hrs
    · exact List.pairwise_cons.mpr ⟨fun n hn => h3 ▸ hk n hn, hrs⟩
    · refine List.pairwise_cons.mpr ⟨fun n hn => ?_, ih hrs⟩
      obtain ⟨q, hq, rfl⟩ := List.mem_map.mp hn
      rcases putWeight_mem q hq with hq | hq
      · exact hk q.1 (List.mem_map_of_mem hq)
      · show k < q.1
        omega

/-! ### Channels of one direction -/

section
variable {cs : Vector Chan 8}

/-- A numbered channel of a direction is one of the eight. -/
theorem zipIdx_chan {y : Chan × Nat} (h : y ∈ cs.toList.zipIdx) : ∃ c : Fin 8, y = (cs[c], c.val) := by
  obtain ⟨i, hi, rfl⟩ := List.getElem_of_mem h
  rw [List.length_zipIdx, Vector.length_toList] at hi
  exact ⟨⟨i, hi⟩, by simp⟩

theorem find_chan {p : Chan × Nat → Bool} {c : Fin 8} (h : p (cs[c], c.val) = true) (hb : ∀ j : Fin 8, j < c → p (cs[j], j.val) = false) :
    cs.toList.zipIdx.find? p = some (cs[c], c.val) := by
  refine List.find?_eq_some_iff_getElem.mpr ⟨h, c.val, by simp, by simp, fun j hj => ?_⟩
  have := hb ⟨j, Nat.lt_trans hj c.isLt⟩ hj
  simpa using this

theorem find_chan_none {p : Chan × Nat → Bool} (h : ∀ c : Fin 8, p (cs[c], c.val) = false) : cs.toList.zipIdx.find? p = none := by
  refine List.find?_eq_none.mpr fun y hy => ?_
  obtain ⟨c, rfl⟩ := zipIdx_chan hy
  exact Bool.eq_false_iff.mp (h c)

/-- One channel looked at for the least next-candidate time. -/
def tauStep (a : Nat × Nat) (c : Chan × Nat) : Nat × Nat :=
  if c.1.act && fLt f64 c.1.tau.toNat a.1 then (c.1.tau.toNat, c.2) else a

theorem tauStep_before {t : Nat} (l : List (Chan × Nat)) (a : Nat × Nat) (ha : fLt f64 t a.1 = true)
    (hl : ∀ y ∈ l, y.1.act = true → fLt f64 t y.1.tau.toNat = true) : fLt f64 t (l.foldl tauStep a).1 = true := by
  induction l generalizing a with
  | nil => exact ha
  | cons y l ih =>
    refine ih (tauStep a y) ?_ fun z hz => hl z (List.mem_cons_of_mem _ hz)
    unfold tauStep
    split
    next h => exact hl y List.mem_cons_self (Bool.and_eq_true_iff.mp h).1
    next => exact ha

theorem tauStep_after (l : List (Chan × Nat)) (a : Nat × Nat) (hl : ∀ y ∈ l, y.1.act = true → fLt f64 y.1.tau.toNat a.1 = false) :
    l.foldl tauStep a = a := by
  induction l with
  | nil => rfl
  | cons y l ih =>
    have hy : tauStep a y = a := by
      unfold tauStep
      refine if_neg fun h => ?_
      obtain ⟨hact, hlt⟩ := Bool.and_eq_true_iff.mp h
      rw [hl y List.mem_cons_self hact] at hlt
      cases hlt
    rw [List.foldl_cons, hy]
    exact ih fun z hz => hl z (List.mem_cons_of_mem _ hz)

theorem leastTau_none (h : noneComing cs) : leastTau cs = (inf64, 0) :=
  tauStep_after _ _ fun y hy hact => by
    obtain ⟨c, rfl⟩ := zipIdx_chan hy
    exact h c hact

theorem leastTau_earliest {c : Fin 8} (h : earliest cs c) : leastTau cs = (cs[c].tau.toNat, c.val) := by
  obtain ⟨hact, hinf, hall⟩ := h
  have hlen : c.val < cs.toList.zipIdx.length := by simp
  have hget : cs.toList.zipIdx[c.val] = (cs[c], c.val) := by simp
  have hsplit : cs.toList.zipIdx = cs.toList.zipIdx.take c.val ++ (cs[c], c.val) :: cs.toList.zipIdx.drop (c.val + 1) := by
    rw [← hget, ← List.drop_eq_getElem_cons hlen, List.take_append_drop]
  have hbefore : fLt f64 cs[c].tau.toNat ((cs.toList.zipIdx.take c.val).foldl tauStep (inf64, 0)).1 = true := by
    refine tauStep_before _ _ hinf fun y hy hya => ?_
    obtain ⟨j, hj, rfl⟩ := List.mem_take_iff_getElem.mp hy
    have hjc : j < c.val := by omega
    rw [List.getElem_zipIdx] at hya ⊢
    exact (hall ⟨j, Nat.lt_trans hjc c.isLt⟩ (by simpa using hya)).2 hjc
  have hone : tauStep ((cs.toList.zipIdx.take c.val).foldl tauStep (inf64, 0)) (cs[c], c.val) = (cs[c].tau.toNat, c.val) := by
    generalize (cs.toList.zipIdx.take c.val).foldl tauStep (inf64, 0) = a at hbefore
    rw [tauStep, if_pos (by rw [hact, hbefore]; rfl)]
  have hlast : (cs.toList.zipIdx.drop (c.val + 1)).foldl tauStep (cs[c].tau.toNat, c.val) = (cs[c].tau.toNat, c.val) := by
    refine tauStep_after _ _ fun y hy hya => ?_
    obtain ⟨j, rfl⟩ := zipIdx_chan (List.mem_of_mem_drop hy)
    exact (hall j hya).1
  have hfold : leastTau cs = cs.toList.zipIdx.foldl tauStep (inf64, 0) := rfl
  rw [hfold, hsplit, List.foldl_append, List.foldl_cons, hone, hlast]

end

end Sys2Proof.Machine
end

section
/-! PROOF. The sorus region: claims, SINIT, weights, NEXTEV and what is read of it (R347, R350 to R353, R362). -/

namespace Sys2Proof.Machine

section
variable {s : State} {d a b sel : BitVec 6}

/-- An instruction whose checks are those of i, when i issues. -/
theorem plain_issues_as {i : Instr} {D : Desc} {body : State → Except Stop Done} (hD : D = descOf i) (h : s.Issues i) :
    plain D body s = finish s (body s) := by
  subst hD
  exact plain_issues h

theorem and_again (p q : Bool) : (p && q) = ((p && q) && q) := by rw [Bool.and_assoc, Bool.and_self]

theorem descNextev_eq (d a : BitVec 6) : descNextev d a = descOf (.nextev d a) := congrArg (Desc.mk _ _) (and_again _ _)

theorem descSwrd_eq (d a sel : BitVec 6) : descSwrd d a sel = descOf (.swrd d a sel) := congrArg (Desc.mk _ _) (and_again _ _)

theorem descSclk_eq (d : BitVec 6) : descSclk d = descOf (.sclk d) := congrArg (Desc.mk _ _) (and_again _ _)

theorem State.claimed_other (h : s.fr.sorus.holder ≠ some s.fir.adm) (init : Bool) : s.claimed init = sorusTrap 1 0 := by
  rw [State.claimed]
  dsimp only
  rw [if_pos h]
  rfl

theorem State.claimed_blank (h : s.fr.sorus.holder = some s.fir.adm) (hi : s.fr.sorus.init = false) : s.claimed true = sorusTrap 2 0 := by
  rw [State.claimed]
  dsimp only
  rw [if_neg (not_not_intro h), hi]
  rfl

/-- The holder of a sorus passes the first check, and the second too where that is not made or the region is initialised. -/
theorem State.claimed_ok (h : s.fr.sorus.holder = some s.fir.adm) {init : Bool} (hi : init = false ∨ s.fr.sorus.init = true) :
    s.claimed init = .ok s.fr.sorus := by
  have hc : (init && !s.fr.sorus.init) = false := by rcases hi with hi | hi <;> simp [hi]
  rw [State.claimed]
  dsimp only
  rw [if_neg (not_not_intro h), hc]
  rfl

theorem State.descAddr_ok {w : Word} (h : w.toNat % 64 = 0) (hin : s.inOwn w = true) : s.descAddr w = .ok () := by
  rw [State.descAddr, if_neg (by simp [h, hin])]

theorem State.descAddr_bad {w : Word} (h : w.toNat % 64 ≠ 0 ∨ s.inOwn w = false) : s.descAddr w = raiseSub .prot 5 w := by
  rw [State.descAddr, if_pos h]

/-- A sorus instruction whose first check traps (R347). -/
theorem sorus_claim_trap {i : Instr} (hm : i ∈ [Instr.sinit a, .rate a b, .ratea a b, .nextev d a, .swrd d a sel, .sclk d, .binit a, .bdec d a, .brecv d a])
    (hi : s.Issues i) (hb : i = .binit a → (s.rx a).toNat % 64 = 0 ∧ s.inOwn (s.rx a) = true) {sub : Nat}
    (ht : i ≠ .sinit a → s.claimed true = sorusTrap sub 0) (hf : i = .sinit a → s.claimed false = sorusTrap sub 0) :
    exec i s = .next (s.trapHere { c := .prot, sub := sub, val := 0 }) := by
  simp only [List.mem_cons, List.not_mem_nil, or_false] at hm
  rcases hm with rfl | rfl | rfl | rfl | rfl | rfl | rfl | rfl | rfl
  · rw [exec_sinit, execSinit, plain_issues_as (D := descSinit a) rfl hi, hf rfl]; rfl
  · rw [exec_rate, execRate, rateOp, plain_issues_as (D := descRate a b) rfl hi, ht (by simp)]; rfl
  · rw [exec_ratea, execRatea, rateOp, plain_issues_as (D := descRatea a b) rfl hi, ht (by simp)]; rfl
  · rw [exec_nextev, execNextev, plain_issues_as (descNextev_eq d a) hi, ht (by simp)]; rfl
  · rw [exec_swrd, execSwrd, plain_issues_as (descSwrd_eq d a sel) hi, ht (by simp)]; rfl
  · rw [exec_sclk, execSclk, plain_issues_as (descSclk_eq d) hi, ht (by simp)]; rfl
  · rw [exec_binit, execBinit, plain_issues_as (D := descBinit a) rfl hi, State.descAddr_ok (hb rfl).1 (hb rfl).2, ht (by simp)]; rfl
  · rw [exec_bdec, execBdec, plain_issues_as (D := descBdec d a) rfl hi, ht (by simp)]; rfl
  · rw [exec_brecv, execBrecv, plain_issues_as (D := descBrecv d a) rfl hi, ht (by simp)]; rfl

/-! ### SINIT -/

theorem State.sorusDesc_reached {w : Word} {t : State} {ws : List Word} (h : s.sorusDesc w = .ok (t, ws)) :
    ∃ v : State, v.reached s ∧ ∃ pl, t = v.usePath pl := by
  unfold State.sorusDesc at h
  obtain ⟨_, -, h⟩ := of_bind_ok h
  obtain ⟨⟨v, pl⟩, hv, h⟩ := of_bind_ok h
  obtain ⟨_, -, h⟩ := of_bind_ok h
  cases h
  exact ⟨v, State.access_reached hv, pl, rfl⟩

theorem State.sorusDesc_frond {w : Word} {t : State} {ws : List Word} (h : s.sorusDesc w = .ok (t, ws)) : t.fir.frond = s.fir.frond := by
  obtain ⟨v, hv, pl, rfl⟩ := State.sorusDesc_reached h
  have hf := State.reached_fir hv
  simp only [State.usePath, State.upd, Firing.frond, hf]

theorem exec_sinit_desc (hh : s.fr.sorus.holder = some s.fir.adm) (hi : s.Issues (.sinit a)) {t : State} {w : List Word}
    (h : s.sorusDesc (s.rx a) = .ok (t, w)) : exec (.sinit a) s = finish s (if regionOk w = false then raiseSub .prot 5 (s.rx a)
      else .ok (.done (t.setSorus (s.fr.sorus.start w)))) := by
  rw [exec_sinit, execSinit, plain_issues_as (D := descSinit a) rfl hi, State.claimed_ok hh (.inl rfl), ok_bind, h, ok_bind]
  dsimp only
  split_ifs <;> rfl

theorem sexp_eq (w : Word) : intOf true 7 (bits w 14 8) = (w.extractLsb' 8 7).toInt := by
  have hb : bits w 14 8 = (w.extractLsb' 8 7).toNat := by
    rw [bits, BitVec.extractLsb'_toNat, Nat.shiftRight_eq_div_pow]
  rw [hb]
  exact intOf_true (by decide) _

theorem sinitClause (hh : s.fr.sorus.holder = some s.fir.adm) {t : State} {w : List Word} (hi : s.Issues (.sinit a))
    (h : s.sorusDesc (s.rx a) = .ok (t, w)) :
    (regionOk w = true → exec (.sinit a) s = .next ((t.onFrond s.fir.frond fun f => { f with sorus := { s.fr.sorus with
      init := true, log2l := (dword w 0).toNat % 16, sexp := ((dword w 0).extractLsb' 8 7).toInt, ws := [], t := dword w 1,
      n := dword w 2, rid := (dword w 0).extractLsb' 32 32, seedlo := dword w 3, seedhi := dword w 4,
      outc := Vector.replicate 8 Chan.closed, inc := Vector.replicate 8 Chan.closed } }).upd Firing.advance)) ∧
    (regionOk w = false → exec (.sinit a) s = .next (s.trapHere { c := .prot, sub := 5, val := s.rx a })) := by
  rw [exec_sinit_desc hh hi h]
  refine ⟨fun hok => ?_, fun hbad => ?_⟩
  · have hlow : bits (dword w 0) 3 0 = (dword w 0).toNat % 16 := by rw [bits, Nat.pow_zero, Nat.div_one]; rfl
    rw [if_neg (by simp [hok]), finish_done, State.setSorus, State.sorusDesc_frond h, Sorus.start]
    dsimp only
    rw [sexp_eq, hlow]
  · rw [if_pos hbad]
    rfl

theorem sinit_address (hh : s.fr.sorus.holder = some s.fir.adm) (hi : s.Issues (.sinit a))
    (h : (s.rx a).toNat % 64 ≠ 0 ∨ s.inOwn (s.rx a) = false) : exec (.sinit a) s = .next (s.trapHere { c := .prot, sub := 5, val := s.rx a }) := by
  rw [exec_sinit, execSinit, plain_issues_as (D := descSinit a) rfl hi, State.claimed_ok hh (.inl rfl), ok_bind, State.sorusDesc,
    State.descAddr_bad h]
  rfl

/-! ### RATE and RATEA -/

theorem State.setSorus_eq (x : Sorus) : s.setSorus x = s.onFrond s.fir.frond fun f => { f with sorus := x } := rfl

theorem Sorus.due_undue {x : Sorus} (h : x.undue) : x.due = none := by
  have ho : x.outc.toList.zipIdx.find? (fun c => c.1.act && c.1.due) = none := find_chan_none fun c => (h c).1
  have hi : x.inc.toList.zipIdx.find? (fun c => c.1.act && c.1.due) = none := find_chan_none fun c => (h c).2
  rw [Sorus.due]
  dsimp only
  rw [ho, hi]
  rfl

theorem Sorus.due_outgoing {x : Sorus} {c : Fin 8} (ha : x.outc[c].act = true) (hd : x.outc[c].due = true)
    (hb : ∀ j : Fin 8, j < c → (x.outc[j].act && x.outc[j].due) = false) : x.due = some (1, c.val) := by
  have ho := find_chan (cs := x.outc) (p := fun c => c.1.act && c.1.due) (c := c) (by rw [ha, hd]; rfl) hb
  rw [Sorus.due]
  dsimp only
  rw [ho]
  rfl

theorem Sorus.due_incoming {x : Sorus} {c : Fin 8} (ha : x.inc[c].act = true) (hd : x.inc[c].due = true)
    (ho : ∀ j : Fin 8, (x.outc[j].act && x.outc[j].due) = false) (hb : ∀ j : Fin 8, j < c → (x.inc[j].act && x.inc[j].due) = false) :
    x.due = some (2, c.val) := by
  have hno : x.outc.toList.zipIdx.find? (fun c => c.1.act && c.1.due) = none := find_chan_none ho
  have hi := find_chan (cs := x.inc) (p := fun c => c.1.act && c.1.due) (c := c) (by rw [ha, hd]; rfl) hb
  rw [Sorus.due]
  dsimp only
  rw [hno, hi]
  rfl

/-- RATE or RATEA with its claim passed: leaf l, new weight w. -/
def rateBody (s : State) (l : Word) (w : Int) : Except Stop Done := do
  let x := s.fr.sorus
  if x.leaves ≤ l.toNat then raiseSub .prot 3 l
  if w < 0 ∨ 2 ^ 48 ≤ w then raiseSub .prot 3 (ofInt w)
  match x.due with
  | some (o, c) => sorusTrap 8 (if o = 2 then c + 8 else c)
  | none => .ok ()
  let x' := { x with ws := putWeight x.ws l.toNat (BitVec.ofInt 48 w) }
  match x'.outc.toList.zipIdx.find? fun c => c.1.owns l.toNat && rateOver (x'.blockSum c.1) x.sexp c.1.lambda with
  | some (_, c) => raiseSub .boundrate c l
  | none => .ok (.done (s.setSorus x'))

theorem exec_rate_claimed {i : Instr} {new : Int}
    (hn : (i = .rate a b ∧ new = ((s.rx b).toNat : Int)) ∨ (i = .ratea a b ∧ new = (s.fr.sorus.weight (s.rx a).toNat : Int) + (s.rx b).toInt))
    (hh : s.fr.sorus.holder = some s.fir.adm) (hinit : s.fr.sorus.init = true) (hi : s.Issues i) :
    exec i s = finish s (rateBody s (s.rx a) new) := by
  rcases hn with ⟨rfl, rfl⟩ | ⟨rfl, rfl⟩
  · rw [exec_rate, execRate, rateOp, plain_issues_as (D := descRate a b) rfl hi, State.claimed_ok hh (.inr hinit), ok_bind]
    rfl
  · rw [exec_ratea, execRatea, rateOp, plain_issues_as (D := descRatea a b) rfl hi, State.claimed_ok hh (.inr hinit), ok_bind]
    rfl

theorem rateBody_leaf {l : Word} {w : Int} (h : 2 ^ s.fr.sorus.log2l ≤ l.toNat) : rateBody s l w = raiseSub .prot 3 l := by
  rw [rateBody]
  dsimp only
  rw [if_pos (show s.fr.sorus.leaves ≤ l.toNat from h)]
  rfl

theorem rateBody_weight {l : Word} {w : Int} (h : l.toNat < 2 ^ s.fr.sorus.log2l) (hw : w < 0 ∨ 2 ^ 48 ≤ w) :
    rateBody s l w = raiseSub .prot 3 (ofInt w) := by
  rw [rateBody]
  dsimp only
  rw [if_neg (show ¬s.fr.sorus.leaves ≤ l.toNat from Nat.not_le.mpr h), if_pos hw]
  rfl

theorem rateBody_put {l : Word} {w : Int} (h : l.toNat < 2 ^ s.fr.sorus.log2l) (h0 : 0 ≤ w) (hw : w < 2 ^ 48) (hu : s.fr.sorus.undue) :
    rateBody s l w =
      let y := { s.fr.sorus with ws := putWeight s.fr.sorus.ws l.toNat (BitVec.ofInt 48 w) }
      match s.fr.sorus.outc.toList.zipIdx.find? fun c => c.1.owns l.toNat && rateOver (y.blockOf c.1) s.fr.sorus.sexp c.1.lambda with
      | some (_, c) => raiseSub .boundrate c l
      | none => .ok (.done (s.setSorus y)) := by
  rw [rateBody]
  dsimp only
  rw [if_neg (show ¬s.fr.sorus.leaves ≤ l.toNat from Nat.not_le.mpr h), if_neg (by omega), Sorus.due_undue hu]
  simp only [Sorus.blockSum_eq]
  rfl

theorem ofInt_48_toNat {w : Int} (h0 : 0 ≤ w) (hw : w < 2 ^ 48) : (BitVec.ofInt 48 w).toNat = w.toNat := by
  rw [BitVec.toNat_ofInt]
  omega

theorem rateClause {i : Instr} {new : Int}
    (hn : (i = .rate a b ∧ new = ((s.rx b).toNat : Int)) ∨ (i = .ratea a b ∧ new = (s.fr.sorus.weight (s.rx a).toNat : Int) + (s.rx b).toInt))
    (hh : s.fr.sorus.holder = some s.fir.adm) (hinit : s.fr.sorus.init = true) (hi : s.Issues i) :
    let x := s.fr.sorus
    (2 ^ x.log2l ≤ (s.rx a).toNat → exec i s = .next (s.trapHere { c := .prot, sub := 3, val := s.rx a })) ∧
    ((s.rx a).toNat < 2 ^ x.log2l → (new < 0 ∨ 2 ^ 48 ≤ new) →
      exec i s = .next (s.trapHere { c := .prot, sub := 3, val := BitVec.ofInt 64 new })) ∧
    (x.ruled → (s.rx a).toNat < 2 ^ x.log2l → 0 ≤ new → new < 2 ^ 48 → x.undue → ∃ ws : List (Nat × BitVec 48),
      let y := { x with ws := ws }
      ((∀ l, y.weight l = if l = (s.rx a).toNat then new.toNat else x.weight l) ∧ y.ruled ∧ ∀ p ∈ ws, p ∈ x.ws ∨ p.1 = (s.rx a).toNat) ∧
      ((∀ c : Fin 8, (x.outc[c].owns (s.rx a).toNat && rateOver (y.blockOf x.outc[c]) x.sexp x.outc[c].lambda) = false) →
        exec i s = .next ((s.onFrond s.fir.frond fun f => { f with sorus := y }).upd Firing.advance)) ∧
      (∀ c : Fin 8, (x.outc[c].owns (s.rx a).toNat && rateOver (y.blockOf x.outc[c]) x.sexp x.outc[c].lambda) = true →
        (∀ j : Fin 8, j < c → (x.outc[j].owns (s.rx a).toNat && rateOver (y.blockOf x.outc[j]) x.sexp x.outc[j].lambda) = false) →
        exec i s = .next (s.trapHere { c := .boundrate, sub := c.val, val := s.rx a }))) := by
  intro x
  have hx := exec_rate_claimed hn hh hinit hi
  refine ⟨fun h => ?_, fun h hw => ?_, fun hr h h0 hw hu => ?_⟩
  · rw [hx, rateBody_leaf h]; rfl
  · rw [hx, rateBody_weight h hw]; rfl
  · rw [rateBody_put h h0 hw hu] at hx
    dsimp only at hx
    refine ⟨putWeight x.ws (s.rx a).toNat (BitVec.ofInt 48 new), ⟨fun l => ?_, putWeight_ruled hr _ _, putWeight_mem⟩, fun hall => ?_, fun c hc hb => ?_⟩
    · have hput := weightIn_putWeight hr (s.rx a).toNat (BitVec.ofInt 48 new) l
      rw [ofInt_48_toNat h0 hw] at hput
      exact hput
    · rw [hx, find_chan_none hall]; rfl
    · rw [hx, find_chan hc hb]; rfl

/-! ### NEXTEV -/

theorem State.nextev_due (hh : s.fr.sorus.holder = some s.fir.adm) (hinit : s.fr.sorus.init = true) (hi : s.Issues (.nextev d a)) {o c : Nat}
    (hd : s.fr.sorus.due = some (o, c)) :
    exec (.nextev d a) s = .next (((s.wx d (BitVec.ofNat 64 (o * 2 ^ 16 + c))).wx (d + 1) 0).upd Firing.advance) := by
  rw [exec_nextev, execNextev, plain_issues_as (descNextev_eq d a) hi, State.claimed_ok hh (.inr hinit), ok_bind, hd]
  rfl

/-- NEXTEV with nothing due, from its draws. -/
theorem State.nextev_next (hh : s.fr.sorus.holder = some s.fir.adm) (hinit : s.fr.sorus.init = true) (hi : s.Issues (.nextev d a))
    (hu : s.fr.sorus.undue) {draws : Word × Word}
    (hdr : draws = if a = 0 then halves (s.fr.sorus.rand (streamId 1 s.fr.sorus.rid) s.fr.sorus.n) else (s.rx a, s.rx (a + 1)))
    {y : Sorus} {o i dt : Nat} (hn : s.fr.sorus.next draws = (y, o, i, dt)) :
    exec (.nextev d a) s = .next (((s.onFrond s.fir.frond fun f => { f with sorus := y }).wx d (BitVec.ofNat 64 (o * 2 ^ 16 + i))).wx (d + 1)
      (BitVec.ofNat 64 dt) |>.upd Firing.advance) := by
  rw [exec_nextev, execNextev, plain_issues_as (descNextev_eq d a) hi, State.claimed_ok hh (.inr hinit), ok_bind, Sorus.due_undue hu]
  dsimp only
  rw [← hdr, hn]
  rfl

theorem setDue_eq {cs : Vector Chan 8} (c : Fin 8) : setDue cs c.val = cs.set c { cs[c] with due := true } := by
  refine Vector.ext fun i hi => ?_
  rw [setDue, Vector.getElem_mapIdx, Vector.getElem_set]
  by_cases h : i = c.val
  · subst h; simp
  · rw [if_neg h, if_neg (Ne.symm h)]

/-- The least time of a direction all of whose candidates come after t, or not before it. -/
theorem le64_leastTau {cs : Vector Chan 8} {t : Nat} (ht : fLt f64 t inf64 = true) (h : noneBefore cs t) : le64 t (leastTau cs).1 = true := by
  rcases h with h | ⟨j, hj, hle⟩
  · rw [leastTau_none h, le64, ht]; rfl
  · rw [leastTau_earliest hj]; exact hle

theorem leastTau_le64 {cs : Vector Chan 8} {t : Nat} (ht : fLt f64 t inf64 = true) (h : allAfter cs t) : le64 (leastTau cs).1 t = false := by
  rcases h with h | ⟨j, hj, hlt⟩
  · rw [leastTau_none h]; exact le64_of_fLt_swap ht
  · rw [leastTau_earliest hj]; exact le64_of_fLt_swap hlt

theorem Sorus.next_none {x : Sorus} {draws : Word × Word} {dt tn : Nat}
    (hdt : dt = if x.total = 0 then inf64 else waitTime (expVar f64 draws.2) x.total x.sexp)
    (htn : tn = if x.total = 0 then inf64 else (fAdd f64 Rnd.rne x.t.toNat dt).1) (ho : noneComing x.outc) (hi : noneComing x.inc)
    (h : tn = inf64) : x.next draws = (x, 3, 0, dt) := by
  rw [Sorus.next]
  dsimp only
  rw [← hdt, ← htn, leastTau_none ho, leastTau_none hi, h]
  rfl

theorem Sorus.next_outgoing {x : Sorus} {draws : Word × Word} {dt tn : Nat}
    (hdt : dt = if x.total = 0 then inf64 else waitTime (expVar f64 draws.2) x.total x.sexp)
    (htn : tn = if x.total = 0 then inf64 else (fAdd f64 Rnd.rne x.t.toNat dt).1) {c : Fin 8} (hc : earliest x.outc c)
    (hi : noneBefore x.inc x.outc[c].tau.toNat) (h : le64 x.outc[c].tau.toNat tn = true) :
    x.next draws = ({ x with t := x.outc[c].tau, n := x.n + 1, outc := x.outc.set c { x.outc[c] with due := true } }, 1, c.val, dt) := by
  have hinf : x.outc[c].tau.toNat ≠ inf64 := ne_inf_of_fLt hc.2.1
  have hle := le64_leastTau hc.2.1 hi
  rw [Sorus.next]
  dsimp only
  rw [← hdt, ← htn, leastTau_earliest hc]
  dsimp only
  rw [decide_eq_false hinf, Bool.false_and, Bool.false_and, if_neg Bool.false_ne_true, hle, h, if_pos (by rfl), setDue_eq, BitVec.ofNat_toNat, BitVec.setWidth_eq]

theorem Sorus.next_incoming {x : Sorus} {draws : Word × Word} {dt tn : Nat}
    (hdt : dt = if x.total = 0 then inf64 else waitTime (expVar f64 draws.2) x.total x.sexp)
    (htn : tn = if x.total = 0 then inf64 else (fAdd f64 Rnd.rne x.t.toNat dt).1) {c : Fin 8} (hc : earliest x.inc c)
    (ho : allAfter x.outc x.inc[c].tau.toNat) (h : le64 x.inc[c].tau.toNat tn = true) :
    x.next draws = ({ x with t := x.inc[c].tau, n := x.n + 1, inc := x.inc.set c { x.inc[c] with due := true } }, 2, c.val, dt) := by
  have hinf : x.inc[c].tau.toNat ≠ inf64 := ne_inf_of_fLt hc.2.1
  have hle := leastTau_le64 hc.2.1 ho
  rw [Sorus.next]
  dsimp only
  rw [← hdt, ← htn, leastTau_earliest hc]
  dsimp only
  rw [decide_eq_false hinf, Bool.and_false, Bool.false_and, if_neg Bool.false_ne_true, hle, Bool.false_and, if_neg Bool.false_ne_true, h, if_pos rfl, setDue_eq, BitVec.ofNat_toNat, BitVec.setWidth_eq]

theorem Sorus.next_leaf {x : Sorus} {draws : Word × Word} {dt tn : Nat}
    (hdt : dt = if x.total = 0 then inf64 else waitTime (expVar f64 draws.2) x.total x.sexp)
    (htn : tn = if x.total = 0 then inf64 else (fAdd f64 Rnd.rne x.t.toNat dt).1) (hf : fLt f64 tn inf64 = true)
    (ho : allAfter x.outc tn) (hi : allAfter x.inc tn) :
    x.next draws = ({ x with t := BitVec.ofNat 64 tn, n := x.n + 1 }, 0, descend x.sumFree x.log2l 0 (mulHi draws.1 x.total), dt) := by
  have hinf : tn ≠ inf64 := ne_inf_of_fLt hf
  rw [Sorus.next]
  dsimp only
  rw [← hdt, ← htn, leastTau_le64 hf ho, leastTau_le64 hf hi, Bool.and_false, if_neg (by simp [hinf]), if_neg Bool.false_ne_true,
    if_neg Bool.false_ne_true]

/-- The leaf a draw falls on (R346, R353). -/
theorem Sorus.descend_fallsOn {x : Sorus} (ht : x.total ≠ 0) (draw : Word) :
    x.fallsOn (fun m => decide (m < 2 ^ x.log2l) && x.unowned m) (draw.toNat * x.total / 2 ^ 64) (descend x.sumFree x.log2l 0 (mulHi draw x.total)) := by
  have hr : mulHi draw x.total < x.sumFree 0 x.log2l := by
    rw [show x.sumFree 0 x.log2l = x.total from rfl, mulHi]
    refine Nat.div_lt_of_lt_mul ?_
    exact Nat.mul_lt_mul_of_pos_right draw.isLt (Nat.pos_of_ne_zero ht)
  obtain ⟨-, hlt, hbelow, habove⟩ := descend_spec x.sumFree_eq x.log2l 0 _ hr
  generalize descend x.sumFree x.log2l 0 (mulHi draw x.total) = l at hlt hbelow habove ⊢
  rw [Nat.zero_add] at hlt
  have hin : ∀ k, k ≤ 2 ^ x.log2l → x.sumIn x.unowned 0 k = x.sumOf fun m => (decide (m < 2 ^ x.log2l) && x.unowned m) && decide (m < k) := by
    intro k hk
    refine Sorus.sumOf_congr fun m => ?_
    rw [Bool.and_right_comm (decide (m < 2 ^ x.log2l)), ← Bool.decide_and, ← Bool.decide_and]
    exact congrArg (· && x.unowned m) (decide_eq_decide.mpr (by omega))
  have hone := Sorus.sumIn_split (x := x) (p := x.unowned) (c := l + 1) (Nat.zero_le l) (Nat.le_succ l)
  have hmul : mulHi draw x.total = draw.toNat * x.total / 2 ^ 64 := rfl
  rw [hmul] at hbelow habove
  refine ⟨?_, ?_, ?_⟩
  · show (decide (l < 2 ^ x.log2l) && x.unowned l) = true
    rw [Sorus.sumIn_taken (by omega : 0 < x.sumIn x.unowned l (l + 1)), decide_eq_true hlt]
    rfl
  · rw [← hin l (Nat.le_of_lt hlt)]
    exact hbelow
  · rw [hin (l + 1) hlt] at habove
    simpa only [Nat.lt_succ_iff] using habove

theorem nextevClause (hh : s.fr.sorus.holder = some s.fir.adm) (hinit : s.fr.sorus.init = true) (hi : s.Issues (.nextev d a)) (hu : s.fr.sorus.undue) :
    let x := s.fr.sorus
    let total := x.sumOf fun l => decide (l < 2 ^ x.log2l) && x.unowned l
    let draw := spore x.seedlo x.seedhi x.n (BitVec.ofNat 64 (2 ^ 32 + x.rid.toNat))
    let ds := if a = 0 then draw.extractLsb' 0 64 else s.rx a
    let dt := if a = 0 then draw.extractLsb' 64 64 else s.rx (a + 1)
    let delta := if total = 0 then f64.infBits else waitTime (expVar f64 dt) total x.sexp
    let tn := if total = 0 then f64.infBits else (fAdd f64 Rnd.rne x.t.toNat delta).1
    let ends := fun (y : Sorus) (o i : Nat) => exec (.nextev d a) s =
      .next (((s.onFrond s.fir.frond fun f => { f with sorus := y }).wx d (BitVec.ofNat 64 (o * 2 ^ 16 + i))).wx (d + 1) (BitVec.ofNat 64 delta) |>.upd Firing.advance)
    (noneComing x.outc → noneComing x.inc → tn = f64.infBits → ends x 3 0) ∧
    (∀ c, earliest x.outc c → noneBefore x.inc x.outc[c].tau.toNat → le64 x.outc[c].tau.toNat tn = true →
      ends { x with t := x.outc[c].tau, n := x.n + 1, outc := x.outc.set c { x.outc[c] with due := true } } 1 c.val) ∧
    (∀ c, earliest x.inc c → allAfter x.outc x.inc[c].tau.toNat → le64 x.inc[c].tau.toNat tn = true →
      ends { x with t := x.inc[c].tau, n := x.n + 1, inc := x.inc.set c { x.inc[c] with due := true } } 2 c.val) ∧
    (total ≠ 0 → fLt f64 tn f64.infBits = true → allAfter x.outc tn → allAfter x.inc tn →
      ∃ l, ends { x with t := BitVec.ofNat 64 tn, n := x.n + 1 } 0 l ∧
        x.fallsOn (fun m => decide (m < 2 ^ x.log2l) && x.unowned m) (ds.toNat * total / 2 ^ 64) l) := by
  intro x total draw ds dt delta tn ends
  have hdraws : ((ds, dt) : Word × Word) =
      if a = 0 then halves (x.rand (streamId 1 x.rid) x.n) else (s.rx a, s.rx (a + 1)) := by
    have hrand : x.rand (streamId 1 x.rid) x.n = draw := by
      rw [Sorus.rand, streamId, Nat.one_mul]
    rw [hrand]
    by_cases h : a = 0
    · simp only [ds, dt, if_pos h, halves]
    · simp only [ds, dt, if_neg h]
  have htotal : x.total = total := x.total_eq
  have hdelta : delta = if x.total = 0 then inf64 else waitTime (expVar f64 (ds, dt).2) x.total x.sexp := by rw [htotal]; rfl
  have htn : tn = if x.total = 0 then inf64 else (fAdd f64 Rnd.rne x.t.toNat delta).1 := by rw [htotal]; rfl
  have hend : ∀ {y : Sorus} {o i : Nat}, x.next (ds, dt) = (y, o, i, delta) → ends y o i := fun hn => State.nextev_next hh hinit hi hu hdraws hn
  refine ⟨fun ho hin h => hend (Sorus.next_none hdelta htn ho hin h), fun c hc hin h => hend (Sorus.next_outgoing hdelta htn hc hin h),
    fun c hc ho h => hend (Sorus.next_incoming hdelta htn hc ho h), fun ht hf ho hin => ⟨_, hend (Sorus.next_leaf hdelta htn hf ho hin), ?_⟩⟩
  rw [← htotal] at ht ⊢
  exact Sorus.descend_fallsOn ht ds

/-! ### SWRD and SCLK -/

/-- Which channels of a list are active, one bit each, as a sum (R362). -/
theorem packNat_acts (l : List Chan) : packNat 1 (l.map fun c => c.act.toNat) =
    ((List.range l.length).map fun j => if (l[j]?.map Chan.act) = some true then 2 ^ j else 0).sum := by
  induction l with
  | nil => rfl
  | cons c l ih =>
    have hshift : (List.range l.length).map (fun j => if ((c :: l)[j + 1]?.map Chan.act) = some true then 2 ^ (j + 1) else 0) =
        (List.range l.length).map fun j => 2 * if (l[j]?.map Chan.act) = some true then 2 ^ j else 0 := by
      refine List.map_congr_left fun j _ => ?_
      rw [List.getElem?_cons_succ, mul_ite, Nat.mul_zero, Nat.pow_succ, Nat.mul_comm]
    rw [List.map_cons, packNat, ih, List.length_cons, List.range_succ_eq_map, List.map_cons, List.map_map, List.sum_cons]
    refine congrArg₂ (· + ·) ?_ ?_
    · rw [List.getElem?_cons_zero, Option.map_some]
      cases c.act <;> rfl
    · rw [show ((fun j => if ((c :: l)[j]?.map Chan.act) = some true then 2 ^ j else 0) ∘ Nat.succ) =
        fun j => if ((c :: l)[j + 1]?.map Chan.act) = some true then 2 ^ (j + 1) else 0 from rfl, hshift, List.sum_map_mul_left, Nat.pow_one]

theorem packNat_active (cs : Vector Chan 8) : packNat 1 (cs.toList.map fun c => c.act.toNat) =
    ((List.range 8).map fun j => if (cs.toList[j]?.map Chan.act) = some true then 2 ^ j else 0).sum := by
  rw [packNat_acts, Vector.length_toList]

/-- What SWRD reads of one channel, by the index. -/
theorem ofChan_eq (cs : Vector Chan 8) (g : Chan → Word) (i : Word) :
    (if h : i.toNat < 8 then (Except.ok (if cs[i.toNat].act then g cs[i.toNat] else 0) : Except Stop Word) else raiseSub .prot 3 i) =
      match (cs.toList[i.toNat]?).map fun c => if c.act then g c else 0 with
      | some v => .ok v
      | none => raiseSub .prot 3 i := by
  by_cases h : i.toNat < 8
  · rw [dif_pos h, List.getElem?_eq_getElem (by simpa using h)]
    simp
  · rw [dif_neg h, List.getElem?_eq_none (by simpa using h)]
    rfl

/-- What SWRD looks up before it writes its destination. -/
def Sorus.lookup (x : Sorus) (sel : Nat) (i : Word) : Except Stop Word :=
  let mask (cs : Vector Chan 8) : Nat := packNat 1 (cs.toList.map fun c => c.act.toNat)
  let chan (cs : Vector Chan 8) (g : Chan → Word) : Except Stop Word :=
    if h : i.toNat < 8 then .ok (if cs[i.toNat].act then g cs[i.toNat] else 0) else raiseSub .prot 3 i
  match sel with
  | 0 => if x.leaves ≤ i.toNat then raiseSub .prot 3 i else Except.ok (BitVec.ofNat 64 (x.weight i.toNat))
  | 1 => .ok (BitVec.ofNat 64 x.total)
  | 2 => chan x.outc fun c => BitVec.ofNat 64 (x.blockSum c)
  | 3 => chan x.outc Chan.tau
  | 4 => chan x.inc Chan.tau
  | 5 => chan x.outc Chan.k
  | 6 => chan x.inc Chan.k
  | 7 => .ok (BitVec.ofNat 64 (x.rid.toNat * 2 ^ 32 + mask x.outc * 2 ^ 24 + mask x.inc * 2 ^ 16 + 2 ^ 15
      + toBits 7 x.sexp * 2 ^ 8 + x.log2l))
  | _ => chan x.inc fun c => BitVec.ofNat 64 c.queue.length

theorem exec_swrd_lookup (hh : s.fr.sorus.holder = some s.fir.adm) (hinit : s.fr.sorus.init = true) (hi : s.Issues (.swrd d a sel)) :
    exec (.swrd d a sel) s = finish s ((s.fr.sorus.lookup sel.toNat (s.rx a)).bind fun v => .ok (.done (s.wx d v))) := by
  rw [exec_swrd, execSwrd, plain_issues_as (descSwrd_eq d a sel) hi, State.claimed_ok hh (.inr hinit), ok_bind]
  dsimp only
  generalize sel.toNat = n
  rcases n with _ | _ | _ | _ | _ | _ | _ | _ | n
  · rw [Sorus.lookup]
    split_ifs <;> rfl
  all_goals rfl

theorem Sorus.lookup_eq (x : Sorus) {n : Nat} (hn : n ≤ 8) (i : Word) :
    x.lookup n i = match x.told n i with
      | some v => .ok v
      | none => raiseSub .prot 3 i := by
  have hcases : n = 0 ∨ n = 1 ∨ n = 2 ∨ n = 3 ∨ n = 4 ∨ n = 5 ∨ n = 6 ∨ n = 7 ∨ n = 8 := by omega
  rcases hcases with rfl | rfl | rfl | rfl | rfl | rfl | rfl | rfl | rfl
  · rw [Sorus.lookup, Sorus.told]
    by_cases h : i.toNat < 2 ^ x.log2l
    · rw [if_pos h, if_neg (show ¬x.leaves ≤ i.toNat from Nat.not_le.mpr h)]
    · rw [if_neg h, if_pos (show x.leaves ≤ i.toNat from Nat.not_lt.mp h)]
  · rw [Sorus.lookup, Sorus.told, Sorus.total_eq]
  · rw [Sorus.lookup, Sorus.told]
    simp only [Sorus.blockSum_eq]
    exact ofChan_eq x.outc (fun c => BitVec.ofNat 64 (x.blockOf c)) i
  · exact ofChan_eq ..
  · exact ofChan_eq ..
  · exact ofChan_eq ..
  · exact ofChan_eq ..
  · rw [Sorus.lookup, Sorus.told]
    dsimp only
    rw [packNat_active, packNat_active]
    rfl
  · exact ofChan_eq x.inc (fun c => BitVec.ofNat 64 c.queue.length) i

theorem swrd_selector (hi : s.Issues (.swrd d a sel)) : sel.toNat ≤ 8 := by
  obtain ⟨-, -, hl, -, -⟩ := hi
  show _ ≤ 8
  have hl' : ((decide (sel.toNat ≤ 8) && overlapOk false (descSwrd d a sel).ops) && overlapOk false (descSwrd d a sel).ops) = true := hl
  exact of_decide_eq_true (Bool.and_eq_true_iff.mp (Bool.and_eq_true_iff.mp hl').1).1

theorem swrdClause (hh : s.fr.sorus.holder = some s.fir.adm) (hinit : s.fr.sorus.init = true) (hi : s.Issues (.swrd d a sel)) :
    (∀ v, s.fr.sorus.told sel.toNat (s.rx a) = some v → exec (.swrd d a sel) s = .next ((s.wx d v).upd Firing.advance)) ∧
    (s.fr.sorus.told sel.toNat (s.rx a) = none → exec (.swrd d a sel) s = .next (s.trapHere { c := .prot, sub := 3, val := s.rx a })) := by
  rw [exec_swrd_lookup hh hinit hi, Sorus.lookup_eq _ (swrd_selector hi)]
  refine ⟨fun v hv => ?_, fun hn => ?_⟩
  · rw [hv]; rfl
  · rw [hn]; rfl

theorem sclkClause (hh : s.fr.sorus.holder = some s.fir.adm) (hinit : s.fr.sorus.init = true) (hi : s.Issues (.sclk d)) :
    exec (.sclk d) s = .next (((s.wx d s.fr.sorus.t).wx (d + 1) s.fr.sorus.n).upd Firing.advance) := by
  rw [exec_sclk, execSclk, plain_issues_as (descSclk_eq d) hi, State.claimed_ok hh (.inr hinit)]
  rfl

end

/-- Settles O39. -/
theorem sorusRegions : Obligations.SorusRegions := by
  unfold Obligations.SorusRegions
  intro s d a b sel
  refine ⟨fun i hm hi hb => ⟨fun hh => ?_, fun hh hinit hs => ?_⟩, fun hh => ⟨fun t w hi h => sinitClause hh hi h, fun hi h => sinit_address hh hi h⟩,
    fun hh hinit => ⟨fun i new hn hi => rateClause hn hh hinit hi, fun hi hu => nextevClause hh hinit hi hu, fun hi c => ⟨fun ha hd hbe => ?_, fun ha hd ho hbe => ?_⟩,
      fun hi => swrdClause hh hinit hi, fun hi => sclkClause hh hinit hi⟩⟩
  · exact sorus_claim_trap hm hi hb (fun _ => State.claimed_other hh true) fun _ => State.claimed_other hh false
  · exact sorus_claim_trap hm hi hb (fun _ => State.claimed_blank hh hinit) fun h => absurd h hs
  · rw [State.nextev_due hh hinit hi (Sorus.due_outgoing ha hd hbe), Nat.one_mul]
  · rw [State.nextev_due hh hinit hi (Sorus.due_incoming ha hd ho hbe), ← Nat.pow_succ']

end Sys2Proof.Machine
end

section
/-! PROOF. A bank operation of another package on five bytes is not aligned at its owner (R163, R224). -/

namespace Sys2Proof.Machine

set_option Elab.async false

/-- An atomic of 5 bytes at the start of a partition's shared memory. Its offset is a multiple of 5, its address is not. -/
def oddAtomic : InReq :=
  { stream := 0, seq := 0, pkg := 1, core := 0, tag := 0, part := 0, req := .bank (.amo 0 5), addr := 0x1FF2 * 2 ^ 44, n := 5, v := 0, w := 0,
    again := false }

/-- Its owner, with the request in hand. -/
def oddOwner : State :=
  { State.reset with parts := State.reset.parts.set 0 { Part.reset with shmlen := 0x1000 }, inreqs := [oddAtomic], ev := Ev.blank }

theorem oddOwner_sent : (nextOf (exec .remoteRequestPerform oddOwner)).map State.sent = some [.answer 1 0 0 3 0 0] := by decide +kernel

/-- Refutes O52: the request is refused with ALIGN, for the size of an atomic is any number in the model and 5 does not divide the address. -/
theorem not_ownerSide : ¬ Obligations.OwnerSide := by
  unfold Obligations.OwnerSide
  intro h
  obtain ⟨hshared, -⟩ := h oddOwner 0 rfl
  have hnext : oddOwner.hasNext oddAtomic 0 := ⟨rfl, rfl, rfl, rfl, by decide, .inr ⟨rfl, rfl⟩⟩
  have hnone : oddOwner.noHeader (shmKey 0) 64 := by
    have hnil : oddOwner.headers = [] := by decide +kernel
    rw [State.noHeader, hnil]
    exact fun a ha => absurd ha List.not_mem_nil
  obtain ⟨-, -, hbank, -⟩ := hshared oddAtomic 0 hnext rfl (by decide) hnone (.inl fun _ => nofun) (.inl fun _ => nofun)
  obtain ⟨v, hexec, -, hanswers, -⟩ := hbank (.amo 0 5) rfl rfl rfl (by decide +kernel) fun x hx => absurd hx List.not_mem_nil
  obtain ⟨-, -, -, -, hsent⟩ := hanswers
  have hgot := oddOwner_sent
  rw [hexec, nextOf, Option.map_some, hsent] at hgot
  injection hgot with hgot
  injection hgot with hgot
  injection hgot with _ _ _ hcode
  exact absurd hcode (by decide)

end Sys2Proof.Machine
end

section
/-! PROOF. Keys, lanes, training and the loss of a peer at the Absan Link ports (R161, R383 to R389). -/

namespace Sys2Proof.Machine

/-! ### Ports -/

@[simp] theorem portNo_val (p : Fin 18) : portNo p.val = p := Fin.ext (Nat.mod_eq_of_lt p.isLt)

theorem State.onPort_eq (s : State) (p : Fin 18) (g : Port → Port) : s.onPort p g = s.withPort p (g s.ports[p]) := rfl

theorem Port.lanes_eq (x : Port) (low : Bool) : x.lanes low = lanesOf x.split x.healthy low := by
  unfold Port.lanes lanesOf
  dsimp only
  by_cases hs : x.split ≠ 0
  · rw [if_pos hs, if_pos hs]
  · rw [if_neg hs, if_neg hs]
    by_cases hn : x.healthy < 8
    · rw [if_pos hn]
    · have hone : min 4 ((x.healthy + 1) / 2) = 4 := by omega
      have hother : min 4 (x.healthy - 4) = 4 := by omega
      rw [if_neg hn, hone, hother, ite_self]

theorem Port.assign_eq (x : Port) (low : Bool) : x.assign low =
    { x with
      actout := (lanesOf x.split x.healthy low).1, actin := (lanesOf x.split x.healthy low).2
      spareOut := decide ((lanesOf x.split x.healthy low).1 + (lanesOf x.split x.healthy low).2 < x.healthy)
      spareIn := decide ((lanesOf x.split x.healthy low).1 + (lanesOf x.split x.healthy low).2 + 1 < x.healthy) } := by
  rw [← Port.lanes_eq]
  rfl

section
variable {s : State} {p : Fin 18}

theorem exec_keySwitch_port (hp : s.ev.a = p.val) :
    (∀ k salt, s.ports[p].staged = some (k, salt) → exec .keySwitch s = .next (s.withPort p { s.ports[p] with
      key := k, salt := salt, ctr := 0, staged := none, state := if s.ports[p].state = 3 then 2 else s.ports[p].state })) ∧
    (s.ports[p].staged = none → exec .keySwitch s = .next (s.withPort p s.ports[p])) := by
  rw [exec_keySwitch, execKeySwitch, hp, portNo_val, State.onPort_eq]
  generalize s.ports[p] = x
  refine ⟨fun k salt h => ?_, fun h => ?_⟩
  · rw [h]
  · rw [h]

theorem exec_keywarn_port (hp : s.ev.a = p.val) : exec .keywarn s =
    .next { s.withPort p { s.ports[p] with ctr := max s.ports[p].ctr (2 ^ 47), keywarn := true } with sent := s.sent ++ [.msix (16 + p.val)] } := by
  rw [exec_keywarn, execKeywarn, hp, portNo_val]
  rfl

theorem exec_keystarved_port (hp : s.ev.a = p.val) (hn : s.ports[p].staged = none) (h2 : s.ports[p].state = 2) :
    exec .keystarved s = .next (s.withPort p { s.ports[p] with ctr := 2 ^ 48 - 1, state := 3 }) := by
  rw [exec_keystarved, execKeystarved, hp, portNo_val, State.onPort_eq, if_pos (by rw [hn, h2]; rfl)]

theorem exec_linkErrorReplay_cases : (s.ev.v = 0 → exec .linkErrorReplay s = .next s) ∧
    (s.ev.v ≠ 0 → exec .linkErrorReplay s = .next { s with agenda := s.agenda ++ [agendaEv .bankOpResend s.ev.b s.ev.c 0 0] }) := by
  rw [exec_linkErrorReplay, execLinkErrorReplay]
  refine ⟨fun h => ?_, fun h => ?_⟩
  · rw [if_pos h]
  · rw [if_neg h]
    rfl

theorem exec_retrainComplete_port (hp : s.ev.a = p.val) (h1 : s.ports[p].state = 1) : exec .retrainComplete s =
    .next (s.withPort p { s.ports[p] with
      state := if s.ports[p].actout = 0 ∨ s.ports[p].actin = 0 ∨ s.ports[p].peer = none then 0
        else if s.ports[p].ctr = 2 ^ 48 - 1 ∧ s.ports[p].staged = none then 3 else 2
      trained := true
      retrains := if s.ev.b = 1 then s.ports[p].retrains + 1 else s.ports[p].retrains }) := by
  rw [exec_retrainComplete, execRetrainComplete, hp, portNo_val, State.onPort_eq]
  generalize s.ports[p] = x at *
  simp only [h1, ne_eq, not_true_eq_false, if_false, Bool.or_eq_true, Bool.and_eq_true, decide_eq_true_eq, Option.isNone_iff_eq_none, or_assoc]

/-! ### A lane that fails -/

/-- What a failed lane leaves of a port's lanes, inbound when b is 1, the spare when c is 1 (R383, R384). -/
def Port.laneLost (x y : Port) (b c : Nat) (low : Bool) : Prop :=
  (x.split = 0 → 9 ≤ x.healthy →
    ((c = 1 ∨ (b = 1 ∧ x.spareIn = true) ∨ (¬ b = 1 ∧ x.spareOut = true)) →
      (y.actout, y.actin) = (x.actout, x.actin) ∧ (b = 1 → y.spareIn = false ∧ y.spareOut = x.spareOut) ∧
        (¬ b = 1 → y.spareOut = false ∧ y.spareIn = x.spareIn)) ∧
    (¬ (c = 1 ∨ (b = 1 ∧ x.spareIn = true) ∨ (¬ b = 1 ∧ x.spareOut = true)) →
      (y.spareOut, y.spareIn) = (x.spareOut, x.spareIn) ∧
        (y.actout, y.actin) = if b = 1 then (x.actout, x.actin - 1) else (x.actout - 1, x.actin))) ∧
  (x.split ≠ 0 ∨ x.healthy < 9 → (y.actout, y.actin) = lanesOf x.split (x.healthy - 1) low ∧
    y.spareOut = decide (y.actout + y.actin < y.healthy) ∧ y.spareIn = decide (y.actout + y.actin + 1 < y.healthy))

/-- The port differs only in its lanes and its state. -/
def Port.lanesOnly (x y : Port) : Prop :=
  y = { x with healthy := y.healthy, actout := y.actout, actin := y.actin, spareOut := y.spareOut, spareIn := y.spareIn, state := y.state }

theorem Port.lanesOnly_state {x q : Port} (h : x.lanesOnly q) (n : Nat) : x.lanesOnly { q with state := n } := by
  unfold Port.lanesOnly at h ⊢
  exact congrArg (fun z : Port => { z with state := n }) h

theorem Port.failLane_assigned {x : Port} {inb idle low : Bool} (h : x.split ≠ 0 ∨ x.healthy < 9) :
    x.failLane inb idle low = ({ x with healthy := x.healthy - 1 } : Port).assign low := by
  have hc : (decide (x.healthy - 1 < 8) || decide (x.split ≠ 0)) = true := by
    rw [← Bool.decide_or]
    exact decide_eq_true (by omega)
  rw [Port.failLane]
  exact if_pos hc

theorem Port.failLane_spare {x : Port} {inb idle low : Bool} (h : x.split = 0) (h9 : 9 ≤ x.healthy) :
    x.failLane inb idle low =
      if inb then (if idle || x.spareIn then { x with healthy := x.healthy - 1, spareIn := false }
        else { x with healthy := x.healthy - 1, actin := x.actin - 1 })
      else if idle || x.spareOut then { x with healthy := x.healthy - 1, spareOut := false }
        else { x with healthy := x.healthy - 1, actout := x.actout - 1 } := by
  have hc : ¬(decide (x.healthy - 1 < 8) || decide (x.split ≠ 0)) = true := by
    rw [← Bool.decide_or, decide_eq_true_eq]
    omega
  rw [Port.failLane]
  exact if_neg hc

theorem Port.failLane_laneLost (x : Port) (b c : Nat) (low : Bool) :
    (x.failLane (b == 1) (c == 1) low).healthy = x.healthy - 1 ∧ (x.failLane (b == 1) (c == 1) low).state = x.state ∧
      x.lanesOnly (x.failLane (b == 1) (c == 1) low) ∧ x.laneLost (x.failLane (b == 1) (c == 1) low) b c low := by
  by_cases h : x.split ≠ 0 ∨ x.healthy < 9
  · rw [Port.failLane_assigned h, Port.assign_eq]
    exact ⟨rfl, rfl, rfl, fun h0 h9 => absurd h (by omega), fun _ => ⟨rfl, rfl, rfl⟩⟩
  · have h0 : x.split = 0 := by omega
    have h9 : 9 ≤ x.healthy := by omega
    rw [Port.failLane_spare h0 h9]
    refine ⟨?_, ?_, ?_, fun _ _ => ?_, fun hn => absurd hn h⟩
    · split_ifs <;> rfl
    · split_ifs <;> rfl
    · rw [Port.lanesOnly]
      split_ifs <;> rfl
    · by_cases hb : b = 1 <;> by_cases hc : c = 1 <;> cases x.spareIn <;> cases x.spareOut <;> simp [hb, hc]

theorem exec_laneFail_port (hp : s.ev.a = p.val) : exec .laneFail s =
    let x := s.ports[p]
    let q := x.failLane (s.ev.b == 1) (s.ev.c == 1) (s.lower x)
    let moved := !(s.ev.c == 1) || (x.actout, x.actin) != (q.actout, q.actin)
    if moved && (x.state == 2 || x.state == 3) then
      .next { s.withPort p { q with state := 1 } with agenda := s.agenda ++ [agendaEv .retrainComplete p.val 1 0 0] }
    else .next (s.withPort p q) := by
  have hn : portNo s.ev.a = p := by rw [hp, portNo_val]
  rw [exec_laneFail, execLaneFail]
  simp only [hn]
  rfl

theorem laneFail_moves {x q : Port} {c : Nat} :
    ((!(c == 1) || (x.actout, x.actin) != (q.actout, q.actin)) && (x.state == 2 || x.state == 3)) = true ↔
      (c ≠ 1 ∨ (q.actout, q.actin) ≠ (x.actout, x.actin)) ∧ (x.state = 2 ∨ x.state = 3) := by
  rw [Bool.and_eq_true, Bool.or_eq_true, Bool.or_eq_true, beq_iff_eq, beq_iff_eq, bne_iff_ne, ne_comm (a := (x.actout, x.actin)), Bool.not_eq_true',
    beq_eq_false_iff_ne]

theorem laneFail_clause (hp : s.ev.a = p.val) :
    let x := s.ports[p]
    let low := x.peer.any fun q => decide (s.dev.pkg < q)
    ∃ y : Port, y.healthy = x.healthy - 1 ∧ x.lanesOnly y ∧ x.laneLost y s.ev.b s.ev.c low ∧
      ((s.ev.c ≠ 1 ∨ (y.actout, y.actin) ≠ (x.actout, x.actin)) ∧ (x.state = 2 ∨ x.state = 3) → y.state = 1 ∧
        exec .laneFail s = .next { s.withPort p y with agenda := s.agenda ++ [agendaEv .retrainComplete p.val 1 0 0] }) ∧
      (¬ ((s.ev.c ≠ 1 ∨ (y.actout, y.actin) ≠ (x.actout, x.actin)) ∧ (x.state = 2 ∨ x.state = 3)) → y.state = x.state ∧
        exec .laneFail s = .next (s.withPort p y)) := by
  intro x low
  have hx : exec .laneFail s = _ := exec_laneFail_port hp
  obtain ⟨hh, hst, hlanes, hlost⟩ := x.failLane_laneLost s.ev.b s.ev.c low
  dsimp only at hx
  rw [show s.lower s.ports[p] = low from rfl, show s.ports[p] = x from rfl] at hx
  generalize x.failLane (s.ev.b == 1) (s.ev.c == 1) low = q at hh hst hlanes hlost hx
  by_cases hm : (s.ev.c ≠ 1 ∨ (q.actout, q.actin) ≠ (x.actout, x.actin)) ∧ (x.state = 2 ∨ x.state = 3)
  · rw [if_pos (laneFail_moves.mpr hm)] at hx
    exact ⟨{ q with state := 1 }, hh, Port.lanesOnly_state hlanes 1, hlost, fun _ => ⟨rfl, hx⟩, fun h => absurd hm h⟩
  · rw [if_neg (laneFail_moves.not.mpr hm)] at hx
    exact ⟨q, hh, hlanes, hlost, fun h => absurd h hm, fun _ => ⟨hst, hx⟩⟩

/-! ### Enabling, disabling and SPLIT (R384, R386, R394) -/

/-- A port's EN bit. -/
theorem portReg_reads (p : Fin 18) (r : Nat) (hr : r < 8) :
    let o := 0x4000000 + 0x1000 * p.val + 8 * r
    o / 8 * 8 = o ∧ ¬(0x3000000 ≤ o ∧ o < 0x3000018) ∧ ¬(0x3010000 ≤ o ∧ o < 0x3020000) ∧ ¬ o < 0x4000 ∧ ¬(0x1000000 ≤ o ∧ o < 0x2000000) ∧
      (0x4000000 ≤ o ∧ o < 0x4012000) ∧ (o - 0x4000000) / 0x1000 = p.val ∧ o % 0x1000 / 8 = r := by
  have := p.isLt
  dsimp only
  omega

theorem State.ctlWrite_port (hs : s.dev.stage = 3) (p : Fin 18) (r : Nat) (hr : r < 8) (mask v : Word) :
    s.ctlWrite (0x4000000 + 0x1000 * p.val + 8 * r) mask v = s.writePort p r mask v := by
  obtain ⟨-, h1, h2, h3, h4, h5, h6, h7⟩ := portReg_reads p r hr
  generalize 0x4000000 + 0x1000 * p.val + 8 * r = o at *
  rw [State.ctlWrite, if_neg h1, if_neg h2, if_neg (by rw [hs]; exact not_not_intro rfl), dif_neg h3, dif_neg h4, dif_pos h5, h7]
  exact congrArg (fun q => s.writePort q r mask v) (Fin.ext h6)

theorem State.reaches_of (hs : s.dev.stage = 3) {by_ : Nat} (h : by_ = 1 ∨ s.dev.hostUp = true) : s.reaches by_ = true := by
  rw [State.reaches, hs]
  by_cases hb : by_ = 1
  · rw [if_pos hb]; rfl
  · rw [if_neg hb]; exact h.resolve_left hb

theorem exec_alctlWrite_port (hp : s.ev.a = p.val) (hs : s.dev.stage = 3) (h : s.ev.b = 1 ∨ s.dev.hostUp = true) :
    exec .alctlWrite s = .next (s.writeAlctl p (BitVec.allOnes 64) s.ev.v) := by
  have hk : keyReg (0x4000000 + 0x1000 * p.val) = false := by
    obtain ⟨-, -, -, -, -, -, -, h7⟩ := portReg_reads p 0 (by decide)
    rw [keyReg, show 0x4000000 + 0x1000 * p.val = 0x4000000 + 0x1000 * p.val + 8 * 0 from rfl, h7]
    simp
  obtain ⟨hal, -⟩ := portReg_reads p 0 (by decide)
  have hw : s.ctlWrite (0x4000000 + 0x1000 * p.val) _ _ = s.writePort p 0 (BitVec.allOnes 64) s.ev.v := s.ctlWrite_port hs p 0 (by decide) _ _
  rw [exec_alctlWrite, execAlctlWrite, hp, portNo_val, State.regWrite, State.reaches_of hs h, hk, Bool.and_false, if_neg (by decide),
    show (0x4000000 + 0x1000 * p.val) / 8 * 8 = 0x4000000 + 0x1000 * p.val from hal, hw]
  rfl

/-- What an ALCTL write makes of a port before its lanes move (R384, R386). -/
def Port.alctl (x : Port) (en : Bool) (split : Nat) (low : Bool) : Port :=
  let y : Port := { x with en := en, split := split, state := if en then (if x.en then x.state else 1) else 0 }
  if x.split != split || (en && !x.en && decide (y.healthy < 8)) then y.assign low else y

theorem Port.alctl_fields (x : Port) (en : Bool) (split : Nat) (low : Bool) :
    let y := x.alctl en split low
    y.en = en ∧ y.split = split ∧ (y.state = if en then (if x.en then x.state else 1) else 0) ∧ y.key = x.key ∧ y.peer = x.peer := by
  dsimp only
  unfold Port.alctl
  generalize (if en then (if x.en then x.state else 1) else 0) = st
  dsimp only
  split_ifs <;> exact ⟨rfl, rfl, rfl, rfl, rfl⟩

/-- A port another port's loss of a peer does not wait for (R389). -/
def State.portBack (s : State) (peer : Option Nat) (z : Port × Nat) : Bool :=
  z.1.peer != peer || !bit s.dev.portMask z.2 || (z.1.en && z.1.state != 4)

/-- The port as an ALCTL write leaves it. -/
def Port.alctlMoved (x : Port) (en : Bool) (split : Nat) (low : Bool) : Port :=
  let y := x.alctl en split low
  if en && x.en && ((x.actout, x.actin) != (y.actout, y.actin)) && y.state != 4 then { y with state := 1 } else y

theorem bits_low3 (v : Word) : bits v 2 0 = v.toNat % 8 := by rw [bits, Nat.pow_zero, Nat.div_one]; rfl

/-- The machine after an ALCTL write that leaves EN and SPLIT as given. -/
def State.alctlDone (s : State) (p : Fin 18) (en : Bool) (split : Nat) : State :=
  let x := s.ports[p]
  let y := x.alctl en split (s.lower x)
  let z := x.alctlMoved en split (s.lower x)
  let t := s.withPort p z
  let u : State := match x.peer with
    | some q => if en && !x.en && t.ports.toList.zipIdx.all (s.portBack x.peer) then { t with lost := t.lost.filter fun r => r != q } else t
    | none => t
  if z.state = 1 && (((x.actout, x.actin) != (y.actout, y.actin)) || !x.en) then u.push .retrainComplete p.val x.en.toNat 0 0 else u

theorem State.writeAlctl_done (s : State) (p : Fin 18) (mask v : Word) : s.writeAlctl p mask v =
    s.alctlDone p ((if bit mask 63 then bit v 63 else s.ports[p].en) && bit s.dev.portMask p.val)
      (if bit mask 0 then bits v 2 0 else s.ports[p].split) := rfl

theorem State.writeAlctl_eq (s : State) (p : Fin 18) (v : Word) {en : Bool} (he : (bit v 63 && bit s.dev.portMask p.val) = en) :
    s.writeAlctl p (BitVec.allOnes 64) v = s.alctlDone p en (v.toNat % 8) := by
  have h63 : bit (BitVec.allOnes 64) 63 = true := by decide
  have h0 : bit (BitVec.allOnes 64) 0 = true := by decide
  rw [State.writeAlctl_done, h63, h0, if_pos rfl, if_pos rfl, he, bits_low3]

theorem alctl_disabled {v : Word} (he : (bit v 63 && bit s.dev.portMask p.val) = false) :
    ∃ y, s.writeAlctl p (BitVec.allOnes 64) v = s.withPort p y ∧ y.en = false ∧ y.state = 0 ∧ y.split = v.toNat % 8 := by
  obtain ⟨hen, hsp, hst, -, -⟩ := s.ports[p].alctl_fields false (v.toNat % 8) (s.lower s.ports[p])
  have hz : s.ports[p].alctlMoved false (v.toNat % 8) (s.lower s.ports[p]) = s.ports[p].alctl false (v.toNat % 8) (s.lower s.ports[p]) := rfl
  rw [State.writeAlctl_eq s p v he, State.alctlDone, hz]
  generalize s.ports[p].alctl false (v.toNat % 8) (s.lower s.ports[p]) = y at hen hsp hst ⊢
  have hst0 : y.state = 0 := hst
  refine ⟨y, ?_, hen, hst0, hsp⟩
  rw [if_neg (by rw [hst0]; simp)]
  cases s.ports[p].peer <;> rfl

/-- A numbered port is one of the eighteen. -/
theorem mem_zipIdx_port {ps : Vector Port 18} {y : Port × Nat} : y ∈ ps.toList.zipIdx ↔ ∃ q : Fin 18, y = (ps[q], q.val) := by
  refine ⟨fun h => ?_, ?_⟩
  · obtain ⟨i, hi, rfl⟩ := List.getElem_of_mem h
    rw [List.length_zipIdx, Vector.length_toList] at hi
    exact ⟨⟨i, hi⟩, by simp⟩
  · rintro ⟨q, rfl⟩
    have hl : q.val < ps.toList.zipIdx.length := by simp
    have hget : ps.toList.zipIdx[q.val] = (ps[q], q.val) := by simp
    exact hget ▸ List.getElem_mem hl

theorem withPort_ports_self (s : State) (p : Fin 18) (z : Port) : (s.withPort p z).ports[p] = z := Vector.getElem_set_self p.isLt

theorem withPort_ports_ne (s : State) {p q : Fin 18} (h : q ≠ p) (z : Port) : (s.withPort p z).ports[q] = s.ports[q] :=
  Vector.getElem_set_ne p.isLt q.isLt (Ne.symm (Fin.val_ne_of_ne h))

theorem portsBack_iff {z : Port} (hen : z.en = true) (hst : z.state = 1) :
    (s.withPort p z).ports.toList.zipIdx.all (s.portBack s.ports[p].peer) = true ↔
      ∀ q : Fin 18, q ≠ p → s.ports[q].peer = s.ports[p].peer → s.dev.portMask.getLsbD q.val = true → s.ports[q].en = true ∧ s.ports[q].state ≠ 4 := by
  have hback : ∀ q : Fin 18, s.portBack s.ports[p].peer (s.ports[q], q.val) = true ↔
      (s.ports[q].peer = s.ports[p].peer → s.dev.portMask.getLsbD q.val = true → s.ports[q].en = true ∧ s.ports[q].state ≠ 4) := by
    intro q
    rw [State.portBack, Bool.or_eq_true, Bool.or_eq_true, Bool.and_eq_true, bne_iff_ne, bne_iff_ne, Bool.not_eq_true', bit, or_assoc]
    rw [← imp_iff_not_or, ← Bool.not_eq_true, ← imp_iff_not_or]
  rw [List.all_eq_true]
  refine ⟨fun h q hq => ?_, fun h y hy => ?_⟩
  · have hm := h ((s.withPort p z).ports[q], q.val) (mem_zipIdx_port.mpr ⟨q, rfl⟩)
    rw [withPort_ports_ne s hq] at hm
    exact (hback q).mp hm
  · obtain ⟨q, rfl⟩ := mem_zipIdx_port.mp hy
    by_cases hq : q = p
    · subst hq
      rw [withPort_ports_self, State.portBack, hen, hst]
      simp
    · rw [withPort_ports_ne s hq]
      exact (hback q).mpr (h q hq)

theorem filter_ne_none (l : List Nat) : l.filter (fun r => some r != none) = l := List.filter_eq_self.mpr fun _ _ => rfl

theorem alctl_enabled {v : Word} (he : (bit v 63 && bit s.dev.portMask p.val) = true) (hx : s.ports[p].en = false) :
    ∃ y, y.en = true ∧ y.state = 1 ∧ y.split = v.toNat % 8 ∧ y.key = s.ports[p].key ∧ y.peer = s.ports[p].peer ∧
      s.writeAlctl p (BitVec.allOnes 64) v =
        { { s.withPort p y with lost :=
            if (∀ q : Fin 18, q ≠ p → s.ports[q].peer = s.ports[p].peer → s.dev.portMask.getLsbD q.val = true →
              s.ports[q].en = true ∧ s.ports[q].state ≠ 4) then s.lost.filter (fun r => some r != s.ports[p].peer) else s.lost } with
          agenda := s.agenda ++ [agendaEv .retrainComplete p.val 0 0 0] } := by
  obtain ⟨hen, hsp, hst, hkey, hpeer⟩ := s.ports[p].alctl_fields true (v.toNat % 8) (s.lower s.ports[p])
  have hz : s.ports[p].alctlMoved true (v.toNat % 8) (s.lower s.ports[p]) = s.ports[p].alctl true (v.toNat % 8) (s.lower s.ports[p]) := by
    rw [Port.alctlMoved, hx]; rfl
  rw [State.writeAlctl_eq s p v he, State.alctlDone]
  dsimp only
  rw [hz]
  generalize s.ports[p].alctl true (v.toNat % 8) (s.lower s.ports[p]) = y at hen hsp hst hkey hpeer ⊢
  have hst1 : y.state = 1 := by rw [hst, hx]; rfl
  refine ⟨y, hen, hst1, hsp, hkey, hpeer, ?_⟩
  have hback := portsBack_iff (s := s) (p := p) hen hst1
  rw [if_pos (by rw [hst1, hx]; simp), hx]
  generalize ((s.withPort p y).ports.toList.zipIdx.all (s.portBack s.ports[p].peer)) = back at hback ⊢
  generalize s.ports[p].peer = peer at hback ⊢
  cases peer with
  | none => rw [filter_ne_none, ite_self]; rfl
  | some n =>
    cases back with
    | false => rw [if_neg (hback.not.mp Bool.false_ne_true)]; rfl
    | true => rw [if_pos (hback.mp rfl)]; rfl

theorem alctl_unchanged {v : Word} (he : (bit v 63 && bit s.dev.portMask p.val) = true) (hx : s.ports[p].en = true)
    (hsp : v.toNat % 8 = s.ports[p].split) : s.writeAlctl p (BitVec.allOnes 64) v = s.withPort p s.ports[p] := by
  rw [State.writeAlctl_eq s p v he, State.alctlDone, hsp]
  generalize s.ports[p] = x at hx ⊢
  have hy : x.alctl true x.split (s.lower x) = x := by
    rw [Port.alctl, hx]
    dsimp only
    rw [bne_self_eq_false, if_neg (by simp)]
    obtain ⟨en⟩ := x
    cases hx
    rfl
  have hz : x.alctlMoved true x.split (s.lower x) = x := by
    rw [Port.alctlMoved, hy, bne_self_eq_false, Bool.and_false, Bool.false_and, if_neg Bool.false_ne_true]
  rw [hz, hy, bne_self_eq_false, hx]
  rw [if_neg (by simp)]
  cases x.peer <;> rfl

/-- A port under another SPLIT, its lanes assigned anew. -/
def Port.resplit (x : Port) (split : Nat) (low : Bool) : Port := ({ x with split := split } : Port).assign low

theorem Port.resplit_fields (x : Port) (split : Nat) (low : Bool) :
    let y := x.resplit split low
    (y.actout, y.actin) = lanesOf split x.healthy low ∧ y.spareOut = decide (y.actout + y.actin < y.healthy) ∧
      y.spareIn = decide (y.actout + y.actin + 1 < y.healthy) ∧ y.state = x.state ∧
      y = { x with split := split, actout := y.actout, actin := y.actin, spareOut := y.spareOut, spareIn := y.spareIn, state := y.state } := by
  rw [Port.resplit, Port.assign_eq]
  exact ⟨rfl, rfl, rfl, rfl, rfl⟩

theorem Port.alctl_resplit {x : Port} (hx : x.en = true) {split : Nat} (hsp : split ≠ x.split) (low : Bool) : x.alctl true split low = x.resplit split low := by
  have hy : ({ x with en := true, split := split, state := if true then (if x.en then x.state else 1) else 0 } : Port) = { x with split := split } := by
    obtain ⟨en⟩ := x
    cases hx
    rfl
  rw [Port.alctl]
  dsimp only
  rw [if_pos (by rw [Bool.or_eq_true]; exact .inl (bne_iff_ne.mpr (Ne.symm hsp)))]
  exact congrArg (fun z : Port => z.assign low) hy

theorem alctl_resplit_clause {v : Word} (he : (bit v 63 && bit s.dev.portMask p.val) = true) (hx : s.ports[p].en = true)
    (hsp : v.toNat % 8 ≠ s.ports[p].split) :
    let x := s.ports[p]
    let low := x.peer.any fun q => decide (s.dev.pkg < q)
    ∃ y : Port, (y.actout, y.actin) = lanesOf (v.toNat % 8) x.healthy low ∧
      (y.spareOut = decide (y.actout + y.actin < y.healthy) ∧ y.spareIn = decide (y.actout + y.actin + 1 < y.healthy)) ∧
      y = { x with split := v.toNat % 8, actout := y.actout, actin := y.actin, spareOut := y.spareOut, spareIn := y.spareIn, state := y.state } ∧
      ((y.actout, y.actin) = (x.actout, x.actin) ∨ x.state = 4 → y.state = x.state ∧ s.writeAlctl p (BitVec.allOnes 64) v = s.withPort p y) ∧
      ((y.actout, y.actin) ≠ (x.actout, x.actin) → x.state ≠ 4 → y.state = 1 ∧
        s.writeAlctl p (BitVec.allOnes 64) v = { s.withPort p y with agenda := s.agenda ++ [agendaEv .retrainComplete p.val 1 0 0] }) := by
  intro x low
  have hw := State.writeAlctl_eq s p v he
  have hy := Port.alctl_resplit hx hsp (s.lower s.ports[p])
  obtain ⟨hl, hso, hsi, hst, heq⟩ := x.resplit_fields (v.toNat % 8) low
  rw [State.alctlDone, Port.alctlMoved, hy] at hw
  rw [show s.lower s.ports[p] = low from rfl, show s.ports[p] = x from rfl, hx] at hw
  generalize x.resplit (v.toNat % 8) low = y at hl hso hsi hst heq hw
  by_cases hm : (y.actout, y.actin) = (x.actout, x.actin) ∨ x.state = 4
  · have hz : (true && true && ((x.actout, x.actin) != (y.actout, y.actin)) && y.state != 4) = false := by
      rcases hm with hm | hm
      · rw [hm, bne_self_eq_false]; rfl
      · rw [hst, hm]; simp
    have hpush : ¬(decide (y.state = 1) && (((x.actout, x.actin) != (y.actout, y.actin)) || !true)) = true := by
      rcases hm with hm | hm
      · rw [hm, bne_self_eq_false]; simp
      · rw [hst, hm]; simp
    rw [hz, if_neg Bool.false_ne_true, if_neg hpush] at hw
    refine ⟨y, hl, ⟨hso, hsi⟩, heq, fun _ => ⟨hst, ?_⟩, fun h h4 => absurd hm (not_or.mpr ⟨h, h4⟩)⟩
    rw [hw]
    cases x.peer <;> rfl
  · obtain ⟨hne, h4⟩ := not_or.mp hm
    have hmoved : ((x.actout, x.actin) != (y.actout, y.actin)) = true := bne_iff_ne.mpr (Ne.symm hne)
    have hz : (true && true && ((x.actout, x.actin) != (y.actout, y.actin)) && y.state != 4) = true := by
      rw [hmoved, hst, bne_iff_ne.mpr h4]; rfl
    rw [hz, if_pos rfl, hmoved] at hw
    refine ⟨{ y with state := 1 }, hl, ⟨hso, hsi⟩, congrArg (fun z : Port => { z with state := 1 }) heq, fun h => absurd h hm, fun _ _ => ⟨rfl, ?_⟩⟩
    rw [hw]
    cases x.peer <;> rfl

theorem exec_alkeygoWrite_port (hp : s.ev.a = p.val) :
    (s.dev.stage = 3 → s.ev.b = 0 → s.dev.hostUp = true → exec .alkeygoWrite s = .next { s.withPort p { s.ports[p] with
      staged := some (s.ports[p].staging[3] ++ s.ports[p].staging[2] ++ s.ports[p].staging[1] ++ s.ports[p].staging[0], s.ev.v.extractLsb' 0 48) } with
      agenda := s.agenda ++ [agendaEv .keySwitch p.val 0 0 0] }) ∧
    (s.ev.b = 1 → exec .alkeygoWrite s = .next s) := by
  obtain ⟨hal, -, -, -, -, h5, -, h7⟩ := portReg_reads p 6 (by decide)
  have hoff : 0x4000000 + 0x1000 * p.val + 0x30 = 0x4000000 + 0x1000 * p.val + 8 * 6 := rfl
  rw [exec_alkeygoWrite, execAlkeygoWrite, hp, portNo_val, hoff]
  refine ⟨fun hs hb hh => ?_, fun hb => ?_⟩
  · rw [State.regWrite, State.reaches_of hs (.inr hh), hb, if_neg (by simp), hal, s.ctlWrite_port hs p 6 (by decide)]
    rfl
  · have hk : keyReg (0x4000000 + 0x1000 * p.val + 8 * 6) = true := by
      rw [keyReg, h7]
      simp [h5]
    rw [State.regWrite, hb, hk, if_pos (by simp)]

end

end Sys2Proof.Machine
end

section
/-! PROOF. Presence, the loss of a peer, and modules (R384, R389). -/

namespace Sys2Proof.Machine

/-! ### Firings changed in place -/

section
variable {s t u v : State} {n pkg : Nat} {g : Firing → Firing}

/-- A change of the firing with a number, where no other has it, in the list of firings. -/
theorem State.onFiring_firings (hn : (s.firings.map Firing.adm).Nodup) (hl : ∀ x, (g x).live = x.live) :
    (s.onFiring n g).firings = s.firings.map fun x => if x.adm == n then g x else x := by
  unfold State.onFiring State.firings at *
  cases hf : s.fir.live with
  | false => simp [hf]
  | true =>
    rw [hf, if_pos rfl, List.cons_append, List.nil_append, List.map_cons, List.nodup_cons] at hn
    by_cases ha : s.fir.adm = n
    · have hothers : s.others.map (fun x => if x.adm == n then g x else x) = s.others := by
        conv_rhs => rw [← List.map_id s.others]
        refine List.map_congr_left fun x hx => ?_
        rw [if_neg, id]
        intro he
        exact hn.1 (by rw [ha, ← beq_iff_eq.mp he]; exact List.mem_map_of_mem hx)
      simpa [hf, ha, hl] using hothers.symm
    · simp [hf, ha]

/-! ### What the loss of a peer leaves -/

/-- A core has no request to a package. -/
def CoreSt.clear (x : CoreSt) (pkg : Nat) : Prop := ∀ r ∈ x.busy, ∀ q, r.peer = some q → q.pkg ≠ pkg

/-- What giving up accesses to a package may change: firings, fronds, the cores with requests to it, DROPCNT, which only rises, and the agenda. -/
def State.losing (pkg : Nat) (v s : State) : Prop :=
  v = { s with fir := v.fir, others := v.others, fronds := v.fronds, cores := v.cores, parts := v.parts, agenda := v.agenda } ∧
    (∀ p : Fin 16, v.parts[p].lostpkg = s.parts[p].lostpkg ∧ s.parts[p].dropcnt.toNat ≤ v.parts[p].dropcnt.toNat) ∧
    ∀ c : Fin 2048, (s.cores[c]).clear pkg → v.cores[c] = s.cores[c]

theorem State.losing_refl (s : State) : s.losing pkg s := ⟨rfl, fun _ => ⟨rfl, Nat.le_refl _⟩, fun _ _ => rfl⟩

theorem State.losing_trans (h1 : v.losing pkg u) (h2 : u.losing pkg s) : v.losing pkg s := by
  obtain ⟨e1, p1, c1⟩ := h1
  obtain ⟨e2, p2, c2⟩ := h2
  refine ⟨?_, fun p => ⟨(p1 p).1.trans (p2 p).1, Nat.le_trans (p2 p).2 (p1 p).2⟩, fun c hc => ?_⟩
  · rw [e1, e2]
  · have hu := c2 c hc
    rw [c1 c (by rw [hu]; exact hc), hu]

theorem State.losing_foldl {α : Type} (f : State → α → State) (hf : ∀ s a, (f s a).losing pkg s) (l : List α) (s : State) :
    (l.foldl f s).losing pkg s := by
  induction l generalizing s with
  | nil => exact s.losing_refl
  | cons a l ih => exact State.losing_trans (ih (f s a)) (hf s a)

theorem dropped_parts_self (s : State) (p : Fin 16) (n : Nat) :
    (s.dropped p n).parts[p].dropcnt.toNat = min (s.parts[p].dropcnt.toNat + n) (2 ^ 64 - 1) := by
  have h : (s.dropped p n).parts[p] = { s.parts[p] with dropcnt := BitVec.ofNat 64 (min (s.parts[p].dropcnt.toNat + n) (2 ^ 64 - 1)) } :=
    Vector.getElem_set_self p.isLt
  rw [h, BitVec.toNat_ofNat]
  omega

theorem dropped_parts_ne (s : State) {p q : Fin 16} (h : q ≠ p) (n : Nat) : (s.dropped p n).parts[q] = s.parts[q] :=
  Vector.getElem_set_ne p.isLt q.isLt (Ne.symm (Fin.val_ne_of_ne h))

theorem dropped_lostpkg (s : State) (p q : Fin 16) (n : Nat) : (s.dropped p n).parts[q].lostpkg = s.parts[q].lostpkg := by
  by_cases h : q = p
  · subst h
    have hs : (s.dropped q n).parts[q] = { s.parts[q] with dropcnt := BitVec.ofNat 64 (min (s.parts[q].dropcnt.toNat + n) (2 ^ 64 - 1)) } :=
      Vector.getElem_set_self q.isLt
    rw [hs]
  · rw [dropped_parts_ne s h]

theorem State.dropped_losing (s : State) (p : Fin 16) (n : Nat) : (s.dropped p n).losing pkg s := by
  refine ⟨rfl, fun q => ⟨dropped_lostpkg s p q n, ?_⟩, fun _ _ => rfl⟩
  by_cases h : q = p
  · subst h
    rw [dropped_parts_self]
    have := s.parts[q].dropcnt.isLt
    omega
  · rw [dropped_parts_ne s h]

theorem State.unlock_losing (s : State) (h : Fin 1024) (o : LockOwner) : (s.unlock h o).losing pkg s := ⟨rfl, fun _ => ⟨rfl, Nat.le_refl _⟩, fun _ _ => rfl⟩

theorem State.vbsumDone_losing (s : State) (c : Fin 2048) (adm n : Nat) : (s.vbsumDone c adm n).losing pkg s := by
  unfold State.vbsumDone
  split
  · exact s.losing_refl
  · exact s.unlock_losing _ _

theorem State.push_losing (s : State) (op : Instr) (a b c : Nat) (w : Word) : (s.push op a b c w).losing pkg s :=
  ⟨rfl, fun _ => ⟨rfl, Nat.le_refl _⟩, fun _ _ => rfl⟩

theorem State.onFrond_losing (s : State) (h : Fin 1024) (k : Frond → Frond) : (s.onFrond h k).losing pkg s :=
  ⟨rfl, fun _ => ⟨rfl, Nat.le_refl _⟩, fun _ _ => rfl⟩

theorem State.onFiring_losing (s : State) (n : Nat) (k : Firing → Firing) : (s.onFiring n k).losing pkg s := by
  unfold State.onFiring
  split
  · exact ⟨rfl, fun _ => ⟨rfl, Nat.le_refl _⟩, fun _ _ => rfl⟩
  · exact ⟨rfl, fun _ => ⟨rfl, Nat.le_refl _⟩, fun _ _ => rfl⟩

theorem State.onCore_losing {c : Fin 2048} (h : ¬ (s.cores[c]).clear pkg) (k : CoreSt → CoreSt) : (s.onCore c k).losing pkg s := by
  refine ⟨rfl, fun _ => ⟨rfl, Nat.le_refl _⟩, fun d hd => ?_⟩
  have hne : d ≠ c := fun he => h (he ▸ hd)
  exact s.onCore_cores_ne hne k

theorem State.bankAnswered_losing (s : State) (adm seq : Nat) : (s.bankAnswered adm pkg seq).losing pkg s := by
  unfold State.bankAnswered
  split
  · exact s.losing_refl
  next c hc =>
    split
    · exact s.losing_refl
    next q hq =>
      have hbusy : ¬ (s.cores[c]).clear pkg := by
        intro hcl
        have hp := List.find?_some hq
        obtain ⟨-, hpeer⟩ := Bool.and_eq_true_iff.mp hp
        cases hx : q.peer with
        | none =>
          rw [hx] at hpeer
          cases hpeer
        | some x =>
          rw [hx, Option.any_some, Bool.and_eq_true, beq_iff_eq] at hpeer
          exact hcl q (List.mem_of_find?_eq_some hq) x hx hpeer.1
      exact State.losing_trans (State.vbsumDone_losing _ _ _ _) (State.losing_trans (State.push_losing _ _ _ _ _ _) (State.onCore_losing hbusy _))

theorem State.loseCopies_losing (s : State) (f : Firing) : (s.loseCopies pkg f).losing pkg s := by
  have hd : ∀ m k, ((s.dropped f.part m).onFrond f.frond k).losing pkg s := fun m k =>
    State.losing_trans (State.onFrond_losing _ _ _) (s.dropped_losing f.part m)
  unfold State.loseCopies
  dsimp only
  split
  · exact State.losing_trans (State.onFiring_losing _ _ _) (hd _ _)
  · exact hd _ _

/-- A pending access once its package is lost: a full-empty wait no more, its answer discarded (R389). -/
def Pend.given (pkg : Nat) (p : Pend) : Pend := if p.pkg == pkg then { p with fe := false, dead := true } else p

theorem Pend.given_pkg (p : Pend) : (p.given pkg).pkg = p.pkg := by unfold Pend.given; split <;> rfl

theorem Pend.given_given (p : Pend) : (p.given pkg).given pkg = p.given pkg := by
  unfold Pend.given
  by_cases h : (p.pkg == pkg) = true
  · rw [if_pos h, if_pos h]
  · rw [if_neg h, if_neg h]

theorem Pend.given_dead {p : Pend} (h : (p.given pkg).pkg = pkg) : (p.given pkg).dead = true := by
  rw [Pend.given_pkg] at h
  rw [Pend.given, if_pos (beq_iff_eq.mpr h)]

/-- The firings of v are those of s, the ones numbered in l with their accesses to a package given up. -/
def State.gaveUp (pkg : Nat) (l : List Nat) (v s : State) : Prop :=
  (s.firings.map Firing.adm).Nodup → ∃ h : Firing → Firing, v.firings = s.firings.map h ∧
    ∀ x, (h x).adm = x.adm ∧ (h x).pends = if x.adm ∈ l then x.pends.map (Pend.given pkg) else x.pends

theorem State.gaveUp_of_firings (h : v.firings = s.firings) : v.gaveUp pkg [] s := fun _ => ⟨id, by rw [h, List.map_id], fun _ => ⟨rfl, rfl⟩⟩

theorem State.gaveUp_trans {l m : List Nat} (h1 : v.gaveUp pkg l u) (h2 : u.gaveUp pkg m s) : v.gaveUp pkg (m ++ l) s := by
  intro hn
  obtain ⟨k2, e2, f2⟩ := h2 hn
  have hadm : u.firings.map Firing.adm = s.firings.map Firing.adm := by
    rw [e2, List.map_map]
    exact List.map_congr_left fun x _ => (f2 x).1
  obtain ⟨k1, e1, f1⟩ := h1 (by rw [hadm]; exact hn)
  refine ⟨k1 ∘ k2, by rw [e1, e2, List.map_map], fun x => ⟨(f1 (k2 x)).1.trans (f2 x).1, ?_⟩⟩
  rw [Function.comp_apply, (f1 (k2 x)).2, (f2 x).1, (f2 x).2]
  by_cases hm : x.adm ∈ m <;> by_cases hl : x.adm ∈ l <;> simp [hm, hl, Function.comp_def, Pend.given_given]

theorem State.onFiring_gaveUp_none (s : State) (n : Nat) {k : Firing → Firing} (hl : ∀ x, (k x).live = x.live) (ha : ∀ x, (k x).adm = x.adm)
    (hp : ∀ x, (k x).pends = x.pends) : (s.onFiring n k).gaveUp pkg [] s := by
  refine fun hn => ⟨_, State.onFiring_firings hn hl, fun x => ⟨?_, ?_⟩⟩
  · split
    · exact ha x
    · rfl
  · rw [if_neg List.not_mem_nil]
    split
    · exact hp x
    · rfl

theorem State.onFiring_gaveUp (s : State) (n : Nat) :
    (s.onFiring n fun f => { f with pends := f.pends.map (Pend.given pkg) }).gaveUp pkg [n] s := by
  refine fun hn => ⟨_, State.onFiring_firings hn fun _ => rfl, fun x => ?_⟩
  by_cases h : x.adm = n
  · simp [h]
  · simp [h]

theorem Firing.poisoned_live (f : Firing) : (f.poisoned pkg).live = f.live := by
  unfold Firing.poisoned Firing.report
  dsimp only
  split_ifs <;> rfl

theorem Firing.poisoned_adm (f : Firing) : (f.poisoned pkg).adm = f.adm := by
  unfold Firing.poisoned Firing.report
  dsimp only
  split_ifs <;> rfl

theorem Firing.poisoned_pends (f : Firing) : (f.poisoned pkg).pends = f.pends := by
  unfold Firing.poisoned Firing.report
  dsimp only
  split_ifs <;> rfl

theorem State.loseCopies_gaveUp (s : State) (f : Firing) : (s.loseCopies pkg f).gaveUp pkg [] s := by
  have hd : ∀ m k, ((s.dropped f.part m).onFrond f.frond k).gaveUp pkg [] s := fun m k => State.gaveUp_of_firings rfl
  unfold State.loseCopies
  dsimp only
  split
  · exact State.gaveUp_trans (State.onFiring_gaveUp_none _ _ Firing.poisoned_live Firing.poisoned_adm Firing.poisoned_pends) (hd _ _)
  · exact hd _ _

theorem State.bankAnswered_firings (s : State) (adm seq : Nat) : (s.bankAnswered adm pkg seq).firings = s.firings := by
  unfold State.bankAnswered State.vbsumDone
  split
  · rfl
  · split
    · rfl
    · dsimp only
      split <;> rfl

/-! ### The steps of the declaration -/

/-- What PEER_LOST_DECLARE notes first: the package, its ports, LOSTPKG. -/
def State.declared (s : State) (pkg : Nat) : State :=
  { s with
    lost := insertNat s.lost pkg
    ports := s.ports.map fun (p : Port) => if p.peer = some pkg then { p with state := 4 } else p
    parts := s.parts.map fun (x : Part) => { x with lostpkg := BitVec.ofNat 64 pkg } }

/-- An outstanding write to a lost package, dropped. -/
def State.dropWrite (s : State) (u : Unack) : State := s.dropped u.part 1

/-- The writes to a package dropped and counted. -/
def State.writesDropped (s : State) (pkg : Nat) : State :=
  (s.unacked.filter fun u => u.pkg == pkg).foldl State.dropWrite { s with unacked := s.unacked.filter fun u => !(u.pkg == pkg) }

/-- The bank operations that are outstanding at a package. -/
def State.farBusy (s : State) (pkg : Nat) : List BankReq :=
  (s.cores.toList.flatMap CoreSt.busy).filter fun r => !r.answered && r.peer.any fun p => p.pkg == pkg

/-- A bank operation at a lost package given up, where no firing awaits it. -/
def State.loseBank (s : State) (pkg : Nat) (t : State) (r : BankReq) : State := match r.peer with
  | none => t
  | some p =>
    if (s.firing? r.adm).any fun f => f.pends.any fun q => q.pkg == pkg && q.seq == p.seq then t
    else (if p.posted then t.dropped r.part 1 else t).bankAnswered r.adm pkg p.seq

/-- The accesses of a firing to a lost package given up, and its poison asked for. -/
def State.giveUp (pkg : Nat) (s : State) (f : Firing) : State :=
  (s.onFiring f.adm fun f => { f with pends := f.pends.map (Pend.given pkg) }).push .remotePoisonComplete f.adm 0 0 0

theorem State.dropUnacked_eq (s : State) (pkg : Nat) : s.dropUnacked pkg = (s.farBusy pkg).foldl (s.loseBank pkg) (s.writesDropped pkg) := rfl

theorem exec_peerLost (hl : s.ev.a ∉ s.lost) :
    let pkg := s.ev.a
    let t := (s.declared pkg).dropUnacked pkg
    exec .peerLostDeclare s = .next ((t.firings.filter fun f => f.pends.any fun p => p.pkg == pkg).foldl (State.giveUp pkg)
      (t.firings.foldl (fun s f => s.loseCopies pkg f) t)) := by
  rw [exec_peerLostDeclare, execPeerLostDeclare]
  dsimp only
  rw [if_neg (by simpa using hl)]
  rfl

/-! ### What the declaration leaves -/

theorem State.dropWrite_losing (s : State) (u : Unack) : (s.dropWrite u).losing pkg s := s.dropped_losing _ _

theorem State.loseBank_losing (s t : State) (r : BankReq) : (s.loseBank pkg t r).losing pkg t := by
  unfold State.loseBank
  split
  · exact t.losing_refl
  · split
    · exact t.losing_refl
    · refine State.losing_trans (State.bankAnswered_losing _ _ _) ?_
      split
      · exact t.dropped_losing _ _
      · exact t.losing_refl

theorem State.giveUp_losing (s : State) (f : Firing) : (s.giveUp pkg f).losing pkg s :=
  State.losing_trans (State.push_losing _ _ _ _ _ _) (State.onFiring_losing _ _ _)

/-- The machine once the package is noted and its writes are forgotten, none counted yet. -/
def State.forgotten (s : State) (pkg : Nat) : State := { s.declared pkg with unacked := s.unacked.filter fun u => !(u.pkg == pkg) }

theorem State.writesDropped_losing (s : State) : ((s.declared pkg).writesDropped pkg).losing pkg (s.forgotten pkg) :=
  State.losing_foldl _ (fun s u => s.dropWrite_losing u) _ _

theorem State.dropUnacked_losing (s : State) : ((s.declared pkg).dropUnacked pkg).losing pkg (s.forgotten pkg) := by
  rw [State.dropUnacked_eq]
  exact State.losing_trans (State.losing_foldl _ (fun t r => State.loseBank_losing _ t r) _ _) s.writesDropped_losing

theorem State.foldl_firings {α : Type} {f : State → α → State} (hf : ∀ s a, (f s a).firings = s.firings) (l : List α) (s : State) :
    (l.foldl f s).firings = s.firings := by
  induction l generalizing s with
  | nil => rfl
  | cons a l ih => exact (ih (f s a)).trans (hf s a)

theorem State.loseBank_firings (s t : State) (r : BankReq) : (s.loseBank pkg t r).firings = t.firings := by
  unfold State.loseBank
  split
  · rfl
  · split
    · rfl
    · rw [State.bankAnswered_firings]
      split <;> rfl

theorem State.dropUnacked_firings (s : State) : ((s.declared pkg).dropUnacked pkg).firings = s.firings := by
  rw [State.dropUnacked_eq, State.foldl_firings (fun t r => State.loseBank_firings _ t r), State.writesDropped,
    State.foldl_firings (f := State.dropWrite) fun _ _ => rfl]
  rfl

theorem State.foldl_loseCopies_gaveUp (l : List Firing) (s : State) : (l.foldl (fun s f => s.loseCopies pkg f) s).gaveUp pkg [] s := by
  induction l generalizing s with
  | nil => exact State.gaveUp_of_firings rfl
  | cons f l ih => exact State.gaveUp_trans (ih (s.loseCopies pkg f)) (s.loseCopies_gaveUp f)

theorem State.giveUp_gaveUp (s : State) (f : Firing) : (s.giveUp pkg f).gaveUp pkg [f.adm] s := s.onFiring_gaveUp f.adm

theorem State.foldl_giveUp_gaveUp (l : List Firing) (s : State) : (l.foldl (State.giveUp pkg) s).gaveUp pkg (l.map Firing.adm) s := by
  induction l generalizing s with
  | nil => exact State.gaveUp_of_firings rfl
  | cons f l ih => exact State.gaveUp_trans (ih (s.giveUp pkg f)) (s.giveUp_gaveUp f)

theorem State.onFiring_agenda (s : State) (n : Nat) (k : Firing → Firing) : (s.onFiring n k).agenda = s.agenda := by
  unfold State.onFiring
  split <;> rfl

theorem State.foldl_giveUp_agenda (l : List Firing) (s : State) :
    (l.foldl (State.giveUp pkg) s).agenda = s.agenda ++ l.map fun f => agendaEv .remotePoisonComplete f.adm 0 0 0 := by
  induction l generalizing s with
  | nil => exact (List.append_nil _).symm
  | cons f l ih =>
    have hone : (s.giveUp pkg f).agenda = s.agenda ++ [agendaEv .remotePoisonComplete f.adm 0 0 0] := by
      show (s.onFiring f.adm _).agenda ++ [_] = _
      rw [State.onFiring_agenda]
      rfl
    rw [List.foldl_cons, ih, hone, List.map_cons, List.append_assoc, List.singleton_append]

theorem State.foldl_giveUp_parts (l : List Firing) (s : State) : (l.foldl (State.giveUp pkg) s).parts = s.parts := by
  induction l generalizing s with
  | nil => rfl
  | cons f l ih =>
    rw [List.foldl_cons, ih]
    show (s.onFiring f.adm _).parts = _
    unfold State.onFiring
    split <;> rfl

/-! ### DROPCNT -/

theorem foldl_dropWrite_dropcnt (l : List Unack) (s : State) (p : Fin 16) : (l.foldl State.dropWrite s).parts[p].dropcnt.toNat =
    min (s.parts[p].dropcnt.toNat + (l.filter fun u => u.part == p).length) (2 ^ 64 - 1) := by
  induction l generalizing s with
  | nil =>
    have := s.parts[p].dropcnt.isLt
    rw [List.foldl_nil, List.filter_nil, List.length_nil]
    omega
  | cons u l ih =>
    rw [List.foldl_cons, ih, State.dropWrite]
    by_cases h : u.part = p
    · rw [List.filter_cons_of_pos (by simpa using h), List.length_cons, ← h, dropped_parts_self]
      omega
    · rw [List.filter_cons_of_neg (by simpa using h), dropped_parts_ne s (Ne.symm h)]

/-- No copy has a request outstanding at a package. -/
def State.copiesClear (s : State) (pkg : Nat) : Prop :=
  ∀ (h : Fin 1024) (k : Fin 4) (c : Copy), (s.fronds[h]).chans[k] = some c → ∀ x ∈ c.pends, x.1 ≠ pkg

theorem Copy.lose_pends (c : Copy) : ∀ x ∈ (c.lose pkg).pends, x.1 ≠ pkg := by
  have hp : (c.lose pkg).pends = c.pends.filter fun x => x.1 != pkg := by
    unfold Copy.lose
    dsimp only
    split <;> rfl
  intro x hx
  rw [hp] at hx
  simpa using (List.mem_filter.mp hx).2

theorem State.dropped_zero (s : State) (p : Fin 16) : (s.dropped p 0).parts = s.parts := by
  have hd : min (s.parts[p].dropcnt.toNat + 0) (2 ^ 64 - 1) = s.parts[p].dropcnt.toNat := by
    have := s.parts[p].dropcnt.isLt
    omega
  rw [State.dropped_parts, hd, BitVec.ofNat_toNat, BitVec.setWidth_eq]
  exact Vector.set_getElem_self p.isLt

theorem State.copiesOf_clear {s : State} (h : s.copiesClear pkg) (f : Firing) {c : Copy} (hc : c ∈ (s.copiesOf f).filterMap id) :
    c.pends.filter (fun x => x.1 == pkg) = [] := by
  obtain ⟨o, ho, rfl⟩ := List.mem_filterMap.mp hc
  obtain ⟨q, hq, hqc⟩ := List.mem_map.mp ho
  obtain ⟨i, hi, rfl⟩ := List.getElem_of_mem hq
  rw [Vector.length_toList] at hi
  have hsome := (Option.filter_eq_some_iff.mp hqc).1
  refine List.filter_eq_nil_iff.mpr fun x hx => ?_
  simpa using h f.frond ⟨i, hi⟩ c (by simpa using hsome) x hx

theorem foldl_add_zero (l : List Nat) (h : ∀ x ∈ l, x = 0) : l.foldl (· + ·) 0 = 0 := by
  induction l with
  | nil => rfl
  | cons x l ih =>
    rw [List.foldl_cons, h x List.mem_cons_self]
    exact ih fun y hy => h y (List.mem_cons_of_mem _ hy)

theorem State.onFrond_at_self (s : State) (h : Fin 1024) (k : Frond → Frond) : (s.onFrond h k).fronds[h] = k s.fronds[h] :=
  Vector.getElem_set_self h.isLt

theorem State.onFrond_at_ne (s : State) {g h : Fin 1024} (hne : g ≠ h) (k : Frond → Frond) : (s.onFrond h k).fronds[g] = s.fronds[g] :=
  Vector.getElem_set_ne h.isLt g.isLt (Ne.symm (Fin.val_ne_of_ne hne))

theorem State.loseCopies_clear {s : State} (h : s.copiesClear pkg) (f : Firing) :
    (s.loseCopies pkg f).parts = s.parts ∧ (s.loseCopies pkg f).copiesClear pkg := by
  have hzero : ((((s.copiesOf f).filterMap id).filter fun c => c.phase == 2).map fun c => (c.pends.filter fun x => x.1 == pkg).length).foldl (· + ·) 0 = 0 := by
    refine foldl_add_zero _ fun x hx => ?_
    obtain ⟨c, hc, rfl⟩ := List.mem_map.mp hx
    rw [State.copiesOf_clear h f (List.mem_filter.mp hc).1, List.length_nil]
  have hany : (((s.copiesOf f).filterMap id).any fun c => c.phase == 1 && (c.pends.filter fun x => x.1 == pkg).length != 0) = false := by
    refine List.any_eq_false.mpr fun c hc => ?_
    rw [State.copiesOf_clear h f hc]
    simp
  unfold State.loseCopies
  dsimp only
  rw [hzero, hany, if_neg Bool.false_ne_true]
  refine ⟨State.dropped_zero s f.part, fun g k c hc => ?_⟩
  by_cases hg : g = f.frond
  · rw [hg, State.onFrond_at_self] at hc
    dsimp only at hc
    rw [Fin.getElem_fin, Vector.getElem_map, Option.map_eq_some_iff] at hc
    obtain ⟨c0, hc0, rfl⟩ := hc
    split
    · exact c0.lose_pends
    · exact h f.frond k c0 hc0
  · rw [State.onFrond_at_ne _ hg] at hc
    exact h g k c hc

theorem State.foldl_loseCopies_clear (l : List Firing) {s : State} (h : s.copiesClear pkg) :
    (l.foldl (fun s f => s.loseCopies pkg f) s).parts = s.parts := by
  induction l generalizing s with
  | nil => rfl
  | cons f l ih =>
    obtain ⟨hp, hc⟩ := State.loseCopies_clear h f
    exact (ih hc).trans hp

/-- No core has a request to a package, so that none is outstanding there. -/
theorem State.farBusy_clear {s : State} (h : ∀ c : Fin 2048, (s.cores[c]).clear pkg) : s.farBusy pkg = [] := by
  refine List.filter_eq_nil_iff.mpr fun r hr => ?_
  obtain ⟨x, hx, hrx⟩ := List.mem_flatMap.mp hr
  obtain ⟨i, hi, rfl⟩ := List.getElem_of_mem hx
  rw [Vector.length_toList] at hi
  have hcl := h ⟨i, hi⟩ r (by simpa using hrx)
  cases hp : r.peer with
  | none => simp
  | some q => simp [hcl q hp]

/-! ### The obligation's clause on a lost peer -/

theorem peerLost_clause (hl : s.ev.a ∉ s.lost) :
    let pkg := s.ev.a
    ∃ v, exec .peerLostDeclare s = .next v ∧ (∀ q, q ∈ v.lost ↔ q = pkg ∨ q ∈ s.lost) ∧
      (∀ p : Fin 18, v.ports[p] = if s.ports[p].peer = some pkg then { s.ports[p] with state := 4 } else s.ports[p]) ∧
      (∀ p : Fin 16, v.parts[p].lostpkg = BitVec.ofNat 64 pkg ∧ s.parts[p].dropcnt.toNat ≤ v.parts[p].dropcnt.toNat) ∧
      (∀ u, u ∈ v.unacked ↔ u ∈ s.unacked ∧ u.pkg ≠ pkg) ∧ v.mem = s.mem ∧ v.teams = s.teams ∧
      (∀ c : Fin 2048, (s.cores[c]).clear pkg → v.cores[c] = s.cores[c]) ∧
      ((∀ c : Fin 2048, (s.cores[c]).clear pkg) → s.copiesClear pkg → ∀ p : Fin 16,
        v.parts[p].dropcnt.toNat = min (s.parts[p].dropcnt.toNat + (s.unacked.filter fun u => u.pkg == pkg && u.part == p).length) (2 ^ 64 - 1)) ∧
      (∀ f ∈ s.firings, (∃ q ∈ f.pends, q.pkg = pkg) → ∃ e ∈ v.agenda, e.op = .remotePoisonComplete ∧ e.a = f.adm) ∧
      ((s.firings.map Firing.adm).Nodup → ∀ f ∈ s.firings, ∃ g ∈ v.firings, g.adm = f.adm ∧ ∀ q ∈ g.pends, q.pkg = pkg → q.dead = true) := by
  intro pkg
  have hexec := exec_peerLost hl
  dsimp only at hexec
  have hfs := s.dropUnacked_firings (pkg := pkg)
  have hdrop := s.dropUnacked_losing (pkg := pkg)
  have hexact : (∀ c : Fin 2048, (s.cores[c]).clear pkg) → (s.declared pkg).dropUnacked pkg = (s.declared pkg).writesDropped pkg := fun hc => by
    rw [State.dropUnacked_eq, State.farBusy_clear (s := s.declared pkg) hc]
    rfl
  generalize ht : (s.declared pkg).dropUnacked pkg = t at hexec hfs hdrop hexact
  rw [hfs] at hexec
  generalize hask : s.firings.filter (fun f => f.pends.any fun p => p.pkg == pkg) = asking at hexec
  have hw := State.losing_trans (State.losing_foldl _ (fun s f => s.loseCopies_losing (pkg := pkg) f) s.firings t) hdrop
  have hv := State.losing_trans (State.losing_foldl _ (fun s f => s.giveUp_losing (pkg := pkg) f) asking _) hw
  have hgave := State.gaveUp_trans (State.foldl_giveUp_gaveUp (pkg := pkg) asking _)
    (State.gaveUp_trans (State.foldl_loseCopies_gaveUp (pkg := pkg) s.firings t) (State.gaveUp_of_firings hfs))
  have hag := State.foldl_giveUp_agenda (pkg := pkg) asking (s.firings.foldl (fun s f => s.loseCopies pkg f) t)
  have hparts := State.foldl_giveUp_parts (pkg := pkg) asking (s.firings.foldl (fun s f => s.loseCopies pkg f) t)
  have hclear := State.foldl_loseCopies_clear (pkg := pkg) s.firings (s := t)
  generalize s.firings.foldl (fun s f => s.loseCopies pkg f) t = w at hexec hw hv hgave hag hparts hclear
  generalize asking.foldl (State.giveUp pkg) w = v at hexec hv hgave hag hparts
  obtain ⟨hrec, hlp, hcores⟩ := hv
  have hlost : v.lost = insertNat s.lost pkg := by rw [hrec]; rfl
  have hports : v.ports = s.ports.map fun (p : Port) => if p.peer = some pkg then { p with state := 4 } else p := by rw [hrec]; rfl
  have hun : v.unacked = s.unacked.filter fun u => !(u.pkg == pkg) := by rw [hrec]; rfl
  have hmem : v.mem = s.mem := by rw [hrec]; rfl
  have hteams : v.teams = s.teams := by rw [hrec]; rfl
  have hpart : ∀ p : Fin 16, (s.declared pkg).parts[p] = { s.parts[p] with lostpkg := BitVec.ofNat 64 pkg } := fun p => Vector.getElem_map _ p.isLt
  refine ⟨v, hexec, fun q => by rw [hlost, mem_insertNat], fun p => by rw [hports]; exact Vector.getElem_map _ p.isLt, fun p => ?_, fun u => ?_, hmem, hteams,
    hcores, fun hc hcopies p => ?_, fun f hf hq => ?_, fun hn f hf => ?_⟩
  · obtain ⟨h1, h2⟩ := hlp p
    rw [show (s.forgotten pkg).parts[p] = (s.declared pkg).parts[p] from rfl, hpart p] at h1 h2
    exact ⟨h1, h2⟩
  · rw [hun, List.mem_filter, Bool.not_eq_true', beq_eq_false_iff_ne]
  · have htw := hexact hc
    have hfronds : t.fronds = s.fronds := by
      rw [htw]
      exact List.foldlRecOn (motive := fun x : State => x.fronds = s.fronds) _ _ rfl fun x hx _ _ => hx
    have hcount := foldl_dropWrite_dropcnt (s.unacked.filter fun u => u.pkg == pkg) (s.forgotten pkg) p
    rw [show (s.forgotten pkg).parts[p] = (s.declared pkg).parts[p] from rfl, hpart p, List.filter_filter] at hcount
    have hwp : w.parts = t.parts := hclear fun g k c hck => hcopies g k c (by rw [← hfronds]; exact hck)
    simp only [hparts, hwp, htw]
    refine hcount.trans ?_
    dsimp only
    simp only [Bool.and_comm]
  · have hmem' : f ∈ asking := by
      rw [← hask]
      obtain ⟨q, hq, hqp⟩ := hq
      exact List.mem_filter.mpr ⟨hf, List.any_eq_true.mpr ⟨q, hq, beq_iff_eq.mpr hqp⟩⟩
    refine ⟨agendaEv .remotePoisonComplete f.adm 0 0 0, ?_, rfl, rfl⟩
    rw [hag]
    exact List.mem_append_right _ (List.mem_map_of_mem hmem')
  · obtain ⟨h, hfir, hh⟩ := hgave hn
    obtain ⟨hadm, hpends⟩ := hh f
    refine ⟨h f, by rw [hfir]; exact List.mem_map_of_mem hf, hadm, fun q hq hqp => ?_⟩
    rw [hpends] at hq
    split at hq
    · obtain ⟨q0, -, rfl⟩ := List.mem_map.mp hq
      exact Pend.given_dead hqp
    next hno =>
      refine absurd ?_ hno
      rw [List.nil_append, List.nil_append, ← hask]
      exact List.mem_map_of_mem (List.mem_filter.mpr ⟨hf, List.any_eq_true.mpr ⟨q, hq, beq_iff_eq.mpr hqp⟩⟩)

/-! ### Presence, time-outs and modules -/

theorem portsTo_mem {ps : Port} : ps ∈ s.portsTo pkg ↔ ∃ p : Fin 18, s.ports[p] = ps ∧ ps.peer = some pkg := by
  rw [State.portsTo, List.mem_filter, beq_iff_eq]
  refine ⟨fun ⟨hm, hp⟩ => ?_, fun ⟨p, hp, hpeer⟩ => ⟨?_, hpeer⟩⟩
  · obtain ⟨i, hi, hget⟩ := List.getElem_of_mem hm
    rw [Vector.length_toList] at hi
    exact ⟨⟨i, hi⟩, by simpa using hget, hp⟩
  · rw [← hp]
    exact Vector.mem_toList_iff.mpr (Vector.getElem_mem p.isLt)

theorem portDown_clause :
    ((∃ p : Fin 18, s.ports[p].peer = some s.ev.a) → (∀ p : Fin 18, s.ports[p].peer = some s.ev.a → s.ports[p].state = 0 ∨ s.ports[p].state = 4) →
      exec .portDownTimeout s = .next { s with agenda := s.agenda ++ [agendaEv .peerLostDeclare s.ev.a 0 0 0] }) ∧
    ((∃ p : Fin 18, s.ports[p].peer = some s.ev.a ∧ s.ports[p].state ≠ 0 ∧ s.ports[p].state ≠ 4) → exec .portDownTimeout s = .next s) := by
  rw [exec_portDownTimeout, execPortDownTimeout]
  refine ⟨fun ⟨p, hp⟩ hall => ?_, fun ⟨p, hp, h0, h4⟩ => ?_⟩
  · have hne : (s.portsTo s.ev.a).isEmpty = false := by
      cases he : s.portsTo s.ev.a with
      | nil =>
        have hm := portsTo_mem.mpr ⟨p, rfl, hp⟩
        rw [he] at hm
        cases hm
      | cons _ _ => rfl
    have hdown : ((s.portsTo s.ev.a).all fun (p : Port) => p.state == 0 || p.state == 4) = true := by
      refine List.all_eq_true.mpr fun y hy => ?_
      obtain ⟨q, rfl, hq⟩ := portsTo_mem.mp hy
      simpa using hall q hq
    rw [hne, hdown]
    rfl
  · have hup : ((s.portsTo s.ev.a).all fun (p : Port) => p.state == 0 || p.state == 4) = false := by
      refine Bool.eq_false_iff.mpr fun hall => ?_
      rcases Bool.or_eq_true_iff.mp (List.all_eq_true.mp hall _ (portsTo_mem.mpr ⟨p, rfl, hp⟩)) with h | h
      · exact h0 (beq_iff_eq.mp h)
      · exact h4 (beq_iff_eq.mp h)
    rw [hup, Bool.and_false, if_neg Bool.false_ne_true]

/-- A port at which a module of a package appears. -/
def State.joined (s : State) (p : Port) : Port :=
  let q : Port := { p with peer := some s.ev.a }
  if q.healthy < 8 then q.assign (s.lower q) else q

theorem exec_moduleInsertion_ports : exec .moduleInsertion s =
    .next { s with ports := s.ports.mapIdx fun i (p : Port) => if (s.ev.l.any fun w => w.toNat == i) then s.joined p else p } := rfl

theorem moduleInsertion_clause :
    (∀ i, exec .moduleInsertion s = .next i → ∀ p : Fin 18,
      let x := s.ports[p]
      let here := ∃ w ∈ s.ev.l, w.toNat = p.val
      let (o, n) := lanesOf x.split x.healthy (decide (s.dev.pkg < s.ev.a))
      (¬ here → i.ports[p] = x) ∧ (here → 8 ≤ x.healthy → i.ports[p] = { x with peer := some s.ev.a }) ∧
      (here → x.healthy < 8 → i.ports[p] = { x with
        peer := some s.ev.a, actout := o, actin := n, spareOut := decide (o + n < x.healthy), spareIn := decide (o + n + 1 < x.healthy) })) ∧
    ∃ ps, exec .moduleInsertion s = .next { s with ports := ps } := by
  refine ⟨fun i hi p => ?_, _, exec_moduleInsertion_ports⟩
  rw [exec_moduleInsertion_ports] at hi
  cases hi
  have hget : (s.ports.mapIdx fun i (p : Port) => if (s.ev.l.any fun w => w.toNat == i) then s.joined p else p)[p] =
      if (s.ev.l.any fun w => w.toNat == p.val) then s.joined s.ports[p] else s.ports[p] := Vector.getElem_mapIdx p.isLt
  have hany : (s.ev.l.any fun w => w.toNat == p.val) = true ↔ ∃ w ∈ s.ev.l, w.toNat = p.val := by
    rw [List.any_eq_true]
    simp only [beq_iff_eq]
  dsimp only
  rw [hget]
  refine ⟨fun h => if_neg (hany.not.mpr h), fun h h8 => ?_, fun h h8 => ?_⟩
  · rw [if_pos (hany.mpr h), State.joined]
    exact if_neg (Nat.not_lt.mpr h8)
  · rw [if_pos (hany.mpr h), State.joined]
    exact (if_pos h8).trans (Port.assign_eq _ _)

end

/-- Settles O42. -/
theorem linkPorts : Obligations.LinkPorts := by
  unfold Obligations.LinkPorts
  refine ⟨fun s p hp => ?_, fun s => ⟨rfl, portDown_clause.1, portDown_clause.2, fun h => ?_, fun h => peerLost_clause h, moduleInsertion_clause⟩⟩
  · obtain ⟨hswitch, hidle⟩ := exec_keySwitch_port hp
    obtain ⟨hreplay0, hreplay⟩ := exec_linkErrorReplay_cases (s := s)
    obtain ⟨hgo, hmon⟩ := exec_alkeygoWrite_port hp
    refine ⟨hswitch, hidle, exec_keywarn_port hp, exec_keystarved_port hp, hreplay0, hreplay, laneFail_clause hp, exec_retrainComplete_port hp,
      fun hs hb => ?_, hgo, hmon⟩
    rw [exec_alctlWrite_port hp hs hb]
    refine ⟨fun h63 => ?_, fun h63 hm => ?_, fun h63 hm hx => ?_, fun h63 hm hx hsp => ?_, fun h63 hm hx hsp => ?_⟩
    · obtain ⟨y, hy, hen, hst, hspl⟩ := alctl_disabled (s := s) (p := p) (v := s.ev.v) (by rw [bit, h63]; rfl)
      exact ⟨_, y, congrArg _ hy, rfl, hen, hst, hspl⟩
    · obtain ⟨y, hy, hen, hst, -⟩ := alctl_disabled (s := s) (p := p) (v := s.ev.v) (by rw [bit, bit, hm, Bool.and_false])
      exact ⟨_, congrArg _ hy, by rw [withPort_ports_self]; exact hen, by rw [withPort_ports_self]; exact hst⟩
    · obtain ⟨y, hen, hst, hspl, hkey, hpeer, hy⟩ := alctl_enabled (s := s) (p := p) (v := s.ev.v) (by rw [bit, bit, h63, hm]; rfl) hx
      exact ⟨y, hen, hst, hspl, hkey, hpeer, congrArg _ hy⟩
    · rw [alctl_unchanged (by rw [bit, bit, h63, hm]; rfl) hx hsp]
    · obtain ⟨y, hl, hsp', heq, hsame, hmoved⟩ := alctl_resplit_clause (s := s) (p := p) (v := s.ev.v) (by rw [bit, bit, h63, hm]; rfl) hx hsp
      exact ⟨y, hl, hsp', heq, fun h => ⟨(hsame h).1, congrArg _ (hsame h).2⟩, fun h h4 => ⟨(hmoved h h4).1, congrArg _ (hmoved h h4).2⟩⟩
  · rw [exec_peerLostDeclare, execPeerLostDeclare]
    exact if_pos (by simpa using h)

end Sys2Proof.Machine
end

section
/-! SUPPORT. The registers of a partition block: where they lie, what reads back, what a whole-dword write leaves (R4, R374). -/

namespace Sys2Proof.Machine

/-! ### Reading -/

/-- A register of a partition block that keeps what is written. -/
def Part.put (x : Part) (r : Nat) (w : Word) : Part :=
  match r with
  | 0x008 => { x with pcfg := w } | 0x018 => { x with etbase := w } | 0x020 => { x with shtbase := w } | 0x028 => { x with shtlen := w }
  | 0x050 => { x with trhead := w } | 0x070 => { x with stealseed := w } | 0x078 => { x with xpseed := w } | 0x090 => { x with shmbase := w }
  | 0x098 => { x with shmlen := w } | 0x0A0 => { x with fcmd := w } | 0x100 => { x with p0 := w } | 0x108 => { x with p1 := w }
  | 0x110 => { x with p2 := w } | 0x118 => { x with p3 := w } | 0x120 => { x with p4 := w } | 0x128 => { x with p5 := w }
  | _ => x

theorem Part.put_arrays (x : Part) (r : Nat) (w : Word) :
    (x.put r w).lq = x.lq ∧ (x.put r w).logbase = x.logbase ∧ (x.put r w).loglen = x.loglen ∧ (x.put r w).logpos = x.logpos := by
  unfold Part.put
  split <;> exact ⟨rfl, rfl, rfl, rfl⟩

/-- What lies above the single registers is the queues' and the order log's. -/
theorem Part.read_high {x y : Part} (hq : y.lq = x.lq) (hb : y.logbase = x.logbase) (hl : y.loglen = x.loglen) (hp : y.logpos = x.logpos) {o : Nat}
    (ho : 0x120 ≤ o) : y.read o = x.read o := by
  unfold Part.read
  split
  case h_29 =>
    generalize y.lq = lq, y.logbase = logbase, y.loglen = loglen, y.logpos = logpos at hq hb hl hp ⊢
    subst hq hb hl hp
    rfl
  all_goals omega

theorem Part.read_put_low (x : Part) {r o : Nat} (w : Word) (h : o ≠ r) (ho : o < 0x120) : (x.put r w).read o = x.read o := by
  unfold Part.read
  split
  case h_29 => rw [dif_neg (by omega), dif_neg (by omega), dif_neg (by omega), dif_neg (by omega)]
  all_goals
    unfold Part.put
    split
  all_goals simp_all

/-- A write of one register leaves what the others read. -/
theorem Part.read_put_ne (x : Part) {r o : Nat} (w : Word) (h : o ≠ r ∨ 0x120 ≤ o) : (x.put r w).read o = x.read o := by
  by_cases ho : o < 0x120
  · exact x.read_put_low w (h.resolve_right (by omega)) ho
  · obtain ⟨hq, hb, hl, hp⟩ := x.put_arrays r w
    exact Part.read_high hq hb hl hp (by omega)

theorem Part.read_put_self (x : Part) (w : Word) : ∀ r ∈ plainRegs, (x.put r.1 w).read r.1 = w := by
  simp only [plainRegs, List.forall_mem_cons, List.not_mem_nil, false_imp_iff, implies_true]
  exact ⟨rfl, rfl, rfl, rfl, rfl, rfl, rfl, rfl, rfl, rfl, rfl, rfl, trivial⟩

/-! ### Writing -/

theorem rwBits_whole (old v field : Word) : rwBits old (BitVec.allOnes 64) v field = (old &&& ~~~field) ||| (v &&& field) := by
  rw [rwBits, BitVec.allOnes_and, BitVec.and_assoc, BitVec.allOnes_and]

theorem maskBits_whole : maskBits 63 0 = BitVec.allOnes 64 := by decide

theorem rwBits_all (old v : Word) : rwBits old (BitVec.allOnes 64) v (maskBits 63 0) = v := by
  rw [rwBits_whole, maskBits_whole, BitVec.and_allOnes]
  simp

theorem w1cBits_whole (old v field : Word) : w1cBits old (BitVec.allOnes 64) v field = old &&& ~~~(v &&& field) := by
  rw [w1cBits, BitVec.and_allOnes]

section
variable {s : State} {p : Fin 16}

theorem State.onPart_eq (s : State) (p : Fin 16) (g : Part → Part) : s.onPart p g = s.onPart p fun _ => g s.parts[p] := rfl

theorem partReg_reads (p : Fin 16) {o : Nat} (ho : o < 0x100000) (h8 : o % 8 = 0) :
    let a := 0x1000000 + p.val * 0x100000 + o
    a / 8 * 8 = a ∧ ¬(0x3000000 ≤ a ∧ a < 0x3000018) ∧ ¬(0x3010000 ≤ a ∧ a < 0x3020000) ∧ ¬ a < 0x4000 ∧ (0x1000000 ≤ a ∧ a < 0x2000000) ∧
      (a - 0x1000000) / 0x100000 = p.val ∧ (a - 0x1000000) % 0x100000 = o ∧ ¬ 0x4000000 ≤ a := by
  have := p.isLt
  dsimp only
  omega

theorem State.ctlWrite_part (hs : s.dev.stage = 3) (p : Fin 16) {o : Nat} (ho : o < 0x100000) (h8 : o % 8 = 0) (mask v : Word) :
    s.ctlWrite (0x1000000 + p.val * 0x100000 + o) mask v = s.writePart p o mask v := by
  obtain ⟨-, h1, h2, h3, h4, h5, h6, -⟩ := partReg_reads p ho h8
  generalize 0x1000000 + p.val * 0x100000 + o = a at *
  rw [State.ctlWrite, if_neg h1, if_neg h2, if_neg (by rw [hs]; exact not_not_intro rfl), dif_neg h3, dif_pos h4, h6]
  exact congrArg (fun q => s.writePart q o mask v) (Fin.ext h5)

theorem State.regWrite_part (hs : s.dev.stage = 3) {by_ : Nat} (hb : by_ = 1 ∨ s.dev.hostUp = true) (p : Fin 16) {o : Nat} (ho : o < 0x100000)
    (h8 : o % 8 = 0) (v : Word) : s.regWrite by_ (0x1000000 + p.val * 0x100000 + o) v = s.writePart p o (BitVec.allOnes 64) v := by
  obtain ⟨hal, -, -, -, -, -, -, hkey⟩ := partReg_reads p ho h8
  have hk : keyReg (0x1000000 + p.val * 0x100000 + o) = false := by
    rw [keyReg, decide_eq_false hkey]
    rfl
  rw [State.regWrite, State.reaches_of hs hb, hk, Bool.and_false, if_neg (by decide), hal, s.ctlWrite_part hs p ho h8]

theorem exec_registerWrite_part (hs : s.dev.stage = 3) (hb : s.ev.b = 1 ∨ s.dev.hostUp = true) {o : Nat} (ho : o < 0x100000) (h8 : o % 8 = 0)
    (ha : s.ev.a = 0x1000000 + p.val * 0x100000 + o) : exec .registerWrite s = .next (s.writePart p o (BitVec.allOnes 64) s.ev.v) := by
  rw [exec_registerWrite, execRegisterWrite, ha, State.regWrite_part hs hb p ho h8]

/-- The field of a plain register, and its place in the block. -/
theorem plainRegs_low : ∀ r ∈ plainRegs, r.1 < 0x120 ∧ r.1 % 8 = 0 := by decide

theorem State.writePart_plain (mask v : Word) : ∀ r ∈ plainRegs, s.writePart p r.1 mask v =
    s.onPart p fun x => x.put r.1 (rwBits (x.read r.1) mask v r.2) := by
  simp only [plainRegs, List.forall_mem_cons, List.not_mem_nil, false_imp_iff, implies_true]
  exact ⟨rfl, rfl, rfl, rfl, rfl, rfl, rfl, rfl, rfl, rfl, rfl, rfl, trivial⟩

/-- A plain register written keeps its field's bits, every other register is as it was. -/
theorem registerWrite_plain (hs : s.dev.stage = 3) (hb : s.ev.b = 1 ∨ s.dev.hostUp = true) : ∀ r ∈ plainRegs,
    s.ev.a = 0x1000000 + p.val * 0x100000 + r.1 → ∃ y, exec .registerWrite s = .next (s.onPart p fun _ => y) ∧
      y.read r.1 = ((s.parts[p]).read r.1 &&& ~~~r.2) ||| (s.ev.v &&& r.2) ∧ ∀ o, o ≠ r.1 → y.read o = (s.parts[p]).read o := by
  intro r hr ha
  obtain ⟨hlow, h8⟩ := plainRegs_low r hr
  refine ⟨(s.parts[p]).put r.1 (rwBits ((s.parts[p]).read r.1) (BitVec.allOnes 64) s.ev.v r.2), ?_, ?_, fun o ho => Part.read_put_ne _ _ (.inl ho)⟩
  · rw [exec_registerWrite_part hs hb (by omega) h8 ha, State.writePart_plain _ _ r hr, State.onPart_eq]
  · rw [Part.read_put_self _ _ r hr, rwBits_whole]

/-! ### Bits of a masked dword -/

/-- Bits hi to lo of a dword of which a field that covers them is kept. -/
theorem bits_and_field {w f : Word} {hi lo : Nat} (hlo : lo ≤ hi) (hf : ∀ i, lo ≤ i → i ≤ hi → f.getLsbD i = true) : bits (w &&& f) hi lo = bits w hi lo := by
  refine Nat.eq_of_testBit_eq fun j => ?_
  rw [bits_testBit, bits_testBit, BitVec.getLsbD_and]
  by_cases hj : j < hi + 1 - lo
  · rw [hf (lo + j) (by omega) (by omega), Bool.and_true]
  · rw [decide_eq_false hj, Bool.false_and, Bool.false_and]

/-- The bits of PCFG that a write keeps as written (R374). -/
theorem pcfgField_bits : ∀ b < 64, (maskBits 39 32 ||| maskBits 10 8 ||| maskBits 4 4 ||| maskBits 0 0).getLsbD b =
    decide (b = 0 ∨ b = 4 ∨ (8 ≤ b ∧ b ≤ 10) ∨ (32 ≤ b ∧ b ≤ 39)) := by decide

theorem maskOne_bits : ∀ b < 64, (maskBits 1 1).getLsbD b = decide (b = 1) := by decide

theorem pcfg_bits (old v : Word) (b : Nat) :
    (w1cBits (rwBits old (BitVec.allOnes 64) v (maskBits 39 32 ||| maskBits 10 8 ||| maskBits 4 4 ||| maskBits 0 0)) (BitVec.allOnes 64) v (maskBits 1 1)).getLsbD b =
      if b = 0 ∨ b = 4 ∨ (8 ≤ b ∧ b ≤ 10) ∨ (32 ≤ b ∧ b ≤ 39) then v.getLsbD b else old.getLsbD b && !(decide (b = 1) && v.getLsbD 1) := by
  by_cases hb : b < 64
  · rw [w1cBits_whole, rwBits_whole, BitVec.getLsbD_and, BitVec.getLsbD_or, BitVec.getLsbD_and, BitVec.getLsbD_and, BitVec.getLsbD_not, BitVec.getLsbD_not,
      BitVec.getLsbD_and, pcfgField_bits b hb, maskOne_bits b hb, decide_eq_true hb]
    by_cases h : b = 0 ∨ b = 4 ∨ (8 ≤ b ∧ b ≤ 10) ∨ (32 ≤ b ∧ b ≤ 39)
    · rw [if_pos h, decide_eq_true h, decide_eq_false (show ¬b = 1 by omega)]
      simp
    · rw [if_neg h, decide_eq_false h]
      by_cases h1 : b = 1
      · subst h1; simp
      · simp [h1]
  · rw [BitVec.getLsbD_of_ge _ _ (by omega), BitVec.getLsbD_of_ge v _ (by omega), BitVec.getLsbD_of_ge old _ (by omega), Bool.false_and, ite_self]

theorem registerWrite_pcfg (hs : s.dev.stage = 3) (hb : s.ev.b = 1 ∨ s.dev.hostUp = true) (ha : s.ev.a = 0x1000000 + p.val * 0x100000 + 0x008) :
    ∃ y, exec .registerWrite s = .next (s.onPart p fun _ => y) ∧ (∀ b, y.pcfg.getLsbD b =
      (if b = 0 ∨ b = 4 ∨ (8 ≤ b ∧ b ≤ 10) ∨ (32 ≤ b ∧ b ≤ 39) then s.ev.v.getLsbD b
        else (s.parts[p]).pcfg.getLsbD b && !(decide (b = 1) && s.ev.v.getLsbD 1))) ∧ ∀ o, o ≠ 0x008 → y.read o = (s.parts[p]).read o := by
  rw [exec_registerWrite_part hs hb (by decide) (by decide) ha]
  exact ⟨(s.parts[p]).put 0x008 _, rfl, pcfg_bits _ _, fun o ho => Part.read_put_ne _ _ (.inl ho)⟩

/-! ### Base registers -/

theorem setBit_one_true (w : Word) : setBit w 1 true = w ||| 2#64 := by
  refine BitVec.eq_of_getLsbD_eq fun i hi => ?_
  rw [setBit_getLsbD (by decide), BitVec.getLsbD_or]
  have h2 : ∀ j < 64, (2#64).getLsbD j = decide (j = 1) := by decide
  rw [h2 i hi]
  by_cases h : i = 1
  · simp [h]
  · simp [h]

theorem Part.cerr_eq (x : Part) : x.cerr = x.refusing := congrArg (fun w => { x with pcfg := w }) (setBit_one_true _)

theorem inHbm_iff {a n al : Nat} : inHbm a n al = true ↔ a + n ≤ 768 * 2 ^ 30 ∧ a % al = 0 := by
  rw [inHbm, Bool.and_eq_true, decide_eq_true_eq, beq_iff_eq]
  rfl

/-- A base register taken, or refused with CERR. -/
theorem State.onPart_taken {b : Bool} {P : Prop} [Decidable P] (h : b = true ↔ P) (g : Part → Part) :
    (if b then s.onPart p g else s.onPart p Part.cerr) = s.onPart p fun _ => if P then g s.parts[p] else (s.parts[p]).refusing := by
  by_cases hP : P
  · rw [if_pos (h.mpr hP), if_pos hP, State.onPart_eq]
  · rw [if_neg (h.not.mpr hP), if_neg hP, State.onPart_eq, Part.cerr_eq]

theorem registerWrite_bases (hs : s.dev.stage = 3) (hb : s.ev.b = 1 ∨ s.dev.hostUp = true) :
    let v := s.ev.v
    let x := s.parts[p]
    let at_ := fun o => s.ev.a = 0x1000000 + p.val * 0x100000 + o
    let part := fun (y : Part) => s.onPart p fun _ => y
    (at_ 0x010 → let w := (x.ptbr &&& ~~~0xFFFFFFFFFF000#64) ||| (v &&& 0xFFFFFFFFFF000#64)
      exec .registerWrite s = .next (part (if w.toNat + 4096 ≤ 768 * 2 ^ 30 ∧ w.toNat % 4096 = 0 then { x with ptbr := w } else x.refusing))) ∧
    (at_ 0x030 → exec .registerWrite s = .next (part (if v.toNat + 16 * x.peerlen.toNat ≤ 768 * 2 ^ 30 ∧ v.toNat % 16 = 0 then
      { x with peerbase := v } else x.refusing))) ∧
    (at_ 0x038 → exec .registerWrite s = .next (part (if v.toNat ≤ 256 ∧ x.peerbase.toNat + 16 * v.toNat ≤ 768 * 2 ^ 30 ∧
      x.peerbase.toNat % 16 = 0 then { x with peerlen := v } else x.refusing))) ∧
    (at_ 0x040 → exec .registerWrite s = .next (part (if v.toNat + 64 * 2 ^ x.trlog2.toNat ≤ 768 * 2 ^ 30 ∧ v.toNat % 64 = 0 then
      { x with trbase := v } else x.refusing))) ∧
    (at_ 0x048 → exec .registerWrite s = .next (part (if v.toNat ≤ 31 ∧ x.trbase.toNat + 64 * 2 ^ v.toNat ≤ 768 * 2 ^ 30 ∧
      x.trbase.toNat % 64 = 0 then { x with trlog2 := v } else x.refusing))) := by
  have hm : maskBits 51 12 = 0xFFFFFFFFFF000#64 := by decide
  have h3 : ∀ {n k a m al : Nat}, ((decide (n ≤ k) && inHbm a m al) = true) ↔ (n ≤ k ∧ a + m ≤ 768 * 2 ^ 30 ∧ a % al = 0) := by
    intro n k a m al
    rw [Bool.and_eq_true, decide_eq_true_eq, inHbm_iff]
  dsimp only
  refine ⟨fun ha => ?_, fun ha => ?_, fun ha => ?_, fun ha => ?_, fun ha => ?_⟩ <;>
    rw [exec_registerWrite_part hs hb (by decide) (by decide) ha, State.writePart]
  · rw [rwBits_whole, hm, State.onPart_taken inHbm_iff]
  · rw [rwBits_all, State.onPart_taken inHbm_iff]
  · rw [rwBits_all, State.onPart_taken h3]
  · rw [rwBits_all, State.onPart_taken inHbm_iff]
  · rw [rwBits_all, State.onPart_taken h3]

/-! ### Requests: FCMD, P4 and P5 -/

theorem rwBits_zero (v field : Word) : rwBits 0 (BitVec.allOnes 64) v field = v &&& field := by
  rw [rwBits_whole]
  exact (congrArg (· ||| (v &&& field)) BitVec.zero_and).trans BitVec.zero_or

/-- The fields of FCMD: the action and the firing's number. -/
theorem fcmdField_bits : (∀ i, 61 ≤ i → i ≤ 63 → (maskBits 63 61 ||| maskBits 31 0).getLsbD i = true) ∧
    ∀ i, 0 ≤ i → i ≤ 31 → (maskBits 63 61 ||| maskBits 31 0).getLsbD i = true := by
  refine ⟨fun i h1 h2 => ?_, fun i _ h2 => ?_⟩
  · interval_cases i <;> decide
  · interval_cases i <;> decide

theorem State.writeFcmd_eq (s : State) (p : Fin 16) (w : Word) : s.writeFcmd p w =
    match bits w 63 61 with
    | 1 => (s.onPart p fun x => x.put 0xA0 w).push .fcmdResumePc p.val (bits w 31 0) 0 0
    | 2 => (s.onPart p fun x => x.put 0xA0 w).push .fcmdResumeUtvec p.val (bits w 31 0) 0 0
    | 3 => (s.onPart p fun x => x.put 0xA0 w).pushWith .fcmdSave p.val (bits w 31 0) 0 0
      [(s.onPart p fun x => x.put 0xA0 w).parts[p].p2, (s.onPart p fun x => x.put 0xA0 w).parts[p].p3]
    | 4 => (s.onPart p fun x => x.put 0xA0 w).push .fcmdDiscard p.val (bits w 31 0) 0 0
    | 5 => (s.onPart p fun x => x.put 0xA0 w).push .fcmdKill p.val (bits w 31 0) 0 0
    | _ => s.onPart p fun x => x.put 0xA0 w := rfl

theorem onPart_at_self (s : State) (p : Fin 16) (g : Part → Part) : (s.onPart p g).parts[p] = g s.parts[p] := Vector.getElem_set_self p.isLt

theorem registerWrite_fcmd (hs : s.dev.stage = 3) (hb : s.ev.b = 1 ∨ s.dev.hostUp = true) (ha : s.ev.a = 0x1000000 + p.val * 0x100000 + 0x0A0) :
    ∀ op c, (op, c) ∈ [(Instr.fcmdResumePc, 1), (.fcmdResumeUtvec, 2), (.fcmdSave, 3), (.fcmdDiscard, 4), (.fcmdKill, 5)] →
      s.ev.v.toNat / 2 ^ 61 = c → ∃ y, exec .registerWrite s = .next { s.onPart p fun _ => y with
        agenda := (s.onPart p fun _ => y).agenda ++ [{ agendaEv op p.val (s.ev.v.toNat % 2 ^ 32) 0 0 with
          l := if op = .fcmdSave then [(s.parts[p]).p2, (s.parts[p]).p3] else [] }] } ∧
        ∀ o, o ≠ 0x0A0 → y.read o = (s.parts[p]).read o := by
  intro op c hop hc
  have hw := s.writeFcmd_eq p (s.ev.v &&& (maskBits 63 61 ||| maskBits 31 0))
  have htop : bits (s.ev.v &&& (maskBits 63 61 ||| maskBits 31 0)) 63 61 = c := by
    rw [bits_and_field (by decide) fcmdField_bits.1, ← hc, bits]
    have := s.ev.v.isLt
    omega
  have hlow : bits (s.ev.v &&& (maskBits 63 61 ||| maskBits 31 0)) 31 0 = s.ev.v.toNat % 2 ^ 32 := by
    rw [bits_and_field (by decide) fcmdField_bits.2, bits, Nat.pow_zero, Nat.div_one]
  have hexec : exec .registerWrite s = .next (s.writeFcmd p (s.ev.v &&& (maskBits 63 61 ||| maskBits 31 0))) := by
    rw [exec_registerWrite_part hs hb (by decide) (by decide) ha, ← rwBits_zero]
    rfl
  refine ⟨(s.parts[p]).put 0x0A0 (s.ev.v &&& (maskBits 63 61 ||| maskBits 31 0)), ?_, fun o ho => Part.read_put_ne _ _ (.inl ho)⟩
  rw [hexec, hw, htop, hlow, State.onPart_eq]
  generalize hy : (s.parts[p]).put 0x0A0 (s.ev.v &&& (maskBits 63 61 ||| maskBits 31 0)) = y
  have hp : y.p2 = (s.parts[p]).p2 ∧ y.p3 = (s.parts[p]).p3 := by rw [← hy]; exact ⟨rfl, rfl⟩
  rw [onPart_at_self, hp.1, hp.2]
  simp only [List.mem_cons, Prod.mk.injEq, List.not_mem_nil, or_false] at hop
  rcases hop with ⟨rfl, rfl⟩ | ⟨rfl, rfl⟩ | ⟨rfl, rfl⟩ | ⟨rfl, rfl⟩ | ⟨rfl, rfl⟩ <;> rfl

/-- A request that a new one of the same partition finds open (R201). -/
theorem askPreempt_eq (s : State) (op : Instr) (p : Fin 16) (v : Word) : s.askPreempt op p v =
    { s with agenda := s.agenda ++ [{ agendaEv op p.val 0 0 v with
      l := [(s.parts[p]).p0, (s.parts[p]).p1, (s.parts[p]).p2, (s.parts[p]).p3, if (s.parts[p]).req.isSome ∨
        ∃ e ∈ s.agenda, e.a = p.val ∧ (e.op = .preemptRequest ∨ (e.op = .resumeRequest ∧ e.c = 0)) then 1 else 0] }] } := by
  have hany : ((s.parts[p]).req.isSome || s.agenda.any fun e => (e.op == .preemptRequest || (e.op == .resumeRequest && e.c == 0)) && e.a == p.val) = true ↔
      (s.parts[p]).req.isSome ∨ ∃ e ∈ s.agenda, e.a = p.val ∧ (e.op = .preemptRequest ∨ (e.op = .resumeRequest ∧ e.c = 0)) := by
    rw [Bool.or_eq_true, List.any_eq_true]
    simp only [Bool.and_eq_true, Bool.or_eq_true, beq_iff_eq, and_comm]
  rw [State.askPreempt]
  dsimp only
  rw [if_congr hany rfl rfl]
  rfl

theorem registerWrite_request (hs : s.dev.stage = 3) (hb : s.ev.b = 1 ∨ s.dev.hostUp = true) :
    ∀ o op, (o, op) ∈ [(0x120, Instr.preemptRequest), (0x128, .resumeRequest)] → s.ev.a = 0x1000000 + p.val * 0x100000 + o →
      ∃ y, (∀ o, y.read o = (s.parts[p]).read o) ∧ exec .registerWrite s = .next { s.onPart p fun _ => y with
        agenda := (s.onPart p fun _ => y).agenda ++ [{ agendaEv op p.val 0 0 s.ev.v with
          l := [(s.parts[p]).p0, (s.parts[p]).p1, (s.parts[p]).p2, (s.parts[p]).p3, if (s.parts[p]).req.isSome ∨
            ∃ e ∈ s.agenda, e.a = p.val ∧ (e.op = .preemptRequest ∨ (e.op = .resumeRequest ∧ e.c = 0)) then 1 else 0] }] } := by
  intro o op hop ha
  simp only [List.mem_cons, Prod.mk.injEq, List.not_mem_nil, or_false] at hop
  have hput : ∀ r, 0x120 ≤ r → ∀ o, ((s.parts[p]).put r s.ev.v).read o = (s.parts[p]).read o := fun r hr o => by
    by_cases h : o < 0x120
    · exact Part.read_put_ne _ _ (.inl (by omega))
    · exact Part.read_put_ne _ _ (.inr (by omega))
  rcases hop with ⟨rfl, rfl⟩ | ⟨rfl, rfl⟩
  · refine ⟨(s.parts[p]).put 0x120 s.ev.v, hput _ (by decide), ?_⟩
    rw [exec_registerWrite_part hs hb (by decide) (by decide) ha, State.writePart]
    rw [rwBits_all, askPreempt_eq, onPart_at_self]
    rfl
  · refine ⟨(s.parts[p]).put 0x128 s.ev.v, hput _ (by decide), ?_⟩
    rw [exec_registerWrite_part hs hb (by decide) (by decide) ha, State.writePart]
    rw [rwBits_all, askPreempt_eq, onPart_at_self]
    rfl

end

end Sys2Proof.Machine
end

section
/-! PROOF. Writes to supervisor registers (R4, R86, R201, R339, R340, R373 to R376). -/

namespace Sys2Proof.Machine

section
variable {s : State} {p : Fin 16}

theorem partReg_val (p : Fin 16) (o : Nat) : partReg p.val o = 0x1000000 + p.val * 0x100000 + o := by
  rw [partReg, Nat.mod_eq_of_lt p.isLt]

/-! ### PINT (R375) -/

theorem headD_drop_vector {α : Type} {n : Nat} (xs : Vector α n) (d : α) (i : Fin n) : (xs.toList.drop i.val).headD d = xs[i] := by
  rw [List.headD_eq_head?_getD, List.head?_drop, List.getElem?_eq_getElem (by simp)]
  simp

theorem pint_apart (s : State) (p : Fin 16) (a n : Nat) :
    ((List.range 16).all fun j =>
      let q := (s.parts.toList.drop j).headD Part.reset
      j == p.val || q.len == 0 || n == 0 || decide (a + n ≤ q.start) || decide (q.start + q.len ≤ a)) = true ↔
      ∀ q : Fin 16, q ≠ p → s.parts[q].len = 0 ∨ n = 0 ∨ a + n ≤ s.parts[q].start ∨ s.parts[q].start + s.parts[q].len ≤ a := by
  rw [List.all_eq_true]
  simp only [List.mem_range, Bool.or_eq_true, beq_iff_eq, decide_eq_true_eq]
  refine ⟨fun h q hq => ?_, fun h j hj => ?_⟩
  · have hj := h q.val q.isLt
    rw [headD_drop_vector] at hj
    have hne : q.val ≠ p.val := Fin.val_ne_of_ne hq
    tauto
  · have hget : (s.parts.toList.drop j).headD Part.reset = s.parts[(⟨j, hj⟩ : Fin 16)] := headD_drop_vector s.parts Part.reset ⟨j, hj⟩
    rw [hget]
    by_cases he : j = p.val
    · tauto
    · have := h ⟨j, hj⟩ fun e => he (congrArg Fin.val e)
      tauto

theorem pint_tested (s : State) (a n : Nat) :
    ((List.range 1024).all fun h => !(decide (a ≤ h) && decide (h < a + n)) || ((s.fronds.toList.drop h).headD Frond.reset).tested) = true ↔
      ∀ h : Fin 1024, a ≤ h.val → h.val < a + n → s.fronds[h].tested = true := by
  rw [List.all_eq_true]
  simp only [List.mem_range, Bool.or_eq_true, Bool.not_eq_true', Bool.and_eq_false_iff, decide_eq_false_iff_not]
  refine ⟨fun h j h1 h2 => ?_, fun h j hj => ?_⟩
  · have hj := h j.val j.isLt
    rw [headD_drop_vector] at hj
    tauto
  · have hget : (s.fronds.toList.drop j).headD Frond.reset = s.fronds[(⟨j, hj⟩ : Fin 1024)] := headD_drop_vector s.fronds Frond.reset ⟨j, hj⟩
    rw [hget]
    have := h ⟨j, hj⟩
    tauto

theorem pint_idle (s : State) (p : Fin 16) : (!(s.parts[p].lq.toList.any LQueue.busy)) = true ↔
    ∀ k : Fin 32, (s.parts[p].lq[k]).lqcfg.getLsbD 16 = false ∨
      (s.parts[p].lq[k]).lqhead.toNat % 2 ^ 32 = (s.parts[p].lq[k]).lqtail.toNat % 2 ^ 32 := by
  have hbits : ∀ w : Word, bits w 31 0 = w.toNat % 2 ^ 32 := fun w => by rw [bits, Nat.pow_zero, Nat.div_one]
  have hq : ∀ q : LQueue, q.busy = false ↔ q.lqcfg.getLsbD 16 = false ∨ q.lqhead.toNat % 2 ^ 32 = q.lqtail.toNat % 2 ^ 32 := fun q => by
    rw [LQueue.busy, Bool.and_eq_false_iff, hbits, hbits, bne_eq_false_iff_eq]
    rfl
  rw [Bool.not_eq_true', List.any_eq_false]
  refine ⟨fun h k => (hq _).mp (Bool.not_eq_true _ ▸ h _ (Vector.mem_toList_iff.mpr (Vector.getElem_mem k.isLt))), fun h q hm => ?_⟩
  obtain ⟨i, hi, rfl⟩ := List.getElem_of_mem hm
  rw [Vector.length_toList] at hi
  rw [Bool.not_eq_true]
  exact (hq _).mpr (by simpa using h ⟨i, hi⟩)

theorem pintOk_iff (v : Word) : s.pintOk p v = true ↔ s.pintAllowed p v := by
  have hstart : bits v 9 0 = v.toNat % 2 ^ 10 := by rw [bits, Nat.pow_zero, Nat.div_one]
  have hlen : bits v 42 32 = v.toNat / 2 ^ 32 % 2 ^ 11 := rfl
  rw [State.pintOk, hstart, hlen]
  dsimp only
  rw [Bool.and_eq_true, Bool.and_eq_true, Bool.and_eq_true, Bool.and_eq_true, pint_apart, pint_tested, pint_idle, decide_eq_true_eq, State.pintAllowed,
    State.residents, List.isEmpty_iff, List.filter_eq_nil_iff]
  simp only [beq_iff_eq, and_assoc]

theorem pintField (v : Word) : v &&& (maskBits 9 0 ||| maskBits 42 32) = v &&& 0x7FF000003FF#64 := congrArg (v &&& ·) (by decide)

theorem exec_pintWrite_part (hs : s.dev.stage = 3) (hb : s.ev.b = 1 ∨ s.dev.hostUp = true) (ha : s.ev.a = p.val) :
    exec .pintWrite s = .next (s.writePint p s.ev.v) := by
  rw [exec_pintWrite, execPintWrite, ha, partReg_val, State.regWrite_part hs hb p (by decide) (by decide), State.writePart]
  exact congrArg (fun w => Host.Outcome.next (s.writePint p w)) (rwBits_all _ _)

theorem onPart_at_ne (s : State) {p q : Fin 16} (h : q ≠ p) (g : Part → Part) : (s.onPart p g).parts[q] = s.parts[q] :=
  Vector.getElem_set_ne p.isLt q.isLt (Ne.symm (Fin.val_ne_of_ne h))

theorem pintWrite_clause (hs : s.dev.stage = 3) (hb : s.ev.b = 1 ∨ s.dev.hostUp = true) (ha : s.ev.a = p.val) :
    let v := s.ev.v
    (s.pintAllowed p v → ∃ u : State, exec .pintWrite s = .next u ∧ u = { s with fronds := u.fronds, cores := u.cores, parts := u.parts } ∧
      u.parts[p] = { s.parts[p] with pint := v &&& 0x7FF000003FF#64 } ∧ (∀ q, q ≠ p → u.parts[q] = s.parts[q]) ∧
      (∀ h : Fin 1024, if v.toNat % 2 ^ 10 ≤ h.val ∧ h.val < v.toNat % 2 ^ 10 + v.toNat / 2 ^ 32 % 2 ^ 11 then
          u.fronds[h] = { s.fronds[h] with hs := Vector.replicate 16 0, swin := Vector.replicate 8 0, sorus := Sorus.blank }
        else u.fronds[h] = s.fronds[h])) ∧
    (¬ s.pintAllowed p v → exec .pintWrite s = .next (s.onPart p fun _ => (s.parts[p]).refusing)) := by
  have hstart : bits s.ev.v 9 0 = s.ev.v.toNat % 2 ^ 10 := by rw [bits, Nat.pow_zero, Nat.div_one]
  have hlen : bits s.ev.v 42 32 = s.ev.v.toNat / 2 ^ 32 % 2 ^ 11 := rfl
  dsimp only
  rw [exec_pintWrite_part hs hb ha, State.writePint]
  refine ⟨fun h => ?_, fun h => ?_⟩
  · rw [if_pos (pintOk_iff _ |>.mpr h), hstart, hlen, pintField]
    refine ⟨_, rfl, rfl, onPart_at_self _ p _, fun q hq => onPart_at_ne _ hq _, fun k => ?_⟩
    have hk : (s.fronds.mapIdx fun h f => if (s.ev.v.toNat % 2 ^ 10 ≤ h && h < s.ev.v.toNat % 2 ^ 10 + s.ev.v.toNat / 2 ^ 32 % 2 ^ 11) then f.assign else f)[k] =
        if (decide (s.ev.v.toNat % 2 ^ 10 ≤ k.val) && decide (k.val < s.ev.v.toNat % 2 ^ 10 + s.ev.v.toNat / 2 ^ 32 % 2 ^ 11)) then (s.fronds[k]).assign else s.fronds[k] :=
      Vector.getElem_mapIdx k.isLt
    split
    next hin => exact hk.trans (if_pos (by simpa using hin))
    next hout => exact hk.trans (if_neg (by simpa using hout))
  · rw [if_neg ((pintOk_iff _).not.mpr h), State.onPart_eq, Part.cerr_eq]

/-! ### TLBINV (R373) -/

theorem tlbinvField (v : Word) : v &&& (maskBits 63 62 ||| maskBits 56 12) = v &&& 0xC1FFFFFFFFFFF000#64 := congrArg (v &&& ·) (by decide)

theorem exec_tlbinvWrite_part (hs : s.dev.stage = 3) (hb : s.ev.b = 1 ∨ s.dev.hostUp = true) (ha : s.ev.a = p.val) :
    exec .tlbinvWrite s = .next (s.writeTlbinv p (s.ev.v &&& 0xC1FFFFFFFFFFF000#64)) := by
  rw [exec_tlbinvWrite, execTlbinvWrite, ha, partReg_val, State.regWrite_part hs hb p (by decide) (by decide), ← tlbinvField, ← rwBits_zero]
  rfl

/-- The peer a partition's entry i names: valid, of a package that is not lost (R219, R372). -/
def State.livePeer (s : State) (p : Fin 16) (i pkg there : Nat) : Prop :=
  i < min (s.parts[p]).peerlen.toNat 256 ∧ (s.peer p i).1.getLsbD 63 = true ∧ (s.peer p i).1.toNat % 2 ^ 22 = pkg ∧
    (s.peer p i).1.toNat / 2 ^ 22 % 2 ^ 4 = there ∧ pkg ∉ s.lost

theorem mem_livePeers {q : Nat × Nat} : q ∈ s.livePeers p ↔ ∃ i, s.livePeer p i q.1 q.2 := by
  have hlow : ∀ w : Word, bits w 21 0 = w.toNat % 2 ^ 22 := fun w => by rw [bits, Nat.pow_zero, Nat.div_one]
  have hmid : ∀ w : Word, bits w 25 22 = w.toNat / 2 ^ 22 % 2 ^ 4 := fun w => rfl
  rw [State.livePeers, List.mem_eraseDups, List.mem_filterMap]
  simp only [List.mem_range, hlow, hmid]
  refine ⟨fun ⟨i, hi, h⟩ => ⟨i, ?_⟩, fun ⟨i, hi, hv, hpkg, hth, hl⟩ => ⟨i, hi, ?_⟩⟩
  · split at h
    next hc =>
      cases h
      simp only [Bool.and_eq_true, Bool.not_eq_true', List.contains_eq_mem, decide_eq_false_iff_not] at hc
      exact ⟨hi, hc.1, rfl, rfl, hc.2⟩
    next => cases h
  · rw [if_pos, hpkg, hth]
    simp only [Bool.and_eq_true, Bool.not_eq_true', List.contains_eq_mem, decide_eq_false_iff_not, hpkg]
    exact ⟨hv, hl⟩

theorem peerPages_live (v : Word) : ∀ q ∈ s.peerPages p v, (∃ i, s.livePeer p i q.1 q.2.1) ∧ (v.getLsbD 63 = true → q.2.2 = BitVec.ofNat 64 (2 ^ 63)) := by
  intro q hq
  obtain ⟨y, hy, hqy⟩ := List.mem_flatMap.mp hq
  split at hqy
  next =>
    rw [List.mem_singleton] at hqy
    subst hqy
    exact ⟨mem_livePeers.mp hy, fun _ => rfl⟩
  next hs hne =>
    have hf := List.mem_filter.mp hqy
    obtain ⟨hheld, heq⟩ := hf
    rw [Bool.and_eq_true, beq_iff_eq, beq_iff_eq] at heq
    refine ⟨by rw [heq.1, heq.2]; exact mem_livePeers.mp hy, fun h63 => ?_⟩
    rw [if_pos (by exact h63)] at hheld
    cases hheld

theorem peerPages_all (v : Word) {i pkg there : Nat} (h : s.livePeer p i pkg there) : ∃ page, (pkg, there, page) ∈ s.peerPages p v := by
  have hm : (pkg, there) ∈ s.livePeers p := mem_livePeers.mpr ⟨i, h⟩
  rw [State.peerPages]
  generalize (if bit v 63 then [] else s.heldPages p v) = held
  cases hf : held.filter fun h => h.1 == pkg && h.2.1 == there with
  | nil =>
    refine ⟨BitVec.ofNat 64 (2 ^ 63), List.mem_flatMap.mpr ⟨_, hm, ?_⟩⟩
    dsimp only
    rw [hf]
    exact List.mem_singleton_self _
  | cons y ys =>
    have hy : y ∈ held.filter fun h => h.1 == pkg && h.2.1 == there := by rw [hf]; exact List.mem_cons_self
    have heq := (List.mem_filter.mp hy).2
    rw [Bool.and_eq_true, beq_iff_eq, beq_iff_eq] at heq
    obtain ⟨a, b, page⟩ := y
    obtain ⟨rfl, rfl⟩ := heq
    refine ⟨page, List.mem_flatMap.mpr ⟨_, hm, ?_⟩⟩
    dsimp only
    rw [hf]
    exact List.mem_cons_self

/-- A partition whose invalidation starts, with the reports it awaits (R373). -/
def State.invalidating (s : State) (p : Fin 16) (w : Word) (peers : List (Nat × Nat × Word)) : State :=
  { s.onPart p fun _ => { s.parts[p] with tlbinv := w, tlbstat := 1 } with
    agenda := s.agenda ++ [{ agendaEv .tlbinvComplete p.val 0 0 0 with
      l := peers.flatMap fun q => [BitVec.ofNat 64 (2 ^ 62), BitVec.ofNat 64 q.1] }]
    sent := s.sent ++ peers.map fun q => .tlbinv q.1 q.2.1 q.2.2 }

theorem writeTlbinv_free (h : (s.parts[p]).tlbstat.getLsbD 0 = false) (w : Word) : s.writeTlbinv p w = s.invalidating p w (s.peerPages p w) := by
  rw [State.writeTlbinv, if_neg (by rw [bit, h]; decide)]
  dsimp only
  rw [foldl_send _ _ (fun _ (q : Nat × Nat × Word) => Sent.tlbinv q.1 q.2.1 q.2.2) fun _ _ => rfl]
  rfl

theorem tlbinvWrite_clause (hs : s.dev.stage = 3) (hb : s.ev.b = 1 ∨ s.dev.hostUp = true) (ha : s.ev.a = p.val) :
    let v := s.ev.v
    let x := s.parts[p]
    (x.tlbstat.getLsbD 0 = true → exec .tlbinvWrite s =
      .next { s with agenda := s.agenda ++ [agendaEv .tlbinvWrite p.val 1 0 (v &&& 0xC1FFFFFFFFFFF000#64)] }) ∧
    (x.tlbstat.getLsbD 0 = false →
      let w := v &&& 0xC1FFFFFFFFFFF000#64
      let peers := s.peerPages p w
      exec .tlbinvWrite s = .next (s.invalidating p w peers) ∧
      (∀ q ∈ peers, (∃ i, s.livePeer p i q.1 q.2.1) ∧ (v.getLsbD 63 = true → q.2.2 = BitVec.ofNat 64 (2 ^ 63))) ∧
      ∀ i pkg there, s.livePeer p i pkg there → ∃ page, (pkg, there, page) ∈ peers) := by
  have h63 : (0xC1FFFFFFFFFFF000#64).getLsbD 63 = true := by decide
  dsimp only
  rw [exec_tlbinvWrite_part hs hb ha]
  refine ⟨fun h => ?_, fun h => ⟨by rw [writeTlbinv_free h], fun q hq => ?_, fun i pkg there hl => peerPages_all _ hl⟩⟩
  · rw [State.writeTlbinv, if_pos (by exact h)]
    rfl
  · obtain ⟨hi, hall⟩ := peerPages_live _ q hq
    exact ⟨hi, fun hv => hall (by rw [BitVec.getLsbD_and, hv, h63]; rfl)⟩

/-! ### MSCCFG (R376) -/

theorem mscReg_reads (d : Fin 4) :
    let a := 0x1000 * d.val
    a / 8 * 8 = a ∧ ¬(0x3000000 ≤ a ∧ a < 0x3000018) ∧ ¬(0x3010000 ≤ a ∧ a < 0x3020000) ∧ a < 0x4000 ∧ a % 0x1000 = 0 ∧ a / 0x1000 = d.val ∧
      ¬ 0x4000000 ≤ a := by
  have := d.isLt
  dsimp only
  omega

theorem exec_msccfgWrite_die {d : Fin 4} (hs : s.dev.stage = 3) (hb : s.ev.b = 1 ∨ s.dev.hostUp = true) (ha : s.ev.a = d.val) :
    exec .msccfgWrite s = .next (s.writeMsc d (BitVec.allOnes 64) s.ev.v) := by
  obtain ⟨hal, h1, h2, h3, h4, h5, hkey⟩ := mscReg_reads d
  have hk : keyReg (0x1000 * d.val) = false := by
    rw [keyReg, decide_eq_false hkey]
    rfl
  rw [exec_msccfgWrite, execMsccfgWrite, ha, Nat.mod_eq_of_lt d.isLt, State.regWrite, State.reaches_of hs hb, hk, Bool.and_false, if_neg (by decide), hal]
  generalize 0x1000 * d.val = a at *
  rw [State.ctlWrite, if_neg h1, if_neg h2, if_neg (by rw [hs]; exact not_not_intro rfl), dif_pos h3, if_pos h4]
  exact congrArg (fun e => Host.Outcome.next (s.writeMsc e (BitVec.allOnes 64) s.ev.v)) (Fin.ext h5)

theorem mscValue (v : Word) : setBit (BitVec.ofNat 64 (bits v 2 0)) 63 true = BitVec.ofNat 64 (2 ^ 63 + v.toNat % 8) := by
  rw [bits_low3]
  have hn : v.toNat % 8 < 8 := Nat.mod_lt _ (by decide)
  generalize v.toNat % 8 = n at hn
  interval_cases n <;> decide

theorem msccfgWrite_clause {d : Fin 4} (hs : s.dev.stage = 3) (hb : s.ev.b = 1 ∨ s.dev.hostUp = true) (ha : s.ev.a = d.val) :
    (s.dies[d].msccfg.getLsbD 63 = false → exec .msccfgWrite s = .next { s.onDie d fun y =>
        { y with mscOld := y.msccfg.toNat % 8, msccfg := BitVec.ofNat 64 (2 ^ 63 + s.ev.v.toNat % 8) } with
        agenda := s.agenda ++ [agendaEv .mscChangeComplete d.val 0 0 0] }) ∧
    (s.dies[d].msccfg.getLsbD 63 = true → exec .msccfgWrite s = .next { s with parts := s.parts.map Part.refusing }) := by
  have h0 : (!bit (BitVec.allOnes 64) 0) = false := by decide
  rw [exec_msccfgWrite_die hs hb ha, State.writeMsc, h0, if_neg Bool.false_ne_true]
  refine ⟨fun h => ?_, fun h => ?_⟩
  · rw [if_neg (by rw [bit, h]; decide), mscValue]
    simp only [bits_low3]
    rfl
  · rw [if_pos (by exact h), show Part.cerr = Part.refusing from funext Part.cerr_eq]

/-! ### Launch queues (R86) -/

theorem queueReg_val (p : Fin 16) (q : Fin 32) (r : Nat) : queueReg p.val q.val r = 0x1000000 + p.val * 0x100000 + (0x1000 + 64 * q.val + 8 * r) := by
  rw [queueReg, Nat.mod_eq_of_lt p.isLt, Nat.mod_eq_of_lt q.isLt]
  omega

/-- A write of a queue's register. -/
theorem State.writePart_queue (s : State) (p : Fin 16) (q : Fin 32) {r : Nat} (hr : r < 8) (mask v : Word) :
    s.writePart p (0x1000 + 64 * q.val + 8 * r) mask v = s.writeQueue p q r mask v := by
  have hq := q.isLt
  have h1 : 0x1000 ≤ 0x1000 + 64 * q.val + 8 * r ∧ 0x1000 + 64 * q.val + 8 * r < 0x1800 := by omega
  have h2 : (0x1000 + 64 * q.val + 8 * r - 0x1000) / 64 = q.val := by omega
  have h3 : (0x1000 + 64 * q.val + 8 * r - 0x1000) % 64 / 8 = r := by omega
  generalize 0x1000 + 64 * q.val + 8 * r = o at h1 h2 h3
  unfold State.writePart
  dsimp only
  split
  case h_26 =>
    rw [dif_pos h1, h3]
    exact congrArg (fun j => s.writeQueue p j r mask v) (Fin.ext h2)
  all_goals omega

theorem State.ctlWrite_queue (hs : s.dev.stage = 3) {q : Fin 32} {r : Nat} (hr : r < 8) (hp : s.ev.a = p.val) (hq : s.ev.b = q.val) (mask v : Word) :
    s.ctlWrite (queueReg s.ev.a s.ev.b r) mask v = s.writeQueue p q r mask v := by
  have := q.isLt
  rw [hp, hq, queueReg_val, s.ctlWrite_part hs p (by omega) (by omega), s.writePart_queue p q hr]

/-- The bits of LQCFG that are kept as written: HALTED and LOG2N apart (R86). -/
theorem cfgField_bits : ∀ b < 64, (setBit (maskBits 18 16) 17 false ||| maskBits 11 8).getLsbD b = decide (b = 16 ∨ b = 18 ∨ (8 ≤ b ∧ b ≤ 11)) := by
  decide

theorem maskHalted_bits : ∀ b < 64, (maskBits 17 17).getLsbD b = decide (b = 17) := by decide

/-- LQCFG after a write, before LOG2N is looked at. -/
def cfgKept (old v : Word) : Word :=
  w1cBits (rwBits old (BitVec.allOnes 64) v (setBit (maskBits 18 16) 17 false ||| maskBits 11 8)) (BitVec.allOnes 64) v (maskBits 17 17)

theorem cfgKept_bits (old v : Word) {b : Nat} (hb : b < 64) : (cfgKept old v).getLsbD b =
    if b = 17 then old.getLsbD 17 && !v.getLsbD 17 else if b = 16 ∨ b = 18 ∨ (8 ≤ b ∧ b ≤ 11) then v.getLsbD b else old.getLsbD b := by
  rw [cfgKept, w1cBits_whole, rwBits_whole, BitVec.getLsbD_and, BitVec.getLsbD_or, BitVec.getLsbD_and, BitVec.getLsbD_and, BitVec.getLsbD_not,
    BitVec.getLsbD_not, BitVec.getLsbD_and, cfgField_bits b hb, maskHalted_bits b hb, decide_eq_true hb]
  by_cases h17 : b = 17
  · subst h17; simp
  · rw [if_neg h17, decide_eq_false h17]
    by_cases hf : b = 16 ∨ b = 18 ∨ (8 ≤ b ∧ b ≤ 11)
    · rw [if_pos hf, decide_eq_true hf]; simp
    · rw [if_neg hf, decide_eq_false hf]; simp

theorem bits_low5 (w : Word) : bits w 4 0 = w.toNat % 32 := by rw [bits, Nat.pow_zero, Nat.div_one]; rfl

theorem cfgKept_log2n (old v : Word) : bits (cfgKept old v) 4 0 = old.toNat % 32 := by
  rw [← bits_low5]
  refine bits_congr fun i _ hi => ?_
  rw [cfgKept_bits _ _ (by omega), if_neg (by omega), if_neg (by omega)]

/-- LOG2N a write asks for. -/
def cfgLog (old v : Word) : Nat := if 1 ≤ v.toNat % 32 ∧ v.toNat % 32 ≤ 16 then v.toNat % 32 else old.toNat % 32

/-- LQCFG with LOG2N as asked for. -/
def cfgLogged (old v : Word) : Word :=
  if bit (BitVec.allOnes 64) 0 && 1 ≤ bits v 4 0 && bits v 4 0 ≤ 16 then setBits (cfgKept old v) 4 0 (bits v 4 0) else cfgKept old v

theorem cfgLogged_cond (v : Word) : (bit (BitVec.allOnes 64) 0 && decide (1 ≤ bits v 4 0) && decide (bits v 4 0 ≤ 16)) = true ↔
    1 ≤ v.toNat % 32 ∧ v.toNat % 32 ≤ 16 := by
  have h0 : bit (BitVec.allOnes 64) 0 = true := by decide
  rw [h0, bits_low5, Bool.true_and, Bool.and_eq_true, decide_eq_true_eq, decide_eq_true_eq]

theorem cfgLogged_log2n (old v : Word) : bits (cfgLogged old v) 4 0 = cfgLog old v := by
  rw [cfgLogged, if_congr (cfgLogged_cond v) rfl rfl, cfgLog]
  by_cases h : 1 ≤ v.toNat % 32 ∧ v.toNat % 32 ≤ 16
  · rw [if_pos h, if_pos h, bits_setBits_same (by decide), bits_low5]
    exact Nat.mod_eq_of_lt (Nat.mod_lt _ (by decide))
  · rw [if_neg h, if_neg h, cfgKept_log2n]

theorem cfgLogged_bits (old v : Word) {b : Nat} (hb : 5 ≤ b) : (cfgLogged old v).getLsbD b = (cfgKept old v).getLsbD b := by
  unfold cfgLogged
  split
  · rw [setBits_getLsbD (by decide), if_neg (by omega)]
  · rfl

theorem writeCfg_eq (y : LQueue) (v : Word) : y.writeCfg (BitVec.allOnes 64) v =
    { y with lqcfg := if bits (cfgLogged y.lqcfg v) 4 0 = 0 then setBit (cfgLogged y.lqcfg v) 16 false else cfgLogged y.lqcfg v } := rfl

/-- LQCFG after a write, bit by bit (R86). -/
theorem writeCfg_bits (y : LQueue) (v : Word) (b : Nat) : (y.writeCfg (BitVec.allOnes 64) v).lqcfg.getLsbD b = cfgAfter y.lqcfg v b := by
  rw [writeCfg_eq]
  dsimp only
  have hlow : b < 5 → (cfgLogged y.lqcfg v).getLsbD b = (cfgLog y.lqcfg v).testBit b := fun h => by
    rw [← cfgLogged_log2n, bits_testBit, Nat.zero_add, decide_eq_true (by omega), Bool.true_and]
  have hz : (if bits (cfgLogged y.lqcfg v) 4 0 = 0 then setBit (cfgLogged y.lqcfg v) 16 false else cfgLogged y.lqcfg v).getLsbD b =
      if b = 16 then (cfgLogged y.lqcfg v).getLsbD b && decide (cfgLog y.lqcfg v ≠ 0) else (cfgLogged y.lqcfg v).getLsbD b := by
    rw [cfgLogged_log2n]
    by_cases hn : cfgLog y.lqcfg v = 0
    · rw [if_pos hn, setBit_getLsbD (by decide)]
      simp [hn]
    · rw [if_neg hn]
      simp [hn]
  rw [hz]
  unfold cfgAfter
  dsimp only
  rw [show (if 1 ≤ v.toNat % 32 ∧ v.toNat % 32 ≤ 16 then v.toNat % 32 else y.lqcfg.toNat % 32) = cfgLog y.lqcfg v from rfl]
  by_cases h5 : b < 5
  · rw [if_neg (by omega), if_pos h5, hlow h5]
  rw [if_neg h5, cfgLogged_bits _ _ (by omega)]
  by_cases hb : b < 64
  · rw [cfgKept_bits _ _ hb]
    by_cases h16 : b = 16
    · subst h16; simp
    by_cases h17 : b = 17
    · subst h17; simp
    rw [if_neg h16, if_neg h17, if_neg h16, if_neg h17]
    by_cases hf : b = 18 ∨ (8 ≤ b ∧ b ≤ 11)
    · rw [if_pos hf, if_pos (.inr hf)]
    · rw [if_neg hf, if_neg (by omega)]
  · rw [if_neg (by omega), if_neg (by omega), if_neg (by omega), if_neg (by omega), BitVec.getLsbD_of_ge _ _ (by omega),
      BitVec.getLsbD_of_ge _ _ (by omega)]

/-- A queue replaced, and the launch unit told to look at it (R86, R87). -/
def State.queueSet (s : State) (p : Fin 16) (q : Fin 32) (z : LQueue) : State :=
  { s.onPart p fun x => { x with lq := x.lq.set q z } with agenda := s.agenda ++ [agendaEv .launchRecordRead p.val q.val 0 0] }

theorem State.onQueue_poke (s : State) (p : Fin 16) (q : Fin 32) (g : LQueue → LQueue) :
    (s.onQueue p q g).pokeQueue p q = s.queueSet p q (g (s.parts[p]).lq[q]) := rfl

theorem queueSet_queue (s : State) (p : Fin 16) (q : Fin 32) (z : LQueue) : ((s.queueSet p q z).parts[p]).lq[q] = z := by
  have h : (s.queueSet p q z).parts[p] = { s.parts[p] with lq := (s.parts[p]).lq.set q z } :=
    onPart_at_self s p fun x => { x with lq := x.lq.set q z }
  rw [h]
  exact Vector.getElem_set_self q.isLt

theorem lqcfgWrite_clause (hs : s.dev.stage = 3) {q : Fin 32} (hp : s.ev.a = p.val) (hq : s.ev.b = q.val) :
    let y := (s.parts[p]).lq[q]
    ∃ z, exec .lqcfgWrite s = .next (if y.team.isSome then
        { s.queueSet p q z with agenda := (s.queueSet p q z).agenda ++ [agendaEv .dependencesMet p.val q.val 0 0] ++ [agendaEv .firingPlace p.val 0 0 0] }
      else s.queueSet p q z) ∧ z = { y with lqcfg := z.lqcfg } ∧ ∀ b, z.lqcfg.getLsbD b = cfgAfter y.lqcfg s.ev.v b := by
  intro y
  refine ⟨y.writeCfg (BitVec.allOnes 64) s.ev.v, ?_, rfl, writeCfg_bits y s.ev.v⟩
  rw [exec_lqcfgWrite, execLqcfgWrite, State.ctlWrite_queue hs (by decide) hp hq, State.writeQueue, State.onQueue_poke, State.rekindle, queueSet_queue]
  rw [show (y.writeCfg (BitVec.allOnes 64) s.ev.v).team = y.team from rfl]
  cases y.team <;> rfl

theorem tail_low (old v : Word) : bits (rwBits old (BitVec.allOnes 64) v (maskBits 31 0)) 31 0 = v.toNat % 2 ^ 32 := by
  have hf : ∀ i ≤ 31, (maskBits 31 0).getLsbD i = true := fun i hi => by interval_cases i <;> decide
  have hv : bits v 31 0 = v.toNat % 2 ^ 32 := by rw [bits, Nat.pow_zero, Nat.div_one]
  rw [← hv]
  refine bits_congr fun i _ hi => ?_
  rw [rwBits_whole, BitVec.getLsbD_or, BitVec.getLsbD_and, BitVec.getLsbD_and, BitVec.getLsbD_not, hf i hi]
  simp

theorem writeTail_ignored {y : LQueue} (h : y.lqcfg.toNat % 32 = 0 ∨ y.lqcfg.getLsbD 18 = true) (w : Word) : y.writeTail w = y := by
  rw [LQueue.writeTail, LQueue.log2n, bits_low5]
  exact if_pos (by rw [Bool.or_eq_true, decide_eq_true_eq]; exact h)

theorem setBit_halted (w : Word) : setBit w 17 true = w ||| 0x20000#64 := by
  refine BitVec.eq_of_getLsbD_eq fun i hi => ?_
  have h2 : ∀ j < 64, (0x20000#64).getLsbD j = decide (j = 17) := by decide
  rw [setBit_getLsbD (by decide), BitVec.getLsbD_or, h2 i hi]
  by_cases h : i = 17
  · simp [h]
  · simp [h]

/-- A tail as written, and what an overrun leaves (R86). -/
theorem writeTail_taken {y : LQueue} (hn : y.lqcfg.toNat % 32 ≠ 0) (h18 : y.lqcfg.getLsbD 18 = false) (v : Word) :
    let n := y.lqcfg.toNat % 32
    let hd := y.lqhead.toNat % 2 ^ 32
    let z := y.writeTail (rwBits y.lqtail (BitVec.allOnes 64) v (maskBits 31 0))
    z.lqtail.toNat = v.toNat % 2 ^ 32 ∧ z.lqhead = y.lqhead ∧ z.lqbase = y.lqbase ∧ z.team = y.team ∧
      (((v.toNat % 2 ^ 32 + 2 ^ 32 - hd) % 2 ^ 32 ≤ 2 ^ n → z.lqcfg = y.lqcfg ∧ z.lqerr = y.lqerr) ∧
       (2 ^ n < (v.toNat % 2 ^ 32 + 2 ^ 32 - hd) % 2 ^ 32 → z.lqcfg = y.lqcfg ||| 0x20000#64 ∧
          z.lqerr = if y.lqerr.getLsbD 8 then y.lqerr else BitVec.ofNat 64 ((hd + 2 ^ n) % 2 ^ 32 * 2 ^ 32 + 0x13E))) := by
  intro n hd z
  have hhd : bits y.lqhead 31 0 = hd := by rw [bits, Nat.pow_zero, Nat.div_one]
  have htail : (BitVec.ofNat 64 (v.toNat % 2 ^ 32)).toNat = v.toNat % 2 ^ 32 := by
    rw [BitVec.toNat_ofNat]
    omega
  have hz : z = if (v.toNat % 2 ^ 32 + 2 ^ 32 - hd) % 2 ^ 32 ≤ 2 ^ n then { y with lqtail := BitVec.ofNat 64 (v.toNat % 2 ^ 32) }
      else { ({ y with lqtail := BitVec.ofNat 64 (v.toNat % 2 ^ 32) } : LQueue).latch 0x3E (hd + 2 ^ n) with lqcfg := setBit y.lqcfg 17 true } := by
    show LQueue.writeTail y _ = _
    rw [LQueue.writeTail, LQueue.log2n, bits_low5]
    rw [if_neg (by rw [Bool.or_eq_true, decide_eq_true_eq, bit, h18]; simpa using hn), tail_low, hhd]
  by_cases hfit : (v.toNat % 2 ^ 32 + 2 ^ 32 - hd) % 2 ^ 32 ≤ 2 ^ n
  · rw [hz, if_pos hfit]
    exact ⟨htail, rfl, rfl, rfl, fun _ => ⟨rfl, rfl⟩, fun h => absurd hfit (Nat.not_le.mpr h)⟩
  · rw [hz, if_neg hfit, LQueue.latch, setBit_halted]
    by_cases h8 : y.lqerr.getLsbD 8 = true
    · rw [if_pos (by exact h8), if_pos h8]
      exact ⟨htail, rfl, rfl, rfl, fun h => absurd h hfit, fun _ => ⟨rfl, rfl⟩⟩
    · rw [if_neg (by exact h8), if_neg h8]
      exact ⟨htail, rfl, rfl, rfl, fun h => absurd h hfit, fun _ => ⟨rfl, rfl⟩⟩

theorem exec_hostLqtailWrite_open (hs : s.dev.stage = 3) {q : Fin 32} (hp : s.ev.a = p.val) (hq : s.ev.b = q.val) (hup : s.dev.hostUp = true)
    (hvf : s.ev.c = 1 → s.dev.vfMask.getLsbD p.val = true ∧ s.dev.vfEn.getLsbD p.val = true) :
    exec .hostLqtailWrite s = .next (s.queueSet p q ((s.parts[p]).lq[q].writeTail
      (rwBits (s.parts[p]).lq[q].lqtail (BitVec.allOnes 64) s.ev.v (maskBits 31 0)))) := by
  have hmod : s.ev.a % 16 = p.val := by rw [hp, Nat.mod_eq_of_lt p.isLt]
  have hc : (!s.dev.hostUp || (s.ev.c == 1 && !(s.dev.vfMask &&& s.dev.vfEn).getLsbD (s.ev.a % 16))) = false := by
    rw [hup, hmod, BitVec.getLsbD_and]
    by_cases h1 : s.ev.c = 1
    · rw [(hvf h1).1, (hvf h1).2]; simp
    · simp [h1]
  rw [exec_hostLqtailWrite, execHostLqtailWrite, hc, if_neg Bool.false_ne_true, State.ctlWrite_queue hs (by decide) hp hq, State.writeQueue,
    State.onQueue_poke]

theorem hostLqtailWrite_closed (hp : s.ev.a = p.val) :
    (s.dev.hostUp = false → exec .hostLqtailWrite s = .next s) ∧
    (s.ev.c = 1 → (s.dev.vfMask.getLsbD p.val = false ∨ s.dev.vfEn.getLsbD p.val = false) → exec .hostLqtailWrite s = .next s) := by
  have hmod : s.ev.a % 16 = p.val := by rw [hp, Nat.mod_eq_of_lt p.isLt]
  rw [exec_hostLqtailWrite, execHostLqtailWrite]
  refine ⟨fun h => if_pos (by rw [h]; rfl), fun hc h => if_pos ?_⟩
  rw [hc, hmod, BitVec.getLsbD_and]
  rcases h with h | h
  · rw [h, Bool.false_and]
    exact Bool.or_true _
  · rw [h, Bool.and_false]
    exact Bool.or_true _

/-! ### Order log registers (R339, R340) -/

theorem State.writePart_log (s : State) (p : Fin 16) (d : Fin 4) {r : Nat} (hr : r < 4) (mask v : Word) :
    s.writePart p (0x2000 + 32 * d.val + 8 * r) mask v = (s.onPart p fun x => x.writeLog d r mask v).unholdPlacements p d := by
  have hd := d.isLt
  have h1 : ¬(0x1000 ≤ 0x2000 + 32 * d.val + 8 * r ∧ 0x2000 + 32 * d.val + 8 * r < 0x1800) := by omega
  have h2 : 0x2000 ≤ 0x2000 + 32 * d.val + 8 * r ∧ 0x2000 + 32 * d.val + 8 * r < 0x2080 := by omega
  have h3 : (0x2000 + 32 * d.val + 8 * r - 0x2000) / 32 = d.val := by omega
  have h4 : (0x2000 + 32 * d.val + 8 * r - 0x2000) % 32 / 8 = r := by omega
  generalize 0x2000 + 32 * d.val + 8 * r = o at h1 h2 h3 h4
  unfold State.writePart
  split
  case h_26 =>
    rw [dif_neg h1, dif_pos h2, h4]
    exact congrArg (fun e => (s.onPart p fun x => x.writeLog e r mask v).unholdPlacements p e) (Fin.ext h3)
  all_goals omega

/-- The placements that a full log of die d of partition p held, tried again where a write leaves room (R340). -/
def State.freed (s : State) (p : Fin 16) (d : Fin 4) (t : State) : State :=
  if (t.parts[p].logpos[d]).toNat % 2 ^ 32 ≠ (t.parts[p].loglen[d]).toNat % 2 ^ 32 ∧
      (∃ u ∈ s.teams, u.part = p ∧ u.held = true ∧ u.heldDie = some d.val) then
    { t with
      teams := t.teams.map fun (u : Team) => if u.part = p ∧ u.held = true ∧ u.heldDie = some d.val then { u with held := false } else u
      agenda := t.agenda ++ [agendaEv .firingPlace p.val 0 0 0] }
  else t

theorem unhold_freed (s : State) (p : Fin 16) (d : Fin 4) {t : State} (ht : t.teams = s.teams) : t.unholdPlacements p d = s.freed p d t := by
  have hmine : ∀ u : Team, (u.part == p && u.held && u.heldDie == some d.val) = true ↔ u.part = p ∧ u.held = true ∧ u.heldDie = some d.val := fun u => by
    rw [Bool.and_eq_true, Bool.and_eq_true, beq_iff_eq, beq_iff_eq, and_assoc]
  have hroom : (t.parts[p].logRoom d && t.teams.any fun u => u.part == p && u.held && u.heldDie == some d.val) = true ↔
      (t.parts[p].logpos[d]).toNat % 2 ^ 32 ≠ (t.parts[p].loglen[d]).toNat % 2 ^ 32 ∧
        ∃ u ∈ s.teams, u.part = p ∧ u.held = true ∧ u.heldDie = some d.val := by
    rw [Bool.and_eq_true, Part.logRoom, bne_iff_ne, List.any_eq_true, ht, bits, bits, Nat.pow_zero, Nat.div_one, Nat.div_one]
    simp only [hmine]
  rw [State.unholdPlacements, State.freed]
  dsimp only
  rw [if_congr hroom rfl rfl]
  simp only [hmine]
  rfl

theorem logRegisterWrite_clause (hs : s.dev.stage = 3) {d : Fin 4} (hp : s.ev.a = p.val) (hd : s.ev.b = d.val) :
    let x := s.parts[p]
    let into := fun (o m : Word) => (o &&& ~~~m) ||| (s.ev.v &&& m)
    (s.ev.c = 0 → exec .logRegisterWrite s =
      .next (s.freed p d (s.onPart p fun _ => { x with logbase := x.logbase.set d (into x.logbase[d] 0x1FFFFFFFFFFFFF0) }))) ∧
    (s.ev.c = 1 → exec .logRegisterWrite s = .next (s.freed p d (s.onPart p fun _ => { x with loglen := x.loglen.set d (into x.loglen[d] 0xFFFFFFFF) }))) ∧
    (s.ev.c = 2 → exec .logRegisterWrite s = .next (s.freed p d (s.onPart p fun _ => { x with logpos := x.logpos.set d (into x.logpos[d] 0xFFFFFFFF) }))) := by
  dsimp only
  have hbase : maskBits 56 4 = (0x1FFFFFFFFFFFFF0 : Word) := by decide
  have hlow : maskBits 31 0 = (0xFFFFFFFF : Word) := by decide
  have hreg : ∀ r, r < 3 → s.ev.c = r → exec .logRegisterWrite s = .next (s.freed p d (s.onPart p fun _ => (s.parts[p]).writeLog d r (BitVec.allOnes 64) s.ev.v)) := by
    intro r hr hc
    have hdl := d.isLt
    have hoff : 0x1000000 + s.ev.a % 16 * 0x100000 + 0x2000 + 32 * (s.ev.b % 4) + 8 * (s.ev.c % 3) =
        0x1000000 + p.val * 0x100000 + (0x2000 + 32 * d.val + 8 * r) := by
      rw [hp, hd, hc, Nat.mod_eq_of_lt p.isLt, Nat.mod_eq_of_lt hdl, Nat.mod_eq_of_lt hr]
      omega
    rw [exec_logRegisterWrite, execLogRegisterWrite, hoff, s.ctlWrite_part hs p (by omega) (by omega), s.writePart_log p d (by omega),
      unhold_freed s p d (t := s.onPart p _) rfl, State.onPart_eq]
  refine ⟨fun hc => ?_, fun hc => ?_, fun hc => ?_⟩
  · rw [hreg 0 (by decide) hc, Part.writeLog, rwBits_whole, hbase]
  · rw [hreg 1 (by decide) hc, Part.writeLog, rwBits_whole, hlow]
  · rw [hreg 2 (by decide) hc, Part.writeLog, rwBits_whole, hlow]

/-! ### TRHEAD, and the ends of an invalidation and of a change of the cache (R373, R374, R376) -/

theorem trheadWrite_clause (hs : s.dev.stage = 3) (hp : s.ev.a = p.val) : exec .trheadWrite s =
    .next (s.onPart p fun _ => { s.parts[p] with trhead := ((s.parts[p]).trhead &&& ~~~0xFFFFFFFF#64) ||| (s.ev.v &&& 0xFFFFFFFF#64) }) := by
  have hlow : maskBits 31 0 = 0xFFFFFFFF#64 := by decide
  rw [exec_trheadWrite, execTrheadWrite, hp, partReg_val, s.ctlWrite_part hs p (by decide) (by decide), State.writePart, State.onPart_eq]
  rw [rwBits_whole, hlow]

theorem quiet_iff : s.quiet p = true ↔ s.allDone p := by
  have hchan : (s.fronds.toList.all fun x => x.chans.toList.all fun c => c.all fun c => c.part != p || c.pends.isEmpty) = true ↔
      ∀ (h : Fin 1024) (k : Fin 4) (c : Copy), (s.fronds[h]).chans[k] = some c → c.part = p → c.pends = [] := by
    rw [List.all_eq_true]
    refine ⟨fun h g k c hc hp => ?_, fun h x hx => List.all_eq_true.mpr fun o ho => ?_⟩
    · have hx := List.all_eq_true.mp (h _ (Vector.mem_toList_iff.mpr (Vector.getElem_mem g.isLt))) _
        (Vector.mem_toList_iff.mpr (Vector.getElem_mem k.isLt))
      rw [show (s.fronds[g.val]).chans[k.val] = some c from hc, Option.all_some, hp, bne_self_eq_false, Bool.false_or, List.isEmpty_iff] at hx
      exact hx
    · obtain ⟨g, hg, rfl⟩ := List.getElem_of_mem hx
      obtain ⟨k, hk, rfl⟩ := List.getElem_of_mem ho
      rw [Vector.length_toList] at hg hk
      cases hc : ((s.fronds.toList[g]).chans.toList[k]) with
      | none => rfl
      | some c =>
        rw [Option.all_some, Bool.or_eq_true, bne_iff_ne, List.isEmpty_iff]
        by_cases hp : c.part = p
        · exact .inr (h ⟨g, hg⟩ ⟨k, hk⟩ c (by simpa using hc) hp)
        · exact .inl hp
  have hcore : (s.cores.toList.all fun c => c.busy.all fun r => r.part != p || r.applied) = true ↔
      ∀ c : Fin 2048, ∀ r ∈ (s.cores[c]).busy, r.part = p → r.applied = true := by
    rw [List.all_eq_true]
    refine ⟨fun h g r hr hp => ?_, fun h x hx => List.all_eq_true.mpr fun r hr => ?_⟩
    · have hx := List.all_eq_true.mp (h _ (Vector.mem_toList_iff.mpr (Vector.getElem_mem g.isLt))) r hr
      rw [hp, bne_self_eq_false, Bool.false_or] at hx
      exact hx
    · obtain ⟨g, hg, rfl⟩ := List.getElem_of_mem hx
      rw [Vector.length_toList] at hg
      rw [Bool.or_eq_true, bne_iff_ne]
      by_cases hp : r.part = p
      · exact .inr (h ⟨g, hg⟩ r (by simpa using hr) hp)
      · exact .inl hp
  have hwait : (!s.retry.any (s.waitsFor p)) = true ↔ (∀ w ∈ s.retry, w.peer = none → ∀ f, s.firing? w.adm = some f → f.part ≠ p) ∧
      ∀ w ∈ s.retry, ∀ q, w.peer = some q → q.part ≠ p.val := by
    rw [Bool.not_eq_true', List.any_eq_false, ← forall₂_and]
    refine forall₂_congr fun w _ => ?_
    rw [State.waitsFor]
    cases w.peer with
    | none => cases s.firing? w.adm <;> simp
    | some q => simp
  have hfir : ((s.residents p).all fun f => f.pends.isEmpty) = true ↔ ∀ f ∈ s.firings, f.part = p → f.pends = [] := by
    rw [State.residents, List.all_eq_true]
    simp only [List.mem_filter, beq_iff_eq, and_imp, List.isEmpty_iff]
  have hun : (s.unacked.all fun u => u.part != p) = true ↔ ∀ u ∈ s.unacked, u.part ≠ p := by
    rw [List.all_eq_true]
    simp only [bne_iff_ne]
  have hin : (!(s.inreqs.any fun r => r.again && r.part == p.val)) = true ↔ ∀ r ∈ s.inreqs, r.again = true → r.part ≠ p.val := by
    rw [Bool.not_eq_true', List.any_eq_false]
    simp only [Bool.and_eq_true, beq_iff_eq, not_and, ne_eq]
  rw [State.quiet, Bool.and_eq_true, Bool.and_eq_true, Bool.and_eq_true, Bool.and_eq_true, Bool.and_eq_true, hfir, hun, hwait, hin, hcore, hchan,
    State.allDone]
  simp only [and_assoc]

theorem exec_tlbinvComplete_part (hp : s.ev.a = p.val) :
    (s.ev.b = 2 → s.allDone p → exec .tlbinvComplete s = .next { s with sent := s.sent ++ [.tlbinvDone s.ev.c p.val] }) ∧
    (s.ev.b = 0 → ((s.parts[p]).tlbstat.getLsbD 0 = false ∨ ¬ s.allDone p ∨ s.marksOpen s.ev.l = true) → exec .tlbinvComplete s = .next s) ∧
    (s.ev.b = 0 → (s.parts[p]).tlbstat.getLsbD 0 = true → s.allDone p → s.marksOpen s.ev.l = false →
      exec .tlbinvComplete s = .next ((s.dropTlb p (s.parts[p]).tlbinv).onPart p fun x => { x with tlbstat := 0 })) := by
  have hn : partNo s.ev.a = p := by rw [hp, partNo_val]
  rw [exec_tlbinvComplete, execTlbinvComplete]
  simp only [hn]
  refine ⟨fun hb hd => ?_, fun hb h => ?_, fun hb ht hd hm => ?_⟩
  · rw [if_neg (by omega), if_pos hb, if_pos (quiet_iff.mpr hd)]
    rfl
  · rw [if_neg (by omega), if_neg (by omega), if_pos]
    rw [Bool.or_eq_true, Bool.or_eq_true, Bool.not_eq_true', Bool.not_eq_true', or_assoc]
    exact h.imp_right (Or.imp_left fun hd => Bool.eq_false_iff.mpr (quiet_iff.not.mpr hd))
  · rw [if_neg (by omega), if_neg (by omega), if_neg]
    rw [bit, ht, quiet_iff.mpr hd, hm]
    decide

/-- A translation that an invalidation of a partition does not name (R373). -/
theorem tlbNamed_not {w : Word} {e : Tlb} : (!tlbNamed p w e) = true ↔ e.part ≠ p ∨ (w.getLsbD 62 = true ∧ e.pte.getLsbD 4 = true) ∨
    (w.getLsbD 63 = false ∧ ((w.extractLsb' 12 45).toNat * 4096 + 4096 ≤ e.va ∨ e.va + e.size ≤ (w.extractLsb' 12 45).toNat * 4096)) := by
  have hpage : bits w 56 12 = (w.extractLsb' 12 45).toNat := by rw [bits, BitVec.extractLsb'_toNat, Nat.shiftRight_eq_div_pow]
  rw [tlbNamed, hpage, bit, bit, bit]
  cases w.getLsbD 62 <;> cases w.getLsbD 63 <;> cases e.pte.getLsbD 4 <;> by_cases hp : e.part = p <;> simp [hp]

theorem tlbinvComplete_clause (hp : s.ev.a = p.val) (hb : s.ev.b = 0) (ht : (s.parts[p]).tlbstat.getLsbD 0 = true) (hd : s.allDone p)
    (hm : s.marksOpen s.ev.l = false) :
    let x := s.parts[p]
    ∃ u : State, exec .tlbinvComplete s = .next u ∧ u = { s with dies := u.dies, parts := u.parts } ∧ u.parts[p] = { x with tlbstat := 0 } ∧
      (∀ q, q ≠ p → u.parts[q] = s.parts[q]) ∧ ∀ d : Fin 4, u.dies[d] = { s.dies[d] with tlb := u.dies[d].tlb } ∧
        ∀ e, e ∈ u.dies[d].tlb ↔ e ∈ s.dies[d].tlb ∧ (e.part ≠ p ∨ (x.tlbinv.getLsbD 62 = true ∧ e.pte.getLsbD 4 = true) ∨
          (x.tlbinv.getLsbD 63 = false ∧ ((x.tlbinv.extractLsb' 12 45).toNat * 4096 + 4096 ≤ e.va ∨
            e.va + e.size ≤ (x.tlbinv.extractLsb' 12 45).toNat * 4096))) := by
  intro x
  obtain ⟨-, -, hexec⟩ := exec_tlbinvComplete_part hp
  refine ⟨_, hexec hb ht hd hm, rfl, onPart_at_self _ p _, fun q hq => onPart_at_ne _ hq _, fun d => ?_⟩
  have hdie : (s.dies.map fun (d : Die) => { d with tlb := d.tlb.filter fun t => !tlbNamed p x.tlbinv t })[d] =
      { s.dies[d] with tlb := (s.dies[d]).tlb.filter fun t => !tlbNamed p x.tlbinv t } := Vector.getElem_map _ d.isLt
  generalize hu : (s.dies.map fun (d : Die) => { d with tlb := d.tlb.filter fun t => !tlbNamed p x.tlbinv t }) = dies at hdie
  have hdies : ((s.dropTlb p x.tlbinv).onPart p fun x => { x with tlbstat := 0 }).dies = dies := hu
  simp only [show (s.parts[p]).tlbinv = x.tlbinv from rfl, hdies]
  rw [show dies[d] = _ from hdie]
  refine ⟨rfl, fun e => ?_⟩
  rw [List.mem_filter, tlbNamed_not]

/-! ### The end of a change of the cache (R376) -/

/-- Of a memory in canonical form, what is left by its addresses reads as it did, and the rest as 0. -/
theorem Mem.get_filter (f : Nat → Bool) {m : Mem} (k : Nat) : ∀ {lo : Nat}, Mem.above lo m = true →
    Mem.get (m.filter fun c => f c.1) k = if f k = true then m.get k else 0 := by
  induction m with
  | nil => exact fun _ => (ite_self _).symm
  | cons c m ih =>
    obtain ⟨j, b⟩ := c
    intro lo h
    rw [Mem.above, Bool.and_eq_true, Bool.and_eq_true] at h
    obtain ⟨-, hm⟩ := h
    have hkeep := Mem.above_filter hm fun c => f c.1
    by_cases hf : f j = true
    · rw [List.filter_cons_of_pos (p := fun c : Host.Cell => f c.1) hf, Mem.get, Mem.get, ih hm]
      by_cases hlt : k < j
      · simp [hlt]
      · by_cases heq : k = j
        · simp [heq, hf]
        · simp [hlt, heq]
    · rw [List.filter_cons_of_neg (p := fun c : Host.Cell => f c.1) hf, ih hm, Mem.get]
      by_cases hlt : k < j
      · rw [if_pos hlt, Mem.get_above hm (by omega)]
      · by_cases heq : k = j
        · rw [heq, if_neg hf, if_neg hf]
        · rw [if_neg hlt, if_neg heq]

theorem mscChangeComplete_clause {d : Fin 4} (ha : s.ev.a = d.val) (h63 : s.dies[d].msccfg.getLsbD 63 = true) (hwf : s.mem.wf = true) :
    let old := s.dies[d].mscOld
    let new := s.dies[d].msccfg.toNat % 8
    let back := fun k => shmKey (d.val * 2 ^ 27 + 2 ^ 27 - old * 2 ^ 24) ≤ k ∧ k < shmKey (d.val * 2 ^ 27 + 2 ^ 27 - new * 2 ^ 24)
    ∃ u : State, exec .mscChangeComplete s = .next u ∧ u = { s with mem := u.mem, full := u.full, dies := u.dies } ∧
      u.dies[d] = { s.dies[d] with msccfg := BitVec.ofNat 64 new, mscOld := new } ∧ (∀ e, e ≠ d → u.dies[e] = s.dies[e]) ∧
      (∀ k, back k → u.mem.get k = 0) ∧ (∀ k, ¬ back k → u.mem.get k = s.mem.get k) ∧ ∀ w, w ∈ u.full ↔ w ∈ s.full ∧ ¬ back (8 * w) := by
  intro old new back
  have hd : (⟨s.ev.a % 4, by omega⟩ : Fin 4) = d := Fin.ext ((congrArg (· % 4) ha).trans (Nat.mod_eq_of_lt d.isLt))
  have hback : ∀ k, (!returned d.val old new k) = true ↔ ¬ back k := fun k => by
    rw [returned, Bool.not_eq_true', ← Bool.not_eq_true, Bool.and_eq_true, decide_eq_true_eq, decide_eq_true_eq]
  have hget : ∀ k, Mem.get (s.mem.filter fun y => !returned d.val old new y.1) k = if (!returned d.val old new k) = true then s.mem.get k else 0 :=
    fun k => Mem.get_filter (fun k => !returned d.val old new k) k hwf
  have hexec : exec .mscChangeComplete s = .next ({ s with
      mem := s.mem.filter fun y => !returned d.val old new y.1
      full := s.full.filter fun w => !returned d.val old new (8 * w) }.onDie d fun x =>
    { x with msccfg := BitVec.ofNat 64 new, mscOld := new }) := by
    rw [exec_mscChangeComplete, execMscChangeComplete]
    simp only [hd]
    rw [if_neg (by rw [bit, h63]; decide)]
    simp only [bits_low3]
    simp only [show s.ev.a % 4 = d.val from congrArg Fin.val hd, old, new]
  refine ⟨_, hexec, rfl, Vector.getElem_set_self d.isLt,
    fun e he => Vector.getElem_set_ne d.isLt e.isLt (Ne.symm (Fin.val_ne_of_ne he)), fun k hk => ?_, fun k hk => ?_, fun w => ?_⟩
  · exact (hget k).trans (if_neg fun h => (hback k).mp h hk)
  · exact (hget k).trans (if_pos ((hback k).mpr hk))
  · show w ∈ s.full.filter _ ↔ _
    rw [List.mem_filter, hback]

/-- Settles O41. -/
theorem supervisorRegisters : Obligations.SupervisorRegisters := by
  unfold Obligations.SupervisorRegisters
  intro s p hs
  dsimp only
  refine ⟨fun hb => ?_, fun q hp hq => ?_, fun d hp hd => ?_, fun hp => ?_, fun d ha h63 hwf => mscChangeComplete_clause ha h63 hwf⟩
  · obtain ⟨h10, h30, h38, h40, h48⟩ := registerWrite_bases (p := p) hs hb
    refine ⟨registerWrite_plain hs hb, registerWrite_pcfg hs hb, h10, h30, h38, h40, h48, registerWrite_fcmd hs hb,
      registerWrite_request hs hb, fun ha => ?_, fun d ha => msccfgWrite_clause hs hb ha⟩
    obtain ⟨hok, hbad⟩ := pintWrite_clause hs hb ha
    obtain ⟨hbusy, hfree⟩ := tlbinvWrite_clause hs hb ha
    exact ⟨hok, hbad, hbusy, hfree⟩
  · obtain ⟨hdown, hvf⟩ := hostLqtailWrite_closed hp
    refine ⟨lqcfgWrite_clause hs hp hq, hdown, hvf, fun hup hen => ?_⟩
    have hexec := exec_hostLqtailWrite_open hs hp hq hup hen
    refine ⟨fun h => ?_, fun hn h18 _ => ⟨_, hexec, writeTail_taken hn h18 s.ev.v⟩⟩
    rw [hexec, writeTail_ignored h]
    rfl
  · exact logRegisterWrite_clause hs hp hd
  · obtain ⟨hpeer, hwait, -⟩ := exec_tlbinvComplete_part hp
    exact ⟨trheadWrite_clause hs hp, hpeer, hwait, fun hb ht hd hm => tlbinvComplete_clause hp hb ht hd hm⟩

end

end Sys2Proof.Machine
end

section
/-! SUPPORT. A sector of a copy whose bytes are at hand (R183, R190). -/

namespace Sys2Proof.Machine

/-! ### Places checked in order -/

theorem State.copyPlaces_ok {x : State} {at_ : State → Nat → Except Nat (State × Place)} {g : Nat → Place} {is : List Nat} {k : Nat}
    (h : ∀ i ∈ is, at_ x (k + i) = .ok (x, g i)) : x.copyPlaces at_ (is.map (k + ·)) = .ok (x, is.map g) := by
  induction is with
  | nil => rfl
  | cons i is ih =>
    rw [List.map_cons, State.copyPlaces, h i (List.mem_cons_self ..)]
    refine (congrArg (fun r : Except Nat (State × List Place) => r >>= fun y => .ok (y.1, g i :: y.2))
      (ih fun j hj => h j (List.mem_cons_of_mem _ hj))).trans rfl

theorem State.copyPlaces_fails {x : State} {at_ : State → Nat → Except Nat (State × Place)} {k e i : Nat} {pls : Nat → Place}
    (hi : at_ x (k + i) = .error e) : ∀ n m, m ≤ i → i < m + n → (∀ j, j < i → at_ x (k + j) = .ok (x, pls j)) →
    x.copyPlaces at_ ((List.range' m n).map (k + ·)) = .error e := by
  intro n
  induction n with
  | zero => intro m h1 h2; omega
  | succ n ih =>
    intro m hm hn hb
    rw [List.range'_succ, List.map_cons, State.copyPlaces]
    by_cases hmi : m = i
    · rw [hmi, hi]
      rfl
    · rw [hb m (by omega)]
      exact congrArg (fun r : Except Nat (State × List Place) => r >>= fun y => .ok (y.1, pls m :: y.2)) (ih (m + 1) (by omega) (by omega) hb)

/-! ### A state in which only the channel, the paths used and the home writes read differ -/

/-- A state a copy passes through before it writes: its channel holds o, and the locks, the paths used and the notes of home writes are these. -/
def State.midCopy (t : State) (ch : Fin 4) (o : Option Copy) (ls : List Lock) (ps : List Nat) (lt : List Late) : State :=
  (({ t with late := lt } : State).onFrond t.fir.frond fun z => { z with chans := z.chans.set ch o, locks := ls }).upd fun f => { f with paths := ps }

section
variable {t : State} {ch : Fin 4} {o : Option Copy} {ls : List Lock} {ps : List Nat} {lt : List Late} {ac : Acc} {a : Int} {n : Nat} {pl : Place}

theorem State.midCopy_fr (t : State) (ch : Fin 4) (o : Option Copy) (ls : List Lock) (ps : List Nat) (lt : List Late) :
    (t.midCopy ch o ls ps lt).fronds[t.fir.frond] = { t.fr with chans := t.fr.chans.set ch o, locks := ls } :=
  Vector.getElem_set_self t.fir.frond.isLt

theorem State.midCopy_start (h : t.fr.chans[ch] = o) : t.midCopy ch o t.fr.locks t.fir.paths t.late = t := by
  have hc : t.fr.chans.set ch o = t.fr.chans := by
    rw [← h]
    exact Vector.set_getElem_self ch.isLt
  have hf : t.fronds.set t.fir.frond { t.fr with chans := t.fr.chans.set ch o, locks := t.fr.locks } = t.fronds := by
    rw [hc]
    exact Vector.set_getElem_self t.fir.frond.isLt
  exact congrArg (fun fs => ({ t with fronds := fs } : State)) hf

theorem State.onFrond_onFrond (s : State) (h : Fin 1024) (f g : Frond → Frond) : (s.onFrond h f).onFrond h g = s.onFrond h fun x => g (f x) := by
  unfold State.onFrond
  dsimp only
  rw [Vector.set_set, show (s.fronds.set h (f s.fronds[h]) h.isLt)[h] = f s.fronds[h] from Vector.getElem_set_self h.isLt]

theorem State.midCopy_onCopy (g : Copy → Copy) : (t.midCopy ch o ls ps lt).onCopy t.fir.frond ch g = t.midCopy ch (o.map g) ls ps lt := by
  have h := (({ t with late := lt } : State).onFrond_onFrond t.fir.frond (fun z => { z with chans := z.chans.set ch o, locks := ls })
    fun x => { x with chans := x.chans.set ch (x.chans[ch].map g) })
  have hg : ∀ z : Frond, (z.chans.set ch o)[ch] = o := fun z => Vector.getElem_set_self ch.isLt
  simp only [hg, Vector.set_set] at h
  exact congrArg (fun s : State => s.upd fun f => { f with paths := ps }) h

theorem State.midCopy_locks (g : Lock → Lock) :
    (t.midCopy ch o ls ps lt).onFrond t.fir.frond (fun x => { x with locks := x.locks.map g }) = t.midCopy ch o (ls.map g) ps lt :=
  congrArg (fun s : State => s.upd fun f => { f with paths := ps }) (({ t with late := lt } : State).onFrond_onFrond t.fir.frond
    (fun z => { z with chans := z.chans.set ch o, locks := ls }) fun x => { x with locks := x.locks.map g })

theorem State.near_midCopy (wr : Bool) : (t.midCopy ch o ls ps lt).near wr n pl = t.near wr n pl := by
  have hh : (t.midCopy ch o ls ps lt).fr.held = t.fr.held := by
    show ((t.midCopy ch o ls ps lt).fronds[t.fir.frond]).held = _
    rw [State.midCopy_fr]
  cases pl with
  | dev k =>
    have hp : (t.midCopy ch o ls ps lt).cxlPoisoned k n = t.cxlPoisoned k n := by
      unfold State.cxlPoisoned
      rw [hh]
      rfl
    unfold State.near
    dsimp only
    rw [hp]
    rfl
  | _ => rfl

theorem State.readAt_midCopy : (t.midCopy ch o ls ps lt).readAt pl n = t.readAt pl n := by
  cases pl with
  | dev k =>
    have hd : (t.midCopy ch o ls ps lt).fr.devRead k n = t.fr.devRead k n := by
      rw [show (t.midCopy ch o ls ps lt).fr = _ from t.midCopy_fr ch o ls ps lt]
      exact Frond.devRead_congr fun a _ _ => rfl
    exact hd
  | _ => rfl

theorem State.resolve_midCopy (h : t.bytesAt ac a n pl) : (t.midCopy ch o ls ps lt).resolve ac a.toNat n = .ok (t.midCopy ch o ls ps lt, pl) := by
  obtain ⟨-, -, -, hres⟩ := h
  exact hres (t.fr.chans.set ch o) ls ps lt

theorem State.byteAt_midCopy (h : t.bytesAt ac a 1 pl) : (t.midCopy ch o ls ps lt).byteAt ac a = .ok (t.midCopy ch o ls ps lt, pl) := by
  have hr := State.resolve_midCopy (ch := ch) (o := o) (ls := ls) (ps := ps) (lt := lt) h
  obtain ⟨h0, h57, hn, -⟩ := h
  have hc : (decide (a < 0) || decide (a ≥ 2 ^ 57)) = false := by
    rw [Bool.or_eq_false_iff, decide_eq_false_iff_not, decide_eq_false_iff_not]
    omega
  unfold State.byteAt
  rw [hc, if_neg Bool.false_ne_true, hr]
  dsimp only
  rw [State.window_near ((State.near_midCopy _).trans hn)]

theorem State.byteAt_outside (s : State) (h : a < 0 ∨ 2 ^ 57 ≤ a) : s.byteAt ac a = .error 3 :=
  if_pos (by rw [Bool.or_eq_true, decide_eq_true_eq, decide_eq_true_eq]; exact h)

/-! ### Source bytes read -/

theorem State.copyRead_midCopy (c : Copy) (i : Nat) (hn : t.near false 1 pl = true) :
    ∃ ps' lt', (t.midCopy ch (some c) ls ps lt).copyRead t.fir.frond ch i pl =
      t.midCopy ch (some { c with buf := c.buf.set i (t.readAt pl 1) }) ls ps' lt' := by
  have hx : (t.midCopy ch (some c) ls ps lt).near false 1 pl = true := (State.near_midCopy _).trans hn
  have hput : (t.midCopy ch (some c) ls ps lt).copyRead t.fir.frond ch i pl =
      ((t.midCopy ch (some c) ls ps lt).loadAt pl 1).1.onCopy t.fir.frond ch fun d =>
        { d with buf := d.buf.set i ((t.midCopy ch (some c) ls ps lt).loadAt pl 1).2 } := by
    cases pl with
    | far a b d => simp [State.near] at hn
    | _ =>
      unfold State.copyRead
      dsimp only
  rw [hput, State.loadAt_near hx, State.readAt_midCopy]
  have hread : (((t.midCopy ch (some c) ls ps lt).usePath pl).readHome pl 1) =
      t.midCopy ch (some c) ls ((t.midCopy ch (some c) ls ps lt).usePath pl).fir.paths
        (((t.midCopy ch (some c) ls ps lt).usePath pl).readHome pl 1).late := by
    rw [State.readHome_late]
    rfl
  rw [hread]
  exact ⟨_, _, State.midCopy_onCopy _⟩

/-- The bytes of a sector read in turn: those done stand before those to come. -/
theorem State.copyReads (c : Copy) (pls : List Place) (hn : ∀ p ∈ pls, t.near false 1 p = true) : ∀ (done : List Nat) (ps : List Nat) (lt : List Late),
    c.buf = done ++ List.replicate pls.length 0 → ∃ ps' lt',
      (pls.zipIdx done.length).foldl (fun s x => s.copyRead t.fir.frond ch x.2 x.1) (t.midCopy ch (some c) ls ps lt) =
        t.midCopy ch (some { c with buf := done ++ pls.map fun p => t.readAt p 1 }) ls ps' lt' := by
  induction pls generalizing c with
  | nil =>
    intro done ps lt hb
    rw [List.length_nil, List.replicate_zero] at hb
    exact ⟨ps, lt, by rw [List.map_nil, ← hb]; rfl⟩
  | cons p pls ih =>
    intro done ps lt hb
    obtain ⟨ps', lt', h1⟩ := State.copyRead_midCopy (ls := ls) (ps := ps) (lt := lt) c done.length (hn p (List.mem_cons_self ..))
    obtain ⟨ps'', lt'', h2⟩ := ih { c with buf := c.buf.set done.length (t.readAt p 1) } (fun q hq => hn q (List.mem_cons_of_mem _ hq))
      (done ++ [t.readAt p 1]) ps' lt' (by
        rw [hb, List.length_cons, List.replicate_succ]
        simp)
    refine ⟨ps'', lt'', ?_⟩
    rw [List.zipIdx_cons, List.foldl_cons, h1]
    rw [List.length_append, List.length_singleton] at h2
    rw [h2]
    simp

end

/-! ### Destination bytes written -/

/-- A state after a copy wrote bytes: memory, the L1 and what is noted of the writes differ. -/
structure State.Wrote (v x : State) (m : Mem) : Prop where
  storing : v.storing x
  agenda : v.agenda = x.agenda
  full : v.full = x.full
  dev : v.dev = x.dev
  mem : v.mem = m
  chans : ∀ g : Fin 1024, v.fronds[g].chans = x.fronds[g].chans
  locks : ∀ g : Fin 1024, v.fronds[g].locks = x.fronds[g].locks

section
variable {s x v : State} {h : Fin 1024} {ch : Fin 4} {m : Mem} {pl : Place} {i b : Nat}

theorem State.onFrond_field {α : Type} (s : State) (h g : Fin 1024) (k : Frond → Frond) (fld : Frond → α) (hk : ∀ z, fld (k z) = fld z) :
    fld (s.onFrond h k).fronds[g] = fld s.fronds[g] := by
  by_cases hg : g = h
  · subst hg
    exact (congrArg fld (Vector.getElem_set_self g.isLt)).trans (hk _)
  · exact congrArg fld (Vector.getElem_set_ne h.isLt g.isLt (Ne.symm (Fin.val_ne_of_ne hg)))

theorem State.devPut_wrote (s : State) (k b : Nat) : (s.devPut k b).Wrote s (s.mem.set k (BitVec.ofNat 8 b)) := by
  have hfield : ∀ {α : Type} (g : Fin 1024) (fld : Frond → α), (∀ z : Frond, fld { z with
      held := z.held.filter fun y => y.1 != k
      snap := z.snap.set k (BitVec.ofNat 8 b) } = fld z) → fld (s.devPut k b).fronds[g] = fld s.fronds[g] := fun g fld hk => by
    refine (State.onFrond_field _ _ g _ fld hk).trans ?_
    rw [State.homePut_fronds]
    rfl
  refine ⟨⟨?_, ?_, ?_, ?_, ?_, fun hw => ?_⟩, ?_, ?_, ?_, ?_, fun g => hfield g Frond.chans fun _ => rfl, fun g => hfield g Frond.locks fun _ => rfl⟩
  all_goals unfold State.devPut State.onFrond
  all_goals simp only [State.homePut_fir, State.homePut_cores, State.homePut_teams, State.homePut_others, State.homePut_parts, State.homePut_mem,
    State.homePut_agenda, State.homePut_full, State.homePut_dev]
  · rfl
  · rfl
  · rfl
  · rfl
  · rfl
  · exact Mem.wf_set hw _ _
  · rfl
  · rfl
  · rfl

theorem State.put_wrote (hn : s.near true 1 pl = true) (hd : ∀ k, pl ≠ .dev k) (b : Nat) :
    (s.put pl 1 b).Wrote s (s.mem.set pl.key (BitVec.ofNat 8 b)) := by
  have hm : (s.put pl 1 b).mem = s.mem.set pl.key (BitVec.ofNat 8 b) := State.put_mem hn b hd
  refine ⟨s.put_storing pl 1 b, ?_, ?_, ?_, hm, ?_, ?_⟩
  all_goals cases pl with
    | dev k => exact absurd rfl (hd k)
    | _ => intros; rfl

theorem State.copyWrite_near (hn : s.near true 1 pl = true) (hc : ∀ k, pl = .dev k → s.cxlLost k = false) (h : Fin 1024) (ch : Fin 4) (i b : Nat) :
    (s.copyWrite h ch i b pl).Wrote s (s.mem.set pl.key (BitVec.ofNat 8 b)) := by
  by_cases hd : ∃ k, pl = .dev k
  · obtain ⟨k, rfl⟩ := hd
    rw [State.copyWrite, hc k rfl, if_neg Bool.false_ne_true]
    exact s.devPut_wrote k b
  · have he : s.copyWrite h ch i b pl = s.storeAt pl 1 b := by
      cases pl with
      | dev k => exact absurd ⟨k, rfl⟩ hd
      | far a b d => simp [State.near] at hn
      | _ => rfl
    rw [he, State.storeAt_near hn]
    exact State.put_wrote hn (fun k hk => hd ⟨k, hk⟩) b

theorem State.Wrote.trans {w : State} {m' : Mem} (h : v.Wrote x m) (h' : x.Wrote w m') : v.Wrote w m :=
  ⟨State.storing_trans h.storing h'.storing, h.agenda.trans h'.agenda, h.full.trans h'.full, h.dev.trans h'.dev, h.mem,
    fun g => (h.chans g).trans (h'.chans g), fun g => (h.locks g).trans (h'.locks g)⟩

/-- Bytes written in turn, each at its own place. -/
theorem State.copyWrites (h : Fin 1024) (ch : Fin 4) (xs : List ((Place × Nat) × Nat)) : ∀ {s : State}, (∀ x ∈ xs, s.near true 1 x.1.1 = true) →
    (∀ x ∈ xs, ∀ k, x.1.1 = .dev k → s.cxlLost k = false) →
    (xs.foldl (fun s x => s.copyWrite h ch x.2 x.1.2 x.1.1) s).Wrote s (s.mem.putAll (xs.map fun x => (x.1.1.key, BitVec.ofNat 8 x.1.2))) := by
  induction xs with
  | nil => exact fun _ _ => ⟨State.storing_refl _, rfl, rfl, rfl, rfl, fun _ => rfl, fun _ => rfl⟩
  | cons x xs ih =>
    intro s hn hc
    have hx := State.copyWrite_near (hn x (List.mem_cons_self ..)) (hc x (List.mem_cons_self ..)) h ch x.2 x.1.2
    have hrest := ih (s := s.copyWrite h ch x.2 x.1.2 x.1.1)
      (fun y hy => (State.near_storing hx.storing).trans (hn y (List.mem_cons_of_mem _ hy)))
      fun y hy k hk => by
        rw [State.cxlLost, hx.dev]
        exact hc y (List.mem_cons_of_mem _ hy) k hk
    rw [hx.mem] at hrest
    exact hrest.trans hx

end

end Sys2Proof.Machine
end

section
/-! PROOF. O54: the copy engine (R183, R185, R186, R188, R190, R219, R226). -/

namespace Sys2Proof.Machine

/-! ### A written sector counted -/

/-- A frond after a sector of a copy is counted: n bytes done in all (R183, R190). -/
def Frond.counted (x : Frond) (h : Fin 1024) (ch : Fin 4) (c : Copy) (n : Nat) : Frond :=
  { x with
    chans := x.chans.set ch ((x.chans[ch]).map fun c => { c with bytes := n, phase := 0, buf := [], pends := [] })
    locks := x.locks.map fun l => if l.dst && l.own == .copy c.id then { l with lo := lockAddr h (c.cr[1]).toNat + n } else l }

/-- What follows a sector that brings the bytes done to n. -/
def State.nextSector (s : State) (h : Fin 1024) (ch : Fin 4) (c : Copy) (n : Nat) : State :=
  s.push (if copyLen c.cr ≤ n then .copyComplete else .copySector) h.val ch.val 0 0

section
variable {s t u v w : State} {h : Fin 1024} {ch : Fin 4} {c d : Copy} {f : Firing} {n : Nat}

theorem Copy.sector_length (c : Copy) : c.sector.length = min 128 (copyLen c.cr - c.bytes) := by
  rw [Copy.sector, List.length_map, List.length_range]

theorem State.nextSector_if (s : State) (h : Fin 1024) (ch : Fin 4) (c : Copy) (n : Nat) :
    (if copyLen c.cr ≤ n then s.push .copyComplete h.val ch.val 0 0 else s.push .copySector h.val ch.val 0 0) = s.nextSector h ch c n := by
  unfold State.nextSector
  split_ifs <;> rfl

theorem State.sectorDone_counted (s : State) (h : Fin 1024) (ch : Fin 4) (c : Copy) :
    s.sectorDone h ch c = match (s.onFrond h fun x => x.counted h ch c (c.bytes + c.sector.length)).sectorTb c.cr[6] with
      | .error code => (s.onFrond h fun x => x.counted h ch c (c.bytes + c.sector.length)).copyFail h ch code
      | .ok v => v.nextSector h ch c (c.bytes + c.sector.length) := by
  have hc : (s.onCopy h ch fun c' => { c' with bytes := c.bytes + c.sector.length, phase := 0, buf := [], pends := [] }).onFrond h
      (fun x => { x with locks := x.locks.map fun (l : Lock) =>
        if l.dst && l.own == .copy c.id then { l with lo := lockAddr h (c.cr[1]).toNat + (c.bytes + c.sector.length) } else l }) =
      s.onFrond h fun x => x.counted h ch c (c.bytes + c.sector.length) := s.onFrond_onFrond h _ _
  unfold State.sectorDone
  dsimp only
  rw [hc]
  generalize (s.onFrond h fun x => x.counted h ch c (c.bytes + c.sector.length)).sectorTb c.cr[6] = r
  cases r with
  | error e => rfl
  | ok v => exact v.nextSector_if h ch c _

theorem State.sectorDone_plain (h6 : c.cr[6] = 0) : s.sectorDone h ch c =
    (s.onFrond h fun x => x.counted h ch c (c.bytes + c.sector.length)).nextSector h ch c (c.bytes + c.sector.length) := by
  rw [State.sectorDone_counted, State.sectorTb, if_pos h6]

theorem State.sectorDone_barrier {pl : Place} (h6 : c.cr[6] ≠ 0)
    (hr : (s.onFrond h fun x => x.counted h ch c (c.bytes + c.sector.length)).resolve .obj (c.cr[6]).toNat 16 =
      .ok (s.onFrond h fun x => x.counted h ch c (c.bytes + c.sector.length), pl))
    (hn : (s.onFrond h fun x => x.counted h ch c (c.bytes + c.sector.length)).near Acc.obj.wr 16 pl = true) :
    let w := s.onFrond h fun x => x.counted h ch c (c.bytes + c.sector.length)
    s.sectorDone h ch c = (w.updateBarrier pl.key { w.barrierAt pl.key with sect := (w.barrierAt pl.key).sect - 1 }).nextSector h ch c
      (c.bytes + c.sector.length) := by
  intro w
  rw [State.sectorDone_counted, State.sectorTb, if_neg h6, hr]
  dsimp only
  rw [State.window_near hn]

theorem Frond.counted_made {x y : Frond} (hx : x.chans[ch] = some d)
    (hd : ({ d with bytes := n, phase := 0, buf := [], pends := [] } : Copy) = { c with bytes := n, phase := 0, buf := [], pends := [] })
    (hk : ∀ k : Fin 4, k ≠ ch → x.chans[k] = y.chans[k]) (hl : x.locks = y.locks) (hid : d.id = c.id) (hcr : d.cr = c.cr) :
    (x.counted h ch d n).sectorMade y ch c h n := by
  refine ⟨?_, fun k hne => ?_, ?_⟩
  · rw [← hd]
    refine (Vector.getElem_set_self ch.isLt).trans ?_
    rw [hx]
    rfl
  · exact (Vector.getElem_set_ne ch.isLt k.isLt (Ne.symm (Fin.val_ne_of_ne hne))).trans (hk k hne)
  · show x.locks.map _ = _
    rw [hl, hid, hcr]
    refine List.map_congr_left fun l _ => ?_
    by_cases h : l.dst = true ∧ l.own = .copy c.id
    · rw [if_pos h, if_pos (by rw [Bool.and_eq_true, beq_iff_eq]; exact h)]
    · rw [if_neg h, if_neg (by rw [Bool.and_eq_true, beq_iff_eq]; exact h)]

/-! ### The step of a copy -/

theorem copyLen_eq (c : Copy) : copyLen c.cr = (c.cr[2]).toNat % 2 ^ 48 := by
  rw [copyLen, bits, Nat.pow_zero, Nat.div_one]

theorem State.copyIn_live (h1 : (s.fronds[h]).chans[ch] = some c) (h2 : c.live = true) : s.copyIn h ch = some c := by
  rw [State.copyIn, h1]
  exact if_pos h2

theorem State.halting_free (hr : s.parts[f.part].req = none) (ha : ∀ e ∈ s.agenda, e.op ≠ .fcmdSave) : s.halting f = false := by
  have hs : s.saveDue f = false := by
    rw [State.saveDue]
    exact List.any_eq_false.mpr fun e he => by simp [ha e he]
  rw [State.halting, hr, hs]
  rfl

theorem State.copies_numbers (hc : s.copies h ch c f) : frondNo s.ev.a = h ∧ chanNo s.ev.b = ch := by
  obtain ⟨ha, hb, -⟩ := hc
  exact ⟨by rw [ha, frondNo_val], Fin.ext ((congrArg (· % 4) hb).trans (Nat.mod_eq_of_lt ch.isLt))⟩

theorem exec_copySector_waits (hc : s.copies h ch c f) (hp : c.pends ≠ []) : exec .copySector s = .next s := by
  obtain ⟨h1, h2⟩ := State.copies_numbers hc
  obtain ⟨-, -, hch, hlive, -⟩ := hc
  have hm : s.copyMay c = false := by
    rw [State.copyMay, List.isEmpty_eq_false_iff.mpr hp, Bool.false_and]
  rw [exec_copySector, execCopySector, h1, h2]
  rw [State.copyIn_live hch hlive]
  dsimp only
  rw [hm, Bool.false_and, if_neg Bool.false_ne_true]

theorem exec_copySector_step (hc : s.copies h ch c f) (hp : c.pends = []) (hr : s.parts[f.part].req = none)
    (ha : ∀ e ∈ s.agenda, e.op ≠ .fcmdSave) (hl : c.bytes < copyLen c.cr) :
    exec .copySector s = .next (s.asFiring c.adm fun s => s.sectorStep h ch c) := by
  obtain ⟨h1, h2⟩ := State.copies_numbers hc
  obtain ⟨-, -, hch, hlive, -, hf, -⟩ := hc
  have hm : s.copyMay c = true := by
    rw [State.copyMay, hp, hf]
    dsimp only
    rw [State.halting_free hr ha, Bool.and_false]
    rfl
  rw [exec_copySector, execCopySector, h1, h2]
  rw [State.copyIn_live hch hlive]
  dsimp only
  rw [hm, Bool.true_and, if_pos (decide_eq_true hl)]

/-- What a step as another firing leaves of memory, the fronds and the agenda. -/
theorem State.asFiring_machine (s : State) (n : Nat) (k : State → State) : (s.asFiring n k).mem = (k (s.focus n)).mem ∧
    (s.asFiring n k).fronds = (k (s.focus n)).fronds ∧ (s.asFiring n k).agenda = (k (s.focus n)).agenda ∧
    (s.asFiring n k).full = (k (s.focus n)).full := by
  have hr := (k (s.focus n)).focus_refocused s.fir.adm
  rw [State.refocused] at hr
  rw [State.asFiring, hr]
  exact ⟨rfl, rfl, rfl, rfl⟩

theorem State.focus_machine (s : State) (n : Nat) : (s.focus n).mem = s.mem ∧ (s.focus n).fronds = s.fronds ∧
    (s.focus n).agenda = s.agenda ∧ (s.focus n).full = s.full ∧ (s.focus n).dev = s.dev := by
  have hr := s.focus_refocused n
  rw [State.refocused] at hr
  rw [hr]
  exact ⟨rfl, rfl, rfl, rfl, rfl⟩

/-! ### Sectors with every byte at hand -/

theorem State.sectorStep_bad (h : c.bad ≠ 0) (s : State) (g : Fin 1024) (ch : Fin 4) : s.sectorStep g ch c = s.copyFail g ch c.bad := if_pos h

theorem State.copySrc_plain (h63 : c.cr[7].getLsbD 63 = false) (s : State) (b : Nat) :
    s.copySrc c b = s.byteAt .load (((c.cr[0]).toNat : Int) + digitOff (copyDigits c.cr) b) := by
  rw [State.copySrc, copyShs, bit, show (c.cr[7]).getLsbD 63 = false from h63, if_neg Bool.false_ne_true]

theorem State.copyDst_plain (h62 : c.cr[7].getLsbD 62 = false) (s : State) (b : Nat) :
    s.copyDst c b = s.byteAt .store (((c.cr[1]).toNat + b : Nat) : Int) := by
  rw [State.copyDst, copyShd, bit, show (c.cr[7]).getLsbD 62 = false from h62, if_neg Bool.false_ne_true]

/-- A copy whose source bytes of a sector have been read. -/
def Copy.filled (c : Copy) (bs : List Nat) : Copy := { c with phase := 1, buf := bs }

/-- The number of bytes of the sector under way. -/
def Copy.size (c : Copy) : Nat := min 128 (copyLen c.cr - c.bytes)

theorem Copy.sector_eq (c : Copy) : c.sector = (List.range c.size).map (c.bytes + ·) := rfl

section
variable {pls qls : Nat → Place}

theorem State.midCopy_chan (t : State) (ch : Fin 4) (o : Option Copy) (ls : List Lock) (ps : List Nat) (lt : List Late) :
    ((t.midCopy ch o ls ps lt).fronds[t.fir.frond]).chans[ch] = o := by
  rw [State.midCopy_fr]
  exact Vector.getElem_set_self ch.isLt

theorem State.midCopy_in {ls : List Lock} {ps : List Nat} {lt : List Late} (h : c.live = true) :
    (t.midCopy ch (some c) ls ps lt).copyIn t.fir.frond ch = some c := State.copyIn_live (t.midCopy_chan ch _ _ _ _) h

/-- Source bytes at hand come into the channel, and the sector goes on to its destination. -/
theorem State.sectorStep_read (hch : t.fr.chans[ch] = some c) (hlive : c.live = true) (hp : c.pends = []) (hb : c.bad = 0) (h0 : c.phase = 0)
    (h63 : c.cr[7].getLsbD 63 = false)
    (hsrc : ∀ i < c.size, t.bytesAt .load (((c.cr[0]).toNat : Int) + digitOff (copyDigits c.cr) (c.bytes + i)) 1 (pls i)) :
    ∃ ps lt, t.sectorStep t.fir.frond ch c =
      (t.midCopy ch (some (c.filled ((List.range c.size).map fun i => t.readAt (pls i) 1))) t.fr.locks ps lt).sectorOut t.fir.frond ch
        (c.filled ((List.range c.size).map fun i => t.readAt (pls i) 1)) := by
  have hstart : t.midCopy ch (some c) t.fr.locks t.fir.paths t.late = t := State.midCopy_start hch
  have hplaces : t.copyPlaces (fun s b => s.copySrc c b) c.sector = .ok (t, (List.range c.size).map pls) := by
    rw [Copy.sector_eq]
    refine State.copyPlaces_ok fun i hi => ?_
    rw [State.copySrc_plain h63]
    have := State.byteAt_midCopy (ch := ch) (o := some c) (ls := t.fr.locks) (ps := t.fir.paths) (lt := t.late) (hsrc i (List.mem_range.mp hi))
    rwa [hstart] at this
  have hnear : ∀ p ∈ (List.range c.size).map pls, t.near false 1 p = true := fun p hq => by
    obtain ⟨i, hi, rfl⟩ := List.mem_map.mp hq
    exact (hsrc i (List.mem_range.mp hi)).2.2.1
  obtain ⟨ps, lt, hread⟩ := State.copyReads (ch := ch) (ls := t.fr.locks) ({ c with phase := 1, buf := List.replicate ((List.range c.size).map pls).length 0 } : Copy)
    ((List.range c.size).map pls) hnear [] t.fir.paths t.late rfl
  refine ⟨ps, lt, ?_⟩
  rw [State.sectorStep, if_neg (by rw [hb]; decide), if_pos h0, hplaces]
  dsimp only
  have hbegin : t.onCopy t.fir.frond ch (fun d => { d with phase := 1, buf := List.replicate ((List.range c.size).map pls).length 0 }) =
      t.midCopy ch (some { c with phase := 1, buf := List.replicate ((List.range c.size).map pls).length 0 }) t.fr.locks t.fir.paths t.late :=
    (congrArg (fun s : State => s.onCopy t.fir.frond ch fun d => { d with phase := 1, buf := List.replicate ((List.range c.size).map pls).length 0 })
      hstart.symm).trans (State.midCopy_onCopy _)
  rw [hbegin]
  have hmap : (((List.range c.size).map pls).map fun p => t.readAt p 1) = (List.range c.size).map fun i => t.readAt (pls i) 1 := List.map_map
  rw [List.nil_append, hmap] at hread
  rw [show ((List.range c.size).map pls).zipIdx = ((List.range c.size).map pls).zipIdx ([] : List Nat).length from rfl, hread,
    State.midCopy_in (by exact hlive)]
  exact if_pos (List.isEmpty_iff.mpr hp)

/-! ### A sector written -/

/-- A copy whose sector has gone out. -/
def Copy.written (c : Copy) : Copy := { c with phase := 2 }

/-- Destination bytes at hand are written, each at its place, and the sector is counted. -/
theorem State.sectorOut_near (hlive : c.live = true) (hp : c.pends = []) (h62 : c.cr[7].getLsbD 62 = false) {val : Nat → Nat}
    (hbuf : c.buf = (List.range c.size).map val)
    (hdst : ∀ i < c.size, t.bytesAt .store (((c.cr[1]).toNat + (c.bytes + i) : Nat) : Int) 1 (qls i))
    (hcxl : ∀ i < c.size, ∀ k, qls i = .dev k → t.cxlLost k = false) (ls : List Lock) (ps : List Nat) (lt : List Late) :
    ∃ w : State, w.Wrote (t.midCopy ch (some c.written) ls ps lt)
        (t.mem.putAll ((List.range c.size).map fun i => ((qls i).key, BitVec.ofNat 8 (val i)))) ∧
      (t.midCopy ch (some c) ls ps lt).sectorOut t.fir.frond ch c = w.sectorDone t.fir.frond ch c.written := by
  have hplaces : (t.midCopy ch (some c) ls ps lt).copyPlaces (fun s b => s.copyDst c b) c.sector =
      .ok (t.midCopy ch (some c) ls ps lt, (List.range c.size).map qls) := by
    rw [Copy.sector_eq]
    refine State.copyPlaces_ok fun i hi => ?_
    rw [State.copyDst_plain h62]
    exact State.byteAt_midCopy (hdst i (List.mem_range.mp hi))
  have hzip : (((List.range c.size).map qls).zip c.buf).zipIdx.map (fun x => (x.1.1.key, BitVec.ofNat 8 x.1.2)) =
      (List.range c.size).map fun i => ((qls i).key, BitVec.ofNat 8 (val i)) := by
    rw [hbuf, List.zip_map']
    refine List.ext_getElem (by simp) fun n h1 h2 => ?_
    simp
  have hin : ∀ x ∈ (((List.range c.size).map qls).zip c.buf).zipIdx, ∃ i < c.size, x.1.1 = qls i := fun x hx => by
    rw [hbuf, List.zip_map'] at hx
    obtain ⟨i, hi, he⟩ := List.mem_map.mp (List.fst_mem_of_mem_zipIdx hx)
    exact ⟨i, List.mem_range.mp hi, by rw [← he]⟩
  have hw := State.copyWrites t.fir.frond ch (((List.range c.size).map qls).zip c.buf).zipIdx (s := t.midCopy ch (some c.written) ls ps lt)
    (fun x hx => by
      obtain ⟨i, hi, he⟩ := hin x hx
      rw [he]
      exact (State.near_midCopy _).trans (hdst i hi).2.2.1)
    fun x hx k hk => by
      obtain ⟨i, hi, he⟩ := hin x hx
      exact hcxl i hi k (he.symm.trans hk)
  rw [hzip] at hw
  refine ⟨_, hw, ?_⟩
  have hch : ((((List.range c.size).map qls).zip c.buf).zipIdx.foldl (fun s x => s.copyWrite t.fir.frond ch x.2 x.1.2 x.1.1)
      (t.midCopy ch (some c.written) ls ps lt)).copyIn t.fir.frond ch = some c.written := by
    refine State.copyIn_live ?_ hlive
    rw [hw.chans]
    exact t.midCopy_chan ch _ _ _ _
  rw [State.sectorOut, hplaces]
  dsimp only
  rw [State.midCopy_onCopy]
  rw [show (some c).map (fun c => ({ c with phase := 2 } : Copy)) = some c.written from rfl, hch]
  exact if_pos (List.isEmpty_iff.mpr hp)

end

end

end Sys2Proof.Machine
end

section
/-! PROOF. O54: the copy engine (R183, R185, R186, R188, R190, R219, R226). -/

namespace Sys2Proof.Machine

section
variable {s t u v w : State} {h : Fin 1024} {ch : Fin 4} {c d : Copy} {f : Firing} {n : Nat}

/-! ### What a sector leaves -/

/-- A sector of a copy counted, and the next one or the completion to follow. -/
def State.counts (v s : State) (h : Fin 1024) (ch : Fin 4) (c : Copy) (n : Nat) : Prop :=
  v.fronds[h].sectorMade s.fronds[h] ch c h n ∧
    v.agenda = s.agenda ++ [agendaEv (if (c.cr[2]).toNat % 2 ^ 48 ≤ n then .copyComplete else .copySector) h.val ch.val 0 0]

theorem State.counts_nextSector (hf : v.fronds[h].sectorMade s.fronds[h] ch c h n) (ha : v.agenda = s.agenda) (hcr : d.cr = c.cr) :
    (v.nextSector h ch d n).counts s h ch c n := by
  refine ⟨hf, ?_⟩
  have hlen : copyLen d.cr = (c.cr[2]).toNat % 2 ^ 48 := by rw [copyLen_eq, hcr]
  show v.agenda ++ _ = _
  rw [ha, hlen]
  rfl

/-- Source and destination at hand: the sector's bytes are where they were to go, and nothing else in memory changes. -/
theorem State.sectorStep_moves {pls qls : Nat → Place} (hw : t.mem.wf = true) (hch : t.fr.chans[ch] = some c) (hlive : c.live = true) (hp : c.pends = [])
    (hb : c.bad = 0) (h0 : c.phase = 0) (h63 : c.cr[7].getLsbD 63 = false) (h62 : c.cr[7].getLsbD 62 = false) (h6 : c.cr[6] = 0)
    (hsrc : ∀ i < c.size, t.bytesAt .load (((c.cr[0]).toNat : Int) + digitOff (copyDigits c.cr) (c.bytes + i)) 1 (pls i))
    (hdst : ∀ i < c.size, t.bytesAt .store (((c.cr[1]).toNat + (c.bytes + i) : Nat) : Int) 1 (qls i))
    (hkeys : ∀ i < c.size, ∀ j < c.size, (qls i).key = (qls j).key → i = j)
    (hcxl : ∀ i < c.size, ∀ k, qls i = .dev k → t.cxlLost k = false) :
    let v := t.sectorStep t.fir.frond ch c
    v.counts t t.fir.frond ch c (c.bytes + c.size) ∧ (∀ i < c.size, (v.mem.get (qls i).key).toNat = t.readAt (pls i) 1) ∧
      (∀ a, (∀ i < c.size, a ≠ (qls i).key) → v.mem.get a = t.mem.get a) ∧ v.full = t.full := by
  obtain ⟨ps, lt, hread⟩ := State.sectorStep_read hch hlive hp hb h0 h63 hsrc
  obtain ⟨w, hwr, hout⟩ := State.sectorOut_near (t := t) (ch := ch) (c := c.filled ((List.range c.size).map fun i => t.readAt (pls i) 1))
    (val := fun i => t.readAt (pls i) 1) hlive hp h62 rfl hdst hcxl t.fr.locks ps lt
  have hcount := State.sectorDone_plain (s := w) (h := t.fir.frond) (ch := ch)
    (c := (c.filled ((List.range c.size).map fun i => t.readAt (pls i) 1)).written) h6
  have hlen : (c.filled ((List.range c.size).map fun i => t.readAt (pls i) 1)).written.sector.length = c.size := Copy.sector_length c
  rw [hlen] at hcount
  dsimp only
  rw [hread, hout, hcount]
  have hmem : w.mem = t.mem.putAll ((List.range c.size).map fun i => ((qls i).key, BitVec.ofNat 8 (t.readAt (pls i) 1))) := hwr.mem
  have hnodup : (((List.range c.size).map fun i => ((qls i).key, BitVec.ofNat 8 (t.readAt (pls i) 1))).map (·.1)).Nodup := by
    rw [List.map_map]
    exact List.nodup_range.map_on fun i hi j hj he => hkeys i (List.mem_range.mp hi) j (List.mem_range.mp hj) he
  refine ⟨State.counts_nextSector ?_ (by exact hwr.agenda) rfl, fun i hi => ?_, fun a ha => ?_, by exact hwr.full⟩
  · rw [show (w.onFrond t.fir.frond fun x => x.counted t.fir.frond ch _ _).fronds[t.fir.frond] = _ from Vector.getElem_set_self t.fir.frond.isLt]
    refine Frond.counted_made (d := (c.filled ((List.range c.size).map fun i => t.readAt (pls i) 1)).written) ?_ rfl (fun k hk => ?_) ?_ rfl rfl
    · rw [hwr.chans]
      exact t.midCopy_chan ch _ _ _ _
    · rw [hwr.chans, State.midCopy_fr]
      exact Vector.getElem_set_ne ch.isLt k.isLt (Ne.symm (Fin.val_ne_of_ne hk))
    · rw [hwr.locks, State.midCopy_fr]
      rfl
  · have hlt : t.readAt (pls i) 1 < 2 ^ 8 := t.readAt_lt (pls i) 1
    show (w.mem.get _).toNat = _
    rw [hmem, Mem.get_putAll_self hw hnodup (x := ((qls i).key, BitVec.ofNat 8 (t.readAt (pls i) 1)))
      (List.mem_map.mpr ⟨i, List.mem_range.mpr hi, rfl⟩), BitVec.toNat_ofNat, Nat.mod_eq_of_lt hlt]
  · show w.mem.get a = _
    rw [hmem]
    refine Mem.get_putAll_other hw _ fun x hx => ?_
    obtain ⟨i, hi, rfl⟩ := List.mem_map.mp hx
    exact (ha i (List.mem_range.mp hi)).symm

/-! ### Bytes that fail their checks -/

theorem State.copyPlaces_stops {x : State} {at_ : State → Nat → Except Nat (State × Place)} {k e i n : Nat} (hi : i < n)
    (he : at_ x (k + i) = .error e) (hb : ∀ j < i, ∃ pl, at_ x (k + j) = .ok (x, pl)) : x.copyPlaces at_ ((List.range n).map (k + ·)) = .error e := by
  have hall : ∀ j, ∃ pl, j < i → at_ x (k + j) = .ok (x, pl) := fun j => by
    by_cases hj : j < i
    · obtain ⟨pl, h⟩ := hb j hj
      exact ⟨pl, fun _ => h⟩
    · exact ⟨.unc 0, fun h => absurd h hj⟩
  choose pls hpls using hall
  rw [List.range_eq_range']
  exact State.copyPlaces_fails (pls := pls) he n 0 (by omega) (by omega) hpls

theorem State.sectorStep_source {i : Nat} (hch : t.fr.chans[ch] = some c) (hb : c.bad = 0) (h0 : c.phase = 0) (h63 : c.cr[7].getLsbD 63 = false)
    (hi : i < c.size) (hout : ((c.cr[0]).toNat : Int) + digitOff (copyDigits c.cr) (c.bytes + i) < 0 ∨
      2 ^ 57 ≤ ((c.cr[0]).toNat : Int) + digitOff (copyDigits c.cr) (c.bytes + i))
    (hbelow : ∀ j < i, ∃ pl, t.bytesAt .load (((c.cr[0]).toNat : Int) + digitOff (copyDigits c.cr) (c.bytes + j)) 1 pl) :
    t.sectorStep t.fir.frond ch c = t.copyFail t.fir.frond ch 3 := by
  have hstart : t.midCopy ch (some c) t.fr.locks t.fir.paths t.late = t := State.midCopy_start hch
  rw [State.sectorStep, if_neg (by rw [hb]; decide), if_pos h0, Copy.sector_eq, State.copyPlaces_stops hi (e := 3)]
  · rw [State.copySrc_plain h63, State.byteAt_outside _ hout]
  · intro j hj
    obtain ⟨pl, hpl⟩ := hbelow j hj
    have := State.byteAt_midCopy (ch := ch) (o := some c) (ls := t.fr.locks) (ps := t.fir.paths) (lt := t.late) hpl
    rw [hstart] at this
    exact ⟨pl, by rw [State.copySrc_plain h63, this]⟩

theorem State.sectorOut_stops {i : Nat} {ls : List Lock} {ps : List Nat} {lt : List Late} (h62 : c.cr[7].getLsbD 62 = false) (hi : i < c.size)
    (hout : 2 ^ 57 ≤ (((c.cr[1]).toNat + (c.bytes + i) : Nat) : Int))
    (hbelow : ∀ j < i, ∃ pl, t.bytesAt .store (((c.cr[1]).toNat + (c.bytes + j) : Nat) : Int) 1 pl) :
    (t.midCopy ch (some c) ls ps lt).sectorOut t.fir.frond ch c = (t.midCopy ch (some c) ls ps lt).copyFail t.fir.frond ch 3 := by
  rw [State.sectorOut, Copy.sector_eq, State.copyPlaces_stops hi (e := 3)]
  · rw [State.copyDst_plain h62, State.byteAt_outside _ (.inr hout)]
  · intro j hj
    obtain ⟨pl, hpl⟩ := hbelow j hj
    exact ⟨pl, by rw [State.copyDst_plain h62, State.byteAt_midCopy hpl]⟩

theorem State.sectorStep_destination {pls : Nat → Place} {i : Nat} (hch : t.fr.chans[ch] = some c) (hlive : c.live = true) (hp : c.pends = [])
    (hb : c.bad = 0) (h0 : c.phase = 0) (h63 : c.cr[7].getLsbD 63 = false) (h62 : c.cr[7].getLsbD 62 = false)
    (hsrc : ∀ i < c.size, t.bytesAt .load (((c.cr[0]).toNat : Int) + digitOff (copyDigits c.cr) (c.bytes + i)) 1 (pls i))
    (hi : i < c.size) (hout : 2 ^ 57 ≤ (((c.cr[1]).toNat + (c.bytes + i) : Nat) : Int))
    (hbelow : ∀ j < i, ∃ pl, t.bytesAt .store (((c.cr[1]).toNat + (c.bytes + j) : Nat) : Int) 1 pl) :
    (t.sectorStep t.fir.frond ch c).mem = t.mem ∧
      (t.sectorStep t.fir.frond ch c).agenda = t.agenda ++ [agendaEv .copyFault t.fir.frond.val ch.val 3 0] := by
  obtain ⟨ps, lt, hread⟩ := State.sectorStep_read hch hlive hp hb h0 h63 hsrc
  rw [hread, State.sectorOut_stops (c := c.filled ((List.range c.size).map fun i => t.readAt (pls i) 1)) h62 hi hout hbelow]
  exact ⟨rfl, rfl⟩

/-! ### A sector whose writes are done -/

theorem State.sectorStep_done (hb : c.bad = 0) (h2 : c.phase = 2) (s : State) (h : Fin 1024) (ch : Fin 4) : s.sectorStep h ch c = s.sectorDone h ch c := by
  rw [State.sectorStep, if_neg (by rw [hb]; decide), if_neg (by rw [h2]; decide), if_neg (by rw [h2]; decide)]

theorem State.counted_midCopy (hch : t.fr.chans[ch] = some c) (n : Nat) : (t.onFrond t.fir.frond fun x => x.counted t.fir.frond ch c n) =
    t.midCopy ch (some { c with bytes := n, phase := 0, buf := [], pends := [] }) (t.fr.counted t.fir.frond ch c n).locks t.fir.paths t.late := by
  have hc : (t.fronds[t.fir.frond]).chans[ch] = some c := hch
  unfold State.midCopy State.onFrond Frond.counted
  dsimp only
  rw [hc]
  rfl

theorem State.counted_made (hch : t.fr.chans[ch] = some c) (n : Nat) :
    ((t.onFrond t.fir.frond fun x => x.counted t.fir.frond ch c n).fronds[t.fir.frond]).sectorMade t.fronds[t.fir.frond] ch c t.fir.frond n := by
  rw [show (t.onFrond t.fir.frond fun x => x.counted t.fir.frond ch c n).fronds[t.fir.frond] = _ from Vector.getElem_set_self t.fir.frond.isLt]
  exact Frond.counted_made hch rfl (fun _ _ => rfl) rfl rfl rfl

theorem State.sectorDone_counts (hch : t.fr.chans[ch] = some c) (h6 : c.cr[6] = 0) :
    let v := t.sectorDone t.fir.frond ch c
    v.counts t t.fir.frond ch c (c.bytes + c.size) ∧ v.mem = t.mem ∧ v.full = t.full := by
  dsimp only
  rw [State.sectorDone_plain h6, Copy.sector_length]
  exact ⟨State.counts_nextSector (t.counted_made hch _) rfl rfl, rfl, rfl⟩

theorem State.sectorDone_updates {pl : Place} (hw : t.mem.wf = true) (hch : t.fr.chans[ch] = some c) (h6 : c.cr[6] ≠ 0)
    (hpl : t.bytesAt .obj ((c.cr[6]).toNat : Int) 16 pl) :
    let v := t.sectorDone t.fir.frond ch c
    v.counts t t.fir.frond ch c (c.bytes + c.size) ∧
      v.barrierAt pl.key = (t.barrierAt pl.key).after (t.barrierAt pl.key).pend ((t.barrierAt pl.key).sect - 1) ∧
      ∀ a, a < pl.key ∨ pl.key + 16 ≤ a → v.mem.get a = t.mem.get a := by
  have hmid := State.counted_midCopy hch (c.bytes + c.sector.length)
  have hres : (t.onFrond t.fir.frond fun x => x.counted t.fir.frond ch c (c.bytes + c.sector.length)).resolve .obj (c.cr[6]).toNat 16 =
      .ok (t.onFrond t.fir.frond fun x => x.counted t.fir.frond ch c (c.bytes + c.sector.length), pl) := by
    rw [hmid]
    exact State.resolve_midCopy hpl
  have hnear : (t.onFrond t.fir.frond fun x => x.counted t.fir.frond ch c (c.bytes + c.sector.length)).near Acc.obj.wr 16 pl = true := by
    rw [hmid]
    exact (State.near_midCopy _).trans hpl.2.2.1
  have hmade := t.counted_made hch (c.bytes + c.size)
  dsimp only
  rw [State.sectorDone_barrier h6 hres hnear, Copy.sector_length]
  generalize hy : (t.onFrond t.fir.frond fun x => x.counted t.fir.frond ch c (c.bytes + c.size)) = y at hmade
  rw [show c.bytes + min 128 (copyLen c.cr - c.bytes) = c.bytes + c.size from rfl, hy]
  have hym : y.mem = t.mem := by rw [← hy]; rfl
  have hya : y.agenda = t.agenda := by rw [← hy]; rfl
  have hat : y.barrierAt pl.key = t.barrierAt pl.key := State.barrierAt_congr hym _
  obtain ⟨h1, h2, -, -⟩ := State.updateBarrier_after (s := y) (by rw [hym]; exact hw) pl.key (y.barrierAt_lt pl.key).2.1 ((y.barrierAt pl.key).sect - 1)
  have hmoved := y.updateBarrier_moved pl.key { y.barrierAt pl.key with pend := (y.barrierAt pl.key).pend, sect := (y.barrierAt pl.key).sect - 1 }
  refine ⟨State.counts_nextSector ?_ ?_ rfl, ?_, fun a ha => ?_⟩
  · rw [hmoved]
    exact hmade
  · rw [hmoved]
    exact hya
  · rw [← hat]
    exact h1
  · rw [← hym]
    exact h2 a ha

end

end Sys2Proof.Machine
end

section
/-! PROOF. O54: the end of a copy, answers to its requests, and the statement (R185, R186, R190, R219, R226). -/

namespace Sys2Proof.Machine

section
variable {s : State} {h : Fin 1024} {ch : Fin 4} {c : Copy} {f : Firing} {code : Nat}

/-! ### The end of a copy -/

/-- The completion word of a copy (R186). -/
def Copy.endWord (c : Copy) (code : Nat) : Word := BitVec.ofNat 64 ((c.bytes + 127) / 128 % 2 ^ 24 * 2 ^ 24 + code * 2 ^ 16 + c.id)

/-- The firing of a copy as the copy ends. -/
def Copy.ended (c : Copy) (code : Nat) (f : Firing) : Firing := if c.cr[7].getLsbD 61 then f else f.pushQ12 (c.endWord code)

theorem Firing.pushQ12_keeps (f : Firing) (w : Word) : (f.pushQ12 w).live = f.live ∧ (f.pushQ12 w).adm = f.adm ∧ (f.pushQ12 w).pc = f.pc ∧
    (f.pushQ12 w).x = f.x ∧ (f.pushQ12 w).fstat = f.fstat ∧ (f.pushQ12 w).reports = f.reports := by
  unfold Firing.pushQ12
  split_ifs <;> exact ⟨rfl, rfl, rfl, rfl, rfl, rfl⟩

theorem Copy.ended_keeps (c : Copy) (code : Nat) (f : Firing) : (c.ended code f).live = f.live ∧ (c.ended code f).adm = f.adm ∧
    (c.ended code f).pc = f.pc ∧ (c.ended code f).x = f.x ∧ (c.ended code f).fstat = f.fstat ∧ (c.ended code f).reports = f.reports := by
  unfold Copy.ended
  split_ifs
  · exact ⟨rfl, rfl, rfl, rfl, rfl, rfl⟩
  · exact f.pushQ12_keeps _

theorem Copy.ended_queue (c : Copy) (code : Nat) (f : Firing) :
    (c.ended code f).q12 = (if c.cr[7].getLsbD 61 = false ∧ f.q12.length < 16 then f.q12 ++ [c.endWord code] else f.q12) ∧
      (c.ended code f).q12lost = (f.q12lost || (!c.cr[7].getLsbD 61 && decide (16 ≤ f.q12.length))) := by
  unfold Copy.ended Firing.pushQ12
  generalize (c.cr[7]).getLsbD 61 = b
  cases b with
  | true => simp
  | false =>
    by_cases hq : f.q12.length < 16
    · simp [hq]
    · simp [hq, Nat.le_of_not_lt hq]

theorem State.onFiring_same (s : State) (n : Nat) : s.onFiring n id = s := by
  unfold State.onFiring
  split_ifs
  · rfl
  · have hid : s.others.map (fun f => if f.adm == n then id f else f) = s.others := by
      refine (List.map_congr_left fun f _ => ?_).trans (List.map_id _)
      exact ite_self _
    rw [hid]

theorem State.endCopy_eq (s : State) (h : Fin 1024) (ch : Fin 4) (c : Copy) (code : Nat) : s.endCopy h ch c code =
    (s.onFiring c.adm (c.ended code)).onFrond h fun x =>
      { x with locks := x.locks.filter fun l => l.own != .copy c.id, chans := x.chans.set ch none } := by
  have hword : (if bit c.cr[7] 61 then s else s.onFiring c.adm fun f => f.pushQ12 (c.endWord code)) = s.onFiring c.adm (c.ended code) := by
    unfold bit
    by_cases h61 : (c.cr[7]).getLsbD 61 = true
    · rw [if_pos h61, show c.ended code = id from funext fun f => if_pos h61, State.onFiring_same]
    · rw [if_neg h61, show c.ended code = fun f => f.pushQ12 (c.endWord code) from funext fun f => if_neg h61]
  unfold State.endCopy State.unlock
  dsimp only
  rw [show (BitVec.ofNat 64 ((c.bytes + 127) / 128 % 2 ^ 24 * 2 ^ 24 + code * 2 ^ 16 + c.id) : Word) = c.endWord code from rfl, hword,
    State.onFrond_onFrond]

theorem State.onFiring_machine (s : State) (n : Nat) (k : Firing → Firing) : (s.onFiring n k).mem = s.mem ∧ (s.onFiring n k).fronds = s.fronds ∧
    (s.onFiring n k).full = s.full := by
  have hr := s.onFiring_refocused n k
  rw [State.refocused] at hr
  rw [hr]
  exact ⟨rfl, rfl, rfl⟩

/-- A state whose machine is as a copy's end leaves it, and whose firing differs from the ended one in what the statement does not name. -/
theorem State.copyEnds_of {v : State} {g : Firing} (hv : v.fronds = (s.endCopy h ch c code).fronds) (hm : v.mem = (s.endCopy h ch c code).mem)
    (hfull : v.full = (s.endCopy h ch c code).full) (hg : v.firing? c.adm = some g) (hpc : g.pc = (c.ended code f).pc) (hx : g.x = (c.ended code f).x)
    (hst : g.fstat = (c.ended code f).fstat) (hq : g.q12 = (c.ended code f).q12) (hl : g.q12lost = (c.ended code f).q12lost) :
    v.copyEnds s h ch c f code := by
  obtain ⟨-, -, kpc, kx, kst, -⟩ := c.ended_keeps code f
  obtain ⟨kq, kl⟩ := c.ended_queue code f
  obtain ⟨m1, m2, m3⟩ := s.onFiring_machine c.adm (c.ended code)
  rw [State.endCopy_eq] at hv hm hfull
  have hfrond : v.fronds[h] = { s.fronds[h] with
      locks := (s.fronds[h]).locks.filter fun l => l.own != .copy c.id
      chans := (s.fronds[h]).chans.set ch none } := by
    simp only [hv, State.onFrond, m2]
    exact Vector.getElem_set_self h.isLt
  refine ⟨?_, fun k hk => ?_, ?_, hm.trans m1, hfull.trans m3, g, hg, hpc.trans kpc, hx.trans kx, hst.trans kst, hq.trans kq, hl.trans kl⟩
  · rw [hfrond]
    exact Vector.getElem_set_self ch.isLt
  · rw [hfrond]
    exact Vector.getElem_set_ne ch.isLt k.isLt (Ne.symm (Fin.val_ne_of_ne hk))
  · rw [hfrond]

theorem State.endCopy_firing (hf : s.firing? c.adm = some f) (h : Fin 1024) (ch : Fin 4) (code : Nat) :
    (s.endCopy h ch c code).firing? c.adm = some (c.ended code f) := by
  rw [State.endCopy_eq]
  exact State.firing?_onFiring hf (fun x => (c.ended_keeps code x).1) fun x => (c.ended_keeps code x).2.1

theorem copyComplete_ends (hc : s.copies h ch c f) (hl : (c.cr[2]).toNat % 2 ^ 48 ≤ c.bytes) :
    ∃ v, exec .copyComplete s = .next v ∧ v.copyEnds s h ch c f 0 ∧ ∀ g, v.firing? c.adm = some g → g.reports = f.reports := by
  obtain ⟨h1, h2⟩ := State.copies_numbers hc
  obtain ⟨-, -, hch, hlive, -, hf, -⟩ := hc
  have hg := State.endCopy_firing hf h ch 0
  refine ⟨s.endCopy h ch c 0, ?_, State.copyEnds_of rfl rfl rfl hg rfl rfl rfl rfl rfl, fun g hg' => ?_⟩
  · rw [exec_copyComplete, execCopyComplete, h1, h2]
    rw [State.copyIn_live hch hlive]
    exact if_pos (by rw [copyLen_eq]; exact hl)
  · rw [← Option.some.inj (hg.symm.trans hg')]
    exact (c.ended_keeps 0 f).2.2.2.2.2

theorem copyComplete_early (hc : s.copies h ch c f) (hl : c.bytes < (c.cr[2]).toNat % 2 ^ 48) : exec .copyComplete s = .next s := by
  obtain ⟨h1, h2⟩ := State.copies_numbers hc
  obtain ⟨-, -, hch, hlive, -⟩ := hc
  rw [exec_copyComplete, execCopyComplete, h1, h2]
  rw [State.copyIn_live hch hlive]
  exact if_neg (by rw [copyLen_eq]; omega)

theorem Firing.report_keeps (f : Firing) (n : Nat) (w : Word) (own : Bool) : (f.report n w own).live = f.live ∧ (f.report n w own).adm = f.adm ∧
    (f.report n w own).pc = f.pc ∧ (f.report n w own).x = f.x ∧ (f.report n w own).fstat = f.fstat ∧ (f.report n w own).q12 = f.q12 ∧
    (f.report n w own).q12lost = f.q12lost := by
  unfold Firing.report
  split_ifs <;> exact ⟨rfl, rfl, rfl, rfl, rfl, rfl, rfl⟩

theorem copyFault_ends (hc : s.copies h ch c f) (hr : f.reports.length < 16) :
    ∃ v, exec .copyFault s = .next v ∧ v.copyEnds s h ch c f s.ev.c ∧ ∀ g, v.firing? c.adm = some g →
      g.reports = f.reports ++ [{ tc := BitVec.ofNat 64 (2 ^ 63 + 16), val := BitVec.ofNat 64 (s.ev.c * 2 ^ 16 + c.id), own := c.hand }] := by
  obtain ⟨h1, h2⟩ := State.copies_numbers hc
  obtain ⟨-, -, hch, hlive, -, hf, -⟩ := hc
  have hend := State.endCopy_firing hf h ch s.ev.c
  have hval : c.id + 2 ^ 16 * s.ev.c = s.ev.c * 2 ^ 16 + c.id := by omega
  have hrep : ∀ x : Firing, _ := fun x => x.report_keeps 16 (BitVec.ofNat 64 (s.ev.c * 2 ^ 16 + c.id)) c.hand
  have hg := State.firing?_onFiring hend (k := fun f => f.report 16 (BitVec.ofNat 64 (s.ev.c * 2 ^ 16 + c.id)) c.hand)
    (fun x => (hrep x).1) fun x => (hrep x).2.1
  obtain ⟨m1, m2, m3⟩ := (s.endCopy h ch c s.ev.c).onFiring_machine c.adm fun f => f.report 16 (BitVec.ofNat 64 (s.ev.c * 2 ^ 16 + c.id)) c.hand
  obtain ⟨-, -, kpc, kx, kst, kq, kl⟩ := hrep (c.ended s.ev.c f)
  refine ⟨(s.endCopy h ch c s.ev.c).onFiring c.adm fun f => f.report 16 (BitVec.ofNat 64 (s.ev.c * 2 ^ 16 + c.id)) c.hand, ?_,
    State.copyEnds_of m2 m1 m3 hg kpc kx kst kq kl, fun g hg' => ?_⟩
  · rw [exec_copyFault, execCopyFault, h1, h2]
    rw [State.copyIn_live hch hlive]
    dsimp only
    rw [hval]
  · have hreports := (c.ended_keeps s.ev.c f).2.2.2.2.2
    rw [← Option.some.inj (hg.symm.trans hg'), Firing.report, if_pos (by rw [hreports]; exact hr)]
    dsimp only
    rw [hreports]
    rfl

/-! ### Answers -/

section
variable {pkg seq i : Nat}

theorem State.pendReply_none (hf : s.firing? c.adm = some f) (hp : ∀ p ∈ f.pends, ¬ (p.pkg = pkg ∧ p.seq = seq)) : s.pendReply c.adm pkg seq = none := by
  have hfind : (f.pends.find? fun p => p.pkg == pkg && p.seq == seq) = none :=
    List.find?_eq_none.mpr fun p hm => by
      rw [Bool.and_eq_true, beq_iff_eq, beq_iff_eq]
      exact hp p hm
  rw [State.pendReply, hf, Option.bind_some, hfind]
  rfl

theorem State.copyAnswer_lost (hl : pkg ∈ s.lost) (n code : Nat) (v : Word) : s.copyAnswer n pkg seq code v = s := by
  rw [State.copyAnswer, if_pos (List.contains_iff_mem.mpr hl)]

theorem State.copyAnswer_one (hf : s.firing? c.adm = some f) (hfr : f.frond = h) (hch : (s.fronds[h]).chans[ch] = some c)
    (hp : c.pends = [(pkg, seq, i)]) (hl : pkg ∉ s.lost) (code : Nat) (w : Word) :
    ∃ v, s.copyAnswer c.adm pkg seq code w = v ∧ v.mem = s.mem ∧ v.fir = s.fir ∧ v.others = s.others ∧
      (v.fronds[h]).chans[ch] = some (if code ≠ 0 then { c with pends := [], bad := 12 }
        else if c.phase = 1 then { c with pends := [], buf := c.buf.set i (w.toNat % 256) } else { c with pends := [] }) := by
  refine ⟨_, rfl, ?_⟩
  have hfind : (c.pends.find? fun p => p.1 == pkg && p.2.1 == seq) = some (pkg, seq, i) := by
    rw [hp]
    exact List.find?_cons_of_pos (p := fun p : Nat × Nat × Nat => p.1 == pkg && p.2.1 == seq) (by simp)
  have herase : c.pends.erase (pkg, seq, i) = [] := by
    rw [hp]
    exact List.erase_cons_head ..
  rw [State.copyAnswer, if_neg (by rw [List.contains_iff_mem]; exact hl), hf]
  dsimp only
  rw [hfr]
  refine ⟨rfl, rfl, rfl, ?_⟩
  rw [show (s.onFrond h _).fronds[h] = _ from Vector.getElem_set_self h.isLt]
  refine (Vector.getElem_map _ ch.isLt).trans ?_
  rw [show (s.fronds[h]).chans[ch.val] = some c from hch, Option.map_some, if_pos rfl, hfind]
  dsimp only
  rw [herase]

end

end

/-- Settles O54. -/
theorem copyEngine : Obligations.CopyEngine := by
  unfold Obligations.CopyEngine
  intro s h ch c f hc hw
  obtain ⟨fmem, ffronds, fagenda, ffull, fdev⟩ := s.focus_machine c.adm
  have hc' := hc
  obtain ⟨-, -, hch, hlive, -, hf, hfr, hnodup⟩ := hc'
  have htf : (s.focus c.adm).fir = f := State.focus_fir hf hnodup
  have hth : (s.focus c.adm).fir.frond = h := by rw [htf, hfr]
  have htc : (s.focus c.adm).fr.chans[ch] = some c := by
    unfold State.fr
    simp only [hth, ffronds]
    exact hch
  have htw : (s.focus c.adm).mem.wf = true := by rw [fmem]; exact hw
  have hsize : min 128 ((c.cr[2]).toNat % 2 ^ 48 - c.bytes) = c.size := by rw [Copy.size, copyLen_eq]
  dsimp only
  rw [hsize]
  refine ⟨exec_copySector_waits hc, fun hp hr ha => ?_, copyComplete_ends hc, copyComplete_early hc, fun _ => copyFault_ends hc, ?_⟩
  · obtain ⟨vmem, vfronds, vagenda, vfull⟩ := s.asFiring_machine c.adm fun s => s.sectorStep h ch c
    have hexec : c.bytes < (c.cr[2]).toNat % 2 ^ 48 → exec .copySector s = .next (s.asFiring c.adm fun s => s.sectorStep h ch c) := fun hl =>
      exec_copySector_step hc hp hr ha (by rw [copyLen_eq]; exact hl)
    generalize (s.asFiring c.adm fun s => s.sectorStep h ch c) = v at hexec vmem vfronds vagenda vfull
    generalize s.focus c.adm = t at *
    subst hth
    have hcounts : ∀ {n}, (t.sectorStep t.fir.frond ch c).counts t t.fir.frond ch c n → v.counts s t.fir.frond ch c n := fun hk => by
      unfold State.counts at hk ⊢
      rw [vfronds, vagenda, ← ffronds, ← fagenda]
      exact hk
    have hfails : ∀ {code}, t.sectorStep t.fir.frond ch c = t.copyFail t.fir.frond ch code →
        v.mem = s.mem ∧ v.fronds = s.fronds ∧ v.agenda = s.agenda ++ [agendaEv .copyFault t.fir.frond.val ch.val code 0] := fun hk => by
      rw [vmem, vfronds, vagenda, hk, ← fmem, ← ffronds, ← fagenda]
      exact ⟨rfl, rfl, rfl⟩
    have hbar : v.barrierAt = (t.sectorStep t.fir.frond ch c).barrierAt := funext fun k => State.barrierAt_congr vmem k
    have hsbar : t.barrierAt = s.barrierAt := funext fun k => State.barrierAt_congr fmem k
    have hlost : ∀ k, t.cxlLost k = s.cxlLost k := fun k => by rw [State.cxlLost, State.cxlLost, fdev]
    refine ⟨fun hb hl => ⟨v, hexec hl, hfails (State.sectorStep_bad hb _ _ _)⟩, fun hb h0 hl h63 h62 => ⟨?_, ?_, ?_⟩, fun hb h2 hl => ?_⟩
    · intro pls qls hsrc hdst hkeys h6 hcxl
      obtain ⟨h1, h2, h3, h4⟩ := State.sectorStep_moves htw htc hlive hp hb h0 h63 h62 h6 hsrc hdst hkeys
        fun i hi k hk => (hlost k).trans (hcxl i hi k hk)
      refine ⟨v, hexec hl, hcounts h1, fun i hi => ?_, fun a ha => ?_, vfull.trans (h4.trans ffull)⟩
      · rw [vmem]
        exact h2 i hi
      · rw [vmem, ← fmem]
        exact h3 a ha
    · intro i hi hout hbelow
      exact ⟨v, hexec hl, hfails (State.sectorStep_source htc hb h0 h63 hi hout hbelow)⟩
    · intro pls hsrc i hi hout hbelow
      obtain ⟨h1, h2⟩ := State.sectorStep_destination htc hlive hp hb h0 h63 h62 hsrc hi hout hbelow
      exact ⟨v, hexec hl, vmem.trans (h1.trans fmem), vagenda.trans (h2.trans (by rw [fagenda]))⟩
    · have hdone := State.sectorStep_done hb h2 t t.fir.frond ch
      rw [hdone] at vmem vfull hcounts hbar
      refine ⟨fun h6 => ?_, fun pl h6 hpl => ?_⟩
      · obtain ⟨h1, h3, h4⟩ := State.sectorDone_counts htc h6
        exact ⟨v, hexec hl, hcounts h1, vmem.trans (h3.trans fmem), vfull.trans (h4.trans ffull)⟩
      · obtain ⟨h1, h3, h4⟩ := State.sectorDone_updates htw htc h6 hpl
        refine ⟨v, hexec hl, hcounts h1, ?_, fun a ha => ?_⟩
        · rw [hbar, ← hsbar]
          exact h3
        · rw [vmem, ← fmem]
          exact h4 a ha
  · intro pkg seq i hp hpend _ e he
    have hfe : e.firing? c.adm = some f := by rw [he]; exact hf
    have hche : (e.fronds[h]).chans[ch] = some c := by rw [he]; exact hch
    have hm : e.mem = s.mem ∧ e.fir = s.fir ∧ e.others = s.others ∧ e.lost = s.lost ∧ e.ev = { s.ev with a := c.adm, b := pkg, c := seq } := by
      rw [he]
      exact ⟨rfl, rfl, rfl, rfl, rfl⟩
    clear he
    obtain ⟨em, ef, eo, el, eev⟩ := hm
    have hnone : e.pendReply c.adm pkg seq = none := State.pendReply_none hfe hpend
    have hload : exec .loadDataReturn e = .next (e.copyAnswer c.adm pkg seq 0 s.ev.v) := by
      rw [exec_loadDataReturn, execLoadDataReturn, eev]
      dsimp only
      rw [hnone]
    have howner : exec .ownerAnswerArrive e = .next (e.copyAnswer c.adm pkg seq (dword s.ev.l 0).toNat s.ev.v) := by
      rw [exec_ownerAnswerArrive, execOwnerAnswerArrive, eev]
      dsimp only
      rw [hnone]
      rfl
    rw [← em, ← ef, ← eo, ← el]
    refine ⟨fun hl => ?_, fun hl hph => ?_, fun code fl hl hev hcode => ?_⟩
    · rw [hload, State.copyAnswer_lost hl]
    · obtain ⟨v, hv, h1, h2, h3, h4⟩ := State.copyAnswer_one hfe hfr hche hp hl 0 s.ev.v
      refine ⟨v, by rw [hload, hv], h1, h2, h3, ?_⟩
      rw [h4, if_neg (by decide), if_pos hph]
    · obtain ⟨v, hv, h1, h2, -, h4⟩ := State.copyAnswer_one hfe hfr hche hp hl (dword s.ev.l 0).toNat s.ev.v
      refine ⟨v, by rw [howner, hv], h1, h2, ?_⟩
      have hc0 : (dword s.ev.l 0).toNat ≠ 0 := fun h0 => hcode (by
        rw [hev] at h0
        exact BitVec.eq_of_toNat_eq h0)
      rw [h4, if_pos hc0]

end Sys2Proof.Machine
end

section
/-! PROOF. O3: rounding (R54). -/

namespace Sys2Proof.Machine

/-! ### The magnitudes of a format -/

/-- The power of two of a format's lowest digit. -/
def Fmt.low (F : Fmt) : Int := 1 - (F.bias : Int) - F.fw

/-- The real number of a magnitude's bits (R48 to R50). -/
def Fmt.magnitude (F : Fmt) (mag : Nat) : ℚ :=
  if mag / 2 ^ F.fw = 0 then (mag % 2 ^ F.fw : Nat) * 2 ^ F.low else (2 ^ F.fw + mag % 2 ^ F.fw : Nat) * 2 ^ (((mag / 2 ^ F.fw : Nat) : Int) - 1 + F.low)

section
variable {F : Fmt} {n k mag : Nat}

/-- n units of the k-th power above the lowest are the magnitude whose bits count k binades and n. -/
theorem Fmt.magnitude_units (hn : n ≤ 2 ^ (F.fw + 1)) (hk : k = 0 ∨ 2 ^ F.fw ≤ n) : F.magnitude (k * 2 ^ F.fw + n) = n * 2 ^ ((k : Int) + F.low) := by
  have hpos : 0 < 2 ^ F.fw := Nat.two_pow_pos _
  rw [pow_succ] at hn
  by_cases hlow : n < 2 ^ F.fw
  · obtain rfl : k = 0 := hk.resolve_right (by omega)
    rw [Nat.zero_mul, Nat.zero_add, Fmt.magnitude, if_pos (Nat.div_eq_of_lt hlow), Nat.mod_eq_of_lt hlow, Nat.cast_zero, zero_add]
  · by_cases hcarry : n = 2 ^ F.fw * 2
    · have hsum : k * 2 ^ F.fw + n = 2 ^ F.fw * (k + 2) := by rw [hcarry]; ring
      have hdiv : (k * 2 ^ F.fw + n) / 2 ^ F.fw = k + 2 := by rw [hsum, Nat.mul_div_cancel_left _ hpos]
      have hmod : (k * 2 ^ F.fw + n) % 2 ^ F.fw = 0 := by rw [hsum, Nat.mul_mod_right]
      rw [Fmt.magnitude, hdiv, hmod, if_neg (by omega), hcarry, Nat.add_zero]
      rw [show (((k + 2 : Nat) : Int) - 1 + F.low) = 1 + ((k : Int) + F.low) by push_cast; ring, zpow_add₀ two_ne_zero, zpow_one]
      push_cast
      ring
    · have hsum : k * 2 ^ F.fw + n = 2 ^ F.fw * (k + 1) + (n - 2 ^ F.fw) := by
        rw [Nat.mul_add, Nat.mul_comm k]
        omega
      have hlt : n - 2 ^ F.fw < 2 ^ F.fw := by omega
      have hdiv : (k * 2 ^ F.fw + n) / 2 ^ F.fw = k + 1 := by rw [hsum, Nat.mul_add_div hpos, Nat.div_eq_of_lt hlt, Nat.add_zero]
      have hmod : (k * 2 ^ F.fw + n) % 2 ^ F.fw = n - 2 ^ F.fw := by rw [hsum, Nat.mul_add_mod, Nat.mod_eq_of_lt hlt]
      rw [Fmt.magnitude, hdiv, hmod, if_neg (by omega), show 2 ^ F.fw + (n - 2 ^ F.fw) = n by omega]
      rw [show (((k + 1 : Nat) : Int) - 1 + F.low) = (k : Int) + F.low by push_cast; ring]

/-- Every magnitude is a whole number of units, at least 2^fw of them above the lowest binade. -/
theorem Fmt.magnitude_of (F : Fmt) (mag : Nat) :
    ∃ j k : Nat, F.magnitude mag = j * 2 ^ ((k : Int) + F.low) ∧ (k = 0 ∨ 2 ^ F.fw ≤ j) ∧ j < 2 ^ (F.fw + 1) := by
  have hpos : 0 < 2 ^ F.fw := Nat.two_pow_pos _
  have hr := Nat.mod_lt mag hpos
  unfold Fmt.magnitude
  by_cases h0 : mag / 2 ^ F.fw = 0
  · rw [if_pos h0]
    exact ⟨mag % 2 ^ F.fw, 0, by rw [Nat.cast_zero, zero_add], .inl rfl, by rw [pow_succ]; omega⟩
  · rw [if_neg h0]
    refine ⟨2 ^ F.fw + mag % 2 ^ F.fw, mag / 2 ^ F.fw - 1, ?_, .inr (Nat.le_add_right _ _), by rw [pow_succ]; omega⟩
    rw [show ((mag / 2 ^ F.fw - 1 : Nat) : Int) = ((mag / 2 ^ F.fw : Nat) : Int) - 1 from Nat.cast_pred (Nat.pos_of_ne_zero h0)]

/-- The sign of a value. -/
def signFactor (neg : Bool) : ℚ := if neg then -1 else 1

theorem Fmt.magnitude_nonneg (F : Fmt) (mag : Nat) : 0 ≤ F.magnitude mag := by
  unfold Fmt.magnitude
  split_ifs <;> positivity

/-- A pattern that stands for infinity or no number. -/
def Fmt.special (F : Fmt) (mag : Nat) : Bool :=
  match F.top with
  | .ieee | .fp8inf => mag / 2 ^ F.fw == 2 ^ F.ew - 1
  | .fp8fin => mag == 2 ^ (F.ew + F.fw) - 1
  | .finite => false

theorem Fmt.value_cases (F : Fmt) (w : Nat) : F.value w =
    if F.special (w % 2 ^ F.width % 2 ^ (F.ew + F.fw)) then
      (if F.hasInf && w % 2 ^ F.width % 2 ^ (F.ew + F.fw) % 2 ^ F.fw == 0 then .inf (decide (2 ^ (F.ew + F.fw) ≤ w % 2 ^ F.width))
        else .nan (decide (2 ^ (F.ew + F.fw) ≤ w % 2 ^ F.width)) (w % 2 ^ F.width % 2 ^ (F.ew + F.fw) % 2 ^ F.fw))
    else if w % 2 ^ F.width % 2 ^ (F.ew + F.fw) / 2 ^ F.fw = 0 then
      .fin (decide (2 ^ (F.ew + F.fw) ≤ w % 2 ^ F.width)) (w % 2 ^ F.width % 2 ^ (F.ew + F.fw) % 2 ^ F.fw) F.low
    else .fin (decide (2 ^ (F.ew + F.fw) ≤ w % 2 ^ F.width)) (2 ^ F.fw + w % 2 ^ F.width % 2 ^ (F.ew + F.fw) % 2 ^ F.fw)
      (((w % 2 ^ F.width % 2 ^ (F.ew + F.fw) / 2 ^ F.fw : Nat) : Int) - F.bias - F.fw) := by
  unfold Fmt.value Fmt.special
  rfl

theorem Fmt.exponent_eq (F : Fmt) (x : Int) : x - F.bias - F.fw = x - 1 + F.low := by
  unfold Fmt.low
  ring

theorem Fmt.realOf_value {y : ℚ} {w : Nat} (h : realOf (F.value w) = some y) :
    y = signFactor (decide (2 ^ (F.ew + F.fw) ≤ w % 2 ^ F.width)) * F.magnitude (w % 2 ^ F.width % 2 ^ (F.ew + F.fw)) := by
  rw [Fmt.value_cases] at h
  generalize decide (2 ^ (F.ew + F.fw) ≤ w % 2 ^ F.width) = neg at h ⊢
  generalize w % 2 ^ F.width % 2 ^ (F.ew + F.fw) = mag at h ⊢
  unfold Fmt.magnitude
  by_cases hs : F.special mag = true
  · rw [if_pos hs] at h
    split_ifs at h <;> cases h
  · rw [if_neg hs] at h
    by_cases h0 : mag / 2 ^ F.fw = 0
    · rw [if_pos h0] at h ⊢
      cases h
      unfold realFin signFactor
      ring
    · rw [if_neg h0] at h ⊢
      cases h
      rw [← Fmt.exponent_eq]
      unfold realFin signFactor
      ring

theorem Fmt.not_special (hew : 1 ≤ F.ew) (h : mag ≤ F.maxBits) : F.special mag = false ∧ mag < 2 ^ (F.ew + F.fw) := by
  have hpos : 0 < 2 ^ F.fw := Nat.two_pow_pos _
  have htwo : 2 ≤ 2 ^ F.ew := le_trans (by norm_num) (Nat.pow_le_pow_right (by norm_num : 0 < 2) hew)
  have hprod : 2 ^ (F.ew + F.fw) = 2 ^ F.ew * 2 ^ F.fw := pow_add ..
  have hbig : 2 ^ F.fw * 2 ≤ 2 ^ F.ew * 2 ^ F.fw := by nlinarith
  have hsub : (2 ^ F.ew - 1) * 2 ^ F.fw = 2 ^ F.ew * 2 ^ F.fw - 2 ^ F.fw := by rw [Nat.sub_mul, Nat.one_mul]
  unfold Fmt.special
  unfold Fmt.maxBits at h
  rw [hprod] at h ⊢
  generalize F.top = top at h ⊢
  cases top <;> dsimp only at h ⊢
  case ieee | fp8inf =>
    have hlt : mag < (2 ^ F.ew - 1) * 2 ^ F.fw := by omega
    refine ⟨?_, by omega⟩
    have := Nat.div_lt_of_lt_mul (n := 2 ^ F.fw) (by rw [Nat.mul_comm]; exact hlt)
    rw [beq_eq_false_iff_ne]
    omega
  case fp8fin =>
    refine ⟨?_, by omega⟩
    rw [beq_eq_false_iff_ne]
    omega
  case finite => exact ⟨rfl, by omega⟩

theorem Fmt.realOf_signed (hew : 1 ≤ F.ew) (neg : Bool) (h : mag ≤ F.maxBits) :
    realOf (F.value (F.signed neg mag)) = some (signFactor neg * F.magnitude mag) := by
  obtain ⟨hs, hlt⟩ := Fmt.not_special hew h
  have hwidth : 2 ^ F.width = 2 ^ (F.ew + F.fw) * 2 := by rw [← pow_succ, Fmt.width]; congr 1; omega
  have hw : F.signed neg mag % 2 ^ F.width = F.signed neg mag := by
    refine Nat.mod_eq_of_lt ?_
    rw [hwidth, Fmt.signed]
    split_ifs <;> omega
  have hneg : decide (2 ^ (F.ew + F.fw) ≤ F.signed neg mag) = neg := by
    rw [Fmt.signed]
    cases neg <;> simp [hlt]
  have hmag : F.signed neg mag % 2 ^ (F.ew + F.fw) = mag := by
    rw [Fmt.signed]
    cases neg
    · simp [Nat.mod_eq_of_lt hlt]
    · simp [Nat.mod_eq_of_lt hlt]
  have hfin : ∃ m e, F.value (F.signed neg mag) = .fin neg m e := by
    rw [Fmt.value_cases, hw, hneg, hmag, if_neg (by rw [hs]; decide)]
    split_ifs <;> exact ⟨_, _, rfl⟩
  obtain ⟨m, e, he⟩ := hfin
  rw [he]
  have := Fmt.realOf_value (w := F.signed neg mag) (congrArg realOf he)
  rw [hw, hneg, hmag] at this
  exact congrArg some this

end

end Sys2Proof.Machine
end

section
/-! PROOF. O3: rounding (R54). -/

namespace Sys2Proof.Machine

section
variable {F : Fmt} {m n rem sh mag : Nat} {e q : Int}

/-! ### A magnitude cut -/

theorem two_zpow_pos (q : Int) : (0 : ℚ) < 2 ^ q := zpow_pos two_pos q

/-- A magnitude is its whole units and the rest, in units of the power it is cut at. -/
theorem cutAt_exact (h : cutAt m e q = (n, rem, sh)) : (m : ℚ) * 2 ^ e = (n + (rem : ℚ) / 2 ^ sh) * 2 ^ q ∧ rem < 2 ^ sh := by
  unfold cutAt at h
  by_cases hq : q ≤ e
  · rw [if_pos hq] at h
    cases h
    refine ⟨?_, by decide⟩
    have he : ((e - q).toNat : Int) = e - q := Int.toNat_of_nonneg (by omega)
    have hz : (2 : ℚ) ^ (e - q).toNat = 2 ^ (e - q) := by rw [← he, zpow_natCast, Int.toNat_natCast]
    push_cast
    rw [hz, zero_div, add_zero, mul_assoc, ← zpow_add₀ two_ne_zero, sub_add_cancel]
  · rw [if_neg hq] at h
    cases h
    refine ⟨?_, Nat.mod_lt _ (Nat.two_pow_pos _)⟩
    have he : ((q - e).toNat : Int) = q - e := Int.toNat_of_nonneg (by omega)
    have hz : (2 : ℚ) ^ q = 2 ^ (q - e).toNat * 2 ^ e := by
      rw [← zpow_natCast, he, ← zpow_add₀ two_ne_zero, sub_add_cancel]
    have hdiv : (m : ℚ) = 2 ^ (q - e).toNat * (m / 2 ^ (q - e).toNat : Nat) + (m % 2 ^ (q - e).toNat : Nat) := by
      exact_mod_cast (Nat.div_add_mod m (2 ^ (q - e).toNat)).symm
    rw [hz]
    generalize hD : (2 : ℚ) ^ (q - e).toNat = D at hdiv ⊢
    have hDne : D ≠ 0 := by rw [← hD]; positivity
    rw [hdiv]
    field_simp

theorem bitLen_bounds (h : m ≠ 0) : 2 ^ (bitLen m - 1) ≤ m ∧ m < 2 ^ bitLen m ∧ 1 ≤ bitLen m := by
  rw [bitLen, if_neg h]
  exact ⟨Nat.log2_self_le h, Nat.lt_log2_self, by omega⟩

/-! ### To the nearest, ties to even -/

/-- The whole number nearest to n + rem / 2^sh. -/
theorem roundUp_nearest (hr : rem < 2 ^ sh) (neg : Bool) (draw : Nat) (k : Int) :
    |((n + (roundUp .rne neg n rem sh false draw).toNat : Nat) : ℚ) - (n + (rem : ℚ) / 2 ^ sh)| ≤ |(k : ℚ) - (n + (rem : ℚ) / 2 ^ sh)| := by
  have hpos : (0 : ℚ) < 2 ^ sh := by positivity
  have hr0 : (0 : ℚ) ≤ (rem : ℚ) / 2 ^ sh := by positivity
  have hr1 : (rem : ℚ) / 2 ^ sh < 1 := by
    rw [div_lt_one hpos]
    exact_mod_cast hr
  have hup : roundUp .rne neg n rem sh false draw = true → (1 : ℚ) / 2 ≤ (rem : ℚ) / 2 ^ sh := fun h => by
    have hle : 2 ^ sh ≤ 2 * rem := by
      simp only [roundUp, Bool.or_eq_true, decide_eq_true_eq, Bool.and_eq_true, beq_iff_eq] at h
      omega
    rw [le_div_iff₀ hpos]
    have : ((2 ^ sh : Nat) : ℚ) ≤ ((2 * rem : Nat) : ℚ) := by exact_mod_cast hle
    push_cast at this
    linarith
  have hdown : roundUp .rne neg n rem sh false draw = false → (rem : ℚ) / 2 ^ sh ≤ 1 / 2 := fun h => by
    have hle : 2 * rem ≤ 2 ^ sh := by
      simp only [roundUp, Bool.or_eq_false_iff, decide_eq_false_iff_not] at h
      omega
    rw [div_le_iff₀ hpos]
    have : ((2 * rem : Nat) : ℚ) ≤ ((2 ^ sh : Nat) : ℚ) := by exact_mod_cast hle
    push_cast at this
    linarith
  generalize (rem : ℚ) / 2 ^ sh = ρ at *
  generalize roundUp .rne neg n rem sh false draw = up at *
  have hk : (k : ℚ) ≤ (n : ℚ) ∨ (n : ℚ) + 1 ≤ (k : ℚ) := by
    rcases le_or_gt k (n : Int) with h | h
    · exact .inl (by exact_mod_cast h)
    · exact .inr (by exact_mod_cast h)
  cases up with
  | true =>
    have h2 := hup rfl
    have hnear : |(((n + 1 : Nat) : ℚ)) - (n + ρ)| = 1 - ρ := by
      push_cast
      rw [abs_of_nonneg (by linarith)]
      ring
    refine hnear.trans_le ?_
    rcases hk with hk | hk
    · rw [abs_of_nonpos (by linarith)]
      linarith
    · rw [abs_of_nonneg (by linarith)]
      linarith
  | false =>
    have h2 := hdown rfl
    have hnear : |(((n + 0 : Nat) : ℚ)) - (n + ρ)| = ρ := by
      push_cast
      rw [abs_of_nonpos (by linarith)]
      ring
    refine hnear.trans_le ?_
    rcases hk with hk | hk
    · rw [abs_of_nonpos (by linarith)]
      linarith
    · rw [abs_of_nonneg (by linarith)]
      linarith

/-! ### The unit a magnitude is cut at -/

/-- The power a number is cut at: fw below its top bit, or the format's lowest (R54). -/
def Fmt.unit (F : Fmt) (m : Nat) (e : Int) : Int := max (e + bitLen m - 1 - F.fw) F.low

/-- Binades above the lowest. -/
def Fmt.binade (F : Fmt) (m : Nat) (e : Int) : Nat := (F.unit m e - F.low).toNat

theorem Fmt.unit_eq (F : Fmt) (m : Nat) (e : Int) : F.unit m e = (F.binade m e : Int) + F.low := by
  have h : F.low ≤ F.unit m e := le_max_right _ _
  rw [Fmt.binade, Int.toNat_of_nonneg (sub_nonneg.mpr h), sub_add_cancel]

theorem Fmt.cut_bounds (hm : m ≠ 0) (h : cutAt m e (F.unit m e) = (n, rem, sh)) :
    n < 2 ^ (F.fw + 1) ∧ (F.binade m e = 0 ∨ 2 ^ F.fw ≤ n) := by
  obtain ⟨hlow, hhigh, hlen⟩ := bitLen_bounds hm
  obtain ⟨hexact, hrem⟩ := cutAt_exact h
  have hq := two_zpow_pos (F.unit m e)
  have he := two_zpow_pos e
  have hr0 : (0 : ℚ) ≤ (rem : ℚ) / 2 ^ sh := by positivity
  have hr1 : (rem : ℚ) / 2 ^ sh < 1 := by
    rw [div_lt_one (by positivity)]
    exact_mod_cast hrem
  refine ⟨?_, ?_⟩
  · have hunit : e + bitLen m ≤ F.unit m e + (F.fw + 1) := by
      have : e + bitLen m - 1 - F.fw ≤ F.unit m e := le_max_left _ _
      omega
    have hm2 : (m : ℚ) * 2 ^ e < 2 ^ (F.fw + 1) * 2 ^ F.unit m e := by
      calc (m : ℚ) * 2 ^ e < 2 ^ bitLen m * 2 ^ e := mul_lt_mul_of_pos_right (by exact_mod_cast hhigh) he
        _ = 2 ^ (e + bitLen m) := by rw [zpow_add₀ two_ne_zero, zpow_natCast, mul_comm]
        _ ≤ 2 ^ (F.unit m e + (F.fw + 1)) := zpow_le_zpow_right₀ one_le_two hunit
        _ = 2 ^ (F.fw + 1) * 2 ^ F.unit m e := by
          rw [zpow_add₀ two_ne_zero, mul_comm]
          norm_cast
    rw [hexact] at hm2
    have := lt_of_mul_lt_mul_right hm2 hq.le
    have hn : (n : ℚ) < 2 ^ (F.fw + 1) := by linarith
    exact_mod_cast hn
  · by_cases hb : F.binade m e = 0
    · exact .inl hb
    · refine .inr ?_
      have hunit : F.unit m e = e + bitLen m - 1 - F.fw := by
        have hu := F.unit_eq m e
        rcases max_choice (e + bitLen m - 1 - F.fw) F.low with h | h
        · exact h
        · exact absurd (show F.unit m e = F.low from h) (by omega)
      have hm2 : 2 ^ F.fw * 2 ^ F.unit m e ≤ (m : ℚ) * 2 ^ e := by
        calc (2 : ℚ) ^ F.fw * 2 ^ F.unit m e = 2 ^ (e + ((bitLen m - 1 : Nat) : Int)) := by
              rw [← zpow_natCast, ← zpow_add₀ two_ne_zero]
              congr 1
              omega
          _ = 2 ^ (bitLen m - 1) * 2 ^ e := by rw [zpow_add₀ two_ne_zero, zpow_natCast, mul_comm]
          _ ≤ (m : ℚ) * 2 ^ e := mul_le_mul_of_nonneg_right (by exact_mod_cast hlow) he.le
      rw [hexact] at hm2
      have := le_of_mul_le_mul_right hm2 hq
      have hn : (2 : ℚ) ^ F.fw < n + 1 := by linarith
      exact Nat.lt_succ_iff.mp (by exact_mod_cast hn)

/-! ### No magnitude of the format lies nearer -/

/-- A format's magnitude is a whole number of units of the cut, or lies below 2^fw units of a cut above the lowest binade. -/
theorem Fmt.magnitude_grid (F : Fmt) (mag b : Nat) : (∃ k : Int, F.magnitude mag = k * 2 ^ ((b : Int) + F.low)) ∨
    (b ≠ 0 ∧ F.magnitude mag ≤ 2 ^ F.fw * 2 ^ ((b : Int) + F.low)) := by
  obtain ⟨j, k, hmag, -, hj⟩ := F.magnitude_of mag
  by_cases hkb : b ≤ k
  · refine .inl ⟨j * 2 ^ (k - b), ?_⟩
    rw [hmag]
    push_cast
    rw [mul_assoc, ← zpow_natCast, ← zpow_add₀ two_ne_zero]
    congr 2
    omega
  · refine .inr ⟨by omega, ?_⟩
    have hj' : (j : ℚ) ≤ 2 ^ (F.fw + 1) := by exact_mod_cast hj.le
    calc F.magnitude mag = j * 2 ^ ((k : Int) + F.low) := hmag
      _ ≤ 2 ^ (F.fw + 1) * 2 ^ ((k : Int) + F.low) := mul_le_mul_of_nonneg_right hj' (two_zpow_pos _).le
      _ = 2 ^ F.fw * 2 ^ ((k : Int) + F.low + 1) := by rw [zpow_add₀ two_ne_zero ((k : Int) + F.low), zpow_one, pow_succ]; ring
      _ ≤ 2 ^ F.fw * 2 ^ ((b : Int) + F.low) := by
        refine mul_le_mul_of_nonneg_left (zpow_le_zpow_right₀ one_le_two ?_) (by positivity)
        omega

theorem Fmt.nearest (hm : m ≠ 0) (h : cutAt m e (F.unit m e) = (n, rem, sh)) (neg : Bool) (draw mag : Nat) :
    |((n + (roundUp .rne neg n rem sh false draw).toNat : Nat) : ℚ) * 2 ^ F.unit m e - m * 2 ^ e| ≤ |F.magnitude mag - m * 2 ^ e| := by
  obtain ⟨hexact, hrem⟩ := cutAt_exact h
  obtain ⟨-, hbig⟩ := Fmt.cut_bounds hm h
  have hq := two_zpow_pos (F.unit m e)
  have hscale : ∀ x : ℚ, |x * 2 ^ F.unit m e - m * 2 ^ e| = |x - (n + (rem : ℚ) / 2 ^ sh)| * 2 ^ F.unit m e := fun x => by
    rw [hexact, ← sub_mul, abs_mul, abs_of_pos hq]
  have hint : ∀ k : Int, |((n + (roundUp .rne neg n rem sh false draw).toNat : Nat) : ℚ) * 2 ^ F.unit m e - m * 2 ^ e| ≤ |(k : ℚ) * 2 ^ F.unit m e - m * 2 ^ e| :=
    fun k => by
      rw [hscale, hscale]
      exact mul_le_mul_of_nonneg_right (roundUp_nearest hrem neg draw k) hq.le
  rcases F.magnitude_grid mag (F.binade m e) with ⟨k, hk⟩ | ⟨hb, hlow⟩
  · rw [hk, ← Fmt.unit_eq]
    exact hint k
  · have hn : 2 ^ F.fw ≤ n := hbig.resolve_left hb
    have hnq : (2 : ℚ) ^ F.fw ≤ n := by exact_mod_cast hn
    have hr0 : (0 : ℚ) ≤ (rem : ℚ) / 2 ^ sh := by positivity
    rw [← Fmt.unit_eq] at hlow
    have hM : (2 : ℚ) ^ F.fw * 2 ^ F.unit m e ≤ m * 2 ^ e := by
      rw [hexact]
      exact mul_le_mul_of_nonneg_right (by linarith) hq.le
    refine (hint (2 ^ F.fw : Nat)).trans ?_
    rw [abs_of_nonpos (by push_cast; linarith), abs_of_nonpos (by linarith)]
    push_cast
    linarith

/-! ### Rounding -/

/-- The bits of a magnitude rounded once (R54). -/
def Fmt.rounded (F : Fmt) (mode : Mode) (neg : Bool) (m : Nat) (e : Int) (draw : Nat) : Nat :=
  let c := cutAt m e (F.unit m e)
  F.binade m e * 2 ^ F.fw + (c.1 + (roundUp mode neg c.1 c.2.1 c.2.2 false draw).toNat)

theorem Fmt.rounded_if (F : Fmt) (m : Nat) (e : Int) (n : Nat) :
    (if F.unit m e = F.low then n else (F.unit m e - F.low).toNat * 2 ^ F.fw + n) = F.binade m e * 2 ^ F.fw + n := by
  split_ifs with h
  · rw [Fmt.binade, h, sub_self, Int.toNat_zero, Nat.zero_mul, Nat.zero_add]
  · rfl

theorem roundTo_zero (F : Fmt) (mode : Mode) (sat neg : Bool) (e : Int) (draw : Nat) : roundTo F mode sat neg 0 e false draw = (F.signed neg 0, 0) := rfl

/-- The flags of a number rounded without overflow: inexact, and underflow when it was tiny too (R58). -/
def Fmt.roundFlags (F : Fmt) (mode : Mode) (neg : Bool) (m : Nat) (e : Int) (draw : Nat) : Nat :=
  let c := cutAt m e (F.unit m e)
  let top : Int := e + bitLen m - 1
  let emin : Int := 1 - F.bias
  let u := cutAt m e (top - F.fw)
  let upu := match mode with
    | .sr => (u.2.1 != 0 || false) && roundUp mode neg c.1 c.2.1 c.2.2 false draw
    | _ => roundUp mode neg u.1 u.2.1 u.2.2 false draw
  let tiny := decide (top < emin) && !(u.1 + upu.toNat == 2 ^ (F.fw + 1) && top + 1 == emin)
  (if c.2.1 != 0 || false then fNX else 0) + (if (c.2.1 != 0 || false) && tiny then fUF else 0)

theorem Fmt.roundFlags_exact {mode : Mode} {neg : Bool} {draw : Nat} (h : (cutAt m e (F.unit m e)).2.1 = 0) :
    F.roundFlags mode neg m e draw = 0 := by
  unfold Fmt.roundFlags
  dsimp only
  rw [h]
  rfl

theorem roundTo_eq (F : Fmt) (mode : Mode) (sat neg : Bool) (e : Int) (draw : Nat) (hm : m ≠ 0) :
    roundTo F mode sat neg m e false draw = if F.maxBits < F.rounded mode neg m e draw then (overflow F mode sat neg, fOF + fNX)
      else (F.signed neg (F.rounded mode neg m e draw), F.roundFlags mode neg m e draw) := by
  have hz : (decide (m = 0) && !false) = false := by simp [hm]
  have hr := F.rounded_if m e ((cutAt m e (F.unit m e)).1 +
    (roundUp mode neg (cutAt m e (F.unit m e)).1 (cutAt m e (F.unit m e)).2.1 (cutAt m e (F.unit m e)).2.2 false draw).toNat)
  unfold Fmt.rounded
  dsimp only
  rw [← hr]
  unfold roundTo
  rw [hz, if_neg Bool.false_ne_true]
  rfl

/-- What RNE delivers without overflow is the magnitude nearest to the exact value. -/
theorem Fmt.rounded_magnitude (hm : m ≠ 0) (neg : Bool) (draw : Nat) : ∀ k, |F.magnitude (F.rounded .rne neg m e draw) - m * 2 ^ e| ≤
    |F.magnitude k - m * 2 ^ e| := by
  intro k
  rcases hc : cutAt m e (F.unit m e) with ⟨n, rem, sh⟩
  obtain ⟨hn, hb⟩ := Fmt.cut_bounds hm hc
  have hval : F.magnitude (F.rounded .rne neg m e draw) = ((n + (roundUp .rne neg n rem sh false draw).toNat : Nat) : ℚ) * 2 ^ F.unit m e := by
    unfold Fmt.rounded
    rw [hc]
    dsimp only
    have hup := Bool.toNat_le (roundUp .rne neg n rem sh false draw)
    rw [Fmt.magnitude_units (by omega) (hb.imp_right fun h => by omega), Fmt.unit_eq]
  rw [hval]
  exact Fmt.nearest hm hc neg draw k

theorem signFactor_abs (neg : Bool) (a b : ℚ) : |signFactor neg * a - signFactor neg * b| = |a - b| := by
  rw [← mul_sub, abs_mul]
  cases neg <;> simp [signFactor]

theorem realFin_eq (neg : Bool) (m : Nat) (e : Int) : realFin neg m e = signFactor neg * (m * 2 ^ e) := by
  unfold realFin signFactor
  ring

/-- A value of the other sign lies no nearer than zero. -/
theorem signed_far {neg neg' : Bool} (h : neg' ≠ neg) {a b : ℚ} (ha : 0 ≤ a) (hb : 0 ≤ b) : |0 - b| ≤ |signFactor neg' * a - signFactor neg * b| := by
  rw [zero_sub, abs_neg, abs_of_nonneg hb]
  cases neg <;> cases neg' <;> simp only [signFactor, if_true, if_false, Bool.false_eq_true, one_mul, neg_mul, ne_eq, not_true_eq_false] at h ⊢
  · rw [abs_of_nonpos (by linarith)]
    linarith
  · rw [abs_of_nonneg (by linarith)]
    linarith

theorem Fmt.magnitude_zero (F : Fmt) : F.magnitude 0 = 0 := by
  rw [Fmt.magnitude, Nat.zero_div, if_pos rfl, Nat.zero_mod, Nat.cast_zero, zero_mul]

theorem roundTo_nearest {sat neg : Bool} {w fl : Nat} (hew : 1 ≤ F.ew) (h : roundTo F .rne sat neg m e false 0 = (w, fl)) (hfl : fl &&& fOF = 0) :
    ∃ x, realOf (F.value w) = some x ∧ ∀ v y, realOf (F.value v) = some y → |x - realFin neg m e| ≤ |y - realFin neg m e| := by
  by_cases hm : m = 0
  · subst hm
    cases h
    refine ⟨_, Fmt.realOf_signed hew neg (Nat.zero_le _), fun v y _ => ?_⟩
    rw [Fmt.magnitude_zero, realFin_eq]
    simp
  · rw [roundTo_eq F .rne sat neg e 0 hm] at h
    split_ifs at h with hover
    · cases h
      exact absurd hfl (by decide)
    · cases h
      refine ⟨_, Fmt.realOf_signed hew neg (not_lt.mp hover), fun v y hy => ?_⟩
      have hnear := Fmt.rounded_magnitude (F := F) (e := e) hm neg 0
      rw [realFin_eq, signFactor_abs, Fmt.realOf_value hy]
      generalize v % 2 ^ F.width % 2 ^ (F.ew + F.fw) = mag
      by_cases hs : decide (2 ^ (F.ew + F.fw) ≤ v % 2 ^ F.width) = neg
      · rw [hs, signFactor_abs]
        exact hnear mag
      · have hzero := hnear 0
        rw [Fmt.magnitude_zero] at hzero
        exact hzero.trans (signed_far hs (F.magnitude_nonneg mag) (by positivity))

/-! ### Values of the format -/

theorem cutAt_whole (m : Nat) (e : Int) : cutAt m e e = (m, 0, 0) := by
  rw [cutAt, if_pos le_rfl, sub_self, Int.toNat_zero, pow_zero, Nat.mul_one]

theorem roundUp_exact (mode : Mode) (neg : Bool) (n draw : Nat) : roundUp mode neg n 0 0 false draw = false := by
  cases mode <;> simp [roundUp]

theorem Fmt.special_fits (h : F.special mag = false) (hlt : mag < 2 ^ (F.ew + F.fw)) : mag ≤ F.maxBits := by
  have hpos : 0 < 2 ^ F.fw := Nat.two_pow_pos _
  have hprod : 2 ^ (F.ew + F.fw) = 2 ^ F.ew * 2 ^ F.fw := pow_add ..
  unfold Fmt.special at h
  unfold Fmt.maxBits
  rw [hprod] at h hlt ⊢
  generalize F.top = top at h ⊢
  cases top <;> dsimp only at h ⊢
  case ieee | fp8inf =>
    have hdiv : mag / 2 ^ F.fw < 2 ^ F.ew := Nat.div_lt_of_lt_mul (by rw [Nat.mul_comm]; exact hlt)
    rw [beq_eq_false_iff_ne] at h
    have := (Nat.div_lt_iff_lt_mul hpos).mp (show mag / 2 ^ F.fw < 2 ^ F.ew - 1 by omega)
    omega
  case fp8fin =>
    rw [beq_eq_false_iff_ne] at h
    omega
  case finite => omega

theorem Fmt.signed_parts (F : Fmt) {w : Nat} (hw : w < 2 ^ F.width) :
    F.signed (decide (2 ^ (F.ew + F.fw) ≤ w)) (w % 2 ^ (F.ew + F.fw)) = w ∧ w % 2 ^ (F.ew + F.fw) < 2 ^ (F.ew + F.fw) := by
  have hwidth : 2 ^ F.width = 2 ^ (F.ew + F.fw) * 2 := by rw [← pow_succ, Fmt.width]; congr 1; omega
  refine ⟨?_, Nat.mod_lt _ (Nat.two_pow_pos _)⟩
  rw [Fmt.signed]
  by_cases h : 2 ^ (F.ew + F.fw) ≤ w
  · rw [if_pos (decide_eq_true h), Nat.mod_eq_sub_mod h, Nat.mod_eq_of_lt (by omega)]
    omega
  · rw [if_neg (by simpa using h), Nat.mod_eq_of_lt (by omega), Nat.zero_add]

theorem Fmt.unit_subnormal (hm : m ≠ 0) (h : m < 2 ^ F.fw) : F.unit m F.low = F.low := by
  obtain ⟨hlow, -, hlen⟩ := bitLen_bounds hm
  have := (Nat.pow_lt_pow_iff_right (by decide : 1 < 2)).mp (hlow.trans_lt h)
  exact max_eq_right (by omega)

theorem Fmt.unit_normal {fr : Nat} (h : fr < 2 ^ F.fw) (he : F.low ≤ e) : F.unit (2 ^ F.fw + fr) e = e := by
  obtain ⟨hlow, hhigh, hlen⟩ := bitLen_bounds (m := 2 ^ F.fw + fr) (by have := Nat.two_pow_pos F.fw; omega)
  have h1 := (Nat.pow_lt_pow_iff_right (by decide : 1 < 2)).mp ((Nat.le_add_right _ _).trans_lt hhigh)
  have h2 := (Nat.pow_lt_pow_iff_right (by decide : 1 < 2)).mp (hlow.trans_lt (show 2 ^ F.fw + fr < 2 ^ (F.fw + 1) by rw [pow_succ]; omega))
  have hlen : bitLen (2 ^ F.fw + fr) = F.fw + 1 := by omega
  rw [Fmt.unit, hlen, max_eq_left (by push_cast; omega)]
  push_cast
  ring

/-- A number cut at its own power is delivered as the bits it counts. -/
theorem roundTo_whole {mode : Mode} {sat neg : Bool} {draw : Nat} (hm : m ≠ 0) (hu : F.unit m e = e) (hmag : F.binade m e * 2 ^ F.fw + m = mag)
    (hfit : mag ≤ F.maxBits) : roundTo F mode sat neg m e false draw = (F.signed neg mag, 0) := by
  have hc : cutAt m e (F.unit m e) = (m, 0, 0) := by rw [hu, cutAt_whole]
  have hr : F.rounded mode neg m e draw = mag := by
    unfold Fmt.rounded
    rw [hc]
    dsimp only
    rw [roundUp_exact]
    exact hmag
  rw [roundTo_eq F mode sat neg e draw hm, hr, if_neg (Nat.not_lt.mpr hfit), Fmt.roundFlags_exact (by rw [hc])]

theorem roundTo_representable {mode : Mode} {sat neg : Bool} {w draw : Nat} (hw : w < 2 ^ F.width) (h : F.value w = .fin neg m e) :
    roundTo F mode sat neg m e false draw = (w, 0) := by
  obtain ⟨hparts, hlt⟩ := F.signed_parts hw
  have hpos : 0 < 2 ^ F.fw := Nat.two_pow_pos _
  have hr := Nat.mod_lt (w % 2 ^ (F.ew + F.fw)) hpos
  have hsplit := Nat.div_add_mod' (w % 2 ^ (F.ew + F.fw)) (2 ^ F.fw)
  rw [Fmt.value_cases, Nat.mod_eq_of_lt hw] at h
  generalize decide (2 ^ (F.ew + F.fw) ≤ w) = neg' at h hparts
  generalize w % 2 ^ (F.ew + F.fw) = mag at *
  by_cases hs : F.special mag = true
  · rw [if_pos hs] at h
    split_ifs at h
  have hfit := Fmt.special_fits (by simpa using hs) hlt
  rw [if_neg hs] at h
  by_cases h0 : mag / 2 ^ F.fw = 0
  · rw [if_pos h0] at h
    cases h
    rw [h0, Nat.zero_mul, Nat.zero_add] at hsplit
    rw [hsplit] at hr ⊢
    by_cases hm : mag = 0
    · rw [hm, roundTo_zero, ← hparts, hm]
    · have hu := Fmt.unit_subnormal hm hr
      rw [← hparts]
      refine roundTo_whole hm hu ?_ hfit
      rw [Fmt.binade, hu, sub_self, Int.toNat_zero, Nat.zero_mul, Nat.zero_add]
  · rw [if_neg h0] at h
    cases h
    have hex : F.low ≤ ((mag / 2 ^ F.fw : Nat) : Int) - F.bias - F.fw := by
      have := Nat.pos_of_ne_zero h0
      rw [Fmt.exponent_eq]
      generalize mag / 2 ^ F.fw = ex at *
      omega
    have hu := Fmt.unit_normal hr hex
    have hb : F.binade (2 ^ F.fw + mag % 2 ^ F.fw) (((mag / 2 ^ F.fw : Nat) : Int) - F.bias - F.fw) = mag / 2 ^ F.fw - 1 := by
      rw [Fmt.binade, hu, Fmt.exponent_eq]
      generalize mag / 2 ^ F.fw = ex at *
      omega
    rw [← hparts]
    refine roundTo_whole (by omega) hu ?_ hfit
    rw [hb, ← Nat.add_assoc, ← Nat.succ_mul, Nat.succ_eq_add_one, Nat.sub_add_cancel (Nat.pos_of_ne_zero h0), hsplit]

end

/-- Settles O3. -/
theorem rounding : Obligations.Rounding := by
  unfold Obligations.Rounding
  have hew : ∀ F ∈ [f64, f32, bf16, f16, e4m3 false, e4m3 true, e5m2 false, e5m2 true, e2m1], 1 ≤ F.ew := by decide
  exact ⟨fun F mode sat neg w m draw e hF hw h => roundTo_representable hw h,
    fun F sat neg m w fl e hF h hfl => roundTo_nearest (hew F hF) h hfl⟩

end Sys2Proof.Machine
end

section
/-! SUPPORT. Canonical memory (O56): the predicate on states and on results, and how it passes through their combinators. -/

namespace Sys2Proof.Machine
set_option Elab.async false

/-! ### The predicate on states, and on the results that carry one -/

/-- Memory in its canonical form. -/
def State.canon (s : State) : Prop := s.mem.wf = true

/-- The state an instruction stops in has canonical memory, where it carries one of its own. -/
def Stop.canon : Stop → Prop
  | .trap _ => True
  | .trapIn s _ => s.canon
  | .wait s _ => s.canon

/-- The state an instruction completes in has canonical memory. -/
def Done.canon : Done → Prop
  | .done s => s.canon
  | .jump s _ => s.canon
  | .stay s => s.canon
  | .after s _ => s.canon

/-- The state an attempt to place a firing leaves has canonical memory. -/
def Placed.canon : Placed → Prop
  | .ok s => s.canon
  | .no => True
  | .full s _ => s.canon

/-- The state the order log leaves has canonical memory. -/
def LogRes.canon : LogRes → Prop
  | .ok s => s.canon
  | .held => True
  | .full _ _ => True

/-- The state an instruction or an event leaves has canonical memory. -/
def outKept (o : Host.Outcome State Fault Refusal) : Prop := ∀ t, o = .next t → t.canon

section
variable {α : Type}

/-- What stops a check has canonical memory. -/
def stopKept : Except Stop α → Prop
  | .ok _ => True
  | .error e => e.canon

/-- The state a computation ends in, beside its value, or stops in has canonical memory. -/
def pairKept : Except Stop (State × α) → Prop
  | .ok r => r.1.canon
  | .error e => e.canon

/-- The state beside a value, where there is one, has canonical memory. -/
def optPairKept : Option (State × α) → Prop
  | some r => r.1.canon
  | none => True

/-- The state beside a value has canonical memory; an error carries none. -/
def valKept {ε : Type} : Except ε (State × α) → Prop
  | .ok r => r.1.canon
  | .error _ => True

end

/-- The state a computation ends or stops in has canonical memory. -/
def stateKept : Except Stop State → Prop
  | .ok s => s.canon
  | .error e => e.canon

/-- The state the body of an instruction completes or stops in has canonical memory. -/
def doneKept : Except Stop Done → Prop
  | .ok d => d.canon
  | .error e => e.canon

/-- The state, where there is one, has canonical memory. -/
def optKept : Option State → Prop
  | some s => s.canon
  | none => True

/-- The state a computation ends in has canonical memory; an error carries none. -/
def valStateKept {ε : Type} : Except ε State → Prop
  | .ok s => s.canon
  | .error _ => True

theorem outKept_next {t : State} : outKept (.next t) ↔ t.canon :=
  ⟨fun h => h t rfl, fun h _ hu => Host.Outcome.next.inj hu ▸ h⟩

theorem LogRes.canon_of {x : LogRes} (hx : x.canon) {s : State} (h : x = .ok s) : s.canon := by
  subst h
  exact hx

theorem Placed.canon_of {x : Placed} (hx : x.canon) {s : State} (h : x = .ok s) : s.canon := by
  subst h
  exact hx

theorem after_canon {s : State} (h : s.canon) {o : Host.Outcome State Fault Refusal} (ho : outKept o) : (after s o).canon := by
  cases o with
  | next t => exact ho t rfl
  | _ => exact h

/-! ### The sequence of two computations -/

theorem bind_cases {ε α β : Type} (x : Except ε α) (k : α → Except ε β) : (x >>= k) = match x with
  | .ok a => k a
  | .error e => .error e := by cases x <;> rfl

theorem map_cases {ε α β : Type} (x : Except ε α) (k : α → β) : x.map k = match x with
  | .ok a => .ok (k a)
  | .error e => .error e := by cases x <;> rfl

theorem check_cases (b : Bool) (c : Cause) (v : Word) : check b c v = if b = true then .ok () else raise c v := by cases b <;> rfl

theorem standing_cases {α : Type} (s : State) (x : Except Stop α) : standing s x = match x with
  | .error (.trap t) => .error (.trapIn s t)
  | r => r := rfl

theorem check_kept (b : Bool) (c : Cause) (v : Word) : stopKept (check b c v) := by
  cases b <;> exact trivial

theorem stopKept.of_error {α : Type} {x : Except Stop α} (hx : stopKept x) {e : Stop} (h : x = .error e) : e.canon := by
  subst h
  exact hx

theorem stopKept.bind {α β : Type} {x : Except Stop α} {k : α → Except Stop β} {C : Except Stop β → Prop} (hx : stopKept x)
    (he : ∀ e : Stop, e.canon → C (.error e)) (hk : ∀ a, x = .ok a → C (k a)) : C (x >>= k) := by
  rcases x with e | a
  · exact he e hx
  · exact hk a rfl

theorem stateKept.bind {β : Type} {x : Except Stop State} {k : State → Except Stop β} {C : Except Stop β → Prop} (hx : stateKept x)
    (he : ∀ e : Stop, e.canon → C (.error e)) (hk : ∀ s : State, s.canon → C (k s)) : C (x >>= k) := by
  rcases x with e | s
  · exact he e hx
  · exact hk s hx

theorem pairKept.bind {α β : Type} {x : Except Stop (State × α)} {k : State × α → Except Stop β} {C : Except Stop β → Prop} (hx : pairKept x)
    (he : ∀ e : Stop, e.canon → C (.error e)) (hk : ∀ a : State × α, a.1.canon → C (k a)) : C (x >>= k) := by
  rcases x with e | a
  · exact he e hx
  · exact hk a hx

theorem valKept.of_ok {ε α : Type} {x : Except ε (State × α)} (hx : valKept x) {a : State × α} (h : x = .ok a) : a.1.canon := by
  subst h
  exact hx

theorem valKept.bind {ε α β : Type} {x : Except ε (State × α)} {k : State × α → Except ε (State × β)} (hx : valKept x)
    (hk : ∀ a : State × α, a.1.canon → valKept (k a)) : valKept (x >>= k) := by
  rcases x with e | a
  · exact trivial
  · exact hk a hx

theorem guard_kept {β : Type} {b : Prop} [Decidable b] {x : Except Stop PUnit} {r : Except Stop β} {C : Except Stop β → Prop} (hx : stopKept x)
    (he : ∀ e : Stop, e.canon → C (.error e)) (hr : C r) : C (if b then x >>= fun _ => r else r) := by
  split
  · exact hx.bind he fun _ _ => hr
  · exact hr

/-! ### Choices and folds -/

theorem ite_canon {b : Prop} [Decidable b] {s t : State} (hs : s.canon) (ht : t.canon) : (if b then s else t).canon := by
  split
  · exact hs
  · exact ht

theorem maybe_canon {b : Prop} [Decidable b] {s t : State} (hs : s.canon) (ht : s.canon → t.canon) : (if b then s else t).canon := ite_canon hs (ht hs)

theorem maybe_canon' {b : Prop} [Decidable b] {s t : State} (hs : s.canon) (ht : s.canon → t.canon) : (if b then t else s).canon := ite_canon (ht hs) hs

theorem outKept_ite {b : Prop} [Decidable b] {x y : Host.Outcome State Fault Refusal} (hx : outKept x) (hy : outKept y) : outKept (if b then x else y) := by
  split
  · exact hx
  · exact hy

theorem Placed.ite_no {b : Prop} [Decidable b] {x : Placed} (hx : x.canon) : (if b then x else .no).canon := by
  split
  · exact hx
  · exact trivial

theorem teamOr_canon {s : State} (h : s.canon) {o : Option Team} {k : Team → State} (hk : ∀ t, s.canon → (k t).canon) :
    State.canon (match o with
      | some t => k t
      | none => s) := by
  cases o with
  | none => exact h
  | some t => exact hk t h

theorem firingOr_canon {s : State} (h : s.canon) {o : Option Firing} {k : Firing → State} (hk : ∀ f, s.canon → (k f).canon) :
    State.canon (match o with
      | some f => k f
      | none => s) := by
  cases o with
  | none => exact h
  | some f => exact hk f h

theorem foldl_canon {α : Type} {k : State → α → State} (hk : ∀ s x, s.canon → (k s x).canon) (l : List α) : ∀ {s : State}, s.canon → (l.foldl k s).canon := by
  induction l with
  | nil => exact fun h => h
  | cons x l ih => exact fun h => ih (hk _ _ h)

theorem foldl_pair_canon {α β : Type} {k : State × β → α → State × β} (hk : ∀ a x, a.1.canon → (k a x).1.canon) (l : List α) :
    ∀ {a : State × β}, a.1.canon → (l.foldl k a).1.canon := by
  induction l with
  | nil => exact fun h => h
  | cons x l ih => exact fun h => ih (hk _ _ h)

/-! ### Results that may be missing -/

theorem option_map_cases {α β : Type} (x : Option α) (k : α → β) : x.map k = match x with
  | some a => some (k a)
  | none => none := by cases x <;> rfl

theorem some_of_ite_none {α : Type} {b : Prop} [Decidable b] {x : Option α} {a : α} (h : (if b then none else x) = some a) : x = some a := by
  split at h
  · exact nomatch h
  · exact h

theorem optKept.of {x : Option State} (h : ∀ t, x = some t → t.canon) : optKept x := by
  cases x with
  | none => exact trivial
  | some t => exact h t rfl

theorem optKept.of_some {x : Option State} (hx : optKept x) {s : State} (h : x = some s) : s.canon := by
  subst h
  exact hx

theorem optKept.getD {x : Option State} (hx : optKept x) {s : State} (h : s.canon) : (x.getD s).canon := by
  rcases x with _ | t
  · exact h
  · exact hx

theorem optKept.map {x : Option State} (hx : optKept x) {k : State → State} (hk : ∀ s, s.canon → (k s).canon) : optKept (x.map k) := by
  rcases x with _ | t
  · exact trivial
  · exact hk t hx

theorem optKept.bind {x : Option State} (hx : optKept x) {k : State → Option State} (hk : ∀ s, s.canon → optKept (k s)) : optKept (x.bind k) := by
  rcases x with _ | t
  · exact trivial
  · exact hk t hx

theorem optKept.pair {α : Type} {x : Option State} (hx : optKept x) (a : α) : optPairKept (x.map fun s => (s, a)) := by
  rcases x with _ | t
  · exact trivial
  · exact hx

theorem optKept.findSome {α : Type} {k : α → Option State} (hk : ∀ x, optKept (k x)) (l : List α) : optKept (l.findSome? k) := by
  induction l with
  | nil => exact trivial
  | cons x l ih =>
    rw [List.findSome?_cons]
    split
    · exact (hk x).of_some ‹_›
    · exact ih

theorem foldl_opt_kept {α : Type} {k : Option State → α → Option State} (hk : ∀ o x, optKept o → optKept (k o x)) (l : List α) :
    ∀ {o : Option State}, optKept o → optKept (l.foldl k o) := by
  induction l with
  | nil => exact fun h => h
  | cons x l ih => exact fun h => ih (hk _ _ h)

theorem optPairKept.of_some {α : Type} {x : Option (State × α)} (hx : optPairKept x) {a : State × α} (h : x = some a) : a.1.canon := by
  subst h
  exact hx

theorem optPairKept.map {α : Type} {x : Option (State × α)} (hx : optPairKept x) {k : State × α → State}
    (hk : ∀ a : State × α, a.1.canon → (k a).canon) : optKept (x.map k) := by
  rcases x with _ | t
  · exact trivial
  · exact hk t hx

theorem optPairKept.ite_none {α : Type} {b : Prop} [Decidable b] {x : Option (State × α)} (hx : optPairKept x) : optPairKept (if b then x else none) := by
  split
  · exact hx
  · exact trivial

theorem optPairKept.findSome {α β : Type} {k : α → Option (State × β)} (hk : ∀ x, optPairKept (k x)) (l : List α) : optPairKept (l.findSome? k) := by
  induction l with
  | nil => exact trivial
  | cons x l ih =>
    rw [List.findSome?_cons]
    split
    · exact (hk x).of_some (a := _) ‹_›
    · exact ih

end Sys2Proof.Machine
end

section
/-! SUPPORT. Canonical memory (O56): traps, publication, the places of an access and groups.
Each lemma says of one function of the model: from a state whose memory is canonical it leaves such a state. It is proved from the lemmas of the functions it calls. -/

namespace Sys2Proof.Machine
set_option Elab.async false

theorem State.onDie_canon {s : State} (h : s.canon) (d : Fin 4) (g : Die → Die) : (s.onDie d g).canon := h

theorem State.homeDone_canon {s : State} {m : Mem} (h : m.wf = true) (keys : List Nat) : (s.homeDone keys m).canon := h

theorem State.translate_enter_canon (p : Fin 16) (d : Fin 4) (wr : Bool) {s : State} (h : s.canon) (l : Leaf) : (State.translate.enter p d wr s l).1.canon := by
  grind only [State.translate.enter, State.onDie_canon, State.homeDone_canon, Mem.wf_orKeys, State.canon]

theorem State.translate_canon {s : State} (h : s.canon) (p : Fin 16) (d : Fin 4) (va : Nat) (wr : Bool) : optPairKept (s.translate p d va wr) := by
  grind only [State.translate, State.translate_enter_canon, optPairKept]

theorem State.leafPlace_canon (s : State) (p : Fin 16) (l : Leaf) (va : Nat) : stopKept (s.leafPlace p l va) := by
  grind only [State.leafPlace, raiseSub, Stop.canon, stopKept]

theorem State.nextFree_canon {s : State} (h : s.canon) : s.nextFree.2.canon := h

theorem State.codeAt_canon {s : State} (h : s.canon) (k : Nat) : (s.codeAt k).1.canon := by
  grind only [State.codeAt, State.nextFree_canon]

theorem State.fetchWord_canon {s : State} (h : s.canon) (pc : Word) : valKept (s.fetchWord pc) := by
  grind only [State.fetchWord, State.translate_canon, State.codeAt_canon, optPairKept, valKept]

theorem State.upd_canon {s : State} (h : s.canon) (g : Firing → Firing) : (s.upd g).canon := h

theorem State.wordAt_canon {s : State} (h : s.canon) (pc : Word) : valKept (s.wordAt pc) := by
  grind only [State.wordAt, State.fetchWord_canon, State.upd_canon, valKept]

theorem State.onFiring_canon {s : State} (h : s.canon) (n : Nat) (g : Firing → Firing) : (s.onFiring n g).canon := ite_canon h h

theorem State.onFrond_canon {s : State} (h : s.canon) (i : Fin 1024) (g : Frond → Frond) : (s.onFrond i g).canon := h

theorem State.unlock_canon {s : State} (h : s.canon) (i : Fin 1024) (o : LockOwner) : (s.unlock i o).canon := by
  grind only [State.unlock, State.onFrond_canon]

theorem State.noteUndo_canon {s : State} (h : s.canon) (n : Nat) (u : Undo) : (s.noteUndo n u).canon := h

theorem State.serveSem_canon {s : State} (h : s.canon) (i : Fin 1024) (n : Fin 16) (k : Nat) : (s.serveSem i n k).canon := by
  induction k generalizing s with
  | zero => exact h
  | succ k ih =>
    unfold State.serveSem
    split
    · exact h
    · dsimp only
      split
      · exact ih (State.onFiring_canon (State.noteUndo_canon (State.onFrond_canon h _ _) _ _) _ _)
      · exact h

theorem State.serveSems_canon {s : State} (h : s.canon) (i : Fin 1024) : (s.serveSems i).canon :=
  foldl_canon (fun _ _ h => State.serveSem_canon h ..) _ h

theorem State.withdraw_canon {s : State} (h : s.canon) (n : Nat) : (s.withdraw n).canon := by
  grind only [State.withdraw, State.onFiring_canon, State.onFrond_canon, State.unlock_canon, State.serveSems_canon, State.canon]

theorem State.push_canon {s : State} (h : s.canon) (op : Instr) (a b c : Nat) (v : Word) : (s.push op a b c v).canon := h

theorem State.onPart_canon {s : State} (h : s.canon) (p : Fin 16) (g : Part → Part) : (s.onPart p g).canon := h

theorem State.ringPut_canon {s : State} (h : s.canon) (p : Fin 16) (recd : List Word) : (s.ringPut p recd).canon := by
  grind only [State.ringPut, State.onPart_canon, State.homeDone_canon, Mem.wf_writeDwords, State.canon]

theorem State.stopFor_canon {s : State} (h : s.canon) (tc val tpc : Word) : (s.stopFor tc val tpc).canon := by
  grind only [State.stopFor, State.push_canon, State.ringPut_canon, State.canon]

theorem State.deliver_canon {s : State} (h : s.canon) (user : Bool) (tc val tpc : Word) : (s.deliver user tc val tpc).canon := by
  grind only [State.deliver, State.withdraw_canon, State.upd_canon, State.stopFor_canon, State.canon]

theorem State.takeTrap_canon {s : State} (h : s.canon) (async fromTret : Bool) (t : Trap) (tpc : Word) : (s.takeTrap async fromTret t tpc).canon :=
  State.deliver_canon h ..

theorem State.trapHere_canon {s : State} (h : s.canon) (t : Trap) : (s.trapHere t).canon := State.takeTrap_canon h ..

theorem State.illAt_canon {s : State} (h : s.canon) (w : BitVec 32) : outKept (s.illAt w) := outKept_next.2 (State.trapHere_canon h ..)

theorem State.illCancel_canon {s : State} (h : s.canon) (w : BitVec 32) : outKept (s.illCancel w) := by
  grind only [State.illCancel, State.illAt_canon, State.upd_canon]

theorem State.wx_canon {s : State} (h : s.canon) (n : BitVec 6) (w : Word) : (s.wx n w).canon := h

theorem movxIdx_canon (s : State) (a : BitVec 6) (i : BitVec 10) : stopKept (movxIdx s a i) := by
  grind only [movxIdx, raise, Stop.canon, stopKept]

theorem finish_kept {s : State} (h : s.canon) {r : Except Stop Done} (hr : doneKept r) : outKept (finish s r) := by
  rcases r with (_ | _ | _) | (_ | _ | _ | _)
  · exact outKept_next.2 (State.trapHere_canon h _)
  · exact outKept_next.2 (State.trapHere_canon (s := _) hr _)
  · exact outKept_next.2 hr
  · exact outKept_next.2 hr
  · exact outKept_next.2 hr
  · exact outKept_next.2 hr
  · exact outKept_next.2 (State.takeTrap_canon (State.upd_canon hr _) _ _ _ _)

theorem issue_kept {s : State} (h : s.canon) {d : Desc} {pfx : Bool} {ill priv : State → Bool} {body : State → Except Stop Done}
    (hb : doneKept (body s)) : outKept (issue d pfx ill priv body s) := by
  unfold issue
  split
  · exact outKept_next.2 h
  · split
    · exact outKept_next.2 (State.trapHere_canon h _)
    · split
      · exact outKept_next.2 (State.trapHere_canon h _)
      · split
        · exact outKept_next.2 (State.trapHere_canon h _)
        · exact finish_kept h hb

theorem plain_kept {s : State} (h : s.canon) {d : Desc} {body : State → Except Stop Done} (hb : doneKept (body s)) : outKept (plain d body s) :=
  issue_kept h hb

theorem branchOp_canon {s : State} (h : s.canon) (i : Instr) (taken : Firing → Bool) (off : Int) : outKept (branchOp i taken off s) := by
  refine plain_kept h ?_
  split <;> exact h

theorem State.dropped_canon {s : State} (h : s.canon) (p : Fin 16) (n : Nat) : (s.dropped p n).canon := h

theorem State.dropHeld_canon {s : State} (h : s.canon) (i : Fin 1024) : (s.dropHeld i).canon := by
  grind only [State.dropHeld, State.onFrond_canon, State.dropped_canon]

theorem State.homePut_canon {s : State} (h : Fin 1024) (sc : Scope) (pub : Bool) (keys : List Nat) {m : Mem} (hm : m.wf = true) : (s.homePut h sc pub keys m).canon := by
  rw [State.canon, State.homePut_mem]
  exact hm

theorem State.widen_canon {s : State} (h : s.canon) (i : Fin 1024) (sc : Scope) : (s.widen i sc).canon := by
  unfold State.widen
  grind only [State.canon]

theorem State.publish_canon {s : State} (h : s.canon) (i : Fin 1024) (sc : Scope) : (s.publish i sc).canon := by
  grind only [State.publish, State.dropHeld_canon, State.onFrond_canon, State.homePut_canon, Mem.wf_putAll, State.canon]

theorem State.release_canon {s : State} (h : s.canon) (sc : Scope) : stateKept (s.release sc) := by
  unfold State.release
  split
  · show State.canon (ite _ _ _)
    split
    · exact h
    · exact foldl_canon (fun _ _ hs => State.push_canon hs ..) _ h
  · split
    · exact h
    · split
      · exact h
      · exact State.publish_canon h _ _

theorem State.upTo_canon {check : State → Nat → Except Stop (State × Place)} (hc : ∀ s i, s.canon → pairKept (check s i)) {s : State} (h : s.canon) (is : List Nat) :
    pairKept (s.upTo check is) := by
  induction is generalizing s with
  | nil => exact h
  | cons i is ih => grind only [State.upTo, pairKept, Stop.canon, bind_cases]

theorem State.resolve_canon {s : State} (h : s.canon) (ac : Acc) (a n : Nat) : pairKept (s.resolve ac a n) := by
  grind only [State.resolve, raise, State.translate_canon, State.leafPlace_canon, Stop.canon, optPairKept, pairKept, stopKept, map_cases]

theorem State.reach_canon {s : State} (h : s.canon) (ac : Acc) (a : Int) (n al : Nat) : pairKept (s.reach ac a n al) := by
  grind only [State.reach, State.resolve_canon, raise, Stop.canon, pairKept, bind_cases]

theorem State.access_canon {s : State} (h : s.canon) (ac : Acc) (a : Int) (n al : Nat) : pairKept (s.access ac a n al) := by
  grind only [State.access, State.reach_canon, raise, Stop.canon, pairKept, bind_cases]

theorem State.window_canon (s : State) (ac : Acc) (pl : Place) (n : Nat) (val : Word) : stopKept (s.window ac pl n val) := by
  unfold State.window
  grind only [raise, Stop.canon, stopKept]

theorem State.toPort_canon {α : Type} {s : State} (h : s.canon) : stopKept (s.toPort (α := α)) := by
  grind only [State.toPort, block, State.push_canon, Stop.canon, stopKept]

theorem State.windows_kept (s : State) (ac : Acc) (n : Nat) (va : Nat → Word) (pls : List (Nat × Place)) :
    stopKept (pls.foldlM (fun _ x => s.window ac x.2 n (va x.1)) ()) := by
  induction pls with
  | nil => exact trivial
  | cons x pls ih => exact (State.window_canon _ ac x.2 n (va x.1)).bind (fun _ h => h) fun _ _ => ih

theorem State.allOf_canon {s : State} (h : s.canon) (ac : Acc) (n : Nat) (va : Nat → Word) {check : State → Nat → Except Stop (State × Place)}
    (hc : ∀ s i, s.canon → pairKept (check s i)) (es : List Nat) : pairKept (s.allOf ac n va check es) := by
  refine (State.upTo_canon hc h es).bind (fun _ h => h) fun ⟨s, pls, t⟩ hs => ?_
  have hw := State.windows_kept s ac n va pls
  refine guard_kept (State.toPort_canon hs) (fun _ h => h) (hw.bind (fun _ h => h) fun _ _ => ?_)
  split
  · exact trivial
  · exact hs

theorem State.blockAccess_canon {s : State} (h : s.canon) (ac : Acc) (a : Int) (n : Nat) : pairKept (s.blockAccess ac a n) := by
  grind only [State.blockAccess, State.access_canon, Stop.canon, pairKept]

theorem State.blockPlaces_canon {s : State} (h : s.canon) (ac : Acc) (n : Nat) (at_ : Nat → Int) (es : List Nat) : pairKept (s.blockPlaces ac n at_ es) := by
  grind only [State.blockPlaces, State.allOf_canon, State.blockAccess_canon]

theorem State.placesFrom_canon {s : State} (h : s.canon) (ac : Acc) (a : Int) (n : Nat) : pairKept (s.placesFrom ac a n) := by
  grind only [State.placesFrom, State.blockPlaces_canon, pairKept, map_cases]

theorem State.afterPosted_canon {s : State} (h : s.canon) (wr : Bool) (pls : List Place) (n : Nat) : stopKept (s.afterPosted wr pls n) := by
  grind only [State.afterPosted, block, Stop.canon, stopKept]

theorem State.loadRoom_canon {s : State} (h : s.canon) (n : Nat) : stopKept (s.loadRoom n) := by
  grind only [State.loadRoom, block, Stop.canon, stopKept]

theorem State.lostAccess_canon {s : State} (h : s.canon) (pkg : Nat) (r : Reply) : (s.lostAccess pkg r).canon := ite_canon h h

theorem State.streamNext_canon {s : State} (h : s.canon) (c pkg cls : Nat) : (s.streamNext c pkg cls).2.canon := h

theorem State.streamSeq_canon {s : State} (h : s.canon) (pkg : Nat) : (s.streamSeq pkg).2.canon := h

theorem State.onCore_canon {s : State} (h : s.canon) (c : Fin 2048) (g : CoreSt → CoreSt) : (s.onCore c g).canon := h

theorem State.pended_canon {s : State} (h : s.canon) (pkg seq : Nat) (r : Reply) (tag : Option Nat) (ref : Ref) : (s.pended pkg seq r tag ref).canon := h

theorem State.send_canon {s : State} (h : s.canon) (x : Sent) : (s.send x).canon := h

theorem State.ask_canon {s : State} (h : s.canon) (pkg part seq tag : Nat) (req : Req) (addr n : Nat) (v w : Word) : (s.ask pkg part seq tag req addr n v w).canon := h

theorem State.farAsk_canon {s : State} (h : s.canon) (pkg part : Nat) (req : Req) (addr n : Nat) (v w : Word) (r : Reply) (fe : Bool) (ref : Ref) : (s.farAsk pkg part
    req addr n v w r fe ref).canon := by
  grind only [State.farAsk, State.lostAccess_canon, State.streamSeq_canon, State.onCore_canon, State.pended_canon, State.ask_canon]

theorem State.farFetch_canon {s : State} (h : s.canon) (pls : List Place) (ref : Nat → Ref) : stateKept (s.farFetch pls ref) := by
  unfold State.farFetch
  dsimp only
  split
  · exact h
  refine (State.loadRoom_canon h _).bind (fun _ h => h) fun _ _ => ?_
  have hf : (((farDwords pls).zipIdx).foldl (fun (s : State) (x : ((Nat × Nat × Nat) × Nat) × Nat) =>
      s.farAsk x.1.1.1 x.1.1.2.1 .load x.1.1.2.2 8 0 0 (.buf x.2) false (ref x.1.2))
      (s.upd fun f => { f with data := List.replicate (2 * (farDwords pls).length) 0 })).canon :=
    foldl_canon (fun _ _ hs => State.farAsk_canon hs ..) _ (State.upd_canon h _)
  split
  · exact hf
  · exact State.upd_canon hf _

theorem State.usePath_canon {s : State} (h : s.canon) (pl : Place) : (s.usePath pl).canon := h

theorem State.seenBy_canon {s : State} (h : s.canon) (i : Fin 1024) (key n : Nat) : (s.seenBy i key n).canon := by
  grind only [State.seenBy, State.canon]

theorem State.loadAt_canon {s : State} (h : s.canon) (pl : Place) (n : Nat) : (s.loadAt pl n).1.canon := by
  unfold State.loadAt
  grind only [State.upd_canon, State.usePath_canon, State.seenBy_canon]

theorem State.readParts_canon {s : State} (h : s.canon) (n : Nat) (pls : List Place) (va : Nat → Word) : pairKept (s.readParts n pls va) := by
  refine (State.afterPosted_canon h false pls n).bind (fun _ h => h) fun _ _ => ?_
  refine (State.farFetch_canon h pls _).bind (fun _ h => h) fun s hs => ?_
  refine foldl_pair_canon (fun a x ha => ?_) pls (a := (_, _)) (State.upd_canon hs _)
  split
  · exact ha
  · exact State.loadAt_canon ha _ _

theorem State.readWords_canon {s : State} (h : s.canon) (pls : List Place) (va : Nat → Word) : pairKept (s.readWords pls va) := by
  grind only [State.readWords, State.readParts_canon]

theorem State.unitPlace_canon {s : State} (h : s.canon) (p : Fin 16) (d : Fin 4) (shm : Bool) (va n : Nat) (wr : Bool) : optPairKept (s.unitPlace p d shm va n wr) := by
  grind only [State.unitPlace, State.translate_canon, optPairKept]

theorem State.homeStore_canon {s : State} (h : s.canon) (p : Fin 16) (key n : Nat) {m : Mem} (hm : m.wf = true) : (s.homeStore p key n m).canon := by
  unfold State.homeStore
  split
  · exact h
  · exact hm

theorem State.onQueue_canon {s : State} (h : s.canon) (p : Fin 16) (q : Fin 32) (g : LQueue → LQueue) : (s.onQueue p q g).canon := h

theorem State.pokeQueue_canon {s : State} (h : s.canon) (p : Fin 16) (q : Fin 32) : (s.pokeQueue p q).canon := h

theorem State.objNear_canon {s : State} (h : s.canon) (a : Word) (n : Nat) : pairKept (s.objNear a n) := by
  unfold State.objNear
  refine stopKept.bind (x := check ..) (check_kept _ _ _) (fun _ h => h) fun _ _ => ?_
  refine stopKept.bind (x := check ..) (check_kept _ _ _) (fun _ h => h) fun _ _ => ?_
  refine (State.access_canon h _ _ _ _).bind (fun _ h => h) fun ⟨s, pl⟩ hs => ?_
  grind only [State.toPort_canon, State.window_canon, pairKept, stopKept, Stop.canon, bind_cases]

theorem State.objAt_canon {s : State} (h : s.canon) (a : Word) (n : Nat) : pairKept (s.objAt a n) := by
  grind only [State.objAt, State.objNear_canon, State.usePath_canon, pairKept, bind_cases]

theorem State.putGroup_canon {s : State} (h : s.canon) (key : Nat) (g : GroupRec) : (s.putGroup key g).canon := by
  grind only [State.putGroup, Mem.wf_write, State.canon]

theorem State.putJoin_canon {s : State} (h : s.canon) (key : Nat) : (s.putJoin key).canon := by
  grind only [State.putJoin, State.putGroup_canon, Mem.wf_write, State.canon]

theorem State.admitJoins_canon {s : State} (h : s.canon) (key : Nat) : (s.admitJoins key).canon := by
  refine foldl_canon (fun s f hs => ?_) _ h
  split
  · exact State.onFiring_canon (State.putJoin_canon hs _) _ _
  · exact hs

theorem State.settleGroup_canon {s : State} (h : s.canon) (key : Nat) (g : GroupRec) : (s.settleGroup key g).canon :=
  ite_canon (State.admitJoins_canon (State.putGroup_canon h ..) ..) (State.putGroup_canon h ..)

theorem State.leaveGroup_canon {s : State} (h : s.canon) (key : Nat) : (s.leaveGroup key).canon := State.settleGroup_canon h ..

theorem State.boundary_canon {s : State} (h : s.canon) (d : Desc) (i : Word) : pairKept (s.boundary d i) := by
  unfold State.boundary
  grind only [Desc.illWord, State.objNear_canon, check_cases, raise, Stop.canon, pairKept, bind_cases]

theorem State.renew_canon {s : State} (h : s.canon) (i : Fin 1024) : (s.renew i).canon := by
  grind only [State.renew, State.onFrond_canon, State.canon]

theorem State.acquire_canon {s : State} (h : s.canon) (sc : Scope) : (s.acquire sc).canon := ite_canon h h

theorem meetOp.through_canon {s : State} (h : s.canon) (sc : Scope) : doneKept (meetOp.through s sc) := State.acquire_canon h ..

theorem State.useKey_canon {s : State} (h : s.canon) (key : Nat) : (s.useKey key).canon := h

theorem State.onTeam_canon {s : State} (h : s.canon) (id : Nat) (g : Team → Team) : (s.onTeam id g).canon := h

theorem State.putGroup0_canon {s : State} (h : s.canon) (t : Team) (g : GroupRec) : (s.putGroup0 t g).canon := h

theorem State.putMeeting_canon {s : State} (h : s.canon) (key : Nat) (g : GroupRec) : (s.putMeeting key g).canon := by
  grind only [State.putMeeting, State.putGroup0_canon, State.putGroup_canon]

theorem State.settleMeeting_canon {s : State} (h : s.canon) (key : Nat) (g : GroupRec) : (s.settleMeeting key g).canon :=
  ite_canon (State.putMeeting_canon h ..) (State.settleGroup_canon h ..)

theorem State.widenWaiting_canon {s : State} (h : s.canon) (key : Nat) (sc : Scope) : (s.widenWaiting key sc).canon :=
  foldl_canon (fun _ _ hs => State.widen_canon hs _ _) _
    (foldl_canon (k := fun s n => s.onFiring n fun f => { f with arrived := f.arrived.map fun a => a.widened sc })
      (fun _ _ hs => State.onFiring_canon hs _ _) _ h)

theorem meetOp_arrive_canon (engines : Bool) {s : State} (h : s.canon) (key : Nat) (sc : Scope) : doneKept (meetOp.arrive engines s key sc) := by
  grind only [meetOp.arrive, State.release_canon, State.useKey_canon, State.settleMeeting_canon, State.widenWaiting_canon, meetOp.through_canon, block,
    State.upd_canon, Stop.canon, doneKept, stateKept, bind_cases]

theorem meetOp_canon (i : Instr) (a : BitVec 6) (engines : Bool) {s : State} (h : s.canon) : outKept (meetOp i a engines s) := by
  refine plain_kept h ((State.boundary_canon h _ _).bind (fun _ h => h) fun ⟨s, key, sc⟩ hs => ?_)
  dsimp only
  split
  · split
    · split
      · exact hs
      · exact meetOp.through_canon hs _
    · exact meetOp_arrive_canon _ hs _ _
  · exact meetOp_arrive_canon _ hs _ _

theorem State.amount_canon (s : State) (b : BitVec 6) : stopKept (s.amount b) := by
  grind only [State.amount, check_cases, raise, Stop.canon, stopKept, bind_cases]

end Sys2Proof.Machine
end

section
/-! SUPPORT. Canonical memory (O56): loads and stores, control space, full-empty words, lanes, shards and bank operations. -/

namespace Sys2Proof.Machine
set_option Elab.async false

theorem State.setSem_canon {s : State} (h : s.canon) (i : Fin 1024) (n : Fin 16) (c : Nat) : (s.setSem i n c).canon := by
  grind only [State.setSem, State.onFrond_canon, State.serveSem_canon]

theorem State.settle_canon {s : State} (h : s.canon) (t : Option Trap) : doneKept (s.settle t) := by
  unfold State.settle
  grind only [State.upd_canon, Done.canon, Stop.canon, doneKept]

theorem State.loadInto_canon {s : State} (h : s.canon) (pl : Place) (n : Nat) (r : Reply) : (s.loadInto pl n r).canon := by
  unfold State.loadInto
  grind only [State.upd_canon, State.usePath_canon, State.loadAt_canon]

theorem State.scalarLoad_canon {s : State} (h : s.canon) (pl : Place) (n : Nat) (d : BitVec 6) (sg : Bool) (ref : Ref) : doneKept (s.scalarLoad pl n d sg ref) := by
  refine (State.loadRoom_canon h _).bind (fun _ h => h) fun _ _ => ?_
  split
  · exact State.settle_canon (State.farAsk_canon h ..) _
  · exact guard_kept (State.toPort_canon h) (fun _ h => h) ((State.window_canon _ ..).bind (fun _ h => h) fun _ _ =>
      (State.afterPosted_canon h ..).bind (fun _ h => h) fun _ _ => State.loadInto_canon h ..)

theorem State.farPost_canon {s : State} (h : s.canon) (lane shard : Bool) (pkg part : Nat) (req : Req) (addr n : Nat) (v : Word) : (s.farPost lane shard pkg part req
    addr n v).canon :=
  ite_canon h h

theorem State.foretold_canon {s : State} (h : s.canon) : s.foretold.2.canon := h

theorem State.farWrite_canon {s : State} (h : s.canon) (lane : Bool) (pkg part addr n : Nat) (v : Word) (ref : Ref) : (s.farWrite lane pkg part addr n v ref).canon :=
    by
  grind only [State.farWrite, State.farPost_canon, State.foretold_canon, State.farAsk_canon]

theorem State.cmdDone_canon {s : State} (h : s.canon) (st : Nat) : (s.cmdDone st).canon := h

theorem State.writeCmd_canon {s : State} (h : s.canon) (v : Word) : (s.writeCmd v).canon := by
  grind only [State.writeCmd, State.push_canon, State.cmdDone_canon, State.canon]

theorem State.writeDev_canon {s : State} (h : s.canon) (r : Nat) (mask v : Word) : (s.writeDev r mask v).canon := by
  unfold State.writeDev
  grind only [State.writeCmd_canon, State.canon]

theorem State.writeMsc_canon {s : State} (h : s.canon) (d : Fin 4) (mask v : Word) : (s.writeMsc d mask v).canon := by
  grind only [State.writeMsc, State.push_canon, State.onDie_canon, State.canon]

theorem State.writePint_canon {s : State} (h : s.canon) (p : Fin 16) (v : Word) : (s.writePint p v).canon := ite_canon h h

theorem State.pushWith_canon {s : State} (h : s.canon) (op : Instr) (a b c : Nat) (v : Word) (l : List Word) : (s.pushWith op a b c v l).canon := h

theorem State.writeTlbinv_canon {s : State} (h : s.canon) (p : Fin 16) (v : Word) : (s.writeTlbinv p v).canon := by
  unfold State.writeTlbinv
  split
  · exact h
  · exact foldl_canon (fun _ _ hs => State.send_canon hs _) _ (State.pushWith_canon (State.onPart_canon h _ _) ..)

theorem State.writeFcmd_canon {s : State} (h : s.canon) (p : Fin 16) (v : Word) : (s.writeFcmd p v).canon := by
  grind only [State.writeFcmd, State.onPart_canon, State.push_canon, State.pushWith_canon]

theorem State.askPreempt_canon {s : State} (h : s.canon) (op : Instr) (p : Fin 16) (addr : Word) : (s.askPreempt op p addr).canon := h

theorem State.rekindle_canon {s : State} (h : s.canon) (p : Fin 16) (q : Fin 32) : (s.rekindle p q).canon := by
  grind only [State.rekindle, State.push_canon]

theorem State.writeQueue_canon {s : State} (h : s.canon) (p : Fin 16) (q : Fin 32) (r : Nat) (mask v : Word) : (s.writeQueue p q r mask v).canon := by
  unfold State.writeQueue
  grind only [State.onQueue_canon, State.rekindle_canon, State.pokeQueue_canon]

theorem State.unholdPlacements_canon {s : State} (h : s.canon) (p : Fin 16) (d : Fin 4) : (s.unholdPlacements p d).canon := ite_canon h h

theorem State.writePart_canon {s : State} (h : s.canon) (p : Fin 16) (o : Nat) (mask v : Word) : (s.writePart p o mask v).canon := by
  unfold State.writePart
  grind only [State.writePint_canon, State.onPart_canon, State.writeTlbinv_canon, State.writeFcmd_canon, State.askPreempt_canon, State.writeQueue_canon,
    State.unholdPlacements_canon]

theorem State.onPort_canon {s : State} (h : s.canon) (p : Fin 18) (g : Port → Port) : (s.onPort p g).canon := h

theorem State.writeAlctl_canon {s : State} (h : s.canon) (p : Fin 18) (mask v : Word) : (s.writeAlctl p mask v).canon := by
  grind only [State.writeAlctl, State.onPort_canon, State.push_canon, State.canon]

theorem State.stageKey_canon {s : State} (h : s.canon) (p : Fin 18) (key : BitVec 256) (salt : BitVec 48) : (s.stageKey p key salt).canon := h

theorem State.writePort_canon {s : State} (h : s.canon) (p : Fin 18) (r : Nat) (mask v : Word) : (s.writePort p r mask v).canon := by
  unfold State.writePort
  grind only [State.writeAlctl_canon, State.onPort_canon, State.stageKey_canon]

theorem State.ctlWrite_canon {s : State} (h : s.canon) (o : Nat) (mask v : Word) : (s.ctlWrite o mask v).canon := by
  grind only [State.ctlWrite, State.writeDev_canon, State.writeMsc_canon, State.writePart_canon, State.writePort_canon, Mem.wf_write, State.canon]

theorem State.ctlStore_canon {s : State} (h : s.canon) (o n v : Nat) : (s.ctlStore o n v).canon := State.ctlWrite_canon h ..

theorem keepHeaders_wf {m : Mem} (hm : m.wf = true) (old : Mem) (hs : List Nat) : (hs.foldl (keepHeader old) m).wf = true := by
  induction hs generalizing m with
  | nil => exact hm
  | cons x hs ih =>
    rw [List.foldl_cons]
    exact ih (Mem.wf_keepHeader hm old x)

theorem State.keepHeaders_canon {s : State} (h : s.canon) (old : Mem) (key : Nat) (n : Nat) : (s.keepHeaders old key n).canon := by
  unfold State.keepHeaders
  split
  · exact h
  · exact keepHeaders_wf h _ _

theorem State.writeAt_canon {s : State} (h : s.canon) (pl : Place) (n v : Nat) : (s.writeAt pl n v).canon := by
  unfold State.writeAt
  grind only [State.onFrond_canon, State.homePut_canon, Mem.wf_write, State.canon]

theorem State.storeAt_canon {s : State} (h : s.canon) (pl : Place) (n v : Nat) : (s.storeAt pl n v).canon := by
  unfold State.storeAt
  grind only [State.ctlStore_canon, State.keepHeaders_canon, State.writeAt_canon, State.usePath_canon]

theorem State.scalarStore_canon {s : State} (h : s.canon) (pl : Place) (n : Nat) (v : Word) (ref : Ref) : doneKept (s.scalarStore pl n v ref) := by
  unfold State.scalarStore
  split
  · exact State.settle_canon (State.farWrite_canon h ..) _
  · exact guard_kept (State.toPort_canon h) (fun _ h => h) ((State.window_canon _ ..).bind (fun _ h => h) fun _ _ =>
      (State.afterPosted_canon h ..).bind (fun _ h => h) fun _ _ => State.storeAt_canon h ..)

theorem State.setFull_canon {s : State} (h : s.canon) (key : Nat) (b : Bool) : (s.setFull key b).canon := h

theorem State.homeWrite_canon {s : State} (o : Option (Fin 1024)) (key n : Nat) {m : Mem} (hm : m.wf = true) : (s.homeWrite o key n m).canon := by
  unfold State.homeWrite
  refine State.keepHeaders_canon ?_ _ _ _
  split
  · exact State.homePut_canon _ _ _ _ hm
  · exact State.homeDone_canon hm _

theorem State.feApply_canon {s : State} (h : s.canon) (o : Option (Fin 1024)) (key : Nat) (load sets : Bool) (v : Word) : (s.feApply o key load sets v).2.canon := by
  have hseen : State.canon (match o with | some h => s.seenBy h key 8 | none => s) := by
    split
    · exact State.seenBy_canon h ..
    · exact h
  unfold State.feApply
  cases load with
  | false => exact State.setFull_canon (State.homeWrite_canon _ _ _ (Mem.wf_write h _ _ _)) _ _
  | true =>
    cases sets with
    | false => exact hseen
    | true => exact State.setFull_canon hseen _ _

theorem State.unitWrite_canon {s : State} (h : s.canon) (p : Fin 16) (d : Fin 4) (va n v : Nat) : optKept (s.unitWrite p d va n v) := by
  grind only [State.unitWrite, State.homeStore_canon, State.unitPlace_canon, optKept, optPairKept, option_map_cases, Mem.wf_write, State.canon]

theorem State.unitRead_canon {s : State} (h : s.canon) (p : Fin 16) (d : Fin 4) (va n : Nat) : optPairKept (s.unitRead p d va n) := by
  grind only [State.unitRead, State.unitPlace_canon, optPairKept, option_map_cases]

theorem State.logEntry_canon {s : State} (h : s.canon) (p : Fin 16) (d : Fin 4) (j : Nat) : optPairKept (s.logEntry p d j) := by
  grind only [State.logEntry, State.unitRead_canon, optPairKept, option_map_cases]

theorem State.logSearch_canon {s : State} (h : s.canon) (p : Fin 16) (d : Fin 4) (k : Nat × Nat × Nat) (seq : Nat) (me : Word) (n j : Nat) :
    (s.logSearch p d k seq me n j).1.canon := by
  induction n generalizing s j with
  | zero => exact h
  | succ n ih =>
    have he := State.logEntry_canon h p d j
    grind only [State.logSearch, optPairKept]

theorem State.logUnread_canon {s : State} (h : s.canon) (p : Fin 16) (d : Fin 4) (t : Team) (n j : Nat) : (s.logUnread p d t n j).1.canon := by
  induction n generalizing s j with
  | zero => exact h
  | succ n ih =>
    have he := State.logEntry_canon h p d j
    grind only [State.logUnread, optPairKept]

theorem State.logOp_canon {s : State} (h : s.canon) (t : Team) (kind : Nat) (d : Fin 4) (site : Nat) (me : Word) : (s.logOp t kind d site me).canon := by
  grind only [State.logOp, State.unitWrite_canon, State.onTeam_canon, State.onPart_canon, State.logSearch_canon, State.logUnread_canon, LogRes.canon,
    optKept]

theorem State.logFor_canon {s : State} (h : s.canon) (f : Firing) (kind : Nat) (d : Fin 4) (site : Nat) : (s.logFor f kind d site).canon := by
  grind only [State.logFor, State.logOp_canon, State.onFiring_canon, LogRes.canon]

theorem State.logServe_canon {s : State} (h : s.canon) (f : Firing) (key : Nat) : (s.logServe f key).canon := by
  grind only [State.logServe, State.logFor_canon]

theorem State.peerDone_canon {s : State} (h : s.canon) (w : FarWait) (key : Nat) (v : Word) : (s.peerDone w key v).canon := h

theorem State.feServed_canon {s : State} (h : s.canon) (w : FeWait) (v : Word) : (s.feServed w v).canon := by
  grind only [State.feServed, State.peerDone_canon, State.onFiring_canon]

theorem State.serveOne_canon {s : State} (h : s.canon) (w : FeWait) : (s.serveOne w).canon := by
  grind only [State.serveOne, State.feApply_canon, State.feServed_canon, State.logServe_canon, State.noteUndo_canon, State.onFiring_canon, LogRes.canon,
    State.canon]

theorem State.serve_canon {s : State} (h : s.canon) (key n : Nat) : (s.serve key n).canon := by
  induction n generalizing s with
  | zero => exact h
  | succ n ih =>
    unfold State.serve
    split
    · exact h
    · exact ih (State.serveOne_canon h _)

theorem State.serveAll_canon {s : State} (h : s.canon) (key : Nat) : (s.serveAll key).canon := State.serve_canon h ..

theorem State.feEnds_kept {s : State} (h : s.canon) (load all : Bool) (d : BitVec 6) (old : Word) (key : Nat) :
    doneKept (.ok (.done (if load then (if all then s.serveAll key else s).wx d old else if all then s.serveAll key else s))) := by
  have hall : (if all then s.serveAll key else s).canon := by
    split
    · exact State.serveAll_canon h _
    · exact h
  show State.canon (ite _ _ _)
  split
  · exact State.wx_canon hall _ _
  · exact hall

theorem State.feJoins_kept {s : State} (h : s.canon) (key adm : Nat) (a : Word) (w : FeWait) :
    doneKept (if s.listFull key then block (s.push .feResend adm 0 0 a) .resend else block { s with retry := s.retry ++ [w], next := s.next + 1 } .fullEmpty) := by
  split
  · exact State.push_canon h ..
  · exact h

theorem State.retried_canon {s : State} (h : s.canon) (l : List FeWait) (n : Nat) : State.canon { s with retry := l, next := n } := h

theorem State.feStays_kept {s : State} (h : s.canon) (t : Trap) : doneKept (.ok (.stay { s.trapHere t with retry := s.retry })) := State.trapHere_canon h t

theorem State.feOp_canon {s : State} (h : s.canon) (load sets : Bool) (key : Nat) (v : Word) (d : BitVec 6) (ref : Ref) : doneKept (s.feOp load sets key v d ref) := by
  have hu : (s.useKey key).canon := State.useKey_canon h _
  have hl : (s.useKey key |>.logServe (s.useKey key).fir key).canon := State.logServe_canon hu ..
  unfold State.feOp
  dsimp only
  split
  · exact hu
  split
  · split
    · exact hu
    split
    · exact hu
    · exact State.feStays_kept hu _
    · rename_i t ht
      have htc := LogRes.canon_of hl ht
      generalize hr : t.retry.erase _ = r
      exact State.feEnds_kept (State.feApply_canon (State.noteUndo_canon (s := { t with retry := r }) htc _ _) ..) ..
  · split
    · split
      · exact State.feEnds_kept (State.feApply_canon (State.noteUndo_canon hu _ _) ..) ..
      · exact State.feJoins_kept hu ..
    · split
      · exact State.feJoins_kept hu ..
      · split
        · exact State.feStays_kept (ite_canon hu (State.retried_canon hu _ _)) _
        · exact State.feJoins_kept hu ..
      · split
        · exact State.feEnds_kept (State.feApply_canon (State.noteUndo_canon (LogRes.canon_of hl ‹_›) _ _) ..) ..
        · exact State.feJoins_kept hu ..

theorem State.scalarFe_canon {s : State} (h : s.canon) (pl : Place) (load sets : Bool) (v : Word) (d : BitVec 6) (ref : Ref) : doneKept (s.scalarFe pl load sets v d
    ref) := by
  unfold State.scalarFe
  grind only [State.settle_canon, State.farAsk_canon, State.feOp_canon]

theorem State.elemPlaces_canon {s : State} (h : s.canon) (ac : Acc) (n : Nat) (at_ : Nat → Int) (es : List Nat) : pairKept (s.elemPlaces ac n at_ es) := by
  grind only [State.elemPlaces, State.allOf_canon, State.access_canon]

theorem State.loadParts_canon {s : State} (h : s.canon) (n : Nat) (pls : List (Nat × Place)) (r : Nat → Reply) : (s.loadParts n pls r).canon := by
  refine foldl_canon (fun s x hs => ?_) _ (State.upd_canon h _)
  split
  · exact State.upd_canon hs _
  · exact State.loadInto_canon hs _ _ _

theorem vecLoad_canon (i : Instr) (t : ElemTy) (strided : Bool) (d : BitVec 5) (k : BitVec 3) (base : State → Word) (st : State → Int) {s : State} (h : s.canon) :
    outKept (vecLoad i t strided d k base st s) :=
  plain_kept h ((State.loadRoom_canon h _).bind (fun _ h => h) fun _ _ => (State.elemPlaces_canon h ..).bind (fun _ h => h) fun ⟨_, _⟩ hs =>
    (State.afterPosted_canon hs ..).bind (fun _ h => h) fun _ _ => (State.farFetch_canon hs ..).bind (fun _ h => h) fun _ hs => State.loadParts_canon hs ..)

theorem State.farStores_canon {s : State} (h : s.canon) (n : Nat) (xs : List (Place × Nat)) (ref : Nat → Ref) : stateKept (s.farStores n xs ref) := by
  have hall : ∀ (s : State) (sent : Nat), s.canon → (((farPuts n xs).zipIdx).foldl (fun (s : State) (x : FarPut × Nat) =>
      if x.2 + 1 = sent then s else s.farPost false false x.1.pkg x.1.part (.storeMasked x.1.mask) x.1.addr 8 x.1.val) (s.upd fun f => { f with data := [] })).canon := by
    refine fun s sent h => foldl_canon (fun s x hs => ?_) _ (State.upd_canon h _)
    split
    · exact hs
    · exact State.farPost_canon hs ..
  have hn : s.nextFree.2.canon := State.nextFree_canon h
  unfold State.farStores
  dsimp only
  split
  · exact hall _ _ h
  split
  · exact hall _ _ h
  split
  · exact hall _ _ hn
  split
  · exact hall _ _ hn
  · exact State.upd_canon (State.farAsk_canon hn ..) _

theorem State.storeParts_canon {s : State} (h : s.canon) (n : Nat) (xs : List (Place × Nat)) (ref : Nat → Ref) : stateKept (s.storeParts n xs ref) := by
  refine (State.afterPosted_canon h ..).bind (fun _ h => h) fun _ _ => (State.farStores_canon h ..).bind (fun _ h => h) fun s hs => ?_
  refine foldl_canon (fun s x hs => ?_) _ hs
  split
  · exact hs
  · exact State.storeAt_canon hs ..

theorem vecStore_canon (i : Instr) (t : ElemTy) (d : BitVec 5) (k : BitVec 3) (base : State → Word) (st : State → Int) {s : State} (h : s.canon) :
    outKept (vecStore i t d k base st s) :=
  plain_kept h ((State.elemPlaces_canon h ..).bind (fun _ h => h) fun ⟨_, _⟩ hs => (State.storeParts_canon hs ..).bind (fun _ h => h) fun _ hs => hs)

theorem State.lanePlaces_canon {s : State} (h : s.canon) (n : Nat) {check : State → Nat → Except Stop (State × Place)}
    (hc : ∀ s i, s.canon → pairKept (check s i)) (is : List Nat) : pairKept (s.lanePlaces n check is) :=
  (State.upTo_canon hc h is).bind (fun _ h => h) fun _ hs => hs

theorem State.afterEarlier_canon {s : State} (h : s.canon) : stopKept s.afterEarlier := by
  grind only [State.afterEarlier, block, Stop.canon, stopKept]

theorem State.laneActs_canon {ac : Acc} {n : Nat} {act : State → Nat → Place → Nat → State} (ha : ∀ s i pl l, s.canon → (act s i pl l).canon) {s : State} (h : s.canon)
    (pls : List (Nat × Place)) : (s.laneActs ac n act pls).1.canon := by
  induction pls generalizing s with
  | nil => exact h
  | cons x pls ih =>
    unfold State.laneActs
    split
    · exact h
    · exact ih (ha _ _ _ _ h)

theorem State.laneRun_canon {ac : Acc} {n : Nat} {act : State → Nat → Place → Nat → State} (ha : ∀ s i pl l, s.canon → (act s i pl l).canon) {s : State} (h : s.canon)
    (pls : List (Nat × Place)) (t : Option Trap) : doneKept (s.laneRun ac n pls t act) :=
  guard_kept (State.toPort_canon h) (fun _ h => h) ((State.afterEarlier_canon h).bind (fun _ h => h) fun _ _ =>
    State.settle_canon (State.laneActs_canon ha h pls) _)

theorem State.laneLoad_canon {s : State} (h : s.canon) (pl : Place) (n : Nat) (r : Reply) (ref : Ref) : (s.laneLoad pl n r ref).canon := by
  unfold State.laneLoad
  grind only [State.farAsk_canon, State.loadInto_canon]

theorem State.gatherOut_canon {s : State} (h : s.canon) (lanes : Nat) (x2 : Option Lock) : (s.gatherOut lanes x2).canon := by
  unfold State.gatherOut
  grind only [State.onFrond_canon, State.canon]

theorem State.lockRoom_canon {s : State} (h : s.canon) (need : Nat) : stopKept (s.lockRoom need) := by
  grind only [State.lockRoom, block, State.push_canon, Stop.canon, stopKept]

theorem State.laneStore_canon {s : State} (h : s.canon) (pl : Place) (n v : Nat) (ref : Ref) : (s.laneStore pl n v ref).canon := by
  unfold State.laneStore
  grind only [State.farWrite_canon, State.storeAt_canon]

theorem State.descriptor_canon {s : State} (h : s.canon) (k : Nat) : pairKept (s.descriptor k) := by
  unfold State.descriptor
  refine guard_kept (trivial) (fun _ h => h) ?_
  split
  · exact h
  · split
    · exact trivial
    · rename_i hr
      have hs := State.unitRead_canon h s.fir.part s.fir.die (s.parts[s.fir.part].shtbase.toNat + 256 * k) 256
      rw [hr] at hs
      refine guard_kept (trivial) (fun _ h => h) (guard_kept (trivial) (fun _ h => h) ?_)
      exact State.onDie_canon hs _ _

theorem State.placement_canon {s : State} (h : s.canon) (k : Nat) (ws : List Word) (j : Nat) : pairKept (s.placement k ws j) := by
  unfold State.placement
  dsimp only
  split
  · exact pairKept.bind (x := .ok (_, _, _)) h (fun _ h => h) fun a ha => guard_kept (x := shardTrap 2 k) trivial (fun _ h => h) (State.onDie_canon ha _ _)
  · split
    · exact trivial
    · rename_i hr
      have hs := (State.unitRead_canon h ..).of_some hr
      exact pairKept.bind (x := .ok (_, _, _)) hs (fun _ h => h) fun a ha => guard_kept (x := shardTrap 2 k) trivial (fun _ h => h) (State.onDie_canon ha _ _)

theorem State.locate_canon {s : State} (h : s.canon) (hr : Word) (i esz : Nat) : pairKept (s.locate hr i esz) :=
  (State.descriptor_canon h _).bind (fun _ h => h) fun ⟨_, _⟩ hs => guard_kept trivial (fun _ h => h) (guard_kept trivial (fun _ h => h)
    ((State.placement_canon hs ..).bind (fun _ h => h) fun ⟨_, _, _⟩ hs => hs))

theorem State.elemPlace_canon {s : State} (h : s.canon) (ac : Acc) (fe : Bool) (n : Nat) (e : Elem) : pairKept (s.elemPlace ac fe n e) := by
  have ha := State.access_canon h ac e.addr n n
  unfold State.elemPlace
  split
  · split
    · exact trivial
    · exact ha
  · split
    · exact trivial
    · split
      · exact trivial
      · exact h

theorem State.laneElem_canon {s : State} (h : s.canon) (ac : Acc) (n : Nat) (a : BitVec 6) (b : BitVec 5) (i : Nat) : pairKept (s.laneElem ac n a b i) := by
  grind only [State.laneElem, State.locate_canon, State.elemPlace_canon, pairKept, bind_cases]

theorem State.dropShards_canon {s : State} (h : s.canon) (dies : List Nat) (p : Fin 16) (i : Option Nat) : (s.dropShards dies p i).canon := by
  unfold State.dropShards
  grind only [State.canon]

theorem State.tagRoom_canon {s : State} (h : s.canon) (banks : List Nat) : stopKept (s.tagRoom banks) := by
  grind only [State.tagRoom, block, Stop.canon, stopKept]

theorem State.bankEnter_canon {s : State} (h : s.canon) (q : BankReq) : (s.bankEnter q).canon := h

theorem State.bankFar_canon {s : State} (h : s.canon) (op : BankOp) (pkg part addr : Nat) (v w : Word) (r : Option Reply) (lock : Nat) (ref : Ref) : (s.bankFar op pkg
    part addr v w r lock ref).canon := by
  grind only [State.bankFar, State.lostAccess_canon, State.streamSeq_canon, State.bankEnter_canon, State.ask_canon, State.pended_canon]

theorem State.writeHome_canon {s : State} (h : s.canon) (i : Fin 1024) (mine : Nat → Bool) : (s.writeHome i mine).canon := by
  grind only [State.writeHome, State.onFrond_canon, State.homePut_canon, Mem.wf_putAll, State.canon]

theorem State.flushLine_canon {s : State} (h : s.canon) (i : Fin 1024) (key : Nat) : (s.flushLine i key).canon := by
  grind only [State.flushLine, State.writeHome_canon]

theorem State.bankFlush_canon {s : State} (h : s.canon) (key : Nat) : (s.bankFlush key).canon := ite_canon (State.flushLine_canon h ..) h

theorem State.countOp_canon {s : State} (h : s.canon) (k : Nat) : (s.countOp k).canon := h

theorem State.bankPost_canon {s : State} (h : s.canon) (op : BankOp) (key : Nat) (v w : Word) (lock : Nat) : (s.bankPost op key v w lock).canon := by
  grind only [State.bankPost, State.bankFlush_canon, State.useKey_canon, State.bankEnter_canon, State.push_canon, State.countOp_canon]

theorem bankApply_wf (op : BankOp) {m : Mem} (hm : m.wf = true) (key : Nat) (v w : Word) : (bankApply op m key v w).1.wf = true := by
  cases op with
  | xcrd t => exact hm
  | _ =>
    rw [bankApply]
    dsimp only
    exact Mem.wf_write hm _ _ _

theorem State.bankAt_canon {s : State} (h : s.canon) (o : Option (Fin 1024)) (src tag : Nat) (op : BankOp) (key : Nat) (v w : Word) :
    (s.bankAt o src tag op key v w).1.canon := by
  unfold State.bankAt
  split
  · exact h
  · exact State.homeWrite_canon o key op.size (bankApply_wf op h key v w)

theorem State.bankDo_canon {s : State} (h : s.canon) (core : Fin 2048) (q : BankReq) : (s.bankDo core q).1.canon := State.bankAt_canon h ..

theorem State.bankLog_canon {s : State} (h : s.canon) (q : BankReq) : (s.bankLog q).canon := by
  grind only [State.bankLog, State.logOp_canon, LogRes.canon]

theorem State.bankSend_canon {s : State} (h : s.canon) (op : BankOp) (key : Nat) (v w : Word) : pairKept (s.bankSend op key v w) := by
  unfold State.bankSend
  grind only [State.tagRoom_canon, State.bankFlush_canon, State.countOp_canon, State.bankDo_canon, State.useKey_canon, State.bankEnter_canon,
    State.push_canon, State.bankLog_canon, block, LogRes.canon, Stop.canon, pairKept, stopKept, bind_cases]

theorem State.bankOne_canon {s : State} (h : s.canon) (ac : Acc) (op : BankOp) (a : BitVec 6) (v w : Word) (posted : Bool) (r : Reply) : doneKept (s.bankOne ac op a v w posted r) := by
  refine (State.access_canon h ..).bind (fun _ h => h) fun ⟨s, pl⟩ hs => ?_
  dsimp only
  split
  · rename_i pkg _ _
    have hf : State.canon (if posted && !s.lost.contains pkg then s.foretold else (false, s)).2 := by
      split
      · exact State.foretold_canon hs
      · exact hs
    exact (State.tagRoom_canon hs _).bind (fun _ h => h) fun _ _ => State.settle_canon (State.bankFar_canon hf ..) _
  · refine guard_kept (State.toPort_canon hs) (fun _ h => h) ((State.window_canon _ ..).bind (fun _ h => h) fun _ _ => ?_)
    split
    · exact (State.tagRoom_canon hs _).bind (fun _ h => h) fun _ _ => State.bankPost_canon hs ..
    · exact (State.bankSend_canon hs ..).bind (fun _ h => h) fun ⟨_, _, _⟩ hs => State.upd_canon hs _

theorem amoOp_canon (i : Instr) (op : Nat) (z : SZ) (d a b : BitVec 6) {s : State} (h : s.canon) : outKept (amoOp i op z d a b s) :=
  plain_kept h (State.bankOne_canon h ..)

theorem famoOp_canon (i : Instr) (op : Nat) (t : AF) (d a b : BitVec 6) {s : State} (h : s.canon) : outKept (famoOp i op t d a b s) :=
  plain_kept h (State.bankOne_canon h ..)

theorem State.postLanes_canon {s : State} (h : s.canon) (op : BankOp) (d : BitVec 5) (n : Nat) (pls : List (Nat × Place)) : (s.postLanes op d n pls).canon := by
  refine foldl_canon (fun s x hs => ?_) pls h
  split
  · exact State.bankFar_canon hs ..
  · exact State.bankPost_canon hs ..

theorem vamoOp_canon (i : Instr) (op : BankOp) (u : Nat) (b idx d : BitVec 5) (k : BitVec 3) {s : State} (h : s.canon) : outKept (vamoOp i op u b idx d k s) := by
  refine plain_kept h ((State.lanePlaces_canon h 4 (fun s i hs => State.access_canon hs ..) _).bind (fun _ h => h) fun ⟨s', pls, tr⟩ hs =>
    (State.afterEarlier_canon h).bind (fun _ h => h) fun _ _ => (State.tagRoom_canon h _).bind (fun _ h => h) fun _ _ => ?_)
  dsimp only
  split
  · exact State.postLanes_canon hs ..
  · exact State.postLanes_canon hs ..

theorem State.vbsumDone_canon {s : State} (h : s.canon) (core : Fin 2048) (adm n : Nat) : (s.vbsumDone core adm n).canon := ite_canon h h

end Sys2Proof.Machine
end

section
/-! SUPPORT. Canonical memory (O56): queues, copies, vectors and tiles, gangs, firings and teams. -/

namespace Sys2Proof.Machine
set_option Elab.async false

theorem State.setPairQ_canon {s : State} (h : s.canon) (i : Fin 8) (n : Nat) (q : List QEntry) : (s.setPairQ i n q).canon := h

theorem State.setIncoming_canon {s : State} (h : s.canon) (i : Fin 1024) (dir : Nat) (q : List Vec) : (s.setIncoming i dir q).canon := by
  grind only [State.setIncoming, State.onFrond_canon]

theorem State.popQ_canon {s : State} (h : s.canon) (n : Nat) (vec : Bool) : pairKept (s.popQ n vec) := by
  unfold State.popQ
  split
  · split
    · exact trivial
    · exact h
    · dsimp only
      split_ifs
      · exact trivial
      · exact State.setPairQ_canon h ..
  · split
    · split
      · exact trivial
      · split
        · exact h
        · exact State.acquire_canon (State.setIncoming_canon h ..) _
    · split
      · split
        · exact h
        · exact State.upd_canon h _
      · split
        · exact h
        · exact State.upd_canon h _

theorem State.pushQ_canon {s : State} (h : s.canon) (n : Nat) (e : QEntry) : stateKept (s.pushQ n e) := by
  unfold State.pushQ
  split
  · split
    · exact trivial
    · split
      · exact h
      · exact (State.release_canon h _).bind (fun _ h => h) fun _ hs => State.setPairQ_canon hs ..
  · split
    · dsimp only
      split
      · exact h
      · exact (State.release_canon h _).bind (fun _ h => h) fun _ hs => State.setIncoming_canon hs ..
    · exact trivial

theorem State.wv_canon {s : State} (h : s.canon) (n : BitVec 5) (w : Vec) : (s.wv n w).canon := h

theorem State.payload_canon (s : State) (p : BitVec 6) (c : Nat) : stopKept (s.payload p c) := by
  grind only [State.payload, raise, Stop.canon, stopKept]

theorem State.transmit_canon {s : State} (h : s.canon) (pkg core : Nat) (i : Word) (ws : List Word) : (s.transmit pkg core i ws).canon := by
  grind only [State.transmit, State.push_canon, State.countOp_canon, State.onCore_canon, State.send_canon]

theorem State.sendLanes_canon {s : State} (h : s.canon) (v : Vec) (w : Word) (ws : List Word) (is : List Nat) : (s.sendLanes v w ws is).1.canon := by
  induction is generalizing s with
  | nil => exact h
  | cons i is ih =>
    unfold State.sendLanes
    dsimp only
    split
    · exact ih h
    · split
      · exact h
      · exact ih (State.transmit_canon h ..)

theorem State.placements_canon {s : State} (h : s.canon) (ws : List Word) : (s.placements ws).1.canon := by
  refine foldl_pair_canon (fun a k ha => ?_) _ (a := (_, _)) h
  split
  · exact (State.unitRead_canon ha ..).of_some ‹_›
  · exact ha

theorem State.copySide_canon {s : State} (h : s.canon) (sharded : Bool) (w : Word) : pairKept (s.copySide sharded w) := by
  grind only [State.copySide, State.descriptor_canon, State.placements_canon, pairKept, bind_cases]

theorem State.checkTb_canon {s : State} (h : s.canon) (tb : Word) : stopKept (s.checkTb tb) := by
  grind only [State.checkTb, check_cases, raise, State.resolve_canon, Stop.canon, pairKept, stopKept, bind_cases]

theorem State.setChannel_canon {s : State} (h : s.canon) (c : Fin 4) (x : Option Copy) : (s.setChannel c x).canon := h

theorem State.putBarrier_canon {s : State} (h : s.canon) (key : Nat) (b : Barrier) : (s.putBarrier key b).canon := by
  grind only [State.putBarrier, Mem.wf_write, State.canon]

theorem State.updateBarrier_canon {s : State} (h : s.canon) (key : Nat) (b : Barrier) : (s.updateBarrier key b).canon := by
  grind only [State.updateBarrier, State.putBarrier_canon, State.canon]

theorem State.logged_canon {s : State} (h : s.canon) (kind die site : Nat) : stateKept (s.logged kind die site) := by
  grind only [State.logged, State.logFor_canon, block, raiseSub, LogRes.canon, Stop.canon, stateKept]

theorem State.pair_canon {s : State} (h : s.canon) (d : BitVec 6) (a b : Word) : (s.pair d a b).canon := h

theorem State.vres_canon {s : State} (h : s.canon) (d : BitVec 5) (r : Vec × Nat) : (s.vres d r).canon := h

theorem vecOp_canon (i : Instr) (w : Nat) (d : BitVec 5) (k : BitVec 3) (g : State → Nat → Nat × Nat) {s : State} (h : s.canon) : outKept (vecOp i w d k g s) :=
  plain_kept h (State.vres_canon h ..)

theorem redOp_canon (i : Instr) (y : RF) (op : Nat) (d a : BitVec 5) (k : BitVec 3) {s : State} (h : s.canon) : outKept (redOp i y op d a k s) :=
  plain_kept h (State.vres_canon h ..)

theorem vint3_canon (i : Instr) (w : IW) (d a b : BitVec 5) (k : BitVec 3) (g : Nat → Nat → Nat → Nat) {s : State} (h : s.canon) : outKept (vint3 i w d a b k g s) := by
  grind only [vint3, vecOp_canon]

theorem vintx_canon (i : Instr) (w : IW) (d b : BitVec 5) (x : BitVec 6) (k : BitVec 3) (g : Nat → Nat → Nat → Nat) {s : State} (h : s.canon) : outKept (vintx i w d b x
    k g s) := by
  grind only [vintx, vecOp_canon]

theorem State.wk_canon {s : State} (h : s.canon) (n : BitVec 3) (w : Word) : (s.wk n w).canon := h

theorem maskOp_canon (i : Instr) (d : BitVec 3) (g : Firing → Word) {s : State} (h : s.canon) : outKept (maskOp i d g s) :=
  plain_kept h (State.wk_canon h ..)

theorem prefixed_canon (i : Instr) (ok : Prefx → Bool) {body : State → Except Stop State} {s : State} (h : s.canon) (hb : stateKept (body s)) : outKept (prefixed i ok body s) :=
  issue_kept h (hb.bind (fun _ h => h) fun _ hs => State.upd_canon hs _)

theorem State.ownSpad_canon {s : State} (h : s.canon) (ac : Acc) (a : Word) (n al : Nat) : pairKept (s.ownSpad ac a n al) := by
  unfold State.ownSpad
  grind only [check_cases, raise, State.access_canon, Stop.canon, pairKept, bind_cases]

theorem State.context_canon {s : State} (h : s.canon) (a : BitVec 6) : pairKept (s.context a) := by
  grind only [State.context, State.ownSpad_canon]

theorem State.digestStep_canon {s : State} (h : s.canon) (ctx : Place) (b n : BitVec 6) : doneKept (s.digestStep ctx b n) := by
  unfold State.digestStep
  grind only [State.elemPlaces_canon, State.readParts_canon, State.wx_canon, State.upd_canon, Done.canon, doneKept, pairKept, bind_cases, Mem.wf_write,
    State.canon]

theorem State.mmaTile_canon (s : State) (o : MmaOp) : stopKept (s.mmaTile o) := by
  grind only [State.mmaTile, check_cases, raise, Stop.canon, stopKept]

theorem MmaOp.aligned_canon (o : MmaOp) : stopKept (MmaOp.aligned o) := by
  grind only [MmaOp.aligned, raise, Stop.canon, stopKept]

theorem MmaOp.scaleAligned_canon (o : MmaOp) : stopKept (MmaOp.scaleAligned o) := by
  grind only [MmaOp.scaleAligned, check_cases, raise, Stop.canon, stopKept]

theorem MmaOp.inside_canon (o : MmaOp) (n : Nat) (w0 xs : Word) : stopKept (MmaOp.inside o n w0 xs) := by
  grind only [MmaOp.inside, check_cases, raise, Stop.canon, stopKept, bind_cases]

theorem State.touchTile_canon {s : State} (h : s.canon) (t : Nat) : (s.touchTile t).canon := by
  unfold State.touchTile
  split
  · exact h
  · split
    · exact h
    · exact (State.unitWrite_canon (State.onCore_canon h _ _) ..).getD (State.onCore_canon h _ _)

theorem State.zeroAcc_canon {s : State} (h : s.canon) (n a : Nat) : (s.zeroAcc n a).canon := ite_canon h h

theorem State.accFree_canon {s : State} (h : s.canon) (as : List (BitVec 2)) : stopKept (s.accFree as) := by
  grind only [State.accFree, block, Stop.canon, stopKept]

theorem State.accPlaces_canon {s : State} (h : s.canon) (ac : Acc) (a : Word) : pairKept (s.accPlaces ac a) := by
  grind only [State.accPlaces, check_cases, raise, State.placesFrom_canon, Stop.canon, pairKept, bind_cases]

theorem State.writeParts_canon {s : State} (h : s.canon) (n : Nat) (pls : List Place) (ws : List Word) (va : Nat → Word) : stateKept (s.writeParts n pls ws va) := by
  grind only [State.writeParts, State.storeParts_canon]

theorem State.writeWords_canon {s : State} (h : s.canon) (pls : List Place) (ws : List Word) (va : Nat → Word) : stateKept (s.writeWords pls ws va) := by
  grind only [State.writeWords, State.writeParts_canon]

theorem State.tileOk_canon (s : State) (t : BitVec 3) : stopKept (s.tileOk t) := by
  grind only [State.tileOk, check_cases, raise, Stop.canon, stopKept]

theorem State.tilePlaces_canon {s : State} (h : s.canon) (ac : Acc) (t : BitVec 3) (col : Bool) (b : Nat) (m : TileMove) : pairKept (s.tilePlaces ac t col b m) := by
  refine (State.tileOk_canon _ t).bind (fun _ h => h) fun _ _ => stopKept.bind (x := check ..) (C := pairKept) (check_kept _ _ _) (fun _ h => h) fun _ _ => ?_
  dsimp only
  split
  · exact trivial
  · exact (State.blockPlaces_canon h ..).bind (C := pairKept) (fun _ h => h) fun ⟨_, _⟩ hs => hs

theorem State.wb_canon {s : State} (h : s.canon) (n : BitVec 3) (w : BitVec 4096) : (s.wb n w).canon := h

theorem State.csrRead_canon {s : State} (h : s.canon) (c : BitVec 11) : (s.csrRead c).2.canon := by
  grind only [State.csrRead, State.nextFree_canon]

theorem State.csrWrite_canon {s : State} (h : s.canon) (c : BitVec 11) (v : Word) : (s.csrWrite c v).canon := by
  grind only [State.csrWrite, State.upd_canon, State.onCore_canon, State.onFrond_canon]

theorem csrOp_canon (i : Instr) (d : BitVec 6) (c : BitVec 11) (a : BitVec 6) (writes : Bool) (g : Word → Word → Word) {s : State} (h : s.canon) :
    outKept (csrOp i d c a writes g s) := by
  have hr := State.csrRead_canon h c
  refine issue_kept h (State.wx_canon (s := ite _ _ _) ?_ _ _)
  split
  · exact State.csrWrite_canon hr ..
  · exact hr

theorem State.freePair_canon {s : State} (h : s.canon) (f : Firing) : (s.freePair f).canon := by
  grind only [State.freePair, State.onFrond_canon]

theorem State.dropClaims_canon {s : State} (h : s.canon) (f : Firing) : (s.dropClaims f).canon := State.withdraw_canon h ..

theorem State.settle0_canon {s : State} (h : s.canon) (f : Firing) : (s.settle0 f).canon := by
  grind only [State.settle0, State.putGroup0_canon]

theorem State.idleCore_canon {s : State} (h : s.canon) (c : Fin 2048) : (s.idleCore c).canon := ite_canon h h

theorem State.removeFiring_canon {s : State} (h : s.canon) (n : Nat) : (s.removeFiring n).canon := ite_canon h h

theorem State.endFiring_canon {s : State} (h : s.canon) (f : Firing) : (s.endFiring f).canon :=
  State.settle0_canon (State.idleCore_canon (State.removeFiring_canon (State.freePair_canon (State.dropClaims_canon
    (foldl_canon (fun _ _ hs => State.leaveGroup_canon hs _) _ h) _) _) _) _) _

theorem State.commitActor_canon {s : State} (h : s.canon) (id n : Nat) : (s.commitActor id n).canon := by
  induction n generalizing s with
  | zero => exact h
  | succ n ih =>
    unfold State.commitActor
    split
    · exact h
    · split
      · exact ih (State.onTeam_canon (s := { s with mem := _ }) (Mem.wf_commitOne h _) ..)
      · exact h

theorem State.retiredOf_canon {s : State} (h : s.canon) (f : Firing) : (s.retiredOf f).canon := by
  grind only [State.retiredOf, State.onTeam_canon, State.commitActor_canon]

theorem State.takeBack_canon {s : State} (h : s.canon) (u : Undo) : (s.takeBack u).canon := by
  unfold State.takeBack
  grind only [State.serveSems_canon, State.onFrond_canon, State.serveAll_canon, State.setFull_canon, State.homeDone_canon, Mem.wf_write, State.canon]

theorem State.onGang_canon {s : State} (h : s.canon) (g : Gang) (k : Gang → Gang) : (s.onGang g k).canon := h

theorem State.undoGang_canon {s : State} (h : s.canon) (g : Gang) : (s.undoGang g).canon := by
  unfold State.undoGang
  split
  · exact h
  · dsimp only
    split
    · exact h
    · refine foldl_canon (fun s f hs => ?_) _ (foldl_canon (fun _ _ hs => State.takeBack_canon hs _) _ (State.onGang_canon h ..))
      split
      · exact hs
      · exact State.onFiring_canon hs ..

theorem State.focus_canon {s : State} (h : s.canon) (n : Nat) : (s.focus n).canon := by
  unfold State.focus
  grind only [State.canon]

theorem State.asFiring_canon {s : State} (h : s.canon) (n : Nat) {g : State → State} (hg : ∀ t, t.canon → (g t).canon) : (s.asFiring n g).canon :=
  State.focus_canon (hg _ (State.focus_canon h n)) _

theorem State.withdrawFar_canon {s : State} (h : s.canon) (n : Nat) : (s.withdrawFar n).canon := by
  unfold State.withdrawFar
  split
  · exact h
  · split
    · exact h
    · exact State.asFiring_canon h _ fun _ ht => State.upd_canon (State.ask_canon (State.streamSeq_canon ht _) ..) _

theorem State.breakGang_canon {s : State} (h : s.canon) (g : Gang) (faults : List (Nat × Pending)) : (s.breakGang g faults).canon :=
  foldl_canon (fun _ _ hs => State.asFiring_canon (State.withdrawFar_canon hs _) _ fun _ ht => State.deliver_canon (State.upd_canon ht _) ..) g.members
    (State.undoGang_canon h g)

theorem State.trapFiring_canon {s : State} (h : s.canon) (n : Nat) (t : Pending) : (s.trapFiring n t).canon := by
  grind only [State.trapFiring, State.breakGang_canon, State.asFiring_canon, State.deliver_canon]

theorem State.settled_canon {s : State} (h : s.canon) (n : Nat) : (s.settled n).canon := by
  grind only [State.settled, State.unlock_canon, State.trapFiring_canon, State.onFiring_canon]

theorem State.bankAnswered_canon {s : State} (h : s.canon) (adm pkg seq : Nat) : (s.bankAnswered adm pkg seq).canon := by
  grind only [State.bankAnswered, State.vbsumDone_canon, State.push_canon, State.onCore_canon]

theorem State.answer_canon {s : State} (h : s.canon) (n pkg seq code : Nat) (v : Word) (fl : Nat) : (s.answer n pkg seq code v fl).canon := by
  grind only [State.answer, State.onFiring_canon, State.settled_canon, State.bankAnswered_canon]

theorem State.copyAnswer_canon {s : State} (h : s.canon) (n pkg seq code : Nat) (v : Word) : (s.copyAnswer n pkg seq code v).canon := by
  grind only [State.copyAnswer, State.onFrond_canon]

theorem State.unitWord_canon {s : State} (h : s.canon) (p : Fin 16) (va : Nat) (wr : Bool) : optPairKept (s.unitWord p va wr) := by
  grind only [State.unitWord, State.unitPlace_canon, State.translate_canon, optPairKept]

theorem State.spawnAt_canon {s : State} (h : s.canon) (c : Fin 2048) (f : Firing) (place : Option Nat) : optKept (s.spawnAt c f place) := by
  grind only [State.spawnAt, State.renew_canon, optKept, option_map_cases, State.canon]

theorem State.spawn_canon {s : State} (h : s.canon) (c : Fin 2048) (f : Firing) : optKept (s.spawn c f) := by
  grind only [State.spawn, State.spawnAt_canon]

theorem State.logPlaces_canon {s : State} (h : s.canon) (id fid : Nat) (cs : List (Fin 2048)) : (s.logPlaces id fid cs).canon := by
  induction cs generalizing s with
  | nil => exact h
  | cons c cs ih =>
    unfold State.logPlaces
    split
    · exact h
    · split
      · exact h
      · split
        · exact ih (LogRes.canon_of (State.logOp_canon h ..) ‹_›)
        · exact trivial
        · exact h

theorem State.placeAt_canon {s : State} (h : s.canon) (t : Team) (fid k : Nat) (only : Option (List Nat)) : (s.placeAt t fid k only).canon := by
  unfold State.placeAt
  dsimp only
  split
  · split
    · exact trivial
    · split
      · exact trivial
      · rename_i hb
        obtain ⟨u, hu, hs⟩ := Option.bind_eq_some_iff.1 hb
        exact Placed.ite_no (State.logPlaces_canon (State.onFrond_canon ((State.spawn_canon ((State.spawn_canon h ..).of_some hu) ..).of_some hs) _ _) ..)
  · split
    · exact trivial
    · rename_i hf
      refine State.logPlaces_canon ((optPairKept.findSome (fun c => ?_) _).of_some (a := (_, _)) hf) ..
      exact optPairKept.ite_none ((State.spawn_canon h ..).pair c)

theorem State.placeAlong_canon {s : State} (h : s.canon) (t : Team) (fid start : Nat) (only : Option (List Nat)) (os : List Nat) : (s.placeAlong t fid start only os).canon := by
  induction os with
  | nil => exact trivial
  | cons o os ih =>
    have hp := State.placeAt_canon h t fid (start + o) only
    unfold State.placeAlong
    split
    · exact ih
    · exact State.onTeam_canon (Placed.canon_of hp ‹_›) ..
    · exact hp

theorem State.placeFid_canon {s : State} (h : s.canon) (t : Team) (fid : Nat) : (s.placeFid t fid).canon := by
  grind only [State.placeFid, State.placeAlong_canon, Placed.canon]

theorem State.placeMany_canon {s : State} (h : s.canon) (id n : Nat) : (s.placeMany id n).canon := by
  induction n generalizing s with
  | zero => exact h
  | succ n ih =>
    unfold State.placeMany
    split
    · exact trivial
    · split
      · exact h
      · have hp := State.placeFid_canon h ‹_› ‹_›
        split
        · exact ih (State.onTeam_canon (Placed.canon_of hp ‹_›) ..)
        · exact hp

theorem State.touch_canon {s : State} (h : s.canon) (p : Fin 16) (d : Fin 4) (va n : Nat) : (s.touch p d va n).canon := by
  grind only [State.touch, State.translate_canon, optPairKept]

theorem State.touchRecord_canon {s : State} (h : s.canon) (p : Fin 16) (r : List Word) : (s.touchRecord p r).canon :=
  foldl_canon (fun _ _ hs => State.touch_canon hs ..) _ h

theorem State.feStore_canon {s : State} (h : s.canon) (key : Nat) (v : Word) : (s.feStore key v).canon := State.serveAll_canon (State.feApply_canon h ..) ..

theorem State.wordTo_canon {s : State} (h : s.canon) (p : Fin 16) (va v : Word) : optKept (s.wordTo p va v) := by
  grind only [State.wordTo, State.feStore_canon, State.unitWord_canon, optKept, optPairKept, option_map_cases]

theorem State.errorLog_canon {s : State} (h : s.canon) (p : Fin 16) (kind code : Nat) (tid tval : Word) : (s.errorLog p kind code tid tval).canon := by
  grind only [State.errorLog, State.ringPut_canon, State.push_canon, State.onPart_canon]

theorem State.reject_canon {s : State} (h : s.canon) (p : Fin 16) (q : Fin 32) (seq code : Nat) (r : List Word) : (s.reject p q seq code r).canon := by
  grind only [State.reject, State.onQueue_canon, State.wordTo_canon, State.errorLog_canon, optKept]

theorem State.takeRecord_canon {s : State} (h : s.canon) (p : Fin 16) (q : Fin 32) : (s.takeRecord p q).canon := by
  grind only [State.takeRecord, State.unitPlace_canon, State.onQueue_canon, State.touchRecord_canon, State.pokeQueue_canon, State.reject_canon,
    State.push_canon, optPairKept, State.canon]

theorem State.touchDeps_canon {s : State} (h : s.canon) (t : Team) : (s.touchDeps t).canon :=
  foldl_canon (fun _ _ hs => State.touch_canon hs ..) _ h

theorem State.nextHead_canon {s : State} (h : s.canon) (t : Team) : (s.nextHead t).canon := ite_canon h h

theorem State.dropTeam_canon {s : State} (h : s.canon) (t : Team) : (s.dropTeam t).canon := ite_canon h h

theorem State.checkRanges_canon {s : State} (h : s.canon) (t : Team) : (s.checkRanges t).1.canon := by
  have hget : ∀ (s : State) (a n : Nat), s.canon → State.canon (match s.unitRead t.part s.parts[t.part].die a n with
      | some (u, v) => (u, some v)
      | none => (s, none)).1 := by
    intro s a n hs
    split
    · exact (State.unitRead_canon hs ..).of_some ‹_›
    · exact hs
  refine foldl_pair_canon (fun a i ha => ?_) _ (a := (_, _)) (hget s _ 8 h)
  exact hget a.1 _ 32 ha

theorem State.unitFar_canon {s : State} (h : s.canon) (p : Fin 16) (va : Nat) (wr : Bool) : optPairKept (s.unitFar p va wr) := by
  grind only [State.unitFar, State.translate_canon, optPairKept]

theorem State.rangeRead_canon {s : State} (h : s.canon) (p : Fin 16) (a n : Nat) : optPairKept (s.rangeRead p a n) := by
  grind only [State.rangeRead, State.unitPlace_canon, State.unitFar_canon, optPairKept, option_map_cases, State.canon]

theorem State.digestBlocks_canon {s : State} (h : s.canon) (p : Fin 16) (bs : List (Nat × Nat × Nat × Nat)) (d : Nat) : (s.digestBlocks p bs d).1.canon := by
  induction bs generalizing s d with
  | nil => exact h
  | cons b bs ih =>
    unfold State.digestBlocks
    split
    · exact ih ((State.rangeRead_canon h ..).of_some ‹_›) _
    · exact ih (s := { s with free := s.free + 8 }) h _

theorem State.unitPut_canon {s : State} (h : s.canon) (p : Fin 16) (a n v : Nat) : (s.unitPut p a n v).canon :=
  (State.unitWrite_canon h ..).getD h

theorem State.rangeWrite_canon {s : State} (h : s.canon) (p : Fin 16) (a v : Nat) : (s.rangeWrite p a v).canon := by
  grind only [State.rangeWrite, State.unitPlace_canon, State.keepHeaders_canon, State.homeStore_canon, State.unitFar_canon, State.dropped_canon,
    State.streamNext_canon, State.send_canon, optPairKept, Mem.wf_set, State.canon]

theorem State.restoreRange_canon {s : State} (h : s.canon) (p : Fin 16) (r : CheckRange) : (s.restoreRange p r).canon := by
  unfold State.restoreRange
  split
  · refine foldl_canon (fun s i hs => ?_) _ h
    have hr := State.rangeRead_canon hs p (r.shadow + i) 1
    split
    · rename_i u v hu
      rw [hu] at hr
      exact State.rangeWrite_canon hr ..
    · exact hs
  · exact h

theorem State.endFirst_canon {s : State} (h : s.canon) (t : Team) : (s.endFirst t).canon :=
  State.onTeam_canon (foldl_canon (fun _ _ hs => State.restoreRange_canon hs ..) _
    (State.unitPut_canon (State.digestBlocks_canon (State.checkRanges_canon h t) ..) ..)) ..

theorem State.releaseTeam_canon {s : State} (h : s.canon) (t : Team) : (s.releaseTeam t).canon :=
  foldl_canon (fun _ _ hs => State.widen_canon hs ..) _ h

theorem State.endTeam_canon {s : State} (h : s.canon) (t : Team) (retired code status : Nat) : (s.endTeam t retired code status).canon := by
  have hs : State.canon (if status != 0 && t.flag 28 && t.checkRun == 0 then s.unitPut t.part ((dword t.recd 11).toNat + 8) 8 3 else s) := by
    split
    · exact State.unitPut_canon h ..
    · exact h
  exact State.dropTeam_canon ((State.wordTo_canon (State.releaseTeam_canon hs t) ..).getD (State.releaseTeam_canon hs t)) t

theorem State.endCheck_canon {s : State} (h : s.canon) (t : Team) : (s.endCheck t).canon := by
  grind only [State.endCheck, State.checkRanges_canon, State.digestBlocks_canon, State.unitPut_canon]

theorem State.complete_canon {s : State} (h : s.canon) (t : Team) : (s.complete t).canon := State.endTeam_canon (ite_canon (State.endCheck_canon h ..) h) ..

theorem State.completeEmpty_canon {s : State} (h : s.canon) (t : Team) : (s.completeEmpty t).canon := by
  grind only [State.completeEmpty, State.endFirst_canon, State.complete_canon]

theorem State.startActor_canon {s : State} (h : s.canon) (t : Team) : (s.startActor t).canon := by
  refine State.push_canon (State.onTeam_canon (foldl_canon (fun s i hs => ?_) _ h) ..) ..
  dsimp only
  split
  · exact Mem.wf_write (Mem.wf_write hs _ _ _) _ _ _
  · exact hs

end Sys2Proof.Machine
end

section
/-! SUPPORT. Canonical memory (O56): completion and placement, the owner's side, copies, pre-emption, restarts and the sorus. -/

namespace Sys2Proof.Machine
set_option Elab.async false

theorem State.placeTeam_canon {s : State} (h : s.canon) (t : Team) : (s.placeTeam t).canon := by
  grind only [State.placeTeam, State.placeMany_canon, Placed.canon]

theorem State.afterPlacing_canon {s : State} (h : s.canon) (t : Team) : (s.afterPlacing t).canon := by
  grind only [State.afterPlacing, State.nextHead_canon]

theorem State.servedNow_canon {s : State} (h : s.canon) (t : Team) : (s.servedNow t).canon := h

theorem State.holdTeam_canon {s : State} (h : s.canon) (t : Team) (d : Nat) : (s.holdTeam t d).canon := ite_canon h (State.errorLog_canon h ..)

theorem State.fireActor_canon {s : State} (h : s.canon) (t : Team) : (s.fireActor t).canon := by
  grind only [State.fireActor, State.placeFid_canon, State.onTeam_canon, Placed.canon]

theorem State.refuseMessage_canon {s : State} (h : s.canon) (m : Message) (sub : Nat) : (s.refuseMessage m sub).canon := ite_canon h h

theorem State.unbuffer_canon {s : State} (h : s.canon) (c : Fin 2048) (m : Message) : (s.unbuffer c m).canon := h

theorem State.arrive_canon {s : State} (h : s.canon) (c : Fin 2048) (m : Message) : optKept (s.arrive c m) := by
  grind only [State.arrive, State.refuseMessage_canon, State.unbuffer_canon, State.trapFiring_canon, State.spawn_canon, optKept, option_map_cases]

theorem State.tryMessage_canon {s : State} (h : s.canon) (c : Fin 2048) (m : Message) : optKept (s.tryMessage c m) := by
  grind only [State.tryMessage, State.arrive_canon, State.logOp_canon, State.onCore_canon, State.trapFiring_canon, LogRes.canon, optKept]

theorem State.touchEntry_canon {s : State} (h : s.canon) (m : Message) : (s.touchEntry m).canon := by
  grind only [State.touchEntry, State.touch_canon]

theorem State.dispatch_canon {s : State} (h : s.canon) (c : Fin 2048) : optKept (s.dispatch c) :=
  optKept.findSome (fun _ => State.tryMessage_canon (State.touchEntry_canon h _) ..) _

theorem State.bankTold_canon {s : State} (h : s.canon) (c : Fin 2048) (tag : Nat) : (s.bankTold c tag).canon := h

theorem State.bankArrive_canon {s : State} (h : s.canon) (c : Fin 2048) (tag : Nat) : optKept (s.bankArrive c tag) := by
  grind only [State.bankArrive, State.vbsumDone_canon, State.push_canon, State.onCore_canon, State.bankLog_canon, State.bankDo_canon, State.trapFiring_canon,
    State.bankTold_canon, LogRes.canon, optKept]

theorem State.peerWithdraw_canon {s : State} (h : s.canon) (r : InReq) : (s.peerWithdraw r).canon := ite_canon h h

theorem State.ownerCheck_canon {s : State} (h : s.canon) (p : Fin 16) (ac : Acc) (a n al : Nat) : valKept (s.ownerCheck p ac a n al) := by
  grind only [State.ownerCheck, State.translate_canon, optPairKept, valKept]

theorem State.peerFe_canon {s : State} (h : s.canon) (r : InReq) (key : Nat) (load sets : Bool) : (s.peerFe r key load sets).canon := by
  grind only [State.peerFe, State.feApply_canon, State.peerDone_canon, State.serveAll_canon, State.push_canon, State.canon]

theorem State.performRequest_canon {s : State} (h : s.canon) (r : InReq) : (s.performRequest r).canon := by
  grind only [State.performRequest, State.send_canon, State.peerWithdraw_canon, State.ownerCheck_canon, State.homeWrite_canon, State.keepHeaders_canon,
    State.homeDone_canon, State.peerFe_canon, State.bankAt_canon, valKept, Mem.wf_write, Mem.wf_writeMasked, State.canon]

theorem State.performCopy_canon {s : State} (h : s.canon) (r : InReq) : (s.performCopy r).canon := by
  grind only [State.performCopy, State.performRequest_canon, State.send_canon]

theorem State.performNext_canon {s : State} (h : s.canon) (stream : Nat) : optKept (s.performNext stream) := by
  grind only [State.performNext, State.performRequest_canon, State.performCopy_canon, optKept, option_map_cases, State.canon]

theorem State.copyFail_canon {s : State} (h : s.canon) (i : Fin 1024) (ch : Fin 4) (code : Nat) : (s.copyFail i ch code).canon := by
  grind only [State.copyFail, State.push_canon]

theorem State.copyPlaces_canon {at_ : State → Nat → Except Nat (State × Place)} (ha : ∀ s b, s.canon → valKept (at_ s b)) {s : State} (h : s.canon) (bs : List Nat) :
    valKept (s.copyPlaces at_ bs) := by
  induction bs generalizing s with
  | nil => exact h
  | cons b bs ih => exact (ha s b h).bind fun ⟨_, _⟩ hs => (ih hs).bind fun ⟨_, _⟩ hs => hs

theorem State.byteAt_canon {s : State} (h : s.canon) (ac : Acc) (a : Int) : valKept (s.byteAt ac a) := by
  grind only [State.byteAt, State.resolve_canon, pairKept, valKept]

theorem State.shardByte_canon {s : State} (h : s.canon) (ac : Acc) (w : Word) (d : List Word) (place : List (Nat × Word × Word)) (b : Nat) : valKept (s.shardByte ac w d
    place b) := by
  grind only [State.shardByte, State.byteAt_canon, valKept]

theorem State.copySrc_canon {s : State} (h : s.canon) (c : Copy) (b : Nat) : valKept (s.copySrc c b) := by
  grind only [State.copySrc, State.shardByte_canon, State.byteAt_canon]

theorem State.onCopy_canon {s : State} (h : s.canon) (i : Fin 1024) (ch : Fin 4) (g : Copy → Copy) : (s.onCopy i ch g).canon := by
  grind only [State.onCopy, State.onFrond_canon]

theorem State.copyAsk_canon {s : State} (h : s.canon) (pkg part : Nat) (req : Req) (addr v : Nat) : (s.copyAsk pkg part req addr v).1.canon := by
  grind only [State.copyAsk, State.streamSeq_canon, State.ask_canon]

theorem State.copyRead_canon {s : State} (h : s.canon) (j : Fin 1024) (ch : Fin 4) (i : Nat) (pl : Place) : (s.copyRead j ch i pl).canon := by
  unfold State.copyRead
  grind only [State.onCopy_canon, State.copyAsk_canon, State.upd_canon, State.loadAt_canon]

theorem State.copyDst_canon {s : State} (h : s.canon) (c : Copy) (b : Nat) : valKept (s.copyDst c b) := by
  grind only [State.copyDst, State.shardByte_canon, State.byteAt_canon]

theorem State.devPut_canon {s : State} (h : s.canon) (k v : Nat) : (s.devPut k v).canon := by
  grind only [State.devPut, State.onFrond_canon, State.homePut_canon, Mem.wf_set, State.canon]

theorem State.copyWrite_canon {s : State} (h : s.canon) (j : Fin 1024) (ch : Fin 4) (i v : Nat) (pl : Place) : (s.copyWrite j ch i v pl).canon := by
  unfold State.copyWrite
  grind only [State.copyAsk_canon, State.onCopy_canon, State.dropped_canon, State.devPut_canon, State.storeAt_canon]

theorem State.sectorTb_canon {s : State} (h : s.canon) (tb : Word) : valStateKept (s.sectorTb tb) := by
  grind only [State.sectorTb, State.resolve_canon, State.updateBarrier_canon, pairKept, valStateKept]

theorem State.sectorDone_canon {s : State} (h : s.canon) (i : Fin 1024) (ch : Fin 4) (c : Copy) : (s.sectorDone i ch c).canon := by
  grind only [State.sectorDone, State.onCopy_canon, State.onFrond_canon, State.sectorTb_canon, State.copyFail_canon, State.push_canon, valStateKept]

theorem State.sectorOut_canon {s : State} (h : s.canon) (i : Fin 1024) (ch : Fin 4) (c : Copy) : (s.sectorOut i ch c).canon := by
  have hp := State.copyPlaces_canon (at_ := fun s b => s.copyDst c b) (fun _ _ hs => State.copyDst_canon hs ..) h c.sector
  unfold State.sectorOut
  split
  · exact State.copyFail_canon h ..
  · have hs := foldl_canon (fun (s : State) (x : (Place × Nat) × Nat) hs => State.copyWrite_canon hs i ch x.2 x.1.2 x.1.1) ((List.zip ‹_› c.buf).zipIdx)
      (State.onCopy_canon (hp.of_ok ‹_›) i ch fun c => { c with phase := 2 })
    dsimp only
    split
    · split
      · exact State.sectorDone_canon hs ..
      · exact State.push_canon hs ..
    · exact hs

theorem State.sectorStep_canon {s : State} (h : s.canon) (i : Fin 1024) (ch : Fin 4) (c : Copy) : (s.sectorStep i ch c).canon := by
  have hp := State.copyPlaces_canon (at_ := fun s b => s.copySrc c b) (fun _ _ hs => State.copySrc_canon hs ..) h c.sector
  unfold State.sectorStep
  split
  · exact State.copyFail_canon h ..
  split
  · split
    · exact State.copyFail_canon h ..
    · have hs := fun pls : List Place => foldl_canon (fun (s : State) (x : Place × Nat) hs => State.copyRead_canon hs i ch x.2 x.1) pls.zipIdx
        (State.onCopy_canon (hp.of_ok ‹_›) i ch fun c => { c with phase := 1, buf := List.replicate pls.length 0 })
      dsimp only
      split
      · split
        · exact State.sectorOut_canon (hs _) ..
        · exact State.push_canon (hs _) ..
      · exact hs _
  · split
    · exact State.sectorOut_canon h ..
    · exact State.sectorDone_canon h ..

theorem State.endCopy_canon {s : State} (h : s.canon) (i : Fin 1024) (ch : Fin 4) (c : Copy) (code : Nat) : (s.endCopy i ch c code).canon := by
  grind only [State.endCopy, State.onFiring_canon, State.onFrond_canon, State.unlock_canon]

theorem State.nextClr_canon {s : State} (h : s.canon) (c : Fin 2048) (adm a : Nat) : (s.nextClr c adm a).canon := by
  grind only [State.nextClr, State.onCore_canon, State.zeroAcc_canon]

theorem State.arrayStep_canon {s : State} (h : s.canon) (c : Fin 2048) : (s.arrayStep c).canon := by
  grind only [State.arrayStep, State.onCore_canon, State.onFiring_canon, State.unlock_canon, State.nextClr_canon]

theorem State.leaveGang_canon {s : State} (h : s.canon) (f : Firing) (all : List Nat) : (s.leaveGang f all).canon := by
  unfold State.leaveGang
  split
  · exact h
  · refine foldl_canon (fun s n hs => ?_) _ (State.undoGang_canon h _)
    split
    · exact State.onFiring_canon hs ..
    · exact State.asFiring_canon (State.withdrawFar_canon hs _) _ fun _ ht => State.deliver_canon (State.upd_canon ht _) ..

theorem State.putWords_canon {s : State} (h : s.canon) (p : Fin 16) (a : Nat) (ws : List Word) : (s.putWords p a ws).canon := by
  induction ws generalizing s a with
  | nil => exact h
  | cons w ws ih => exact ih (State.unitPut_canon h ..) _

theorem State.stopArray_canon {s : State} (h : s.canon) (f : Firing) : (s.stopArray f).canon := by
  grind only [State.stopArray, State.arrayStep_canon]

theorem State.tagTile_canon {s : State} (h : s.canon) (f : Firing) (slots t : Nat) : (s.tagTile f slots t).canon := by
  grind only [State.tagTile, State.asFiring_canon, State.touchTile_canon, State.onCore_canon]

theorem State.dropEngines_canon {s : State} (h : s.canon) (f : Firing) : (s.dropEngines f).canon := h

theorem State.withSaved_canon {s : State} (h : s.canon) (l : List Saved) : State.canon { s with saved := l } := h

theorem State.saveFiring_canon {s : State} (h : s.canon) (f0 : Firing) (base : Nat) : (s.saveFiring f0 base).canon := by
  have ha : ((s.withdraw f0.adm).stopArray f0).canon := State.stopArray_canon (State.withdraw_canon h _) _
  unfold State.saveFiring
  dsimp only
  split
  · exact ha
  · refine State.idleCore_canon (State.removeFiring_canon (State.freePair_canon (State.dropEngines_canon (State.onFrond_canon
      (teamOr_canon (State.withSaved_canon (foldl_canon (fun _ _ hs => State.tagTile_canon hs ..) _ ?_) _) fun _ hs => State.onTeam_canon hs ..) _ _) _) _) _) _
    exact State.putWords_canon (State.putWords_canon (State.putWords_canon (State.putWords_canon (State.publish_canon ha ..) ..) ..) ..) ..

theorem State.saveAll_canon {s : State} (h : s.canon) (p : Fin 16) (fs : List Firing) (base : Nat) : (s.saveAll p fs base).canon :=
  foldl_canon (fun _ _ hs => State.saveFiring_canon hs ..) _ (State.putWords_canon (foldl_canon (fun _ _ hs => State.leaveGang_canon hs ..) fs h) ..)

theorem State.unarrive_canon {s : State} (h : s.canon) (f : Firing) : (s.unarrive f).canon := by
  grind only [State.unarrive, State.asFiring_canon, State.putMeeting_canon]

theorem State.discardFiring_canon {s : State} (h : s.canon) (f : Firing) : (s.discardFiring f).canon := by
  grind only [State.discardFiring, State.unarrive_canon, State.withdrawFar_canon, State.errorLog_canon, State.endFiring_canon, State.dropEngines_canon]

theorem State.forget_canon {s : State} (h : s.canon) (x : Saved) : (s.forget x).canon := by
  have hs : State.canon { s with saved := s.saved.erase x } := h
  refine State.onCore_canon (State.onFrond_canon (teamOr_canon (foldl_canon (fun _ _ hs => State.leaveGroup_canon hs _) _ (foldl_canon (fun s a hs => ?_) _
    (teamOr_canon hs fun _ hs => State.onTeam_canon hs ..))) fun _ hs => State.putGroup0_canon hs ..) _ _) _ _
  exact ite_canon (State.putGroup_canon hs ..) hs

theorem State.forgetWith_canon {s : State} (h : s.canon) (fs : List Firing) : (s.forgetWith fs).canon := foldl_canon (fun _ _ hs => State.forget_canon hs _) _ h

theorem State.restartCheck_canon {s : State} (h : s.canon) (t : Team) : (s.restartCheck t).canon := by
  refine maybe_canon' (maybe_canon' (State.onTeam_canon (foldl_canon (fun _ _ hs => State.restoreRange_canon hs ..) _ (State.checkRanges_canon h t)) ..)
    fun hs => State.startActor_canon hs _) fun hs => State.push_canon hs ..

theorem State.discardAll_canon {s : State} (h : s.canon) (fs : List Firing) : (s.discardAll fs).canon := by
  refine foldl_canon (fun _ _ hs => State.push_canon hs ..) _ (foldl_canon (fun _ _ hs => maybe_canon' hs fun hs => State.restartCheck_canon hs _) _
    (State.forgetWith_canon (foldl_canon (fun s f hs => ?_) _ (foldl_canon (fun _ _ hs => State.leaveGang_canon hs ..) _ h)) _))
  exact firingOr_canon (teamOr_canon hs fun _ hs => State.onTeam_canon hs ..) fun _ hs => State.discardFiring_canon hs _

theorem State.dropSaved_canon {s : State} (h : s.canon) (p : Fin 16) (tid : Word) : (s.dropSaved p tid).canon := foldl_canon (fun _ _ hs => State.forget_canon hs _) _ h

theorem State.takeDown_canon {s : State} (h : s.canon) (t : Team) : (s.takeDown t).canon :=
  State.dropSaved_canon (foldl_canon (fun _ _ hs => State.discardFiring_canon hs _) _ (foldl_canon (fun _ _ hs => State.leaveGang_canon hs ..) _ h)) ..

theorem State.killTeam_canon {s : State} (h : s.canon) (t : Team) (code status : Nat) : (s.killTeam t code status).canon :=
  State.endTeam_canon (State.takeDown_canon h ..) ..

theorem State.preemptStatus_canon {s : State} (h : s.canon) (p : Fin 16) (addr : Word) (nfir : Nat) (esc missed : Bool) (action result : Nat) :
    (s.preemptStatus p addr nfir esc missed action result).canon := (State.wordTo_canon (State.nextFree_canon h) ..).getD (State.nextFree_canon h)

theorem State.preemptStart_canon {s : State} (h : s.canon) (p : Fin 16) (addr : Word) (ask : List Word) : (s.preemptStart p addr ask).canon := by
  have hn := State.nextFree_canon h
  unfold State.preemptStart
  dsimp only
  split
  · exact State.preemptStatus_canon h ..
  split
  · exact State.preemptStatus_canon h ..
  split
  · exact State.preemptStatus_canon hn ..
  split
  · exact State.preemptStatus_canon hn ..
  · exact State.push_canon (maybe_canon (teamOr_canon (State.onPart_canon hn ..) fun _ hs => State.onTeam_canon hs ..)
      fun hs => foldl_canon (fun _ _ hs => State.withdrawFar_canon hs _) _ hs) ..

theorem State.peekWord_canon {s : State} (h : s.canon) (p : Fin 16) (a : Nat) : (s.peekWord p a).1.canon := by
  grind only [State.peekWord, State.unitRead_canon, optPairKept]

theorem State.contextsIn_canon {s : State} (h : s.canon) (p : Fin 16) (base : Nat) (tid : Word) : (s.contextsIn p base tid).1.canon := by
  refine foldl_pair_canon (fun a i ha => ?_) _ (a := (_, _)) (State.peekWord_canon h p base)
  have hp := State.peekWord_canon ha p (base + 8 * (i + 1))
  split
  · rename_i hr
    rw [hr] at hp
    exact hp
  · rename_i hr
    rw [hr] at hp
    exact State.peekWord_canon hp ..

theorem State.resumeStart_canon {s : State} (h : s.canon) (p : Fin 16) (addr : Word) (ask : List Word) : (s.resumeStart p addr ask).canon := by
  grind only [State.resumeStart, State.preemptStatus_canon, State.push_canon, State.onTeam_canon, State.contextsIn_canon, State.onPart_canon]

theorem State.getWord_canon {s : State} (h : s.canon) (p : Fin 16) (a : Nat) :
    State.canon (match s.unitRead p s.parts[p].die a 8 with
      | some (s, v) => (s, BitVec.ofNat 64 v)
      | none => let (k, s) := s.nextFree; (s, Config.dword k)).1 := by
  split
  · exact (State.unitRead_canon h ..).of_some ‹_›
  · exact State.nextFree_canon h

theorem State.getWords_canon {s : State} (h : s.canon) (p : Fin 16) (a n : Nat) : (s.getWords p a n).1.canon := by
  induction n generalizing s a with
  | zero => exact h
  | succ n ih => exact ih (State.getWord_canon h p a) _

theorem State.restoreTiles_canon {s : State} (h : s.canon) (f : Firing) (slots : Nat) : (s.restoreTiles f slots).canon := by
  refine foldl_canon (fun s t hs => ite_canon hs ?_) _ h
  generalize List.find? _ _ = o
  cases o with
  | some z => exact State.onFiring_canon (State.onCore_canon hs ..) ..
  | none =>
    have hw := State.getWords_canon hs f.part (slots + 4096 * t) 512
    generalize s.getWords f.part (slots + 4096 * t) 512 = r at hw ⊢
    obtain ⟨u, ws⟩ := r
    exact State.onFiring_canon hw ..

theorem State.restoreTail_canon {s : State} (h : s.canon) (f : Firing) (owns : List Bool) (h3 : Word) (a : Nat) : (s.restoreTail f owns h3 a).canon := by
  grind only [State.restoreTail, State.getWords_canon, State.onFiring_canon, State.onFrond_canon, Mem.wf_write, State.canon]

theorem State.copySideOr_canon {s : State} (h : s.canon) (sh : Bool) (w : Word) :
    State.canon (match s.copySide sh w with
      | .ok (s, d, p) => (s, d, p, 0)
      | .error e => (s, [], [], stopCode e)).1 := by
  have hc := State.copySide_canon h sh w
  split
  · rename_i hr
    rw [hr] at hc
    exact hc
  · exact h

theorem State.copySideOf_canon {s : State} (h : s.canon) (o : Option Copy) (f : Copy → List Word) (g : Copy → List (Nat × Word × Word)) (sh : Bool) (w : Word) :
    State.canon (match o with
      | some c => (s, f c, g c, 0)
      | none => match s.copySide sh w with
        | .ok (s, d, p) => (s, d, p, 0)
        | .error e => (s, [], [], stopCode e)).1 := by
  cases o with
  | some c => exact h
  | none => exact State.copySideOr_canon h ..

theorem State.resumeCopy_canon {s : State} (h : s.canon) (adm : Nat) (old : List Copy) (x : Nat × Nat × Vector Word 8) : (s.resumeCopy adm old x).canon := by
  refine State.asFiring_canon h adm fun s hs => ?_
  split
  · exact hs
  · exact State.push_canon (State.onFrond_canon (State.setChannel_canon (State.copySideOf_canon (State.copySideOf_canon hs ..) _ Copy.dstDesc Copy.dstPlace ..) ..) ..) ..

theorem State.withUnacked_canon {s : State} (h : s.canon) (l : List Saved) (u : List Unack) : State.canon { s with saved := l, unacked := u } := h

theorem State.ofFiring_canon {s : State} (h : s.canon) {n : Nat} {k : Firing → State} (hk : ∀ f, (k f).canon) :
    State.canon (match s.firing? n with
      | none => s
      | some f => k f) := by
  split
  · exact h
  · exact hk _

theorem State.restore_canon {s u : State} (h : s.canon) {p : Fin 16} {t : Team} {a : Nat} {set : Option (Fin 8)} (hr : s.restore p t a set = some u) : u.canon := by
  unfold State.restore at hr
  dsimp only at hr
  replace hr := some_of_ite_none hr
  rw [Option.map_eq_some_iff] at hr
  obtain ⟨v, hv, hr⟩ := hr
  have hs := (State.spawnAt_canon (State.getWords_canon (State.getWords_canon (State.getWords_canon h ..) ..) ..) ..).of_some hv
  have hf := State.onFiring_canon hs
  rw [← hr]
  exact State.ofFiring_canon (hf ..) fun f => State.onTeam_canon (State.withUnacked_canon (foldl_canon (fun _ _ hs => State.resumeCopy_canon hs ..) _
    (maybe_canon (State.onCore_canon (State.onFrond_canon (State.restoreTail_canon (State.restoreTiles_canon (hf ..) ..) ..) _ _) _ _)
      fun hs => State.push_canon hs ..)) _ _) ..

theorem State.restoreUnit_canon {s : State} (h : s.canon) (p : Fin 16) (t : Team) (left : List Nat) (a : Nat) : optPairKept (s.restoreUnit p t left a) := by
  unfold State.restoreUnit
  dsimp only
  split
  · split
    · exact trivial
    · refine optKept.pair (foldl_opt_kept (fun o b ho => ho.bind fun s hs => ?_) _ (o := some _) (State.onFrond_canon h _ _)) _
      generalize hr : s.restore p t b _ = r
      exact optKept.of fun u hu => State.restore_canon hs (hr.trans hu)
  · generalize hr : s.restore p t a none = r
    exact optKept.pair (optKept.of fun u hu => State.restore_canon h (hr.trans hu)) _

theorem State.resumeStep_canon {s : State} (h : s.canon) (p : Fin 16) : optKept (s.resumeStep p) := by
  unfold State.resumeStep
  split
  · exact trivial
  · split
    · exact State.onPart_canon h ..
    · exact (optPairKept.findSome (fun a => State.restoreUnit_canon h ..) _).map fun _ hs => State.onPart_canon hs ..

theorem State.stealFrom_canon {s : State} (h : s.canon) (c : Fin 2048) : (s.stealFrom c).1.canon := by
  grind only [State.stealFrom, Mem.wf_write, State.canon]

theorem State.serveSteal_canon {s : State} (h : s.canon) (e : Ev) : optKept (s.serveSteal e) := by
  grind only [State.serveSteal, State.logFor_canon, State.trapFiring_canon, State.noteUndo_canon, State.stealFrom_canon, State.onFiring_canon, LogRes.canon,
    optKept]

theorem State.regWrite_canon {s : State} (h : s.canon) (by_ o : Nat) (v : Word) : (s.regWrite by_ o v).canon := ite_canon h (State.ctlWrite_canon h ..)

theorem State.dropTlb_canon {s : State} (h : s.canon) (p : Fin 16) (v : Word) : (s.dropTlb p v).canon := h

theorem State.giveCredit_canon {s : State} (h : s.canon) (pkg frond ch : Nat) (refused : Bool) : (s.giveCredit pkg frond ch refused).canon := ite_canon h h

theorem State.dropUnacked_canon {s : State} (h : s.canon) (pkg : Nat) : (s.dropUnacked pkg).canon := by
  refine foldl_canon (fun s r hs => ?_) _ (foldl_canon (fun _ _ hs => State.dropped_canon hs ..) _ h)
  dsimp only
  split
  · exact hs
  · split
    · exact hs
    · exact State.bankAnswered_canon (maybe_canon' hs fun hs => State.dropped_canon hs ..) ..

theorem State.loseCopies_canon {s : State} (h : s.canon) (pkg : Nat) (f : Firing) : (s.loseCopies pkg f).canon := by
  grind only [State.loseCopies, State.dropped_canon, State.onFrond_canon, State.onFiring_canon]

theorem State.hostPut_canon {s : State} (h : s.canon) (o n : Nat) (ws : List Word) : (s.hostPut o n ws).canon := by
  grind only [State.hostPut, State.homeDone_canon, State.send_canon, Mem.wf_write, State.canon]

theorem State.romVerify_canon {s : State} (h : s.canon) : s.romVerify.canon := ite_canon h h

theorem State.restarted_canon {s : State} (h : s.canon) : s.restarted.canon := Mem.above_filter h _

theorem State.initMemory_canon {s : State} (h : s.canon) : s.initMemory.canon := Mem.above_filter h _

theorem State.cmdEnd_canon {s : State} (h : s.canon) (st : Nat) : (s.cmdEnd st).canon := h

theorem State.reportBuf_canon {s : State} (h : s.canon) : s.reportBuf.canon := by
  grind only [State.reportBuf, State.nextFree_canon, Mem.wf_write, State.canon]

theorem State.fatalTeam_canon {s : State} (h : s.canon) (gone : Nat → Bool) (code : Nat) (t : Team) : (s.fatalTeam gone code t).canon := by
  grind only [State.fatalTeam, State.takeDown_canon, State.unitWord_canon, State.dropTeam_canon, State.endTeam_canon, optPairKept]

theorem State.endAll_canon {s : State} (h : s.canon) (gone : Nat → Bool) (code : Nat) : (s.endAll gone code).canon :=
  foldl_canon (k := fun s (f : Firing) => match s.firing? f.adm with
    | some f => s.discardFiring f
    | none => s) (fun _ _ hs => firingOr_canon hs fun _ hs => State.discardFiring_canon hs _) _ (foldl_canon (fun _ _ hs => State.fatalTeam_canon hs ..) s.teams h)

theorem State.deviceFault_canon {s : State} (h : s.canon) (gone : Nat → Bool) (code : Nat) : (s.deviceFault gone code).canon := ite_canon (State.endAll_canon h ..) h

theorem State.readoptFail_canon {s : State} (h : s.canon) (d : Fin 4) (late : Bool) : (s.readoptFail d late).canon := ite_canon (State.deviceFault_canon h ..) h

theorem State.readopt_canon {s : State} (h : s.canon) (d : Fin 4) (late : Bool) : (s.readopt d late).canon :=
  ite_canon h (State.readoptFail_canon (State.onDie_canon h ..) ..)

theorem State.dropHeldOf_canon {s : State} (h : s.canon) (t : Team) : (s.dropHeldOf t).canon := foldl_canon (fun _ _ hs => State.onFrond_canon hs _ _) _ h

theorem State.machineRecord_canon {s : State} (h : s.canon) (p : Fin 16) (syn : Word) : (s.machineRecord p syn).canon := ite_canon (State.ringPut_canon h ..) h

theorem State.strike_canon {s : State} (h : s.canon) (p : Fin 16) : (s.strike p).canon :=
  State.machineRecord_canon (foldl_canon (fun _ _ hs => State.fatalTeam_canon (State.dropHeldOf_canon hs _) ..) _ h) ..

theorem tileOp_canon (d : Desc) (t : BitVec 3) (g : Firing → BitVec 4096) {s : State} (h : s.canon) : outKept (tileOp d t g s) := plain_kept h (State.wb_canon h ..)

theorem State.tileIdx_canon (s : State) (i : BitVec 6) : stopKept (s.tileIdx i) := by
  grind only [State.tileIdx, check_cases, raise, Stop.canon, stopKept, bind_cases]

theorem sorusTrap_canon {α : Type} (sub val : Nat) : stopKept (sorusTrap (α := α) sub val) := by
  grind only [sorusTrap, raiseSub, Stop.canon, stopKept]

theorem State.claimed_canon (s : State) (init : Bool) : stopKept (s.claimed init) := by
  grind only [State.claimed, sorusTrap_canon, stopKept, bind_cases]

theorem State.descAddr_canon (s : State) (a : Word) : stopKept (s.descAddr a) := by
  grind only [State.descAddr, raiseSub, Stop.canon, stopKept]

theorem State.sorusDesc_canon {s : State} (h : s.canon) (a : Word) : pairKept (s.sorusDesc a) :=
  (State.descAddr_canon _ a).bind (fun _ h => h) fun _ _ => (State.access_canon h ..).bind (fun _ h => h) fun ⟨_, _⟩ hs =>
    (State.afterPosted_canon hs ..).bind (fun _ h => h) fun _ _ => State.usePath_canon hs _

theorem State.setSorus_canon {s : State} (h : s.canon) (x : Sorus) : (s.setSorus x).canon := h

theorem rateOp_canon (d : Desc) (a : BitVec 6) (new : Sorus → State → Int) {s : State} (h : s.canon) : outKept (rateOp d a new s) := by
  refine plain_kept h ((State.claimed_canon _ true).bind (fun _ h => h) fun x _ => guard_kept trivial (fun _ h => h) (guard_kept trivial (fun _ h => h) ?_))
  dsimp only
  split
  · exact trivial
  · split
    · exact trivial
    · exact State.setSorus_canon h _

theorem State.tableWord_canon {s : State} (h : s.canon) (c : Chan) (j w : Nat) : pairKept (s.tableWord c j w) :=
  (State.access_canon h ..).bind (fun _ h => h) fun ⟨_, _⟩ hs => (State.afterPosted_canon hs ..).bind (fun _ h => h) fun _ _ => State.usePath_canon hs _

theorem State.nextTau_canon {s : State} (h : s.canon) (x : Sorus) (c : Chan) : pairKept (s.nextTau x c) := by
  grind only [State.nextTau, State.tableWord_canon, pairKept, bind_cases]

theorem dueChan_canon (cs : Vector Chan 8) (w : Word) : stopKept (dueChan cs w) := by
  grind only [dueChan, raiseSub, Stop.canon, stopKept]

theorem State.decisionDraws_canon {s : State} (h : s.canon) (x : Sorus) (c : Chan) : pairKept (s.decisionDraws x c) := by
  grind only [State.decisionDraws, State.tableWord_canon, pairKept, bind_cases]

theorem State.sendDecision_canon {s : State} (h : s.canon) (c : Chan) (ch : Nat) (w : Word) : (s.sendDecision c ch w).canon := ite_canon h h

theorem State.gangPut_canon {s : State} (h : s.canon) (g : Gang) (p : Word × Nat × Nat) : (s.gangPut g p).canon := h

theorem State.peerShinv_canon {s : State} (h : s.canon) (pkg adm : Nat) (p : Fin 16) (i : Option Nat) : (s.peerShinv pkg adm p i).canon := by
  grind only [State.peerShinv, State.dropShards_canon, State.canon]

theorem State.peerTlbinv_canon {s : State} (h : s.canon) (pkg : Nat) (p : Fin 16) (w : Word) : (s.peerTlbinv pkg p w).canon := h

theorem State.evict_canon {s : State} (h : s.canon) (i : Fin 1024) (dword : Nat) : (s.evict i dword).canon := by
  grind only [State.evict, State.dropped_canon, State.onFrond_canon, State.writeHome_canon]

theorem State.hostRead_canon {s : State} (h : s.canon) (w : Window) (off n : Nat) : (s.hostRead w off n).canon := by
  grind only [State.hostRead, State.send_canon]

theorem State.vfWrite_canon {s : State} (h : s.canon) (p : Fin 16) (off : Nat) (v : Word) : (s.vfWrite p off v).canon := ite_canon (State.regWrite_canon h ..) h

theorem State.firmware_canon {s : State} (h : s.canon) (key n v : Nat) : (s.firmware key n v).canon := by
  grind only [State.firmware, State.homeDone_canon, Mem.wf_write, State.canon]

end Sys2Proof.Machine
end

section
/-! SUPPORT. Canonical memory (O56): the instructions. -/

namespace Sys2Proof.Machine
set_option Elab.async false

theorem execMovxRead_canon (d a : BitVec 6) (i : BitVec 10) {s : State} (h : s.canon) : outKept (execMovxRead d a i s) := by
  unfold execMovxRead
  refine plain_kept h ?_
  grind only [movxIdx_canon, State.wx_canon, stopKept, bind_cases, doneKept, Done.canon]

theorem execMovxWrite_canon (a : BitVec 6) (i : BitVec 10) (b : BitVec 6) {s : State} (h : s.canon) : outKept (execMovxWrite a i b s) := by
  unfold execMovxWrite
  refine plain_kept h ?_
  grind only [movxIdx_canon, State.wx_canon, stopKept, bind_cases, doneKept, Done.canon]

theorem execJal_canon (d : BitVec 6) (o : BitVec 19) {s : State} (h : s.canon) : outKept (execJal d o s) := plain_kept h h

theorem execJalr_canon (d a : BitVec 6) (i : BitVec 13) {s : State} (h : s.canon) : outKept (execJalr d a i s) := by
  unfold execJalr
  refine plain_kept h ?_
  grind only [check_cases, raise, State.wx_canon, Stop.canon, bind_cases, doneKept, Done.canon]

theorem execLoopn_canon (a : BitVec 6) (o : BitVec 18) {s : State} (h : s.canon) : outKept (execLoopn a o s) := by
  unfold execLoopn
  refine plain_kept h ?_
  grind only [State.wx_canon, doneKept, Done.canon]

theorem execRep_canon (l : BitVec 4) (c : BitVec 6) (m st : BitVec 4) {s : State} (h : s.canon) : outKept (execRep l c m st s) := plain_kept h h

theorem execGang_canon (n : GangN) {s : State} (h : s.canon) : outKept (execGang n s) := by
  unfold execGang
  refine issue_kept h ?_
  dsimp only
  split
  · exact h
  · split
    · exact h
    · exact foldl_canon (fun _ _ hs => State.onFiring_canon hs ..) _ h

theorem standing_kept {α : Type} {s : State} (h : s.canon) {x : Except Stop (State × α)} (hx : pairKept x) : pairKept (standing s x) := by
  rw [standing_cases]
  split
  · exact h
  · exact hx

theorem State.ringSlot_canon {s : State} (h : s.canon) (p : Fin 16) (d : Fin 4) (slot : Nat) (recd : List Word) :
    State.canon (match s.unitPlace p d false slot 128 true with
      | some (t, key) => t.homeStore p key 128 (writeDwords t.mem key recd)
      | none => s) := by
  have hu := State.unitPlace_canon h p d false slot 128 true
  split
  · rename_i hr
    have ht := hu.of_some hr
    exact State.homeStore_canon ht _ _ _ (Mem.wf_writeDwords ht _ _)
  · exact h

theorem execLaunch_canon (d a b : BitVec 6) {s : State} (h : s.canon) : outKept (execLaunch d a b s) := by
  unfold execLaunch
  refine issue_kept h ((check_kept _ _ _).bind (C := doneKept) (fun _ h => h) fun _ _ => ?_)
  split
  · exact trivial
  · refine (check_kept _ _ _).bind (C := doneKept) (fun _ h => h) fun _ _ => (State.release_canon h _).bind (fun _ h => h) fun s1 h1 =>
      (standing_kept h1 (State.placesFrom_canon h1 ..)).bind (fun _ h => h) fun ⟨s2, pls⟩ h2 =>
      (standing_kept h1 (State.readWords_canon h2 ..)).bind (fun _ h => h) fun ⟨s3, recd⟩ h3 => ?_
    dsimp only
    split
    · exact State.wx_canon h3 ..
    · exact State.wx_canon (State.pokeQueue_canon (State.onQueue_canon (State.ringSlot_canon h3 ..) ..) ..) ..

theorem execJoin_canon (d a : BitVec 6) {s : State} (h : s.canon) : outKept (execJoin d a s) := by
  unfold execJoin
  exact plain_kept h (guard_kept trivial (fun _ h => h) ((State.objAt_canon h ..).bind (fun _ h => h) fun ⟨s, pl⟩ hs =>
    (check_kept _ _ _).bind (C := doneKept) (fun _ h => h) fun _ _ => guard_kept (x := block ..) hs (fun _ h => h) (State.upd_canon (State.putJoin_canon hs _) _)))

theorem execLeave_canon (a : BitVec 6) {s : State} (h : s.canon) : outKept (execLeave a s) := by
  unfold execLeave
  refine plain_kept h ?_
  grind only [State.objAt_canon, check_cases, raise, State.upd_canon, State.leaveGroup_canon, Desc.illWord, Stop.canon, pairKept, bind_cases, doneKept,
    Done.canon]

theorem execSget_canon (d : BitVec 6) {s : State} (h : s.canon) : outKept (execSget d s) := by
  unfold execSget
  refine plain_kept h ?_
  grind only [State.wx_canon, State.onFrond_canon, doneKept, Done.canon]

theorem execHswait_canon (d : BitVec 6) (n : BitVec 4) (b : BitVec 6) {s : State} (h : s.canon) : outKept (execHswait d n b s) := by
  unfold execHswait
  refine plain_kept h ?_
  grind only [State.amount_canon, State.wx_canon, State.onFrond_canon, State.acquire_canon, block, Stop.canon, stopKept, bind_cases, doneKept, Done.canon]

theorem execHstry_canon (d : BitVec 6) (n : BitVec 4) (b : BitVec 6) {s : State} (h : s.canon) : outKept (execHstry d n b s) := by
  unfold execHstry
  refine plain_kept h ?_
  grind only [State.amount_canon, State.onFrond_canon, State.wx_canon, State.acquire_canon, stopKept, bind_cases, doneKept, Done.canon]

theorem execHspost_canon (n : BitVec 4) (b : BitVec 6) {s : State} (h : s.canon) : outKept (execHspost n b s) := by
  unfold execHspost
  refine plain_kept h ?_
  grind only [State.amount_canon, State.release_canon, State.setSem_canon, stateKept, stopKept, bind_cases, doneKept, Done.canon]

theorem execHsset_canon (n : BitVec 4) (b : BitVec 6) {s : State} (h : s.canon) : outKept (execHsset n b s) := by
  unfold execHsset
  refine plain_kept h ?_
  grind only [State.amount_canon, State.release_canon, State.setSem_canon, stateKept, stopKept, bind_cases, doneKept, Done.canon]

theorem execHsrd_canon (d : BitVec 6) (n : BitVec 4) {s : State} (h : s.canon) : outKept (execHsrd d n s) := plain_kept h h

theorem execLd_canon (t : LdTy) (d a : BitVec 6) (i : BitVec 10) {s : State} (h : s.canon) : outKept (execLd t d a i s) := by
  unfold execLd
  refine plain_kept h ?_
  grind only [State.access_canon, State.scalarLoad_canon, doneKept, pairKept, bind_cases]

theorem execSt_canon (t : StSz) (a : BitVec 6) (i : BitVec 10) (b : BitVec 6) {s : State} (h : s.canon) : outKept (execSt t a i b s) := by
  unfold execSt
  refine plain_kept h ?_
  grind only [State.access_canon, State.scalarStore_canon, doneKept, pairKept, bind_cases]

theorem execLdfe_canon (m : LdMode) (d a : BitVec 6) (i : BitVec 10) {s : State} (h : s.canon) : outKept (execLdfe m d a i s) := by
  unfold execLdfe
  refine plain_kept h ?_
  grind only [State.access_canon, State.scalarFe_canon, doneKept, pairKept, bind_cases]

theorem execStfe_canon (m : StMode) (a : BitVec 6) (i : BitVec 10) (b : BitVec 6) {s : State} (h : s.canon) : outKept (execStfe m a i b s) := by
  unfold execStfe
  refine plain_kept h ?_
  grind only [State.access_canon, State.scalarFe_canon, doneKept, pairKept, bind_cases]

theorem execVldx_canon (t : ElemTy) (d b i : BitVec 5) (k : BitVec 3) {s : State} (h : s.canon) : outKept (execVldx t d b i k s) := by
  unfold execVldx
  refine plain_kept h ((State.loadRoom_canon h _).bind (fun _ h => h) fun _ _ => guard_kept (State.lockRoom_canon h _) (fun _ h => h)
    ((State.lanePlaces_canon h _ (fun s i hs => State.access_canon hs ..) _).bind (fun _ h => h) fun ⟨s, pls, tr⟩ hs => ?_))
  have hr := State.laneRun_canon (ac := .load) (n := esize t) (act := fun s i pl lane => s.laneLoad pl (esize t) (.lane d i (esize t) (signedTy t)) (laneRef false lane))
    (fun _ _ _ _ hs => State.laneLoad_canon hs ..) hs pls tr
  dsimp only
  split
  · rename_i hq
    rw [hq] at hr
    split
    · exact hr
    · exact State.onFrond_canon hr _ _
  · rename_i hq
    rw [hq] at hr
    exact State.gatherOut_canon hr ..
  · exact hr

theorem execVstx_canon (t : ElemTy) (b i d : BitVec 5) (k : BitVec 3) {s : State} (h : s.canon) : outKept (execVstx t b i d k s) := by
  unfold execVstx
  refine plain_kept h ?_
  grind only [State.lanePlaces_canon, State.access_canon, State.laneRun_canon, State.laneStore_canon, doneKept, pairKept, bind_cases]

theorem execLdt_canon (m : LdtMode) (t : ElemTy) (d a b : BitVec 6) {s : State} (h : s.canon) : outKept (execLdt m t d a b s) := by
  unfold execLdt
  refine plain_kept h ?_
  grind only [State.locate_canon, State.elemPlace_canon, State.scalarLoad_canon, State.scalarFe_canon, doneKept, pairKept, bind_cases]

theorem execVldt_canon (t : ElemTy) (d : BitVec 5) (a : BitVec 6) (b : BitVec 5) (k : BitVec 2) {s : State} (h : s.canon) : outKept (execVldt t d a b k s) := by
  unfold execVldt
  refine plain_kept h ?_
  grind only [State.loadRoom_canon, State.lanePlaces_canon, State.laneElem_canon, State.laneRun_canon, State.laneLoad_canon, doneKept, pairKept, stopKept,
    bind_cases]

theorem execStt_canon (m : SttMode) (t : ElemTy) (a b d : BitVec 6) {s : State} (h : s.canon) : outKept (execStt m t a b d s) := by
  unfold execStt
  refine plain_kept h ?_
  grind only [State.locate_canon, State.elemPlace_canon, State.scalarStore_canon, State.scalarFe_canon, doneKept, pairKept, bind_cases]

theorem execVstt_canon (t : ElemTy) (a : BitVec 6) (b d : BitVec 5) (k : BitVec 2) {s : State} (h : s.canon) : outKept (execVstt t a b d k s) := by
  unfold execVstt
  refine plain_kept h ?_
  grind only [State.lanePlaces_canon, State.laneElem_canon, State.laneRun_canon, State.laneStore_canon, doneKept, pairKept, bind_cases]

theorem execShinv_canon (sc : Scope) (a : BitVec 6) {s : State} (h : s.canon) : outKept (execShinv sc a s) := by
  unfold execShinv
  exact plain_kept h ((State.release_canon h _).bind (fun _ h => h) fun s hs =>
    foldl_canon (fun _ _ hs => State.send_canon hs _) _ (State.dropShards_canon hs ..))

theorem execShloc_canon (d a b : BitVec 6) {s : State} (h : s.canon) : outKept (execShloc d a b s) := by
  unfold execShloc
  refine plain_kept h ?_
  grind only [State.locate_canon, State.wx_canon, pairKept, bind_cases, doneKept, Done.canon]

theorem execRel_canon (sc : Scope) {s : State} (h : s.canon) : outKept (execRel sc s) := by
  unfold execRel
  refine plain_kept h ?_
  grind only [State.release_canon, stateKept, bind_cases, doneKept, Done.canon]

theorem execAcq_canon (sc : Scope) {s : State} (h : s.canon) : outKept (execAcq sc s) := by
  unfold execAcq
  refine plain_kept h ?_
  grind only [block, State.acquire_canon, Stop.canon, doneKept, Done.canon]

theorem execFence_canon (sc : Scope) {s : State} (h : s.canon) : outKept (execFence sc s) := by
  unfold execFence
  refine plain_kept h ?_
  grind only [State.release_canon, State.acquire_canon, stateKept, bind_cases, doneKept, Done.canon]

theorem execXcadd_canon (t : AF) (a b : BitVec 6) {s : State} (h : s.canon) : outKept (execXcadd t a b s) := plain_kept h (State.bankOne_canon h ..)

theorem execXcrd_canon (t : AF) (d a : BitVec 6) {s : State} (h : s.canon) : outKept (execXcrd t d a s) := plain_kept h (State.bankOne_canon h ..)

theorem execXcclr_canon (a : BitVec 6) {s : State} (h : s.canon) : outKept (execXcclr a s) := plain_kept h (State.bankOne_canon h ..)

theorem execXcrdclr_canon (t : AF) (d a : BitVec 6) {s : State} (h : s.canon) : outKept (execXcrdclr t d a s) := plain_kept h (State.bankOne_canon h ..)

theorem execVbsum_canon (t : ElemTy) (b d : BitVec 5) (k : BitVec 3) {s : State} (h : s.canon) : outKept (execVbsum t b d k s) := by
  unfold execVbsum
  refine plain_kept h ((State.afterEarlier_canon h).bind (fun _ h => h) fun _ _ => (State.lockRoom_canon h _).bind (fun _ h => h) fun _ _ =>
    (State.lanePlaces_canon h 4 (fun s i hs => State.reach_canon hs ..) _).bind (fun _ h => h) fun ⟨s', pls, tr⟩ hs => ?_)
  dsimp only
  split
  · exact trivial
  · exact (State.tagRoom_canon h _).bind (fun _ h => h) fun _ _ => State.vbsumDone_canon (State.onFrond_canon (State.postLanes_canon hs ..) _ _) ..

theorem execQget_canon (d : BitVec 6) (n : BitVec 4) {s : State} (h : s.canon) : outKept (execQget d n s) := by
  unfold execQget
  refine issue_kept h ?_
  grind only [State.upd_canon, State.popQ_canon, State.wx_canon, pairKept, bind_cases, doneKept, Done.canon]

theorem execQput_canon (n : BitVec 4) (b : BitVec 6) {s : State} (h : s.canon) : outKept (execQput n b s) := by
  unfold execQput
  refine issue_kept h ?_
  grind only [State.pushQ_canon, stateKept, bind_cases, doneKept, Done.canon]

theorem execVqget_canon (d : BitVec 5) (n : BitVec 4) {s : State} (h : s.canon) : outKept (execVqget d n s) := by
  unfold execVqget
  refine issue_kept h ?_
  grind only [State.popQ_canon, State.wv_canon, pairKept, bind_cases, doneKept, Done.canon]

theorem execVqput_canon (n : BitVec 4) (b : BitVec 5) {s : State} (h : s.canon) : outKept (execVqput n b s) := by
  unfold execVqput
  refine issue_kept h ?_
  grind only [State.pushQ_canon, stateKept, bind_cases, doneKept, Done.canon]

theorem execQcnt_canon (d : BitVec 6) (n : BitVec 4) {s : State} (h : s.canon) : outKept (execQcnt d n s) := by
  have hw := fun w => State.wx_canon h d w
  unfold execQcnt
  refine plain_kept h ?_
  dsimp only
  split
  · split
    · exact trivial
    · exact hw _
  split
  · split
    · exact hw _
    · exact hw _
  split
  · exact State.wx_canon (State.upd_canon h _) ..
  split
  · exact hw _
  · exact hw _

theorem execSend_canon (a b p : BitVec 6) {s : State} (h : s.canon) : outKept (execSend a b p s) := by
  unfold execSend
  exact plain_kept h ((State.payload_canon _ _ _).bind (fun _ h => h) fun _ _ => (check_kept _ _ _).bind (C := doneKept) (fun _ h => h) fun _ _ =>
    guard_kept (x := block ..) h (fun _ h => h) (State.transmit_canon h ..))

theorem execSendv_canon (a : BitVec 5) (b p : BitVec 6) {s : State} (h : s.canon) : outKept (execSendv a b p s) := by
  unfold execSendv
  refine plain_kept h ((State.payload_canon _ _ _).bind (fun _ h => h) fun ws _ => ?_)
  dsimp only
  split
  · exact h
  · have hl := State.sendLanes_canon h (s.fir.rv a) (s.fir.header (s.rx b)) ws (List.range 64)
    show doneKept (match s.sendLanes (s.fir.rv a) (s.fir.header (s.rx b)) ws (List.range 64) with
      | (t, none) => .ok (.done t)
      | (t, some tr) => .error (.trapIn t tr))
    split
    · rename_i hq
      rw [hq] at hl
      exact hl
    · rename_i hq
      rw [hq] at hl
      exact hl

theorem execCwr_canon (sel : BitVec 3) (a : BitVec 6) {s : State} (h : s.canon) : outKept (execCwr sel a s) := plain_kept h h

theorem State.withAgenda_canon {s : State} (h : s.canon) (l : List Ev) : State.canon { s with agenda := l } := h

theorem execCgo_canon (d : BitVec 6) {s : State} (h : s.canon) : outKept (execCgo d s) := by
  unfold execCgo
  refine plain_kept h ?_
  dsimp only
  split
  · exact trivial
  refine (State.afterEarlier_canon h).bind (C := doneKept) (fun _ h => h) fun _ _ => (State.copySide_canon h ..).bind (C := doneKept) (fun _ h => h) fun ⟨s, sd, sp⟩ hs =>
    (State.copySide_canon hs ..).bind (C := doneKept) (fun _ h => h) fun ⟨s, dd, dp⟩ hs => ?_
  dsimp only
  split
  · exact State.nextFree_canon hs
  · refine (State.checkTb_canon hs _).bind (C := doneKept) (fun _ h => h) fun _ _ => ?_
    split
    · exact State.wx_canon hs ..
    · split
      · exact State.withAgenda_canon (State.setChannel_canon hs ..) _
      · exact (State.lockRoom_canon hs _).of_error ‹_›
      · exact State.wx_canon (State.push_canon (State.onFrond_canon (State.setChannel_canon hs ..) _ _) ..) ..

theorem execCwp_canon (d a : BitVec 6) {s : State} (h : s.canon) : outKept (execCwp d a s) := plain_kept h h

theorem execCrd_canon (sel : BitVec 3) (d : BitVec 6) {s : State} (h : s.canon) : outKept (execCrd sel d s) := plain_kept h h

theorem execTxinit_canon (a b : BitVec 6) {s : State} (h : s.canon) : outKept (execTxinit a b s) := by
  unfold execTxinit
  refine plain_kept h ?_
  grind only [State.objAt_canon, check_cases, raise, State.putBarrier_canon, Stop.canon, pairKept, bind_cases, doneKept, Done.canon]

theorem execTxarr_canon (d a : BitVec 6) {s : State} (h : s.canon) : outKept (execTxarr d a s) := by
  unfold execTxarr
  refine plain_kept h ?_
  grind only [State.objNear_canon, State.release_canon, State.usePath_canon, State.wx_canon, State.updateBarrier_canon, Stop.canon, pairKept, stateKept,
    bind_cases, doneKept, Done.canon]

theorem execTxexp_canon (a b : BitVec 6) {s : State} (h : s.canon) : outKept (execTxexp a b s) := by
  unfold execTxexp
  refine plain_kept h ?_
  grind only [State.objAt_canon, check_cases, raise, State.updateBarrier_canon, Stop.canon, pairKept, bind_cases, doneKept, Done.canon]

theorem execTxwait_canon (a b : BitVec 6) {s : State} (h : s.canon) : outKept (execTxwait a b s) := by
  unfold execTxwait
  refine plain_kept h ?_
  grind only [State.objAt_canon, block, State.acquire_canon, Stop.canon, pairKept, bind_cases, doneKept, Done.canon]

theorem execTxtry_canon (d a b : BitVec 6) {s : State} (h : s.canon) : outKept (execTxtry d a b s) := by
  unfold execTxtry
  refine plain_kept h ?_
  grind only [State.objAt_canon, State.wx_canon, State.acquire_canon, pairKept, bind_cases, doneKept, Done.canon]

theorem execDqpush_canon (d b : BitVec 6) {s : State} (h : s.canon) : outKept (execDqpush d b s) := by
  unfold execDqpush
  refine plain_kept h ((State.logged_canon h ..).bind (fun _ h => h) fun s hs => ?_)
  have hw : ∀ a v c w, ((s.mem.write a 8 v).write c 4 w).wf = true := fun a v c w => Mem.wf_write (Mem.wf_write hs _ _ _) _ _ _
  split
  · exact State.wx_canon hs ..
  · split
    · exact State.wx_canon (s := { s with mem := _ }) (hw ..) ..
    · exact State.wx_canon hs ..

theorem execDqpop_canon (d : BitVec 6) {s : State} (h : s.canon) : outKept (execDqpop d s) := by
  unfold execDqpop
  refine plain_kept h ?_
  grind only [State.logged_canon, State.pair_canon, stateKept, bind_cases, State.canon, Mem.wf_write, doneKept, Done.canon]

theorem execDqsteal_canon (d a : BitVec 6) {s : State} (h : s.canon) : outKept (execDqsteal d a s) := by
  unfold execDqsteal
  refine plain_kept h ?_
  grind only [State.logged_canon, State.pair_canon, block, State.push_canon, Stop.canon, stateKept, bind_cases, doneKept, Done.canon]

theorem execVredq_canon (y : RF) (d : BitVec 5) (n : BitVec 4) (c : BitVec 6) (k : BitVec 3) {s : State} (h : s.canon) : outKept (execVredq y d n c k s) := by
  unfold execVredq
  refine issue_kept h ?_
  grind only [State.popQ_canon, State.wx_canon, State.vres_canon, State.upd_canon, pairKept, bind_cases, doneKept, Done.canon]

theorem execVcmp_canon (p : VPred) (t : CmpTy) (d : BitVec 3) (a b : BitVec 5) (k : BitVec 3) {s : State} (h : s.canon) : outKept (execVcmp p t d a b k s) :=
  plain_kept h h

theorem execVcompress_canon (d a : BitVec 5) (k : BitVec 3) {s : State} (h : s.canon) : outKept (execVcompress d a k s) := plain_kept h h

theorem execVins_canon (w : IW) (d : BitVec 5) (x : BitVec 6) (j : BitVec 5) {s : State} (h : s.canon) : outKept (execVins w d x j s) := plain_kept h h

theorem execVext_canon (w : IW) (u : Bool) (d : BitVec 6) (v j : BitVec 5) {s : State} (h : s.canon) : outKept (execVext w u d v j s) := plain_kept h h

theorem execKset_canon (d : BitVec 3) (x : BitVec 6) {s : State} (h : s.canon) : outKept (execKset d x s) := plain_kept h h

theorem execKpopc_canon (d : BitVec 6) (q : BitVec 3) {s : State} (h : s.canon) : outKept (execKpopc d q s) := plain_kept h h

theorem execVcvt_canon (m : RM) (z hi : Bool) (d a : BitVec 5) (k : BitVec 3) {s : State} (h : s.canon) : outKept (execVcvt m z hi d a k s) := by
  unfold execVcvt
  exact prefixed_canon _ _ h (State.vres_canon h ..)

theorem execVcvto_canon (m : RM) (z : Bool) (d : BitVec 5) (q : BitVec 3) (a : BitVec 5) (k : BitVec 3) {s : State} (h : s.canon) : outKept (execVcvto m z d q a k s) :=
  prefixed_canon _ _ h h

theorem execVplane_canon (d a : BitVec 5) {s : State} (h : s.canon) : outKept (execVplane d a s) := prefixed_canon _ _ h h

theorem execVunplane_canon (d a : BitVec 5) {s : State} (h : s.canon) : outKept (execVunplane d a s) := prefixed_canon _ _ h h

theorem execFmt_canon (t u : ElemTy) (c : Bool) (x : BitVec 6) (p : BitVec 3) (z : Bool) {s : State} (h : s.canon) : outKept (execFmt t u c x p z s) := plain_kept h h

theorem execSpdraw_canon (y : SpTy) (d a b : BitVec 6) {s : State} (h : s.canon) : outKept (execSpdraw y d a b s) := plain_kept h h

theorem execSpuni_canon (y : SpTy) (d a b : BitVec 6) {s : State} (h : s.canon) : outKept (execSpuni y d a b s) := plain_kept h h

theorem execSpexp_canon (y : SpTy) (d a b : BitVec 6) {s : State} (h : s.canon) : outKept (execSpexp y d a b s) := plain_kept h h

theorem execDigest_canon (a b : BitVec 6) {s : State} (h : s.canon) : outKept (execDigest a b s) := by
  unfold execDigest
  refine plain_kept h ?_
  grind only [State.context_canon, pairKept, bind_cases, State.canon, Mem.wf_write, doneKept, Done.canon]

theorem execDigestm_canon (a b n : BitVec 6) {s : State} (h : s.canon) : outKept (execDigestm a b n s) := by
  unfold execDigestm
  refine plain_kept h ?_
  grind only [State.context_canon, State.digestStep_canon, doneKept, pairKept, bind_cases]

theorem execMma_canon (t c : Bool) (a : BitVec 2) (sa : Bool) (ra : BitVec 5) (sb : Bool) (rb : BitVec 5) (k : BitVec 6) {s : State} (h : s.canon) :
    outKept (execMma t c a sa ra sb rb k s) := by
  unfold execMma
  refine issue_kept h (guard_kept trivial (fun _ h => h) ((State.mmaTile_canon _ _).bind (fun _ h => h) fun _ _ => (State.mmaTile_canon _ _).bind (fun _ h => h) fun _ _ =>
    (MmaOp.aligned_canon _).bind (fun _ h => h) fun _ _ => (MmaOp.aligned_canon _).bind (fun _ h => h) fun _ _ =>
    (MmaOp.scaleAligned_canon _).bind (fun _ h => h) fun _ _ => (MmaOp.scaleAligned_canon _).bind (fun _ h => h) fun _ _ =>
    (MmaOp.inside_canon ..).bind (fun _ h => h) fun _ _ => (MmaOp.inside_canon ..).bind (fun _ h => h) fun _ _ =>
    guard_kept (x := block ..) h (fun _ h => h) ((State.afterEarlier_canon h).bind (fun _ h => h) fun _ _ => (State.lockRoom_canon h _).bind (fun _ h => h) fun _ _ => ?_)))
  exact State.upd_canon (maybe_canon' (State.onFrond_canon (State.onCore_canon (maybe_canon' (maybe_canon (maybe_canon h fun h => State.touchTile_canon h _)
    fun h => State.touchTile_canon h _) fun h => State.zeroAcc_canon h ..) _ _) _ _) fun h => State.push_canon h ..) _

theorem execAccrd_canon (v : BitVec 5) (x : BitVec 6) (a : BitVec 2) (r : BitVec 6) {s : State} (h : s.canon) : outKept (execAccrd v x a r s) := by
  unfold execAccrd
  refine plain_kept h ?_
  grind only [check_cases, raise, State.wx_canon, State.wv_canon, Stop.canon, bind_cases, doneKept, Done.canon]

theorem execAcczero_canon (d : BitVec 2) {s : State} (h : s.canon) : outKept (execAcczero d s) := by
  unfold execAcczero
  refine plain_kept h ?_
  grind only [State.accFree_canon, State.upd_canon, stopKept, bind_cases, doneKept, Done.canon]

theorem execAccld_canon (d : BitVec 2) (a : BitVec 6) {s : State} (h : s.canon) : outKept (execAccld d a s) := by
  unfold execAccld
  exact plain_kept h ((State.accFree_canon h _).bind (fun _ h => h) fun _ _ => (State.accPlaces_canon h ..).bind (fun _ h => h) fun ⟨_, _⟩ hs =>
    (State.readWords_canon hs ..).bind (fun _ h => h) fun ⟨_, _⟩ hs => State.upd_canon hs _)

theorem execAccst_canon (a : BitVec 6) (c : BitVec 2) {s : State} (h : s.canon) : outKept (execAccst a c s) := by
  unfold execAccst
  exact plain_kept h ((State.accFree_canon h _).bind (fun _ h => h) fun _ _ => (State.accPlaces_canon h ..).bind (fun _ h => h) fun ⟨_, _⟩ hs =>
    (State.writeWords_canon hs ..).bind (fun _ h => h) fun _ hs => hs)

theorem execAccstat_canon (x : BitVec 6) (a : BitVec 2) (c : Bool) {s : State} (h : s.canon) : outKept (execAccstat x a c s) := by
  unfold execAccstat
  refine plain_kept h ?_
  grind only [State.accFree_canon, State.wx_canon, State.upd_canon, stopKept, bind_cases, doneKept, Done.canon]

theorem execAccswp_canon (d a : BitVec 2) {s : State} (h : s.canon) : outKept (execAccswp d a s) := by
  unfold execAccswp
  refine plain_kept h ?_
  grind only [State.accFree_canon, State.upd_canon, stopKept, bind_cases, doneKept, Done.canon]

theorem execTld_canon (d : BitVec 3) (a : BitVec 6) (p : BitVec 5) (col : Bool) {s : State} (h : s.canon) : outKept (execTld d a p col s) := by
  unfold execTld
  refine plain_kept h ?_
  grind only [State.tilePlaces_canon, State.readParts_canon, State.touchTile_canon, State.upd_canon, block, Stop.canon, pairKept, bind_cases, doneKept,
    Done.canon]

theorem execTst_canon (a : BitVec 6) (t : BitVec 3) (p : BitVec 5) (col : Bool) {s : State} (h : s.canon) : outKept (execTst a t p col s) := by
  unfold execTst
  refine plain_kept h ?_
  grind only [State.tilePlaces_canon, State.touchTile_canon, State.writeParts_canon, pairKept, stateKept, bind_cases, doneKept, Done.canon]

theorem execTzero_canon (d : BitVec 3) {s : State} (h : s.canon) : outKept (execTzero d s) := by
  unfold execTzero
  refine plain_kept h ?_
  grind only [State.tileOk_canon, State.upd_canon, State.touchTile_canon, block, Stop.canon, stopKept, bind_cases, doneKept, Done.canon]

theorem execTmov_canon (d a : BitVec 3) {s : State} (h : s.canon) : outKept (execTmov d a s) := by
  unfold execTmov
  exact plain_kept h ((State.tileOk_canon _ _).bind (fun _ h => h) fun _ _ => (State.tileOk_canon _ _).bind (fun _ h => h) fun _ _ =>
    guard_kept (x := block ..) h (fun _ h => h) (State.upd_canon (State.touchTile_canon (State.touchTile_canon h _) _) _))

theorem execOcmp_canon (p : OPred) (t : OcTy) (d : BitVec 3) (a b : BitVec 5) (k : BitVec 3) {s : State} (h : s.canon) : outKept (execOcmp p t d a b k s) :=
  plain_kept h h

theorem execTrap_canon (a : BitVec 6) {s : State} (h : s.canon) : outKept (execTrap a s) := plain_kept h h

theorem execGangend_canon {s : State} (h : s.canon) : outKept (execGangend s) := plain_kept h h

theorem execRetire_canon {s : State} (h : s.canon) : outKept (execRetire s) := by
  unfold execRetire
  refine issue_kept h ?_
  grind only [block, State.release_canon, State.endFiring_canon, State.retiredOf_canon, Stop.canon, stateKept, bind_cases, doneKept, Done.canon]

theorem execSput_canon {s : State} (h : s.canon) : outKept (execSput s) := by
  unfold execSput
  refine plain_kept h ?_
  grind only [State.onFrond_canon, raiseSub, Stop.canon, doneKept, Done.canon]

theorem execTret_canon {s : State} (h : s.canon) : outKept (execTret s) := by
  unfold execTret
  grind only [State.takeTrap_canon, State.upd_canon, outKept_next]

theorem execHalt_canon {s : State} (h : s.canon) : outKept (execHalt s) := by
  unfold execHalt
  refine issue_kept h ?_
  grind only [State.withdraw_canon, State.stopFor_canon, State.canon, doneKept, Done.canon]

theorem execBtpopr_canon (d : BitVec 5) (b : BitVec 3) {s : State} (h : s.canon) : outKept (execBtpopr d b s) := plain_kept h h

theorem execBtpopc_canon (d : BitVec 5) (b : BitVec 3) {s : State} (h : s.canon) : outKept (execBtpopc d b s) := plain_kept h h

theorem execBtrowk_canon (d b : BitVec 3) (i : BitVec 6) {s : State} (h : s.canon) : outKept (execBtrowk d b i s) := by
  unfold execBtrowk
  refine plain_kept h ?_
  grind only [State.tileIdx_canon, State.wk_canon, stopKept, bind_cases, doneKept, Done.canon]

theorem execBtcolk_canon (d b : BitVec 3) (i : BitVec 6) {s : State} (h : s.canon) : outKept (execBtcolk d b i s) := by
  unfold execBtcolk
  refine plain_kept h ?_
  grind only [State.tileIdx_canon, State.wk_canon, stopKept, bind_cases, doneKept, Done.canon]

theorem execBtkrow_canon (d q : BitVec 3) (i : BitVec 6) {s : State} (h : s.canon) : outKept (execBtkrow d q i s) := by
  unfold execBtkrow
  refine plain_kept h ?_
  grind only [State.tileIdx_canon, State.wb_canon, stopKept, bind_cases, doneKept, Done.canon]

theorem execBtkcol_canon (d q : BitVec 3) (i : BitVec 6) {s : State} (h : s.canon) : outKept (execBtkcol d q i s) := by
  unfold execBtkcol
  refine plain_kept h ?_
  grind only [State.tileIdx_canon, State.wb_canon, stopKept, bind_cases, doneKept, Done.canon]

theorem execBtld_canon (d : BitVec 3) (a : BitVec 6) {s : State} (h : s.canon) : outKept (execBtld d a s) := by
  unfold execBtld
  refine plain_kept h ?_
  grind only [State.ownSpad_canon, State.afterPosted_canon, State.loadAt_canon, State.wb_canon, pairKept, stopKept, bind_cases, doneKept, Done.canon]

theorem execBtst_canon (a : BitVec 6) (b : BitVec 3) {s : State} (h : s.canon) : outKept (execBtst a b s) := by
  unfold execBtst
  refine plain_kept h ?_
  grind only [State.ownSpad_canon, State.afterPosted_canon, State.storeAt_canon, pairKept, stopKept, bind_cases, doneKept, Done.canon]

theorem execSinit_canon (a : BitVec 6) {s : State} (h : s.canon) : outKept (execSinit a s) := by
  unfold execSinit
  exact plain_kept h ((State.claimed_canon _ _).bind (fun _ h => h) fun x _ => (State.sorusDesc_canon h _).bind (fun _ h => h) fun ⟨t, _⟩ ht =>
    guard_kept trivial (fun _ h => h) (State.setSorus_canon ht _))

theorem execNextev_canon (d a : BitVec 6) {s : State} (h : s.canon) : outKept (execNextev d a s) := by
  unfold execNextev
  refine plain_kept h ?_
  grind only [State.claimed_canon, State.pair_canon, State.setSorus_canon, stopKept, bind_cases, doneKept, Done.canon]

theorem execSwrd_canon (d a sel : BitVec 6) {s : State} (h : s.canon) : outKept (execSwrd d a sel s) := by
  unfold execSwrd
  refine plain_kept h ?_
  grind only [State.claimed_canon, raiseSub, State.wx_canon, Stop.canon, stopKept, bind_cases, doneKept, Done.canon]

theorem execSclk_canon (d : BitVec 6) {s : State} (h : s.canon) : outKept (execSclk d s) := by
  unfold execSclk
  refine plain_kept h ?_
  grind only [State.claimed_canon, State.pair_canon, stopKept, bind_cases, doneKept, Done.canon]

theorem execBinit_canon (a : BitVec 6) {s : State} (h : s.canon) : outKept (execBinit a s) := by
  unfold execBinit
  refine plain_kept h ((State.descAddr_canon _ _).bind (fun _ h => h) fun _ _ => (State.claimed_canon _ _).bind (fun _ h => h) fun x _ =>
    (State.sorusDesc_canon h _).bind (fun _ h => h) fun ⟨t, d⟩ ht => ?_)
  dsimp only
  split
  · exact State.setSorus_canon ht _
  · exact guard_kept trivial (fun _ h => h) (guard_kept trivial (fun _ h => h) (guard_kept trivial (fun _ h => h)
      ((State.nextTau_canon ht ..).bind (fun _ h => h) fun ⟨t, _⟩ ht => State.setSorus_canon ht _)))

theorem execBdec_canon (d a : BitVec 6) {s : State} (h : s.canon) : outKept (execBdec d a s) := by
  unfold execBdec
  exact plain_kept h ((State.claimed_canon _ _).bind (fun _ h => h) fun x _ => (dueChan_canon ..).bind (fun _ h => h) fun ⟨_, _⟩ _ => guard_kept trivial (fun _ h => h)
    ((State.decisionDraws_canon h ..).bind (fun _ h => h) fun ⟨t, _⟩ ht => guard_kept (x := block ..) h (fun _ h => h)
      ((State.nextTau_canon ht ..).bind (fun _ h => h) fun ⟨t, _⟩ ht =>
        State.wx_canon (ite_canon (State.upd_canon (State.setSorus_canon ht _) _) (State.sendDecision_canon (State.setSorus_canon ht _) ..)) ..)))

theorem execBrecv_canon (d a : BitVec 6) {s : State} (h : s.canon) : outKept (execBrecv d a s) := by
  unfold execBrecv
  refine plain_kept h ((State.claimed_canon _ _).bind (fun _ h => h) fun x _ => (dueChan_canon ..).bind (fun _ h => h) fun ⟨ch, c⟩ _ => ?_)
  have hnext : ∀ q : List Word, stateKept (do
      let (s, tau) ← s.nextTau x c
      .ok (s.setSorus { x with inc := x.inc.set ch { c with k := c.k + 1, tau := tau, due := false, queue := q } })) :=
    fun q => (State.nextTau_canon h ..).bind (fun _ h => h) fun ⟨s, _⟩ hs => State.setSorus_canon hs _
  dsimp only
  split
  · split
    · exact (hnext []).bind (fun _ h => h) fun t ht => State.wx_canon (State.upd_canon ht _) ..
    · exact h
  · split
    · exact trivial
    · exact (hnext _).bind (fun _ h => h) fun t ht => State.wx_canon (State.giveCredit_canon ht ..) ..

theorem execHint_canon (i : BitVec 25) {s : State} (h : s.canon) : outKept (execHint i s) := by
  unfold execHint
  exact plain_kept h h

end Sys2Proof.Machine
end

section
/-! SUPPORT. Canonical memory (O56): the events. -/

namespace Sys2Proof.Machine
set_option Elab.async false

theorem execLoadDataReturn_canon {s : State} (h : s.canon) : outKept (execLoadDataReturn s) := by
  unfold execLoadDataReturn
  grind only [State.answer_canon, State.copyAnswer_canon, outKept_next]

theorem execGatherLaneReturn_canon {s : State} (h : s.canon) : outKept (execGatherLaneReturn s) := by
  unfold execGatherLaneReturn
  grind only [State.unlock_canon, State.answer_canon, outKept_next]

theorem execHostLqtailWrite_canon {s : State} (h : s.canon) : outKept (execHostLqtailWrite s) :=
  outKept_ite (outKept_next.2 h) (outKept_next.2 (State.ctlWrite_canon h ..))

theorem execLqcfgWrite_canon {s : State} (h : s.canon) : outKept (execLqcfgWrite s) := outKept_next.2 (State.ctlWrite_canon h ..)

theorem execLaunchRecordRead_canon {s : State} (h : s.canon) : outKept (execLaunchRecordRead s) :=
  outKept_ite (outKept_next.2 (State.takeRecord_canon h ..)) (outKept_next.2 h)

theorem execDependencesMet_canon {s : State} (h : s.canon) : outKept (execDependencesMet s) := by
  unfold execDependencesMet
  grind only [State.touchDeps_canon, State.dropTeam_canon, State.reject_canon, State.onTeam_canon, State.completeEmpty_canon, State.push_canon,
    State.nextHead_canon, State.startActor_canon, outKept_next]

theorem State.firstPlaced_canon {s : State} (h : s.canon) {ts : List Team} {t : Team} {r : Placed} (hr : s.firstPlaced ts = some (t, r)) : r.canon := by
  induction ts with
  | nil => exact nomatch hr
  | cons u ts ih =>
    rw [State.firstPlaced] at hr
    split at hr
    · exact ih hr
    · cases hr
      exact State.placeTeam_canon h _

theorem execFiringPlace_canon {s : State} (h : s.canon) : outKept (execFiringPlace s) := by
  have hp := fun ts t r => State.firstPlaced_canon h (ts := ts) (t := t) (r := r)
  unfold execFiringPlace
  dsimp only
  split
  · exact outKept_next.2 h
  · split
    · rename_i hr
      exact outKept_next.2 (maybe_canon (State.afterPlacing_canon (State.servedNow_canon (State.onTeam_canon (hp _ _ _ hr) ..) _) _) fun h => State.push_canon h ..)
    · rename_i hr
      exact outKept_next.2 (maybe_canon (State.holdTeam_canon (hp _ _ _ hr) ..) fun h => State.push_canon h ..)
    · exact outKept_next.2 h

theorem execTeamComplete_canon {s : State} (h : s.canon) : outKept (execTeamComplete s) := by
  unfold execTeamComplete
  grind only [State.complete_canon, outKept_next]

theorem execCheckSecondRun_canon {s : State} (h : s.canon) : outKept (execCheckSecondRun s) := by
  unfold execCheckSecondRun
  grind only [State.endFirst_canon, State.startActor_canon, State.push_canon, outKept_next]

theorem execActorFire_canon {s : State} (h : s.canon) : outKept (execActorFire s) := by
  unfold execActorFire
  grind only [State.push_canon, State.fireActor_canon, State.onTeam_canon, State.holdTeam_canon, Placed.canon, outKept_next]

theorem execMessageDispatch_canon {s : State} (h : s.canon) : outKept (execMessageDispatch s) := outKept_next.2 ((State.dispatch_canon h _).getD h)

theorem execMessageRefusalReturn_canon {s : State} (h : s.canon) : outKept (execMessageRefusalReturn s) := by
  unfold execMessageRefusalReturn
  grind only [State.onFiring_canon, State.errorLog_canon, outKept_next]

theorem execPriorityAge_canon {s : State} (h : s.canon) : outKept (execPriorityAge s) := outKept_next.2 (ite_canon h h)

theorem execQstallExpiry_canon {s : State} (h : s.canon) : outKept (execQstallExpiry s) := by
  unfold execQstallExpiry
  grind only [State.trapFiring_canon, outKept_next]

theorem execFewaitExpiry_canon {s : State} (h : s.canon) : outKept (execFewaitExpiry s) := by
  unfold execFewaitExpiry
  grind only [State.push_canon, State.withdrawFar_canon, outKept_next]

theorem execFeWithdrawal_canon {s : State} (h : s.canon) : outKept (execFeWithdrawal s) := by
  unfold execFeWithdrawal
  grind only [State.trapFiring_canon, outKept_next]

theorem execFeResend_canon {s : State} (h : s.canon) : outKept (execFeResend s) := outKept_next.2 (ite_canon h h)

theorem execBankOpArrive_canon {s : State} (h : s.canon) : outKept (execBankOpArrive s) := outKept_next.2 ((State.bankArrive_canon h ..).getD h)

theorem execBankOpResend_canon {s : State} (h : s.canon) : outKept (execBankOpResend s) := by
  unfold execBankOpResend
  grind only [State.onCore_canon, State.push_canon, State.send_canon, outKept_next, State.canon]

theorem execBankOpCopyDrop_canon {s : State} (h : s.canon) : outKept (execBankOpCopyDrop s) := by
  unfold execBankOpCopyDrop
  grind only [State.push_canon, outKept_next, State.canon]

theorem execLinkErrorReplay_canon {s : State} (h : s.canon) : outKept (execLinkErrorReplay s) := outKept_ite (outKept_next.2 h) (outKept_next.2 h)

theorem execRemoteAccessArrive_canon {s : State} (h : s.canon) : outKept (execRemoteAccessArrive s) := outKept_next.2 (ite_canon h h)

theorem execStoreMessagePerform_canon {s : State} (h : s.canon) : outKept (execStoreMessagePerform s) := by
  unfold execStoreMessagePerform
  grind only [State.trapFiring_canon, outKept_next, State.canon, Mem.wf_set]

theorem execRemoteRequestPerform_canon {s : State} (h : s.canon) : outKept (execRemoteRequestPerform s) := outKept_next.2 ((State.performNext_canon h _).getD h)

theorem execRemoteWriteAck_canon {s : State} (h : s.canon) : outKept (execRemoteWriteAck s) := by
  unfold execRemoteWriteAck
  grind only [State.bankAnswered_canon, State.push_canon, outKept_next, State.canon]

theorem execRangelockRegister_canon {s : State} (h : s.canon) : outKept (execRangelockRegister s) := outKept_next.2 (ite_canon h h)

theorem execCopySector_canon {s : State} (h : s.canon) : outKept (execCopySector s) := by
  unfold execCopySector
  grind only [State.asFiring_canon, State.sectorStep_canon, outKept_next]

theorem execCopyFault_canon {s : State} (h : s.canon) : outKept (execCopyFault s) := by
  unfold execCopyFault
  grind only [State.onFiring_canon, State.endCopy_canon, outKept_next]

theorem execCopyComplete_canon {s : State} (h : s.canon) : outKept (execCopyComplete s) := by
  unfold execCopyComplete
  grind only [State.endCopy_canon, outKept_next]

theorem execMmaStep_canon {s : State} (h : s.canon) : outKept (execMmaStep s) := by
  unfold execMmaStep
  grind only [State.arrayStep_canon, State.push_canon, outKept_next]

theorem execVectorBankLaneFault_canon {s : State} (h : s.canon) : outKept (execVectorBankLaneFault s) := outKept_next.2 (ite_canon h h)

theorem execAsyncReportTake_canon {s : State} (h : s.canon) : outKept (execAsyncReportTake s) := by
  unfold execAsyncReportTake
  grind only [State.onFiring_canon, State.trapFiring_canon, State.withdrawFar_canon, outKept_next]

theorem execTrapRecordAppend_canon {s : State} (h : s.canon) : outKept (execTrapRecordAppend s) := by
  unfold execTrapRecordAppend
  grind only [State.onFiring_canon, State.ringPut_canon, outKept_next]

theorem execErrorLogAppend_canon {s : State} (h : s.canon) : outKept (execErrorLogAppend s) := by
  unfold execErrorLogAppend
  grind only [State.onPart_canon, State.ringPut_canon, outKept_next]

theorem execTrheadWrite_canon {s : State} (h : s.canon) : outKept (execTrheadWrite s) := outKept_next.2 (State.ctlWrite_canon h ..)

theorem execFcmdResumePc_canon {s : State} (h : s.canon) : outKept (execFcmdResumePc s) := by
  unfold execFcmdResumePc
  grind only [State.onFiring_canon, outKept_next]

theorem execFcmdResumeUtvec_canon {s : State} (h : s.canon) : outKept (execFcmdResumeUtvec s) := by
  unfold execFcmdResumeUtvec
  grind only [State.onFiring_canon, State.withdraw_canon, outKept_next]

theorem execFcmdSave_canon {s : State} (h : s.canon) : outKept (execFcmdSave s) :=
  outKept_ite (outKept_next.2 h) (outKept_ite (outKept_next.2 (State.saveAll_canon h ..))
    (outKept_next.2 (foldl_canon (fun _ _ hs => State.withdrawFar_canon hs _) _ (State.pushWith_canon h ..))))

theorem execFcmdDiscard_canon {s : State} (h : s.canon) : outKept (execFcmdDiscard s) := by
  unfold execFcmdDiscard
  grind only [State.discardAll_canon, outKept_next]

theorem execFcmdKill_canon {s : State} (h : s.canon) : outKept (execFcmdKill s) := by
  unfold execFcmdKill
  grind only [State.killTeam_canon, State.discardAll_canon, outKept_next]

theorem execPreemptRequest_canon {s : State} (h : s.canon) : outKept (execPreemptRequest s) := outKept_next.2 (State.preemptStart_canon h ..)

theorem execResumeRequest_canon {s : State} (h : s.canon) : outKept (execResumeRequest s) := by
  unfold execResumeRequest
  grind only [State.resumeStart_canon, State.resumeStep_canon, State.push_canon, optKept, outKept_next]

theorem execPreemptDeadline_canon {s : State} (h : s.canon) : outKept (execPreemptDeadline s) := by
  unfold execPreemptDeadline
  dsimp only
  split
  · exact outKept_next.2 h
  · refine outKept_ite (outKept_next.2 h) (outKept_ite (outKept_next.2 (State.onPart_canon h ..)) (outKept_ite (outKept_next.2 (State.onPart_canon h ..)) (outKept_ite ?_ ?_)))
    · exact outKept_next.2 (State.push_canon (State.preemptStatus_canon (teamOr_canon (State.onPart_canon h ..) fun _ hs => State.onTeam_canon hs ..) ..) ..)
    · exact outKept_next.2 (foldl_canon (fun _ _ hs => State.withdrawFar_canon hs _) _ (State.onPart_canon h ..))

theorem execPreemptEnd_canon {s : State} (h : s.canon) : outKept (execPreemptEnd s) := by
  unfold execPreemptEnd
  grind only [State.onPart_canon, State.saveAll_canon, State.discardAll_canon, State.preemptStatus_canon, outKept_next]

theorem execDqstealServe_canon {s : State} (h : s.canon) : outKept (execDqstealServe s) := outKept_next.2 ((State.serveSteal_canon h _).getD h)

theorem execPageWalk_canon {s : State} (h : s.canon) : outKept (execPageWalk s) := by
  unfold execPageWalk
  grind only [State.translate_canon, optPairKept, outKept_next]

theorem execTlbinvWrite_canon {s : State} (h : s.canon) : outKept (execTlbinvWrite s) := outKept_next.2 (State.regWrite_canon h ..)

theorem execTlbinvComplete_canon {s : State} (h : s.canon) : outKept (execTlbinvComplete s) := by
  unfold execTlbinvComplete
  grind only [State.send_canon, State.onPart_canon, State.dropTlb_canon, outKept_next, State.canon]

theorem execPintWrite_canon {s : State} (h : s.canon) : outKept (execPintWrite s) := outKept_next.2 (State.regWrite_canon h ..)

theorem execMsccfgWrite_canon {s : State} (h : s.canon) : outKept (execMsccfgWrite s) := outKept_next.2 (State.regWrite_canon h ..)

theorem execMscChangeComplete_canon {s : State} (h : s.canon) : outKept (execMscChangeComplete s) := by
  unfold execMscChangeComplete
  dsimp only
  split
  · exact outKept_next.2 h
  · exact outKept_next.2 (State.onDie_canon (s := { s with mem := s.mem.filter _, full := s.full.filter _ }) (Mem.above_filter h _) ..)

theorem execLogRegisterWrite_canon {s : State} (h : s.canon) : outKept (execLogRegisterWrite s) := outKept_next.2 (State.ctlWrite_canon h ..)

theorem execRegisterWrite_canon {s : State} (h : s.canon) : outKept (execRegisterWrite s) := outKept_next.2 (State.regWrite_canon h ..)

theorem execDecisionArrive_canon {s : State} (h : s.canon) : outKept (execDecisionArrive s) := by
  unfold execDecisionArrive
  grind only [State.onFrond_canon, State.giveCredit_canon, outKept_next]

theorem execCreditReturn_canon {s : State} (h : s.canon) : outKept (execCreditReturn s) := by
  unfold execCreditReturn
  grind only [State.onFrond_canon, outKept_next]

theorem execPresenceDrop_canon {s : State} (h : s.canon) : outKept (execPresenceDrop s) := outKept_next.2 h

theorem execPortDownTimeout_canon {s : State} (h : s.canon) : outKept (execPortDownTimeout s) := outKept_ite (outKept_next.2 h) (outKept_next.2 h)

theorem State.withLost_canon {s : State} (h : s.canon) (l : List Nat) (ps : Vector Port 18) (xs : Vector Part 16) :
    State.canon { s with lost := l, ports := ps, parts := xs } := h

theorem execPeerLostDeclare_canon {s : State} (h : s.canon) : outKept (execPeerLostDeclare s) := by
  unfold execPeerLostDeclare
  dsimp only
  split
  · exact outKept_next.2 h
  · exact outKept_next.2 (foldl_canon (fun _ _ hs => State.push_canon (State.onFiring_canon hs ..) ..) _ (foldl_canon (fun _ _ hs => State.loseCopies_canon hs ..) _
      (State.dropUnacked_canon (State.withLost_canon h ..) _)))

theorem execRemotePoisonComplete_canon {s : State} (h : s.canon) : outKept (execRemotePoisonComplete s) := by
  unfold execRemotePoisonComplete
  split
  · exact outKept_next.2 h
  · split
    · exact outKept_next.2 h
    · exact outKept_next.2 (State.settled_canon (State.onFiring_canon (foldl_canon (fun _ _ hs => State.bankAnswered_canon hs ..) _ (State.dropped_canon h ..)) ..) _)

theorem execLaneFail_canon {s : State} (h : s.canon) : outKept (execLaneFail s) := outKept_ite (outKept_next.2 h) (outKept_next.2 h)

theorem execRetrainComplete_canon {s : State} (h : s.canon) : outKept (execRetrainComplete s) := outKept_next.2 h

theorem execAlctlWrite_canon {s : State} (h : s.canon) : outKept (execAlctlWrite s) := outKept_next.2 (State.regWrite_canon h ..)

theorem execAlkeygoWrite_canon {s : State} (h : s.canon) : outKept (execAlkeygoWrite s) := outKept_next.2 (State.regWrite_canon h ..)

theorem execKeySwitch_canon {s : State} (h : s.canon) : outKept (execKeySwitch s) := outKept_next.2 h

theorem execKeywarn_canon {s : State} (h : s.canon) : outKept (execKeywarn s) := outKept_next.2 h

theorem execKeystarved_canon {s : State} (h : s.canon) : outKept (execKeystarved s) := outKept_next.2 h

theorem execHostLinkLoss_canon {s : State} (h : s.canon) : outKept (execHostLinkLoss s) := outKept_next.2 h

theorem execHostLinkReturn_canon {s : State} (h : s.canon) : outKept (execHostLinkReturn s) := outKept_next.2 h

theorem execHostBar2Write_canon {s : State} (h : s.canon) : outKept (execHostBar2Write s) := outKept_ite (outKept_next.2 (State.hostPut_canon h ..)) (outKept_next.2 h)

theorem execHostBar4Write_canon {s : State} (h : s.canon) : outKept (execHostBar4Write s) := by
  unfold execHostBar4Write
  grind only [State.hostPut_canon, State.serveAll_canon, State.setFull_canon, outKept_next]

theorem execCxlPoison_canon {s : State} (h : s.canon) : outKept (execCxlPoison s) := outKept_next.2 h

theorem execCxlDeviceLoss_canon {s : State} (h : s.canon) : outKept (execCxlDeviceLoss s) := outKept_next.2 h

theorem execPowerGood_canon {s : State} (h : s.canon) : outKept (execPowerGood s) :=
  outKept_ite (outKept_next.2 (State.romVerify_canon (State.restarted_canon h ..) ..)) (outKept_next.2 h)

theorem execFullEnter_canon {s : State} (h : s.canon) : outKept (execFullEnter s) := by
  unfold execFullEnter
  grind only [State.initMemory_canon, outKept_next, State.canon]

theorem execIdent_canon {s : State} (h : s.canon) : outKept (execIdent s) := outKept_next.2 (State.cmdEnd_canon (State.reportBuf_canon h ..) ..)

theorem execHealth_canon {s : State} (h : s.canon) : outKept (execHealth s) := outKept_next.2 (State.cmdEnd_canon (State.reportBuf_canon h ..) ..)

theorem execThermal_canon {s : State} (h : s.canon) : outKept (execThermal s) := outKept_next.2 (State.cmdEnd_canon (State.reportBuf_canon h ..) ..)

theorem execResync_canon {s : State} (h : s.canon) : outKept (execResync s) := by
  unfold execResync
  grind only [State.cmdEnd_canon, outKept_next, State.canon, Mem.wf_writeDwords]

theorem execFwload_canon {s : State} (h : s.canon) : outKept (execFwload s) := by
  unfold execFwload
  grind only [State.cmdEnd_canon, outKept_next, State.canon]

theorem execKeyload_canon {s : State} (h : s.canon) : outKept (execKeyload s) := by
  unfold execKeyload
  grind only [State.cmdEnd_canon, State.nextFree_canon, State.stageKey_canon, outKept_next]

theorem execReset_canon {s : State} (h : s.canon) : outKept (execReset s) :=
  outKept_next.2 (State.romVerify_canon (State.restarted_canon (State.endAll_canon h ..) ..) ..)

theorem execThermalTrip_canon {s : State} (h : s.canon) : outKept (execThermalTrip s) := outKept_next.2 (State.deviceFault_canon h ..)

theorem execHbmDieLoss_canon {s : State} (h : s.canon) : outKept (execHbmDieLoss s) := outKept_next.2 (State.deviceFault_canon h ..)

theorem execLockstepMismatch_canon {s : State} (h : s.canon) : outKept (execLockstepMismatch s) :=
  outKept_next.2 (ite_canon (State.readoptFail_canon h ..) (State.readopt_canon h ..))

theorem execReadoptionTimeout_canon {s : State} (h : s.canon) : outKept (execReadoptionTimeout s) :=
  outKept_ite (outKept_next.2 (State.readoptFail_canon h ..)) (outKept_next.2 h)

theorem execReadoptionComplete_canon {s : State} (h : s.canon) : outKept (execReadoptionComplete s) := outKept_next.2 h

theorem execUncorrectableError_canon {s : State} (h : s.canon) : outKept (execUncorrectableError s) := by
  unfold execUncorrectableError
  dsimp only
  split
  · exact outKept_next.2 (maybe_canon h fun h => State.readopt_canon h ..)
  · exact outKept_next.2 (foldl_canon (fun _ _ hs => State.strike_canon hs _) _ h)

theorem execPowerCapBreach_canon {s : State} (h : s.canon) : outKept (execPowerCapBreach s) := outKept_next.2 h

theorem execMarkerAcknowledged_canon {s : State} (h : s.canon) : outKept (execMarkerAcknowledged s) := outKept_next.2 (ite_canon h h)

theorem execShinvComplete_canon {s : State} (h : s.canon) : outKept (execShinvComplete s) := by
  unfold execShinvComplete
  grind only [State.send_canon, State.onFiring_canon, outKept_next, State.canon]

theorem execBankOpResponseArrive_canon {s : State} (h : s.canon) : outKept (execBankOpResponseArrive s) := by
  unfold execBankOpResponseArrive
  grind only [State.push_canon, State.onCore_canon, outKept_next]

theorem execBankTagFree_canon {s : State} (h : s.canon) : outKept (execBankTagFree s) := outKept_next.2 h

theorem execOwnerAnswerArrive_canon {s : State} (h : s.canon) : outKept (execOwnerAnswerArrive s) :=
  outKept_ite (outKept_next.2 (State.answer_canon h ..)) (outKept_next.2 (State.copyAnswer_canon h ..))

theorem execCommandComplete_canon {s : State} (h : s.canon) : outKept (execCommandComplete s) := outKept_ite (outKept_next.2 h) (outKept_next.2 h)

theorem execModuleInsertion_canon {s : State} (h : s.canon) : outKept (execModuleInsertion s) := outKept_next.2 h

theorem execPowerLoss_canon {s : State} (h : s.canon) : outKept (execPowerLoss s) := outKept_next.2 (State.restarted_canon h ..)

end Sys2Proof.Machine
end

section
/-! PROOF. O56: every step keeps memory canonical. -/

namespace Sys2Proof.Machine
set_option Elab.async false

theorem intOp_canon {i : Instr} {d : BitVec 6} {g : State → Word} {s : State} (h : s.canon) : outKept (intOp i d g s) := plain_kept h (State.wx_canon h ..)

theorem floatOp_canon {i : Instr} {d : BitVec 6} {g : State → Nat × Nat} {s : State} (h : s.canon) : outKept (floatOp i d g s) :=
  plain_kept h (State.upd_canon (State.wx_canon h ..) _)

/-- Every instruction and every event leaves memory canonical. -/
theorem exec_canon (i : Instr) {s : State} (h : s.canon) : outKept (exec i s) := by
  unfold exec
  cases i with
  | add | sub | and | or | xor | andn | sll | srl | sra | slt | sltu | min | max | minu | maxu | clz | ctz | popc | rol | ror | addi | andi | ori |
    xori | slli | srli | srai | slti | sltiu | lui | adrp | mul | mulh | mulhu | mulhsu | div | divu | rem | remu | sel => exact intOp_canon h
  | fadd | fsub | fmul | fdiv | fsqrt | fcvt | fmin | fmax | fsgnj | fsgnjn | fsgnjx | feq | flt | fle | fclass | fmadd | fmsub | fnmadd | fnmsub => exact floatOp_canon h
  | beq | bne | blt | bge | bltu | bgeu | beqz | bnez => exact branchOp_canon h _ _ _
  | phase | gbar => exact meetOp_canon _ _ _ h
  | vld | vlds => exact vecLoad_canon _ _ _ _ _ _ _ h
  | vst | vsts => exact vecStore_canon _ _ _ _ _ _ h
  | amoadd | amoand | amoor | amoxor | amomin | amomax | amominu | amomaxu | amoswp | amocas => exact amoOp_canon _ _ _ _ _ _ h
  | amofadd | amofmin | amofmax => exact famoOp_canon _ _ _ _ _ _ h
  | vamoadd | vamomin | vamomax | vxcadd => exact vamoOp_canon _ _ _ _ _ _ _ h
  | vadd | vsub | vmul | vdiv | vmin | vmax | vabs | vneg | vsgnj | vfmadd | vfmsub | vfnmadd | vfnmsub | vaddx | vsubx | vmulx | vdivx | vminx |
    vmaxx | vexp | vlog | vrcp | vrsqrt | vtanh | vsqrt | vipopc | vperm | vslideup | vslidedn | vmov | vbcast | vspdraw | vspuni | vspexp | vgumb => exact vecOp_canon _ _ _ _ _ h
  | viadd | visub | vimul | vimulh | viand | vior | vixor | visll | visrl | visra | vimin | vimax | viaddSat | visubSat => exact vint3_canon _ _ _ _ _ _ _ h
  | viaddx | visubx | vimulx | viandx | viorx | vixorx | visllx | visrlx | visrax => exact vintx_canon _ _ _ _ _ _ _ h
  | vredsum | vredmax | vredmin => exact redOp_canon _ _ _ _ _ _ h
  | kand | kor | kxor | knot | kmov => exact maskOp_canon _ _ _ h
  | csrw | csrs | csrc => exact csrOp_canon _ _ _ _ _ _ h
  | btclo | btcomp | bttr | btand | btor | btxor | btandn | btnot => exact tileOp_canon _ _ _ h
  | rate | ratea => exact rateOp_canon _ _ _ h
  | movxRead => exact execMovxRead_canon _ _ _ h
  | movxWrite => exact execMovxWrite_canon _ _ _ h
  | jal => exact execJal_canon _ _ h
  | jalr => exact execJalr_canon _ _ _ h
  | loopn => exact execLoopn_canon _ _ h
  | rep => exact execRep_canon _ _ _ _ h
  | gang => exact execGang_canon _ h
  | launch => exact execLaunch_canon _ _ _ h
  | join => exact execJoin_canon _ _ h
  | leave => exact execLeave_canon _ h
  | sget => exact execSget_canon _ h
  | hswait => exact execHswait_canon _ _ _ h
  | hstry => exact execHstry_canon _ _ _ h
  | hspost => exact execHspost_canon _ _ h
  | hsset => exact execHsset_canon _ _ h
  | hsrd => exact execHsrd_canon _ _ h
  | ld => exact execLd_canon _ _ _ _ h
  | st => exact execSt_canon _ _ _ _ h
  | ldfe => exact execLdfe_canon _ _ _ _ h
  | stfe => exact execStfe_canon _ _ _ _ h
  | vldx => exact execVldx_canon _ _ _ _ _ h
  | vstx => exact execVstx_canon _ _ _ _ _ h
  | ldt => exact execLdt_canon _ _ _ _ _ h
  | vldt => exact execVldt_canon _ _ _ _ _ h
  | stt => exact execStt_canon _ _ _ _ _ h
  | vstt => exact execVstt_canon _ _ _ _ _ h
  | shinv => exact execShinv_canon _ _ h
  | shloc => exact execShloc_canon _ _ _ h
  | rel => exact execRel_canon _ h
  | acq => exact execAcq_canon _ h
  | fence => exact execFence_canon _ h
  | xcadd => exact execXcadd_canon _ _ _ h
  | xcrd => exact execXcrd_canon _ _ _ h
  | xcclr => exact execXcclr_canon _ h
  | xcrdclr => exact execXcrdclr_canon _ _ _ h
  | vbsum => exact execVbsum_canon _ _ _ _ h
  | qget => exact execQget_canon _ _ h
  | qput => exact execQput_canon _ _ h
  | vqget => exact execVqget_canon _ _ h
  | vqput => exact execVqput_canon _ _ h
  | qcnt => exact execQcnt_canon _ _ h
  | send => exact execSend_canon _ _ _ h
  | sendv => exact execSendv_canon _ _ _ h
  | cwr => exact execCwr_canon _ _ h
  | cgo => exact execCgo_canon _ h
  | cwp => exact execCwp_canon _ _ h
  | crd => exact execCrd_canon _ _ h
  | txinit => exact execTxinit_canon _ _ h
  | txarr => exact execTxarr_canon _ _ h
  | txexp => exact execTxexp_canon _ _ h
  | txwait => exact execTxwait_canon _ _ h
  | txtry => exact execTxtry_canon _ _ _ h
  | dqpush => exact execDqpush_canon _ _ h
  | dqpop => exact execDqpop_canon _ h
  | dqsteal => exact execDqsteal_canon _ _ h
  | vredq => exact execVredq_canon _ _ _ _ _ h
  | vcmp => exact execVcmp_canon _ _ _ _ _ _ h
  | vcompress => exact execVcompress_canon _ _ _ h
  | vins => exact execVins_canon _ _ _ _ h
  | vext => exact execVext_canon _ _ _ _ _ h
  | kset => exact execKset_canon _ _ h
  | kpopc => exact execKpopc_canon _ _ h
  | vcvt => exact execVcvt_canon _ _ _ _ _ _ h
  | vcvto => exact execVcvto_canon _ _ _ _ _ _ h
  | vplane => exact execVplane_canon _ _ h
  | vunplane => exact execVunplane_canon _ _ h
  | fmt => exact execFmt_canon _ _ _ _ _ _ h
  | spdraw => exact execSpdraw_canon _ _ _ _ h
  | spuni => exact execSpuni_canon _ _ _ _ h
  | spexp => exact execSpexp_canon _ _ _ _ h
  | digest => exact execDigest_canon _ _ h
  | digestm => exact execDigestm_canon _ _ _ h
  | mma => exact execMma_canon _ _ _ _ _ _ _ _ h
  | accrd => exact execAccrd_canon _ _ _ _ h
  | acczero => exact execAcczero_canon _ h
  | accld => exact execAccld_canon _ _ h
  | accst => exact execAccst_canon _ _ h
  | accstat => exact execAccstat_canon _ _ _ h
  | accswp => exact execAccswp_canon _ _ h
  | tld => exact execTld_canon _ _ _ _ h
  | tst => exact execTst_canon _ _ _ _ h
  | tzero => exact execTzero_canon _ h
  | tmov => exact execTmov_canon _ _ h
  | ocmp => exact execOcmp_canon _ _ _ _ _ _ h
  | trap => exact execTrap_canon _ h
  | gangend => exact execGangend_canon h
  | retire => exact execRetire_canon h
  | sput => exact execSput_canon h
  | tret => exact execTret_canon h
  | halt => exact execHalt_canon h
  | loadDataReturn => exact execLoadDataReturn_canon h
  | gatherLaneReturn => exact execGatherLaneReturn_canon h
  | hostLqtailWrite => exact execHostLqtailWrite_canon h
  | lqcfgWrite => exact execLqcfgWrite_canon h
  | launchRecordRead => exact execLaunchRecordRead_canon h
  | dependencesMet => exact execDependencesMet_canon h
  | firingPlace => exact execFiringPlace_canon h
  | teamComplete => exact execTeamComplete_canon h
  | checkSecondRun => exact execCheckSecondRun_canon h
  | actorFire => exact execActorFire_canon h
  | messageDispatch => exact execMessageDispatch_canon h
  | messageRefusalReturn => exact execMessageRefusalReturn_canon h
  | priorityAge => exact execPriorityAge_canon h
  | qstallExpiry => exact execQstallExpiry_canon h
  | fewaitExpiry => exact execFewaitExpiry_canon h
  | feWithdrawal => exact execFeWithdrawal_canon h
  | feResend => exact execFeResend_canon h
  | bankOpArrive => exact execBankOpArrive_canon h
  | bankOpResend => exact execBankOpResend_canon h
  | bankOpCopyDrop => exact execBankOpCopyDrop_canon h
  | linkErrorReplay => exact execLinkErrorReplay_canon h
  | remoteAccessArrive => exact execRemoteAccessArrive_canon h
  | storeMessagePerform => exact execStoreMessagePerform_canon h
  | remoteRequestPerform => exact execRemoteRequestPerform_canon h
  | remoteWriteAck => exact execRemoteWriteAck_canon h
  | rangelockRegister => exact execRangelockRegister_canon h
  | copySector => exact execCopySector_canon h
  | copyFault => exact execCopyFault_canon h
  | copyComplete => exact execCopyComplete_canon h
  | mmaStep => exact execMmaStep_canon h
  | vectorBankLaneFault => exact execVectorBankLaneFault_canon h
  | asyncReportTake => exact execAsyncReportTake_canon h
  | trapRecordAppend => exact execTrapRecordAppend_canon h
  | errorLogAppend => exact execErrorLogAppend_canon h
  | trheadWrite => exact execTrheadWrite_canon h
  | fcmdResumePc => exact execFcmdResumePc_canon h
  | fcmdResumeUtvec => exact execFcmdResumeUtvec_canon h
  | fcmdSave => exact execFcmdSave_canon h
  | fcmdDiscard => exact execFcmdDiscard_canon h
  | fcmdKill => exact execFcmdKill_canon h
  | preemptRequest => exact execPreemptRequest_canon h
  | resumeRequest => exact execResumeRequest_canon h
  | preemptDeadline => exact execPreemptDeadline_canon h
  | preemptEnd => exact execPreemptEnd_canon h
  | dqstealServe => exact execDqstealServe_canon h
  | pageWalk => exact execPageWalk_canon h
  | tlbinvWrite => exact execTlbinvWrite_canon h
  | tlbinvComplete => exact execTlbinvComplete_canon h
  | pintWrite => exact execPintWrite_canon h
  | msccfgWrite => exact execMsccfgWrite_canon h
  | mscChangeComplete => exact execMscChangeComplete_canon h
  | logRegisterWrite => exact execLogRegisterWrite_canon h
  | registerWrite => exact execRegisterWrite_canon h
  | decisionArrive => exact execDecisionArrive_canon h
  | creditReturn => exact execCreditReturn_canon h
  | presenceDrop => exact execPresenceDrop_canon h
  | portDownTimeout => exact execPortDownTimeout_canon h
  | peerLostDeclare => exact execPeerLostDeclare_canon h
  | remotePoisonComplete => exact execRemotePoisonComplete_canon h
  | laneFail => exact execLaneFail_canon h
  | retrainComplete => exact execRetrainComplete_canon h
  | alctlWrite => exact execAlctlWrite_canon h
  | alkeygoWrite => exact execAlkeygoWrite_canon h
  | keySwitch => exact execKeySwitch_canon h
  | keywarn => exact execKeywarn_canon h
  | keystarved => exact execKeystarved_canon h
  | hostLinkLoss => exact execHostLinkLoss_canon h
  | hostLinkReturn => exact execHostLinkReturn_canon h
  | hostBar2Write => exact execHostBar2Write_canon h
  | hostBar4Write => exact execHostBar4Write_canon h
  | cxlPoison => exact execCxlPoison_canon h
  | cxlDeviceLoss => exact execCxlDeviceLoss_canon h
  | powerGood => exact execPowerGood_canon h
  | fullEnter => exact execFullEnter_canon h
  | ident => exact execIdent_canon h
  | health => exact execHealth_canon h
  | thermal => exact execThermal_canon h
  | resync => exact execResync_canon h
  | fwload => exact execFwload_canon h
  | keyload => exact execKeyload_canon h
  | reset => exact execReset_canon h
  | thermalTrip => exact execThermalTrip_canon h
  | hbmDieLoss => exact execHbmDieLoss_canon h
  | lockstepMismatch => exact execLockstepMismatch_canon h
  | readoptionTimeout => exact execReadoptionTimeout_canon h
  | readoptionComplete => exact execReadoptionComplete_canon h
  | uncorrectableError => exact execUncorrectableError_canon h
  | powerCapBreach => exact execPowerCapBreach_canon h
  | markerAcknowledged => exact execMarkerAcknowledged_canon h
  | shinvComplete => exact execShinvComplete_canon h
  | bankOpResponseArrive => exact execBankOpResponseArrive_canon h
  | bankTagFree => exact execBankTagFree_canon h
  | ownerAnswerArrive => exact execOwnerAnswerArrive_canon h
  | commandComplete => exact execCommandComplete_canon h
  | moduleInsertion => exact execModuleInsertion_canon h
  | powerLoss => exact execPowerLoss_canon h
  | btpopr => exact execBtpopr_canon _ _ h
  | btpopc => exact execBtpopc_canon _ _ h
  | btrowk => exact execBtrowk_canon _ _ _ h
  | btcolk => exact execBtcolk_canon _ _ _ h
  | btkrow => exact execBtkrow_canon _ _ _ h
  | btkcol => exact execBtkcol_canon _ _ _ h
  | btld => exact execBtld_canon _ _ h
  | btst => exact execBtst_canon _ _ h
  | sinit => exact execSinit_canon _ h
  | nextev => exact execNextev_canon _ _ h
  | swrd => exact execSwrd_canon _ _ _ h
  | sclk => exact execSclk_canon _ h
  | binit => exact execBinit_canon _ h
  | bdec => exact execBdec_canon _ _ h
  | brecv => exact execBrecv_canon _ _ h
  | hint => exact execHint_canon _ h

theorem State.event_canon {s : State} (h : s.canon) (e : Ev) : outKept (s.event e) :=
  outKept_ite (exec_canon e.op (s := { s with ev := e }) h) (outKept_next.2 h)

theorem State.runFrame_canon {s : State} (h : s.canon) (w : BitVec 32) : outKept (s.runFrame w) := by
  unfold State.runFrame
  refine outKept_ite (State.illCancel_canon h w) ?_
  split
  · exact State.illAt_canon h w
  · refine outKept_ite (State.illCancel_canon h w) (outKept_ite (State.illAt_canon h w) ?_)
    split
    · exact outKept_next.2 (State.trapHere_canon h _)
    · exact exec_canon _ h

theorem State.runWord_canon {s : State} (h : s.canon) (w : BitVec 32) : outKept (s.runWord w) := by
  unfold State.runWord
  refine outKept_ite (State.runFrame_canon h w) ?_
  split
  · exact exec_canon _ h
  · exact State.illAt_canon h w

theorem State.runNext_canon {s : State} (h : s.canon) : outKept s.runNext := by
  have hw := State.wordAt_canon h s.fir.pc
  unfold State.runNext
  split
  · exact outKept_next.2 (State.trapHere_canon h _)
  · rename_i hr
    exact State.runWord_canon (hw.of_ok hr) _

theorem State.runMembers_canon (w : BitVec 32) {s : State} (h : s.canon) (fs : List (Nat × Pending)) (ns : List Nat) : (State.runMembers w s fs ns).1.canon := by
  induction ns generalizing s fs with
  | nil => exact h
  | cons n ns ih => exact ih (after_canon h (State.runWord_canon (State.focus_canon h n) w)) _

theorem State.gangLoop_canon (w : BitVec 32) (k : Nat) {s : State} (h : s.canon) (ns : List Nat) : (State.gangLoop w k s ns).1.canon := by
  induction k generalizing s ns with
  | zero => exact h
  | succ k ih =>
    have hm := State.runMembers_canon w h [] (ns.filter fun n => (s.firing? n).any fun f => f.wait.any fun x => !x.byEvent)
    unfold State.gangLoop
    dsimp only
    split
    · exact hm
    · exact ih hm _

theorem State.gangStep_canon {s : State} (h : s.canon) (g : Gang) : (s.gangStep g).canon := by
  unfold State.gangStep
  dsimp only
  split
  · exact h
  · rename_i lead _
    have h0 := State.gangPut_canon (State.focus_canon h lead) g (s.gangAt g).1
    have hw := State.wordAt_canon h0 (s.gangAt g).1.1
    split
    · exact State.breakGang_canon h0 ..
    · have hu := State.onGang_canon (hw.of_ok ‹_›) g fun h => { h with steps := inSteps ‹_› }
      have hm := fun fs ns => State.runMembers_canon ‹_› hu fs ns
      refine ite_canon (State.breakGang_canon hu ..) (ite_canon (State.breakGang_canon hu ..) (ite_canon (State.onGang_canon (State.gangLoop_canon _ _ (hm ..) _) ..)
        (ite_canon (State.gangLoop_canon _ _ (hm ..) _) (ite_canon (State.breakGang_canon hu ..) (hm ..)))))

theorem State.input_canon {s : State} (h : s.canon) (x : Input) : outKept (s.input x) := by
  cases x with
  | event e => exact outKept_ite (outKept_next.2 h) (State.event_canon h e)
  | request r => exact outKept_next.2 (ite_canon (State.push_canon (s := { s with inreqs := s.inreqs ++ [{ r with again := false }] }) h ..) h)
  | shinv pkg adm part k => exact outKept_next.2 (ite_canon (State.peerShinv_canon h ..) h)
  | tlbinv pkg part w => exact outKept_next.2 (ite_canon (State.peerTlbinv_canon h ..) h)
  | message m => exact outKept_next.2 (ite_canon (State.push_canon (State.onCore_canon h ..) ..) h)
  | evict k dword => exact outKept_next.2 (State.evict_canon h ..)
  | hostRead w off n => exact outKept_next.2 (State.hostRead_canon h ..)
  | vfWrite p off v => exact outKept_next.2 (State.vfWrite_canon h ..)
  | fwall rs => exact outKept_next.2 (ite_canon h h)
  | limits p m eth cxl vf => exact outKept_next.2 (ite_canon h h)
  | firmware key n v => exact outKept_next.2 (ite_canon (State.firmware_canon h ..) h)
  | tlbDrop d p va => exact outKept_next.2 (State.onDie_canon h ..)
  | shardDrop d k => exact outKept_next.2 (State.onDie_canon h ..)

theorem State.make_canon {s : State} (h : s.canon) (m : Move) : outKept (s.make m) := by
  cases m with
  | unit e => exact State.event_canon (s := { s with agenda := s.agenda.erase e }) h e
  | issue n => exact State.runNext_canon (State.focus_canon h n)
  | report n => exact State.event_canon h _
  | gang g => exact outKept_next.2 (State.gangStep_canon h g)

theorem step_canon {s : State} (h : s.canon) : outKept (step s) := by
  unfold step State.advanceOne
  split
  · rename_i x xs _
    exact State.input_canon (s := { s with inbox := xs }) h _
  · split
    · exact outKept_next.2 h
    · exact State.make_canon h _
    · exact State.make_canon (State.nextFree_canon h) _

/-- Settles O56: every instruction and every event keeps memory canonical, and a step runs one of them. -/
theorem memoryForm : Obligations.MemoryForm := by
  unfold Obligations.MemoryForm
  exact fun s t h ht => step_canon h t ht

end Sys2Proof.Machine
end
